-- ==== Sys2Proof/Word.lean ====
section
/-!
DEFINITION. The word types of the Isanis and their plainest arithmetic (R8, R190).
-/
namespace Sys2Proof

/-- A 64-bit scalar register, CSR or virtual address. -/
abbrev Word := BitVec 64
/-- One byte. -/
abbrev Byte := BitVec 8
/-- A register number. -/
abbrev Reg := BitVec 5

/-- Sign extension of the low `w` bits of `v` to a word. -/
def sextTo (w : Nat) (v : Nat) : Word := ((BitVec.ofNat w v).signExtend 64)

/-- The signed value of the low `w` bits of `v`. -/
def toSigned (w : Nat) (v : Nat) : Int := (BitVec.ofNat w v).toInt

/-- The `w`-bit code of an integer (R190: operations wrap modulo 2^w). -/
def ofSigned (w : Nat) (i : Int) : Nat := (BitVec.ofInt w i).toNat

end Sys2Proof
end

