-- ==== Sys2Proof/Syntax.lean ====
section
/-!
DEFINITION. The syntax of the Isanis: the standard operations by name, the data that the steps of other agents bring,
and `Instr`, one constructor for each row of spec/opcode_table.json.
-/
namespace Sys2Proof

/-- Register-register operations of OP and OP-32, with M's multiplies, Zba and Zbb (R217). -/
inductive RROp where
  | add | sub | sll | slt | sltu | xor | srl | sra | or | and
  | addw | subw | sllw | srlw | sraw
  | mul | mulh | mulhsu | mulhu | mulw
  | sh1add | sh2add | sh3add | adduw | sh1adduw | sh2adduw | sh3adduw
  | andn | orn | xnor | min | max | minu | maxu | rol | ror | rolw | rorw
deriving DecidableEq, Repr

/-- One-source operations of Zbb (R217). -/
inductive UnOp where
  | clz | ctz | cpop | clzw | ctzw | cpopw | sextb | sexth | zexth | rev8 | orcb
deriving DecidableEq, Repr

/-- Register-immediate operations (R217). -/
inductive ImmOp where
  | addi | slti | sltiu | xori | ori | andi | addiw
deriving DecidableEq, Repr

/-- Shifts by an immediate of 6 bits (R217). -/
inductive ShOp where
  | slli | srli | srai | rori | slliuw
deriving DecidableEq, Repr

/-- Word shifts by an immediate of 5 bits (R217). -/
inductive ShWOp where
  | slliw | srliw | sraiw | roriw
deriving DecidableEq, Repr

/-- Branch conditions (R217). -/
inductive BrOp where
  | beq | bne | blt | bge | bltu | bgeu
deriving DecidableEq, Repr

/-- The scalar floating formats of F and D (R217). -/
inductive FFmt where
  | s | d
deriving DecidableEq, Repr

/-- F and D operations of two sources that round. -/
inductive FArith where
  | add | sub | mul
deriving DecidableEq, Repr

/-- F and D fused operations. -/
inductive FFused where
  | madd | msub | nmsub | nmadd
deriving DecidableEq, Repr

/-- F and D operations of two sources without rounding and with an f result. -/
inductive FPair where
  | sgnj | sgnjn | sgnjx | min | max
deriving DecidableEq, Repr

/-- F and D compares. -/
inductive FCmp where
  | le | lt | eq
deriving DecidableEq, Repr

/-- Integer sides of F and D conversions. -/
inductive FInt where
  | w | wu | l | lu
deriving DecidableEq, Repr

/-- Standard instructions with a fixed result (R170): integer, multiply, branch, jump and F/D arithmetic. -/
inductive AluInstr where
  | rr (op : RROp) (d a b : Reg)
  | un (op : UnOp) (d a : Reg)
  | imm (op : ImmOp) (d a : Reg) (i : BitVec 12)
  | sh (op : ShOp) (d a : Reg) (n : BitVec 6)
  | shw (op : ShWOp) (d a : Reg) (n : BitVec 5)
  | lui (d : Reg) (i : BitVec 20)
  | auipc (d : Reg) (i : BitVec 20)
  /-- `off` is bits [12:1] of the branch offset. -/
  | branch (op : BrOp) (a b : Reg) (off : BitVec 12)
  /-- `off` is bits [20:1] of the jump offset. -/
  | jal (d : Reg) (off : BitVec 20)
  | jalr (d a : Reg) (i : BitVec 12)
  | farith (op : FArith) (f : FFmt) (rm : BitVec 3) (d a b : Reg)
  | ffused (op : FFused) (f : FFmt) (rm : BitVec 3) (d a b c : Reg)
  | fpair (op : FPair) (f : FFmt) (d a b : Reg)
  | fcmp (op : FCmp) (f : FFmt) (d a b : Reg)
  /-- Floating to integer register. -/
  | ftoi (t : FInt) (f : FFmt) (rm : BitVec 3) (d a : Reg)
  /-- Integer register to floating. -/
  | itof (f : FFmt) (t : FInt) (rm : BitVec 3) (d a : Reg)
  /-- FCVT.S.D (`f = s`) and FCVT.D.S (`f = d`). -/
  | fcvt (f : FFmt) (rm : BitVec 3) (d a : Reg)
  /-- FMV.X.W and FMV.X.D. -/
  | fmvx (f : FFmt) (d a : Reg)
  /-- FMV.W.X and FMV.D.X. -/
  | fmvf (f : FFmt) (d a : Reg)
  | fclass (f : FFmt) (d a : Reg)
deriving DecidableEq, Repr

/-- Divides and remainders of M (R217). -/
inductive DivOp where
  | div | divu | rem | remu | divw | divuw | remw | remuw
deriving DecidableEq, Repr

/-- Standard loads, with FLW and FLD (R218). -/
inductive LoadOp where
  | lb | lh | lw | ld | lbu | lhu | lwu | flw | fld
deriving DecidableEq, Repr

/-- Standard stores, with FSW and FSD (R218). -/
inductive StoreOp where
  | sb | sh | sw | sd | fsw | fsd
deriving DecidableEq, Repr

/-- AMO operations of A (R217). -/
inductive AmoOp where
  | swap | add | xor | and | or | min | max | minu | maxu
deriving DecidableEq, Repr

/-- Zicsr operations. -/
inductive CsrOp where
  | rw | rs | rc
deriving DecidableEq, Repr

/-- The kind of an access, which selects the cause of its faults (R14, R30). -/
inductive AccKind where
  | fetch | load | store
deriving DecidableEq, Repr

/-- An agent that rejoins after a reset (R82). -/
inductive Rejoiner where
  | quad (q : Nat) | engine (q : Nat) | link (l : Nat)
deriving DecidableEq, Repr

/-- Who writes a register of the MMIO window (R434). -/
inductive Writer where
  | hartU | hartS (part : Nat) | chinook | quince | host
deriving DecidableEq, Repr

/-- Sources of the external interrupt (R408). -/
inductive ExtSource where
  | errorLog | linkChange | mistral
deriving DecidableEq, Repr

/-- The firmware images of R411. -/
inductive FwImage where
  | quince | chinook | mistral | security
deriving DecidableEq, Repr

/-- What a UCIe module trains to (R401). -/
inductive UcieRate where
  | failed | gt4 | gt8 | gt16 | gt32
deriving DecidableEq, Repr

/-- A task descriptor as it is read (R248). -/
structure TaskDesc where
  pc : Word
  args : List Word
  key : BitVec 32
  cls : BitVec 3
  vrg : BitVec 2
  tbud : BitVec 9
  /-- The reserved bits [17:0] of word 7. -/
  rsv : BitVec 18
deriving DecidableEq, Repr

/-- The data a step of another agent brings: which agent acts and with what. Each such row reads the fields its meaning
names; the others are ignored. -/
structure EvArg where
  /-- A hart. -/
  h : Nat := 0
  /-- A quad, or a task queue. -/
  q : Nat := 0
  /-- A position in a list of work, or a register number. -/
  k : Nat := 0
  /-- A bank, way or transfer. -/
  w : Nat := 0
  /-- A die, partition, link, function, interface, module or core. -/
  p : Nat := 0
  /-- A device physical address, page, line, host physical address or guest physical address. -/
  addr : Nat := 0
  /-- A number of bytes, or a second amount. -/
  size : Nat := 0
  /-- A value written, or a virtual address. -/
  v : Word := 0
  /-- The event's yes or no. -/
  b : Bool := false
  /-- A second yes or no. -/
  c : Bool := false
  acc : AccKind := .load
  /-- Bytes written, if any. -/
  bytes : Option (List Byte) := none
  desc : TaskDesc := ⟨0, [], 0, 0, 0, 0, 0⟩
  /-- Sensor codes, one per quad sensor. -/
  codes : List Int := []
  /-- Sensors that answer nothing. -/
  stuck : List Nat := []
  rejoin : Rejoiner := .quad 0
  writer : Writer := .quince
  src : ExtSource := .errorLog
  img : FwImage := .quince
  rate : UcieRate := .failed
deriving DecidableEq, Repr

/-- The instructions and steps of the Isanis: one constructor for each row of the opcode table. The fields of an encoded
row are its table fields, high bits first: `p` predicate, `e` element-type bits, `a b c d s` registers, `t u` take bits or
flags, `i` immediate. Rows without a word are the steps of the device's other agents (95_what_each_step_holds.md); their
data stands in `State.ev` when they run. Constructors with fields come first. -/
inductive Instr where
  -- standard RISC-V rows (R217, R218)
  /-- SCALAR_ALU (R170). -/
  | scalarAlu (a : AluInstr)
  /-- INTEGER_DIVIDE (R170). -/
  | integerDivide (op : DivOp) (d a b : Reg)
  /-- FP_DIVIDE_SQRT (R170). -/
  | fpDivideSqrt (sqrt : Bool) (fmt : FFmt) (rm : BitVec 3) (d a b : Reg)
  /-- SCALAR_LOAD (R218). -/
  | scalarLoad (op : LoadOp) (d a : Reg) (imm : BitVec 12)
  /-- SCALAR_STORE (R218). -/
  | scalarStore (op : StoreOp) (a b : Reg) (imm : BitVec 12)
  /-- AMO (R74). -/
  | amo (op : AmoOp) (dbl aq rl : Bool) (d a b : Reg)
  /-- LR (R266). -/
  | lr (dbl aq rl : Bool) (d a : Reg)
  /-- SC (R266). -/
  | sc (dbl aq rl : Bool) (d a b : Reg)
  /-- FENCE (R124). -/
  | fence (fm pred succ : BitVec 4)
  /-- SFENCE_VMA (R34). -/
  | sfenceVma (b : Reg) (a : Reg)
  /-- CSR_ACCESS (R259). -/
  | csrAccess (op : CsrOp) (imm : Bool) (csr : BitVec 12) (d a : Reg)
  -- custom-0, page 000: taking forms (R224)
  /-- TAKING_ADD (R224). -/
  | takingAdd (u : Bool) (t : Bool) (b : Reg) (a : Reg) (d : Reg)
  /-- TAKING_SUB (R224). -/
  | takingSub (u : Bool) (t : Bool) (b : Reg) (a : Reg) (d : Reg)
  /-- TAKING_SLL (R224). -/
  | takingSll (u : Bool) (t : Bool) (b : Reg) (a : Reg) (d : Reg)
  /-- TAKING_SLT (R224). -/
  | takingSlt (u : Bool) (t : Bool) (b : Reg) (a : Reg) (d : Reg)
  /-- TAKING_SLTU (R224). -/
  | takingSltu (u : Bool) (t : Bool) (b : Reg) (a : Reg) (d : Reg)
  /-- TAKING_XOR (R224). -/
  | takingXor (u : Bool) (t : Bool) (b : Reg) (a : Reg) (d : Reg)
  /-- TAKING_SRL (R224). -/
  | takingSrl (u : Bool) (t : Bool) (b : Reg) (a : Reg) (d : Reg)
  /-- TAKING_SRA (R224). -/
  | takingSra (u : Bool) (t : Bool) (b : Reg) (a : Reg) (d : Reg)
  /-- TAKING_OR (R224). -/
  | takingOr (u : Bool) (t : Bool) (b : Reg) (a : Reg) (d : Reg)
  /-- TAKING_AND (R224). -/
  | takingAnd (u : Bool) (t : Bool) (b : Reg) (a : Reg) (d : Reg)
  /-- TAKING_ADDW (R224). -/
  | takingAddw (u : Bool) (t : Bool) (b : Reg) (a : Reg) (d : Reg)
  /-- TAKING_SUBW (R224). -/
  | takingSubw (u : Bool) (t : Bool) (b : Reg) (a : Reg) (d : Reg)
  /-- TAKING_SLLW (R224). -/
  | takingSllw (u : Bool) (t : Bool) (b : Reg) (a : Reg) (d : Reg)
  /-- TAKING_SRLW (R224). -/
  | takingSrlw (u : Bool) (t : Bool) (b : Reg) (a : Reg) (d : Reg)
  /-- TAKING_SRAW (R224). -/
  | takingSraw (u : Bool) (t : Bool) (b : Reg) (a : Reg) (d : Reg)
  /-- TAKING_MUL (R224). -/
  | takingMul (u : Bool) (t : Bool) (b : Reg) (a : Reg) (d : Reg)
  /-- TAKING_MULH (R224). -/
  | takingMulh (u : Bool) (t : Bool) (b : Reg) (a : Reg) (d : Reg)
  /-- TAKING_MULHU (R224). -/
  | takingMulhu (u : Bool) (t : Bool) (b : Reg) (a : Reg) (d : Reg)
  /-- TAKING_MULW (R224). -/
  | takingMulw (u : Bool) (t : Bool) (b : Reg) (a : Reg) (d : Reg)
  /-- TAKING_MIN (R224). -/
  | takingMin (u : Bool) (t : Bool) (b : Reg) (a : Reg) (d : Reg)
  /-- TAKING_MAX (R224). -/
  | takingMax (u : Bool) (t : Bool) (b : Reg) (a : Reg) (d : Reg)
  /-- TAKING_MINU (R224). -/
  | takingMinu (u : Bool) (t : Bool) (b : Reg) (a : Reg) (d : Reg)
  /-- TAKING_MAXU (R224). -/
  | takingMaxu (u : Bool) (t : Bool) (b : Reg) (a : Reg) (d : Reg)
  -- custom-0, pages 001 to 110 (R223)
  /-- PUTX (R243). -/
  | putx (u : Bool) (t : Bool) (b : Reg) (a : Reg) (d : Reg)
  /-- TAKE (R244). -/
  | take (t : Bool) (a : Reg) (d : Reg)
  /-- PREMPTY (R245). -/
  | prempty (b : Reg) (d : Reg)
  /-- PRTEST (R246). -/
  | prtest (b : Reg) (a : Reg) (d : Reg)
  /-- VIDXRD (R247). -/
  | vidxrd (t : Bool) (b : Reg) (a : Reg) (d : Reg)
  /-- VIDXWR (R247). -/
  | vidxwr (t : Bool) (b : Reg) (a : Reg) (d : Reg)
  /-- VPUSH (R332). -/
  | vpush (t : Bool) (b : Reg) (a : Reg) (d : Reg)
  /-- BFX (R242). -/
  | bfx (u : Bool) (t : Bool) (b : Reg) (a : Reg) (d : Reg)
  /-- BFXS (R242). -/
  | bfxs (u : Bool) (t : Bool) (b : Reg) (a : Reg) (d : Reg)
  /-- BFI (R242). -/
  | bfi (u : Bool) (t : Bool) (b : Reg) (a : Reg) (d : Reg)
  /-- TENQ (R249). -/
  | tenq (u : Bool) (t : Bool) (b : Reg) (a : Reg)
  /-- TENQT (R249). -/
  | tenqt (u : Bool) (t : Bool) (b : Reg) (a : Reg) (d : Reg)
  /-- KLAUNCH (R251). -/
  | klaunch (t : Bool) (a : Reg) (d : Reg)
  /-- TICKET (R254). -/
  | ticket (t : Bool) (a : Reg) (d : Reg)
  /-- PGBIAS_HOST (R255). -/
  | pgbiasHost (e : Bool) (s : BitVec 3) (a : Reg)
  /-- PGBIAS_DEV (R255). -/
  | pgbiasDev (e : Bool) (s : BitVec 3) (a : Reg)
  /-- PWHINT (R256). -/
  | pwhint (a : Reg)
  /-- SBWAIT (R257). -/
  | sbwait (m : BitVec 8)
  /-- VCFG (R305). -/
  | vcfg (e : BitVec 4) (g : BitVec 2) (a : Reg) (d : Reg)
  /-- VCFGI (R305). -/
  | vcfgi (e : BitVec 4) (g : BitVec 2) (v : BitVec 10) (d : Reg)
  /-- VMVX (R327). -/
  | vmvx (e : BitVec 4) (b : Reg) (a : Reg) (d : Reg)
  /-- VMVS (R327). -/
  | vmvs (e : BitVec 4) (b : Reg) (a : Reg) (d : Reg)
  -- custom-1 (R226 to R229)
  /-- LDS_RLX (R265). -/
  | ldsRlx (s : BitVec 3) (z : BitVec 2) (b : Reg) (d : Reg)
  /-- LDS_ACQ (R265). -/
  | ldsAcq (s : BitVec 3) (z : BitVec 2) (b : Reg) (d : Reg)
  /-- STS_RLX (R265). -/
  | stsRlx (s : BitVec 3) (v : Reg) (b : Reg) (z : BitVec 2)
  /-- STS_REL (R265). -/
  | stsRel (s : BitVec 3) (v : Reg) (b : Reg) (z : BitVec 2)
  /-- FENCE_S_ACQ (R133). -/
  | fenceSAcq (s : BitVec 3)
  /-- FENCE_S_REL (R133). -/
  | fenceSRel (s : BitVec 3)
  /-- FENCE_S_AR (R133). -/
  | fenceSAr (s : BitVec 3)
  /-- BIND (R287). -/
  | bind (c : Reg) (b : Reg) (a : Reg)
  /-- UNBIND (R288). -/
  | unbind (b : Reg) (a : Reg)
  /-- ACQ (R289). -/
  | acq (s : BitVec 3) (b : Reg)
  /-- TRYACQ (R290). -/
  | tryacq (s : BitVec 3) (b : Reg) (d : Reg)
  /-- REL (R291). -/
  | rel (s : BitVec 3) (b : Reg)
  /-- ARRIVE (R292). -/
  | arrive (s : BitVec 3) (b : Reg)
  /-- WAITPH (R293). -/
  | waitph (s : BitVec 3) (c : Reg) (b : Reg)
  /-- TESTPH (R294). -/
  | testph (s : BitVec 3) (c : Reg) (b : Reg) (d : Reg)
  /-- FREEZE (R98). -/
  | freeze (e : Bool) (s : BitVec 3) (c : Reg) (b : Reg) (a : Reg)
  /-- THAW (R104). -/
  | thaw (e : Bool) (s : BitVec 3) (c : Reg) (b : Reg) (a : Reg)
  /-- CPY (R303). -/
  | cpy (e : Bool) (s : BitVec 3) (c : Reg) (b : Reg) (u : Bool) (q : Bool) (h : BitVec 3)
  /-- CPYB (R304). -/
  | cpyb (e : Bool) (s : BitVec 3) (c : Reg) (b : Reg) (u : Bool) (q : Bool) (h : BitVec 3)
  /-- SHPLD (R302). -/
  | shpld (b : Reg) (h : BitVec 3)
  /-- SHPST (R302). -/
  | shpst (b : Reg) (h : BitVec 3)
  /-- TALLOC (R300). -/
  | talloc (e : BitVec 4) (p : Bool) (k : Bool) (c : Reg) (b : Reg) (d : Reg)
  /-- TALLOC_Z (R42). -/
  | tallocZ (e : BitVec 4) (p : Bool) (k : Bool) (c : Reg) (b : Reg) (d : Reg)
  /-- TFREE (R301). -/
  | tfree (b : Reg)
  /-- TLD (R283). -/
  | tld (e : BitVec 4) (c : Reg) (b : Reg) (d : Reg)
  /-- TST (R283). -/
  | tst (e : BitVec 4) (c : Reg) (b : Reg) (a : Reg)
  /-- GLD (R298). -/
  | gld (e : Bool) (s : BitVec 3) (c : Reg) (b : Reg) (a : Reg)
  /-- GLDV (R298). -/
  | gldv (e : Bool) (s : BitVec 3) (c : Reg) (b : Reg) (a : Reg)
  /-- GJOIN (R86). -/
  | gjoin (c : Reg) (b : Reg) (d : Reg)
  /-- GLEAVE (R297). -/
  | gleave (b : Reg)
  -- custom-2 (R230 to R235)
  /-- VADD_VV (R311). -/
  | vaddVv (p : BitVec 3) (e : BitVec 3) (s : Reg) (d : Reg)
  /-- VADD_VS (R311). -/
  | vaddVs (p : BitVec 3) (e : BitVec 3) (s : Reg) (d : Reg)
  /-- VADD_VI (R311). -/
  | vaddVi (p : BitVec 3) (e : BitVec 3) (i : Reg) (d : Reg)
  /-- VFADD_VV (R319). -/
  | vfaddVv (p : BitVec 3) (e : BitVec 2) (s : Reg) (d : Reg)
  /-- VFADD_VS (R319). -/
  | vfaddVs (p : BitVec 3) (e : BitVec 2) (s : Reg) (d : Reg)
  /-- VSUB_VV (R311). -/
  | vsubVv (p : BitVec 3) (e : BitVec 3) (s : Reg) (d : Reg)
  /-- VSUB_VS (R311). -/
  | vsubVs (p : BitVec 3) (e : BitVec 3) (s : Reg) (d : Reg)
  /-- VFSUB_VV (R319). -/
  | vfsubVv (p : BitVec 3) (e : BitVec 2) (s : Reg) (d : Reg)
  /-- VFSUB_VS (R319). -/
  | vfsubVs (p : BitVec 3) (e : BitVec 2) (s : Reg) (d : Reg)
  /-- VRSUB_VS (R311). -/
  | vrsubVs (p : BitVec 3) (e : BitVec 3) (s : Reg) (d : Reg)
  /-- VRSUB_VI (R311). -/
  | vrsubVi (p : BitVec 3) (e : BitVec 3) (i : Reg) (d : Reg)
  /-- VMUL_VV (R311). -/
  | vmulVv (p : BitVec 3) (e : BitVec 3) (s : Reg) (d : Reg)
  /-- VMUL_VS (R311). -/
  | vmulVs (p : BitVec 3) (e : BitVec 3) (s : Reg) (d : Reg)
  /-- VFMUL_VV (R319). -/
  | vfmulVv (p : BitVec 3) (e : BitVec 2) (s : Reg) (d : Reg)
  /-- VFMUL_VS (R319). -/
  | vfmulVs (p : BitVec 3) (e : BitVec 2) (s : Reg) (d : Reg)
  /-- VMULH_VV (R311). -/
  | vmulhVv (p : BitVec 3) (e : BitVec 3) (s : Reg) (d : Reg)
  /-- VMULH_VS (R311). -/
  | vmulhVs (p : BitVec 3) (e : BitVec 3) (s : Reg) (d : Reg)
  /-- VMULHN_VV (R311). -/
  | vmulhnVv (p : BitVec 3) (e : BitVec 3) (s : Reg) (d : Reg)
  /-- VMULHN_VS (R311). -/
  | vmulhnVs (p : BitVec 3) (e : BitVec 3) (s : Reg) (d : Reg)
  /-- VADDS_VV (R311). -/
  | vaddsVv (p : BitVec 3) (e : BitVec 3) (s : Reg) (d : Reg)
  /-- VADDS_VS (R311). -/
  | vaddsVs (p : BitVec 3) (e : BitVec 3) (s : Reg) (d : Reg)
  /-- VADDS_VI (R311). -/
  | vaddsVi (p : BitVec 3) (e : BitVec 3) (i : Reg) (d : Reg)
  /-- VSUBS_VV (R311). -/
  | vsubsVv (p : BitVec 3) (e : BitVec 3) (s : Reg) (d : Reg)
  /-- VSUBS_VS (R311). -/
  | vsubsVs (p : BitVec 3) (e : BitVec 3) (s : Reg) (d : Reg)
  /-- VMIN_VV (R311). -/
  | vminVv (p : BitVec 3) (e : BitVec 3) (s : Reg) (d : Reg)
  /-- VMIN_VS (R311). -/
  | vminVs (p : BitVec 3) (e : BitVec 3) (s : Reg) (d : Reg)
  /-- VFMIN_VV (R319). -/
  | vfminVv (p : BitVec 3) (e : BitVec 2) (s : Reg) (d : Reg)
  /-- VFMIN_VS (R319). -/
  | vfminVs (p : BitVec 3) (e : BitVec 2) (s : Reg) (d : Reg)
  /-- VMAX_VV (R311). -/
  | vmaxVv (p : BitVec 3) (e : BitVec 3) (s : Reg) (d : Reg)
  /-- VMAX_VS (R311). -/
  | vmaxVs (p : BitVec 3) (e : BitVec 3) (s : Reg) (d : Reg)
  /-- VFMAX_VV (R319). -/
  | vfmaxVv (p : BitVec 3) (e : BitVec 2) (s : Reg) (d : Reg)
  /-- VFMAX_VS (R319). -/
  | vfmaxVs (p : BitVec 3) (e : BitVec 2) (s : Reg) (d : Reg)
  /-- VAND_VV (R311). -/
  | vandVv (p : BitVec 3) (e : BitVec 3) (s : Reg) (d : Reg)
  /-- VAND_VS (R311). -/
  | vandVs (p : BitVec 3) (e : BitVec 3) (s : Reg) (d : Reg)
  /-- VAND_VI (R311). -/
  | vandVi (p : BitVec 3) (e : BitVec 3) (i : Reg) (d : Reg)
  /-- VOR_VV (R311). -/
  | vorVv (p : BitVec 3) (e : BitVec 3) (s : Reg) (d : Reg)
  /-- VOR_VS (R311). -/
  | vorVs (p : BitVec 3) (e : BitVec 3) (s : Reg) (d : Reg)
  /-- VOR_VI (R311). -/
  | vorVi (p : BitVec 3) (e : BitVec 3) (i : Reg) (d : Reg)
  /-- VXOR_VV (R311). -/
  | vxorVv (p : BitVec 3) (e : BitVec 3) (s : Reg) (d : Reg)
  /-- VXOR_VS (R311). -/
  | vxorVs (p : BitVec 3) (e : BitVec 3) (s : Reg) (d : Reg)
  /-- VXOR_VI (R311). -/
  | vxorVi (p : BitVec 3) (e : BitVec 3) (i : Reg) (d : Reg)
  /-- VSLL_VV (R311). -/
  | vsllVv (p : BitVec 3) (e : BitVec 3) (s : Reg) (d : Reg)
  /-- VSLL_VS (R311). -/
  | vsllVs (p : BitVec 3) (e : BitVec 3) (s : Reg) (d : Reg)
  /-- VSLL_VI (R311). -/
  | vsllVi (p : BitVec 3) (e : BitVec 3) (i : Reg) (d : Reg)
  /-- VSRL_VV (R311). -/
  | vsrlVv (p : BitVec 3) (e : BitVec 3) (s : Reg) (d : Reg)
  /-- VSRL_VS (R311). -/
  | vsrlVs (p : BitVec 3) (e : BitVec 3) (s : Reg) (d : Reg)
  /-- VSRL_VI (R311). -/
  | vsrlVi (p : BitVec 3) (e : BitVec 3) (i : Reg) (d : Reg)
  /-- VSRA_VV (R311). -/
  | vsraVv (p : BitVec 3) (e : BitVec 3) (s : Reg) (d : Reg)
  /-- VSRA_VS (R311). -/
  | vsraVs (p : BitVec 3) (e : BitVec 3) (s : Reg) (d : Reg)
  /-- VSRA_VI (R311). -/
  | vsraVi (p : BitVec 3) (e : BitVec 3) (i : Reg) (d : Reg)
  /-- VFDIV_VV (R319). -/
  | vfdivVv (p : BitVec 3) (e : BitVec 2) (s : Reg) (d : Reg)
  /-- VFDIV_VS (R319). -/
  | vfdivVs (p : BitVec 3) (e : BitVec 2) (s : Reg) (d : Reg)
  /-- VSEL_VV (R316). -/
  | vselVv (p : BitVec 3) (e : BitVec 4) (s : Reg) (d : Reg)
  /-- VSEL_VS (R316). -/
  | vselVs (p : BitVec 3) (e : BitVec 4) (s : Reg) (d : Reg)
  /-- VSEL_VI (R316). -/
  | vselVi (p : BitVec 3) (e : BitVec 4) (i : Reg) (d : Reg)
  /-- VCMP_VV (R314). -/
  | vcmpVv (c : BitVec 3) (p : BitVec 3) (e : BitVec 3) (s : Reg) (d : Reg)
  /-- VCMP_VS (R314). -/
  | vcmpVs (c : BitVec 3) (p : BitVec 3) (e : BitVec 3) (s : Reg) (d : Reg)
  /-- VCMP_VI (R314). -/
  | vcmpVi (c : BitVec 3) (p : BitVec 3) (e : BitVec 3) (i : Reg) (d : Reg)
  /-- VFCMP_VV (R314). -/
  | vfcmpVv (c : BitVec 3) (p : BitVec 3) (e : BitVec 2) (s : Reg) (d : Reg)
  /-- VFCMP_VS (R314). -/
  | vfcmpVs (c : BitVec 3) (p : BitVec 3) (e : BitVec 2) (s : Reg) (d : Reg)
  /-- VPERM (R330). -/
  | vperm (p : BitVec 3) (e : BitVec 4) (s : Reg) (d : Reg)
  /-- VSLUP_VS (R328). -/
  | vslupVs (p : BitVec 3) (e : BitVec 4) (s : Reg) (d : Reg)
  /-- VSLUP_VI (R328). -/
  | vslupVi (p : BitVec 3) (e : BitVec 4) (i : Reg) (d : Reg)
  /-- VSLDN_VS (R328). -/
  | vsldnVs (p : BitVec 3) (e : BitVec 4) (s : Reg) (d : Reg)
  /-- VSLDN_VI (R328). -/
  | vsldnVi (p : BitVec 3) (e : BitVec 4) (i : Reg) (d : Reg)
  /-- VSL1UP (R328). -/
  | vsl1up (p : BitVec 3) (e : BitVec 4) (s : Reg) (d : Reg)
  /-- VXCHG (R329). -/
  | vxchg (p : BitVec 3) (e : BitVec 4) (i : Reg) (d : Reg)
  /-- VSCALE (R322). -/
  | vscale (p : BitVec 3) (e : BitVec 2) (s : Reg) (d : Reg)
  /-- VMAC (R311). -/
  | vmac (b : Reg) (p : BitVec 3) (e : BitVec 3) (a : Reg) (d : Reg)
  /-- VFFMA (R319). -/
  | vffma (b : Reg) (p : BitVec 3) (e : BitVec 2) (a : Reg) (d : Reg)
  /-- VWMAC (R312). -/
  | vwmac (b : Reg) (p : BitVec 3) (e : BitVec 3) (a : Reg) (d : Reg)
  /-- VFFMS (R319). -/
  | vffms (b : Reg) (p : BitVec 3) (e : BitVec 2) (a : Reg) (d : Reg)
  /-- VWMUL (R312). -/
  | vwmul (b : Reg) (p : BitVec 3) (e : BitVec 3) (a : Reg) (d : Reg)
  /-- VFNFMA (R319). -/
  | vfnfma (b : Reg) (p : BitVec 3) (e : BitVec 2) (a : Reg) (d : Reg)
  /-- VCVT (R321). -/
  | vcvt (f : BitVec 4) (p : BitVec 3) (e : BitVec 4) (s : Reg) (d : Reg)
  /-- VCVT_SR (R214). -/
  | vcvtSr (f : BitVec 4) (p : BitVec 3) (e : BitVec 4) (s : Reg) (d : Reg)
  /-- VMV (R326). -/
  | vmv (p : BitVec 3) (e : BitVec 4) (s : Reg) (d : Reg)
  /-- VMV_SCALAR (R326). -/
  | vmvScalar (p : BitVec 3) (e : BitVec 4) (s : Reg) (d : Reg)
  /-- VTAKE (R333). -/
  | vtake (p : BitVec 3) (e : BitVec 4) (s : Reg) (d : Reg)
  /-- VCOMPRESS (R331). -/
  | vcompress (p : BitVec 3) (e : BitVec 4) (s : Reg) (d : Reg)
  /-- VCLZ (R311). -/
  | vclz (p : BitVec 3) (e : BitVec 3) (s : Reg) (d : Reg)
  /-- VFABS (R319). -/
  | vfabs (p : BitVec 3) (e : BitVec 2) (s : Reg) (d : Reg)
  /-- VPOPC (R311). -/
  | vpopc (p : BitVec 3) (e : BitVec 3) (s : Reg) (d : Reg)
  /-- VFNEG (R319). -/
  | vfneg (p : BitVec 3) (e : BitVec 2) (s : Reg) (d : Reg)
  /-- VFSQRT (R319). -/
  | vfsqrt (p : BitVec 3) (e : BitVec 2) (s : Reg) (d : Reg)
  /-- VFCLASS (R319). -/
  | vfclass (p : BitVec 3) (e : BitVec 2) (s : Reg) (d : Reg)
  /-- VRCP (R334). -/
  | vrcp (p : BitVec 3) (s : Reg) (d : Reg)
  /-- VRSQRT (R334). -/
  | vrsqrt (p : BitVec 3) (s : Reg) (d : Reg)
  /-- VEXP2 (R334). -/
  | vexp2 (p : BitVec 3) (s : Reg) (d : Reg)
  /-- VLOG2 (R334). -/
  | vlog2 (p : BitVec 3) (s : Reg) (d : Reg)
  /-- VSIN (R334). -/
  | vsin (p : BitVec 3) (s : Reg) (d : Reg)
  /-- VCOS (R334). -/
  | vcos (p : BitVec 3) (s : Reg) (d : Reg)
  /-- VREDSUM (R317). -/
  | vredsum (p : BitVec 3) (e : BitVec 3) (s : Reg) (d : Reg)
  /-- VFREDSUM (R318). -/
  | vfredsum (p : BitVec 3) (e : BitVec 2) (s : Reg) (d : Reg)
  /-- VREDMIN (R317). -/
  | vredmin (p : BitVec 3) (e : BitVec 3) (s : Reg) (d : Reg)
  /-- VREDMAX (R317). -/
  | vredmax (p : BitVec 3) (e : BitVec 3) (s : Reg) (d : Reg)
  /-- PAND (R315). -/
  | pand (p : BitVec 3) (b : BitVec 3) (a : BitVec 3)
  /-- POR (R315). -/
  | por (p : BitVec 3) (b : BitVec 3) (a : BitVec 3)
  /-- PXOR (R315). -/
  | pxor (p : BitVec 3) (b : BitVec 3) (a : BitVec 3)
  /-- PNOT (R315). -/
  | pnot (p : BitVec 3) (a : BitVec 3)
  /-- PSET (R315). -/
  | pset (p : BitVec 3) (s : Reg)
  /-- PFIRST (R315). -/
  | pfirst (b : BitVec 3) (d : Reg)
  /-- PMSKUP (R315). -/
  | pmskup (p : BitVec 3) (a : BitVec 3)
  /-- PCNT (R315). -/
  | pcnt (b : BitVec 3) (d : Reg)
  /-- VEDGE (R355). -/
  | vedge (p : BitVec 3) (s : Reg) (d : Reg)
  /-- VRBOX (R357). -/
  | vrbox (p : BitVec 3) (s : Reg) (d : Reg)
  /-- VRTRI (R358). -/
  | vrtri (p : BitVec 3) (s : Reg) (d : Reg)
  /-- VTEX (R362). -/
  | vtex (p : BitVec 3) (s : Reg) (d : Reg)
  /-- VTEXL (R362). -/
  | vtexl (p : BitVec 3) (s : Reg) (d : Reg)
  /-- BLENDC (R366). -/
  | blendc (p : BitVec 3) (s : Reg) (d : Reg)
  -- custom-3: vector memory (R236)
  /-- VLD (R277). -/
  | vld (e : BitVec 4) (p : BitVec 3) (c : BitVec 2) (a : Reg) (d : Reg)
  /-- VST (R277). -/
  | vst (e : BitVec 4) (p : BitVec 3) (c : BitVec 2) (a : Reg) (d : Reg)
  /-- VLDFF (R278). -/
  | vldff (e : BitVec 4) (p : BitVec 3) (c : BitVec 2) (a : Reg) (d : Reg)
  /-- VLDSR (R279). -/
  | vldsr (w : BitVec 2) (h : BitVec 3) (p : BitVec 3) (c : BitVec 2) (a : Reg) (d : Reg)
  /-- VLDS (R277). -/
  | vlds (s : Reg) (p : BitVec 3) (c : BitVec 2) (w : BitVec 2) (a : Reg) (d : Reg)
  /-- VSTS (R277). -/
  | vsts (s : Reg) (p : BitVec 3) (c : BitVec 2) (w : BitVec 2) (a : Reg) (d : Reg)
  /-- VLDX (R277). -/
  | vldx (s : Reg) (p : BitVec 3) (c : BitVec 2) (w : BitVec 2) (a : Reg) (d : Reg)
  /-- VSTX (R277). -/
  | vstx (s : Reg) (p : BitVec 3) (c : BitVec 2) (w : BitVec 2) (a : Reg) (d : Reg)
  /-- VAMO_ADD (R281). -/
  | vamoAdd (s : Reg) (p : BitVec 3) (w : BitVec 2) (a : Reg) (d : Reg)
  /-- VAMO_SWAP (R281). -/
  | vamoSwap (s : Reg) (p : BitVec 3) (w : BitVec 2) (a : Reg) (d : Reg)
  /-- VAMO_MIN (R281). -/
  | vamoMin (s : Reg) (p : BitVec 3) (w : BitVec 2) (a : Reg) (d : Reg)
  /-- VAMO_MAX (R281). -/
  | vamoMax (s : Reg) (p : BitVec 3) (w : BitVec 2) (a : Reg) (d : Reg)
  -- custom-3: matrix (R238)
  /-- MROW (R341). -/
  | mrow (a : Reg) (u : Bool) (m : BitVec 2) (e : BitVec 4) (k : BitVec 2) (t : BitVec 2) (d : Reg)
  /-- MSCA (R342). -/
  | msca (a : Reg) (e : Reg) (t : BitVec 2) (d : Reg)
  /-- MCFG (R348). -/
  | mcfg (a : Reg) (d : Reg)
  /-- MLDB (R340). -/
  | mldb (a : Reg) (e : BitVec 4) (k : BitVec 2) (c : Bool) (v : Bool) (d : Reg)
  /-- MZERO (R343). -/
  | mzero (a : Reg)
  /-- MRD (R344). -/
  | mrd (a : Reg) (e : BitVec 4) (u : Bool) (d : Reg)
  /-- MDRAIN_ST (R345). -/
  | mdrainSt (a : Reg) (u : Bool) (b : Reg) (d : Reg)
  /-- MDRAIN_ADD (R345). -/
  | mdrainAdd (a : Reg) (u : Bool) (b : Reg) (d : Reg)
  /-- MDRAINX_ST (R345). -/
  | mdrainxSt (a : Reg) (e : BitVec 4) (b : Reg) (d : Reg)
  /-- MDRAINX_ADD (R345). -/
  | mdrainxAdd (a : Reg) (e : BitVec 4) (b : Reg) (d : Reg)
  -- the 16-bit VQ forms (R240)
  /-- VQ_VADD (R240). -/
  | vqVadd (d : Reg) (s : Reg)
  /-- VQ_VSUB (R240). -/
  | vqVsub (d : Reg) (s : Reg)
  /-- VQ_VMUL (R240). -/
  | vqVmul (d : Reg) (s : Reg)
  /-- VQ_VMAC (R240). -/
  | vqVmac (d : Reg) (s : Reg)
  /-- VQ_VFADD (R240). -/
  | vqVfadd (d : Reg) (s : Reg)
  /-- VQ_VFMUL (R240). -/
  | vqVfmul (d : Reg) (s : Reg)
  /-- VQ_VFFMA (R240). -/
  | vqVffma (d : Reg) (s : Reg)
  /-- VQ_VAND (R240). -/
  | vqVand (d : Reg) (s : Reg)
  /-- VQ_VOR (R240). -/
  | vqVor (d : Reg) (s : Reg)
  /-- VQ_VXOR (R240). -/
  | vqVxor (d : Reg) (s : Reg)
  /-- VQ_VSLL (R240). -/
  | vqVsll (d : Reg) (s : Reg)
  /-- VQ_VSRL (R240). -/
  | vqVsrl (d : Reg) (s : Reg)
  /-- VQ_VMV (R240). -/
  | vqVmv (d : Reg) (s : Reg)
  /-- VQ_VSEL (R240). -/
  | vqVsel (d : Reg) (s : Reg)
  /-- VQ_VLD (R240). -/
  | vqVld (d : Reg) (s : Reg)
  /-- VQ_VST (R240). -/
  | vqVst (d : Reg) (s : Reg)
  -- words without fields
  /-- FENCE_TSO (R124). -/
  | fenceTso
  /-- FENCE_I (R59). -/
  | fenceI
  /-- ECALL (R181). -/
  | ecall
  /-- EBREAK (R182). -/
  | ebreak
  /-- SRET (R185). -/
  | sret
  /-- MRET (R181). -/
  | mret
  /-- WFI (R175). -/
  | wfi
  /-- TEXIT (R252). -/
  | texit
  /-- TYIELD (R253). -/
  | tyield
  /-- VFENCE (R258). -/
  | vfence
  /-- VFIFO_PUSH_VM (R237). -/
  | vfifoPushVm
  /-- VFIFO_PUSH_VC (R237). -/
  | vfifoPushVc
  /-- VFIFO_POP_CV (R237). -/
  | vfifoPopCv
  /-- VFIFO_POP_MV (R237). -/
  | vfifoPopMv
  -- steps of the other agents
  /-- INTERRUPT_ENTRY (R188). -/
  | interruptEntry
  /-- LATE_RESULT_LAND (R172). -/
  | lateResultLand
  /-- REMOTE_WRITE_LAND (R174). -/
  | remoteWriteLand
  /-- PRESENCE_TIMEOUT (R186). -/
  | presenceTimeout
  /-- VECTOR_QUEUE_EXECUTE (R177). -/
  | vectorQueueExecute
  /-- MATRIX_QUEUE_EXECUTE (R336). -/
  | matrixQueueExecute
  /-- DRAIN_COMPLETE (R346). -/
  | drainComplete
  /-- FIFO_HOLD_EXPIRY (R433). -/
  | fifoHoldExpiry
  /-- PAGE_WALK (R29). -/
  | pageWalk
  /-- PAGE_FLUSH (R67). -/
  | pageFlush
  /-- CHINOOK_ANSWER (R18). -/
  | chinookAnswer
  /-- PARTITION_MISS_TIMEOUT (R18). -/
  | partitionMissTimeout
  /-- SHOOTDOWN_ACK (R34). -/
  | shootdownAck
  /-- CHINOOK_INVALIDATE (R34). -/
  | chinookInvalidate
  /-- HOME_SLICE_REQUEST (R60). -/
  | homeSliceRequest
  /-- DIRECTORY_PROBE (R71). -/
  | directoryProbe
  /-- VICTIM_OFFER (R73). -/
  | victimOffer
  /-- WRITE_BACK_ARRIVAL (R76). -/
  | writeBackArrival
  /-- WBD_WRITE (R76). -/
  | wbdWrite
  /-- AGENT_REJOIN (R82). -/
  | agentRejoin
  /-- ERRLOG_READ (R81). -/
  | errlogRead
  /-- CECNT_WRITE (R81). -/
  | cecntWrite
  /-- BANK_WAKE_DONE (R42). -/
  | bankWakeDone
  /-- BANK_RET_WAKE_DONE (R44). -/
  | bankRetWakeDone
  /-- BANK_POWER_OFF (R44). -/
  | bankPowerOff
  /-- BANK_RETENTION (R44). -/
  | bankRetention
  /-- WAY_RETIRE (R45). -/
  | wayRetire
  /-- WAY_WAKE_DONE (R45). -/
  | wayWakeDone
  /-- WROLE_WRITE (R47). -/
  | wroleWrite
  /-- SWR_WRITE (R47). -/
  | swrWrite
  /-- ROLE_CHANGE_DONE (R47). -/
  | roleChangeDone
  /-- WAY_PIN_DONE (R53). -/
  | wayPinDone
  /-- BWPH_WRITE (R52). -/
  | bwphWrite
  /-- DEVICE_PHASE_SETTLE (R52). -/
  | devicePhaseSettle
  /-- GDDR_POWER_DOWN (R50). -/
  | gddrPowerDown
  /-- GROUP_REQUEST_ARRIVE (R88). -/
  | groupRequestArrive
  /-- GROUP_HOLD_TIMEOUT (R88). -/
  | groupHoldTimeout
  /-- GROUP_FILL_LAND (R94). -/
  | groupFillLand
  /-- FREEZE_COMPLETE (R98). -/
  | freezeComplete
  /-- THAW_COMPLETE (R104). -/
  | thawComplete
  /-- PEER_INVALIDATE_TIMEOUT (R105). -/
  | peerInvalidateTimeout
  /-- STAMP_SWEEP_START (R107). -/
  | stampSweepStart
  /-- WAY_KILL (R108). -/
  | wayKill
  /-- STAMP_SWEEP_END (R108). -/
  | stampSweepEnd
  /-- SWGO_WRITE (R109). -/
  | swgoWrite
  /-- ACQ_RETRY (R289). -/
  | acqRetry
  /-- COPY_ADMIT (R158). -/
  | copyAdmit
  /-- COPY_RUN_EMIT (R151). -/
  | copyRunEmit
  /-- COPY_LINE_PERFORMED (R156). -/
  | copyLinePerformed
  /-- COPY_COMPLETE (R161). -/
  | copyComplete
  /-- SLIDE_PREFETCH (R167). -/
  | slidePrefetch
  /-- WDLIM_WRITE (R187). -/
  | wdlimWrite
  /-- FMT_WRITE (R195). -/
  | fmtWrite
  /-- SBSTAT_WRITE (R261). -/
  | sbstatWrite
  /-- VHW_WRITE (R260). -/
  | vhwWrite
  /-- CSR_WRITE (R259). -/
  | csrWrite
  /-- MMIO_WRITE (R434). -/
  | mmioWrite
  /-- ENQUEUE_ARRIVE (R368). -/
  | enqueueArrive
  /-- ENQUEUE_RETRY (R371). -/
  | enqueueRetry
  /-- FILTER_TOKEN_ACCRUE (R370). -/
  | filterTokenAccrue
  /-- TASK_BIND (R376). -/
  | taskBind
  /-- TASK_PRELOAD (R381). -/
  | taskPreload
  /-- TASK_AGEING (R377). -/
  | taskAgeing
  /-- URGENT_EVICT (R377). -/
  | urgentEvict
  /-- PORT_GRANT (R379). -/
  | portGrant
  /-- PORT_TOKEN_ACCRUE (R379). -/
  | portTokenAccrue
  /-- PARTITION_STOP (R382). -/
  | partitionStop
  /-- PARTITION_RESUME (R143). -/
  | partitionResume
  /-- QUAD_REASSIGN (R43). -/
  | quadReassign
  /-- VF_RESET (R387). -/
  | vfReset
  /-- RETIRE_CALL (R386). -/
  | retireCall
  /-- MSIX_CALL (R408). -/
  | msixCall
  /-- SWI_CALL (R408). -/
  | swiCall
  /-- CLAIM_CALL (R409). -/
  | claimCall
  /-- EXTERNAL_SOURCE_RAISE (R409). -/
  | externalSourceRaise
  /-- MISTRAL_PERIOD (R393). -/
  | mistralPeriod
  /-- RAIL_RAISE_DONE (R390). -/
  | railRaiseDone
  /-- DROOP_SIGNAL (R395). -/
  | droopSignal
  /-- CLVL_RISE (R395). -/
  | clvlRise
  /-- CLVL_FALL (R395). -/
  | clvlFall
  /-- TLVL_WRITE (R396). -/
  | tlvlWrite
  /-- SFAIL_WRITE (R398). -/
  | sfailWrite
  /-- SENSOR_SAMPLE (R397). -/
  | sensorSample
  /-- PWHINT_EXPIRE (R256). -/
  | pwhintExpire
  /-- IDLE_ENTRY (R399). -/
  | idleEntry
  /-- IDLE_WAKE (R399). -/
  | idleWake
  /-- EVPOP_READ (R400). -/
  | evpopRead
  /-- EVPUSH_WRITE (R400). -/
  | evpushWrite
  /-- HOST_MEM_READ (R404). -/
  | hostMemRead
  /-- HOST_MEM_WRITE (R404). -/
  | hostMemWrite
  /-- BISNP_RESPONSE (R431). -/
  | bisnpResponse
  /-- BIAS_FLIP_COMPLETE (R405). -/
  | biasFlipComplete
  /-- HOST_SNOOP (R406). -/
  | hostSnoop
  /-- EQDESC_WRITE (R407). -/
  | eqdescWrite
  /-- HOSTIRQ_WRITE (R407). -/
  | hostirqWrite
  /-- UCIE_TRAINING (R401). -/
  | ucieTraining
  /-- FIRMWARE_VERIFY (R411). -/
  | firmwareVerify
  /-- SPDM_REQUEST (R412). -/
  | spdmRequest
  /-- BORA_LINK_CHANGE (R413). -/
  | boraLinkChange
  /-- PEER_REQUEST (R414). -/
  | peerRequest
  /-- COLLECTIVE_ABORT (R415). -/
  | collectiveAbort
  /-- SUPERVISOR_TIMER_INTERRUPT (R188). -/
  | supervisorTimerInterrupt
  /-- BLENDC_QUEUE_LIMIT (R366). -/
  | blendcQueueLimit
  /-- RUN_BUDGET_EXCEEDED (R381). -/
  | runBudgetExceeded
  /-- MEMORY_FILL_RETURN (R75). -/
  | memoryFillReturn
  /-- FRAME_LEAVES_PARTITION (R106). -/
  | frameLeavesPartition
deriving DecidableEq, Repr

end Sys2Proof
end

