-- ==== Sys2Proof/Decode.lean ====
section
/-!
DEFINITION. Decoding: from the little-endian bytes at the program counter to an instruction, or a named reason to refuse
(R216 to R240); then the encoder, written from the same encoding tables.
-/
namespace Sys2Proof

/-- Why an encoding raises illegal-instruction (R221). -/
inductive Reject where
  /-- Fewer bytes than the instruction needs. -/
  | short
  /-- No row of the map has this encoding (R219, R223 to R240). -/
  | unassigned
  /-- A field marked 0 is not 0. -/
  | mustBeZero
  /-- A scope code of 5 to 7. -/
  | scope
  /-- An element type the operation does not accept. -/
  | elementType
  /-- p0 where the operation needs a predicate. -/
  | predicate
  /-- A register the operation forbids. -/
  | forbiddenRegister
  /-- A take bit on x0 (R225). -/
  | takeBit
  /-- A reserved static rounding mode of F or D. -/
  | roundingMode
deriving DecidableEq, Repr

/-! ### Fields -/

/-- The field of `n` bits at `lo`, as a number. -/
def fld (w lo n : Nat) : Nat := w / 2 ^ lo % 2 ^ n
/-- The field of `n` bits at `lo`. -/
def bitsAt (n w lo : Nat) : BitVec n := BitVec.ofNat n (w / 2 ^ lo)
/-- The bit at `k`. -/
def flagAt (w k : Nat) : Bool := decide (w / 2 ^ k % 2 = 1)
/-- The register field at `lo`. -/
def regAt (w lo : Nat) : Reg := bitsAt 5 w lo
/-- A bit as a number. -/
def bitNat (b : Bool) : Nat := if b then 1 else 0

/-! ### What an instruction may not hold (R221 to R240) -/

/-- The first check an instruction's fields fail. -/
def firstFail : List (Bool × Reject) → Option Reject
  | [] => none
  | (bad, r) :: rest => if bad then some r else firstFail rest

/-- A reserved static rounding mode (RISC-V F: 5 and 6). -/
def rmBad (rm : BitVec 3) : Bool := rm == 5 || rm == 6
/-- An element type of MROW or MLDB is one of R337's. -/
def matrixEtBad (e : BitVec 4) : Bool :=
  !(e == 0 || e == 1 || e == 4 || e == 5 || e == 8 || e == 9 || e.toNat ≥ 12)
/-- An S field that must be even and not x0 (R234). -/
def evenBad (s : Reg) : Bool := s == 0 || s.toNat % 2 == 1
/-- Token field without its enable bit (R220, R221). -/
def sbBad (e : Bool) (s : BitVec 3) : Bool := !e && s != 0
/-- A take bit on x0 (R225). -/
def takeBad (t : Bool) (a : Reg) : Bool := t && a == 0
/-- The checks of the taking forms and of every form with two take bits. -/
def takes2 (u t : Bool) (b a : Reg) : Option Reject := firstFail [(takeBad u b, .takeBit), (takeBad t a, .takeBit)]
/-- The check of the forms with one take bit. -/
def takes1 (t : Bool) (a : Reg) : Option Reject := firstFail [(takeBad t a, .takeBit)]
/-- The check of a scope field. -/
def scopeOk (s : BitVec 3) : Option Reject := firstFail [(s.toNat > 4, .scope)]
/-- The check of a token field. -/
def tokenOk (e : Bool) (s : BitVec 3) : Option Reject := firstFail [(sbBad e s, .mustBeZero)]
/-- The check of a predicate that may not be p0. -/
def predOk (p : BitVec 3) : Option Reject := firstFail [(p == 0, .predicate)]

/-- The checks of one standard operation. -/
def AluInstr.check : AluInstr → Option Reject
  | .rr _ _ _ _ => none
  | .un _ _ _ => none
  | .imm _ _ _ _ => none
  | .sh _ _ _ _ => none
  | .shw _ _ _ _ => none
  | .lui _ _ => none
  | .auipc _ _ => none
  | .branch _ _ _ _ => none
  | .jal _ _ => none
  | .jalr _ _ _ => none
  | .farith _ _ rm _ _ _ => firstFail [(rmBad rm, .roundingMode)]
  | .ffused _ _ rm _ _ _ _ => firstFail [(rmBad rm, .roundingMode)]
  | .fpair _ _ _ _ _ => none
  | .fcmp _ _ _ _ _ => none
  | .ftoi _ _ rm _ _ => firstFail [(rmBad rm, .roundingMode)]
  | .itof _ _ rm _ _ => firstFail [(rmBad rm, .roundingMode)]
  | .fcvt _ rm _ _ => firstFail [(rmBad rm, .roundingMode)]
  | .fmvx _ _ _ => none
  | .fmvf _ _ _ => none
  | .fclass _ _ _ => none

/-- The field checks of an instruction; a step of another agent has no word and no check. -/
def Instr.check : Instr → Option Reject
  | .scalarAlu a => a.check
  | .integerDivide _ _ _ _ => none
  | .fpDivideSqrt sqrt _ rm _ _ b => firstFail [(rmBad rm, .roundingMode), (sqrt && b != 0, .mustBeZero)]
  | .scalarLoad _ _ _ _ => none
  | .scalarStore _ _ _ _ => none
  | .amo _ _ _ _ _ _ _ => none
  | .lr _ _ _ _ _ => none
  | .sc _ _ _ _ _ _ => none
  | .fence fm pred succ => firstFail [(fm == 8 && pred == 3 && succ == 3, .unassigned)]
  | .fenceTso => none
  | .fenceI => none
  | .sfenceVma _ _ => none
  | .ecall => none
  | .ebreak => none
  | .sret => none
  | .mret => none
  | .wfi => none
  | .csrAccess _ _ _ _ _ => none
  | .takingAdd u t b a _ => takes2 u t b a
  | .takingSub u t b a _ => takes2 u t b a
  | .takingSll u t b a _ => takes2 u t b a
  | .takingSlt u t b a _ => takes2 u t b a
  | .takingSltu u t b a _ => takes2 u t b a
  | .takingXor u t b a _ => takes2 u t b a
  | .takingSrl u t b a _ => takes2 u t b a
  | .takingSra u t b a _ => takes2 u t b a
  | .takingOr u t b a _ => takes2 u t b a
  | .takingAnd u t b a _ => takes2 u t b a
  | .takingAddw u t b a _ => takes2 u t b a
  | .takingSubw u t b a _ => takes2 u t b a
  | .takingSllw u t b a _ => takes2 u t b a
  | .takingSrlw u t b a _ => takes2 u t b a
  | .takingSraw u t b a _ => takes2 u t b a
  | .takingMul u t b a _ => takes2 u t b a
  | .takingMulh u t b a _ => takes2 u t b a
  | .takingMulhu u t b a _ => takes2 u t b a
  | .takingMulw u t b a _ => takes2 u t b a
  | .takingMin u t b a _ => takes2 u t b a
  | .takingMax u t b a _ => takes2 u t b a
  | .takingMinu u t b a _ => takes2 u t b a
  | .takingMaxu u t b a _ => takes2 u t b a
  | .putx u t b a d => firstFail [(takeBad u b, .takeBit), (takeBad t a, .takeBit), (d == 0, .forbiddenRegister)]
  | .take _ a _ => firstFail [(a == 0, .forbiddenRegister)]
  | .prempty b d => firstFail [(b.toNat > 2, .unassigned), (b == 0 && d == 0, .forbiddenRegister)]
  | .prtest b _ _ => firstFail [(b.toNat > 2, .unassigned)]
  | .vidxrd t _ a _ => takes1 t a
  | .vidxwr t _ a _ => takes1 t a
  | .vpush t _ a d => firstFail [(takeBad t a, .takeBit), (d == 0, .forbiddenRegister)]
  | .bfx u t b a _ => takes2 u t b a
  | .bfxs u t b a _ => takes2 u t b a
  | .bfi u t b a _ => takes2 u t b a
  | .tenq u t b a => takes2 u t b a
  | .tenqt u t b a _ => takes2 u t b a
  | .texit => none
  | .tyield => none
  | .klaunch t a _ => takes1 t a
  | .ticket t a _ => takes1 t a
  | .pgbiasHost e s _ => tokenOk e s
  | .pgbiasDev e s _ => tokenOk e s
  | .pwhint _ => none
  | .vfence => none
  | .sbwait _ => none
  | .vcfg _ _ _ _ => none
  | .vcfgi _ _ _ _ => none
  | .vmvx _ _ _ _ => none
  | .vmvs _ _ _ _ => none
  | .ldsRlx s _ _ _ => scopeOk s
  | .ldsAcq s _ _ _ => scopeOk s
  | .stsRlx s _ _ _ => scopeOk s
  | .stsRel s _ _ _ => scopeOk s
  | .fenceSAcq s => scopeOk s
  | .fenceSRel s => scopeOk s
  | .fenceSAr s => scopeOk s
  | .bind _ _ _ => none
  | .unbind _ _ => none
  | .acq s _ => scopeOk s
  | .tryacq s _ _ => scopeOk s
  | .rel s _ => scopeOk s
  | .arrive s _ => scopeOk s
  | .waitph s _ _ => scopeOk s
  | .testph s _ _ _ => scopeOk s
  | .freeze e s _ _ _ => tokenOk e s
  | .thaw e s _ _ _ => tokenOk e s
  | .cpy e s _ _ _ _ _ => tokenOk e s
  | .cpyb e s _ _ _ _ _ => tokenOk e s
  | .shpld _ _ => none
  | .shpst _ _ => none
  | .talloc _ _ _ _ _ _ => none
  | .tallocZ _ _ _ _ _ _ => none
  | .tfree _ => none
  | .tld _ _ _ _ => none
  | .tst _ _ _ _ => none
  | .gld e s _ _ _ => tokenOk e s
  | .gldv e s _ _ _ => tokenOk e s
  | .gjoin _ _ _ => none
  | .gleave _ => none
  | .vaddVv _ _ _ _ => none
  | .vaddVs _ _ _ _ => none
  | .vaddVi _ _ _ _ => none
  | .vfaddVv _ _ _ _ => none
  | .vfaddVs _ _ _ _ => none
  | .vsubVv _ _ _ _ => none
  | .vsubVs _ _ _ _ => none
  | .vfsubVv _ _ _ _ => none
  | .vfsubVs _ _ _ _ => none
  | .vrsubVs _ _ _ _ => none
  | .vrsubVi _ _ _ _ => none
  | .vmulVv _ _ _ _ => none
  | .vmulVs _ _ _ _ => none
  | .vfmulVv _ _ _ _ => none
  | .vfmulVs _ _ _ _ => none
  | .vmulhVv _ _ _ _ => none
  | .vmulhVs _ _ _ _ => none
  | .vmulhnVv _ _ _ _ => none
  | .vmulhnVs _ _ _ _ => none
  | .vaddsVv _ _ _ _ => none
  | .vaddsVs _ _ _ _ => none
  | .vaddsVi _ _ _ _ => none
  | .vsubsVv _ _ _ _ => none
  | .vsubsVs _ _ _ _ => none
  | .vminVv _ _ _ _ => none
  | .vminVs _ _ _ _ => none
  | .vfminVv _ _ _ _ => none
  | .vfminVs _ _ _ _ => none
  | .vmaxVv _ _ _ _ => none
  | .vmaxVs _ _ _ _ => none
  | .vfmaxVv _ _ _ _ => none
  | .vfmaxVs _ _ _ _ => none
  | .vandVv _ _ _ _ => none
  | .vandVs _ _ _ _ => none
  | .vandVi _ _ _ _ => none
  | .vorVv _ _ _ _ => none
  | .vorVs _ _ _ _ => none
  | .vorVi _ _ _ _ => none
  | .vxorVv _ _ _ _ => none
  | .vxorVs _ _ _ _ => none
  | .vxorVi _ _ _ _ => none
  | .vsllVv _ _ _ _ => none
  | .vsllVs _ _ _ _ => none
  | .vsllVi _ _ _ _ => none
  | .vsrlVv _ _ _ _ => none
  | .vsrlVs _ _ _ _ => none
  | .vsrlVi _ _ _ _ => none
  | .vsraVv _ _ _ _ => none
  | .vsraVs _ _ _ _ => none
  | .vsraVi _ _ _ _ => none
  | .vfdivVv _ _ _ _ => none
  | .vfdivVs _ _ _ _ => none
  | .vselVv p e _ _ => firstFail [(e.toNat > 11, .elementType), (p == 0, .predicate)]
  | .vselVs p e _ _ => firstFail [(e.toNat > 11, .elementType), (p == 0, .predicate)]
  | .vselVi p e _ _ => firstFail [(e.toNat > 11, .elementType), (p == 0, .predicate)]
  | .vcmpVv c p _ _ _ => firstFail [(c.toNat < 2, .unassigned), (p == 0, .predicate)]
  | .vcmpVs c p _ _ _ => firstFail [(c.toNat < 2, .unassigned), (p == 0, .predicate)]
  | .vcmpVi c p _ _ _ => firstFail [(c.toNat < 2, .unassigned), (p == 0, .predicate)]
  | .vfcmpVv c p _ _ _ => firstFail [(c.toNat < 2, .unassigned), (p == 0, .predicate)]
  | .vfcmpVs c p _ _ _ => firstFail [(c.toNat < 2, .unassigned), (p == 0, .predicate)]
  | .vperm _ _ _ _ => none
  | .vslupVs _ _ _ _ => none
  | .vslupVi _ _ _ _ => none
  | .vsldnVs _ _ _ _ => none
  | .vsldnVi _ _ _ _ => none
  | .vsl1up _ _ _ _ => none
  | .vxchg _ _ _ _ => none
  | .vscale _ _ _ _ => none
  | .vmac _ _ _ _ _ => none
  | .vffma _ _ _ _ _ => none
  | .vwmac _ _ e _ _ => firstFail [(e.toNat % 4 = 3, .elementType)]
  | .vffms _ _ _ _ _ => none
  | .vwmul _ _ e _ _ => firstFail [(e.toNat % 4 = 3, .elementType)]
  | .vfnfma _ _ _ _ _ => none
  | .vcvt _ _ _ _ _ => none
  | .vcvtSr _ _ e _ _ => firstFail [(!(e == 8 || e == 9 || e.toNat ≥ 12), .elementType)]
  | .vmv _ _ _ _ => none
  | .vmvScalar _ _ _ _ => none
  | .vtake _ _ _ _ => none
  | .vcompress _ _ _ _ => none
  | .vclz _ _ _ _ => none
  | .vfabs _ _ _ _ => none
  | .vpopc _ _ _ _ => none
  | .vfneg _ _ _ _ => none
  | .vfsqrt _ _ _ _ => none
  | .vfclass _ _ _ _ => none
  | .vrcp _ _ _ => none
  | .vrsqrt _ _ _ => none
  | .vexp2 _ _ _ => none
  | .vlog2 _ _ _ => none
  | .vsin _ _ _ => none
  | .vcos _ _ _ => none
  | .vredsum _ _ _ _ => none
  | .vfredsum _ _ _ _ => none
  | .vredmin _ _ _ _ => none
  | .vredmax _ _ _ _ => none
  | .pand p _ _ => predOk p
  | .por p _ _ => predOk p
  | .pxor p _ _ => predOk p
  | .pnot p _ => predOk p
  | .pset p _ => predOk p
  | .pfirst _ _ => none
  | .pmskup p _ => predOk p
  | .pcnt _ _ => none
  | .vedge p s _ => firstFail [(p == 0, .predicate), (evenBad s, .forbiddenRegister)]
  | .vrbox p _ _ => predOk p
  | .vrtri _ _ _ => none
  | .vtex _ s _ => firstFail [(evenBad s, .forbiddenRegister)]
  | .vtexl _ s _ => firstFail [(evenBad s, .forbiddenRegister)]
  | .blendc _ s _ => firstFail [(evenBad s, .forbiddenRegister)]
  | .vfifoPushVm => none
  | .vfifoPushVc => none
  | .vfifoPopCv => none
  | .vfifoPopMv => none
  | .vld _ _ _ _ _ => none
  | .vst _ _ _ _ _ => none
  | .vldff _ _ _ _ _ => none
  | .vldsr _ _ _ _ _ _ => none
  | .vlds _ _ _ _ _ _ => none
  | .vsts _ _ _ _ _ _ => none
  | .vldx _ _ _ _ _ _ => none
  | .vstx _ _ _ _ _ _ => none
  | .vamoAdd _ _ w _ _ => firstFail [(w.toNat < 2, .unassigned)]
  | .vamoSwap _ _ w _ _ => firstFail [(w.toNat < 2, .unassigned)]
  | .vamoMin _ _ w _ _ => firstFail [(w.toNat < 2, .unassigned)]
  | .vamoMax _ _ w _ _ => firstFail [(w.toNat < 2, .unassigned)]
  | .mrow _ _ _ e k _ _ => firstFail [(k == 3, .unassigned), (matrixEtBad e, .elementType)]
  | .msca _ _ _ _ => none
  | .mcfg _ _ => none
  | .mldb a e k _ _ d => firstFail [(k == 3, .unassigned), (matrixEtBad e, .elementType), (k != 0 && d.toNat > 3, .mustBeZero),
      (k == 1 && a.toNat > 3, .mustBeZero)]
  | .mzero _ => none
  | .mrd _ e _ _ => firstFail [(!(e == 8 || e == 9 || e == 10), .elementType)]
  | .mdrainSt _ _ b _ => firstFail [(b == 31, .forbiddenRegister)]
  | .mdrainAdd _ _ b _ => firstFail [(b == 31, .forbiddenRegister)]
  | .mdrainxSt _ e b _ => firstFail [(!(e == 8 || e == 9 || e == 10 || e.toNat ≥ 12), .elementType), (b == 31, .forbiddenRegister)]
  | .mdrainxAdd _ e b _ => firstFail [(!(e == 8 || e == 9 || e == 10 || e.toNat ≥ 12), .elementType), (b == 31, .forbiddenRegister)]
  | .vqVadd _ _ => none
  | .vqVsub _ _ => none
  | .vqVmul _ _ => none
  | .vqVmac _ _ => none
  | .vqVfadd _ _ => none
  | .vqVfmul _ _ => none
  | .vqVffma _ _ => none
  | .vqVand _ _ => none
  | .vqVor _ _ => none
  | .vqVxor _ _ => none
  | .vqVsll _ _ => none
  | .vqVsrl _ _ => none
  | .vqVmv _ _ => none
  | .vqVsel _ _ => none
  | .vqVld _ _ => none
  | .vqVst _ _ => none
  | .interruptEntry => none
  | .lateResultLand => none
  | .remoteWriteLand => none
  | .presenceTimeout => none
  | .vectorQueueExecute => none
  | .matrixQueueExecute => none
  | .drainComplete => none
  | .fifoHoldExpiry => none
  | .pageWalk => none
  | .pageFlush => none
  | .chinookAnswer => none
  | .partitionMissTimeout => none
  | .shootdownAck => none
  | .chinookInvalidate => none
  | .homeSliceRequest => none
  | .directoryProbe => none
  | .victimOffer => none
  | .writeBackArrival => none
  | .wbdWrite => none
  | .agentRejoin => none
  | .errlogRead => none
  | .cecntWrite => none
  | .bankWakeDone => none
  | .bankRetWakeDone => none
  | .bankPowerOff => none
  | .bankRetention => none
  | .wayRetire => none
  | .wayWakeDone => none
  | .wroleWrite => none
  | .swrWrite => none
  | .roleChangeDone => none
  | .wayPinDone => none
  | .bwphWrite => none
  | .devicePhaseSettle => none
  | .gddrPowerDown => none
  | .groupRequestArrive => none
  | .groupHoldTimeout => none
  | .groupFillLand => none
  | .freezeComplete => none
  | .thawComplete => none
  | .peerInvalidateTimeout => none
  | .stampSweepStart => none
  | .wayKill => none
  | .stampSweepEnd => none
  | .swgoWrite => none
  | .acqRetry => none
  | .copyAdmit => none
  | .copyRunEmit => none
  | .copyLinePerformed => none
  | .copyComplete => none
  | .slidePrefetch => none
  | .wdlimWrite => none
  | .fmtWrite => none
  | .sbstatWrite => none
  | .vhwWrite => none
  | .csrWrite => none
  | .mmioWrite => none
  | .enqueueArrive => none
  | .enqueueRetry => none
  | .filterTokenAccrue => none
  | .taskBind => none
  | .taskPreload => none
  | .taskAgeing => none
  | .urgentEvict => none
  | .portGrant => none
  | .portTokenAccrue => none
  | .partitionStop => none
  | .partitionResume => none
  | .quadReassign => none
  | .vfReset => none
  | .retireCall => none
  | .msixCall => none
  | .swiCall => none
  | .claimCall => none
  | .externalSourceRaise => none
  | .mistralPeriod => none
  | .railRaiseDone => none
  | .droopSignal => none
  | .clvlRise => none
  | .clvlFall => none
  | .tlvlWrite => none
  | .sfailWrite => none
  | .sensorSample => none
  | .pwhintExpire => none
  | .idleEntry => none
  | .idleWake => none
  | .evpopRead => none
  | .evpushWrite => none
  | .hostMemRead => none
  | .hostMemWrite => none
  | .bisnpResponse => none
  | .biasFlipComplete => none
  | .hostSnoop => none
  | .eqdescWrite => none
  | .hostirqWrite => none
  | .ucieTraining => none
  | .firmwareVerify => none
  | .spdmRequest => none
  | .boraLinkChange => none
  | .peerRequest => none
  | .collectiveAbort => none
  | .supervisorTimerInterrupt => none
  | .blendcQueueLimit => none
  | .runBudgetExceeded => none
  | .memoryFillReturn => none
  | .frameLeavesPartition => none

/-! ### The standard words (R217, R219) -/

/-- funct3 and funct7 of an OP operation; `none` for an OP-32 one. -/
def RROp.op : RROp → Option (Nat × Nat)
  | .add => some (0, 0) | .sub => some (0, 32) | .sll => some (1, 0) | .slt => some (2, 0) | .sltu => some (3, 0)
  | .xor => some (4, 0) | .srl => some (5, 0) | .sra => some (5, 32) | .or => some (6, 0) | .and => some (7, 0)
  | .mul => some (0, 1) | .mulh => some (1, 1) | .mulhsu => some (2, 1) | .mulhu => some (3, 1)
  | .sh1add => some (2, 16) | .sh2add => some (4, 16) | .sh3add => some (6, 16)
  | .andn => some (7, 32) | .orn => some (6, 32) | .xnor => some (4, 32)
  | .min => some (4, 5) | .minu => some (5, 5) | .max => some (6, 5) | .maxu => some (7, 5)
  | .rol => some (1, 48) | .ror => some (5, 48)
  | .addw => none | .subw => none | .sllw => none | .srlw => none | .sraw => none | .mulw => none
  | .adduw => none | .sh1adduw => none | .sh2adduw => none | .sh3adduw => none | .rolw => none | .rorw => none

/-- funct3 and funct7 of an OP-32 operation. -/
def RROp.op32 : RROp → Nat × Nat
  | .addw => (0, 0) | .subw => (0, 32) | .sllw => (1, 0) | .srlw => (5, 0) | .sraw => (5, 32) | .mulw => (0, 1)
  | .adduw => (0, 4) | .sh1adduw => (2, 16) | .sh2adduw => (4, 16) | .sh3adduw => (6, 16)
  | .rolw => (1, 48) | .rorw => (5, 48)
  | .add => (0, 0) | .sub => (0, 0) | .sll => (0, 0) | .slt => (0, 0) | .sltu => (0, 0) | .xor => (0, 0)
  | .srl => (0, 0) | .sra => (0, 0) | .or => (0, 0) | .and => (0, 0) | .mul => (0, 0) | .mulh => (0, 0)
  | .mulhsu => (0, 0) | .mulhu => (0, 0) | .sh1add => (0, 0) | .sh2add => (0, 0) | .sh3add => (0, 0)
  | .andn => (0, 0) | .orn => (0, 0) | .xnor => (0, 0) | .min => (0, 0) | .minu => (0, 0) | .max => (0, 0)
  | .maxu => (0, 0) | .rol => (0, 0) | .ror => (0, 0)

/-- The OP operation of a funct3 and funct7. -/
def rrOfOp (f3 f7 : Nat) : Option RROp :=
  match f7, f3 with
  | 0, 0 => some .add | 0, 1 => some .sll | 0, 2 => some .slt | 0, 3 => some .sltu
  | 0, 4 => some .xor | 0, 5 => some .srl | 0, 6 => some .or | 0, 7 => some .and
  | 32, 0 => some .sub | 32, 5 => some .sra | 32, 7 => some .andn | 32, 6 => some .orn | 32, 4 => some .xnor
  | 1, 0 => some .mul | 1, 1 => some .mulh | 1, 2 => some .mulhsu | 1, 3 => some .mulhu
  | 16, 2 => some .sh1add | 16, 4 => some .sh2add | 16, 6 => some .sh3add
  | 5, 4 => some .min | 5, 5 => some .minu | 5, 6 => some .max | 5, 7 => some .maxu
  | 48, 1 => some .rol | 48, 5 => some .ror
  | _, _ => none

/-- The OP-32 operation of a funct3 and funct7. -/
def rrOfOp32 (f3 f7 : Nat) : Option RROp :=
  match f7, f3 with
  | 0, 0 => some .addw | 0, 1 => some .sllw | 0, 5 => some .srlw | 32, 0 => some .subw | 32, 5 => some .sraw
  | 1, 0 => some .mulw | 4, 0 => some .adduw | 16, 2 => some .sh1adduw | 16, 4 => some .sh2adduw
  | 16, 6 => some .sh3adduw | 48, 1 => some .rolw | 48, 5 => some .rorw
  | _, _ => none

/-- The divide of OP (funct7 1). -/
def divOfOp (f3 : Nat) : Option DivOp :=
  match f3 with
  | 4 => some .div | 5 => some .divu | 6 => some .rem | 7 => some .remu | _ => none
/-- The divide of OP-32 (funct7 1). -/
def divOfOp32 (f3 : Nat) : Option DivOp :=
  match f3 with
  | 4 => some .divw | 5 => some .divuw | 6 => some .remw | 7 => some .remuw | _ => none
/-- Major opcode and funct3 of a divide. -/
def DivOp.code : DivOp → Nat × Nat
  | .div => (0x33, 4) | .divu => (0x33, 5) | .rem => (0x33, 6) | .remu => (0x33, 7)
  | .divw => (0x3B, 4) | .divuw => (0x3B, 5) | .remw => (0x3B, 6) | .remuw => (0x3B, 7)

/-- Major opcode, funct3 and the 12-bit immediate field of a one-source operation. -/
def UnOp.code : UnOp → Nat × Nat × Nat
  | .clz => (0x13, 1, 0x600) | .ctz => (0x13, 1, 0x601) | .cpop => (0x13, 1, 0x602)
  | .sextb => (0x13, 1, 0x604) | .sexth => (0x13, 1, 0x605)
  | .clzw => (0x1B, 1, 0x600) | .ctzw => (0x1B, 1, 0x601) | .cpopw => (0x1B, 1, 0x602)
  | .zexth => (0x3B, 4, 0x080) | .rev8 => (0x13, 5, 0x6B8) | .orcb => (0x13, 5, 0x287)

/-- The OP-IMM word: immediates, shifts and Zbb's one-source forms. -/
def decodeOpImm (w : Nat) : Option AluInstr :=
  let d := regAt w 7
  let a := regAt w 15
  let i := bitsAt 12 w 20
  match fld w 12 3 with
  | 0 => some (.imm .addi d a i)
  | 2 => some (.imm .slti d a i)
  | 3 => some (.imm .sltiu d a i)
  | 4 => some (.imm .xori d a i)
  | 6 => some (.imm .ori d a i)
  | 7 => some (.imm .andi d a i)
  | 1 =>
    if fld w 26 6 = 0 then some (.sh .slli d a (bitsAt 6 w 20))
    else match fld w 20 12 with
      | 0x600 => some (.un .clz d a)
      | 0x601 => some (.un .ctz d a)
      | 0x602 => some (.un .cpop d a)
      | 0x604 => some (.un .sextb d a)
      | 0x605 => some (.un .sexth d a)
      | _ => none
  | 5 =>
    if fld w 26 6 = 0 then some (.sh .srli d a (bitsAt 6 w 20))
    else if fld w 26 6 = 16 then some (.sh .srai d a (bitsAt 6 w 20))
    else if fld w 26 6 = 24 then some (.sh .rori d a (bitsAt 6 w 20))
    else if fld w 20 12 = 0x6B8 then some (.un .rev8 d a)
    else if fld w 20 12 = 0x287 then some (.un .orcb d a)
    else none
  | _ => none

/-- The OP-IMM-32 word; a 6-bit look at the upper field separates SLLI.UW from the word shifts. -/
def decodeOpImm32 (w : Nat) : Option AluInstr :=
  let d := regAt w 7
  let a := regAt w 15
  match fld w 12 3 with
  | 0 => some (.imm .addiw d a (bitsAt 12 w 20))
  | 1 =>
    if fld w 25 7 = 0 then some (.shw .slliw d a (bitsAt 5 w 20))
    else if fld w 26 6 = 2 then some (.sh .slliuw d a (bitsAt 6 w 20))
    else match fld w 20 12 with
      | 0x600 => some (.un .clzw d a)
      | 0x601 => some (.un .ctzw d a)
      | 0x602 => some (.un .cpopw d a)
      | _ => none
  | 5 =>
    if fld w 25 7 = 0 then some (.shw .srliw d a (bitsAt 5 w 20))
    else if fld w 25 7 = 32 then some (.shw .sraiw d a (bitsAt 5 w 20))
    else if fld w 25 7 = 48 then some (.shw .roriw d a (bitsAt 5 w 20))
    else none
  | _ => none

/-- The format field of F and D words. -/
def fmtAt (w : Nat) : Option FFmt :=
  match fld w 25 2 with
  | 0 => some .s
  | 1 => some .d
  | _ => none
/-- The format field's value. -/
def FFmt.code : FFmt → Nat
  | .s => 0
  | .d => 1
/-- The integer side of a conversion from its rs2 field. -/
def fintAt (w : Nat) : Option FInt :=
  match fld w 20 5 with
  | 0 => some .w
  | 1 => some .wu
  | 2 => some .l
  | 3 => some .lu
  | _ => none
/-- The rs2 field of a conversion's integer side. -/
def FInt.code : FInt → Nat
  | .w => 0
  | .wu => 1
  | .l => 2
  | .lu => 3

/-- The OP-FP word. -/
def decodeOpFp (w : Nat) : Option Instr :=
  match fmtAt w with
  | none => none
  | some f =>
    let d := regAt w 7
    let a := regAt w 15
    let b := regAt w 20
    let rm := bitsAt 3 w 12
    match fld w 27 5 with
    | 0 => some (.scalarAlu (.farith .add f rm d a b))
    | 1 => some (.scalarAlu (.farith .sub f rm d a b))
    | 2 => some (.scalarAlu (.farith .mul f rm d a b))
    | 3 => some (.fpDivideSqrt false f rm d a b)
    | 11 => if fld w 20 5 = 0 then some (.fpDivideSqrt true f rm d a 0) else none
    | 4 => match fld w 12 3 with
      | 0 => some (.scalarAlu (.fpair .sgnj f d a b))
      | 1 => some (.scalarAlu (.fpair .sgnjn f d a b))
      | 2 => some (.scalarAlu (.fpair .sgnjx f d a b))
      | _ => none
    | 5 => match fld w 12 3 with
      | 0 => some (.scalarAlu (.fpair .min f d a b))
      | 1 => some (.scalarAlu (.fpair .max f d a b))
      | _ => none
    | 8 => match f, fld w 20 5 with
      | .s, 1 => some (.scalarAlu (.fcvt .s rm d a))
      | .d, 0 => some (.scalarAlu (.fcvt .d rm d a))
      | _, _ => none
    | 20 => match fld w 12 3 with
      | 0 => some (.scalarAlu (.fcmp .le f d a b))
      | 1 => some (.scalarAlu (.fcmp .lt f d a b))
      | 2 => some (.scalarAlu (.fcmp .eq f d a b))
      | _ => none
    | 24 => match fintAt w with
      | some t => some (.scalarAlu (.ftoi t f rm d a))
      | none => none
    | 26 => match fintAt w with
      | some t => some (.scalarAlu (.itof f t rm d a))
      | none => none
    | 28 => match fld w 20 5, fld w 12 3 with
      | 0, 0 => some (.scalarAlu (.fmvx f d a))
      | 0, 1 => some (.scalarAlu (.fclass f d a))
      | _, _ => none
    | 30 => match fld w 20 5, fld w 12 3 with
      | 0, 0 => some (.scalarAlu (.fmvf f d a))
      | _, _ => none
    | _ => none

/-- The four fused majors. -/
def decodeFused (op : FFused) (w : Nat) : Option Instr :=
  match fmtAt w with
  | none => none
  | some f => some (.scalarAlu (.ffused op f (bitsAt 3 w 12) (regAt w 7) (regAt w 15) (regAt w 20) (regAt w 27)))

/-- The LOAD and LOAD-FP words. -/
def decodeLoad (fp : Bool) (w : Nat) : Option Instr :=
  let k (op : LoadOp) : Option Instr := some (.scalarLoad op (regAt w 7) (regAt w 15) (bitsAt 12 w 20))
  match fp, fld w 12 3 with
  | false, 0 => k .lb
  | false, 1 => k .lh
  | false, 2 => k .lw
  | false, 3 => k .ld
  | false, 4 => k .lbu
  | false, 5 => k .lhu
  | false, 6 => k .lwu
  | true, 2 => k .flw
  | true, 3 => k .fld
  | _, _ => none
/-- Major opcode and funct3 of a load. -/
def LoadOp.code : LoadOp → Nat × Nat
  | .lb => (0x03, 0) | .lh => (0x03, 1) | .lw => (0x03, 2) | .ld => (0x03, 3)
  | .lbu => (0x03, 4) | .lhu => (0x03, 5) | .lwu => (0x03, 6) | .flw => (0x07, 2) | .fld => (0x07, 3)

/-- The STORE and STORE-FP words. -/
def decodeStore (fp : Bool) (w : Nat) : Option Instr :=
  let imm : BitVec 12 := BitVec.ofNat 12 (fld w 25 7 * 32 + fld w 7 5)
  let k (op : StoreOp) : Option Instr := some (.scalarStore op (regAt w 15) (regAt w 20) imm)
  match fp, fld w 12 3 with
  | false, 0 => k .sb
  | false, 1 => k .sh
  | false, 2 => k .sw
  | false, 3 => k .sd
  | true, 2 => k .fsw
  | true, 3 => k .fsd
  | _, _ => none
/-- Major opcode and funct3 of a store. -/
def StoreOp.code : StoreOp → Nat × Nat
  | .sb => (0x23, 0) | .sh => (0x23, 1) | .sw => (0x23, 2) | .sd => (0x23, 3) | .fsw => (0x27, 2) | .fsd => (0x27, 3)

/-- The AMO operation of funct5; LR (2) and SC (3) apart. -/
def amoOf (f5 : Nat) : Option AmoOp :=
  match f5 with
  | 0 => some .add | 1 => some .swap | 4 => some .xor | 8 => some .or | 12 => some .and
  | 16 => some .min | 20 => some .max | 24 => some .minu | 28 => some .maxu
  | _ => none
/-- funct5 of an AMO operation. -/
def AmoOp.code : AmoOp → Nat
  | .add => 0 | .swap => 1 | .xor => 4 | .or => 8 | .and => 12 | .min => 16 | .max => 20 | .minu => 24 | .maxu => 28

/-- The AMO word. -/
def decodeAmo (w : Nat) : Option Instr :=
  let dbl := flagAt w 12
  let aq := flagAt w 26
  let rl := flagAt w 25
  let d := regAt w 7
  let a := regAt w 15
  let b := regAt w 20
  if fld w 13 2 = 1 then
    match fld w 27 5 with
    | 2 => if fld w 20 5 = 0 then some (.lr dbl aq rl d a) else none
    | 3 => some (.sc dbl aq rl d a b)
    | f5 => match amoOf f5 with
      | some op => some (.amo op dbl aq rl d a b)
      | none => none
  else none

/-- The MISC-MEM word; rd, rs1 and FENCE.I's immediate are ignored, as RISC-V says. -/
def decodeMiscMem (w : Nat) : Option Instr :=
  match fld w 12 3 with
  | 0 => if fld w 20 12 = 0x833 then some .fenceTso
         else some (.fence (bitsAt 4 w 28) (bitsAt 4 w 24) (bitsAt 4 w 20))
  | 1 => some .fenceI
  | _ => none

/-- The SYSTEM word. -/
def decodeSystem (w : Nat) : Option Instr :=
  let csr (op : CsrOp) (imm : Bool) : Option Instr :=
    some (.csrAccess op imm (bitsAt 12 w 20) (regAt w 7) (regAt w 15))
  match fld w 12 3 with
  | 0 =>
    if fld w 7 25 = 0 then some .ecall
    else if fld w 7 25 = 0x002000 then some .ebreak
    else if fld w 7 25 = 0x204000 then some .sret
    else if fld w 7 25 = 0x604000 then some .mret
    else if fld w 7 25 = 0x20A000 then some .wfi
    else if fld w 25 7 = 9 ∧ fld w 7 5 = 0 then some (.sfenceVma (regAt w 20) (regAt w 15))
    else none
  | 1 => csr .rw false
  | 2 => csr .rs false
  | 3 => csr .rc false
  | 5 => csr .rw true
  | 6 => csr .rs true
  | 7 => csr .rc true
  | _ => none

/-- The OP word. -/
def decodeOp (w : Nat) : Option Instr :=
  let d := regAt w 7
  let a := regAt w 15
  let b := regAt w 20
  match rrOfOp (fld w 12 3) (fld w 25 7) with
  | some op => some (.scalarAlu (.rr op d a b))
  | none => if fld w 25 7 = 1 then
      match divOfOp (fld w 12 3) with
      | some op => some (.integerDivide op d a b)
      | none => none
    else none

/-- The OP-32 word. -/
def decodeOp32 (w : Nat) : Option Instr :=
  let d := regAt w 7
  let a := regAt w 15
  let b := regAt w 20
  match rrOfOp32 (fld w 12 3) (fld w 25 7) with
  | some op => some (.scalarAlu (.rr op d a b))
  | none =>
    if fld w 25 7 = 1 then
      match divOfOp32 (fld w 12 3) with
      | some op => some (.integerDivide op d a b)
      | none => none
    else if fld w 20 12 = 0x080 ∧ fld w 12 3 = 4 then some (.scalarAlu (.un .zexth d a))
    else none

/-- The BRANCH condition of funct3. -/
def branchOf (f3 : Nat) : Option BrOp :=
  match f3 with
  | 0 => some .beq | 1 => some .bne | 4 => some .blt | 5 => some .bge | 6 => some .bltu | 7 => some .bgeu
  | _ => none
/-- funct3 of a branch condition. -/
def BrOp.code : BrOp → Nat
  | .beq => 0 | .bne => 1 | .blt => 4 | .bge => 5 | .bltu => 6 | .bgeu => 7

/-- The BRANCH word: offset bit 12 at 31, 11 at 7, 10:5 at 30:25, 4:1 at 11:8; the field kept is bits [12:1]. -/
def decodeBranch (w : Nat) : Option Instr :=
  match branchOf (fld w 12 3) with
  | some op => some (.scalarAlu (.branch op (regAt w 15) (regAt w 20)
      (BitVec.ofNat 12 (fld w 31 1 * 2048 + fld w 7 1 * 1024 + fld w 25 6 * 16 + fld w 8 4))))
  | none => none

/-- The JAL word: offset bit 20 at 31, 19:12 at 19:12, 11 at 20, 10:1 at 30:21; the field kept is bits [20:1]. -/
def decodeJal (w : Nat) : Instr :=
  .scalarAlu (.jal (regAt w 7)
    (BitVec.ofNat 20 (fld w 31 1 * 524288 + fld w 12 8 * 2048 + fld w 20 1 * 1024 + fld w 21 10)))

/-! ### The device majors -/

/-- Page 000 of custom-0 (R222 to R225). -/
def decodeCustom0Page0 (w : Nat) : Option Instr :=
  if fld w 27 5 = 0 then some (.takingAdd (flagAt w 26) (flagAt w 25) (regAt w 20) (regAt w 15) (regAt w 7))
  else if fld w 27 5 = 1 then some (.takingSub (flagAt w 26) (flagAt w 25) (regAt w 20) (regAt w 15) (regAt w 7))
  else if fld w 27 5 = 2 then some (.takingSll (flagAt w 26) (flagAt w 25) (regAt w 20) (regAt w 15) (regAt w 7))
  else if fld w 27 5 = 3 then some (.takingSlt (flagAt w 26) (flagAt w 25) (regAt w 20) (regAt w 15) (regAt w 7))
  else if fld w 27 5 = 4 then some (.takingSltu (flagAt w 26) (flagAt w 25) (regAt w 20) (regAt w 15) (regAt w 7))
  else if fld w 27 5 = 5 then some (.takingXor (flagAt w 26) (flagAt w 25) (regAt w 20) (regAt w 15) (regAt w 7))
  else if fld w 27 5 = 6 then some (.takingSrl (flagAt w 26) (flagAt w 25) (regAt w 20) (regAt w 15) (regAt w 7))
  else if fld w 27 5 = 7 then some (.takingSra (flagAt w 26) (flagAt w 25) (regAt w 20) (regAt w 15) (regAt w 7))
  else if fld w 27 5 = 8 then some (.takingOr (flagAt w 26) (flagAt w 25) (regAt w 20) (regAt w 15) (regAt w 7))
  else if fld w 27 5 = 9 then some (.takingAnd (flagAt w 26) (flagAt w 25) (regAt w 20) (regAt w 15) (regAt w 7))
  else if fld w 27 5 = 10 then some (.takingAddw (flagAt w 26) (flagAt w 25) (regAt w 20) (regAt w 15) (regAt w 7))
  else if fld w 27 5 = 11 then some (.takingSubw (flagAt w 26) (flagAt w 25) (regAt w 20) (regAt w 15) (regAt w 7))
  else if fld w 27 5 = 12 then some (.takingSllw (flagAt w 26) (flagAt w 25) (regAt w 20) (regAt w 15) (regAt w 7))
  else if fld w 27 5 = 13 then some (.takingSrlw (flagAt w 26) (flagAt w 25) (regAt w 20) (regAt w 15) (regAt w 7))
  else if fld w 27 5 = 14 then some (.takingSraw (flagAt w 26) (flagAt w 25) (regAt w 20) (regAt w 15) (regAt w 7))
  else if fld w 27 5 = 15 then some (.takingMul (flagAt w 26) (flagAt w 25) (regAt w 20) (regAt w 15) (regAt w 7))
  else if fld w 27 5 = 16 then some (.takingMulh (flagAt w 26) (flagAt w 25) (regAt w 20) (regAt w 15) (regAt w 7))
  else if fld w 27 5 = 17 then some (.takingMulhu (flagAt w 26) (flagAt w 25) (regAt w 20) (regAt w 15) (regAt w 7))
  else if fld w 27 5 = 18 then some (.takingMulw (flagAt w 26) (flagAt w 25) (regAt w 20) (regAt w 15) (regAt w 7))
  else if fld w 27 5 = 19 then some (.takingMin (flagAt w 26) (flagAt w 25) (regAt w 20) (regAt w 15) (regAt w 7))
  else if fld w 27 5 = 20 then some (.takingMax (flagAt w 26) (flagAt w 25) (regAt w 20) (regAt w 15) (regAt w 7))
  else if fld w 27 5 = 21 then some (.takingMinu (flagAt w 26) (flagAt w 25) (regAt w 20) (regAt w 15) (regAt w 7))
  else if fld w 27 5 = 22 then some (.takingMaxu (flagAt w 26) (flagAt w 25) (regAt w 20) (regAt w 15) (regAt w 7))
  else none

/-- Page 001 of custom-0 (R222 to R225). -/
def decodeCustom0Page1 (w : Nat) : Option Instr :=
  if fld w 27 5 = 0 then some (.putx (flagAt w 26) (flagAt w 25) (regAt w 20) (regAt w 15) (regAt w 7))
  else if fld w 26 6 = 2 ∧ fld w 20 5 = 0 then some (.take (flagAt w 25) (regAt w 15) (regAt w 7))
  else if fld w 25 7 = 8 ∧ fld w 15 5 = 0 then some (.prempty (regAt w 20) (regAt w 7))
  else if fld w 25 7 = 12 then some (.prtest (regAt w 20) (regAt w 15) (regAt w 7))
  else if fld w 26 6 = 8 then some (.vidxrd (flagAt w 25) (regAt w 20) (regAt w 15) (regAt w 7))
  else if fld w 26 6 = 10 then some (.vidxwr (flagAt w 25) (regAt w 20) (regAt w 15) (regAt w 7))
  else if fld w 26 6 = 12 then some (.vpush (flagAt w 25) (regAt w 20) (regAt w 15) (regAt w 7))
  else if fld w 27 5 = 7 then some (.bfx (flagAt w 26) (flagAt w 25) (regAt w 20) (regAt w 15) (regAt w 7))
  else if fld w 27 5 = 8 then some (.bfxs (flagAt w 26) (flagAt w 25) (regAt w 20) (regAt w 15) (regAt w 7))
  else if fld w 27 5 = 9 then some (.bfi (flagAt w 26) (flagAt w 25) (regAt w 20) (regAt w 15) (regAt w 7))
  else none

/-- Page 010 of custom-0 (R222 to R225). -/
def decodeCustom0Page2 (w : Nat) : Option Instr :=
  if fld w 27 5 = 0 ∧ fld w 7 5 = 0 then some (.tenq (flagAt w 26) (flagAt w 25) (regAt w 20) (regAt w 15))
  else if fld w 27 5 = 1 then some (.tenqt (flagAt w 26) (flagAt w 25) (regAt w 20) (regAt w 15) (regAt w 7))
  else if fld w 15 17 = 8192 ∧ fld w 7 5 = 0 then some .texit
  else if fld w 15 17 = 12288 ∧ fld w 7 5 = 0 then some .tyield
  else if fld w 26 6 = 8 ∧ fld w 20 5 = 0 then some (.klaunch (flagAt w 25) (regAt w 15) (regAt w 7))
  else if fld w 26 6 = 10 ∧ fld w 20 5 = 0 then some (.ticket (flagAt w 25) (regAt w 15) (regAt w 7))
  else none

/-- Page 011 of custom-0 (R222 to R225). -/
def decodeCustom0Page3 (w : Nat) : Option Instr :=
  if fld w 24 8 = 1 ∧ fld w 7 5 = 0 then some (.pgbiasHost (flagAt w 23) (bitsAt 3 w 20) (regAt w 15))
  else if fld w 24 8 = 0 ∧ fld w 7 5 = 0 then some (.pgbiasDev (flagAt w 23) (bitsAt 3 w 20) (regAt w 15))
  else if fld w 20 12 = 128 ∧ fld w 7 5 = 0 then some (.pwhint (regAt w 15))
  else if fld w 15 17 = 8192 ∧ fld w 7 5 = 0 then some .vfence
  else none

/-- Page 100 of custom-0 (R222 to R225). -/
def decodeCustom0Page4 (w : Nat) : Option Instr :=
  if fld w 28 4 = 0 ∧ fld w 15 5 = 0 ∧ fld w 7 5 = 0 then some (.sbwait (bitsAt 8 w 20))
  else none

/-- Page 101 of custom-0 (R222 to R225). -/
def decodeCustom0Page5 (w : Nat) : Option Instr :=
  if fld w 20 6 = 0 then some (.vcfg (bitsAt 4 w 28) (bitsAt 2 w 26) (regAt w 15) (regAt w 7))
  else if fld w 25 1 = 1 then some (.vcfgi (bitsAt 4 w 28) (bitsAt 2 w 26) (bitsAt 10 w 15) (regAt w 7))
  else none

/-- Page 110 of custom-0 (R222 to R225). -/
def decodeCustom0Page6 (w : Nat) : Option Instr :=
  if fld w 25 3 = 0 then some (.vmvx (bitsAt 4 w 28) (regAt w 20) (regAt w 15) (regAt w 7))
  else if fld w 25 3 = 1 then some (.vmvs (bitsAt 4 w 28) (regAt w 20) (regAt w 15) (regAt w 7))
  else none

/-- The pages of custom-0 (R222 to R225). -/
def decodeCustom0 (w : Nat) : Option Instr :=
  match fld w 12 3 with
  | 0 => decodeCustom0Page0 w
  | 1 => decodeCustom0Page1 w
  | 2 => decodeCustom0Page2 w
  | 3 => decodeCustom0Page3 w
  | 4 => decodeCustom0Page4 w
  | 5 => decodeCustom0Page5 w
  | 6 => decodeCustom0Page6 w
  | _ => none

/-- Page 000 of custom-1 (R226 to R229). -/
def decodeCustom1Page0 (w : Nat) : Option Instr :=
  if fld w 22 7 = 0 then some (.ldsRlx (bitsAt 3 w 29) (bitsAt 2 w 20) (regAt w 15) (regAt w 7))
  else if fld w 22 7 = 8 then some (.ldsAcq (bitsAt 3 w 29) (bitsAt 2 w 20) (regAt w 15) (regAt w 7))
  else if fld w 25 4 = 4 ∧ fld w 9 3 = 0 then some (.stsRlx (bitsAt 3 w 29) (regAt w 20) (regAt w 15) (bitsAt 2 w 7))
  else if fld w 25 4 = 6 ∧ fld w 9 3 = 0 then some (.stsRel (bitsAt 3 w 29) (regAt w 20) (regAt w 15) (bitsAt 2 w 7))
  else if fld w 15 14 = 9216 ∧ fld w 7 5 = 0 then some (.fenceSAcq (bitsAt 3 w 29))
  else if fld w 15 14 = 10240 ∧ fld w 7 5 = 0 then some (.fenceSRel (bitsAt 3 w 29))
  else if fld w 15 14 = 11264 ∧ fld w 7 5 = 0 then some (.fenceSAr (bitsAt 3 w 29))
  else none

/-- Page 001 of custom-1 (R226 to R229). -/
def decodeCustom1Page1 (w : Nat) : Option Instr :=
  if fld w 25 7 = 0 then some (.bind (regAt w 20) (regAt w 15) (regAt w 7))
  else if fld w 20 12 = 32 then some (.unbind (regAt w 15) (regAt w 7))
  else if fld w 20 9 = 64 ∧ fld w 7 5 = 0 then some (.acq (bitsAt 3 w 29) (regAt w 15))
  else if fld w 20 9 = 96 then some (.tryacq (bitsAt 3 w 29) (regAt w 15) (regAt w 7))
  else if fld w 20 9 = 128 ∧ fld w 7 5 = 0 then some (.rel (bitsAt 3 w 29) (regAt w 15))
  else if fld w 20 9 = 160 ∧ fld w 7 5 = 0 then some (.arrive (bitsAt 3 w 29) (regAt w 15))
  else if fld w 25 4 = 6 ∧ fld w 7 5 = 0 then some (.waitph (bitsAt 3 w 29) (regAt w 20) (regAt w 15))
  else if fld w 25 4 = 7 then some (.testph (bitsAt 3 w 29) (regAt w 20) (regAt w 15) (regAt w 7))
  else none

/-- Page 010 of custom-1 (R226 to R229). -/
def decodeCustom1Page2 (w : Nat) : Option Instr :=
  if fld w 25 3 = 0 then some (.freeze (flagAt w 31) (bitsAt 3 w 28) (regAt w 20) (regAt w 15) (regAt w 7))
  else if fld w 25 3 = 1 then some (.thaw (flagAt w 31) (bitsAt 3 w 28) (regAt w 20) (regAt w 15) (regAt w 7))
  else if fld w 25 3 = 2 then some (.cpy (flagAt w 31) (bitsAt 3 w 28) (regAt w 20) (regAt w 15) (flagAt w 11) (flagAt w 10) (bitsAt 3 w 7))
  else if fld w 25 3 = 3 then some (.cpyb (flagAt w 31) (bitsAt 3 w 28) (regAt w 20) (regAt w 15) (flagAt w 11) (flagAt w 10) (bitsAt 3 w 7))
  else if fld w 20 12 = 128 ∧ fld w 10 2 = 0 then some (.shpld (regAt w 15) (bitsAt 3 w 7))
  else if fld w 20 12 = 160 ∧ fld w 10 2 = 0 then some (.shpst (regAt w 15) (bitsAt 3 w 7))
  else none

/-- Page 100 of custom-1 (R226 to R229). -/
def decodeCustom1Page4 (w : Nat) : Option Instr :=
  if fld w 27 1 = 0 then some (.talloc (bitsAt 4 w 28) (flagAt w 26) (flagAt w 25) (regAt w 20) (regAt w 15) (regAt w 7))
  else if fld w 27 1 = 1 then some (.tallocZ (bitsAt 4 w 28) (flagAt w 26) (flagAt w 25) (regAt w 20) (regAt w 15) (regAt w 7))
  else none

/-- Page 101 of custom-1 (R226 to R229). -/
def decodeCustom1Page5 (w : Nat) : Option Instr :=
  if fld w 20 12 = 0 ∧ fld w 7 5 = 0 then some (.tfree (regAt w 15))
  else if fld w 25 3 = 1 then some (.tld (bitsAt 4 w 28) (regAt w 20) (regAt w 15) (regAt w 7))
  else if fld w 25 3 = 2 then some (.tst (bitsAt 4 w 28) (regAt w 20) (regAt w 15) (regAt w 7))
  else none

/-- Page 011 of custom-1 (R226 to R229). -/
def decodeCustom1Page3 (w : Nat) : Option Instr :=
  if fld w 25 3 = 0 then some (.gld (flagAt w 31) (bitsAt 3 w 28) (regAt w 20) (regAt w 15) (regAt w 7))
  else if fld w 25 3 = 1 then some (.gldv (flagAt w 31) (bitsAt 3 w 28) (regAt w 20) (regAt w 15) (regAt w 7))
  else if fld w 25 7 = 2 then some (.gjoin (regAt w 20) (regAt w 15) (regAt w 7))
  else if fld w 20 12 = 96 ∧ fld w 7 5 = 0 then some (.gleave (regAt w 15))
  else none

/-- The pages of custom-1 (R226 to R229). -/
def decodeCustom1 (w : Nat) : Option Instr :=
  match fld w 12 3 with
  | 0 => decodeCustom1Page0 w
  | 1 => decodeCustom1Page1 w
  | 2 => decodeCustom1Page2 w
  | 3 => decodeCustom1Page3 w
  | 4 => decodeCustom1Page4 w
  | 5 => decodeCustom1Page5 w
  | _ => none

/-- Page 000 of custom-2 (R230 to R235, R237). -/
def decodeCustom2Page0 (w : Nat) : Option Instr :=
  if fld w 27 5 = 0 ∧ fld w 23 1 = 0 then some (.vaddVv (bitsAt 3 w 24) (bitsAt 3 w 20) (regAt w 15) (regAt w 7))
  else if fld w 27 5 = 0 ∧ fld w 22 2 = 2 then some (.vfaddVv (bitsAt 3 w 24) (bitsAt 2 w 20) (regAt w 15) (regAt w 7))
  else if fld w 27 5 = 1 ∧ fld w 23 1 = 0 then some (.vsubVv (bitsAt 3 w 24) (bitsAt 3 w 20) (regAt w 15) (regAt w 7))
  else if fld w 27 5 = 1 ∧ fld w 22 2 = 2 then some (.vfsubVv (bitsAt 3 w 24) (bitsAt 2 w 20) (regAt w 15) (regAt w 7))
  else if fld w 27 5 = 3 ∧ fld w 23 1 = 0 then some (.vmulVv (bitsAt 3 w 24) (bitsAt 3 w 20) (regAt w 15) (regAt w 7))
  else if fld w 27 5 = 3 ∧ fld w 22 2 = 2 then some (.vfmulVv (bitsAt 3 w 24) (bitsAt 2 w 20) (regAt w 15) (regAt w 7))
  else if fld w 27 5 = 4 ∧ fld w 23 1 = 0 then some (.vmulhVv (bitsAt 3 w 24) (bitsAt 3 w 20) (regAt w 15) (regAt w 7))
  else if fld w 27 5 = 5 ∧ fld w 23 1 = 0 then some (.vmulhnVv (bitsAt 3 w 24) (bitsAt 3 w 20) (regAt w 15) (regAt w 7))
  else if fld w 27 5 = 6 ∧ fld w 23 1 = 0 then some (.vaddsVv (bitsAt 3 w 24) (bitsAt 3 w 20) (regAt w 15) (regAt w 7))
  else if fld w 27 5 = 7 ∧ fld w 23 1 = 0 then some (.vsubsVv (bitsAt 3 w 24) (bitsAt 3 w 20) (regAt w 15) (regAt w 7))
  else if fld w 27 5 = 8 ∧ fld w 23 1 = 0 then some (.vminVv (bitsAt 3 w 24) (bitsAt 3 w 20) (regAt w 15) (regAt w 7))
  else if fld w 27 5 = 8 ∧ fld w 22 2 = 2 then some (.vfminVv (bitsAt 3 w 24) (bitsAt 2 w 20) (regAt w 15) (regAt w 7))
  else if fld w 27 5 = 9 ∧ fld w 23 1 = 0 then some (.vmaxVv (bitsAt 3 w 24) (bitsAt 3 w 20) (regAt w 15) (regAt w 7))
  else if fld w 27 5 = 9 ∧ fld w 22 2 = 2 then some (.vfmaxVv (bitsAt 3 w 24) (bitsAt 2 w 20) (regAt w 15) (regAt w 7))
  else if fld w 27 5 = 10 ∧ fld w 23 1 = 0 then some (.vandVv (bitsAt 3 w 24) (bitsAt 3 w 20) (regAt w 15) (regAt w 7))
  else if fld w 27 5 = 11 ∧ fld w 23 1 = 0 then some (.vorVv (bitsAt 3 w 24) (bitsAt 3 w 20) (regAt w 15) (regAt w 7))
  else if fld w 27 5 = 12 ∧ fld w 23 1 = 0 then some (.vxorVv (bitsAt 3 w 24) (bitsAt 3 w 20) (regAt w 15) (regAt w 7))
  else if fld w 27 5 = 13 ∧ fld w 23 1 = 0 then some (.vsllVv (bitsAt 3 w 24) (bitsAt 3 w 20) (regAt w 15) (regAt w 7))
  else if fld w 27 5 = 14 ∧ fld w 23 1 = 0 then some (.vsrlVv (bitsAt 3 w 24) (bitsAt 3 w 20) (regAt w 15) (regAt w 7))
  else if fld w 27 5 = 15 ∧ fld w 23 1 = 0 then some (.vsraVv (bitsAt 3 w 24) (bitsAt 3 w 20) (regAt w 15) (regAt w 7))
  else if fld w 27 5 = 16 ∧ fld w 22 2 = 2 then some (.vfdivVv (bitsAt 3 w 24) (bitsAt 2 w 20) (regAt w 15) (regAt w 7))
  else if fld w 27 5 = 17 then some (.vselVv (bitsAt 3 w 24) (bitsAt 4 w 20) (regAt w 15) (regAt w 7))
  else if fld w 27 5 = 24 then some (.vperm (bitsAt 3 w 24) (bitsAt 4 w 20) (regAt w 15) (regAt w 7))
  else if fld w 27 5 = 29 ∧ fld w 22 2 = 2 then some (.vscale (bitsAt 3 w 24) (bitsAt 2 w 20) (regAt w 15) (regAt w 7))
  else if fld w 30 2 = 2 ∧ fld w 23 1 = 0 then some (.vcmpVv (bitsAt 3 w 27) (bitsAt 3 w 24) (bitsAt 3 w 20) (regAt w 15) (regAt w 7))
  else if fld w 30 2 = 2 ∧ fld w 22 2 = 2 then some (.vfcmpVv (bitsAt 3 w 27) (bitsAt 3 w 24) (bitsAt 2 w 20) (regAt w 15) (regAt w 7))
  else none

/-- Page 001 of custom-2 (R230 to R235, R237). -/
def decodeCustom2Page1 (w : Nat) : Option Instr :=
  if fld w 27 5 = 0 ∧ fld w 23 1 = 0 then some (.vaddVs (bitsAt 3 w 24) (bitsAt 3 w 20) (regAt w 15) (regAt w 7))
  else if fld w 27 5 = 0 ∧ fld w 22 2 = 2 then some (.vfaddVs (bitsAt 3 w 24) (bitsAt 2 w 20) (regAt w 15) (regAt w 7))
  else if fld w 27 5 = 1 ∧ fld w 23 1 = 0 then some (.vsubVs (bitsAt 3 w 24) (bitsAt 3 w 20) (regAt w 15) (regAt w 7))
  else if fld w 27 5 = 1 ∧ fld w 22 2 = 2 then some (.vfsubVs (bitsAt 3 w 24) (bitsAt 2 w 20) (regAt w 15) (regAt w 7))
  else if fld w 27 5 = 2 ∧ fld w 23 1 = 0 then some (.vrsubVs (bitsAt 3 w 24) (bitsAt 3 w 20) (regAt w 15) (regAt w 7))
  else if fld w 27 5 = 3 ∧ fld w 23 1 = 0 then some (.vmulVs (bitsAt 3 w 24) (bitsAt 3 w 20) (regAt w 15) (regAt w 7))
  else if fld w 27 5 = 3 ∧ fld w 22 2 = 2 then some (.vfmulVs (bitsAt 3 w 24) (bitsAt 2 w 20) (regAt w 15) (regAt w 7))
  else if fld w 27 5 = 4 ∧ fld w 23 1 = 0 then some (.vmulhVs (bitsAt 3 w 24) (bitsAt 3 w 20) (regAt w 15) (regAt w 7))
  else if fld w 27 5 = 5 ∧ fld w 23 1 = 0 then some (.vmulhnVs (bitsAt 3 w 24) (bitsAt 3 w 20) (regAt w 15) (regAt w 7))
  else if fld w 27 5 = 6 ∧ fld w 23 1 = 0 then some (.vaddsVs (bitsAt 3 w 24) (bitsAt 3 w 20) (regAt w 15) (regAt w 7))
  else if fld w 27 5 = 7 ∧ fld w 23 1 = 0 then some (.vsubsVs (bitsAt 3 w 24) (bitsAt 3 w 20) (regAt w 15) (regAt w 7))
  else if fld w 27 5 = 8 ∧ fld w 23 1 = 0 then some (.vminVs (bitsAt 3 w 24) (bitsAt 3 w 20) (regAt w 15) (regAt w 7))
  else if fld w 27 5 = 8 ∧ fld w 22 2 = 2 then some (.vfminVs (bitsAt 3 w 24) (bitsAt 2 w 20) (regAt w 15) (regAt w 7))
  else if fld w 27 5 = 9 ∧ fld w 23 1 = 0 then some (.vmaxVs (bitsAt 3 w 24) (bitsAt 3 w 20) (regAt w 15) (regAt w 7))
  else if fld w 27 5 = 9 ∧ fld w 22 2 = 2 then some (.vfmaxVs (bitsAt 3 w 24) (bitsAt 2 w 20) (regAt w 15) (regAt w 7))
  else if fld w 27 5 = 10 ∧ fld w 23 1 = 0 then some (.vandVs (bitsAt 3 w 24) (bitsAt 3 w 20) (regAt w 15) (regAt w 7))
  else if fld w 27 5 = 11 ∧ fld w 23 1 = 0 then some (.vorVs (bitsAt 3 w 24) (bitsAt 3 w 20) (regAt w 15) (regAt w 7))
  else if fld w 27 5 = 12 ∧ fld w 23 1 = 0 then some (.vxorVs (bitsAt 3 w 24) (bitsAt 3 w 20) (regAt w 15) (regAt w 7))
  else if fld w 27 5 = 13 ∧ fld w 23 1 = 0 then some (.vsllVs (bitsAt 3 w 24) (bitsAt 3 w 20) (regAt w 15) (regAt w 7))
  else if fld w 27 5 = 14 ∧ fld w 23 1 = 0 then some (.vsrlVs (bitsAt 3 w 24) (bitsAt 3 w 20) (regAt w 15) (regAt w 7))
  else if fld w 27 5 = 15 ∧ fld w 23 1 = 0 then some (.vsraVs (bitsAt 3 w 24) (bitsAt 3 w 20) (regAt w 15) (regAt w 7))
  else if fld w 27 5 = 16 ∧ fld w 22 2 = 2 then some (.vfdivVs (bitsAt 3 w 24) (bitsAt 2 w 20) (regAt w 15) (regAt w 7))
  else if fld w 27 5 = 17 then some (.vselVs (bitsAt 3 w 24) (bitsAt 4 w 20) (regAt w 15) (regAt w 7))
  else if fld w 27 5 = 25 then some (.vslupVs (bitsAt 3 w 24) (bitsAt 4 w 20) (regAt w 15) (regAt w 7))
  else if fld w 27 5 = 26 then some (.vsldnVs (bitsAt 3 w 24) (bitsAt 4 w 20) (regAt w 15) (regAt w 7))
  else if fld w 27 5 = 27 then some (.vsl1up (bitsAt 3 w 24) (bitsAt 4 w 20) (regAt w 15) (regAt w 7))
  else if fld w 30 2 = 2 ∧ fld w 23 1 = 0 then some (.vcmpVs (bitsAt 3 w 27) (bitsAt 3 w 24) (bitsAt 3 w 20) (regAt w 15) (regAt w 7))
  else if fld w 30 2 = 2 ∧ fld w 22 2 = 2 then some (.vfcmpVs (bitsAt 3 w 27) (bitsAt 3 w 24) (bitsAt 2 w 20) (regAt w 15) (regAt w 7))
  else none

/-- Page 010 of custom-2 (R230 to R235, R237). -/
def decodeCustom2Page2 (w : Nat) : Option Instr :=
  if fld w 27 5 = 0 ∧ fld w 23 1 = 0 then some (.vaddVi (bitsAt 3 w 24) (bitsAt 3 w 20) (regAt w 15) (regAt w 7))
  else if fld w 27 5 = 2 ∧ fld w 23 1 = 0 then some (.vrsubVi (bitsAt 3 w 24) (bitsAt 3 w 20) (regAt w 15) (regAt w 7))
  else if fld w 27 5 = 6 ∧ fld w 23 1 = 0 then some (.vaddsVi (bitsAt 3 w 24) (bitsAt 3 w 20) (regAt w 15) (regAt w 7))
  else if fld w 27 5 = 10 ∧ fld w 23 1 = 0 then some (.vandVi (bitsAt 3 w 24) (bitsAt 3 w 20) (regAt w 15) (regAt w 7))
  else if fld w 27 5 = 11 ∧ fld w 23 1 = 0 then some (.vorVi (bitsAt 3 w 24) (bitsAt 3 w 20) (regAt w 15) (regAt w 7))
  else if fld w 27 5 = 12 ∧ fld w 23 1 = 0 then some (.vxorVi (bitsAt 3 w 24) (bitsAt 3 w 20) (regAt w 15) (regAt w 7))
  else if fld w 27 5 = 13 ∧ fld w 23 1 = 0 then some (.vsllVi (bitsAt 3 w 24) (bitsAt 3 w 20) (regAt w 15) (regAt w 7))
  else if fld w 27 5 = 14 ∧ fld w 23 1 = 0 then some (.vsrlVi (bitsAt 3 w 24) (bitsAt 3 w 20) (regAt w 15) (regAt w 7))
  else if fld w 27 5 = 15 ∧ fld w 23 1 = 0 then some (.vsraVi (bitsAt 3 w 24) (bitsAt 3 w 20) (regAt w 15) (regAt w 7))
  else if fld w 27 5 = 17 then some (.vselVi (bitsAt 3 w 24) (bitsAt 4 w 20) (regAt w 15) (regAt w 7))
  else if fld w 27 5 = 25 then some (.vslupVi (bitsAt 3 w 24) (bitsAt 4 w 20) (regAt w 15) (regAt w 7))
  else if fld w 27 5 = 26 then some (.vsldnVi (bitsAt 3 w 24) (bitsAt 4 w 20) (regAt w 15) (regAt w 7))
  else if fld w 27 5 = 28 then some (.vxchg (bitsAt 3 w 24) (bitsAt 4 w 20) (regAt w 15) (regAt w 7))
  else if fld w 30 2 = 2 ∧ fld w 23 1 = 0 then some (.vcmpVi (bitsAt 3 w 27) (bitsAt 3 w 24) (bitsAt 3 w 20) (regAt w 15) (regAt w 7))
  else none

/-- Page 011 of custom-2 (R230 to R235, R237). -/
def decodeCustom2Page3 (w : Nat) : Option Instr :=
  if fld w 23 1 = 0 then some (.vmac (regAt w 27) (bitsAt 3 w 24) (bitsAt 3 w 20) (regAt w 15) (regAt w 7))
  else if fld w 22 2 = 2 then some (.vffma (regAt w 27) (bitsAt 3 w 24) (bitsAt 2 w 20) (regAt w 15) (regAt w 7))
  else none

/-- Page 100 of custom-2 (R230 to R235, R237). -/
def decodeCustom2Page4 (w : Nat) : Option Instr :=
  if fld w 23 1 = 0 then some (.vwmac (regAt w 27) (bitsAt 3 w 24) (bitsAt 3 w 20) (regAt w 15) (regAt w 7))
  else if fld w 22 2 = 2 then some (.vffms (regAt w 27) (bitsAt 3 w 24) (bitsAt 2 w 20) (regAt w 15) (regAt w 7))
  else none

/-- Page 101 of custom-2 (R230 to R235, R237). -/
def decodeCustom2Page5 (w : Nat) : Option Instr :=
  if fld w 23 1 = 0 then some (.vwmul (regAt w 27) (bitsAt 3 w 24) (bitsAt 3 w 20) (regAt w 15) (regAt w 7))
  else if fld w 22 2 = 2 then some (.vfnfma (regAt w 27) (bitsAt 3 w 24) (bitsAt 2 w 20) (regAt w 15) (regAt w 7))
  else none

/-- Page 110 of custom-2 (R230 to R235, R237). -/
def decodeCustom2Page6 (w : Nat) : Option Instr :=
  if fld w 31 1 = 0 then some (.vcvt (bitsAt 4 w 27) (bitsAt 3 w 24) (bitsAt 4 w 20) (regAt w 15) (regAt w 7))
  else if fld w 31 1 = 1 then some (.vcvtSr (bitsAt 4 w 27) (bitsAt 3 w 24) (bitsAt 4 w 20) (regAt w 15) (regAt w 7))
  else none

/-- Page 111 of custom-2 (R230 to R235, R237). -/
def decodeCustom2Page7 (w : Nat) : Option Instr :=
  if fld w 27 5 = 0 then some (.vmv (bitsAt 3 w 24) (bitsAt 4 w 20) (regAt w 15) (regAt w 7))
  else if fld w 27 5 = 1 then some (.vmvScalar (bitsAt 3 w 24) (bitsAt 4 w 20) (regAt w 15) (regAt w 7))
  else if fld w 27 5 = 2 then some (.vtake (bitsAt 3 w 24) (bitsAt 4 w 20) (regAt w 15) (regAt w 7))
  else if fld w 27 5 = 3 then some (.vcompress (bitsAt 3 w 24) (bitsAt 4 w 20) (regAt w 15) (regAt w 7))
  else if fld w 27 5 = 4 ∧ fld w 23 1 = 0 then some (.vclz (bitsAt 3 w 24) (bitsAt 3 w 20) (regAt w 15) (regAt w 7))
  else if fld w 27 5 = 4 ∧ fld w 22 2 = 2 then some (.vfabs (bitsAt 3 w 24) (bitsAt 2 w 20) (regAt w 15) (regAt w 7))
  else if fld w 27 5 = 5 ∧ fld w 23 1 = 0 then some (.vpopc (bitsAt 3 w 24) (bitsAt 3 w 20) (regAt w 15) (regAt w 7))
  else if fld w 27 5 = 5 ∧ fld w 22 2 = 2 then some (.vfneg (bitsAt 3 w 24) (bitsAt 2 w 20) (regAt w 15) (regAt w 7))
  else if fld w 27 5 = 6 ∧ fld w 22 2 = 2 then some (.vfsqrt (bitsAt 3 w 24) (bitsAt 2 w 20) (regAt w 15) (regAt w 7))
  else if fld w 27 5 = 7 ∧ fld w 22 2 = 2 then some (.vfclass (bitsAt 3 w 24) (bitsAt 2 w 20) (regAt w 15) (regAt w 7))
  else if fld w 27 5 = 8 ∧ fld w 20 4 = 10 then some (.vrcp (bitsAt 3 w 24) (regAt w 15) (regAt w 7))
  else if fld w 27 5 = 9 ∧ fld w 20 4 = 10 then some (.vrsqrt (bitsAt 3 w 24) (regAt w 15) (regAt w 7))
  else if fld w 27 5 = 10 ∧ fld w 20 4 = 10 then some (.vexp2 (bitsAt 3 w 24) (regAt w 15) (regAt w 7))
  else if fld w 27 5 = 11 ∧ fld w 20 4 = 10 then some (.vlog2 (bitsAt 3 w 24) (regAt w 15) (regAt w 7))
  else if fld w 27 5 = 12 ∧ fld w 20 4 = 10 then some (.vsin (bitsAt 3 w 24) (regAt w 15) (regAt w 7))
  else if fld w 27 5 = 13 ∧ fld w 20 4 = 10 then some (.vcos (bitsAt 3 w 24) (regAt w 15) (regAt w 7))
  else if fld w 27 5 = 14 ∧ fld w 23 1 = 0 then some (.vredsum (bitsAt 3 w 24) (bitsAt 3 w 20) (regAt w 15) (regAt w 7))
  else if fld w 27 5 = 14 ∧ fld w 22 2 = 2 then some (.vfredsum (bitsAt 3 w 24) (bitsAt 2 w 20) (regAt w 15) (regAt w 7))
  else if fld w 27 5 = 15 ∧ fld w 23 1 = 0 then some (.vredmin (bitsAt 3 w 24) (bitsAt 3 w 20) (regAt w 15) (regAt w 7))
  else if fld w 27 5 = 16 ∧ fld w 23 1 = 0 then some (.vredmax (bitsAt 3 w 24) (bitsAt 3 w 20) (regAt w 15) (regAt w 7))
  else if fld w 27 5 = 17 ∧ fld w 18 6 = 0 ∧ fld w 10 2 = 0 then some (.pand (bitsAt 3 w 24) (bitsAt 3 w 15) (bitsAt 3 w 7))
  else if fld w 27 5 = 17 ∧ fld w 18 6 = 4 ∧ fld w 10 2 = 0 then some (.por (bitsAt 3 w 24) (bitsAt 3 w 15) (bitsAt 3 w 7))
  else if fld w 27 5 = 17 ∧ fld w 18 6 = 8 ∧ fld w 10 2 = 0 then some (.pxor (bitsAt 3 w 24) (bitsAt 3 w 15) (bitsAt 3 w 7))
  else if fld w 27 5 = 17 ∧ fld w 15 9 = 96 ∧ fld w 10 2 = 0 then some (.pnot (bitsAt 3 w 24) (bitsAt 3 w 7))
  else if fld w 27 5 = 17 ∧ fld w 20 4 = 4 ∧ fld w 7 5 = 0 then some (.pset (bitsAt 3 w 24) (regAt w 15))
  else if fld w 18 14 = 8724 then some (.pfirst (bitsAt 3 w 15) (regAt w 7))
  else if fld w 27 5 = 17 ∧ fld w 15 9 = 192 ∧ fld w 10 2 = 0 then some (.pmskup (bitsAt 3 w 24) (bitsAt 3 w 7))
  else if fld w 18 14 = 8732 then some (.pcnt (bitsAt 3 w 15) (regAt w 7))
  else if fld w 27 5 = 18 ∧ fld w 20 4 = 2 then some (.vedge (bitsAt 3 w 24) (regAt w 15) (regAt w 7))
  else if fld w 27 5 = 19 ∧ fld w 20 4 = 10 then some (.vrbox (bitsAt 3 w 24) (regAt w 15) (regAt w 7))
  else if fld w 27 5 = 20 ∧ fld w 20 4 = 10 then some (.vrtri (bitsAt 3 w 24) (regAt w 15) (regAt w 7))
  else if fld w 27 5 = 21 ∧ fld w 20 4 = 10 then some (.vtex (bitsAt 3 w 24) (regAt w 15) (regAt w 7))
  else if fld w 27 5 = 22 ∧ fld w 20 4 = 10 then some (.vtexl (bitsAt 3 w 24) (regAt w 15) (regAt w 7))
  else if fld w 27 5 = 23 ∧ fld w 20 4 = 6 then some (.blendc (bitsAt 3 w 24) (regAt w 15) (regAt w 7))
  else if fld w 15 17 = 98304 ∧ fld w 7 5 = 0 then some .vfifoPushVm
  else if fld w 15 17 = 98816 ∧ fld w 7 5 = 0 then some .vfifoPushVc
  else if fld w 15 17 = 99328 ∧ fld w 7 5 = 0 then some .vfifoPopCv
  else if fld w 15 17 = 99840 ∧ fld w 7 5 = 0 then some .vfifoPopMv
  else none

/-- The pages of custom-2 (R230 to R235, R237). -/
def decodeCustom2 (w : Nat) : Option Instr :=
  match fld w 12 3 with
  | 0 => decodeCustom2Page0 w
  | 1 => decodeCustom2Page1 w
  | 2 => decodeCustom2Page2 w
  | 3 => decodeCustom2Page3 w
  | 4 => decodeCustom2Page4 w
  | 5 => decodeCustom2Page5 w
  | 6 => decodeCustom2Page6 w
  | _ => decodeCustom2Page7 w

/-- Page 000 of custom-3 (R236, R238). -/
def decodeCustom3Page0 (w : Nat) : Option Instr :=
  if fld w 31 1 = 0 ∧ fld w 20 2 = 0 then some (.vld (bitsAt 4 w 27) (bitsAt 3 w 24) (bitsAt 2 w 22) (regAt w 15) (regAt w 7))
  else if fld w 31 1 = 0 ∧ fld w 20 2 = 1 then some (.vst (bitsAt 4 w 27) (bitsAt 3 w 24) (bitsAt 2 w 22) (regAt w 15) (regAt w 7))
  else if fld w 31 1 = 0 ∧ fld w 20 2 = 2 then some (.vldff (bitsAt 4 w 27) (bitsAt 3 w 24) (bitsAt 2 w 22) (regAt w 15) (regAt w 7))
  else if fld w 20 2 = 3 then some (.vldsr (bitsAt 2 w 30) (bitsAt 3 w 27) (bitsAt 3 w 24) (bitsAt 2 w 22) (regAt w 15) (regAt w 7))
  else none

/-- Page 001 of custom-3 (R236, R238). -/
def decodeCustom3Page1 (w : Nat) : Option Instr :=
  some (.vlds (regAt w 27) (bitsAt 3 w 24) (bitsAt 2 w 22) (bitsAt 2 w 20) (regAt w 15) (regAt w 7))

/-- Page 010 of custom-3 (R236, R238). -/
def decodeCustom3Page2 (w : Nat) : Option Instr :=
  some (.vsts (regAt w 27) (bitsAt 3 w 24) (bitsAt 2 w 22) (bitsAt 2 w 20) (regAt w 15) (regAt w 7))

/-- Page 011 of custom-3 (R236, R238). -/
def decodeCustom3Page3 (w : Nat) : Option Instr :=
  some (.vldx (regAt w 27) (bitsAt 3 w 24) (bitsAt 2 w 22) (bitsAt 2 w 20) (regAt w 15) (regAt w 7))

/-- Page 100 of custom-3 (R236, R238). -/
def decodeCustom3Page4 (w : Nat) : Option Instr :=
  some (.vstx (regAt w 27) (bitsAt 3 w 24) (bitsAt 2 w 22) (bitsAt 2 w 20) (regAt w 15) (regAt w 7))

/-- Page 101 of custom-3 (R236, R238). -/
def decodeCustom3Page5 (w : Nat) : Option Instr :=
  if fld w 20 2 = 0 then some (.vamoAdd (regAt w 27) (bitsAt 3 w 24) (bitsAt 2 w 22) (regAt w 15) (regAt w 7))
  else if fld w 20 2 = 1 then some (.vamoSwap (regAt w 27) (bitsAt 3 w 24) (bitsAt 2 w 22) (regAt w 15) (regAt w 7))
  else if fld w 20 2 = 2 then some (.vamoMin (regAt w 27) (bitsAt 3 w 24) (bitsAt 2 w 22) (regAt w 15) (regAt w 7))
  else if fld w 20 2 = 3 then some (.vamoMax (regAt w 27) (bitsAt 3 w 24) (bitsAt 2 w 22) (regAt w 15) (regAt w 7))
  else none

/-- Page 110 of custom-3 (R236, R238). -/
def decodeCustom3Page6 (w : Nat) : Option Instr :=
  if fld w 15 1 = 0 then some (.mrow (regAt w 27) (flagAt w 26) (bitsAt 2 w 24) (bitsAt 4 w 20) (bitsAt 2 w 18) (bitsAt 2 w 16) (regAt w 7))
  else if fld w 24 3 = 0 ∧ fld w 18 1 = 0 ∧ fld w 15 1 = 1 then some (.msca (regAt w 27) (regAt w 19) (bitsAt 2 w 16) (regAt w 7))
  else none

/-- Page 111 of custom-3 (R236, R238). -/
def decodeCustom3Page7 (w : Nat) : Option Instr :=
  if fld w 15 12 = 0 then some (.mcfg (regAt w 27) (regAt w 7))
  else if fld w 24 3 = 1 ∧ fld w 15 1 = 0 then some (.mldb (regAt w 27) (bitsAt 4 w 20) (bitsAt 2 w 18) (flagAt w 17) (flagAt w 16) (regAt w 7))
  else if fld w 15 12 = 1024 ∧ fld w 7 5 = 0 then some (.mzero (regAt w 27))
  else if fld w 24 3 = 3 ∧ fld w 18 2 = 0 ∧ fld w 15 2 = 0 then some (.mrd (regAt w 27) (bitsAt 4 w 20) (flagAt w 17) (regAt w 7))
  else if fld w 24 3 = 4 ∧ fld w 20 3 = 0 then some (.mdrainSt (regAt w 27) (flagAt w 23) (regAt w 15) (regAt w 7))
  else if fld w 24 3 = 5 ∧ fld w 20 3 = 0 then some (.mdrainAdd (regAt w 27) (flagAt w 23) (regAt w 15) (regAt w 7))
  else if fld w 24 3 = 6 then some (.mdrainxSt (regAt w 27) (bitsAt 4 w 20) (regAt w 15) (regAt w 7))
  else if fld w 24 3 = 7 then some (.mdrainxAdd (regAt w 27) (bitsAt 4 w 20) (regAt w 15) (regAt w 7))
  else none

/-- The pages of custom-3 (R236, R238). -/
def decodeCustom3 (w : Nat) : Option Instr :=
  match fld w 12 3 with
  | 0 => decodeCustom3Page0 w
  | 1 => decodeCustom3Page1 w
  | 2 => decodeCustom3Page2 w
  | 3 => decodeCustom3Page3 w
  | 4 => decodeCustom3Page4 w
  | 5 => decodeCustom3Page5 w
  | 6 => decodeCustom3Page6 w
  | _ => decodeCustom3Page7 w

/-- The 16-bit forms (R239, R240). -/
def decodeVq (w : Nat) : Option Instr :=
  if w % 4 = 2 then
    match fld w 2 4 with
    | 0 => some (.vqVadd (regAt w 11) (regAt w 6))
    | 1 => some (.vqVsub (regAt w 11) (regAt w 6))
    | 2 => some (.vqVmul (regAt w 11) (regAt w 6))
    | 3 => some (.vqVmac (regAt w 11) (regAt w 6))
    | 4 => some (.vqVfadd (regAt w 11) (regAt w 6))
    | 5 => some (.vqVfmul (regAt w 11) (regAt w 6))
    | 6 => some (.vqVffma (regAt w 11) (regAt w 6))
    | 7 => some (.vqVand (regAt w 11) (regAt w 6))
    | 8 => some (.vqVor (regAt w 11) (regAt w 6))
    | 9 => some (.vqVxor (regAt w 11) (regAt w 6))
    | 10 => some (.vqVsll (regAt w 11) (regAt w 6))
    | 11 => some (.vqVsrl (regAt w 11) (regAt w 6))
    | 12 => some (.vqVmv (regAt w 11) (regAt w 6))
    | 13 => some (.vqVsel (regAt w 11) (regAt w 6))
    | 14 => some (.vqVld (regAt w 11) (regAt w 6))
    | 15 => some (.vqVst (regAt w 11) (regAt w 6))
    | _ => none
  else none

/-- The major opcode map (R219). -/
def decodeMajor (w : Nat) : Option Instr :=
  match w % 128 with
  | 0x03 => decodeLoad false w
  | 0x07 => decodeLoad true w
  | 0x0B => decodeCustom0 w
  | 0x0F => decodeMiscMem w
  | 0x13 => (decodeOpImm w).map .scalarAlu
  | 0x17 => some (.scalarAlu (.auipc (regAt w 7) (bitsAt 20 w 12)))
  | 0x1B => (decodeOpImm32 w).map .scalarAlu
  | 0x23 => decodeStore false w
  | 0x27 => decodeStore true w
  | 0x2B => decodeCustom1 w
  | 0x2F => decodeAmo w
  | 0x33 => decodeOp w
  | 0x37 => some (.scalarAlu (.lui (regAt w 7) (bitsAt 20 w 12)))
  | 0x3B => decodeOp32 w
  | 0x43 => decodeFused .madd w
  | 0x47 => decodeFused .msub w
  | 0x4B => decodeFused .nmsub w
  | 0x4F => decodeFused .nmadd w
  | 0x53 => decodeOpFp w
  | 0x5B => decodeCustom2 w
  | 0x63 => decodeBranch w
  | 0x67 => if fld w 12 3 = 0 then some (.scalarAlu (.jalr (regAt w 7) (regAt w 15) (bitsAt 12 w 20))) else none
  | 0x6F => some (decodeJal w)
  | 0x73 => decodeSystem w
  | 0x7B => decodeCustom3 w
  | _ => none

/-- An encoding with its field checks. -/
def checked (o : Option Instr) : Except Reject Instr :=
  match o with
  | none => .error .unassigned
  | some i => match i.check with
    | none => .ok i
    | some r => .error r

/-- A 32-bit word (R216, R219, R221). -/
def decodeWord (w : Nat) : Except Reject Instr := checked (decodeMajor w)

/-- A 16-bit parcel that is not the low half of a word (R239, R240). -/
def decodeParcel (w : Nat) : Except Reject Instr := checked (decodeVq w)

/-- Decoding of the bytes at the program counter (R216): the instruction and the bytes after it. -/
def decode : List Byte → Except Reject (Instr × List Byte)
  | b0 :: b1 :: rest =>
    if b0.toNat % 4 = 3 then
      match rest with
      | b2 :: b3 :: rest' =>
        match decodeWord (b0.toNat + b1.toNat * 2 ^ 8 + b2.toNat * 2 ^ 16 + b3.toNat * 2 ^ 24) with
        | .ok i => .ok (i, rest')
        | .error r => .error r
      | _ => .error .short
    else
      match decodeParcel (b0.toNat + b1.toNat * 2 ^ 8) with
      | .ok i => .ok (i, rest)
      | .error r => .error r
  | _ => .error .short

/-- The bytes of an instruction of `n` bytes whose bits are `w`, as memory holds them (R216: little-endian). -/
def wordBytes : Nat → Nat → List Byte
  | 0, _ => []
  | n + 1, w => BitVec.ofNat 8 w :: wordBytes n (w / 256)

/-- What the decoder reads from an instruction whose bits are `w`, of `nbits` bits (the rest of a word being 0). -/
def decodeTableWord (nbits w : Nat) : Option Instr :=
  match decode (wordBytes 4 (w % 2 ^ nbits)) with
  | .ok (i, _) => some i
  | .error _ => none

/-! ### The encoder, from the same tables -/

/-- R-type: opcode, rd, funct3, rs1, rs2, funct7. -/
def encR (opc d f3 a b f7 : Nat) : Nat := opc + d * 2 ^ 7 + f3 * 2 ^ 12 + a * 2 ^ 15 + b * 2 ^ 20 + f7 * 2 ^ 25
/-- I-type: opcode, rd, funct3, rs1, immediate. -/
def encI (opc d f3 a i : Nat) : Nat := opc + d * 2 ^ 7 + f3 * 2 ^ 12 + a * 2 ^ 15 + i * 2 ^ 20

/-- The word of a standard operation. -/
def AluInstr.encode : AluInstr → Nat
  | .rr op d a b => match op.op with
    | some (f3, f7) => encR 0x33 d.toNat f3 a.toNat b.toNat f7
    | none => encR 0x3B d.toNat op.op32.1 a.toNat b.toNat op.op32.2
  | .un op d a => encI op.code.1 d.toNat op.code.2.1 a.toNat op.code.2.2
  | .imm op d a i => match op with
    | .addi => encI 0x13 d.toNat 0 a.toNat i.toNat
    | .slti => encI 0x13 d.toNat 2 a.toNat i.toNat
    | .sltiu => encI 0x13 d.toNat 3 a.toNat i.toNat
    | .xori => encI 0x13 d.toNat 4 a.toNat i.toNat
    | .ori => encI 0x13 d.toNat 6 a.toNat i.toNat
    | .andi => encI 0x13 d.toNat 7 a.toNat i.toNat
    | .addiw => encI 0x1B d.toNat 0 a.toNat i.toNat
  | .sh op d a n => match op with
    | .slli => encI 0x13 d.toNat 1 a.toNat n.toNat
    | .srli => encI 0x13 d.toNat 5 a.toNat n.toNat
    | .srai => encI 0x13 d.toNat 5 a.toNat (n.toNat + 16 * 64)
    | .rori => encI 0x13 d.toNat 5 a.toNat (n.toNat + 24 * 64)
    | .slliuw => encI 0x1B d.toNat 1 a.toNat (n.toNat + 2 * 64)
  | .shw op d a n => match op with
    | .slliw => encR 0x1B d.toNat 1 a.toNat n.toNat 0
    | .srliw => encR 0x1B d.toNat 5 a.toNat n.toNat 0
    | .sraiw => encR 0x1B d.toNat 5 a.toNat n.toNat 32
    | .roriw => encR 0x1B d.toNat 5 a.toNat n.toNat 48
  | .lui d i => 0x37 + d.toNat * 2 ^ 7 + i.toNat * 2 ^ 12
  | .auipc d i => 0x17 + d.toNat * 2 ^ 7 + i.toNat * 2 ^ 12
  | .branch op a b off =>
    encR 0x63 (fld off.toNat 0 4 * 2 + fld off.toNat 10 1) op.code a.toNat b.toNat
      (fld off.toNat 4 6 + fld off.toNat 11 1 * 64)
  | .jal d off =>
    0x6F + d.toNat * 2 ^ 7 + fld off.toNat 11 8 * 2 ^ 12 + fld off.toNat 10 1 * 2 ^ 20
      + fld off.toNat 0 10 * 2 ^ 21 + fld off.toNat 19 1 * 2 ^ 31
  | .jalr d a i => encI 0x67 d.toNat 0 a.toNat i.toNat
  | .farith op f rm d a b =>
    encR 0x53 d.toNat rm.toNat a.toNat b.toNat (f.code + 4 * (match op with | .add => 0 | .sub => 1 | .mul => 2))
  | .ffused op f rm d a b c =>
    encR (match op with | .madd => 0x43 | .msub => 0x47 | .nmsub => 0x4B | .nmadd => 0x4F)
      d.toNat rm.toNat a.toNat b.toNat (f.code + 4 * c.toNat)
  | .fpair op f d a b => match op with
    | .sgnj => encR 0x53 d.toNat 0 a.toNat b.toNat (f.code + 4 * 4)
    | .sgnjn => encR 0x53 d.toNat 1 a.toNat b.toNat (f.code + 4 * 4)
    | .sgnjx => encR 0x53 d.toNat 2 a.toNat b.toNat (f.code + 4 * 4)
    | .min => encR 0x53 d.toNat 0 a.toNat b.toNat (f.code + 4 * 5)
    | .max => encR 0x53 d.toNat 1 a.toNat b.toNat (f.code + 4 * 5)
  | .fcmp op f d a b =>
    encR 0x53 d.toNat (match op with | .le => 0 | .lt => 1 | .eq => 2) a.toNat b.toNat (f.code + 4 * 20)
  | .ftoi t f rm d a => encR 0x53 d.toNat rm.toNat a.toNat t.code (f.code + 4 * 24)
  | .itof f t rm d a => encR 0x53 d.toNat rm.toNat a.toNat t.code (f.code + 4 * 26)
  | .fcvt f rm d a => match f with
    | .s => encR 0x53 d.toNat rm.toNat a.toNat 1 (0 + 4 * 8)
    | .d => encR 0x53 d.toNat rm.toNat a.toNat 0 (1 + 4 * 8)
  | .fmvx f d a => encR 0x53 d.toNat 0 a.toNat 0 (f.code + 4 * 28)
  | .fmvf f d a => encR 0x53 d.toNat 0 a.toNat 0 (f.code + 4 * 30)
  | .fclass f d a => encR 0x53 d.toNat 1 a.toNat 0 (f.code + 4 * 28)

/-- A word: its fixed bits and its fields, each a value and its lowest bit. -/
def word (m : Nat) : List (Nat × Nat) → Nat
  | [] => m
  | (v, lo) :: rest => word m rest + v * 2 ^ lo

set_option maxHeartbeats 2000000 in
/-- The word of an instruction that has one: 0 for the steps of other agents. -/
def encode : Instr → Nat
  | .scalarAlu a => a.encode
  | .integerDivide op d a b => encR op.code.1 d.toNat op.code.2 a.toNat b.toNat 1
  | .fpDivideSqrt sqrt f rm d a b => encR 0x53 d.toNat rm.toNat a.toNat b.toNat (f.code + 4 * (if sqrt then 11 else 3))
  | .scalarLoad op d a i => encI op.code.1 d.toNat op.code.2 a.toNat i.toNat
  | .scalarStore op a b i => encR op.code.1 (fld i.toNat 0 5) op.code.2 a.toNat b.toNat (fld i.toNat 5 7)
  | .amo op dbl aq rl d a b =>
    encR 0x2F d.toNat (2 + bitNat dbl) a.toNat b.toNat (bitNat rl + 2 * bitNat aq + 4 * op.code)
  | .lr dbl aq rl d a => encR 0x2F d.toNat (2 + bitNat dbl) a.toNat 0 (bitNat rl + 2 * bitNat aq + 4 * 2)
  | .sc dbl aq rl d a b => encR 0x2F d.toNat (2 + bitNat dbl) a.toNat b.toNat (bitNat rl + 2 * bitNat aq + 4 * 3)
  | .fence fm pred succ => encI 0x0F 0 0 0 (succ.toNat + pred.toNat * 2 ^ 4 + fm.toNat * 2 ^ 8)
  | .fenceTso => encI 0x0F 0 0 0 0x833
  | .fenceI => encI 0x0F 0 1 0 0
  | .sfenceVma b a => encR 0x73 0 0 a.toNat b.toNat 9
  | .ecall => 0x73
  | .ebreak => 0x00100073
  | .sret => 0x10200073
  | .mret => 0x30200073
  | .wfi => 0x10500073
  | .csrAccess op imm csr d a =>
    encI 0x73 d.toNat ((match op with | .rw => 1 | .rs => 2 | .rc => 3) + (if imm then 4 else 0)) a.toNat csr.toNat
  | .takingAdd u t b a d => word 0xB [(bitNat u, 26), (bitNat t, 25), (b.toNat, 20), (a.toNat, 15), (d.toNat, 7)]
  | .takingSub u t b a d => word 0x800000B [(bitNat u, 26), (bitNat t, 25), (b.toNat, 20), (a.toNat, 15), (d.toNat, 7)]
  | .takingSll u t b a d => word 0x1000000B [(bitNat u, 26), (bitNat t, 25), (b.toNat, 20), (a.toNat, 15), (d.toNat, 7)]
  | .takingSlt u t b a d => word 0x1800000B [(bitNat u, 26), (bitNat t, 25), (b.toNat, 20), (a.toNat, 15), (d.toNat, 7)]
  | .takingSltu u t b a d => word 0x2000000B [(bitNat u, 26), (bitNat t, 25), (b.toNat, 20), (a.toNat, 15), (d.toNat, 7)]
  | .takingXor u t b a d => word 0x2800000B [(bitNat u, 26), (bitNat t, 25), (b.toNat, 20), (a.toNat, 15), (d.toNat, 7)]
  | .takingSrl u t b a d => word 0x3000000B [(bitNat u, 26), (bitNat t, 25), (b.toNat, 20), (a.toNat, 15), (d.toNat, 7)]
  | .takingSra u t b a d => word 0x3800000B [(bitNat u, 26), (bitNat t, 25), (b.toNat, 20), (a.toNat, 15), (d.toNat, 7)]
  | .takingOr u t b a d => word 0x4000000B [(bitNat u, 26), (bitNat t, 25), (b.toNat, 20), (a.toNat, 15), (d.toNat, 7)]
  | .takingAnd u t b a d => word 0x4800000B [(bitNat u, 26), (bitNat t, 25), (b.toNat, 20), (a.toNat, 15), (d.toNat, 7)]
  | .takingAddw u t b a d => word 0x5000000B [(bitNat u, 26), (bitNat t, 25), (b.toNat, 20), (a.toNat, 15), (d.toNat, 7)]
  | .takingSubw u t b a d => word 0x5800000B [(bitNat u, 26), (bitNat t, 25), (b.toNat, 20), (a.toNat, 15), (d.toNat, 7)]
  | .takingSllw u t b a d => word 0x6000000B [(bitNat u, 26), (bitNat t, 25), (b.toNat, 20), (a.toNat, 15), (d.toNat, 7)]
  | .takingSrlw u t b a d => word 0x6800000B [(bitNat u, 26), (bitNat t, 25), (b.toNat, 20), (a.toNat, 15), (d.toNat, 7)]
  | .takingSraw u t b a d => word 0x7000000B [(bitNat u, 26), (bitNat t, 25), (b.toNat, 20), (a.toNat, 15), (d.toNat, 7)]
  | .takingMul u t b a d => word 0x7800000B [(bitNat u, 26), (bitNat t, 25), (b.toNat, 20), (a.toNat, 15), (d.toNat, 7)]
  | .takingMulh u t b a d => word 0x8000000B [(bitNat u, 26), (bitNat t, 25), (b.toNat, 20), (a.toNat, 15), (d.toNat, 7)]
  | .takingMulhu u t b a d => word 0x8800000B [(bitNat u, 26), (bitNat t, 25), (b.toNat, 20), (a.toNat, 15), (d.toNat, 7)]
  | .takingMulw u t b a d => word 0x9000000B [(bitNat u, 26), (bitNat t, 25), (b.toNat, 20), (a.toNat, 15), (d.toNat, 7)]
  | .takingMin u t b a d => word 0x9800000B [(bitNat u, 26), (bitNat t, 25), (b.toNat, 20), (a.toNat, 15), (d.toNat, 7)]
  | .takingMax u t b a d => word 0xA000000B [(bitNat u, 26), (bitNat t, 25), (b.toNat, 20), (a.toNat, 15), (d.toNat, 7)]
  | .takingMinu u t b a d => word 0xA800000B [(bitNat u, 26), (bitNat t, 25), (b.toNat, 20), (a.toNat, 15), (d.toNat, 7)]
  | .takingMaxu u t b a d => word 0xB000000B [(bitNat u, 26), (bitNat t, 25), (b.toNat, 20), (a.toNat, 15), (d.toNat, 7)]
  | .putx u t b a d => word 0x100B [(bitNat u, 26), (bitNat t, 25), (b.toNat, 20), (a.toNat, 15), (d.toNat, 7)]
  | .take t a d => word 0x800100B [(bitNat t, 25), (a.toNat, 15), (d.toNat, 7)]
  | .prempty b d => word 0x1000100B [(b.toNat, 20), (d.toNat, 7)]
  | .prtest b a d => word 0x1800100B [(b.toNat, 20), (a.toNat, 15), (d.toNat, 7)]
  | .vidxrd t b a d => word 0x2000100B [(bitNat t, 25), (b.toNat, 20), (a.toNat, 15), (d.toNat, 7)]
  | .vidxwr t b a d => word 0x2800100B [(bitNat t, 25), (b.toNat, 20), (a.toNat, 15), (d.toNat, 7)]
  | .vpush t b a d => word 0x3000100B [(bitNat t, 25), (b.toNat, 20), (a.toNat, 15), (d.toNat, 7)]
  | .bfx u t b a d => word 0x3800100B [(bitNat u, 26), (bitNat t, 25), (b.toNat, 20), (a.toNat, 15), (d.toNat, 7)]
  | .bfxs u t b a d => word 0x4000100B [(bitNat u, 26), (bitNat t, 25), (b.toNat, 20), (a.toNat, 15), (d.toNat, 7)]
  | .bfi u t b a d => word 0x4800100B [(bitNat u, 26), (bitNat t, 25), (b.toNat, 20), (a.toNat, 15), (d.toNat, 7)]
  | .tenq u t b a => word 0x200B [(bitNat u, 26), (bitNat t, 25), (b.toNat, 20), (a.toNat, 15)]
  | .tenqt u t b a d => word 0x800200B [(bitNat u, 26), (bitNat t, 25), (b.toNat, 20), (a.toNat, 15), (d.toNat, 7)]
  | .texit => word 0x1000200B []
  | .tyield => word 0x1800200B []
  | .klaunch t a d => word 0x2000200B [(bitNat t, 25), (a.toNat, 15), (d.toNat, 7)]
  | .ticket t a d => word 0x2800200B [(bitNat t, 25), (a.toNat, 15), (d.toNat, 7)]
  | .pgbiasHost e s a => word 0x100300B [(bitNat e, 23), (s.toNat, 20), (a.toNat, 15)]
  | .pgbiasDev e s a => word 0x300B [(bitNat e, 23), (s.toNat, 20), (a.toNat, 15)]
  | .pwhint a => word 0x800300B [(a.toNat, 15)]
  | .vfence => word 0x1000300B []
  | .sbwait m => word 0x400B [(m.toNat, 20)]
  | .vcfg e g a d => word 0x500B [(e.toNat, 28), (g.toNat, 26), (a.toNat, 15), (d.toNat, 7)]
  | .vcfgi e g v d => word 0x200500B [(e.toNat, 28), (g.toNat, 26), (v.toNat, 15), (d.toNat, 7)]
  | .vmvx e b a d => word 0x600B [(e.toNat, 28), (b.toNat, 20), (a.toNat, 15), (d.toNat, 7)]
  | .vmvs e b a d => word 0x200600B [(e.toNat, 28), (b.toNat, 20), (a.toNat, 15), (d.toNat, 7)]
  | .ldsRlx s z b d => word 0x2B [(s.toNat, 29), (z.toNat, 20), (b.toNat, 15), (d.toNat, 7)]
  | .ldsAcq s z b d => word 0x200002B [(s.toNat, 29), (z.toNat, 20), (b.toNat, 15), (d.toNat, 7)]
  | .stsRlx s v b z => word 0x800002B [(s.toNat, 29), (v.toNat, 20), (b.toNat, 15), (z.toNat, 7)]
  | .stsRel s v b z => word 0xC00002B [(s.toNat, 29), (v.toNat, 20), (b.toNat, 15), (z.toNat, 7)]
  | .fenceSAcq s => word 0x1200002B [(s.toNat, 29)]
  | .fenceSRel s => word 0x1400002B [(s.toNat, 29)]
  | .fenceSAr s => word 0x1600002B [(s.toNat, 29)]
  | .bind c b a => word 0x102B [(c.toNat, 20), (b.toNat, 15), (a.toNat, 7)]
  | .unbind b a => word 0x200102B [(b.toNat, 15), (a.toNat, 7)]
  | .acq s b => word 0x400102B [(s.toNat, 29), (b.toNat, 15)]
  | .tryacq s b d => word 0x600102B [(s.toNat, 29), (b.toNat, 15), (d.toNat, 7)]
  | .rel s b => word 0x800102B [(s.toNat, 29), (b.toNat, 15)]
  | .arrive s b => word 0xA00102B [(s.toNat, 29), (b.toNat, 15)]
  | .waitph s c b => word 0xC00102B [(s.toNat, 29), (c.toNat, 20), (b.toNat, 15)]
  | .testph s c b d => word 0xE00102B [(s.toNat, 29), (c.toNat, 20), (b.toNat, 15), (d.toNat, 7)]
  | .freeze e s c b a => word 0x202B [(bitNat e, 31), (s.toNat, 28), (c.toNat, 20), (b.toNat, 15), (a.toNat, 7)]
  | .thaw e s c b a => word 0x200202B [(bitNat e, 31), (s.toNat, 28), (c.toNat, 20), (b.toNat, 15), (a.toNat, 7)]
  | .cpy e s c b u q h => word 0x400202B [(bitNat e, 31), (s.toNat, 28), (c.toNat, 20), (b.toNat, 15), (bitNat u, 11), (bitNat q, 10), (h.toNat, 7)]
  | .cpyb e s c b u q h => word 0x600202B [(bitNat e, 31), (s.toNat, 28), (c.toNat, 20), (b.toNat, 15), (bitNat u, 11), (bitNat q, 10), (h.toNat, 7)]
  | .shpld b h => word 0x800202B [(b.toNat, 15), (h.toNat, 7)]
  | .shpst b h => word 0xA00202B [(b.toNat, 15), (h.toNat, 7)]
  | .talloc e p k c b d => word 0x402B [(e.toNat, 28), (bitNat p, 26), (bitNat k, 25), (c.toNat, 20), (b.toNat, 15), (d.toNat, 7)]
  | .tallocZ e p k c b d => word 0x800402B [(e.toNat, 28), (bitNat p, 26), (bitNat k, 25), (c.toNat, 20), (b.toNat, 15), (d.toNat, 7)]
  | .tfree b => word 0x502B [(b.toNat, 15)]
  | .tld e c b d => word 0x200502B [(e.toNat, 28), (c.toNat, 20), (b.toNat, 15), (d.toNat, 7)]
  | .tst e c b a => word 0x400502B [(e.toNat, 28), (c.toNat, 20), (b.toNat, 15), (a.toNat, 7)]
  | .gld e s c b a => word 0x302B [(bitNat e, 31), (s.toNat, 28), (c.toNat, 20), (b.toNat, 15), (a.toNat, 7)]
  | .gldv e s c b a => word 0x200302B [(bitNat e, 31), (s.toNat, 28), (c.toNat, 20), (b.toNat, 15), (a.toNat, 7)]
  | .gjoin c b d => word 0x400302B [(c.toNat, 20), (b.toNat, 15), (d.toNat, 7)]
  | .gleave b => word 0x600302B [(b.toNat, 15)]
  | .vaddVv p e s d => word 0x5B [(p.toNat, 24), (e.toNat, 20), (s.toNat, 15), (d.toNat, 7)]
  | .vaddVs p e s d => word 0x105B [(p.toNat, 24), (e.toNat, 20), (s.toNat, 15), (d.toNat, 7)]
  | .vaddVi p e i d => word 0x205B [(p.toNat, 24), (e.toNat, 20), (i.toNat, 15), (d.toNat, 7)]
  | .vfaddVv p e s d => word 0x80005B [(p.toNat, 24), (e.toNat, 20), (s.toNat, 15), (d.toNat, 7)]
  | .vfaddVs p e s d => word 0x80105B [(p.toNat, 24), (e.toNat, 20), (s.toNat, 15), (d.toNat, 7)]
  | .vsubVv p e s d => word 0x800005B [(p.toNat, 24), (e.toNat, 20), (s.toNat, 15), (d.toNat, 7)]
  | .vsubVs p e s d => word 0x800105B [(p.toNat, 24), (e.toNat, 20), (s.toNat, 15), (d.toNat, 7)]
  | .vfsubVv p e s d => word 0x880005B [(p.toNat, 24), (e.toNat, 20), (s.toNat, 15), (d.toNat, 7)]
  | .vfsubVs p e s d => word 0x880105B [(p.toNat, 24), (e.toNat, 20), (s.toNat, 15), (d.toNat, 7)]
  | .vrsubVs p e s d => word 0x1000105B [(p.toNat, 24), (e.toNat, 20), (s.toNat, 15), (d.toNat, 7)]
  | .vrsubVi p e i d => word 0x1000205B [(p.toNat, 24), (e.toNat, 20), (i.toNat, 15), (d.toNat, 7)]
  | .vmulVv p e s d => word 0x1800005B [(p.toNat, 24), (e.toNat, 20), (s.toNat, 15), (d.toNat, 7)]
  | .vmulVs p e s d => word 0x1800105B [(p.toNat, 24), (e.toNat, 20), (s.toNat, 15), (d.toNat, 7)]
  | .vfmulVv p e s d => word 0x1880005B [(p.toNat, 24), (e.toNat, 20), (s.toNat, 15), (d.toNat, 7)]
  | .vfmulVs p e s d => word 0x1880105B [(p.toNat, 24), (e.toNat, 20), (s.toNat, 15), (d.toNat, 7)]
  | .vmulhVv p e s d => word 0x2000005B [(p.toNat, 24), (e.toNat, 20), (s.toNat, 15), (d.toNat, 7)]
  | .vmulhVs p e s d => word 0x2000105B [(p.toNat, 24), (e.toNat, 20), (s.toNat, 15), (d.toNat, 7)]
  | .vmulhnVv p e s d => word 0x2800005B [(p.toNat, 24), (e.toNat, 20), (s.toNat, 15), (d.toNat, 7)]
  | .vmulhnVs p e s d => word 0x2800105B [(p.toNat, 24), (e.toNat, 20), (s.toNat, 15), (d.toNat, 7)]
  | .vaddsVv p e s d => word 0x3000005B [(p.toNat, 24), (e.toNat, 20), (s.toNat, 15), (d.toNat, 7)]
  | .vaddsVs p e s d => word 0x3000105B [(p.toNat, 24), (e.toNat, 20), (s.toNat, 15), (d.toNat, 7)]
  | .vaddsVi p e i d => word 0x3000205B [(p.toNat, 24), (e.toNat, 20), (i.toNat, 15), (d.toNat, 7)]
  | .vsubsVv p e s d => word 0x3800005B [(p.toNat, 24), (e.toNat, 20), (s.toNat, 15), (d.toNat, 7)]
  | .vsubsVs p e s d => word 0x3800105B [(p.toNat, 24), (e.toNat, 20), (s.toNat, 15), (d.toNat, 7)]
  | .vminVv p e s d => word 0x4000005B [(p.toNat, 24), (e.toNat, 20), (s.toNat, 15), (d.toNat, 7)]
  | .vminVs p e s d => word 0x4000105B [(p.toNat, 24), (e.toNat, 20), (s.toNat, 15), (d.toNat, 7)]
  | .vfminVv p e s d => word 0x4080005B [(p.toNat, 24), (e.toNat, 20), (s.toNat, 15), (d.toNat, 7)]
  | .vfminVs p e s d => word 0x4080105B [(p.toNat, 24), (e.toNat, 20), (s.toNat, 15), (d.toNat, 7)]
  | .vmaxVv p e s d => word 0x4800005B [(p.toNat, 24), (e.toNat, 20), (s.toNat, 15), (d.toNat, 7)]
  | .vmaxVs p e s d => word 0x4800105B [(p.toNat, 24), (e.toNat, 20), (s.toNat, 15), (d.toNat, 7)]
  | .vfmaxVv p e s d => word 0x4880005B [(p.toNat, 24), (e.toNat, 20), (s.toNat, 15), (d.toNat, 7)]
  | .vfmaxVs p e s d => word 0x4880105B [(p.toNat, 24), (e.toNat, 20), (s.toNat, 15), (d.toNat, 7)]
  | .vandVv p e s d => word 0x5000005B [(p.toNat, 24), (e.toNat, 20), (s.toNat, 15), (d.toNat, 7)]
  | .vandVs p e s d => word 0x5000105B [(p.toNat, 24), (e.toNat, 20), (s.toNat, 15), (d.toNat, 7)]
  | .vandVi p e i d => word 0x5000205B [(p.toNat, 24), (e.toNat, 20), (i.toNat, 15), (d.toNat, 7)]
  | .vorVv p e s d => word 0x5800005B [(p.toNat, 24), (e.toNat, 20), (s.toNat, 15), (d.toNat, 7)]
  | .vorVs p e s d => word 0x5800105B [(p.toNat, 24), (e.toNat, 20), (s.toNat, 15), (d.toNat, 7)]
  | .vorVi p e i d => word 0x5800205B [(p.toNat, 24), (e.toNat, 20), (i.toNat, 15), (d.toNat, 7)]
  | .vxorVv p e s d => word 0x6000005B [(p.toNat, 24), (e.toNat, 20), (s.toNat, 15), (d.toNat, 7)]
  | .vxorVs p e s d => word 0x6000105B [(p.toNat, 24), (e.toNat, 20), (s.toNat, 15), (d.toNat, 7)]
  | .vxorVi p e i d => word 0x6000205B [(p.toNat, 24), (e.toNat, 20), (i.toNat, 15), (d.toNat, 7)]
  | .vsllVv p e s d => word 0x6800005B [(p.toNat, 24), (e.toNat, 20), (s.toNat, 15), (d.toNat, 7)]
  | .vsllVs p e s d => word 0x6800105B [(p.toNat, 24), (e.toNat, 20), (s.toNat, 15), (d.toNat, 7)]
  | .vsllVi p e i d => word 0x6800205B [(p.toNat, 24), (e.toNat, 20), (i.toNat, 15), (d.toNat, 7)]
  | .vsrlVv p e s d => word 0x7000005B [(p.toNat, 24), (e.toNat, 20), (s.toNat, 15), (d.toNat, 7)]
  | .vsrlVs p e s d => word 0x7000105B [(p.toNat, 24), (e.toNat, 20), (s.toNat, 15), (d.toNat, 7)]
  | .vsrlVi p e i d => word 0x7000205B [(p.toNat, 24), (e.toNat, 20), (i.toNat, 15), (d.toNat, 7)]
  | .vsraVv p e s d => word 0x7800005B [(p.toNat, 24), (e.toNat, 20), (s.toNat, 15), (d.toNat, 7)]
  | .vsraVs p e s d => word 0x7800105B [(p.toNat, 24), (e.toNat, 20), (s.toNat, 15), (d.toNat, 7)]
  | .vsraVi p e i d => word 0x7800205B [(p.toNat, 24), (e.toNat, 20), (i.toNat, 15), (d.toNat, 7)]
  | .vfdivVv p e s d => word 0x8080005B [(p.toNat, 24), (e.toNat, 20), (s.toNat, 15), (d.toNat, 7)]
  | .vfdivVs p e s d => word 0x8080105B [(p.toNat, 24), (e.toNat, 20), (s.toNat, 15), (d.toNat, 7)]
  | .vselVv p e s d => word 0x8800005B [(p.toNat, 24), (e.toNat, 20), (s.toNat, 15), (d.toNat, 7)]
  | .vselVs p e s d => word 0x8800105B [(p.toNat, 24), (e.toNat, 20), (s.toNat, 15), (d.toNat, 7)]
  | .vselVi p e i d => word 0x8800205B [(p.toNat, 24), (e.toNat, 20), (i.toNat, 15), (d.toNat, 7)]
  | .vcmpVv c p e s d => word 0x8000005B [(c.toNat, 27), (p.toNat, 24), (e.toNat, 20), (s.toNat, 15), (d.toNat, 7)]
  | .vcmpVs c p e s d => word 0x8000105B [(c.toNat, 27), (p.toNat, 24), (e.toNat, 20), (s.toNat, 15), (d.toNat, 7)]
  | .vcmpVi c p e i d => word 0x8000205B [(c.toNat, 27), (p.toNat, 24), (e.toNat, 20), (i.toNat, 15), (d.toNat, 7)]
  | .vfcmpVv c p e s d => word 0x8080005B [(c.toNat, 27), (p.toNat, 24), (e.toNat, 20), (s.toNat, 15), (d.toNat, 7)]
  | .vfcmpVs c p e s d => word 0x8080105B [(c.toNat, 27), (p.toNat, 24), (e.toNat, 20), (s.toNat, 15), (d.toNat, 7)]
  | .vperm p e s d => word 0xC000005B [(p.toNat, 24), (e.toNat, 20), (s.toNat, 15), (d.toNat, 7)]
  | .vslupVs p e s d => word 0xC800105B [(p.toNat, 24), (e.toNat, 20), (s.toNat, 15), (d.toNat, 7)]
  | .vslupVi p e i d => word 0xC800205B [(p.toNat, 24), (e.toNat, 20), (i.toNat, 15), (d.toNat, 7)]
  | .vsldnVs p e s d => word 0xD000105B [(p.toNat, 24), (e.toNat, 20), (s.toNat, 15), (d.toNat, 7)]
  | .vsldnVi p e i d => word 0xD000205B [(p.toNat, 24), (e.toNat, 20), (i.toNat, 15), (d.toNat, 7)]
  | .vsl1up p e s d => word 0xD800105B [(p.toNat, 24), (e.toNat, 20), (s.toNat, 15), (d.toNat, 7)]
  | .vxchg p e i d => word 0xE000205B [(p.toNat, 24), (e.toNat, 20), (i.toNat, 15), (d.toNat, 7)]
  | .vscale p e s d => word 0xE880005B [(p.toNat, 24), (e.toNat, 20), (s.toNat, 15), (d.toNat, 7)]
  | .vmac b p e a d => word 0x305B [(b.toNat, 27), (p.toNat, 24), (e.toNat, 20), (a.toNat, 15), (d.toNat, 7)]
  | .vffma b p e a d => word 0x80305B [(b.toNat, 27), (p.toNat, 24), (e.toNat, 20), (a.toNat, 15), (d.toNat, 7)]
  | .vwmac b p e a d => word 0x405B [(b.toNat, 27), (p.toNat, 24), (e.toNat, 20), (a.toNat, 15), (d.toNat, 7)]
  | .vffms b p e a d => word 0x80405B [(b.toNat, 27), (p.toNat, 24), (e.toNat, 20), (a.toNat, 15), (d.toNat, 7)]
  | .vwmul b p e a d => word 0x505B [(b.toNat, 27), (p.toNat, 24), (e.toNat, 20), (a.toNat, 15), (d.toNat, 7)]
  | .vfnfma b p e a d => word 0x80505B [(b.toNat, 27), (p.toNat, 24), (e.toNat, 20), (a.toNat, 15), (d.toNat, 7)]
  | .vcvt f p e s d => word 0x605B [(f.toNat, 27), (p.toNat, 24), (e.toNat, 20), (s.toNat, 15), (d.toNat, 7)]
  | .vcvtSr f p e s d => word 0x8000605B [(f.toNat, 27), (p.toNat, 24), (e.toNat, 20), (s.toNat, 15), (d.toNat, 7)]
  | .vmv p e s d => word 0x705B [(p.toNat, 24), (e.toNat, 20), (s.toNat, 15), (d.toNat, 7)]
  | .vmvScalar p e s d => word 0x800705B [(p.toNat, 24), (e.toNat, 20), (s.toNat, 15), (d.toNat, 7)]
  | .vtake p e s d => word 0x1000705B [(p.toNat, 24), (e.toNat, 20), (s.toNat, 15), (d.toNat, 7)]
  | .vcompress p e s d => word 0x1800705B [(p.toNat, 24), (e.toNat, 20), (s.toNat, 15), (d.toNat, 7)]
  | .vclz p e s d => word 0x2000705B [(p.toNat, 24), (e.toNat, 20), (s.toNat, 15), (d.toNat, 7)]
  | .vfabs p e s d => word 0x2080705B [(p.toNat, 24), (e.toNat, 20), (s.toNat, 15), (d.toNat, 7)]
  | .vpopc p e s d => word 0x2800705B [(p.toNat, 24), (e.toNat, 20), (s.toNat, 15), (d.toNat, 7)]
  | .vfneg p e s d => word 0x2880705B [(p.toNat, 24), (e.toNat, 20), (s.toNat, 15), (d.toNat, 7)]
  | .vfsqrt p e s d => word 0x3080705B [(p.toNat, 24), (e.toNat, 20), (s.toNat, 15), (d.toNat, 7)]
  | .vfclass p e s d => word 0x3880705B [(p.toNat, 24), (e.toNat, 20), (s.toNat, 15), (d.toNat, 7)]
  | .vrcp p s d => word 0x40A0705B [(p.toNat, 24), (s.toNat, 15), (d.toNat, 7)]
  | .vrsqrt p s d => word 0x48A0705B [(p.toNat, 24), (s.toNat, 15), (d.toNat, 7)]
  | .vexp2 p s d => word 0x50A0705B [(p.toNat, 24), (s.toNat, 15), (d.toNat, 7)]
  | .vlog2 p s d => word 0x58A0705B [(p.toNat, 24), (s.toNat, 15), (d.toNat, 7)]
  | .vsin p s d => word 0x60A0705B [(p.toNat, 24), (s.toNat, 15), (d.toNat, 7)]
  | .vcos p s d => word 0x68A0705B [(p.toNat, 24), (s.toNat, 15), (d.toNat, 7)]
  | .vredsum p e s d => word 0x7000705B [(p.toNat, 24), (e.toNat, 20), (s.toNat, 15), (d.toNat, 7)]
  | .vfredsum p e s d => word 0x7080705B [(p.toNat, 24), (e.toNat, 20), (s.toNat, 15), (d.toNat, 7)]
  | .vredmin p e s d => word 0x7800705B [(p.toNat, 24), (e.toNat, 20), (s.toNat, 15), (d.toNat, 7)]
  | .vredmax p e s d => word 0x8000705B [(p.toNat, 24), (e.toNat, 20), (s.toNat, 15), (d.toNat, 7)]
  | .pand p b a => word 0x8800705B [(p.toNat, 24), (b.toNat, 15), (a.toNat, 7)]
  | .por p b a => word 0x8810705B [(p.toNat, 24), (b.toNat, 15), (a.toNat, 7)]
  | .pxor p b a => word 0x8820705B [(p.toNat, 24), (b.toNat, 15), (a.toNat, 7)]
  | .pnot p a => word 0x8830705B [(p.toNat, 24), (a.toNat, 7)]
  | .pset p s => word 0x8840705B [(p.toNat, 24), (s.toNat, 15)]
  | .pfirst b d => word 0x8850705B [(b.toNat, 15), (d.toNat, 7)]
  | .pmskup p a => word 0x8860705B [(p.toNat, 24), (a.toNat, 7)]
  | .pcnt b d => word 0x8870705B [(b.toNat, 15), (d.toNat, 7)]
  | .vedge p s d => word 0x9020705B [(p.toNat, 24), (s.toNat, 15), (d.toNat, 7)]
  | .vrbox p s d => word 0x98A0705B [(p.toNat, 24), (s.toNat, 15), (d.toNat, 7)]
  | .vrtri p s d => word 0xA0A0705B [(p.toNat, 24), (s.toNat, 15), (d.toNat, 7)]
  | .vtex p s d => word 0xA8A0705B [(p.toNat, 24), (s.toNat, 15), (d.toNat, 7)]
  | .vtexl p s d => word 0xB0A0705B [(p.toNat, 24), (s.toNat, 15), (d.toNat, 7)]
  | .blendc p s d => word 0xB860705B [(p.toNat, 24), (s.toNat, 15), (d.toNat, 7)]
  | .vfifoPushVm => word 0xC000705B []
  | .vfifoPushVc => word 0xC100705B []
  | .vfifoPopCv => word 0xC200705B []
  | .vfifoPopMv => word 0xC300705B []
  | .vld e p c a d => word 0x7B [(e.toNat, 27), (p.toNat, 24), (c.toNat, 22), (a.toNat, 15), (d.toNat, 7)]
  | .vst e p c a d => word 0x10007B [(e.toNat, 27), (p.toNat, 24), (c.toNat, 22), (a.toNat, 15), (d.toNat, 7)]
  | .vldff e p c a d => word 0x20007B [(e.toNat, 27), (p.toNat, 24), (c.toNat, 22), (a.toNat, 15), (d.toNat, 7)]
  | .vldsr w h p c a d => word 0x30007B [(w.toNat, 30), (h.toNat, 27), (p.toNat, 24), (c.toNat, 22), (a.toNat, 15), (d.toNat, 7)]
  | .vlds s p c w a d => word 0x107B [(s.toNat, 27), (p.toNat, 24), (c.toNat, 22), (w.toNat, 20), (a.toNat, 15), (d.toNat, 7)]
  | .vsts s p c w a d => word 0x207B [(s.toNat, 27), (p.toNat, 24), (c.toNat, 22), (w.toNat, 20), (a.toNat, 15), (d.toNat, 7)]
  | .vldx s p c w a d => word 0x307B [(s.toNat, 27), (p.toNat, 24), (c.toNat, 22), (w.toNat, 20), (a.toNat, 15), (d.toNat, 7)]
  | .vstx s p c w a d => word 0x407B [(s.toNat, 27), (p.toNat, 24), (c.toNat, 22), (w.toNat, 20), (a.toNat, 15), (d.toNat, 7)]
  | .vamoAdd s p w a d => word 0x507B [(s.toNat, 27), (p.toNat, 24), (w.toNat, 22), (a.toNat, 15), (d.toNat, 7)]
  | .vamoSwap s p w a d => word 0x10507B [(s.toNat, 27), (p.toNat, 24), (w.toNat, 22), (a.toNat, 15), (d.toNat, 7)]
  | .vamoMin s p w a d => word 0x20507B [(s.toNat, 27), (p.toNat, 24), (w.toNat, 22), (a.toNat, 15), (d.toNat, 7)]
  | .vamoMax s p w a d => word 0x30507B [(s.toNat, 27), (p.toNat, 24), (w.toNat, 22), (a.toNat, 15), (d.toNat, 7)]
  | .mrow a u m e k t d => word 0x607B [(a.toNat, 27), (bitNat u, 26), (m.toNat, 24), (e.toNat, 20), (k.toNat, 18), (t.toNat, 16), (d.toNat, 7)]
  | .msca a e t d => word 0xE07B [(a.toNat, 27), (e.toNat, 19), (t.toNat, 16), (d.toNat, 7)]
  | .mcfg a d => word 0x707B [(a.toNat, 27), (d.toNat, 7)]
  | .mldb a e k c v d => word 0x100707B [(a.toNat, 27), (e.toNat, 20), (k.toNat, 18), (bitNat c, 17), (bitNat v, 16), (d.toNat, 7)]
  | .mzero a => word 0x200707B [(a.toNat, 27)]
  | .mrd a e u d => word 0x300707B [(a.toNat, 27), (e.toNat, 20), (bitNat u, 17), (d.toNat, 7)]
  | .mdrainSt a u b d => word 0x400707B [(a.toNat, 27), (bitNat u, 23), (b.toNat, 15), (d.toNat, 7)]
  | .mdrainAdd a u b d => word 0x500707B [(a.toNat, 27), (bitNat u, 23), (b.toNat, 15), (d.toNat, 7)]
  | .mdrainxSt a e b d => word 0x600707B [(a.toNat, 27), (e.toNat, 20), (b.toNat, 15), (d.toNat, 7)]
  | .mdrainxAdd a e b d => word 0x700707B [(a.toNat, 27), (e.toNat, 20), (b.toNat, 15), (d.toNat, 7)]
  | .vqVadd d s => word 0x2 [(d.toNat, 11), (s.toNat, 6)]
  | .vqVsub d s => word 0x6 [(d.toNat, 11), (s.toNat, 6)]
  | .vqVmul d s => word 0xA [(d.toNat, 11), (s.toNat, 6)]
  | .vqVmac d s => word 0xE [(d.toNat, 11), (s.toNat, 6)]
  | .vqVfadd d s => word 0x12 [(d.toNat, 11), (s.toNat, 6)]
  | .vqVfmul d s => word 0x16 [(d.toNat, 11), (s.toNat, 6)]
  | .vqVffma d s => word 0x1A [(d.toNat, 11), (s.toNat, 6)]
  | .vqVand d s => word 0x1E [(d.toNat, 11), (s.toNat, 6)]
  | .vqVor d s => word 0x22 [(d.toNat, 11), (s.toNat, 6)]
  | .vqVxor d s => word 0x26 [(d.toNat, 11), (s.toNat, 6)]
  | .vqVsll d s => word 0x2A [(d.toNat, 11), (s.toNat, 6)]
  | .vqVsrl d s => word 0x2E [(d.toNat, 11), (s.toNat, 6)]
  | .vqVmv d s => word 0x32 [(d.toNat, 11), (s.toNat, 6)]
  | .vqVsel d s => word 0x36 [(d.toNat, 11), (s.toNat, 6)]
  | .vqVld d s => word 0x3A [(d.toNat, 11), (s.toNat, 6)]
  | .vqVst d s => word 0x3E [(d.toNat, 11), (s.toNat, 6)]
  | .interruptEntry => 0
  | .lateResultLand => 0
  | .remoteWriteLand => 0
  | .presenceTimeout => 0
  | .vectorQueueExecute => 0
  | .matrixQueueExecute => 0
  | .drainComplete => 0
  | .fifoHoldExpiry => 0
  | .pageWalk => 0
  | .pageFlush => 0
  | .chinookAnswer => 0
  | .partitionMissTimeout => 0
  | .shootdownAck => 0
  | .chinookInvalidate => 0
  | .homeSliceRequest => 0
  | .directoryProbe => 0
  | .victimOffer => 0
  | .writeBackArrival => 0
  | .wbdWrite => 0
  | .agentRejoin => 0
  | .errlogRead => 0
  | .cecntWrite => 0
  | .bankWakeDone => 0
  | .bankRetWakeDone => 0
  | .bankPowerOff => 0
  | .bankRetention => 0
  | .wayRetire => 0
  | .wayWakeDone => 0
  | .wroleWrite => 0
  | .swrWrite => 0
  | .roleChangeDone => 0
  | .wayPinDone => 0
  | .bwphWrite => 0
  | .devicePhaseSettle => 0
  | .gddrPowerDown => 0
  | .groupRequestArrive => 0
  | .groupHoldTimeout => 0
  | .groupFillLand => 0
  | .freezeComplete => 0
  | .thawComplete => 0
  | .peerInvalidateTimeout => 0
  | .stampSweepStart => 0
  | .wayKill => 0
  | .stampSweepEnd => 0
  | .swgoWrite => 0
  | .acqRetry => 0
  | .copyAdmit => 0
  | .copyRunEmit => 0
  | .copyLinePerformed => 0
  | .copyComplete => 0
  | .slidePrefetch => 0
  | .wdlimWrite => 0
  | .fmtWrite => 0
  | .sbstatWrite => 0
  | .vhwWrite => 0
  | .csrWrite => 0
  | .mmioWrite => 0
  | .enqueueArrive => 0
  | .enqueueRetry => 0
  | .filterTokenAccrue => 0
  | .taskBind => 0
  | .taskPreload => 0
  | .taskAgeing => 0
  | .urgentEvict => 0
  | .portGrant => 0
  | .portTokenAccrue => 0
  | .partitionStop => 0
  | .partitionResume => 0
  | .quadReassign => 0
  | .vfReset => 0
  | .retireCall => 0
  | .msixCall => 0
  | .swiCall => 0
  | .claimCall => 0
  | .externalSourceRaise => 0
  | .mistralPeriod => 0
  | .railRaiseDone => 0
  | .droopSignal => 0
  | .clvlRise => 0
  | .clvlFall => 0
  | .tlvlWrite => 0
  | .sfailWrite => 0
  | .sensorSample => 0
  | .pwhintExpire => 0
  | .idleEntry => 0
  | .idleWake => 0
  | .evpopRead => 0
  | .evpushWrite => 0
  | .hostMemRead => 0
  | .hostMemWrite => 0
  | .bisnpResponse => 0
  | .biasFlipComplete => 0
  | .hostSnoop => 0
  | .eqdescWrite => 0
  | .hostirqWrite => 0
  | .ucieTraining => 0
  | .firmwareVerify => 0
  | .spdmRequest => 0
  | .boraLinkChange => 0
  | .peerRequest => 0
  | .collectiveAbort => 0
  | .supervisorTimerInterrupt => 0
  | .blendcQueueLimit => 0
  | .runBudgetExceeded => 0
  | .memoryFillReturn => 0
  | .frameLeavesPartition => 0

/-- Bytes of an instruction: 4 for a word, 2 for a VQ form, 0 for a step without a word (R216). -/
def Instr.len (i : Instr) : Nat := if encode i % 4 = 3 then 4 else if encode i = 0 then 0 else 2

/-- The bytes of an instruction as memory holds them. -/
def Instr.bytes (i : Instr) : List Byte := wordBytes i.len (encode i)

end Sys2Proof
end

