-- ==== Sys2Proof/Config.lean ====
section
/-!
DEFINITION. What the Isanis fixes as an implementation (R3, R4, R6), and the free values: constants with no body,
so that nothing can be proved of the value the manual leaves open.
-/
namespace Sys2Proof.Config

/-- Compute dies (R2). -/
def dies : Nat := 4
/-- Quads of one die (R3). -/
def quadsPerDie : Nat := 96
/-- Quads of the device (R3). -/
def quads : Nat := 384
/-- Harts of the device (R3). -/
def harts : Nat := 12288
/-- Virtual functions, numbered 1 to 192 (R407). -/
def functions : Nat := 192
/-- Columns of accumulator rows and stationary tiles, N (R336, R337). -/
def matrixN : Nat := 256
/-- Bytes of one tile-memory granule (R37). -/
def granuleBytes : Nat := 4096
/-- mshape, constant on the Isanis (R263). -/
def mshape : Word := 0x0100100100402010#64

/-- FREE VALUE (R94, R350): a register or byte whose contents the manual calls undefined after an erroneous fill or an
uncorrectable error in matrix state; applied to State's counter `fresh` and a position. Log 6. -/
opaque freeByte : Nat → Nat → Byte

/-- FREE VALUE (R43): which of the values that the partition has written there an element of a tile allocated without .Z holds:
0 for the value 0, else a number of such a value; applied to State's counter `fresh` and the element's place. Log 6. -/
opaque tilePick : Nat → Nat → Nat

/-- FREE VALUE (R94): whether a byte of a group load's tile destination that is read before the load completes is an old
one; applied to State's counter `fresh` and the byte's place. Log 6. -/
opaque fillKeeps : Nat → Nat → Bool

/-- FREE VALUE (R410): a byte of memory that was written under a key which a scrub has replaced. Log 6. -/
opaque scrubbedByte : Nat → Nat → Byte

/-- FREE VALUE (R410): what a byte written under one key reads as under another: the key of the write and the key of the read (id + 64
× generation), the byte's address, the byte. Log 6. -/
opaque decrypt : Nat → Nat → Nat → Byte → Byte

/-- FREE VALUE (R412): the measurement of an attested item, by its number and its contents. Log 6. -/
opaque digest : Nat → List Nat → Word

/-- FREE VALUE (R412): the signature of one answer; applied to State's counter `fresh`. Log 6. -/
opaque signature : Nat → Word

end Sys2Proof.Config
end

