-- ==== Sys2Proof/Machine/State.lean ====
section
/-!
DEFINITION. The state of the whole Isanis as plain data, and the state after reset. Sparse tables are lists of numbered
entries: an entry that is not listed is at its reset value.
-/
namespace Sys2Proof.Machine

/-! ### Sparse tables and memory -/

/-- A sparse table: numbered entries, numbers rising, one entry each. -/
abbrev Tab (α : Type) := List (Nat × α)

/-- The entry `k`, or `d`. -/
def Tab.get {α : Type} : Tab α → Nat → α → α
  | [], _, d => d
  | (j, a) :: t, k, d => if j = k then a else Tab.get t k d

/-- The table with entry `k` set. -/
def Tab.set {α : Type} : Tab α → Nat → α → Tab α
  | [], k, a => [(k, a)]
  | (j, b) :: t, k, a =>
    if k < j then (k, a) :: (j, b) :: t else if k = j then (k, a) :: t else (j, b) :: Tab.set t k a

/-- The table without entry `k`. -/
def Tab.erase {α : Type} (t : Tab α) (k : Nat) : Tab α := t.filter (fun e => e.1 != k)

/-- Memory: the bytes that differ from 0, addresses strictly rising. An unlisted byte reads 0 (log 3). -/
abbrev Memory := List Host.Cell

/-! ### Translation -/

/-- Memory types (R19, R21), in rising restriction. -/
inductive MType where
  | normal | streaming | device
deriving DecidableEq, Repr

/-- Sharing classes (R22). -/
inductive Share where
  | unclaimed | priv (core : Nat) | shared | always
  /-- Always shared by R65, without a sharing entry. -/
  | unread
deriving DecidableEq, Repr

/-- A TLB entry (R28): one combined translation of `size` bytes at `va` to `pa`, with its attributes. -/
structure TlbEntry where
  va : Nat
  pa : Nat
  size : Nat
  part : Nat
  asid : Nat
  global : Bool
  /-- Guest-stage R, W, X, U and D. -/
  r : Bool
  w : Bool
  x : Bool
  u : Bool
  d : Bool
  /-- Partition-stage R, W, X, U and D. -/
  pr : Bool
  pw : Bool
  px : Bool
  pu : Bool
  pd : Bool
  mt : MType
  key : Nat
  frozen : Bool
  stamp : Nat
  share : Share
deriving DecidableEq, Repr

/-! ### Registers of a hart -/

/-- U or S (R181). -/
inductive Mode where
  | u | s
deriving DecidableEq, Repr

/-- The condition of a register (R171). -/
inductive Presence where
  | present | pending | opened
deriving DecidableEq, Repr

/-- A register file (R186). -/
inductive RFile where
  | x | f | v
deriving DecidableEq, Repr

/-- An error mark (R180, R94): the cause a reader takes (5, or 29 from a group fill) and its stval. -/
structure Mark where
  cause : Nat
  addr : Word
deriving DecidableEq, Repr

/-- A scalar or floating register: value, presence (R171) and error mark (R180). -/
structure SReg where
  val : Word := 0
  pres : Presence := .present
  mark : Option Mark := none
deriving DecidableEq, Repr

/-- A vector register of 1,024 bits (R176). -/
structure VReg where
  val : BitVec 1024 := 0
  pres : Presence := .present
  mark : Option Mark := none
deriving DecidableEq, Repr

/-- vcfg (R260). -/
structure VCfg where
  bfz : Bool := false
  g : BitVec 2 := 0
  et : BitVec 4 := 0
deriving DecidableEq, Repr

/-- The supervisor's CSRs (R184, R188, R217, R16). sstatus.FS reset to 3 is PRESUMED (log 9). -/
structure SCsr where
  sstatus : Word := 0x8000000200046000#64
  sie : Word := 0
  ssip : Bool := false
  stvec : Word := 0
  scounteren : Word := 0
  senvcfg : Word := 0
  sscratch : Word := 0
  sepc : Word := 0
  scause : Word := 0
  stval : Word := 0
  satp : Word := 0xA000000000000000#64
  stimecmp : Word := 0
deriving DecidableEq, Repr

/-- LR's reservation (R266): the line, and the bytes read. -/
structure Reservation where
  line : Nat
  addr : Nat
  size : Nat
deriving DecidableEq, Repr

/-- What a fault tells beside its cause: nothing; a breach of the partition stage's rules, which Chinook hears of (R20); an
uncorrectable error, which is logged with its unit and address (R81). -/
inductive Why where
  | plain
  | breach
  | bad (unit pa : Nat)
deriving DecidableEq, Repr

/-- A late result owed to a register (R170, R172). -/
structure Late where
  file : RFile
  reg : Reg
  val : Word
  mark : Option Mark := none
  /-- The line fill that a miss in the L1 data cache waits for, in a miss register of the core (R75): the access's address
  and translation. -/
  fill : Option (Nat × TlbEntry) := none
deriving DecidableEq, Repr

/-- An error reported at a later instruction (R180, R350, R433). -/
inductive Deferred where
  /-- A store's line fill failed: cause 7 with the store's address. -/
  | store (line : Nat) (va : Word)
  /-- A matrix value carried an uncorrectable error: cause 5, stval 0. -/
  | matrix
  /-- A FIFO push was abandoned at the limit: cause 31, stval 0. -/
  | push
deriving DecidableEq, Repr

/-- Why a hart is parked (R175). -/
inductive Park where
  /-- Reads an empty register; `vec` at a vector instruction, whose trap keeps its element (R184). -/
  | empty (file : RFile) (reg : Nat) (vec : Bool)
  /-- Writes a pending register. -/
  | owed (file : RFile) (reg : Nat)
  /-- Waits for Chinook's answer to a partition-stage miss (R18): the access's address and kind, the guest physical
  address. -/
  | pmiss (va : Word) (acc : AccKind) (gpa : Nat)
  /-- Waits for its fault point, or for earlier work that must finish first (R178, R179). -/
  | faultPoint
  | vqFull | mqFull | cqFull
  /-- A PUTX or VPUSH is held (R174). -/
  | held (target : Nat) (file : RFile) (reg : Nat)
  /-- Waits for the tokens of a mask; for token `k` to count fewer; for the hart's vector and matrix work. -/
  | sbwait (m : BitVec 8) | tokenFull (k : Nat) | vfence
  /-- ACQ waits for its grant (R289), WAITPH for its flip (R293). -/
  | acq | waitph
  /-- ACQ of the object in register `b` was answered busy, and sends its request again (R289). -/
  | acqBusy (b : Reg)
  /-- TENQ waits for a slot or for the filter's rate (R249). -/
  | tenq
  /-- A `.pop` or a VFIFO pop word waits for its token (R139). -/
  | pop
  /-- GLD or GLDV before acceptance; GJOIN (R89). -/
  | gld
  /-- TALLOC waits for a bank wake or a way pinning (R42, R53). -/
  | talloc
  /-- FREEZE or THAW before its pages are locked (R98, R104). -/
  | freeze
  /-- A fence or SFENCE.VMA before its acknowledgements (R34, R124). -/
  | fence
  /-- A CSR write that lowers bwph (R52). -/
  | bwph
  /-- TFREE or TEXIT waits for transfers (R55). -/
  | transfers
  /-- PGBIAS without a token waits for its flip (R255). -/
  | pgbias
  | wfi
  /-- A call to Chinook (R181). -/
  | chinook
  /-- An access waits for a page whose bias is changing (R404), or that FREEZE or THAW has locked (R98, R104). -/
  | access
  /-- An access waits for a miss register, a walk, a slice's miss entry or a write-back of its line (R29, R75, R76). -/
  | missFull
  /-- An access in host bias waits for the host's answer to a BISnp of its line (R404, R431). -/
  | snoop (line : Nat) (inv : Bool)
  /-- BLENDC waits for its ticket's turn at the COMMIT of device physical address `pa` (R366). -/
  | blend (pa ticket : Nat)
  /-- BLENDC has been granted and has counted its pixels; COMMIT, at device physical address `pa`, is still to be written (R366,
  R429) under the translation that it used: its key, and the pages of its entry. -/
  | commit (pa key page np : Nat)
  /-- The first fetch of a handler faulted: the task is being retired as failed with this cause, address and stval (R184). -/
  | dying (cause : Nat) (pc tval : Word)
  /-- Chinook retires the task in a function's reset (R387). -/
  | retiring
deriving DecidableEq, Repr

/-- The task bound in a slot (R248, R376). -/
structure Task where
  id : BitVec 32 := 0
  key : BitVec 32 := 0
  /-- The lower of the descriptor's class and its queue's. -/
  cls : Nat := 0
  queue : Nat := 0
  /-- Vector registers allocated: 8, 16, 24 or 32. -/
  alloc : Nat := 8
  /-- Tile budget in granules. -/
  tbud : Nat := 0
  entry : Word := 0
  /-- Device time of the bind. -/
  boundAt : Nat := 0
  /-- It was urgent when it was bound (R377). -/
  urgent : Bool := false
deriving DecidableEq, Repr

/-! ### Vector and matrix commands -/

/-- Integer element-wise operations of two sources (R311). -/
inductive IOp where
  | add | sub | rsub | mul | mulh | mulhn | adds | subs | min | max | and | or | xor | sll | srl | sra
deriving DecidableEq, Repr

/-- Floating element-wise operations of two sources (R319). -/
inductive FOp where
  | add | sub | mul | div | min | max
deriving DecidableEq, Repr

/-- One-source element-wise operations (R311, R319). -/
inductive EOp where
  | clz | popc | fabs | fneg | fsqrt | fclass | rcp | rsqrt | exp2 | log2 | sin | cos
deriving DecidableEq, Repr

/-- Fused and multiply-accumulate operations of three registers (R311, R312, R319). -/
inductive TOp where
  | mac | wmac | wmul | ffma | ffms | fnfma
deriving DecidableEq, Repr

/-- Predicate operations (R315). -/
inductive PrOp where
  | and | or | xor | not | mskup
deriving DecidableEq, Repr

/-- Reductions (R317, R318). -/
inductive RedOp where
  | sum | fsum | min | max
deriving DecidableEq, Repr

/-- The second source (R308): a register group, a captured scalar, an immediate. -/
inductive VSrc where
  | reg (s : Nat)
  | scalar (v : Word)
  | imm (i : Int)
deriving DecidableEq, Repr

/-- How an access treats the caches (R27). -/
inductive Treat where
  | normal | streaming | noAllocate | device
deriving DecidableEq, Repr

/-- A translated element of a queued store or VAMO: its number, twice its device physical address plus the nibble of a 4-bit
element, the first virtual page of the entry that it used (R34), its treatment (R27), the pages of that entry and its key. -/
structure QEl where
  e : Nat
  at_ : Nat
  page : Nat := 0
  tr : Treat := .normal
  np : Nat := 1
  key : Nat := 0
deriving DecidableEq, Repr

/-- An operation that waits in a vector queue (R177), with its captured operands (R306). `p` is the predicate number. -/
inductive VOp where
  | int (op : IOp) (et p d : Nat) (src : VSrc)
  | flt (op : FOp) (et p d : Nat) (src : VSrc)
  | one (op : EOp) (et p d s : Nat)
  | three (op : TOp) (et p d a b : Nat)
  | cmp (cc et p d : Nat) (src : VSrc)
  | sel (et p d : Nat) (src : VSrc)
  | scale (et p d s : Nat)
  | cvt (et ets p d s : Nat) (sr : Bool) (seed : Word) (base : Nat)
  | mv (et p d : Nat) (src : VSrc)
  | slup (et p d : Nat) (k : Nat)
  | sldn (et p d : Nat) (k : Nat)
  | sl1up (et p d : Nat) (v : Word)
  | xchg (et p d k : Nat)
  | perm (et p d s : Nat)
  | compress (et p d s : Nat)
  | take (et p d s : Nat)
  | red (op : RedOp) (et p d s : Nat)
  | pred (op : PrOp) (pd pa pb : Nat)
  | pset (pd : Nat) (v : Word)
  | pfirst (xd pa : Nat)
  | pcnt (xd pa : Nat)
  | mvx (et xd s : Nat) (idx : Nat)
  | mvs (et d : Nat) (v : Word) (idx : Nat)
  | copy (d s g : Nat)
  /-- A VFIFO push: `true` to copy, `false` to matrix (R237). -/
  | push (toCopy : Bool)
  /-- A VFIFO pop: `true` from matrix, `false` from copy (R237). -/
  | pop (fromMatrix : Bool)
  /-- A vector store whose elements are translated (R274): `w` bits each, of which those from `bits` up are written 0 (R195). -/
  | store (d w bits : Nat) (elems : List QEl)
  /-- A VAMO whose elements are translated (R281): 0 add, 1 swap, 2 min, 3 max. -/
  | amo (op d w : Nat) (elems : List QEl)
deriving DecidableEq, Repr

/-- A command of a hart's vector queue: the operation and what it captured at issue (R306), with its next element. -/
structure VCmd where
  op : VOp
  vl : Nat
  et : Nat
  g : Nat
  bfz : Bool
  frm : Nat
  fmt : List Word
  eix : Nat
  /-- Position in the hart's program order of vector and matrix work (R179). -/
  seq : Nat
deriving DecidableEq, Repr

/-- Where a matrix operand comes from (R340, R341): the kinds of KIND. -/
inductive MSrc where
  | vec (r : Nat)
  | feed (k : Nat)
  | tile (hw : Word)
deriving DecidableEq, Repr

/-- An operation of the matrix queue, with its captured operands (R336 to R348). -/
inductive MOp where
  /-- `rec` is the stationary tile's type record when the row entered the queue. -/
  | row (add push pop : Bool) (m et lo hi : Nat) (src : MSrc) (rec : Nat × Word)
  | sca (push pop : Bool) (lo hi : Nat) (ea : Int) (eb : Nat)
  /-- `ldm` has a bit for each type record set when the query entered the queue. -/
  | cfg (xd : Nat) (v : Word) (ldm : Nat)
  | ldb (popc popv : Bool) (m part et : Nat) (src : MSrc)
  | zero (lo n : Nat)
  | rd (push : Bool) (et d lo : Nat)
  /-- A drain: `ext` writes format `et` (MDRAINX), else f32. -/
  | drain (ext add push : Bool) (et lo n trow : Nat) (hw : Word) (wake : Option (Word × Word))
deriving DecidableEq, Repr

/-- A command of a quad's matrix queue. -/
structure MCmd where
  hart : Nat
  task : BitVec 32
  op : MOp
  fmt : List Word
  bfz : Bool
  seq : Nat
  /-- Tile bytes as they were before a later TST of the hart (R117). -/
  kept : Tab Byte := []
  /-- Its tokens have been popped. -/
  popped : Bool := false
  /-- An MLDB's: the type record that its stationary tile had before it (R139, R175). -/
  before : Option (Nat × Word) := none
  /-- The effective class of its task (R379). -/
  cls : Nat := 0
deriving DecidableEq, Repr

/-- The last VLDSR of a hart, with its slide buffer (R167, R280). -/
structure Slide where
  group : Nat
  shape : BitVec 768
  base : Word
  /-- Prefetched bytes by virtual address, and the device physical addresses that they were read at. -/
  bytes : Tab Byte
  pas : List Nat := []
deriving DecidableEq, Repr

/-- A failed copy transfer that a wait on its token has still to report (R163). -/
structure TokenErr where
  token : Nat
  /-- Order of issue. -/
  id : Nat
  cause : Nat
  fva : Word
deriving DecidableEq, Repr

/-- A hart (10_harts_registers_traps.md). -/
structure Hart where
  pc : Word := 0
  mode : Mode := .u
  x : Vector SReg 32 := Vector.replicate 32 {}
  f : Vector SReg 32 := Vector.replicate 32 {}
  v : Vector VReg 32 := Vector.replicate 32 {}
  /-- p1 to p7 at 1 to 7; entry 0 is not used. -/
  p : Vector (BitVec 2048) 8 := Vector.replicate 8 0
  vl : Nat := 0
  vcfg : VCfg := {}
  veix : BitVec 12 := 0
  vflags : BitVec 7 := 0
  frm : BitVec 3 := 0
  fflags : BitVec 5 := 0
  fmt : Vector Word 4 := #v[0x8000000000107698#64, 0x800000000000F4B8#64, 0x8000000000203476#64, 0x8000000000201254#64]
  srseed : Word := 0
  srbase : BitVec 32 := 0
  bwph : BitVec 2 := 0
  /-- The phase in force, which follows a raise of bwph at Mistral's next period (R52). -/
  bwphEff : BitVec 2 := 0
  pwreq : BitVec 3 := 7
  dirty : BitVec 32 := 0
  hwb : BitVec 8 := 0
  sbFail : BitVec 8 := 0
  sb : Vector Nat 8 := Vector.replicate 8 0
  sbErr : List TokenErr := []
  shp : Vector (BitVec 768) 8 := Vector.replicate 8 0
  resv : Option Reservation := none
  late : List Late := []
  vq : List VCmd := []
  /-- Program order of the hart's vector and matrix work (R179). -/
  seq : Nat := 0
  park : Option Park := none
  /-- Device time since which the hart is parked, and the clock of its quad then (R186, R391). -/
  since : Nat := 0
  sinceQ : Nat := 0
  /-- Registers that the parked load at pc has marked pending at its issue, with their former condition (R274, R298). -/
  claimed : List (RFile × Nat × Presence) := []
  deferred : List Deferred := []
  slide : Option Slide := none
  task : Option Task := none
  /-- The next fetch is the first at stvec after a trap entry (R184). -/
  handlerFetch : Bool := false
  csr : SCsr := {}
  /-- A guest physical address that Chinook has denied to the instruction at pc (R18). -/
  denied : Option Nat := none
  /-- Its saved commands run before it issues again (R189). -/
  resuming : Bool := false
deriving DecidableEq, Repr

/-! ### Sharing and freezing of pages -/

/-- Sharing table entry (R22). -/
structure ShareEntry where
  cls : BitVec 2 := 0
  owner : BitVec 11 := 0
deriving DecidableEq, Repr

/-- Freeze table entry (R23). -/
structure FreezeEntry where
  count : Nat := 0
  gen : BitVec 32 := 0
deriving DecidableEq, Repr

/-! ### Caches (R58 to R83): which lines are held, and in which state -/

/-- A core: first-level TLB, instruction lines with their bytes, data lines held (`true`: dirty), power hint (R256). -/
structure Core where
  tlb : List TlbEntry := []
  l1i : Tab (List Byte) := []
  l1d : Tab Bool := []
  /-- Stamps of replicas in the L1 data cache, by line (R101). -/
  rep : Tab Nat := []
  /-- Hints in force: OP and the device time until which it holds (R256). -/
  hints : List (BitVec 3 × Nat) := []
deriving DecidableEq, Repr

/-- What a line of a slice is (R61). -/
inductive LineKind where
  | home | victim | proxy | replica
deriving DecidableEq, Repr

/-- A line of a slice: its kind, whether dirty, its way, a replica's stamp, and how well it is retained: the greater, the
longer; 0 is the least-retained position (R27). -/
structure SliceLine where
  kind : LineKind
  dirty : Bool
  way : Nat
  stamp : Nat := 0
  kept : Nat := 0
deriving DecidableEq, Repr

/-- What the owner field of a directory entry names (R69): a quad of the die, another die, or a slice that holds a displaced
victim (R73). -/
inductive DirOwner where
  | quad (q : Nat)
  | die (d : Nat)
  | slice (q : Nat)
deriving DecidableEq, Repr

/-- A request that waits in a slice's input buffer (R75): address, asking core or quad, exclusive, bypassing the L1s. -/
structure SliceReq where
  addr : Nat
  core : Nat
  excl : Bool
  bypass : Bool
deriving DecidableEq, Repr

/-- A directory entry of a 512-byte region (R69). -/
structure DirEntry where
  owned : Bool := false
  coarse : Bool := false
  /-- Quads of this die, or groups of four quads when coarse. -/
  sharers : List Nat := []
  remote : List Nat := []
  owner : Option DirOwner := none
  /-- Incarnations of the named quads, and of the slices that stand for remote dies, when they were entered. -/
  incs : Tab Nat := []
deriving DecidableEq, Repr

/-- One record of the error log (R81). -/
structure ErrRec where
  unit : Nat
  cause : Nat
  pa : Nat
  task : Nat
  hart : Nat
deriving DecidableEq, Repr

/-- A way of the slice: role (R46), power state 0 ON, 1 RET, 2 waking, kill bit (R108), and the device time of its last
hit (of the end of its wake while it is waking). -/
structure Way where
  role : Nat := 0
  /-- The role a change is bringing (R47). -/
  next : Option Nat := none
  st : Nat := 0
  kill : Bool := false
  last : Nat := 0
deriving DecidableEq, Repr

/-- A tile-memory bank: 0 OFF, 1 RET, 2 ON, 3 waking (R44, R46), the device time of its last access or freeing (of the end
of its wake while it is waking), and whether it wakes from RET. -/
structure Bank where
  st : Nat := 0
  last : Nat := 0
  ret : Bool := false
deriving DecidableEq, Repr

/-! ### Tiles -/

/-- A tile table entry (R36). -/
structure TileEntry where
  v : Bool := false
  sp : Bool := false
  keep : Bool := false
  ty : Nat := 0
  part : Nat := 0
  gen : BitVec 8 := 0
  ngr : Nat := 0
  fgr : Nat := 0
  task : BitVec 32 := 0
  rows : Nat := 0
  cols : Nat := 0
  /-- The hart whose task allocated it, and that task's queue (R387). -/
  hart : Nat := 0
  queue : Nat := 0
deriving DecidableEq, Repr

/-- A TALLOC that has taken its handle and granules, and waits for banks or ways (R42, R53). -/
structure AllocWait where
  hart : Nat
  handle : Nat
  zero : Bool
  xd : Nat
  word : Word
deriving DecidableEq, Repr

/-! ### Copy engine and token FIFOs -/

/-- Bytes of an engine's access that lie in one line: where, how many, the treatment (R27), the stamp of a frozen page's read, the
first page and the number of pages of the entry that translated them (R34), and its key. -/
structure MemPart where
  pa : Nat
  n : Nat
  tr : Treat := .normal
  stamp : Option Nat := none
  page : Nat := 0
  np : Nat := 1
  key : Nat := 0
deriving DecidableEq, Repr

/-- What a piece has read, and where it will write at a MEM destination. -/
structure Got where
  bytes : List Byte
  parts : List MemPart
deriving DecidableEq, Repr

/-- A piece of a run (R156): run, first byte and end; `got` when its source has been read and its destination checked. -/
structure Piece where
  n : Nat
  i : Nat
  j : Nat
  got : Option Got := none
deriving DecidableEq, Repr

/-- Where a transfer is (R161): runs are left; the barrier has been checked, with STAT, CAUSE and the line of a check that
passed; the record is over; the token has been pushed, or its push abandoned (`lost`, R433). -/
inductive Stage where
  | running
  | checked (stat cause : Nat) (bar : Option Nat)
  | recorded (stat : Nat) (bar : Option Nat)
  | pushed (stat : Nat) (bar : Option Nat) (lost : Bool)
deriving DecidableEq, Repr

/-- A transfer (R146 to R166): the copied record and operands, what its issuing hart was, and its progress. -/
structure Xfer where
  id : Nat
  hart : Nat
  task : BitVec 32
  mode : Mode
  part : Nat
  asid : Nat
  /-- Root table of the issuing hart at issue (R164). -/
  root : Nat
  cpyb : Bool
  push : Bool
  pop : Bool
  token : Option Nat
  shape : BitVec 768
  dst : Word
  src : Word
  fmt : List Word
  /-- Next run to emit. -/
  next : Nat := 0
  /-- Pieces that hold a tag and are not performed (R156). -/
  emitted : List Piece := []
  /-- Pieces of the emitted run that wait for a tag (R75). -/
  untagged : List Piece := []
  /-- The lowest failing run with its cause and address. -/
  fail : Option (Nat × Nat × Word) := none
  aborted : Bool := false
  /-- Its pop has been abandoned (R433). -/
  abandoned : Bool := false
  /-- The queue of the issuing task (R387). -/
  queue : Nat := 0
  /-- Sequence of the hart's vector work before the CPY (R154). -/
  seq : Nat := 0
  /-- Tile bytes as they were before a later TST of the hart (R117). -/
  kept : Tab Byte := []
  stage : Stage := .running
  /-- An access of it waits for Chinook's answer to a partition-stage miss since this time (R18). -/
  pmiss : Option Nat := none
  /-- Chinook has denied the miss. -/
  denied : Bool := false
  /-- The effective class of its task (R379). -/
  cls : Nat := 0
deriving DecidableEq, Repr

/-- A token FIFO of the quad (R138). -/
inductive Fifo where
  | cv | cm | vm | mv | mc | vc
deriving DecidableEq, Repr

/-- An operation held at a FIFO (R139, R433), in the order in which they became held. -/
inductive HeldOp where
  /-- A push of a hart's vector queue head. -/
  | vpush (f : Fifo) (hart : Nat)
  /-- A pop of a hart's vector queue head. -/
  | vpop (f : Fifo) (hart : Nat)
  /-- The head of the matrix queue, popping. -/
  | mpop (f : Fifo)
  /-- The head of the matrix queue, pushing its token; its results are written. -/
  | mpush (f : Fifo)
  /-- A drain pushing its token at its end. -/
  | dpush (f : Fifo) (d : Nat)
  /-- A copy transfer waiting to pop, or to push. -/
  | cpop (f : Fifo) (x : Nat)
  | cpush (f : Fifo) (x : Nat)
deriving DecidableEq, Repr

/-- A held operation and its quad's clock when it became held (R391, R433). -/
structure Held where
  op : HeldOp
  since : Nat
deriving DecidableEq, Repr

/-- A stationary tile (R340): its bits and its type record (ET and format register). -/
structure Stationary where
  bits : BitVec 65536 := 0
  kind : Option (Nat × Word) := none
deriving DecidableEq, Repr

/-- A drain whose rows have been read and whose bytes are being performed (R345, R346). -/
structure Drain where
  hart : Nat
  task : BitVec 32
  part : Nat
  ext : Bool
  add : Bool
  push : Bool
  et : Nat
  fmt : List Word
  bfz : Bool
  /-- Rows left to perform, with their places in the drain. -/
  rows : List (Nat × List Nat)
  trow : Nat
  hw : Word
  wake : Option (Word × Word)
  id : Nat := 0
  /-- Tile bytes as they were before a later TST of the hart (R117). -/
  kept : Tab Byte := []
  /-- The effective class of its task (R379). -/
  cls : Nat := 0
deriving DecidableEq, Repr

/-- A quad with its engines, caches and power state. -/
structure Quad where
  part : Option Nat := none
  inc : BitVec 8 := 0
  /-- Incarnation of its copy engine (R82). -/
  einc : BitVec 8 := 0
  tiles : Tab TileEntry := []
  allocs : List AllocWait := []
  banks : Tab Bank := []
  ways : Tab Way := []
  swr : Nat := 0
  qph : Nat := 0
  cecnt : Nat := 0
  ovf : Bool := false
  errs : List ErrRec := []
  rslot : Nat := 0
  rgran : Nat := 0
  tlb : List TlbEntry := []
  lines : Tab SliceLine := []
  dir : Tab DirEntry := []
  filter : Tab (List Nat) := []
  /-- Atomics predictor: 64 lines, latest first, with the core and its count (R74). -/
  predictor : List (Nat × Nat × Nat) := []
  /-- Lines with one of the 256 miss entries, and the requests that wait for one (R75). -/
  misses : List Nat := []
  input : List SliceReq := []
  reserve : List Nat := []
  loss : List Nat := []
  /-- Port buckets by context (partition × 3 + band; 48 the system's), in tokens (R379). -/
  buckets : Tab Int := []
  /-- The context granted last, and the device time of the last accrual. -/
  portLast : Nat := 0
  portAt : Nat := 0
  /-- The clock of the quad from which the port may grant again (R379). -/
  portNext : Nat := 0
  /-- The transfer that was given a tag last (R158). -/
  tagLast : Nat := 0
  cq : List Xfer := []
  running : List Xfer := []
  feeds : Vector (List Byte) 4 := Vector.replicate 4 []
  fifo : Tab Nat := []
  held : List Held := []
  mq : List MCmd := []
  m : Vector Stationary 4 := Vector.replicate 4 {}
  /-- Accumulator rows that are not all +0, 8,192 bits each. -/
  acc : Tab (BitVec 8192) := []
  inUse : List Nat := []
  drains : List Drain := []
  opcap : Nat := 7
  opcur : Nat := 0
  /-- The quad's clock at the last change of OPCUR, in 1/34 cycles, and the device time of that change (R388, R391). -/
  clock : Nat := 0
  clockAt : Nat := 0
  raise : Option Nat := none
  clvl : Nat := 0
  droop : Bool := false
  /-- Device time of the last change of the droop signal or of CLVL (R395). -/
  droopAt : Nat := 0
  tlvl : Nat := 0
  sfail : BitVec 6 := 0
  temp : Nat := 0
  idle : Nat := 0
  /-- Held at OP0 for failed sensors; held at OP0 for its temperature (R398). -/
  hold : Bool := false
  hot : Bool := false
  /-- The readings of its sensors after substitution (R397). -/
  readings : List Int := []
  /-- The code that each sensor has returned last, how often in a row, and the least and greatest model power meanwhile. -/
  same : Tab (Int × Nat × Nat × Nat) := []
deriving DecidableEq, Repr

/-! ### Dies: groups, freezes and schedulers -/

/-- A member of a group (R84): its task, named by partition and id, its hart, its next load sequence, and its first one. -/
structure Member where
  part : Nat
  task : BitVec 32
  hart : Nat
  next : Nat
  joined : Nat
deriving DecidableEq, Repr

/-- A group (R85): owner, timer, loads opened, members. -/
structure Group where
  own : Bool := false
  part : Nat := 0
  timer : Nat := 0
  openseq : Nat := 0
  members : List Member := []
deriving DecidableEq, Repr

/-- A request of a member for a load (R87, R89). -/
structure GReq where
  id : Nat
  die : Nat
  group : Nat
  seq : Nat
  slice : Nat
  hart : Nat
  task : BitVec 32
  part : Nat
  asid : Nat
  root : Nat
  mode : Mode
  /-- The source page by page, as it was translated, and its first byte's device physical address. -/
  pages : List MemPart
  pa : Nat
  /-- The source as the instruction named it. -/
  src : Word
  len : Nat
  vector : Bool
  /-- First destination row and handle word, or group size and register. -/
  row : Nat
  hw : Word
  reg : Nat
  gsize : Nat
  xd : Nat
  token : Option Nat
  barrier : Word
  fmt : List Word
  accepted : Bool := false
  /-- Spans of tile storage written since its acceptance (R94). -/
  dirty : List (Nat × Nat) := []
  /-- The effective class of its task (R379). -/
  cls : Nat := 0
deriving DecidableEq, Repr

/-- An open load of a slice (R88). -/
structure OpenLoad where
  die : Nat
  group : Nat
  slice : Nat
  seq : Nat
  openedAt : Nat
  /-- The group's timer when it was opened. -/
  timer : Nat
  expected : Nat
  /-- The members counted when it was opened: task by partition and id, and hart. -/
  awaited : List (Nat × BitVec 32 × Nat) := []
deriving DecidableEq, Repr

/-- A fill on its way to a requester (R91 to R94). -/
structure GFill where
  req : GReq
  bytes : List Byte
  nreq : Nat
  tmo : Bool
  str : Bool
  err : Bool
  /-- It has landed, and its count is left; its tile had gone (R135, R136). -/
  landed : Bool := false
  lost : Bool := false
  /-- Its barrier's access waits for Chinook's answer since this time, or Chinook has denied it (R18). -/
  pmiss : Option Nat := none
  denied : Bool := false
deriving DecidableEq, Repr

/-- Where a THAW is (R104): its counts are to be lowered; the epoch rule holds it; its pages' translations are to go; peers are to
acknowledge. -/
inductive ThawStage where
  | counts | epoch | shoot | peers
deriving DecidableEq, Repr

/-- A FREEZE or THAW that has retired and runs on (R98, R104): the pages with their counts, and its completion. -/
structure FreezeOp where
  thaw : Bool
  hart : Nat
  task : BitVec 32
  part : Nat
  asid : Nat
  root : Nat
  mode : Mode
  pages : List (Nat × Nat)
  len : Nat
  token : Option Nat
  barrier : Word
  /-- Number under which its completion sends snoops. -/
  id : Nat
  /-- The hart stays parked until completion (R284). -/
  parks : Bool
  /-- Its pages are unlocked: only the completion is left. -/
  done : Bool := false
  /-- A THAW's progress, and the pages that it has brought to 0. -/
  stage : ThawStage := .counts
  zero : List Nat := []
  /-- Links whose acknowledgement is awaited (R105), and since when. -/
  peers : List Nat := []
  since : Nat := 0
  /-- Its barrier's access waits for Chinook's answer since this time, or Chinook has denied it (R18). -/
  pmiss : Option Nat := none
  denied : Bool := false
  /-- The effective class of its task (R379). -/
  cls : Nat := 0
deriving DecidableEq, Repr

/-- A bias flip under way (R405). -/
structure BiasFlip where
  page : Nat
  host : Bool
  part : Nat
  hart : Nat
  task : BitVec 32
  token : Option Nat
  /-- It has begun; else it waits for the flip before it (R255). -/
  active : Bool := false
  /-- Lines of the snoop filter whose BISnpInv is not answered yet; to host bias, lines whose write-back is not done (R405). -/
  waits : List Nat := []
deriving DecidableEq, Repr

/-- A preloaded task of a slot: its queue and id, and the run of granules whose banks were woken (R381). -/
structure Preload where
  queue : Nat
  id : BitVec 32
  hart : Nat
  run : Option (Nat × Nat)
deriving DecidableEq, Repr

/-- What a walk found (R29, R30): an entry, a fault of the access with its cause, or a partition-stage miss. -/
inductive WRes where
  | ok (e : TlbEntry)
  | fault (cause : Nat) (why : Why)
  | miss (gpa : Nat)
deriving DecidableEq, Repr

/-- A walk under way on a die (R29): the page and context it serves, the access it was started for, and what it has read. With `one`
it serves one access alone, that of element `one` of a vector access, a scalar access being element 0 (R33). -/
structure Walk where
  part : Nat
  asid : Nat
  page : Nat
  mode : Mode
  acc : AccKind
  res : WRes
  one : Option Nat := none
deriving DecidableEq, Repr

/-- A die's tables. -/
structure Die where
  /-- Walks under way: 64 walkers and a queue of 256 requests (R29). -/
  walks : List Walk := []
  /-- Each walker's cache of non-leaf entries, latest first: partition, the entry's device physical address, the entry (R29). -/
  walkers : Tab (List (Nat × Nat × Nat)) := []
  groups : Tab Group := []
  tepoch : BitVec 32 := 0
  swstart : BitVec 32 := 0
  swbusy : Bool := false
  swat : Nat := 0
  killw : Nat := 0
  swcnt : BitVec 32 := 0
  /-- Queue last chosen at each effective class (R376). -/
  rr : Tab Nat := []
  bindAt : Nat := 0
  /-- GDDR-7 interfaces powered down (R50). -/
  gddrDown : List Nat := []
  gddrLast : Tab Nat := []
  /-- Lines the host may hold, oldest first (R404). -/
  snoop : List Nat := []
  preload : List Preload := []
deriving DecidableEq, Repr

/-! ### Partitions, queues, host and fabric -/

/-- A partition. -/
structure Part where
  /-- Root of the partition-stage table, a device physical address (R17); none: no leaf is valid (R18). -/
  root : Option Nat := none
  wdlim : Word := 0x1E0000001E#64
  nextId : BitVec 32 := 0
  stopped : Bool := false
  /-- External interrupt sources not claimed (R408), oldest first. -/
  sources : List Nat := []
  floor : Nat := 0
  floore : Nat := 0
  fcls : Nat := 0
  lattol : BitVec 32 := 0
  energy : Word := 0
  /-- Energy below 1 mJ, in 1/10,000 mJ (R392). -/
  energyPart : Nat := 0
deriving DecidableEq, Repr

/-- A waiting task of a queue (R368, R372). -/
structure QTask where
  id : BitVec 32
  desc : TaskDesc
  /-- Loop indices x18 to x21 and the quads that placement allows; `none` for any (R251). -/
  idx : List Nat := [0, 0, 0, 0]
  quads : Option (List Nat) := none
  /-- SH mates share a quad: the first of them. -/
  mate : Option (BitVec 32) := none
  /-- Device time of its enqueue, and the classes it has risen (R377). -/
  at_ : Nat := 0
  aged : Nat := 0
  /-- Device time since which it is urgent and has found no free fitting slot (R377). -/
  nofit : Option Nat := none
deriving DecidableEq, Repr

/-- A TENQ waiting at a queue with the descriptor it read (R249, R371): 0 recorded at a full queue, 1 to be sent again, 2 for
the filter's rate. `takes` are the registers it takes when it completes (R173). -/
structure QWait where
  hart : Nat
  takes : List Nat
  desc : TaskDesc
  why : Nat
  since : Nat
deriving DecidableEq, Repr

/-- A task queue (R368). -/
structure Queue where
  w0 : Word := 0
  frbase : Word := 0
  frhead : BitVec 32 := 0
  frtail : BitVec 32 := 0
  warmpc : Word := 0
  /-- What its quads with a class 7 reservation keep for WARMPC (R376): the translations and the lines of the first 256 bytes. -/
  warm : List (TlbEntry × List Nat) := []
  /-- The hart in which a class 7 task wrote WARMPC last: in its context the code at WARMPC is translated (R376). -/
  warmCtx : Option Nat := none
  vf : BitVec 8 := 0
  frovf : Bool := false
  lfr : BitVec 4 := 0
  tasks : List QTask := []
  /-- Parked enqueuers, oldest first (R371). -/
  waiters : List QWait := []
  /-- Quads to which tasks of an SH set went (R251). -/
  placed : List (BitVec 32 × Nat) := []
  /-- The write of a failure record waits for Chinook's answer since this time, or Chinook has denied it (R18, R385). -/
  pmiss : Option Nat := none
  denied : Bool := false
deriving DecidableEq, Repr

/-- A task that yielded or was evicted: the hart it resumes in and its saved hart (R253, R377). -/
structure Yielded where
  slot : Nat
  hart : Hart
  /-- Its saved commands of the matrix queue (R189). -/
  mq : List MCmd := []
deriving DecidableEq, Repr

/-- What a stopped partition left on a quad that has passed to another (R57, R383): its harts, yielded tasks, the quad with
its engines, and its tile storage. -/
structure Saved where
  quad : Nat
  part : Nat
  harts : Tab Hart
  yielded : List Yielded
  state : Quad
  tmem : Memory
  /-- What its tile storage has held (R43), and its tile lines with an error. -/
  tpast : List (Nat × List Byte) := []
  bad : List Nat := []
deriving DecidableEq, Repr

/-- A remote write in flight or held (R174). -/
structure RWrite where
  /-- A drain's wake, whose hart goes on; else a PUTX or VPUSH, whose writer is parked. -/
  wake : Bool
  /-- A wake's partition: while it is stopped, the wake waits (R382). -/
  part : Nat := 16
  src : Nat
  target : Nat
  file : RFile
  /-- First register of the target, and registers of the group. -/
  reg : Nat
  g : Nat := 1
  /-- The value of a scalar write; a VPUSH reads group `vs` of its writer when it lands. -/
  val : Word := 0
  vs : Nat := 0
  /-- Registers the writer takes when the write lands (R173). -/
  takes : List Nat := []
deriving DecidableEq, Repr

/-- A waiter at a sync object (R289, R293). -/
structure Waiter where
  line : Nat
  hart : Nat
  ticket : Nat
  /-- The phase awaited, for WAITPH. -/
  phase : Option Bool
  /-- The object's virtual address. -/
  va : Word
deriving DecidableEq, Repr

/-- An SFENCE.VMA (of a hart) or Chinook's invalidation (of none) awaiting acknowledgements (R34): what it selects, and the
quads that have not acknowledged. -/
structure Shootdown where
  hart : Option Nat
  part : Nat
  page : Option Nat
  asid : Option Nat
  quads : List Nat
deriving DecidableEq, Repr

/-- A back-invalidate snoop sent for an access of an agent (a hart, or another by its number), and whether the host
has answered it (R431). -/
structure BiSnp where
  who : Nat
  line : Nat
  inv : Bool
  done : Bool
deriving DecidableEq, Repr

/-- A host access of device memory, as it waits for a flip, a lock or a write-back, or for room in the snoop filter (R105, R404, R405):
its host physical and device physical addresses, the bytes of a write, whether the host may keep the line, and the key of its decoder. -/
structure HeldHost where
  hpa : Nat
  addr : Nat
  write : Option (List Byte)
  keep : Bool
  key : Nat := 0
deriving DecidableEq, Repr

/-- A partner's access that waits (R18, R404, R414): its address and the bytes of a write or the number of bytes of a read; where it waits
for Chinook's answer to a partition-stage miss, since when, and whether Chinook has denied it. -/
structure PeerWait where
  link : Nat
  va : Word
  bytes : Option (List Byte)
  n : Nat
  since : Option Nat := none
  denied : Bool := false
deriving DecidableEq, Repr

/-- A write of EQDESC that waits, for a flip of the descriptor's page or for the host's answer (R404, R407). -/
structure EqWait where
  func : Nat
  gpa : Nat
  /-- The queue that EQQ named. -/
  q : Nat
deriving DecidableEq, Repr

/-- What the device sends out: the host's, peers' and registers' answers, in order. -/
inductive Out where
  | hostRead (hpa : Nat) (bytes : List Byte) (poison : Bool)
  | hostWrite (hpa : Nat)
  | hostError (hpa : Nat)
  /-- An uncorrectable non-fatal error message on CXL.io (R402). -/
  | errorMessage (pa : Nat)
  | bisnp (line : Nat) (inv : Bool)
  | hostSnoop (line : Nat) (dirty : Bool)
  | reg (v : Word)
  | refusedAccess (pa : Nat)
  | msix (vf vec : Nat)
  | spdm (items : List Word)
  | peerRead (l : Nat) (bytes : List Byte) (cause : Nat)
  | peerWrite (l : Nat) (cause : Nat)
  | peerInvalidate (l : Nat) (pages : List Nat)
  | collectiveAbort (l : Nat) (coll : BitVec 16)
  | chinookMiss (part gpa : Nat)
  /-- Chinook is told of a breach of the partition stage's rules (R20). -/
  | chinookBreach (part : Nat) (va : Word)
  | chinookLog (w0 w1 w2 w3 : Word)
  | loss (part : Nat)
  /-- Quince logs that a link was reset for want of an acknowledgement (R105). -/
  | linkReset (l : Nat)
deriving DecidableEq, Repr

/-- An HDM decoder (R402). -/
structure Hdm where
  hpa : Nat := 0
  dpa : Nat := 0
  size : Nat := 0
  key : Nat := 0
deriving DecidableEq, Repr

/-- A virtual function's registers (R407). -/
structure Func where
  /-- Chinook's function table. -/
  part : Option Nat := none
  eqq : BitVec 12 := 0
  eqstat : Word := 0
  resetting : Bool := false
deriving DecidableEq, Repr

/-- A Bora link (R413, R416). -/
structure Link where
  up : Bool := false
  inc : BitVec 8 := 0
  peerid : BitVec 16 := 0
  part : Nat := 0
  bnd : Bool := false
  asid : BitVec 16 := 0
  coll : BitVec 16 := 0
  /-- A read of a frozen page has been carried since the link came up. -/
  replicas : Bool := false
  /-- It has joined before: the next join is a rejoin (R82). -/
  joined : Bool := false
deriving DecidableEq, Repr

/-- The bytes a peer module holds, as far as CPYB meets them: what the partner answers (R414). -/
structure Peer where
  mem : Memory := []
  unmapped : List Nat := []
  frozen : List Nat := []
deriving DecidableEq, Repr

/-- Mistral's block (R400). -/
structure Mistral where
  idlefl : Nat := 410
  ecap : Nat := 1900
  hcap : Nat := 1900
  pwr : Nat := 0
  fluredu : Bool := false
  capclamp : Bool := false
  throt : Bool := false
  sensf : Bool := false
  /-- Device time of the last period (R393). -/
  periodAt : Nat := 0
  events : List Word := []
deriving DecidableEq, Repr

/-- The security block and the boot state (R410 to R412). -/
structure Security where
  /-- Number of scrubs of each key. -/
  keyGen : Tab Nat := []
  versions : Tab Nat := []
  fused : Nat := 0
  recovery : Bool := false
  /-- The key assignments and the map of partitions and functions as they were measured last (R412). -/
  keyMap : List Nat := []
  partMap : List Nat := []
deriving DecidableEq, Repr

/-- One step of the schedule (log 1): a hart's turn, a step of another agent, or time passing. -/
inductive Turn where
  | issue (h : Nat)
  | event (i : Instr) (a : EvArg)
  | advance (n : Nat)
deriving DecidableEq, Repr

/-- The Isanis. -/
structure State where
  /-- Device time in 1.7 GHz cycles from module reset (R217). -/
  time : Nat := 0
  /-- MODEL'S OWN: the hart at issue (log 1). -/
  cur : Nat := 0
  /-- MODEL'S OWN: the schedule (log 1). -/
  agenda : List Turn := []
  /-- MODEL'S OWN: counts the steps of the default schedule (log 1). -/
  turn : Nat := 0
  /-- MODEL'S OWN: the data of the step that runs (log 1). -/
  ev : EvArg := {}
  /-- MODEL'S OWN: counter of free values (log 6). -/
  fresh : Nat := 0
  /-- MODEL'S OWN: number of the next transfer. -/
  nextXfer : Nat := 0
  harts : Tab Hart := []
  cores : Tab Core := []
  quads : Tab Quad := []
  dies : Tab Die := []
  parts : Tab Part := []
  queues : Tab Queue := []
  /-- Affinity masks, by partition × 64 + set (R369). -/
  affinity : Tab (BitVec 384) := []
  /-- Filter words, by partition × 4,096 + queue, and their bucket levels in 1/65,536 (R370). -/
  filters : Tab (BitVec 32) := []
  buckets : Tab (Nat × Nat) := []
  /-- GDDR-7 and host window bytes (R24). -/
  mem : Memory := []
  /-- Tile storage: quad × 2^21 + byte; SP granules from 2^20 (R37, R53). -/
  tmem : Memory := []
  /-- What has been written in tile storage since its quad passed to its partition, latest first: address and bytes (R43). -/
  tpast : List (Nat × List Byte) := []
  /-- Bytes written under a key other than 0: the key's id + 64 × its generation (R410). An unlisted byte was written under none. -/
  keyed : Tab Nat := []
  /-- Lines that hold poison, and lines whose last fill or write failed (R79, R80). -/
  poison : List Nat := []
  failed : List Nat := []
  /-- Failing lines that their controller's full list could not take (R80, R83): their partitions are stopped at the end of
  the step. -/
  doomed : List Nat := []
  share : Tab ShareEntry := []
  freeze : Tab FreezeEntry := []
  /-- Bias of each page (R403). -/
  bias : Tab Nat := []
  /-- Region map (R25): 0 uniform, 1 + d for die d. -/
  regions : Tab Nat := []
  rwrites : List RWrite := []
  waiters : List Waiter := []
  nextTicket : Nat := 0
  greqs : List GReq := []
  opens : List OpenLoad := []
  released : Tab (List Nat) := []
  fills : List GFill := []
  freezes : List FreezeOp := []
  flips : List BiasFlip := []
  heldHost : List HeldHost := []
  peerWaits : List PeerWait := []
  eqWaits : List EqWait := []
  shoots : List Shootdown := []
  bisnps : List BiSnp := []
  yielded : List Yielded := []
  saved : List Saved := []
  hdm : Tab Hdm := []
  funcs : Tab Func := []
  links : Tab Link := []
  peers : Tab Peer := []
  mistral : Mistral := {}
  dph : Nat := 0
  sec : Security := {}
  ucie : Tab UcieRate := []
  out : List Out := []
deriving DecidableEq, Repr

/-! ### Faults and refusals -/

/-- Why the whole machine stops: for nothing (R411, log 48: a module in recovery goes on answering SPDM). -/
inductive Fault where
deriving DecidableEq, Repr

/-- Why an instruction has no meaning here. -/
inductive Refusal where
  /-- Raised by an arm of `exec` that is not written yet. Safe: nothing is claimed of it. -/
  | notModelled (mnemonic : String)
deriving DecidableEq, Repr

/-- The machine right after module reset: every table at its reset value, no task bound, nothing in memory. -/
def State.reset : State := {}

end Sys2Proof.Machine
end

