-- ==== Sys2Proof/Machine/Flags.lean ====
section
/-!
DEFINITION. Number formats, exact values, the one rounding, and the flag computations (R190 to R215).
-/
namespace Sys2Proof.Machine

/-! ### Flags (R205); the low five bits are also fflags -/

/-- Flags of vflags; bits as R205 lays them out. -/
abbrev Flags := BitVec 7
/-- Inexact. -/
def fNX : Flags := 1
/-- Underflow. -/
def fUF : Flags := 2
/-- Overflow. -/
def fOF : Flags := 4
/-- Division by zero. -/
def fDZ : Flags := 8
/-- Invalid. -/
def fNV : Flags := 16
/-- Saturated. -/
def fSAT : Flags := 32
/-- Outside the reduced range. -/
def fRR : Flags := 64
/-- A flag under a condition. -/
def flagIf (b : Bool) (f : Flags) : Flags := if b then f else 0

/-! ### Exact values -/

/-- The exact number `num / den × 2^exp`, `den` positive. -/
structure Exact where
  num : Int
  den : Nat := 1
  exp : Int := 0
deriving DecidableEq, Repr

/-- `2^n` for a nonnegative integer, 1 otherwise. -/
def pow2 (n : Int) : Nat := 2 ^ n.toNat

/-- Numerators over a common denominator and exponent. -/
def Exact.add (a b : Exact) : Exact :=
  let e := min a.exp b.exp
  ⟨a.num * pow2 (a.exp - e) * b.den + b.num * pow2 (b.exp - e) * a.den, a.den * b.den, e⟩
/-- Product. -/
def Exact.mul (a b : Exact) : Exact := ⟨a.num * b.num, a.den * b.den, a.exp + b.exp⟩
/-- Negation. -/
def Exact.neg (a : Exact) : Exact := ⟨-a.num, a.den, a.exp⟩
/-- Quotient by a nonzero value. -/
def Exact.div (a b : Exact) : Exact :=
  ⟨a.num * b.den * (if b.num < 0 then -1 else 1), a.den * b.num.natAbs, a.exp - b.exp⟩
/-- `a < b`. -/
def Exact.lt (a b : Exact) : Bool := decide ((a.add b.neg).num < 0)
/-- `a = b` as numbers. -/
def Exact.eqv (a b : Exact) : Bool := decide ((a.add b.neg).num = 0)
/-- Scale by `2^k`. -/
def Exact.scale (a : Exact) (k : Int) : Exact := ⟨a.num, a.den, a.exp + k⟩
/-- An integer. -/
def Exact.ofInt (i : Int) : Exact := ⟨i, 1, 0⟩
/-- The floor. -/
def Exact.floor (a : Exact) : Int := (a.num * pow2 a.exp) / ((a.den * pow2 (-a.exp) : Nat) : Int)
/-- `floor(log2 |a|)` of a nonzero value. -/
def Exact.log2 (a : Exact) : Int :=
  let n := a.num.natAbs
  let l : Int := (Nat.log2 n : Int) - (Nat.log2 a.den : Int)
  let below : Bool := decide (n * pow2 (-l) < a.den * pow2 l)
  (if below then l - 1 else l) + a.exp

/-- Integer square root: bits from `k` down. -/
def isqrtGo (n : Nat) : Nat → Nat → Nat
  | 0, r => r
  | k + 1, r =>
    let r' := r + 2 ^ k
    if r' * r' ≤ n then isqrtGo n k r' else isqrtGo n k r
/-- Integer square root. -/
def isqrt (n : Nat) : Nat := isqrtGo n (Nat.log2 n / 2 + 1) 0

/-- A square root of a positive value to 160 bits, with a last bit that says whether it is inexact: it rounds as the exact
root does, in every mode and format up to f64. -/
def Exact.sqrt (a : Exact) : Exact :=
  let l := a.log2
  let k := 160 - l / 2
  -- floor(a × 4^k)
  let s := a.exp + 2 * k
  let num := a.num.natAbs * pow2 s
  let den := a.den * pow2 (-s)
  let n := num / den
  let r := isqrt n
  let exact := decide (r * r = n ∧ num % den = 0)
  ⟨2 * r + (if exact then 0 else 1), 1, -k - 1⟩

/-! ### Values of floating codes -/

/-- The value of a floating code: a NaN (signalling or not), an infinity, or a finite number whose magnitude is `mag`;
zero keeps its sign. -/
inductive FVal where
  | nan (signalling : Bool)
  | inf (neg : Bool)
  | fin (neg : Bool) (mag : Exact)
deriving DecidableEq, Repr

/-- A floating format: IEEE formats are POL 0 with a sign (R193, R195, R197). -/
structure Fmt where
  w : Nat
  s : Bool
  e : Nat
  m : Nat
  bias : Nat
  pol : Nat
deriving DecidableEq, Repr

/-- f16, bf16, f32, f64 (R193). -/
def fmtF16 : Fmt := ⟨16, true, 5, 10, 15, 0⟩
def fmtBf16 : Fmt := ⟨16, true, 8, 7, 127, 0⟩
def fmtF32 : Fmt := ⟨32, true, 8, 23, 127, 0⟩
def fmtF64 : Fmt := ⟨64, true, 11, 52, 1023, 0⟩

/-- The format a format register defines (R195). -/
def fmtOfReg (r : Word) : Fmt :=
  let n := r.toNat
  ⟨n % 16, n / 16 % 2 == 1, n / 32 % 16, n / 512 % 8, n / 4096 % 256, n / 1048576 % 4⟩

/-- V of a format register's fields (R196). -/
def Fmt.valid (f : Fmt) : Bool :=
  decide (4 ≤ f.w ∧ f.w ≤ 8 ∧ 1 ≤ f.e ∧ f.e ≤ 8 ∧ (if f.s then 1 else 0) + f.e + f.m = f.w ∧ f.pol ≤ 2 ∧
    (f.pol = 0 → 2 ≤ f.e ∧ 1 ≤ f.m))

/-- The presets of R198 by LOAD code 1 to 5. -/
def fmtPreset : Nat → Word
  | 1 => 0x8000000000107698#64
  | 2 => 0x800000000000F4B8#64
  | 3 => 0x8000000000203476#64
  | 4 => 0x8000000000201656#64
  | _ => 0x8000000000201254#64

/-- What a write to a format register stores (R195, R196). -/
def fmtRegWrite (old v : Word) : Word :=
  let load := v.toNat / 2 ^ 60 % 8
  if load = 0 then
    let fields := v.toNat % 2 ^ 22
    let r : Word := BitVec.ofNat 64 fields
    if (fmtOfReg r).valid then r ||| 0x8000000000000000#64 else r
  else if load ≤ 5 then fmtPreset load
  else old

/-- Largest exponent field. -/
def Fmt.emax (f : Fmt) : Nat := 2 ^ f.e - 1
/-- Largest trailing significand. -/
def Fmt.mmax (f : Fmt) : Nat := 2 ^ f.m - 1
/-- The least exponent, 1 − bias (R204). -/
def Fmt.emin (f : Fmt) : Int := 1 - (f.bias : Int)
/-- The magnitude code of maxfin (R197). -/
def Fmt.maxCode (f : Fmt) : Nat :=
  if f.pol = 0 then (f.emax - 1) * 2 ^ f.m + f.mmax
  else if f.pol = 1 then (if f.m = 0 then f.emax - 1 else f.emax * 2 ^ f.m + (f.mmax - 1))
  else f.emax * 2 ^ f.m + f.mmax
/-- The code of an infinity's magnitude (POL 0). -/
def Fmt.infCode (f : Fmt) : Nat := f.emax * 2 ^ f.m
/-- The NaN the device writes (R193, R197); +0 under POL 2 (R202). -/
def Fmt.nanCode (f : Fmt) : Nat :=
  if f.pol = 0 then f.emax * 2 ^ f.m + 2 ^ (f.m - 1)
  else if f.pol = 1 then f.emax * 2 ^ f.m + f.mmax
  else 0
/-- A code with its sign. -/
def Fmt.signed (f : Fmt) (neg : Bool) (c : Nat) : Nat := if neg && f.s then c + 2 ^ (f.w - 1) else c

/-- The magnitude of a finite magnitude code (R197). -/
def Fmt.magnitude (f : Fmt) (c : Nat) : Exact :=
  let e := c / 2 ^ f.m
  let m := c % 2 ^ f.m
  if e = 0 then ⟨m, 1, f.emin - f.m⟩ else ⟨2 ^ f.m + m, 1, (e : Int) - f.bias - f.m⟩

/-- The value of a code (R193, R197); container bits above the width are ignored. The spec does not say which NaN codes of a narrow
format are signalling: with POL 0 those whose top trailing bit is 0, as in the IEEE formats, and the NaN of POL 1 is quiet
(DESIGN CHOICE, log 70). -/
def decodeF (f : Fmt) (code : Nat) : FVal :=
  let c := code % 2 ^ f.w
  let neg := f.s && decide (c / 2 ^ (f.w - 1) % 2 = 1)
  let mag := if f.s then c % 2 ^ (f.w - 1) else c
  let e := mag / 2 ^ f.m
  let m := mag % 2 ^ f.m
  if f.pol = 0 ∧ e = f.emax then
    (if m = 0 then .inf neg else .nan (decide (m < 2 ^ (f.m - 1))))
  else if f.pol = 1 ∧ e = f.emax ∧ m = f.mmax then .nan false
  else .fin neg (f.magnitude mag)

/-- A code with the bf16 flush of BFZ: a subnormal input reads as a zero of its sign (R194). -/
def decodeBfz (bfz : Bool) (f : Fmt) (code : Nat) : FVal :=
  match decodeF f code with
  | .fin neg mag =>
    if bfz && decide (f = fmtBf16) && decide (code % 2 ^ 15 < 2 ^ 7) then .fin neg ⟨0, 1, 0⟩ else .fin neg mag
  | v => v

/-! ### The one rounding (R201, R202, R204) -/

/-- Rounding modes; `sr` carries its 32 random bits. -/
inductive RMode where
  | rne | rtz | rdn | rup | rmm
  | sr (h : Nat)
deriving DecidableEq, Repr

/-- The mode of a standard code (R201): codes above 4 name none. -/
def modeOf (n : Nat) : Option RMode :=
  match n with
  | 0 => some .rne | 1 => some .rtz | 2 => some .rdn | 3 => some .rup | 4 => some .rmm | _ => none

/-- Whether `n + r/d` goes up. -/
def roundsUp (mode : RMode) (neg : Bool) (n r d : Nat) : Bool :=
  match mode with
  | .rne => decide (2 * r > d) || (decide (2 * r = d) && decide (n % 2 = 1))
  | .rtz => false
  | .rdn => decide (r > 0) && neg
  | .rup => decide (r > 0) && !neg
  | .rmm => decide (2 * r ≥ d)
  | .sr h => decide (r * 2 ^ 32 / d + h ≥ 2 ^ 32)

/-- IEEE overflow gives infinity in this mode (R202). -/
def overflowsToInf (mode : RMode) (neg : Bool) : Bool :=
  match mode with
  | .rne => true | .rmm => true | .sr _ => true
  | .rtz => false
  | .rdn => neg
  | .rup => !neg

/-- The result of an overflow (R202). -/
def overflowCode (f : Fmt) (neg : Bool) (mode : RMode) : Nat :=
  f.signed neg (if f.pol = 0 ∧ overflowsToInf mode neg then f.infCode else f.maxCode)

/-- The rounding of R204 at exponent floor `lo`: the magnitude code counted from `lo`, and whether it is inexact. -/
def roundMag (m : Nat) (lo : Int) (mode : RMode) (neg : Bool) (x : Exact) : Nat × Bool :=
  let e := max x.log2 lo
  let s := x.exp - (e - m)
  let num := x.num.natAbs * pow2 s
  let den := x.den * pow2 (-s)
  let n := num / den
  let r := num % den
  let n' := if roundsUp mode neg n r den then n + 1 else n
  ((e - lo).toNat * 2 ^ m + n', decide (r > 0))

/-- round_mode of a finite nonzero magnitude into a format that can hold its sign (R204). -/
def roundFin (f : Fmt) (mode : RMode) (bfz : Bool) (neg : Bool) (x : Exact) : Nat × Flags :=
  let r := roundMag f.m f.emin mode neg x
  if r.1 > f.maxCode then (overflowCode f neg mode, fOF ||| fNX)
  else if bfz && decide (f = fmtBf16) && decide (r.1 < 2 ^ f.m) && decide (r.1 > 0) then
    (f.signed neg 0, fUF ||| fNX)
  else (f.signed neg r.1, flagIf r.2 fNX ||| flagIf (r.2 && decide (r.1 < 2 ^ f.m)) fUF)

/-- round_mode of any value into a format (R202, R204). R202's table speaks of a negative input with S = 0 and R204 tests x < 0: a −0
is taken as no negative input and gives +0 without a flag (DESIGN CHOICE, log 70). -/
def roundVal (f : Fmt) (mode : RMode) (bfz : Bool) (v : FVal) : Nat × Flags :=
  match v with
  | .nan sig => (f.nanCode, flagIf (sig || decide (f.pol = 2)) fNV)
  | .inf neg =>
    if neg && !f.s then (0, fNX ||| fNV)
    else if f.pol = 0 then (f.signed neg f.infCode, 0)
    else (f.signed neg f.maxCode, fOF ||| fNX)
  | .fin neg x =>
    if x.num = 0 then (f.signed neg 0, 0)
    else if neg && !f.s then (0, fNX)
    else roundFin f mode bfz neg x

/-- A finite value from a signed exact number; `zneg` is the sign of an exact zero. -/
def finOf (zneg : Bool) (x : Exact) : FVal :=
  .fin (if x.num = 0 then zneg else decide (x.num < 0)) ⟨x.num.natAbs, x.den, x.exp⟩

/-- The signed exact number of a finite value. -/
def signedOf (neg : Bool) (x : Exact) : Exact := if neg then x.neg else x

/-! ### IEEE operations on values: the result to be rounded, and the flags raised before rounding (R193, R319) -/

/-- A signalling NaN operand. -/
def FVal.isSig : FVal → Bool
  | .nan s => s
  | _ => false
/-- A NaN operand. -/
def FVal.isNan : FVal → Bool
  | .nan _ => true
  | _ => false
/-- The sign with a NaN positive. -/
def FVal.isNeg : FVal → Bool
  | .nan _ => false
  | .inf n => n
  | .fin n _ => n
/-- The value with its sign turned. -/
def FVal.negate : FVal → FVal
  | .nan s => .nan s
  | .inf n => .inf (!n)
  | .fin n x => .fin (!n) x
/-- Zero of either sign. -/
def FVal.isZero : FVal → Bool
  | .fin _ x => decide (x.num = 0)
  | _ => false

/-- The sign of an exact zero sum of values that are not both zeros of one sign. -/
def zeroSumNeg (mode : RMode) : Bool := decide (mode = .rdn)

/-- a + b. -/
def addV (mode : RMode) (a b : FVal) : FVal × Flags :=
  match a, b with
  | .nan s, y => (.nan false, flagIf (s || y.isSig) fNV)
  | .inf _, .nan s => (.nan false, flagIf s fNV)
  | .fin _ _, .nan s => (.nan false, flagIf s fNV)
  | .inf m, .inf n => if m = n then (.inf m, 0) else (.nan false, fNV)
  | .inf m, .fin _ _ => (.inf m, 0)
  | .fin _ _, .inf n => (.inf n, 0)
  | .fin m x, .fin n y =>
    if x.num = 0 ∧ y.num = 0 then (.fin (if m = n then m else zeroSumNeg mode) ⟨0, 1, 0⟩, 0)
    else (finOf (zeroSumNeg mode) ((signedOf m x).add (signedOf n y)), 0)

/-- a × b. -/
def mulV (a b : FVal) : FVal × Flags :=
  match a, b with
  | .nan s, y => (.nan false, flagIf (s || y.isSig) fNV)
  | .inf _, .nan s => (.nan false, flagIf s fNV)
  | .fin _ _, .nan s => (.nan false, flagIf s fNV)
  | .inf m, .inf n => (.inf (m != n), 0)
  | .inf m, .fin n y => if y.num = 0 then (.nan false, fNV) else (.inf (m != n), 0)
  | .fin m x, .inf n => if x.num = 0 then (.nan false, fNV) else (.inf (m != n), 0)
  | .fin m x, .fin n y => (.fin (m != n) (x.mul y), 0)

/-- a / b. -/
def divV (a b : FVal) : FVal × Flags :=
  match a, b with
  | .nan s, y => (.nan false, flagIf (s || y.isSig) fNV)
  | .inf _, .nan s => (.nan false, flagIf s fNV)
  | .fin _ _, .nan s => (.nan false, flagIf s fNV)
  | .inf _, .inf _ => (.nan false, fNV)
  | .inf m, .fin n _ => (.inf (m != n), 0)
  | .fin m _, .inf n => (.fin (m != n) ⟨0, 1, 0⟩, 0)
  | .fin m x, .fin n y =>
    if y.num = 0 then (if x.num = 0 then (.nan false, fNV) else (.inf (m != n), fDZ))
    else (.fin (m != n) (x.div y), 0)

/-- a × b + c: NV for ∞ × 0 even when c is a quiet NaN (R319). -/
def fmaV (mode : RMode) (a b c : FVal) : FVal × Flags :=
  let p := mulV a b
  if p.1.isNan || c.isNan then (.nan false, p.2 ||| flagIf c.isSig fNV)
  else
    let s := addV mode p.1 c
    (s.1, p.2 ||| s.2)

/-- √a. -/
def sqrtV (a : FVal) : FVal × Flags :=
  match a with
  | .nan s => (.nan false, flagIf s fNV)
  | .inf false => (.inf false, 0)
  | .inf true => (.nan false, fNV)
  | .fin n x => if x.num = 0 then (.fin n x, 0) else if n then (.nan false, fNV) else (.fin false x.sqrt, 0)

/-- a < b for values that are no NaN. -/
def ltV (a b : FVal) : Bool :=
  match a, b with
  | .inf m, .inf n => m && !n
  | .inf m, _ => m
  | _, .inf n => !n
  | .fin m x, .fin n y => (signedOf m x).lt (signedOf n y)
  | _, _ => false

/-- a = b for values that are no NaN; the zeros are equal. -/
def eqV (a b : FVal) : Bool :=
  match a, b with
  | .inf m, .inf n => m == n
  | .fin m x, .fin n y => (signedOf m x).eqv (signedOf n y)
  | _, _ => false

/-- minimumNumber (`max = false`) and maximumNumber: whether the second operand is taken; both NaN is `none` (R319). -/
def minmaxTakesB (mx : Bool) (a b : FVal) : Option Bool :=
  match a.isNan, b.isNan with
  | true, true => none
  | true, false => some true
  | false, true => some false
  | false, false =>
    let less := ltV a b || (eqV a b && a.isNeg && !b.isNeg)
    let more := ltV b a || (eqV a b && b.isNeg && !a.isNeg)
    some (if mx then less else more)

/-- A value and its flags rounded into a format. -/
def finish (f : Fmt) (mode : RMode) (bfz : Bool) (r : FVal × Flags) : Nat × Flags :=
  let c := roundVal f mode bfz r.1
  (c.1, c.2 ||| r.2)

/-- Floating to integer (R203): rounding by mode, saturation with NV only, NX when inexact in range. -/
def toIntV (mode : RMode) (lo hi : Int) (v : FVal) : Int × Flags :=
  match v with
  | .nan _ => (hi, fNV)
  | .inf n => (if n then lo else hi, fNV)
  | .fin n x =>
    let num := x.num.natAbs * pow2 x.exp
    let den := x.den * pow2 (-x.exp)
    let q := num / den
    let r := num % den
    let q' : Int := if roundsUp mode n q r den then q + 1 else q
    let i := if n then -q' else q'
    if i < lo then (lo, fNV) else if i > hi then (hi, fNV) else (i, flagIf (decide (r > 0)) fNX)

/-- An integer as a value. -/
def intV (i : Int) : FVal := .fin (decide (i < 0)) ⟨i.natAbs, 1, 0⟩

/-- The ten classes of FCLASS and VFCLASS: a one-hot mask (R319). -/
def classMask (f : Fmt) (v : FVal) : Nat :=
  match v with
  | .nan true => 256
  | .nan false => 512
  | .inf true => 1
  | .inf false => 128
  | .fin n x =>
    if x.num = 0 then (if n then 8 else 16)
    else if x.log2 < f.emin then (if n then 4 else 32)
    else (if n then 2 else 64)

/-! ### Matrix NaNs (R210 to R212) -/

/-- nan_payload (R210). -/
def nanPayload (q k : Nat) : Nat := 0x7FC00000 ||| (q <<< 13) ||| k
/-- nan_merge (R212). -/
def nanMerge (a b : Nat) : Nat := if a % 2 ^ 22 ≤ b % 2 ^ 22 then a else b
/-- An f32 code that is a NaN. -/
def isNan32 (c : Nat) : Bool := (decodeF fmtF32 c).isNan

/-- scale_add (R208, R211, R342): `s × 2^k + d` in f32, one rounding. -/
def scaleAdd (q : Nat) (d s : Nat) (k : Int) : Nat × Flags :=
  if isNan32 d && isNan32 s then (nanMerge d s, 0)
  else if isNan32 d then (d, 0)
  else if isNan32 s then (s, 0)
  else
    let sv := match decodeF fmtF32 s with
      | .fin n x => FVal.fin n (x.scale k)
      | v => v
    let r := addV .rne sv (decodeF fmtF32 d)
    if r.1.isNan then (nanPayload q 0x1FFF, fNV) else finish fmtF32 .rne false r

/-! ### Stochastic rounding (R214) -/

/-- The mixer of R214, modulo 2^32. -/
def mix32 (z : Nat) : Nat :=
  let z := z % 2 ^ 32
  let z := z ^^^ (z >>> 16)
  let z := z * 0x7FEB352D % 2 ^ 32
  let z := z ^^^ (z >>> 15)
  let z := z * 0x846CA68B % 2 ^ 32
  z ^^^ (z >>> 16)

/-- The random bits of element `i` (R214). -/
def srBits (seed : Word) (base i : Nat) : Nat :=
  let counter := (base + i) % 2 ^ 32
  mix32 ((mix32 (counter ^^^ (seed.toNat % 2 ^ 32)) + seed.toNat / 2 ^ 32) % 2 ^ 32)

/-! ### Special functions (R334, R335), in fixed point of 320 bits -/

/-- Fraction bits of the fixed point. -/
def fixBits : Nat := 320
/-- One. -/
def fixOne : Nat := 2 ^ fixBits

/-- ln 2 = Σ 1 / (k 2^k), `k` terms summed from the last. -/
def ln2Go : Nat → Nat
  | 0 => 0
  | k + 1 => ln2Go k + fixOne / ((k + 1) * 2 ^ (k + 1))
/-- ln 2 in fixed point. -/
def fixLn2 : Nat := ln2Go 330

/-- atan(1/n) = Σ (−1)^j / ((2j+1) n^(2j+1)). -/
def atanInvGo (n : Nat) : Nat → Nat → Nat → Int
  | 0, _, _ => 0
  | fuel + 1, j, p =>
    let t : Int := (p / (2 * j + 1) : Nat)
    (if j % 2 = 0 then t else -t) + atanInvGo n fuel (j + 1) (p / (n * n))
/-- π in fixed point, by Machin's formula. -/
def fixPi : Nat :=
  (16 * atanInvGo 5 80 0 (fixOne / 5) - 4 * atanInvGo 239 40 0 (fixOne / 239)).toNat

/-- e^x for 0 ≤ x < 1 in fixed point: Σ x^j / j!. -/
def expGo (x : Nat) : Nat → Nat → Nat → Nat
  | 0, _, _ => 0
  | fuel + 1, j, t => t + expGo x fuel (j + 1) (t * x / fixOne / (j + 1))

/-- 2 atanh(z) = 2 Σ z^(2j+1) / (2j+1) for |z| ≤ 1/3 in fixed point. -/
def atanhGo (z2 : Nat) : Nat → Nat → Nat → Nat
  | 0, _, _ => 0
  | fuel + 1, j, p => p / (2 * j + 1) + atanhGo z2 fuel (j + 1) (p * z2 / fixOne)

/-- sin x = Σ (−1)^j x^(2j+1) / (2j+1)! for 0 ≤ x < 8 in fixed point; cos with the even powers (`start`). -/
def sinGo (x2 : Nat) : Nat → Nat → Nat → Int
  | 0, _, _ => 0
  | fuel + 1, k, t => (t : Int) - sinGo x2 fuel (k + 2) (t * x2 / fixOne / ((k + 1) * (k + 2)))

/-- A fixed-point approximation with an inexact last bit, `× 2^e`. -/
def inexact (a : Int) (e : Int) : Exact := ⟨2 * a + 1, 1, e - fixBits - 1⟩

/-- 2^x for a finite nonzero x. -/
def exp2V (neg : Bool) (mag : Exact) : FVal :=
  let x := signedOf neg mag
  let n := x.floor
  if n > 200 then .fin false ⟨1, 1, 200⟩
  else if n < -300 then .fin false ⟨1, 1, -300⟩
  else
    let fr := x.add (Exact.ofInt (-n))
    if fr.num = 0 then .fin false ⟨1, 1, n⟩
    else
      let f := (fr.num.natAbs * pow2 (fr.exp + fixBits)) / (fr.den * pow2 (-(fr.exp + fixBits)))
      .fin false (inexact (expGo (f * fixLn2 / fixOne) 100 0 fixOne) n)

/-- log2 of a positive finite value. -/
def log2V (mag : Exact) : FVal :=
  let e := mag.log2
  let m := mag.scale (-e)   -- in [1, 2)
  if m.eqv ⟨1, 1, 0⟩ then finOf false (Exact.ofInt e)
  else
    let m1 := m.add (Exact.ofInt (-1))
    let p1 := m.add (Exact.ofInt 1)
    let z := m1.div p1
    let zf := (z.num.natAbs * pow2 (z.exp + fixBits)) / (z.den * pow2 (-(z.exp + fixBits)))
    let ln := 2 * atanhGo (zf * zf / fixOne) 110 0 zf
    finOf false (inexact (e * fixOne + ((ln * fixOne / fixLn2 : Nat) : Int)) 0)

/-- sin (`cosine = false`) or cos of a finite nonzero value below 2^24 in magnitude. -/
def sincosV (cosine : Bool) (neg : Bool) (mag : Exact) : FVal :=
  let xf := (mag.num.natAbs * pow2 (mag.exp + fixBits)) / (mag.den * pow2 (-(mag.exp + fixBits)))
  -- 2π with 40 further bits would matter only beyond 2^280 of relative error; xf < 2^344
  let r := xf % (2 * fixPi)
  let x2 := r * r / fixOne
  if cosine then finOf false (inexact (sinGo x2 120 0 fixOne) 0)
  else
    let s := inexact (sinGo x2 120 1 r) 0
    finOf neg (if neg then s.neg else s)

/-- The magnitude of `v` is at least 2^24. -/
def beyondRange (v : FVal) : Bool :=
  match v with
  | .inf _ => true
  | .fin _ x => decide (x.num ≠ 0) && decide (x.log2 ≥ 24)
  | .nan _ => false

/-- The six special functions. -/
inductive SpecFn where
  | rcp | rsqrt | exp2 | log2 | sin | cos
deriving DecidableEq, Repr

/-- A special function of an f32 code (R334, R335). -/
def specialF32 (fn : SpecFn) (c : Nat) : Nat × Flags :=
  let v := decodeF fmtF32 c
  let done (r : FVal) : Nat × Flags := roundVal fmtF32 .rne false r
  match v with
  | .nan s => (0x7FC00000, flagIf s fNV)
  | .inf n => match fn with
    | .rcp => (fmtF32.signed n 0, 0)
    | .rsqrt => if n then (0x7FC00000, fNV) else (0, 0)
    | .exp2 => if n then (0, 0) else (0x7F800000, 0)
    | .log2 => if n then (0x7FC00000, fNV) else (0x7F800000, 0)
    | .sin => (0x7FFFFFFF, fNV ||| fRR)
    | .cos => (0x7FFFFFFF, fNV ||| fRR)
  | .fin n x =>
    match fn with
    | .rcp => if x.num = 0 then (fmtF32.signed n 0x7F800000, fDZ) else done (.fin n ((Exact.ofInt 1).div x))
    | .rsqrt =>
      if x.num = 0 then (fmtF32.signed n 0x7F800000, fDZ)
      else if n then (0x7FC00000, fNV)
      else done (.fin false ((Exact.ofInt 1).div x).sqrt)
    | .exp2 => if x.num = 0 then (0x3F800000, 0) else done (exp2V n x)
    | .log2 =>
      if x.num = 0 then (0xFF800000, fDZ)
      else if n then (0x7FC00000, fNV)
      else done (log2V x)
    | .sin =>
      if x.num = 0 then (c, 0) else if beyondRange v then (0x7FFFFFFF, fNV ||| fRR) else done (sincosV false n x)
    | .cos =>
      if x.num = 0 then (0x3F800000, 0) else if beyondRange v then (0x7FFFFFFF, fNV ||| fRR) else done (sincosV true n x)

end Sys2Proof.Machine
end

