-- ==== Sys2Proof/Machine/Ops.lean ====
section
/-!
DEFINITION. The named operations over memory, registers and agents, and taking and leaving an exception (R171 to R185).
-/
namespace Sys2Proof.Machine

/-- What a meaning answers. -/
abbrev Res := Host.Outcome State Fault Refusal

/-! ### Memory: the canonical form (log 3) -/

/-- The byte at `a`. -/
def Memory.read : Memory → Nat → Byte
  | [], _ => 0
  | (j, b) :: t, a => if j = a then b else Memory.read t a

/-- Insertion in address order, replacing. -/
def Memory.put : Memory → Nat → Byte → Memory
  | [], a, v => [(a, v)]
  | (j, b) :: t, a, v =>
    if a < j then (a, v) :: (j, b) :: t else if a = j then (a, v) :: t else (j, b) :: Memory.put t a v

/-- The memory with byte `a` written; writing 0 removes the entry. -/
def Memory.write (m : Memory) (a : Nat) (v : Byte) : Memory :=
  if v = 0 then m.filter (fun c => c.1 != a) else m.put a v

/-- Addresses strictly rise and no entry is 0. -/
def Memory.wf : Memory → Bool
  | [] => true
  | [(_, b)] => decide (b ≠ 0)
  | (a, b) :: (c, d) :: t => decide (b ≠ 0) && decide (a < c) && Memory.wf ((c, d) :: t)

/-- `n` bytes from `a` upward. -/
def Memory.readBytes (m : Memory) (a : Nat) : Nat → List Byte
  | 0 => []
  | n + 1 => m.read a :: m.readBytes (a + 1) n

/-- Bytes written from `a` upward. -/
def Memory.writeBytes (m : Memory) (a : Nat) : List Byte → Memory
  | [] => m
  | b :: t => (m.write a b).writeBytes (a + 1) t

/-- The little-endian number of some bytes (R191, R216). -/
def leNat : List Byte → Nat
  | [] => 0
  | b :: t => b.toNat + 256 * leNat t

/-- `n` little-endian bytes of a number. -/
def leBytes : Nat → Nat → List Byte
  | 0, _ => []
  | n + 1, v => BitVec.ofNat 8 v :: leBytes n (v / 256)

/-- The little-endian number of `n` bytes at `a`. -/
def Memory.readN (m : Memory) (a n : Nat) : Nat := leNat (m.readBytes a n)
/-- `n` little-endian bytes written at `a`. -/
def Memory.writeN (m : Memory) (a n v : Nat) : Memory := m.writeBytes a (leBytes n v)

/-! ### Agents by number (R3) -/

/-- The quad of a hart. -/
def quadOf (h : Nat) : Nat := h / 32
/-- The core number of a hart, quad × 4 + core. -/
def coreOf (h : Nat) : Nat := h / 8
/-- The die of a quad. -/
def dieOfQuad (q : Nat) : Nat := q / 96
/-- The die of a hart. -/
def dieOf (h : Nat) : Nat := dieOfQuad (quadOf h)
/-- Column of a quad. -/
def colOf (q : Nat) : Nat := q % 12
/-- Row of a quad. -/
def rowOf (q : Nat) : Nat := q % 96 / 12

/-- A hart's state. -/
def State.hart (s : State) (h : Nat) : Hart := Tab.get s.harts h {}
/-- The hart at issue. -/
def State.me (s : State) : Hart := s.hart s.cur
/-- A hart replaced. -/
def State.setHart (s : State) (h : Nat) (a : Hart) : State := { s with harts := Tab.set s.harts h a }
/-- The hart at issue replaced. -/
def State.setMe (s : State) (a : Hart) : State := s.setHart s.cur a
/-- A hart changed. -/
def State.updHart (s : State) (h : Nat) (f : Hart → Hart) : State := s.setHart h (f (s.hart h))
/-- The hart at issue changed. -/
def State.updMe (s : State) (f : Hart → Hart) : State := s.updHart s.cur f
/-- Every hart changed. -/
def State.mapHarts (s : State) (f : Nat → Hart → Hart) : State := { s with harts := s.harts.map (fun e => (e.1, f e.1 e.2)) }
/-- A hart loses a reservation that a test picks (R266). -/
def Hart.loseResv (a : Hart) (hit : Reservation → Bool) : Hart :=
  { a with resv := match a.resv with
      | none => none
      | some r => if hit r then none else some r }
/-- A core's state. -/
def State.core (s : State) (c : Nat) : Core := Tab.get s.cores c {}
/-- A core changed. -/
def State.updCore (s : State) (c : Nat) (f : Core → Core) : State := { s with cores := Tab.set s.cores c (f (s.core c)) }
/-- A quad's state. -/
def State.quad (s : State) (q : Nat) : Quad := Tab.get s.quads q {}
/-- A quad changed. -/
def State.updQuad (s : State) (q : Nat) (f : Quad → Quad) : State := { s with quads := Tab.set s.quads q (f (s.quad q)) }
/-- A die's state. -/
def State.die (s : State) (d : Nat) : Die := Tab.get s.dies d {}
/-- A die changed. -/
def State.updDie (s : State) (d : Nat) (f : Die → Die) : State := { s with dies := Tab.set s.dies d (f (s.die d)) }
/-- A partition's state. -/
def State.prt (s : State) (p : Nat) : Part := Tab.get s.parts p {}
/-- A partition changed. -/
def State.updPart (s : State) (p : Nat) (f : Part → Part) : State := { s with parts := Tab.set s.parts p (f (s.prt p)) }
/-- A queue's state. -/
def State.queue (s : State) (q : Nat) : Queue := Tab.get s.queues q {}
/-- A queue changed. -/
def State.updQueue (s : State) (q : Nat) (f : Queue → Queue) : State :=
  { s with queues := Tab.set s.queues q (f (s.queue q)) }
/-- `g` numbers from `n` on, such as the registers of a group. -/
def span (n g : Nat) : List Nat := (List.range g).map (fun k => n + k)

/-- The first of a list with the least cost. -/
def leastCost (f : Nat → Nat) : List Nat → Option Nat
  | [] => none
  | a :: t => match leastCost f t with
    | none => some a
    | some b => if f b < f a then some b else some a

/-! ### The clock of a quad (R388, R391) -/

/-- Frequency of an operating point in 50 MHz (R388); the reference clock is 34. -/
def opFreq : Nat → Nat
  | 0 => 12
  | 1 => 15
  | 2 => 18
  | 3 => 21
  | 4 => 24
  | 5 => 27
  | 6 => 30
  | _ => 34
/-- The quad's clock at a device time, in 1/34 of its cycles. -/
def Quad.now (a : Quad) (time : Nat) : Nat := a.clock + (time - a.clockAt) * opFreq a.opcur
/-- The quad's point changes; its clock has counted at the former one. -/
def Quad.setOp (a : Quad) (time op : Nat) : Quad := { a with clock := a.now time, clockAt := time, opcur := op }
/-- A quad's clock now. -/
def State.clockOf (s : State) (q : Nat) : Nat := (s.quad q).now s.time
/-- The clock of the quad of the hart at issue. -/
def State.clk (s : State) : Nat := s.clockOf (quadOf s.cur)

/-- A message out of the device. -/
def State.emit (s : State) (o : Out) : State := { s with out := s.out ++ [o] }

/-- The partition of a quad; 16 when it has none, which names no partition. -/
def State.partOfQuad (s : State) (q : Nat) : Nat := ((s.quad q).part).getD 16
/-- The partition of a hart. -/
def State.partOf (s : State) (h : Nat) : Nat := s.partOfQuad (quadOf h)

/-- The partition of a quad is stopped (R165, R189, R382). -/
def State.quadStopped (s : State) (q : Nat) : Bool := (s.prt (s.partOfQuad q)).stopped

/-! ### Registers and presence (R171 to R173) -/

/-- A register of a file by number. -/
def getReg {α : Type} (rs : Vector α 32) (r : Reg) : α := rs[r.toNat]'(r.isLt)
/-- A register replaced. -/
def setReg {α : Type} (rs : Vector α 32) (r : Reg) (a : α) : Vector α 32 := rs.set r.toNat a (r.isLt)
/-- A register number from a natural number, modulo 32. -/
def regNo (n : Nat) : Reg := BitVec.ofNat 5 n

/-- The value of x register `r`; x0 reads 0 (R170). -/
def Hart.xv (a : Hart) (r : Reg) : Word := if r = 0 then 0 else (getReg a.x r).val
/-- The value of f register `r`. -/
def Hart.fv (a : Hart) (r : Reg) : Word := (getReg a.f r).val
/-- The value of v register `n`. -/
def Hart.vv (a : Hart) (n : Nat) : BitVec 1024 := (getReg a.v (regNo n)).val

/-- A write to x register `r`: the value, present, the mark cleared (R172, R180); x0 discards it. -/
def Hart.setX (a : Hart) (r : Reg) (v : Word) : Hart :=
  if r = 0 then a else { a with x := setReg a.x r ⟨v, .present, none⟩ }
/-- A write to f register `r`. -/
def Hart.setF (a : Hart) (r : Reg) (v : Word) : Hart := { a with f := setReg a.f r ⟨v, .present, none⟩ }
/-- x register `r` with its presence changed; x0 is always present. -/
def Hart.presX (a : Hart) (r : Reg) (p : Presence) : Hart :=
  if r = 0 then a else { a with x := setReg a.x r { getReg a.x r with pres := p } }
/-- f register `r` with its presence changed. -/
def Hart.presF (a : Hart) (r : Reg) (p : Presence) : Hart :=
  { a with f := setReg a.f r { getReg a.f r with pres := p } }
/-- v register `n` with its presence changed. -/
def Hart.presV (a : Hart) (n : Nat) (p : Presence) : Hart :=
  { a with v := setReg a.v (regNo n) { getReg a.v (regNo n) with pres := p } }

/-- Presence and mark of a register of any file. -/
def Hart.cond (a : Hart) (file : RFile) (r : Nat) : Presence × Option Mark :=
  match file with
  | .x => if r % 32 = 0 then (.present, none) else ((getReg a.x (regNo r)).pres, (getReg a.x (regNo r)).mark)
  | .f => ((getReg a.f (regNo r)).pres, (getReg a.f (regNo r)).mark)
  | .v => ((getReg a.v (regNo r)).pres, (getReg a.v (regNo r)).mark)

/-- The vector allocation of a hart's task (R176); 0 without a task. -/
def Hart.alloc (a : Hart) : Nat :=
  match a.task with
  | none => 0
  | some t => t.alloc

/-! ### Taking an exception and returning from one (R184, R185) -/

/-- The field of one bit of a word set to a flag. -/
def withBit (w : Word) (k : Nat) (b : Bool) : Word :=
  if b then w ||| (1#64 <<< k) else w &&& ~~~(1#64 <<< k)
/-- A bit of a word. -/
def bitOf (w : Word) (k : Nat) : Bool := w.getLsbD k

/-- sstatus after an entry: SPP := the former mode, SPIE := SIE, SIE := 0 (R184). -/
def enterStatus (st : Word) (m : Mode) : Word :=
  withBit (withBit (withBit st 8 (decide (m = .s))) 5 (bitOf st 1)) 1 false

/-- sstatus after a return: SIE := SPIE, SPIE := 1, SPP := U (R185, the standard instruction). -/
def leaveStatus (st : Word) : Word := withBit (withBit (withBit st 1 (bitOf st 5)) 5 true) 8 false

/-- Entry into S mode at stvec: sepc, scause, stval, sstatus, mode, pc, in one step (R184); a reservation is lost (R266). -/
def Hart.enter (a : Hart) (cause tval : Word) : Hart :=
  { a with
    csr := { a.csr with sepc := a.pc, scause := cause, stval := tval, sstatus := enterStatus a.csr.sstatus a.mode }
    mode := .s
    pc := a.csr.stvec &&& 0xFFFFFFFFFFFFFFFC#64
    park := none
    resv := none
    slide := none
    handlerFetch := true }

/-- A synchronous trap of a hart; veix is the element at which a vector instruction stopped, else 0 (R184). -/
def Hart.trap (a : Hart) (cause : Nat) (tval : Word) (eix : Nat) : Hart :=
  { a.enter (BitVec.ofNat 64 cause) tval with veix := BitVec.ofNat 12 eix }

/-- An interrupt entry: the interrupt bit in scause, stval 0, veix unchanged (R184, R188). -/
def Hart.interrupt (a : Hart) (cause : Nat) : Hart := a.enter (BitVec.ofNat 64 (2 ^ 63 + cause)) 0

/-- Return: to sepc in mode SPP, SIE := SPIE (R185). -/
def Hart.sret (a : Hart) : Hart :=
  { a with
    pc := a.csr.sepc
    mode := if bitOf a.csr.sstatus 8 then .s else .u
    csr := { a.csr with sstatus := leaveStatus a.csr.sstatus }
    park := none }

/-- The hart at issue traps. -/
def State.trap (s : State) (cause : Nat) (tval : Word) : Res := .next (s.updMe (fun a => a.trap cause tval 0))
/-- The hart at issue traps at a vector element. -/
def State.trapAt (s : State) (cause : Nat) (tval : Word) (eix : Nat) : Res :=
  .next (s.updMe (fun a => a.trap cause tval eix))
/-- The word of an instruction, as stval holds it (R182). -/
def wordOf (i : Instr) : Word := BitVec.ofNat 64 (encode i)
/-- Illegal instruction (cause 2). -/
def State.illegal (s : State) (i : Instr) : Res := s.trap 2 (wordOf i)

/-! ### Telling of errors and breaches (R20, R81) -/

/-- The id of the task bound in a hart. -/
def Hart.taskId (a : Hart) : Nat :=
  match a.task with
  | some t => t.id.toNat
  | none => 0

/-- The effective class of the task bound in a hart; 0 without one. -/
def Hart.taskCls (a : Hart) : Nat :=
  match a.task with
  | some t => t.cls
  | none => 0

/-- A record for a quad's error log, which holds 15 (R81). -/
def State.logError (s : State) (q : Nat) (e : ErrRec) : State :=
  let t := s.updQuad q (fun a => if a.errs.length < 15 then { a with errs := a.errs ++ [e] } else { a with ovf := true })
  match (s.quad q).part with
  | none => t
  | some p => t.updPart p (fun a => if a.sources.contains 1 then a else { a with sources := a.sources ++ [1] })

/-- An uncorrectable error reported to a hart is logged in its quad (R81). -/
def State.logUse (s : State) (h : Nat) (unit cause pa : Nat) : State :=
  s.logError (quadOf h) ⟨unit, cause, pa / 64 * 64 % 2 ^ 48, (s.hart h).taskId, h⟩

/-- What a fault of a hart tells beside its cause. -/
def State.tell (s : State) (h cause : Nat) (va : Word) (w : Why) : State :=
  match w with
  | .plain => s
  | .breach => s.emit (.chinookBreach (s.partOf h) va)
  | .bad unit pa => s.logUse h unit cause pa

/-! ### Parking (R175) -/

/-- The park ends when an interrupt is taken or the partition stops. -/
def Park.interruptible : Park → Bool
  | .empty _ _ _ => true
  | .vqFull => true
  | .mqFull => true
  | .cqFull => true
  | .held _ _ _ => true
  | .sbwait _ => true
  | .tokenFull _ => true
  | .vfence => true
  | .acq => true
  | .acqBusy _ => true
  | .waitph => true
  | .tenq => true
  | .pop => true
  | .blend _ _ => true
  | .owed _ _ => false
  | .pmiss _ _ _ => false
  | .faultPoint => false
  | .gld => false
  | .talloc => false
  | .freeze => false
  | .fence => false
  | .bwph => false
  | .transfers => false
  | .pgbias => false
  | .wfi => false
  | .chinook => false
  | .access => false
  | .missFull => false
  | .snoop _ _ => false
  | .commit _ _ _ _ => false
  | .dying _ _ _ => false
  | .retiring => false

/-- The hart is at an instruction boundary: not parked, or parked interruptibly. -/
def Hart.atBoundary (a : Hart) : Bool :=
  match a.park with
  | none => true
  | some p => p.interruptible

/-- The engines and queues of a quad stand: its partition is stopped, and every hart of the quad has come to a boundary. A park that a
stop does not end runs to its end first (R189). -/
def State.quadHalted (s : State) (q : Nat) : Bool := s.quadStopped q && (span (32 * q) 32).all (fun h => (s.hart h).atBoundary)

/-- The hart parks for a cause; its time of parking, and its quad's clock then, stay while the cause stays (R186). -/
def Hart.parkFor (a : Hart) (p : Park) (now clk : Nat) : Hart :=
  if a.park = some p then a else { a with park := some p, since := now, sinceQ := clk }
/-- The number of the operation `id` (a transfer, a group load, a FREEZE or THAW) among the agents that send snoops. -/
def engineAgent (id : Nat) : Nat := 2 ^ 64 + id
/-- The number of a hart's vector queue among them. -/
def queueAgent (h : Nat) : Nat := 2 ^ 62 + h
/-- A back-invalidate snoop is sent to the host, once for an agent and line (R404, R431). -/
def State.sendSnoop (s : State) (who line : Nat) (inv : Bool) : State :=
  if s.bisnps.any (fun x => x.who == who && x.line == line && x.inv == inv) then s
  else { s.emit (.bisnp line inv) with bisnps := s.bisnps ++ [⟨who, line, inv, false⟩] }
/-- The message a new park sends: a partition-stage miss goes to Chinook (R18), a snoop to the host (R431). -/
def State.parkMsg (s : State) (p : Park) : State :=
  match p with
  | .pmiss _ _ g => if s.me.park = some p then s else s.emit (.chinookMiss (s.partOf s.cur) g)
  | .snoop l i => s.sendSnoop s.cur l i
  | _ => s
/-- The hart at issue parks. -/
def State.parks (s : State) (p : Park) : Res := .next ((s.parkMsg p).updMe (fun a => a.parkFor p s.time s.clk))

/-- Why an instruction does not go on: it parks, or it traps. -/
inductive Stop where
  | park (p : Park)
  | trap (cause : Nat) (tval : Word)
  | trapAt (cause : Nat) (tval : Word) (eix : Nat)
  /-- A trap that tells Chinook of a breach (R20) or logs an uncorrectable error (R81). -/
  | report (cause : Nat) (tval : Word) (eix : Nat) (why : Why)
  /-- The trap of an error owed since an earlier instruction (R180, R350, R433). -/
  | owed (d : Deferred) (eix : Nat)
deriving DecidableEq, Repr

/-- The cause and stval of an error owed: a store's (R180), a matrix value's (R350), an abandoned push's (R433). -/
def Deferred.report : Deferred → Nat × Word
  | .store _ va => (7, va)
  | .matrix => (5, 0)
  | .push => (31, 0)

/-- A stop carried out at the hart at issue. -/
def State.stop (s : State) (st : Stop) : Res :=
  match st with
  | .park p => s.parks p
  | .trap c v => s.trap c v
  | .trapAt c v e => s.trapAt c v e
  | .report c v e w => (s.tell s.cur c v w).trapAt c v e
  | .owed d e => (s.updMe (fun a => { a with deferred := a.deferred.erase d })).trapAt d.report.1 d.report.2 e

/-- The first stop of a list of checks. -/
def firstStop : List (Option Stop) → Option Stop
  | [] => none
  | none :: t => firstStop t
  | some st :: _ => some st

/-- A condition that traps. -/
def trapIf (b : Bool) (cause : Nat) (tval : Word) : Option Stop := if b then some (.trap cause tval) else none
/-- A condition that parks. -/
def parkIf (b : Bool) (p : Park) : Option Stop := if b then some (.park p) else none

/-- The checks in order, then the effect. -/
def State.guarded (s : State) (checks : List (Option Stop)) (go : Res) : Res :=
  match firstStop checks with
  | some st => s.stop st
  | none => go

/-- Every register of a list is present (R173): the first empty one parks. -/
def Hart.presentAll (a : Hart) : List (RFile × Nat) → Option Stop
  | [] => none
  | (fl, r) :: t => if (a.cond fl r).1 = .present then a.presentAll t else some (.park (.empty fl r false))

/-- The error mark that a reader of a register meets (R180): a result that is owed will overwrite it, so a pending register reports
none. -/
def Hart.markOn (a : Hart) (fl : RFile) (r : Nat) : Option Mark := if (a.cond fl r).1 = .pending then none else (a.cond fl r).2

/-- No register of a list carries an error mark (R180): the first marked one traps. -/
def Hart.markedAny (a : Hart) : List (RFile × Nat) → Option Stop
  | [] => none
  | (fl, r) :: t => match a.markOn fl r with
    | none => a.markedAny t
    | some m => some (.trap m.cause m.addr)

/-- No register of a list is pending (R172): a write to a pending one parks. -/
def Hart.ownedAll (a : Hart) : List (RFile × Nat) → Option Stop
  | [] => none
  | (fl, r) :: t => if (a.cond fl r).1 = .pending then some (.park (.owed fl r)) else a.ownedAll t

/-- The presence of a register of any file changed. -/
def Hart.setPres (a : Hart) (fl : RFile) (r : Nat) (p : Presence) : Hart :=
  match fl with
  | .x => a.presX (regNo r) p
  | .f => a.presF (regNo r) p
  | .v => a.presV r p

/-- A load that parks marks its destinations pending from its issue on (R274, R298); when it is tried again they are first in their
former condition (`Hart.unclaim`). -/
def Hart.claim (a : Hart) (l : List (RFile × Nat)) : Hart :=
  if a.claimed = [] then
    { l.foldl (fun b r => b.setPres r.1 r.2 .pending) a with claimed := l.map (fun r => (r.1, r.2, (a.cond r.1 r.2).1)) }
  else a
/-- A parked load is tried again or withdrawn: its destinations are in their former condition. -/
def Hart.unclaim (a : Hart) : Hart :=
  { a.claimed.foldl (fun b r => b.setPres r.1 r.2.1 r.2.2) a with claimed := [] }

/-- The hart at issue parks in a load with these destinations. -/
def State.parksFor (s : State) (dst : List (RFile × Nat)) (p : Park) : Res :=
  if dst = [] then s.parks p else State.parks (s.updMe (fun a => a.claim dst)) p

/-- A stop of a load with these destinations. -/
def State.stopFor (s : State) (dst : List (RFile × Nat)) (st : Stop) : Res :=
  match st with
  | .park p => s.parksFor dst p
  | st => s.stop st

/-- Sources unmarked and present, destinations not pending (R172, R173, R180): a mark traps before an empty source parks (R183). -/
def Hart.ready (a : Hart) (src dst : List (RFile × Nat)) : Option Stop :=
  firstStop [a.markedAny src, a.presentAll src, a.ownedAll dst]

/-- x registers as register names. -/
def xs (l : List Reg) : List (RFile × Nat) := l.map (fun r => (RFile.x, r.toNat))
/-- f registers as register names. -/
def fs (l : List Reg) : List (RFile × Nat) := l.map (fun r => (RFile.f, r.toNat))
/-- A vector group of `g` registers from `n`. -/
def vgroup (n g : Nat) : List (RFile × Nat) := (List.range g).map (fun k => (RFile.v, n + k))

/-- The next instruction: the pc moves on by the instruction's bytes, and the park ends. -/
def Hart.advance (a : Hart) (n : Nat) : Hart := { a with pc := a.pc + BitVec.ofNat 64 n, park := none }
/-- The hart at issue goes on after `n` bytes. -/
def State.advance (s : State) (n : Nat) : State := s.updMe (fun a => a.advance n)

/-- Flags ORed into fflags (scalar F and D). -/
def Hart.orFFlags (a : Hart) (f : Flags) : Hart := { a with fflags := a.fflags ||| f.setWidth 5 }
/-- Flags ORed into vflags (R206). -/
def Hart.orVFlags (a : Hart) (f : Flags) : Hart := { a with vflags := a.vflags ||| f }

/-- A late result: the register is pending and the result is owed (R172). -/
def Hart.owe (a : Hart) (l : Late) : Hart :=
  match l.file with
  | .x => if l.reg = 0 then a else { a.presX l.reg .pending with late := a.late ++ [l] }
  | .f => { a.presF l.reg .pending with late := a.late ++ [l] }
  | .v => a

/-- A late result lands: value, present, its mark (R172, R180). -/
def Hart.land (a : Hart) (l : Late) : Hart :=
  match l.file with
  | .x => if l.reg = 0 then a else { a with x := setReg a.x l.reg ⟨l.val, .present, l.mark⟩ }
  | .f => { a with f := setReg a.f l.reg ⟨l.val, .present, l.mark⟩ }
  | .v => a

end Sys2Proof.Machine
end

