-- ==== Sys2Proof/Machine/Mmio.lean ====
section
/-!
DEFINITION. The registers of the MMIO window (R24, R434): quad controllers (R36, R46, R81, R375), group tables (R85),
freeze registers (R109), queues, filters and affinity sets (R368 to R370), Mistral (R400), bias words (R403) and Bora
links (R413). Every register is read and written as the doubleword that holds it.
-/
namespace Sys2Proof.Machine

/-- A doubleword register by name. -/
inductive MReg where
  | tile (q handle : Nat) (second : Bool)
  | bankst (q : Nat) | ways (q : Nat) | phases (q : Nat)
  | err0 (q : Nat) | err1 (q : Nat) | err2 (q : Nat) | err3 (q : Nat)
  | reserve (q : Nat)
  | group (d g : Nat) (second : Bool)
  | epoch (d : Nat) | sweep (d : Nat) | swgo (d : Nat)
  | queue (q word : Nat)
  /-- Filter words `2k` and `2k + 1`. -/
  | filter (k : Nat)
  | affinity (k word : Nat)
  | caps | status | evpop | evpush
  | partFloor (p : Nat) | partLat (p : Nat) | partEnergy (p : Nat)
  | quadPower (q : Nat)
  | bias (k : Nat)
  | link (l : Nat)
deriving DecidableEq, Repr

/-- The register at an 8-byte aligned offset of a quad controller's window. -/
def quadReg (q off : Nat) : Option MReg :=
  if off < 0x1000 then some (.tile q (off / 16) (off % 16 == 8))
  else match off with
    | 0x1000 => some (.bankst q)
    | 0x1008 => some (.ways q)
    | 0x1010 => some (.phases q)
    | 0x2000 => some (.err0 q)
    | 0x2008 => some (.err1 q)
    | 0x2010 => some (.err2 q)
    | 0x2018 => some (.err3 q)
    | 0x3000 => some (.reserve q)
    | _ => none

/-- The register at an 8-byte aligned offset of Mistral's block. -/
def mistralReg (off : Nat) : Option MReg :=
  match off with
  | 0x00 => some .caps
  | 0x08 => some .status
  | 0x10 => some .evpop
  | 0x18 => some .evpush
  | _ =>
    if 0x100 ≤ off ∧ off < 0x100 + 0x20 * 16 then
      (match off % 0x20 with
        | 0x00 => some (.partFloor ((off - 0x100) / 0x20))
        | 0x08 => some (.partLat ((off - 0x100) / 0x20))
        | 0x10 => some (.partEnergy ((off - 0x100) / 0x20))
        | _ => none)
    else if 0x1000 ≤ off ∧ off < 0x1000 + 8 * 384 then some (.quadPower ((off - 0x1000) / 8))
    else none

/-- The register that holds the byte at a device physical address, if one is described (R434). -/
def mmioReg (pa : Nat) : Option MReg :=
  let a := pa / 8 * 8
  if a < 0xF10000000000 then none
  else if a < 0xF10000000000 + 384 * 0x10000 then quadReg ((a - 0xF10000000000) / 0x10000) (a % 0x10000)
  else if a < 0xF18000000000 then none
  else if a < 0xF18000000000 + 4 * 0x10000 then
    (if a % 0x10000 < 4096 then some (.group ((a - 0xF18000000000) / 0x10000) (a % 0x10000 / 16) (a % 16 == 8)) else none)
  else if a < 0xF1C000000000 then none
  else if a < 0xF1C000000000 + 4 * 0x10000 then
    (match a % 0x10000 with
      | 0 => some (.epoch ((a - 0xF1C000000000) / 0x10000))
      | 8 => some (.sweep ((a - 0xF1C000000000) / 0x10000))
      | 16 => some (.swgo ((a - 0xF1C000000000) / 0x10000))
      | _ => none)
  else if a < 0xF20000000000 then none
  else if a < 0xF20000000000 + 4096 * 0x40 then
    some (.queue ((a - 0xF20000000000) / 0x40) (a % 0x40 / 8))
  else if a < 0xF24000000000 then none
  else if a < 0xF24000000000 + 16 * 4096 * 4 then some (.filter ((a - 0xF24000000000) / 8))
  else if a < 0xF26000000000 then none
  else if a < 0xF26000000000 + 16 * 64 * 0x40 then
    some (.affinity ((a - 0xF26000000000) / 0x40) (a % 0x40 / 8))
  else if a < 0xF30000000000 then none
  else if a < 0xF30000000000 + 0x10000 then mistralReg (a - 0xF30000000000)
  else if a < 0xF40000000000 then none
  else if a < 0xF40000000000 + 2 ^ 22 * 8 then some (.bias ((a - 0xF40000000000) / 8))
  else if a < 0xF50000000000 then none
  else if a < 0xF50000000000 + 12 * 0x40 then
    (if a % 0x40 = 0 then some (.link ((a - 0xF50000000000) / 0x40)) else none)
  else none

/-! ### Reading -/

/-- Word 0 and word 1 of a tile table entry (R36). -/
def TileEntry.word0 (e : TileEntry) : Nat :=
  bitNat e.v * 2 ^ 63 + bitNat e.sp * 2 ^ 62 + bitNat e.keep * 2 ^ 61 + e.ty * 2 ^ 56 + e.part * 2 ^ 52
    + e.gen.toNat * 2 ^ 44 + e.ngr * 2 ^ 35 + e.fgr * 2 ^ 27
def TileEntry.word1 (e : TileEntry) : Nat := e.task.toNat * 2 ^ 32 + e.rows * 2 ^ 16 + e.cols

/-- The role a way reads (R46): a way of the swap reserve reads 3, one that holds SP granules, its pinning under way or done,
reads 2. -/
def Quad.role (a : Quad) (w : Nat) : Nat :=
  if w + a.swr ≥ 16 then 3 else if (Tab.get a.ways w {}).next = some 2 then 2 else (Tab.get a.ways w {}).role
/-- Two bits of every way or bank, gathered. -/
def gather2 (n : Nat) (f : Nat → Nat) : Nat := (List.range n).foldl (fun acc i => acc + f i % 4 * 4 ^ i) 0
/-- The way holds SP granules. -/
def Quad.spWays (a : Quad) : Nat := ((List.range 16).filter (fun w => a.role w == 2)).length

/-- A core's vote (R389): the highest of its harts' that hold a task, raised by the highest hint in force. -/
def State.coreVote (s : State) (c : Nat) : Nat :=
  let ops := (span (8 * c) 8).filterMap (fun h => if (s.hart h).task.isSome then some (s.hart h).pwreq.toNat else none)
  let hint := (s.core c).hints.foldl (fun m x => if s.time < x.2 then max m x.1.toNat else m) 0
  match ops with
  | [] => 0
  | _ => ops.foldl max hint

/-- A quad's vote, OPVOTE (R389). -/
def State.quadVote (s : State) (q : Nat) : Nat := (span (4 * q) 4).foldl (fun m c => max m (s.coreVote c)) 0

/-- The point a quad is to run at (R389). -/
def State.pointOf (s : State) (q : Nat) : Nat :=
  let a := s.quad q
  if a.hold || a.hot then 0 else min (s.quadVote q) a.opcap

/-- The quads of a rail: one column of a die (R390). -/
def railOf (q : Nat) : List Nat := (List.range 8).map (fun r => 96 * dieOfQuad q + 12 * r + colOf q)
/-- The highest point on a quad's rail, which its voltage serves. -/
def State.railPoint (s : State) (q : Nat) : Nat := (railOf q).foldl (fun m k => max m (s.quad k).opcur) 0

/-- A quad's point computed again: a lower point at once, a raise when the rail's voltage allows it, else pending; a
lower point cancels a pending raise (R390). -/
def State.repoint (s : State) (q : Nat) : State :=
  let n := s.pointOf q
  let a := s.quad q
  s.updQuad q (fun b =>
    let c := if (n ≤ a.opcur ∨ n ≤ s.railPoint q) ∧ n ≠ a.opcur then b.setOp s.time n else b
    { c with raise := if n ≤ a.opcur ∨ n ≤ s.railPoint q then none else some n })

/-- A quad's OPCUR, TEMP and the rest of its power register (R400), with its vote. -/
def Quad.powerWord (a : Quad) (vote : Nat) : Nat :=
  a.temp % 256 * 2 ^ 56 + a.sfail.toNat * 2 ^ 50 + a.tlvl * 2 ^ 47 + a.clvl * 2 ^ 45 + a.opcur * 2 ^ 42 + a.opcap * 2 ^ 39
    + vote * 2 ^ 36 + a.idle * 2 ^ 34

/-- A queue's word (R368). -/
def Queue.word (a : Queue) (n : Nat) : Nat :=
  match n with
  | 0 => a.w0.toNat / 2 ^ 36 * 2 ^ 36 + a.w0.toNat / 2 ^ 16 % 2 ^ 16 * 2 ^ 16 + a.tasks.length % 2 ^ 13
  | 1 => a.frbase.toNat / 64 * 64
  | 2 => a.frhead.toNat * 2 ^ 32 + a.frtail.toNat
  | 3 => a.warmpc.toNat
  | 4 => a.vf.toNat * 2 ^ 8 + bitNat a.frovf * 2 ^ 7 + a.lfr.toNat
  | _ => 0

/-- A group's words (R85). -/
def Group.word0 (a : Group) : Nat :=
  bitNat (!a.members.isEmpty) * 2 ^ 63 + bitNat a.own * 2 ^ 62 + a.part * 2 ^ 52 + a.timer * 2 ^ 32 + a.members.length

/-- The value of a register (R434: reserved fields read 0). -/
def State.regValue (s : State) : MReg → Nat
  | .tile q h second =>
    let e := Tab.get (s.quad q).tiles h {}
    if second then e.word1 else e.word0
  | .bankst q => gather2 32 (fun b => (Tab.get (s.quad q).banks b {}).st)
  | .ways q =>
    gather2 16 (fun w => (s.quad q).role w) * 2 ^ 32 + gather2 16 (fun w => (Tab.get (s.quad q).ways w {}).st)
  | .phases q => (s.quad q).spWays * 2 ^ 12 + (s.quad q).swr * 2 ^ 5 + s.dph * 4 + (s.quad q).qph
  | .err0 q => (s.quad q).cecnt * 2 ^ 32 + bitNat (s.quad q).ovf * 2 ^ 8 + (s.quad q).errs.length
  | .err1 q => match (s.quad q).errs with
    | [] => 0
    | e :: _ => e.unit * 2 ^ 56 + e.cause * 2 ^ 48 + e.pa
  | .err2 q => match (s.quad q).errs with
    | [] => 0
    | e :: _ => e.task * 2 ^ 32 + e.hart
  | .err3 q => (s.quad q).inc.toNat
  | .reserve q => (s.quad q).rslot * 2 ^ 9 + (s.quad q).rgran
  | .group d g second =>
    let a := Tab.get (s.die d).groups g {}
    if second then a.openseq % 2 ^ 32 else a.word0
  | .epoch d => (s.die d).swstart.toNat * 2 ^ 32 + (s.die d).tepoch.toNat
  | .sweep d => bitNat (s.die d).swbusy * 2 ^ 63 + (s.die d).killw * 2 ^ 32 + (s.die d).swcnt.toNat
  | .swgo _ => 0
  | .queue q w => (s.queue q).word w
  | .filter k => (Tab.get s.filters (2 * k) 0).toNat + (Tab.get s.filters (2 * k + 1) 0).toNat * 2 ^ 32
  | .affinity k w => if w < 6 then (Tab.get s.affinity k 0).toNat / 2 ^ (64 * w) % 2 ^ 64 else 0
  | .caps => s.mistral.idlefl * 2 ^ 32 + s.mistral.ecap * 2 ^ 16 + s.mistral.hcap
  | .status =>
    s.mistral.pwr * 2 ^ 16 + bitNat s.mistral.fluredu * 8 + bitNat s.mistral.capclamp * 4 + bitNat s.mistral.throt * 2
      + bitNat s.mistral.sensf
  | .evpop => match s.mistral.events with
    | [] => 0
    | e :: _ => e.toNat
  | .evpush => 0
  | .partFloor p => (s.prt p).fcls * 2 ^ 45 + (s.prt p).floore * 2 ^ 16 + (s.prt p).floor
  | .partLat p => (s.prt p).lattol.toNat * 2 ^ 32
  | .partEnergy p => (s.prt p).energy.toNat
  | .quadPower q => (s.quad q).powerWord (s.quadVote q)
  | .bias k => gather2 32 (fun i => Tab.get s.bias (k * 32 + i) 0)
  | .link l =>
    let a := Tab.get s.links l {}
    bitNat a.up * 2 ^ 63 + a.inc.toNat * 2 ^ 55 + a.peerid.toNat * 2 ^ 39 + a.part * 2 ^ 35 + bitNat a.bnd * 2 ^ 34
      + a.asid.toNat * 2 ^ 18 + a.coll.toNat * 2 ^ 2

/-- What a read does besides answering: it removes the oldest record of an error log (R81) or the oldest event (R400). -/
def State.regReadEffect (s : State) : MReg → State
  | .err2 q => s.updQuad q (fun a => { a with errs := a.errs.tail })
  | .evpop => { s with mistral := { s.mistral with events := s.mistral.events.tail } }
  | _ => s

/-- A read of `n` bytes at `pa` inside one register. -/
def State.mmioRead (s : State) (pa n : Nat) : Nat × State :=
  match mmioReg pa with
  | none => (0, s)
  | some r => (s.regValue r / 2 ^ (8 * (pa % 8)) % 2 ^ (8 * n), s.regReadEffect r)

/-! ### Writing -/

/-- A field of a word. -/
def fieldOf (w : Nat) (lo n : Nat) : Nat := w / 2 ^ lo % 2 ^ n

/-- The doubleword after a write of `n` bytes at byte `b` of it. -/
def mergeBytes (old b n v : Nat) : Nat :=
  let lo := 2 ^ (8 * b)
  let hi := 2 ^ (8 * (b + n))
  old % lo + v % 2 ^ (8 * n) * lo + old / hi * hi

/-- A change of a way's role begins: it shows as waking until it is done (R47). -/
def State.beginRole (s : State) (q w r : Nat) : State :=
  s.updQuad q (fun a => { a with
    ways := Tab.set a.ways w { Tab.get a.ways w {} with next := some r, st := 2, last := s.time } })

/-- A queue with V = 1 is homed at the slice (R47). -/
def State.homesQueue (s : State) (q : Nat) : Bool :=
  s.queues.any (fun e => decide (fieldOf e.2.w0.toNat 63 1 = 1) && decide (fieldOf e.2.w0.toNat 36 9 = q))

/-- A WROLE field write (R46, R47): role 1 or 0 on ways 0 to 3; every other value is ignored for its way. -/
def State.wroleWay (s : State) (q v w : Nat) : State :=
  let a := s.quad q
  let want := v / 4 ^ w % 4
  let cur := a.role w
  if want = 1 ∧ w < 4 ∧ cur = 0 then s.beginRole q w 1
  else if want = 0 ∧ cur = 1 ∧ ¬ s.homesQueue q then s.beginRole q w 0
  else s

/-- A WROLE write of all sixteen ways. -/
def State.wroleWrite (s : State) (q v : Nat) : State := (List.range 16).foldl (fun t w => t.wroleWay q v w) s

/-- A write of SWR (R46, R47): values above 4 act as 4; each way added or released changes its role. -/
def State.swrWrite (s : State) (q v : Nat) : State :=
  let n := min v 4
  let old := (s.quad q).swr
  let t := s.updQuad q (fun a => { a with swr := n })
  (List.range 16).foldl (fun t w =>
    if w + n ≥ 16 ∧ w + old < 16 then t.beginRole q w 3
    else if w + n < 16 ∧ w + old ≥ 16 then t.beginRole q w 0
    else t) t

/-- An event for Mistral's log, which holds 16 (R400). -/
def State.logEvent (s : State) (w : Word) : State :=
  if s.mistral.events.length < 16 then { s with mistral := { s.mistral with events := s.mistral.events ++ [w] } } else s
/-- An event word of kind, quad and value at the device's µs (R400; 1,700 cycles a µs). -/
def State.eventWord (s : State) (kind q v : Nat) : Word :=
  BitVec.ofNat 64 (kind * 2 ^ 56 + q * 2 ^ 47 + v % 256 * 2 ^ 32 + s.time / 1700 % 2 ^ 32)

/-- A stamp sweep starts on a die (R107, R108): SWSTART := TEPOCH; replicas in the L1 data caches and in ON ways go, RET ways
start to wake and are swept when they have. -/
def State.startSweep (s : State) (d : Nat) : State :=
  let on (a : Quad) (w : Nat) : Bool := decide ((Tab.get a.ways w {}).st = 0)
  let sweepQ (a : Quad) : Quad := { a with
    lines := a.lines.filter (fun l => !(decide (l.2.kind = .replica) && on a l.2.way))
    ways := a.ways.map (fun w => if w.2.st = 1 then (w.1, { w.2 with st := 2, last := s.time + 48 }) else w) }
  let t := { s with
    quads := s.quads.map (fun (e : Nat × Quad) => if e.1 / 96 = d then (e.1, sweepQ e.2) else e)
    cores := s.cores.map (fun (e : Nat × Core) => if e.1 / 384 = d then (e.1, { e.2 with rep := [] }) else e) }
  t.updDie d (fun a => { a with swstart := a.tepoch, swbusy := true, swat := s.time, killw := 0 })

/-- A TLVL write by Quince (R396): a change sets THROT; Quince logs it through EVPUSH. A quad held for its temperature stays at TLVL 7
(R398). -/
def State.tlvlWrite (s : State) (q v : Nat) : State :=
  let n := if (s.quad q).hot then 7 else v
  if n = (s.quad q).tlvl then s
  else
    let t := s.updQuad q (fun a => { a with tlvl := n })
    { t with mistral := { t.mistral with throt := true } }

/-- The failed sensors of a SFAIL value. -/
def failedSensors (v : BitVec 6) : Nat := ((List.range 6).filter (fun i => v.getLsbD i)).length

/-- A quad with two or more failed sensors is held, with an event (R398). -/
def State.holdFailed (s : State) (q : Nat) : State :=
  let a := s.quad q
  if 2 ≤ failedSensors a.sfail ∧ ¬ a.hold then
    (s.updQuad q (fun b => { b with hold := true })).logEvent (s.eventWord 4 q a.sfail.toNat)
  else s

/-- An SFAIL write by Quince (R398): clearing it ends the hold, two bits or more begin one; the quad's point follows. -/
def State.sfailWrite (s : State) (q v : Nat) : State :=
  ((s.updQuad q (fun a => { a with sfail := BitVec.ofNat 6 v, hold := a.hold && decide (v % 64 ≠ 0) })).holdFailed q).repoint q

/-! ### Idle states (R399) -/

/-- A RET bank begins to wake: 32 cycles (R44). -/
def Quad.wakeBank (a : Quad) (now b : Nat) : Quad :=
  if (Tab.get a.banks b {}).st = 1 then { a with banks := Tab.set a.banks b ⟨3, now + 32, true⟩ } else a

/-- The deepest idle state that a quad may be in (R399): I3 with the whole die in I2 at least. -/
def State.idleFor (s : State) (q : Nat) : Nat :=
  let tol := match (s.quad q).part with
    | none => 0
    | some p => (s.prt p).lattol.toNat
  let deep : Bool := decide ((s.quad q).rslot = 0)
  let die := span (96 * dieOfQuad q) 96
  if deep && decide (200 ≤ tol) && decide (2 ≤ s.dph) && die.all (fun k => decide (2 ≤ (s.quad k).idle)) then 3
  else if deep && decide (20 ≤ tol) then 2
  else 1

/-- A quad leaves its idle state for the lesser `n`: above I2 its RET banks wake, and where a quad of the die was in I3 none stays
there, nor the die's GDDR-7 in self-refresh. -/
def State.raiseIdle (s : State) (q n : Nat) : State :=
  let die := dieOfQuad q
  let t := s.updQuad q (fun a => { (if n < 2 then (List.range 32).foldl (fun b k => b.wakeBank s.time k) a else a) with idle := n })
  if (s.quad q).idle < 2 ∨ ¬ (span (96 * die) 96).any (fun k => decide ((s.quad k).idle = 3)) then t
  else
    let quads := t.quads.map (fun e => if e.1 / 96 = die ∧ e.2.idle = 3 then (e.1, { e.2 with idle := 2 }) else e)
    State.updDie { t with quads := quads } die (fun d => { d with gddrDown := [] })

/-- Quads in an idle state deeper than is now permitted leave it (R399). -/
def State.limitIdle (s : State) (qs : List Nat) : State :=
  qs.foldl (fun t q => if t.idleFor q < (t.quad q).idle then t.raiseIdle q (t.idleFor q) else t) s

/-- The agents that may write a register's fields (R434), and what their write does: `v` is the doubleword after the write's
bytes, and `set` the bits the write covers. R400 names no agent for the W1C bits of Mistral's status register: the host,
whose caps they report, and Quince may clear them; R368 does not say whether S mode of PART may write the fields of a queue whose V is
0: such a write is ignored (DESIGN CHOICE, log 64). -/
def State.regWrite (s : State) (wr : Writer) (r : MReg) (v set : Nat) : State :=
  let mgmt : Bool := decide (wr = .quince) || decide (wr = .chinook)
  match r with
  | .ways q => if mgmt then s.wroleWrite q (v / 2 ^ 32) else s
  | .phases q => if mgmt && decide (fieldOf set 5 3 ≠ 0) then s.swrWrite q (fieldOf v 5 3) else s
  | .err0 q =>
    if wr = .quince then
      let t := if fieldOf set 32 32 ≠ 0 then s.updQuad q (fun a => { a with cecnt := 0 }) else s
      if fieldOf v 8 1 = 1 ∧ fieldOf set 8 1 = 1 then t.updQuad q (fun a => { a with ovf := false }) else t
    else s
  | .reserve q =>
    if wr = .chinook then
      (s.updQuad q (fun a => { a with rslot := fieldOf v 9 6, rgran := fieldOf v 0 9 })).limitIdle [q]
    else s
  | .group d g false =>
    if wr = .chinook ∧ (Tab.get (s.die d).groups g {}).members = [] then
      s.updDie d (fun a => { a with
        groups := Tab.set a.groups g { Tab.get a.groups g {} with own := fieldOf v 62 1 == 1, part := fieldOf v 52 4 } })
    else s
  | .swgo d =>
    if wr = .quince ∧ v % 2 = 1 ∧ set % 2 = 1 ∧ ¬ (s.die d).swbusy then s.startSweep d else s
  | .queue q w =>
    let a := s.queue q
    let owner : Bool := decide (wr = .hartS (fieldOf a.w0.toNat 55 4)) && decide (fieldOf a.w0.toNat 63 1 = 1)
    match w with
    | 0 => if wr = .chinook then s.updQueue q (fun a => { a with w0 := BitVec.ofNat 64 v }) else s
    | 1 => if owner then s.updQueue q (fun a => { a with frbase := BitVec.ofNat 64 (v / 64 * 64) }) else s
    | 2 => if owner then s.updQueue q (fun a => { a with frtail := BitVec.ofNat 32 v }) else s
    | 4 =>
      let t := if wr = .chinook then s.updQueue q (fun a => { a with vf := BitVec.ofNat 8 (v / 2 ^ 8) }) else s
      if owner then
        t.updQueue q (fun a => { a with
          lfr := BitVec.ofNat 4 v
          frovf := a.frovf && !(decide (fieldOf v 7 1 = 1) && decide (fieldOf set 7 1 = 1)) })
      else t
    | _ => s
  | .filter k =>
    if wr = .chinook then
      let put (t : State) (i w : Nat) : State :=
        { t with
          filters := Tab.set t.filters i (BitVec.ofNat 32 (fieldOf w 31 1 * 2 ^ 31 + fieldOf w 0 24))
          buckets := Tab.set t.buckets i (fieldOf w 16 8 * 65536, s.time) }
      let t := if set % 2 ^ 32 ≠ 0 then put s (2 * k) (v % 2 ^ 32) else s
      if set / 2 ^ 32 ≠ 0 then put t (2 * k + 1) (v / 2 ^ 32) else t
    else s
  | .affinity k w =>
    if wr = .chinook ∧ w < 6 then
      let old := (Tab.get s.affinity k 0).toNat
      let m := old % 2 ^ (64 * w) + v * 2 ^ (64 * w) + old / 2 ^ (64 * (w + 1)) * 2 ^ (64 * (w + 1))
      { s with affinity := Tab.set s.affinity k (BitVec.ofNat 384 m) }
    else s
  | .caps =>
    if wr = .host then { s with mistral := { s.mistral with hcap := fieldOf v 0 16 } } else s
  | .status =>
    if wr = .host ∨ wr = .quince then
      let c := v &&& set
      { s with mistral := { s.mistral with
        fluredu := s.mistral.fluredu && decide (fieldOf c 3 1 = 0)
        capclamp := s.mistral.capclamp && decide (fieldOf c 2 1 = 0)
        throt := s.mistral.throt && decide (fieldOf c 1 1 = 0)
        sensf := s.mistral.sensf && decide (fieldOf c 0 1 = 0) } }
    else s
  | .evpush => if wr = .quince then s.logEvent (BitVec.ofNat 64 v) else s
  | .partFloor p =>
    if wr = .host then s.updPart p (fun a => { a with fcls := fieldOf v 45 3, floor := fieldOf v 0 16 }) else s
  | .partLat p =>
    if wr = .host then
      (s.updPart p (fun a => { a with lattol := BitVec.ofNat 32 (v / 2 ^ 32) })).limitIdle
        ((s.quads.filter (fun e => e.2.part == some p)).map (·.1))
    else s
  | .quadPower q =>
    if wr = .quince then (s.sfailWrite q (fieldOf v 50 6)).tlvlWrite q (fieldOf v 47 3) else s
  | .bias k =>
    if wr = .quince then
      { s with bias := (List.range 32).foldl (fun t i => Tab.set t (k * 32 + i) (v / 4 ^ i % 4)) s.bias }
    else s
  | .link l =>
    if wr = .chinook then
      { s with links := Tab.set s.links l { Tab.get s.links l {} with
        part := fieldOf v 35 4, bnd := fieldOf v 34 1 == 1, asid := BitVec.ofNat 16 (v / 2 ^ 18)
        coll := BitVec.ofNat 16 (v / 2 ^ 2) } }
    else s
  | .tile _ _ _ => s
  | .bankst _ => s
  | .err1 _ => s
  | .err2 _ => s
  | .err3 _ => s
  | .group _ _ true => s
  | .epoch _ => s
  | .sweep _ => s
  | .evpop => s
  | .partEnergy _ => s

/-- A write of `n` bytes at `pa` inside one register. -/
def State.mmioWrite (s : State) (wr : Writer) (pa n v : Nat) : State :=
  match mmioReg pa with
  | none => s
  | some r =>
    s.regWrite wr r (mergeBytes (s.regValue r) (pa % 8) n v) (mergeBytes 0 (pa % 8) n (2 ^ (8 * n) - 1))

/-- A write of the nibble `nib` of the byte at `pa` inside one register (R276). -/
def State.mmioNibble (s : State) (wr : Writer) (pa nib v : Nat) : State :=
  match mmioReg pa with
  | none => s
  | some r =>
    let k := 8 * (pa % 8) + 4 * nib
    let old := s.regValue r
    s.regWrite wr r (old % 2 ^ k + v % 16 * 2 ^ k + old / 2 ^ (k + 4) * 2 ^ (k + 4)) (15 * 2 ^ k)

end Sys2Proof.Machine
end

