-- ==== Sys2Proof/Machine/Slices.lean ====
section
/-!
DEFINITION. Placement of lines (R24 to R26, R60), and the caches (R58 to R83): which lines the L1 caches and slices hold, their
directories and filters, errors, write-backs, victims and the service of a request. Log 5 and log 49: values stand in memory
alone; these operations move lines, wake ways and report errors.
-/
namespace Sys2Proof.Machine

/-! ### Placement (R24, R26, R60) -/

/-- GDDR-7 addresses. -/
def isGddr (pa : Nat) : Bool := decide (pa < 2 ^ 39)
/-- The host window. -/
def isHost (pa : Nat) : Bool := decide (0x100000000000 ≤ pa) && decide (pa < 0x200000000000)
/-- The MMIO window. -/
def isMmio (pa : Nat) : Bool := decide (0xF00000000000 ≤ pa) && decide (pa < 2 ^ 48)
/-- The firmware region (R25). -/
def isFirmware (pa : Nat) : Bool := isGddr pa && decide (510 ≤ pa / 2 ^ 30)

/-- Bits [hi:lo] of an address. -/
def bitsOf (a hi lo : Nat) : Nat := a / 2 ^ lo % 2 ^ (hi + 1 - lo)

/-- The GDDR-7 interface of an address (R26); `cls` is the region's entry of the region map: 0 uniform, 1 + d for die d. -/
def interfaceOf (cls pa : Nat) : Nat :=
  if cls = 0 then bitsOf pa 14 9 ^^^ bitsOf pa 20 15 ^^^ bitsOf pa 26 21
  else 16 * (cls - 1) +
    (bitsOf pa 12 9 ^^^ bitsOf pa 16 13 ^^^ bitsOf pa 20 17 ^^^ bitsOf pa 24 21 ^^^ bitsOf pa 28 25)

/-- The slice number within a die (R60). -/
def sliceIndex (pa : Nat) : Nat := (bitsOf pa 18 9 ^^^ bitsOf pa 28 19 ^^^ bitsOf pa 38 29) % 96

/-- The home die of an address's 512-byte region (R60). -/
def State.homeDie (s : State) (pa : Nat) : Nat :=
  if isHost pa then bitsOf pa 10 9 ^^^ bitsOf pa 12 11
  else interfaceOf (Tab.get s.regions (pa / 2 ^ 30) 0) (pa / 512 * 512) / 16

/-- The quad whose slice is home (R60). -/
def State.homeQuad (s : State) (pa : Nat) : Nat := s.homeDie pa * 96 + sliceIndex pa
/-- The proxy slice of an address on a die (R61). -/
def proxyQuad (d pa : Nat) : Nat := d * 96 + sliceIndex pa

/-- The line of an address. -/
def lineOf (pa : Nat) : Nat := pa / 64
/-- The page of an address. -/
def pageOf (pa : Nat) : Nat := pa / 4096

/-! ### Keys (R25, R402, R410) -/

/-- The key of an id, of its present generation; key 0 names none, as no partition has it. -/
def State.keyWord (s : State) (k : Nat) : Nat := if k = 0 then 0 else k + 64 * Tab.get s.sec.keyGen k 0

/-- Memory as an access under key `k` reads it: a byte written under another key gives a free value. A byte that was written under
none reads the same under every key (log 3). -/
def State.memUnder (s : State) (k : Nat) : Memory :=
  s.keyed.foldr (fun e m => m.write e.1
    (if e.2 = s.keyWord k then s.mem.read e.1 else Config.decrypt e.2 (s.keyWord k) e.1 (s.mem.read e.1))) s.mem

/-- `n` bytes at `pa` have been written under key `k`. -/
def State.seal (s : State) (k pa n : Nat) : State :=
  if k = 0 ∧ s.keyed = [] then s
  else { s with
    keyed := (span pa n).foldl (fun t a => if k = 0 then Tab.erase t a else Tab.set t a (s.keyWord k)) s.keyed }

/-- The key that an access uses under an entry: key ids are ignored in the host window (R25). -/
def TlbEntry.keyAt (e : TlbEntry) (pa : Nat) : Nat := if isGddr pa then e.key else 0

/-! ### Errors of cached copies (R78, R81) -/

/-- The number of an error in the cached copy of a line: it goes with a clean copy (R78). -/
def copySite (line : Nat) : Nat := 2 ^ 56 + line
/-- The number of an error in the copy of a line in a core's L1 instruction cache. -/
def codeSite (c line : Nat) : Nat := 2 ^ 57 + c * 2 ^ 43 + line
/-- The number of an error in a region's directory entry. -/
def dirSite (region : Nat) : Nat := 2 ^ 59 + region
/-- The number of an error in the filter entries of a line. -/
def filterSite (line : Nat) : Nat := 2 ^ 59 + 2 ^ 58 + line

/-- Some cache holds a copy of a line: a slice, or its write-back in reserve, a core's L1 data cache. -/
def State.copyHeld (s : State) (line : Nat) : Bool :=
  s.quads.any (fun q => q.2.lines.any (fun l => l.1 == line) || q.2.reserve.contains line) ||
  s.cores.any (fun c => c.2.l1d.any (fun l => l.1 == line) || c.2.rep.any (fun l => l.1 == line))

/-- A line whose read reports an uncorrectable error (R78, R80): in memory, in the failed-line list, in its cached copy, or in the
entry of a directory or filter that a request for it reads. -/
def State.badLine (s : State) (line : Nat) : Bool :=
  s.failed.contains line ||
  (!s.poison.isEmpty && ([line, dirSite (line / 8), filterSite line].any (fun n => s.poison.contains n) ||
    (s.poison.contains (copySite line) && s.copyHeld line)))
/-- Some line of a range is bad. -/
def State.badRange (s : State) (pa n : Nat) : Bool :=
  (List.range ((pa + n + 63) / 64 - pa / 64)).any (fun k => s.badLine (pa / 64 + k))

/-- An error at a site is gone. -/
def State.clearSite (s : State) (n : Nat) : State := if s.poison.contains n then { s with poison := s.poison.erase n } else s

/-! ### Errors of lines and table entries (R30, R78 to R81) -/

/-- The number under which an error of the line of a page's sharing entry stands in `State.poison` (R22: 16 entries a line). -/
def shareSite (page : Nat) : Nat := 2 ^ 60 + page / 16
/-- The number of an error of the line of a page's freeze entry (R23: 8 entries a line). -/
def freezeSite (page : Nat) : Nat := 2 ^ 61 + page / 8

/-- The unit in which a consumer finds a line's error (R81): the filter, the directory, the L1 data cache of its core, the slice, or
GDDR-7. -/
def State.unitOf (s : State) (core : Option Nat) (pa : Nat) : Nat :=
  let line := lineOf pa
  let inL1 := match core with
    | some c => (s.core c).l1d.any (fun l => l.1 == line)
    | none => false
  if s.poison.contains (filterSite line) then 4
  else if s.poison.contains (dirSite (line / 8)) then 3
  else if inL1 then 0
  else if (s.quad (s.homeQuad pa)).lines.any (fun l => l.1 == line) then 2 else 7

/-- An uncorrectable error reported to an engine that works for a task is logged in its quad (R81). -/
def State.logEngine (s : State) (q task unit cause pa : Nat) : State :=
  s.logError q ⟨unit, cause, pa / 64 * 64 % 2 ^ 48, task, 0x3FFF⟩

/-! ### Failed lines (R80, R83) -/

/-- Lines of an address's controller in the failed-line list. -/
def State.failedAt (s : State) (pa : Nat) : Nat :=
  let i := interfaceOf (Tab.get s.regions (pa / 2 ^ 30) 0) pa
  (s.failed.filter (fun l => interfaceOf (Tab.get s.regions (64 * l / 2 ^ 30) 0) (64 * l) == i)).length

/-- A line is entered in its controller's failed-line list, which holds 1,024; for a line that a full list cannot take, the
owner is stopped at the end of the step (R80). -/
def State.failLine (s : State) (line : Nat) : State :=
  if s.failed.contains line then s
  else if s.failedAt (64 * line) < 1024 then { s with failed := s.failed ++ [line] }
  else { s with doomed := s.doomed ++ [line] }

/-- A dirty line with an uncorrectable error, its own or its copy's (R80). -/
def State.badCopy (s : State) (line : Nat) : Bool := s.poison.contains line || s.poison.contains (copySite line)
/-- A line written back with an uncorrectable error is entered (R80). -/
def State.writtenBack (s : State) (line : Nat) : State :=
  if s.badCopy line then State.failLine { s with poison := (s.poison.erase line).erase (copySite line) } line else s

/-- A lost line: the failed-line list, and the loss table of its home slice, which holds 64 (R83). -/
def State.loseLine (s : State) (line : Nat) : State :=
  let q := s.homeQuad (64 * line)
  let t := s.failLine line
  if (t.quad q).loss.length < 64 then t.updQuad q (fun a => { a with loss := a.loss ++ [line] })
  else { t with doomed := t.doomed ++ [line] }

/-! ### Interfaces and ways (R45, R50) -/

/-- An access to a GDDR-7 interface: it is awake and its idle time starts again (R50). -/
def State.useGddr (s : State) (pa : Nat) : State :=
  if isGddr pa then
    let i := interfaceOf (Tab.get s.regions (pa / 2 ^ 30) 0) (pa / 512 * 512)
    s.updDie (i / 16) (fun a => { a with gddrDown := a.gddrDown.erase i, gddrLast := Tab.set a.gddrLast i s.time })
  else s

/-- A RET way begins to wake: 48 cycles (R45). -/
def Quad.wakeWay (a : Quad) (now w : Nat) : Quad :=
  if (Tab.get a.ways w {}).st = 1 then
    { a with ways := Tab.set a.ways w { Tab.get a.ways w {} with st := 2, last := now + 48 } }
  else a

/-- A line that a slice holds. -/
def Quad.line (a : Quad) (line : Nat) : Option SliceLine := (a.lines.find? (fun l => l.1 == line)).map (·.2)

/-- A hit: a RET way wakes, an ON way's idle time starts again (R45), the line is the best retained of its set. -/
def Quad.hit (a : Quad) (now line : Nat) (l : SliceLine) : Quad :=
  let b := a.wakeWay now l.way
  let c := if (Tab.get b.ways l.way {}).st = 0 then
      { b with ways := Tab.set b.ways l.way { Tab.get b.ways l.way {} with last := now } }
    else b
  { c with lines := Tab.set c.lines line { l with kept := if l.kept = 0 then 0 else now + 1 } }

/-- A slice is used for a line: whatever kind of line it is, its way is touched (R45). -/
def State.useLine (s : State) (q line : Nat) : State :=
  match (s.quad q).line line with
  | none => s
  | some l => s.updQuad q (fun a => a.hit s.time line l)

/-- A way that takes new lines: ON, in the cache role, not changing (R45, R46). R54 does not say whether a clean new line may be placed
in an ON way of the swap reserve: none is (DESIGN CHOICE, log 49). -/
def Quad.takesLines (a : Quad) (w : Nat) : Bool :=
  decide (w < 16) && decide (a.role w = 0) && decide ((Tab.get a.ways w {}).st = 0) && (Tab.get a.ways w {}).next.isNone

/-- The line of a slice's set in a way. -/
def Quad.lineIn (a : Quad) (set w : Nat) : Option (Nat × SliceLine) :=
  a.lines.find? (fun l => decide (l.1 % 1024 = set) && decide (l.2.way = w))

/-- The mesh neighbours of a quad on its die in the order of R73; R2 gives rows no compass sense: north is the lower row
(DESIGN CHOICE, log 64). -/
def neighbours (q : Nat) : List Nat :=
  (if 0 < rowOf q then [q - 12] else []) ++ (if colOf q < 11 then [q + 1] else []) ++
  (if rowOf q < 7 then [q + 12] else []) ++ (if 0 < colOf q then [q - 1] else [])

/-- The way in which a neighbour takes a victim of a set (R73): an invalid line or a clean one that is no replica. -/
def Quad.victimWay (a : Quad) (set : Nat) : Option Nat :=
  (List.range 16).find? (fun w => a.takesLines w && (match a.lineIn set w with
    | none => true
    | some l => !l.2.dirty && decide (l.2.kind ≠ .replica)))

/-- A line in a way of a slice, in place of what the way held of its set. -/
def Quad.putLine (a : Quad) (line : Nat) (l : SliceLine) : Quad :=
  { a with lines := Tab.set (a.lines.filter (fun x =>
      !(decide (x.1 % 1024 = line % 1024) && decide (x.2.way = l.way)))) line l }

/-! ### Directory entries (R69, R82) -/

/-- A directory entry names an agent with an incarnation. -/
def DirEntry.named (d : DirEntry) (agent inc : Nat) : DirEntry := { d with incs := Tab.set d.incs agent inc }

/-- A quad enters a region's directory entry as a sharer, with its incarnation (R69, R82): a fifth quad makes the form coarse. -/
def DirEntry.share (d : DirEntry) (q inc : Nat) : DirEntry :=
  let local_ := q % 96
  let n := if d.coarse then local_ / 4 else local_
  if d.sharers.contains n then d.named q inc
  else if !d.coarse && decide (d.sharers.length = 4) then
    { d with coarse := true, sharers := (local_ / 4 :: d.sharers.map (· / 4)).eraseDups }.named q inc
  else { d with sharers := d.sharers ++ [n] }.named q inc

/-- An agent that the entry names has the incarnation with which it was entered (R82); in coarse form a quad of a named group
that was not entered itself counts. -/
def State.sameInc (s : State) (d : DirEntry) (q : Nat) : Bool :=
  match d.incs.find? (fun i => i.1 == q) with
  | none => d.coarse
  | some i => i.2 == (s.quad q).inc.toNat

/-- The quads that a directory entry of a die names, of the incarnation it was entered with. -/
def State.sharersOf (s : State) (d : Nat) (e : DirEntry) : List Nat :=
  let qs := if e.coarse then e.sharers.flatMap (fun g => span (96 * d + 4 * g) 4) else e.sharers.map (fun n => 96 * d + n)
  qs.filter (s.sameInc e)

/-- The other dies that an entry names, their slices being of the incarnation they were entered with. -/
def State.remotesOf (s : State) (e : DirEntry) (pa : Nat) : List Nat :=
  e.remote.filter (fun d => s.sameInc { e with coarse := false } (proxyQuad d pa))

/-! ### Lines that leave a slice (R73, R78, R80) -/

/-- A slice holds a line no longer. -/
def State.dropLine (s : State) (q line : Nat) : State := s.updQuad q (fun a => { a with lines := Tab.erase a.lines line })

/-- A clean copy of a line has gone: an error of the copies is gone when no copy is left, and reports nothing (R78). -/
def State.forget (s : State) (line : Nat) : State :=
  if !s.poison.contains (copySite line) || s.copyHeld line then s else s.clearSite (copySite line)

/-- A slice drops a clean line. -/
def State.dropClean (s : State) (q line : Nat) : State := (s.dropLine q line).forget line

/-- Memory takes a line's dirty data (R76, R80). -/
def State.memoryTakes (s : State) (line : Nat) : State := (s.useGddr (64 * line)).writtenBack line

/-- A dirty line goes from a slice to memory (R73, R80); the home directory names the slice of the region's last displaced victim no
longer. -/
def State.toMemory (s : State) (q line : Nat) : State :=
  let home := s.homeQuad (64 * line)
  let u := (s.dropLine q line).memoryTakes line
  let d := Tab.get (u.quad home).dir (line / 8) {}
  if d.owner = some (.slice q) ∧ ¬ (u.quad q).lines.any (fun l => decide (l.1 / 8 = line / 8) && decide (l.2.kind = .victim)) then
    u.updQuad home (fun a => { a with dir := Tab.set a.dir (line / 8) { d with owned := false, owner := none } })
  else u

/-- The slice other than the home slice that holds the line as a displaced victim (R73). -/
def State.victimAt (s : State) (line : Nat) : Option Nat :=
  match (Tab.get (s.quad (s.homeQuad (64 * line))).dir (line / 8) {}).owner with
  | some (.slice n) => if (s.quad n).lines.any (fun l => l.1 == line && decide (l.2.kind = .victim)) then some n else none
  | _ => none

/-- What takes a dirty line that comes back to its home slice. -/
abbrev WriteBack := State → Nat → State

/-- A dirty line comes back without displacing another: the slice that holds the line takes it, else memory does (log 49). -/
def State.settleDirty : WriteBack := fun s line =>
  match s.victimAt line with
  | some n => s.useLine n line
  | none =>
    let q := s.homeQuad (64 * line)
    match (s.quad q).line line with
    | none => s.memoryTakes line
    | some l =>
      if s.badCopy line ∨ (s.quad q).role l.way = 3 then (s.dropLine q line).memoryTakes line
      else (s.useLine q line).updQuad q (fun a => match a.line line with
        | none => a
        | some k => { a with lines := Tab.set a.lines line { k with dirty := true } })

/-! ### L1 data caches and filters: 8 ways of 128 sets, 8 ways of 512 sets (R58, R71) -/

/-- The line leaves a core's L1 data cache, written back where it is dirty. -/
def State.dropL1By (wb : WriteBack) (s : State) (c line : Nat) : State :=
  match (s.core c).l1d.find? (fun l => l.1 == line) with
  | none => s
  | some l =>
    let t := s.updCore c (fun a => { a with l1d := Tab.erase a.l1d line })
    if l.2 then wb t line else t.forget line

/-- The cores of a quad that its filter names for a line lose it, but core `keep`, and with `dirty` those alone that hold it dirty
(R71). -/
def State.probeCoresBy (wb : WriteBack) (s : State) (q line : Nat) (keep : Option Nat) (dirty : Bool) : State :=
  let cs := Tab.get (s.quad q).filter line []
  let go (c : Nat) : Bool := decide (keep ≠ some (4 * q + c)) && (!dirty || Tab.get (s.core (4 * q + c)).l1d line false)
  let t := (cs.filter go).foldl (fun t c => t.dropL1By wb (4 * q + c) line) s
  let left := cs.filter (fun c => !go c)
  if left = [] then (t.updQuad q (fun a => { a with filter := Tab.erase a.filter line })).clearSite (filterSite line)
  else t.updQuad q (fun a => { a with filter := Tab.set a.filter line left })

/-! ### Probes and evictions of the directory (R69 to R73) -/

/-- The quads of die `d` that its proxy slice tracks for the region of a line (R70). -/
def State.proxySharers (s : State) (d line : Nat) : List Nat :=
  s.sharersOf d (Tab.get (s.quad (proxyQuad d (64 * line))).dir (line / 8) {})

/-- A line leaves a die's proxy slice, and the L1 caches of the quads that slice tracks (R70); dirty data return home. -/
def State.probeDieBy (wb : WriteBack) (s : State) (d line : Nat) : State :=
  let x := proxyQuad d (64 * line)
  let t := (s.proxySharers d line).foldl (fun t q => t.probeCoresBy wb q line none false) s
  match (t.quad x).line line with
  | none => t
  | some l => if l.kind ≠ .proxy then t else if l.dirty then wb (t.dropLine x line) line else t.dropClean x line

/-- The slice that holds a displaced victim gives it back (R73). -/
def State.recallVictimBy (wb : WriteBack) (s : State) (n line : Nat) : State :=
  match (s.quad n).line line with
  | none => s
  | some l => if l.kind = .victim then wb (s.dropLine n line) line else s

/-- Every tracked copy of a region goes, dirty data to the home slice, and its directory entries (R72). Replicas stay. -/
def State.evictRegionBy (wb : WriteBack) (s : State) (q region : Nat) : State :=
  let e := Tab.get (s.quad q).dir region {}
  let ls := span (8 * region) 8
  let t := (s.sharersOf (dieOfQuad q) e).foldl (fun t k => ls.foldl (fun t l => t.probeCoresBy wb k l none false) t) s
  let u := (s.remotesOf e (512 * region)).foldl (fun u d =>
    (ls.foldl (fun u l => u.probeDieBy wb d l) u).updQuad (proxyQuad d (512 * region)) (fun a => { a with dir := Tab.erase a.dir region })) t
  let v : State := match e.owner with
    | some (.slice n) =>
      ls.foldl (fun v l => v.recallVictimBy wb n l)
        (u.updQuad q (fun a => { a with dir := Tab.set a.dir region { e with owned := false, owner := none } }))
    | _ => u
  (v.updQuad q (fun a => { a with dir := Tab.erase a.dir region })).clearSite (dirSite region)

/-- A region's entry of a slice changed: 8,192 entries in 16 ways of 512 sets; a full set first evicts an entry (R69, R72). -/
def State.updDirBy (wb : WriteBack) (s : State) (q region : Nat) (f : DirEntry → DirEntry) : State :=
  let d := (s.quad q).dir
  let mates := d.filter (fun e => decide (e.1 % 512 = region % 512))
  let t := if d.any (fun e => e.1 == region) || decide (mates.length < 16) then s else match mates with
    | m :: _ => s.evictRegionBy wb q m.1
    | [] => s
  t.updQuad q (fun a => { a with dir := Tab.set a.dir region (f (Tab.get a.dir region {})) })

/-- The cores of a quad clean their dirty lines of a region; memory takes them. -/
def State.cleanRegion (s : State) (q region : Nat) : State :=
  (span (4 * q) 4).foldl (fun t c =>
    let ls := (t.core c).l1d.filter (fun l => l.2 && decide (l.1 / 8 = region))
    (ls.foldl (fun u l => u.memoryTakes l.1) t).updCore c (fun a => { a with
      l1d := a.l1d.map (fun l => if l.1 / 8 = region then (l.1, false) else l) })) s

/-- A slice's lines of a region that a test picks go to memory. -/
def State.flushRegion (s : State) (q region : Nat) (f : SliceLine → Bool) : State :=
  ((s.quad q).lines.filter (fun l => decide (l.1 / 8 = region) && f l.2)).foldl (fun t l => t.toMemory q l.1) s

/-- The owner field of a region's entry is to name `o` (R69): it can name one, so a former owner's dirty lines of the region go to
memory first, its clean ones stay (log 49). -/
def State.releaseOwner (s : State) (at_ region : Nat) (o : DirOwner) : State :=
  let e := Tab.get (s.quad at_).dir region {}
  if e.owner = some o then s
  else match e.owner with
    | none => s
    | some (.quad q) => s.cleanRegion q region
    | some (.die d) =>
      let x := proxyQuad d (512 * region)
      let t := (s.proxySharers d (8 * region)).foldl (fun t q => t.cleanRegion q region) s
      let u := t.flushRegion x region (fun l => decide (l.kind = .proxy) && l.dirty)
      u.updQuad x (fun a => if a.dir.any (fun k => k.1 == region) then
        { a with dir := Tab.set a.dir region { Tab.get a.dir region {} with owned := false, owner := none } } else a)
    | some (.slice n) => s.flushRegion n region (fun l => decide (l.kind = .victim))

/-! ### Victims and fills (R27, R45, R54, R58, R61, R73, R101) -/

/-- A slice evicts a dirty line (R73): the first neighbour that accepts takes it, else it goes to memory, as a displaced victim
does. -/
def State.evictDirty (s : State) (q line : Nat) : State :=
  match (s.quad q).line line with
  | none => s
  | some l =>
    let home := s.homeQuad (64 * line)
    let dest := if l.kind = .victim then none
      else (neighbours q).find? (fun n => ((s.quad n).victimWay (line % 1024)).isSome)
    match dest with
    | none => s.toMemory q line
    | some n =>
      let u := ((s.dropLine q line).releaseOwner home (line / 8) (.slice n)).updDirBy State.settleDirty home (line / 8) id
      match (u.quad n).victimWay (line % 1024) with
      | none => u.memoryTakes line
      | some w =>
        let v := match (u.quad n).lineIn (line % 1024) w with
          | some x => u.dropClean n x.1
          | none => u
        let name (d : DirEntry) : DirEntry := { d with owned := true, owner := some (.slice n) }.named n (v.quad n).inc.toNat
        (v.updQuad n (fun a => a.putLine line ⟨.victim, true, w, 0, s.time + 1⟩)).updQuad home (fun a => { a with
          dir := Tab.set a.dir (line / 8) (name (Tab.get a.dir (line / 8) {})) })

/-- A slice's copy serves an access: a replica only one with its stamp, and none in a killed way (R101, R108). -/
def Quad.serves (a : Quad) (line : Nat) (stamp : Option Nat) : Bool :=
  match a.line line with
  | none => false
  | some l =>
    if l.kind = .replica then decide (stamp = some l.stamp) && !(Tab.get a.ways l.way {}).kill else true

/-- The way a new line of a set takes (R45): a way without a line of the set, else that of the clean line retained least, else
of the dirty line retained least. Which line of a set leaves is the model's choice (log 49). -/
def Quad.fillWay (a : Quad) (set : Nat) : Option Nat :=
  let ws := (List.range 16).filter a.takesLines
  match ws.find? (fun w => (a.lineIn set w).isNone) with
  | some w => some w
  | none =>
    let key (w : Nat) : Nat := match a.lineIn set w with
      | none => 0
      | some l => l.2.kept + (if l.2.dirty then 2 ^ 64 else 0)
    leastCost key ws

/-- A slice takes a line that it does not hold; a dirty line in its place is evicted first (R73). R45 does not say what a miss does
where no way of the set is ON in the cache role: the line is not kept, a dirty one goes to memory, and no way wakes (DESIGN CHOICE,
log 49). -/
def State.fillSlice (s : State) (q line : Nat) (kind : LineKind) (dirty : Bool) (stamp : Nat) (least : Bool) : State :=
  let s := if ((s.quad q).line line).isSome then s.dropLine q line else s
  let s := s.forget line
  match (s.quad q).fillWay (line % 1024) with
  | none => if dirty then s.memoryTakes line else s
  | some w =>
    let t := match (s.quad q).lineIn (line % 1024) w with
      | some l => if l.2.dirty then s.evictDirty q l.1 else s.dropClean q l.1
      | none => s
    t.updQuad q (fun a => a.putLine line ⟨kind, dirty, w, stamp, if least then 0 else t.time + 1⟩)

/-- A slice's copy of a line is written (R45, R54): its way is used, and a copy in a reserve way moves to an ON way of the cache
role. A slice without a copy takes the line. -/
def State.dirtyLine (s : State) (q line : Nat) (kind : LineKind) : State :=
  match (s.quad q).line line with
  | none => s.fillSlice q line kind true 0 false
  | some l =>
    if (s.quad q).role l.way = 3 then (s.dropLine q line).fillSlice q line kind true 0 false
    else (s.useLine q line).updQuad q (fun a => match a.line line with
      | none => a
      | some k => { a with lines := Tab.set a.lines line { k with kind := if k.kind = .victim then .victim else kind, dirty := true } })

/-! ### Write-backs (R54, R73, R75, R76, R80) -/

/-- Lines that hold a miss entry of a slice (R75): those of its table, and those that a scalar load still waits for and the slice
does not hold. -/
def State.missEntries (s : State) (q : Nat) : List Nat :=
  ((s.quad q).misses ++ s.harts.flatMap (fun h => h.2.late.filterMap (fun l => match l.fill with
    | none => none
    | some f =>
      if s.homeQuad f.1 = q ∧ ¬ (s.quad q).serves (lineOf f.1) (if f.2.frozen then some f.2.stamp else none) then some (lineOf f.1)
      else none))).eraseDups

/-- A home slice takes a dirty line (R76): with a free miss entry the slice's copy is written; else one of the 16 entries of the
reserve holds it, or memory takes it. A line with an uncorrectable error goes to memory and the failed-line list (R80); a displaced
victim is written where it lies (R73). -/
def State.writeHome : WriteBack := fun s line =>
  match s.victimAt line with
  | some n => s.useLine n line
  | none =>
    let q := s.homeQuad (64 * line)
    if s.badCopy line then (s.dropLine q line).memoryTakes line
    else if (s.missEntries q).length < 256 then s.dirtyLine q line .home
    else
      let t := s.dropLine q line
      if (t.quad q).reserve.contains line then t
      else if (t.quad q).reserve.length < 16 then t.updQuad q (fun a => { a with reserve := a.reserve ++ [line] })
      else t.memoryTakes line

/-- A slice writes a line back, where it is dirty, and holds it no longer: a proxy's data go to the home slice, all others to memory
(R47, R53). -/
def State.writeOut (s : State) (q line : Nat) : State :=
  match (s.quad q).line line with
  | none => s
  | some l =>
    if !l.dirty then s.dropClean q line
    else if l.kind = .proxy then (s.dropLine q line).writeHome line
    else s.toMemory q line

/-- The line leaves a core's L1 data cache. -/
def State.dropL1 (s : State) (c line : Nat) : State := s.dropL1By State.writeHome c line
/-- Every core of a quad loses a line (R71). -/
def State.probeQuad (s : State) (q line : Nat) : State := s.probeCoresBy State.writeHome q line none false
/-- A line leaves a die's proxy slice and L1 caches (R70). -/
def State.probeDie (s : State) (d line : Nat) : State := s.probeDieBy State.writeHome d line
/-- A displaced victim returns to its home slice (R73). -/
def State.recallVictim (s : State) (n line : Nat) : State := s.recallVictimBy State.writeHome n line
/-- Every tracked copy of a region goes (R72). -/
def State.evictRegion (s : State) (q region : Nat) : State := s.evictRegionBy State.writeHome q region
/-- A region's entry of a slice changed (R69). -/
def State.updDir (s : State) (q region : Nat) (f : DirEntry → DirEntry) : State := s.updDirBy State.writeHome q region f

/-- A line, or a replica's, enters a core's L1 data cache: with eight lines in its set, replicas leave first, then the lowest
line (log 49). -/
def State.roomL1 (s : State) (c line : Nat) : State :=
  let a := s.core c
  let mates : List (Nat × Bool) := a.l1d.filter (fun l => decide (l.1 % 128 = line % 128) && l.1 != line)
  let reps : List (Nat × Nat) := a.rep.filter (fun l => decide (l.1 % 128 = line % 128) && l.1 != line)
  if mates.length + reps.length < 8 then s
  else match reps with
    | r :: _ => s.updCore c (fun a => { a with rep := Tab.erase a.rep r.1 })
    | [] => match mates with
      | m :: _ => s.dropL1 c m.1
      | [] => s

/-- The filter of a quad records a core for a line; an entry in its way is evicted, its line invalidated in every core that holds
it (FILTER_EVICT, R71). -/
def State.noteFilter (s : State) (q line core : Nat) : State :=
  let mates := (s.quad q).filter.filter (fun l => decide (l.1 % 512 = line % 512) && l.1 != line)
  let t := if mates.length < 8 then s else match mates with
    | m :: _ => s.probeQuad q m.1
    | [] => s
  t.updQuad q (fun a => { a with filter := Tab.set a.filter line ((core % 4 :: Tab.get a.filter line []).eraseDups) })

/-! ### Requests (R27, R60, R69 to R76, R101) -/

/-- Who asks: a quad, and its core for a scalar access (R58: every other agent bypasses the L1 caches). -/
structure Client where
  quad : Nat
  core : Option Nat
deriving DecidableEq, Repr

/-- The copies elsewhere that a request at the home slice meets (R69, R70, R74): a dirty copy of another core is recalled, and an
exclusive request takes every copy but the asking core's. The region's entry names the quads; their filters name the cores. -/
def State.settleCopies (s : State) (cl : Client) (line : Nat) (excl : Bool) : State :=
  let pa := 64 * line
  let home := s.homeQuad pa
  let e := Tab.get (s.quad home).dir (line / 8) {}
  let d := dieOfQuad home
  let r := dieOfQuad cl.quad
  let far := Tab.get (s.quad (proxyQuad r pa)).dir (line / 8) {}
  let ask (t : State) (q : Nat) : State := t.probeCoresBy State.writeHome q line cl.core (!excl)
  let back (t : State) (o : Option DirOwner) : State := match o with
    | some (.quad q) => if s.sameInc e q || s.sameInc far q then ask t q else t
    | some (.die k) => if k = r ∧ (cl.core.isSome ∨ ¬ excl) then t else t.probeDie k line
    | _ => t
  let t := back s e.owner
  let t := if e.owner = some (.die r) ∧ r ≠ d then back t far.owner else t
  if !excl then t
  else
    let u := (s.sharersOf d e).foldl ask t
    let v := if r = d then u else (s.sharersOf r far).foldl ask u
    ((s.remotesOf e pa).filter (fun k => k != r || cl.core.isNone)).foldl (fun u k => u.probeDie k line) v

/-- The directory after a request of a core (R69, R70): the core's quad shares the region, in the home entry or, on another die,
in the proxy's, whose die the home entry names; an exclusive request makes it the owner. Quads that hold other lines of the region
stay named. -/
def State.noteSharer (s : State) (q pa : Nat) (excl : Bool) : State :=
  let home := s.homeQuad pa
  let inc := (s.quad q).inc.toNat
  let note (t : State) (at_ : Nat) (o : DirOwner) (f : DirEntry → DirEntry) : State :=
    let u := if excl then t.releaseOwner at_ (pa / 512) o else t
    u.updDir at_ (pa / 512) (fun e => let k := f e; if excl then { k with owned := true, owner := some o } else k)
  if dieOfQuad home = dieOfQuad q then note s home (.quad q) (fun e => e.share q inc)
  else
    let d := dieOfQuad q
    let x := proxyQuad d pa
    let t := note s home (.die d) (fun e => { e with remote := (d :: e.remote).eraseDups }.named x (s.quad x).inc.toNat)
    note t x (.quad q) (fun e => e.share q inc)

/-- A core's request served: its filter and the directories know its copy. -/
def State.track (s : State) (c pa : Nat) (excl : Bool) : State :=
  (s.noteFilter (c / 4) (lineOf pa) c).noteSharer (c / 4) pa excl

/-- The slices of a request (R27, R60, R61, R73, R101): on another die the proxy slice of the asking quad's die serves what it holds;
else the home slice does, or the neighbour to which it forwards the request for a displaced victim. A hit is used where it lies; a
miss is filled from memory unless the treatment is no-allocate. A write of an agent that bypasses the L1 caches is performed at the
home slice; without allocation a miss merges at its memory-side buffer. -/
def State.useSlices (s : State) (cl : Client) (pa : Nat) (write : Bool) (tr : Treat) (stamp : Option Nat) : State :=
  let line := lineOf pa
  let home := s.homeQuad pa
  let x := proxyQuad (dieOfQuad cl.quad) pa
  let away := dieOfQuad home ≠ dieOfQuad cl.quad
  let least := decide (tr = Treat.streaming)
  let kind (k : LineKind) : LineKind := if stamp.isSome then .replica else k
  if away ∧ ¬ write ∧ (s.quad x).serves line stamp then s.useLine x line
  else
    let held := (s.quad home).serves line stamp || (s.victimAt line).isSome
    let t : State := if (s.quad home).serves line stamp then s.useLine home line
      else match s.victimAt line with
        | some n => s.useLine n line
        | none =>
          if tr = Treat.noAllocate then s.useGddr pa
          else (s.useGddr pa).fillSlice home line (kind .home) false (stamp.getD 0) least
    let t : State := if write && cl.core.isNone && (held || decide (tr ≠ Treat.noAllocate)) then t.writeHome line else t
    if ¬ away ∨ write ∨ tr = Treat.noAllocate then t
    else (t.fillSlice x line (kind .proxy) false (stamp.getD 0) least).updDir home (pa / 512) (fun e =>
      if stamp.isSome then e
      else { e with remote := (dieOfQuad x :: e.remote).eraseDups }.named x (t.quad x).inc.toNat)

/-- A line of the page may stand in the caches: GDDR-7 or host window, in device bias (R403, R404). -/
def State.cacheable (s : State) (pa : Nat) : Bool := (isGddr pa || isHost pa) && decide (Tab.get s.bias (pageOf pa) 0 = 0)

/-- The slices can answer a request: the home slice or, for a read from another die, the proxy slice holds the line, or a neighbour
does to which the home slice forwards (R61, R73). -/
def State.answerable (s : State) (q pa : Nat) (write : Bool) (stamp : Option Nat) : Bool :=
  (s.quad (s.homeQuad pa)).serves (lineOf pa) stamp || (s.victimAt (lineOf pa)).isSome ||
  (!write && (s.quad (proxyQuad (dieOfQuad q) pa)).serves (lineOf pa) stamp)

/-- A request of quad `q` waits at its home slice: for the write-back of the line (R76), or for one of the 256 miss entries (R75). -/
def State.sliceBusy (s : State) (q pa : Nat) (write : Bool) (stamp : Option Nat) : Bool :=
  s.cacheable pa &&
  ((s.quad (s.homeQuad pa)).reserve.contains (lineOf pa) ||
    (!s.answerable q pa write stamp && decide (256 ≤ (s.missEntries (s.homeQuad pa)).length) &&
      !(s.missEntries (s.homeQuad pa)).contains (lineOf pa)))

/-- A request served at the slices, by a core that misses in its L1, or by an agent that bypasses the L1s (R58, R60). Pages in
host bias and device pages stay out of the caches. -/
def State.serve (s : State) (cl : Client) (pa : Nat) (write : Bool) (tr : Treat) (stamp : Option Nat) : State :=
  if !s.cacheable pa || decide (tr = Treat.device) then s
  else
    let t := if stamp.isSome then s else s.settleCopies cl (lineOf pa) write
    t.useSlices cl pa write tr stamp

/-- The other agents' use of a line resets its count in the home slice's predictor (R74). -/
def State.resetCount (s : State) (pa : Nat) : State :=
  let home := s.homeQuad pa
  if (s.quad home).predictor.any (fun x => x.1 == lineOf pa) then
    s.updQuad home (fun a => { a with predictor := a.predictor.filter (fun x => x.1 != lineOf pa) })
  else s

/-- A request of an agent that bypasses the L1 caches (R58): a line in a core's L1 in the owned state is recalled (R74). -/
def State.bypass (s : State) (q pa : Nat) (write : Bool) (tr : Treat) (stamp : Option Nat) : State :=
  (s.serve ⟨q, none⟩ pa write tr stamp).resetCount pa

/-- A line request of an agent that bypasses the L1 caches: the line, its treatment, the stamp of a frozen page's read. -/
abbrev LineReq := Nat × Treat × Option Nat

/-- Line requests of such an agent of a quad, each once. -/
def State.reach (s : State) (q : Nat) (write : Bool) (l : List LineReq) : State :=
  l.eraseDups.foldl (fun t x => t.bypass q (64 * x.1) write x.2.1 x.2.2) s

/-- Some line request of such an agent waits at its home slice (R75, R76). -/
def State.reachBusy (s : State) (q : Nat) (write : Bool) (l : List LineReq) : Bool :=
  l.any (fun x => decide (x.2.1 ≠ Treat.device) && s.sliceBusy q (64 * x.1) write x.2.2)

end Sys2Proof.Machine
end

