-- ==== Sys2Proof/Machine/Trans.lean ====
section
/-!
DEFINITION. Translation (R14 to R34): both stages, attributes, TLBs, the claims of sharing classes (R65 to R67), and the
order of faults (R30).
-/
namespace Sys2Proof.Machine

/-! ### Entries of both stages (R15, R17, R19, R20) -/

/-- The result of a partition-stage walk. -/
inductive PRes where
  | ok (pa size : Nat) (r w x u d : Bool) (mt key : Nat)
  | miss (gpa : Nat)
  | breach
  | ecc (pa : Nat)
deriving DecidableEq, Repr

/-- The size a leaf maps at a level counted from the last (R15). -/
def leafSize (lvl : Nat) : Nat := 4096 * 512 ^ lvl

/-- The sixteen leaves of a 64 KiB page agree (R15): N = 1 and every field but PPN[3:0] identical, which run 0 to 15. -/
def block64Ok (e : Nat) (entries : List Nat) : Bool :=
  let base := e / 2 ^ 14 * 2 ^ 14 + e % 2 ^ 10
  (entries.zipIdx).all (fun p => p.1 == base + p.2 * 2 ^ 10)

/-- A leaf's physical page number is aligned to its level (R15). -/
def leafAligned (e lvl : Nat) : Bool := decide (fieldOf e 10 36 % 512 ^ lvl = 0)

/-- A walker's cache of non-leaf entries (R29): partition, device physical address of the entry, the entry. -/
abbrev WCache := List (Nat × Nat × Nat)

/-- An entry as a walker reads it, under key `k`: out of its cache, which may hold what a store has changed since (R33), or from
memory. -/
def State.readEntry (s : State) (c : WCache) (part k a : Nat) : Nat :=
  match c.find? (fun x => x.1 == part && x.2.1 == a) with
  | some x => x.2.2
  | none => (s.memUnder k).readN a 8

/-- The key under which bytes are kept: what reads them without an entry, as the partition stage reads its tables, uses it (log 65). -/
def State.nativeKey (s : State) (a : Nat) : Nat := Tab.get s.keyed a 0 % 64

/-- A walker's read of an entry meets an uncorrectable error in memory. -/
def State.entryEcc (s : State) (c : WCache) (part a : Nat) : Bool :=
  !c.any (fun x => x.1 == part && x.2.1 == a) && s.badRange a 8

/-- One entry of the partition stage: its error, validity and rules, the leaf, or the next level. R24 does not say what an entry
holds whose table lies in no populated range: it reads 0 here, which is a miss (DESIGN CHOICE, log 65). -/
def State.pentry (s : State) (c : WCache) (part gpa lvl tbl : Nat) (next : PRes) : PRes :=
  let a := tbl + 8 * (gpa / (4096 * 512 ^ lvl) % 512)
  let e := s.readEntry c part (s.nativeKey a) a
  if s.entryEcc c part a then .ecc a
  else if e % 2 = 0 then .miss gpa
  else if fieldOf e 61 2 = 3 ∨ fieldOf e 46 9 ≠ 0 ∨ fieldOf e 1 2 = 2 ∨ (fieldOf e 63 1 = 1 ∧ (lvl ≠ 0 ∨ fieldOf e 1 3 = 0)) then
    .breach
  else if fieldOf e 1 3 = 0 then next
  else if lvl > 2 ∨ ¬ leafAligned e lvl ∨ fieldOf e 6 1 = 0 then .breach
  else
    let big := fieldOf e 63 1 = 1
    let blk := tbl + 8 * (gpa / 4096 % 512 / 16 * 16)
    if big ∧ s.badRange blk 128 then .ecc blk
    else if big ∧ ¬ block64Ok e ((List.range 16).map (fun k => (s.memUnder (s.nativeKey blk)).readN (blk + 8 * k) 8)) then .breach
    else
      let sz := if big then 65536 else leafSize lvl
      let pa := fieldOf e 10 36 * 4096 / sz * sz + gpa % sz
      .ok pa sz (fieldOf e 1 1 == 1) (fieldOf e 2 1 == 1) (fieldOf e 3 1 == 1) (fieldOf e 4 1 == 1)
        (fieldOf e 7 1 == 1) (fieldOf e 61 2) (fieldOf e 55 6)

/-- The partition-stage walk of a guest physical address from a table (R17, R20). A pointer at the last level names no level
below: R17 and R18 do not say whether that is a breach of the rules or no valid leaf; it is a breach here (DESIGN CHOICE,
log 65). -/
def State.pwalk (s : State) (c : WCache) (part gpa : Nat) : Nat → Nat → PRes
  | 0, tbl => s.pentry c part gpa 0 tbl .breach
  | lvl + 1, tbl =>
    let a := tbl + 8 * (gpa / (4096 * 512 ^ (lvl + 1)) % 512)
    let e := s.readEntry c part (s.nativeKey a) a
    s.pentry c part gpa (lvl + 1) tbl (s.pwalk c part gpa lvl (fieldOf e 10 36 * 4096))

/-- The partition stage of a partition (R17). -/
def State.pstage (s : State) (c : WCache) (part gpa : Nat) : PRes :=
  match (s.prt part).root with
  | none => .miss gpa
  | some root => s.pwalk c part gpa 3 root

/-- The entries that a partition-stage walk reads, with their addresses (R29). -/
def State.ptrail (s : State) (c : WCache) (part gpa : Nat) : Nat → Nat → WCache
  | 0, tbl =>
    let a := tbl + 8 * (gpa / 4096 % 512)
    [(part, a, s.readEntry c part (s.nativeKey a) a)]
  | lvl + 1, tbl =>
    let a := tbl + 8 * (gpa / (4096 * 512 ^ (lvl + 1)) % 512)
    let e := s.readEntry c part (s.nativeKey a) a
    (part, a, e) :: (if e % 2 = 1 ∧ fieldOf e 1 3 = 0 then s.ptrail c part gpa lvl (fieldOf e 10 36 * 4096) else [])

/-- The entries of a partition's stage for an address. -/
def State.stageTrail (s : State) (c : WCache) (part gpa : Nat) : WCache :=
  match (s.prt part).root with
  | none => []
  | some root => s.ptrail c part gpa 3 root

/-- Who makes an access: its partition, ASID, privilege and place. `core` is the core for a scalar access. -/
structure Req where
  part : Nat
  asid : Nat
  mode : Mode
  mxr : Bool
  core : Option Nat
  quad : Nat
  /-- Guest physical address of the root table (R16). -/
  root : Nat
  /-- The number of the agent (R404, R431), and the element of a vector access (R33). -/
  who : Nat
  elem : Nat := 0
  /-- It obtains its line exclusive though it reads (R267, R431). -/
  excl : Bool := false
deriving DecidableEq, Repr

/-- The scalar requests of a hart. -/
def State.reqOf (s : State) (h : Nat) : Req :=
  let a := s.hart h
  ⟨s.partOf h, fieldOf a.csr.satp.toNat 44 16, a.mode, bitOf a.csr.sstatus 19, some (coreOf h), quadOf h,
    fieldOf a.csr.satp.toNat 0 36 * 4096, h, 0, false⟩
/-- The vector and engine requests of a hart (R28, R67). -/
def State.vreqOf (s : State) (h : Nat) : Req := { s.reqOf h with core := none }

/-- The page fault of an access kind (R14). -/
def pageCause : AccKind → Nat
  | .fetch => 12
  | .load => 13
  | .store => 15
/-- The access fault of an access kind (R18). -/
def accessCause : AccKind → Nat
  | .fetch => 1
  | .load => 5
  | .store => 7

/-- Guest-stage permission (R19): U mode reaches U leaves alone, S mode does not fetch from them. -/
def guestPerm (q : Req) (acc : AccKind) (r w x u d : Bool) : Bool :=
  (match q.mode with
    | .u => u
    | .s => !(decide (acc = .fetch) && u)) &&
  (match acc with
    | .fetch => x
    | .load => r || (q.mxr && x)
    | .store => w && d)

/-- Partition-stage permission (R20); a U access needs U there too, as every permission is needed in both stages. R20 does not
say whether sstatus.MXR reaches the partition stage: a load passes an X leaf without R there too (DESIGN CHOICE, log 65). -/
def partPerm (q : Req) (acc : AccKind) (r w x u d : Bool) : Bool :=
  (match q.mode with
    | .u => u
    | .s => true) &&
  (match acc with
    | .fetch => x
    | .load => r || (q.mxr && x)
    | .store => w && d)

/-- The more restrictive of two memory types (R21), codes 0 normal, 1 streaming, 2 device. -/
def mtypeOf (a b : Nat) : MType :=
  if a = 2 ∨ b = 2 then .device else if a = 1 ∨ b = 1 then .streaming else .normal

/-- A page of the range has a freeze count that is not 0, or is locked by a FREEZE or THAW (R98, R104), within the 2 MiB spans of `size`
bytes at `pa` (R102). -/
def State.summarySet (s : State) (pa size : Nat) : Bool :=
  let near (page : Nat) : Bool := decide (pa / 2 ^ 21 ≤ page / 512) && decide (page / 512 ≤ (pa + size - 1) / 2 ^ 21)
  s.freeze.any (fun e => decide (e.2.count ≠ 0) && near e.1) || s.freezes.any (fun o => !o.done && o.pages.any (fun p => near p.1))

/-- The combined entry of a guest leaf and a partition leaf (R21, R28, R65, R102). -/
def State.combine (s : State) (q : Req) (va gsize : Nat) (ge : Nat) (p : PRes) : WRes :=
  match p with
  | .ok pa psize r w x u d mt key =>
    let size := min gsize psize
    let mt' := mtypeOf (fieldOf ge 61 2) mt
    let fe := Tab.get s.freeze (pageOf pa) {}
    let small := isGddr pa && s.summarySet (pa / size * size) size
    let sz := if small then 4096 else size
    let always : Bool := decide (size > 4096) || decide (mt' ≠ .normal) || isHost pa
    let se := Tab.get s.share (pageOf pa) {}
    let share : Share :=
      if always then .unread
      else match se.cls.toNat with
        | 0 => .unclaimed
        | 1 => .priv se.owner.toNat
        | 2 => .shared
        | _ => .always
    .ok ⟨va / sz * sz, pa / sz * sz, sz, q.part, q.asid, fieldOf ge 5 1 == 1,
      fieldOf ge 1 1 == 1, fieldOf ge 2 1 == 1, fieldOf ge 3 1 == 1, fieldOf ge 4 1 == 1, fieldOf ge 7 1 == 1,
      r, w, x, u, d, mt', key, decide (fe.count ≠ 0), fe.gen.toNat % 4096, share⟩
  | .miss g => .miss g
  | .breach => .fault 0 .breach
  | .ecc a => .fault 0 (.bad (s.unitOf none a) a)

/-- The guest-stage walk from a table's guest physical address at a level (R15, R19, R30): each level translates its table
through the partition stage, reads the entry, then checks it. `c` is the walker's cache. -/
def State.gwalk (s : State) (c : WCache) (q : Req) (acc : AccKind) (va : Nat) : Nat → Nat → WRes
  | lvl, tbl =>
    let idx := va / (4096 * 512 ^ lvl) % 512
    match s.pstage c q.part (tbl + 8 * idx) with
    | .miss g => .miss g
    | .ecc a => .fault (accessCause acc) (.bad (s.unitOf none a) a)
    | .breach => .fault (accessCause acc) .breach
    | .ok pa _ r _ _ _ _ _ key =>
      if !r then .fault (accessCause acc) .breach
      else if !(isGddr pa || isHost pa) || isFirmware pa then .fault (accessCause acc) .plain
      else if s.entryEcc c q.part pa then .fault (accessCause acc) (.bad (s.unitOf none pa) pa)
      else
        let e := s.readEntry c q.part key pa
        if e % 2 = 0 ∨ fieldOf e 61 2 = 3 ∨ fieldOf e 46 15 ≠ 0 ∨ fieldOf e 1 2 = 2 ∨
            (fieldOf e 63 1 = 1 ∧ (lvl ≠ 0 ∨ fieldOf e 1 3 = 0)) then .fault (pageCause acc) .plain
        else if fieldOf e 1 3 = 0 then
          match lvl with
          | 0 => .fault (pageCause acc) .plain
          | l + 1 => s.gwalk c q acc va l (fieldOf e 10 36 * 4096)
        else if lvl > 2 ∨ ¬ leafAligned e lvl then .fault (pageCause acc) .plain
        else
          let big := fieldOf e 63 1 = 1
          let blk := pa - 8 * (idx % 16)
          if big ∧ s.badRange blk 128 then .fault (accessCause acc) (.bad (s.unitOf none blk) blk)
          else if big ∧ ¬ block64Ok e ((List.range 16).map (fun k => (s.memUnder key).readN (blk + 8 * k) 8)) then
            .fault (pageCause acc) .plain
          else if fieldOf e 6 1 = 0 ∨ ¬ guestPerm q acc (fieldOf e 1 1 == 1) (fieldOf e 2 1 == 1) (fieldOf e 3 1 == 1)
              (fieldOf e 4 1 == 1) (fieldOf e 7 1 == 1) then .fault (pageCause acc) .plain
          else
            let sz := if big then 65536 else leafSize lvl
            let gpa := fieldOf e 10 36 * 4096 / sz * sz + va % sz
            match s.combine q va sz e (s.pstage c q.part gpa) with
            | .fault _ w => .fault (accessCause acc) w
            | r => r
termination_by structural lvl => lvl

/-- The entries that a walk of both stages reads (R29). -/
def State.gtrail (s : State) (c : WCache) (q : Req) (va : Nat) : Nat → Nat → WCache
  | lvl, tbl =>
    let gpa := tbl + 8 * (va / (4096 * 512 ^ lvl) % 512)
    s.stageTrail c q.part gpa ++
    (match s.pstage c q.part gpa with
      | .ok pa _ r _ _ _ _ _ key =>
        if !r || !(isGddr pa || isHost pa) || isFirmware pa then []
        else
          let e := s.readEntry c q.part key pa
          (q.part, pa, e) ::
          (if e % 2 = 0 then []
           else if fieldOf e 1 3 = 0 then
             match lvl with
             | 0 => []
             | l + 1 => s.gtrail c q va l (fieldOf e 10 36 * 4096)
           else s.stageTrail c q.part (fieldOf e 10 36 * 4096 / leafSize lvl * leafSize lvl + va % leafSize lvl))
      | _ => [])
termination_by structural lvl => lvl

/-- A non-leaf entry. -/
def isPointer (e : Nat) : Bool := decide (e % 2 = 1) && decide (fieldOf e 1 3 = 0)

/-- Order 4's permissions of a combined entry, then order 5: range, firmware region, MMIO (R20, R21, R24, R25, R434). -/
def placeFault (q : Req) (acc : AccKind) (e : TlbEntry) (pa : Nat) : Option Why :=
  if !(partPerm q acc e.pr e.pw e.px e.pu e.pd) then some .breach
  else if !(isGddr pa || isHost pa || isMmio pa) || isFirmware pa ||
      (isMmio pa && (decide (e.mt ≠ .device) || (mmioReg pa).isNone)) then some .plain
  else none

/-- An uncorrectable error in the freeze entry, or in the sharing entry where the walk reads one (R65): order 3, reported once orders 4
and 5 have passed (R30). -/
def State.entryBad (s : State) (e : TlbEntry) (pa : Nat) : Option Why :=
  if !isGddr pa then none
  else if s.poison.contains (freezeSite (pageOf pa)) then some (.bad 2 0)
  else if e.share ≠ .unread ∧ s.poison.contains (shareSite (pageOf pa)) then some (.bad 2 0)
  else none

/-- A canonical 57-bit address (R14). -/
def canonical (va : Word) : Bool := decide ((va.setWidth 57).signExtend 64 = va)

/-- The device physical address of a virtual address under an entry. -/
def TlbEntry.addr (e : TlbEntry) (va : Nat) : Nat := e.pa + va % e.size

/-- An entry matches a request's address (R28). -/
def TlbEntry.hits (e : TlbEntry) (q : Req) (va : Nat) : Bool :=
  decide (e.part = q.part) && (e.global || decide (e.asid = q.asid)) && decide (e.va ≤ va) && decide (va < e.va + e.size)

/-- An entry is usable by the requester: a private page by its owner's core alone (R67). -/
def TlbEntry.usable (e : TlbEntry) (q : Req) : Bool :=
  match e.share with
  | .priv c => e.frozen || decide (q.core = some c)
  | .unclaimed => e.frozen
  | _ => true

/-- The partition of a queue (R368). -/
def Queue.part (a : Queue) : Nat := fieldOf a.w0.toNat 55 4
/-- The affinity set of a queue. -/
def Queue.aff (a : Queue) : Nat := fieldOf a.w0.toNat 45 6

/-- A queue's affinity set admits a quad of its partition (R369). -/
def State.admits (s : State) (a : Queue) (q : Nat) : Bool :=
  decide ((s.quad q).part = some a.part) && (Tab.get s.affinity (a.part * 64 + a.aff) 0).getLsbD q

/-- What a quad keeps for the WARMPC of queues (R376): with RSLOT ≠ 0, of every queue whose affinity set admits it. -/
def State.warmIn (s : State) (q : Nat) : List (TlbEntry × List Nat) :=
  if (s.quad q).rslot = 0 then [] else s.queues.flatMap (fun a => if a.2.warm ≠ [] ∧ s.admits a.2 q then a.2.warm else [])

/-- The quad TLB: its entries, and those kept for the WARMPC of queues (R28, R376). -/
def State.entriesOf (s : State) (q : Nat) : List TlbEntry := (s.quad q).tlb ++ (s.warmIn q).map (·.1)

/-- The TLB entry a request hits: the core's first-level TLB for scalar accesses, then the quad TLB (R28). A hit uses an entry
as it was filled: until an SFENCE.VMA it may be an old one (R33, log 66). -/
def State.tlbHit (s : State) (q : Req) (va : Nat) : Option TlbEntry :=
  let ok (e : TlbEntry) : Bool := e.hits q va && e.usable q
  match q.core with
  | some c => match (s.core c).tlb.find? ok with
    | some e => some e
    | none => (s.entriesOf q.quad).find? ok
  | none => (s.entriesOf q.quad).find? ok

/-- An entry installed in the TLBs of the requester (R28: 512 and 4,096 entries). -/
def State.installTlb (s : State) (q : Req) (e : TlbEntry) : State :=
  let t := s.updQuad q.quad (fun a => { a with tlb := (e :: a.tlb).take 4096 })
  match q.core with
  | some c => t.updCore c (fun a => { a with tlb := (e :: a.tlb).take 512 })
  | none => t

/-! ### Claims and reclassification (R65 to R67) -/

/-- A core receives flush of a page (R67): its dirty lines of the page go home, all leave its L1 data cache, and its entries of the
page its TLBs; reservations on them are lost (R266). -/
def State.flushPage (s : State) (c page : Nat) : State :=
  let keepT (e : TlbEntry) : Bool := !(decide (e.pa ≤ page * 4096) && decide (page * 4096 < e.pa + e.size))
  let t := s.mapHarts (fun h a => a.loseResv (fun r => decide (h / 8 = c) && decide (r.line / 64 = page)))
  let mine : List (Nat × Bool) := (t.core c).l1d.filter (fun l => l.1 / 64 == page)
  let u := (mine.foldl (fun u l => u.dropL1 c l.1) t).updCore c (fun a => { a with tlb := a.tlb.filter keepT })
  u.updQuad (c / 4) (fun a => { a with tlb := a.tlb.filter keepT })

/-- The copies that the directories of a page's eight regions still track are invalidated (R66). -/
def State.dropDirs (s : State) (page : Nat) : State :=
  (List.range 8).foldl (fun t k =>
    let home := t.homeQuad (page * 4096 + 512 * k)
    if (t.quad home).dir.any (fun d => d.1 == page * 8 + k) then t.evictRegion home (page * 8 + k) else t) s

/-- The sharing class of a page as its entry holds it now (R22). -/
def State.shareOf (s : State) (page : Nat) : Share :=
  let se := Tab.get s.share page {}
  match se.cls.toNat with
  | 0 => .unclaimed
  | 1 => .priv se.owner.toNat
  | 2 => .shared
  | _ => .always

/-- The claim or reclassification that a walk's end makes (R66, R67): one atomic operation on the sharing entry, whatever the
walk had read of it; frozen pages are left (R101). -/
def State.claim (s : State) (q : Req) (e : TlbEntry) : TlbEntry × State :=
  let page := pageOf e.pa
  if e.frozen ∨ e.share = .always ∨ e.share = .unread then (e, s)
  else match s.shareOf page with
    | .unclaimed =>
      let t := s.dropDirs page
      match q.core with
      | some c =>
        ({ e with share := .priv c }, { t with share := Tab.set t.share page ⟨1, BitVec.ofNat 11 c⟩ })
      | none => ({ e with share := .shared }, { t with share := Tab.set t.share page ⟨2, 0⟩ })
    | .priv c =>
      if q.core = some c then ({ e with share := .priv c }, s)
      else
        let t := s.flushPage c page
        ({ e with share := .shared }, { t with share := Tab.set t.share page ⟨2, 0⟩ })
    | k => ({ e with share := k }, s)

/-! ### Walkers (R29) and the translation of an access -/

/-- A FREEZE or THAW that is not done holds a page's entry locked, and holds the walks of the page (R98, R104). -/
def State.pageLocked (s : State) (page : Nat) : Bool := s.freezes.any (fun o => !o.done && o.pages.any (fun p => p.1 == page))

/-- The walker that serves an access's own walk; which of the 64 takes it is the model's choice (log 66). -/
def walkerOf (va : Nat) : Nat := va / 4096 % 64

/-- A walker's cache. -/
def State.wcache (s : State) (d w : Nat) : WCache := Tab.get (s.die d).walkers w []

/-- A walker has read some entries: the non-leaf ones enter its cache of 256 (R29). -/
def State.learn (s : State) (d w : Nat) (l : WCache) : State :=
  let l := l.filter (fun x => isPointer x.2.2)
  if l = [] then s
  else s.updDie d (fun a => { a with walkers := Tab.set a.walkers w ((l ++ Tab.get a.walkers w []).eraseDups.take 256) })

/-- The addresses of the entries that a walk reads from memory, its walker's cache having the others. -/
def readsOf (c l : WCache) : List Nat :=
  (l.filter (fun x => !c.any (fun y => y.1 == x.1 && y.2.1 == x.2.1))).map (·.2.1)

/-- The host must be asked before an access of a line in host bias that its snoop filter holds (R404, R431). -/
def State.mustSnoop (s : State) (who pa : Nat) (write : Bool) : Bool :=
  decide (Tab.get s.bias (pageOf pa) 0 = 1) && (s.die (s.homeDie pa)).snoop.contains (lineOf pa) &&
  !(s.bisnps.any (fun x => x.who == who && x.line == lineOf pa && (x.inv || !write) && x.done))

/-- What some reads of an agent that bypasses the L1 caches wait for: a bias flip of the page (R404), the host (R431), a miss entry or
write-back at the line's home slice (R75, R76). -/
def State.readsWait (s : State) (who q : Nat) : List Nat → Option Park
  | [] => none
  | a :: t =>
    if Tab.get s.bias (pageOf a) 0 ≥ 2 then some .access
    else if s.mustSnoop who a false then some (.snoop (lineOf a) false)
    else if s.sliceBusy q a false none then some .missFull
    else s.readsWait who q t

/-- Answers of the host that an agent's finished access has used: a later access of the line asks again (R431). -/
def State.snoopsUsed (s : State) (who : Nat) (lines : List Nat) : State :=
  if s.bisnps = [] then s
  else { s with bisnps := s.bisnps.filter (fun x => !(x.who == who && x.done && lines.contains x.line)) }

/-- A walk under way that an access joins: one of the same page, partition and ASID (R29), which serves this access; its failure is the
failure of its own kind of access alone. -/
def Walk.serves (w : Walk) (q : Req) (acc : AccKind) (page : Nat) : Bool :=
  decide (w.part = q.part) && decide (w.asid = q.asid) && decide (w.page = page) &&
  (match w.one with
    | none => true
    | some k => decide (k = q.elem)) &&
  (match w.res with
    | .ok _ => true
    | _ => decide (w.mode = q.mode) && decide (w.acc = acc))

/-- The walk under way on the requester's die that an access joins. -/
def State.walkFor (s : State) (q : Req) (acc : AccKind) (page : Nat) : Option Walk :=
  (s.die (dieOfQuad q.quad)).walks.find? (fun w => w.serves q acc page)

/-- A walk under way for this access alone, whatever the TLBs hold (R33). -/
def State.ownWalk (s : State) (q : Req) (acc : AccKind) (page : Nat) : Option Walk :=
  (s.die (dieOfQuad q.quad)).walks.find? (fun w => w.one.isSome && w.serves q acc page)

/-- A walk under way has ended. -/
def State.endWalk (s : State) (d : Nat) (w : Walk) : State := s.updDie d (fun a => { a with walks := a.walks.erase w })

/-- A translated access, or why there is none. -/
inductive Trans where
  | ok (e : TlbEntry) (pa : Nat) (s : State)
  | fault (cause : Nat) (why : Why)
  | miss (gpa : Nat)
  | wait (p : Park)
deriving DecidableEq, Repr

/-- A walk's result used by an access: permissions, place, the errors of its page's entries, a lock of its page, then the claim; with
`keep` the entry is installed. -/
def State.useWalk (s : State) (q : Req) (acc : AccKind) (v : Nat) (keep : Bool) : WRes → Trans
  | .miss g => .miss g
  | .fault c w => .fault c w
  | .ok e =>
    if !guestPerm q acc e.r e.w e.x e.u e.d then .fault (pageCause acc) .plain
    else match placeFault q acc e (e.addr v) with
      | some w => .fault (accessCause acc) w
      | none => match s.entryBad e (e.addr v) with
        | some w => .fault (accessCause acc) w
        | none =>
          if s.pageLocked (pageOf (e.addr v)) then .wait .access
          else
            let r := s.claim q e
            .ok r.1 (r.1.addr v) (if keep then r.2.installTlb q r.1 else r.2)

/-- A walk's reads go to the L2 slices, and its walker keeps the non-leaf entries (R29, R58). -/
def State.walked (s : State) (q : Req) (w : Nat) (l : WCache) : State :=
  let d := dieOfQuad q.quad
  let as_ := readsOf (s.wcache d w) l
  ((s.learn d w l).snoopsUsed q.who (as_.map lineOf)).reach q.quad false (as_.map (fun a => (lineOf a, Treat.normal, none)))

/-- The walk of a TLB miss (R29): a walk under way of the page is joined, else a walker makes one; with 64 walks and 256 requests
in the queue the miss waits. Entries it reads may be old or new until an SFENCE.VMA (R33): a walk that is joined read them when
it began, a walker's cache holds them, memory has them as they are now. -/
def State.walk (s : State) (q : Req) (acc : AccKind) (v : Nat) : Trans :=
  let d := dieOfQuad q.quad
  match s.walkFor q acc (v / 4096) with
  | some w => (s.endWalk d w).useWalk q acc v true w.res
  | none =>
    if 320 ≤ (s.die d).walks.length then .wait .missFull
    else
      let c := s.wcache d (walkerOf v)
      let l := s.gtrail c q v 4 q.root
      match s.readsWait q.who q.quad (readsOf c l) with
      | some p => .wait p
      | none => (s.walked q (walkerOf v) l).useWalk q acc v true (s.gwalk c q acc v 4 q.root)

/-- The translation of one address (R14 to R30, orders 1 to 5): a walk for this access alone, a TLB hit, or a walk whose result is
installed. Until an SFENCE.VMA each access, and each element of a vector access, may so use an old entry or the new one (R33). -/
def State.translate (s : State) (q : Req) (va : Word) (acc : AccKind) : Trans :=
  let v := va.toNat
  if !canonical va then .fault (pageCause acc) .plain
  else match s.ownWalk q acc (v / 4096) with
    | some w => (s.endWalk (dieOfQuad q.quad) w).useWalk q acc v false w.res
    | none => match s.tlbHit q v with
      | some e =>
        if !guestPerm q acc e.r e.w e.x e.u e.d then .fault (pageCause acc) .plain
        else match placeFault q acc e (e.addr v) with
          | some w => .fault (accessCause acc) w
          | none => .ok e (e.addr v) s
      | none => s.walk q acc v

/-- A walk that failed is cached no longer than for the access that has met it (R28): when an access has trapped or waits for Chinook,
the failed walks of its page end. -/
def State.endFailed (s : State) (d part page : Nat) : State :=
  let bad (w : Walk) : Bool := decide (w.part = part) && decide (w.page = page) && (match w.res with
    | .ok _ => false
    | _ => true)
  if (s.die d).walks.any bad then s.updDie d (fun a => { a with walks := a.walks.filter (fun w => !bad w) }) else s

/-- The treatment of an access by its page and its cp field (R27): the page wins, and cp can only lower retention. -/
def treatOf (mt : MType) (cp : Nat) : Treat :=
  match mt with
  | .device => .device
  | .streaming => if cp = 3 then .noAllocate else .streaming
  | .normal => if cp = 3 then .noAllocate else if cp = 2 then .streaming else .normal

end Sys2Proof.Machine
end

