-- ==== Sys2Proof/Machine/Access.lean ====
section
/-!
DEFINITION. Performing accesses: where a write lands and what it disturbs, the checks of one access, and the scalar
access of a hart (R30, R78 to R80, R100, R218, R404).
-/
namespace Sys2Proof.Machine

/-! ### Writes and what they disturb -/

/-- Lines that a range of bytes touches. -/
def linesOf (pa n : Nat) : List Nat := (List.range ((pa + n + 63) / 64 - pa / 64)).map (fun k => pa / 64 + k)

/-- Lines wholly covered by a range; a write of a whole line ends its error (R80). -/
def wholeLines (pa n : Nat) : List Nat := (linesOf pa n).filter (fun l => decide (pa ≤ 64 * l) && decide (64 * l + 64 ≤ pa + n))

/-- Reservations on written lines are lost, but the writer's own (R266). -/
def State.breakResv (s : State) (who : Option Nat) (lines : List Nat) : State :=
  s.mapHarts (fun h a => a.loseResv (fun r => lines.contains r.line && decide (who ≠ some h)))

/-- Lines written whole end their errors (R80). -/
def State.healLines (s : State) (whole : List Nat) : State :=
  if whole = [] then s
  else { s with
    poison := s.poison.filter (fun l => !whole.any (fun w => l == w || l == copySite w))
    failed := s.failed.filter (fun l => !whole.contains l) }

/-- A write performed at device physical memory by an agent (`who` a hart, or none) under a key: log 5. -/
def State.poke (s : State) (who : Option Nat) (key pa : Nat) (bytes : List Byte) : State :=
  let t := State.seal { s with mem := s.mem.writeBytes pa bytes } key pa bytes.length
  (t.healLines (wholeLines pa bytes.length)).breakResv who (linesOf pa bytes.length)

/-- The writer that a hart is to MMIO registers (R434). -/
def State.writerOf (s : State) (h : Nat) : Writer :=
  match (s.hart h).mode with
  | .u => .hartU
  | .s => .hartS (s.partOf h)

/-- A read of `n` bytes at a device physical address by a hart, under a key: memory, or a register of the window. Some register maps
say who may read a register (R36, R81, R85, R109, R368 to R370, R400); none says what another reader gets: every reader gets the
value, and its read has the read's effect (DESIGN CHOICE, log 64). -/
def State.fetchData (s : State) (key pa n : Nat) : Nat × State :=
  if isMmio pa then s.mmioRead pa n else ((s.memUnder key).readN pa n, s)

/-- A write of `n` bytes by a hart, under a key: memory, or a register of the window. -/
def State.storeData (s : State) (h key pa n v : Nat) : State :=
  if isMmio pa then s.mmioWrite (s.writerOf h) pa n v else s.poke (some h) key pa (leBytes n v)

/-! ### Caches on a scalar access (R58, R65, R67, R69 to R75, R101) -/

/-- The sharing class that holds for a line of a translation now (R22, R67). -/
def State.classOf (s : State) (e : TlbEntry) (pa : Nat) : Share :=
  match e.share with
  | .always => .always
  | .unread => .always
  | _ => s.shareOf (pageOf pa)

/-- A scalar access of the page uses the core's L1 data cache: a normal page of GDDR-7 in device bias (R27, R58, R403, R406). -/
def State.inL1 (s : State) (e : TlbEntry) (pa : Nat) : Bool :=
  decide (e.mt = .normal) && !isHost pa && decide (Tab.get s.bias (pageOf pa) 0 = 0)

/-- The core's L1 data cache serves the access: the line, or for a frozen page a replica of its stamp (R101). -/
def State.l1Hit (s : State) (c : Nat) (e : TlbEntry) (pa : Nat) : Bool :=
  if e.frozen then (s.core c).rep.any (fun l => l.1 == lineOf pa && l.2 == e.stamp)
  else (s.core c).l1d.any (fun l => l.1 == lineOf pa)

/-- The stamp that a copy must have to serve an access: a frozen page's (R101). -/
def TlbEntry.replica (e : TlbEntry) : Option Nat := if e.frozen then some e.stamp else none

/-- The core's L1 data cache serves the access alone: a write needs the page private to the core, or the line exclusive there, which a
dirty line is (R66, R69, R74). -/
def State.l1Serves (s : State) (c : Nat) (e : TlbEntry) (pa : Nat) (write : Bool) : Bool :=
  s.l1Hit c e pa && (!write || Tab.get (s.core c).l1d (lineOf pa) false || (match s.classOf e pa with
    | .priv _ => true
    | _ => false))

/-- Another core's access resets the count of a line (R74). -/
def State.otherCore (s : State) (c pa : Nat) : State :=
  if (s.quad (s.homeQuad pa)).predictor.any (fun x => x.1 == lineOf pa && x.2.1 != c) then s.resetCount pa else s

/-- A scalar access leaves its line in the core's L1 data cache: a shared line is recorded in the quad's filter and in the
directories, a frozen line is a replica, a private one is the core's alone (R65 to R71, R101). What the L1 does not serve alone is
served by the slices. A page that stays out of the L1s goes straight to L2 (R27). -/
def State.touch (s : State) (c : Nat) (e : TlbEntry) (pa : Nat) (store : Bool) : State :=
  let line := lineOf pa
  let cl : Client := ⟨c / 4, some c⟩
  if !s.inL1 e pa then s.serve ⟨c / 4, none⟩ pa store (treatOf e.mt 0) none
  else if e.frozen then
    if s.l1Hit c e pa then s
    else ((s.serve cl pa false .normal (some e.stamp)).roomL1 c line).updCore c (fun a => { a with rep := Tab.set a.rep line e.stamp })
  else
    let t := if s.l1Serves c e pa store then s
      else match s.classOf e pa with
        | .priv _ => s.useSlices cl pa store .normal none
        | _ => ((s.otherCore c pa).serve cl pa store .normal none).track c pa store
    (t.roomL1 c line).updCore c (fun a => { a with
      l1d := Tab.set a.l1d line (store || Tab.get a.l1d line false), rep := Tab.erase a.rep line })

/-- The home slice counts consecutive atomics of a core on a line, 64 lines at most, the latest first (R74). -/
def Quad.count (a : Quad) (line c : Nat) : Nat × Quad :=
  let n := match a.predictor.find? (fun x => x.1 == line) with
    | some x => if x.2.1 = c then x.2.2 + 1 else 1
    | none => 1
  (n, { a with predictor := ((line, c, n) :: a.predictor.filter (fun x => x.1 != line)).take 64 })

/-- An atomic of a core (R74): in its L1 on a private page, or where the line was delivered to it; else at the proxy slice that holds
the line owned, or at the home slice, whose predictor delivers the line to the core at its third atomic in a row. Where a slice
executes it, the copies of the L1s are recalled. Lines of the host window stay at the home slice (R267, R406). -/
def State.atomicAt (s : State) (c : Nat) (e : TlbEntry) (pa : Nat) : State :=
  let line := lineOf pa
  let home := s.homeQuad pa
  let d := dieOfQuad (c / 4)
  if !s.inL1 e pa then s.serve ⟨c / 4, none⟩ pa true (treatOf e.mt 0) none
  else if s.l1Serves c e pa true ∨ s.classOf e pa = .priv c then s.touch c e pa true
  else if (Tab.get (s.quad home).dir (pa / 512) {}).owner = some (.die d) ∧ (s.quad (proxyQuad d pa)).serves line none then
    ((s.proxySharers d line).foldl (fun t q => t.probeQuad q line) s).dirtyLine (proxyQuad d pa) line .proxy
  else
    let t := s.serve ⟨c / 4, none⟩ pa true .normal none
    let r := (t.quad home).count line c
    let u := t.updQuad home (fun _ => r.2)
    if r.1 < 3 then u else u.touch c e pa true

/-- A line of the host window is exclusive at its home slice, where LR and SC execute (R60, R267, R406). -/
def State.atHome (s : State) (c pa : Nat) (tr : Treat) : State :=
  if s.cacheable pa then (s.settleCopies ⟨c / 4, none⟩ (lineOf pa) true).useSlices ⟨s.homeQuad pa, none⟩ pa false tr none else s

/-- Lines that scalar loads of a core wait for, each in one of its 32 miss registers (R6, R75). -/
def State.missRegs (s : State) (c : Nat) : List Nat :=
  ((span (8 * c) 8).flatMap (fun h => (s.hart h).late.filterMap (fun l => l.fill.map (fun f => lineOf f.1)))).eraseDups

/-! ### One access -/

/-- An access that has passed its checks; `write` where it obtains its line exclusive. -/
structure Acc where
  e : TlbEntry
  pa : Nat
  write : Bool
  s : State

/-- The key of an access (R25). -/
abbrev Acc.key (c : Acc) : Nat := c.e.keyAt c.pa

/-- Memory as the access reads it (R410). -/
abbrev Acc.mem (c : Acc) : Memory := c.s.memUnder c.key

/-- A miss waits for a miss register of its core, unless one holds its line, and what goes to the slices for the line's home slice
(R75, R76). -/
def State.missWait (s : State) (c : Nat) (a : Acc) : Option Stop :=
  let regs := s.missRegs c
  parkIf (
    if s.inL1 a.e a.pa then
      (!s.l1Hit c a.e a.pa && decide (32 ≤ regs.length) && !regs.contains (lineOf a.pa)) ||
        (!s.l1Serves c a.e a.pa a.write && s.sliceBusy (c / 4) a.pa a.write a.e.replica)
    else decide (a.e.mt ≠ .device) && s.sliceBusy (c / 4) a.pa a.write a.e.replica) .missFull

/-- An access without a partition-stage leaf: a hart parks, unless Chinook has denied it (R18). -/
def State.missStop (s : State) (who : Nat) (va : Word) (acc : AccKind) (g : Nat) : Stop :=
  if who < 16384 ∧ (s.hart who).denied = some g then .trap (accessCause acc) va else .park (.pmiss va acc g)

/-- The stop of a fault, with what it tells. -/
def faultStop (cause : Nat) (va : Word) (w : Why) : Stop :=
  match w with
  | .plain => .trap cause va
  | w => .report cause va 0 w

/-- The checks of one access inside a page by an agent (R30 orders 1 to 6, R404): `mis` is the cause a device page makes
of its misalignment, 0 for none; `dev` the cause a device page makes by itself. -/
def State.access (s : State) (who : Nat) (q : Req) (va : Word) (acc : AccKind) (mis dev : Nat) : Except Stop Acc :=
  match s.translate q va acc with
  | .fault c w => .error (faultStop c va w)
  | .miss g => .error (s.missStop who va acc g)
  | .wait p => .error (.park p)
  | .ok e pa t =>
    if e.mt = .device ∧ mis ≠ 0 then .error (.trap mis va)
    else if e.mt = .device ∧ dev ≠ 0 then .error (.trap dev va)
    else if acc = .store ∧ e.frozen then .error (.trap 25 va)
    else if Tab.get s.bias (pageOf pa) 0 ≥ 2 then .error (.park .access)
    else if s.mustSnoop who pa (decide (acc = .store) || q.excl) then
      .error (.park (.snoop (lineOf pa) (decide (acc = .store) || q.excl)))
    else .ok ⟨e, pa, decide (acc = .store) || q.excl, t⟩

/-- The address misaligned cause of an access kind. -/
def misCause : AccKind → Nat
  | .store => 6
  | _ => 4

/-- A scalar load or store of `n` bytes (R218): a line crossing is found before translation. -/
def State.scalarAccess (s : State) (h : Nat) (va : Word) (n : Nat) (acc : AccKind) : Except Stop Acc :=
  let mis : Bool := decide (va.toNat % n ≠ 0)
  if va.toNat % 64 + n > 64 then .error (.trap (misCause acc) va)
  else s.access h (s.reqOf h) va acc (if mis then misCause acc else 0) 0

/-- A request that must be aligned to its size, and may refuse device pages (R218, R265). -/
def State.alignedReq (s : State) (h : Nat) (q : Req) (va : Word) (n : Nat) (acc : AccKind) (mis dev : Nat) : Except Stop Acc :=
  if va.toNat % n ≠ 0 then .error (.trap mis va) else s.access h q va acc 0 dev
/-- The aligned scalar access of a hart. -/
def State.alignedAccess (s : State) (h : Nat) (va : Word) (n : Nat) (acc : AccKind) (mis dev : Nat) : Except Stop Acc :=
  s.alignedReq h (s.reqOf h) va n acc mis dev

/-- A store error of the hart on a line of an access it issues (R180). -/
def Hart.storeError (a : Hart) (line : Nat) : Option Deferred :=
  a.deferred.find? (fun d => match d with
    | .store l _ => l == line
    | _ => false)

/-- The first deferred error of the kinds an instruction reports: stores (R180), matrix errors (R350), pushes (R433). -/
def Hart.due (a : Hart) (st mx pu : Bool) : Option Deferred :=
  a.deferred.find? (fun d => match d with
    | .store _ _ => st
    | .matrix => mx
    | .push => pu)

/-- A deferred error is reported before anything else the instruction does. -/
def State.reporting (s : State) (d : Option Deferred) (go : Res) : Res :=
  match d with
  | some e => s.stop (.owed e 0)
  | none => go

/-! ### The L1 instruction cache: 4 ways of 128 sets (R58, R59) -/

/-- A line of code enters a core's L1 instruction cache, with its bytes as they are now; a full set loses its lowest line (log 49). -/
def State.keepCode (s : State) (c : Nat) (e : TlbEntry) (pa : Nat) : State :=
  let line := lineOf pa
  let t := s.clearSite (codeSite c line)
  let mates : List (Nat × List Byte) := (t.core c).l1i.filter (fun l => decide (l.1 % 128 = line % 128) && l.1 != line)
  let room (l : Tab (List Byte)) : Tab (List Byte) := match mates with
    | m :: _ => if mates.length < 4 then l else Tab.erase l m.1
    | [] => l
  t.updCore c (fun a => { a with l1i := Tab.set (room a.l1i) line ((s.memUnder (e.keyAt pa)).readBytes (64 * line) 64) })

/-- A line of code is fetched from the slices (R58), and kept. -/
def State.fillL1i (s : State) (c : Nat) (e : TlbEntry) (pa : Nat) : State :=
  (s.serve ⟨c / 4, none⟩ pa false (treatOf e.mt 0) e.replica).keepCode c e pa

/-! ### The hart's own paths (R114) and its releases (R133, R285) -/

/-- The elements of a list from the front whose lines are at most `n` beside those seen: the line requests that a quad's load-store
path holds at once (R6, R75). -/
def withinLines {α : Type} (line : α → Nat) : Nat → List Nat → List α → List α
  | _, _, [] => []
  | n, seen, x :: t =>
    if seen.contains (line x) then x :: withinLines line n seen t
    else match n with
      | 0 => []
      | m + 1 => x :: withinLines line m (line x :: seen) t

/-- A queued vector store or atomic writes some of `n` bytes at `pa`. -/
def VOp.writesMem (o : VOp) (pa n : Nat) : Bool :=
  let hit (w : Nat) (e : QEl) : Bool := decide (e.at_ / 2 < pa + n) && decide (pa < e.at_ / 2 + (w + 7) / 8)
  match o with
  | .store _ w _ el => el.any (hit w)
  | .amo _ _ w el => el.any (hit w)
  | _ => false

/-- A queued vector store or atomic reaches a device page. -/
def VOp.toDevice (o : VOp) : Bool :=
  match o with
  | .store _ _ _ el => el.any (fun e => decide (e.tr = .device))
  | .amo _ _ _ el => el.any (fun e => decide (e.tr = .device))
  | _ => false

/-- An operation that writes memory when it executes. -/
def VOp.isStore : VOp → Bool
  | .store _ _ _ _ => true
  | .amo _ _ _ _ => true
  | _ => false

/-- An operation that reads memory when it executes. -/
def VOp.isAmo : VOp → Bool
  | .amo _ _ _ _ => true
  | _ => false

/-- A write of the hart waits for the reads of its queued VAMOs (R119), and so do an acquire fence and what follows it (R133). -/
def Hart.amoWait (a : Hart) : Bool := a.vq.any (fun c => c.op.isAmo)

/-- A hart waits while its own queued vector work is still to write the bytes it accesses (R114); a write waits for that work's reads
(R119); an access of a device page waits while it is still to reach any device page (R27, R265). -/
def Hart.pathBusy (a : Hart) (dev write : Bool) (pa n : Nat) : Option Stop :=
  parkIf ((write && a.amoWait) || a.vq.any (fun c => c.op.writesMem pa n || (dev && c.op.toDevice))) .faultPoint

/-- A release performs the hart's earlier vector stores first (R133, R285). -/
def Hart.releaseWait (a : Hart) : Option Stop := parkIf (a.vq.any (fun c => c.op.isStore)) .fence

/-- A release writes back the dirty lines of the core's L1 data cache (R112, R133). -/
def State.cleanCore (s : State) (c : Nat) : State :=
  let t := ((s.core c).l1d.filter (·.2)).foldl (fun u l => u.writeHome l.1) s
  t.updCore c (fun a => { a with l1d := a.l1d.map (fun l => (l.1, false)) })

/-- What a translated scalar access still meets: a store error on its line (R180), the hart's own queued stores (R114), full miss
registers (R75). -/
def State.pathStop (s : State) (c : Acc) (n : Nat) : Option Stop :=
  match s.me.storeError (lineOf c.pa) with
  | some d => some (.owed d 0)
  | none => firstStop [s.me.pathBusy (decide (c.e.mt = .device)) c.write c.pa n, s.missWait (coreOf s.cur) c]
/-- A translated scalar access goes on, or stops. -/
def State.paths (s : State) (c : Acc) (n : Nat) (go : Res) : Res :=
  match s.pathStop c n with
  | some st => s.stop st
  | none => go

/-- The slide buffer holds some of `n` bytes at a device physical address. -/
def Slide.overlaps (w : Slide) (pa n : Nat) : Bool := w.pas.any (fun p => decide (pa ≤ p) && decide (p < pa + n))

/-- The hart has read some bytes: what its slide buffer holds of them may be older, and goes (R118, R167). -/
def Hart.sees (a : Hart) (pa n : Nat) : Hart :=
  match a.slide with
  | none => a
  | some w => if w.overlaps pa n then { a with slide := some { w with bytes := [], pas := [] } } else a

/-- A store of the hart into bytes of its slide buffer discards the buffer (R114, R167). -/
def Hart.storedAt (a : Hart) (va : Word) (pa n : Nat) : Hart :=
  match a.slide with
  | none => a
  | some w =>
    if w.overlaps pa n || w.bytes.any (fun b => decide (va.toNat ≤ b.1) && decide (b.1 < va.toNat + n)) then { a with slide := none }
    else a

/-- An acquire of the hart discards its slide buffer (R167). -/
def Hart.acquired (a : Hart) : Hart := { a with slide := none }
/-- An acquire of the hart at issue. -/
def State.acquires (s : State) : State := s.updMe Hart.acquired

/-- The store buffer's part of a store: bytes merged; a bad line owes the hart cause 7 and is logged (R81, R180). -/
def State.storeAt (s : State) (h : Nat) (va : Word) (key pa n v : Nat) : State :=
  let t := s.storeData h key pa n v
  let u := if s.badRange pa n && !isMmio pa then
      (t.logUse h (s.unitOf (some (coreOf h)) pa) 7 pa).updHart h (fun a => { a with
        deferred := a.deferred ++ [.store (lineOf pa) va] })
    else t
  u.updHart h (fun a => a.storedAt va pa n)

end Sys2Proof.Machine
end

