-- ==== Sys2Proof/Machine/Operands.lean ====
section
/-!
DEFINITION. Operand forms: the values of the standard scalar operations (R217), the element types and the elements of
register groups (R190 to R192), the forms of a vector's second source (R308).
-/
namespace Sys2Proof.Machine

/-! ### Scalar integer results (R217) -/

/-- The low 32 bits, sign-extended. -/
def sext32 (v : Word) : Word := (v.setWidth 32).signExtend 64
/-- The low 32 bits, zero-extended. -/
def zext32 (v : Word) : Word := (v.setWidth 32).setWidth 64

/-- The high 64 bits of a product of two integers. -/
def mulHigh (a b : Int) : Word := BitVec.ofInt 64 (a * b / 2 ^ 64)

/-- Register-register operations. -/
def rrResult (op : RROp) (a b : Word) : Word :=
  let sh := b.toNat % 64
  let shw := b.toNat % 32
  match op with
  | .add => a + b
  | .sub => a - b
  | .sll => a <<< sh
  | .slt => if a.slt b then 1 else 0
  | .sltu => if a.ult b then 1 else 0
  | .xor => a ^^^ b
  | .srl => a >>> sh
  | .sra => a.sshiftRight sh
  | .or => a ||| b
  | .and => a &&& b
  | .addw => sext32 (a + b)
  | .subw => sext32 (a - b)
  | .sllw => sext32 (a <<< shw)
  | .srlw => ((a.setWidth 32) >>> shw).signExtend 64
  | .sraw => ((a.setWidth 32).sshiftRight shw).signExtend 64
  | .mul => a * b
  | .mulh => mulHigh a.toInt b.toInt
  | .mulhsu => mulHigh a.toInt b.toNat
  | .mulhu => mulHigh a.toNat b.toNat
  | .mulw => sext32 (a * b)
  | .sh1add => (a <<< 1) + b
  | .sh2add => (a <<< 2) + b
  | .sh3add => (a <<< 3) + b
  | .adduw => zext32 a + b
  | .sh1adduw => (zext32 a <<< 1) + b
  | .sh2adduw => (zext32 a <<< 2) + b
  | .sh3adduw => (zext32 a <<< 3) + b
  | .andn => a &&& ~~~b
  | .orn => a ||| ~~~b
  | .xnor => ~~~(a ^^^ b)
  | .min => if a.slt b then a else b
  | .max => if a.slt b then b else a
  | .minu => if a.ult b then a else b
  | .maxu => if a.ult b then b else a
  | .rol => a.rotateLeft sh
  | .ror => a.rotateRight sh
  | .rolw => ((a.setWidth 32).rotateLeft shw).signExtend 64
  | .rorw => ((a.setWidth 32).rotateRight shw).signExtend 64

/-- Ones among the low `n` bits. -/
def popCount (n v : Nat) : Nat := ((List.range n).filter (fun k => v / 2 ^ k % 2 == 1)).length
/-- Leading zeros of a number in `n` bits. -/
def leadZeros (n v : Nat) : Nat := if v = 0 then n else n - 1 - Nat.log2 v
/-- Trailing zeros of a number in `n` bits. -/
def trailZeros (n v : Nat) : Nat := ((List.range n).find? (fun k => v / 2 ^ k % 2 == 1)).getD n

/-- One-source operations of Zbb. -/
def unResult (op : UnOp) (a : Word) : Word :=
  let w := a.toNat % 2 ^ 32
  match op with
  | .clz => BitVec.ofNat 64 (leadZeros 64 a.toNat)
  | .ctz => BitVec.ofNat 64 (trailZeros 64 a.toNat)
  | .cpop => BitVec.ofNat 64 (popCount 64 a.toNat)
  | .clzw => BitVec.ofNat 64 (leadZeros 32 w)
  | .ctzw => BitVec.ofNat 64 (trailZeros 32 w)
  | .cpopw => BitVec.ofNat 64 (popCount 32 w)
  | .sextb => (a.setWidth 8).signExtend 64
  | .sexth => (a.setWidth 16).signExtend 64
  | .zexth => (a.setWidth 16).setWidth 64
  | .rev8 => BitVec.ofNat 64 (leNat (leBytes 8 a.toNat).reverse)
  | .orcb => BitVec.ofNat 64 (leNat ((leBytes 8 a.toNat).map (fun b => if b = 0 then 0 else 0xFF)))

/-- Register-immediate operations. -/
def immResult (op : ImmOp) (a : Word) (i : BitVec 12) : Word :=
  let v : Word := i.signExtend 64
  match op with
  | .addi => a + v
  | .slti => if a.slt v then 1 else 0
  | .sltiu => if a.ult v then 1 else 0
  | .xori => a ^^^ v
  | .ori => a ||| v
  | .andi => a &&& v
  | .addiw => sext32 (a + v)

/-- Shifts by an immediate. -/
def shResult (op : ShOp) (a : Word) (n : Nat) : Word :=
  match op with
  | .slli => a <<< n
  | .srli => a >>> n
  | .srai => a.sshiftRight n
  | .rori => a.rotateRight n
  | .slliuw => zext32 a <<< n

/-- Word shifts by an immediate. -/
def shwResult (op : ShWOp) (a : Word) (n : Nat) : Word :=
  let w := a.setWidth 32
  match op with
  | .slliw => (w <<< n).signExtend 64
  | .srliw => (w >>> n).signExtend 64
  | .sraiw => (w.sshiftRight n).signExtend 64
  | .roriw => (w.rotateRight n).signExtend 64

/-- Branch conditions. -/
def branchTaken (op : BrOp) (a b : Word) : Bool :=
  match op with
  | .beq => a == b
  | .bne => a != b
  | .blt => a.slt b
  | .bge => !(a.slt b)
  | .bltu => a.ult b
  | .bgeu => !(a.ult b)

/-- Divides and remainders: by zero and on overflow as the standard says. -/
def divResult (op : DivOp) (a b : Word) : Word :=
  let wa : BitVec 32 := a.setWidth 32
  let wb : BitVec 32 := b.setWidth 32
  match op with
  | .div => if b = 0 then BitVec.allOnes 64 else BitVec.ofInt 64 (a.toInt.tdiv b.toInt)
  | .divu => if b = 0 then BitVec.allOnes 64 else BitVec.ofNat 64 (a.toNat / b.toNat)
  | .rem => if b = 0 then a else BitVec.ofInt 64 (a.toInt.tmod b.toInt)
  | .remu => if b = 0 then a else BitVec.ofNat 64 (a.toNat % b.toNat)
  | .divw => if wb = 0 then BitVec.allOnes 64 else (BitVec.ofInt 32 (wa.toInt.tdiv wb.toInt)).signExtend 64
  | .divuw => if wb = 0 then BitVec.allOnes 64 else (BitVec.ofNat 32 (wa.toNat / wb.toNat)).signExtend 64
  | .remw => if wb = 0 then sext32 a else (BitVec.ofInt 32 (wa.toInt.tmod wb.toInt)).signExtend 64
  | .remuw => if wb = 0 then sext32 a else (BitVec.ofNat 32 (wa.toNat % wb.toNat)).signExtend 64

/-! ### Scalar floating results: F and D (R193: standard) -/

/-- The format of F or D. -/
def fmtOf : FFmt → Fmt
  | .s => fmtF32
  | .d => fmtF64

/-- A register read as an F or D code: an F value that is not NaN-boxed reads as the canonical NaN. -/
def unbox (f : FFmt) (v : Word) : Nat :=
  match f with
  | .d => v.toNat
  | .s => if v.toNat / 2 ^ 32 = 2 ^ 32 - 1 then v.toNat % 2 ^ 32 else 0x7FC00000
/-- An F or D code as a register holds it: F codes are NaN-boxed. -/
def boxed (f : FFmt) (c : Nat) : Word :=
  match f with
  | .d => BitVec.ofNat 64 c
  | .s => BitVec.ofNat 64 (0xFFFFFFFF00000000 + c % 2 ^ 32)

/-- IEEE rounding of F and D: tininess is detected after rounding as if the exponent had no lower bound. -/
def roundScalar (f : Fmt) (mode : RMode) (r : FVal × Flags) : Nat × Flags :=
  match r.1 with
  | .fin n x =>
    if x.num = 0 then (f.signed n 0, r.2)
    else
      let c := roundFin f mode false n x
      let free := roundMag f.m (x.log2) mode n x
      let tiny := decide (x.log2 < f.emin) && !(decide (x.log2 + 1 = f.emin) && decide (free.1 ≥ 2 * 2 ^ f.m))
      let inexact := decide (c.2 &&& fNX ≠ 0)
      (c.1, (c.2 &&& ~~~fUF) ||| flagIf (tiny && inexact) fUF ||| r.2)
  | v =>
    let c := roundVal f mode false v
    (c.1, c.2 ||| r.2)

/-- The value of an F or D register. -/
def fvalOf (f : FFmt) (v : Word) : FVal := decodeF (fmtOf f) (unbox f v)

/-- Two-source arithmetic. -/
def farithResult (op : FArith) (f : FFmt) (mode : RMode) (a b : Word) : Word × Flags :=
  let x := fvalOf f a
  let y := fvalOf f b
  let r := match op with
    | .add => addV mode x y
    | .sub => addV mode x y.negate
    | .mul => mulV x y
  let c := roundScalar (fmtOf f) mode r
  (boxed f c.1, c.2)

/-- Fused operations: a × b + c, a × b − c, −(a × b) + c, −(a × b) − c. -/
def ffusedResult (op : FFused) (f : FFmt) (mode : RMode) (a b c : Word) : Word × Flags :=
  let x := fvalOf f a
  let y := fvalOf f b
  let z := fvalOf f c
  let r := match op with
    | .madd => fmaV mode x y z
    | .msub => fmaV mode x y z.negate
    | .nmsub => fmaV mode x.negate y z
    | .nmadd => fmaV mode x.negate y z.negate
  let k := roundScalar (fmtOf f) mode r
  (boxed f k.1, k.2)

/-- Sign injection, minimum and maximum. -/
def fpairResult (op : FPair) (f : FFmt) (a b : Word) : Word × Flags :=
  let w := (fmtOf f).w
  let x := unbox f a
  let y := unbox f b
  let sgn (v : Nat) : Nat := v / 2 ^ (w - 1) % 2
  let mag := x % 2 ^ (w - 1)
  let minmax (mx : Bool) : Word × Flags :=
    let u := decodeF (fmtOf f) x
    let v := decodeF (fmtOf f) y
    let nv := flagIf (u.isSig || v.isSig) fNV
    match minmaxTakesB mx u v with
    | none => (boxed f (fmtOf f).nanCode, nv)
    | some true => (boxed f y, nv)
    | some false => (boxed f x, nv)
  match op with
  | .sgnj => (boxed f (mag + sgn y * 2 ^ (w - 1)), 0)
  | .sgnjn => (boxed f (mag + (1 - sgn y) * 2 ^ (w - 1)), 0)
  | .sgnjx => (boxed f (mag + (sgn x + sgn y) % 2 * 2 ^ (w - 1)), 0)
  | .min => minmax false
  | .max => minmax true

/-- Compares: FEQ is quiet, FLT and FLE signal on any NaN. -/
def fcmpResult (op : FCmp) (f : FFmt) (a b : Word) : Word × Flags :=
  let x := fvalOf f a
  let y := fvalOf f b
  let nan := x.isNan || y.isNan
  let sig := x.isSig || y.isSig
  let bit (v : Bool) : Word := if v then 1 else 0
  match op with
  | .eq => (bit (!nan && eqV x y), flagIf sig fNV)
  | .lt => (bit (!nan && ltV x y), flagIf nan fNV)
  | .le => (bit (!nan && (ltV x y || eqV x y)), flagIf nan fNV)

/-- The range of a conversion's integer side. -/
def fintRange : FInt → Int × Int
  | .w => (-2147483648, 2147483647)
  | .wu => (0, 4294967295)
  | .l => (-9223372036854775808, 9223372036854775807)
  | .lu => (0, 18446744073709551615)

/-- Floating to integer; 32-bit results are sign-extended. -/
def ftoiResult (t : FInt) (f : FFmt) (mode : RMode) (a : Word) : Word × Flags :=
  let r := toIntV mode (fintRange t).1 (fintRange t).2 (fvalOf f a)
  let v : Word := BitVec.ofInt 64 r.1
  (match t with
    | .w => sext32 v
    | .wu => sext32 v
    | .l => v
    | .lu => v, r.2)

/-- Integer to floating. -/
def itofResult (f : FFmt) (t : FInt) (mode : RMode) (a : Word) : Word × Flags :=
  let i : Int := match t with
    | .w => (a.setWidth 32).toInt
    | .wu => (a.setWidth 32).toNat
    | .l => a.toInt
    | .lu => a.toNat
  let c := roundScalar (fmtOf f) mode (intV i, 0)
  (boxed f c.1, c.2)

/-- FCVT.S.D and FCVT.D.S: `f` is the destination. -/
def fcvtResult (f : FFmt) (mode : RMode) (a : Word) : Word × Flags :=
  let src : FFmt := match f with
    | .s => .d
    | .d => .s
  let c := roundScalar (fmtOf f) mode (fvalOf src a, 0)
  (boxed f c.1, c.2)

/-- Divide and square root. -/
def fdivsqrtResult (sqrt : Bool) (f : FFmt) (mode : RMode) (a b : Word) : Word × Flags :=
  let r := if sqrt then sqrtV (fvalOf f a) else divV (fvalOf f a) (fvalOf f b)
  let c := roundScalar (fmtOf f) mode r
  (boxed f c.1, c.2)

/-- The rounding mode of an F or D instruction: 7 takes frm; a reserved mode names none. -/
def Hart.rmode (a : Hart) (rm : BitVec 3) : Option RMode := modeOf (if rm = 7 then a.frm.toNat else rm.toNat)

/-! ### Element types (R190 to R192) -/

/-- Width in bits of an element type; an nf type's from its format register (R192): 4 when W is 4, else 8. -/
def etWidth (fmt : List Word) (et : Nat) : Nat :=
  if et < 8 then 8 * 2 ^ (et % 4)
  else if et = 8 ∨ et = 9 then 16
  else if et = 10 then 32
  else if et = 11 then 64
  else if (fmtOfReg (fmt.getD (et - 12) 0)).w = 4 then 4 else 8

/-- An integer type's elements are signed (R190). -/
def etSigned (et : Nat) : Bool := decide (et < 4)
/-- An integer type. -/
def etInt (et : Nat) : Bool := decide (et < 8)

/-- The floating format of a type (R193, R195). -/
def etFmt (fmt : List Word) (et : Nat) : Fmt :=
  if et = 8 then fmtF16
  else if et = 9 then fmtBf16
  else if et = 10 then fmtF32
  else if et = 11 then fmtF64
  else fmtOfReg (fmt.getD (et - 12) 0)

/-- The format registers of a hart, as captured at issue (R199). -/
def Hart.fmts (a : Hart) : List Word := a.fmt.toList
/-- An nf type whose format register has V = 0 (R196). -/
def Hart.fmtInvalid (a : Hart) (et : Nat) : Bool := decide (et ≥ 12) && !(bitOf (a.fmts.getD (et - 12) 0) 63)

/-- The signed or unsigned value of a w-bit code. -/
def intOf (signed : Bool) (w c : Nat) : Int := if signed then (BitVec.ofNat w c).toInt else ((c % 2 ^ w : Nat) : Int)
/-- The w-bit code of an integer. -/
def codeOf (w : Nat) (i : Int) : Nat := (BitVec.ofInt w i).toNat
/-- The range of an integer type of width w. -/
def intRange (signed : Bool) (w : Nat) : Int × Int :=
  if signed then (-(2 ^ (w - 1) : Nat), ((2 ^ (w - 1) - 1 : Nat) : Int)) else (0, ((2 ^ w - 1 : Nat) : Int))
/-- sat (R215): the clamped value and SAT. -/
def satInt (signed : Bool) (w : Nat) (i : Int) : Int × Flags :=
  let r := intRange signed w
  if i < r.1 then (r.1, fSAT) else if i > r.2 then (r.2, fSAT) else (i, 0)

/-! ### Elements of register groups (R191) -/

/-- Element `e` of width `w` of the group that starts at register `n`. -/
def Hart.elem (a : Hart) (n w e : Nat) : Nat :=
  (a.vv (n + e * w / 1024)).toNat / 2 ^ (e * w % 1024) % 2 ^ w

/-- `w` bits at a bit offset of a 1,024-bit register replaced. -/
def putBits (v : BitVec 1024) (off w c : Nat) : BitVec 1024 :=
  let n := v.toNat
  BitVec.ofNat 1024 (n % 2 ^ off + c % 2 ^ w * 2 ^ off + n / 2 ^ (off + w) * 2 ^ (off + w))

/-- Register `n`'s value replaced; its presence is settled when the writing instruction issues (R172, R309). -/
def Hart.setV (a : Hart) (n : Nat) (v : BitVec 1024) : Hart :=
  { a with v := setReg a.v (regNo n) { getReg a.v (regNo n) with val := v } }

/-- The registers of a group present and unmarked. -/
def Hart.presentV (a : Hart) (n g : Nat) : Hart :=
  (List.range g).foldl (fun t k =>
    { t with v := setReg t.v (regNo (n + k)) ⟨(getReg t.v (regNo (n + k))).val, .present, none⟩ }) a
/-- The registers of a group open, unmarked. -/
def Hart.openV (a : Hart) (n g : Nat) : Hart :=
  (List.range g).foldl (fun t k =>
    { t with v := setReg t.v (regNo (n + k)) ⟨(getReg t.v (regNo (n + k))).val, .opened, none⟩ }) a
/-- The registers of a group pending. -/
def Hart.pendV (a : Hart) (n g : Nat) : Hart := (List.range g).foldl (fun t k => t.presV (n + k) .pending) a

/-- A byte range of register `n` counts as written (R260). -/
def Hart.wrote (a : Hart) (n topByte : Nat) : Hart :=
  { a with
    dirty := a.dirty ||| (1#32 <<< (n % 32))
    hwb := if a.hwb.toNat < topByte then BitVec.ofNat 8 topByte else a.hwb }

/-- Element `e` of a group written. -/
def Hart.setElem (a : Hart) (n w e c : Nat) : Hart :=
  let r := n + e * w / 1024
  let off := e * w % 1024
  (a.setV r (putBits (a.vv r) off w c)).wrote r ((off + w + 7) / 8)

/-- Elements written in order. -/
def Hart.setElems (a : Hart) (n w : Nat) : List (Nat × Nat) → Hart
  | [] => a
  | (e, c) :: t => (a.setElem n w e c).setElems n w t

/-- Bit `e` of a predicate; p0 is all ones (R220). -/
def Hart.pbit (a : Hart) (p e : Nat) : Bool :=
  if p % 8 = 0 then true else (a.p[p % 8]'(Nat.mod_lt p (by decide))).getLsbD e
/-- A predicate's bits. -/
def Hart.pv (a : Hart) (p : Nat) : BitVec 2048 := a.p[p % 8]'(Nat.mod_lt p (by decide))
/-- A predicate replaced. -/
def Hart.setP (a : Hart) (p : Nat) (v : BitVec 2048) : Hart :=
  { a with p := a.p.set (p % 8) v (Nat.mod_lt p (by decide)) }

/-- A predicate value from a function of bits below `n`, 0 from `n` upward. -/
def bitsUpTo (n : Nat) (f : Nat → Bool) : BitVec 2048 :=
  BitVec.ofNat 2048 ((List.range n).foldl (fun acc e => if f e then acc + 2 ^ e else acc) 0)

end Sys2Proof.Machine
end

