-- ==== Sys2Proof/Machine/ScalarAlu.lean ====
section
/-!
DEFINITION. SCALAR_ALU, INTEGER_DIVIDE and FP_DIVIDE_SQRT: the standard arithmetic (R170, R217).
-/
namespace Sys2Proof.Machine

/-- A fixed x result of x sources (R170, R172, R173). -/
def State.fixedX (s : State) (src : List Reg) (d : Reg) (v : Word) : Res :=
  s.guarded [s.me.ready (xs src) (xs [d])] (.next (s.updMe (fun a => (a.setX d v).advance 4)))

/-- A fixed f result of some sources, with fflags. -/
def State.fixedF (s : State) (src : List (RFile × Nat)) (d : Reg) (r : Word × Flags) : Res :=
  s.guarded [s.me.ready src (fs [d])] (.next (s.updMe (fun a => ((a.setF d r.1).orFFlags r.2).advance 4)))

/-- A fixed x result of some sources, with fflags. -/
def State.fixedXF (s : State) (src : List (RFile × Nat)) (d : Reg) (r : Word × Flags) : Res :=
  s.guarded [s.me.ready src (xs [d])] (.next (s.updMe (fun a => ((a.setX d r.1).orFFlags r.2).advance 4)))

/-- A jump: the link register receives the address of the next instruction. -/
def State.jump (s : State) (src : List Reg) (d : Reg) (target : Word) : Res :=
  s.guarded [s.me.ready (xs src) (xs [d])]
    (.next (s.updMe (fun a => { a.setX d (a.pc + 4) with pc := target, park := none })))

/-- An F or D operation that rounds: a reserved mode raises cause 2. -/
def State.rounded (s : State) (i : Instr) (rm : BitVec 3) (k : RMode → Res) : Res :=
  match s.me.rmode rm with
  | none => s.illegal i
  | some m => k m

/-- SCALAR_ALU (R170). -/
def execScalarAlu (i : AluInstr) (s : State) : Res :=
  let a := s.me
  match i with
  | .rr op d x y => s.fixedX [x, y] d (rrResult op (a.xv x) (a.xv y))
  | .un op d x => s.fixedX [x] d (unResult op (a.xv x))
  | .imm op d x v => s.fixedX [x] d (immResult op (a.xv x) v)
  | .sh op d x n => s.fixedX [x] d (shResult op (a.xv x) n.toNat)
  | .shw op d x n => s.fixedX [x] d (shwResult op (a.xv x) n.toNat)
  | .lui d v => s.fixedX [] d ((v ++ (0 : BitVec 12)).signExtend 64)
  | .auipc d v => s.fixedX [] d (a.pc + (v ++ (0 : BitVec 12)).signExtend 64)
  | .branch op x y off =>
    s.guarded [a.ready (xs [x, y]) []]
      (.next (s.updMe (fun a =>
        if branchTaken op (a.xv x) (a.xv y) then
          { a with pc := a.pc + (off ++ (0 : BitVec 1)).signExtend 64, park := none }
        else a.advance 4)))
  | .jal d off => s.jump [] d (a.pc + (off ++ (0 : BitVec 1)).signExtend 64)
  | .jalr d x v => s.jump [x] d ((a.xv x + v.signExtend 64) &&& 0xFFFFFFFFFFFFFFFE#64)
  | .farith op f rm d x y =>
    s.rounded (.scalarAlu i) rm (fun m => s.fixedF (fs [x, y]) d (farithResult op f m (a.fv x) (a.fv y)))
  | .ffused op f rm d x y z =>
    s.rounded (.scalarAlu i) rm (fun m =>
      s.fixedF (fs [x, y, z]) d (ffusedResult op f m (a.fv x) (a.fv y) (a.fv z)))
  | .fpair op f d x y => s.fixedF (fs [x, y]) d (fpairResult op f (a.fv x) (a.fv y))
  | .fcmp op f d x y => s.fixedXF (fs [x, y]) d (fcmpResult op f (a.fv x) (a.fv y))
  | .ftoi t f rm d x => s.rounded (.scalarAlu i) rm (fun m => s.fixedXF (fs [x]) d (ftoiResult t f m (a.fv x)))
  | .itof f t rm d x => s.rounded (.scalarAlu i) rm (fun m => s.fixedF (xs [x]) d (itofResult f t m (a.xv x)))
  | .fcvt f rm d x => s.rounded (.scalarAlu i) rm (fun m => s.fixedF (fs [x]) d (fcvtResult f m (a.fv x)))
  | .fmvx f d x =>
    s.fixedXF (fs [x]) d (match f with
      | .s => (sext32 (a.fv x), 0)
      | .d => (a.fv x, 0))
  | .fmvf f d x => s.fixedF (xs [x]) d (boxed f (a.xv x).toNat, 0)
  | .fclass f d x => s.fixedXF (fs [x]) d (BitVec.ofNat 64 (classMask (fmtOf f) (fvalOf f (a.fv x))), 0)

/-- INTEGER_DIVIDE: a late result (R170, R172). -/
def execIntegerDivide (op : DivOp) (d a b : Reg) (s : State) : Res :=
  s.guarded [s.me.ready (xs [a, b]) (xs [d])]
    (.next (s.updMe (fun h => (h.owe ⟨.x, d, divResult op (h.xv a) (h.xv b), none, none⟩).advance 4)))

/-- FP_DIVIDE_SQRT: a late result (R170, R172); its flags join fflags at issue. -/
def execFpDivideSqrt (sqrt : Bool) (f : FFmt) (rm : BitVec 3) (d a b : Reg) (s : State) : Res :=
  s.rounded (.fpDivideSqrt sqrt f rm d a b) rm (fun m =>
    let r := fdivsqrtResult sqrt f m (s.me.fv a) (s.me.fv b)
    s.guarded [s.me.ready (fs (if sqrt then [a] else [a, b])) (fs [d])]
      (.next (s.updMe (fun h => ((h.owe ⟨.f, d, r.1, none, none⟩).orFFlags r.2).advance 4))))

end Sys2Proof.Machine
end

