-- ==== Sys2Proof/Machine/Shape.lean ====
section
/-!
DEFINITION. The shape record (R147), its loop nest (R151), and which vector registers queued work reads and writes (R154,
R179).
-/
namespace Sys2Proof.Machine

/-! ### The shape record (R147) -/

/-- A shape register's 96 bytes. -/
abbrev Shape := BitVec 768

/-- Word `k` of a record. -/
def Shape.word (r : Shape) (k : Nat) : Nat := r.toNat / 2 ^ (64 * k) % 2 ^ 64
/-- Source kind. -/
def Shape.sk (r : Shape) : Nat := fieldOf (r.word 0) 60 4
/-- Destination kind. -/
def Shape.dk (r : Shape) : Nat := fieldOf (r.word 0) 56 4
/-- Active levels. -/
def Shape.nlv (r : Shape) : Nat := fieldOf (r.word 0) 53 3
/-- Element size in bytes. -/
def Shape.esz (r : Shape) : Nat := 2 ^ fieldOf (r.word 0) 51 2
/-- PSH: 1 pushes from copy to matrix. -/
def Shape.psh (r : Shape) : Bool := fieldOf (r.word 0) 50 1 == 1
/-- POP: 1 pops from matrix to copy. -/
def Shape.pop (r : Shape) : Bool := fieldOf (r.word 0) 49 1 == 1
/-- Reserved fields are 0. -/
def Shape.rsvOk (r : Shape) : Bool := decide (fieldOf (r.word 0) 32 17 = 0) && decide (fieldOf (r.word 5) 32 32 = 0)
/-- Bytes of a run. -/
def Shape.run (r : Shape) : Nat := fieldOf (r.word 0) 0 32
/-- The barrier's address. -/
def Shape.ctgt (r : Shape) : Nat := r.word 1
/-- Tile origins. -/
def Shape.srow (r : Shape) : Nat := fieldOf (r.word 2) 48 16
def Shape.scol (r : Shape) : Nat := fieldOf (r.word 2) 32 16
def Shape.drow (r : Shape) : Nat := fieldOf (r.word 2) 16 16
def Shape.dcol (r : Shape) : Nat := fieldOf (r.word 2) 0 16
/-- The completion record's address. -/
def Shape.crec (r : Shape) : Nat := r.word 3 / 64 * 64
/-- The operation. -/
def Shape.opn (r : Shape) : Nat := fieldOf (r.word 3) 0 2
/-- Cache policies of source and destination memory accesses (R27). -/
def Shape.scp (r : Shape) : Nat := fieldOf (r.word 3) 4 2
def Shape.dcp (r : Shape) : Nat := fieldOf (r.word 3) 2 2
/-- Trips of a level. -/
def Shape.trip (r : Shape) (l : Nat) : Nat :=
  if l < 4 then fieldOf (r.word 4) (16 * l) 16 else fieldOf (r.word 5) (16 * (l - 4)) 16
/-- Strides of a level, as 32 bits. -/
def Shape.sstr (r : Shape) (l : Nat) : Nat := fieldOf (r.word (6 + l)) 32 32
def Shape.dstr (r : Shape) (l : Nat) : Nat := fieldOf (r.word (6 + l)) 0 32
/-- Trips of the active levels, level 0 first. -/
def Shape.trips (r : Shape) : List Nat := (List.range r.nlv).map r.trip
/-- Runs of the nest. -/
def Shape.runs (r : Shape) : Nat := r.trips.foldl (· * ·) 1

/-- The loop indices of a run number, level 0 first (R151). -/
def indices : List Nat → Nat → List Nat
  | [], _ => []
  | t :: ts, n => n % t :: indices ts (n / t)

/-- The sum over levels of index × stride. -/
def stepSum (stride : Nat → Int) : Nat → List Nat → Int
  | _, [] => 0
  | l, i :: t => (i : Int) * stride l + stepSum stride (l + 1) t

/-- The byte displacement of a run at an endpoint of signed byte strides. -/
def Shape.disp (r : Shape) (src : Bool) (n : Nat) : Int :=
  stepSum (fun l => toSigned 32 (if src then r.sstr l else r.dstr l)) 0 (indices r.trips n)
/-- The row and column displacement of a run at a tile. -/
def Shape.tileDisp (r : Shape) (src : Bool) (n : Nat) : Int × Int :=
  let st (l : Nat) : Nat := if src then r.sstr l else r.dstr l
  (stepSum (fun l => toSigned 16 (st l / 65536)) 0 (indices r.trips n),
   stepSum (fun l => toSigned 16 (st l % 65536)) 0 (indices r.trips n))

/-! ### Registers that queued work reads and writes (R154, R179) -/

/-- Registers of the narrower and the wider group of a conversion (R320). -/
def cvtGroup (g own other : Nat) : Nat := if own < other then max 1 (g * own / other) else g

/-- Registers a second source names. -/
def VSrc.regs (s : VSrc) (g : Nat) : List Nat :=
  match s with
  | .reg n => span n g
  | .scalar _ => []
  | .imm _ => []

/-- Registers an operation reads. -/
def VCmd.reads (c : VCmd) : List Nat :=
  let g := c.g
  match c.op with
  | .int _ _ _ d src => span d g ++ src.regs g
  | .flt _ _ _ d src => span d g ++ src.regs g
  | .one _ _ _ _ s => span s g
  | .three op _ _ d a b => (match op with
      | .wmul => []
      | .wmac => span d (2 * g)
      | _ => span d g) ++ span a g ++ span b g
  | .cmp _ _ _ d src => span d g ++ src.regs g
  | .sel _ _ d src => span d g ++ src.regs g
  | .scale _ _ d s => s :: span d g
  | .cvt et ets _ _ s _ _ _ => span s (cvtGroup g (etWidth c.fmt ets) (etWidth c.fmt et))
  | .mv _ _ _ src => src.regs g
  | .slup _ _ d _ => span d g
  | .sldn _ _ d _ => span d g
  | .sl1up _ _ d _ => span d g
  | .xchg _ _ d _ => span d g
  | .perm _ _ d s => span d g ++ span s g
  | .compress _ _ _ s => span s g
  | .take _ _ _ s => span s g
  | .red _ _ _ d s => d :: span s g
  | .pred _ _ _ _ => []
  | .pset _ _ => []
  | .pfirst _ _ => []
  | .pcnt _ _ => []
  | .mvx et _ s idx => [s + idx * etWidth c.fmt et / 1024]
  | .mvs _ _ _ _ => []
  | .copy _ s g => span s g
  | .push _ => []
  | .pop _ => []
  | .store d _ _ _ => span d g
  | .amo _ d _ _ => span d g

/-- Registers an operation writes. -/
def VCmd.writes (c : VCmd) : List Nat :=
  let g := c.g
  match c.op with
  | .int _ _ _ d _ => span d g
  | .flt _ _ _ d _ => span d g
  | .one _ _ _ d _ => span d g
  | .three op _ _ d _ _ => (match op with
      | .wmul => span d (2 * g)
      | .wmac => span d (2 * g)
      | _ => span d g)
  | .cmp _ _ _ _ _ => []
  | .sel _ _ d _ => span d g
  | .scale _ _ d _ => span d g
  | .cvt et ets _ d _ _ _ _ => span d (cvtGroup g (etWidth c.fmt et) (etWidth c.fmt ets))
  | .mv _ _ d _ => span d g
  | .slup _ _ d _ => span d g
  | .sldn _ _ d _ => span d g
  | .sl1up _ _ d _ => span d g
  | .xchg _ _ d _ => span d g
  | .perm _ _ d _ => span d g
  | .compress _ _ d _ => span d g
  | .take _ _ d _ => span d g
  | .red _ _ _ d _ => [d]
  | .pred _ _ _ _ => []
  | .pset _ _ => []
  | .pfirst _ _ => []
  | .pcnt _ _ => []
  | .mvx _ _ _ _ => []
  | .mvs et d _ idx => [d + idx * etWidth c.fmt et / 1024]
  | .copy d _ g => span d g
  | .push _ => []
  | .pop _ => []
  | .store _ _ _ _ => []
  | .amo _ d _ _ => span d g

/-- Vector registers a matrix operation reads. -/
def MOp.readsV : MOp → List Nat
  | .row _ _ _ _ _ _ _ (.vec r) _ => [r]
  | .ldb _ _ _ _ _ (.vec r) => span r 8
  | .sca _ _ _ _ _ eb => span eb 2
  | _ => []

/-- Vector registers a matrix operation writes: MRD's. -/
def MOp.writesV : MOp → List Nat
  | .rd _ et d _ => span d (if et = 10 then 8 else 4)
  | _ => []

/-- Two lists share a number. -/
def overlap (a b : List Nat) : Bool := a.any (fun n => b.contains n)

/-- A hart's matrix commands whose results are still to be written, before a position of its work: the head that only
waits to push has written them. -/
def Quad.mBefore (q : Quad) (h seq : Nat) : List MCmd :=
  let l := if q.held.any (fun x => match x.op with
      | .mpush _ => true
      | _ => false) then q.mq.tail else q.mq
  l.filter (fun m => m.hart == h && decide (m.seq < seq))

/-- The vector group of a transfer's VREG source: first register and size (R148). -/
def vregGroup (w : Word) : Nat × Nat := (w.toNat % 32, 2 ^ (w.toNat / 32 % 4))

/-- Its runs are not over, or its record is still to be written. -/
def Stage.early : Stage → Bool
  | .running => true
  | .checked _ _ _ => true
  | _ => false

/-- Registers that a hart's transfers have still to read, of those issued before a position of its work (R154). -/
def Quad.xferReads (q : Quad) (h seq : Nat) : List Nat :=
  ((q.cq ++ q.running).filter (fun x => x.hart == h && decide (x.seq ≤ seq) && decide (Shape.sk x.shape = 3) && x.stage.early)).flatMap
    (fun x => span (vregGroup x.src).1 (vregGroup x.src).2)

/-- R179 and R154 let vector work that reads and writes some registers go on. -/
def Quad.clearFor (q : Quad) (h seq : Nat) (rd wr : List Nat) : Bool :=
  let ms := q.mBefore h seq
  !(ms.any (fun m => overlap m.op.readsV wr || overlap m.op.writesV (rd ++ wr))) && !(overlap (q.xferReads h seq) wr)

end Sys2Proof.Machine
end

