-- ==== Sys2Proof/Machine/Phase.lean ====
section
/-!
DEFINITION. Bandwidth phases (R48 to R52) and the power of banks and ways (R44, R45).
-/
namespace Sys2Proof.Machine

/-- The phase of a quad: the lowest phase in force among its harts with a bound task, 3 with none (R49). -/
def State.phaseOfQuad (s : State) (q : Nat) : Nat :=
  (List.range 32).foldl (fun p k =>
    let a := s.hart (32 * q + k)
    match a.task with
    | none => p
    | some _ => min p a.bwphEff.toNat) 3

/-- A phase lets a way retire (R50); pinned ways never do (R45). -/
def wayMayRetire (ph w : Nat) : Bool :=
  match ph with
  | 0 => false
  | 1 => decide (8 ≤ w)
  | 2 => decide (4 ≤ w)
  | _ => true

/-- The banks and ways of a quad begin to meet a phase (R50, R52). -/
def Quad.meet (a : Quad) (now ph : Nat) : Quad :=
  let b := if ph < 2 then (List.range 32).foldl (fun t k => t.wakeBank now k) a else a
  (List.range 16).foldl (fun t w => if wayMayRetire ph w then t else t.wakeWay now w) b

/-- The banks and ways of a quad meet a phase. -/
def Quad.meets (a : Quad) (ph : Nat) : Bool :=
  (decide (2 ≤ ph) || a.banks.all (fun b => decide (b.2.st ≠ 1) && !(decide (b.2.st = 3) && b.2.ret))) &&
  a.ways.all (fun w => wayMayRetire ph w.1 || decide (w.2.st = 0) || w.2.next.isSome)

/-- The device phase changed: below 2 no quad stays in I3 (R399). -/
def State.setPhase (s : State) (n : Nat) : State :=
  State.limitIdle { s with dph := n } (if n < 2 then (s.quads.filter (fun e => decide (e.2.idle = 3))).map (·.1) else [])

/-- A quad's phase is computed again; a lower one is in force at once, for the device too (R49, R52). -/
def State.lowerPhase (s : State) (q : Nat) : State :=
  let n := s.phaseOfQuad q
  if n < (s.quad q).qph then (s.updQuad q (fun a => { a.meet s.time n with qph := n })).setPhase (min s.dph n) else s

/-- Harts parked for a lowered phase go on when their quad meets it (R52). -/
def State.phaseUnpark (s : State) (q : Nat) : State :=
  if (s.quad q).meets (s.quad q).qph then
    { s with harts := s.harts.map (fun (e : Nat × Hart) =>
        if decide (quadOf e.1 = q) && decide (e.2.park = some .bwph) then (e.1, { e.2 with park := none }) else e) }
  else s

/-- A write of bwph (R48, R52): a lower phase is in force at once and parks the hart until its quad meets it. -/
def State.writeBwph (s : State) (h : Nat) (v : BitVec 2) : State :=
  let t := s.updHart h (fun a => { a with bwph := v })
  if v.toNat < (s.hart h).bwphEff.toNat then
    let u := (t.updHart h (fun a => { a with bwphEff := v })).lowerPhase (quadOf h)
    if (u.quad (quadOf h)).meets (u.quad (quadOf h)).qph then u
    else u.updHart h (fun a => a.parkFor .bwph s.time (s.clockOf (quadOf h)))
  else t

/-- Mistral's period puts raised phases in force (R52). -/
def State.raisePhases (s : State) : State :=
  let t := { s with harts := s.harts.map (fun (e : Nat × Hart) => (e.1, { e.2 with bwphEff := e.2.bwph })) }
  let u := { t with quads := (List.range Config.quads).map (fun q => (q, { t.quad q with qph := t.phaseOfQuad q })) }
  u.setPhase ((List.range Config.quads).foldl (fun p q => min p (u.quad q).qph) 3)

end Sys2Proof.Machine
end

