-- ==== Sys2Proof/Machine/System.lean ====
section
/-!
DEFINITION. The system instructions of the scalar base: fences, SFENCE.VMA, ECALL, EBREAK, SRET, MRET, WFI, and the CSRs
(R34, R59, R124, R181, R182, R185, R188, R195, R205, R213, R217, R259 to R263).
-/
namespace Sys2Proof.Machine

/-! ### Fences -/

/-- A fence: it reports a store error first (R180), FENCE.S also a matrix error and an abandoned push (R350, R433); a release waits for
the hart's vector stores (R285), an acquire for its queued reads, which are those of VAMO (R133, R134). A memory in one order leaves
nothing else to do but discard the slide buffer at an acquire (log 5, R167). -/
def State.fences (s : State) (release acquire strong : Bool) : Res :=
  s.reporting (s.me.due true strong strong)
    (s.guarded [if release then s.me.releaseWait else none, parkIf (acquire && s.me.amoWait) .fence]
      (let t := if release then s.cleanCore (coreOf s.cur) else s
       .next ((if acquire then t.acquires else t).advance 4)))

/-- FENCE (R124): an empty set has no effect; a successor set without R makes a release, a predecessor set without W an
acquire, every other pair both or a release. I and O are read as R and W. -/
def execFence (_fm pred succ : BitVec 4) (s : State) : Res :=
  let r (v : BitVec 4) : Bool := v.getLsbD 1 || v.getLsbD 3
  let w (v : BitVec 4) : Bool := v.getLsbD 0 || v.getLsbD 2
  let some_ : Bool := decide (pred ≠ 0) && decide (succ ≠ 0)
  s.fences (some_ && (w pred || !(r succ))) (some_ && r succ) false

/-- FENCE_TSO (R124): a release, then an acquire. -/
def execFenceTso (s : State) : Res := s.fences true true false

/-- FENCE_I (R59): the core's L1 instruction cache is invalidated. -/
def execFenceI (s : State) : Res :=
  .next ((s.updCore (coreOf s.cur) (fun a => { a with l1i := [] })).advance 4)

/-- The quads of a partition. -/
def State.quadsOf (s : State) (p : Nat) : List Nat := (s.quads.filter (fun e => e.2.part == some p)).map (·.1)

/-- SFENCE_VMA (R34): in S mode the hart parks until every quad of the partition has acknowledged (SHOOTDOWN_ACK); an
address that is not canonical selects nothing, and the fences alone are left. -/
def execSfenceVma (b a : Reg) (s : State) : Res :=
  if s.me.mode = .u then s.illegal (.sfenceVma b a)
  else
    s.guarded [s.me.ready (xs [a, b]) [], s.me.releaseWait]
      (if s.shoots.any (fun x => x.hart == some s.cur) then s.parks .fence
      else if a ≠ 0 ∧ ¬ canonical (s.me.xv a) then .next ((s.cleanCore (coreOf s.cur)).acquires.advance 4)
      else
        let x : Shootdown := ⟨some s.cur, s.partOf s.cur, if a = 0 then none else some ((s.me.xv a).toNat / 4096),
          if b = 0 then none else some (fieldOf (s.me.xv b).toNat 0 16), s.quadsOf (s.partOf s.cur)⟩
        State.parks { s.cleanCore (coreOf s.cur) with shoots := s.shoots ++ [x] } .fence)

/-! ### Calls, traps and returns (R181, R182, R185, R408) -/

/-- The calls of R408. -/
def callOf (v : Word) : Option Nat := if v.toNat < 4 then some v.toNat else none

/-- ECALL: cause 8 in U mode; in S mode a call to Chinook, which reads a0 to a7 while the hart is parked. A call not listed
writes all ones to a0. -/
def execEcall (s : State) : Res :=
  match s.me.mode with
  | .u => s.trap 8 0
  | .s =>
    s.guarded [s.me.ready (xs [10, 11, 12, 13, 14, 15, 16, 17]) []]
      (match callOf (s.me.xv 17) with
        | some _ => s.parks .chinook
        | none => .next (s.updMe (fun a => (a.setX 10 (BitVec.allOnes 64)).advance 4)))

/-- EBREAK: cause 3 with the pc. -/
def execEbreak (s : State) : Res := s.trap 3 s.me.pc

/-- SRET (R185); cause 2 in U mode (R181). -/
def execSret (s : State) : Res :=
  match s.me.mode with
  | .u => s.illegal .sret
  | .s => .next (s.updMe (fun a => a.sret))

/-- MRET: cause 2 in either mode (R181). -/
def execMret (s : State) : Res := s.illegal .mret

/-- sip (R188): software, timer against stimecmp, and the partition's external sources (R409). -/
def State.sip (s : State) (h : Nat) : Nat :=
  let a := s.hart h
  bitNat a.csr.ssip * 2 + bitNat (decide (a.csr.stimecmp.toNat ≤ s.time)) * 2 ^ 5
    + bitNat (!(s.prt (s.partOf h)).sources.isEmpty) * 2 ^ 9

/-- WFI: cause 2 in U mode; in S mode it parks until an interrupt is pending, enabled or not (R175, R181). -/
def execWfi (s : State) : Res :=
  match s.me.mode with
  | .u => s.illegal .wfi
  | .s => if s.sip s.cur = 0 then s.parks .wfi else .next (s.advance 4)

/-! ### CSRs (R217, R259) -/

/-- One bit for each token with pending operations. -/
def Hart.pendMask (a : Hart) : Nat := (a.sb.toList.zipIdx).foldl (fun acc p => if p.1 = 0 then acc else acc + 2 ^ p.2) 0

/-- vbusy (R260). -/
def State.vbusy (s : State) (h : Nat) : Nat :=
  let a := s.hart h
  let q := s.quad (quadOf h)
  let mc := (q.mq.filter (fun c => c.hart == h)).length
  let mb := decide (mc ≠ 0) || q.drains.any (fun d => d.hart == h)
  mc * 2 ^ 12 + a.vq.length * 2 ^ 8 + bitNat mb * 2 + bitNat (!a.vq.isEmpty)

/-- The number of a FIFO, in the order of tfstat's fields (R261). -/
def Fifo.no : Fifo → Nat
  | .cv => 0
  | .cm => 1
  | .vm => 2
  | .mv => 3
  | .mc => 4
  | .vc => 5

/-- quadid (R263). -/
def State.quadid (s : State) (h : Nat) : Nat :=
  let q := quadOf h
  s.partOf h % 16 * 2 ^ 44 + dieOfQuad q * 2 ^ 40 + colOf q * 2 ^ 36 + rowOf q * 2 ^ 32 + q * 2 ^ 16 + h

/-- The value of a CSR as a hart reads it; none where the read raises cause 2 (R181, R217, R259). -/
def State.csrRead (s : State) (h n : Nat) : Option Nat :=
  let a := s.hart h
  if a.mode = .u ∧ n / 256 % 4 ≠ 0 then none
  else match n with
    | 0x001 => some a.fflags.toNat
    | 0x002 => some a.frm.toNat
    | 0x003 => some (a.frm.toNat * 32 + a.fflags.toNat)
    | 0xC01 => if a.mode = .u ∧ ¬ bitOf a.csr.scounteren 1 then none else some (s.time % 2 ^ 64)
    | 0x100 => some a.csr.sstatus.toNat
    | 0x104 => some a.csr.sie.toNat
    | 0x105 => some a.csr.stvec.toNat
    | 0x106 => some a.csr.scounteren.toNat
    | 0x10A => some a.csr.senvcfg.toNat
    | 0x140 => some a.csr.sscratch.toNat
    | 0x141 => some a.csr.sepc.toNat
    | 0x142 => some a.csr.scause.toNat
    | 0x143 => some a.csr.stval.toNat
    | 0x144 => some (s.sip h)
    | 0x14D => some a.csr.stimecmp.toNat
    | 0x180 => some a.csr.satp.toNat
    | 0x5C0 => some (s.prt (s.partOf h)).wdlim.toNat
    | 0x5C1 => some (a.dirty.toNat * 2 ^ 32 + a.hwb.toNat)
    | 0x8C0 => some a.fmt[0].toNat
    | 0x8C1 => some a.fmt[1].toNat
    | 0x8C2 => some a.fmt[2].toNat
    | 0x8C3 => some a.fmt[3].toNat
    | 0x8C4 => some a.srseed.toNat
    | 0x8C5 => some a.srbase.toNat
    | 0x8C6 => some a.vflags.toNat
    | 0x8D0 => some (bitNat a.vcfg.bfz * 64 + a.vcfg.g.toNat * 16 + a.vcfg.et.toNat)
    | 0x8D1 => some a.veix.toNat
    | 0x8D2 => some a.bwph.toNat
    | 0x8D3 => some (a.sbFail.toNat * 256 + a.pendMask)
    | 0x8D4 => some a.pwreq.toNat
    | 0xCC0 => some a.vl
    | 0xCC1 => some (s.vbusy h)
    | 0xCC2 => some Config.mshape.toNat
    | 0xCC3 => some (s.quadid h)
    | 0xCC4 => some ((List.range 6).foldl (fun acc k => acc + Tab.get (s.quad (quadOf h)).fifo k 0 * 32 ^ k) 0)
    | _ => none

/-- A write of wdlim: both limits, for every hart of the partition (R187). -/
def State.writeWdlim (s : State) (h : Nat) (v : Word) : State :=
  s.updPart (s.partOf h) (fun p => { p with wdlim := v &&& 0x000000FF000000FF#64 })

/-- A write of fmt`k` (R195). -/
def State.writeFmt (s : State) (h : Nat) (k : Fin 4) (v : Word) : State :=
  s.updHart h (fun a => { a with fmt := a.fmt.set k (fmtRegWrite a.fmt[k] v) })

/-- A write of sbstat: failure flags written as 1 are cleared (R261). -/
def State.writeSbstat (s : State) (h : Nat) (v : Word) : State :=
  s.updHart h (fun a => { a with sbFail := a.sbFail &&& ~~~((v >>> 8).setWidth 8) })

/-- A write of vhw (R260). -/
def State.writeVhw (s : State) (h : Nat) (v : Word) : State :=
  s.updHart h (fun a => { a with dirty := (v >>> 32).setWidth 32, hwb := v.setWidth 8 })

/-- The S-mode CSRs after a write of one of them: each keeps the fields its map makes writable. -/
def SCsr.write (c : SCsr) (n : Nat) (v : Word) : SCsr :=
  match n with
  | 0x100 => { c with sstatus := (c.sstatus &&& ~~~0x80122#64) ||| (v &&& 0x80122#64) }
  | 0x104 => { c with sie := v &&& 0x222#64 }
  | 0x105 => { c with stvec := v &&& 0xFFFFFFFFFFFFFFFC#64 }
  | 0x106 => { c with scounteren := v &&& 2#64 }
  | 0x10A => { c with senvcfg := v &&& 1#64 }
  | 0x140 => { c with sscratch := v }
  | 0x141 => { c with sepc := v &&& 0xFFFFFFFFFFFFFFFE#64 }
  | 0x142 => { c with scause := v }
  | 0x143 => { c with stval := v }
  | 0x144 => { c with ssip := bitOf v 1 }
  | 0x14D => { c with stimecmp := v }
  | 0x180 => { c with satp := 0xA000000000000000#64 ||| (v &&& 0x0FFFF00FFFFFFFFF#64) }
  | _ => c

/-- A hart after a write of one of its other CSRs. -/
def Hart.csrWrite (a : Hart) (n : Nat) (v : Word) : Hart :=
  match n with
  | 0x001 => { a with fflags := v.setWidth 5 }
  | 0x002 => { a with frm := v.setWidth 3 }
  | 0x003 => { a with frm := (v >>> 5).setWidth 3, fflags := v.setWidth 5 }
  | 0x8C4 => { a with srseed := v }
  | 0x8C5 => { a with srbase := v.setWidth 32 }
  | 0x8C6 => { a with vflags := v.setWidth 7 }
  | 0x8D0 => { a with vcfg := { a.vcfg with bfz := bitOf v 6 } }
  | 0x8D1 => { a with veix := v.setWidth 12 }
  | 0x8D4 => { a with pwreq := v.setWidth 3 }
  | _ => { a with csr := a.csr.write n v }

/-- A write of a CSR by a hart that may write it. -/
def State.csrWrite (s : State) (h n : Nat) (v : Word) : State :=
  match n with
  | 0x5C0 => s.writeWdlim h v
  | 0x5C1 => s.writeVhw h v
  | 0x8C0 => s.writeFmt h 0 v
  | 0x8C1 => s.writeFmt h 1 v
  | 0x8C2 => s.writeFmt h 2 v
  | 0x8C3 => s.writeFmt h 3 v
  | 0x8D2 => s.writeBwph h (v.setWidth 2)
  | 0x8D3 => s.writeSbstat h v
  | 0x8D4 => (s.updHart h (fun a => a.csrWrite n v)).repoint (quadOf h)
  | _ => s.updHart h (fun a => a.csrWrite n v)

/-- The value a CSR instruction writes. -/
def csrResult (op : CsrOp) (old v : Word) : Word :=
  match op with
  | .rw => v
  | .rs => old ||| v
  | .rc => old &&& ~~~v

/-- CSR_ACCESS (R259): fixed; the read is performed before the write; the set and clear forms with x0 or 0 write nothing;
a write to a read-only address raises cause 2. -/
def execCsrAccess (op : CsrOp) (imm : Bool) (csr : BitVec 12) (d a : Reg) (s : State) : Res :=
  let n := csr.toNat
  let writes : Bool := decide (op = .rw) || decide (a ≠ 0)
  match s.csrRead s.cur n with
  | none => s.illegal (.csrAccess op imm csr d a)
  | some old =>
    if writes ∧ n / 1024 = 3 then s.illegal (.csrAccess op imm csr d a)
    else
      s.guarded [s.me.ready (if imm then [] else xs [a]) (xs [d])]
        (let v := csrResult op (BitVec.ofNat 64 old) (if imm then a.setWidth 64 else s.me.xv a)
         let t := s.updMe (fun h => (h.setX d (BitVec.ofNat 64 old)).advance 4)
         .next (if writes then t.csrWrite s.cur n v else t))

/-! ### The writes as steps of their own -/

/-- A write step: the hart named writes the value, where it may. -/
def State.writeStep (s : State) (n : Nat) : Res :=
  match s.csrRead s.ev.h n with
  | none => .next s
  | some _ => if n / 1024 = 3 then .next s else .next (s.csrWrite s.ev.h n s.ev.v)

/-- WDLIM_WRITE (R187). -/
def execWdlimWrite (s : State) : Res := s.writeStep 0x5C0
/-- FMT_WRITE (R195). -/
def execFmtWrite (s : State) : Res := s.writeStep (0x8C0 + s.ev.k % 4)
/-- SBSTAT_WRITE (R261). -/
def execSbstatWrite (s : State) : Res := s.writeStep 0x8D3
/-- VHW_WRITE (R260). -/
def execVhwWrite (s : State) : Res := s.writeStep 0x5C1
/-- BWPH_WRITE (R52). -/
def execBwphWrite (s : State) : Res := s.writeStep 0x8D2
/-- CSR_WRITE (R259): the CSR numbered in the step's data. -/
def execCsrWrite (s : State) : Res := s.writeStep s.ev.k

end Sys2Proof.Machine
end

