-- ==== Sys2Proof/Machine/VectorQueue.lean ====
section
/-!
DEFINITION. What the operations of a vector queue do when they execute (R177, R307 to R335), the token FIFOs (R138, R139),
and VECTOR_QUEUE_EXECUTE.
-/
namespace Sys2Proof.Machine

/-! ### Elements -/

/-- Active elements of an element-wise operation (R307). -/
def VCmd.actives (c : VCmd) (a : Hart) (p : Nat) : List Nat :=
  (List.range c.vl).filter (fun e => decide (c.eix ≤ e) && a.pbit p e)
/-- Active elements of an operation that ignores veix (R315, R317, R324). -/
def VCmd.wholes (c : VCmd) (a : Hart) (p : Nat) : List Nat := (List.range c.vl).filter (fun e => a.pbit p e)

/-- The elements `es` of a group written with computed codes; their flags ORed once (R206). Every element is computed from
the registers before any is written. -/
def Hart.mapElems (a : Hart) (d w : Nat) (es : List Nat) (f : Nat → Nat × Flags) : Hart :=
  let rs := es.map (fun e => (e, f e))
  (a.setElems d w (rs.map (fun r => (r.1, r.2.1)))).orVFlags (rs.foldl (fun fl r => fl ||| r.2.2) 0)

/-- The code of a second source's element (R308): a wrapping operation takes the immediate sign-extended to w bits. -/
def VSrc.code (s : VSrc) (a : Hart) (w e : Nat) : Nat :=
  match s with
  | .reg n => a.elem n w e
  | .scalar v => v.toNat % 2 ^ w
  | .imm i => codeOf w i

/-- The integer value of a second source's element: an immediate keeps its signed value (R308). -/
def VSrc.int (s : VSrc) (a : Hart) (sg : Bool) (w e : Nat) : Int :=
  match s with
  | .imm i => i
  | _ => intOf sg w (s.code a w e)

/-- The code of an element that VSEL takes: under a float type an immediate is converted exactly (R308, R316). -/
def VSrc.selCode (s : VSrc) (a : Hart) (fmt : List Word) (et w e : Nat) : Nat :=
  match s with
  | .imm i => if etInt et then codeOf w i else (roundVal (etFmt fmt et) .rne false (intV i)).1
  | _ => s.code a w e

/-! ### Results of elements -/

/-- Integer operations (R311): `a` and `b` are codes, `bi` the second source's value. -/
def intElem (op : IOp) (sg : Bool) (w a b : Nat) (bi : Int) : Nat × Flags :=
  let ai := intOf sg w a
  let sat (i : Int) : Nat × Flags := (codeOf w (satInt sg w i).1, (satInt sg w i).2)
  match op with
  | .add => (codeOf w (ai + bi), 0)
  | .sub => (codeOf w (ai - bi), 0)
  | .rsub => (codeOf w (bi - ai), 0)
  | .mul => (codeOf w (ai * bi), 0)
  | .mulh => (codeOf w (ai * bi / 2 ^ w), 0)
  | .mulhn => (codeOf w ((ai * bi + 2 ^ (w - 1)) / 2 ^ w), 0)
  | .adds => sat (ai + bi)
  | .subs => sat (ai - bi)
  | .min => (if ai ≤ bi then a else codeOf w bi, 0)
  | .max => (if bi ≤ ai then a else codeOf w bi, 0)
  | .and => (a &&& b, 0)
  | .or => (a ||| b, 0)
  | .xor => (a ^^^ b, 0)
  | .sll => (a * 2 ^ (b % w) % 2 ^ w, 0)
  | .srl => (a / 2 ^ (b % w), 0)
  | .sra => (codeOf w (intOf true w a / 2 ^ (b % w)), 0)

/-- The rounding mode a command captured; its issue has refused the codes that name none. -/
def VCmd.mode (c : VCmd) : RMode := (modeOf c.frm).getD .rne

/-- The value of a floating code under a command. -/
def VCmd.val (c : VCmd) (et code : Nat) : FVal := decodeBfz c.bfz (etFmt c.fmt et) code

/-- Floating operations of two sources (R319). -/
def VCmd.fltElem (c : VCmd) (op : FOp) (et a b : Nat) : Nat × Flags :=
  let f := etFmt c.fmt et
  let x := c.val et a
  let y := c.val et b
  let minmax (mx : Bool) : Nat × Flags :=
    let nv := flagIf (x.isSig || y.isSig) fNV
    match minmaxTakesB mx x y with
    | none => (f.nanCode, nv)
    | some t => ((roundVal f .rne c.bfz (if t then y else x)).1, nv)
  match op with
  | .add => finish f c.mode c.bfz (addV c.mode x y)
  | .sub => finish f c.mode c.bfz (addV c.mode x y.negate)
  | .mul => finish f c.mode c.bfz (mulV x y)
  | .div => finish f c.mode c.bfz (divV x y)
  | .min => minmax false
  | .max => minmax true

/-- Operations of one source (R311, R319, R334). -/
def VCmd.oneElem (c : VCmd) (op : EOp) (et a : Nat) : Nat × Flags :=
  let w := etWidth c.fmt et
  let f := etFmt c.fmt et
  let x := c.val et a
  match op with
  | .clz => (leadZeros w a, 0)
  | .popc => (popCount w a, 0)
  | .fabs => (match x with
    | .nan _ => f.nanCode
    | v => (roundVal f .rne c.bfz (if v.isNeg then v.negate else v)).1, 0)
  | .fneg => (match x with
    | .nan _ => f.nanCode
    | v => (roundVal f .rne c.bfz v.negate).1, 0)
  | .fsqrt => finish f c.mode c.bfz (sqrtV x)
  | .fclass => (classMask f x, 0)
  | .rcp => specialF32 .rcp a
  | .rsqrt => specialF32 .rsqrt a
  | .exp2 => specialF32 .exp2 a
  | .log2 => specialF32 .log2 a
  | .sin => specialF32 .sin a
  | .cos => specialF32 .cos a

/-- Operations of three registers (R311, R312, R319): `d` is the accumulator's code. -/
def VCmd.threeElem (c : VCmd) (op : TOp) (et d a b : Nat) : Nat × Flags :=
  let w := etWidth c.fmt et
  let sg := etSigned et
  let prod := intOf sg w a * intOf sg w b
  let f := etFmt c.fmt et
  let x := c.val et a
  let y := c.val et b
  let z := c.val et d
  match op with
  | .mac => (codeOf w (d + prod), 0)
  | .wmac => (codeOf (2 * w) (d + prod), 0)
  | .wmul => (codeOf (2 * w) prod, 0)
  | .ffma => finish f c.mode c.bfz (fmaV c.mode x y z)
  | .ffms => finish f c.mode c.bfz (fmaV c.mode x y z.negate)
  | .fnfma => finish f c.mode c.bfz (fmaV c.mode x.negate y z)

/-- Compares of integers (R314). -/
def cmpInt (cc : Nat) (a b : Int) : Bool :=
  match cc with
  | 0 => a == b
  | 1 => a != b
  | 2 => decide (a < b)
  | 3 => decide (a ≤ b)
  | 4 => !decide (a < b)
  | _ => !decide (a ≤ b)

/-- Compares of floating values, with NV (R314). -/
def cmpFlt (cc : Nat) (a b : FVal) : Bool × Flags :=
  let nan := a.isNan || b.isNan
  let sig := a.isSig || b.isSig
  let le := ltV a b || eqV a b
  match cc with
  | 0 => (!nan && eqV a b, flagIf sig fNV)
  | 1 => (nan || !eqV a b, flagIf sig fNV)
  | 2 => (!nan && ltV a b, flagIf nan fNV)
  | 3 => (!nan && le, flagIf nan fNV)
  | 4 => (nan || !ltV a b, flagIf nan fNV)
  | _ => (nan || !le, flagIf nan fNV)

/-- Scaling by an E8M0 code (R207, R208, R322). -/
def VCmd.scaleElem (c : VCmd) (et a k : Nat) : Nat × Flags :=
  let f := etFmt c.fmt et
  if k = 255 then (f.nanCode, fNV)
  else match c.val et a with
    | .fin n x => roundVal f c.mode c.bfz (.fin n (x.scale ((k : Int) - 127)))
    | v => roundVal f c.mode c.bfz v

/-- A conversion (R203, R320, R321). -/
def VCmd.cvtElem (c : VCmd) (et ets : Nat) (mode : RMode) (a : Nat) : Nat × Flags :=
  let ws := etWidth c.fmt ets
  let wd := etWidth c.fmt et
  let r := intRange (etSigned et) wd
  if etInt ets then
    let i := intOf (etSigned ets) ws a
    if etInt et then (codeOf wd (satInt (etSigned et) wd i).1, (satInt (etSigned et) wd i).2)
    else roundVal (etFmt c.fmt et) mode c.bfz (intV i)
  else
    let v := c.val ets a
    if etInt et then
      let t := toIntV mode r.1 r.2 v
      (codeOf wd t.1, t.2)
    else roundVal (etFmt c.fmt et) mode c.bfz v

/-- Two leaves of R318's tree: an inactive one changes nothing, as adding −0 does (log 20). -/
def joinLeaves (add : Nat → Nat → Nat × Flags) : Option Nat → Option Nat → Option Nat × Flags
  | none, y => (y, 0)
  | x, none => (x, 0)
  | some x, some y => (some (add x y).1, (add x y).2)

/-- Neighbouring pairs added. -/
def pairSums (add : Nat → Nat → Nat × Flags) : List (Option Nat) → List (Option Nat) × Flags
  | a :: b :: t =>
    let r := joinLeaves add a b
    let u := pairSums add t
    (r.1 :: u.1, r.2 ||| u.2)
  | l => (l, 0)

/-- The fixed tree of R318 over `2^n` leaves. -/
def treeSum (add : Nat → Nat → Nat × Flags) : Nat → List (Option Nat) → Option Nat × Flags
  | 0, l => (l.headD none, 0)
  | n + 1, l =>
    let p := pairSums add l
    let r := treeSum add n p.1
    (r.1, p.2 ||| r.2)

/-- Reductions (R317, R318): the new element 0 of the destination. -/
def VCmd.reduce (c : VCmd) (op : RedOp) (et : Nat) (a : Hart) (p d s : Nat) : Nat × Flags :=
  let w := etWidth c.fmt et
  let sg := etSigned et
  let es := c.wholes a p
  let d0 := a.elem d w 0
  match op with
  | .sum => (codeOf w (es.foldl (fun acc e => acc + intOf sg w (a.elem s w e)) (intOf sg w d0)), 0)
  | .min => (es.foldl (fun acc e => if intOf sg w (a.elem s w e) < intOf sg w acc then a.elem s w e else acc) d0, 0)
  | .max => (es.foldl (fun acc e => if intOf sg w acc < intOf sg w (a.elem s w e) then a.elem s w e else acc) d0, 0)
  | .fsum =>
    let n := 1024 * c.g / w
    let add (x y : Nat) : Nat × Flags := c.fltElem .add et x y
    let leaf (e : Nat) : Option Nat := if decide (e < c.vl) && a.pbit p e then some (a.elem s w e) else none
    let t := treeSum add (Nat.log2 n) ((List.range n).map leaf)
    let r := joinLeaves add (some d0) t.1
    (r.1.getD d0, t.2 ||| r.2)

/-- The lowest set bit below vl, or vl (R315). -/
def VCmd.first (c : VCmd) (a : Hart) (p : Nat) : Nat := ((List.range c.vl).find? (fun e => a.pbit p e)).getD c.vl

/-- Predicate operations (R315). -/
def VCmd.predBits (c : VCmd) (op : PrOp) (a : Hart) (pa pb : Nat) : BitVec 2048 :=
  bitsUpTo c.vl (fun e => match op with
    | .and => a.pbit pa e && a.pbit pb e
    | .or => a.pbit pa e || a.pbit pb e
    | .xor => a.pbit pa e != a.pbit pb e
    | .not => !a.pbit pa e
    | .mskup => decide (e < c.first a pa))

/-! ### Operations on the hart's own registers -/

/-- The hart after a queued operation that touches its registers alone; the others leave it to the queue. -/
def VCmd.run (c : VCmd) (a : Hart) : Hart :=
  let w (et : Nat) : Nat := etWidth c.fmt et
  match c.op with
  | .int op et p d src =>
    a.mapElems d (w et) (c.actives a p) (fun e =>
      intElem op (etSigned et) (w et) (a.elem d (w et) e) (src.code a (w et) e) (src.int a (etSigned et) (w et) e))
  | .flt op et p d src =>
    a.mapElems d (w et) (c.actives a p) (fun e => c.fltElem op et (a.elem d (w et) e) (src.code a (w et) e))
  | .one op et p d s => a.mapElems d (w et) (c.actives a p) (fun e => c.oneElem op et (a.elem s (w et) e))
  | .three op et p d x y =>
    let wd := match op with
      | .wmac => 2 * w et
      | .wmul => 2 * w et
      | _ => w et
    a.mapElems d wd (c.actives a p) (fun e =>
      c.threeElem op et (a.elem d wd e) (a.elem x (w et) e) (a.elem y (w et) e))
  | .cmp cc et p d src =>
    let r (e : Nat) : Bool × Flags :=
      if etInt et then
        (cmpInt cc (intOf (etSigned et) (w et) (a.elem d (w et) e)) (src.int a (etSigned et) (w et) e), 0)
      else cmpFlt cc (c.val et (a.elem d (w et) e)) (c.val et (src.code a (w et) e))
    let fl := (c.actives a 0).foldl (fun f e => f ||| (r e).2) 0
    (a.setP p (bitsUpTo c.vl (fun e => if e < c.eix then a.pbit p e else (r e).1))).orVFlags fl
  | .sel et p d src =>
    a.mapElems d (w et) (c.actives a 0) (fun e =>
      (if a.pbit p e then a.elem d (w et) e else src.selCode a c.fmt et (w et) e, 0))
  | .scale et p d s =>
    a.mapElems d (w et) (c.actives a p) (fun e => c.scaleElem et (a.elem d (w et) e) (a.elem s 8 (e / 32)))
  | .cvt et ets p d s sr seed base =>
    a.mapElems d (w et) (c.actives a p) (fun e =>
      c.cvtElem et ets (if sr then .sr (srBits seed base e) else c.mode) (a.elem s (w ets) e))
  | .mv et p d src => a.mapElems d (w et) (c.actives a p) (fun e => (src.code a (w et) e, 0))
  | .slup et p d k =>
    a.mapElems d (w et) ((c.wholes a p).filter (fun e => decide (k ≤ e))) (fun e => (a.elem d (w et) (e - k), 0))
  | .sldn et p d k =>
    a.mapElems d (w et) (c.wholes a p) (fun e => (if e + k < c.vl then a.elem d (w et) (e + k) else 0, 0))
  | .sl1up et p d v =>
    a.mapElems d (w et) (c.wholes a p) (fun e => (if e = 0 then v.toNat % 2 ^ w et else a.elem d (w et) (e - 1), 0))
  | .xchg et p d k =>
    a.mapElems d (w et) ((c.wholes a p).filter (fun e => decide (e ^^^ k < c.vl))) (fun e => (a.elem d (w et) (e ^^^ k), 0))
  | .perm et p d s =>
    a.mapElems d (w et) (c.wholes a p) (fun e =>
      (if a.elem s (w et) e < c.vl then a.elem d (w et) (a.elem s (w et) e) else 0, 0))
  | .compress et p d s =>
    a.setElems d (w et) ((c.wholes a p).zipIdx.map (fun x => (x.2, a.elem s (w et) x.1)))
  | .take et p d s => a.mapElems d (w et) (c.wholes a p) (fun e => (a.elem s (w et) e, 0))
  | .red op et p d s =>
    if c.wholes a p = [] then a
    else
      let r := c.reduce op et a p d s
      (a.setElem d (w et) 0 r.1).orVFlags r.2
  | .pred op pd pa pb => a.setP pd (c.predBits op a pa pb)
  | .pset pd v => a.setP pd (bitsUpTo c.vl (fun e => decide (e < v.toNat)))
  | .pfirst xd pa => a.land ⟨.x, regNo xd, BitVec.ofNat 64 (c.first a pa), none, none⟩
  | .pcnt xd pa => a.land ⟨.x, regNo xd, BitVec.ofNat 64 (c.wholes a pa).length, none, none⟩
  | .mvx et xd s idx =>
    let v := a.elem s (w et) idx
    a.land ⟨.x, regNo xd, if et < 4 then sextTo (w et) v else BitVec.ofNat 64 v, none, none⟩
  | .mvs et d v idx => a.setElem d (w et) idx (v.toNat % 2 ^ w et)
  | .copy d s g => (List.range g).foldl (fun t k => (t.setV (d + k) (a.vv (s + k))).wrote (d + k) 128) a
  | .push _ => a
  | .pop _ => a
  | .store _ _ _ _ => a
  | .amo _ _ _ _ => a

/-! ### Stores and atomics of a queue (R274 to R276, R281) -/

/-- A write of bytes by a queued element, which disturbs no reservation and ends no error yet. -/
def State.putBytes (s : State) (key pa : Nat) (bytes : List Byte) : State :=
  State.seal { s with mem := s.mem.writeBytes pa bytes } key pa bytes.length

/-- The bytes of a queued element: a 4-bit element merges its nibble (R276); the bits of a narrow format's container above its width
are written 0 (R195). -/
def State.elemCells (s : State) (h d w bits : Nat) (x : QEl) : List Byte :=
  let c := (s.hart h).elem d w x.e % 2 ^ bits
  if w = 4 then
    let old := ((s.memUnder x.key).read (x.at_ / 2)).toNat
    [BitVec.ofNat 8 (if x.at_ % 2 = 0 then old / 16 * 16 + c else old % 16 + c * 16)]
  else leBytes (w / 8) c

/-- A queued store on plain memory, elements ascending: lines it covers whole lose their error (R80). -/
def State.storeElems (s : State) (h d w bits : Nat) (elems : List QEl) : State :=
  let t := elems.foldl (fun t x => t.putBytes x.key (x.at_ / 2) (t.elemCells h d w bits x)) s
  let written := elems.flatMap (fun x => span (x.at_ / 2) ((w + 7) / 8))
  let lines := (written.map lineOf).eraseDups
  (t.healLines (if w = 4 then [] else lines.filter (fun l => (List.range 64).all (fun k => written.contains (64 * l + k))))).breakResv
    (some h) lines

/-- An element of a queued store on a register of the MMIO window: one write, of a 4-bit element's nibble alone (R275, R276). -/
def State.storeReg (s : State) (h d w bits : Nat) (x : QEl) : State :=
  let c := (s.hart h).elem d w x.e % 2 ^ bits
  if w = 4 then s.mmioNibble (s.writerOf h) (x.at_ / 2) (x.at_ % 2) c else s.storeData h x.key (x.at_ / 2) (w / 8) c

/-- The line request of a queued element. -/
def QEl.req (x : QEl) : LineReq := (lineOf (x.at_ / 2), x.tr, none)

/-- A queued store: elements on registers of the MMIO window are written one by one, ascending (R275). -/
def State.vectorStore (s : State) (h d w bits : Nat) (elems : List QEl) : State :=
  let t := (elems.filter (fun x => isMmio (x.at_ / 2))).foldl (fun t x => t.storeReg h d w bits x)
    (s.storeElems h d w bits (elems.filter (fun x => !isMmio (x.at_ / 2))))
  t.reach (quadOf h) true (elems.map QEl.req)

/-- The new value of a VAMO element (R281). -/
def vamoResult (op w old v : Nat) : Nat :=
  match op with
  | 0 => (old + v) % 2 ^ w
  | 1 => v
  | 2 => if toSigned w old ≤ toSigned w v then old else v
  | _ => if toSigned w old ≤ toSigned w v then v else old

/-- A queued VAMO: elements ascending, each at the home slice (R74); its register receives the old values, which the hart has then seen
(R118). -/
def State.vectorAmo (s : State) (h op d w : Nat) : List QEl → State
  | [] => s
  | x :: t =>
    let pa := x.at_ / 2
    let old := (s.memUnder x.key).readN pa (w / 8)
    let v := vamoResult op w old ((s.hart h).elem d w x.e)
    (((s.poke (some h) x.key pa (leBytes (w / 8) v)).updHart h (fun a => (a.sees pa (w / 8)).setElem d w x.e old)).bypass
      (quadOf h) pa true x.tr none).vectorAmo h op d w t

/-- A queued element cannot be performed yet: a flip of its page (R404), the host, which is to give up the line (R431), or the line's
home slice (R75, R76). -/
def State.elemBusy (s : State) (h : Nat) (x : QEl) : Bool :=
  let pa := x.at_ / 2
  decide (2 ≤ Tab.get s.bias (pageOf pa) 0) || s.mustSnoop (queueAgent h) pa true ||
    (decide (x.tr ≠ .device) && s.sliceBusy (quadOf h) pa true none)

/-- Elements of a queued store or VAMO that one step performs: at most the quad's 256 line requests, up to the first that must wait (R6,
R75). -/
def State.elemsNow (s : State) (h : Nat) (el : List QEl) : List QEl :=
  (withinLines (fun x => lineOf (x.at_ / 2)) 256 [] el).takeWhile (fun x => !s.elemBusy h x)

/-- The snoop that the first element left waits for is sent; answers that the elements performed have used are gone (R431). -/
def State.elemsDone (s : State) (h : Nat) (now rest : List QEl) : State :=
  let t := s.snoopsUsed (queueAgent h) (now.map (fun x => lineOf (x.at_ / 2)))
  match rest with
  | [] => t
  | x :: _ =>
    let pa := x.at_ / 2
    if Tab.get t.bias (pageOf pa) 0 < 2 ∧ t.mustSnoop (queueAgent h) pa true then t.sendSnoop (queueAgent h) (lineOf pa) true else t

/-! ### Token FIFOs (R138, R139) -/

/-- The FIFO of a held operation. -/
def HeldOp.fifo : HeldOp → Fifo
  | .vpush f _ => f
  | .vpop f _ => f
  | .mpop f => f
  | .mpush f => f
  | .dpush f _ => f
  | .cpop f _ => f
  | .cpush f _ => f

/-- A held operation pushes. -/
def HeldOp.isPush : HeldOp → Bool
  | .vpush _ _ => true
  | .mpush _ => true
  | .dpush _ _ => true
  | .cpush _ _ => true
  | .vpop _ _ => false
  | .mpop _ => false
  | .cpop _ _ => false

/-- An operation's turn at its FIFO: it is served, or it is held, in the order in which operations became held. -/
def Quad.fifoTry (a : Quad) (op : HeldOp) (clk : Nat) : Bool × Quad :=
  let n := Tab.get a.fifo op.fifo.no 0
  let room := if op.isPush then decide (n < 16) else decide (0 < n)
  let first := match a.held.find? (fun x => decide (x.op.fifo = op.fifo) && x.op.isPush == op.isPush) with
    | none => true
    | some x => decide (x.op = op)
  if room && first then
    (true, { a with
      fifo := Tab.set a.fifo op.fifo.no (if op.isPush then n + 1 else n - 1)
      held := a.held.filter (fun x => decide (x.op ≠ op)) })
  else (false, if a.held.any (fun x => decide (x.op = op)) then a else { a with held := a.held ++ [⟨op, clk⟩] })

/-- The FIFO operation of a queue's head. -/
def VOp.fifoOp (o : VOp) (h : Nat) : Option HeldOp :=
  match o with
  | .push toCopy => some (.vpush (if toCopy then .vc else .vm) h)
  | .pop fromMatrix => some (.vpop (if fromMatrix then .mv else .cv) h)
  | _ => none

/-- A VFIFO pop ends the park of the hart that issued it (R139, R237). -/
def Hart.popDone (a : Hart) : Hart := if a.park = some .pop then { a.advance 4 with veix := 0 } else a

/-- The head of a hart's queue has left it. -/
def State.popVq (s : State) (h : Nat) : State := s.updHart h (fun a => { a with vq := a.vq.tail })

/-- The head of a hart's queue goes on as `c` in a later step. -/
def State.keepVq (s : State) (h : Nat) (c : VCmd) : State := s.updHart h (fun a => { a with vq := c :: a.vq.tail })

/-- What the head of a queue does when it may go on. A store or VAMO performs the elements that can be, and stalls at the next. -/
def State.runVq (s : State) (h : Nat) (c : VCmd) : State :=
  match c.op.fifoOp h with
  | some op =>
    let r := (s.quad (quadOf h)).fifoTry op (s.clockOf (quadOf h))
    let t := s.updQuad (quadOf h) (fun _ => r.2)
    if r.1 then (if op.isPush then t.popVq h else (t.popVq h).updHart h (fun a => a.popDone)) else t
  | none =>
    match c.op with
    | .store d w bits el =>
      let now := s.elemsNow h el
      let rest := el.drop now.length
      let t := (s.vectorStore h d w bits now).elemsDone h now rest
      if rest = [] then t.popVq h else t.keepVq h { c with op := .store d w bits rest }
    | .amo op d w el =>
      let now := s.elemsNow h el
      let rest := el.drop now.length
      let t := (s.vectorAmo h op d w now).elemsDone h now rest
      if rest = [] then (t.popVq h).updHart h (fun a => a.presentV d c.g)
      else t.keepVq h { c with op := .amo op d w rest }
    | _ => (s.popVq h).updHart h (fun a => c.run a)

/-- VECTOR_QUEUE_EXECUTE (R177): the oldest operation of a hart's queue executes, once R179 and R154 let it; not while its
partition is stopped (R189). -/
def execVectorQueueExecute (s : State) : Res :=
  let h := s.ev.h
  match (s.hart h).vq with
  | [] => .next s
  | c :: _ =>
    if (s.quad (quadOf h)).clearFor h c.seq c.reads c.writes && !s.quadHalted (quadOf h) then .next (s.runVq h c)
    else .next s

end Sys2Proof.Machine
end

