-- ==== Sys2Proof/Machine/VectorIssue.lean ====
section
/-!
DEFINITION. The issue of a vector instruction: its checks in order (R183, R310), what it captures (R306), its place in the
queue (R177), and the shapes of operands shared by the instructions of custom-2.
-/
namespace Sys2Proof.Machine

/-- The group size of vcfg. -/
def Hart.gsz (a : Hart) : Nat := 2 ^ a.vcfg.g.toNat
/-- The element width of vcfg. -/
def Hart.vw (a : Hart) : Nat := etWidth a.fmts a.vcfg.et.toNat
/-- VLMAX of vcfg (R305). -/
def Hart.vlmax (a : Hart) : Nat := 1024 * a.gsz / a.vw
/-- Elements of an instruction whose width is vcfg's: vl, which never exceeds VLMAX (R268; a format register that has
widened since VCFG: log 20). -/
def Hart.vln (a : Hart) : Nat := min a.vl a.vlmax

/-- A register group against the allocation and its alignment (R176). -/
def Hart.groupStop (a : Hart) (n : Int) (g : Nat) : Option Stop :=
  trapIf (decide (n < 0) || decide (n + g > a.alloc) || decide (n % g ≠ 0)) 24 (BitVec.ofInt 64 n)

/-- A trap at the element from which the instruction would have started (R184). -/
def Stop.atElem (st : Stop) (e : Nat) : Stop :=
  match st with
  | .trap c v => .trapAt c v e
  | .report c v _ w => .report c v e w
  | .owed d _ => .owed d e
  | st => st

/-- A park on an empty register at a vector instruction. -/
def Stop.atVec (st : Stop) : Stop :=
  match st with
  | .park (.empty fl r _) => .park (.empty fl r true)
  | st => st

/-- What a vector instruction asks of its issue. `groups` in the order of their checks, `pre` what it does to the hart in
the step of its issue before its destinations are marked. -/
structure VReq where
  i : Instr
  bad : Bool := false
  fmts : List Nat := []
  groups : List (Nat × Nat) := []
  clash : Bool := false
  src : List (RFile × Nat) := []
  dst : List (RFile × Nat) := []
  pre : Hart → Hart := id
  vl : Nat
  g : Nat
  op : VOp

/-- The command that an issue enters into the queue (R306, R199, R214). -/
def Hart.command (a : Hart) (r : VReq) : VCmd :=
  ⟨r.op, r.vl, a.vcfg.et.toNat, r.g, a.vcfg.bfz, a.frm.toNat, a.fmts, a.veix.toNat, a.seq⟩

/-- A destination at issue: a vector register stays present (R309), a scalar one is owed (R172). -/
def Hart.markDst (a : Hart) (d : RFile × Nat) : Hart :=
  match d.1 with
  | .v => a.presentV d.2 1
  | .x => a.presX (regNo d.2) .pending
  | .f => a.presF (regNo d.2) .pending

/-- A write of some registers that meets the group of the last VLDSR ends its sliding (R280). -/
def Hart.unslideBy (a : Hart) (wr : List Nat) (g : Nat) : Hart :=
  match a.slide with
  | none => a
  | some w => if overlap wr (span w.group g) then { a with slide := none } else a

/-- A command that writes the group of the last VLDSR ends its sliding (R280). -/
def Hart.unslide (a : Hart) (c : VCmd) : Hart := a.unslideBy c.writes c.g

/-- The hart after the issue of a queued vector instruction. -/
def Hart.enqueue (a : Hart) (r : VReq) : Hart :=
  let c := a.command r
  let b := (r.dst.foldl Hart.markDst (r.pre a)).unslide c
  { b with vq := b.vq ++ [c], seq := a.seq + 1, veix := 0 }

/-- The issue checks of R310 and R183 orders 2 to 4. -/
def Hart.vchecks (a : Hart) (r : VReq) : Option Stop :=
  firstStop ([trapIf r.bad 2 (wordOf r.i), trapIf (r.fmts.any a.fmtInvalid) 30 (wordOf r.i)] ++
    r.groups.map (fun x => a.groupStop x.1 x.2) ++ [trapIf r.clash 28 (wordOf r.i), a.markedAny r.src])

/-- A vector instruction's checks, then its presence parks, then what follows (R173, R310, R433). -/
def State.vguard (s : State) (r : VReq) (go : Res) : Res :=
  let a := s.me
  match a.vchecks r with
  | some st => s.stop (st.atElem a.veix.toNat)
  | none =>
    match a.due false false true with
    | some d => s.stop (.owed d a.veix.toNat)
    | none => s.guarded [(a.presentAll r.src).map Stop.atVec, a.ownedAll r.dst] go

/-- A vector instruction that issues into the queue. -/
def State.vgo (s : State) (r : VReq) : Res :=
  s.vguard r (s.guarded [parkIf (decide (8 ≤ s.me.vq.length)) .vqFull]
    (.next (s.updMe (fun a => (a.enqueue r).advance (Instr.len r.i)))))

/-- The registers a second source names. -/
def VSrc.names (v : VSrc) (x : Reg) (g : Nat) : List (RFile × Nat) :=
  match v with
  | .reg n => vgroup n g
  | .scalar _ => [(.x, x.toNat)]
  | .imm _ => []
/-- The groups a second source adds to the checks. -/
def VSrc.groups (v : VSrc) (g : Nat) : List (Nat × Nat) :=
  match v with
  | .reg n => [(n, g)]
  | .scalar _ => []
  | .imm _ => []

/-- A scalar second source: the value captured at issue. -/
def State.sx (s : State) (r : Reg) : VSrc := .scalar (s.me.xv r)
/-- An immediate second source, signed. -/
def simm (i : Reg) : VSrc := .imm i.toInt
/-- A register group as second source. -/
def vreg (r : Reg) : VSrc := .reg r.toNat

/-- An frm that a rounding vector instruction other than a conversion may not meet (R201). -/
def Hart.frmBad (a : Hart) : Bool := decide (4 ≤ a.frm.toNat)

/-- Two groups of different sizes overlap. -/
def groupsMeet (n g m k : Nat) : Bool := decide (n < m + k) && decide (m < n + g)

/-- The request of a destructive operation: vd := op(vd, src). -/
def Hart.binReq (a : Hart) (i : Instr) (bad : Bool) (et : Nat) (d : Reg) (src : VSrc) (x : Reg) (op : VOp) : VReq :=
  let g := a.gsz
  { i := i, bad := bad || decide (etWidth a.fmts et ≠ a.vw), fmts := [et],
    groups := (d.toNat, g) :: src.groups g, src := vgroup d.toNat g ++ src.names x g, dst := vgroup d.toNat g,
    vl := a.vln, g := g, op := op }

/-- A destructive operation issues. -/
def State.vbin (s : State) (i : Instr) (bad : Bool) (et : Nat) (d : Reg) (src : VSrc) (x : Reg) (op : VOp) : Res :=
  s.vgo (s.me.binReq i bad et d src x op)

/-- Integer operations of two sources (R311). -/
def State.vint (s : State) (i : Instr) (op : IOp) (et p : Nat) (d : Reg) (src : VSrc) (x : Reg) : Res :=
  s.vbin i false et d src x (.int op et p d.toNat src)

/-- Floating operations of two sources (R319); `rounds` when the operation rounds by frm. -/
def State.vflt (s : State) (i : Instr) (op : FOp) (rounds : Bool) (et p : Nat) (d : Reg) (src : VSrc) (x : Reg) : Res :=
  s.vbin i (rounds && s.me.frmBad) et d src x (.flt op et p d.toNat src)

/-- The request of a move or one-source operation: vd := op(vs). -/
def Hart.unaReq (a : Hart) (i : Instr) (bad : Bool) (et : Nat) (clash : Bool) (d : Reg) (src : VSrc) (x : Reg) (op : VOp)
    (pre : Hart → Hart) : VReq :=
  let g := a.gsz
  { i := i, bad := bad || decide (etWidth a.fmts et ≠ a.vw), fmts := [et],
    groups := (d.toNat, g) :: src.groups g, clash := clash, src := src.names x g, dst := vgroup d.toNat g,
    pre := pre, vl := a.vln, g := g, op := op }

/-- A move or one-source operation issues. -/
def State.vuna (s : State) (i : Instr) (bad : Bool) (et : Nat) (clash : Bool) (d : Reg) (src : VSrc) (x : Reg) (op : VOp)
    (pre : Hart → Hart) : Res :=
  s.vgo (s.me.unaReq i bad et clash d src x op pre)

/-- One-source operations (R311, R319, R334). -/
def State.vone (s : State) (i : Instr) (op : EOp) (rounds : Bool) (et p : Nat) (d vs : Reg) : Res :=
  s.vuna i (rounds && s.me.frmBad) et false d (vreg vs) vs (.one op et p d.toNat vs.toNat) id

/-- The request of an operation of three registers with one width: vd := op(vs1, vs2, vd) (R311, R319); `b2` names the
second source. -/
def Hart.threeReq (a : Hart) (i : Instr) (op : TOp) (bad : Bool) (et p : Nat) (d va : Reg) (b2 : Nat) : VReq :=
  let g := a.gsz
  { i := i, bad := bad || decide (etWidth a.fmts et ≠ a.vw), fmts := [et],
    groups := [(d.toNat, g), (va.toNat, g), (b2, g)],
    src := vgroup d.toNat g ++ vgroup va.toNat g ++ vgroup b2 g, dst := vgroup d.toNat g,
    vl := a.vln, g := g, op := .three op et p d.toNat va.toNat b2 }

/-- An operation of three registers issues. -/
def State.vthree (s : State) (i : Instr) (op : TOp) (bad : Bool) (et p : Nat) (d va : Reg) (b2 : Nat) : Res :=
  s.vgo (s.me.threeReq i op bad et p d va b2)

/-- The request of a widening operation (R312). -/
def Hart.wideReq (a : Hart) (i : Instr) (acc : Bool) (et p : Nat) (d va vb : Reg) : VReq :=
  let g := a.gsz
  { i := i, bad := decide (etWidth a.fmts et ≠ a.vw) || decide (g = 8),
    groups := [(d.toNat, 2 * g), (va.toNat, g), (vb.toNat, g)],
    clash := groupsMeet d.toNat (2 * g) va.toNat g || groupsMeet d.toNat (2 * g) vb.toNat g,
    src := (if acc then vgroup d.toNat (2 * g) else []) ++ vgroup va.toNat g ++ vgroup vb.toNat g,
    dst := vgroup d.toNat (2 * g), vl := a.vln, g := g,
    op := .three (if acc then .wmac else .wmul) et p d.toNat va.toNat vb.toNat }

/-- A widening operation issues. -/
def State.vwide (s : State) (i : Instr) (acc : Bool) (et p : Nat) (d va vb : Reg) : Res :=
  s.vgo (s.me.wideReq i acc et p d va vb)

/-- The request of a compare (R314): the destination is a predicate. -/
def Hart.cmpReq (a : Hart) (i : Instr) (cc et p : Nat) (d : Reg) (src : VSrc) (x : Reg) : VReq :=
  let g := a.gsz
  { i := i, bad := decide (etWidth a.fmts et ≠ a.vw), groups := (d.toNat, g) :: src.groups g,
    src := vgroup d.toNat g ++ src.names x g, vl := a.vln, g := g, op := .cmp cc et p d.toNat src }

/-- A compare issues. -/
def State.vcmp (s : State) (i : Instr) (cc et p : Nat) (d : Reg) (src : VSrc) (x : Reg) : Res :=
  s.vgo (s.me.cmpReq i cc et p d src x)

/-- Select (R316): an nf vcfg raises cause 2. -/
def State.vsel (s : State) (i : Instr) (bad : Bool) (et p : Nat) (d : Reg) (src : VSrc) (x : Reg) : Res :=
  s.vbin i (bad || decide (12 ≤ s.me.vcfg.et.toNat)) et d src x (.sel et p d.toNat src)

/-- The request of a reduction (R317, R318): the destination is one register, aligned to itself. -/
def Hart.redReq (a : Hart) (i : Instr) (op : RedOp) (bad : Bool) (et p : Nat) (d vs : Reg) : VReq :=
  let g := a.gsz
  { i := i, bad := bad || decide (etWidth a.fmts et ≠ a.vw), groups := [(d.toNat, 1), (vs.toNat, g)],
    src := vgroup d.toNat 1 ++ vgroup vs.toNat g, dst := vgroup d.toNat 1, vl := a.vln, g := g,
    op := .red op et p d.toNat vs.toNat }

/-- A reduction issues. -/
def State.vred (s : State) (i : Instr) (op : RedOp) (bad : Bool) (et p : Nat) (d vs : Reg) : Res :=
  s.vgo (s.me.redReq i op bad et p d vs)

/-- The request of a predicate operation (R315) or of a VFIFO word (R237): neither width nor groups are checked. -/
def Hart.predReq (a : Hart) (i : Instr) (src dst : List (RFile × Nat)) (op : VOp) : VReq :=
  { i := i, src := src, dst := dst, vl := a.vl, g := a.gsz, op := op }

/-- A predicate operation or VFIFO push issues. -/
def State.vpred (s : State) (i : Instr) (src dst : List (RFile × Nat)) (op : VOp) : Res := s.vgo (s.me.predReq i src dst op)

/-- The request of a conversion (R320, R321): each group has its own size, and the hart's srbase moves on when a `.sr` form
issues. -/
def Hart.cvtReq (a : Hart) (i : Instr) (sr : Bool) (et ets p : Nat) (d vs : Reg) : VReq :=
  let wd := etWidth a.fmts et
  let ws := etWidth a.fmts ets
  let gd := cvtGroup a.gsz wd ws
  let gs := cvtGroup a.gsz ws wd
  { i := i, bad := decide (max wd ws ≠ a.vw) || (!sr && decide (5 ≤ a.frm.toNat)), fmts := [et, ets],
    groups := [(d.toNat, gd), (vs.toNat, gs)],
    clash := decide (wd ≠ ws) && groupsMeet d.toNat gd vs.toNat gs,
    src := vgroup vs.toNat gs, dst := vgroup d.toNat gd,
    pre := fun h => if sr then { h with srbase := h.srbase + BitVec.ofNat 32 h.vl } else h,
    vl := a.vln, g := a.gsz,
    op := .cvt et ets p d.toNat vs.toNat sr a.srseed a.srbase.toNat }

/-- A conversion issues. -/
def State.vcvt (s : State) (i : Instr) (sr : Bool) (et ets p : Nat) (d vs : Reg) : Res :=
  s.vgo (s.me.cvtReq i sr et ets p d vs)

/-- The element that VMVX and VMVS name (R327): its register. -/
def elemReg (n w idx : Nat) : Nat := n + idx * w / 1024

/-- VCFG and VCFGI (R305): fixed; they leave veix and the queue. -/
def State.vconfigure (s : State) (i : Instr) (et : BitVec 4) (g : BitVec 2) (src : List Reg) (avl : Nat) (d : Reg) : Res :=
  let a := s.me
  let n := min avl (1024 * 2 ^ g.toNat / etWidth a.fmts et.toNat)
  s.guarded [trapIf (a.fmtInvalid et.toNat) 30 (wordOf i), a.ready (xs src) (xs [d])]
    (.next (s.updMe (fun h =>
      { (h.setX d (BitVec.ofNat 64 n)).advance 4 with vl := n, vcfg := ⟨h.vcfg.bfz, g, et⟩ })))

/-- A check on the register that an index names, made once the index is present: cause 24 comes before the index's own error mark
(R183). -/
def Hart.indexStop (a : Hart) (x : Reg) (n : Int) (g : Nat) : Option Stop :=
  if (a.cond .x x.toNat).1 = .present then (a.groupStop n g).map (·.atElem a.veix.toNat) else none

/-- VMVX and VMVS (R327): they ignore vcfg, vl and predicates. -/
def State.velem (s : State) (i : Instr) (et : Nat) (n : Reg) (idx : Reg) (src dst : List (RFile × Nat)) (store : Bool)
    (op : Nat → VOp) : Res :=
  let a := s.me
  let k := (a.xv idx).toNat
  let r := elemReg n.toNat (etWidth a.fmts et) k
  let here := [(RFile.v, r)]
  s.guarded [(trapIf (a.fmtInvalid et) 30 (wordOf i)).map (·.atElem a.veix.toNat), a.indexStop idx r 1,
      (a.markedAny (xs [idx])).map (·.atElem a.veix.toNat), (a.presentAll (xs [idx])).map Stop.atVec]
    (s.vgo { i := i, groups := [(r, 1)], src := here ++ src, dst := (if store then here else []) ++ dst,
             vl := 0, g := 1, op := op k })

/-- VIDXRD and VIDXWR (R247): the encoded group is checked first, then the indexed one. `rd` reads the indexed group. -/
def State.vindexed (s : State) (i : Instr) (rd t : Bool) (imm x v : Reg) : Res :=
  let a := s.me
  let g := a.gsz
  let n : Int := (a.xv x).toInt + imm.toInt
  let k := n.toNat
  let dst := if rd then v.toNat else k
  let src := if rd then k else v.toNat
  s.guarded [(a.groupStop v.toNat g).map (·.atElem a.veix.toNat), a.indexStop x n g,
      (a.markedAny (xs [x])).map (·.atElem a.veix.toNat), (a.presentAll (xs [x])).map Stop.atVec]
    (s.vgo { i := i, src := vgroup src g, dst := vgroup dst g, pre := fun h => if t then h.presX x .opened else h,
             vl := a.vl, g := g, op := .copy dst src g })

end Sys2Proof.Machine
end

