-- ==== Sys2Proof/Machine/Custom0.lean ====
section
/-!
DEFINITION. Custom-0: taking forms (R224), bit fields (R242), presence operations (R243 to R246), VPUSH (R332), PWHINT
(R256), SBWAIT (R257), VFENCE (R258); and how late results and remote writes land (R172, R174).
-/
namespace Sys2Proof.Machine

/-! ### Taking forms (R173, R224) -/

/-- A register taken when its take bit is set: it becomes open. -/
def Hart.takeIf (a : Hart) (t : Bool) (r : Reg) : Hart := if t then a.presX r .opened else a

/-- A fixed result of two sources, either of which may be taken: both are read, then taken, then the destination is written. -/
def State.taken2 (s : State) (u t : Bool) (b a d : Reg) (v : Word) : Res :=
  s.guarded [s.me.ready (xs [a, b]) (xs [d])]
    (.next (s.updMe (fun h => (((h.takeIf t a).takeIf u b).setX d v).advance 4)))

/-- A taking form of a standard operation. -/
def State.taking (s : State) (op : RROp) (u t : Bool) (b a d : Reg) : Res :=
  s.taken2 u t b a d (rrResult op (s.me.xv a) (s.me.xv b))

/-- TAKING_ADD (R224). -/
def execTakingAdd (u t : Bool) (b a d : Reg) (s : State) : Res := s.taking .add u t b a d
/-- TAKING_SUB (R224). -/
def execTakingSub (u t : Bool) (b a d : Reg) (s : State) : Res := s.taking .sub u t b a d
/-- TAKING_SLL (R224). -/
def execTakingSll (u t : Bool) (b a d : Reg) (s : State) : Res := s.taking .sll u t b a d
/-- TAKING_SLT (R224). -/
def execTakingSlt (u t : Bool) (b a d : Reg) (s : State) : Res := s.taking .slt u t b a d
/-- TAKING_SLTU (R224). -/
def execTakingSltu (u t : Bool) (b a d : Reg) (s : State) : Res := s.taking .sltu u t b a d
/-- TAKING_XOR (R224). -/
def execTakingXor (u t : Bool) (b a d : Reg) (s : State) : Res := s.taking .xor u t b a d
/-- TAKING_SRL (R224). -/
def execTakingSrl (u t : Bool) (b a d : Reg) (s : State) : Res := s.taking .srl u t b a d
/-- TAKING_SRA (R224). -/
def execTakingSra (u t : Bool) (b a d : Reg) (s : State) : Res := s.taking .sra u t b a d
/-- TAKING_OR (R224). -/
def execTakingOr (u t : Bool) (b a d : Reg) (s : State) : Res := s.taking .or u t b a d
/-- TAKING_AND (R224). -/
def execTakingAnd (u t : Bool) (b a d : Reg) (s : State) : Res := s.taking .and u t b a d
/-- TAKING_ADDW (R224). -/
def execTakingAddw (u t : Bool) (b a d : Reg) (s : State) : Res := s.taking .addw u t b a d
/-- TAKING_SUBW (R224). -/
def execTakingSubw (u t : Bool) (b a d : Reg) (s : State) : Res := s.taking .subw u t b a d
/-- TAKING_SLLW (R224). -/
def execTakingSllw (u t : Bool) (b a d : Reg) (s : State) : Res := s.taking .sllw u t b a d
/-- TAKING_SRLW (R224). -/
def execTakingSrlw (u t : Bool) (b a d : Reg) (s : State) : Res := s.taking .srlw u t b a d
/-- TAKING_SRAW (R224). -/
def execTakingSraw (u t : Bool) (b a d : Reg) (s : State) : Res := s.taking .sraw u t b a d
/-- TAKING_MUL (R224). -/
def execTakingMul (u t : Bool) (b a d : Reg) (s : State) : Res := s.taking .mul u t b a d
/-- TAKING_MULH (R224). -/
def execTakingMulh (u t : Bool) (b a d : Reg) (s : State) : Res := s.taking .mulh u t b a d
/-- TAKING_MULHU (R224). -/
def execTakingMulhu (u t : Bool) (b a d : Reg) (s : State) : Res := s.taking .mulhu u t b a d
/-- TAKING_MULW (R224). -/
def execTakingMulw (u t : Bool) (b a d : Reg) (s : State) : Res := s.taking .mulw u t b a d
/-- TAKING_MIN (R224). -/
def execTakingMin (u t : Bool) (b a d : Reg) (s : State) : Res := s.taking .min u t b a d
/-- TAKING_MAX (R224). -/
def execTakingMax (u t : Bool) (b a d : Reg) (s : State) : Res := s.taking .max u t b a d
/-- TAKING_MINU (R224). -/
def execTakingMinu (u t : Bool) (b a d : Reg) (s : State) : Res := s.taking .minu u t b a d
/-- TAKING_MAXU (R224). -/
def execTakingMaxu (u t : Bool) (b a d : Reg) (s : State) : Res := s.taking .maxu u t b a d

/-! ### Bit fields (R242) -/

/-- BFX and BFXS of a value under a field word. -/
def bfxValue (signed : Bool) (v xf : Word) : Word :=
  let off := xf.toNat % 256
  let wid := xf.toNat / 256 % 256
  let w := min wid 64
  if wid = 0 ∨ off ≥ 64 then 0
  else
    let r := v.toNat / 2 ^ off % 2 ^ w
    if signed then sextTo w r else BitVec.ofNat 64 r

/-- BFI of a value into a register under a field word. -/
def bfiValue (d v xf : Word) : Word :=
  let off := xf.toNat % 256
  let wid := xf.toNat / 256 % 256
  let w := min wid 64
  if wid = 0 ∨ off ≥ 64 then d
  else
    let m : Word := BitVec.ofNat 64 ((2 ^ w - 1) * 2 ^ off)
    (d &&& ~~~m) ||| ((v <<< off) &&& m)

/-- BFX (R242). -/
def execBfx (u t : Bool) (b a d : Reg) (s : State) : Res :=
  s.taken2 u t b a d (bfxValue false (s.me.xv a) (s.me.xv b))
/-- BFXS (R242). -/
def execBfxs (u t : Bool) (b a d : Reg) (s : State) : Res :=
  s.taken2 u t b a d (bfxValue true (s.me.xv a) (s.me.xv b))
/-- BFI (R242): it reads its destination too. -/
def execBfi (u t : Bool) (b a d : Reg) (s : State) : Res :=
  s.guarded [s.me.ready (xs [a, b, d]) []]
    (s.taken2 u t b a d (bfiValue (s.me.xv d) (s.me.xv a) (s.me.xv b)))

/-! ### Presence operations (R243 to R246) -/

/-- The check of a remote write's target hart (R243). -/
def State.targetStop (s : State) (x : Word) : Option Stop :=
  trapIf (decide (12287 < x.toNat) || decide (s.partOf x.toNat ≠ s.partOf s.cur)) 31 x

/-- A remote write is sent and its writer parks until it lands (R174, R243). -/
def State.sendWrite (s : State) (w : RWrite) : Res :=
  State.parks { s with rwrites := s.rwrites ++ [w] } (.held w.target w.file w.reg)

/-- A PUTX or VPUSH of the hart at issue is already under way. -/
def State.writing (s : State) : Bool := s.rwrites.any (fun w => !w.wake && w.src == s.cur)

/-- PUTX (R243): `d` is a literal register number of the hart that `a` names, `b` the value. A wrong hart number traps before
an empty `b` parks. -/
def execPutx (u t : Bool) (b a d : Reg) (s : State) : Res :=
  if s.writing then .next s
  else if d = 0 then s.illegal (.putx u t b a d)
  else
    s.guarded [s.me.markedAny (xs [a, b]), s.me.presentAll (xs [a]), s.targetStop (s.me.xv a), s.me.presentAll (xs [b])]
      (s.sendWrite { wake := false, src := s.cur, target := (s.me.xv a).toNat, file := .x, reg := d.toNat,
                     val := s.me.xv b,
                     takes := (if t then [a.toNat] else []) ++ (if u then [b.toNat] else []) })

/-- VPUSH (R332): group `b` goes to group `d` of the hart that `a` names; the target's checks come before an empty group parks. -/
def execVpush (t : Bool) (b a d : Reg) (s : State) : Res :=
  let g := s.me.gsz
  let x := s.me.xv a
  let r : VReq := {
    i := .vpush t b a d, bad := decide (d = 0), groups := [(b.toNat, g)]
    src := xs [a] ++ vgroup b.toNat g, vl := 0, g := g, op := .push false }
  if s.writing then .next s
  else
    s.guarded [(s.me.vchecks r).map (·.atElem s.me.veix.toNat)]
      (s.vguard { r with src := xs [a] }
        (s.guarded [(s.targetStop x).map (·.atElem s.me.veix.toNat),
            if (s.hart x.toNat).task.isSome then ((s.hart x.toNat).groupStop d.toNat g).map (·.atElem s.me.veix.toNat) else none,
            (s.me.presentAll (vgroup b.toNat g)).map Stop.atVec]
          (s.sendWrite { wake := false, src := s.cur, target := x.toNat, file := .v, reg := d.toNat, g := g,
                         vs := b.toNat, takes := if t then [a.toNat] else [] })))

/-- TAKE (R244): the read is synchronised whatever the take bit. -/
def execTake (_t : Bool) (a d : Reg) (s : State) : Res :=
  s.guarded [s.me.ready (xs [a]) (xs [d])]
    (.next (s.updMe (fun h => ((h.presX a .opened).setX d (s.me.xv a)).advance 4)))

/-- The file of a literal file field. -/
def fileOf (b : Reg) : RFile := if b = 0 then .x else if b = 1 then .f else .v

/-- A register made open, its mark discarded (R245). -/
def Hart.open_ (a : Hart) (fl : RFile) (r : Reg) : Hart :=
  match fl with
  | .x => if r = 0 then a else { a with x := setReg a.x r ⟨(getReg a.x r).val, .opened, none⟩ }
  | .f => { a with f := setReg a.f r ⟨(getReg a.f r).val, .opened, none⟩ }
  | .v => a.openV r.toNat 1

/-- The vector register that a presence operation names lies in the allocation (R176). -/
def Hart.fileStop (a : Hart) (fl : RFile) (r : Nat) : Option Stop :=
  match fl with
  | .v => a.groupStop r 1
  | _ => none

/-- PREMPTY (R245). -/
def execPrempty (b d : Reg) (s : State) : Res :=
  let fl := fileOf b
  if 2 < b.toNat ∨ (fl = .x ∧ d = 0) then s.illegal (.prempty b d)
  else
    s.guarded [s.me.fileStop fl d.toNat, s.me.ownedAll [(fl, d.toNat)]]
      (.next (s.updMe (fun h => (h.open_ fl d).advance 4)))

/-- The number PRTEST answers for a presence. -/
def presenceNo : Presence → Nat
  | .present => 0
  | .pending => 1
  | .opened => 2

/-! ### Landing (R172, R174, R332) -/

/-- A hart parked to write a register that a result has reached goes on. One that is parked to read it goes on at its next turn: until
then its park is known to be over, and no interrupt ends it (R175). -/
def Hart.unparkOn (a : Hart) (fl : RFile) (r g : Nat) : Hart :=
  match a.park with
  | some (.owed fl' r') => if decide (fl' = fl) && decide (r ≤ r') && decide (r' < r + g) then { a with park := none } else a
  | _ => a

/-- The line fill that a late result waited for has come: the line enters the core's L1 data cache, its filter and the slices
(R58, R71, R75). -/
def State.fillL1 (s : State) (h : Nat) (l : Late) : State :=
  match l.fill with
  | none => s
  | some f => s.touch (coreOf h) f.2 f.1 false

/-- LATE_RESULT_LAND (R172): the `k`-th late result owed to a hart, none earlier being owed to the same register. -/
def execLateResultLand (s : State) : Res :=
  let a := s.hart s.ev.h
  match a.late[s.ev.k]? with
  | none => .next s
  | some l =>
    if (a.late.take s.ev.k).any (fun x => decide (x.file = l.file) && x.reg == l.reg) then .next s
    else
      .next ((s.setHart s.ev.h
        (({ a with late := a.late.eraseIdx s.ev.k }.land l).unparkOn l.file l.reg.toNat 1)).fillL1 s.ev.h l)

/-- The register of a write is open to it: a scalar one that its own writer takes counts as open (R173). -/
def State.openFor (s : State) (w : RWrite) : Bool :=
  let t := s.hart w.target
  (List.range w.g).all (fun k => decide ((t.cond w.file (w.reg + k)).1 = .opened)) ||
  (decide (w.file = .x) && w.src == w.target && w.takes.contains w.reg)

/-- What a write still waits for beside an open register: a task in the target slot; for a group, that queued work of the
target no longer names it (R333) and that earlier work of the writer has written the source (R332). -/
def State.landWaits (s : State) (w : RWrite) : Bool :=
  let t := s.hart w.target
  let a := s.hart w.src
  t.task.isNone ||
  (decide (w.file = .v) &&
    (t.vq.any (fun c => overlap (c.reads ++ c.writes) (span w.reg w.g)) ||
     !((s.quad (quadOf w.target)).clearFor w.target t.seq (span w.reg w.g) (span w.reg w.g)) ||
     a.vq.any (fun c => overlap c.writes (span w.vs w.g)) ||
     !((s.quad (quadOf w.src)).clearFor w.src a.seq (span w.vs w.g) [])))

/-- A remote write is held at a register (R174, R246): one that names it and does not find its registers open. -/
def State.heldAt (s : State) (h : Nat) (fl : RFile) (r : Nat) : Bool :=
  s.rwrites.any (fun w => w.target == h && decide (w.file = fl) && decide (w.reg ≤ r) && decide (r < w.reg + w.g) &&
    (s.landWaits w || !s.openFor w))

/-- PRTEST (R246). -/
def execPrtest (b a d : Reg) (s : State) : Res :=
  let fl := fileOf b
  if 2 < b.toNat then s.illegal (.prtest b a d)
  else
    let c := s.me.cond fl a.toNat
    let v := if fl = .x ∧ a = 0 then 0
      else presenceNo c.1 + bitNat (s.me.markOn fl a.toNat).isSome * 4 + bitNat (s.heldAt s.cur fl a.toNat) * 8
    s.guarded [s.me.fileStop fl a.toNat, s.me.ownedAll (xs [d])]
      (.next (s.updMe (fun h => (h.setX d (BitVec.ofNat 64 v)).advance 4)))

/-- The writer goes on: it takes what it read, and a VPUSH clears veix (R185). -/
def Hart.wrote_ (a : Hart) (w : RWrite) : Hart :=
  let b := (w.takes.foldl (fun h r => h.presX (regNo r) .opened) a).advance 4
  match w.file with
  | .v => { b with veix := 0 }
  | _ => b

/-- The target's registers after a write. -/
def Hart.receive (t : Hart) (w : RWrite) (vals : List (BitVec 1024)) : Hart :=
  match w.file with
  | .x => (t.setX (regNo w.reg) w.val).unparkOn .x w.reg 1
  | .f => (t.setF (regNo w.reg) w.val).unparkOn .f w.reg 1
  | .v =>
    let b := (vals.zipIdx).foldl (fun h x => (h.setV (w.reg + x.2) x.1).wrote (w.reg + x.2) 128) t
    (b.presentV w.reg w.g).unparkOn .v w.reg w.g

/-- Writes of one source to one register land in the order they were sent (R64, R174). -/
def earlierWrite (w x : RWrite) : Bool :=
  x.target == w.target && decide (x.file = w.file) && x.reg == w.reg &&
  (if w.wake then x.wake && quadOf x.src == quadOf w.src else !x.wake && x.src == w.src)

/-- A write lands where it arrives: it waits for nothing. A wake of a stopped partition waits for its quads (R382). -/
def State.landsNow (s : State) (w : RWrite) : Bool :=
  !s.landWaits w && s.openFor w && !s.quadStopped (quadOf w.target) && (!w.wake || decide (w.part = s.partOf w.target))

/-- Wakes of one quad to one quad arrive in the order they were sent (R64): one that would land on its arrival lands before those
sent after it, whatever their registers. -/
def State.sentBefore (s : State) (w x : RWrite) : Bool :=
  w.wake && x.wake && quadOf x.src == quadOf w.src && quadOf x.target == quadOf w.target && s.landsNow x

/-- REMOTE_WRITE_LAND (R174): the `k`-th remote write under way. A group outside the allocation of the task bound in the
target slot takes cause 24 at the VPUSH (R332). -/
def execRemoteWriteLand (s : State) : Res :=
  match s.rwrites[s.ev.k]? with
  | none => .next s
  | some w =>
    let t := { s with rwrites := s.rwrites.eraseIdx s.ev.k }
    let badGroup := decide (w.file = .v) && (s.hart w.target).task.isSome && ((s.hart w.target).groupStop w.reg w.g).isSome
    if (s.rwrites.take s.ev.k).any (fun x => earlierWrite w x || s.sentBefore w x) then .next s
    else if badGroup then
      .next (t.updHart w.src (fun a => a.trap 24 (BitVec.ofNat 64 w.reg) a.veix.toNat))
    else if !s.landsNow w then .next s
    else
      let vals := if w.file = .v then (List.range w.g).map (fun k => (s.hart w.src).vv (w.vs + k)) else []
      let u := if w.wake then t else t.updHart w.src (fun a => a.wrote_ w)
      .next (u.updHart w.target (fun a => a.receive w vals))

/-- A limit in cycles: 2^exp, 0 for none; 1 to 9 act as 10 and above 40 as 40 (R187). -/
def limitOf (e : Nat) : Option Nat := if e = 0 then none else some (2 ^ (max 10 (min e 40)))

/-- The presence limit of a hart's partition. -/
def State.presenceLimit (s : State) (h : Nat) : Option Nat := limitOf (fieldOf (s.prt (s.partOf h)).wdlim.toNat 0 8)
/-- The queue limit of a hart's partition. -/
def State.queueLimit (s : State) (h : Nat) : Option Nat := limitOf (fieldOf (s.prt (s.partOf h)).wdlim.toNat 32 8)

/-- Something that began at the clock `since` of a quad has lasted longer than a limit in cycles of that quad (R391). -/
def State.past (s : State) (q : Nat) (lim : Option Nat) (since : Nat) : Bool :=
  match lim with
  | none => false
  | some n => decide (since + 34 * n < s.clockOf q)

/-- The number of a register file (R186). -/
def RFile.no : RFile → Nat
  | .x => 0
  | .f => 1
  | .v => 2

/-- The register code of R186. -/
def presenceCode (writer : Bool) (h : Nat) (fl : RFile) (r : Nat) : Word :=
  BitVec.ofNat 64 (bitNat writer * 2 ^ 63 + h % 2 ^ 14 * 2 ^ 32 + fl.no * 32 + r % 32)

/-- PRESENCE_TIMEOUT (R186): a hart parked on one register past the limit takes cause 32; a held write is withdrawn. -/
def execPresenceTimeout (s : State) : Res :=
  let h := s.ev.h
  let a := s.hart h
  if !s.past (quadOf h) (s.presenceLimit h) a.sinceQ then .next s
  else match a.park with
    | some (.empty fl r vec) =>
      if (a.cond fl r).1 = .present then .next s
      else .next (s.setHart h (a.trap 32 (presenceCode false h fl r) (if vec then a.veix.toNat else 0)))
    | some (.held t fl r) =>
      .next ({ s with rwrites := s.rwrites.filter (fun w => w.wake || w.src != h) }.setHart h
        (a.trap 32 (presenceCode true t fl r) (if fl = RFile.v then a.veix.toNat else 0)))
    | _ => .next s

/-! ### Waits and hints (R256 to R258) -/

/-- The first failure that a wait on some tokens still has to report (R163). -/
def Hart.tokenErr (a : Hart) (m : BitVec 8) : Option TokenErr :=
  let l := a.sbErr.filter (fun e => m.getLsbD e.token)
  l.find? (fun e => l.all (fun x => decide (e.id ≤ x.id)))

/-- Some token of a mask has pending operations. -/
def Hart.tokensBusy (a : Hart) (m : BitVec 8) : Bool := (a.sb.toList.zipIdx).any (fun p => m.getLsbD p.2 && decide (p.1 ≠ 0))

/-- The end of a wait on tokens (R163, R257): the earliest failure is reported and consumed, or the hart acquires and goes on. -/
def State.waitTokens (s : State) (m : BitVec 8) : Res :=
  match s.me.tokenErr m with
  | some e => State.trap (s.updMe (fun a => { a with sbErr := a.sbErr.erase e })) e.cause e.fva
  | none => .next (s.acquires.advance 4)

/-- SBWAIT (R257); with an empty MASK it has no effect (R223). -/
def execSbwait (m : BitVec 8) (s : State) : Res :=
  if m = 0 then .next (s.advance 4)
  else s.reporting (s.me.due true true true)
    (s.guarded [parkIf (s.me.tokensBusy m) (.sbwait m)] (s.waitTokens m))

/-- Vector and matrix work of a hart has results still to write (R258). -/
def State.vworks (s : State) (h : Nat) : Bool :=
  let q := s.quad (quadOf h)
  !(s.hart h).vq.isEmpty || !(q.mBefore h (s.hart h).seq).isEmpty || q.drains.any (fun d => d.hart == h && !d.rows.isEmpty)

/-- VFENCE (R258). -/
def execVfence (s : State) : Res :=
  s.reporting (s.me.due false true true)
    (s.guarded [parkIf (s.vworks s.cur) .vfence] (.next (s.advance 4)))

/-- PWHINT (R256): it raises the core's vote until its time is over. R256 and R391 do not say which clock counts that time: reference
cycles do (DESIGN CHOICE, log 7). -/
def execPwhint (a : Reg) (s : State) : Res :=
  let v := s.me.xv a
  s.guarded [s.me.ready (xs [a]) []]
    (.next (((s.updCore (coreOf s.cur) (fun c => { c with
      hints := c.hints ++ [(v.setWidth 3, s.time + v.toNat / 256 % 256 * 1024)] })).repoint (quadOf s.cur)).advance 4))

/-- PWHINT_EXPIRE (R256): the hints of the core numbered `p` whose time is over raise its vote no longer. -/
def execPwhintExpire (s : State) : Res :=
  .next ((s.updCore s.ev.p (fun c => { c with hints := c.hints.filter (fun x => decide (s.time < x.2)) })).repoint (s.ev.p / 4))

end Sys2Proof.Machine
end

