-- ==== Sys2Proof/Machine/VectorMem.lean ====
section
/-!
DEFINITION. Vector memory (R268 to R281): loads act at their issue, stores and VAMO translate at issue and act from the
queue; SLIDE_PREFETCH (R167).
-/
namespace Sys2Proof.Machine

/-! ### Elements and their addresses -/

/-- Active elements at issue (R269). -/
def Hart.activeEls (a : Hart) (p : Nat) : List Nat :=
  (List.range a.vln).filter (fun e => decide (a.veix.toNat ≤ e) && a.pbit p e)

/-- An address displaced by a signed number of bytes. -/
def displace (b : Word) (i : Int) : Word := b + BitVec.ofInt 64 i

/-- The address of an element of width `w` at unit stride (R270), twice with the nibble of a 4-bit element. -/
def unitAddr (b : Word) (w e : Nat) : Word × Nat :=
  if w = 4 then (displace b (e / 2 : Nat), e % 2) else (displace b (e * w / 8 : Nat), 0)

/-- Bytes of an element's access. -/
def elemBytes (w : Nat) : Nat := max 1 (w / 8)

/-- A resolved element: number, virtual address, nibble, device physical address, treatment (R27), the stamp of a frozen page's
translation, the pages of the entry that translated it (R34), and its key. -/
structure REl where
  e : Nat
  va : Word
  nib : Nat
  pa : Nat
  tr : Treat
  stamp : Option Nat
  page : Nat := 0
  np : Nat := 1
  key : Nat := 0
deriving DecidableEq, Repr

/-- The line request of a resolved element. -/
def REl.req (x : REl) : LineReq := (lineOf x.pa, x.tr, x.stamp)

/-- Elements with their addresses. -/
abbrev Els := List (Nat × Word × Nat)

/-- The lowest misaligned element (R272 order 6). -/
def firstMis (n : Nat) (els : Els) : Option (Nat × Word) :=
  match els.find? (fun x => decide (x.2.1.toNat % n ≠ 0)) with
  | none => none
  | some x => some (x.1, x.2.1)

/-- An element whose access has passed its checks. -/
def Acc.resolved (c : Acc) (e : Nat) (va : Word) (nib cp : Nat) : REl :=
  { e := e, va := va, nib := nib, pa := c.pa, tr := treatOf c.e.mt cp, stamp := c.e.replica, page := c.e.va / 4096
    np := c.e.size / 4096, key := c.key }

/-- A translated element cannot be performed yet at its home slice (R75, R76). -/
def REl.busy (x : REl) (s : State) (q : Nat) (write : Bool) : Bool :=
  decide (x.tr ≠ .device) && s.sliceBusy q x.pa write x.stamp

/-- Translation and checks of elements, ascending (R31, R272 order 7): those that pass before the first that stops. `dev` is
the cause a device page makes of the element, 0 for none; an element on the line of a store error stops there (R180). -/
def State.resolve (s : State) (acc : AccKind) (cp : Nat) (dev : Nat → Nat) : Els → State × List REl × Option (Nat × Stop)
  | [] => (s, [], none)
  | (e, va, nib) :: t =>
    match s.access s.cur { s.vreqOf s.cur with elem := e } va acc 0 (dev e) with
    | .error st => (s, [], some (e, st))
    | .ok c =>
      match s.me.storeError (lineOf c.pa) with
      | some d => (c.s, [], some (e, .owed d e))
      | none =>
        let r := c.s.resolve acc cp dev t
        (r.1, c.resolved e va nib cp :: r.2.1, r.2.2)

/-- The waits of a vector memory instruction at issue: its own queued work (R114), and R179. -/
def State.memWait (s : State) (empty : Bool) (rd wr : List Nat) : Option Stop :=
  parkIf ((empty && !s.me.vq.isEmpty) || !((s.quad (quadOf s.cur)).clearFor s.cur s.me.seq rd wr)) .faultPoint

/-! ### Loads -/

/-- The bytes of an element from the slide buffer, when it holds them all (R280). -/
def bufBytes (buf : Tab Byte) (va : Word) (n : Nat) : Option Nat :=
  let l := (List.range n).map (fun k => va.toNat + k)
  if !buf.isEmpty && l.all (fun a => buf.any (fun b => b.1 == a)) then some (leNat (l.map (fun a => Tab.get buf a 0))) else none

/-- Resolved elements read into a group, ascending; an uncorrectable error ends it at its element (R79, R273). The slide buffer
serves no read under a translation with the frozen flag (R99). -/
def State.loadAll (s : State) (h d w : Nat) (buf : Tab Byte) : List REl → State × Option (Nat × Stop)
  | [] => (s, none)
  | x :: t =>
    let n := elemBytes w
    if s.badRange x.pa n && !isMmio x.pa then (s, some (x.e, .report 5 x.va x.e (.bad (s.unitOf none x.pa) x.pa)))
    else
      let r := match if x.stamp.isSome then none else bufBytes buf x.va n with
        | some v => (v, s)
        | none => s.fetchData x.key x.pa n
      let v := if w = 4 then r.1 / 16 ^ x.nib % 16 else r.1
      (r.2.updHart h (fun a => (a.sees x.pa n).setElem d w x.e v)).loadAll h d w buf t

/-- The end of a vector load that does not trap. -/
def Hart.loaded (a : Hart) (d g n : Nat) : Hart := { (a.presentV d g).advance n with veix := 0 }

/-- Resolved elements that one step performs: at most the quad's 256 line requests, up to the first that waits at its home slice (R6,
R75, R76). -/
def State.elsNow (s : State) (q : Nat) (write : Bool) (l : List REl) : List REl :=
  (withinLines (fun x => lineOf x.pa) 256 [] l).takeWhile (fun x => !x.busy s q write)

/-- A vector load once its checks have passed (R272 orders 6 and 7, R273, R278). `ff` for VLDFF. What one step does not perform goes on
from the next element in a later one. -/
def State.loadGo (s : State) (d g w len cp : Nat) (ff : Bool) (buf : Tab Byte) (els : Els) : Res :=
  match firstMis (elemBytes w) els with
  | some (e, va) => s.trapAt 4 va e
  | none =>
    let first := match els with
      | [] => 0
      | x :: _ => x.1
    let r := s.resolve .load cp (fun e => if ff && decide (e ≠ first) then 5 else 0) els
    match r.2.2 with
    | some (_, .park p) => r.1.parksFor (vgroup d g) p
    | f =>
      let now := r.1.elsNow (quadOf s.cur) false r.2.1
      let l := r.1.loadAll s.cur d w buf now
      let t := l.1.reach (quadOf s.cur) false (now.map REl.req)
      match l.2, r.2.1.drop now.length with
      | none, x :: _ =>
        State.parksFor (t.updMe (fun a => { a.presentV d g with veix := BitVec.ofNat 12 x.e })) (vgroup d g) .missFull
      | bad, _ =>
        match bad.or f with
        | none => .next (t.updMe (fun a => a.loaded d g len))
        | some (e, st) =>
          if ff ∧ e ≠ first then .next (t.updMe (fun a => { a.loaded d g len with vl := min e a.vlmax }))
          else (if e = first then t else t.updMe (fun a => a.presentV d g)).stop (st.atElem e)

/-- The request of a vector load: `idx` its index group. -/
def Hart.loadReq (a : Hart) (i : Instr) (bad : Bool) (fmts : List Nat) (w : Nat) (d : Reg) (idx : List (Nat × Nat))
    (src : List (RFile × Nat)) : VReq :=
  let g := a.gsz
  { i := i, bad := bad || decide (w ≠ a.vw), fmts := fmts, groups := (d.toNat, g) :: idx
    clash := idx.any (fun x => groupsMeet d.toNat g x.1 x.2)
    src := src ++ (idx.flatMap (fun x => span x.1 x.2)).map (fun r => (RFile.v, r)), dst := vgroup d.toNat g
    vl := a.vln, g := g, op := .push false }

/-- A vector load (R272 to R274): the checks, the presence of what it reads, its waits, then its elements. Its group is pending
while it waits. -/
def State.vload (s : State) (i : Instr) (bad : Bool) (fmts : List Nat) (w cp : Nat) (d : Reg) (idx : List (Nat × Nat))
    (src : List (RFile × Nat)) (rec_ : Option Stop) (ff : Bool) (buf : Tab Byte) (els : Els) (after : Hart → Hart) : Res :=
  let a := s.me
  let g := a.gsz
  s.vguard (a.loadReq i bad fmts w d idx src)
    (match firstStop [rec_.map (·.atElem a.veix.toNat), parkIf (decide (8 ≤ a.vq.length)) .vqFull,
        s.memWait true (idx.flatMap (fun x => span x.1 x.2)) (span d.toNat g)] with
      | some st => s.stopFor (vgroup d.toNat g) st
      | none => (s.updMe after).loadGo d.toNat g w (Instr.len i) cp ff buf els)

/-- A load into the group of the last VLDSR ends its sliding (R280). -/
def Hart.overwrites (d : Reg) (h : Hart) : Hart := h.unslideBy (span d.toNat h.gsz) h.gsz

/-- Elements of the unit-stride forms. -/
def Hart.unitEls (a : Hart) (x : Reg) (w p : Nat) : Els := (a.activeEls p).map (fun e => (e, unitAddr (a.xv x) w e))
/-- Elements of the strided forms: a signed byte stride. -/
def Hart.strideEls (a : Hart) (x st : Reg) (p : Nat) : Els :=
  (a.activeEls p).map (fun e => (e, displace (a.xv x) (e * (a.xv st).toInt), 0))
/-- The width of an index element (R271). -/
def idxWidth (w : Nat) : Nat := if w = 64 then 64 else 32
/-- The size of an index group (R271). -/
def idxGroup (g w : Nat) : Nat := if w = 64 then g else g * 32 / w
/-- Elements of the indexed forms: signed byte offsets. -/
def Hart.indexEls (a : Hart) (x v : Reg) (w p : Nat) : Els :=
  (a.activeEls p).map (fun e =>
    (e, displace (a.xv x) (intOf true (idxWidth w) (a.elem v.toNat (idxWidth w) e)), 0))

/-- Unit-stride loads with an element type. -/
def State.unitLoad (s : State) (i : Instr) (ff : Bool) (et p cp : Nat) (a d : Reg) : Res :=
  let w := etWidth s.me.fmts et
  s.vload i false [et] w cp d [] (xs [a]) none ff [] (s.me.unitEls a w p) (Hart.overwrites d)

/-- VLD (R277). -/
def execVld (e : BitVec 4) (p : BitVec 3) (c : BitVec 2) (a d : Reg) (s : State) : Res :=
  s.unitLoad (.vld e p c a d) false e.toNat p.toNat c.toNat a d
/-- VLDFF (R278). -/
def execVldff (e : BitVec 4) (p : BitVec 3) (c : BitVec 2) (a d : Reg) (s : State) : Res :=
  s.unitLoad (.vldff e p c a d) true e.toNat p.toNat c.toNat a d
/-- VQ_VLD (R240). -/
def execVqVld (d x : Reg) (s : State) : Res := s.unitLoad (.vqVld d x) false s.me.vcfg.et.toNat 0 0 x d

/-- The width of the strided, indexed and atomic forms. -/
def wCode (w : BitVec 2) : Nat := 8 * 2 ^ w.toNat

/-- VLDS (R277). -/
def execVlds (st : Reg) (p : BitVec 3) (c : BitVec 2) (w : BitVec 2) (a d : Reg) (s : State) : Res :=
  s.vload (.vlds st p c w a d) false [] (wCode w) c.toNat d [] (xs [a, st]) none false [] (s.me.strideEls a st p.toNat)
    (Hart.overwrites d)

/-- VLDX (R277). -/
def execVldx (v : Reg) (p : BitVec 3) (c : BitVec 2) (w : BitVec 2) (a d : Reg) (s : State) : Res :=
  let gi := idxGroup s.me.gsz (wCode w)
  s.vload (.vldx v p c w a d) (decide (8 < gi)) [] (wCode w) c.toNat d [(v.toNat, gi)] (xs [a]) none false []
    (s.me.indexEls a v (wCode w) p.toNat) (Hart.overwrites d)

/-! ### VLDSR and its slide buffer (R167, R279, R280) -/

/-- The check of VLDSR's record (R279). -/
def Shape.windowStop (r : Shape) (w vlmax : Nat) : Option Stop :=
  firstStop [trapIf (!r.rsvOk || decide (r.nlv < 1) || decide (4 < r.nlv) || decide (8 * r.esz ≠ w) ||
      decide (r.run ≠ w / 8)) 31 1,
    trapIf (decide (r.sk ≠ 0)) 31 2, trapIf (decide (r.runs < vlmax)) 31 5]

/-- The address of a window's element (R270). -/
def Shape.windowAddr (r : Shape) (b : Word) (e : Nat) : Word := displace b (r.disp true e)

/-- The windows before and after a move along level 0 by 1 to TRIP0 − 1 steps (R280). -/
def Slide.slides (w : Slide) (d : Nat) (r : Shape) (b : Word) : Bool :=
  decide (w.group = d) && decide (w.shape = r) &&
  (List.range (r.trip 0)).any (fun k => decide (0 < k) && decide (b = displace w.base (k * toSigned 32 (r.sstr 0))))

/-- The hart's shape register. -/
def Hart.shape (a : Hart) (k : BitVec 3) : Shape := a.shp[k.toNat]'(k.isLt)

/-- VLDSR (R279, R280): elements from the slide buffer when the window slides and the buffer holds them, from memory
otherwise. -/
def execVldsr (w : BitVec 2) (k : BitVec 3) (p : BitVec 3) (c : BitVec 2) (a d : Reg) (s : State) : Res :=
  let h := s.me
  let r := h.shape k
  let b := h.xv a
  let buf := match h.slide with
    | none => []
    | some x => if x.slides d.toNat r b then x.bytes else []
  s.vload (.vldsr w k p c a d) false [] (wCode w) c.toNat d [] (xs [a]) (r.windowStop (wCode w) h.vlmax) false buf
    ((h.activeEls p.toNat).map (fun e => (e, r.windowAddr b e, 0)))
    (fun h => { h with slide := some ⟨d.toNat, r, b, [], []⟩ })

/-- The bytes at the addresses the next window adds, `k` steps on along level 0, as far as they translate, and none that the hart's
own queued stores are still to write (R114, R167). -/
def State.tailBytes (s : State) (h : Nat) (x : Slide) (k : Nat) : Tab Byte × List Nat :=
  let n := Shape.run x.shape
  let t0 := Shape.trip x.shape 0
  let vas := ((List.range (min (Shape.runs x.shape) 1024)).filter (fun e => decide (t0 ≤ e % t0 + k))).map
    (fun e => displace (Shape.windowAddr x.shape x.base e) (k * toSigned 32 (Shape.sstr x.shape 0)))
  vas.foldl (fun acc va =>
    if 1024 < acc.1.length + n then acc
    else match s.translate (s.vreqOf h) va .load with
      | .ok e pa _ =>
        if e.mt = .device ∨ s.badRange pa n ∨ Tab.get s.bias (pageOf pa) 0 ≠ 0 ∨ (s.hart h).vq.any (fun c => c.op.writesMem pa n) then
          acc
        else ((List.range n).foldl (fun b j => Tab.set b (va.toNat + j) ((s.memUnder (e.keyAt pa)).read (pa + j))) acc.1,
          acc.2 ++ span pa n)
      | _ => acc) ([], [])

/-- SLIDE_PREFETCH (R167): the tail of a hart's next window, `k` steps on (at least one), enters its slide buffer. -/
def execSlidePrefetch (s : State) : Res :=
  let h := s.ev.h
  match (s.hart h).slide with
  | none => .next s
  | some x =>
    let b := s.tailBytes h x (max 1 s.ev.k)
    .next (s.updHart h (fun a => { a with slide := some { x with bytes := b.1, pas := b.2 } }))

/-! ### Stores and VAMO -/

/-- The queued form of resolved elements. -/
def queuedEls (l : List REl) : List QEl := l.map (fun x =>
  { e := x.e, at_ := 2 * x.pa + x.nib, page := x.page, tr := x.tr, np := x.np, key := x.key })

/-- Lines that resolved elements cover whole. -/
def coveredLines (w : Nat) (l : List REl) : List Nat :=
  let bytes := l.flatMap (fun x => if w = 4 then [] else (List.range (w / 8)).map (fun k => x.pa + k))
  ((l.map (fun x => lineOf x.pa)).eraseDups).filter (fun n => (List.range 64).all (fun k => bytes.contains (64 * n + k)))

/-- The lowest element that meets an uncorrectable error: its line is not written whole. -/
def State.storeBad (s : State) (w : Nat) (whole : Bool) (l : List REl) : Option REl :=
  let cov := if whole then coveredLines w l else []
  l.find? (fun x => !isMmio x.pa && s.badLine (lineOf x.pa) && !cov.contains (lineOf x.pa))

/-- The failure at the lowest element; of one element the first listed. -/
def lowestStop : List (Option (Nat × Stop)) → Option (Nat × Stop)
  | [] => none
  | none :: t => lowestStop t
  | some x :: t => match lowestStop t with
    | none => some x
    | some y => if y.1 < x.1 then some y else some x

/-- A vector store or VAMO once its checks have passed: elements below the first that fails go to the queue (R273). -/
def State.storeGo (s : State) (r : VReq) (w cp : Nat) (amo : Bool) (els : Els) (op : List QEl → VOp) : Res :=
  match firstMis (elemBytes w) els with
  | some (e, va) => s.trapAt 6 va e
  | none =>
    let t := s.resolve .store cp (fun _ => if amo then 7 else 0) els
    match t.2.2 with
    | some (_, .park p) => t.1.parksFor r.dst p
    | f =>
      let host : Option (Nat × Stop) := if amo then (t.2.1.find? (fun x => isHost x.pa)).map (fun x => (x.e, .trap 7 x.va)) else none
      let bad : Option (Nat × Stop) := (t.1.storeBad w (!amo) t.2.1).map (fun x =>
        (x.e, .report 7 x.va x.e (.bad (t.1.unitOf none x.pa) x.pa)))
      let fail := lowestStop [host, bad, f]
      let done := match fail with
        | none => t.2.1
        | some (e, _) => t.2.1.filter (fun x => decide (x.e < e))
      let u := t.1.updMe (fun a =>
        let b := done.foldl (fun h x => h.storedAt x.va x.pa (elemBytes w)) a
        if fail.isSome && done.isEmpty then b else b.enqueue { r with dst := [], op := op (queuedEls done) })
      match fail with
      | none => .next (u.updMe (fun a => a.advance (Instr.len r.i)))
      | some (e, st) => u.stop (st.atElem e)

/-- The request of a vector store: `idx` its index group. -/
def Hart.storeReq (a : Hart) (i : Instr) (bad : Bool) (fmts : List Nat) (w : Nat) (d : Reg) (idx : List (Nat × Nat))
    (src : List (RFile × Nat)) : VReq :=
  let g := a.gsz
  { i := i, bad := bad || decide (w ≠ a.vw), fmts := fmts, groups := (d.toNat, g) :: idx
    src := src ++ (idx.flatMap (fun x => span x.1 x.2)).map (fun r => (RFile.v, r)) ++ vgroup d.toNat g
    vl := a.vln, g := g, op := .push false }

/-- A vector store (R272 to R276): a masked or indexed form waits for the queue, whose work may still change what selects
its elements. -/
def State.vstore (s : State) (i : Instr) (bad : Bool) (fmts : List Nat) (w bits p cp : Nat) (d : Reg) (idx : List (Nat × Nat))
    (src : List (RFile × Nat)) (els : Els) : Res :=
  let a := s.me
  let r := a.storeReq i bad fmts w d idx src
  s.vguard r
    (s.guarded [parkIf (decide (8 ≤ a.vq.length)) .vqFull,
        s.memWait (decide (p ≠ 0) || !idx.isEmpty) (idx.flatMap (fun x => span x.1 x.2)) []]
      (s.storeGo r w cp false els (fun l => .store d.toNat w bits l)))

/-- Bits of an element's code: a narrow format's W, which its container may exceed (R192, R195). -/
def etBits (fmt : List Word) (et : Nat) : Nat := if et < 12 then etWidth fmt et else (fmtOfReg (fmt.getD (et - 12) 0)).w

/-- Unit-stride stores with an element type. -/
def State.unitStore (s : State) (i : Instr) (et p cp : Nat) (a d : Reg) : Res :=
  let w := etWidth s.me.fmts et
  s.vstore i false [et] w (etBits s.me.fmts et) p cp d [] (xs [a]) (s.me.unitEls a w p)

/-- VST (R277). -/
def execVst (e : BitVec 4) (p : BitVec 3) (c : BitVec 2) (a d : Reg) (s : State) : Res :=
  s.unitStore (.vst e p c a d) e.toNat p.toNat c.toNat a d
/-- VQ_VST (R240). -/
def execVqVst (d x : Reg) (s : State) : Res := s.unitStore (.vqVst d x) s.me.vcfg.et.toNat 0 0 x d

/-- VSTS (R277). -/
def execVsts (st : Reg) (p : BitVec 3) (c : BitVec 2) (w : BitVec 2) (a d : Reg) (s : State) : Res :=
  s.vstore (.vsts st p c w a d) false [] (wCode w) (wCode w) p.toNat c.toNat d [] (xs [a, st]) (s.me.strideEls a st p.toNat)

/-- VSTX (R277). -/
def execVstx (v : Reg) (p : BitVec 3) (c : BitVec 2) (w : BitVec 2) (a d : Reg) (s : State) : Res :=
  let gi := idxGroup s.me.gsz (wCode w)
  s.vstore (.vstx v p c w a d) (decide (8 < gi)) [] (wCode w) (wCode w) p.toNat c.toNat d [(v.toNat, gi)] (xs [a])
    (s.me.indexEls a v (wCode w) p.toNat)

/-- The request of a VAMO (R281): its group is pending until the old values have landed. -/
def Hart.amoReq (h : Hart) (i : Instr) (v : Reg) (w : Nat) (a d : Reg) : VReq :=
  let g := h.gsz
  let gi := idxGroup g w
  { i := i, bad := decide (w ≠ h.vw) || decide (8 < gi), groups := [(d.toNat, g), (v.toNat, gi)]
    clash := groupsMeet d.toNat g v.toNat gi
    src := xs [a] ++ vgroup v.toNat gi ++ vgroup d.toNat g, pre := fun h => h.pendV d.toNat g
    vl := h.vln, g := g, op := .push false }

/-- VAMO (R281): its group is pending from its issue. -/
def State.vamo (s : State) (i : Instr) (op : Nat) (v : Reg) (p w : Nat) (a d : Reg) : Res :=
  let h := s.me
  let g := h.gsz
  let r := h.amoReq i v w a d
  s.vguard r
    (match firstStop [parkIf (decide (8 ≤ h.vq.length)) .vqFull,
        s.memWait true (span v.toNat (idxGroup g w) ++ span d.toNat g) (span d.toNat g)] with
      | some st => s.stopFor (vgroup d.toNat g) st
      | none => s.storeGo { r with dst := vgroup d.toNat g } w 0 true (h.indexEls a v w p) (fun l => .amo op d.toNat w l))

/-- VAMO_ADD (R281). -/
def execVamoAdd (v : Reg) (p : BitVec 3) (w : BitVec 2) (a d : Reg) (s : State) : Res :=
  s.vamo (.vamoAdd v p w a d) 0 v p.toNat (wCode w) a d
/-- VAMO_SWAP (R281). -/
def execVamoSwap (v : Reg) (p : BitVec 3) (w : BitVec 2) (a d : Reg) (s : State) : Res :=
  s.vamo (.vamoSwap v p w a d) 1 v p.toNat (wCode w) a d
/-- VAMO_MIN (R281). -/
def execVamoMin (v : Reg) (p : BitVec 3) (w : BitVec 2) (a d : Reg) (s : State) : Res :=
  s.vamo (.vamoMin v p w a d) 2 v p.toNat (wCode w) a d
/-- VAMO_MAX (R281). -/
def execVamoMax (v : Reg) (p : BitVec 3) (w : BitVec 2) (a d : Reg) (s : State) : Res :=
  s.vamo (.vamoMax v p w a d) 3 v p.toNat (wCode w) a d

end Sys2Proof.Machine
end

