-- ==== Sys2Proof/Machine/Tiles.lean ====
section
/-!
DEFINITION. Tile memory (R35 to R44, R53, R55, R117): handles, allocation, TLD and TST, and the steps of its banks and of
the L2 ways (R44 to R47).
-/
namespace Sys2Proof.Machine

/-! ### Handle words and their checks (R35, R37, R39) -/

/-- The quad a handle word names. -/
def hwQuad (w : Word) : Nat := fieldOf w.toNat 24 2 * 96 + fieldOf w.toNat 16 4 * 12 + fieldOf w.toNat 20 4
/-- The handle number of a handle word. -/
def hwHandle (w : Word) : Nat := fieldOf w.toNat 0 8
/-- The handle word of a quad's handle number and generation. -/
def handleWord (q h gen : Nat) : Word :=
  BitVec.ofNat 64 (dieOfQuad q * 2 ^ 24 + colOf q * 2 ^ 20 + rowOf q * 2 ^ 16 + gen % 256 * 256 + h % 256)
/-- Two handle words name one tile. -/
def sameTile (a b : Word) : Bool := decide (a.toNat % 2 ^ 26 = b.toNat % 2 ^ 26)

/-- A tile found by its handle word: its quad and its entry. -/
structure TileRef where
  q : Nat
  h : Nat
  e : TileEntry
deriving DecidableEq, Repr

/-- Orders 1 to 3 of R39 for an accessor of a partition. -/
def State.tileOf (s : State) (part : Nat) (w : Word) : Option TileRef :=
  let q := hwQuad w
  let e := Tab.get (s.quad q).tiles (hwHandle w) {}
  if decide (w.toNat < 2 ^ 26) && decide (fieldOf w.toNat 20 4 ≤ 11) && decide (fieldOf w.toNat 16 4 ≤ 7) &&
      decide ((s.quad q).part = some part) && e.v && decide (e.part = part) &&
      decide (fieldOf w.toNat 8 8 = e.gen.toNat) then some ⟨q, hwHandle w, e⟩
  else none

/-- The first byte of a tile in tile storage. -/
def TileRef.base (t : TileRef) : Nat := t.q * 2 ^ 21 + bitNat t.e.sp * 2 ^ 20 + t.e.fgr * 4096
/-- The bit offset of an element (R37). -/
def TileRef.bit (t : TileRef) (r c w : Nat) : Nat := (r * t.e.cols + c) * w
/-- Bytes of a tile at an element width. -/
def TileRef.bytes (t : TileRef) (w : Nat) : Nat := (t.e.rows * t.e.cols * w + 7) / 8
/-- The banks of a tile's bytes from an offset (R40). -/
def TileRef.banks (t : TileRef) (off n : Nat) : List Nat :=
  (List.range ((off + n + 4095) / 4096 - off / 4096)).map (fun k => (t.e.fgr + off / 4096 + k) % 32)
/-- Tile lines of an error, numbered apart from memory's. -/
def TileRef.line (t : TileRef) (off : Nat) : Nat := 2 ^ 58 + (t.base + off) / 64

/-- Every bank of an access is ON; an SP tile's ways never retire (R45). -/
def State.banksOn (s : State) (t : TileRef) (off n : Nat) : Bool :=
  t.e.sp || (t.banks off n).all (fun b => decide ((Tab.get (s.quad t.q).banks b {}).st = 2))
/-- An access stamps its ON banks and wakes its RET banks (R44). -/
def State.useBanks (s : State) (t : TileRef) (off n : Nat) : State :=
  if t.e.sp then s
  else
    s.updQuad t.q (fun a => (t.banks off n).foldl (fun a b =>
      if (Tab.get a.banks b {}).st = 2 then { a with banks := Tab.set a.banks b { Tab.get a.banks b {} with last := s.time } }
      else a.wakeBank s.time b) a)

/-- Bytes of storage that `n` bytes from a bit offset touch. -/
def bitSpan (bit n : Nat) : Nat := (bit % 8 + 8 * n + 7) / 8

/-- The tile storage that a group load is to fill: its first byte and its length (R93). -/
def State.fillSpan (s : State) (r : GReq) : Option (Nat × Nat) :=
  if r.vector then none
  else match s.tileOf r.part r.hw with
    | none => none
    | some t => some (t.base + t.bit r.row 0 (etWidth r.fmt t.e.ty) / 8, r.len)

/-- The tile destinations of group loads that have not completed: first byte, length, and the fill's bytes where its source
has been read. -/
def State.unfilled (s : State) : List (Nat × Nat × List Byte) :=
  let due : List (GReq × List Byte) := (s.fills.filter (fun (f : GFill) => !f.landed)).map (fun (f : GFill) =>
      (f.req, if f.err then [] else f.bytes)) ++
    (s.greqs.filter (fun (r : GReq) => r.accepted)).map (fun (r : GReq) => (r, []))
  due.filterMap (fun x => (s.fillSpan x.1).map (fun p => (p.1, p.2, x.2)))

/-- The state as a read of tile storage finds it: a destination of a group load that has not completed gives a mix of old
and new bytes (R94, log 6). -/
def State.seen (s : State) : State :=
  if s.unfilled.isEmpty then s
  else { s with tmem := s.unfilled.foldl (fun m u => (List.range u.2.1).foldl (fun m k =>
    if Config.fillKeeps s.fresh (u.1 + k) then m
    else m.write (u.1 + k) (u.2.2.getD k (Config.freeByte s.fresh (u.1 + k)))) m) s.tmem }
/-- The state after such a read: the next one finds a mix of its own. -/
def State.looked (s : State) : State := if s.unfilled.isEmpty then s else { s with fresh := s.fresh + 1 }

/-- A request whose destination meets a span that is written. -/
def State.soil (s : State) (a n : Nat) (r : GReq) : GReq :=
  match s.fillSpan r with
  | none => r
  | some (b, l) => if a < b + l ∧ b < a + n then { r with dirty := r.dirty ++ [(a, n)] } else r
/-- A write of tile storage before a group load's fill: what the fill leaves there is undefined (R94). -/
def State.soiled (s : State) (a n : Nat) : State :=
  if s.unfilled.isEmpty then s
  else { s with
    fills := s.fills.map (fun f => { f with req := s.soil a n f.req })
    greqs := s.greqs.map (fun r => if r.accepted then s.soil a n r else r) }

/-- `w` bits at a bit offset of a tile. -/
def State.tileBits (s : State) (t : TileRef) (bit w : Nat) : Nat :=
  let a := t.base + bit / 8
  if w = 4 then (s.tmem.read a).toNat / 2 ^ (bit % 8) % 16 else s.tmem.readN a (w / 8)
/-- Bytes written in tile storage: what a group load's fill leaves there (R94), and what the storage may show later (R43). -/
def State.writeTmem (s : State) (a : Nat) (bytes : List Byte) : State :=
  { s.soiled a bytes.length with tmem := s.tmem.writeBytes a bytes, tpast := (a, bytes) :: s.tpast }
/-- `w` bits at a bit offset of a tile written. -/
def State.putTile (s : State) (t : TileRef) (bit w v : Nat) : State :=
  let a := t.base + bit / 8
  if w = 4 then
    let old := (s.tmem.read a).toNat
    let b := if bit % 8 = 0 then old / 16 * 16 + v % 16 else old % 16 + v % 16 * 16
    s.writeTmem a [BitVec.ofNat 8 b]
  else s.writeTmem a (leBytes (w / 8) v)
/-- What a TST left some bytes as for earlier transfers of its hart (R117) is no longer what they are to read: a transfer has written
them since, with those values (R138, R345). -/
def State.unkeep (s : State) (a n : Nat) : State :=
  let keeps (q : Quad) : Bool :=
    (q.cq ++ q.running).any (fun x => !x.kept.isEmpty) || q.mq.any (fun c => !c.kept.isEmpty) || q.drains.any (fun d => !d.kept.isEmpty)
  let left (k : Tab Byte) : Tab Byte := k.filter (fun x => decide (x.1 < a) || decide (a + n ≤ x.1))
  if !s.quads.any (fun e => keeps e.2) then s
  else { s with quads := s.quads.map (fun e => (e.1, { e.2 with
    cq := e.2.cq.map (fun x => { x with kept := left x.kept }), running := e.2.running.map (fun x => { x with kept := left x.kept })
    mq := e.2.mq.map (fun c => { c with kept := left c.kept }), drains := e.2.drains.map (fun d => { d with kept := left d.kept }) })) }

/-- A transfer writes bytes of a tile; a line written whole ends its error (R80). -/
def State.putTileBytes (s : State) (t : TileRef) (off : Nat) (bytes : List Byte) : State :=
  let whole := (wholeLines (t.base + off) bytes.length).map (fun l => 2 ^ 58 + l)
  State.unkeep { s.writeTmem (t.base + off) bytes with poison := s.poison.filter (fun l => !whole.contains l) } (t.base + off) bytes.length

/-! ### What a later TST leaves to earlier transfers (R117) -/

/-- The tile a matrix operation reads. -/
def MOp.tileSrc : MOp → Option Word
  | .row _ _ _ _ _ _ _ (.tile w) _ => some w
  | .ldb _ _ _ _ _ (.tile w) => some w
  | _ => none

/-- The tile a drain names. -/
def MOp.tileDst : MOp → Option Word
  | .drain _ _ _ _ _ _ _ w _ => some w
  | _ => none

/-- Bytes kept as they are unless they are kept already. -/
def keepBytes (m : Memory) (kept : Tab Byte) (a n : Nat) : Tab Byte :=
  (List.range n).foldl (fun t k => if t.any (fun x => x.1 == a + k) then t else Tab.set t (a + k) (m.read (a + k))) kept

/-- The tile a drain adds into. -/
def MOp.addDst : MOp → Option Word
  | .drain _ true _ _ _ _ _ w _ => some w
  | _ => none

/-- The transfers of a hart that read a tile keep the bytes a TST is about to write, until another transfer writes them
(`State.unkeep`). -/
def State.keepOld (s : State) (h : Nat) (w : Word) (a n : Nat) : State :=
  let fx (x : Xfer) : Xfer :=
    if decide (x.hart = h) && decide (Shape.sk x.shape = 1) && sameTile x.src w then
      { x with kept := keepBytes s.seen.tmem x.kept a n } else x
  let fm (c : MCmd) : MCmd :=
    match c.op.tileSrc.or c.op.addDst with
    | some v => if decide (c.hart = h) && sameTile v w then { c with kept := keepBytes s.seen.tmem c.kept a n } else c
    | none => c
  let fd (d : Drain) : Drain :=
    if d.add && decide (d.hart = h) && sameTile d.hw w then { d with kept := keepBytes s.seen.tmem d.kept a n } else d
  s.updQuad (quadOf h) (fun q => { q with
    cq := q.cq.map fx, running := q.running.map fx, mq := q.mq.map fm, drains := q.drains.map fd })

/-! ### TLD and TST (R282, R283) -/

/-- The checks and waits of an element access: a failing check takes cause 27, a bank that is not ON makes the hart wait at
its fault point (R44, R178). -/
def State.tileAccess (s : State) (et : BitVec 4) (hw rc : Word) (go : TileRef → Nat → Nat → Res) : Res :=
  let w := etWidth s.me.fmts et.toNat
  let r := fieldOf rc.toNat 16 16
  let c := fieldOf rc.toNat 0 16
  match s.tileOf (s.partOf s.cur) hw with
  | none => s.trap 27 hw
  | some t =>
    if decide (t.e.rows ≤ r) || decide (t.e.cols ≤ c) || decide (etWidth s.me.fmts t.e.ty ≠ w) then s.trap 27 hw
    else
      let bit := t.bit r c w
      let u := s.useBanks t (bit / 8) (elemBytes w)
      if s.banksOn t (bit / 8) (elemBytes w) then go t bit w else u.parks .faultPoint

/-- TLD (R283): a late result, marked when its line carries an error, which is logged (R81); x0 discards it. -/
def execTld (e : BitVec 4) (c b d : Reg) (s : State) : Res :=
  let hw := s.me.xv b
  s.guarded [trapIf (s.me.fmtInvalid e.toNat) 30 (wordOf (.tld e c b d)), s.me.ready (xs [b, c]) (xs [d])]
    (s.tileAccess e hw (s.me.xv c) (fun t bit w =>
      let v := s.seen.tileBits t bit w
      let r := if e.toNat < 4 then sextTo w v else BitVec.ofNat 64 v
      let bad := s.poison.contains (t.line (bit / 8))
      let mark : Option Mark := if bad then some ⟨5, hw⟩ else none
      let s := if bad then s.logUse s.cur 5 5 0 else s
      .next ((s.looked.useBanks t (bit / 8) (elemBytes w)).updMe (fun a => (a.owe ⟨.x, d, r, mark, none⟩).advance 4))))

/-- TST (R283): earlier transfers of the hart keep the values from before it (R117); the bits of a narrow format's container above
its width are written 0 (R195). -/
def execTst (e : BitVec 4) (c b v : Reg) (s : State) : Res :=
  let hw := s.me.xv b
  s.guarded [trapIf (s.me.fmtInvalid e.toNat) 30 (wordOf (.tst e c b v)), s.me.ready (xs [b, c, v]) []]
    (s.tileAccess e hw (s.me.xv c) (fun t bit w =>
      let u := (s.useBanks t (bit / 8) (elemBytes w)).keepOld s.cur hw (t.base + bit / 8) (elemBytes w)
      .next ((u.putTile t bit w ((s.me.xv v).toNat % 2 ^ etBits s.me.fmts e.toNat)).advance 4)))

/-! ### Allocation (R37, R38, R41, R42, R53) -/

/-- Granules of a level that tiles hold. -/
def Quad.used (a : Quad) (sp : Bool) : List Nat :=
  a.tiles.flatMap (fun e => if e.2.v && (e.2.sp == sp) then span e.2.fgr e.2.ngr else [])

/-- Free runs of `n` granules out of `total`, lowest first. -/
def freeRuns (used : List Nat) (total n : Nat) : List Nat :=
  (List.range (total + 1 - n)).filter (fun g => (span g n).all (fun k => !used.contains k))

/-- The banks of a run of QT granules. -/
def runBanks (g n : Nat) : List Nat := (List.range (min n 32)).map (fun k => (g + k) % 32)

/-- The wake cost of a run (R41). -/
def Quad.wakeCost (a : Quad) (now g n : Nat) : Nat :=
  let bs := runBanks g n
  let st (b : Nat) : Nat := (Tab.get a.banks b {}).st
  let off := (bs.filter (fun b => decide (st b = 0))).length
  let base := 600 * ((off + 7) / 8) + (if bs.any (fun b => decide (st b = 1)) then 32 else 0)
  bs.foldl (fun m b => if st b = 3 then max m ((Tab.get a.banks b {}).last - now) else m) base

/-- A way holds no queue role, nor is it being given one. -/
def Quad.spMay (a : Quad) (w : Nat) : Bool :=
  decide ((Tab.get a.ways w {}).role ≠ 1) && decide ((Tab.get a.ways w {}).next ≠ some 1)
/-- A way is pinned for SP or is being pinned. -/
def Quad.spPinned (a : Quad) (w : Nat) : Bool :=
  decide ((Tab.get a.ways w {}).role = 2) || decide ((Tab.get a.ways w {}).next = some 2)
/-- The ways of a run of SP granules. -/
def runWays (g n : Nat) : List Nat := ((span g n).map (· / 16)).eraseDups

/-- The run a TALLOC takes (R41, R53). -/
def Quad.pickRun (a : Quad) (now : Nat) (sp : Bool) (n : Nat) : Option Nat :=
  if sp then
    leastCost (fun g => ((runWays g n).filter (fun w => !a.spPinned w)).length)
      ((freeRuns (a.used true) 64 n).filter (fun g => (runWays g n).all a.spMay))
  else leastCost (fun g => a.wakeCost now g n) (freeRuns (a.used false) 256 n)

/-- The lowest handle number with V = 0. -/
def Quad.freeHandle (a : Quad) : Option Nat := (List.range 256).find? (fun h => !(Tab.get a.tiles h {}).v)

/-- Granules that a task holds in a quad (R248). -/
def Quad.taskGranules (a : Quad) (part : Nat) (task : BitVec 32) : Nat :=
  a.tiles.foldl (fun n e => if e.2.v && decide (e.2.part = part) && e.2.task == task then n + e.2.ngr else n) 0

/-- The OFF banks of a run start to wake, eight in a round of 600 cycles, its RET banks in 32 cycles (R42). R42 does not say
whether the eight are a TALLOC's or the quad's, nor what a bank of a later round reads meanwhile: they are the TALLOC's, and every
OFF bank of its run reads waking at once (DESIGN CHOICE, log 67). -/
def Quad.wakeRun (a : Quad) (now g n : Nat) : Quad :=
  let off := (runBanks g n).filter (fun b => decide ((Tab.get a.banks b {}).st = 0))
  let b := (off.zipIdx).foldl (fun t x => { t with banks := Tab.set t.banks x.1 ⟨3, now + 600 * (x.2 / 8 + 1), false⟩ }) a
  (runBanks g n).foldl (fun t k => t.wakeBank now k) b

/-- The values that a partition has written to `n` bytes of tile storage at `a`, with the one there now (R43). -/
def State.pastOf (s : State) (a n : Nat) : List (List Byte) :=
  s.tmem.readBytes a n :: s.tpast.filterMap (fun x =>
    if x.1 ≤ a ∧ a + n ≤ x.1 + x.2.length then some ((x.2.drop (a - x.1)).take n) else none)

/-- Bytes of a run that are not 0 or have been written. -/
def State.usedBytes (s : State) (base n : Nat) : List Nat :=
  ((s.tmem.map (·.1) ++ s.tpast.flatMap (fun x => span x.1 x.2.length)).filter
    (fun a => decide (base ≤ a) && decide (a < base + n))).eraseDups

/-- The contents of a fresh run: zero, or for each element 0 or a value that the partition has written there (R43, log 6). -/
def State.freshCells (s : State) (w base n : Nat) (zero : Bool) : Memory :=
  let bare := s.tmem.filter (fun c => decide (c.1 < base) || decide (base + n ≤ c.1))
  let pick (k : Nat) (l : List (List Byte)) : List Byte :=
    match Config.tilePick s.fresh k with
    | 0 => []
    | v + 1 => l.getD (v % l.length) []
  if zero then bare
  else if w = 4 then (s.usedBytes base n).foldl (fun m a =>
    let k := 2 * (a - base)
    let nib (j : Nat) : Nat := leNat (pick (k + j) (s.pastOf a 1)) / 16 ^ j % 16
    m.write a (BitVec.ofNat 8 (nib 0 + 16 * nib 1))) bare
  else
    let b := w / 8
    (((s.usedBytes base n).map (fun a => (a - base) / b)).eraseDups).foldl (fun m k =>
      m.writeN (base + k * b) b (leNat (pick k (s.pastOf (base + k * b) b)))) bare

/-- The banks or ways that an allocation waits for are ready. -/
def Quad.allocReady (a : Quad) (x : AllocWait) : Bool :=
  let e := Tab.get a.tiles x.handle {}
  if e.sp then (runWays e.fgr e.ngr).all (fun w => decide ((Tab.get a.ways w {}).role = 2))
  else (runBanks e.fgr e.ngr).all (fun b => decide ((Tab.get a.banks b {}).st = 2))

/-- An allocation is done: the handle word is written and the hart goes on (R42). -/
def State.finishAlloc (s : State) (x : AllocWait) : State :=
  s.updHart x.hart (fun a => if a.park = some .talloc then (a.setX (regNo x.xd) x.word).advance 4 else a)

/-- Allocations of a quad whose banks or ways are ready are done, oldest first. -/
def State.finishAllocs (s : State) (q : Nat) : State :=
  let a := s.quad q
  let t := s.updQuad q (fun b => { b with allocs := b.allocs.filter (fun x => !a.allocReady x) })
  (a.allocs.filter a.allocReady).foldl State.finishAlloc t

/-- The effect of a TALLOC that has found its handle and run: the entry at once, the word when its banks or ways are ready. -/
def State.allocate (s : State) (part : Nat) (task : Task) (sp keep zero : Bool) (et w rows cols ngr h g : Nat) (d : Reg) :
    State :=
  let q := quadOf s.cur
  let old := Tab.get (s.quad q).tiles h {}
  let e : TileEntry := {
    v := true, sp := sp, keep := keep, ty := et, part := part, gen := old.gen, ngr := ngr, fgr := g, task := task.id
    rows := rows, cols := cols, hart := s.cur, queue := task.queue }
  let base := TileRef.base ⟨q, h, e⟩
  let t := s.updQuad q (fun a =>
    let b := { a with
      tiles := Tab.set a.tiles h e
      allocs := a.allocs ++ [⟨s.cur, h, zero, d.toNat, handleWord q h old.gen.toNat⟩] }
    if sp then b else b.wakeRun s.time g ngr)
  let u := if sp then ((runWays g ngr).filter (fun k => !(s.quad q).spPinned k)).foldl (fun u k => u.beginRole q k 2) t else t
  let v := { u with
    fresh := u.fresh + 1
    tmem := u.freshCells w base (ngr * 4096) zero
    poison := if zero then
        u.poison.filter (fun l => decide (l < 2 ^ 58 + base / 64) || decide (2 ^ 58 + base / 64 + ngr * 64 ≤ l))
      else u.poison }
  (v.updMe (fun a => a.parkFor .talloc s.time s.clk)).finishAllocs q

/-- TALLOC (R37, R38, R300): checks, budget, handle and run; all ones where one is missing. -/
def State.talloc (s : State) (i : Instr) (zero : Bool) (et : BitVec 4) (sp keep : Bool) (c b d : Reg) : Res :=
  let a := s.me
  let q := s.quad (quadOf s.cur)
  let part := s.partOf s.cur
  let w := etWidth a.fmts et.toNat
  let rows := (a.xv b).toNat
  let cols := (a.xv c).toNat
  let ngr := (rows * cols * w + 32767) / 32768
  let none_ : Res := .next (s.updMe (fun a => (a.setX d (BitVec.allOnes 64)).advance 4))
  if q.allocs.any (fun x => x.hart == s.cur) then s.parks .talloc
  else
    s.guarded [trapIf (a.fmtInvalid et.toNat) 30 (wordOf i), a.ready (xs [b, c]) (xs [d]),
        trapIf (decide (rows = 0) || decide (cols = 0) || decide (65535 < rows) || decide (65535 < cols) ||
          decide ((if sp then 64 else 256) < ngr)) 27 0]
      (match a.task with
        | none => none_
        | some t =>
          if t.tbud < q.taskGranules part t.id + ngr then none_
          else match q.freeHandle, q.pickRun s.time sp ngr with
            | some h, some g => .next (s.allocate part t sp keep zero et.toNat w rows cols ngr h g d)
            | _, _ => none_)

/-- TALLOC (R300). -/
def execTalloc (e : BitVec 4) (p k : Bool) (c b d : Reg) (s : State) : Res :=
  s.talloc (.talloc e p k c b d) false e p k c b d
/-- TALLOC_Z (R42, R300). -/
def execTallocZ (e : BitVec 4) (p k : Bool) (c b d : Reg) (s : State) : Res :=
  s.talloc (.tallocZ e p k c b d) true e p k c b d

/-! ### Freeing (R38, R44, R53, R55) -/

/-- Ways without SP granules return to the cache role; what a way that was still being pinned held as replicas has missed a sweep, and
goes (R108). -/
def Quad.releaseWays (a : Quad) : Quad :=
  (List.range 4).foldl (fun t w =>
    if t.spPinned w && !((t.used true).any (fun g => decide (g / 16 = w))) then
      { t with
        lines := t.lines.filter (fun l => !(decide (l.2.way = w) && decide (l.2.kind = .replica)))
        ways := Tab.set t.ways w { Tab.get t.ways w {} with role := 0, next := none, st := 0 } }
    else t) a

/-- Banks whose last granule has gone: RET ones go OFF, ON ones start their wait (R44). -/
def Quad.releaseBanks (a : Quad) (now : Nat) (bs : List Nat) : Quad :=
  bs.foldl (fun t b =>
    if (t.used false).any (fun g => decide (g % 32 = b)) then t
    else match (Tab.get t.banks b {}).st with
      | 1 => { t with banks := Tab.set t.banks b { Tab.get t.banks b {} with st := 0 } }
      | 2 => { t with banks := Tab.set t.banks b { Tab.get t.banks b {} with last := now } }
      | _ => t) a

/-- The entry of a freed tile: V := 0, GEN raised (R38). -/
def TileEntry.freed (e : TileEntry) : TileEntry := if e.v then { e with v := false, gen := e.gen + 1 } else e

/-- A tile is freed, with its banks or ways. -/
def State.freeTile (s : State) (q h : Nat) : State :=
  s.updQuad q (fun a =>
    let e := Tab.get a.tiles h {}
    if !e.v then a
    else
      let b := { a with tiles := Tab.set a.tiles h e.freed }
      if e.sp then b.releaseWays else b.releaseBanks s.time (runBanks e.fgr e.ngr))

/-- Transfers of a hart that name a tile: copies, group loads, matrix loads and drains (R55). -/
def State.tileBusy (s : State) (h : Nat) (w : Word) : Bool :=
  let q := s.quad (quadOf h)
  (q.cq ++ q.running).any (fun x => x.hart == h &&
    (decide (Shape.sk x.shape = 1) && sameTile x.src w || decide (Shape.dk x.shape = 1) && sameTile x.dst w)) ||
  q.mq.any (fun c => c.hart == h && ((c.op.tileSrc.map (sameTile w)).getD false || (c.op.tileDst.map (sameTile w)).getD false)) ||
  q.drains.any (fun d => d.hart == h && sameTile d.hw w) ||
  s.greqs.any (fun r => r.hart == h && !r.vector && sameTile r.hw w) ||
  s.fills.any (fun f => f.req.hart == h && !f.req.vector && sameTile f.req.hw w)

/-- TFREE (R301): orders 1 to 3 of R39, the wait of R55, then the free. -/
def execTfree (b : Reg) (s : State) : Res :=
  let hw := s.me.xv b
  s.guarded [s.me.ready (xs [b]) []]
    (match s.tileOf (s.partOf s.cur) hw with
      | none => s.trap 27 hw
      | some t =>
        s.guarded [parkIf (s.tileBusy s.cur hw) .transfers] (.next ((s.freeTile t.q t.h).advance 4)))

/-! ### Steps of the banks (R42, R44) -/

/-- A bank of a quad after its wake. -/
def State.bankOn (s : State) (q b : Nat) : State :=
  s.updQuad q (fun a => { a with banks := Tab.set a.banks b ⟨2, s.time, false⟩ })

/-- BANK_WAKE_DONE (R42): bank `w` of quad `q` has woken from OFF. -/
def execBankWakeDone (s : State) : Res :=
  let b := Tab.get (s.quad s.ev.q).banks s.ev.w {}
  if b.st = 3 ∧ ¬ b.ret ∧ b.last ≤ s.time then .next ((s.bankOn s.ev.q s.ev.w).finishAllocs s.ev.q) else .next s

/-- BANK_RET_WAKE_DONE (R44): bank `w` has woken from RET; a lowered phase may be met (R52). -/
def execBankRetWakeDone (s : State) : Res :=
  let b := Tab.get (s.quad s.ev.q).banks s.ev.w {}
  if b.st = 3 ∧ b.ret ∧ b.last ≤ s.time then
    .next (((s.bankOn s.ev.q s.ev.w).finishAllocs s.ev.q).phaseUnpark s.ev.q)
  else .next s

/-- A bank holds granules. -/
def Quad.bankHeld (a : Quad) (b : Nat) : Bool := (a.used false).any (fun g => decide (g % 32 = b))

/-- BANK_POWER_OFF (R44): an ON bank without granules, 1,024 cycles after the last was freed; at once in phase 3. -/
def execBankPowerOff (s : State) : Res :=
  let a := s.quad s.ev.q
  let b := Tab.get a.banks s.ev.w {}
  if b.st = 2 ∧ ¬ a.bankHeld s.ev.w ∧ (b.last + 1024 ≤ s.time ∨ a.qph = 3) then
    .next (s.updQuad s.ev.q (fun a => { a with banks := Tab.set a.banks s.ev.w { b with st := 0 } }))
  else .next s

/-- BANK_RETENTION (R44): an ON bank with granules, phase 2 or 3, no access for 2,048 cycles. -/
def execBankRetention (s : State) : Res :=
  let a := s.quad s.ev.q
  let b := Tab.get a.banks s.ev.w {}
  if b.st = 2 ∧ a.bankHeld s.ev.w ∧ 2 ≤ a.qph ∧ b.last + 2048 ≤ s.time then
    .next (s.updQuad s.ev.q (fun a => { a with banks := Tab.set a.banks s.ev.w { b with st := 1 } }))
  else .next s

/-! ### Steps of the ways (R45, R47, R53, R108) -/

/-- WAY_RETIRE (R45): a way that is not pinned, that the device phase lets retire and that no hit has touched for 16,384
cycles. -/
def execWayRetire (s : State) : Res :=
  let a := s.quad s.ev.q
  let w := Tab.get a.ways s.ev.w {}
  let r := a.role s.ev.w
  if s.ev.w < 16 ∧ w.st = 0 ∧ w.next = none ∧ (r = 0 ∨ r = 3) ∧ wayMayRetire s.dph s.ev.w ∧ w.last + 16384 ≤ s.time then
    .next (s.updQuad s.ev.q (fun a => { a with ways := Tab.set a.ways s.ev.w { w with st := 1 } }))
  else .next s

/-- The lines of a way without those that a test names. -/
def Quad.dropWay (a : Quad) (w : Nat) (drop : SliceLine → Bool) : Quad :=
  { a with lines := a.lines.filter (fun l => !(decide (l.2.way = w) && drop l.2)) }

/-- WAY_WAKE_DONE (R45): a way has woken; with its kill bit set, or during a sweep, its replicas go (R108). A lowered phase
may be met. -/
def execWayWakeDone (s : State) : Res :=
  let w := Tab.get (s.quad s.ev.q).ways s.ev.w {}
  if w.st = 2 ∧ w.next = none ∧ w.last ≤ s.time then
    let t := s.updQuad s.ev.q (fun a =>
      let b := if w.kill || (s.die (dieOfQuad s.ev.q)).swbusy then a.dropWay s.ev.w (fun l => decide (l.kind = .replica)) else a
      { b with ways := Tab.set b.ways s.ev.w { w with st := 0, kill := false, last := s.time } })
    .next (t.phaseUnpark s.ev.q)
  else .next s

/-- WROLE_WRITE (R47): Quince or Chinook writes the WROLE fields of a quad. -/
def execWroleWrite (s : State) : Res :=
  if s.ev.q < Config.quads then .next (s.wroleWrite s.ev.q (s.ev.v.toNat % 2 ^ 32)) else .next s

/-- SWR_WRITE (R47): Quince or Chinook writes SWR of a quad. -/
def execSwrWrite (s : State) : Res :=
  if s.ev.q < Config.quads then .next (s.swrWrite s.ev.q (s.ev.v.toNat % 8)) else .next s

/-- The lines of a way whose role changes (R47, R53): pinning empties the way, entering the reserve writes its dirty lines back. -/
def State.emptyWay (s : State) (q w r : Nat) : State :=
  let ls := (s.quad q).lines.filter (fun l => l.2.way == w)
  let clean (t : State) (l : Nat × SliceLine) : State :=
    if !l.2.dirty then t
    else if l.2.kind = .home then
      ((t.useGddr (64 * l.1)).writtenBack l.1).updQuad q (fun a => { a with lines := Tab.set a.lines l.1 { l.2 with dirty := false } })
    else t.writeOut q l.1
  if r = 1 ∨ r = 2 then ls.foldl (fun t l => t.writeOut q l.1) s else if r = 3 then ls.foldl clean s else s

/-- A way's change of role is done (R47, R53); with its kill bit set, or during a sweep, its replicas go (R108). -/
def State.roleDone (s : State) (q w r : Nat) : State :=
  (s.emptyWay q w r).updQuad q (fun a =>
    let x := Tab.get a.ways w {}
    let b := if x.kill || (s.die (dieOfQuad q)).swbusy then a.dropWay w (fun l => decide (l.kind = .replica)) else a
    { b with ways := Tab.set b.ways w { x with role := if r = 3 then 0 else r, next := none, st := 0, kill := false, last := s.time } })

/-- ROLE_CHANGE_DONE (R47): a change of way `w` that WROLE or SWR began. -/
def execRoleChangeDone (s : State) : Res :=
  match (Tab.get (s.quad s.ev.q).ways s.ev.w {}).next with
  | none => .next s
  | some 2 => .next s
  | some r => .next ((s.roleDone s.ev.q s.ev.w r).phaseUnpark s.ev.q)

/-- WAY_PIN_DONE (R53): way `w` is pinned for SP; allocations that waited for it are done. -/
def execWayPinDone (s : State) : Res :=
  if (Tab.get (s.quad s.ev.q).ways s.ev.w {}).next = some 2 then
    .next (((s.roleDone s.ev.q s.ev.w 2).finishAllocs s.ev.q).phaseUnpark s.ev.q)
  else .next s

end Sys2Proof.Machine
end

