-- ==== Sys2Proof/Machine/Sync.lean ====
section
/-!
DEFINITION. FENCE.S (R133, R285), sync objects and their instructions (R125 to R132, R286 to R294), lost lines (R83), and
counting a completion into a phase barrier (R131, R135, R164).
-/
namespace Sys2Proof.Machine

/-! ### FENCE.S (R285) -/

/-- FENCE.S at a scope: .h orders nothing. -/
def State.fenceS (s : State) (sc : BitVec 3) (rel acq : Bool) : Res :=
  let wide := decide (sc ≠ 0)
  s.fences (rel && wide) (acq && wide) true

/-- FENCE_S_ACQ (R133). -/
def execFenceSAcq (sc : BitVec 3) (s : State) : Res := s.fenceS sc false true
/-- FENCE_S_REL (R133). -/
def execFenceSRel (sc : BitVec 3) (s : State) : Res := s.fenceS sc true false
/-- FENCE_S_AR (R133). -/
def execFenceSAr (sc : BitVec 3) (s : State) : Res := s.fenceS sc true true

/-! ### The line of an object (R125) -/

/-- A field of a word replaced. -/
def putField (w lo n v : Nat) : Nat := w % 2 ^ lo + v % 2 ^ n * 2 ^ lo + w / 2 ^ (lo + n) * 2 ^ (lo + n)

/-- Words 0 and 1 and the three ranges of an object line. -/
structure Obj where
  w0 : Nat
  w1 : Nat
  ranges : List (Nat × Nat)
deriving DecidableEq, Repr

def Obj.kind (o : Obj) : Nat := fieldOf o.w0 62 2
def Obj.ph (o : Obj) : Nat := fieldOf o.w0 57 1
def Obj.lfail (o : Obj) : Nat := fieldOf o.w0 56 1
def Obj.lovr (o : Obj) : Nat := fieldOf o.w0 55 1
def Obj.held (o : Obj) : Bool := fieldOf o.w0 31 1 == 1
def Obj.holder (o : Obj) : Nat := fieldOf o.w0 32 14
def Obj.htask (o : Obj) : Nat := fieldOf o.w1 32 32
def Obj.exp (o : Obj) : Nat := fieldOf o.w0 16 16
def Obj.arr (o : Obj) : Nat := fieldOf o.w0 0 16
def Obj.expb (o : Obj) : Nat := fieldOf o.w1 32 32
def Obj.curb (o : Obj) : Nat := fieldOf o.w1 0 32

/-- The object at a device physical address of a memory. -/
def objIn (m : Memory) (pa : Nat) : Obj :=
  ⟨m.readN pa 8, m.readN (pa + 8) 8, (List.range 3).map (fun k => (m.readN (pa + 16 + 16 * k) 8, m.readN (pa + 24 + 16 * k) 8 % 2 ^ 32))⟩

/-- The object at a device physical address, under the key that its line is kept under. -/
def State.obj (s : State) (pa : Nat) : Obj := objIn (s.memUnder (s.nativeKey pa)) pa
/-- The object that an access finds. -/
def Acc.obj (c : Acc) : Obj := objIn c.mem c.pa

/-- Words 0 and 1 of an object written. -/
def State.putObj (s : State) (who : Option Nat) (key pa : Nat) (o : Obj) : State :=
  s.poke who key pa (leBytes 8 o.w0 ++ leBytes 8 o.w1)

/-- Range slot `k` of an object written. -/
def State.putRange (s : State) (who : Option Nat) (key pa k base len : Nat) : State :=
  s.poke who key (pa + 16 + 16 * k) (leBytes 8 base ++ leBytes 8 len)

/-! ### Checks (R286) -/

/-- Orders 2 to 5 of R286: the object's line, translated with R and W permission. -/
def State.objAccess (s : State) (va : Word) (frozenOk : Bool) : Except Stop Acc :=
  if va.toNat % 64 ≠ 0 then .error (.trap 6 va)
  else match s.translate (s.reqOf s.cur) va .store with
    | .fault c w => .error (faultStop c va w)
    | .miss g => .error (s.missStop s.cur va .store g)
    | .wait p => .error (.park p)
    | .ok e pa t =>
      if e.mt ≠ .normal ∨ isHost pa then .error (.trap 7 va)
      else if !frozenOk && (e.frozen || decide ((Tab.get s.freeze (pageOf pa) {}).count ≠ 0)) then .error (.trap 25 va)
      else if Tab.get s.bias (pageOf pa) 0 ≥ 2 then .error (.park .access)
      else if s.mustSnoop s.cur pa true then .error (.park (.snoop (lineOf pa) true))
      else if s.badLine (lineOf pa) then .error (.report 7 va 0 (.bad (s.unitOf none pa) pa))
      else .ok ⟨e, pa, !frozenOk, t⟩

/-- The step of an object operation of the hart at issue at the line's home slice (R58, R74, R127): no L1 data cache keeps the line where
it may be written, and the slide buffer keeps none of its bytes (R114, R118). -/
def State.atObject (s : State) (c : Acc) (va : Word) : State :=
  let t := if c.write then c.s.dropL1 (coreOf s.cur) (lineOf c.pa) else c.s
  (t.bypass (quadOf s.cur) c.pa c.write .normal c.e.replica).updMe (fun a => if c.write then a.storedAt va c.pa 64 else a.sees c.pa 64)

/-- An object operation: its registers, the store error it reports when it is a release (R180), its line, its KIND, then the
rest with the checked line. While it is parked, `hold` is pending. -/
def State.onObjectFor (s : State) (hold : List (RFile × Nat)) (o : Reg) (src dst : List Reg) (release frozenOk : Bool)
    (kinds : List Nat) (go : Acc → Obj → Word → Res) : Res :=
  let va := s.me.xv o
  s.guarded [s.me.ready (xs (o :: src)) (xs dst)]
    (s.reporting (s.me.due release false false)
      (match s.objAccess va frozenOk with
        | .error st => s.stopFor hold st
        | .ok c => match s.pathStop c 64 with
          | some st => s.stopFor hold st
          | none => if kinds.contains c.obj.kind then go { c with s := s.atObject c va } c.obj va else s.trap 31 va))

/-- An object operation whose destination is as it was until its step. -/
def State.onObject (s : State) (o : Reg) (src dst : List Reg) (release frozenOk : Bool) (kinds : List Nat)
    (go : Acc → Obj → Word → Res) : Res := s.onObjectFor [] o src dst release frozenOk kinds go

/-! ### Lost lines (R83) -/

/-- The pages of a bound range that translate for a hart (R130), virtual and device physical. -/
def State.rangePages (s : State) (h : Nat) (r : Nat × Nat) : List (Nat × Nat) :=
  if r.2 = 0 then []
  else (List.range ((r.1 + r.2 - 1) / 4096 + 1 - r.1 / 4096)).filterMap (fun k =>
    match s.translate (s.reqOf h) (BitVec.ofNat 64 ((r.1 / 4096 + k) * 4096)) .load with
    | .ok _ pa _ => some (r.1 / 4096 + k, pageOf pa)
    | _ => none)

/-- The lost lines of all slices. -/
def State.lostLines (s : State) : List (Nat × Nat) := s.quads.flatMap (fun e => e.2.loss.map (fun l => (e.1, l)))

/-- A lost line inside an object's bound ranges. -/
def State.lostIn (s : State) (h : Nat) (o : Obj) : Option (Nat × Nat) :=
  if s.lostLines = [] then none
  else
    let pages := o.ranges.map (fun r => (r, s.rangePages h r))
    s.lostLines.find? (fun l => pages.any (fun x => x.2.any (fun p =>
      let va := p.1 * 4096 + l.2 % 64 * 64
      decide (p.2 = l.2 / 64) && decide (x.1.1 < va + 64) && decide (va < x.1.1 + x.1.2))))

/-- The end of an acquire of an object's ranges: the slide buffer goes (R167), and a lost line in a range is reported (R83). -/
def State.acquireObj (s : State) (h : Nat) (o : Obj) (va : Word) : State :=
  let t := s.updHart h Hart.acquired
  match t.lostIn h o with
  | none => t
  | some (q, l) =>
    let u := t.updQuad q (fun a => { a with loss := a.loss.erase l })
    (u.logError (quadOf h) ⟨8, 5, l * 64, (s.hart h).taskId, h⟩).updHart h (fun a => a.trap 5 va 0)

/-! ### Locks (R289 to R291) -/

/-- The lock is held by the hart's task. -/
def State.holds (s : State) (h : Nat) (o : Obj) : Bool := o.held && decide (o.holder = h) && decide (o.htask = (s.hart h).taskId)

/-- The fields of a lock after a grant. -/
def Obj.granted (o : Obj) (h task : Nat) : Obj :=
  { o with
    w0 := putField (putField o.w0 31 1 1) 32 14 h
    w1 := putField (putField o.w1 32 32 task) 0 32 (fieldOf o.w1 0 32 + 1) }

/-- A grant to a hart (LOCK_GRANT): the line, then the acquire. -/
def State.grantLock (s : State) (h key pa : Nat) (va : Word) : State :=
  let o := objIn (s.memUnder key) pa
  let t := s.putObj (some h) key pa (o.granted h (s.hart h).taskId)
  (t.updHart h (fun a => a.advance 4)).acquireObj h o va

/-- Waiting requests of an object, oldest first: ACQ's or WAITPH's. -/
def State.waitersAt (s : State) (line : Nat) (ph : Bool) : List Waiter :=
  s.waiters.filter (fun w => w.line == line && (w.phase.isSome == ph))

/-- A request joins an object's list. -/
def State.addWaiter (s : State) (w : Waiter) : State :=
  { s with waiters := s.waiters ++ [{ w with ticket := s.nextTicket }], nextTicket := s.nextTicket + 1 }

/-- The oldest waiter of a free lock is granted it; on a page frozen meanwhile its ACQ is refused (R100). -/
def State.grantNext (s : State) (pa : Nat) : State :=
  match s.waitersAt (lineOf pa) false with
  | [] => s
  | w :: _ =>
    if (s.obj pa).held then s
    else
      let t := { s with waiters := s.waiters.filter (fun x => x.ticket != w.ticket) }
      if (Tab.get s.freeze (pageOf pa) {}).count ≠ 0 then t.updHart w.hart (fun a => a.trap 25 w.va 0)
      else t.grantLock w.hart (s.nativeKey pa) pa w.va

/-- Harts parked in ACQ test the fields again whenever a line may have changed: each lock whose HELD reads 0 goes to its oldest
waiter (R127). The machine does so at the end of each of its steps. -/
def State.grantFree (s : State) : State :=
  (((s.waiters.filter (fun w => w.phase.isNone)).map (·.line)).eraseDups).foldl (fun t l => t.grantNext (64 * l)) s

/-- ACQ's step at the home slice (R289): granted, waiting, or answered busy. -/
def State.acqStep (s : State) (b : Reg) : Res :=
  s.onObject b [] [] false false [1] (fun c o va =>
    if s.holds s.cur o then s.trap 31 va
    else
      let l := s.waitersAt (lineOf c.pa) false
      if !o.held && l.isEmpty then .next (c.s.grantLock s.cur c.key c.pa va)
      else if 64 ≤ l.length then .next (c.s.updMe (fun a => { a with park := some (.acqBusy b), since := s.time, sinceQ := s.clk }))
      else .next ((c.s.addWaiter ⟨lineOf c.pa, s.cur, 0, none, va⟩).updMe (fun a => a.parkFor .acq s.time s.clk)))

/-- The waiting request of a hart. -/
def State.waiterOf (s : State) (h : Nat) : Option Waiter := s.waiters.find? (fun w => w.hart == h)

/-- ACQ (R289). A waiting request waits for its grant, one that was answered busy for its retry. -/
def execAcq (_sc : BitVec 3) (b : Reg) (s : State) : Res :=
  if (s.waiterOf s.cur).isSome ∨ s.me.park = some (.acqBusy b) then .next s else s.acqStep b

/-- An instruction's step run as a hart that is not at issue. -/
def State.asHart (s : State) (h : Nat) (f : State → Res) : Res :=
  match f { s with cur := h } with
  | .next t => .next { t with cur := s.cur }
  | r => r

/-- ACQ_RETRY (R289): a hart answered busy sends the request of its ACQ again after 256 cycles. -/
def execAcqRetry (s : State) : Res :=
  match (s.hart s.ev.h).park with
  | some (.acqBusy b) =>
    if (s.hart s.ev.h).since + 256 ≤ s.time then s.asHart s.ev.h (fun t => t.acqStep b) else .next s
  | _ => .next s

/-- TRYACQ (R290): its destination is pending from issue. -/
def execTryacq (_sc : BitVec 3) (b d : Reg) (s : State) : Res :=
  s.onObjectFor (xs [d]) b [] [d] false false [1] (fun c o va =>
    if s.holds s.cur o then s.trap 31 va
    else if !o.held && (s.waitersAt (lineOf c.pa) false).isEmpty then
      .next ((c.s.updMe (fun a => a.setX d 1)).grantLock s.cur c.key c.pa va)
    else .next (c.s.updMe (fun a => (a.setX d 0).advance 4)))

/-- The release of bound ranges at a scope (R128): the hart's vector stores first, nothing at .h. -/
def State.releasing (s : State) (sc : BitVec 3) (go : State → Res) (t : State) : Res :=
  if sc = 0 then go t else s.guarded [s.me.releaseWait] (go (t.cleanCore (coreOf s.cur)))

/-- REL (R291): the release, HELD and HOLDER cleared, the oldest waiter granted. -/
def execRel (sc : BitVec 3) (b : Reg) (s : State) : Res :=
  s.onObject b [] [] true false [1] (fun c o va =>
    if !s.holds s.cur o then s.trap 31 va
    else
      s.releasing sc (fun t =>
        let u := t.putObj (some s.cur) c.key c.pa { o with w0 := putField (putField o.w0 31 1 0) 32 14 0 }
        .next ((u.advance 4).grantNext c.pa)) c.s)

/-! ### Phase barriers (R131, R292 to R294) -/

/-- The flip test: the fields after it, and whether the phase flipped. -/
def Obj.flip (o : Obj) : Obj × Bool :=
  if o.exp ≤ o.arr ∧ o.expb ≤ o.curb then
    let w := putField (putField (putField o.w0 57 1 (1 - o.ph)) 56 1 (fieldOf o.w0 59 1)) 55 1 (fieldOf o.w0 58 1)
    ({ o with w0 := putField (putField (putField w 0 16 0) 59 1 0) 58 1 0, w1 := putField o.w1 0 32 0 }, true)
  else (o, false)

/-- Harts registered for a flip go on, as its observers (R132, R293). -/
def State.wakeFlip (s : State) (pa : Nat) : State :=
  let o := s.obj pa
  let l := s.waitersAt (lineOf pa) true
  l.foldl (fun t w => (t.updHart w.hart (fun a => a.advance 4)).acquireObj w.hart o w.va)
    { s with waiters := s.waiters.filter (fun w => !(w.line == lineOf pa && w.phase.isSome)) }

/-- A barrier's fields written after an arrival or a count, with the flip they may bring (BARRIER_FLIP). -/
def State.putBarrier (s : State) (who : Option Nat) (key pa : Nat) (o : Obj) : State :=
  let t := s.putObj who key pa o.flip.1
  if o.flip.2 then t.wakeFlip pa else t

/-- ARRIVE (R292): the release, then ARR, saturating, and the flip test. -/
def execArrive (sc : BitVec 3) (b : Reg) (s : State) : Res :=
  s.onObject b [] [] true false [2] (fun c o _ =>
    s.releasing sc (fun t =>
      .next ((t.putBarrier (some s.cur) c.key c.pa { o with w0 := putField o.w0 0 16 (min (o.arr + 1) 65535) }).advance 4)) c.s)

/-- WAITPH (R293): it completes at once when PH differs from xp[0], else it registers; it reads a frozen line too. -/
def execWaitph (_sc : BitVec 3) (c b : Reg) (s : State) : Res :=
  if (s.waiterOf s.cur).isSome then .next s
  else
    s.onObject b [c] [] false true [2] (fun x o va =>
      let p := (s.me.xv c).toNat % 2
      if o.ph ≠ p then .next ((x.s.advance 4).acquireObj s.cur o va)
      else .next ((x.s.addWaiter ⟨lineOf x.pa, s.cur, 0, some (p == 1), va⟩).updMe (fun a => a.parkFor .waitph s.time s.clk)))

/-- TESTPH (R294). -/
def execTestph (_sc : BitVec 3) (c b d : Reg) (s : State) : Res :=
  s.onObject b [c] [d] false true [2] (fun x o va =>
    if o.ph ≠ (s.me.xv c).toNat % 2 then
      .next ((x.s.updMe (fun a => (a.setX d (BitVec.ofNat 64 (1 + o.lfail * 2 + o.lovr * 4))).advance 4)).acquireObj s.cur o va)
    else .next (x.s.updMe (fun a => (a.setX d 0).advance 4)))

/-! ### BIND and UNBIND (R287, R288) -/

/-- The lowest slot whose range passes a test. -/
def Obj.slot (o : Obj) (f : Nat × Nat → Bool) : Option Nat := (List.range 3).find? (fun k => f (o.ranges.getD k (0, 0)))

/-- NRNG changed. -/
def Obj.nrng (o : Obj) (n : Nat) : Obj := { o with w0 := putField o.w0 60 2 n }

/-- BIND: object `a`, base `b`, length `c` (R287). An identical pair needs no slot. -/
def execBind (c b a : Reg) (s : State) : Res :=
  s.onObject a [b, c] [] false false [1, 2] (fun x o va =>
    let base := (s.me.xv b).toNat
    let len := (s.me.xv c).toNat
    if len = 0 ∨ 0xFFFFFFFF < len ∨ 2 ^ 64 < base + len then s.trap 31 va
    else if o.ranges.contains (base, len) then .next (x.s.advance 4)
    else match o.slot (fun r => decide (r.2 = 0)) with
      | none => s.trap 31 va
      | some k =>
        .next (((x.s.putRange (some s.cur) x.key x.pa k base len).putObj (some s.cur) x.key x.pa
          (o.nrng (fieldOf o.w0 60 2 + 1))).advance 4))

/-- UNBIND: object `a`, base `b` (R288). -/
def execUnbind (b a : Reg) (s : State) : Res :=
  s.onObject a [b] [] false false [1, 2] (fun x o _ =>
    match o.slot (fun r => decide (r.2 ≠ 0) && decide (r.1 = (s.me.xv b).toNat)) with
    | none => .next (x.s.advance 4)
    | some k =>
      .next (((x.s.putRange (some s.cur) x.key x.pa k 0 0).putObj (some s.cur) x.key x.pa
        (o.nrng (fieldOf o.w0 60 2 + 3))).advance 4))

/-! ### Counting a completion (R131, R135, R136, R164) -/

/-- The requests of an engine that works for a hart (R164): its partition, ASID, mode and root table at issue. -/
def engineReq (who h part asid : Nat) (mode : Mode) (root : Nat) : Req := ⟨part, asid, mode, false, none, quadOf h, root, who, 0, false⟩

/-- The bytes of an access as an engine's part. -/
def Acc.part (c : Acc) (n cp : Nat) : MemPart :=
  { pa := c.pa, n := n, tr := treatOf c.e.mt cp, stamp := c.e.replica, page := c.e.va / 4096, np := c.e.size / 4096, key := c.key }
/-- The line request of a part. -/
def MemPart.req (p : MemPart) : LineReq := (lineOf p.pa, p.tr, p.stamp)

/-- An engine's access: translated and checked, failed with a cause, or waiting for the host's answer, for Chinook, or for a flip, a
lock, a walker or a slice (R18, R29, R75, R404). -/
inductive EAcc where
  | ok (c : Acc)
  | fail (cause : Nat) (why : Why)
  | snoop (line : Nat) (inv : Bool)
  | miss (gpa : Nat)
  | flip

/-- An engine's access of one address. -/
def State.engineAccess (s : State) (who : Nat) (q : Req) (va : Word) (acc : AccKind) (dev : Nat) : EAcc :=
  match s.access who q va acc 0 dev with
  | .ok c => if c.e.mt ≠ .device ∧ s.sliceBusy q.quad c.pa c.write c.e.replica then .flip else .ok c
  | .error (.trap c _) => .fail c .plain
  | .error (.trapAt c _ _) => .fail c .plain
  | .error (.report c _ _ w) => .fail c w
  | .error (.owed d _) => .fail d.report.1 .plain
  | .error (.park (.snoop l i)) => .snoop l i
  | .error (.park (.pmiss _ _ g)) => .miss g
  | .error (.park _) => .flip

/-- What checked parts still wait for when an engine performs them: a flip (R404), the host (R431), a slice (R75, R76). -/
def State.partsWait (s : State) (who q : Nat) (write : Bool) : List MemPart → Option EAcc
  | [] => none
  | p :: t =>
    if 2 ≤ Tab.get s.bias (pageOf p.pa) 0 then some .flip
    else if s.mustSnoop who p.pa write then some (.snoop (lineOf p.pa) write)
    else if p.tr ≠ .device ∧ s.sliceBusy q p.pa write p.stamp then some .flip
    else s.partsWait who q write t

/-- The barrier of a completion (R164): its line, the cause for which nothing is counted, or what it waits for. -/
def State.barrier (s : State) (who : Nat) (q : Req) (va : Word) : EAcc :=
  match s.engineAccess who q va .store 0 with
  | .ok c =>
    if (Tab.get s.freeze (pageOf c.pa) {}).count ≠ 0 then .fail 25 .plain
    else if c.obj.kind ≠ 2 then .fail 31 .plain
    else .ok c
  | r => r

/-- What a waiting engine access sends. -/
def State.engineWait (s : State) (who : Nat) (q : Req) (e : EAcc) : State :=
  match e with
  | .snoop l i => s.sendSnoop who l i
  | .miss g => s.emit (.chinookMiss q.part g)
  | _ => s

/-- What a failed access of an engine tells: a breach to Chinook (R20), an uncorrectable error to the quad's log (R81). The failed walks
of its page end (R28). -/
def State.tellEngine (s : State) (q part task cause : Nat) (va : Word) (w : Why) : State :=
  State.endFailed (match w with
    | .plain => s
    | .breach => s.emit (.chinookBreach part va)
    | .bad unit pa => s.logEngine q task unit cause pa) (dieOfQuad q) part (va.toNat / 4096)

/-- A completion counted into a barrier, at its line's home slice (R58, R127): CURB saturating, FAIL, OVR, and the flip test. -/
def State.countInto (s : State) (pa n : Nat) (fail : Bool) : State :=
  let s := s.bypass (s.homeQuad pa) pa true .normal none
  let o := s.obj pa
  let cur := min (o.curb + n) 0xFFFFFFFF
  let w := if fail then putField o.w0 59 1 1 else o.w0
  let w := if o.expb < o.curb + n then putField w 58 1 1 else w
  s.putBarrier none (s.nativeKey pa) pa { o with w0 := w, w1 := putField o.w1 0 32 cur }

/-- The hart's record is that of a task. -/
def Hart.runs (a : Hart) (task : BitVec 32) : Bool :=
  match a.task with
  | some t => t.id == task
  | none => false

/-- The record of a task of a hart slot, bound or yielded (R253). R154 does not say what the VREG endpoint of a transfer is whose task has
gone: the registers that the slot has now (DESIGN CHOICE, log 54). -/
def State.taskHart (s : State) (h : Nat) (task : BitVec 32) : Hart :=
  if (s.hart h).runs task then s.hart h
  else match s.yielded.find? (fun y => y.slot == h && y.hart.runs task) with
    | some y => y.hart
    | none => s.hart h

/-- The record of a task of a hart slot changed, while the task is bound or yielded. -/
def State.updTask (s : State) (h : Nat) (task : BitVec 32) (f : Hart → Hart) : State :=
  if (s.hart h).runs task then s.updHart h f
  else { s with yielded := s.yielded.map (fun y => if y.slot == h && y.hart.runs task then { y with hart := f y.hart } else y) }

/-- The record of a task that a stopped partition left on a quad changed. -/
def Saved.updTask (x : Saved) (h : Nat) (task : BitVec 32) (f : Hart → Hart) : Saved :=
  if (Tab.get x.harts h {}).runs task then { x with harts := Tab.set x.harts h (f (Tab.get x.harts h {})) }
  else { x with yielded := x.yielded.map (fun y => if y.slot == h && y.hart.runs task then { y with hart := f y.hart } else y) }

/-- The record of a task of a partition changed by an agent that goes on while the partition's quads belong to another (R255,
R382): among its saved tasks then. -/
def State.updTaskOf (s : State) (p h : Nat) (task : BitVec 32) (f : Hart → Hart) : State :=
  if s.partOf h = p then s.updTask h task f
  else { s with saved := s.saved.map (fun x => if x.part == p && x.quad == quadOf h then x.updTask h task f else x) }

/-- The end of an operation that named token `k`; a failure sets its flag (R163). -/
def Hart.endToken (a : Hart) (tok : Option Nat) (fail : Bool) : Hart :=
  match tok with
  | none => a
  | some k =>
    let k' : Fin 8 := ⟨k % 8, Nat.mod_lt k (by decide)⟩
    { a with
      sb := a.sb.set k' (a.sb[k'] - 1)
      sbFail := if fail then a.sbFail ||| (1#8 <<< (k % 8)) else a.sbFail }

/-- An operation of a task that named a token has completed. The count is the task's: a retired task's tokens are gone. -/
def State.endToken (s : State) (h : Nat) (task : BitVec 32) (tok : Option Nat) (fail : Bool) : State :=
  s.updTask h task (fun a => a.endToken tok fail)

/-- The same of an operation that goes on while its partition's quads belong to another. -/
def State.endTokenOf (s : State) (p h : Nat) (task : BitVec 32) (tok : Option Nat) (fail : Bool) : State :=
  s.updTaskOf p h task (fun a => a.endToken tok fail)

/-- An operation that names a token starts (R257). -/
def Hart.startToken (a : Hart) (tok : Option Nat) : Hart :=
  match tok with
  | none => a
  | some k =>
    let k' : Fin 8 := ⟨k % 8, Nat.mod_lt k (by decide)⟩
    { a with sb := a.sb.set k' (a.sb[k'] + 1) }

/-- A token that already counts 255 operations parks its hart (R257). -/
def Hart.tokenFull (a : Hart) (tok : Option Nat) : Option Stop :=
  match tok with
  | none => none
  | some k => parkIf (decide (255 ≤ a.sb.toList.getD (k % 8) 0)) (.tokenFull (k % 8))

/-- The token an instruction names. -/
def tokenOf (e : Bool) (k : BitVec 3) : Option Nat := if e then some k.toNat else none

end Sys2Proof.Machine
end

