-- ==== Sys2Proof/Machine/CopyEngine.lean ====
section
/-!
DEFINITION. The copy engine (R146 to R166, R302 to R304, R414, R433): SHPLD, SHPST, CPY, CPYB, and the steps of a transfer.
-/
namespace Sys2Proof.Machine

/-! ### SHPLD and SHPST (R302) -/

/-- The doublewords of `n` bytes at a device physical address. -/
def doubles (pa n : Nat) : List Nat := (List.range (n / 8)).map (fun k => pa + 8 * k)
/-- The first doubleword of a range in the MMIO window that is no register (R24, R30 order 5, R434). -/
def noRegister (pa n : Nat) : Option Nat :=
  if isMmio pa then (doubles pa n).find? (fun a => (mmioReg a).isNone) else none

/-- Doublewords of a page, each of which must be a register where the page lies in the MMIO window. -/
def doublesOf (acc : AccKind) (va : Word) (c : Acc) (n : Nat) : Except Stop (List (Acc × Nat)) :=
  match noRegister c.pa n with
  | some a => .error (.trap (accessCause acc) (va + BitVec.ofNat 64 (a - c.pa)))
  | none => .ok ((doubles c.pa n).map (fun a => (c, a)))

/-- The 96 bytes of a record checked as one access, page by page: the device physical address of each doubleword, and the
entries of its pages. -/
def State.recordAccess (s : State) (va : Word) (acc : AccKind) : Except Stop (List (Acc × Nat)) :=
  let first := min 96 (4096 - va.toNat % 4096)
  match s.access s.cur (s.reqOf s.cur) va acc 0 0 with
  | .error st => .error st
  | .ok c =>
    match doublesOf acc va c first with
    | .error st => .error st
    | .ok l =>
      if first = 96 then .ok l
      else
        let vb := va + BitVec.ofNat 64 first
        match c.s.access s.cur (s.reqOf s.cur) vb acc 0 0 with
        | .error st => .error st
        | .ok d => (doublesOf acc vb d (96 - first)).map (fun m => l.map (fun x => ({ x.1 with s := d.s }, x.2)) ++ m)

/-- What the record's lines meet: a store error of the hart (R180), its queued stores (R114), full miss registers and slices (R75). -/
def State.recordPaths (s : State) (l : List (Acc × Nat)) (go : State → Res) : Res :=
  match l.findSome? (fun x => s.me.storeError (lineOf x.2)) with
  | some d => s.stop (.owed d 0)
  | none =>
    match l.getLast? with
    | none => .next s
    | some x => s.guarded (l.map (fun y => s.me.pathBusy (decide (y.1.e.mt = .device)) y.1.write y.2 8) ++
        l.map (fun y => s.missWait (coreOf s.cur) { y.1 with pa := y.2 })) (go x.1.s)

/-- Doublewords read in order, each under its key. -/
def State.readDoubles (s : State) : List (Nat × Nat) → List Nat × State
  | [] => ([], s)
  | (key, pa) :: t =>
    let r := (s.updMe (fun a => a.sees pa 8)).fetchData key pa 8
    let u := r.2.readDoubles t
    (r.1 :: u.1, u.2)

/-- The lines of a record in the core's L1 data cache (R58). -/
def State.touchAll (s : State) (l : List (Acc × Nat)) (store : Bool) : State :=
  l.foldl (fun t x => t.touch (coreOf s.cur) x.1.e x.2 store) s

/-- A record of doublewords. -/
def shapeOf (l : List Nat) : Shape := BitVec.ofNat 768 (l.foldr (fun d n => d + 2 ^ 64 * n) 0)

/-- SHPLD (R302): an uncorrectable error takes cause 5 and leaves the register. -/
def execShpld (b : Reg) (h : BitVec 3) (s : State) : Res :=
  let va := s.me.xv b
  s.guarded [s.me.ready (xs [b]) [], trapIf (decide (va.toNat % 8 ≠ 0)) 4 va]
    (match s.recordAccess va .load with
      | .error st => s.stop st
      | .ok l =>
        s.recordPaths l (fun t =>
          match l.find? (fun x => !isMmio x.2 && t.badLine (lineOf x.2)) with
          | some x => s.stop (.report 5 va 0 (.bad (s.unitOf none x.2) x.2))
          | none =>
            let r := t.readDoubles (l.map (fun x => (x.1.e.keyAt x.2, x.2)))
            .next ((r.2.touchAll l false).updMe (fun a => { a with shp := a.shp.set h.toNat (shapeOf r.1) h.isLt }.advance 4))))

/-- SHPST (R302). -/
def execShpst (b : Reg) (h : BitVec 3) (s : State) : Res :=
  let va := s.me.xv b
  let r := s.me.shape h
  s.guarded [s.me.ready (xs [b]) [], trapIf (decide (va.toNat % 8 ≠ 0)) 6 va]
    (match s.recordAccess va .store with
      | .error st => s.stop st
      | .ok l =>
        s.recordPaths l (fun t =>
          .next ((l.zipIdx.foldl (fun u x =>
            u.storeAt s.cur (va + BitVec.ofNat 64 (8 * x.2)) (x.1.1.e.keyAt x.1.2) x.1.2 8 (Shape.word r x.2)) t).touchAll l true |>.advance 4)))

/-! ### The checks of CPY and CPYB (R149, R150, R304) -/

/-- The pair and the operation are allowed. -/
def Shape.pairOk (r : Shape) (cpyb : Bool) : Bool :=
  (if cpyb then
      (decide (r.sk = 4) && decide (r.dk ≤ 1)) || (decide (r.dk = 4) && decide (r.sk ≤ 1))
    else
      (decide (r.sk ≤ 1) && decide (r.dk ≤ 3)) || (decide (r.sk = 3) && decide (r.dk ≤ 1))) &&
  (decide (r.opn = 0) || (decide (r.dk = 0) &&
    (if r.opn = 1 then decide (4 ≤ r.esz) else decide (r.esz = 4))))

/-- An operand's other bits are 0. -/
def operandOk (kind : Nat) (w : Word) : Bool :=
  match kind with
  | 2 => decide (w.toNat < 4)
  | 3 => decide (w.toNat < 128)
  | 4 => decide (fieldOf w.toNat 60 4 ≤ 11) && decide (fieldOf w.toNat 57 3 = 0)
  | _ => true

/-- The lowest and highest byte that a nest reaches at a VREG endpoint. -/
def Shape.reach (r : Shape) (src : Bool) : Int × Int :=
  let st (l : Nat) : Int := toSigned 32 (if src then r.sstr l else r.dstr l)
  let lo := (List.range r.nlv).foldl (fun m l => m + min 0 (((r.trip l : Int) - 1) * st l)) 0
  let hi := (List.range r.nlv).foldl (fun m l => m + max 0 (((r.trip l : Int) - 1) * st l)) 0
  (lo, hi + r.run)

/-- Check 6 at one side: the group of a VREG endpoint. -/
def Hart.copyGroup (a : Hart) (r : Shape) (src : Bool) (w : Word) : Option Stop :=
  if (if src then r.sk else r.dk) ≠ 3 then none
  else
    let g := vregGroup w
    let e := r.reach src
    trapIf (decide (g.1 % g.2 ≠ 0) || decide (a.alloc < g.1 + g.2) ||
      (decide (r.runs ≠ 0) && (decide (e.1 < 0) || decide ((128 * g.2 : Nat) < e.2)))) 24 (BitVec.ofNat 64 g.1)

/-- Checks 1 to 6. -/
def Hart.copyChecks (a : Hart) (r : Shape) (cpyb e : Bool) (dst src : Word) : List (Option Stop) :=
  [trapIf (!r.rsvOk || decide (r.nlv < 1) || decide (6 < r.nlv) || decide (r.run < 1) || decide (65536 < r.run) ||
      decide (r.run % r.esz ≠ 0) || decide (r.opn = 3)) 31 1,
    trapIf (!r.pairOk cpyb) 31 2,
    trapIf (decide (r.ctgt % 64 ≠ 0) || !operandOk r.dk dst || !operandOk r.sk src) 31 3,
    trapIf (!e && decide (r.ctgt = 0) && decide (r.crec = 0)) 31 4,
    trapIf (decide (0xFFFFFFFF < r.run * r.runs)) 31 5,
    a.copyGroup r true src, a.copyGroup r false dst]

/-- The registers of a VREG operand. -/
def vregNames (kind : Nat) (w : Word) : List (RFile × Nat) :=
  if kind = 3 then vgroup (vregGroup w).1 (vregGroup w).2 else []

/-- CPY and CPYB (R303, R304): marks, the checks of R150, presence, the token, the queue; the transfer copies the record, the
operands and the formats. The hart goes on unless the queue is full (R284). -/
def State.copy (s : State) (cpyb e : Bool) (k : BitVec 3) (c b : Reg) (push pop : Bool) (h : BitVec 3) : Res :=
  let a := s.me
  let r := a.shape h
  let dst := a.xv b
  let src := a.xv c
  let tok := tokenOf e k
  let q := s.quad (quadOf s.cur)
  let rd := vregNames r.sk src
  s.guarded ([a.ready (xs [b, c]) [], if (vregGroup src).1 + (vregGroup src).2 ≤ a.alloc then a.markedAny rd else none] ++
      a.copyChecks r cpyb e dst src ++
      [a.presentAll rd, a.ownedAll (vregNames r.dk dst), a.tokenFull tok,
        parkIf (decide (32 ≤ q.cq.length)) .cqFull])
    (let x : Xfer := {
      id := s.nextXfer, hart := s.cur, task := BitVec.ofNat 32 a.taskId, mode := a.mode, part := s.partOf s.cur
      asid := (s.reqOf s.cur).asid, root := (s.reqOf s.cur).root, cpyb := cpyb, push := push, pop := pop, token := tok
      shape := r, dst := dst, src := src, fmt := a.fmts, seq := a.seq, cls := a.taskCls
      queue := match a.task with
        | some t => t.queue
        | none => 0 }
     let mark (a : Hart) : Hart := if r.dk = 3 then a.pendV (vregGroup dst).1 (vregGroup dst).2 else a
     .next ({ s with nextXfer := s.nextXfer + 1 }.updQuad (quadOf s.cur) (fun q => { q with cq := q.cq ++ [x] })
      |>.updMe (fun a => ((mark a).startToken tok).advance 4)))

/-- CPY (R303). -/
def execCpy (e : Bool) (k : BitVec 3) (c b : Reg) (u q : Bool) (h : BitVec 3) (s : State) : Res :=
  s.copy false e k c b u q h
/-- CPYB (R304). -/
def execCpyb (e : Bool) (k : BitVec 3) (c b : Reg) (u q : Bool) (h : BitVec 3) (s : State) : Res :=
  s.copy true e k c b u q h

/-! ### Admission (R158) -/

/-- The FIFO a transfer pops, and the one it pushes. -/
def Xfer.popFifo (x : Xfer) : Fifo := if Shape.pop x.shape then .mc else .vc
def Xfer.pushFifo (x : Xfer) : Fifo := if Shape.psh x.shape then .cm else .cv


/-- Harts parked on a full copy queue retry of themselves; the head of the queue runs. -/
def Quad.admitHead (a : Quad) : Quad :=
  match a.cq with
  | [] => a
  | x :: t => { a with cq := t, running := a.running ++ [x] }

/-- COPY_ADMIT (R158): the oldest queued transfer of quad `q`, once it has popped its token. -/
def execCopyAdmit (s : State) : Res :=
  let q := s.ev.q
  let a := s.quad q
  match a.cq with
  | [] => .next s
  | x :: _ =>
    if 8 ≤ a.running.length ∨ s.quadHalted q then .next s
    else if x.pop then
      let r := a.fifoTry (.cpop x.popFifo x.id) (s.clockOf q)
      .next (s.updQuad q (fun _ => if r.1 then r.2.admitHead else r.2))
    else .next (s.updQuad q (fun a => a.admitHead))

/-! ### Runs and their pieces (R151, R152, R156) -/

/-- The address of a run at a MEM or PEER endpoint. -/
def Xfer.runAddr (x : Xfer) (src : Bool) (n : Nat) : Word :=
  displace (if src then x.src else x.dst) (Shape.disp x.shape src n)

/-- A run is cut before byte `i`: where an address endpoint passes a line, or every 64 bytes; an update at every element. -/
def Xfer.cutAt (x : Xfer) (n i : Nat) : Bool :=
  let r : Shape := x.shape
  let at_ (src : Bool) : Bool := decide (((x.runAddr src n).toNat + i) % 64 = 0)
  let addr (k : Nat) : Bool := decide (k = 0) || decide (k = 4)
  if r.opn ≠ 0 then decide (i % r.esz = 0)
  else (addr r.sk && at_ true) || (addr r.dk && at_ false) || (!addr r.sk && !addr r.dk && decide (i % 64 = 0))

/-- The pieces of a run. -/
def Xfer.pieces (x : Xfer) (n : Nat) : List Piece :=
  let run := Shape.run x.shape
  let starts := (List.range run).filter (fun i => decide (i = 0) || x.cutAt n i)
  (starts.zip (starts.tail ++ [run])).map (fun p => { n := n, i := p.1, j := p.2 })

/-! ### Tags (R6, R75, R158) -/

/-- The feed that a transfer runs into (R153). -/
def Xfer.feed (x : Xfer) : Option Nat := if Shape.dk x.shape = 2 then some (x.dst.toNat % 4) else none

/-- The bytes that a feed holds or that pieces with a tag are to bring it. -/
def Quad.feedLoad (a : Quad) (k : Nat) : Nat :=
  (a.feeds[k % 4]'(Nat.mod_lt _ (by decide))).length +
  a.running.foldl (fun n x => if x.feed = some k then x.emitted.foldl (fun n p => n + (p.j - p.i)) n else n) 0

/-- A piece has room at its destination: a transfer that waits for feed space holds no tag (R153). -/
def Quad.roomFor (a : Quad) (x : Xfer) (n : Nat) : Bool :=
  match x.feed with
  | none => true
  | some k => decide (a.feedLoad k + n ≤ 16384)

/-- A transfer's next piece waits for a tag alone. -/
def Quad.wantsTag (a : Quad) (x : Xfer) : Bool :=
  match x.untagged with
  | [] => false
  | p :: _ => a.roomFor x (p.j - p.i)

/-- Tags of a quad's engine in use. -/
def Quad.tagsUsed (a : Quad) : Nat := a.running.foldl (fun n x => n + x.emitted.length) 0

/-- The transfer whose turn it is for a tag, of those that wait for one: round-robin from the one after the last (R158). -/
def Quad.tagNext (a : Quad) : Option Nat :=
  let waits := a.running.filter a.wantsTag
  ((waits.filter (fun x => decide (a.tagLast < x.id)) ++ waits).head?).map (·.id)

/-- A transfer is given a tag for its next piece. -/
def Quad.tagOne (a : Quad) (id : Nat) : Quad :=
  { a with
    tagLast := id
    running := a.running.map (fun x =>
      if x.id == id then { x with emitted := x.emitted ++ x.untagged.take 1, untagged := x.untagged.tail } else x) }

/-- `n` tags are given while pieces wait for them. -/
def Quad.giveTags (a : Quad) : Nat → Quad
  | 0 => a
  | n + 1 => match a.tagNext with
    | none => a
    | some id => (a.tagOne id).giveTags n

/-- The free ones of the engine's 128 tags are given. -/
def Quad.shareTags (a : Quad) : Quad := a.giveTags (128 - a.tagsUsed)

/-- COPY_RUN_EMIT (R151): transfer `w` of quad `q` emits its next run, while none has failed, a feed has space (R153) and each
piece of the run before has a tag (R75). -/
def execCopyRunEmit (s : State) : Res :=
  let q := s.ev.q
  match (s.quad q).running.find? (fun x => x.id == s.ev.w) with
  | none => .next s
  | some x =>
    let r : Shape := x.shape
    let full := !(s.quad q).roomFor x 1
    if x.next < r.runs ∧ x.untagged = [] ∧ x.fail = none ∧ ¬ x.aborted ∧ x.stage = .running ∧ ¬ full ∧ ¬ s.quadHalted q then
      .next (s.updQuad q (fun a => Quad.shareTags { a with running := a.running.map (fun y =>
        if y.id == x.id then { y with next := y.next + 1, untagged := y.pieces y.next } else y) }))
    else .next s

/-! ### Where a piece lies -/

/-- A place of a piece: bytes of memory, a bit offset of a tile, a feed, bytes of a register group, or a peer's address. -/
inductive Place where
  | mem (l : List MemPart)
  | tile (t : TileRef) (bit : Nat)
  | feed (k : Nat)
  | vreg (n off : Nat)
  | peer (l : Nat) (va : Word)

/-- A piece's end resolved: its place, or a failure with its address, or what it waits for. -/
inductive Found where
  | ok (p : Place) (s : State)
  | fail (cause : Nat) (va : Word) (why : Why)
  | wait (e : EAcc)

/-- The number under which a transfer sends snoops. -/
def Xfer.who (x : Xfer) : Nat := engineAgent x.id
/-- What a transfer's accesses are made as (R164). -/
def Xfer.req (x : Xfer) : Req := engineReq x.who x.hart x.part x.asid x.mode x.root

/-- The parts of an access that lie in one line each. -/
def lineParts (va : Word) (n : Nat) : List (Word × Nat) :=
  let k := min n (64 - va.toNat % 64)
  if k = n then [(va, n)] else [(va, k), (va + BitVec.ofNat 64 k, n - k)]

/-- Parts of an engine's access, translated and checked in order. An uncorrectable error fails it with cause 5, or 7 for a
write that does not cover the line (R79, R80). `cp` is its cache policy (R27). -/
def State.engineParts (s : State) (who : Nat) (q : Req) (acc : AccKind) (cp dev : Nat) (denied : Bool) :
    List (Word × Nat) → Found
  | [] => .ok (.mem []) s
  | (va, n) :: t =>
    match s.engineAccess who q va acc dev with
    | .fail c w => .fail c va w
    | .miss g => if denied then .fail (accessCause acc) va .plain else .wait (.miss g)
    | .ok c =>
      if !isMmio c.pa && s.badLine (lineOf c.pa) && !(decide (acc = .store) && decide (n = 64)) then
        .fail (accessCause acc) va (.bad (s.unitOf none c.pa) c.pa)
      else match c.s.engineParts who q acc cp dev denied t with
        | .ok (.mem l) u =>
          .ok (.mem (c.part n cp :: l)) u
        | r => r
    | e => .wait e

/-- The position and the checks of a run at a tile (R39 orders 1 to 4, R152): the bit offset of its first column. -/
def State.tileRun (s : State) (x : Xfer) (src : Bool) (n : Nat) : Option (TileRef × Nat × Nat) :=
  let r : Shape := x.shape
  match s.tileOf x.part (if src then x.src else x.dst) with
  | none => none
  | some t =>
    let w := etWidth x.fmt t.e.ty
    let d := r.tileDisp src n
    let row := (if src then (r.srow : Int) else r.drow) + d.1
    let col := (if src then (r.scol : Int) else r.dcol) + d.2
    let cols := if w = 4 then 2 * r.run else r.run / r.esz
    let st (l : Nat) : Nat := if src then r.sstr l else r.dstr l
    let org := if src then r.scol else r.dcol
    let even := decide (org % 2 = 0) && (List.range r.nlv).all (fun l => decide (st l % 2 = 0))
    if row < 0 ∨ col < 0 ∨ (t.e.rows : Int) ≤ row ∨ (t.e.cols : Int) < col + cols then none
    else if (if w = 4 then r.esz = 1 ∧ even = true else r.esz = w / 8) then some (t, t.bit row.toNat col.toNat w, w) else none

/-- The link of a PEER operand, its register, and what a run over it fails with (R414). -/
def State.peerRun (s : State) (x : Xfer) (src : Bool) (va : Word) : Option Nat :=
  let l := fieldOf (if src then x.src else x.dst).toNat 60 4
  let k := Tab.get s.links l {}
  let p := Tab.get s.peers l {}
  if !k.up || !k.bnd || decide (k.part ≠ x.part) then some 7
  else if p.unmapped.contains (va.toNat / 4096) then some (if src then 13 else 15)
  else if !src && p.frozen.contains (va.toNat / 4096) then some 25
  else none

/-- A peer's virtual address: bits [56:0] sign-extended (R304). -/
def peerVa (w : Word) : Word := (w.setWidth 57).signExtend 64

/-- A tile line that some bytes of a tile reach holds an uncorrectable error. -/
def State.badTile (s : State) (t : TileRef) (off n : Nat) : Bool :=
  !s.poison.isEmpty && (List.range ((t.base + off + n + 63) / 64 - (t.base + off) / 64)).any (fun k => s.poison.contains (t.line off + k))

/-- The error mark that some bytes of a register group carry (R180). -/
def Hart.groupMark (a : Hart) (g off n : Nat) : Option Mark :=
  (List.range ((off + n + 127) / 128 - off / 128)).findSome? (fun k => a.markOn .v (g + off / 128 + k))

/-- One side of a piece resolved. FVA of a run that fails on an uncorrectable error of a source tile, or of a source register, is the
operand's word, as for a failed check: R162 names none of them (DESIGN CHOICE, log 68). -/
def State.findSide (s : State) (x : Xfer) (src : Bool) (p : Piece) : Found :=
  let r : Shape := x.shape
  let n := p.j - p.i
  let va := x.runAddr src p.n + BitVec.ofNat 64 p.i
  match (if src then r.sk else r.dk) with
  | 0 => s.engineParts x.who x.req (if src then .load else .store) (if src then r.scp else r.dcp)
      (if !src && decide (r.opn ≠ 0) then 7 else 0) x.denied (lineParts va n)
  | 1 => match s.tileRun x src p.n with
    | none => .fail 27 (if src then x.src else x.dst) .plain
    | some (t, bit, _) =>
      if src && s.badTile t (bit / 8 + p.i) (bitSpan bit n) then .fail 5 x.src (.bad 5 0) else .ok (.tile t (bit + 8 * p.i)) s
  | 2 => .ok (.feed (x.dst.toNat % 4)) s
  | 3 =>
    let g := (vregGroup (if src then x.src else x.dst)).1
    let off := (r.disp src p.n).toNat + p.i
    if src && ((s.taskHart x.hart x.task).groupMark g off n).isSome then .fail 5 x.src (.bad 6 0) else .ok (.vreg g off) s
  | _ =>
    let a := peerVa va
    match s.peerRun x src a with
    | some c => .fail c a .plain
    | none => .ok (.peer (fieldOf (if src then x.src else x.dst).toNat 60 4) a) s

/-- Both sides of a piece resolved, the source first. -/
def State.findPiece (s : State) (x : Xfer) (p : Piece) : Except Found (Place × Place × State) :=
  match s.findSide x true p with
  | .ok a t => match t.findSide x false p with
    | .ok b u => .ok (a, b, u)
    | f => .error f
  | f => .error f

/-! ### Reading and writing places -/

/-- Bytes at a device physical address under a key: memory, or registers of the window doubleword by doubleword. -/
def State.readSpan (s : State) (key pa n : Nat) : List Byte × State :=
  if isMmio pa then
    let k := min n (8 - pa % 8)
    let r := s.mmioRead pa k
    let parts := (List.range ((n - k + 7) / 8)).map (fun j => (pa + k + 8 * j, min 8 (n - k - 8 * j)))
    parts.foldl (fun acc p =>
      let u := acc.2.mmioRead p.1 p.2
      (acc.1 ++ leBytes p.2 u.1, u.2)) (leBytes k r.1, r.2)
  else ((s.memUnder key).readBytes pa n, s)

/-- Bytes written at a device physical address by a writer, under a key. -/
def State.writeSpan (s : State) (wr : Writer) (key pa : Nat) (bytes : List Byte) : State :=
  if isMmio pa then
    let n := bytes.length
    let k := min n (8 - pa % 8)
    let t := s.mmioWrite wr pa k (leNat (bytes.take k))
    (List.range ((n - k + 7) / 8)).foldl (fun u j =>
      let b := (bytes.drop (k + 8 * j)).take 8
      u.mmioWrite wr (pa + k + 8 * j) b.length (leNat b)) t
  else s.poke none key pa bytes

/-- A byte of tile storage as a transfer reads it (R117). -/
def State.keptByte (s : State) (kept : Tab Byte) (a : Nat) : Byte := Tab.get kept a (s.tmem.read a)

/-- Bytes from a bit offset of a tile: a 4-bit tile may start between bytes. -/
def State.tileBytes (s : State) (kept : Tab Byte) (t : TileRef) (bit n : Nat) : List Byte :=
  (List.range n).map (fun k =>
    let a := t.base + bit / 8 + k
    if bit % 8 = 0 then s.keptByte kept a
    else BitVec.ofNat 8 ((s.keptByte kept a).toNat / 16 + (s.keptByte kept (a + 1)).toNat % 16 * 16))

/-- Bytes written from a bit offset of a tile. -/
def State.putTileRun (s : State) (t : TileRef) (bit : Nat) (bytes : List Byte) : State :=
  if bit % 8 = 0 then s.putTileBytes t (bit / 8) bytes
  else (bytes.zipIdx).foldl (fun u b =>
    (u.putTile t (bit + 8 * b.2) 4 (b.1.toNat % 16)).putTile t (bit + 8 * b.2 + 4) 4 (b.1.toNat / 16)) s

/-- The bytes of a source place; the host's answers for its lines are used (R431). -/
def State.readPlace (s : State) (x : Xfer) (n : Nat) : Place → List Byte × State
  | .mem l => l.foldl (fun acc p =>
      let r := acc.2.readSpan p.key p.pa p.n
      (acc.1 ++ r.1, r.2)) ([], (s.snoopsUsed x.who (l.map (fun p => lineOf p.pa))).reach (quadOf x.hart) false (l.map MemPart.req))
  | .tile t bit => (s.seen.tileBytes x.kept t bit n, s.looked)
  | .feed _ => ([], s)
  | .vreg g off =>
    ((List.range n).map (fun k => BitVec.ofNat 8 ((s.taskHart x.hart x.task).elem g 8 (off + k))), s)
  | .peer l va => ((Tab.get s.peers l {}).mem.readBytes va.toNat n, s)

/-- The writer that a transfer is to registers. -/
def Xfer.writer (x : Xfer) : Writer :=
  match x.mode with
  | .u => .hartU
  | .s => .hartS x.part

/-- Bytes at a destination place. -/
def State.writePlace (s : State) (x : Xfer) (q : Nat) (bytes : List Byte) : Place → State
  | .mem l => (l.foldl (fun acc p => (acc.1.writeSpan x.writer p.key p.pa (acc.2.take p.n), acc.2.drop p.n)) (s, bytes)).1.reach
      (quadOf x.hart) true (l.map MemPart.req)
  | .tile t bit => s.putTileRun t bit bytes
  | .feed k => s.updQuad q (fun a => { a with
      feeds := a.feeds.set (k % 4) (a.feeds[k % 4]'(Nat.mod_lt _ (by decide)) ++ bytes) (Nat.mod_lt _ (by decide)) })
  | .vreg g off => s.updTask x.hart x.task (fun a => (bytes.zipIdx).foldl (fun h b => h.setElem g 8 (off + b.2) b.1.toNat) a)
  | .peer l va =>
    let p := Tab.get s.peers l {}
    { s with peers := Tab.set s.peers l { p with mem := p.mem.writeBytes va.toNat bytes } }

/-- The bytes of an update of one element (R157). -/
def updateBytes (op n : Nat) (old new : List Byte) : List Byte :=
  let a := leNat old
  let b := leNat new
  if op = 1 then leBytes n (a + b)
  else leBytes n (finish fmtF32 .rne false (addV .rne (decodeF fmtF32 a) (decodeF fmtF32 b))).1

/-! ### Performing (R156, R157, R160) -/

/-- Two byte ranges meet. -/
def rangesMeet (a n b m : Nat) : Bool := decide (a < b + m) && decide (b < a + n)

/-- The destination bytes of two pieces meet. -/
def placesMeet (n m : Nat) : Place → Place → Bool
  | .mem a, .mem b => a.any (fun p => b.any (fun r => rangesMeet p.pa p.n r.pa r.n))
  | .tile t i, .tile _ j => rangesMeet (t.base + i / 8) (n + 1) (t.base + j / 8) (m + 1)
  | .feed _, _ => true
  | .vreg _ i, .vreg _ j => rangesMeet i n j m
  | .peer _ i, .peer _ j => rangesMeet i.toNat n j.toNat m
  | _, _ => false

/-- The banks of a place are ON, or have begun to wake. -/
def State.placeOn (s : State) (n : Nat) : Place → Bool × State
  | .tile t bit => (s.banksOn t (bit / 8) (bitSpan bit n), s.useBanks t (bit / 8) (bitSpan bit n))
  | _ => (true, s)

/-- Earlier vector work of the hart has still to finish: its stores, which a transfer sees (R115); writes of a VREG source, or uses of
a VREG destination (R154). -/
def State.vregBusy (s : State) (x : Xfer) : Bool :=
  let a := s.taskHart x.hart x.task
  let r : Shape := x.shape
  let rd := if r.sk = 3 then span (vregGroup x.src).1 (vregGroup x.src).2 else []
  let wr := if r.dk = 3 then span (vregGroup x.dst).1 (vregGroup x.dst).2 else []
  let vq := a.vq.filter (fun c => decide (c.seq < x.seq))
  let ms := (s.quad (quadOf x.hart)).mBefore x.hart x.seq
  vq.any (fun c => c.op.isStore || overlap c.writes (rd ++ wr) || overlap c.reads wr) ||
  ms.any (fun m => overlap m.op.writesV (rd ++ wr) || overlap m.op.readsV wr)

/-- A transfer of a quad changed. -/
def State.updXfer (s : State) (q id : Nat) (f : Xfer → Xfer) : State :=
  s.updQuad q (fun a => { a with running := a.running.map (fun x => if x.id == id then f x else x) })

/-- A failing piece stops its transfer there: pieces at and after it are not performed. -/
def Xfer.failAt (x : Xfer) (p : Piece) (cause : Nat) (va : Word) : Xfer :=
  let before (c : Piece) : Bool := decide (c.n < p.n) || (decide (c.n = p.n) && decide (c.i < p.i))
  { x with fail := some (p.n, cause, va), emitted := x.emitted.filter before, untagged := [], pmiss := none, denied := false }

/-- The link that an operand of a transfer names, if it is a PEER operand (R304). -/
def Xfer.link (x : Xfer) (src : Bool) : Option Nat :=
  if 4 ≤ (if src then Shape.sk x.shape else Shape.dk x.shape) then some (fieldOf (if src then x.src else x.dst).toNat 60 4)
  else none

/-- A run of a transfer is under way when link `l` fails: cause 5 for a source of which a piece is still to be read, 7 for a
destination (R414). -/
def Xfer.linkFails (x : Xfer) (l : Nat) : Xfer :=
  let at_ (src : Bool) (p : Piece) : Word := peerVa (x.runAddr src p.n + BitVec.ofNat 64 p.i)
  let ps := x.emitted ++ x.untagged
  if x.link true = some l then
    match ps.find? (fun p => p.got.isNone) with
    | none => x
    | some p => x.failAt p 5 (at_ true p)
  else if x.link false = some l then
    match ps with
    | [] => x
    | p :: _ => x.failAt p 7 (at_ false p)
  else x

/-- Link `l` fails, or its partner resets: the runs under way on it fail (R414). -/
def State.failRuns (s : State) (l : Nat) : State :=
  { s with quads := s.quads.map (fun (e : Nat × Quad) =>
      (e.1, Quad.shareTags { e.2 with running := e.2.running.map (fun x => x.linkFails l) })) }

/-- What the partner of link `p` tells at a step: `bytes` its memory holds at `v`, and pages `stuck` that it does not map, or
with `b` that it keeps frozen (R414). -/
def State.peerTells (s : State) : State :=
  let l := s.ev.p
  let k := Tab.get s.peers l {}
  let m := match s.ev.bytes with
    | none => k
    | some b => { k with mem := k.mem.writeBytes s.ev.v.toNat b }
  let n := if s.ev.stuck.isEmpty then m
    else if s.ev.b then { m with frozen := s.ev.stuck } else { m with unmapped := s.ev.stuck }
  if n = k then s else { s with peers := Tab.set s.peers l n }

/-- A feed has room for a piece. -/
def State.feedRoom (s : State) (q n : Nat) : Place → Bool
  | .feed k => decide ((((s.quad q).feeds[k % 4]'(Nat.mod_lt _ (by decide))).length + n) ≤ 16384)
  | _ => true

/-- A transfer of a quad has failed at a piece: its tags go to others (R158). -/
def State.failPiece (s : State) (q : Nat) (x : Xfer) (p : Piece) (cause : Nat) (va : Word) (w : Why) : State :=
  ((s.tellEngine q x.part x.task.toNat cause va w).updXfer q x.id (fun y => y.failAt p cause va)).updQuad q Quad.shareTags

/-- What a waiting access of a transfer sends, a partition-stage miss once (R18). -/
def State.xferWait (s : State) (q : Nat) (x : Xfer) (e : EAcc) : State :=
  match e with
  | .miss _ => if x.pmiss.isSome then s else (s.engineWait x.who x.req e).updXfer q x.id (fun y => { y with pmiss := some s.time })
  | _ => s.engineWait x.who x.req e

/-- A piece's source is read, and its destination checked: the piece with what it has got, or why it has not. `none` while a bank
of a source tile wakes. -/
def State.readPiece (s : State) (x : Xfer) (p : Piece) : Except Found (Piece × State) × State :=
  match s.findPiece x p with
  | .error f => (.error f, s)
  | .ok (a, b, t) =>
    let n := p.j - p.i
    let u := t.placeOn n a
    if !u.1 then (.error (.wait .flip), u.2)
    else
      let r := u.2.readPlace x n a
      let parts := match b with
        | .mem l => l
        | _ => []
      (.ok ({ p with got := some ⟨r.1, parts⟩ }, r.2), r.2)

/-- Pieces read in order, those of earlier runs first, up to one that fails or waits: no run is performed until every run below it is
certain not to fail (R32, R160). -/
def State.readPieces (s : State) (x : Xfer) : List Piece → List Piece × State × Option (Piece × Found)
  | [] => ([], s, none)
  | p :: t =>
    if p.got.isSome then
      let r := s.readPieces x t
      (p :: r.1, r.2)
    else match s.readPiece x p with
      | (.ok (p', u), _) =>
        let r := u.readPieces x t
        (p' :: r.1, r.2)
      | (.error f, u) => (p :: t, u, some (p, f))

/-- Where a piece that has been read writes. -/
def State.destOf (s : State) (x : Xfer) (p : Piece) (g : Got) : Found :=
  if Shape.dk x.shape ≠ 0 then s.findSide x false p
  else match s.partsWait x.who (quadOf x.hart) true g.parts with
    | some e => .wait e
    | none => .ok (.mem g.parts) s

/-- Two pieces of a transfer write some byte twice: the one of the higher run is written last (R156); runs into a feed keep their order
(R153), and a partner may still refuse an earlier one (R414). -/
def State.piecesMeet (s : State) (x : Xfer) (n : Nat) (d : Place) (p : Piece) : Bool :=
  let place (g : Got) : Found := if Shape.dk x.shape = 0 then .ok (.mem g.parts) s else s.findSide x false p
  match p.got.map place with
  | some (.ok e _) => decide (Shape.dk x.shape = 4) || placesMeet n (p.j - p.i) d e
  | _ => true

/-- Piece `k` of a transfer, which has been read, is written, unless it must follow an earlier one or its place is not ready; its
tag is free. -/
def State.writePiece (s : State) (q k : Nat) (x : Xfer) (p : Piece) (g : Got) : State :=
  let n := p.j - p.i
  let op := Shape.opn x.shape
  match s.destOf x p g with
  | .fail c va w => s.failPiece q x p c va w
  | .wait e => s.xferWait q x e
  | .ok d t =>
    if op = 0 ∧ (x.emitted.take k).any (s.piecesMeet x n d) then s
    else
      let v := t.placeOn n d
      if !(v.1 && s.feedRoom q n d) then v.2
      else
        let bytes := if op = 0 then g.bytes else updateBytes op n (v.2.readPlace x n d).1 g.bytes
        ((v.2.writePlace x q bytes d).updXfer q x.id (fun y => { y with emitted := y.emitted.eraseIdx k, denied := false })).updQuad q
          Quad.shareTags

/-- COPY_LINE_PERFORMED (R156): piece `k` of those that transfer `w` of quad `q` has emitted, once those before it have been
read, a partner having told what it holds (R414). -/
def execCopyLinePerformed (s₀ : State) : Res :=
  let s := s₀.peerTells
  let q := s.ev.q
  match (s.quad q).running.find? (fun x => x.id == s.ev.w) with
  | none => .next s
  | some x =>
    if x.emitted.length ≤ s.ev.k ∨ s.vregBusy x then .next s
    else
      let r := s.readPieces x (x.emitted.take (s.ev.k + 1))
      let y : Xfer := { x with emitted := r.1 ++ x.emitted.drop (s.ev.k + 1) }
      let t := r.2.1.updXfer q x.id (fun z => { z with emitted := y.emitted })
      match r.2.2 with
      | some (p, .fail c va w) => .next (t.failPiece q x p c va w)
      | some (_, .wait e) => .next (t.xferWait q x e)
      | some (_, .ok _ _) => .next t
      | none => match y.emitted[s.ev.k]? with
        | some p => match p.got with
          | some g => .next (t.writePiece q s.ev.k y p g)
          | none => .next t
        | none => .next t

/-! ### Completion (R161 to R164) -/

/-- STAT, CAUSE, ITER and FVA of a transfer before its barrier is checked. R162 gives no ITER, and so no BYTES, for an aborted
transfer: it is the number of the next run, which was not emitted (DESIGN CHOICE, log 68). -/
def Xfer.outcome (x : Xfer) : Nat × Nat × Nat × Word :=
  if x.aborted then (2, 0, x.next, 0)
  else match x.fail with
    | some (n, c, va) => (1, c, n, va)
    | none => (0, 0, Shape.runs x.shape, 0)

/-- The bytes of a completion record (R162). -/
def Xfer.record (x : Xfer) (stat cause iter : Nat) (fva : Word) : List Byte :=
  leBytes 8 (x.task.toNat * 2 ^ 32 + cause % 256 * 256 + stat) ++ leBytes 8 iter ++ leBytes 8 fva.toNat ++
    leBytes 8 (Shape.run x.shape * iter % 2 ^ 32)

/-- A failed transfer whose record was not written is owed to a wait on its token (R163). -/
def Xfer.tokenErr (x : Xfer) (recorded : Bool) (a : Hart) : Hart :=
  match x.token, x.fail with
  | some k, some (_, c, va) =>
    if recorded || x.aborted || x.abandoned then a else { a with sbErr := a.sbErr ++ [⟨k, x.id, c, va⟩] }
  | _, _ => a

/-- The group of a VREG destination becomes present (R154). -/
def Xfer.arrive (x : Xfer) (a : Hart) : Hart :=
  if Shape.dk x.shape = 3 then
    let g := vregGroup x.dst
    (a.presentV g.1 g.2).unparkOn .v g.1 g.2
  else a

/-- A transfer has come to a stage of its completion. -/
def State.stageXfer (s : State) (q : Nat) (x : Xfer) (st : Stage) : State :=
  s.updXfer q x.id (fun y => { y with stage := st, pmiss := none, denied := false })

/-- The last steps of a completion: the count, when the check passed and still holds, then the token. The count waits for a flip of
its page, or for the host (R404). -/
def State.countXfer (s : State) (q : Nat) (x : Xfer) (stat : Nat) (bar : Option Nat) (lost : Bool) : State :=
  let full := Shape.run x.shape * Shape.runs x.shape
  let failed := decide (stat ≠ 0) || lost
  let t := { s.updQuad q (fun a => { a with running := a.running.filter (fun y => y.id != x.id) }) with
    bisnps := s.bisnps.filter (fun b => b.who != x.who) }
  let logged (c : Nat) : State := t.logEngine q x.task.toNat 2 c 0
  match bar with
  | none => t.endToken x.hart x.task x.token (failed || decide (Shape.ctgt x.shape ≠ 0))
  | some pa =>
    if 2 ≤ Tab.get s.bias (pageOf pa) 0 ∨ s.sliceBusy q pa true none then s
    else if s.mustSnoop x.who pa true then s.sendSnoop x.who (lineOf pa) true
    else if (Tab.get s.freeze (pageOf pa) {}).count ≠ 0 then (logged 25).endToken x.hart x.task x.token true
    else if (s.obj pa).kind ≠ 2 then (logged 31).endToken x.hart x.task x.token true
    else (t.countInto pa full (decide (x.outcome.1 ≠ 0))).endToken x.hart x.task x.token failed

/-- The push of a completion, then its last steps. -/
def State.pushXfer (s : State) (q : Nat) (x : Xfer) (stat : Nat) (bar : Option Nat) : State :=
  let on (u : State) : State := (u.stageXfer q x (.pushed stat bar false)).countXfer q x stat bar false
  if x.push then
    let r := (s.quad q).fifoTry (.cpush x.pushFifo x.id) (s.clockOf q)
    let t := s.updQuad q (fun _ => r.2)
    if r.1 then on t else t
  else on s

/-- Bytes written at an engine's parts, in order. -/
def State.writeParts (s : State) (x : Xfer) (l : List MemPart) (bytes : List Byte) : State :=
  s.writePlace x (quadOf x.hart) bytes (.mem l)

/-- The record of a completion (R162), then its push; it waits for a flip, the host or Chinook at its lines. -/
def State.recordXfer (s : State) (q : Nat) (x : Xfer) (stat cause : Nat) (bar : Option Nat) : State :=
  let o := x.outcome
  let on (u : State) (written : Bool) : State :=
    ((u.updTask x.hart x.task (fun a => x.tokenErr written (x.arrive a))).stageXfer q x (.recorded stat bar)).pushXfer q x stat bar
  if Shape.crec x.shape = 0 then on s false
  else match s.engineParts x.who x.req .store 0 0 x.denied (lineParts (BitVec.ofNat 64 (Shape.crec x.shape)) 32) with
    | .ok (.mem l) u => on (u.writeParts x l (x.record stat cause o.2.2.1 o.2.2.2)) true
    | .ok _ u => on u false
    | .fail c va w => on (s.tellEngine q x.part x.task.toNat c va w) false
    | .wait e => s.xferWait q x e

/-- A completion from its start: the barrier's check (R164), then the record. -/
def State.checkXfer (s : State) (q : Nat) (x : Xfer) : State :=
  let va := BitVec.ofNat 64 (Shape.ctgt x.shape)
  let o := x.outcome
  let on (u : State) (stat cause : Nat) (bar : Option Nat) : State :=
    (u.stageXfer q x (.checked stat cause bar)).recordXfer q { x with denied := false } stat cause bar
  let fails (u : State) (c : Nat) : State := if o.1 = 0 then on u 1 c none else on u o.1 o.2.1 none
  if Shape.ctgt x.shape = 0 then on s o.1 o.2.1 none
  else match s.barrier x.who x.req va with
    | .ok c => on c.s o.1 o.2.1 (some c.pa)
    | .fail c w => fails (s.tellEngine q x.part x.task.toNat c va w) c
    | .miss g => if x.denied then fails s 7 else s.xferWait q x (.miss g)
    | e => s.xferWait q x e

/-- A transfer has nothing left to perform. -/
def Xfer.over (x : Xfer) : Bool :=
  x.emitted.isEmpty && x.untagged.isEmpty && (x.aborted || x.fail.isSome || decide (Shape.runs x.shape ≤ x.next))

/-- COPY_COMPLETE (R161): transfer `w` of quad `q` goes on with its completion from where it is. -/
def execCopyComplete (s : State) : Res :=
  let q := s.ev.q
  match (s.quad q).running.find? (fun x => x.id == s.ev.w) with
  | none => .next s
  | some x =>
    if s.quadHalted q then .next s
    else match x.stage with
      | .running => .next (if x.over then s.checkXfer q x else s)
      | .checked st c bar => .next (s.recordXfer q x st c bar)
      | .recorded st bar => .next (s.pushXfer q x st bar)
      | .pushed st bar lost => .next (s.countXfer q x st bar lost)

/-! ### Abort (R166) and the queue limit (R433) -/

/-- Transfers that a test names stop at their next run boundary. R158 and R166 do not say how a transfer that is still queued completes:
it joins the running ones at once, without its pop and whatever their number (DESIGN CHOICE, log 68). -/
def Quad.abortXfers (a : Quad) (f : Xfer → Bool) : Quad :=
  let stop (x : Xfer) : Xfer := if f x && decide (x.stage = .running) then { x with aborted := true } else x
  let gone (h : Held) : Bool := match h.op with
    | .cpop _ id => (a.cq.filter f).any (fun x => x.id == id)
    | _ => false
  { a with
    running := a.running.map stop ++ (a.cq.filter f).map stop
    cq := a.cq.filter (fun x => !f x)
    held := a.held.filter (fun h => !gone h) }

/-- A copy's pop abandoned: it performs nothing and completes with STAT 1 and CAUSE 31. -/
def Quad.abandonPop (a : Quad) (id : Nat) : Quad :=
  { a with
    running := a.running ++ (a.cq.filter (fun x => x.id == id)).map (fun x =>
      { x with fail := some (0, 31, 0), abandoned := true })
    cq := a.cq.filter (fun x => x.id != id) }

end Sys2Proof.Machine
end

