-- ==== Sys2Proof/Machine/Groups.lean ====
section
/-!
DEFINITION. Multicast groups and held loads (R84 to R95, R229, R297 to R299).
-/
namespace Sys2Proof.Machine

/-! ### Members (R84 to R86) -/

/-- A group of a die. -/
def State.group (s : State) (d g : Nat) : Group := Tab.get (s.die d).groups g {}
/-- A group changed. -/
def State.updGroup (s : State) (d g : Nat) (f : Group → Group) : State :=
  s.updDie d (fun a => { a with groups := Tab.set a.groups g (f (Tab.get a.groups g {})) })
/-- A member is a task of a partition on a hart (R84). -/
def Member.is (m : Member) (p : Nat) (task : BitVec 32) (h : Nat) : Bool := m.part == p && m.task == task && m.hart == h
/-- The member that a task is. -/
def Group.member (a : Group) (p : Nat) (task : BitVec 32) (h : Nat) : Option Member := a.members.find? (fun m => m.is p task h)

/-- GJOIN (R86, R297). -/
def execGjoin (c b d : Reg) (s : State) : Res :=
  let x := s.me.xv b
  let die := dieOf s.cur
  let a := s.group die x.toNat
  let p := s.partOf s.cur
  let task := BitVec.ofNat 32 s.me.taskId
  let answer (t : State) (n : Nat) : Res := .next (t.updMe (fun h => (h.setX d (BitVec.ofNat 64 n)).advance 4))
  s.guarded [s.me.ready (xs [b, c]) (xs [d]), trapIf (decide (255 < x.toNat)) 29 x,
      trapIf (!a.own || decide (a.part ≠ p)) 29 x]
    (if (a.member p task s.cur).isSome then answer s a.members.length
     else if 64 ≤ a.members.length then answer s (2 ^ 64 - 1)
     else
       let t := fieldOf (s.me.xv c).toNat 0 16
       let timer := if a.members.isEmpty then (if t = 0 then 4096 else t) else a.timer
       answer (s.updGroup die x.toNat (fun a => { a with
         timer := timer, members := a.members ++ [⟨p, task, s.cur, a.openseq + 1, a.openseq + 1⟩] })) (a.members.length + 1))

/-! ### Reading a source (R91, R404) -/

/-- The line requests of a source. -/
def GReq.lines (r : GReq) : List LineReq := r.pages.flatMap (fun p => (linesOf p.pa p.n).map (fun l => (l, p.tr, p.stamp)))

/-- The number under which the reading of a source sends snoops. -/
def GReq.who (r : GReq) : Nat := engineAgent r.id

/-- What the reading of a source waits for: the flip of a page (R404), a home slice (R75, R76), or the host's answers, for which it
asks (R431). -/
def State.sourceWaits (s : State) (r : GReq) : Option State :=
  let asks := r.lines.filter (fun l => s.mustSnoop r.who (64 * l.1) false)
  if r.pages.any (fun p => decide (2 ≤ Tab.get s.bias (pageOf p.pa) 0)) || s.reachBusy r.slice false r.lines then some s
  else if asks.isEmpty then none
  else some (asks.foldl (fun t l => t.sendSnoop r.who l.1 false) s)

/-- A source read by its holding slice: the bytes, and a line that carries an error, which is logged at each of some consumers (R79,
R81). -/
def State.readSource (s : State) (r : GReq) (users : List GReq) : List Byte × Bool × State :=
  let t := { s with bisnps := s.bisnps.filter (fun b => b.who != r.who) }.reach r.slice false r.lines
  let d := r.pages.foldl (fun acc p =>
    let u := acc.2.readSpan p.key p.pa p.n
    (acc.1 ++ u.1, u.2)) ([], t)
  match r.lines.find? (fun l => !isMmio (64 * l.1) && s.badLine l.1) with
  | none => (d.1, false, d.2)
  | some l => (d.1, true, users.foldl (fun u x =>
      u.logError (quadOf x.hart) ⟨s.unitOf none (64 * l.1), 29, 64 * l.1 % 2 ^ 48, x.task.toNat, x.hart⟩) d.2)

/-! ### Releases (R88, R91) -/

/-- The accepted requests of an open load. -/
def State.loadReqs (s : State) (o : OpenLoad) : List GReq :=
  s.greqs.filter (fun r => r.accepted && r.die == o.die && r.group == o.group && r.seq == o.seq && r.slice == o.slice)

/-- The list of released sequences of a group at a slice. -/
def releaseKey (d g slice : Nat) : Nat := (d * 256 + g) * 384 + slice

/-- A load is released (GROUP_RELEASE), once its source can be read: one read, one fill for each request. -/
def State.releaseLoad (s : State) (o : OpenLoad) (tmo : Bool) : State :=
  let rs := s.loadReqs o
  let k := releaseKey o.die o.group o.slice
  match rs with
  | [] => { s with opens := s.opens.filter (fun x => decide (x ≠ o)) }
  | r :: _ =>
    match s.sourceWaits r with
    | some t => t
    | none =>
      let src := s.readSource r rs
      let t := src.2.2
      { t with
        opens := t.opens.filter (fun x => decide (x ≠ o))
        greqs := t.greqs.filter (fun x => !rs.contains x)
        released := Tab.set t.released k (o.seq :: (Tab.get t.released k []).filter (fun q => decide (o.seq ≤ q + 64)))
        fills := t.fills ++ rs.map (fun x => ⟨x, src.1, rs.length, tmo, false, src.2.1, false, false, none, false⟩) }

/-- A load whose requests meet its expected count is released; so is, with those it has, a load of a stopped partition (R95). -/
def State.tryRelease (s : State) (o : OpenLoad) : State :=
  if o.expected ≤ (s.loadReqs o).length then s.releaseLoad o false
  else if (s.prt (s.group o.die o.group).part).stopped then s.releaseLoad o true
  else s

/-- A member leaves: the expected count of each open load falls that counts it and for which it has not asked: one that it had still
to ask for, or one before its first (R88, R90, R95). -/
def State.leaveGroup (s : State) (d g p h : Nat) (task : BitVec 32) : State :=
  match (s.group d g).member p task h with
  | none => s
  | some m =>
    let t := s.updGroup d g (fun a => { a with members := a.members.filter (fun x => !x.is p task h) })
    let hit (o : OpenLoad) : Bool := o.die == d && o.group == g && o.awaited.contains (p, task, h)
    let unasked (o : OpenLoad) : Bool := decide (m.next ≤ o.seq) || decide (o.seq < m.joined)
    let opens := t.opens.map (fun o => if hit o then
      { o with
        expected := if unasked o then o.expected - 1 else o.expected
        awaited := o.awaited.erase (p, task, h) }
      else o)
    (opens.filter (fun o => o.die == d && o.group == g)).foldl State.tryRelease { t with opens := opens }

/-- A retiring task of a partition leaves every group (R84). -/
def State.leaveGroupsOf (s : State) (p h : Nat) (task : BitVec 32) : State :=
  ((s.die (dieOf h)).groups.map (·.1)).foldl (fun t g => t.leaveGroup (dieOf h) g p h task) s
/-- A retiring task leaves every group. -/
def State.leaveGroups (s : State) (h : Nat) (task : BitVec 32) : State := s.leaveGroupsOf (s.partOf h) h task

/-- GLEAVE (R297). -/
def execGleave (b : Reg) (s : State) : Res :=
  let x := s.me.xv b
  s.guarded [s.me.ready (xs [b]) [], trapIf (decide (255 < x.toNat)) 29 x]
    (.next ((s.leaveGroup (dieOf s.cur) x.toNat (s.partOf s.cur) s.cur (BitVec.ofNat 32 s.me.taskId)).advance 4))

/-! ### GLD and GLDV at issue (R87, R89, R298, R299) -/

/-- The holding slice of an address on a die (R87). -/
def State.holdSlice (s : State) (d pa : Nat) : Nat :=
  if dieOfQuad (s.homeQuad pa) = d then s.homeQuad pa else proxyQuad d pa

/-- The pages of a source of `len` bytes, translated in order (R299 order 5); in the MMIO window each doubleword must be a register. -/
def State.sourcePages (s : State) (src : Word) (len : Nat) : Nat → Nat → Except Stop (List MemPart × State)
  | 0, _ => .ok ([], s)
  | n + 1, k =>
    let at_ := if k = 0 then src.toNat else (src.toNat / 4096 + k) * 4096
    let va := BitVec.ofNat 64 at_
    match s.translate (s.vreqOf s.cur) va .load with
    | .fault c w => .error (faultStop c va w)
    | .miss g => .error (s.missStop s.cur va .load g)
    | .wait p => .error (.park p)
    | .ok e pa t =>
      let size := min (src.toNat + len - at_) (4096 - at_ % 4096)
      match noRegister pa size with
      | some a => .error (.trap 5 (va + BitVec.ofNat 64 (a - pa)))
      | none => (t.sourcePages src len n (k + 1)).map (fun r => (Acc.part ⟨e, pa, false, t⟩ size 0 :: r.1, r.2))

/-- The fields of a control word (R229). -/
def ctlLen (w : Word) : Nat := fieldOf w.toNat 40 17
def ctlGroup (w : Word) : Nat := fieldOf w.toNat 32 8
def ctlRow (w : Word) : Nat := fieldOf w.toNat 16 16
def ctlGen (w : Word) : Nat := fieldOf w.toNat 8 8
def ctlHandle (w : Word) : Nat := fieldOf w.toNat 0 8
/-- The register group of GLDV. -/
def ctlVreg (w : Word) : Nat × Nat := (fieldOf w.toNat 0 5, 2 ^ fieldOf w.toNat 5 2)

/-- Order 6 of R299: the control word is not well formed. -/
def ctlBad (w : Word) (vec : Bool) : Bool :=
  decide (fieldOf w.toNat 57 7 ≠ 0) || decide (ctlLen w = 0) || decide (ctlLen w % 64 ≠ 0) ||
  (if vec then decide (ctlRow w ≠ 0) || decide (ctlGen w ≠ 0) || decide (fieldOf w.toNat 7 1 ≠ 0) ||
      decide (128 * (ctlVreg w).2 < ctlLen w)
    else decide (65536 < ctlLen w))

/-- Order 7 of R299: the tile, its row, and the fit rule of R298. -/
def State.fillFits (s : State) (part : Nat) (fmt : List Word) (hw : Word) (row len : Nat) : Option (TileRef × Nat) :=
  match s.tileOf part hw with
  | none => none
  | some t =>
    let w := etWidth fmt t.e.ty
    let bit := t.bit row 0 w
    if t.e.rows ≤ row ∨ bit % 8 ≠ 0 ∨ t.bytes w < bit / 8 + len then none else some (t, bit)

/-- GLD and GLDV (R299): orders 2 to 7, then the request is sent, the destinations are pending, and the hart parks until it is
accepted (R89). -/
def State.groupLoad (s : State) (vec e : Bool) (k : BitVec 3) (c b a : Reg) : Res :=
  let h := s.me
  let ctl := h.xv c
  let src := h.xv b
  let tok := tokenOf e k
  let q := quadOf s.cur
  let p := s.partOf s.cur
  let hw := handleWord q (ctlHandle ctl) (ctlGen ctl)
  let g := ctlVreg ctl
  let dst := xs [a] ++ (if vec then vgroup g.1 g.2 else [])
  let len := ctlLen ctl
  let npages := if len = 0 then 0 else (src.toNat % 4096 + len + 4095) / 4096
  let wr := if vec then span g.1 g.2 else []
  if s.greqs.any (fun r => r.hart == s.cur && !r.accepted) then .next (s.updMe (fun x => x.claim dst))
  else
    s.guarded [if vec && (h.presentAll (xs [c])).isNone then h.groupStop g.1 g.2 else none, h.ready (xs [a, b, c]) [],
        h.ownedAll dst, trapIf (!vec && !e && decide (a = 0)) 31 4, trapIf (decide (src.toNat % 64 ≠ 0)) 4 src]
      (match s.sourcePages src len npages 0 with
        | .error st => s.stopFor dst st
        | .ok (pages, t) =>
          s.guarded [trapIf (ctlBad ctl vec) 29 src,
              trapIf (!vec && (s.fillFits p h.fmts hw (ctlRow ctl) len).isNone) 27 hw, h.tokenFull tok,
              parkIf (h.vq.any (fun x => x.op.isStore || overlap (x.reads ++ x.writes) wr) ||
                !((s.quad q).clearFor s.cur h.seq wr wr)) .faultPoint]
            (let pa := (pages.map (·.pa)).headD 0
             let task := BitVec.ofNat 32 h.taskId
             let r : GReq := {
               id := t.nextXfer, die := dieOf s.cur, group := ctlGroup ctl, slice := t.holdSlice (dieOf s.cur) pa
               seq := (((s.group (dieOf s.cur) (ctlGroup ctl)).member p task s.cur).map (·.next)).getD 0
               hart := s.cur, task := task, part := p, asid := (s.reqOf s.cur).asid
               root := (s.reqOf s.cur).root, mode := h.mode, pages := pages, pa := pa, src := src, len := len, vector := vec
               row := ctlRow ctl, hw := hw, reg := g.1, gsize := g.2, xd := a.toNat, token := tok, barrier := h.xv a
               fmt := h.fmts, cls := h.taskCls }
             State.parksFor { t with nextXfer := t.nextXfer + 1, greqs := t.greqs ++ [r] } dst .gld))

/-- GLD (R298). -/
def execGld (e : Bool) (k : BitVec 3) (c b a : Reg) (s : State) : Res := s.groupLoad false e k c b a
/-- GLDV (R298). -/
def execGldv (e : Bool) (k : BitVec 3) (c b a : Reg) (s : State) : Res := s.groupLoad true e k c b a

/-! ### At the holding slice (R88, R89, R92) -/

/-- The slice has released a sequence of a group (R92). -/
def State.wasReleased (s : State) (d g slice seq : Nat) : Bool :=
  let l := Tab.get s.released (releaseKey d g slice) []
  let open_ := (s.opens.filter (fun o => o.die == d && o.group == g && o.slice == slice)).map (·.seq)
  l.contains seq || decide (seq + 64 < (l ++ open_).foldl max 0)

/-- The requests of one load agree (R89): length, form, gang register, first source byte. -/
def GReq.agrees (a b : GReq) : Bool :=
  decide (a.len = b.len) && (a.vector == b.vector) && (!a.vector || decide (a.reg = b.reg)) && decide (a.pa = b.pa)

/-- An accepted request: the destinations stay pending until the fill, the token counts, the member's next load follows, and its hart
goes on. -/
def State.acceptReq (s : State) (r : GReq) : State :=
  let t := { s with greqs := s.greqs.map (fun (x : GReq) => if x.id = r.id then { x with accepted := true } else x) }
  let u := t.updGroup r.die r.group (fun a => { a with
    members := a.members.map (fun m => if m.is r.part r.task r.hart then { m with next := r.seq + 1 } else m) })
  u.updHart r.hart (fun a =>
    let b := a.presX (regNo r.xd) .pending
    let c := if r.vector then b.pendV r.reg r.gsize else b
    { c.startToken r.token with claimed := [] }.advance 4)

/-- A refused request traps at its instruction, whose destinations are as they were. -/
def State.refuseReq (s : State) (r : GReq) : State :=
  State.updHart { s with greqs := s.greqs.filter (fun x => x.id != r.id) } r.hart (fun a => a.unclaim.trap 29 r.src 0)

/-- GROUP_REQUEST_ARRIVE (R88): the `k`-th request under way reaches its slice. -/
def execGroupRequestArrive (s : State) : Res :=
  match s.greqs[s.ev.k]? with
  | none => .next s
  | some r =>
    let a := s.group r.die r.group
    if r.accepted then .next s
    else if (a.member r.part r.task r.hart).isNone then .next (s.refuseReq r)
    else match s.opens.find? (fun o => o.die == r.die && o.group == r.group && o.slice == r.slice && o.seq == r.seq) with
      | some o =>
        if (s.loadReqs o).all (fun x => r.agrees x) then .next ((s.acceptReq r).tryRelease o) else .next (s.refuseReq r)
      | none =>
        if s.wasReleased r.die r.group r.slice r.seq then
          match s.sourceWaits r with
          | some t => .next t
          | none =>
            let src := s.readSource r [r]
            let t := src.2.2.acceptReq r
            .next { t with
              greqs := t.greqs.filter (fun x => x.id != r.id)
              fills := t.fills ++ [⟨r, src.1, 1, false, true, src.2.1, false, false, none, false⟩] }
        else if 4 ≤ (s.opens.filter (fun o => o.die == r.die && o.group == r.group && o.slice == r.slice)).length then .next s
        else
          let o : OpenLoad := ⟨r.die, r.group, r.slice, r.seq, s.time, a.timer, a.members.length,
            a.members.map (fun m => (m.part, m.task, m.hart))⟩
          let t := (s.acceptReq r).updGroup r.die r.group (fun a => { a with openseq := max a.openseq r.seq })
          .next ({ t with opens := t.opens ++ [o] }.tryRelease o)

/-- GROUP_HOLD_TIMEOUT (R88): the timer of the `k`-th open load is over; a load whose release waited for its source is tried again. -/
def execGroupHoldTimeout (s : State) : Res :=
  match s.opens[s.ev.k]? with
  | none => .next s
  | some o =>
    if o.expected ≤ (s.loadReqs o).length ∨ s.time < o.openedAt + o.timer then .next (s.tryRelease o)
    else .next (s.releaseLoad o true)

/-- The open loads of a partition's groups are released at once when it stops (R95). -/
def State.releaseAll (s : State) (p : Nat) : State :=
  (s.opens.filter (fun o => (s.group o.die o.group).own && decide ((s.group o.die o.group).part = p))).foldl
    (fun t o => t.releaseLoad o (decide ((t.loadReqs o).length < o.expected))) s

/-! ### The fill (R94) -/

/-- The status word. -/
def GFill.status (f : GFill) : Word :=
  BitVec.ofNat 64 (f.req.seq % 2 ^ 16 * 2 ^ 32 + f.nreq * 2 ^ 16 + bitNat f.err * 4 + bitNat f.tmo * 2 + bitNat f.str)

/-- The bytes a fill leaves at its destination, tile storage from `a`: free after an error, and where another write came
before the fill (R94, log 6). -/
def State.fillBytes (s : State) (f : GFill) (a : Nat) : List Byte :=
  if f.err then (List.range f.req.len).map (fun k => Config.freeByte s.fresh k)
  else f.bytes.zipIdx.map (fun b =>
    if f.req.dirty.any (fun d => decide (d.1 ≤ a + b.2) && decide (a + b.2 < d.1 + d.2)) then Config.freeByte s.fresh b.2 else b.1)

/-- The mark of a fill with an error. -/
def GFill.mark (f : GFill) : Option Mark := if f.err then some ⟨29, f.req.src⟩ else none

/-- The registers of a GLDV after its fill. -/
def Hart.fillGroup (a : Hart) (f : GFill) (bytes : List Byte) : Hart :=
  let r := f.req
  let b := (bytes.zipIdx).foldl (fun h x => h.setElem r.reg 8 x.2 x.1.toNat) a
  let c := (List.range r.gsize).foldl (fun t k =>
    { t with v := setReg t.v (regNo (r.reg + k)) ⟨(getReg t.v (regNo (r.reg + k))).val, .present, f.mark⟩ }) b
  c.unparkOn .v r.reg r.gsize

/-- The member's registers after a fill: the group, then the status word. -/
def Hart.fillRegs (a : Hart) (f : GFill) (bytes : List Byte) : Hart :=
  let r := f.req
  let b := if r.vector then a.fillGroup f bytes else a
  (b.land ⟨.x, regNo r.xd, f.status, f.mark, none⟩).unparkOn .x r.xd 1

/-- The member's token after a fill and its count. -/
def Hart.fillToken (a : Hart) (f : GFill) (failed : Bool) : Hart :=
  let r := f.req
  let b : Hart := match r.token with
    | some k => if f.err then { a with sbErr := a.sbErr ++ [(⟨k, r.id, 29, r.src⟩ : TokenErr)] } else a
    | none => a
  b.endToken r.token failed

/-- A fill is over. -/
def State.endFill (s : State) (f : GFill) (failed : Bool) : State :=
  let r := f.req
  State.updTaskOf { s with
    fills := s.fills.filter (fun x => x.req.id != r.id)
    bisnps := s.bisnps.filter (fun b => b.who != r.who) } r.part r.hart r.task (fun a => a.fillToken f failed)

/-- A failed barrier check of a completion without a record: the issuing quad's log (R164). -/
def State.logTarget (s : State) (q part task cause : Nat) (va : Word) (w : Why) : State :=
  match w with
  | .bad _ _ => s.tellEngine q part task cause va w
  | w => (s.tellEngine q part task cause va w).logEngine q task 2 cause 0

/-- The count of a fill that has landed, then its token; a count at a barrier waits for a flip of its page, the host or Chinook, and,
while its partition is stopped, until it resumes (R143). A fill whose tile has gone counts as failed (R136). -/
def State.countFill (s : State) (f : GFill) : State :=
  let r := f.req
  let q := engineReq r.who r.hart r.part r.asid r.mode r.root
  let fails (c : Nat) (w : Why) : State := (s.logTarget (quadOf r.hart) r.part r.task.toNat c r.barrier w).endFill f true
  if r.xd = 0 ∨ r.barrier = 0 then s.endFill f f.lost
  else if (s.prt r.part).stopped then s
  else if r.barrier.toNat % 64 ≠ 0 then fails 31 .plain
  else match s.barrier r.who q r.barrier with
    | .ok c => (c.s.countInto c.pa r.len (f.err || f.lost)).endFill f f.lost
    | .fail c w => fails c w
    | .miss g =>
      if f.denied then fails 7 .plain
      else if f.pmiss.isSome then s
      else
        let t := s.engineWait r.who q (.miss g)
        { t with fills := t.fills.map (fun x => if x.req.id = r.id then { x with pmiss := some s.time } else x) }
    | e => s.engineWait r.who q e

/-- A fill at its destination, once the banks of its tile are ON: the bytes, then the registers; a tile that has gone takes
nothing. -/
def State.landFill (s : State) (f : GFill) : State :=
  let r := f.req
  let tile := if r.vector then none else s.fillFits r.part r.fmt r.hw r.row r.len
  let land (t : State) (a : Nat) (put : State → List Byte → State) : State :=
    let bytes := t.fillBytes f a
    let g : GFill := { f with landed := true, lost := !r.vector && tile.isNone }
    let u := put { t with
      fills := t.fills.map (fun x => if x.req.id = r.id then g else x)
      fresh := if f.err || !r.dirty.isEmpty then t.fresh + 1 else t.fresh } bytes
    (u.updTask r.hart r.task (fun a => a.fillRegs f bytes)).countFill g
  match tile with
  | none => land s 0 (fun t _ => t)
  | some (t, bit) =>
    let u := s.useBanks t (bit / 8) r.len
    if s.banksOn t (bit / 8) r.len then land u (t.base + bit / 8) (fun v bytes => v.putTileBytes t (bit / 8) bytes) else u

/-- GROUP_FILL_LAND (R94): the `k`-th fill lands, or goes on with its count. -/
def execGroupFillLand (s : State) : Res :=
  match s.fills[s.ev.k]? with
  | none => .next s
  | some f => .next (if f.landed then s.countFill f else s.landFill f)

end Sys2Proof.Machine
end

