-- ==== Sys2Proof/Machine/Freeze.lean ====
section
/-!
DEFINITION. Freezing and thawing (R96 to R109, R295): FREEZE, THAW, their background steps, and the stamp sweep.
-/
namespace Sys2Proof.Machine

/-! ### The range and its checks (R97, R295) -/

/-- The pages of a range with their virtual addresses, translated with W permission in order (R97 order 1). -/
def State.rangeOf (s : State) (va : Nat) : Nat → Except Stop (List (Nat × Nat) × State)
  | 0 => .ok ([], s)
  | n + 1 =>
    match s.translate (s.reqOf s.cur) (BitVec.ofNat 64 va) .store with
    | .fault c w => .error (faultStop c (BitVec.ofNat 64 va) w)
    | .miss g => .error (s.missStop s.cur (BitVec.ofNat 64 va) .store g)
    | .wait p => .error (.park (if p = .access then .freeze else p))
    | .ok e pa t =>
      match t.rangeOf (va + 4096) n with
      | .error st => .error st
      | .ok r =>
        -- a device page is kept as page 2^40 and more, out of every memory
        let page := if e.mt = .device then 2 ^ 40 + pageOf pa else pageOf pa
        .ok ((va, page) :: r.1, r.2)

/-- The physical pages of a range, ascending, with the number of virtual pages of each (R96). -/
def pageCounts (l : List (Nat × Nat)) : Tab Nat := l.foldl (fun t x => Tab.set t x.2 (Tab.get t x.2 0 + 1)) []

/-- The lowest page of a range that fails a test. -/
def firstBad (l : List (Nat × Nat)) (bad : Nat → Bool) (cause : Nat) : Option Stop :=
  (l.find? (fun x => bad x.2)).map (fun x => .trap cause (BitVec.ofNat 64 x.1))

/-- Freeze count of a page. -/
def State.count (s : State) (page : Nat) : Nat := (Tab.get s.freeze page {}).count

/-! ### Completion (R106, R135, R164) -/

/-- The operation is gone; its token, its parked hart and, after a THAW, the acquire. -/
def State.endFreeze (s : State) (op : FreezeOp) (failed : Bool) : State :=
  let t := { s with
    freezes := s.freezes.filter (fun o => o.id != op.id)
    bisnps := s.bisnps.filter (fun b => b.who != engineAgent op.id) }
  let u := t.endTokenOf op.part op.hart op.task op.token failed
  let v := if op.thaw then u.updTaskOf op.part op.hart op.task Hart.acquired else u
  if op.parks then v.updHart op.hart (fun a => if a.park = some .freeze then a.advance 4 else a) else v

/-- An operation under way changed. -/
def State.updFreezeOp (s : State) (id : Nat) (f : FreezeOp → FreezeOp) : State :=
  { s with freezes := s.freezes.map (fun o => if o.id = id then f o else o) }

/-- The completion of an unlocked operation is delivered, unless its partition is stopped (R106), or its barrier's line waits for
a flip, the host or Chinook. -/
def State.signalFreeze (s : State) (op : FreezeOp) : State :=
  let q := engineReq (engineAgent op.id) op.hart op.part op.asid op.mode op.root
  let fails (c : Nat) (w : Why) : State := (s.logTarget (quadOf op.hart) op.part op.task.toNat c op.barrier w).endFreeze op true
  if (s.prt op.part).stopped && !op.parks then s
  else if op.barrier = 0 then s.endFreeze op false
  else match s.barrier (engineAgent op.id) q op.barrier with
    | .ok c => (c.s.countInto c.pa op.len false).endFreeze op false
    | .fail c w => fails c w
    | .miss g =>
      if op.denied then fails 7 .plain
      else if op.pmiss.isSome then s
      else (s.engineWait (engineAgent op.id) q (.miss g)).updFreezeOp op.id (fun o => { o with pmiss := some s.time })
    | e => s.engineWait (engineAgent op.id) q e

/-- The operation's pages are unlocked, and its completion follows. -/
def State.unlockFreeze (s : State) (op : FreezeOp) : State :=
  let d := { op with done := true, peers := [] }
  (s.updFreezeOp op.id (fun _ => d)).signalFreeze d

/-! ### Issue (R98, R104, R295) -/

/-- FREEZE and THAW until they retire; an empty range completes at once (R97). -/
def State.freezeIssue (s : State) (thaw e : Bool) (k : BitVec 3) (c b a : Reg) : Res :=
  let h := s.me
  let va := h.xv b
  let len := h.xv c
  let bar := h.xv a
  let tok := tokenOf e k
  if s.freezes.any (fun o => o.hart == s.cur && o.parks) then .next s
  else
    s.guarded [h.ready (xs [a, b, c]) [], trapIf (decide (va.toNat % 4096 ≠ 0)) 31 va,
        trapIf (decide (len.toNat % 4096 ≠ 0) || decide (2 ^ 30 < len.toNat)) 31 len,
        trapIf (decide (bar.toNat % 64 ≠ 0)) 31 bar, if thaw then none else h.releaseWait]
      (match s.rangeOf va.toNat (len.toNat / 4096) with
        | .error st => s.stop st
        | .ok (l, t) =>
          let ks := pageCounts l
          s.guarded [firstBad l (fun p => decide (2 ^ 39 / 4096 ≤ p) || decide (Tab.get s.bias p 0 = 1)) 7,
              parkIf (l.any (fun x => decide (2 ≤ Tab.get s.bias x.2 0) || s.pageLocked x.2)) .freeze,
              firstBad l (fun p => if thaw then decide (s.count p < Tab.get ks p 0) else
                decide (255 < s.count p + Tab.get ks p 0)) 26,
              h.tokenFull tok]
            (let parks := !e && decide (a = 0) && !l.isEmpty
             let u := if thaw then t else t.cleanCore (coreOf s.cur)
             let op : FreezeOp := {
               thaw := thaw, hart := s.cur, task := BitVec.ofNat 32 h.taskId, part := s.partOf s.cur
               asid := (s.reqOf s.cur).asid, root := (s.reqOf s.cur).root, mode := h.mode, pages := ks, len := len.toNat
               token := tok, barrier := bar, id := s.nextXfer, parks := parks, cls := h.taskCls }
             let v := { u with nextXfer := u.nextXfer + 1, freezes := u.freezes ++ [op] }
             let w := v.updMe (fun x => if parks then x.parkFor .freeze s.time s.clk else (x.startToken tok).advance 4)
             .next (if l.isEmpty then w.unlockFreeze op else w)))

/-- FREEZE (R98, R295). -/
def execFreeze (e : Bool) (k : BitVec 3) (c b a : Reg) (s : State) : Res := s.freezeIssue false e k c b a
/-- THAW (R104, R295). -/
def execThaw (e : Bool) (k : BitVec 3) (c b a : Reg) (s : State) : Res := s.freezeIssue true e k c b a

/-! ### Shootdown and collection (R98, R104) -/

/-- A TLB entry maps one of some pages. -/
def TlbEntry.maps (e : TlbEntry) (ps : List Nat) : Bool :=
  ps.any (fun p => decide (e.pa / 4096 ≤ p) && decide (p < (e.pa + e.size + 4095) / 4096))

/-- A walk under way has found one of some pages. -/
def Walk.maps (w : Walk) (ps : List Nat) : Bool :=
  match w.res with
  | .ok e => e.maps ps
  | _ => false

/-- Every translation of some pages goes, in all partitions, on all dies, with the walks that have found one. -/
def State.shootPages (s : State) (ps : List Nat) : State :=
  let keep (l : List TlbEntry) : List TlbEntry := l.filter (fun e => !e.maps ps)
  { s with
    cores := s.cores.map (fun (c : Nat × Core) => (c.1, { c.2 with tlb := keep c.2.tlb }))
    quads := s.quads.map (fun (q : Nat × Quad) => (q.1, { q.2 with tlb := keep q.2.tlb }))
    queues := s.queues.map (fun (q : Nat × Queue) => (q.1, if q.2.warm.any (fun w => w.1.maps ps) then { q.2 with warm := [] } else q.2))
    dies := s.dies.map (fun (d : Nat × Die) => (d.1, { d.2 with walks := d.2.walks.filter (fun w => !w.maps ps) })) }

/-- A hart's queued vector store or atomic, or the COMMIT of its BLENDC, is still to write one of some pages. -/
def Hart.storesTo (a : Hart) (ps : List Nat) : Bool :=
  a.vq.any (fun c => ps.any (fun p => c.op.writesMem (4096 * p) 4096)) ||
  (match a.park with
    | some (.commit pa _ _ _) => ps.contains (pageOf pa)
    | _ => false)

/-- A part of an engine's access lies in one of some pages. -/
def MemPart.within (m : MemPart) (ps : List Nat) : Bool := ps.any (fun p => rangesMeet m.pa m.n (4096 * p) 4096)

/-- A translation of some pages has been used by an access that has still to reach its home slice: the acknowledgement waits (R34). It
is a queued vector store or atomic, also of a task that has yielded or whose partition is stopped; a group load whose source is not
read; a transfer's write whose destination has been checked. -/
def State.storesWait (s : State) (ps : List Nat) : Bool :=
  let quad (q : Quad) : Bool := q.running.any (fun x => x.emitted.any (fun p => match p.got with
    | some g => g.parts.any (fun m => m.within ps)
    | none => false))
  s.harts.any (fun h => h.2.storesTo ps) || s.yielded.any (fun y => y.hart.storesTo ps) ||
  s.saved.any (fun x => x.harts.any (fun h => h.2.storesTo ps) || x.yielded.any (fun y => y.hart.storesTo ps) || quad x.state) ||
  s.greqs.any (fun r => r.pages.any (fun m => m.within ps)) ||
  s.quads.any (fun q => quad q.2)

/-- Every tracked copy of the pages' lines goes, dirty ones to their home slice (a displaced victim returns), with the directory
entries (R98). -/
def State.collectPages (s : State) (ps : List Nat) : State :=
  let line (l : Nat) : Bool := ps.contains (l / 64)
  let near := s.cores.flatMap (fun c => (c.2.l1d.filter (fun l => line l.1)).map (fun l => (c.1, l.1)))
  let t := near.foldl (fun t x => t.dropL1 x.1 x.2) (s.mapHarts (fun _ a => a.loseResv (fun r => line r.line)))
  let far := t.quads.flatMap (fun q => (q.2.lines.filter (fun l => line l.1)).map (fun l => (q.1, l.1, l.2.kind)))
  let u := far.foldl (fun u x => match x.2.2 with
    | .victim => u.recallVictim x.1 x.2.1
    | .proxy => u.writeOut x.1 x.2.1
    | _ => u) t
  { u with quads := u.quads.map (fun (q : Nat × Quad) => (q.1, { q.2 with
      filter := q.2.filter.filter (fun l => !line l.1), dir := q.2.dir.filter (fun d => !ps.contains (d.1 / 8)) })) }

/-- A page's freeze entry changed. -/
def State.updFreeze (s : State) (page : Nat) (f : FreezeEntry → FreezeEntry) : State :=
  { s with freeze := Tab.set s.freeze page (f (Tab.get s.freeze page {})) }

/-- FREEZE_COMPLETE (R98): the `k`-th operation, a FREEZE: collection of the pages whose count is 0, the counts, the
completion. -/
def execFreezeComplete (s : State) : Res :=
  match s.freezes[s.ev.k]? with
  | none => .next s
  | some op =>
    if op.thaw then .next s
    else if op.done then .next (s.signalFreeze op)
    else
      let fresh := (op.pages.filter (fun p => s.count p.1 = 0)).map (·.1)
      if s.storesWait fresh then .next s
      else
        let t := (s.shootPages fresh).collectPages fresh
        let u := op.pages.foldl (fun t p => t.updFreeze p.1 (fun f => { f with count := f.count + p.2 })) t
        .next (u.unlockFreeze op)

/-- A THAW would raise TEPOCH to SWSTART + 2,048 of a die whose sweep is running (R107). -/
def State.epochHolds (s : State) : Bool :=
  (List.range 4).any (fun d => (s.die d).swbusy && decide (2048 ≤ ((s.die d).tepoch + 1 - (s.die d).swstart).toNat))

/-- Links that have carried a read of a frozen page, those that have gone down since among them (R416). -/
def State.replicaLinks (s : State) : List Nat := (s.links.filter (fun l => l.2.replicas)).map (·.1)

/-- A THAW at its next stage. -/
def FreezeOp.to (op : FreezeOp) (st : ThawStage) : FreezeOp := { op with stage := st }

/-- The translations of the pages at 0 go once no access uses one, then the peers are told (R104); without peers it ends. -/
def State.thawShoot (s : State) (op : FreezeOp) : State :=
  if s.storesWait op.zero then s
  else
    let t := s.shootPages op.zero
    let links := s.replicaLinks
    if links.isEmpty then t.unlockFreeze op
    else (links.foldl (fun t l => t.emit (.peerInvalidate l op.zero)) t).updFreezeOp op.id (fun _ =>
      { op.to .peers with peers := links, since := s.time })

/-- The epoch rule, then TEPOCH of every die and the generations (R104, R107). -/
def State.thawEpoch (s : State) (op : FreezeOp) : State :=
  if s.epochHolds then s
  else
    let t := (List.range 4).foldl (fun t d => t.updDie d (fun a => { a with tepoch := a.tepoch + 1 })) s
    let u := op.zero.foldl (fun t p => t.updFreeze p (fun f => { f with gen := f.gen + 1 })) t
    (u.updFreezeOp op.id (fun o => o.to .shoot)).thawShoot (op.to .shoot)

/-- The counts are lowered first (R104). -/
def State.thawCounts (s : State) (op : FreezeOp) : State :=
  let z := (op.pages.filter (fun p => s.count p.1 = p.2)).map (·.1)
  let t := op.pages.foldl (fun t p => t.updFreeze p.1 (fun f => { f with count := f.count - p.2 })) s
  let o := { op.to .epoch with zero := z }
  if z.isEmpty then t.unlockFreeze o else (t.updFreezeOp op.id (fun _ => o)).thawEpoch o

/-- THAW_COMPLETE (R104): the `k`-th operation, a THAW, goes on from where it is; with `c` the peer on link `p` has acknowledged. -/
def execThawComplete (s : State) : Res :=
  match s.freezes[s.ev.k]? with
  | none => .next s
  | some op =>
    if !op.thaw then .next s
    else if op.done then .next (s.signalFreeze op)
    else match op.stage with
      | .counts => .next (s.thawCounts op)
      | .epoch => .next (s.thawEpoch op)
      | .shoot => .next (s.thawShoot op)
      | .peers =>
        let left := if s.ev.c then op.peers.erase s.ev.p else op.peers
        if left.isEmpty then .next (s.unlockFreeze op) else .next (s.updFreezeOp op.id (fun o => { o with peers := left }))

/-- A link reset: it rejoins under a new incarnation with its replicas cleared (R82, R105); runs on it fail (R414). -/
def State.resetLink (s : State) (l : Nat) : State :=
  let k := Tab.get s.links l {}
  State.failRuns { s with links := Tab.set s.links l { k with inc := k.inc + 1, replicas := false } } l

/-- PEER_INVALIDATE_TIMEOUT (R105): peers that have not acknowledged the `k`-th operation within 2^20 cycles: their links are
reset, which Quince logs, and the THAW completes. -/
def execPeerInvalidateTimeout (s : State) : Res :=
  match s.freezes[s.ev.k]? with
  | none => .next s
  | some op =>
    if op.thaw ∧ ¬ op.done ∧ op.peers ≠ [] ∧ op.since + 2 ^ 20 ≤ s.time then
      .next ((op.peers.foldl (fun t l => (t.resetLink l).emit (.linkReset l)) s).unlockFreeze op)
    else .next s

/-- FRAME_LEAVES_PARTITION (R106): Quince brings a page's count to 0 by the THAW procedure. -/
def execFrameLeavesPartition (s : State) : Res :=
  let page := pageOf s.ev.addr
  let k := s.count page
  if k = 0 ∨ s.pageLocked page then .next s
  else
    let op : FreezeOp := {
      thaw := true, hart := 16383, task := 0, part := 16, asid := 0, root := 0, mode := .s, pages := [(page, k)], len := 0
      token := none, barrier := 0, id := s.nextXfer, parks := false }
    .next { s with nextXfer := s.nextXfer + 1, freezes := s.freezes ++ [op] }

/-! ### The stamp sweep (R107 to R109) -/

/-- STAMP_SWEEP_START (R107): die `p`. -/
def execStampSweepStart (s : State) : Res :=
  let d := s.die s.ev.p
  if s.ev.p < 4 ∧ ¬ d.swbusy ∧ 2048 ≤ (d.tepoch - d.swstart).toNat then .next (s.startSweep s.ev.p) else .next s

/-- SWGO_WRITE (R109): Quince writes 1 to SWGO of die `p`. -/
def execSwgoWrite (s : State) : Res :=
  if s.ev.p < 4 ∧ ¬ (s.die s.ev.p).swbusy then .next (s.startSweep s.ev.p) else .next s

/-- WAY_KILL (R108): way `w` of quad `q` has not woken within 4,096 cycles of the sweep's start. -/
def execWayKill (s : State) : Res :=
  let dn := dieOfQuad s.ev.q
  let d := s.die dn
  let w := Tab.get (s.quad s.ev.q).ways s.ev.w {}
  if d.swbusy ∧ d.swat + 4096 ≤ s.time ∧ w.st ≠ 0 ∧ ¬ w.kill then
    .next ((s.updQuad s.ev.q (fun a => { a with ways := Tab.set a.ways s.ev.w { w with kill := true } })).updDie dn
      (fun a => { a with killw := (a.killw + 1) % 65536 }))
  else .next s

/-- Every way of a die has been swept or killed. -/
def State.swept (s : State) (d : Nat) : Bool :=
  s.quads.all (fun q => decide (dieOfQuad q.1 ≠ d) || q.2.ways.all (fun w => decide (w.2.st = 0) || w.2.kill))

/-- STAMP_SWEEP_END (R108): die `p`. -/
def execStampSweepEnd (s : State) : Res :=
  if (s.die s.ev.p).swbusy ∧ s.swept s.ev.p then
    .next (s.updDie s.ev.p (fun a => { a with swbusy := false, swcnt := a.swcnt + 1 }))
  else .next s

end Sys2Proof.Machine
end

