-- ==== Sys2Proof/Machine/Matrix.lean ====
section
/-!
DEFINITION. The matrix engine (R336 to R350): issue, the operations at the head of the quad's queue, drains, and the limit
of a FIFO hold (R139, R433).
-/
namespace Sys2Proof.Machine

/-! ### Issue (R177, R337 to R339) -/

/-- K of a width class (R337). -/
def matrixK (w : Nat) : Nat := if w = 16 then 16 else if w = 8 then 32 else 64

/-- The fields of a row register (R338). -/
def rowLo (x : Word) : Nat := fieldOf x.toNat 0 16
def rowHi (x : Word) : Nat := fieldOf x.toNat 16 16
def rowTile (x : Word) : Nat := fieldOf x.toNat 32 16

/-- What a matrix instruction asks of its issue. `rows` are its range checks and `tile` the check of its tile. -/
structure MReq where
  i : Instr
  ets : List Nat := []
  groups : List (Nat × Nat) := []
  src : List Reg := []
  dst : List Reg := []
  vsrc : List (RFile × Nat) := []
  vdst : List (RFile × Nat) := []
  rows : List (Option Stop) := []
  tile : Option Stop := none
  pops : Bool := false
  op : MOp

/-- The command a matrix instruction enters into the quad's queue (R199, R336). -/
def State.mcommand (s : State) (r : MReq) : MCmd :=
  let before := match r.op with
    | .ldb _ _ m _ _ _ => ((s.quad (quadOf s.cur)).m[m % 4]'(Nat.mod_lt _ (by decide))).kind
    | _ => none
  ⟨s.cur, BitVec.ofNat 32 s.me.taskId, r.op, s.me.fmts, s.me.vcfg.bfz, s.me.seq, [], !r.pops, before, s.me.taskCls⟩

/-- The hart's part of an entry: its place in program order, its destinations, and the park of a pop (R139). -/
def Hart.mentered (a : Hart) (r : MReq) (now clk : Nat) : Hart :=
  let b := (xs r.dst ++ r.vdst).foldl Hart.markDst { a with seq := a.seq + 1 }
  if r.pops then b.parkFor .pop now clk else b.advance 4

/-- The issue of a matrix instruction: the checks of R339 in order, the errors it reports (R350, R433), its presence parks,
the queue (R177). -/
def State.mgo (s : State) (r : MReq) (enter : Quad → Quad) : Res :=
  let a := s.me
  let q := s.quad (quadOf s.cur)
  if a.park = some .pop then .next s
  else
    s.guarded ([trapIf (r.ets.any a.fmtInvalid) 30 (wordOf r.i)] ++ r.groups.map (fun x => a.groupStop x.1 x.2) ++
        [a.markedAny (xs r.src ++ r.vsrc), a.presentAll (xs r.src)] ++ r.rows ++ [r.tile])
      (s.reporting (a.due false true true)
        (s.guarded [a.presentAll r.vsrc, a.ownedAll (xs r.dst ++ r.vdst),
            parkIf (decide (8 ≤ (q.mq.filter (fun c => c.hart == s.cur)).length) || decide (32 ≤ q.mq.length)) .mqFull]
          (.next ((s.updQuad (quadOf s.cur) (fun q => enter { q with mq := q.mq ++ [s.mcommand r] })).updMe
            (fun a => a.mentered r s.time s.clk)))))

/-- The source that a kind and its register name. -/
def State.operandM (s : State) (kind : BitVec 2) (a : Reg) : MSrc :=
  if kind = 0 then .vec a.toNat else if kind = 1 then .feed (a.toNat % 4) else .tile (s.me.xv a)

/-- A tile operand's check at its holding quad (R39): `fits` is orders 4 and 5. -/
def State.tileStop (s : State) (hw : Word) (fits : TileEntry → Bool) : Option Stop :=
  match s.tileOf (s.partOf s.cur) hw with
  | none => some (.trap 27 hw)
  | some t => trapIf (!fits t.e) 27 hw

/-- A row number that is not below 128. -/
def rowStop (bad : Bool) (x : Word) : Option Stop := trapIf bad 31 x

/-- MROW (R341). -/
def execMrow (a : Reg) (u : Bool) (m : BitVec 2) (e : BitVec 4) (k : BitVec 2) (t : BitVec 2) (d : Reg) (s : State) : Res :=
  let h := s.me
  let x := h.xv d
  let w := etWidth h.fmts e.toNat
  let rec_ := ((s.quad (quadOf s.cur)).m[m.toNat]'(m.isLt)).kind
  let mism := match rec_ with
    | none => true
    | some r => decide (etWidth (List.replicate 4 r.2) r.1 ≠ w)
  s.mgo { i := .mrow a u m e k t d, ets := [e.toNat], groups := if k = 0 then [(a.toNat, 1)] else []
          src := if k = 2 then [d, a] else [d], vsrc := if k = 0 then vgroup a.toNat 1 else []
          rows := [rowStop (decide (128 ≤ rowLo x)) x, trapIf mism 31 (BitVec.ofNat 64 (16 + m.toNat))]
          tile := if k = 2 then s.tileStop (h.xv a) (fun t => decide (rowHi x < t.rows) && decide (matrixK w ≤ t.cols) &&
            decide (etWidth h.fmts t.ty = w)) else none
          pops := t.getLsbD 0
          op := .row u (t.getLsbD 1) (t.getLsbD 0) m.toNat e.toNat (rowLo x) (rowHi x) (s.operandM k a) (rec_.getD (0, 0)) } id

/-- MSCA (R342). -/
def execMsca (a : Reg) (e : Reg) (t : BitVec 2) (d : Reg) (s : State) : Res :=
  let x := s.me.xv d
  s.mgo { i := .msca a e t d, groups := [(a.toNat, 2)], src := [d, e], vsrc := vgroup a.toNat 2
          rows := [rowStop (decide (128 ≤ rowLo x) || decide (128 ≤ rowHi x)) x], pops := t.getLsbD 0
          op := .sca (t.getLsbD 1) (t.getLsbD 0) (rowLo x) (rowHi x) (s.me.xv e).toInt a.toNat } id

/-- MCFG (R348). -/
def execMcfg (a : Reg) (d : Reg) (s : State) : Res :=
  let v := s.me.xv a
  let ldm := (s.quad (quadOf s.cur)).m.toList.zipIdx.foldl (fun n x => if x.1.kind.isSome then n + 2 ^ x.2 else n) 0
  s.mgo { i := .mcfg a d, src := [a], dst := [d], rows := [trapIf (decide (16 ≤ v.toNat)) 31 v], op := .cfg d.toNat v ldm } id

/-- MLDB (R340): the type record is set when it enters the queue. -/
def execMldb (a : Reg) (e : BitVec 4) (k : BitVec 2) (c v : Bool) (d : Reg) (s : State) : Res :=
  let h := s.me
  let w := etWidth h.fmts e.toNat
  let m := d.toNat % 4
  let rec_ : Nat × Word := (e.toNat, if e.toNat < 12 then 0 else h.fmts.getD (e.toNat - 12) 0)
  s.mgo { i := .mldb a e k c v d, ets := [e.toNat], groups := if k = 0 then [(a.toNat, 8)] else []
          src := if k = 2 then [a] else [], vsrc := if k = 0 then vgroup a.toNat 8 else []
          tile := if k = 2 then s.tileStop (h.xv a) (fun t => decide (matrixK w * 256 ≤ t.rows * t.cols) &&
            decide (etWidth h.fmts t.ty = w)) else none
          pops := c || v
          op := .ldb c v m (d.toNat / 4) e.toNat (s.operandM k a) }
    (fun q => { q with
      m := q.m.set m { (q.m[m]'(Nat.mod_lt _ (by decide))) with kind := some rec_ } (Nat.mod_lt _ (by decide)) })

/-- MZERO (R343). -/
def execMzero (a : Reg) (s : State) : Res :=
  let x := s.me.xv a
  s.mgo { i := .mzero a, src := [a], rows := [rowStop (decide (128 < rowLo x + rowHi x)) x]
          op := .zero (rowLo x) (rowHi x) } id

/-- MRD (R344): its destination group stays present. -/
def execMrd (a : Reg) (e : BitVec 4) (u : Bool) (d : Reg) (s : State) : Res :=
  let x := s.me.xv a
  let g := if e = 10 then 8 else 4
  s.mgo { i := .mrd a e u d, groups := [(d.toNat, g)], src := [a], vdst := vgroup d.toNat g
          rows := [rowStop (decide (128 ≤ rowLo x)) x], op := .rd u e.toNat d.toNat (rowLo x) } id

/-- The wake target of a drain (R346). -/
def State.wakeStop (s : State) (x : Word) : Option Stop :=
  let h := fieldOf x.toNat 0 14
  trapIf (decide (2 ^ 21 ≤ x.toNat) || decide (fieldOf x.toNat 14 2 ≠ 0) || decide (fieldOf x.toNat 16 5 = 0) ||
    decide (12287 < h) || decide (s.partOf h ≠ s.partOf s.cur)) 31 x

/-- The drains (R345, R346). -/
def State.mdrain (s : State) (i : Instr) (ext add push : Bool) (et : Nat) (a b d : Reg) : Res :=
  let h := s.me
  let x := h.xv d
  let b1 := b + 1
  let w := etWidth h.fmts et
  s.mgo { i := i, ets := if ext then [et] else [], src := if b = 0 then [d, a] else [d, a, b, b1]
          rows := [rowStop (decide (rowHi x = 0) || decide (128 < rowLo x + rowHi x)) x, if b = 0 then none else s.wakeStop (h.xv b)]
          tile := s.tileStop (h.xv a) (fun t => decide (rowTile x + rowHi x ≤ t.rows) && decide (256 ≤ t.cols) &&
            (if ext then decide (etWidth h.fmts t.ty = w) else decide (t.ty = 10)))
          op := .drain ext add push et (rowLo x) (rowHi x) (rowTile x) (h.xv a)
            (if b = 0 then none else some (h.xv b, h.xv b1)) } id

/-- MDRAIN_ST (R345). -/
def execMdrainSt (a : Reg) (u : Bool) (b d : Reg) (s : State) : Res := s.mdrain (.mdrainSt a u b d) false false u 10 a b d
/-- MDRAIN_ADD (R345). -/
def execMdrainAdd (a : Reg) (u : Bool) (b d : Reg) (s : State) : Res := s.mdrain (.mdrainAdd a u b d) false true u 10 a b d
/-- MDRAINX_ST (R345). -/
def execMdrainxSt (a : Reg) (e : BitVec 4) (b d : Reg) (s : State) : Res :=
  s.mdrain (.mdrainxSt a e b d) true false false e.toNat a b d
/-- MDRAINX_ADD (R345). -/
def execMdrainxAdd (a : Reg) (e : BitVec 4) (b d : Reg) (s : State) : Res :=
  s.mdrain (.mdrainxAdd a e b d) true true false e.toNat a b d

/-! ### Exact rows (R209) -/

/-- The terms of one sum, scanned for its special cases: signs of infinities seen, and where both had occurred. -/
structure RowScan where
  pos : Bool := false
  neg : Bool := false
  both : Option Nat := none

/-- An infinite term at index `k`. -/
def RowScan.see (r : RowScan) (v : FVal) (k : Nat) : RowScan :=
  match v with
  | .inf n =>
    let p := r.pos || !n
    let m := r.neg || n
    ⟨p, m, if r.both.isSome then r.both else if p && m then some k else none⟩
  | _ => r

/-- An exact sum of finite terms, and whether every term is −0. -/
def sumTerms (l : List FVal) : Exact × Bool :=
  l.foldl (fun acc v => match v with
    | .fin n x => (acc.1.add (signedOf n x), acc.2 && n && decide (x.num = 0))
    | _ => (acc.1, false)) (⟨0, 1, 0⟩, true)

/-- exact_row (R209): an f32 code and its flags. R209 does not say which sign a zero product of integer elements has: that of the signs
of its factors, so that 0 times a negative integer is a −0 term (DESIGN CHOICE, log 20). -/
def exactRow (q : Nat) (acc : Option Nat) (as bs : List FVal) : Nat × Flags :=
  let ps := (as.zip bs).map (fun p => (p.1.isNan || p.2.isNan, mulV p.1 p.2))
  let t := acc.map (decodeF fmtF32)
  match acc with
  | some c => if isNan32 c then (c, 0) else go ps t
  | none => go ps t
where
  go (ps : List (Bool × FVal × Flags)) (t : Option FVal) : Nat × Flags :=
    match ps.zipIdx.find? (fun p => p.1.2.1.isNan) with
    | some p => (nanPayload q p.2, flagIf (!p.1.1) fNV)
    | none =>
      let vs := ps.map (·.2.1)
      let start : RowScan := match t with
        | some v => ({} : RowScan).see v 0
        | none => {}
      let r := vs.zipIdx.foldl (fun r p => r.see p.1 p.2) start
      match r.both with
      | some j => (nanPayload q j, fNV)
      | none =>
        if r.pos then (fmtF32.infCode, 0)
        else if r.neg then (fmtF32.signed true fmtF32.infCode, 0)
        else
          let u := sumTerms (t.toList ++ vs)
          roundVal fmtF32 .rne false (finOf u.2 u.1)

/-! ### Operands at the head of the queue -/

/-- Bytes of undefined contents (log 6). -/
def State.freeBytes (s : State) (n : Nat) : List Byte := (List.range n).map (Config.freeByte s.fresh)

/-- What an operand gives: its bytes with whether they carry an error, or a wait. -/
inductive MGet where
  | ok (bytes : List Byte) (bad : Bool) (s : State)
  | wait (s : State)

/-- `n` bytes of an operand; `off` is the bit at which a tile is read. A tile freed by another hart gives undefined bytes, as
does an erroneous line (R56, R350). -/
def State.operandBytes (s : State) (q : Nat) (c : MCmd) (src : MSrc) (n : Nat) (off : TileEntry → Nat) : MGet :=
  match src with
  | .vec r => .ok ((List.range n).map (fun k => BitVec.ofNat 8 ((s.taskHart c.hart c.task).elem r 8 k))) false s
  | .feed k =>
    let l := (s.quad q).feeds[k % 4]'(Nat.mod_lt _ (by decide))
    if l.length < n then .wait s
    else .ok (l.take n) false (s.updQuad q (fun a => { a with
      feeds := a.feeds.set (k % 4) (l.drop n) (Nat.mod_lt _ (by decide)) }))
  | .tile hw =>
    match s.tileOf (s.partOfQuad q) hw with
    | none => .ok (s.freeBytes n) false { s with fresh := s.fresh + 1 }
    | some t =>
      let bit := off t.e
      let u := s.useBanks t (bit / 8) (bitSpan bit n)
      if !s.banksOn t (bit / 8) (bitSpan bit n) then .wait u
      else
        let bad (k : Nat) : Bool := s.poison.contains (t.line (bit / 8 + k))
        let some_ := (List.range n).any bad
        let l := u.seen.tileBytes c.kept t bit n
        .ok (l.zipIdx.map (fun b => if some_ && bad b.2 then Config.freeByte s.fresh b.2 else b.1)) some_
          (if some_ then { u with fresh := u.fresh + 1 } else u.looked)

/-- Codes of `n` elements of width `w` in some bytes. -/
def codesOf (bytes : List Byte) (w n : Nat) : List Nat :=
  let v := leNat bytes
  (List.range n).map (fun k => v / 2 ^ (w * k) % 2 ^ w)

/-- The value of an element of a matrix operand (R193, R197). -/
def matrixVal (fmt : List Word) (bfz : Bool) (et code : Nat) : FVal :=
  if etInt et then intV (intOf (etSigned et) (etWidth fmt et) code) else decodeBfz bfz (etFmt fmt et) code

/-- The 256 codes of an accumulator row. -/
def Quad.row (a : Quad) (lo : Nat) : List Nat :=
  let v := (Tab.get a.acc lo 0).toNat
  (List.range 256).map (fun n => v / 2 ^ (32 * n) % 2 ^ 32)

/-- An accumulator row written; it is in use until an MZERO covers it (R350). -/
def Quad.setRow (a : Quad) (lo : Nat) (codes : List Nat) : Quad :=
  { a with
    acc := Tab.set a.acc lo (BitVec.ofNat 8192 (codes.foldr (fun c n => c % 2 ^ 32 + 2 ^ 32 * n) 0))
    inUse := if a.inUse.contains lo then a.inUse else lo :: a.inUse }

/-- Codes whose columns carry an error are undefined (R350, log 6). -/
def State.spoil (s : State) (bad : List Nat) (codes : List Nat) : List Nat :=
  codes.zipIdx.map (fun c => if bad.contains c.2 then
      leNat ((List.range 4).map (fun k => Config.freeByte s.fresh (4 * c.2 + k))) else c.1)

/-- An uncorrectable error in matrix state (unit 6), or in a tile that the engine reads (unit 5): logged, and owed to the issuing hart
(R79, R81, R350). -/
def State.matrixError (s : State) (q h unit : Nat) (task : BitVec 32) : State :=
  ({ s with fresh := s.fresh + 1 }.logError q ⟨unit, 5, 0, task.toNat, h⟩).updTask h task
    (fun a => { a with deferred := a.deferred ++ [Deferred.matrix] })

/-- The discard of a feed (R348): a run of which some is appended has landed before it, whole. -/
def Quad.dropFeed (a : Quad) (k : Nat) : Quad :=
  let into (x : Xfer) : Bool := decide (Shape.dk x.shape = 2) && decide (x.dst.toNat % 4 = k)
  let whole (x : Xfer) (p : Piece) : Bool := (x.emitted ++ x.untagged).any (fun r => decide (r.n = p.n) && decide (r.i = 0))
  Quad.shareTags { a with
    feeds := a.feeds.set (k % 4) [] (Nat.mod_lt _ (by decide))
    running := a.running.map (fun x => if into x then
      { x with emitted := x.emitted.filter (whole x), untagged := x.untagged.filter (whole x) } else x) }

/-! ### What the operations do (R340 to R348) -/

/-- The flags of a matrix instruction reach its hart's vflags (R206). -/
def State.mflags (s : State) (c : MCmd) (f : Flags) : State := s.updTask c.hart c.task (fun a => a.orVFlags f)

/-- The result row of an MROW. -/
def Quad.rowProduct (a : Quad) (q : Nat) (c : MCmd) (add : Bool) (m et lo : Nat) (rec_ : Nat × Word) (bytes : List Byte) :
    List (Nat × Flags) :=
  let w := etWidth c.fmt et
  let k := matrixK w
  let as := (codesOf bytes w k).map (matrixVal c.fmt c.bfz et)
  let bits := (a.m[m % 4]'(Nat.mod_lt _ (by decide))).bits.toNat
  let rf := List.replicate 4 rec_.2
  let row := a.row lo
  (List.range 256).map (fun n =>
    let bs := (List.range k).map (fun j => matrixVal rf c.bfz rec_.1 (bits / 2 ^ ((j * 256 + n) * w) % 2 ^ w))
    exactRow q (if add then some (row.getD n 0) else none) as bs)

/-- The result row of an MSCA. -/
def Quad.scaleRow (a : Quad) (q lo hi : Nat) (ea : Int) (eb : Nat → Nat) : List (Nat × Flags) :=
  let d := a.row lo
  let r := a.row hi
  (List.range 256).map (fun n =>
    if eb n = 255 then (nanPayload q 0x1FFF, fNV) else scaleAdd q (d.getD n 0) (r.getD n 0) (ea + eb n - 127))

/-- The codes that MRD writes. -/
def readRow (et : Nat) (bfz : Bool) (row : List Nat) : List (Nat × Flags) :=
  row.map (fun c =>
    if et = 10 then (c, 0)
    else if isNan32 c then ((etFmt [] et).nanCode, 0)
    else roundVal (etFmt [] et) .rne bfz (decodeF fmtF32 c))

/-- The flags of a list of results. -/
def allFlags (l : List (Nat × Flags)) : Flags := l.foldl (fun f r => f ||| r.2) 0

/-- A stationary tile with some bytes replaced. -/
def Quad.loadB (a : Quad) (m off : Nat) (bytes : List Byte) : Quad :=
  let t := a.m[m % 4]'(Nat.mod_lt _ (by decide))
  let u : Stationary := { t with
    bits := BitVec.ofNat 65536 (putField t.bits.toNat (8 * off) (8 * bytes.length) (leNat bytes)) }
  { a with m := a.m.set (m % 4) u (Nat.mod_lt _ (by decide)) }

/-- The effect of an operation whose turn has come: the state after it, or after a wait. `bad` are the columns that carry an
error. -/
def State.matrixEffect (s : State) (q : Nat) (c : MCmd) (bad : List Nat) : Bool × State :=
  let a := s.quad q
  let err (b : Bool) (t : State) : State :=
    if !bad.isEmpty then t.matrixError q c.hart 6 c.task else if b then t.matrixError q c.hart 5 c.task else t
  match c.op with
  | .row add _ _ m et lo hi src rec_ =>
    match s.operandBytes q c src 32 (fun e => hi * e.cols * etWidth c.fmt et) with
    | .wait t => (false, t)
    | .ok bytes ue t =>
      let r := (t.quad q).rowProduct q c add m et lo rec_ bytes
      let codes := s.spoil bad (r.map (·.1))
      (true, err ue ((t.updQuad q (fun a => a.setRow lo codes)).mflags c (allFlags r)))
  | .sca _ _ lo hi ea eb =>
    let r := a.scaleRow q lo hi ea (fun n => (s.taskHart c.hart c.task).elem eb 8 n)
    (true, err false ((s.updQuad q (fun a => a.setRow lo (s.spoil bad (r.map (·.1))))).mflags c (allFlags r)))
  | .cfg xd v ldm =>
    let b := (List.range 4).foldl (fun b k => if v.getLsbD k then b.dropFeed k else b) a
    let fill := b.feeds.toList.zipIdx.foldl (fun n f => n + f.1.length / 32 % 1024 * 2 ^ (10 * f.2)) 0
    (true, (s.updQuad q (fun _ => b)).updTask c.hart c.task (fun h =>
      (h.land ⟨.x, regNo xd, BitVec.ofNat 64 (ldm * 2 ^ 40 + fill), none, none⟩).unparkOn .x xd 1))
  | .ldb _ _ m part _ src =>
    let n := match src with
      | .vec _ => 1024
      | _ => 8192
    let off := match src with
      | .vec _ => 1024 * part
      | _ => 0
    match s.operandBytes q c src n (fun _ => 0) with
    | .wait t => (false, t)
    | .ok bytes ue t => (true, err ue (t.updQuad q (fun a => a.loadB m off bytes)))
  | .zero lo n =>
    (true, s.updQuad q (fun a => { a with
      acc := a.acc.filter (fun r => decide (r.1 < lo) || decide (lo + n ≤ r.1))
      inUse := a.inUse.filter (fun r => decide (r < lo) || decide (lo + n ≤ r)) }))
  | .rd _ et d lo =>
    let r := readRow et c.bfz (a.row lo)
    let codes := s.spoil bad (r.map (·.1))
    (true, err false (s.updTask c.hart c.task (fun h =>
      (h.setElems d (if et = 10 then 32 else 16) ((List.range 256).zip codes)).orVFlags (allFlags r))))
  | .drain ext add push et lo n trow hw wake =>
    let rows := (List.range n).map (fun i => (i, s.spoil (bad.filterMap (fun b => if b / 256 = i then some (b % 256) else none))
      (a.row (lo + i))))
    let d : Drain := ⟨c.hart, c.task, s.partOfQuad q, ext, add, push, et, c.fmt, c.bfz, rows, trow, hw, wake, s.nextXfer, c.kept, c.cls⟩
    (true, err false ({ s with nextXfer := s.nextXfer + 1 }.updQuad q (fun a => { a with drains := a.drains ++ [d] })))

/-- The FIFOs an operation pops, in order. -/
def MOp.pops : MOp → List Fifo
  | .row _ _ pop _ _ _ _ _ _ => if pop then [.vm] else []
  | .sca _ pop _ _ _ _ => if pop then [.vm] else []
  | .ldb pc pv _ _ _ _ => (if pc then [.cm] else []) ++ (if pv then [.vm] else [])
  | _ => []

/-- An operation pushes a token for the vector side at its end. -/
def MOp.pushes : MOp → Bool
  | .row _ push _ _ _ _ _ _ _ => push
  | .sca push _ _ _ _ _ => push
  | .rd push _ _ _ => push
  | _ => false

/-- Every pop of the head is made, or none: it is held at the first FIFO that is empty. -/
def Quad.popAll (a : Quad) (now : Nat) : List Fifo → Bool × Quad
  | [] => (true, a)
  | f :: t =>
    let r := a.fifoTry (.mpop f) now
    if !r.1 then (false, r.2)
    else
      let u := r.2.popAll now t
      if u.1 then u else (false, { u.2 with fifo := a.fifo })

/-- The head of the matrix queue has retired. -/
def State.popMq (s : State) (q : Nat) : State := s.updQuad q (fun a => { a with mq := a.mq.tail })

/-- The end of the head: its push, held while the FIFO is full (R138, R139). -/
def State.retireMq (s : State) (q : Nat) (c : MCmd) : State :=
  if c.op.pushes then
    let r := (s.quad q).fifoTry (.mpush .mv) (s.clockOf q)
    let t := s.updQuad q (fun _ => r.2)
    if r.1 then t.popMq q else t
  else s.popMq q

/-- The head waits for the hart's vector work on the registers it names (R179), and its writes for copies that read them
(R154). -/
def State.mqWaits (s : State) (q : Nat) (c : MCmd) : Bool :=
  let rd := c.op.readsV
  let wr := c.op.writesV
  ((s.taskHart c.hart c.task).vq.any (fun v => decide (v.seq < c.seq) &&
    (overlap v.writes (rd ++ wr) || overlap v.reads wr))) || overlap ((s.quad q).xferReads c.hart c.seq) wr

/-- A pop of a matrix instruction ends its hart's park (R139). -/
def Hart.mpopDone (a : Hart) : Hart := if a.park = some .pop then a.advance 4 else a

/-- The head's pops, then its effect. -/
def State.runMq (s : State) (q : Nat) (c : MCmd) (bad : List Nat) : State :=
  let r := if c.popped then (true, s.quad q) else (s.quad q).popAll (s.clockOf q) c.op.pops
  let t := s.updQuad q (fun _ => r.2)
  if !r.1 then t
  else
    let u := if c.popped then t
      else (t.updQuad q (fun a => { a with mq := { c with popped := true } :: a.mq.tail })).updHart c.hart Hart.mpopDone
    if u.mqWaits q c then u
    else
      let e := u.matrixEffect q { c with popped := true } bad
      if e.1 then e.2.retireMq q c else e.2

/-- MATRIX_QUEUE_EXECUTE (R336): the head of quad `q`'s queue; `stuck` names the result columns that carry an uncorrectable
error (for a drain, row × 256 + column). -/
def execMatrixQueueExecute (s : State) : Res :=
  let q := s.ev.q
  let a := s.quad q
  match a.mq with
  | [] => .next s
  | c :: _ =>
    let done := a.held.any (fun x => match x.op with
      | .mpush _ => true
      | _ => false)
    .next (if s.quadHalted q && !c.popped then s else if done then s.retireMq q c else s.runMq q c s.ev.stuck)

/-! ### Drains (R345, R346) -/

/-- merge_add (R345) at quad `q`. R195 and R345 do not say whether a drain that keeps the tile's NaN of a format narrower than its
container also clears the container's bits above it: they stay as they are (DESIGN CHOICE, log 20). -/
def mergeAdd (q : Nat) (f : Fmt) (bfz : Bool) (d s : Nat) : Nat × Flags :=
  if f = fmtF32 then
    if isNan32 d && isNan32 s then (nanMerge d s, 0)
    else if isNan32 d then (d, 0)
    else if isNan32 s then (s, 0)
    else
      let r := addV .rne (decodeF fmtF32 d) (decodeF fmtF32 s)
      if r.1.isNan then (nanPayload q 0x1FFF, fNV) else finish fmtF32 .rne false r
  else
    let x := decodeBfz bfz f d
    if x.isNan then (d, 0)
    else if isNan32 s then roundVal f .rne bfz (.nan false)
    else
      let r := addV .rne x (decodeF fmtF32 s)
      finish f .rne bfz r

/-- An element of a drain at its tile: `old` is the tile's. An f32 value is carried as it is (R210). -/
def Drain.elem (d : Drain) (q : Nat) (old v : Nat) : Nat × Flags :=
  let f := etFmt d.fmt d.et
  if d.add then mergeAdd q f d.bfz old v
  else if d.et = 10 then (v, 0)
  else if isNan32 v then roundVal f .rne d.bfz (.nan false)
  else roundVal f .rne d.bfz (decodeF fmtF32 v)

/-- Codes of width `w` as bytes. -/
def packCodes (w : Nat) (codes : List Nat) : List Byte :=
  leBytes ((codes.length * w + 7) / 8) (codes.foldr (fun c n => c % 2 ^ w + 2 ^ w * n) 0)

/-- One row of a drain performed, or a wait for its banks. A tile that has gone takes nothing (R56). An add reads the tile as it was
before a later TST of the hart (R117); an uncorrectable error that it reads there is reported as one in the engine (R79, R350). No rule
gives a drain a completion record, and none says how it reports a row whose tile check fails by then (R39): it tells nobody, and still
sends its wake and token (DESIGN CHOICE, log 21). R206 does not say when a drain ORs its flags: each row does with its bytes (DESIGN
CHOICE, log 51). -/
def State.drainRow (s : State) (d : Drain) (r : Nat × List Nat) : Option State :=
  match s.tileOf d.part d.hw with
  | none => some s
  | some t =>
    let w := etWidth d.fmt d.et
    let row := d.trow + r.1
    let bit := t.bit row 0 w
    if t.e.rows ≤ row ∨ t.e.cols < 256 ∨ etWidth d.fmt t.e.ty ≠ w then some s
    else if !s.banksOn t (bit / 8) (bitSpan bit (32 * w)) then none
    else
      let u := s.useBanks t (bit / 8) (bitSpan bit (32 * w))
      let bad (k : Nat) : Bool := d.add && s.poison.contains (t.line (bit / 8 + k))
      let old := (if d.add then u.seen.tileBytes d.kept t bit (32 * w) else []).zipIdx.map (fun b =>
        if bad b.2 then Config.freeByte s.fresh b.2 else b.1)
      let es := ((codesOf old w 256).zip r.2).map (fun v => d.elem t.q v.1 v.2)
      let v := ((if d.add then u.looked else u).putTileRun t bit (packCodes w (es.map (·.1)))).updTask d.hart d.task (fun a =>
        a.orVFlags (allFlags es))
      some (if (List.range (32 * w)).any bad then v.matrixError (quadOf d.hart) d.hart 5 d.task else v)

/-- Rows performed in order until one waits: the rest. -/
def State.drainRows (s : State) (d : Drain) : List (Nat × List Nat) → State × List (Nat × List Nat)
  | [] => (s, [])
  | r :: t => match s.drainRow d r with
    | none => (s, r :: t)
    | some u => u.drainRows d t

/-- A drain of a quad changed. -/
def State.updDrain (s : State) (q id : Nat) (f : Drain → Drain) : State :=
  s.updQuad q (fun a => { a with drains := a.drains.map (fun d => if d.id == id then f d else d) })

/-- The end of a drain whose bytes are performed: the wake (R346), then the token of its push, then it retires. -/
def State.endDrain (s : State) (q : Nat) (d : Drain) : State :=
  let t := match d.wake with
    | none => s
    | some (x, w) => { s with rwrites := s.rwrites ++ [{
        wake := true, part := d.part, src := d.hart, target := fieldOf x.toNat 0 14, file := .x, reg := fieldOf x.toNat 16 5
        val := w }] }
  let gone (u : State) : State := u.updQuad q (fun a => { a with drains := a.drains.filter (fun e => e.id != d.id) })
  if d.push then
    let r := (t.quad q).fifoTry (.dpush .mc d.id) (s.clockOf q)
    let u := t.updQuad q (fun _ => r.2)
    if r.1 then gone u else u.updDrain q d.id (fun e => { e with wake := none, rows := [] })
  else gone t

/-- The banks of a drain's first waiting row begin to wake (R44). -/
def State.drainWake (s : State) (d : Drain) (r : List (Nat × List Nat)) : State :=
  match r, s.tileOf d.part d.hw with
  | (i, _) :: _, some t =>
    let w := etWidth d.fmt d.et
    s.useBanks t (t.bit (d.trow + i) 0 w / 8) (bitSpan (t.bit (d.trow + i) 0 w) (32 * w))
  | _, _ => s

/-- DRAIN_COMPLETE (R345): the `k`-th drain of quad `q`: with `b` row by row to its end, else the row at place `w` of those
left. -/
def execDrainComplete (s : State) : Res :=
  let q := s.ev.q
  match (s.quad q).drains[s.ev.k]? with
  | none => .next s
  | some d =>
    if d.rows.isEmpty then .next (s.endDrain q d)
    else
      let todo := if s.ev.b then d.rows else (d.rows[s.ev.w]?).toList
      let r := s.drainRows d todo
      let rest := d.rows.filter (fun x => !todo.any (fun y => y.1 == x.1) || r.2.any (fun y => y.1 == x.1))
      let t := (r.1.updDrain q d.id (fun e => { e with rows := rest })).drainWake d r.2
      .next (if rest.isEmpty then t.endDrain q { d with rows := [] } else t)

/-! ### The limit of a hold (R139, R433) -/

/-- A queued MCFG reports the type record `k` of a stationary tile (R348). -/
def MCmd.ldmAs (c : MCmd) (m : Nat) (k : Bool) : MCmd :=
  match c.op with
  | .cfg xd v ldm => { c with op := .cfg xd v (putField ldm (m % 4) 1 (bitNat k)) }
  | _ => c

/-- A command leaves the matrix queue without effect (R139, R175): an MLDB has set no type record, so that its stationary tile, or a
later MLDB of it that is queued, follows the record before, and an MCFG queued between them reports that record (R348). -/
def Quad.withdrawM (a : Quad) (c : MCmd) : Quad :=
  let isC (x : MCmd) : Bool := x.hart == c.hart && x.seq == c.seq
  let front := a.mq.takeWhile (fun x => !isC x)
  let rest := (a.mq.dropWhile (fun x => !isC x)).tail
  match c.op with
  | .ldb _ _ m _ _ _ =>
    let same (x : MCmd) : Bool := match x.op with
      | .ldb _ _ n _ _ _ => n % 4 == m % 4
      | _ => false
    match rest.findIdx? same with
    | some k => { a with mq := front ++ (rest.take k).map (fun x => x.ldmAs m c.before.isSome) ++
        (rest.drop k).modify 0 (fun x => { x with before := c.before }) }
    | none =>
      let t : Stationary := { a.m[m % 4]'(Nat.mod_lt _ (by decide)) with kind := c.before }
      { a with mq := front ++ rest.map (fun x => x.ldmAs m c.before.isSome), m := a.m.set (m % 4) t (Nat.mod_lt _ (by decide)) }
  | _ => { a with mq := front ++ rest }

/-- A held operation leaves its FIFO. -/
def Quad.unhold (a : Quad) (op : HeldOp) : Quad := { a with held := a.held.filter (fun x => decide (x.op ≠ op)) }

/-- A push abandoned: logged, and owed to the hart while its task is bound (R433). -/
def State.pushLost (s : State) (q h : Nat) (task : BitVec 32) : State :=
  let t := s.logError q ⟨6, 31, 0, task.toNat, h⟩
  if (t.hart h).runs task then t.updHart h (fun a => { a with deferred := a.deferred ++ [Deferred.push] }) else t

/-- The hart that issued a held operation. -/
def Quad.holder (a : Quad) (op : HeldOp) : Option Nat :=
  match op with
  | .vpush _ h => some h
  | .vpop _ h => some h
  | .mpop _ => a.mq.head?.map (·.hart)
  | .mpush _ => a.mq.head?.map (·.hart)
  | .dpush _ id => (a.drains.find? (fun d => d.id == id)).map (·.hart)
  | .cpop _ id => (a.cq.find? (fun x => x.id == id)).map (·.hart)
  | .cpush _ id => (a.running.find? (fun x => x.id == id)).map (·.hart)

/-- What a held operation of quad `q` comes to at the limit. -/
def State.expire (s : State) (q : Nat) (op : HeldOp) : State :=
  let t := s.updQuad q (fun a => a.unhold op)
  let a := t.quad q
  match op with
  | .vpush _ h => (t.popVq h).pushLost q h (BitVec.ofNat 32 (t.hart h).taskId)
  | .vpop _ h => (t.popVq h).updHart h (fun x => if x.park = some .pop then x.trap 31 0 x.veix.toNat else x)
  | .mpop _ => match a.mq with
    | [] => t
    | c :: _ => (t.updQuad q (fun b => b.withdrawM c)).updHart c.hart (fun x => if x.park = some .pop then x.trap 31 0 0 else x)
  | .mpush _ => match a.mq with
    | [] => t
    | c :: _ => (t.popMq q).pushLost q c.hart c.task
  | .dpush _ id => match a.drains.find? (fun d => d.id == id) with
    | none => t
    | some d => (t.updQuad q (fun a => { a with drains := a.drains.filter (fun e => e.id != id) })).pushLost q d.hart d.task
  | .cpop _ id => t.updQuad q (fun a => a.abandonPop id)
  | .cpush _ id => match a.running.find? (fun x => x.id == id) with
    | none => t
    | some x => match x.stage with
      | .recorded st bar =>
        ((t.logEngine q x.task.toNat 2 31 0).stageXfer q x (.pushed st bar true)).countXfer q x st bar true
      | _ => t

/-- FIFO_HOLD_EXPIRY (R139, R433): the `k`-th held operation of quad `q` is past its partition's queue limit. -/
def execFifoHoldExpiry (s : State) : Res :=
  let q := s.ev.q
  let a := s.quad q
  match a.held[s.ev.k]? with
  | none => .next s
  | some x => match a.holder x.op with
    | none => .next s
    | some h => if s.past q (s.queueLimit h) x.since && !s.quadHalted q then .next (s.expire q x.op) else .next s

end Sys2Proof.Machine
end

