-- ==== Sys2Proof/Machine/Texture.lean ====
section
/-!
DEFINITION. Texels (R360): the block formats BC1 to BC7. The Khronos Data Format Specification 1.3, which R360 names, is not
in the source: its tables and bit layouts stand here from general knowledge (PRESUMED, log 30).
-/
namespace Sys2Proof.Machine

/-- A fraction as a value. -/
def ratio (n d : Nat) : FVal := .fin false ⟨n, d, 0⟩

/-- Texel channels R, G, B, A. -/
abbrev Rgba := List FVal

/-! ### BC1 to BC5 -/

/-- The three channels of a 5:6:5 colour, with their full scale. -/
def rgb565 (c : Nat) : List (Nat × Nat) := [(fieldOf c 11 5, 31), (fieldOf c 5 6, 63), (fieldOf c 0 5, 31)]

/-- A colour between two end colours with integer weights. -/
def mix565 (c0 c1 w0 w1 : Nat) : Rgba :=
  ((rgb565 c0).zip (rgb565 c1)).map (fun p => ratio (p.1.1 * w0 + p.2.1 * w1) (p.1.2 * (w0 + w1)))

/-- Colour and alpha of texel `p` of a BC1 colour block; `opaque_` forms have four colours always. -/
def bc1Texel (four : Bool) (b p : Nat) : Rgba :=
  let c0 := fieldOf b 0 16
  let c1 := fieldOf b 16 16
  let one := ratio 1 1
  match fieldOf b (32 + 2 * p) 2 with
  | 0 => mix565 c0 c1 1 0 ++ [one]
  | 1 => mix565 c0 c1 0 1 ++ [one]
  | 2 => if four || decide (c1 < c0) then mix565 c0 c1 2 1 ++ [one] else mix565 c0 c1 1 1 ++ [one]
  | _ => if four || decide (c1 < c0) then mix565 c0 c1 1 2 ++ [one] else [ratio 0 1, ratio 0 1, ratio 0 1, ratio 0 1]

/-- Texel `p` of an 8-bit interpolated block: BC3's alpha, BC4, BC5. -/
def bc4Texel (b p : Nat) : FVal :=
  let a0 := fieldOf b 0 8
  let a1 := fieldOf b 8 8
  let k := fieldOf b (16 + 3 * p) 3
  if k = 0 then ratio a0 255
  else if k = 1 then ratio a1 255
  else if a1 < a0 then ratio ((8 - k) * a0 + (k - 1) * a1) (7 * 255)
  else if k = 6 then ratio 0 1
  else if k = 7 then ratio 1 1
  else ratio ((6 - k) * a0 + (k - 1) * a1) (5 * 255)

/-! ### Partitions, anchors and weights of BC6H and BC7 -/

/-- Two subsets: bit `i` is texel `i`'s subset. -/
def partition2 : List Nat :=
  [0xCCCC, 0x8888, 0xEEEE, 0xECC8, 0xC880, 0xFEEC, 0xFEC8, 0xEC80, 0xC800, 0xFFEC, 0xFE80, 0xE800, 0xFFE8, 0xFF00, 0xFFF0,
    0xF000, 0xF710, 0x008E, 0x7100, 0x08CE, 0x008C, 0x7310, 0x3100, 0x8CCE, 0x088C, 0x3110, 0x6666, 0x366C, 0x17E8, 0x0FF0,
    0x718E, 0x399C] ++
  [0xAAAA, 0xF0F0, 0x5A5A, 0x33CC, 0x3C3C, 0x55AA, 0x9696, 0xA55A, 0x73CE, 0x13C8, 0x324C, 0x3BDC, 0x6996, 0xC33C, 0x9966,
    0x0660, 0x0272, 0x04E4, 0x4E40, 0x2720, 0xC936, 0x936C, 0x39C6, 0x639C, 0x9336, 0x9CC6, 0x817E, 0xE718, 0xCCF0, 0x0FCC,
    0x7744, 0xEE22]

/-- Three subsets: two bits for each texel. -/
def partition3 : List Nat :=
  [0xAA685050, 0x6A5A5040, 0x5A5A4200, 0x5450A0A8, 0xA5A50000, 0xA0A05050, 0x5555A0A0, 0x5A5A5050, 0xAA550000, 0xAA555500,
    0xAAAA5500, 0x90909090, 0x94949494, 0xA4A4A4A4, 0xA9A59450, 0x2A0A4250, 0xA5945040, 0x0A425054, 0xA5A5A500, 0x55A0A0A0,
    0xA8A85454, 0x6A6A4040, 0xA4A45000, 0x1A1A0500, 0x0050A4A4, 0xAAA59090, 0x14696914, 0x69691400, 0xA08585A0, 0xAA821414,
    0x50A4A450, 0x6A5A0200] ++
  [0xA9A58000, 0x5090A0A8, 0xA8A09050, 0x24242424, 0x00AA5500, 0x24924924, 0x24499224, 0x50A50A50, 0x500AA550, 0xAAAA4444,
    0x66660000, 0xA5A0A5A0, 0x50A050A0, 0x69286928, 0x44AAAA44, 0x66666600, 0xAA444444, 0x54A854A8, 0x95809580, 0x96969600,
    0xA85454A8, 0x80959580, 0xAA141414, 0x96960000, 0xAAAA1414, 0xA05050A0, 0xA0A5A5A0, 0x96000000, 0x40804080, 0xA9A8A9A8,
    0xAAAAAA44, 0x2A4A5254]

/-- Anchor of the second of two subsets. -/
def anchor2 : List Nat :=
  [15, 15, 15, 15, 15, 15, 15, 15, 15, 15, 15, 15, 15, 15, 15, 15, 15, 2, 8, 2, 2, 8, 8, 15, 2, 8, 2, 2, 8, 8, 2, 2] ++
  [15, 15, 6, 8, 2, 8, 15, 15, 2, 8, 2, 2, 2, 15, 15, 6, 6, 2, 6, 8, 15, 15, 2, 2, 15, 15, 15, 15, 15, 2, 2, 15]
/-- Anchor of the second of three subsets. -/
def anchor3a : List Nat :=
  [3, 3, 15, 15, 8, 3, 15, 15, 8, 8, 6, 6, 6, 5, 3, 3, 3, 3, 8, 15, 3, 3, 6, 10, 5, 8, 8, 6, 8, 5, 15, 15] ++
  [8, 15, 3, 5, 6, 10, 8, 15, 15, 3, 15, 5, 15, 15, 15, 15, 3, 15, 5, 5, 5, 8, 5, 10, 5, 10, 8, 13, 15, 12, 3, 3]
/-- Anchor of the third of three subsets. -/
def anchor3b : List Nat :=
  [15, 8, 8, 3, 15, 15, 3, 8, 15, 15, 15, 15, 15, 15, 15, 8, 15, 8, 15, 3, 15, 8, 15, 8, 3, 15, 6, 10, 15, 15, 10, 8] ++
  [15, 3, 15, 10, 10, 8, 9, 10, 6, 15, 8, 15, 3, 6, 6, 8, 15, 3, 15, 15, 15, 15, 15, 15, 15, 15, 15, 15, 3, 15, 15, 8]

/-- The subset of a texel. -/
def subsetOf (ns part p : Nat) : Nat :=
  if ns = 2 then fieldOf (partition2.getD part 0) p 1
  else if ns = 3 then fieldOf (partition3.getD part 0) (2 * p) 2
  else 0

/-- The texels whose index drops its top bit. -/
def anchorsOf (ns part : Nat) : List Nat :=
  if ns = 2 then [0, anchor2.getD part 0]
  else if ns = 3 then [0, anchor3a.getD part 0, anchor3b.getD part 0]
  else [0]

/-- Weights of an index of 2, 3 or 4 bits, in 64ths. -/
def bptcWeight (bits i : Nat) : Nat :=
  if bits = 2 then [0, 21, 43, 64].getD i 0
  else if bits = 3 then [0, 9, 18, 27, 37, 46, 55, 64].getD i 0
  else [0, 4, 9, 13, 17, 21, 26, 30, 34, 38, 43, 47, 51, 55, 60, 64].getD i 0

/-- The index of texel `p` in a run of indices that starts at a bit. -/
def indexAt (b base bits : Nat) (anchors : List Nat) (p : Nat) : Nat :=
  fieldOf b (base + p * bits - (anchors.filter (fun a => decide (a < p))).length) (if anchors.contains p then bits - 1 else bits)

/-! ### BC7 -/

/-- A mode of BC7: subsets; bits of partition, rotation, index selection, colour and alpha; a P bit for each end point or
each subset; bits of the two indices. -/
structure Bc7Mode where
  ns : Nat
  pb : Nat
  rb : Nat
  isb : Nat
  cb : Nat
  ab : Nat
  epb : Nat
  spb : Nat
  ib : Nat
  ib2 : Nat

/-- The modes of BC7. -/
def bc7Modes : List Bc7Mode :=
  [⟨3, 4, 0, 0, 4, 0, 1, 0, 3, 0⟩, ⟨2, 6, 0, 0, 6, 0, 0, 1, 3, 0⟩, ⟨3, 6, 0, 0, 5, 0, 0, 0, 2, 0⟩, ⟨2, 6, 0, 0, 7, 0, 1, 0, 2, 0⟩,
    ⟨1, 0, 2, 1, 5, 6, 0, 0, 2, 3⟩, ⟨1, 0, 2, 0, 7, 8, 0, 0, 2, 2⟩, ⟨1, 0, 0, 0, 7, 7, 1, 0, 4, 0⟩, ⟨2, 6, 0, 0, 5, 5, 1, 0, 2, 0⟩]

/-- A value of `w` bits, 5 to 8, widened to 8. -/
def widen8 (v w : Nat) : Nat := v * 2 ^ (8 - w) + v / 2 ^ (2 * w - 8)

/-- Two of four channels exchanged: alpha with the one a rotation names. -/
def rotateRgba (l : List Nat) (rot : Nat) : List Nat :=
  let a := l.getD 3 0
  match rot with
  | 1 => [a, l.getD 1 0, l.getD 2 0, l.getD 0 0]
  | 2 => [l.getD 0 0, a, l.getD 2 0, l.getD 1 0]
  | 3 => [l.getD 0 0, l.getD 1 0, a, l.getD 2 0]
  | _ => l

/-- Texel `p` of a BC7 block; the reserved mode gives 0 in every channel. -/
def bc7Texel (b p : Nat) : Rgba :=
  let mode := trailZeros 8 (b % 256)
  match bc7Modes[mode]? with
  | none => [ratio 0 1, ratio 0 1, ratio 0 1, ratio 0 1]
  | some m =>
    let part := fieldOf b (mode + 1) m.pb
    let rot := fieldOf b (mode + 1 + m.pb) m.rb
    let sel := fieldOf b (mode + 1 + m.pb + m.rb) m.isb
    let base := mode + 1 + m.pb + m.rb + m.isb
    let pbase := base + 6 * m.ns * m.cb + 2 * m.ns * m.ab
    let ibase := pbase + 2 * m.ns * m.epb + m.ns * m.spb
    let ibase2 := ibase + 16 * m.ib - m.ns
    let sub := subsetOf m.ns part p
    let pbit (e : Nat) : Nat := if m.epb = 1 then fieldOf b (pbase + e) 1 else fieldOf b (pbase + e / 2) 1
    let hasP := m.epb + m.spb
    let full (v w e : Nat) : Nat := if hasP = 1 then widen8 (2 * v + pbit e) (w + 1) else widen8 v w
    let endpoint (c e : Nat) : Nat :=
      if c < 3 then full (fieldOf b (base + (c * 2 * m.ns + e) * m.cb) m.cb) m.cb e
      else if m.ab = 0 then 255
      else full (fieldOf b (base + 6 * m.ns * m.cb + e * m.ab) m.ab) m.ab e
    let i1 := bptcWeight m.ib (indexAt b ibase m.ib (anchorsOf m.ns part) p)
    let i2 := if m.ib2 = 0 then i1 else bptcWeight m.ib2 (indexAt b ibase2 m.ib2 [0] p)
    let lerp (c w : Nat) : Nat := ((64 - w) * endpoint c (2 * sub) + w * endpoint c (2 * sub + 1) + 32) / 64
    let cw := if sel = 1 then i2 else i1
    let aw := if sel = 1 then i1 else i2
    (rotateRgba [lerp 0 cw, lerp 1 cw, lerp 2 cw, lerp 3 aw] rot).map (fun c => ratio c 255)

/-! ### BC6H -/

/-- A mode of BC6H: its end points are deltas; its regions; bits of an end point; bits of the deltas; where the bits lie, each
run as component (r, g, b of w, x, y, z), first bit and length, after the mode's own bits. -/
structure Bc6Mode where
  transformed : Bool
  two : Bool
  epb : Nat
  dr : Nat
  dg : Nat
  db : Nat
  mbits : Nat
  layout : List (Nat × Nat × Nat)

/-- The top bits of the w end point of a component, highest first. -/
def bc6Top (c lo n : Nat) : List (Nat × Nat × Nat) := (List.range n).map (fun k => (c, lo + n - 1 - k, 1))

/-- The modes of BC6H by their mode bits. -/
def bc6Mode : Nat → Option Bc6Mode
  | 0 => some ⟨true, true, 10, 5, 5, 5, 2, [(7, 4, 1), (8, 4, 1), (11, 4, 1), (0, 0, 10), (1, 0, 10), (2, 0, 10), (3, 0, 5), (10, 4, 1),
      (7, 0, 4), (4, 0, 5), (11, 0, 1), (10, 0, 4), (5, 0, 5), (11, 1, 1), (8, 0, 4), (6, 0, 5), (11, 2, 1), (9, 0, 5), (11, 3, 1)]⟩
  | 1 => some ⟨true, true, 7, 6, 6, 6, 2, [(7, 5, 1), (10, 4, 1), (10, 5, 1), (0, 0, 7), (11, 0, 1), (11, 1, 1), (8, 4, 1), (1, 0, 7),
      (8, 5, 1), (11, 2, 1), (7, 4, 1), (2, 0, 7), (11, 3, 1), (11, 5, 1), (11, 4, 1), (3, 0, 6), (7, 0, 4), (4, 0, 6), (10, 0, 4),
      (5, 0, 6), (8, 0, 4), (6, 0, 6), (9, 0, 6)]⟩
  | 2 => some ⟨true, true, 11, 5, 4, 4, 5, [(0, 0, 10), (1, 0, 10), (2, 0, 10), (3, 0, 5), (0, 10, 1), (7, 0, 4), (4, 0, 4), (1, 10, 1),
      (11, 0, 1), (10, 0, 4), (5, 0, 4), (2, 10, 1), (11, 1, 1), (8, 0, 4), (6, 0, 5), (11, 2, 1), (9, 0, 5), (11, 3, 1)]⟩
  | 6 => some ⟨true, true, 11, 4, 5, 4, 5, [(0, 0, 10), (1, 0, 10), (2, 0, 10), (3, 0, 4), (0, 10, 1), (10, 4, 1), (7, 0, 4), (4, 0, 5),
      (1, 10, 1), (10, 0, 4), (5, 0, 4), (2, 10, 1), (11, 1, 1), (8, 0, 4), (6, 0, 4), (11, 0, 1), (11, 2, 1), (9, 0, 4), (7, 4, 1),
      (11, 3, 1)]⟩
  | 10 => some ⟨true, true, 11, 4, 4, 5, 5, [(0, 0, 10), (1, 0, 10), (2, 0, 10), (3, 0, 4), (0, 10, 1), (8, 4, 1), (7, 0, 4), (4, 0, 4),
      (1, 10, 1), (11, 0, 1), (10, 0, 4), (5, 0, 5), (2, 10, 1), (8, 0, 4), (6, 0, 4), (11, 1, 1), (11, 2, 1), (9, 0, 4), (11, 4, 1),
      (11, 3, 1)]⟩
  | 14 => some ⟨true, true, 9, 5, 5, 5, 5, [(0, 0, 9), (8, 4, 1), (1, 0, 9), (7, 4, 1), (2, 0, 9), (11, 4, 1), (3, 0, 5), (10, 4, 1),
      (7, 0, 4), (4, 0, 5), (11, 0, 1), (10, 0, 4), (5, 0, 5), (11, 1, 1), (8, 0, 4), (6, 0, 5), (11, 2, 1), (9, 0, 5), (11, 3, 1)]⟩
  | 18 => some ⟨true, true, 8, 6, 5, 5, 5, [(0, 0, 8), (10, 4, 1), (8, 4, 1), (1, 0, 8), (11, 2, 1), (7, 4, 1), (2, 0, 8), (11, 3, 1),
      (11, 4, 1), (3, 0, 6), (7, 0, 4), (4, 0, 5), (11, 0, 1), (10, 0, 4), (5, 0, 5), (11, 1, 1), (8, 0, 4), (6, 0, 6), (9, 0, 6)]⟩
  | 22 => some ⟨true, true, 8, 5, 6, 5, 5, [(0, 0, 8), (11, 0, 1), (8, 4, 1), (1, 0, 8), (7, 5, 1), (7, 4, 1), (2, 0, 8), (10, 5, 1),
      (11, 4, 1), (3, 0, 5), (10, 4, 1), (7, 0, 4), (4, 0, 6), (10, 0, 4), (5, 0, 5), (11, 1, 1), (8, 0, 4), (6, 0, 5), (11, 2, 1),
      (9, 0, 5), (11, 3, 1)]⟩
  | 26 => some ⟨true, true, 8, 5, 5, 6, 5, [(0, 0, 8), (11, 1, 1), (8, 4, 1), (1, 0, 8), (8, 5, 1), (7, 4, 1), (2, 0, 8), (11, 5, 1),
      (11, 4, 1), (3, 0, 5), (10, 4, 1), (7, 0, 4), (4, 0, 5), (11, 0, 1), (10, 0, 4), (5, 0, 6), (8, 0, 4), (6, 0, 5), (11, 2, 1),
      (9, 0, 5), (11, 3, 1)]⟩
  | 30 => some ⟨false, true, 6, 6, 6, 6, 5, [(0, 0, 6), (10, 4, 1), (11, 0, 1), (11, 1, 1), (8, 4, 1), (1, 0, 6), (7, 5, 1), (8, 5, 1),
      (11, 2, 1), (7, 4, 1), (2, 0, 6), (10, 5, 1), (11, 3, 1), (11, 5, 1), (11, 4, 1), (3, 0, 6), (7, 0, 4), (4, 0, 6), (10, 0, 4),
      (5, 0, 6), (8, 0, 4), (6, 0, 6), (9, 0, 6)]⟩
  | 3 => some ⟨false, false, 10, 10, 10, 10, 5, [(0, 0, 10), (1, 0, 10), (2, 0, 10), (3, 0, 10), (4, 0, 10), (5, 0, 10)]⟩
  | 7 => some ⟨true, false, 11, 9, 9, 9, 5, [(0, 0, 10), (1, 0, 10), (2, 0, 10), (3, 0, 9), (0, 10, 1), (4, 0, 9), (1, 10, 1), (5, 0, 9),
      (2, 10, 1)]⟩
  | 11 => some ⟨true, false, 12, 8, 8, 8, 5, [(0, 0, 10), (1, 0, 10), (2, 0, 10), (3, 0, 8)] ++ bc6Top 0 10 2 ++ [(4, 0, 8)] ++
      bc6Top 1 10 2 ++ [(5, 0, 8)] ++ bc6Top 2 10 2⟩
  | 15 => some ⟨true, false, 16, 4, 4, 4, 5, [(0, 0, 10), (1, 0, 10), (2, 0, 10), (3, 0, 4)] ++ bc6Top 0 10 6 ++ [(4, 0, 4)] ++
      bc6Top 1 10 6 ++ [(5, 0, 4)] ++ bc6Top 2 10 6⟩
  | _ => none

/-- A component gathered from its runs, the first of which starts at bit `off`. -/
def gatherRuns (b c : Nat) : Nat → List (Nat × Nat × Nat) → Nat
  | _, [] => 0
  | off, (k, lo, n) :: t => (if k = c then fieldOf b off n * 2 ^ lo else 0) + gatherRuns b c (off + n) t

/-- An end point's value, 16 bits or a signed 16-bit magnitude. -/
def bc6Unquantize (sg : Bool) (epb : Nat) (v : Int) : Int :=
  if sg then
    if 16 ≤ epb then v
    else
      let m := v.natAbs
      let u : Int := if m = 0 then 0 else if 2 ^ (epb - 1) - 1 ≤ m then 0x7FFF else ((m * 2 ^ 15 + 0x4000) / 2 ^ (epb - 1) : Nat)
      if v < 0 then -u else u
  else
    let m := v.toNat
    if 15 ≤ epb then v
    else if m = 0 then 0
    else if m = 2 ^ epb - 1 then 0xFFFF
    else ((m * 2 ^ 15 + 0x4000) / 2 ^ (epb - 1) : Nat)

/-- Component `c` (0 to 2) of end point `e` (w, x, y, z) of a block. -/
def bc6Endpoint (sg : Bool) (m : Bc6Mode) (b c e : Nat) : Int :=
  let raw (k : Nat) : Nat := gatherRuns b (3 * k + c) m.mbits m.layout
  let d := if c = 0 then m.dr else if c = 1 then m.dg else m.db
  let code := if m.transformed ∧ e ≠ 0 then
      (((raw 0 : Int) + toSigned d (raw e)) % (2 ^ m.epb : Nat)).toNat
    else raw e
  bc6Unquantize sg m.epb (if sg then toSigned m.epb code else code)

/-- Texel `p` of a BC6H block: half-precision values; a reserved mode gives 0. -/
def bc6Texel (sg : Bool) (b p : Nat) : Rgba :=
  let bits := if b % 4 < 2 then b % 4 else b % 32
  let one := ratio 1 1
  match bc6Mode bits with
  | none => [ratio 0 1, ratio 0 1, ratio 0 1, one]
  | some m =>
    let part := if m.two then fieldOf b 77 5 else 0
    let ns := if m.two then 2 else 1
    let ib := if m.two then 3 else 4
    let w := bptcWeight ib (indexAt b (if m.two then 82 else 65) ib (anchorsOf ns part) p)
    let sub := subsetOf ns part p
    let chan (c : Nat) : FVal :=
      let v := ((64 - w : Nat) * bc6Endpoint sg m b c (2 * sub) + (w : Int) * bc6Endpoint sg m b c (2 * sub + 1) + 32) / 64
      let code := if sg then (if v < 0 then 2 ^ 15 + v.natAbs * 31 / 32 else v.natAbs * 31 / 32) else v.natAbs * 31 / 64
      decodeF fmtF16 code
    [chan 0, chan 1, chan 2, one]

/-! ### Formats (R359, R360) -/

/-- Bytes of a texel or block of a format. -/
def texBytes (fmt : Nat) : Nat := if fmt = 0 then 4 else if fmt = 1 ∨ fmt = 2 ∨ fmt = 5 then 8 else 16
/-- The format is stored in blocks. -/
def texBlocks (fmt : Nat) : Bool := decide (2 ≤ fmt)

/-- The channels of a texel: `v` its bytes as a number, `p` its place in its block. -/
def texel (fmt v p : Nat) : Rgba :=
  let zero := ratio 0 1
  let one := ratio 1 1
  match fmt with
  | 0 => (List.range 4).map (fun k => ratio (fieldOf v (8 * k) 8) 255)
  | 1 => (List.range 4).map (fun k => decodeF fmtF16 (fieldOf v (16 * k) 16))
  | 2 => bc1Texel false v p
  | 3 => (bc1Texel true (v / 2 ^ 64) p).take 3 ++ [ratio (fieldOf v (4 * p) 4) 15]
  | 4 => (bc1Texel true (v / 2 ^ 64) p).take 3 ++ [bc4Texel v p]
  | 5 => [bc4Texel v p, zero, zero, one]
  | 6 => [bc4Texel v p, bc4Texel (v / 2 ^ 64) p, zero, one]
  | 7 => bc6Texel false v p
  | 8 => bc6Texel true v p
  | _ => bc7Texel v p

end Sys2Proof.Machine
end

