-- ==== Sys2Proof/Machine/Graphics.lean ====
section
/-!
DEFINITION. The graphics instructions (R351 to R367): VEDGE, VRBOX, VRTRI, VTEX, VTEXL, BLENDC, and BLENDC's limit.
-/
namespace Sys2Proof.Machine

/-! ### Shared rules (R352) -/

/-- The issue of a graphics instruction: cause 2, its own checks, the presence of what it reads, and the waits of a load, while which its
destinations are pending (R363). -/
def State.graphic (s : State) (i : Instr) (bad : Bool) (pre : List (Option Stop)) (src dst : List (RFile × Nat)) (rd wr : List Nat)
    (go : Res) : Res :=
  s.guarded ((trapIf bad 2 (wordOf i) :: pre).map (fun c => c.map (·.atElem s.me.veix.toNat)))
    (s.vguard { i := i, src := src, dst := dst, vl := s.me.vl, g := s.me.gsz, op := .push false }
      (match firstStop [parkIf (decide (8 ≤ s.me.vq.length)) .vqFull, s.memWait true rd wr] with
        | some st => s.stopFor dst st
        | none => go))

/-- The vcfg width is not 32. -/
def Hart.not32 (a : Hart) : Bool := decide (a.vw ≠ 32)

/-- `k` groups of size `g` from a register, aligned to `g` (R356, R358, R363). -/
def Hart.blockStop (a : Hart) (n g k : Nat) : Option Stop :=
  trapIf (decide (n % g ≠ 0) || decide (a.alloc < n + k * g)) 24 (BitVec.ofNat 64 n)

/-- A line that an access of the hart's vector path reads: a store error of the hart (R180), an uncorrectable error (R79, R81), which a
write meets with cause 7. -/
def State.lineStop (s : State) (cause : Nat) (va : Word) (pa : Nat) : Option Stop :=
  match s.me.storeError (lineOf pa) with
  | some d => some (.owed d 0)
  | none => if !isMmio pa && s.badLine (lineOf pa) then some (.report cause va 0 (.bad (s.unitOf none pa) pa)) else none

/-- What a read of `n` bytes of the hart's vector path meets after its translation: its line's errors, a wait at the home slice (R75,
R76). -/
def Acc.readStop (c : Acc) (va : Word) : Option Stop :=
  firstStop [c.s.lineStop 5 va c.pa,
    parkIf (decide (c.e.mt ≠ .device) && c.s.sliceBusy (quadOf c.s.cur) c.pa false c.e.replica) .missFull]
/-- A read of the hart's vector path at the slices (R58). -/
def Acc.reached (c : Acc) (n : Nat) : State :=
  (c.s.bypass (quadOf c.s.cur) c.pa false (treatOf c.e.mt 0) c.e.replica).updMe (fun a => a.sees c.pa n)

/-- The line of a record read for the hart (R352), whose destinations `dst` are pending meanwhile: the R30 checks and the line's
errors. -/
def State.recordLine (s : State) (dst : List (RFile × Nat)) (va : Word) (go : List Byte → State → Res) : Res :=
  let e := s.me.veix.toNat
  match s.access s.cur (s.vreqOf s.cur) va .load 0 0 with
  | .error st => s.stopFor dst (st.atElem e)
  | .ok c =>
    match c.readStop va with
    | some st => s.stopFor dst (st.atElem e)
    | none =>
      let r := (c.reached 64).readSpan c.key c.pa 64
      go r.1 r.2

/-- The end of a graphics instruction. -/
def State.drawn (s : State) (f : Hart → Hart) : Res := .next (s.updMe (fun a => { (f a).advance 4 with veix := 0 }))

/-- A predicate written as R355 says: bits below veix stay, bits from vl upward are 0. -/
def Hart.putPred (a : Hart) (p : Nat) (f : Nat → Bool) : Hart :=
  a.setP p (bitsUpTo a.vln (fun e => if e < a.veix.toNat then a.pbit p e else f e))

/-- Word `k` of a record. -/
def recWord (b : List Byte) (k : Nat) : Nat := leNat ((b.drop (8 * k)).take 8)
/-- The f32 value at byte `k` of a record. -/
def recF32 (b : List Byte) (k : Nat) : FVal := decodeF fmtF32 (leNat ((b.drop k).take 4))

/-! ### VEDGE (R354, R355) -/

/-- A lane is inside every edge. -/
def edgeInside (rec_ : List Byte) (x y : Int) : Bool :=
  (List.range 3).all (fun i =>
    let ab := recWord rec_ (2 * i)
    let e := toSigned 32 (ab % 2 ^ 32) * x + toSigned 32 (ab / 2 ^ 32) * y + toSigned 64 (recWord rec_ (2 * i + 1))
    decide (0 < e) || (decide (e = 0) && decide (recWord rec_ 6 / 2 ^ i % 2 = 1)))

/-- VEDGE (R355). -/
def execVedge (p : BitVec 3) (x : Reg) (d : Reg) (s : State) : Res :=
  let h := s.me
  let g := h.gsz
  let va := h.xv x
  let off := (h.xv (x + 1)).toNat
  s.graphic (.vedge p x d) h.not32 [h.groupStop d.toNat g] (xs [x, x + 1] ++ vgroup d.toNat g) [] (span d.toNat g) []
    (s.guarded [(trapIf (decide (va.toNat % 64 ≠ 0)) 4 va).map (·.atElem h.veix.toNat)]
      (s.recordLine [] va (fun r t =>
        if recWord r 6 / 8 ≠ 0 ∨ recWord r 7 ≠ 0 then s.trapAt 31 1 h.veix.toNat
        else
          t.drawn (fun a => a.putPred p.toNat (fun e =>
            let c := h.elem d.toNat 32 e
            edgeInside r ((c % 65536 : Nat) + toSigned 16 (off % 65536)) ((c / 65536 : Nat) + toSigned 16 (off / 65536 % 65536)))))))

/-! ### Rays (R356 to R358) -/

/-- Value `k` of a lane's ray: ox, oy, oz, dx, dy, dz, tmin, tmax. -/
def Hart.ray (a : Hart) (r e k : Nat) : FVal := decodeF fmtF32 (a.elem (r + k * a.gsz) 32 e)

/-- At or below, for values that are no NaN. -/
def leV (a b : FVal) : Bool := ltV a b || eqV a b
/-- An infinity. -/
def FVal.isInf : FVal → Bool
  | .inf _ => true
  | _ => false

/-- A quotient of VRBOX, rounded outwards. -/
def slabQuotient (mode : RMode) (x d : FVal) : FVal :=
  match x, d with
  | .inf m, .inf n => .inf (m != n)
  | x, d => decodeF fmtF32 (roundVal fmtF32 mode false (divV x d).1).1

/-- One axis of VRBOX: the interval it leaves, if any. -/
def slab (lo hi o d : FVal) (t : FVal × FVal) : Option (FVal × FVal) :=
  if d.isZero then (if leV lo o && leV o hi then some t else none)
  else
    let n := slabQuotient .rdn (addV .rne (if d.isNeg then hi else lo) o.negate).1 d
    let f := slabQuotient .rup (addV .rne (if d.isNeg then lo else hi) o.negate).1 d
    some (if ltV t.1 n then n else t.1, if ltV f t.2 then f else t.2)

/-- A lane of VRBOX: `ray` gives the eight values and `box` the six of the box. -/
def boxHit (ray box : Nat → FVal) : Bool :=
  let bad := (List.range 8).any (fun k => (ray k).isNan) || (List.range 6).any (fun k => (box k).isNan) ||
    (List.range 3).any (fun k => (ray k).isInf || ltV (box (k + 3)) (box k))
  if bad then false
  else
    let r := (List.range 3).foldl (fun t k => t.bind (slab (box k) (box (k + 3)) (ray k) (ray (k + 3)))) (some (ray 6, ray 7))
    match r with
    | none => false
    | some t => leV t.1 t.2

/-- VRBOX (R357). -/
def execVrbox (p : BitVec 3) (x : Reg) (d : Reg) (s : State) : Res :=
  let h := s.me
  let g := h.gsz
  let va := h.xv x
  let line := va &&& ~~~0x3F#64
  let base := if va.toNat / 32 % 2 = 1 then 32 else 0
  s.graphic (.vrbox p x d) h.not32 [h.blockStop d.toNat g 8] (xs [x] ++ vgroup d.toNat (8 * g)) [] (span d.toNat (8 * g)) []
    (s.guarded [(trapIf (decide (va.toNat % 32 ≠ 0)) 4 va).map (·.atElem h.veix.toNat)]
      (s.recordLine [] line (fun r t =>
        t.drawn (fun a => a.putPred p.toNat (fun e =>
          boxHit (h.ray d.toNat e) (fun k => recF32 r (base + 4 * k)))))))

/-- Three exact coordinates. -/
abbrev Vec3 := List Exact

def Vec3.at (v : Vec3) (k : Nat) : Exact := v.getD k ⟨0, 1, 0⟩
def Vec3.sub (a b : Vec3) : Vec3 := (List.range 3).map (fun k => (Vec3.at a k).add (Vec3.at b k).neg)
def Vec3.dot (a b : Vec3) : Exact :=
  (List.range 3).foldl (fun acc k => acc.add ((Vec3.at a k).mul (Vec3.at b k))) ⟨0, 1, 0⟩
def Vec3.cross (a b : Vec3) : Vec3 :=
  (List.range 3).map (fun k =>
    let i := (k + 1) % 3
    let j := (k + 2) % 3
    ((Vec3.at a i).mul (Vec3.at b j)).add ((Vec3.at a j).mul (Vec3.at b i)).neg)

/-- The exact number of a finite value. -/
def FVal.exact : FVal → Exact
  | .fin n x => signedOf n x
  | _ => ⟨0, 1, 0⟩

/-- Three finite values. -/
def vec3 (f : Nat → FVal) : Vec3 := (List.range 3).map (fun k => (f k).exact)

/-- An exact quotient rounded to f32. -/
def roundQuotient (n d : Exact) : Nat := (roundVal fmtF32 .rne false (finOf false (n.div d))).1

/-- A lane of VRTRI: t, u and v; `tri k` is value `k % 3` of vertex `k / 3`. -/
def triHit (ray tri : Nat → FVal) : List Nat :=
  let miss := [0x7F800000, 0, 0]
  let bad := (List.range 8).any (fun k => (ray k).isNan) || (List.range 6).any (fun k => (ray k).isInf) ||
    (List.range 9).any (fun k => (tri k).isNan || (tri k).isInf)
  if bad then miss
  else
    let o := vec3 ray
    let d := vec3 (fun k => ray (k + 3))
    let v0 := vec3 tri
    let v1 := vec3 (fun k => tri (k + 3))
    let v2 := vec3 (fun k => tri (k + 6))
    let a := v0.sub o
    let b := v1.sub o
    let c := v2.sub o
    let su := d.dot (b.cross c)
    let sv := d.dot (c.cross a)
    let sw := d.dot (a.cross b)
    let den := (su.add sv).add sw
    let nonneg := decide (0 ≤ su.num) && decide (0 ≤ sv.num) && decide (0 ≤ sw.num)
    let nonpos := decide (su.num ≤ 0) && decide (sv.num ≤ 0) && decide (sw.num ≤ 0)
    if den.num = 0 then miss
    else
      let tn := a.dot ((v1.sub v0).cross (v2.sub v0))
      let t := finOf false (tn.div den)
      if (nonneg || nonpos) && leV (ray 6) t && leV t (ray 7) then [roundQuotient tn den, roundQuotient sv den, roundQuotient sw den]
      else miss

/-- VRTRI (R358). Its ray set is checked before a mark of the register that names it is reported (R183), once that register is there. -/
def execVrtri (p : BitVec 3) (x : Reg) (d : Reg) (s : State) : Res :=
  let h := s.me
  let g := h.gsz
  let xv := h.xv x
  let r := xv.toNat % 32
  let dst := vgroup d.toNat (3 * g)
  s.graphic (.vrtri p x d) h.not32 [h.blockStop d.toNat g 3,
      (h.presentAll (xs [x])).map (fun st => (h.markedAny (xs [x])).getD st.atVec), h.blockStop r g 8] (xs [x] ++ vgroup r (8 * g)) dst (span r (8 * g)) (span d.toNat (3 * g))
    (s.guarded [(trapIf (bitOf xv 5) 31 2).map (·.atElem h.veix.toNat)]
      (s.recordLine dst (xv &&& ~~~0x3F#64) (fun rc t =>
        t.drawn (fun a =>
          let b := (h.activeEls p.toNat).foldl (fun b e =>
            let l := triHit (h.ray r e) (fun k => recF32 rc (16 * (k / 3) + 4 * (k % 3)))
            l.zipIdx.foldl (fun b v => b.setElem (d.toNat + v.2 * g) 32 e v.1) b) a
          b.presentV d.toNat (3 * g)))))

/-! ### Textures (R359 to R363) -/

/-- A texture descriptor (R359). -/
structure Tex where
  base : Nat
  fmt : Nat
  filt : Nat
  wrap : Nat
  lodb : Int
  nlvl : Nat
  h : Nat
  w : Nat

/-- The descriptor in two registers. -/
def texOf (a b : Word) : Tex :=
  ⟨a.toNat / 256 * 256, fieldOf a.toNat 4 4, fieldOf a.toNat 2 2, fieldOf a.toNat 0 2, toSigned 16 (fieldOf b.toNat 32 16),
    fieldOf b.toNat 28 4, fieldOf b.toNat 14 14 + 1, fieldOf b.toNat 0 14 + 1⟩

/-- Reserved values of a descriptor. -/
def texStop (a b : Word) : Option Stop :=
  firstStop [trapIf (decide (10 ≤ fieldOf a.toNat 4 4) || decide (fieldOf a.toNat 2 2 = 3) || decide (fieldOf a.toNat 0 2 = 3)) 31 0,
    trapIf (decide (fieldOf b.toNat 48 16 ≠ 0)) 31 1]

/-- Width and height of a level. -/
def Tex.wid (t : Tex) (l : Nat) : Nat := max 1 (t.w / 2 ^ l)
def Tex.hei (t : Tex) (l : Nat) : Nat := max 1 (t.h / 2 ^ l)
/-- Bytes of a level. -/
def Tex.levelBytes (t : Tex) (l : Nat) : Nat :=
  if texBlocks t.fmt then (t.wid l + 3) / 4 * ((t.hei l + 3) / 4) * texBytes t.fmt else t.wid l * t.hei l * texBytes t.fmt
/-- The offset of a level. -/
def Tex.levelAt (t : Tex) : Nat → Nat
  | 0 => 0
  | l + 1 => (t.levelAt l + t.levelBytes l + 255) / 256 * 256

/-- A texel index wrapped (R362). -/
def wrapIndex (mode n : Nat) (i : Int) : Nat :=
  if mode = 0 then (i % n).toNat
  else if mode = 1 then (min (max i 0) (n - 1)).toNat
  else
    let m := (i % (2 * n : Nat)).toNat
    if m < n then m else 2 * n - 1 - m

/-- The address of a texel, and its place in its block. -/
def Tex.addr (t : Tex) (l : Nat) (i j : Int) : Word × Nat :=
  let x := wrapIndex t.wrap (t.wid l) i
  let y := wrapIndex t.wrap (t.hei l) j
  let k := if texBlocks t.fmt then y / 4 * ((t.wid l + 3) / 4) + x / 4 else y * t.wid l + x
  (BitVec.ofNat 64 (t.base + t.levelAt l + k * texBytes t.fmt), if texBlocks t.fmt then y % 4 * 4 + x % 4 else 0)

/-- The floor of 256 times a value times `n`. -/
def scaled256 (v : Exact) (n : Nat) : Int := Exact.floor ⟨v.num * n, v.den, v.exp + 8⟩

/-- The taps of a level: texel indices and weights in 1/65,536. -/
def Tex.taps (t : Tex) (l : Nat) (u v : Exact) : List (Int × Int × Nat) :=
  if t.filt = 0 then [(scaled256 u (t.wid l) / 256, scaled256 v (t.hei l) / 256, 65536)]
  else
    let x := scaled256 u (t.wid l) - 128
    let y := scaled256 v (t.hei l) - 128
    let a := (x % 256).toNat
    let b := (y % 256).toNat
    [(x / 256, y / 256, (256 - a) * (256 - b)), (x / 256 + 1, y / 256, a * (256 - b)),
      (x / 256, y / 256 + 1, (256 - a) * b), (x / 256 + 1, y / 256 + 1, a * b)]

/-- A level in 1/256 (R361) from a number, a NaN or an infinity. -/
def Tex.clampLevel (t : Tex) (v : Int) : Nat := (min (max (t.lodb + v) 0) (256 * t.nlvl : Nat)).toNat

/-- The exact number of bits of λ: the floor of 256 × log2 of a positive number. -/
def log256 (x : Exact) : Int := Exact.log2 ⟨x.num ^ 256, x.den ^ 256, 256 * x.exp⟩

/-- |Δ| × n of two coordinates. -/
def texDelta (a b : FVal) (n : Nat) : FVal :=
  match (addV .rne a b.negate).1 with
  | .nan q => .nan q
  | .inf _ => .inf false
  | .fin _ x => .fin false ⟨x.num.natAbs * n, x.den, x.exp⟩

/-- The larger of two magnitudes, NaN when either is. -/
def maxMag (a b : FVal) : FVal := if a.isNan then a else if b.isNan then b else if ltV a b then b else a

/-- λ of a lane of VTEX from its neighbours, in 1/256 (R361). -/
def Tex.lodOf (t : Tex) (vl e : Nat) (u v : Nat → FVal) : Nat :=
  let near (n : Nat) : FVal :=
    if vl ≤ n then .fin false ⟨0, 1, 0⟩ else maxMag (texDelta (u e) (u n) t.w) (texDelta (v e) (v n) t.h)
  match maxMag (near (e ^^^ 1)) (near (e ^^^ 8)) with
  | .nan _ => 0
  | .inf _ => 256 * t.nlvl
  | .fin _ x => if x.num = 0 then 0 else t.clampLevel (log256 x)

/-- λ given to VTEXL, in 1/256. -/
def Tex.lodGiven (t : Tex) (v : FVal) : Nat :=
  match v with
  | .nan _ => 0
  | .inf n => if n then 0 else 256 * t.nlvl
  | .fin n x => t.clampLevel (scaled256 (signedOf n x) 1)

/-- The taps of a lane over its levels: level, indices, weight in 2^-24 (R361, R362). -/
def Tex.laneTaps (t : Tex) (lod : Nat) (u v : Exact) : List (Nat × Int × Int × Nat) :=
  let at_ (l k : Nat) : List (Nat × Int × Int × Nat) := (t.taps l u v).map (fun p => (l, p.1, p.2.1, p.2.2 * k))
  if t.filt = 2 then
    let f := lod % 256
    at_ (lod / 256) (256 - f) ++ (if f = 0 then [] else at_ (lod / 256 + 1) f)
  else at_ ((lod + 128) / 256) 256

/-- A channel's code from weighted values. One texel is rounded as it is; the specification gives no sum over an infinity or
a NaN (log 31): `free`, of which a NaN is the canonical one (R193). -/
def weigh (free : Nat) (l : List (FVal × Nat)) : Nat :=
  match l with
  | [(v, _)] => (roundVal fmtF32 .rne false v).1
  | _ =>
    if l.any (fun p => p.1.isNan || p.1.isInf) then (if isNan32 free then fmtF32.nanCode else free)
    else
      let x := l.foldl (fun acc p => acc.add (p.1.exact.mul ⟨p.2, 1, -24⟩)) (⟨0, 1, 0⟩ : Exact)
      (roundVal fmtF32 .rne false (finOf false x)).1

/-- The texels of a lane's taps, or the first stop. -/
def State.readTaps (s : State) (t : Tex) : List (Nat × Int × Int × Nat) → Except Stop (List (Rgba × Nat) × State)
  | [] => .ok ([], s)
  | (l, i, j, w) :: rest =>
    let a := t.addr l i j
    match s.access s.cur (s.vreqOf s.cur) a.1 .load 0 7 with
    | .error st => .error st
    | .ok c =>
      match c.readStop a.1 with
      | some st => .error st
      | none => match (c.reached (texBytes t.fmt)).readTaps t rest with
        | .error st => .error st
        | .ok r => .ok ((texel t.fmt (c.mem.readN c.pa (texBytes t.fmt)) a.2, w) :: r.1, r.2)

/-- The four codes of a lane, or why it stops. A lane with a NaN or infinite coordinate reads nothing. -/
def State.lane (s : State) (t : Tex) (lod e : Nat) (u v : FVal) : Except Stop (List Nat × State) :=
  if u.isNan || v.isNan || u.isInf || v.isInf then .ok ([0, 0, 0, 0], s)
  else match s.readTaps t (t.laneTaps lod u.exact v.exact) with
    | .error st => .error st
    | .ok r =>
      .ok ((List.range 4).map (fun c =>
        weigh (leNat ((List.range 4).map (fun k => Config.freeByte s.fresh (16 * e + 4 * c + k))))
          (r.1.map (fun x => (x.1.getD c (ratio 0 1), x.2)))), r.2)

/-- Lanes in ascending order; a stop ends them at its element (R31, R363). -/
def State.lanes (s : State) (t : Tex) (d g : Nat) (lod : Nat → Nat) (u v : Nat → FVal) : List Nat → State × Option (Nat × Stop)
  | [] => (s, none)
  | e :: rest =>
    match s.lane t (lod e) e (u e) (v e) with
    | .error st => (s, some (e, st))
    | .ok r =>
      (r.2.updMe (fun a => r.1.zipIdx.foldl (fun b c => b.setElem (d + c.2 * g) 32 e c.1) a)).lanes t d g lod u v rest

/-- Lanes that one step of a VTEX performs: those of two aligned blocks of 16 lanes, at most 256 line requests (R6, R75). A lane's
neighbours (R361) lie in its block, so that a later step finds their coordinates. -/
def lanesNow (els : List Nat) : List Nat := els.takeWhile (fun e => decide (e / 32 = els.headD 0 / 32))

/-- VTEX and VTEXL (R359 to R363): the block of four groups is pending until the fault point; what one step does not perform goes on
from the next lane. -/
def State.sample (s : State) (i : Instr) (given : Bool) (p : Nat) (x d : Reg) : Res :=
  let h := s.me
  let g := h.gsz
  let n := d.toNat
  let k := if given then 3 else 2
  let t := texOf (h.xv x) (h.xv (x + 1))
  let u (e : Nat) : FVal := decodeF fmtF32 (h.elem n 32 e)
  let v (e : Nat) : FVal := decodeF fmtF32 (h.elem (n + g) 32 e)
  let lod (e : Nat) : Nat :=
    if given then t.lodGiven (decodeF fmtF32 (h.elem (n + 2 * g) 32 e)) else t.lodOf h.vln e u v
  let els := h.activeEls p
  let now := lanesNow els
  let dst := vgroup n (4 * g)
  s.graphic i h.not32 [h.blockStop n g 4] (xs [x, x + 1] ++ vgroup n (k * g)) dst (span n (4 * g)) (span n (4 * g))
    (s.guarded [(texStop (h.xv x) (h.xv (x + 1))).map (·.atElem h.veix.toNat)]
      (let r := State.lanes { s with fresh := s.fresh + 1 } t n g lod u v now
       match r.2 with
       | none => match els.drop now.length with
         | [] => r.1.drawn (fun a => a.presentV n (4 * g))
         | e :: _ => State.parksFor (r.1.updMe (fun a => { a.presentV n (4 * g) with veix := BitVec.ofNat 12 e })) dst .missFull
       | some (_, .park q) => s.parksFor dst q
       | some (e, st) =>
         (if els.head? = some e then r.1 else r.1.updMe (fun a => a.presentV n (4 * g))).stop (st.atElem e)))

/-- VTEX (R362). -/
def execVtex (p : BitVec 3) (x : Reg) (d : Reg) (s : State) : Res := s.sample (.vtex p x d) false p.toNat x d
/-- VTEXL (R362). -/
def execVtexl (p : BitVec 3) (x : Reg) (d : Reg) (s : State) : Res := s.sample (.vtexl p x d) true p.toNat x d

/-! ### BLENDC (R364 to R367) -/

/-- The targets of a blend: the tile, its record, and the barrier if there is one. -/
def blendTargets (rec_ : List Byte) (x1 : Word) : List Word :=
  let i := fieldOf x1.toNat 16 15 * (recWord rec_ 3 % 65536) + x1.toNat % 65536
  let w (n : Nat) : Word := BitVec.ofNat 64 n
  [w (recWord rec_ 0 + 256 * i), w (recWord rec_ 1 + 64 * i)] ++ (if recWord rec_ 2 = 0 then [] else [w (recWord rec_ 2)])

/-- Order 5 of R365. -/
def blendBad (rec_ : List Byte) (x1 : Word) : Bool :=
  (List.range 4).any (fun k => decide (recWord rec_ (4 + k) ≠ 0)) || decide (recWord rec_ 3 / 2 ^ 32 ≠ 0) || bitOf x1 31 ||
  decide (recWord rec_ 3 % 65536 ≤ x1.toNat % 65536) || decide (recWord rec_ 3 / 65536 ≤ fieldOf x1.toNat 16 15) ||
  decide (recWord rec_ 0 % 256 ≠ 0) || decide (recWord rec_ 1 % 64 ≠ 0) || decide (recWord rec_ 2 % 64 ≠ 0)

/-- A target of a blend: its virtual address, and its access. -/
abbrev Target := Word × Acc

/-- Targets translated in order with W permission (order 6). -/
def State.targets (s : State) : List Word → Except Stop (List Target × State)
  | [] => .ok ([], s)
  | va :: t =>
    match s.translate (s.vreqOf s.cur) va .store with
    | .fault c w => .error (faultStop c va w)
    | .miss g => .error (s.missStop s.cur va .store g)
    | .wait p => .error (.park p)
    | .ok e pa u => match u.targets t with
      | .error st => .error st
      | .ok r => .ok ((va, ⟨e, pa, true, u⟩) :: r.1, r.2)

/-- Order 7 at one target. -/
def targetStop7 (t : Target) : Option Stop := firstStop [trapIf (decide (t.2.e.mt = .device)) 7 t.1, trapIf t.2.e.frozen 25 t.1]
/-- The waits at the bytes of one target that are accessed, by their offsets, and an error in their lines. -/
def State.targetWait (s : State) (t : Target) (offs : List Nat) : Option Stop :=
  firstStop [parkIf (!offs.isEmpty && decide (2 ≤ Tab.get s.bias (pageOf t.2.pa) 0)) .access,
    (offs.find? (fun k => s.mustSnoop s.cur (t.2.pa + k) true)).map (fun k => .park (.snoop (lineOf (t.2.pa + k)) true)),
    offs.findSome? (fun k => s.lineStop 7 (t.1 + BitVec.ofNat 64 k) (t.2.pa + k)),
    parkIf (offs.any (fun k => s.sliceBusy (quadOf s.cur) (t.2.pa + k) true none)) .missFull]

/-- The offsets of the covered pixels of a tile (R366). -/
def Hart.pixels (a : Hart) (p : Nat) : List Nat := ((List.range 64).filter (a.pbit p)).map (fun k => 4 * k)

/-- A pixel blended over another (R366). -/
def blendPixel (sc d : Nat) : Nat :=
  let al := fieldOf sc 24 8
  let ch (x k : Nat) : Nat := fieldOf x (8 * k) 8
  (List.range 3).foldl (fun n k => n + (ch sc k * al + ch d k * (255 - al) + 127) / 255 * 2 ^ (8 * k))
    ((al * 255 + ch d 3 * (255 - al) + 127) / 255 * 2 ^ 24)

/-- The blend of a granted BLENDC: the covered pixels, then the count (R366). -/
def State.blend (s : State) (h : Hart) (v p : Nat) (tile : Acc) (pass : Option Nat) : State :=
  let t := ((List.range 64).filter (h.pbit p)).foldl (fun t k =>
    t.poke (some s.cur) tile.key (tile.pa + 4 * k)
      (leBytes 4 (blendPixel (h.elem v 32 k) ((t.memUnder tile.key).readN (tile.pa + 4 * k) 4)))) s
  match pass with
  | none => t
  | some pa => t.countInto pa 256 false

/-- The number that a tile record's COMMIT, at `pa`, holds. -/
def State.commitAt (s : State) (pa : Nat) : Nat := (s.memUnder (s.nativeKey pa)).readN pa 4

/-- The end of a BLENDC (R366): the release, then the strong write of COMMIT; it waits for a flip, the host or its home slice. -/
def State.commitBlend (s : State) (pa key : Nat) : Res :=
  if 2 ≤ Tab.get s.bias (pageOf pa) 0 ∨ s.sliceBusy (quadOf s.cur) pa true none then .next s
  else if s.mustSnoop s.cur pa true then .next (s.sendSnoop s.cur (lineOf pa) true)
  else
    let t := (s.cleanCore (coreOf s.cur)).reach (quadOf s.cur) true [(lineOf pa, Treat.normal, none)]
    (t.poke (some s.cur) key pa (leBytes 4 ((t.memUnder key).readN pa 4 + 1))).drawn Hart.acquired

/-- Orders 7 to 9 of R365 and the park of R366, once the targets are translated; then what the covered pixels wait for. -/
def State.blendStops (s : State) (tile rec_ : Target) (pass : List Target) (ticket p : Nat) : List (Option Stop) :=
  let at_ := rec_.2.pa + 4
  let ahead := (ticket + 2 ^ 32 - (s.memUnder rec_.2.key).readN at_ 4) % 2 ^ 32
  (tile :: rec_ :: pass).map targetStop7 ++ (rec_ :: pass).map (fun y => s.targetWait y [0]) ++
    pass.map (fun y => trapIf (decide (y.2.obj.kind ≠ 2)) 31 1) ++
    [trapIf (decide (2 ^ 31 ≤ ahead)) 31 4, parkIf (decide (ahead ≠ 0)) (.blend at_ ticket), s.targetWait tile (s.me.pixels p)]

/-- The lines of the pixels that a blend writes. -/
def Acc.pixelLines (c : Acc) (offs : List Nat) : List LineReq := offs.map (fun k => (lineOf (c.pa + k), treatOf c.e.mt 0, none))

/-- BLENDC with its record read (R365 orders 5 to 9): once granted it blends and counts, and its hart stays parked until the write of
COMMIT, a step of its own (R366, R429). -/
def State.blendGo (s : State) (r : List Byte) (x1 : Word) (v p : Nat) : Res :=
  let e := s.me.veix.toNat
  if blendBad r x1 then s.trapAt 31 1 e
  else match s.targets (blendTargets r x1) with
    | .error st => s.stop (st.atElem e)
    | .ok (tile :: rec_ :: pass, u) =>
      s.guarded ((u.blendStops tile rec_ pass (fieldOf x1.toNat 32 32) p).map (fun c => c.map (fun st => st.atElem e)))
        (State.parks ((u.reach (quadOf s.cur) true (tile.2.pixelLines (s.me.pixels p))).blend s.me v p tile.2 (pass.head?.map (·.2.pa)))
          (.commit (rec_.2.pa + 4) rec_.2.key (rec_.2.e.va / 4096) (rec_.2.e.size / 4096)))
    | .ok (_, u) => .next u -- there are always two targets

/-- BLENDC (R365, R366): each turn checks again until COMMIT is the ticket; it ignores veix and leaves it 0 (R185, R352). -/
def execBlendc (p : BitVec 3) (x : Reg) (d : Reg) (s : State) : Res :=
  let h := s.me
  let va := h.xv x
  match h.park with
  | some (.commit pa key _ _) => s.commitBlend pa key
  | _ =>
  s.graphic (.blendc p x d) false [h.groupStop d.toNat 2] (xs [x, x + 1] ++ vgroup d.toNat 2) [] (span d.toNat 2) []
    (s.guarded [(trapIf (decide (va.toNat % 64 ≠ 0)) 4 va).map (fun st => st.atElem h.veix.toNat)]
      (s.recordLine [] va (fun r t => t.blendGo r (h.xv (x + 1)) d.toNat p.toNat)))

/-- BLENDC_QUEUE_LIMIT (R366): a hart that has waited for its turn past the queue limit, and whose turn has not come, takes
cause 31. -/
def execBlendcQueueLimit (s : State) : Res :=
  let a := s.hart s.ev.h
  match a.park with
  | some (.blend pa ticket) =>
    if s.past (quadOf s.ev.h) (s.queueLimit s.ev.h) a.sinceQ ∧ s.commitAt pa ≠ ticket then .next (s.setHart s.ev.h (a.trap 31 0 a.veix.toNat)) else .next s
  | _ => .next s

end Sys2Proof.Machine
end

