-- ==== Sys2Proof/Machine/ScalarMem.lean ====
section
/-!
DEFINITION. The scalar memory instructions: standard loads and stores, atomics, LR and SC (R217, R218, R266, R267), and
LDS and STS (R264, R265).
-/
namespace Sys2Proof.Machine

/-- Bytes of a standard load. -/
def loadSize : LoadOp → Nat
  | .lb => 1
  | .lbu => 1
  | .lh => 2
  | .lhu => 2
  | .lw => 4
  | .lwu => 4
  | .flw => 4
  | .ld => 8
  | .fld => 8

/-- The file of a standard load's destination. -/
def loadFile : LoadOp → RFile
  | .flw => .f
  | .fld => .f
  | _ => .x

/-- The register value of the bytes a standard load reads. -/
def loadValue (op : LoadOp) (v : Nat) : Word :=
  match op with
  | .lb => sextTo 8 v
  | .lh => sextTo 16 v
  | .lw => sextTo 32 v
  | .flw => boxed .s v
  | _ => BitVec.ofNat 64 v

/-- Bytes of a standard store. -/
def storeSize : StoreOp → Nat
  | .sb => 1
  | .sh => 2
  | .sw => 4
  | .fsw => 4
  | .sd => 8
  | .fsd => 8

/-- The file of a standard store's source. -/
def storeFile : StoreOp → RFile
  | .fsw => .f
  | .fsd => .f
  | _ => .x

/-- The value of a register of a scalar file. -/
def Hart.scalarV (a : Hart) (file : RFile) (r : Reg) : Word :=
  match file with
  | .x => a.xv r
  | .f => a.fv r
  | .v => 0

/-- The mark of a late result read from `n` bytes at `pa`: cause 5 with the virtual address when a line is bad (R79, R180). -/
def State.markOf (s : State) (pa n : Nat) (va : Word) : Option Mark :=
  if s.badRange pa n && !isMmio pa then some ⟨5, va⟩ else none

/-- An uncorrectable error that a read of `n` bytes meets is logged for the hart (R81). -/
def State.logRead (s : State) (pa n : Nat) : State :=
  if s.badRange pa n && !isMmio pa then s.logUse s.cur (s.unitOf (some (coreOf s.cur)) pa) 5 pa else s

/-- The end of a translated scalar read of `n` bytes: the value is owed to its register (R170, R172). A miss in the L1 data cache
holds a miss register until the fill lands (R75). -/
def State.owedRead (s : State) (c : Acc) (file : RFile) (d : Reg) (n : Nat) (va : Word) (value : Nat → Word) : Res :=
  s.paths c n
    (let r := (c.s.logRead c.pa n).fetchData c.key c.pa n
     let miss := s.inL1 c.e c.pa && !s.l1Hit (coreOf s.cur) c.e c.pa
     let t := if miss then r.2 else r.2.touch (coreOf s.cur) c.e c.pa false
     .next (t.updMe (fun a =>
      ((a.sees c.pa n).owe ⟨file, d, value r.1, s.markOf c.pa n va, if miss then some (c.pa, c.e) else none⟩).advance 4)))

/-- The end of a translated scalar write of `n` bytes. -/
def State.doneWrite (s : State) (c : Acc) (n : Nat) (va : Word) (v : Nat) : Res :=
  s.paths c n (.next (((c.s.storeAt s.cur va c.key c.pa n v).touch (coreOf s.cur) c.e c.pa true).advance 4))

/-- The address of a load or store: base and signed offset. -/
def Hart.effAddr (a : Hart) (r : Reg) (imm : BitVec 12) : Word := a.xv r + imm.signExtend 64

/-- SCALAR_LOAD (R218). -/
def execScalarLoad (op : LoadOp) (d a : Reg) (imm : BitVec 12) (s : State) : Res :=
  let va := s.me.effAddr a imm
  s.guarded [s.me.ready (xs [a]) [(loadFile op, d.toNat)]]
    (match s.scalarAccess s.cur va (loadSize op) .load with
      | .error st => s.stop st
      | .ok c => s.owedRead c (loadFile op) d (loadSize op) va (loadValue op))

/-- SCALAR_STORE (R218). -/
def execScalarStore (op : StoreOp) (a b : Reg) (imm : BitVec 12) (s : State) : Res :=
  let va := s.me.effAddr a imm
  s.guarded [s.me.ready [(.x, a.toNat), (storeFile op, b.toNat)] []]
    (match s.scalarAccess s.cur va (storeSize op) .store with
      | .error st => s.stop st
      | .ok c => s.doneWrite c (storeSize op) va (s.me.scalarV (storeFile op) b).toNat)

/-! ### Atomics (R74, R124, R217, R267) -/

/-- The new value of an AMO of `w` bits. -/
def amoResult (op : AmoOp) (w old b : Nat) : Nat :=
  let x := old % 2 ^ w
  let y := b % 2 ^ w
  let sx := toSigned w x
  let sy := toSigned w y
  match op with
  | .swap => y
  | .add => (x + y) % 2 ^ w
  | .xor => x ^^^ y
  | .and => x &&& y
  | .or => x ||| y
  | .min => if sx ≤ sy then x else y
  | .max => if sx ≤ sy then y else x
  | .minu => min x y
  | .maxu => max x y

/-- Bytes of an atomic. -/
def amoSize (dbl : Bool) : Nat := if dbl then 8 else 4

/-- The release of an atomic: the core's dirty lines go home, as a FENCE.S.rel performs them (R124, R133). -/
def State.releasesIf (s : State) (b : Bool) : State := if b then s.cleanCore (coreOf s.cur) else s

/-- An acquire under a condition. -/
def State.acquiresIf (s : State) (b : Bool) : State := if b then s.acquires else s

/-- AMO: one strong atomic at device scope; `rl` releases before it, `aq` acquires after it (R124). -/
def execAmo (op : AmoOp) (dbl aq rl : Bool) (d a b : Reg) (s : State) : Res :=
  let n := amoSize dbl
  let va := s.me.xv a
  s.guarded [s.me.ready (xs [a, b]) (xs [d])]
    (match s.alignedAccess s.cur va n .store 6 7 with
      | .error st => s.stop st
      | .ok c => s.paths c n
        (s.guarded [if rl then s.me.releaseWait else none]
          (let old := c.mem.readN c.pa n
           let t := (((c.s.releasesIf rl).logRead c.pa n).poke (some s.cur) c.key c.pa
             (leBytes n (amoResult op (8 * n) old (s.me.xv b).toNat))).atomicAt (coreOf s.cur) c.e c.pa
           .next ((t.updMe (fun h =>
             ((h.storedAt va c.pa n).owe ⟨.x, d, sextTo (8 * n) old, s.markOf c.pa n va, none⟩).advance 4)).acquiresIf aq))))

/-- The checks of LR and SC beside an AMO's: a frozen page takes cause 25, for LR too (R267); the line is asked of the host exclusive
(R431). -/
def State.reservedAccess (s : State) (va : Word) (n : Nat) (acc : AccKind) (mis : Nat) : Except Stop Acc :=
  match s.alignedReq s.cur { s.reqOf s.cur with excl := true } va n acc mis 7 with
  | .error st => .error st
  | .ok c => if c.e.frozen then .error (.trap 25 va) else .ok { c with write := decide (acc = .store) || isHost c.pa }

/-- What LR, and an SC that fails, do in the caches: in the host window the line is exclusive at its home slice (R267, R406); elsewhere
LR reads as a load does, and the failing SC touches nothing. -/
def State.reserves (s : State) (c : Acc) (load : Bool) : State :=
  if isHost c.pa then s.atHome (coreOf s.cur) c.pa (treatOf c.e.mt 0)
  else if load then s.touch (coreOf s.cur) c.e c.pa false
  else s

/-- LR (R266): the reservation covers the line of the address. -/
def execLr (dbl aq rl : Bool) (d a : Reg) (s : State) : Res :=
  let n := amoSize dbl
  let va := s.me.xv a
  s.guarded [s.me.ready (xs [a]) (xs [d])]
    (match s.reservedAccess va n .load 4 with
      | .error st => s.stop st
      | .ok c => s.paths c n
        (s.guarded [if rl then s.me.releaseWait else none]
          (let t := ((c.s.releasesIf rl).logRead c.pa n).reserves c true
           .next ((t.updMe (fun h =>
             { ((h.sees c.pa n).owe ⟨.x, d, sextTo (8 * n) (c.mem.readN c.pa n), s.markOf c.pa n va, none⟩).advance 4 with
               resv := some ⟨lineOf c.pa, c.pa, n⟩ })).acquiresIf aq))))

/-- The reservation lets an SC of `n` bytes at `pa` succeed (R266). -/
def Hart.reserved (a : Hart) (pa n : Nat) : Bool :=
  match a.resv with
  | none => false
  | some r => decide (r.line = lineOf pa) && decide (r.addr = pa) && decide (r.size = n)

/-- SC (R266): 0 on success, 1 on failure; either way the reservation is gone. -/
def execSc (dbl aq rl : Bool) (d a b : Reg) (s : State) : Res :=
  let n := amoSize dbl
  let va := s.me.xv a
  s.guarded [s.me.ready (xs [a, b]) (xs [d])]
    (match s.reservedAccess va n .store 6 with
      | .error st => s.stop st
      | .ok c => s.paths c n
        (s.guarded [if rl then s.me.releaseWait else none]
          (let ok := s.me.reserved c.pa n
           let r := c.s.releasesIf rl
           let t := if ok then (r.storeAt s.cur va c.key c.pa n (s.me.xv b).toNat).touch (coreOf s.cur) c.e c.pa true
             else r.reserves c false
           .next ((t.updMe (fun h =>
             { (h.owe ⟨.x, d, if ok then 0 else 1, none, none⟩).advance 4 with resv := none })).acquiresIf aq))))

/-! ### LDS and STS (R264, R265) -/

/-- LDS: a strong read of 2^z bytes, and with `acq` an acquire (log 5). -/
def State.lds (s : State) (acq : Bool) (z : BitVec 2) (b d : Reg) : Res :=
  let n := 2 ^ z.toNat
  let va := s.me.xv b
  s.guarded [s.me.ready (xs [b]) (xs [d])]
    (match s.alignedAccess s.cur va n .load 4 0 with
      | .error st => s.stop st
      | .ok c => s.owedRead { c with s := c.s.acquiresIf acq } .x d n va (fun v => sextTo (8 * n) v))

/-- STS: a strong write of 2^z bytes. With `rel` it reports a store error (R180) and releases first, which at scope .h
orders nothing (R285). -/
def State.sts (s : State) (rel : Bool) (sc : BitVec 3) (v b : Reg) (z : BitVec 2) : Res :=
  let n := 2 ^ z.toNat
  let va := s.me.xv b
  let wide := rel && decide (sc ≠ 0)
  s.guarded [s.me.ready (xs [b, v]) []]
    (s.reporting (s.me.due rel false false)
      (match s.alignedAccess s.cur va n .store 6 0 with
        | .error st => s.stop st
        | .ok c => s.guarded [if wide then s.me.releaseWait else none]
          (s.doneWrite { c with s := if wide then c.s.cleanCore (coreOf s.cur) else c.s } n va (s.me.xv v).toNat)))

/-- LDS_RLX (R265). -/
def execLdsRlx (_sc : BitVec 3) (z : BitVec 2) (b d : Reg) (s : State) : Res := s.lds false z b d
/-- LDS_ACQ (R265). -/
def execLdsAcq (_sc : BitVec 3) (z : BitVec 2) (b d : Reg) (s : State) : Res := s.lds true z b d
/-- STS_RLX (R265). -/
def execStsRlx (sc : BitVec 3) (v b : Reg) (z : BitVec 2) (s : State) : Res := s.sts false sc v b z
/-- STS_REL (R265). -/
def execStsRel (sc : BitVec 3) (v b : Reg) (z : BitVec 2) (s : State) : Res := s.sts true sc v b z

end Sys2Proof.Machine
end

