-- ==== Sys2Proof/Machine/Queues.lean ====
section
/-!
DEFINITION. Task queues (R248 to R251, R368 to R371): descriptors, Chinook's filter, enqueues, TENQ, TENQT, KLAUNCH and
TICKET (R254).
-/
namespace Sys2Proof.Machine

/-! ### Descriptors (R248) -/

/-- A task descriptor in the 64 bytes of its line. -/
def descOf (b : List Byte) : TaskDesc :=
  let d (k : Nat) : Nat := leNat ((b.drop (8 * k)).take 8)
  ⟨BitVec.ofNat 64 (d 0), (List.range 6).map (fun k => BitVec.ofNat 64 (d (k + 1))), BitVec.ofNat 32 (d 7 / 2 ^ 32),
    BitVec.ofNat 3 (fieldOf (d 7) 29 3), BitVec.ofNat 2 (fieldOf (d 7) 27 2), BitVec.ofNat 9 (fieldOf (d 7) 18 9),
    BitVec.ofNat 18 (fieldOf (d 7) 0 18)⟩

/-- Reserved bits are not 0, or TBUD is above 256. -/
def descBad (d : TaskDesc) : Bool := decide (d.rsv ≠ 0) || decide (256 < d.tbud.toNat)

/-! ### A queue's fields (R368) -/

def Queue.exists_ (a : Queue) : Bool := fieldOf a.w0.toNat 63 1 == 1
def Queue.cls (a : Queue) : Nat := fieldOf a.w0.toNat 60 3
def Queue.keyed (a : Queue) : Bool := fieldOf a.w0.toNat 59 1 == 1
def Queue.cap (a : Queue) : Nat := 2 ^ fieldOf a.w0.toNat 51 4
def Queue.rbud (a : Queue) : Nat := fieldOf a.w0.toNat 16 16 * 2 ^ 16
/-- The virtual function of a queue, by its number 1 to 192 (R368, R407). -/
def Queue.func (a : Queue) : Nat := a.vf.toNat + 1
/-- Enqueuers recorded at a full queue. -/
def Queue.recorded (a : Queue) : Nat := (a.waiters.filter (fun w => decide (w.why = 0))).length

/-! ### The filter (R370) -/

/-- A partition's entry for a queue. -/
def filterKey (p q : Nat) : Nat := p * 4096 + q
/-- The filter consults an entry. -/
def State.filterOf (s : State) (p q : Nat) : BitVec 32 := Tab.get s.filters (filterKey p q) 0
/-- BURST of a filter entry. -/
def filterBurst (f : BitVec 32) : Nat := fieldOf f.toNat 16 8
/-- The level of a bucket now, in 1/65,536 of an enqueue. -/
def State.bucketLevel (s : State) (p q : Nat) : Nat :=
  let f := s.filterOf p q
  let b := Tab.get s.buckets (filterKey p q) (0, 0)
  min (filterBurst f * 65536) (b.1 + fieldOf f.toNat 0 16 * (s.time - b.2))
/-- The bucket brought up to now, less `n` enqueues. -/
def State.spend (s : State) (p q n : Nat) : State :=
  { s with buckets := Tab.set s.buckets (filterKey p q) (s.bucketLevel p q - n * 65536, s.time) }

/-- An enqueue from a partition is denied (R249, R370, R387). -/
def State.enqDenied (s : State) (p : Nat) (xq : Word) : Bool :=
  let a := s.queue xq.toNat
  decide (4095 < xq.toNat) || !a.exists_ || (Tab.get s.funcs a.func {}).resetting ||
  (decide (a.part ≠ p) && fieldOf (s.filterOf p xq.toNat).toNat 31 1 == 0)

/-- The filter has a rate for enqueues from a partition. -/
def State.rated (s : State) (p q : Nat) : Bool :=
  decide ((s.queue q).part ≠ p) && decide (filterBurst (s.filterOf p q) ≠ 0)

/-- The status of an attempt to enqueue `n` tasks from a partition, apart from denial: 0, 1 full, 2 over the rate. `ahead` are
the enqueuers that go first. -/
def State.enqStatus (s : State) (p q n ahead : Nat) : Nat :=
  if (s.queue q).cap < (s.queue q).tasks.length + ahead + n then 1
  else if s.rated p q && decide (s.bucketLevel p q < n * 65536) then 2
  else 0

/-! ### Enqueuing (R248, R251) -/

/-- A task enters a queue with the next id of the queue's partition. -/
def State.enqueueOne (s : State) (q : Nat) (d : TaskDesc) (idx : List Nat) (quads : Option (List Nat))
    (mate : Option (BitVec 32)) : State :=
  let p := (s.queue q).part
  let t : QTask := { id := (s.prt p).nextId, desc := d, idx := idx, quads := quads, mate := mate, at_ := s.time }
  (s.updQueue q (fun a => { a with tasks := a.tasks ++ [t] })).updPart p (fun a => { a with nextId := a.nextId + 1 })

/-- The filter's tokens for `n` enqueues are taken. -/
def State.charge (s : State) (p q n : Nat) : State := if s.rated p q then s.spend p q n else s

/-- One task without an index or a placement. -/
def State.enqueuePlain (s : State) (p q : Nat) (d : TaskDesc) : State :=
  (s.charge p q 1).enqueueOne q d [0, 0, 0, 0] none none

/-- The id that the next task of a queue receives. -/
def State.nextIdOf (s : State) (q : Nat) : BitVec 32 := (s.prt (s.queue q).part).nextId

/-- A parked TENQ completes: its enqueue is performed, and its hart goes on. -/
def State.enqueueWaiter (s : State) (q : Nat) (w : QWait) : State :=
  let t := s.updQueue q (fun a => { a with waiters := a.waiters.filter (fun x => x.hart != w.hart) })
  (t.enqueuePlain (s.partOf w.hart) q w.desc).updHart w.hart (fun a =>
    (w.takes.foldl (fun h r => h.presX (regNo r) .opened) a).advance 4)

/-- A waiter of a queue is kept under another reason. -/
def State.setWaiter (s : State) (q : Nat) (w : QWait) : State :=
  s.updQueue q (fun a => { a with waiters := a.waiters.filter (fun x => x.hart != w.hart) ++ [w] })

/-- The oldest recorded enqueuer of a queue takes a slot that is free (R371). -/
def State.serveQueue (s : State) (q : Nat) : State :=
  match (s.queue q).waiters.find? (fun w => decide (w.why = 0)) with
  | none => s
  | some w =>
    match s.enqStatus (s.partOf w.hart) q 1 0 with
    | 0 => s.enqueueWaiter q w
    | 1 => s
    | _ => s.setWaiter q { w with why := 2, since := s.time }

/-- A request of a TENQ reaches a queue that it cannot enter at once, or enters it (R371). -/
def State.tenqArrive (s : State) (q : Nat) (w : QWait) : State :=
  let n := (s.queue q).recorded
  match s.enqStatus (s.partOf w.hart) q 1 n with
  | 0 => s.enqueueWaiter q w
  | 1 => s.setWaiter q { w with why := if n < 64 then 0 else 1, since := s.time }
  | _ => s.setWaiter q { w with why := 2, since := s.time }

/-- A denied TENQ traps. -/
def State.denyWaiter (s : State) (q : Nat) (w : QWait) : State :=
  (s.updQueue q (fun a => { a with waiters := a.waiters.filter (fun x => x.hart != w.hart) })).updHart w.hart (fun a =>
    a.trap 31 (BitVec.ofNat 64 q) 0)

/-! ### TENQ and TENQT (R249) -/

/-- The 64-byte line at an address read by the hart at issue: misaligned 4, an uncorrectable error 5. -/
def State.readLine (s : State) (va base : Word) (go : List Byte → State → Res) : Res :=
  match s.alignedAccess s.cur va 64 .load 4 0 with
  | .error (.trap 4 _) => s.trap 4 base
  | .error st => s.stop st
  | .ok c => s.paths c 64
    (if s.badRange c.pa 64 && !isMmio c.pa then c.s.stop (.report 5 va 0 (.bad (s.unitOf (some (coreOf s.cur)) c.pa) c.pa))
     else
       let r := (c.s.updMe (fun a => a.sees c.pa 64)).readSpan c.key c.pa 64
       go r.1 (r.2.touch (coreOf s.cur) c.e c.pa false))

/-- The registers a TENQ takes. -/
def takesOf (l : List (Bool × Reg)) : List Nat := (l.filter (·.1)).map (fun x => x.2.toNat)

/-- The hart at issue takes registers. -/
def State.takeAll (s : State) (l : List Nat) : State := s.updMe (fun a => l.foldl (fun h r => h.presX (regNo r) .opened) a)

/-- A TENQ of the hart waits at a queue. -/
def State.enqWaiting (s : State) (q : Nat) : Bool := (s.queue q).waiters.any (fun w => w.hart == s.cur)

/-- Steps 1 to 4 of R249: the release, the queue, the descriptor, its fields. -/
def State.enqueueSteps (s : State) (a b : Reg) (dst : List Reg) (denied : Res) (go : TaskDesc → State → Res) : Res :=
  let xd := s.me.xv b
  s.guarded [s.me.ready (xs [a, b]) (xs dst), s.me.releaseWait]
    (if s.enqDenied (s.partOf s.cur) (s.me.xv a) then denied
     else (s.cleanCore (coreOf s.cur)).readLine xd xd (fun bytes t =>
       if descBad (descOf bytes) then t.trap 31 xd else go (descOf bytes) t))

/-- TENQ (R249): queue `a`, descriptor `b`; it parks while the queue is full or the filter's rate denies it. -/
def execTenq (u t : Bool) (b a : Reg) (s : State) : Res :=
  let xq := s.me.xv a
  if s.enqWaiting xq.toNat then .next s
  else
    s.enqueueSteps a b [] (s.trap 31 xq) (fun d r =>
      .next ((r.updMe (fun h => h.parkFor .tenq s.time s.clk)).tenqArrive xq.toNat
        { hart := s.cur, takes := takesOf [(t, a), (u, b)], desc := d, why := 0, since := s.time }))

/-- TENQT (R249): a late status, with the task id on success. -/
def execTenqt (u t : Bool) (b a d : Reg) (s : State) : Res :=
  let xq := s.me.xv a
  let q := xq.toNat
  let done (r : State) (v : Nat) : Res :=
    .next ((r.takeAll (takesOf [(t, a), (u, b)])).updMe (fun h => (h.owe ⟨.x, d, BitVec.ofNat 64 v, none, none⟩).advance 4))
  s.enqueueSteps a b [d] (done (s.cleanCore (coreOf s.cur)) 3) (fun desc r =>
    match r.enqStatus (s.partOf s.cur) q 1 (r.queue q).recorded with
    | 0 => done (r.enqueuePlain (s.partOf s.cur) q desc) ((r.nextIdOf q).toNat * 2 ^ 32)
    | st => done r st)

/-! ### KLAUNCH (R250, R251) -/

/-- A level entry: its kind and trip. -/
def levelOf (w : Nat) : Nat × Nat := (fieldOf w 30 2, fieldOf w 0 16)
/-- The most trips of a kind. -/
def tripMax (kind : Nat) : Nat :=
  match kind with
  | 0 => 65535
  | 1 => 32
  | 2 => 96
  | _ => 4

/-- A level entry breaks R250. -/
def levelBad (w : Nat) : Bool :=
  decide (fieldOf w 16 14 ≠ 0) || decide (tripMax (levelOf w).1 < (levelOf w).2) ||
  (decide ((levelOf w).2 = 0) && decide ((levelOf w).1 ≠ 0))

/-- The four levels of a launch. -/
def launchLevels (b : List Byte) : List Nat :=
  [leNat ((b.drop 72).take 4), leNat ((b.drop 76).take 4), leNat ((b.drop 80).take 4), leNat ((b.drop 84).take 4)]

/-- The 128 bytes of a launch break R250 or R248. -/
def launchBad (b : List Byte) : Bool :=
  let ls := launchLevels b
  descBad (descOf (b.take 64)) || decide (leNat ((b.drop 64).take 8) / 4096 ≠ 0) || (b.drop 88).any (fun x => decide (x ≠ 0)) ||
  ls.any levelBad || [1, 2, 3].any (fun k => decide (1 < (ls.filter (fun w => decide ((levelOf w).1 = k))).length))

/-- The trips of a spatial kind, if some level has it. -/
def launchTrip (ls : List Nat) (kind : Nat) : Option Nat := (ls.find? (fun w => decide ((levelOf w).1 = kind))).map (fun w => (levelOf w).2)

/-- The dies of some quads, rising. -/
def diesOf (l : List Nat) : List Nat := (l.map dieOfQuad).eraseDups

/-- One of a list, modulo its length. -/
def pickMod (l : List Nat) (k : Nat) : List Nat := (l[k % l.length]?).toList

/-- The quads that placement allows for indices of SD and SQ (R251); `qs` are the partition's quads, rising. -/
def launchQuads (qs : List Nat) (sd sq : Option Nat) : Option (List Nat) :=
  match sd, sq with
  | none, none => none
  | none, some k => some (pickMod qs k)
  | some d, none => some (qs.filter (fun q => (pickMod (diesOf qs) d).contains (dieOfQuad q)))
  | some d, some k => some (pickMod (qs.filter (fun q => (pickMod (diesOf qs) d).contains (dieOfQuad q))) k)

/-- Index registers x18 to x21 of one task. -/
def launchIdx (ls : List Nat) (sh sq sd : Nat) : List Nat :=
  ls.map (fun w => match (levelOf w).1 with
    | 0 => 0
    | 1 => sh
    | 2 => sq
    | _ => sd)

/-- The tasks of a launch enter a queue in linear order: SH fastest, then SQ, then SD. -/
def State.launch (s : State) (q : Nat) (d : TaskDesc) (ls : List Nat) : State :=
  let nh := (launchTrip ls 1).getD 1
  let nq := (launchTrip ls 2).getD 1
  let nd := (launchTrip ls 3).getD 1
  let qs := s.quadsOf (s.queue q).part
  let some_ (k v : Nat) : Option Nat := (launchTrip ls k).map (fun _ => v)
  (List.range (nh * nq * nd)).foldl (fun t n =>
    let h := n % nh
    let j := n / nh % nq
    let i := n / nh / nq
    t.enqueueOne q d (launchIdx ls h j i) (launchQuads qs (some_ 3 i) (some_ 2 j))
      ((launchTrip ls 1).map (fun _ => t.nextIdOf q - BitVec.ofNat 32 h))) s

/-- KLAUNCH (R251): descriptor `a`, late status `d`; all tasks or none. -/
def execKlaunch (t : Bool) (a d : Reg) (s : State) : Res :=
  let xk := s.me.xv a
  s.guarded [s.me.ready (xs [a]) (xs [d]), s.me.releaseWait]
    ((s.cleanCore (coreOf s.cur)).readLine xk xk (fun b0 s1 =>
      s1.readLine (xk + 64) xk (fun b1 s2 =>
        let b := b0 ++ b1
        let q := fieldOf (leNat ((b.drop 64).take 8)) 0 12
        let ls := launchLevels b
        let n := ((launchTrip ls 1).getD 1) * ((launchTrip ls 2).getD 1) * ((launchTrip ls 3).getD 1)
        let p := s.partOf s.cur
        let done (r : State) (v : Nat) : Res :=
          .next ((r.takeAll (takesOf [(t, a)])).updMe (fun h => (h.owe ⟨.x, d, BitVec.ofNat 64 v, none, none⟩).advance 4))
        if launchBad b then s2.trap 31 xk
        else if s2.enqDenied p (BitVec.ofNat 64 q) then done s2 3
        else match s2.enqStatus p q n (s2.queue q).recorded with
          | 0 => done ((s2.charge p q n).launch q (descOf b0) ls) ((s2.nextIdOf q).toNat * 2 ^ 32 + n * 256)
          | st => done s2 st)))

/-! ### TICKET (R254) -/

/-- TICKET: a strong atomic at device scope on ISSUE of the record at `a`. -/
def execTicket (t : Bool) (a d : Reg) (s : State) : Res :=
  let va := s.me.xv a
  s.guarded [s.me.ready (xs [a]) (xs [d])]
    (match s.alignedAccess s.cur va 64 .store 6 7 with
      | .error st => s.stop st
      | .ok c => s.paths c 4
        (let old := c.mem.readN c.pa 4
         let u := ((c.s.logRead c.pa 4).poke (some s.cur) c.key c.pa (leBytes 4 ((old + 1) % 2 ^ 32))).atomicAt (coreOf s.cur) c.e c.pa
         .next ((u.takeAll (takesOf [(t, a)])).updMe (fun h =>
           ((h.storedAt va c.pa 4).owe ⟨.x, d, BitVec.ofNat 64 old, s.markOf c.pa 4 va, none⟩).advance 4))))

/-! ### Steps of the queues' slices -/

/-- ENQUEUE_ARRIVE (R368, R371): the oldest enqueuer recorded at queue `q` takes a slot that has become free. -/
def execEnqueueArrive (s : State) : Res := .next (s.serveQueue s.ev.q)

/-- ENQUEUE_RETRY (R371): the `k`-th waiter of queue `q`, answered full with 64 enqueuers recorded, sends its request again
after 256 cycles. -/
def execEnqueueRetry (s : State) : Res :=
  match (s.queue s.ev.q).waiters[s.ev.k]? with
  | none => .next s
  | some w => if w.why = 1 ∧ w.since + 256 ≤ s.time then .next (s.tenqArrive s.ev.q w) else .next s

/-- FILTER_TOKEN_ACCRUE (R370): the bucket of partition `p` for queue `q` gains what has accrued; the oldest of its parked
enqueuers goes on when the rate allows. -/
def execFilterTokenAccrue (s : State) : Res :=
  let p := s.ev.p
  let q := s.ev.q
  if filterBurst (s.filterOf p q) = 0 then .next s
  else
    let t := s.spend p q 0
    match (t.queue q).waiters.find? (fun w => decide (w.why = 2) && decide (t.partOf w.hart = p)) with
    | none => .next t
    | some w => if t.bucketLevel p q < 65536 then .next t else .next (t.tenqArrive q w)

end Sys2Proof.Machine
end

