-- ==== Sys2Proof/Machine/Tasks.lean ====
section
/-!
DEFINITION. Scheduling (R372 to R377, R381): the choice of the next task, binding and the entry state (R12, R200, R259),
ageing, eviction, preloads, TYIELD (R253) and TEXIT (R252).
-/
namespace Sys2Proof.Machine

/-! ### Leaving a park (R175) -/

/-- The pop that parks a hart is withdrawn: its last vector command, or its last command of the matrix queue. -/
def State.withdrawPop (s : State) (h : Nat) : State :=
  let a := s.hart h
  let q := quadOf h
  match a.vq.getLast? with
  | some ⟨.pop f, _, _, _, _, _, _, _, _⟩ =>
    let alone := decide (a.vq.length = 1)
    (s.updHart h (fun a => { a with vq := a.vq.dropLast })).updQuad q (fun b =>
      if alone then { b with held := b.held.filter (fun x => decide (x.op ≠ .vpop (if f then .mv else .cv) h)) } else b)
  | _ =>
    let mine := (s.quad q).mq.filter (fun c => c.hart == h && !c.popped)
    match mine.getLast? with
    | none => s
    | some c =>
      let first := decide ((s.quad q).mq.head?.map (·.seq) = some c.seq) && decide ((s.quad q).mq.head?.map (·.hart) = some h)
      s.updQuad q (fun b => { b.withdrawM c with
        held := if first then b.held.filter (fun x => match x.op with
          | .mpop _ => false
          | _ => true) else b.held })

/-- A TALLOC that waits is undone (R57): its entry, granules and ways are given back. -/
def State.undoAlloc (s : State) (h : Nat) : State :=
  let q := quadOf h
  match (s.quad q).allocs.find? (fun x => x.hart == h) with
  | none => s
  | some x =>
    (s.updQuad q (fun a =>
      let e := Tab.get a.tiles x.handle {}
      let b := { a with
        allocs := a.allocs.filter (fun y => y.hart != h), tiles := Tab.set a.tiles x.handle { e with v := false } }
      if e.sp then b.releaseWays else b.releaseBanks s.time (runBanks e.fgr e.ngr))).updHart h (fun a => { a with park := none })

/-- A parked instruction has no effect: what it had sent is withdrawn, its destinations are as they were, a TALLOC is undone (R57,
R174, R175, R289, R293, R371). -/
def State.withdraw (s : State) (h : Nat) : State :=
  let t := if (s.hart h).park = some .pop then s.withdrawPop h else if (s.hart h).park = some .talloc then s.undoAlloc h else s
  let u := { t with
    greqs := t.greqs.filter (fun r => !(r.hart == h && !r.accepted))
    shoots := t.shoots.map (fun (x : Shootdown) => if x.hart = some h then { x with hart := none } else x)
    rwrites := t.rwrites.filter (fun w => w.wake || w.src != h)
    waiters := t.waiters.filter (fun w => w.hart != h)
    queues := t.queues.map (fun (q : Nat × Queue) => (q.1, { q.2 with waiters := q.2.waiters.filter (fun w => w.hart != h) })) }
  u.updHart h (fun a => { a.unclaim with park := none })

/-- What an interruptible park waits for has occurred: the instruction completes at its next turn, before an interrupt (R175). Parks
that another agent ends have ended when their event occurs. -/
def State.parkOver (s : State) (h : Nat) : Bool :=
  let a := s.hart h
  let q := s.quad (quadOf h)
  match a.park with
  | some (.empty fl r _) => decide ((a.cond fl r).1 = .present)
  | some .vqFull => decide (a.vq.length < 8)
  | some .mqFull => decide ((q.mq.filter (fun c => c.hart == h)).length < 8) && decide (q.mq.length < 32)
  | some .cqFull => decide (q.cq.length < 32)
  | some (.sbwait m) => !a.tokensBusy m
  | some (.tokenFull k) => decide (a.sb.toList.getD k 0 < 255)
  | some .vfence => !s.vworks h
  | some (.blend pa ticket) => decide (s.commitAt pa = ticket)
  | _ => false

/-! ### Classes (R374, R377) -/

/-- The lower of a task's class and its queue's. -/
def Queue.base (a : Queue) (t : QTask) : Nat := min t.desc.cls.toNat a.cls
/-- The effective class of a ready task. -/
def Queue.eff (a : Queue) (t : QTask) : Nat := if a.base t < 6 then min 6 (a.base t + t.aged) else a.base t
/-- A ready task that is urgent. -/
def Queue.urgent (a : Queue) (t : QTask) : Bool := decide (a.base t < 6) && decide (7 ≤ t.aged)

/-- TASK_AGEING (R377): the `k`-th task of queue `q` has waited for one more 2^18 cycles. -/
def execTaskAgeing (s : State) : Res :=
  let a := s.queue s.ev.q
  match a.tasks[s.ev.k]? with
  | none => .next s
  | some t =>
    if a.base t < 6 ∧ t.aged < 7 ∧ t.at_ + (t.aged + 1) * 2 ^ 18 ≤ s.time then
      .next (s.updQueue s.ev.q (fun b => { b with tasks := b.tasks.set s.ev.k { t with aged := t.aged + 1 } }))
    else .next s

/-! ### Which task a queue offers (R372) -/

/-- The bin of a task. -/
def QTask.bin (t : QTask) : Nat := t.desc.key.toNat / 65536
/-- A task's id counted from the oldest waiting one. -/
def Queue.rel (a : Queue) (t : QTask) : Nat :=
  match a.tasks with
  | [] => 0
  | o :: _ => (t.id - o.id).toNat
/-- The task is its bin's head: the lowest KEY[15:0], then the lowest id. -/
def Queue.binHead (a : Queue) (t : QTask) : Bool :=
  a.tasks.all (fun u => decide (u.bin ≠ t.bin) ||
    decide ((t.desc.key.toNat % 65536) * 2 ^ 32 + a.rel t ≤ (u.desc.key.toNat % 65536) * 2 ^ 32 + a.rel u))
/-- The task that a queue offers: the first of a FIFO queue (R368), of a keyed one the bin head with the lowest id. -/
def Queue.offered (a : Queue) : Option QTask :=
  if a.keyed then
    let hs := a.tasks.filter a.binHead
    hs.find? (fun t => hs.all (fun u => decide (a.rel t ≤ a.rel u)))
  else a.tasks.head?

/-! ### Which quads fit (R369, R373, R374) -/

/-- The quads that a queue's affinity set admits. -/
def State.admitted (s : State) (a : Queue) : List Nat :=
  (s.quadsOf a.part).filter (s.admits a)
/-- The quad of a bin under the tile map. -/
def binQuad (adm : List Nat) (b : Nat) : List Nat :=
  let ds := diesOf adm
  let on := adm.filter (fun q => (pickMod ds b).contains (dieOfQuad q))
  pickMod on (b / ds.length)
/-- The quads where a task of a queue may be bound, apart from room. -/
def State.allowed (s : State) (a : Queue) (t : QTask) : List Nat :=
  let adm := s.admitted a
  let l := if a.keyed then binQuad adm t.bin else adm
  let l := match t.quads with
    | none => l
    | some k => l.filter (fun q => k.contains q)
  match t.mate with
  | none => l
  | some m => match a.placed.find? (fun p => p.1 == m) with
    | none => l
    | some p => l.filter (fun q => q == p.2)

/-- The slots of a quad. -/
def slotsOf (q : Nat) : List Nat := span (32 * q) 32
/-- Tasks that occupy a slot: bound, yielded, preloaded. -/
def State.slotLoad (s : State) (h : Nat) : Nat :=
  bitNat (s.hart h).task.isSome + (s.yielded.filter (fun y => y.slot == h)).length +
  ((s.die (dieOf h)).preload.filter (fun p => p.hart == h)).length
/-- The free slots of a quad. -/
def State.freeSlots (s : State) (q : Nat) : List Nat := (slotsOf q).filter (fun h => decide (s.slotLoad h = 0))

/-- TBUD of the bound tasks of a quad. -/
def State.boundTbud (s : State) (q : Nat) (f : Task → Bool) : Nat :=
  (slotsOf q).foldl (fun n h => match (s.hart h).task with
    | none => n
    | some t => if f t then n + t.tbud else n) 0
/-- TBUD of the yielded tasks of a quad. -/
def State.yieldedTbud (s : State) (q : Nat) : Nat :=
  s.yielded.foldl (fun n y => match y.hart.task with
    | none => n
    | some t => if quadOf y.slot = q then n + t.tbud else n) 0
/-- TBUD of the preloaded tasks of a quad. -/
def State.preloadTbud (s : State) (q : Nat) : Nat :=
  (s.die (dieOfQuad q)).preload.foldl (fun n p =>
    if quadOf p.hart = q then
      n + (((s.queue p.queue).tasks.find? (fun t => t.id == p.id)).map (fun t => t.desc.tbud.toNat)).getD 0
    else n) 0
/-- The task of a slot is bound or yielded. -/
def State.alive (s : State) (h : Nat) (task : BitVec 32) : Bool :=
  (s.hart h).runs task || s.yielded.any (fun y => y.slot == h && y.hart.runs task)
/-- Granules of `.keep` tiles whose task is gone. -/
def State.keptGranules (s : State) (q : Nat) : Nat :=
  (s.quad q).tiles.foldl (fun n e => if e.2.v && e.2.keep && !s.alive e.2.hart e.2.task then n + e.2.ngr else n) 0
/-- A, the available granules of a quad. -/
def State.available (s : State) (q : Nat) : Nat :=
  256 - (s.boundTbud q (fun _ => true) + s.yieldedTbud q + s.preloadTbud q + s.keptGranules q)

/-- A quad has room for a task of an effective class and budget, in a given slot or in a free one; the class 7 reservation
stays for tasks below class 7 (R374). -/
def State.hasRoom (s : State) (q eff tbud : Nat) (slot : Option Nat) : Bool :=
  let free := (s.freeSlots q).length
  let after := match slot with
    | none => free - 1
    | some h => if s.slotLoad h = 0 then free - 1 else free
  let a := s.available q
  let u7 := ((slotsOf q).filter (fun h => match (s.hart h).task with
    | none => false
    | some t => decide (t.cls = 7))).length
  let g7 := s.boundTbud q (fun t => decide (t.cls = 7))
  (slot.isSome || decide (0 < free)) && decide (tbud ≤ a) &&
  (decide (7 ≤ eff) || (decide (min (s.quad q).rslot 32 - u7 ≤ after) && decide (min (s.quad q).rgran 256 - g7 ≤ a - tbud)))

/-- The task bound in a core's slots, the yielded and the preloaded ones. -/
def State.coreLoad (s : State) (c : Nat) : Nat := (span (8 * c) 8).foldl (fun n h => n + s.slotLoad h) 0

/-- The state without a task's own preload. -/
def State.unpreload (s : State) (d q : Nat) (id : BitVec 32) : State :=
  s.updDie d (fun a => { a with preload := a.preload.filter (fun p => !(p.queue == q && p.id == id)) })

/-- The slot for a task of a queue on a die (R376): a given slot, or the quad with the most free slots and there the core with the
fewest tasks. The task's own preload takes no slot from it. -/
def State.place (s : State) (d qn : Nat) (t : QTask) (only : Option Nat) : Option Nat :=
  let a := s.queue qn
  let u := s.unpreload d qn t.id
  let on := (u.allowed a t).filter (fun q => decide (dieOfQuad q = d))
  let fits (q : Nat) (slot : Option Nat) : Bool := on.contains q && u.hasRoom q (a.eff t) t.desc.tbud.toNat slot
  match only with
  | some h => if fits (quadOf h) (some h) then some h else none
  | none => match leastCost (fun q => 32 - (u.freeSlots q).length) (on.filter (fun q => fits q none)) with
    | none => none
    | some q => leastCost (fun h => u.coreLoad (h / 8)) (u.freeSlots q)

/-! ### The choice (R376) -/

/-- A task chosen for a slot. -/
structure Choice where
  queue : Nat
  task : QTask
  slot : Nat
deriving DecidableEq, Repr

/-- Distance of a queue from the one last chosen at a class. -/
def State.turnsAway (s : State) (d eff q : Nat) : Nat := (q + 4095 - Tab.get (s.die d).rr eff 4095) % 4096

/-- The place of a queue's offered task in the scheduler's order. -/
def State.orderKey (s : State) (d : Nat) (a : Queue) (q : Nat) (t : QTask) : Nat :=
  if a.eff t = 7 then s.turnsAway d 7 q
  else if a.urgent t then 2 ^ 40 + t.id.toNat
  else 2 ^ 41 + (7 - a.eff t) * 4096 + s.turnsAway d (a.eff t) q

/-- The offered tasks with a slot on a die, in queue order. -/
def State.candidates (s : State) (d : Nat) (only : Option Nat) (minEff : Nat) : List Choice :=
  s.queues.filterMap (fun e =>
    if !e.2.exists_ || (s.prt e.2.part).stopped then none
    else match e.2.offered with
      | none => none
      | some t =>
        if e.2.eff t < minEff then none
        else (s.place d e.1 t only).map (fun h => ⟨e.1, t, h⟩))

/-- The task that a die's scheduler takes next, for any slot or a given one. -/
def State.choose (s : State) (d : Nat) (only : Option Nat) (minEff : Nat) : Option Choice :=
  let cs := s.candidates d only minEff
  cs.find? (fun c => cs.all (fun e =>
    decide (s.orderKey d (s.queue c.queue) c.queue c.task ≤ s.orderKey d (s.queue e.queue) e.queue e.task)))

/-! ### Binding (R12, R200, R248, R259, R376) -/

/-- A slot without a task keeps its supervisor's CSRs. -/
def Hart.vacant (a : Hart) : Hart := { csr := a.csr, seq := a.seq }

/-- The entry state of a task. -/
def Hart.entry (a : Hart) (t : QTask) (task : Task) : Hart :=
  let b := { a.vacant with pc := t.desc.pc &&& 0xFFFFFFFFFFFFFFFE#64, task := some task }
  let b := (t.desc.args.zipIdx).foldl (fun h x => h.setX (regNo (10 + x.2)) x.1) b
  let b := (b.setX 16 (t.id.setWidth 64)).setX 17 (t.desc.key.setWidth 64)
  (t.idx.zipIdx).foldl (fun h x => h.setX (regNo (18 + x.2)) (BitVec.ofNat 64 x.1)) b

/-- Registers of a vector allocation code. -/
def allocOf (v : BitVec 2) : Nat := 8 * (v.toNat + 1)

/-- A preload is discarded: its woken banks follow R44 as if freed. -/
def State.discard (s : State) (p : Preload) : State :=
  let t := s.updDie (dieOf p.hart) (fun a => { a with preload := a.preload.filter (fun x => decide (x ≠ p)) })
  match p.run with
  | none => t
  | some (g, n) => t.updQuad (quadOf p.hart) (fun a => a.releaseBanks s.time (runBanks g n))

/-- The preload of a slot is discarded, if it has one. -/
def State.discardSlot (s : State) (h : Nat) : State :=
  match (s.die (dieOf h)).preload.find? (fun p => p.hart == h) with
  | none => s
  | some p => s.discard p

/-- A queue without a task that has left it, with the quad of its SH set. -/
def Queue.leave (a : Queue) (t : QTask) (q : Nat) : Queue :=
  let rest := a.tasks.filter (fun u => u.id != t.id)
  let placed := match t.mate with
    | none => a.placed
    | some m =>
      if rest.any (fun u => u.mate == some m) then
        (if a.placed.any (fun p => p.1 == m) then a.placed else a.placed ++ [(m, q)])
      else a.placed.filter (fun p => p.1 != m)
  { a with tasks := rest, placed := placed }

/-! ### WARMPC (R376) -/

/-- What a fetch of a task's code by a hart's supervisor context asks: in U mode, for a quad, or for the hart's core. -/
def State.codeReq (s : State) (h q : Nat) (core : Option Nat) : Req := { s.reqOf h with mode := .u, mxr := false, core := core, quad := q }

/-- The quads that keep a queue's WARMPC: those of its affinity set with RSLOT ≠ 0. -/
def State.warmQuads (s : State) (a : Queue) : List Nat := (s.admitted a).filter (fun q => decide ((s.quad q).rslot ≠ 0))

/-- The parts of the first 256 bytes at an address, by page. -/
def warmParts (pc : Word) : List (Word × Nat) :=
  let n := min 256 (4096 - pc.toNat % 4096)
  if n = 256 then [(pc, 256)] else [(pc, n), (pc + BitVec.ofNat 64 n, 256 - n)]

/-- One part of what a queue keeps for WARMPC: its translation in the context of hart `h`, and its lines, brought to quad `q`. -/
def State.warmPart (s : State) (qn h q : Nat) (x : Word × Nat) : State :=
  match s.translate (s.codeReq h q none) x.1 .fetch with
  | .ok e pa t =>
    if isMmio pa then t
    else
      let ls := linesOf pa x.2
      (t.reach q false (ls.map (fun l => (l, treatOf e.mt 0, e.replica)))).updQueue qn (fun b => { b with warm := b.warm ++ [(e, ls)] })
  | _ => s

/-- What queues keep for WARMPC is made where a quad is to keep it and nothing is kept: at the bind of a class 7 task, later when RSLOT
or the affinity set changes or the translation has been invalidated (R376). -/
def State.keepWarm (s : State) : State :=
  s.queues.foldl (fun t e => match e.2.warmCtx, t.warmQuads e.2 with
    | some h, q :: _ => if e.2.warm = [] then (warmParts e.2.warmpc).foldl (fun u x => u.warmPart e.1 h q x) t else t
    | _, _ => t) s

/-- A class 7 task's PC is written into its queue's WARMPC; what was kept for a former one is not kept any more. -/
def State.setWarm (s : State) (qn h : Nat) (pc : Word) : State :=
  s.updQueue qn (fun b => { b with warmpc := pc, warmCtx := some h, warm := if b.warmpc = pc then b.warm else [] })

/-- A chosen task is bound: it leaves its queue, whose oldest enqueuer takes its place; its hart has its entry state; its
quad is active (R399), the quad's phase is computed again (R52), and its operating point follows its votes (R389). -/
def State.bindTask (s : State) (d : Nat) (c : Choice) : State :=
  let a := s.queue c.queue
  let e := a.eff c.task
  let task : Task := {
    id := c.task.id, key := c.task.desc.key, cls := a.base c.task, queue := c.queue, alloc := allocOf c.task.desc.vrg
    tbud := c.task.desc.tbud.toNat, entry := c.task.desc.pc, boundAt := s.time, urgent := a.urgent c.task }
  let pre := (s.die d).preload.find? (fun p => p.queue == c.queue && p.id == c.task.id)
  let t := match pre with
    | none => s
    | some p => if p.hart = c.slot then s.unpreload d c.queue c.task.id else s.discard p
  let t := t.updQueue c.queue (fun b => b.leave c.task (quadOf c.slot))
  let t := if e = 7 then t.setWarm c.queue c.slot c.task.desc.pc else t
  let t := t.updDie d (fun b => { b with bindAt := s.time + 8, rr := Tab.set b.rr e c.queue })
  let t := t.updHart c.slot (fun b => b.entry c.task task)
  let t := t.raiseIdle (quadOf c.slot) 0
  ((t.lowerPhase (quadOf c.slot)).repoint (quadOf c.slot)).serveQueue c.queue

/-- The task that the scheduler would choose for a slot if its task had gone. -/
def State.pickFor (s : State) (h : Nat) : Option Choice :=
  let t := (s.updHart h (fun a => { a with task := none })).updDie (dieOf h) (fun a => { a with
    preload := a.preload.filter (fun p => p.hart != h) })
  t.choose (dieOf h) (some h) 0

/-- A preload for which the scheduler would now choose another task. -/
def State.stale (s : State) (p : Preload) : Bool :=
  match s.pickFor p.hart with
  | none => true
  | some c => !(c.queue == p.queue && c.task.id == p.id)

/-- Stale preloads of a die are discarded. -/
def State.dropStale (s : State) (d : Nat) : State :=
  ((s.die d).preload.filter s.stale).foldl (fun t p => t.discard p) s

/-- An urgent task that a queue offers has found no free fitting slot since a time (R377). -/
def State.noteFit (s : State) (q : Nat) : State :=
  let a := s.queue q
  match a.offered with
  | none => s
  | some t =>
    let n := if !a.urgent t || (List.range Config.dies).any (fun d => (s.place d q t none).isSome) then none
      else some (t.nofit.getD s.time)
    if n = t.nofit then s
    else s.updQueue q (fun b => { b with tasks := b.tasks.map (fun x => if x.id = t.id then { x with nofit := n } else x) })

/-- TASK_BIND (R376): die `p`'s scheduler binds the task it takes next, at most one every 8 cycles. -/
def execTaskBind (s₀ : State) : Res :=
  let s := s₀.queues.foldl (fun t e => if e.2.exists_ && !(t.prt e.2.part).stopped then t.noteFit e.1 else t) s₀
  let d := s.ev.p
  if s.time < (s.die d).bindAt then .next s
  else
    let t := s.dropStale d
    match t.choose d none 0 with
    | none => .next t
    | some c => .next (t.bindTask d c)

/-! ### Preloads (R381) -/

/-- A bound task has run past its queue's budget. -/
def State.overBudget (s : State) (h : Nat) : Bool :=
  match (s.hart h).task with
  | none => false
  | some t => decide ((s.queue t.queue).rbud ≠ 0) && decide (t.boundAt + (s.queue t.queue).rbud < s.time)

/-- The first lines of a task's code are fetched for the core of a slot: 256 bytes in their page, none that would wait or fault. -/
def State.fetchAhead (s : State) (h : Nat) (pc : Word) : State :=
  match s.translate (s.codeReq h (quadOf h) (some (coreOf h))) pc .fetch with
  | .ok e pa t =>
    if e.mt ≠ .normal ∨ ¬ t.cacheable pa ∨ isHost pa then t
    else (linesOf pa (min 256 (4096 - pa % 4096))).foldl (fun u l =>
      if u.badLine l || (u.core (coreOf h)).l1i.any (fun x => x.1 == l) || u.sliceBusy (quadOf h) (64 * l) false e.replica then u else u.fillL1i (coreOf h) e (64 * l)) t
  | _ => s

/-- TASK_PRELOAD (R381): the task the scheduler would choose next for slot `h`, whose task is expected to retire: its first code
lines are fetched, and the banks of a run of TBUD granules begin to wake. -/
def execTaskPreload (s : State) : Res :=
  let h := s.ev.h
  let d := dieOf h
  if (s.hart h).task.isNone || decide (s.slotLoad h ≠ 1) || s.overBudget h then .next s
  else match s.pickFor h with
    | none => .next s
    | some c =>
      if (s.die d).preload.any (fun p => p.queue == c.queue && p.id == c.task.id) then .next s
      else
        let n := c.task.desc.tbud.toNat
        let q := s.quad (quadOf h)
        let run := if n = 0 then none else (q.pickRun s.time false n).map (fun g => (g, n))
        let t := (s.fetchAhead h c.task.desc.pc).updDie d (fun a => { a with preload := a.preload ++ [⟨c.queue, c.task.id, h, run⟩] })
        match run with
        | none => .next t
        | some (g, n) => .next (t.updQuad (quadOf h) (fun a => a.wakeRun s.time g n))

/-- RUN_BUDGET_EXCEEDED (R381): the task of slot `h` has run past RBUD: the preload made for the slot is discarded. -/
def execRunBudgetExceeded (s : State) : Res :=
  if s.overBudget s.ev.h then .next (s.discardSlot s.ev.h) else .next s

/-! ### Saving a task, and resuming it (R189, R253, R383) -/

/-- A vector register as it is saved: the bytes below HWB of a dirty register, else 0. -/
def Hart.savedVal (a : Hart) (n : Nat) (v : BitVec 1024) : BitVec 1024 :=
  if a.dirty.getLsbD n then v &&& BitVec.ofNat 1024 (2 ^ (8 * min a.hwb.toNat 128) - 1) else 0

/-- A hart as it is saved: its late results land, its vector registers keep their saved bytes, its reservation and its
slide buffer are lost (R167, R266). -/
def Hart.saved (a : Hart) : Hart :=
  let b := { a.late.foldl Hart.land a with late := [], resv := none, slide := none }
  { b with v := Vector.ofFn (fun (k : Fin 32) => { b.v[k] with val := b.savedVal k.val b.v[k].val }) }

/-- A task's accepted group requests are not filled yet (R95). -/
def State.fillsDue (s : State) (h : Nat) : Bool :=
  s.greqs.any (fun r => r.hart == h && r.accepted) || s.fills.any (fun f => f.req.hart == h && !f.landed)

/-- The task of a slot is saved, and the slot is vacant. -/
def State.saveTask (s : State) (h : Nat) : State :=
  let q := quadOf h
  let mine (c : MCmd) : Bool := c.hart == h && !c.popped
  let y : Yielded := ⟨h, (s.hart h).saved, (s.quad q).mq.filter mine⟩
  let first := ((s.quad q).mq.head?.map mine).getD false
  let t := s.updQuad q (fun a => { a with
    mq := a.mq.filter (fun c => !mine c)
    held := if first then a.held.filter (fun x => match x.op with
      | .mpop _ => false
      | _ => true) else a.held })
  State.updHart { t with yielded := t.yielded ++ [y] } h Hart.vacant

/-- The slot of a hart is free: a task that yielded or was evicted there resumes (R253), the first to have gone first. -/
def State.resumeSlot (s : State) (h : Nat) : State :=
  match s.yielded.find? (fun y => y.slot == h) with
  | none => s
  | some y =>
    let t := { s with yielded := s.yielded.erase y }
    let u := t.setHart h { y.hart with
      csr := { y.hart.csr with ssip := y.hart.csr.ssip || (s.hart h).csr.ssip }, since := s.time, sinceQ := s.clockOf (quadOf h), resuming := true }
    (u.updQuad (quadOf h) (fun a => { a with mq := a.mq ++ y.mq })).lowerPhase (quadOf h)

/-- A task leaves its slot for good; the quad's operating point follows the votes that are left (R389). -/
def State.freeSlot (s : State) (h : Nat) : State := ((s.updHart h Hart.vacant).resumeSlot h).repoint (quadOf h)

/-- TYIELD (R253): it waits as VFENCE does and for accepted group requests; a ready task of at least this effective class that
fits takes the slot, else it does nothing. -/
def execTyield (s : State) : Res :=
  let h := s.cur
  let d := dieOf h
  s.guarded [parkIf (s.vworks h) .vfence, parkIf (s.fillsDue h || decide (s.time < (s.die d).bindAt)) .transfers]
    (match s.me.task with
      | none => .next (s.advance 4)
      | some k =>
        let t := (s.advance 4).saveTask h
        match t.choose d (some h) k.cls with
        | none => .next (s.advance 4)
        | some c => .next (t.bindTask d c))

/-! ### TEXIT (R55, R84, R252) -/

/-- The tiles of a task in its quad that it did not allocate `.keep`, by handle number. -/
def State.ownTiles (s : State) (h : Nat) (task : BitVec 32) : List Nat :=
  ((s.quad (quadOf h)).tiles.filter (fun e => e.2.v && !e.2.keep && e.2.hart == h && e.2.task == task)).map (·.1)

/-- Transfers of the hart still name one of its task's tiles. -/
def State.tilesBusy (s : State) (h : Nat) (task : BitVec 32) : Bool :=
  (s.quad (quadOf h)).tiles.any (fun e => e.2.v && e.2.hart == h && e.2.task == task &&
    s.tileBusy h (handleWord (quadOf h) e.1 e.2.gen.toNat))

/-- The tiles of a task are freed, and it leaves its groups. -/
def State.leaveAll (s : State) (h : Nat) (task : BitVec 32) : State :=
  ((s.ownTiles h task).foldl (fun t k => t.freeTile (quadOf h) k) s).leaveGroups h task

/-- TEXIT (R252). -/
def execTexit (s : State) : Res :=
  let h := s.cur
  s.reporting (s.me.due false true true)
    (s.guarded [parkIf (s.vworks h) .vfence]
      (s.reporting (s.me.due true false false)
        (match s.me.task with
          | none => .next (s.advance 4)
          | some k =>
            s.guarded [s.me.releaseWait, parkIf (s.tilesBusy h k.id) .transfers]
              (.next (((s.cleanCore (coreOf h)).leaveAll h k.id).freeSlot h)))))

/-! ### Eviction (R377) -/

/-- What the slot of a task would be if that task were saved. -/
def State.placeAfter (s : State) (q : Nat) (t : QTask) (h : Nat) : Bool :=
  ((s.saveTask h).place (dieOf h) q t (some h)).isSome

/-- The victim of an urgent task: a bound task of its partition below class 6 and not urgent, in a quad that would then fit;
the lowest class, then the highest id. -/
def State.victim (s : State) (q : Nat) (t : QTask) : Option Nat :=
  let may (h : Nat) : Bool := match (s.hart h).task with
    | none => false
    | some k => decide (k.cls < 6) && !k.urgent && s.placeAfter q t h
  let cost (h : Nat) : Nat := match (s.hart h).task with
    | none => 0
    | some k => k.cls * 2 ^ 32 + (2 ^ 32 - 1 - k.id.toNat)
  leastCost cost (((s.allowed (s.queue q) t).flatMap slotsOf).filter may)

/-- The hart can be saved where it stands: at a boundary, in WFI, or in a TALLOC, which is undone (R189). -/
def Hart.canLeave (a : Hart) : Bool := a.atBoundary || decide (a.park = some .wfi) || decide (a.park = some .talloc)

/-- URGENT_EVICT (R377): the task offered by queue `q` has been urgent without a free fitting slot for 2^17 cycles: its victim is
saved, once it can leave and its group requests are filled, and the urgent task takes its slot at a bind time of the die. -/
def execUrgentEvict (s : State) : Res :=
  let q := s.ev.q
  let a := s.queue q
  match a.offered with
  | none => .next s
  | some t =>
    if !a.exists_ || (s.prt a.part).stopped then .next s
    else
      let s := s.noteFit q
      let waited := match ((s.queue q).tasks.find? (fun x => x.id == t.id)).bind (·.nofit) with
        | none => false
        | some since => decide (since + 2 ^ 17 ≤ s.time)
      match if waited then s.victim q t else none with
      | none => .next s
      | some h =>
        if (s.hart h).canLeave && !s.fillsDue h && decide ((s.die (dieOf h)).bindAt ≤ s.time) then
          .next (((s.withdraw h).saveTask h).bindTask (dieOf h) ⟨q, t, h⟩)
        else .next s

end Sys2Proof.Machine
end

