-- ==== Sys2Proof/Machine/Retire.lean ====
section
/-!
DEFINITION. Failed work (R385, R386), a virtual function's reset (R387, R415), and stopping, resuming and moving partitions
(R43, R57, R143, R165, R189, R336, R382, R383).
-/
namespace Sys2Proof.Machine

/-! ### Failure records (R385) -/

/-- The number under which a queue's record is written. -/
def recordWho (q : Nat) : Nat := 32768 + q

/-- The four words of a record. -/
def recordWords (q : Nat) (task key : BitVec 32) (cause stat : Nat) (pc tval : Word) : List Word :=
  [BitVec.ofNat 64 (task.toNat * 2 ^ 32 + cause % 256 * 256 + stat), pc, tval, BitVec.ofNat 64 (key.toNat * 2 ^ 32 + q)]

/-- The record goes to Chinook's log, and FROVF is set. -/
def State.logRecord (s : State) (q : Nat) (ws : List Word) : State :=
  (s.emit (.chinookLog (ws.getD 0 0) (ws.getD 1 0) (ws.getD 2 0) (ws.getD 3 0))).updQueue q (fun a => { a with
    frovf := true, pmiss := none, denied := false })

/-- A write of a record waits: a partition-stage miss is sent once (R18). -/
def State.recordWait (s : State) (q : Nat) (rq : Req) (e : EAcc) : State :=
  match e with
  | .miss _ =>
    if (s.queue q).pmiss.isSome then s
    else (s.engineWait (recordWho q) rq e).updQueue q (fun a => { a with pmiss := some s.time })
  | _ => s.engineWait (recordWho q) rq e

/-- A record written to a queue's ring by accesses of a request, or logged where its write faults; `false` while it waits for the
host, a flip or Chinook's answer. -/
def State.failRecord (s : State) (q : Nat) (rq : Req) (ws : List Word) : Bool × State :=
  let a := s.queue q
  let n := 2 ^ min a.lfr.toNat 12
  let task := (ws.getD 0 0).toNat / 2 ^ 32
  let va := a.frbase + BitVec.ofNat 64 (32 * (a.frhead.toNat % n))
  if a.lfr = 0 ∨ n ≤ (a.frhead - a.frtail).toNat then (true, s.logRecord q ws)
  else match s.engineParts (recordWho q) rq .store 0 7 a.denied [(va, 32)] with
    | .ok (.mem [p]) u =>
      if isMmio p.pa then (true, s.logRecord q ws)
      else
        let t := (u.bypass rq.quad p.pa true p.tr p.stamp).poke none p.key p.pa (ws.flatMap (fun w => leBytes 8 w.toNat))
        (true, State.updQueue { t with bisnps := t.bisnps.filter (fun b => b.who != recordWho q) } q
          (fun b => { b with frhead := b.frhead + 1, pmiss := none, denied := false }))
    | .ok _ _ => (true, s.logRecord q ws)
    | .fail c w y => (true, (s.tellEngine rq.quad rq.part task c w y).logRecord q ws)
    | .wait e => (false, s.recordWait q rq e)

/-- The supervisor's requests of a hart's record in a slot of a partition, as agent `who`. -/
def Hart.superReq (a : Hart) (part h who : Nat) : Req :=
  { part := part, asid := fieldOf a.csr.satp.toNat 44 16, mode := .s, mxr := false, core := none, quad := quadOf h
    root := fieldOf a.csr.satp.toNat 0 36 * 4096, who := who }

/-! ### Retiring as failed (R386) -/

/-- The unstarted commands of a hart's task are discarded (R386), with what they hold at a FIFO. -/
def State.discardWork (s : State) (h : Nat) : State :=
  let q := quadOf h
  let mine (c : MCmd) : Bool := c.hart == h && !c.popped
  let first := ((s.quad q).mq.head?.map mine).getD false
  let gone (x : Held) : Bool := match x.op with
    | .vpush _ k => k == h
    | .vpop _ k => k == h
    | .mpop _ => first
    | _ => false
  (s.updHart h (fun a => { a with vq := [] })).updQuad q (fun a =>
    { (a.mq.filter mine).reverse.foldl Quad.withdrawM a with held := a.held.filter (fun x => !gone x) })

/-- A started command of a hart still runs. -/
def State.startedWork (s : State) (h : Nat) : Bool := (s.quad (quadOf h)).mq.any (fun c => c.hart == h)

/-- The store errors of a hart's record that are still pending at the release of R386 are logged. -/
def State.logStoreErrors (s : State) (h : Nat) (a : Hart) : State :=
  a.deferred.foldl (fun t d => match d with
    | .store l _ => t.logError (quadOf h) ⟨0, 7, l * 64, a.taskId, h⟩
    | _ => t) s

/-- What a retired task left under way before it was accepted or locked goes. -/
def State.dropRequests (s : State) (h : Nat) : State :=
  { s with greqs := s.greqs.filter (fun r => !(r.hart == h && !r.accepted)) }

/-- A task retired as failed (R386), step by step: its unstarted commands go; once the started ones and the transfers of its
tiles have ended, the fence is performed, its tiles are freed and it leaves its groups; the record is written and the slot frees. -/
def State.retireFailed (s : State) (h stat cause : Nat) (pc tval : Word) : State :=
  match (s.hart h).task with
  | none => s
  | some k =>
    let t := (s.discardWork h).discardSlot h
    if t.startedWork h || t.tilesBusy h k.id then t
    else
      let u := ((t.cleanCore (coreOf h)).logStoreErrors h (t.hart h)).updHart h (fun a => { a with deferred := [] })
      let v := (u.dropRequests h).leaveAll h k.id
      let rq := (v.hart h).superReq (v.partOf h) h (recordWho k.queue)
      let r := v.failRecord k.queue rq (recordWords k.queue k.id k.key cause stat pc tval)
      if r.1 then r.2.freeSlot h else r.2

/-- RETIRE_CALL (R386, R408): hart `h` is parked in the call RETIRE, or its handler could not be fetched (R184). -/
def execRetireCall (s : State) : Res :=
  let h := s.ev.h
  let a := s.hart h
  match a.park with
  | some .chinook =>
    if a.xv 17 = 0 then .next (s.retireFailed h 1 ((a.xv 10).toNat % 256) a.csr.sepc a.csr.stval) else .next s
  | some (.dying c pc v) => .next (s.retireFailed h 1 c pc v)
  | _ => .next s

/-! ### The reset of a virtual function (R387) -/

/-- The queues of a function. -/
def State.funcQueues (s : State) (f : Nat) : List Nat :=
  (s.queues.filter (fun e => e.2.exists_ && e.2.func == f)).map (·.1)

/-- A task from some queues. -/
def Hart.fromQueue (a : Hart) (qs : List Nat) : Bool :=
  match a.task with
  | none => false
  | some k => qs.contains k.queue

/-- The slots whose bound task came from some queues. -/
def State.funcHarts (s : State) (qs : List Nat) : List Nat :=
  (s.harts.filter (fun e => e.2.fromQueue qs)).map (·.1)

/-- Step 1: enqueues are denied from now on, parked ones with cause 31. -/
def State.denyAll (s : State) (f : Nat) (qs : List Nat) : State :=
  let t := { s with funcs := Tab.set s.funcs f { Tab.get s.funcs f {} with resetting := true } }
  qs.foldl (fun t q => (t.queue q).waiters.foldl (fun u w => u.denyWaiter q w) t) t

/-- FRBASE of a queue lies in the space of its partition, and a task that never ran has no hart: its record is written as the supervisor
of hart `h`, or, where that is no hart of the partition, of the first of its quads or of those that it left; no rule says whose tables
hold (DESIGN CHOICE, log 45). -/
def State.recordReq (s : State) (q h : Nat) : Option Req :=
  let p := (s.queue q).part
  let at_ (k : Nat) : Req := (s.hart k).superReq p k (recordWho q)
  if s.partOf h = p then some (at_ h)
  else match s.quadsOf p with
    | k :: _ => some (at_ (32 * k))
    | [] => (s.saved.find? (fun x => x.part == p)).map (fun x =>
        (Tab.get x.harts (32 * x.quad) {}).superReq p (32 * x.quad) (recordWho q))

/-- Step 2: a queued task goes with a record of STAT 2; of a partition without a quad it goes to the log. -/
def State.removeQueued (s : State) (q h : Nat) (t : QTask) : State :=
  let ws := recordWords q t.id t.desc.key 0 2 t.desc.pc 0
  let r := match s.recordReq q h with
    | some rq => s.failRecord q rq ws
    | none => (true, s.logRecord q ws)
  if r.1 then
    let u := r.2
    let pre := (u.dies.flatMap (fun d => d.2.preload)).filter (fun p => p.queue == q && p.id == t.id)
    (pre.foldl (fun v p => v.discard p) u).updQueue q (fun a => a.leave t 0)
  else r.2

/-- Transfers that a test names stop at their next run boundary (R166), those that a stopped partition left with them. -/
def State.abortAll (s : State) (f : Xfer → Bool) : State :=
  { s with
    quads := s.quads.map (fun (e : Nat × Quad) => (e.1, e.2.abortXfers f))
    saved := s.saved.map (fun x => { x with state := x.state.abortXfers f }) }

/-- Step 3: the transfers of the function's tasks. -/
def State.abortFunc (s : State) (qs : List Nat) : State := s.abortAll (fun x => qs.contains x.queue)

/-- The record of a task that the reset retires, from its hart's record in a slot of a partition. -/
def State.resetRecord (s : State) (a : Hart) (part h : Nat) (k : Task) : Bool × State :=
  s.failRecord k.queue (a.superReq part h (recordWho k.queue))
    (recordWords k.queue k.id k.key (a.csr.scause.toNat % 256) 2 a.csr.sepc a.csr.stval)

/-- Step 3 for a yielded task, as for a running one: once its started commands and the transfers of its tiles have ended it leaves its
tiles and groups, then its record is written and it goes. -/
def State.retireYielded (s : State) (y : Yielded) : State :=
  match y.hart.task with
  | none => s
  | some k =>
    if (s.quad (quadOf y.slot)).mq.any (fun c => c.hart == y.slot && c.task == k.id) || s.tilesBusy y.slot k.id then s
    else
      let z : Yielded := { y with hart := { y.hart with deferred := [] }, mq := [] }
      let t := s.logStoreErrors y.slot y.hart
      let u := State.leaveAll { t with yielded := t.yielded.map (fun x => if x = y then z else x) } y.slot k.id
      let r := u.resetRecord z.hart (u.partOf y.slot) y.slot k
      if r.1 then { r.2 with yielded := r.2.yielded.erase z } else r.2

/-- The tasks that a stopped partition left on a quad: slots and harts' records, bound and yielded. -/
def Saved.tasks (x : Saved) : List (Nat × Hart) :=
  x.harts.filter (fun e => e.2.task.isSome) ++ x.yielded.map (fun y => (y.slot, y.hart))

/-- A quad without the commands and the tiles of a task, but its `.keep` tiles. -/
def Quad.forget (a : Quad) (h : Nat) (task : BitVec 32) : Quad :=
  { a with
    mq := a.mq.filter (fun c => !(c.hart == h && c.task == task))
    tiles := a.tiles.map (fun e => if !e.2.keep && e.2.hart == h && e.2.task == task then (e.1, e.2.freed) else e) }

/-- A task of what a stopped partition left on a quad leaves its commands and tiles there; its store errors are logged. -/
def Saved.release (x : Saved) (h : Nat) (task : BitVec 32) : Saved :=
  Saved.updTask { x with state := x.state.forget h task } h task (fun a => { a with vq := [], deferred := [] })

/-- A task goes from what a stopped partition left on a quad. -/
def Saved.forget (x : Saved) (h : Nat) (task : BitVec 32) : Saved :=
  { x with
    harts := x.harts.map (fun e => if e.1 == h && e.2.runs task then (e.1, e.2.vacant) else e)
    yielded := x.yielded.filter (fun y => !(y.slot == h && y.hart.runs task)) }

/-- What a stopped partition left on a quad changed. -/
def State.updSaved (s : State) (x : Saved) (f : Saved → Saved) : State :=
  { s with saved := s.saved.map (fun y => if y.quad = x.quad ∧ y.part = x.part then f y else y) }

/-- Step 3 for a task of a stopped partition whose quad is with another: it leaves its tiles and groups, then its record is written and
it goes. -/
def State.retireSaved (s : State) (x : Saved) (e : Nat × Hart) : State :=
  match e.2.task with
  | none => s
  | some k =>
    let t := (s.logStoreErrors e.1 e.2).updSaved x (fun y => y.release e.1 k.id)
    let r := (t.leaveGroupsOf x.part e.1 k.id).resetRecord e.2 x.part e.1 k
    if r.1 then r.2.updSaved x (fun y => y.forget e.1 k.id) else r.2

/-- A task from some queues that a stopped partition left on a quad that is with another. -/
def State.savedTask (s : State) (qs : List Nat) : Option (Saved × Nat × Hart) :=
  (s.saved.flatMap (fun x => x.tasks.map (fun e => (x, e)))).find? (fun e => e.2.2.fromQueue qs)

/-- Step 4: the partners of the partition's collectives receive abort records (R415). -/
def State.abortCollectives (s : State) (p : Nat) : State :=
  s.links.foldl (fun t e =>
    if e.2.bnd && decide (e.2.part = p) && decide (e.2.coll ≠ 0) then t.emit (.collectiveAbort e.1 e.2.coll) else t) s

/-- What tile storage has held outside `n` bytes at `a` (R43). -/
def cutPast (a n : Nat) (x : Nat × List Byte) : List (Nat × List Byte) :=
  [(x.1, x.2.take (a - x.1)), (max x.1 (a + n), x.2.drop (a + n - x.1))].filter (fun y => !y.2.isEmpty)

/-- The tiles of a quad that the tasks of some queues allocated, with their first bytes and lengths. -/
def Quad.tilesOf (a : Quad) (q : Nat) (qs : List Nat) : List (Nat × Nat × Nat) :=
  (a.tiles.filter (fun x => x.2.v && qs.contains x.2.queue)).map (fun x =>
    (x.1, TileRef.base ⟨q, x.1, x.2⟩, x.2.ngr * 4096))

/-- Tile storage zeroed in `n` bytes at `a`. -/
def scrubbed (m : Memory) (a n : Nat) : Memory := m.filter (fun c => !(decide (a ≤ c.1) && decide (c.1 < a + n)))

/-- The tiles of tasks from some queues that a stopped partition left on a quad are zeroed and freed. -/
def Saved.scrub (x : Saved) (qs : List Nat) : Saved :=
  let l := x.state.tilesOf x.quad qs
  { x with
    tmem := l.foldl (fun m t => scrubbed m t.2.1 t.2.2) x.tmem
    tpast := l.foldl (fun p t => p.flatMap (cutPast t.2.1 t.2.2)) x.tpast
    state := { x.state with tiles := x.state.tiles.map (fun e => if qs.contains e.2.queue then (e.1, e.2.freed) else e) } }

/-- Step 5: the tiles of the function's tasks, `.keep` ones included, are zeroed and freed. -/
def State.scrubTiles (s : State) (qs : List Nat) : State :=
  let t := s.quads.foldl (fun t e => (e.2.tilesOf e.1 qs).foldl (fun u x => State.freeTile { u with
    tmem := scrubbed u.tmem x.2.1 x.2.2, tpast := u.tpast.flatMap (cutPast x.2.1 x.2.2) } e.1 x.1) t) s
  { t with saved := t.saved.map (fun x => x.scrub qs) }

/-- A leaf of a partition-stage table: device physical address, size and key id. -/
structure PLeaf where
  pa : Nat
  size : Nat
  key : Nat
deriving DecidableEq, Repr

/-- The leaves of a partition-stage table at a level. -/
def State.stageLeaves (s : State) : Nat → Nat → List PLeaf
  | lvl, tbl => (List.range 512).flatMap (fun i =>
    let a := tbl + 8 * i
    let e := (s.memUnder (s.nativeKey a)).readN a 8
    if e % 2 = 0 then []
    else if fieldOf e 1 3 = 0 then
      match lvl with
      | 0 => []
      | l + 1 => s.stageLeaves l (fieldOf e 10 36 * 4096)
    else [⟨fieldOf e 10 36 * 4096 / leafSize lvl * leafSize lvl, leafSize lvl, fieldOf e 55 6⟩])
termination_by structural lvl => lvl

/-- The leaves of a partition's stage. -/
def State.leavesOf (s : State) (p : Part) : List PLeaf :=
  match p.root with
  | none => []
  | some r => s.stageLeaves 3 r

/-- The ranges that a key encrypts: partition-stage leaves and HDM decoders (R410). Key ids are ignored in the host window (R25). -/
def State.keyRanges (s : State) (key : Nat) : List (Nat × Nat) :=
  s.parts.flatMap (fun p => ((s.leavesOf p.2).filter (fun l => decide (l.key = key) && isGddr l.pa)).map (fun l => (l.pa, l.size))) ++
  (s.hdm.filter (fun d => decide (d.2.key = key))).map (fun d => (d.2.dpa, d.2.size))

/-! ### What is measured (R412) -/

/-- The key assignments: those of the partitions by their leaves, and those of the HDM decoders (R410). -/
def State.keyMap (s : State) : List Nat :=
  s.parts.flatMap (fun p => (s.leavesOf p.2).flatMap (fun l => [p.1, l.pa, l.size, l.key])) ++ s.hdm.flatMap (fun d => [d.1, d.2.key])
/-- The map of partitions and functions: the quads of each partition, and the function table. -/
def State.partMap (s : State) : List Nat :=
  s.quads.flatMap (fun q => match q.2.part with
    | none => []
    | some p => [q.1, p]) ++
  s.funcs.flatMap (fun f => match f.2.part with
    | none => []
    | some p => [f.1, p])
/-- A change of these is measured before it takes effect: no step sees one that has not been. -/
def State.measured (s : State) : State := { s with sec := { s.sec with keyMap := s.keyMap, partMap := s.partMap } }

/-- A scrub replaces a key: what was written under the former one decrypts to unrelated bits (R410, log 6), wherever it lies, as its
generation is not the key's any more; so do bytes of the key's ranges that nothing has written under any key. -/
def State.scrubKey (s : State) (key : Nat) : State :=
  let spoil (m : Memory) (a : Nat) : Memory :=
    if s.keyed.any (fun e => e.1 == a) then m else m.write a (Config.scrubbedByte s.fresh a)
  let m := (s.keyRanges key).foldl (fun m r => (List.range r.2).foldl (fun m k => spoil m (r.1 + k)) m) s.mem
  { s with mem := m, fresh := s.fresh + 1, sec := { s.sec with keyGen := Tab.set s.sec.keyGen key (Tab.get s.sec.keyGen key 0 + 1) } }

/-- Step 3 for a running task: its hart leaves its instruction, and it is retired as failed. -/
def State.retireRunning (s : State) (h : Nat) : State :=
  let a := s.hart h
  let t := if a.park = some .retiring then s
    else (s.withdraw h).updHart h (fun a => a.parkFor .retiring s.time (s.clockOf (quadOf h)))
  t.retireFailed h 2 (a.csr.scause.toNat % 256) a.csr.sepc a.csr.stval

/-- VF_RESET (R387): one step of the reset of function `p`: enqueues denied; a queued task removed, its record written as the
supervisor of hart `h`; transfers stopped and a running, yielded or saved task retired; at last the abort records, the tiles and
the keys that Chinook assigned to the function, `stuck`. -/
def execVfReset (s : State) : Res :=
  let f := s.ev.p
  let qs := s.funcQueues f
  if f = 0 ∨ Config.functions < f then .next s
  else if !(Tab.get s.funcs f {}).resetting then .next (s.denyAll f qs)
  else match qs.find? (fun q => !(s.queue q).tasks.isEmpty) with
    | some q => match (s.queue q).tasks with
      | [] => .next s
      | t :: _ => .next (s.removeQueued q s.ev.h t)
    | none =>
      let t := s.abortFunc qs
      match t.funcHarts qs, t.yielded.find? (fun y => y.hart.fromQueue qs), t.savedTask qs with
      | h :: _, _, _ => .next (t.retireRunning h)
      | [], some y, _ => .next (t.retireYielded y)
      | [], none, some (x, e) => .next (t.retireSaved x e)
      | [], none, none =>
        let p := (Tab.get t.funcs f {}).part
        let u := match p with
          | none => t
          | some p => t.abortCollectives p
        let v := s.ev.stuck.foldl (fun w k => w.scrubKey k) (u.scrubTiles qs)
        .next { v with funcs := Tab.set v.funcs f { Tab.get v.funcs f {} with resetting := false } }

/-! ### Stopping and resuming (R57, R143, R165, R189, R382) -/

/-- A hart of a stopped partition leaves its park: an interruptible one is abandoned, a TALLOC undone (R189). A park that is not
interruptible runs to its end; one that its instruction then enters is left at once. -/
def State.leavePark (s : State) (h : Nat) : State :=
  if (s.hart h).park.isSome && (s.hart h).canLeave then s.withdraw h else s

/-- A hart of a partition that stops: it leaves its park, its late results land; it acts as if it had issued FENCE.S.ar.v (R143), and its
reservation is lost (R266). -/
def State.stopHart (s : State) (h : Nat) : State :=
  let t := s.leavePark h
  let landed (b : Hart) : Hart := b.late.foldl (fun (x : Hart) (l : Late) => (Hart.land x l).unparkOn l.file l.reg.toNat 1) b
  (t.updHart h (fun b => Hart.acquired { landed b with late := [], resv := none })).cleanCore (coreOf h)

/-- Pre-emption claims the swap reserve of a quad: its lines go, and its RET ways wake (R54). -/
def State.claimReserve (s : State) (q : Nat) : State :=
  s.updQuad q (fun a => (List.range 16).foldl (fun t w =>
    if t.role w = 3 then (t.dropWay w (fun _ => true)).wakeWay s.time w else t) a)

/-- The slots of a partition's quads that hold a task. -/
def State.partHarts (s : State) (p : Nat) : List Nat :=
  (s.quadsOf p).flatMap (fun q => (slotsOf q).filter (fun h => (s.hart h).task.isSome))

/-- Chinook stops a partition (R382): harts, open group loads, preloads, the swap reserve; copies, queues and wakes find it
stopped. -/
def State.stopPart (s : State) (p : Nat) : State :=
  if (s.prt p).stopped then s
  else
    let t := (s.partHarts p).foldl State.stopHart s
    let u := t.releaseAll p
    let v := (u.dies.flatMap (fun d => d.2.preload)).foldl (fun v x =>
      if (v.queue x.queue).part = p then v.discard x else v) u
    ((v.quadsOf p).foldl State.claimReserve v).updPart p (fun a => { a with stopped := true })

/-- PARTITION_STOP (R382): partition `p`. -/
def execPartitionStop (s : State) : Res := .next (s.stopPart s.ev.p)

/-- A hart of a partition that resumes: its registers as saved, its saved commands to run first, FENCE.S.ar.v again. -/
def Hart.resume (a : Hart) (now clk : Nat) : Hart :=
  Hart.acquired { a.saved with resuming := true, since := now, sinceQ := clk }

/-- PARTITION_RESUME (R143, R189): partition `p` resumes on its own quads, none of which is with another partition. -/
def execPartitionResume (s : State) : Res :=
  let p := s.ev.p
  if !(s.prt p).stopped || s.saved.any (fun x => x.part == p) then .next s
  else
    let t := (s.partHarts p).foldl (fun t h =>
      (t.updHart h (fun a => a.resume s.time (s.clockOf (quadOf h)))).cleanCore (coreOf h)) s
    .next (t.updPart p (fun a => { a with stopped := false }))

/-! ### A quad passes to another partition (R38, R43, R57, R336) -/

/-- The part of a quad that a partition leaves and takes up again: tiles, engines, matrix state. -/
def Quad.withWork (a w : Quad) : Quad :=
  { a with
    tiles := w.tiles, allocs := w.allocs, cq := w.cq, running := w.running, feeds := w.feeds, fifo := w.fifo, held := w.held
    mq := w.mq, m := w.m, acc := w.acc, inUse := w.inUse, drains := w.drains }

/-- A quad without work: every tile is freed (R38). -/
def Quad.cleared (a : Quad) : Quad := { a.withWork {} with tiles := a.tiles.map (fun e => (e.1, e.2.freed)) }

/-- What a quad is saved with: a transfer that waits for Chinook asks again after it resumes. -/
def Quad.atRest (a : Quad) : Quad := { a with running := a.running.map (fun x => { x with pmiss := none }) }

/-- A quad's own tile storage. -/
def tileByte (q a : Nat) : Bool := decide (q * 2 ^ 21 ≤ a) && decide (a < (q + 1) * 2 ^ 21)
/-- A tile line of a quad (its errors). -/
def tileLine (q l : Nat) : Bool := decide (2 ^ 58 + q * 2 ^ 15 ≤ l) && decide (l < 2 ^ 58 + (q + 1) * 2 ^ 15)

/-- Nothing of a partition is left on a quad. -/
def State.quadIdle (s : State) (q : Nat) : Bool :=
  let a := s.quad q
  (slotsOf q).all (fun h => (s.hart h).task.isNone) && !s.yielded.any (fun y => quadOf y.slot == q) &&
  a.cq.isEmpty && a.running.isEmpty && a.mq.isEmpty && a.drains.isEmpty

/-- Every hart of a stopped partition's quad has stopped, its group fills have landed, its transfers stand at a run boundary, or wait
there for feed space, without a tag (R153, R165). -/
def State.quadStill (s : State) (q : Nat) : Bool :=
  (slotsOf q).all (fun h => (s.hart h).park.isNone && !s.fillsDue h) &&
  (s.quad q).running.all (fun x => x.emitted.isEmpty && (x.untagged.isEmpty || !(s.quad q).wantsTag x))

/-- Banks of tiles in use are as a bank map has them, ON where it has none (R383); banks without granules start their wait (R44). -/
def Quad.mapBanks (a : Quad) (map : Tab Bank) (now : Nat) : Quad :=
  (List.range 32).foldl (fun t b =>
    if (t.used false).any (fun g => decide (g % 32 = b)) then { t with banks := Tab.set t.banks b (Tab.get map b ⟨2, now, false⟩) }
    else t.releaseBanks now [b]) a.releaseWays

/-- The ways that SP tiles of a quad lie in. -/
def Quad.spHeld (a : Quad) : List Nat := ((a.used true).map (· / 16)).eraseDups

/-- The ways of a quad's SP tiles are pinned, their lines written back or dropped (R53, R57). -/
def State.pinAgain (s : State) (q : Nat) : State :=
  ((s.quad q).spHeld.filter (fun w => decide ((Tab.get (s.quad q).ways w {}).role ≠ 2))).foldl (fun t w => t.roleDone q w 2) s

/-- A stopped partition leaves a quad: its harts, tasks, engines and tile storage as they are saved. -/
def State.leaveQuad (s : State) (q p : Nat) : Saved :=
  { quad := q, part := p, harts := s.harts.filter (fun e => quadOf e.1 == q)
    yielded := s.yielded.filter (fun y => quadOf y.slot == q), state := (s.quad q).atRest
    tmem := s.tmem.filter (fun c => tileByte q c.1), tpast := s.tpast.filter (fun x => tileByte q x.1)
    bad := s.poison.filter (tileLine q) }

/-- S, the size of what is saved of a quad (R383). -/
def Saved.size (x : Saved) : Nat :=
  let hs := x.tasks.map (·.2)
  let dirty (a : Hart) : Nat := ((List.range 32).filter (fun n => a.dirty.getLsbD n)).length
  4096 + 4096 * hs.length + hs.foldl (fun n a => n + dirty a * a.hwb.toNat) 0 +
  4096 * ((x.state.used false).length + (x.state.used true).length) + 1024 * x.state.inUse.length +
  8192 * (x.state.m.toList.filter (fun m => m.kind.isSome)).length +
  x.state.feeds.toList.foldl (fun n f => n + f.length) 0 + 256 * (x.state.running.length + x.state.cq.length)

/-- The quad without what its partition had on it; the wakes of one that is not stopped go (R243). -/
def State.emptyQuad (s : State) (q : Nat) : State :=
  State.updQuad { s with
    harts := s.harts.filter (fun e => quadOf e.1 != q)
    yielded := s.yielded.filter (fun y => quadOf y.slot != q)
    tmem := s.tmem.filter (fun c => !tileByte q c.1)
    tpast := s.tpast.filter (fun x => !tileByte q x.1)
    poison := s.poison.filter (fun l => !tileLine q l)
    rwrites := if s.quadStopped q then s.rwrites else s.rwrites.filter (fun w => !(w.wake && quadOf w.target == q)) }
    q (fun a => a.cleared)

/-- A partition takes up again what it left on a quad. -/
def State.enterQuad (s : State) (x : Saved) : State :=
  (State.updQuad { s with
    harts := x.harts.foldl (fun l e => Tab.set l e.1 e.2) s.harts
    yielded := s.yielded ++ x.yielded
    tmem := x.tmem.foldl (fun m c => m.write c.1 c.2) s.tmem
    tpast := s.tpast ++ x.tpast
    poison := s.poison ++ x.bad } x.quad (fun a => a.withWork x.state)).pinAgain x.quad

/-- QUAD_REASSIGN (R38, R43, R57, R336): quad `q` passes to partition `p`, or to none with `b`. What a stopped partition left is
saved with it and comes back when the quad does, into ways that hold no queue; any other partition finds its tiles freed, and tile
storage, accumulators and stationary tiles zero. -/
def execQuadReassign (s : State) : Res :=
  let q := s.ev.q
  let old := (s.quad q).part
  let new := if s.ev.b then none else some s.ev.p
  let stopped := s.quadStopped q
  let isBack (x : Saved) : Bool := x.quad == q && decide (some x.part = new)
  let back := s.saved.find? isBack
  let fits : Bool := match back with
    | none => true
    | some x => x.state.spHeld.all (s.quad q).spMay
  if Config.quads ≤ q ∨ 16 ≤ s.ev.p ∨ old = new ∨ ¬ fits ∨ ¬ (s.quadIdle q ∨ (old.isSome ∧ stopped ∧ s.quadStill q)) then .next s
  else
    let u := (span (4 * q) 4).foldl State.cleanCore s
    let keep : List Saved := match old with
      | none => []
      | some p => if stopped then [u.leaveQuad q p] else []
    let t := { u.emptyQuad q with saved := u.saved.filter (fun x => !isBack x) ++ keep }
    let v := match back with
      | none => t
      | some x => t.enterQuad x
    let map : Tab Bank := match back with
      | none => []
      | some x => x.state.banks
    .next (((v.updQuad q (fun a => { a.mapBanks map s.time with part := new })).lowerPhase q).repoint q).measured

end Sys2Proof.Machine
end

