-- ==== Sys2Proof/Machine/Caches.lean ====
section
/-!
DEFINITION. Steps of the walkers and Chinook's answers (R18, R29, R34, R66, R67), and of the caches, directories, filters and
ports of the slices (R60 to R83, R379, R380). Log 5: values stand in memory alone; these steps move lines and report errors.
-/
namespace Sys2Proof.Machine

/-! ### Walks (R29, R66, R67) -/

/-- Walker `w` of a requester's die begins a walk: it reads the tables now, once what its reads wait for is over. With `one` the walk serves
one access alone (R33). -/
def State.beginWalk (s : State) (q : Req) (acc : AccKind) (v w : Nat) (one : Option Nat) : State :=
  let d := dieOfQuad q.quad
  let c := s.wcache d w
  let l := s.gtrail c q v 4 q.root
  match s.readsWait q.who q.quad (readsOf c l) with
  | some (.snoop k i) => s.sendSnoop q.who k i
  | some _ => s
  | none =>
    let r : Walk := ⟨q.part, q.asid, v / 4096, q.mode, acc, s.gwalk c q acc v 4 q.root, one⟩
    (s.walked q w l).updDie d (fun a => { a with walks := a.walks ++ [r] })

/-- PAGE_WALK (R29): a walk for hart `h` of the address `v` and an access kind, for its core or, with `b`, for its vector path. With
`c` walker `w` begins one: of the page, or with `k` one for the access of element `k` − 1 alone, whatever the TLBs hold (R33). Else the
walk of the page that is under way, or a fresh one, ends: a result is claimed and installed (R66, R67), a failure is not cached, a
miss is told to Chinook (R18). -/
def execPageWalk (s : State) : Res :=
  let r := if s.ev.b then s.vreqOf s.ev.h else s.reqOf s.ev.h
  let one := if s.ev.k = 0 then none else some (s.ev.k - 1)
  let q := { r with elem := one.getD 0 }
  let v := s.ev.v.toNat
  let d := dieOfQuad q.quad
  let under := s.walkFor q s.ev.acc (v / 4096)
  let mine := s.ownWalk q s.ev.acc (v / 4096)
  if !canonical s.ev.v then .next s
  else if s.ev.c then
    if 320 ≤ (s.die d).walks.length ∨ (if one.isSome then mine.isSome else under.isSome ∨ (s.tlbHit q v).isSome) then .next s
    else .next (s.beginWalk q s.ev.acc v (s.ev.w % 64) one)
  else
    let gone : State := match under with
      | none => s
      | some w => s.endWalk d w
    match s.walk q s.ev.acc v with
    | .ok _ _ t => .next t
    | .miss g => .next (gone.emit (.chinookMiss q.part g))
    | .fault _ _ => .next gone
    | .wait (.snoop l i) => .next (s.sendSnoop q.who l i)
    | .wait _ => .next s

/-- PAGE_FLUSH (R67): core `p` receives flush of page `addr`, which is private to it: it writes back and invalidates, and the
page's class is shared. -/
def execPageFlush (s : State) : Res :=
  let se := Tab.get s.share s.ev.addr {}
  if se.cls = 1 ∧ se.owner.toNat = s.ev.p then
    let t := s.flushPage s.ev.p s.ev.addr
    .next { t with share := Tab.set t.share s.ev.addr ⟨2, 0⟩ }
  else .next s

/-! ### Chinook's answers (R18) -/

/-- An answer to a hart parked on a partition-stage miss: its access starts again, or meets the denial. -/
def Hart.answered (a : Hart) (deny : Bool) : Hart :=
  match a.park with
  | some (.pmiss _ _ g) => { a with park := none, denied := if deny then some g else none }
  | _ => a

/-- Who waits for Chinook on a partition-stage miss. -/
inductive MissBy where
  | hart (h : Nat)
  | xfer (q id : Nat)
  | fill (id : Nat)
  | freeze (id : Nat)
  | record (q : Nat)
  | peer (k : Nat)
deriving DecidableEq, Repr

/-- The one that an answer is for: by `k` hart `h` (with `c` transfer `w` of quad `q`), the count of group fill `w`, the count of
FREEZE or THAW `w`, the failure record of queue `q`, the `w`-th waiting access of a partner (R414). -/
def missByOf (e : EvArg) : MissBy :=
  match e.k with
  | 0 => if e.c then .xfer e.q e.w else .hart e.h
  | 1 => .fill e.w
  | 2 => .freeze e.w
  | 3 => .record e.q
  | _ => .peer e.w

/-- When its miss was sent. -/
def State.missSince (s : State) : MissBy → Option Nat
  | .hart h => match (s.hart h).park with
    | some (.pmiss _ _ _) => some (s.hart h).since
    | _ => none
  | .xfer q id => ((s.quad q).running.find? (fun x => x.id == id)).bind (·.pmiss)
  | .fill id => (s.fills.find? (fun f => f.req.id == id)).bind (·.pmiss)
  | .freeze id => (s.freezes.find? (fun o => o.id == id)).bind (·.pmiss)
  | .record q => (s.queue q).pmiss
  | .peer k => (s.peerWaits[k]?).bind (·.since)

/-- Walks under way that have found a partition-stage miss end: after Chinook's answer a walk starts again (R18, R28). -/
def State.dropMisses (s : State) : State :=
  let miss (w : Walk) : Bool := match w.res with
    | .miss _ => true
    | _ => false
  if s.dies.any (fun d => d.2.walks.any miss) then
    { s with dies := s.dies.map (fun (d : Nat × Die) => (d.1, { d.2 with walks := d.2.walks.filter (fun w => !miss w) })) }
  else s

/-- An answer arrives: the access starts again, or is denied. -/
def State.answer (s : State) (m : MissBy) (deny : Bool) : State :=
  let s := s.dropMisses
  match m with
  | .hart h => s.updHart h (fun a => a.answered deny)
  | .xfer q id => s.updXfer q id (fun x => { x with pmiss := none, denied := deny })
  | .fill id => { s with fills := s.fills.map (fun f => if f.req.id == id then { f with pmiss := none, denied := deny } else f) }
  | .freeze id => s.updFreezeOp id (fun o => { o with pmiss := none, denied := deny })
  | .record q => s.updQueue q (fun a => { a with pmiss := none, denied := deny })
  | .peer k => { s with peerWaits := s.peerWaits.modify k (fun w => { w with since := none, denied := deny }) }

/-- CHINOOK_ANSWER (R18): retry with `b`, else deny. -/
def execChinookAnswer (s : State) : Res :=
  match s.missSince (missByOf s.ev) with
  | none => .next s
  | some _ => .next (s.answer (missByOf s.ev) (!s.ev.b))

/-- PARTITION_MISS_TIMEOUT (R18): an answer has not come within 2^20 cycles: the access is denied. -/
def execPartitionMissTimeout (s : State) : Res :=
  match s.missSince (missByOf s.ev) with
  | none => .next s
  | some since => if since + 2 ^ 20 < s.time then .next (s.answer (missByOf s.ev) true) else .next s

/-! ### Shootdowns (R34) -/

/-- A shootdown selects an entry. -/
def Shootdown.selects (x : Shootdown) (e : TlbEntry) : Bool :=
  decide (e.part = x.part) &&
  (match x.page with
    | none => true
    | some p => decide (e.va / 4096 ≤ p) && decide (p < (e.va + e.size + 4095) / 4096)) &&
  (match x.asid with
    | none => true
    | some a => !e.global && decide (e.asid = a))

/-- A shootdown names a page of an entry of `np` virtual pages from `page`: it selects the entry, whichever of its pages was accessed. -/
def Shootdown.names (x : Shootdown) (page np : Nat) : Bool :=
  match x.page with
  | none => true
  | some p => decide (page ≤ p) && decide (p < page + np)

/-- A part of an engine's access has used an entry that a shootdown may select. -/
def MemPart.usesPage (m : MemPart) (x : Shootdown) : Bool := x.names m.page m.np

/-- The elements of a queued store or VAMO. -/
def VOp.elems : VOp → List QEl
  | .store _ _ _ el => el
  | .amo _ _ _ el => el
  | _ => []

/-- A hart's queued vector stores and atomics, or the COMMIT of its BLENDC, that have used an entry which a shootdown may select. -/
def Hart.usesPage (a : Hart) (x : Shootdown) : Bool :=
  a.vq.any (fun c => c.op.elems.any (fun e => x.names e.page e.np)) ||
  (match a.park with
    | some (.commit _ _ page np) => x.names page np
    | _ => false)

/-- A group request that has used such an entry for its source. -/
def GReq.usesPage (r : GReq) (x : Shootdown) : Bool := decide (r.part = x.part) && r.pages.any (fun p => p.usesPage x)

/-- A transfer has checked its barrier, whose count is left; what the entry of the check covers is not kept, and every page of its
1 GiB counts: the acknowledgement may come later than it must. -/
def Xfer.barUses (t : Xfer) (x : Shootdown) : Bool :=
  let on (bar : Option Nat) : Bool := bar.isSome && x.names (Shape.ctgt t.shape / 2 ^ 30 * 2 ^ 18) (2 ^ 18)
  match t.stage with
  | .running => false
  | .checked _ _ bar => on bar
  | .recorded _ bar => on bar
  | .pushed _ bar _ => on bar

/-- A transfer that has used such an entry for a destination it has still to write, or for its barrier. -/
def Xfer.usesPage (t : Xfer) (x : Shootdown) : Bool :=
  decide (t.part = x.part) && (t.barUses x || t.emitted.any (fun p => match p.got with
    | none => false
    | some g => g.parts.any (fun m => m.usesPage x)))

/-- The walks of a partition that are under way on a die are discarded, and its walkers' caches invalidated. -/
def Die.forgetWalks (a : Die) (part : Nat) : Die :=
  { a with
    walks := a.walks.filter (fun w => decide (w.part ≠ part))
    walkers := a.walkers.map (fun w => (w.1, w.2.filter (fun e => decide (e.1 ≠ part)))) }

/-- The entries that a shootdown selects leave a quad's TLBs, those kept for WARMPC with them (R376); the partition's non-leaf entries
leave the walkers of its die. -/
def State.shootQuad (s : State) (q : Nat) (x : Shootdown) : State :=
  let keep (l : List TlbEntry) : List TlbEntry := l.filter (fun e => !x.selects e)
  let t := State.updQuad { s with queues := s.queues.map (fun (e : Nat × Queue) =>
      (e.1, if e.2.warm.any (fun w => x.selects w.1) then { e.2 with warm := [] } else e.2)) } q (fun a => { a with tlb := keep a.tlb })
  ((span (4 * q) 4).foldl (fun t c => t.updCore c (fun a => { a with tlb := keep a.tlb })) t).updDie (dieOfQuad q)
    (fun a => a.forgetWalks x.part)

/-- Accesses of a quad that have used an entry which a shootdown may select have not all reached memory: queued vector stores, of
yielded tasks and of what a stopped partition left there too, group requests, writes of transfers. An ASID that the shootdown names
is not looked at: the acknowledgement may come later than it must. -/
def State.usesEntries (s : State) (q : Nat) (x : Shootdown) : Bool :=
  (decide (s.partOfQuad q = x.part) && (s.harts.any (fun h => quadOf h.1 == q && h.2.usesPage x) ||
    s.yielded.any (fun y => quadOf y.slot == q && y.hart.usesPage x))) ||
  s.saved.any (fun y => y.quad == q && y.part == x.part &&
    (y.tasks.any (fun e => e.2.usesPage x) || y.state.running.any (fun t => t.usesPage x))) ||
  s.greqs.any (fun r => quadOf r.hart == q && r.usesPage x) ||
  (s.quad q).running.any (fun t => t.usesPage x)

/-- A shootdown with every acknowledgement: an SFENCE.VMA acquires and goes on. -/
def State.endShoot (s : State) (x : Shootdown) : State :=
  match x.hart with
  | none => s
  | some h => s.updHart h (fun a => if a.park = some .fence then a.acquired.advance 4 else a)

/-- SHOOTDOWN_ACK (R34): quad `q` acknowledges the `k`-th shootdown. -/
def execShootdownAck (s : State) : Res :=
  match s.shoots[s.ev.k]? with
  | none => .next s
  | some x =>
    let q := s.ev.q
    if x.quads = [] then .next (State.endShoot { s with shoots := s.shoots.eraseIdx s.ev.k } x)
    else if !x.quads.contains q then .next s
    else
      let t := s.shootQuad q x
      if t.usesEntries q x then .next t
      else
        let y := { x with quads := x.quads.erase q }
        if y.quads = [] then .next (State.endShoot { t with shoots := t.shoots.eraseIdx s.ev.k } x)
        else .next { t with shoots := t.shoots.set s.ev.k y }

/-- The quads that a shootdown of a partition reaches: its own, and those on which it left work when it was stopped. -/
def State.shootQuads (s : State) (p : Nat) : List Nat :=
  (s.quadsOf p ++ (s.saved.filter (fun x => x.part == p)).map (·.quad)).eraseDups

/-- CHINOOK_INVALIDATE (R34): Chinook's command for partition `p`, with `c` after it has given the partition the root table
at `addr` (R17). What its leaves assign is measured with it (R412). -/
def execChinookInvalidate (s : State) : Res :=
  let p := s.ev.p
  let t := (if s.ev.c then s.updPart p (fun a => { a with root := some s.ev.addr }) else s).measured
  if 16 ≤ p then .next s
  else if t.shootQuads p = [] then .next t
  else .next { t with shoots := t.shoots ++ [⟨none, p, none, none, t.shootQuads p⟩] }

/-! ### Lost lines that no list can hold (R80, R83) -/

/-- The partitions whose stage maps an address. -/
def State.ownersOf (s : State) (pa : Nat) : List Nat :=
  (s.parts.filter (fun p => match p.2.root with
    | none => false
    | some r => (s.stageLeaves 3 r).any (fun l => decide (l.pa ≤ pa) && decide (pa < l.pa + l.size)))).map (·.1)

/-- A partition is stopped for a line that no list can hold, and its functions' resets begin (R80, R83, R387). -/
def State.losePart (s : State) (p : Nat) : State :=
  let t := (s.stopPart p).emit (.loss p)
  ((t.funcs.filter (fun f => decide (f.2.part = some p))).map (·.1)).foldl (fun u f => u.denyAll f (u.funcQueues f)) t

/-- The partitions of such lines are stopped at the end of the step that met them. -/
def State.loseOwners (s : State) : State :=
  if s.doomed.isEmpty then s
  else s.doomed.foldl (fun t l => (t.ownersOf (64 * l)).foldl State.losePart t) { s with doomed := [] }

/-! ### Steps of the directories and slices (R60, R69 to R76, R101, R103) -/

/-- DIRECTORY_PROBE (R70, R71): a probe of the line of `addr` reaches the filter of quad `q`, or with `b` the proxy slice of die
`p`, which probes its own quads. -/
def execDirectoryProbe (s : State) : Res :=
  let line := lineOf s.ev.addr
  .next (if s.ev.b then s.probeDie s.ev.p line else s.probeQuad s.ev.q line)

/-- The stamp of a read of a page that is frozen (R101). -/
def State.stampOf (s : State) (page : Nat) : Option Nat :=
  let f := Tab.get s.freeze page {}
  if f.count = 0 then none else some (f.gen.toNat % 4096)

/-- The quad of a request. -/
def SliceReq.quad (r : SliceReq) : Nat := if r.bypass then r.core else r.core / 4

/-- A request served by its home slice. -/
def State.serveReq (s : State) (r : SliceReq) : State :=
  let line := lineOf r.addr
  let st := s.stampOf (pageOf r.addr)
  if r.bypass || isHost r.addr then s.bypass r.quad r.addr r.excl .normal st
  else
    let t := s.serve ⟨r.core / 4, some r.core⟩ r.addr r.excl .normal st
    match st with
    | some n => (t.roomL1 r.core line).updCore r.core (fun a => { a with rep := Tab.set a.rep line n })
    | none => ((t.track r.core r.addr r.excl).roomL1 r.core line).updCore r.core (fun a => { a with
        l1d := Tab.set a.l1d line (Tab.get a.l1d line false), rep := Tab.erase a.rep line })

/-- A request arrives at its home slice (R75, R76): it is served, or waits in the input buffer for the line's fill, for the write-back
of the line, or for one of the 256 miss entries. While the bias of its page changes it is held; in host bias memory serves it and no
slice takes the line (R404). -/
def State.arriveAt (s : State) (q : Nat) (r : SliceReq) : State :=
  let a := s.quad q
  let line := lineOf r.addr
  if Tab.get s.bias (pageOf r.addr) 0 = 1 then s
  else if Tab.get s.bias (pageOf r.addr) 0 = 0 ∧ s.answerable r.quad r.addr r.excl (s.stampOf (pageOf r.addr)) ∧
      ¬ a.reserve.contains line then s.serveReq r
  else s.updQuad q (fun b => { b with
    input := b.input ++ [r]
    misses := if Tab.get s.bias (pageOf r.addr) 0 ≠ 0 ∨ a.reserve.contains line ∨ (s.missEntries q).contains line ∨
        256 ≤ (s.missEntries q).length then b.misses
      else b.misses ++ [line] })

/-- The requests in a slice's input buffer try again, oldest first. -/
def State.retryInput (s : State) (q : Nat) : State :=
  (s.quad q).input.foldl (fun t r => t.arriveAt q r) (s.updQuad q (fun a => { a with input := [] }))

/-- The number under which an error of vector register `n` of hart `h` is named. -/
def regSite (h n : Nat) : Nat := 2 ^ 62 + 32 * h + n

/-- A site of an error holds something: a cached copy (or its tag), a line of code, a directory entry, filter entries; lines of
memory and of tiles and table entries always do. -/
def State.siteHeld (s : State) (n : Nat) : Bool :=
  if n < 2 ^ 56 then true
  else if n < 2 ^ 57 then s.copyHeld (n - 2 ^ 56)
  else if n < 2 ^ 58 then (s.core ((n - 2 ^ 57) / 2 ^ 43)).l1i.any (fun l => l.1 == n % 2 ^ 43)
  else if 2 ^ 59 ≤ n ∧ n < 2 ^ 60 then s.quads.any (fun q =>
    if n < 2 ^ 59 + 2 ^ 58 then q.2.dir.any (fun d => dirSite d.1 == n) else q.2.filter.any (fun f => filterSite f.1 == n))
  else true

/-- An uncorrectable error met in a site of its own (R78, R81): a vector register gets an error mark and is logged, every other site
keeps it until a consumer meets it, or what the site held has gone. -/
def State.addError (s : State) (n : Nat) : State :=
  if 2 ^ 62 ≤ n then
    let h := (n - 2 ^ 62) / 32
    (s.logUse h 6 5 0).updHart h (fun a => { a with
      v := setReg a.v (regNo (n % 32)) { getReg a.v (regNo (n % 32)) with mark := some ⟨5, 0⟩ } })
  else if s.poison.contains n || !s.siteHeld n then s else { s with poison := s.poison ++ [n] }

/-- Replicas of a line with an uncorrectable error are dropped; the access fills again from the home slice (R103). -/
def State.dropReplicas (s : State) (line : Nat) : State :=
  { s with
    cores := s.cores.map (fun (c : Nat × Core) => (c.1, { c.2 with rep := Tab.erase c.2.rep line }))
    quads := s.quads.map (fun (q : Nat × Quad) => (q.1, { q.2 with
      lines := q.2.lines.filter (fun l => !(l.1 == line && decide (l.2.kind = .replica))) })) }

/-- HOME_SLICE_REQUEST (R60, R69 to R75): a request for the line of `addr` by core `p`, exclusive with `b`, or with `c` by an agent of
quad `p` that bypasses the L1 caches. `stuck` names sites found with an uncorrectable error (R78): memory lines by number, cached copies
above 2^56, lines of code above 2^57, tile lines above 2^58, directory entries above 2^59 and filter entries 2^58 later, table entries
above 2^60, vector registers above 2^62; `size` errors were corrected in quad `q`. An error of replicas alone,
of line `k` − 1, drops them (R103). -/
def execHomeSliceRequest (s : State) : Res :=
  let pa := s.ev.addr
  let t := s.ev.stuck.foldl State.addError s
  let t := if s.ev.size = 0 then t else t.updQuad s.ev.q (fun a => { a with cecnt := min (a.cecnt + s.ev.size) 0xFFFFFFFF })
  let t := if s.ev.k = 0 then t else t.dropReplicas (s.ev.k - 1)
  if !(isGddr pa || isHost pa) || decide (Tab.get s.bias (pageOf pa) 0 ≠ 0) then .next t
  else .next (t.arriveAt (s.homeQuad pa) ⟨pa, s.ev.p, s.ev.b, s.ev.c⟩)

/-- MEMORY_FILL_RETURN (R75): the data of a miss of slice `q` return for the line of `addr`: the slice takes the line, unless its page is
not in device bias (R404), and at the home slice the miss entry is free and the waiting requests go on. With `b` the controller reports an uncorrectable error, with `c` it
has corrected one (R78). -/
def execMemoryFillReturn (s : State) : Res :=
  let pa := s.ev.addr
  let line := lineOf pa
  let q := s.ev.q
  let home := decide (s.homeQuad pa = q)
  let st := s.stampOf (pageOf pa)
  let kind : LineKind := if st.isSome then .replica else if home then .home else .proxy
  if Config.quads ≤ q ∨ ¬ (isGddr pa ∨ isHost pa) ∨ ¬ (home ∨ proxyQuad (dieOfQuad q) pa = q) ∨
      (home ∧ ¬ (s.quad q).misses.contains line) then .next s
  else
    let t := s.useGddr pa
    let t := if s.ev.b then t.addError line else t
    let t := if s.ev.c then t.updQuad q (fun a => { a with cecnt := min (a.cecnt + 1) 0xFFFFFFFF }) else t
    let t := if (t.quad q).serves line st || !t.cacheable pa then t else t.fillSlice q line kind false (st.getD 0) false
    if home then .next ((t.updQuad q (fun a => { a with misses := a.misses.erase line })).retryInput q) else .next t

/-- VICTIM_OFFER (R73): slice `q` evicts the dirty line of `addr`: the first neighbour that accepts takes it, else it goes to
memory; a displaced victim goes to memory. -/
def execVictimOffer (s : State) : Res :=
  match (s.quad s.ev.q).line (lineOf s.ev.addr) with
  | none => .next s
  | some l =>
    if !l.dirty || decide (l.kind = .replica) then .next s else .next (s.evictDirty s.ev.q (lineOf s.ev.addr))

/-- WRITE_BACK_ARRIVAL (R76): a write-back of the line of `addr` reaches its home slice `q`: a free miss entry takes it; when the miss
table is full, the reserve of 16, or the controller. -/
def execWriteBackArrival (s : State) : Res :=
  if s.homeQuad s.ev.addr ≠ s.ev.q ∨ ¬ s.cacheable s.ev.addr then .next s else .next (s.writeHome (lineOf s.ev.addr))

/-- WBD_WRITE (R76): the controller accepts the oldest write-back that slice `q` holds in reserve, merged with what it has
queued of the line; requests of the line go on. -/
def execWbdWrite (s : State) : Res :=
  match (s.quad s.ev.q).reserve with
  | [] => .next s
  | l :: t =>
    .next (((s.updQuad s.ev.q (fun a => { a with reserve := t })).memoryTakes l).retryInput s.ev.q)

/-! ### Rejoining, and the error log (R81 to R83) -/

/-- The dirty lines that a quad owns: in its L1 data caches, its slice, and the write-backs that its slice holds in reserve. -/
def State.dirtyLines (s : State) (q : Nat) : List Nat :=
  (((span (4 * q) 4).flatMap (fun c => ((s.core c).l1d.filter (·.2)).map (·.1))) ++
    (((s.quad q).lines.filter (fun l => l.2.dirty)).map (·.1)) ++ (s.quad q).reserve).eraseDups

/-- An entry of the slice of quad `at_` that names quad `q` with an incarnation names it no longer (R82). -/
def DirEntry.unname (d : DirEntry) (at_ q inc : Nat) : DirEntry :=
  if !d.incs.any (fun i => i.1 == q && i.2 == inc) then d
  else
    let near := decide (dieOfQuad at_ = dieOfQuad q)
    let owned : Bool := match d.owner with
      | some (.quad k) => k == q
      | some (.slice k) => k == q
      | some (.die k) => !near && k == dieOfQuad q
      | none => false
    { d with
      incs := Tab.erase d.incs q
      sharers := if near && !d.coarse then d.sharers.erase (q % 96) else d.sharers
      remote := if near then d.remote else d.remote.erase (dieOfQuad q)
      owned := d.owned && !owned
      owner := if owned then none else d.owner }

/-- Quince clears the directory entries of the device that still name a quad with an incarnation that is to be used again (R82). -/
def State.clearNames (s : State) (q inc : Nat) : State :=
  { s with quads := s.quads.map (fun (e : Nat × Quad) => (e.1, { e.2 with
      dir := e.2.dir.map (fun d => (d.1, d.2.unname e.1 q inc)) })) }

/-- AGENT_REJOIN (R82, R83): a quad, a copy engine or a link rejoins with its incarnation raised; a quad's dirty lines are lost
and its caches are empty. -/
def execAgentRejoin (s : State) : Res :=
  match s.ev.rejoin with
  | .link l => .next (s.resetLink l)
  | .engine q => .next (s.updQuad q (fun a => { a with einc := a.einc + 1 }))
  | .quad q =>
    let t := (s.dirtyLines q).foldl State.loseLine s
    let u := (span (4 * q) 4).foldl (fun t c => t.updCore c (fun a => { a with l1d := [], l1i := [], rep := [], tlb := [] })) t
    let v := u.clearNames q ((u.quad q).inc + 1).toNat
    .next (v.updQuad q (fun a => { a with
      inc := a.inc + 1, lines := [], dir := [], filter := [], predictor := [], tlb := [], misses := [], input := []
      reserve := [] }))

/-- ERRLOG_READ (R81): a read of offset 0x2010 of quad `q`'s window. -/
def execErrlogRead (s : State) : Res :=
  .next ((s.emit (.reg (BitVec.ofNat 64 (s.regValue (.err2 s.ev.q))))).regReadEffect (.err2 s.ev.q))

/-- CECNT_WRITE (R81): Quince writes CECNT of quad `q`. -/
def execCecntWrite (s : State) : Res := .next (s.regWrite .quince (.err0 s.ev.q) 0 (2 ^ 64 - 2 ^ 32))

/-- A writer is a supervisor. -/
def isSuper : Writer → Bool
  | .hartS _ => true
  | _ => false

/-- The settings that stand outside the MMIO window, by `k` and their writer, any other being ignored: 0 EQQ of function `p`, by the host
(R407); 1 the ranges of HDM decoder `p`, by the host's physical function, which leaves the key as it is (R402); 2 the partition `q`
of function `p` in Chinook's table, or none with `b`, by Chinook (R407); 3 the class 0 or 3, `size`, that a supervisor gives page
`addr` in the sharing table (R22, R68); 4 the class `size` of region `p`, set once at boot, by Quince (R25); 5 the key of HDM decoder
`p`, by Chinook (R402). What R412 measures is measured with the change. -/
def State.configWrite (s : State) : State :=
  let e := s.ev
  let func (f : Func → Func) : State :=
    if 1 ≤ e.p ∧ e.p ≤ Config.functions then { s with funcs := Tab.set s.funcs e.p (f (Tab.get s.funcs e.p {})) } else s
  match e.k with
  | 0 => if e.writer = .host then func (fun a => { a with eqq := BitVec.ofNat 12 e.v.toNat }) else s
  | 1 =>
    if e.p < 8 ∧ e.writer = .host then
      State.measured { s with hdm := Tab.set s.hdm e.p { Tab.get s.hdm e.p {} with hpa := e.addr, dpa := e.v.toNat, size := e.size } }
    else s
  | 2 => if e.writer = .chinook then (func (fun a => { a with part := if e.b then none else some (e.q % 16) })).measured else s
  | 3 =>
    if isSuper e.writer ∧ (e.size = 0 ∨ e.size = 3) then
      { s with share := Tab.set s.share e.addr { Tab.get s.share e.addr {} with cls := BitVec.ofNat 2 e.size } }
    else s
  | 4 =>
    if e.writer = .quince ∧ e.p < 512 ∧ e.size ≤ 4 ∧ ¬ s.regions.any (fun r => decide (r.1 = e.p)) then
      { s with regions := Tab.set s.regions e.p e.size }
    else s
  | 5 =>
    if e.p < 8 ∧ e.writer = .chinook then
      State.measured { s with hdm := Tab.set s.hdm e.p { Tab.get s.hdm e.p {} with key := e.w % 64 } }
    else s
  | _ => s

/-- MMIO_WRITE (R434): an agent writes `size` bytes of `v` at `addr`, inside one doubleword: the fields it may write; an address
that holds no register is refused. With `c` it writes a setting outside the window. -/
def execMmioWrite (s : State) : Res :=
  if s.ev.c then .next s.configWrite else
  let pa := s.ev.addr
  let n := s.ev.size
  if (mmioReg pa).isNone then .next (s.emit (.refusedAccess pa))
  else if 8 < pa % 8 + n then .next s
  else .next (s.mmioWrite s.ev.writer pa n s.ev.v.toNat)

/-! ### The L2 ports (R379, R380) -/

/-- Tokens of a context at a port; a port starts full. -/
def Quad.tokens (a : Quad) (c : Nat) : Int := Tab.get a.buckets c 64

/-- The next of some contexts after one, in round-robin. -/
def nextAfter (last : Nat) (l : List Nat) : Option Nat := leastCost (fun c => (c + 63 - last) % 64) l

/-- The band of a class, the highest first. -/
def bandOf (cls : Nat) : Nat := if 7 ≤ cls then 0 else if 4 ≤ cls then 1 else 2

/-- The partition and class of an engine's operation, whose task may have yielded or gone: a transfer, a group load, a FREEZE or THAW, a
drain (R379). -/
def State.engineClass (s : State) (id : Nat) : Option (Nat × Nat) :=
  match s.quads.findSome? (fun e => (e.2.running ++ e.2.cq).find? (fun x => x.id == id)) with
  | some x => some (x.part, x.cls)
  | none => match (s.greqs ++ s.fills.map (·.req)).find? (fun r => r.id == id) with
    | some r => some (r.part, r.cls)
    | none => match s.freezes.find? (fun o => o.id == id) with
      | some o => some (o.part, o.cls)
      | none => (s.quads.findSome? (fun e => e.2.drains.find? (fun d => d.id == id))).map (fun d => (d.part, d.cls))

/-- The context of a request: that of a hart's task, none while its partition is stopped (R382), for its walks and its vector queue
too; that of the task that an engine works for, its operations being under way; the system's for every other requester. -/
def State.contextOf (s : State) (who : Nat) : Option Nat :=
  let pair (p c : Nat) : Nat := p * 3 + bandOf c
  let hart (h : Nat) : Option Nat :=
    if (s.hart h).task.isNone || s.quadStopped (quadOf h) then none else some (pair (s.partOf h) (s.hart h).taskCls)
  if who < Config.harts then hart who
  else if engineAgent 0 ≤ who then (s.engineClass (who - engineAgent 0)).map (fun k => pair k.1 k.2)
  else if queueAgent 0 ≤ who ∧ who < queueAgent Config.harts then hart (who - queueAgent 0)
  else some 48

/-- PORT_GRANT (R379, R380): the port of slice `q` grants a request of one of the waiting requesters `stuck` (harts by number, every
other agent by its own), at most one a cycle: a holder of tokens, else a borrower of the highest band that may still borrow. -/
def execPortGrant (s : State) : Res :=
  let q := s.ev.q
  let a := s.quad q
  let wait := (s.ev.stuck.filterMap s.contextOf).eraseDups
  let may := wait.filter (fun c => decide (-1024 < a.tokens c))
  let best := match leastCost (fun c => c % 3) may with
    | none => []
    | some b => may.filter (fun c => decide (c % 3 = b % 3))
  let pick := match nextAfter a.portLast (wait.filter (fun c => decide (0 < a.tokens c))) with
    | some c => some c
    | none => nextAfter a.portLast best
  if s.clockOf q < a.portNext then .next s
  else match pick with
    | none => .next s
    | some c => .next (s.updQuad q (fun b => { b with
        buckets := Tab.set b.buckets c (b.tokens c - 1), portLast := c, portNext := s.clockOf q + 34 }))

/-- PORT_TOKEN_ACCRUE (R379): every bucket of slice `q`'s port gains one token per 64 cycles, to at most 64. -/
def execPortTokenAccrue (s : State) : Res :=
  let q := s.ev.q
  if s.time < (s.quad q).portAt + 64 then .next s
  else .next (s.updQuad q (fun b => { b with
    buckets := b.buckets.map (fun c => (c.1, min (c.2 + 1) 64)), portAt := b.portAt + 64 }))

end Sys2Proof.Machine
end

