-- ==== Sys2Proof/Machine/Power.lean ====
section
/-!
DEFINITION. Power, current and heat (R50, R52, R388 to R400): operating points and rails, Mistral's budget, the current
limiter, throttling, sensors, idle states, and the events log.
-/
namespace Sys2Proof.Machine

/-! ### Operating points (R388 to R390) -/

/-- Model power of a point in hundredths of a watt. -/
def modelPower (op : Nat) : Nat :=
  match op with
  | 0 => 55
  | 1 => 75
  | 2 => 98
  | 3 => 130
  | 4 => 168
  | 5 => 215
  | 6 => 270
  | _ => 340

/-- RAIL_RAISE_DONE (R390): the rail of quad `q` has reached the voltage of its pending raise. -/
def execRailRaiseDone (s : State) : Res :=
  let t := s.repoint s.ev.q
  match (s.quad s.ev.q).raise with
  | none => .next t
  | some n =>
    if (t.quad s.ev.q).raise = some n then .next (t.updQuad s.ev.q (fun b => { b.setOp s.time n with raise := none })) else .next t

/-! ### Mistral's budget (R392 to R394) -/

/-- A class's floors reduced by a shortfall: the reduction of one floor, pro rata and rounded up. -/
def reduction (short total floor : Nat) : Nat := if total ≤ short then floor else (floor * short + total - 1) / total

/-- Effective floors, class by class from 0, of partitions as (number, class, floor). -/
def effFloors (ps : List (Nat × Nat × Nat)) : Nat → Nat → Nat → List (Nat × Nat)
  | 0, _, _ => []
  | n + 1, k, short =>
    let mine := ps.filter (fun p => decide (p.2.1 = k))
    let total := mine.foldl (fun m p => m + p.2.2) 0
    mine.map (fun p => (p.1, p.2.2 - reduction short total p.2.2)) ++ effFloors ps n (k + 1) (short - total)

/-- Step 1 and R394: ECAP and the effective floors; HCAP above 1,900 acts as 1,900 (R400). -/
def State.setCaps (s : State) : State :=
  let m := s.mistral
  let hcap := min m.hcap 1900
  let clamp : Bool := decide (hcap < m.idlefl)
  let ecap := max hcap m.idlefl
  let t := { s with mistral := { m with ecap := ecap, capclamp := m.capclamp || clamp } }
  let t := if clamp then t.logEvent (t.eventWord 5 0 0) else t
  let sum := s.parts.foldl (fun n p => n + p.2.floor) 0
  let short := m.idlefl + sum - ecap
  let fl := effFloors (s.parts.map (fun p => (p.1, p.2.fcls, p.2.floor))) 8 0 short
  let t := { t with parts := t.parts.map (fun (p : Nat × Part) => (p.1, { p.2 with floore := Tab.get fl p.1 0 })) }
  if short = 0 then t
  else
    let u := { t with mistral := { t.mistral with fluredu := true } }
    u.logEvent (u.eventWord 6 0 0)

/-- A quad holds a bound task. -/
def State.quadBound (s : State) (q : Nat) : Bool := (slotsOf q).any (fun h => (s.hart h).task.isSome)
/-- The highest class bound in a quad. -/
def State.quadClass (s : State) (q : Nat) : Nat :=
  (slotsOf q).foldl (fun m h => match (s.hart h).task with
    | none => m
    | some t => max m t.cls) 0

/-- Grants of power in hundredths of a watt, by quad. -/
abbrev Grants := Tab Nat
/-- What a die's quads have been granted. -/
def Grants.onDie (g : Grants) (d : Nat) : Nat := g.foldl (fun n e => if e.1 / 96 = d then n + e.2 else n) 0
/-- A grant of at most `n` more to a quad: no more than OP7 needs, and 335 W a die. -/
def Grants.give (g : Grants) (q n : Nat) : Grants :=
  Tab.set g q (Tab.get g q 0 + min n (min (340 - Tab.get g q 0) (33500 - g.onDie (q / 96))))
/-- All that has been granted. -/
def Grants.total (g : Grants) : Nat := g.foldl (fun n e => n + e.2) 0

/-- Steps 3 and 4 of R393 from a budget in hundredths of a watt. -/
def State.grants (s : State) (budget : Nat) : Grants :=
  let bound := (s.quads.map (·.1)).filter s.quadBound
  let floors := s.parts.foldl (fun (g : Grants) p =>
    let qs := bound.filter (fun q => decide ((s.quad q).part = some p.1))
    qs.foldl (fun g q => g.give q (100 * p.2.floore / qs.length)) g) []
  (List.range 8).foldl (fun (g : Grants) k =>
    let qs := bound.filter (fun q => decide (s.quadClass q = 7 - k))
    let rest := budget - g.total
    qs.foldl (fun g q => g.give q (rest / qs.length)) g) floors

/-- The highest point whose model power fits a grant. -/
def pointFor (g : Nat) : Nat := (List.range 8).foldl (fun m k => if modelPower k ≤ g then k else m) 0

/-- A period's energy of each partition that owns quads: the model power of the points that they voted, over 10 µs. -/
def State.chargeEnergy (s : State) : State :=
  (List.range 16).foldl (fun t p => match s.quadsOf p with
    | [] => t
    | qs => t.updPart p (fun a =>
      let e := a.energyPart + qs.foldl (fun n q => n + modelPower (s.quadVote q)) 0
      { a with energy := a.energy + BitVec.ofNat 64 (e / 10000), energyPart := e % 10000 })) s

/-- MISTRAL_PERIOD (R52, R393): every 10 µs: `size` is the module's measured power in watts and `w` that of hub, memory and
board. Caps, floors, grants, OPCAP, energy; raised phases are in force. -/
def execMistralPeriod (s : State) : Res :=
  if s.time < s.mistral.periodAt + 17000 then .next s
  else
    let t := { s with mistral := { s.mistral with periodAt := s.time, pwr := s.ev.size % 65536 } }
    let t := t.setCaps
    let g := t.grants (100 * (t.mistral.ecap - s.ev.w))
    let t := { t with quads := (List.range Config.quads).map (fun q => (q, { t.quad q with opcap := pointFor (Tab.get g q 0) })) }
    let t := (t.quads.map (·.1)).foldl (fun u q => u.repoint q) t.chargeEnergy
    .next t.raisePhases

/-! ### The current limiter (R395) -/

/-- A quad's limit level changed. -/
def State.setClvl (s : State) (q n : Nat) : State := s.updQuad q (fun a => { a with clvl := n, droopAt := s.time })

/-- DROOP_SIGNAL (R395): the supply-droop signal of quad `q` begins, which raises its level, or ends. -/
def execDroopSignal (s : State) : Res :=
  let a := s.quad s.ev.q
  if a.droop = s.ev.b then .next s
  else
    let t := s.updQuad s.ev.q (fun b => { b with droop := s.ev.b })
    .next (t.setClvl s.ev.q (if s.ev.b then min 3 (a.clvl + 1) else a.clvl))

/-- CLVL_RISE (R395): the signal has persisted for another 64 cycles. -/
def execClvlRise (s : State) : Res :=
  let a := s.quad s.ev.q
  if a.droop ∧ a.droopAt + 64 ≤ s.time then .next (s.setClvl s.ev.q (min 3 (a.clvl + 1))) else .next s

/-- CLVL_FALL (R395): another 4,096 cycles without the signal. -/
def execClvlFall (s : State) : Res :=
  let a := s.quad s.ev.q
  if ¬ a.droop ∧ a.droopAt + 4096 ≤ s.time then .next (s.setClvl s.ev.q (a.clvl - 1)) else .next s

/-! ### Throttling and sensors (R396 to R398) -/

/-- TLVL_WRITE (R396): Quince writes level `v` for quad `q`. -/
def execTlvlWrite (s : State) : Res :=
  if s.ev.q < Config.quads then .next (s.tlvlWrite s.ev.q (s.ev.v.toNat % 8)) else .next s

/-- SFAIL_WRITE (R398): Quince writes SFAIL of quad `q`; clearing it ends the hold, two bits or more begin one. -/
def execSfailWrite (s : State) : Res :=
  if s.ev.q < Config.quads then .next (s.sfailWrite s.ev.q (s.ev.v.toNat % 64)) else .next s

/-- The greatest of some readings. -/
def maxOf (l : List Int) : Option Int := l.foldl (fun m v => match m with
  | none => some v
  | some w => some (max v w)) none

/-- Insertion into a rising list. -/
def insertInt (v : Int) : List Int → List Int
  | [] => [v]
  | w :: t => if v ≤ w then v :: w :: t else w :: insertInt v t
/-- Twice the median of some readings. -/
def twiceMedian (l : List Int) : Int :=
  let s := l.foldr insertInt []
  s.getD (s.length / 2) 0 + s.getD ((s.length - 1) / 2) 0

/-- The stored readings of one position in the adjacent quads. -/
def State.nearReadings (s : State) (q i : Nat) : List Int := (neighbours q).filterMap (fun n => (s.quad n).readings[i]?)

/-- The run of one code of a sensor after a sample: the code, how often, and the model power's range meanwhile. -/
def runOf (old : Option (Int × Nat × Nat × Nat)) (code : Int) (power : Nat) : Int × Nat × Nat × Nat :=
  match old with
  | some (c, n, lo, hi) => if c = code then (c, n + 1, min lo power, max hi power) else (code, 1, power, power)
  | none => (code, 1, power, power)

/-- The reading of a sensor after substitution, given the sensors that have failed: the highest among its neighbours plus 5 °C. The
neighbours that have failed themselves count by their readings of the sample before (log 41). -/
def State.reading (s : State) (q : Nat) (codes : List Int) (failed : BitVec 6) (i : Nat) : Int :=
  if failed.getLsbD i then
    let own := ((List.range 6).filter (fun j => decide (j ≠ i))).filterMap (fun j =>
      if failed.getLsbD j then (s.quad q).readings[j]? else codes[j]?)
    match maxOf (own ++ s.nearReadings q i) with
    | none => (s.quad q).readings.getD i 0
    | some v => v + 5
  else codes.getD i 0

/-- A sensor of a quad is found failed by itself: out of range, or stuck over 64 samples while the power moved by more than 20 %. -/
def State.sensorBroken (s : State) (q : Nat) (codes : List Int) (i : Nat) : Bool :=
  let c := codes.getD i 999
  let r := runOf ((s.quad q).same.find? (fun e => e.1 == i) |>.map (·.2)) c (modelPower (s.quad q).opcur)
  decide (c < -40) || decide (150 < c) || (decide (64 ≤ r.2.1) && decide (120 * r.2.2.1 < 100 * r.2.2.2))

/-- A sensor differs by more than 8 °C from the median of its neighbours, those that have failed being substituted. -/
def State.sensorOff (s : State) (q : Nat) (codes : List Int) (failed : BitVec 6) (i : Nat) : Bool :=
  let own := ((List.range 6).filter (fun j => decide (j ≠ i))).map (s.reading q codes failed)
  let d := 2 * codes.getD i 999 - twiceMedian (own ++ s.nearReadings q i)
  decide (d < -16) || decide (16 < d)

/-- The sensors that have failed once a sample has been judged: those broken of themselves first, then, in order, those that differ from
their neighbours, each substituted before the next is judged. -/
def State.judged (s : State) (q : Nat) (codes : List Int) (known : BitVec 6) : BitVec 6 :=
  let add (m : BitVec 6) (i : Nat) (b : Bool) : BitVec 6 := if b then m ||| (1#6 <<< i) else m
  let own := (List.range 6).foldl (fun m i => add m i (s.sensorBroken q codes i)) known
  (List.range 6).foldl (fun m i => add m i (!m.getLsbD i && s.sensorOff q codes m i)) own

/-- The holds that a quad's sensors bring (R398). -/
def State.thermal (s : State) (q : Nat) : State :=
  let a := s.quad q
  let t := s.holdFailed q
  let t := if 105 ≤ a.temp ∧ ¬ a.hot then
      ((t.updQuad q (fun b => { b with hot := true })).tlvlWrite q 7).logEvent (s.eventWord 7 q a.temp) else t
  let t := if a.hot ∧ a.temp < 95 then t.updQuad q (fun b => { b with hot := false }) else t
  t.repoint q

/-- SENSOR_SAMPLE (R397, R398): Quince samples the six sensors of quad `q`, `codes`. TEMP holds what its field can (R400). -/
def execSensorSample (s : State) : Res :=
  let q := s.ev.q
  let a := s.quad q
  let codes := s.ev.codes
  let failed := s.judged q codes a.sfail
  let news := (List.range 6).filter (fun i => failed.getLsbD i && !a.sfail.getLsbD i)
  let rs := (List.range 6).map (s.reading q codes failed)
  let same := (List.range 6).map (fun i =>
    (i, runOf ((a.same.find? (fun e => e.1 == i)).map (·.2)) (codes.getD i 999) (modelPower a.opcur)))
  let t := s.updQuad q (fun b => { b with
    sfail := failed, readings := rs, same := same, temp := min ((maxOf rs).getD 0).toNat 255 })
  let t := news.foldl (fun u i => u.logEvent (u.eventWord 3 q i)) t
  let t := if news = [] then t else { t with mistral := { t.mistral with sensf := true } }
  if Config.quads ≤ q then .next s else .next (t.thermal q)

/-! ### Idle states (R399) -/

/-- A ready task fits a quad. -/
def State.quadWanted (s : State) (q : Nat) : Bool :=
  s.queues.any (fun e => e.2.exists_ && !(s.prt e.2.part).stopped && (match e.2.offered with
    | none => false
    | some t => (s.allowed e.2 t).contains q && s.hasRoom q (e.2.eff t) t.desc.tbud.toNat none))

/-- IDLE_ENTRY (R399): quad `q` has no bound, preloaded or yielded task and no ready task that it fits. -/
def execIdleEntry (s : State) : Res :=
  let q := s.ev.q
  let n := s.idleFor q
  if Config.quads ≤ q ∨ (s.freeSlots q).length ≠ 32 ∨ s.quadWanted q ∨ n ≤ (s.quad q).idle then .next s
  else
    let t := s.updQuad q (fun a =>
      let b := if 2 ≤ n then
          (List.range 32).foldl (fun b k => if b.bankHeld k ∧ (Tab.get b.banks k {}).st = 2 then
            { b with banks := Tab.set b.banks k { Tab.get b.banks k {} with st := 1 } } else b) a
        else a
      { b with idle := n })
    if n = 3 then .next (t.updDie (dieOfQuad q) (fun d => { d with gddrDown := span (16 * dieOfQuad q) 16 })) else .next t

/-- IDLE_WAKE (R399): a task that quad `q` fits is ready: the quad wakes, its RET banks, and a die in I3. -/
def execIdleWake (s : State) : Res :=
  let q := s.ev.q
  if (s.quad q).idle ≠ 0 ∧ s.quadWanted q then
    .next (s.raiseIdle q 0)
  else .next s

/-! ### Device phase and interfaces (R50, R52) -/

/-- A die holds a bound task. -/
def State.dieBound (s : State) (d : Nat) : Bool := s.harts.any (fun e => dieOf e.1 == d && e.2.task.isSome)

/-- The device phase lets an interface of a die be down. -/
def State.gddrMayRest (s : State) (d : Nat) : Bool := decide (s.dph = 3) || (decide (s.dph = 2) && !s.dieBound d)

/-- DEVICE_PHASE_SETTLE (R52): every slice and interface meets the device phase. -/
def execDevicePhaseSettle (s : State) : Res :=
  .next { s with
    quads := s.quads.map (fun (e : Nat × Quad) => (e.1, (List.range 16).foldl (fun a w =>
      if wayMayRetire s.dph w then a else a.wakeWay s.time w) e.2))
    dies := s.dies.map (fun (e : Nat × Die) => (e.1, if s.gddrMayRest e.1 then e.2 else { e.2 with gddrDown := [] })) }

/-- GDDR_POWER_DOWN (R50): interface `p`, where the device phase permits: in phase 3 after 4,096 idle cycles. -/
def execGddrPowerDown (s : State) : Res :=
  let i := s.ev.p
  let d := s.die (i / 16)
  if 64 ≤ i ∨ ¬ s.gddrMayRest (i / 16) ∨ d.gddrDown.contains i ∨
      (s.dph = 3 ∧ s.time < Tab.get d.gddrLast i 0 + 4096) then .next s
  else .next (s.updDie (i / 16) (fun a => { a with gddrDown := a.gddrDown ++ [i] }))

/-! ### The event log (R400) -/

/-- EVPOP_READ (R400). -/
def execEvpopRead (s : State) : Res := .next ((s.emit (.reg (BitVec.ofNat 64 (s.regValue .evpop)))).regReadEffect .evpop)

/-- EVPUSH_WRITE (R400): Quince appends event `v`. -/
def execEvpushWrite (s : State) : Res := .next (s.regWrite .quince .evpush s.ev.v.toNat (2 ^ 64 - 1))

end Sys2Proof.Machine
end

