-- ==== Sys2Proof/Machine/HostIf.lean ====
section
/-!
DEFINITION. The host, Chinook's calls, interrupts, bias flips, security and Bora links (R188, R255, R401 to R416, R430 to
R432).
-/
namespace Sys2Proof.Machine

/-! ### Host accesses of device memory (R402, R404, R405, R430) -/

/-- The device physical address to which a decoder maps a host physical address, in GDDR-7, outside the firmware region, and the
decoder's key. -/
def State.hdmAddr (s : State) (hpa : Nat) : Option (Nat × Nat) :=
  match s.hdm.find? (fun d => decide (d.2.hpa ≤ hpa) && decide (hpa < d.2.hpa + d.2.size)) with
  | none => none
  | some d =>
    let pa := d.2.dpa + (hpa - d.2.hpa)
    if isGddr pa ∧ ¬ isFirmware pa then some (pa, d.2.key) else none

/-- The key of the decoder through which the host reaches a device physical address. -/
def State.hostKey (s : State) (pa : Nat) : Nat :=
  match s.hdm.find? (fun d => decide (d.2.dpa ≤ pa) && decide (pa < d.2.dpa + d.2.size)) with
  | none => s.nativeKey pa
  | some d => d.2.key

/-- Bias of a page: 0 device, 1 host, 2 flipping to host, 3 flipping to device (R403). -/
def State.biasOf (s : State) (page : Nat) : Nat := Tab.get s.bias page 0
/-- A page's bias changed. -/
def State.setBias (s : State) (page b : Nat) : State := { s with bias := Tab.set s.bias page b }

/-- An access that a home agent reports to the host (R402), in the error log of the line's home quad. -/
def State.hostReport (s : State) (pa cause : Nat) : State :=
  (s.logError (s.homeQuad pa) ⟨7, cause, pa / 64 * 64, 0, 0x3FFF⟩).emit (.errorMessage (pa / 64 * 64))

/-- Some cache of the device holds a line dirty, or a slice its write-back in reserve (R76). -/
def State.dirtyCopy (s : State) (line : Nat) : Bool :=
  s.cores.any (fun c => Tab.get c.2.l1d line false) ||
  s.quads.any (fun q => q.2.lines.any (fun l => l.1 == line && l.2.dirty) || q.2.reserve.contains line)

/-- A dirty device copy of a line is recalled, whatever class its page has: it is written back, where it carries an error with the entry
of R80, and stays clean. -/
def State.recallLine (s : State) (line : Nat) : State :=
  let t := if s.dirtyCopy line then s.memoryTakes line else s
  { t with
    cores := s.cores.map (fun (c : Nat × Core) => (c.1, { c.2 with l1d := c.2.l1d.map (fun l => if l.1 = line then (l.1, false) else l) }))
    quads := t.quads.map (fun (q : Nat × Quad) => (q.1, { q.2 with
      lines := q.2.lines.map (fun l => if l.1 = line then (l.1, { l.2 with dirty := false }) else l) })) }

/-- The device copies of a line are invalidated, those of the instruction caches too. -/
def State.invalidateLine (s : State) (line : Nat) : State :=
  State.forget { s with
    cores := s.cores.map (fun (c : Nat × Core) => (c.1, { c.2 with l1d := Tab.erase c.2.l1d line, l1i := Tab.erase c.2.l1i line }))
    quads := s.quads.map (fun (q : Nat × Quad) => (q.1, { q.2 with
      lines := Tab.erase q.2.lines line, filter := Tab.erase q.2.filter line, reserve := q.2.reserve.erase line })) } line

/-- A line leaves the device's caches: dirty copies to memory, then every copy. -/
def State.expelLine (s : State) (line : Nat) : State := (s.recallLine line).invalidateLine line

/-- The agent number of a die's home agent, of a function's EQDESC, and of a flip of a page, for back-invalidate snoops. -/
def homeAgent (d : Nat) : Nat := 2 ^ 31 + d
def eqAgent (f : Nat) : Nat := 2 ^ 32 + f
def flipAgent (page : Nat) : Nat := 2 ^ 33 + page

/-- A snoop of a home agent or a flip: nothing waits for it but what its answer lets go on. -/
def BiSnp.ofHome (x : BiSnp) : Bool :=
  (decide (homeAgent 0 ≤ x.who) && decide (x.who < eqAgent 0)) || (decide (flipAgent 0 ≤ x.who) && decide (x.who < flipAgent (2 ^ 33)))

/-- The lines of a die's snoop filter (R404). -/
def snoopMax : Nat := 65536

/-- The host may hold a line: it is in its die's snoop filter. What it answered before of the line serves no access any more (R431). -/
def State.enterSnoop (s : State) (line : Nat) : State :=
  State.updDie { s with bisnps := s.bisnps.filter (fun x => !(x.line == line && x.done)) } (s.homeDie (64 * line)) (fun a => if a.snoop.contains line then a else { a with snoop := a.snoop ++ [line] })

/-- A full snoop filter that does not hold a line back-invalidates its oldest entry first. -/
def State.filterFull (s : State) (line : Nat) : Option Nat :=
  let l := (s.die (s.homeDie (64 * line))).snoop
  if l.contains line ∨ l.length < snoopMax then none else l.head?

/-- The data of a host read under its decoder's key, with poison for an uncorrectable error. -/
def State.hostAnswer (s : State) (x : HeldHost) : State :=
  let bad := s.badLine (lineOf x.addr)
  let t := if bad then s.hostReport x.addr 5 else s
  t.emit (.hostRead x.hpa ((s.memUnder x.key).readBytes (lineOf x.addr * 64) 64) bad)

/-- The part of a host access that its line's home agent performs, at the line's home slice without allocation (R58, R60): a read, or a
write, after which no cache of the device holds the line, and which a frozen page refuses. -/
def State.hostPerform (s : State) (x : HeldHost) : State :=
  match x.write with
  | none => (s.hostAnswer x).bypass (s.homeQuad x.addr) x.addr false .noAllocate (s.stampOf (pageOf x.addr))
  | some b =>
    if s.count (pageOf x.addr) ≠ 0 then (s.hostReport x.addr 25).emit (.hostError x.hpa)
    else
      let t := (s.bypass (s.homeQuad x.addr) x.addr true .noAllocate none).expelLine (lineOf x.addr)
      (t.poke none x.key x.addr b).emit (.hostWrite x.hpa)

/-- A host access that its line's home agent holds: while the page flips, but that a flip to host bias releases it once the line's
write-back is done (R405); a write while FREEZE or THAW has locked the page (R105); under device bias for the write-back of the line
or a miss entry (R75, R76). -/
def State.hostWaits (s : State) (x : HeldHost) : Bool :=
  let page := pageOf x.addr
  let st := if x.write.isSome then none else s.stampOf page
  (x.write.isSome && s.pageLocked page) ||
  (match s.biasOf page with
    | 0 => s.sliceBusy (s.homeQuad x.addr) x.addr x.write.isSome st
    | 1 => false
    | 2 => s.flips.any (fun f => f.active && f.page == page && f.waits.contains (lineOf x.addr))
    | _ => true)

/-- A host access served under the bias of its page (R404): under device bias after the recall of the device copies, which a write
invalidates, with no cached state for the host; under host bias, as one is that a flip to host bias releases (R430), with its line
in the snoop filter when the host may keep it. -/
def State.serveHost (s : State) (x : HeldHost) : State :=
  let line := lineOf x.addr
  let held := { s with heldHost := s.heldHost ++ [x] }
  if s.hostWaits x then held
  else if s.biasOf (pageOf x.addr) = 0 then (if x.write.isNone then s.recallLine line else s).hostPerform x
  else if x.keep then
    match s.filterFull line with
    | some l => held.sendSnoop (homeAgent (s.homeDie x.addr)) l true
    | none => (s.enterSnoop line).hostPerform x
  else s.hostPerform x

/-- Held host accesses try again, oldest first: at the end of each step. -/
def State.serveHeld (s : State) : State :=
  if s.heldHost.isEmpty then s else s.heldHost.foldl (fun t x => t.serveHost x) { s with heldHost := [] }

/-- HOST_MEM_READ (R402, R404): the host reads the line of host physical address `addr`, which it may keep with `b`. -/
def execHostMemRead (s : State) : Res :=
  match s.hdmAddr s.ev.addr with
  | none => .next (s.emit (.hostError s.ev.addr))
  | some (pa, key) => .next (s.serveHost ⟨s.ev.addr, pa, none, s.ev.b, key⟩)

/-- HOST_MEM_WRITE (R402, R404): the host writes `bytes` at host physical address `addr`, inside one line, which it may keep
with `b`. -/
def execHostMemWrite (s : State) : Res :=
  match s.hdmAddr s.ev.addr with
  | none => .next (s.emit (.hostError s.ev.addr))
  | some (pa, key) => .next (s.serveHost ⟨s.ev.addr, pa, some ((s.ev.bytes.getD []).take (64 - pa % 64)), s.ev.b, key⟩)

/-- BISNP_RESPONSE (R404, R405, R431): the host answers a back-invalidate snoop of line `addr`, BISnpInv with `b`: `bytes` are
data it had modified, which no frozen page takes (R99). After BISnpInv the line leaves the snoop filter; flips and accesses that waited
for it go on. -/
def execBisnpResponse (s : State) : Res :=
  let line := s.ev.addr
  let inv := s.ev.b
  let mine (x : BiSnp) : Bool := x.line == line && x.inv == inv && !x.done
  if !s.bisnps.any mine then .next s
  else
    let t := match s.ev.bytes with
      | none => s
      | some b => if s.count (line / 64) ≠ 0 then s else s.poke none (s.hostKey (64 * line)) (64 * line) (b.take 64)
    let kept := t.bisnps.filter (fun x => !(mine x && x.ofHome))
    let u := { t with bisnps := kept.map (fun x => if mine x then { x with done := true } else x) }
    if !inv then .next u
    else .next { u with
      dies := u.dies.map (fun (d : Nat × Die) => (d.1, { d.2 with snoop := d.2.snoop.erase line }))
      flips := u.flips.map (fun f => if f.host then f else { f with waits := f.waits.erase line }) }

/-- HOST_SNOOP (R406): the host snoops the host-window line of `addr`: a slice that holds it answers, and gives it up with `b`;
`bytes` are what the host then writes to it. -/
def execHostSnoop (s : State) : Res :=
  let line := lineOf s.ev.addr
  if !isHost s.ev.addr then .next s
  else
    let t := (s.emit (.hostSnoop line (s.dirtyCopy line))).recallLine line
    if !s.ev.b then .next t
    else
      let u := (t.invalidateLine line).breakResv none [line]
      match s.ev.bytes with
      | none => .next u
      | some b => .next (u.poke none 0 (64 * line) (b.take 64))

/-! ### Bias flips (R255, R405, R432) -/

/-- The lines of a page in the snoop filters. -/
def State.snooped (s : State) (page : Nat) : List Nat := (s.dies.flatMap (fun d => d.2.snoop)).filter (fun l => decide (l / 64 = page))

/-- The bias a flip names. -/
def BiasFlip.goal (f : BiasFlip) : Nat := if f.host then 1 else 0

/-- The lines of a page that some cache of the device holds, or a slice's reserve. -/
def State.cachedLines (s : State) (page : Nat) : List Nat :=
  (span (64 * page) 64).filter (fun l =>
    s.cores.any (fun c => c.2.l1d.any (fun x => x.1 == l) || c.2.l1i.any (fun x => x.1 == l)) ||
    s.quads.any (fun q => q.2.lines.any (fun x => x.1 == l) || q.2.reserve.contains l))

/-- A flip begins (R405): to host bias the write-backs of the lines follow that the device holds; to device bias every line that the
snoop filter holds is back-invalidated. -/
def State.startFlip (s : State) (f : BiasFlip) : State :=
  let t := { s with flips := s.flips.erase f }
  let ls := if f.host then s.cachedLines f.page else s.snooped f.page
  let u := t.setBias f.page (if f.host then 2 else 3)
  let v := if f.host then u else ls.foldl (fun v l => v.sendSnoop (flipAgent f.page) l true) u
  { v with flips := v.flips ++ [{ f with active := true, waits := ls }] }

/-- A flip is complete: its token, or its parked hart, which acquires what the flip wrote (R255, R432). -/
def State.endFlip (s : State) (f : BiasFlip) : State :=
  let t := { s with flips := s.flips.erase f }
  match f.token with
  | some _ => t.endTokenOf f.part f.hart f.task f.token false
  | none => t.updTaskOf f.part f.hart f.task (fun a => if a.park = some .pgbias then a.acquired.advance 4 else a)

/-- Flips of a page that waited for another act on the bias that results (R255). -/
def State.nextFlips (s : State) (page : Nat) : State :=
  (s.flips.filter (fun f => f.page == page && !f.active)).foldl (fun t f =>
    if 2 ≤ t.biasOf page then t
    else if t.biasOf page = f.goal then t.endFlip f
    else t.startFlip f) s

/-- The requests that the home slices of a page's lines hold try again. -/
def State.retryPage (s : State) (page : Nat) : State :=
  (s.quads.filter (fun q => q.2.input.any (fun r => pageOf r.addr == page))).foldl (fun t q => t.retryInput q.1) s

/-- BIAS_FLIP_COMPLETE (R405, R430): the `k`-th flip. To host bias it first does the write-back of line `w` of those that it waits for, or
of the first. With its write-backs done or its snoops answered, and no host access held that it must release before, it ends: the new
bias, its completion, and the flips that waited for it. -/
def execBiasFlipComplete (s : State) : Res :=
  match s.flips[s.ev.k]? with
  | none => .next s
  | some f =>
    if !f.active then .next (s.nextFlips f.page)
    else match f.waits with
      | l :: _ =>
        if f.host then
          let l := f.waits.getD s.ev.w l
          let t := s.expelLine l
          .next { t with flips := t.flips.map (fun x => if x = f then { x with waits := x.waits.erase l } else x) }
        else .next s
      | [] =>
        if f.host && s.heldHost.any (fun x => pageOf x.addr == f.page) then .next s
        else
          let t := if f.host then s.dropDirs f.page else s
          .next ((((t.setBias f.page f.goal).endFlip f).nextFlips f.page).retryPage f.page)

/-- PGBIAS (R255). While a FREEZE or THAW has locked the page, whose old translation the hart may still have, it waits; the spec does not
say what it does there (R98, R99; DESIGN CHOICE, log 49). -/
def State.pgbias (s : State) (host : Bool) (i : Instr) (e : Bool) (k : BitVec 3) (a : Reg) : Res :=
  let h := s.me
  let va := h.xv a
  let tok := tokenOf e k
  match h.mode with
  | .u => s.illegal i
  | .s =>
    if h.park = some .pgbias ∧ s.flips.any (fun f => f.hart == s.cur && f.token.isNone) then .next s
    else
      s.guarded [h.ready (xs [a]) [], h.releaseWait]
        (match s.translate (s.reqOf s.cur) va .store with
          | .fault c w => s.stop (faultStop c va w)
          | .miss g => s.stop (s.missStop s.cur va .store g)
          | .wait p => s.stop (.park p)
          | .ok t pa u =>
            let f : BiasFlip := {
              page := pageOf pa, host := host, part := s.partOf s.cur, hart := s.cur, task := BitVec.ofNat 32 h.taskId, token := tok }
            let r := u.cleanCore (coreOf s.cur)
            s.guarded [trapIf (decide (t.mt = .device) || !isGddr pa) 7 va, trapIf t.frozen 25 va, parkIf (s.pageLocked f.page) .access]
              (if s.biasOf f.page = f.goal then .next (r.advance 4)
               else
                 s.guarded [h.tokenFull tok]
                   (let v := if 2 ≤ s.biasOf f.page then { r with flips := r.flips ++ [f] } else r.startFlip f
                    .next (v.updMe (fun b => match tok with
                      | none => b.parkFor .pgbias s.time s.clk
                      | some _ => (b.startToken tok).advance 4)))))

/-- PGBIAS.host (R255). -/
def execPgbiasHost (e : Bool) (k : BitVec 3) (a : Reg) (s : State) : Res := s.pgbias true (.pgbiasHost e k a) e k a
/-- PGBIAS.dev (R255). -/
def execPgbiasDev (e : Bool) (k : BitVec 3) (a : Reg) (s : State) : Res := s.pgbias false (.pgbiasDev e k a) e k a

/-! ### Interrupts (R188, R409) -/

/-- The interrupt a hart takes: pending, enabled by sie, and by SIE in S mode; external before software before timer. -/
def State.interruptOf (s : State) (h : Nat) : Option Nat :=
  let a := s.hart h
  let open_ : Bool := decide (a.mode = .u) || bitOf a.csr.sstatus 1
  if open_ then [9, 1, 5].find? (fun c => (s.sip h).testBit c && bitOf a.csr.sie c) else none

/-- INTERRUPT_ENTRY (R175, R188): hart `h` takes its interrupt at an instruction boundary: between instructions, out of an
interruptible park whose event has not occurred, whose instruction it leaves without effect, or after a WFI. -/
def execInterruptEntry (s : State) : Res :=
  let h := s.ev.h
  let a := s.hart h
  match s.interruptOf h with
  | none => .next s
  | some c =>
    if a.task.isNone || s.quadStopped (quadOf h) then .next s
    else if a.park = some .wfi then .next (s.updHart h (fun b => (b.advance 4).interrupt c))
    else if a.atBoundary && !s.parkOver h then .next ((s.withdraw h).updHart h (fun b => b.interrupt c))
    else .next s

/-- SUPERVISOR_TIMER_INTERRUPT (R188): the device time has reached stimecmp of hart `h`: the interrupt is pending (it reads so in
sip), and a WFI ends. -/
def execSupervisorTimerInterrupt (s : State) : Res :=
  let a := s.hart s.ev.h
  if a.csr.stimecmp.toNat ≤ s.time ∧ a.park = some .wfi then .next (s.updHart s.ev.h (fun b => b.advance 4)) else .next s

/-- An external source becomes pending at a partition, once. -/
def State.raiseSource (s : State) (p src : Nat) : State :=
  s.updPart p (fun a => if a.sources.contains src then a else { a with sources := a.sources ++ [src] })

/-- The number of a source (R408). -/
def sourceNo : ExtSource → Nat
  | .errorLog => 1
  | .linkChange => 2
  | .mistral => 3

/-- EXTERNAL_SOURCE_RAISE (R409): source `src` at partition `p`. -/
def execExternalSourceRaise (s : State) : Res := if s.ev.p < 16 then .next (s.raiseSource s.ev.p (sourceNo s.ev.src)) else .next s

/-! ### Chinook's calls (R408, R409) -/

/-- The hart is parked in a call. -/
def Hart.calls (a : Hart) (n : Nat) : Bool := decide (a.park = some .chinook) && decide ((a.xv 17).toNat = n)
/-- A call returns a0. -/
def Hart.callEnds (a : Hart) (v : Nat) : Hart := (a.setX 10 (BitVec.ofNat 64 v)).advance 4

/-- MSIX_CALL (R408): the call MSIX of hart `h`. -/
def execMsixCall (s : State) : Res :=
  let a := s.hart s.ev.h
  let f := (a.xv 11).toNat
  if !a.calls 1 then .next s
  else if (Tab.get s.funcs f {}).part = some (s.partOf s.ev.h) then
    .next ((s.emit (.msix f ((a.xv 10).toNat % 8))).updHart s.ev.h (fun b => b.callEnds 0))
  else .next (s.updHart s.ev.h (fun b => b.callEnds 1))

/-- A supervisor software interrupt becomes pending at a hart. -/
def State.raiseSoft (s : State) (h : Nat) : State := s.updHart h (fun b => { b with csr := { b.csr with ssip := true } })

/-- SWI_CALL (R408): the call SWI of hart `h`. -/
def execSwiCall (s : State) : Res :=
  let a := s.hart s.ev.h
  let n := (a.xv 10).toNat
  if !a.calls 2 then .next s
  else if n < Config.harts ∧ s.partOf n = s.partOf s.ev.h then
    .next ((s.raiseSoft n).updHart s.ev.h (fun b => b.callEnds 0))
  else .next (s.updHart s.ev.h (fun b => b.callEnds 1))

/-- CLAIM_CALL (R409): the call CLAIM of hart `h` takes the oldest source. -/
def execClaimCall (s : State) : Res :=
  let p := s.partOf s.ev.h
  if !(s.hart s.ev.h).calls 3 then .next s
  else
    .next ((s.updPart p (fun a => { a with sources := a.sources.tail })).updHart s.ev.h (fun b =>
      (b.setX 11 (BitVec.ofNat 64 ((s.prt p).sources.headD 0))).callEnds 0))

/-! ### Virtual functions (R407) -/

/-- The status word of a function's enqueue. -/
def State.setEqstat (s : State) (f v : Nat) : State :=
  { s with funcs := Tab.set s.funcs f { Tab.get s.funcs f {} with eqstat := BitVec.ofNat 64 v } }

/-- The descriptor that a function names by its guest physical address: its device physical address and key, where it is aligned, mapped
readable by the partition stage alone, and in memory (R30 orders 3 to 5); a breach of the partition stage's rules is told to Chinook
(R20), a table's uncorrectable error to the log of the table's home quad (R81). -/
def State.descAddr (s : State) (p gpa : Nat) : Option (Nat × Nat) × State :=
  let breach := s.emit (.chinookBreach p (BitVec.ofNat 64 gpa))
  if gpa % 64 ≠ 0 then (none, s)
  else match s.pstage [] p gpa with
    | .ok pa _ r _ _ _ _ _ key =>
      if !r then (none, breach)
      else if (isGddr pa ∨ isHost pa) ∧ ¬ isFirmware pa then (some (pa, if isGddr pa then key else 0), s)
      else (none, s)
    | .miss _ => (none, s)
    | .breach => (none, breach)
    | .ecc a => (none, s.logEngine (s.homeQuad a) 0 (s.unitOf none a) 5 a)

/-- The enqueue of a function from a descriptor that it names, to a queue (R407). -/
def State.eqEnqueue (s : State) (f p q : Nat) (d : TaskDesc) : State :=
  if descBad d then s.setEqstat f 3
  else match s.enqStatus p q 1 (s.queue q).recorded with
    | 0 => (s.enqueuePlain p q d).setEqstat f ((s.nextIdOf q).toNat * 2 ^ 32)
    | st => s.setEqstat f st

/-- A write of EQDESC, an enqueue as TENQT makes from the function's partition, with EQSTAT its status. Its read of the descriptor is
performed at the line's home slice; it waits for a flip of the page, for the host's answer, or for the slice. -/
def State.eqdesc (s : State) (x : EqWait) : State :=
  let f := x.func
  let held : State := { s with eqWaits := s.eqWaits ++ [x] }
  match (Tab.get s.funcs f {}).part with
  | none => s.setEqstat f 3
  | some p =>
    if s.enqDenied p (BitVec.ofNat 64 x.q) ∨ (s.queue x.q).func ≠ f then s.setEqstat f 3
    else match s.descAddr p x.gpa with
      | (none, t) => t.setEqstat f 3
      | (some (pa, key), t) =>
        let home := s.homeQuad pa
        if 2 ≤ s.biasOf (pageOf pa) ∨ s.sliceBusy home pa false none then held
        else if s.mustSnoop (eqAgent f) pa false then held.sendSnoop (eqAgent f) (lineOf pa) false
        else if s.badLine (lineOf pa) then (t.logEngine home 0 (s.unitOf none pa) 5 pa).setEqstat f 3
        else ((t.snoopsUsed (eqAgent f) [lineOf pa]).bypass home pa false .normal (s.stampOf (pageOf pa))).eqEnqueue f p x.q
          (descOf ((s.memUnder key).readBytes pa 64))

/-- Writes of EQDESC that wait try again, oldest first: at the end of each step. -/
def State.serveEq (s : State) : State :=
  if s.eqWaits.isEmpty then s else s.eqWaits.foldl (fun t x => t.eqdesc x) { s with eqWaits := [] }

/-- EQDESC_WRITE (R407): function `p` writes EQDESC with the guest physical address `v`. -/
def execEqdescWrite (s : State) : Res :=
  let f := s.ev.p
  if f = 0 ∨ Config.functions < f then .next s
  else .next (s.eqdesc ⟨f, s.ev.v.toNat, (Tab.get s.funcs f {}).eqq.toNat⟩)

/-- HOSTIRQ_WRITE (R407): function `p` writes HOSTIRQ with the hart number `v`; a hart of another partition is ignored. -/
def execHostirqWrite (s : State) : Res :=
  let h := s.ev.v.toNat % 2 ^ 14
  if h < Config.harts ∧ s.ev.p ≠ 0 ∧ (Tab.get s.funcs s.ev.p {}).part = some (s.partOf h) then .next (s.raiseSoft h)
  else .next s

/-! ### The port, firmware, attestation (R401, R411, R412) -/

/-- UCIE_TRAINING (R401): module `p` of the host port trains to `rate`, or fails and is left out. -/
def execUcieTraining (s : State) : Res := if s.ev.p < 4 then .next { s with ucie := Tab.set s.ucie s.ev.p s.ev.rate } else .next s

/-- The number of a firmware image. -/
def imageNo : FwImage → Nat
  | .quince => 0
  | .chinook => 1
  | .mistral => 2
  | .security => 3

/-- An image has been verified. -/
def State.verified (s : State) (n : Nat) : Bool := s.sec.versions.any (fun v => v.1 == n)

/-- FIRMWARE_VERIFY (R411): image `img` of version `v`, both signatures good with `b`: by the boot ROM for Quince's, by Quince
for the others. A refused image leaves the module in recovery. -/
def execFirmwareVerify (s : State) : Res :=
  let n := imageNo s.ev.img
  let v := s.ev.v.toNat
  if n ≠ 0 ∧ ¬ s.verified 0 then .next s
  else if s.ev.b ∧ s.sec.fused ≤ v then .next { s with sec := { s.sec with versions := Tab.set s.sec.versions n v } }
  else .next { s with sec := { s.sec with recovery := true } }

/-- The measurements in order (R412): the ROM, the images, the fused minimum version, the key assignments, the map of partitions
and functions, the last two as they were measured before they took effect. -/
def State.measurements (s : State) : List Word :=
  [Config.digest 0 []] ++ (List.range 4).map (fun n => Config.digest (1 + n) [Tab.get s.sec.versions n 0]) ++
  [Config.digest 5 [s.sec.fused], Config.digest 6 s.sec.keyMap, Config.digest 7 s.sec.partMap]

/-- SPDM_REQUEST (R412): the measurements, signed. -/
def execSpdmRequest (s : State) : Res :=
  .next { s.emit (.spdm (s.measurements ++ [Config.signature s.fresh])) with fresh := s.fresh + 1 }

/-! ### Bora links (R413 to R416) -/

/-- A change of a link is told to its partition (R408). -/
def State.linkChanged (s : State) (l : Nat) : State :=
  let k := Tab.get s.links l {}
  if k.bnd then s.raiseSource k.part 2 else s

/-- BORA_LINK_CHANGE (R413): link `p` comes up with partner `v`, under a new incarnation when it rejoins (R82), or without `b`
goes down, which fails the runs under way on it (R414). -/
def execBoraLinkChange (s : State) : Res :=
  let l := s.ev.p
  let k := Tab.get s.links l {}
  if 12 ≤ l ∨ k.up = s.ev.b then .next s
  else if s.ev.b then
    let n := { k with
      up := true, inc := if k.joined then k.inc + 1 else k.inc, peerid := s.ev.v.setWidth 16, replicas := false, joined := true }
    .next (State.linkChanged { s with links := Tab.set s.links l n } l)
  else .next ((State.linkChanged { s with links := Tab.set s.links l { k with up := false } } l).failRuns l)

/-- The agent number of a link. -/
def peerAgent (l : Nat) : Nat := 65536 + l

/-- The requests of a partner (R414): under the link's partition and ASID, by the root table that the partition's harts use with
that ASID, in U mode. -/
def State.peerReq (s : State) (l : Nat) (k : Link) : Option Req :=
  match s.harts.find? (fun h => s.partOf h.1 == k.part && fieldOf h.2.csr.satp.toNat 44 16 == k.asid.toNat) with
  | none => none
  | some h => some { s.vreqOf h.1 with mode := .u, mxr := false, who := peerAgent l }

/-- The answer to a partner's access that fails with a cause. -/
def State.peerFail (s : State) (w : PeerWait) (cause : Nat) : State :=
  match w.bytes with
  | none => s.emit (.peerRead w.link [] cause)
  | some _ => s.emit (.peerWrite w.link cause)

/-- The cause of a failed translation of a partner's access, of whichever stage (R414); a frozen page refuses a write. -/
def PeerWait.failCause (w : PeerWait) (c : Nat) : Nat := if c = 25 then 25 else if w.bytes.isSome then 15 else 13

/-- A partner's access that has been translated, inside one line. A read of a frozen page is recorded for THAW (R416). -/
def State.peerPerform (s : State) (w : PeerWait) (c : Acc) : State :=
  let l := w.link
  let home := s.homeQuad c.pa
  let t := c.s.bypass home c.pa w.bytes.isSome (treatOf c.e.mt 0) c.e.replica
  let mine (u : State) : State := { u with bisnps := u.bisnps.filter (fun b => b.who != peerAgent l) }
  match w.bytes with
  | some b => mine ((t.writeSpan .hartU c.key c.pa b).emit (.peerWrite l 0))
  | none =>
    if s.badRange c.pa w.n && !isMmio c.pa then mine ((s.logEngine home 0 (s.unitOf none c.pa) 5 c.pa).peerFail w 5)
    else
      let r := t.readSpan c.key c.pa w.n
      let u := if c.e.frozen then { r.2 with links := Tab.set r.2.links l { Tab.get r.2.links l {} with replicas := true } } else r.2
      mine (u.emit (.peerRead l r.1 0))

/-- A partner's access (R414): it fails, is performed, or waits: for Chinook, which is told once of a miss (R18), for the host, a flip, a
slice, or a THAW of a frozen page that it reads. -/
def State.peerAccess (s : State) (w : PeerWait) : State :=
  let l := w.link
  let k := Tab.get s.links l {}
  let held (t : State) (since : Option Nat) : State := { t with peerWaits := t.peerWaits ++ [{ w with since := since }] }
  if !k.up || !k.bnd then s.peerFail w 7
  else match s.peerReq l k with
    | none => s.peerFail w (w.failCause 0)
    | some q => match s.engineAccess (peerAgent l) q w.va (if w.bytes.isSome then .store else .load) 0 with
      | .fail c y => (s.tellEngine q.quad k.part 0 c w.va y).peerFail w (w.failCause c)
      | .ok c => if w.bytes.isNone && c.e.frozen && s.pageLocked (pageOf c.pa) then held s none else s.peerPerform w c
      | .miss g => if w.denied then s.peerFail w (w.failCause 0) else held (s.engineWait (peerAgent l) q (.miss g)) (some s.time)
      | e => held (s.engineWait (peerAgent l) q e) none

/-- Accesses of partners that wait for no answer of Chinook try again, oldest first: at the end of each step. -/
def State.servePeers (s : State) : State :=
  if s.peerWaits.isEmpty then s
  else s.peerWaits.foldl (fun t w => if w.since.isSome then { t with peerWaits := t.peerWaits ++ [w] } else t.peerAccess w)
    { s with peerWaits := [] }

/-- PEER_REQUEST (R414, R416): the partner of link `p` reads `size` bytes at `v`, or writes `bytes`, inside one line. -/
def execPeerRequest (s : State) : Res :=
  let room := 64 - s.ev.v.toNat % 64
  if 12 ≤ s.ev.p then .next s
  else .next (s.peerAccess {
    link := s.ev.p, va := s.ev.v, bytes := s.ev.bytes.map (fun b => b.take room), n := min s.ev.size room })

/-- COLLECTIVE_ABORT (R415): the partner of link `p` sends an abort record for collective `v`: every transfer of it on this device
ends with STAT 2 (R166). -/
def execCollectiveAbort (s : State) : Res :=
  let coll := s.ev.v.setWidth 16
  let of (x : Xfer) (src : Bool) : Bool := match x.link src with
    | none => false
    | some l => decide ((Tab.get s.links l {}).coll = coll)
  if coll = (0#16) then .next s
  else .next (s.abortAll (fun x => x.cpyb && (of x true || of x false)))

end Sys2Proof.Machine
end

