-- ==== Sys2Proof/Machine/VectorArith.lean ====
section
/-!
DEFINITION. The arithmetic, movement and predicate instructions of custom-2, VCFG, VMVX, VMVS, VIDXRD, VIDXWR, VFIFO, and
the 16-bit VQ forms but VLD and VST: one definition each, over the shared issue of VectorIssue.lean.
-/
namespace Sys2Proof.Machine

/-- A floating element type from the two low bits of its code (R231). -/
def fet (e : BitVec 2) : Nat := 8 + e.toNat

/-- The condition of a compare from the low bits of OP5 18 to 23 (R314). -/
def ccOf (c : BitVec 3) : Nat := c.toNat - 2

/-- VADD_VV (R311). -/
def execVaddVv (p : BitVec 3) (e : BitVec 3) (v d : Reg) (s : State) : Res :=
  s.vint (.vaddVv p e v d) .add e.toNat p.toNat d (vreg v) v

/-- VADD_VS (R311). -/
def execVaddVs (p : BitVec 3) (e : BitVec 3) (v d : Reg) (s : State) : Res :=
  s.vint (.vaddVs p e v d) .add e.toNat p.toNat d (s.sx v) v

/-- VADD_VI (R311). -/
def execVaddVi (p : BitVec 3) (e : BitVec 3) (i d : Reg) (s : State) : Res :=
  s.vint (.vaddVi p e i d) .add e.toNat p.toNat d (simm i) i

/-- VSUB_VV (R311). -/
def execVsubVv (p : BitVec 3) (e : BitVec 3) (v d : Reg) (s : State) : Res :=
  s.vint (.vsubVv p e v d) .sub e.toNat p.toNat d (vreg v) v

/-- VSUB_VS (R311). -/
def execVsubVs (p : BitVec 3) (e : BitVec 3) (v d : Reg) (s : State) : Res :=
  s.vint (.vsubVs p e v d) .sub e.toNat p.toNat d (s.sx v) v

/-- VRSUB_VS (R311). -/
def execVrsubVs (p : BitVec 3) (e : BitVec 3) (v d : Reg) (s : State) : Res :=
  s.vint (.vrsubVs p e v d) .rsub e.toNat p.toNat d (s.sx v) v

/-- VRSUB_VI (R311). -/
def execVrsubVi (p : BitVec 3) (e : BitVec 3) (i d : Reg) (s : State) : Res :=
  s.vint (.vrsubVi p e i d) .rsub e.toNat p.toNat d (simm i) i

/-- VMUL_VV (R311). -/
def execVmulVv (p : BitVec 3) (e : BitVec 3) (v d : Reg) (s : State) : Res :=
  s.vint (.vmulVv p e v d) .mul e.toNat p.toNat d (vreg v) v

/-- VMUL_VS (R311). -/
def execVmulVs (p : BitVec 3) (e : BitVec 3) (v d : Reg) (s : State) : Res :=
  s.vint (.vmulVs p e v d) .mul e.toNat p.toNat d (s.sx v) v

/-- VMULH_VV (R311). -/
def execVmulhVv (p : BitVec 3) (e : BitVec 3) (v d : Reg) (s : State) : Res :=
  s.vint (.vmulhVv p e v d) .mulh e.toNat p.toNat d (vreg v) v

/-- VMULH_VS (R311). -/
def execVmulhVs (p : BitVec 3) (e : BitVec 3) (v d : Reg) (s : State) : Res :=
  s.vint (.vmulhVs p e v d) .mulh e.toNat p.toNat d (s.sx v) v

/-- VMULHN_VV (R311). -/
def execVmulhnVv (p : BitVec 3) (e : BitVec 3) (v d : Reg) (s : State) : Res :=
  s.vint (.vmulhnVv p e v d) .mulhn e.toNat p.toNat d (vreg v) v

/-- VMULHN_VS (R311). -/
def execVmulhnVs (p : BitVec 3) (e : BitVec 3) (v d : Reg) (s : State) : Res :=
  s.vint (.vmulhnVs p e v d) .mulhn e.toNat p.toNat d (s.sx v) v

/-- VADDS_VV (R311). -/
def execVaddsVv (p : BitVec 3) (e : BitVec 3) (v d : Reg) (s : State) : Res :=
  s.vint (.vaddsVv p e v d) .adds e.toNat p.toNat d (vreg v) v

/-- VADDS_VS (R311). -/
def execVaddsVs (p : BitVec 3) (e : BitVec 3) (v d : Reg) (s : State) : Res :=
  s.vint (.vaddsVs p e v d) .adds e.toNat p.toNat d (s.sx v) v

/-- VADDS_VI (R311). -/
def execVaddsVi (p : BitVec 3) (e : BitVec 3) (i d : Reg) (s : State) : Res :=
  s.vint (.vaddsVi p e i d) .adds e.toNat p.toNat d (simm i) i

/-- VSUBS_VV (R311). -/
def execVsubsVv (p : BitVec 3) (e : BitVec 3) (v d : Reg) (s : State) : Res :=
  s.vint (.vsubsVv p e v d) .subs e.toNat p.toNat d (vreg v) v

/-- VSUBS_VS (R311). -/
def execVsubsVs (p : BitVec 3) (e : BitVec 3) (v d : Reg) (s : State) : Res :=
  s.vint (.vsubsVs p e v d) .subs e.toNat p.toNat d (s.sx v) v

/-- VMIN_VV (R311). -/
def execVminVv (p : BitVec 3) (e : BitVec 3) (v d : Reg) (s : State) : Res :=
  s.vint (.vminVv p e v d) .min e.toNat p.toNat d (vreg v) v

/-- VMIN_VS (R311). -/
def execVminVs (p : BitVec 3) (e : BitVec 3) (v d : Reg) (s : State) : Res :=
  s.vint (.vminVs p e v d) .min e.toNat p.toNat d (s.sx v) v

/-- VMAX_VV (R311). -/
def execVmaxVv (p : BitVec 3) (e : BitVec 3) (v d : Reg) (s : State) : Res :=
  s.vint (.vmaxVv p e v d) .max e.toNat p.toNat d (vreg v) v

/-- VMAX_VS (R311). -/
def execVmaxVs (p : BitVec 3) (e : BitVec 3) (v d : Reg) (s : State) : Res :=
  s.vint (.vmaxVs p e v d) .max e.toNat p.toNat d (s.sx v) v

/-- VAND_VV (R311). -/
def execVandVv (p : BitVec 3) (e : BitVec 3) (v d : Reg) (s : State) : Res :=
  s.vint (.vandVv p e v d) .and e.toNat p.toNat d (vreg v) v

/-- VAND_VS (R311). -/
def execVandVs (p : BitVec 3) (e : BitVec 3) (v d : Reg) (s : State) : Res :=
  s.vint (.vandVs p e v d) .and e.toNat p.toNat d (s.sx v) v

/-- VAND_VI (R311). -/
def execVandVi (p : BitVec 3) (e : BitVec 3) (i d : Reg) (s : State) : Res :=
  s.vint (.vandVi p e i d) .and e.toNat p.toNat d (simm i) i

/-- VOR_VV (R311). -/
def execVorVv (p : BitVec 3) (e : BitVec 3) (v d : Reg) (s : State) : Res :=
  s.vint (.vorVv p e v d) .or e.toNat p.toNat d (vreg v) v

/-- VOR_VS (R311). -/
def execVorVs (p : BitVec 3) (e : BitVec 3) (v d : Reg) (s : State) : Res :=
  s.vint (.vorVs p e v d) .or e.toNat p.toNat d (s.sx v) v

/-- VOR_VI (R311). -/
def execVorVi (p : BitVec 3) (e : BitVec 3) (i d : Reg) (s : State) : Res :=
  s.vint (.vorVi p e i d) .or e.toNat p.toNat d (simm i) i

/-- VXOR_VV (R311). -/
def execVxorVv (p : BitVec 3) (e : BitVec 3) (v d : Reg) (s : State) : Res :=
  s.vint (.vxorVv p e v d) .xor e.toNat p.toNat d (vreg v) v

/-- VXOR_VS (R311). -/
def execVxorVs (p : BitVec 3) (e : BitVec 3) (v d : Reg) (s : State) : Res :=
  s.vint (.vxorVs p e v d) .xor e.toNat p.toNat d (s.sx v) v

/-- VXOR_VI (R311). -/
def execVxorVi (p : BitVec 3) (e : BitVec 3) (i d : Reg) (s : State) : Res :=
  s.vint (.vxorVi p e i d) .xor e.toNat p.toNat d (simm i) i

/-- VSLL_VV (R311). -/
def execVsllVv (p : BitVec 3) (e : BitVec 3) (v d : Reg) (s : State) : Res :=
  s.vint (.vsllVv p e v d) .sll e.toNat p.toNat d (vreg v) v

/-- VSLL_VS (R311). -/
def execVsllVs (p : BitVec 3) (e : BitVec 3) (v d : Reg) (s : State) : Res :=
  s.vint (.vsllVs p e v d) .sll e.toNat p.toNat d (s.sx v) v

/-- VSLL_VI (R311). -/
def execVsllVi (p : BitVec 3) (e : BitVec 3) (i d : Reg) (s : State) : Res :=
  s.vint (.vsllVi p e i d) .sll e.toNat p.toNat d (simm i) i

/-- VSRL_VV (R311). -/
def execVsrlVv (p : BitVec 3) (e : BitVec 3) (v d : Reg) (s : State) : Res :=
  s.vint (.vsrlVv p e v d) .srl e.toNat p.toNat d (vreg v) v

/-- VSRL_VS (R311). -/
def execVsrlVs (p : BitVec 3) (e : BitVec 3) (v d : Reg) (s : State) : Res :=
  s.vint (.vsrlVs p e v d) .srl e.toNat p.toNat d (s.sx v) v

/-- VSRL_VI (R311). -/
def execVsrlVi (p : BitVec 3) (e : BitVec 3) (i d : Reg) (s : State) : Res :=
  s.vint (.vsrlVi p e i d) .srl e.toNat p.toNat d (simm i) i

/-- VSRA_VV (R311). -/
def execVsraVv (p : BitVec 3) (e : BitVec 3) (v d : Reg) (s : State) : Res :=
  s.vint (.vsraVv p e v d) .sra e.toNat p.toNat d (vreg v) v

/-- VSRA_VS (R311). -/
def execVsraVs (p : BitVec 3) (e : BitVec 3) (v d : Reg) (s : State) : Res :=
  s.vint (.vsraVs p e v d) .sra e.toNat p.toNat d (s.sx v) v

/-- VSRA_VI (R311). -/
def execVsraVi (p : BitVec 3) (e : BitVec 3) (i d : Reg) (s : State) : Res :=
  s.vint (.vsraVi p e i d) .sra e.toNat p.toNat d (simm i) i

/-- VFADD_VV (R319). -/
def execVfaddVv (p : BitVec 3) (e : BitVec 2) (v d : Reg) (s : State) : Res :=
  s.vflt (.vfaddVv p e v d) .add true (fet e) p.toNat d (vreg v) v

/-- VFADD_VS (R319). -/
def execVfaddVs (p : BitVec 3) (e : BitVec 2) (v d : Reg) (s : State) : Res :=
  s.vflt (.vfaddVs p e v d) .add true (fet e) p.toNat d (s.sx v) v

/-- VFSUB_VV (R319). -/
def execVfsubVv (p : BitVec 3) (e : BitVec 2) (v d : Reg) (s : State) : Res :=
  s.vflt (.vfsubVv p e v d) .sub true (fet e) p.toNat d (vreg v) v

/-- VFSUB_VS (R319). -/
def execVfsubVs (p : BitVec 3) (e : BitVec 2) (v d : Reg) (s : State) : Res :=
  s.vflt (.vfsubVs p e v d) .sub true (fet e) p.toNat d (s.sx v) v

/-- VFMUL_VV (R319). -/
def execVfmulVv (p : BitVec 3) (e : BitVec 2) (v d : Reg) (s : State) : Res :=
  s.vflt (.vfmulVv p e v d) .mul true (fet e) p.toNat d (vreg v) v

/-- VFMUL_VS (R319). -/
def execVfmulVs (p : BitVec 3) (e : BitVec 2) (v d : Reg) (s : State) : Res :=
  s.vflt (.vfmulVs p e v d) .mul true (fet e) p.toNat d (s.sx v) v

/-- VFDIV_VV (R319). -/
def execVfdivVv (p : BitVec 3) (e : BitVec 2) (v d : Reg) (s : State) : Res :=
  s.vflt (.vfdivVv p e v d) .div true (fet e) p.toNat d (vreg v) v

/-- VFDIV_VS (R319). -/
def execVfdivVs (p : BitVec 3) (e : BitVec 2) (v d : Reg) (s : State) : Res :=
  s.vflt (.vfdivVs p e v d) .div true (fet e) p.toNat d (s.sx v) v

/-- VFMIN_VV (R319). -/
def execVfminVv (p : BitVec 3) (e : BitVec 2) (v d : Reg) (s : State) : Res :=
  s.vflt (.vfminVv p e v d) .min false (fet e) p.toNat d (vreg v) v

/-- VFMIN_VS (R319). -/
def execVfminVs (p : BitVec 3) (e : BitVec 2) (v d : Reg) (s : State) : Res :=
  s.vflt (.vfminVs p e v d) .min false (fet e) p.toNat d (s.sx v) v

/-- VFMAX_VV (R319). -/
def execVfmaxVv (p : BitVec 3) (e : BitVec 2) (v d : Reg) (s : State) : Res :=
  s.vflt (.vfmaxVv p e v d) .max false (fet e) p.toNat d (vreg v) v

/-- VFMAX_VS (R319). -/
def execVfmaxVs (p : BitVec 3) (e : BitVec 2) (v d : Reg) (s : State) : Res :=
  s.vflt (.vfmaxVs p e v d) .max false (fet e) p.toNat d (s.sx v) v

/-- VCLZ (R311). -/
def execVclz (p : BitVec 3) (e : BitVec 3) (v d : Reg) (s : State) : Res :=
  s.vone (.vclz p e v d) .clz false e.toNat p.toNat d v

/-- VPOPC (R311). -/
def execVpopc (p : BitVec 3) (e : BitVec 3) (v d : Reg) (s : State) : Res :=
  s.vone (.vpopc p e v d) .popc false e.toNat p.toNat d v

/-- VFABS (R319). -/
def execVfabs (p : BitVec 3) (e : BitVec 2) (v d : Reg) (s : State) : Res :=
  s.vone (.vfabs p e v d) .fabs false (fet e) p.toNat d v

/-- VFNEG (R319). -/
def execVfneg (p : BitVec 3) (e : BitVec 2) (v d : Reg) (s : State) : Res :=
  s.vone (.vfneg p e v d) .fneg false (fet e) p.toNat d v

/-- VFSQRT (R319). -/
def execVfsqrt (p : BitVec 3) (e : BitVec 2) (v d : Reg) (s : State) : Res :=
  s.vone (.vfsqrt p e v d) .fsqrt true (fet e) p.toNat d v

/-- VFCLASS (R319). -/
def execVfclass (p : BitVec 3) (e : BitVec 2) (v d : Reg) (s : State) : Res :=
  s.vone (.vfclass p e v d) .fclass false (fet e) p.toNat d v

/-- VRCP (R334, R335). -/
def execVrcp (p : BitVec 3) (v d : Reg) (s : State) : Res :=
  s.vone (.vrcp p v d) .rcp false 10 p.toNat d v

/-- VRSQRT (R334, R335). -/
def execVrsqrt (p : BitVec 3) (v d : Reg) (s : State) : Res :=
  s.vone (.vrsqrt p v d) .rsqrt false 10 p.toNat d v

/-- VEXP2 (R334, R335). -/
def execVexp2 (p : BitVec 3) (v d : Reg) (s : State) : Res :=
  s.vone (.vexp2 p v d) .exp2 false 10 p.toNat d v

/-- VLOG2 (R334, R335). -/
def execVlog2 (p : BitVec 3) (v d : Reg) (s : State) : Res :=
  s.vone (.vlog2 p v d) .log2 false 10 p.toNat d v

/-- VSIN (R334, R335). -/
def execVsin (p : BitVec 3) (v d : Reg) (s : State) : Res :=
  s.vone (.vsin p v d) .sin false 10 p.toNat d v

/-- VCOS (R334, R335). -/
def execVcos (p : BitVec 3) (v d : Reg) (s : State) : Res :=
  s.vone (.vcos p v d) .cos false 10 p.toNat d v

/-- VMAC (R311). -/
def execVmac (b : Reg) (p : BitVec 3) (e : BitVec 3) (a d : Reg) (s : State) : Res :=
  s.vthree (.vmac b p e a d) .mac false e.toNat p.toNat d a b.toNat

/-- VFFMA (R319). -/
def execVffma (b : Reg) (p : BitVec 3) (e : BitVec 2) (a d : Reg) (s : State) : Res :=
  s.vthree (.vffma b p e a d) .ffma s.me.frmBad (fet e) p.toNat d a b.toNat

/-- VFFMS (R319). -/
def execVffms (b : Reg) (p : BitVec 3) (e : BitVec 2) (a d : Reg) (s : State) : Res :=
  s.vthree (.vffms b p e a d) .ffms s.me.frmBad (fet e) p.toNat d a b.toNat

/-- VFNFMA (R319). -/
def execVfnfma (b : Reg) (p : BitVec 3) (e : BitVec 2) (a d : Reg) (s : State) : Res :=
  s.vthree (.vfnfma b p e a d) .fnfma s.me.frmBad (fet e) p.toNat d a b.toNat

/-- VWMAC (R312). -/
def execVwmac (b : Reg) (p : BitVec 3) (e : BitVec 3) (a d : Reg) (s : State) : Res :=
  s.vwide (.vwmac b p e a d) true e.toNat p.toNat d a b

/-- VWMUL (R312). -/
def execVwmul (b : Reg) (p : BitVec 3) (e : BitVec 3) (a d : Reg) (s : State) : Res :=
  s.vwide (.vwmul b p e a d) false e.toNat p.toNat d a b

/-- VCMP_VV (R314). -/
def execVcmpVv (c : BitVec 3) (p : BitVec 3) (e : BitVec 3) (v d : Reg) (s : State) : Res :=
  s.vcmp (.vcmpVv c p e v d) (ccOf c) e.toNat p.toNat d (vreg v) v

/-- VCMP_VS (R314). -/
def execVcmpVs (c : BitVec 3) (p : BitVec 3) (e : BitVec 3) (v d : Reg) (s : State) : Res :=
  s.vcmp (.vcmpVs c p e v d) (ccOf c) e.toNat p.toNat d (s.sx v) v

/-- VCMP_VI (R314). -/
def execVcmpVi (c : BitVec 3) (p : BitVec 3) (e : BitVec 3) (i d : Reg) (s : State) : Res :=
  s.vcmp (.vcmpVi c p e i d) (ccOf c) e.toNat p.toNat d (simm i) i

/-- VFCMP_VV (R314). -/
def execVfcmpVv (c : BitVec 3) (p : BitVec 3) (e : BitVec 2) (v d : Reg) (s : State) : Res :=
  s.vcmp (.vfcmpVv c p e v d) (ccOf c) (fet e) p.toNat d (vreg v) v

/-- VFCMP_VS (R314). -/
def execVfcmpVs (c : BitVec 3) (p : BitVec 3) (e : BitVec 2) (v d : Reg) (s : State) : Res :=
  s.vcmp (.vfcmpVs c p e v d) (ccOf c) (fet e) p.toNat d (s.sx v) v

/-- VSEL_VV (R316). -/
def execVselVv (p : BitVec 3) (e : BitVec 4) (v d : Reg) (s : State) : Res :=
  s.vsel (.vselVv p e v d) false e.toNat p.toNat d (vreg v) v

/-- VSEL_VS (R316). -/
def execVselVs (p : BitVec 3) (e : BitVec 4) (v d : Reg) (s : State) : Res :=
  s.vsel (.vselVs p e v d) false e.toNat p.toNat d (s.sx v) v

/-- VSEL_VI (R316). -/
def execVselVi (p : BitVec 3) (e : BitVec 4) (i d : Reg) (s : State) : Res :=
  s.vsel (.vselVi p e i d) false e.toNat p.toNat d (simm i) i

/-- VREDSUM (R317). -/
def execVredsum (p : BitVec 3) (e : BitVec 3) (v d : Reg) (s : State) : Res :=
  s.vred (.vredsum p e v d) .sum false e.toNat p.toNat d v

/-- VREDMIN (R317). -/
def execVredmin (p : BitVec 3) (e : BitVec 3) (v d : Reg) (s : State) : Res :=
  s.vred (.vredmin p e v d) .min false e.toNat p.toNat d v

/-- VREDMAX (R317). -/
def execVredmax (p : BitVec 3) (e : BitVec 3) (v d : Reg) (s : State) : Res :=
  s.vred (.vredmax p e v d) .max false e.toNat p.toNat d v

/-- VFREDSUM (R318). -/
def execVfredsum (p : BitVec 3) (e : BitVec 2) (v d : Reg) (s : State) : Res :=
  s.vred (.vfredsum p e v d) .fsum s.me.frmBad (fet e) p.toNat d v

/-- PAND (R315). -/
def execPand (p b a : BitVec 3) (s : State) : Res :=
  s.vpred (.pand p b a) [] [] (.pred .and p.toNat a.toNat b.toNat)

/-- POR (R315). -/
def execPor (p b a : BitVec 3) (s : State) : Res :=
  s.vpred (.por p b a) [] [] (.pred .or p.toNat a.toNat b.toNat)

/-- PXOR (R315). -/
def execPxor (p b a : BitVec 3) (s : State) : Res :=
  s.vpred (.pxor p b a) [] [] (.pred .xor p.toNat a.toNat b.toNat)

/-- PNOT (R315). -/
def execPnot (p a : BitVec 3) (s : State) : Res :=
  s.vpred (.pnot p a) [] [] (.pred .not p.toNat a.toNat 0)

/-- PMSKUP (R315). -/
def execPmskup (p a : BitVec 3) (s : State) : Res :=
  s.vpred (.pmskup p a) [] [] (.pred .mskup p.toNat a.toNat 0)

/-- PSET (R315). -/
def execPset (p : BitVec 3) (x : Reg) (s : State) : Res :=
  s.vpred (.pset p x) (xs [x]) [] (.pset p.toNat (s.me.xv x))

/-- PFIRST (R315): a late result. -/
def execPfirst (b : BitVec 3) (d : Reg) (s : State) : Res :=
  s.vpred (.pfirst b d) [] (xs [d]) (.pfirst d.toNat b.toNat)

/-- PCNT (R315): a late result. -/
def execPcnt (b : BitVec 3) (d : Reg) (s : State) : Res :=
  s.vpred (.pcnt b d) [] (xs [d]) (.pcnt d.toNat b.toNat)

/-- The request of VSCALE (R322): the scale codes lie in one register. -/
def Hart.scaleReq (a : Hart) (p : BitVec 3) (e : BitVec 2) (v d : Reg) : VReq :=
  let g := a.gsz
  { i := .vscale p e v d, bad := a.frmBad || decide (etWidth a.fmts (fet e) ≠ a.vw),
    groups := [(d.toNat, g), (v.toNat, 1)], src := vgroup d.toNat g ++ vgroup v.toNat 1, dst := vgroup d.toNat g,
    vl := a.vln, g := g, op := .scale (fet e) p.toNat d.toNat v.toNat }

/-- VSCALE (R322). -/
def execVscale (p : BitVec 3) (e : BitVec 2) (v d : Reg) (s : State) : Res :=
  s.vgo (s.me.scaleReq p e v d)

/-- VCVT (R321). -/
def execVcvt (f : BitVec 4) (p : BitVec 3) (e : BitVec 4) (v d : Reg) (s : State) : Res :=
  s.vcvt (.vcvt f p e v d) false e.toNat f.toNat p.toNat d v

/-- VCVT_SR (R214, R321). -/
def execVcvtSr (f : BitVec 4) (p : BitVec 3) (e : BitVec 4) (v d : Reg) (s : State) : Res :=
  s.vcvt (.vcvtSr f p e v d) true e.toNat f.toNat p.toNat d v

/-- VMV (R326). -/
def execVmv (p : BitVec 3) (e : BitVec 4) (v d : Reg) (s : State) : Res :=
  s.vuna (.vmv p e v d) false e.toNat false d (vreg v) v (.mv e.toNat p.toNat d.toNat (vreg v)) id

/-- VMV_SCALAR (R326). -/
def execVmvScalar (p : BitVec 3) (e : BitVec 4) (v d : Reg) (s : State) : Res :=
  s.vuna (.vmvScalar p e v d) false e.toNat false d (s.sx v) v (.mv e.toNat p.toNat d.toNat (s.sx v)) id

/-- VTAKE (R333): the source group is open from issue, unless it is the destination too. -/
def execVtake (p : BitVec 3) (e : BitVec 4) (v d : Reg) (s : State) : Res :=
  s.vuna (.vtake p e v d) false e.toNat false d (vreg v) v (.take e.toNat p.toNat d.toNat v.toNat)
    (fun h => h.openV v.toNat h.gsz)

/-- VCOMPRESS (R331): overlap raises cause 28. -/
def execVcompress (p : BitVec 3) (e : BitVec 4) (v d : Reg) (s : State) : Res :=
  s.vuna (.vcompress p e v d) false e.toNat (groupsMeet d.toNat s.me.gsz v.toNat s.me.gsz) d (vreg v) v
    (.compress e.toNat p.toNat d.toNat v.toNat) id

/-- VPERM (R330). -/
def execVperm (p : BitVec 3) (e : BitVec 4) (v d : Reg) (s : State) : Res :=
  s.vbin (.vperm p e v d) false e.toNat d (vreg v) v (.perm e.toNat p.toNat d.toNat v.toNat)

/-- VSLUP_VS (R328). -/
def execVslupVs (p : BitVec 3) (e : BitVec 4) (v d : Reg) (s : State) : Res :=
  s.vbin (.vslupVs p e v d) false e.toNat d (s.sx v) v (.slup e.toNat p.toNat d.toNat (s.me.xv v).toNat)

/-- VSLUP_VI (R328): an unsigned immediate. -/
def execVslupVi (p : BitVec 3) (e : BitVec 4) (i d : Reg) (s : State) : Res :=
  s.vbin (.vslupVi p e i d) false e.toNat d (simm i) i (.slup e.toNat p.toNat d.toNat i.toNat)

/-- VSLDN_VS (R328). -/
def execVsldnVs (p : BitVec 3) (e : BitVec 4) (v d : Reg) (s : State) : Res :=
  s.vbin (.vsldnVs p e v d) false e.toNat d (s.sx v) v (.sldn e.toNat p.toNat d.toNat (s.me.xv v).toNat)

/-- VSLDN_VI (R328): an unsigned immediate. -/
def execVsldnVi (p : BitVec 3) (e : BitVec 4) (i d : Reg) (s : State) : Res :=
  s.vbin (.vsldnVi p e i d) false e.toNat d (simm i) i (.sldn e.toNat p.toNat d.toNat i.toNat)

/-- VSL1UP (R328). -/
def execVsl1up (p : BitVec 3) (e : BitVec 4) (v d : Reg) (s : State) : Res :=
  s.vbin (.vsl1up p e v d) false e.toNat d (s.sx v) v (.sl1up e.toNat p.toNat d.toNat (s.me.xv v))

/-- VXCHG (R329): the field holds d − 1. -/
def execVxchg (p : BitVec 3) (e : BitVec 4) (i d : Reg) (s : State) : Res :=
  s.vbin (.vxchg p e i d) false e.toNat d (simm i) i (.xchg e.toNat p.toNat d.toNat (i.toNat + 1))

/-- VCFG (R305). -/
def execVcfg (e : BitVec 4) (g : BitVec 2) (a d : Reg) (s : State) : Res :=
  s.vconfigure (.vcfg e g a d) e g [a] (s.me.xv a).toNat d

/-- VCFGI (R305). -/
def execVcfgi (e : BitVec 4) (g : BitVec 2) (v : BitVec 10) (d : Reg) (s : State) : Res :=
  s.vconfigure (.vcfgi e g v d) e g [] v.toNat d

/-- VMVX (R327): a late result; `b` is the index register. -/
def execVmvx (e : BitVec 4) (b a d : Reg) (s : State) : Res :=
  s.velem (.vmvx e b a d) e.toNat a b [] (xs [d]) false (fun k => .mvx e.toNat d.toNat a.toNat k)

/-- VMVS (R327): `a` holds the value, `b` the index. -/
def execVmvs (e : BitVec 4) (b a d : Reg) (s : State) : Res :=
  s.velem (.vmvs e b a d) e.toNat d b (xs [a]) [] true (fun k => .mvs e.toNat d.toNat (s.me.xv a) k)

/-- VIDXRD (R247). -/
def execVidxrd (t : Bool) (b a d : Reg) (s : State) : Res :=
  s.vindexed (.vidxrd t b a d) true t b a d

/-- VIDXWR (R247). -/
def execVidxwr (t : Bool) (b a d : Reg) (s : State) : Res :=
  s.vindexed (.vidxwr t b a d) false t b a d

/-- VFIFO_PUSH_VM (R237). -/
def execVfifoPushVm  (s : State) : Res :=
  s.vpred .vfifoPushVm [] [] (.push false)

/-- VFIFO_PUSH_VC (R237). -/
def execVfifoPushVc  (s : State) : Res :=
  s.vpred .vfifoPushVc [] [] (.push true)

/-- A VFIFO pop word (R139, R237): it enters the queue, and the hart parks until the pop is made. -/
def State.vfifoPop (s : State) (i : Instr) (fromMatrix : Bool) : Res :=
  if s.me.park = some .pop then .next s
  else
    let r : VReq := { i := i, vl := s.me.vl, g := s.me.gsz, op := .pop fromMatrix }
    s.vguard r (s.guarded [parkIf (decide (8 ≤ s.me.vq.length)) .vqFull]
      (.next (s.updMe (fun a => ({ a with vq := a.vq ++ [a.command r], seq := a.seq + 1 }).parkFor .pop s.time s.clk))))

/-- VFIFO_POP_CV (R237). -/
def execVfifoPopCv  (s : State) : Res :=
  s.vfifoPop .vfifoPopCv false

/-- VFIFO_POP_MV (R237). -/
def execVfifoPopMv  (s : State) : Res :=
  s.vfifoPop .vfifoPopMv true

/-! ### The 16-bit forms (R240): the element type is vcfg's, and every one but VSEL is unmasked -/

/-- The element type of a 16-bit form. -/
def Hart.qet (a : Hart) : Nat := a.vcfg.et.toNat
/-- A 16-bit form of integers meets another type. -/
def Hart.qNotInt (a : Hart) : Bool := !etInt a.qet
/-- A 16-bit form of floats meets another type. -/
def Hart.qNotFlt (a : Hart) : Bool := decide (a.qet < 8) || decide (12 ≤ a.qet)

/-- VQ_VADD (R240). -/
def execVqVadd (d v : Reg) (s : State) : Res :=
  s.vbin (.vqVadd d v) s.me.qNotInt s.me.qet d (vreg v) v (.int .add s.me.qet 0 d.toNat (vreg v))

/-- VQ_VSUB (R240). -/
def execVqVsub (d v : Reg) (s : State) : Res :=
  s.vbin (.vqVsub d v) s.me.qNotInt s.me.qet d (vreg v) v (.int .sub s.me.qet 0 d.toNat (vreg v))

/-- VQ_VMUL (R240). -/
def execVqVmul (d v : Reg) (s : State) : Res :=
  s.vbin (.vqVmul d v) s.me.qNotInt s.me.qet d (vreg v) v (.int .mul s.me.qet 0 d.toNat (vreg v))

/-- VQ_VAND (R240). -/
def execVqVand (d v : Reg) (s : State) : Res :=
  s.vbin (.vqVand d v) s.me.qNotInt s.me.qet d (vreg v) v (.int .and s.me.qet 0 d.toNat (vreg v))

/-- VQ_VOR (R240). -/
def execVqVor (d v : Reg) (s : State) : Res :=
  s.vbin (.vqVor d v) s.me.qNotInt s.me.qet d (vreg v) v (.int .or s.me.qet 0 d.toNat (vreg v))

/-- VQ_VXOR (R240). -/
def execVqVxor (d v : Reg) (s : State) : Res :=
  s.vbin (.vqVxor d v) s.me.qNotInt s.me.qet d (vreg v) v (.int .xor s.me.qet 0 d.toNat (vreg v))

/-- VQ_VSLL (R240). -/
def execVqVsll (d v : Reg) (s : State) : Res :=
  s.vbin (.vqVsll d v) s.me.qNotInt s.me.qet d (vreg v) v (.int .sll s.me.qet 0 d.toNat (vreg v))

/-- VQ_VSRL (R240). -/
def execVqVsrl (d v : Reg) (s : State) : Res :=
  s.vbin (.vqVsrl d v) s.me.qNotInt s.me.qet d (vreg v) v (.int .srl s.me.qet 0 d.toNat (vreg v))

/-- VQ_VFADD (R240). -/
def execVqVfadd (d v : Reg) (s : State) : Res :=
  s.vbin (.vqVfadd d v) (s.me.qNotFlt || s.me.frmBad) s.me.qet d (vreg v) v (.flt .add s.me.qet 0 d.toNat (vreg v))

/-- VQ_VFMUL (R240). -/
def execVqVfmul (d v : Reg) (s : State) : Res :=
  s.vbin (.vqVfmul d v) (s.me.qNotFlt || s.me.frmBad) s.me.qet d (vreg v) v (.flt .mul s.me.qet 0 d.toNat (vreg v))

/-- VQ_VMAC (R240): the second source is the group after the first. -/
def execVqVmac (d v : Reg) (s : State) : Res :=
  s.vthree (.vqVmac d v) .mac s.me.qNotInt s.me.qet 0 d v (v.toNat + s.me.gsz)

/-- VQ_VFFMA (R240): the second source is the group after the first. -/
def execVqVffma (d v : Reg) (s : State) : Res :=
  s.vthree (.vqVffma d v) .ffma (s.me.qNotFlt || s.me.frmBad) s.me.qet 0 d v (v.toNat + s.me.gsz)

/-- VQ_VMV (R240). -/
def execVqVmv (d v : Reg) (s : State) : Res :=
  s.vuna (.vqVmv d v) false s.me.qet false d (vreg v) v (.mv s.me.qet 0 d.toNat (vreg v)) id

/-- VQ_VSEL (R240): masked by p1. -/
def execVqVsel (d v : Reg) (s : State) : Res :=
  s.vsel (.vqVsel d v) false s.me.qet 1 d (vreg v) v

end Sys2Proof.Machine
end

