-- ==== Sys2Proof/Machine/Dispatch.lean ====
section
/-!
DEFINITION. The dispatch: every constructor of Instr to its meaning.
-/
namespace Sys2Proof.Machine

def exec (i : Instr) (s : State) : Host.Outcome State Fault Refusal :=
  match i with
  | .scalarAlu a => Sys2Proof.Machine.execScalarAlu a s
  | .integerDivide op d a b => Sys2Proof.Machine.execIntegerDivide op d a b s
  | .fpDivideSqrt sqrt f rm d a b => Sys2Proof.Machine.execFpDivideSqrt sqrt f rm d a b s
  | .scalarLoad op d a imm => Sys2Proof.Machine.execScalarLoad op d a imm s
  | .scalarStore op a b imm => Sys2Proof.Machine.execScalarStore op a b imm s
  | .amo op dbl aq rl d a b => Sys2Proof.Machine.execAmo op dbl aq rl d a b s
  | .lr dbl aq rl d a => Sys2Proof.Machine.execLr dbl aq rl d a s
  | .sc dbl aq rl d a b => Sys2Proof.Machine.execSc dbl aq rl d a b s
  | .fence fm pred succ => Sys2Proof.Machine.execFence fm pred succ s
  | .sfenceVma b a => Sys2Proof.Machine.execSfenceVma b a s
  | .csrAccess op imm csr d a => Sys2Proof.Machine.execCsrAccess op imm csr d a s
  | .takingAdd u t b a d => Sys2Proof.Machine.execTakingAdd u t b a d s
  | .takingSub u t b a d => Sys2Proof.Machine.execTakingSub u t b a d s
  | .takingSll u t b a d => Sys2Proof.Machine.execTakingSll u t b a d s
  | .takingSlt u t b a d => Sys2Proof.Machine.execTakingSlt u t b a d s
  | .takingSltu u t b a d => Sys2Proof.Machine.execTakingSltu u t b a d s
  | .takingXor u t b a d => Sys2Proof.Machine.execTakingXor u t b a d s
  | .takingSrl u t b a d => Sys2Proof.Machine.execTakingSrl u t b a d s
  | .takingSra u t b a d => Sys2Proof.Machine.execTakingSra u t b a d s
  | .takingOr u t b a d => Sys2Proof.Machine.execTakingOr u t b a d s
  | .takingAnd u t b a d => Sys2Proof.Machine.execTakingAnd u t b a d s
  | .takingAddw u t b a d => Sys2Proof.Machine.execTakingAddw u t b a d s
  | .takingSubw u t b a d => Sys2Proof.Machine.execTakingSubw u t b a d s
  | .takingSllw u t b a d => Sys2Proof.Machine.execTakingSllw u t b a d s
  | .takingSrlw u t b a d => Sys2Proof.Machine.execTakingSrlw u t b a d s
  | .takingSraw u t b a d => Sys2Proof.Machine.execTakingSraw u t b a d s
  | .takingMul u t b a d => Sys2Proof.Machine.execTakingMul u t b a d s
  | .takingMulh u t b a d => Sys2Proof.Machine.execTakingMulh u t b a d s
  | .takingMulhu u t b a d => Sys2Proof.Machine.execTakingMulhu u t b a d s
  | .takingMulw u t b a d => Sys2Proof.Machine.execTakingMulw u t b a d s
  | .takingMin u t b a d => Sys2Proof.Machine.execTakingMin u t b a d s
  | .takingMax u t b a d => Sys2Proof.Machine.execTakingMax u t b a d s
  | .takingMinu u t b a d => Sys2Proof.Machine.execTakingMinu u t b a d s
  | .takingMaxu u t b a d => Sys2Proof.Machine.execTakingMaxu u t b a d s
  | .putx u t b a d => Sys2Proof.Machine.execPutx u t b a d s
  | .take t a d => Sys2Proof.Machine.execTake t a d s
  | .prempty b d => Sys2Proof.Machine.execPrempty b d s
  | .prtest b a d => Sys2Proof.Machine.execPrtest b a d s
  | .vidxrd t b a d => Sys2Proof.Machine.execVidxrd t b a d s
  | .vidxwr t b a d => Sys2Proof.Machine.execVidxwr t b a d s
  | .vpush t b a d => Sys2Proof.Machine.execVpush t b a d s
  | .bfx u t b a d => Sys2Proof.Machine.execBfx u t b a d s
  | .bfxs u t b a d => Sys2Proof.Machine.execBfxs u t b a d s
  | .bfi u t b a d => Sys2Proof.Machine.execBfi u t b a d s
  | .tenq u t b a => Sys2Proof.Machine.execTenq u t b a s
  | .tenqt u t b a d => Sys2Proof.Machine.execTenqt u t b a d s
  | .klaunch t a d => Sys2Proof.Machine.execKlaunch t a d s
  | .ticket t a d => Sys2Proof.Machine.execTicket t a d s
  | .pgbiasHost e k a => Sys2Proof.Machine.execPgbiasHost e k a s
  | .pgbiasDev e k a => Sys2Proof.Machine.execPgbiasDev e k a s
  | .pwhint a => Sys2Proof.Machine.execPwhint a s
  | .sbwait m => Sys2Proof.Machine.execSbwait m s
  | .vcfg e g a d => Sys2Proof.Machine.execVcfg e g a d s
  | .vcfgi e g v d => Sys2Proof.Machine.execVcfgi e g v d s
  | .vmvx e b a d => Sys2Proof.Machine.execVmvx e b a d s
  | .vmvs e b a d => Sys2Proof.Machine.execVmvs e b a d s
  | .ldsRlx sc z b d => Sys2Proof.Machine.execLdsRlx sc z b d s
  | .ldsAcq sc z b d => Sys2Proof.Machine.execLdsAcq sc z b d s
  | .stsRlx sc v b z => Sys2Proof.Machine.execStsRlx sc v b z s
  | .stsRel sc v b z => Sys2Proof.Machine.execStsRel sc v b z s
  | .fenceSAcq sc => Sys2Proof.Machine.execFenceSAcq sc s
  | .fenceSRel sc => Sys2Proof.Machine.execFenceSRel sc s
  | .fenceSAr sc => Sys2Proof.Machine.execFenceSAr sc s
  | .bind c b a => Sys2Proof.Machine.execBind c b a s
  | .unbind b a => Sys2Proof.Machine.execUnbind b a s
  | .acq sc b => Sys2Proof.Machine.execAcq sc b s
  | .tryacq sc b d => Sys2Proof.Machine.execTryacq sc b d s
  | .rel sc b => Sys2Proof.Machine.execRel sc b s
  | .arrive sc b => Sys2Proof.Machine.execArrive sc b s
  | .waitph sc c b => Sys2Proof.Machine.execWaitph sc c b s
  | .testph sc c b d => Sys2Proof.Machine.execTestph sc c b d s
  | .freeze e k c b a => Sys2Proof.Machine.execFreeze e k c b a s
  | .thaw e k c b a => Sys2Proof.Machine.execThaw e k c b a s
  | .cpy e k c b u q h => Sys2Proof.Machine.execCpy e k c b u q h s
  | .cpyb e k c b u q h => Sys2Proof.Machine.execCpyb e k c b u q h s
  | .shpld b h => Sys2Proof.Machine.execShpld b h s
  | .shpst b h => Sys2Proof.Machine.execShpst b h s
  | .talloc e p k c b d => Sys2Proof.Machine.execTalloc e p k c b d s
  | .tallocZ e p k c b d => Sys2Proof.Machine.execTallocZ e p k c b d s
  | .tfree b => Sys2Proof.Machine.execTfree b s
  | .tld e c b d => Sys2Proof.Machine.execTld e c b d s
  | .tst e c b v => Sys2Proof.Machine.execTst e c b v s
  | .gld e k c b a => Sys2Proof.Machine.execGld e k c b a s
  | .gldv e k c b a => Sys2Proof.Machine.execGldv e k c b a s
  | .gjoin c b d => Sys2Proof.Machine.execGjoin c b d s
  | .gleave b => Sys2Proof.Machine.execGleave b s
  | .vaddVv p e v d => Sys2Proof.Machine.execVaddVv p e v d s
  | .vaddVs p e v d => Sys2Proof.Machine.execVaddVs p e v d s
  | .vaddVi p e j d => Sys2Proof.Machine.execVaddVi p e j d s
  | .vfaddVv p e v d => Sys2Proof.Machine.execVfaddVv p e v d s
  | .vfaddVs p e v d => Sys2Proof.Machine.execVfaddVs p e v d s
  | .vsubVv p e v d => Sys2Proof.Machine.execVsubVv p e v d s
  | .vsubVs p e v d => Sys2Proof.Machine.execVsubVs p e v d s
  | .vfsubVv p e v d => Sys2Proof.Machine.execVfsubVv p e v d s
  | .vfsubVs p e v d => Sys2Proof.Machine.execVfsubVs p e v d s
  | .vrsubVs p e v d => Sys2Proof.Machine.execVrsubVs p e v d s
  | .vrsubVi p e j d => Sys2Proof.Machine.execVrsubVi p e j d s
  | .vmulVv p e v d => Sys2Proof.Machine.execVmulVv p e v d s
  | .vmulVs p e v d => Sys2Proof.Machine.execVmulVs p e v d s
  | .vfmulVv p e v d => Sys2Proof.Machine.execVfmulVv p e v d s
  | .vfmulVs p e v d => Sys2Proof.Machine.execVfmulVs p e v d s
  | .vmulhVv p e v d => Sys2Proof.Machine.execVmulhVv p e v d s
  | .vmulhVs p e v d => Sys2Proof.Machine.execVmulhVs p e v d s
  | .vmulhnVv p e v d => Sys2Proof.Machine.execVmulhnVv p e v d s
  | .vmulhnVs p e v d => Sys2Proof.Machine.execVmulhnVs p e v d s
  | .vaddsVv p e v d => Sys2Proof.Machine.execVaddsVv p e v d s
  | .vaddsVs p e v d => Sys2Proof.Machine.execVaddsVs p e v d s
  | .vaddsVi p e j d => Sys2Proof.Machine.execVaddsVi p e j d s
  | .vsubsVv p e v d => Sys2Proof.Machine.execVsubsVv p e v d s
  | .vsubsVs p e v d => Sys2Proof.Machine.execVsubsVs p e v d s
  | .vminVv p e v d => Sys2Proof.Machine.execVminVv p e v d s
  | .vminVs p e v d => Sys2Proof.Machine.execVminVs p e v d s
  | .vfminVv p e v d => Sys2Proof.Machine.execVfminVv p e v d s
  | .vfminVs p e v d => Sys2Proof.Machine.execVfminVs p e v d s
  | .vmaxVv p e v d => Sys2Proof.Machine.execVmaxVv p e v d s
  | .vmaxVs p e v d => Sys2Proof.Machine.execVmaxVs p e v d s
  | .vfmaxVv p e v d => Sys2Proof.Machine.execVfmaxVv p e v d s
  | .vfmaxVs p e v d => Sys2Proof.Machine.execVfmaxVs p e v d s
  | .vandVv p e v d => Sys2Proof.Machine.execVandVv p e v d s
  | .vandVs p e v d => Sys2Proof.Machine.execVandVs p e v d s
  | .vandVi p e j d => Sys2Proof.Machine.execVandVi p e j d s
  | .vorVv p e v d => Sys2Proof.Machine.execVorVv p e v d s
  | .vorVs p e v d => Sys2Proof.Machine.execVorVs p e v d s
  | .vorVi p e j d => Sys2Proof.Machine.execVorVi p e j d s
  | .vxorVv p e v d => Sys2Proof.Machine.execVxorVv p e v d s
  | .vxorVs p e v d => Sys2Proof.Machine.execVxorVs p e v d s
  | .vxorVi p e j d => Sys2Proof.Machine.execVxorVi p e j d s
  | .vsllVv p e v d => Sys2Proof.Machine.execVsllVv p e v d s
  | .vsllVs p e v d => Sys2Proof.Machine.execVsllVs p e v d s
  | .vsllVi p e j d => Sys2Proof.Machine.execVsllVi p e j d s
  | .vsrlVv p e v d => Sys2Proof.Machine.execVsrlVv p e v d s
  | .vsrlVs p e v d => Sys2Proof.Machine.execVsrlVs p e v d s
  | .vsrlVi p e j d => Sys2Proof.Machine.execVsrlVi p e j d s
  | .vsraVv p e v d => Sys2Proof.Machine.execVsraVv p e v d s
  | .vsraVs p e v d => Sys2Proof.Machine.execVsraVs p e v d s
  | .vsraVi p e j d => Sys2Proof.Machine.execVsraVi p e j d s
  | .vfdivVv p e v d => Sys2Proof.Machine.execVfdivVv p e v d s
  | .vfdivVs p e v d => Sys2Proof.Machine.execVfdivVs p e v d s
  | .vselVv p e v d => Sys2Proof.Machine.execVselVv p e v d s
  | .vselVs p e v d => Sys2Proof.Machine.execVselVs p e v d s
  | .vselVi p e j d => Sys2Proof.Machine.execVselVi p e j d s
  | .vcmpVv c p e v d => Sys2Proof.Machine.execVcmpVv c p e v d s
  | .vcmpVs c p e v d => Sys2Proof.Machine.execVcmpVs c p e v d s
  | .vcmpVi c p e j d => Sys2Proof.Machine.execVcmpVi c p e j d s
  | .vfcmpVv c p e v d => Sys2Proof.Machine.execVfcmpVv c p e v d s
  | .vfcmpVs c p e v d => Sys2Proof.Machine.execVfcmpVs c p e v d s
  | .vperm p e v d => Sys2Proof.Machine.execVperm p e v d s
  | .vslupVs p e v d => Sys2Proof.Machine.execVslupVs p e v d s
  | .vslupVi p e j d => Sys2Proof.Machine.execVslupVi p e j d s
  | .vsldnVs p e v d => Sys2Proof.Machine.execVsldnVs p e v d s
  | .vsldnVi p e j d => Sys2Proof.Machine.execVsldnVi p e j d s
  | .vsl1up p e v d => Sys2Proof.Machine.execVsl1up p e v d s
  | .vxchg p e j d => Sys2Proof.Machine.execVxchg p e j d s
  | .vscale p e v d => Sys2Proof.Machine.execVscale p e v d s
  | .vmac b p e a d => Sys2Proof.Machine.execVmac b p e a d s
  | .vffma b p e a d => Sys2Proof.Machine.execVffma b p e a d s
  | .vwmac b p e a d => Sys2Proof.Machine.execVwmac b p e a d s
  | .vffms b p e a d => Sys2Proof.Machine.execVffms b p e a d s
  | .vwmul b p e a d => Sys2Proof.Machine.execVwmul b p e a d s
  | .vfnfma b p e a d => Sys2Proof.Machine.execVfnfma b p e a d s
  | .vcvt f p e v d => Sys2Proof.Machine.execVcvt f p e v d s
  | .vcvtSr f p e v d => Sys2Proof.Machine.execVcvtSr f p e v d s
  | .vmv p e v d => Sys2Proof.Machine.execVmv p e v d s
  | .vmvScalar p e v d => Sys2Proof.Machine.execVmvScalar p e v d s
  | .vtake p e v d => Sys2Proof.Machine.execVtake p e v d s
  | .vcompress p e v d => Sys2Proof.Machine.execVcompress p e v d s
  | .vclz p e v d => Sys2Proof.Machine.execVclz p e v d s
  | .vfabs p e v d => Sys2Proof.Machine.execVfabs p e v d s
  | .vpopc p e v d => Sys2Proof.Machine.execVpopc p e v d s
  | .vfneg p e v d => Sys2Proof.Machine.execVfneg p e v d s
  | .vfsqrt p e v d => Sys2Proof.Machine.execVfsqrt p e v d s
  | .vfclass p e v d => Sys2Proof.Machine.execVfclass p e v d s
  | .vrcp p v d => Sys2Proof.Machine.execVrcp p v d s
  | .vrsqrt p v d => Sys2Proof.Machine.execVrsqrt p v d s
  | .vexp2 p v d => Sys2Proof.Machine.execVexp2 p v d s
  | .vlog2 p v d => Sys2Proof.Machine.execVlog2 p v d s
  | .vsin p v d => Sys2Proof.Machine.execVsin p v d s
  | .vcos p v d => Sys2Proof.Machine.execVcos p v d s
  | .vredsum p e v d => Sys2Proof.Machine.execVredsum p e v d s
  | .vfredsum p e v d => Sys2Proof.Machine.execVfredsum p e v d s
  | .vredmin p e v d => Sys2Proof.Machine.execVredmin p e v d s
  | .vredmax p e v d => Sys2Proof.Machine.execVredmax p e v d s
  | .pand p b a => Sys2Proof.Machine.execPand p b a s
  | .por p b a => Sys2Proof.Machine.execPor p b a s
  | .pxor p b a => Sys2Proof.Machine.execPxor p b a s
  | .pnot p a => Sys2Proof.Machine.execPnot p a s
  | .pset p x => Sys2Proof.Machine.execPset p x s
  | .pfirst b d => Sys2Proof.Machine.execPfirst b d s
  | .pmskup p a => Sys2Proof.Machine.execPmskup p a s
  | .pcnt b d => Sys2Proof.Machine.execPcnt b d s
  | .vedge p x d => Sys2Proof.Machine.execVedge p x d s
  | .vrbox p x d => Sys2Proof.Machine.execVrbox p x d s
  | .vrtri p x d => Sys2Proof.Machine.execVrtri p x d s
  | .vtex p x d => Sys2Proof.Machine.execVtex p x d s
  | .vtexl p x d => Sys2Proof.Machine.execVtexl p x d s
  | .blendc p x d => Sys2Proof.Machine.execBlendc p x d s
  | .vld e p c a d => Sys2Proof.Machine.execVld e p c a d s
  | .vst e p c a d => Sys2Proof.Machine.execVst e p c a d s
  | .vldff e p c a d => Sys2Proof.Machine.execVldff e p c a d s
  | .vldsr w k p c a d => Sys2Proof.Machine.execVldsr w k p c a d s
  | .vlds st p c w a d => Sys2Proof.Machine.execVlds st p c w a d s
  | .vsts st p c w a d => Sys2Proof.Machine.execVsts st p c w a d s
  | .vldx v p c w a d => Sys2Proof.Machine.execVldx v p c w a d s
  | .vstx v p c w a d => Sys2Proof.Machine.execVstx v p c w a d s
  | .vamoAdd v p w a d => Sys2Proof.Machine.execVamoAdd v p w a d s
  | .vamoSwap v p w a d => Sys2Proof.Machine.execVamoSwap v p w a d s
  | .vamoMin v p w a d => Sys2Proof.Machine.execVamoMin v p w a d s
  | .vamoMax v p w a d => Sys2Proof.Machine.execVamoMax v p w a d s
  | .mrow a u m e k t d => Sys2Proof.Machine.execMrow a u m e k t d s
  | .msca a e t d => Sys2Proof.Machine.execMsca a e t d s
  | .mcfg a d => Sys2Proof.Machine.execMcfg a d s
  | .mldb a e k c v d => Sys2Proof.Machine.execMldb a e k c v d s
  | .mzero a => Sys2Proof.Machine.execMzero a s
  | .mrd a e u d => Sys2Proof.Machine.execMrd a e u d s
  | .mdrainSt a u b d => Sys2Proof.Machine.execMdrainSt a u b d s
  | .mdrainAdd a u b d => Sys2Proof.Machine.execMdrainAdd a u b d s
  | .mdrainxSt a e b d => Sys2Proof.Machine.execMdrainxSt a e b d s
  | .mdrainxAdd a e b d => Sys2Proof.Machine.execMdrainxAdd a e b d s
  | .vqVadd d v => Sys2Proof.Machine.execVqVadd d v s
  | .vqVsub d v => Sys2Proof.Machine.execVqVsub d v s
  | .vqVmul d v => Sys2Proof.Machine.execVqVmul d v s
  | .vqVmac d v => Sys2Proof.Machine.execVqVmac d v s
  | .vqVfadd d v => Sys2Proof.Machine.execVqVfadd d v s
  | .vqVfmul d v => Sys2Proof.Machine.execVqVfmul d v s
  | .vqVffma d v => Sys2Proof.Machine.execVqVffma d v s
  | .vqVand d v => Sys2Proof.Machine.execVqVand d v s
  | .vqVor d v => Sys2Proof.Machine.execVqVor d v s
  | .vqVxor d v => Sys2Proof.Machine.execVqVxor d v s
  | .vqVsll d v => Sys2Proof.Machine.execVqVsll d v s
  | .vqVsrl d v => Sys2Proof.Machine.execVqVsrl d v s
  | .vqVmv d v => Sys2Proof.Machine.execVqVmv d v s
  | .vqVsel d v => Sys2Proof.Machine.execVqVsel d v s
  | .vqVld d x => Sys2Proof.Machine.execVqVld d x s
  | .vqVst d x => Sys2Proof.Machine.execVqVst d x s
  | .fenceTso => Sys2Proof.Machine.execFenceTso s
  | .fenceI => Sys2Proof.Machine.execFenceI s
  | .ecall => Sys2Proof.Machine.execEcall s
  | .ebreak => Sys2Proof.Machine.execEbreak s
  | .sret => Sys2Proof.Machine.execSret s
  | .mret => Sys2Proof.Machine.execMret s
  | .wfi => Sys2Proof.Machine.execWfi s
  | .texit => Sys2Proof.Machine.execTexit s
  | .tyield => Sys2Proof.Machine.execTyield s
  | .vfence => Sys2Proof.Machine.execVfence s
  | .vfifoPushVm => Sys2Proof.Machine.execVfifoPushVm s
  | .vfifoPushVc => Sys2Proof.Machine.execVfifoPushVc s
  | .vfifoPopCv => Sys2Proof.Machine.execVfifoPopCv s
  | .vfifoPopMv => Sys2Proof.Machine.execVfifoPopMv s
  | .interruptEntry => Sys2Proof.Machine.execInterruptEntry s
  | .lateResultLand => Sys2Proof.Machine.execLateResultLand s
  | .remoteWriteLand => Sys2Proof.Machine.execRemoteWriteLand s
  | .presenceTimeout => Sys2Proof.Machine.execPresenceTimeout s
  | .vectorQueueExecute => Sys2Proof.Machine.execVectorQueueExecute s
  | .matrixQueueExecute => Sys2Proof.Machine.execMatrixQueueExecute s
  | .drainComplete => Sys2Proof.Machine.execDrainComplete s
  | .fifoHoldExpiry => Sys2Proof.Machine.execFifoHoldExpiry s
  | .pageWalk => Sys2Proof.Machine.execPageWalk s
  | .pageFlush => Sys2Proof.Machine.execPageFlush s
  | .chinookAnswer => Sys2Proof.Machine.execChinookAnswer s
  | .partitionMissTimeout => Sys2Proof.Machine.execPartitionMissTimeout s
  | .shootdownAck => Sys2Proof.Machine.execShootdownAck s
  | .chinookInvalidate => Sys2Proof.Machine.execChinookInvalidate s
  | .homeSliceRequest => Sys2Proof.Machine.execHomeSliceRequest s
  | .directoryProbe => Sys2Proof.Machine.execDirectoryProbe s
  | .victimOffer => Sys2Proof.Machine.execVictimOffer s
  | .writeBackArrival => Sys2Proof.Machine.execWriteBackArrival s
  | .wbdWrite => Sys2Proof.Machine.execWbdWrite s
  | .agentRejoin => Sys2Proof.Machine.execAgentRejoin s
  | .errlogRead => Sys2Proof.Machine.execErrlogRead s
  | .cecntWrite => Sys2Proof.Machine.execCecntWrite s
  | .bankWakeDone => Sys2Proof.Machine.execBankWakeDone s
  | .bankRetWakeDone => Sys2Proof.Machine.execBankRetWakeDone s
  | .bankPowerOff => Sys2Proof.Machine.execBankPowerOff s
  | .bankRetention => Sys2Proof.Machine.execBankRetention s
  | .wayRetire => Sys2Proof.Machine.execWayRetire s
  | .wayWakeDone => Sys2Proof.Machine.execWayWakeDone s
  | .wroleWrite => Sys2Proof.Machine.execWroleWrite s
  | .swrWrite => Sys2Proof.Machine.execSwrWrite s
  | .roleChangeDone => Sys2Proof.Machine.execRoleChangeDone s
  | .wayPinDone => Sys2Proof.Machine.execWayPinDone s
  | .bwphWrite => Sys2Proof.Machine.execBwphWrite s
  | .devicePhaseSettle => Sys2Proof.Machine.execDevicePhaseSettle s
  | .gddrPowerDown => Sys2Proof.Machine.execGddrPowerDown s
  | .groupRequestArrive => Sys2Proof.Machine.execGroupRequestArrive s
  | .groupHoldTimeout => Sys2Proof.Machine.execGroupHoldTimeout s
  | .groupFillLand => Sys2Proof.Machine.execGroupFillLand s
  | .freezeComplete => Sys2Proof.Machine.execFreezeComplete s
  | .thawComplete => Sys2Proof.Machine.execThawComplete s
  | .peerInvalidateTimeout => Sys2Proof.Machine.execPeerInvalidateTimeout s
  | .stampSweepStart => Sys2Proof.Machine.execStampSweepStart s
  | .wayKill => Sys2Proof.Machine.execWayKill s
  | .stampSweepEnd => Sys2Proof.Machine.execStampSweepEnd s
  | .swgoWrite => Sys2Proof.Machine.execSwgoWrite s
  | .acqRetry => Sys2Proof.Machine.execAcqRetry s
  | .copyAdmit => Sys2Proof.Machine.execCopyAdmit s
  | .copyRunEmit => Sys2Proof.Machine.execCopyRunEmit s
  | .copyLinePerformed => Sys2Proof.Machine.execCopyLinePerformed s
  | .copyComplete => Sys2Proof.Machine.execCopyComplete s
  | .slidePrefetch => Sys2Proof.Machine.execSlidePrefetch s
  | .wdlimWrite => Sys2Proof.Machine.execWdlimWrite s
  | .fmtWrite => Sys2Proof.Machine.execFmtWrite s
  | .sbstatWrite => Sys2Proof.Machine.execSbstatWrite s
  | .vhwWrite => Sys2Proof.Machine.execVhwWrite s
  | .csrWrite => Sys2Proof.Machine.execCsrWrite s
  | .mmioWrite => Sys2Proof.Machine.execMmioWrite s
  | .enqueueArrive => Sys2Proof.Machine.execEnqueueArrive s
  | .enqueueRetry => Sys2Proof.Machine.execEnqueueRetry s
  | .filterTokenAccrue => Sys2Proof.Machine.execFilterTokenAccrue s
  | .taskBind => Sys2Proof.Machine.execTaskBind s
  | .taskPreload => Sys2Proof.Machine.execTaskPreload s
  | .taskAgeing => Sys2Proof.Machine.execTaskAgeing s
  | .urgentEvict => Sys2Proof.Machine.execUrgentEvict s
  | .portGrant => Sys2Proof.Machine.execPortGrant s
  | .portTokenAccrue => Sys2Proof.Machine.execPortTokenAccrue s
  | .partitionStop => Sys2Proof.Machine.execPartitionStop s
  | .partitionResume => Sys2Proof.Machine.execPartitionResume s
  | .quadReassign => Sys2Proof.Machine.execQuadReassign s
  | .vfReset => Sys2Proof.Machine.execVfReset s
  | .retireCall => Sys2Proof.Machine.execRetireCall s
  | .msixCall => Sys2Proof.Machine.execMsixCall s
  | .swiCall => Sys2Proof.Machine.execSwiCall s
  | .claimCall => Sys2Proof.Machine.execClaimCall s
  | .externalSourceRaise => Sys2Proof.Machine.execExternalSourceRaise s
  | .mistralPeriod => Sys2Proof.Machine.execMistralPeriod s
  | .railRaiseDone => Sys2Proof.Machine.execRailRaiseDone s
  | .droopSignal => Sys2Proof.Machine.execDroopSignal s
  | .clvlRise => Sys2Proof.Machine.execClvlRise s
  | .clvlFall => Sys2Proof.Machine.execClvlFall s
  | .tlvlWrite => Sys2Proof.Machine.execTlvlWrite s
  | .sfailWrite => Sys2Proof.Machine.execSfailWrite s
  | .sensorSample => Sys2Proof.Machine.execSensorSample s
  | .pwhintExpire => Sys2Proof.Machine.execPwhintExpire s
  | .idleEntry => Sys2Proof.Machine.execIdleEntry s
  | .idleWake => Sys2Proof.Machine.execIdleWake s
  | .evpopRead => Sys2Proof.Machine.execEvpopRead s
  | .evpushWrite => Sys2Proof.Machine.execEvpushWrite s
  | .hostMemRead => Sys2Proof.Machine.execHostMemRead s
  | .hostMemWrite => Sys2Proof.Machine.execHostMemWrite s
  | .bisnpResponse => Sys2Proof.Machine.execBisnpResponse s
  | .biasFlipComplete => Sys2Proof.Machine.execBiasFlipComplete s
  | .hostSnoop => Sys2Proof.Machine.execHostSnoop s
  | .eqdescWrite => Sys2Proof.Machine.execEqdescWrite s
  | .hostirqWrite => Sys2Proof.Machine.execHostirqWrite s
  | .ucieTraining => Sys2Proof.Machine.execUcieTraining s
  | .firmwareVerify => Sys2Proof.Machine.execFirmwareVerify s
  | .spdmRequest => Sys2Proof.Machine.execSpdmRequest s
  | .boraLinkChange => Sys2Proof.Machine.execBoraLinkChange s
  | .peerRequest => Sys2Proof.Machine.execPeerRequest s
  | .collectiveAbort => Sys2Proof.Machine.execCollectiveAbort s
  | .supervisorTimerInterrupt => Sys2Proof.Machine.execSupervisorTimerInterrupt s
  | .blendcQueueLimit => Sys2Proof.Machine.execBlendcQueueLimit s
  | .runBudgetExceeded => Sys2Proof.Machine.execRunBudgetExceeded s
  | .memoryFillReturn => Sys2Proof.Machine.execMemoryFillReturn s
  | .frameLeavesPartition => Sys2Proof.Machine.execFrameLeavesPartition s

end Sys2Proof.Machine
end

