-- ==== Sys2Proof/Machine/Fetch.lean ====
section
/-!
DEFINITION. Fetching (R216, R59), the issue turn of a hart, the steps of the other agents, and the schedule (log 1).
-/
namespace Sys2Proof.Machine

/-! ### Fetching an instruction (R59, R79, R183, R216) -/

/-- The quad keeps a line of code for the WARMPC of a queue (R376). -/
def State.keepsCode (s : State) (q line : Nat) : Bool := (s.warmIn q).any (fun w => w.2.contains line)

/-- The 16-bit parcel at an address, out of the core's L1 instruction cache, of the lines that its quad keeps, or from the slices; a line
with an uncorrectable error takes cause 1 (R79). The L1 instruction cache takes normal lines of GDDR-7 in device bias (R404, R406). -/
def State.fetchParcel (s : State) (va : Word) : Except Stop (Nat × State) :=
  match s.translate (s.reqOf s.cur) va .fetch with
  | .fault c w => .error (faultStop c va w)
  | .miss g => .error (s.missStop s.cur va .fetch g)
  | .wait p => .error (.park p)
  | .ok e pa t =>
    let c := coreOf s.cur
    let line := lineOf pa
    let parcel (bytes : List Byte) : Nat := leNat ((bytes.drop (pa % 64)).take 2)
    match (t.core c).l1i.find? (fun l => l.1 == line) with
    | some l => if t.poison.contains (codeSite c line) then .error (.report 1 va 0 (.bad 1 pa)) else .ok (parcel l.2, t)
    | none =>
      if isMmio pa then .ok (t.fetchData (e.keyAt pa) pa 2)
      else if 2 ≤ Tab.get t.bias (pageOf pa) 0 then .error (.park .access)
      else if t.mustSnoop s.cur pa false then .error (.park (.snoop line false))
      else if t.badLine line then .error (.report 1 va 0 (.bad (t.unitOf none pa) pa))
      else
        let bytes := (t.memUnder (e.keyAt pa)).readBytes (line * 64) 64
        if t.inL1 e pa ∧ t.keepsCode (c / 4) line then .ok (parcel bytes, t.keepCode c e pa)
        else if e.mt ≠ .device ∧ t.sliceBusy (c / 4) pa false e.replica then .error (.park .missFull)
        else if t.inL1 e pa then .ok (parcel bytes, t.fillL1i c e pa)
        else .ok (parcel bytes, t.bypass (c / 4) pa false (treatOf e.mt 0) e.replica)

/-- The 2 or 4 bytes at the pc, as a number; a fault of the second half holds the second half's address (R216). -/
def State.fetchRaw (s : State) : Except Stop (Nat × Nat × State) :=
  match s.fetchParcel s.me.pc with
  | .error st => .error st
  | .ok (lo, t) =>
    if lo % 4 = 3 then
      match t.fetchParcel (s.me.pc + 2) with
      | .error st => .error st
      | .ok (hi, u) => .ok (4, lo + hi * 2 ^ 16, u)
    else .ok (2, lo, t)

/-- The instruction in some fetched bytes. -/
def rawInstr (n w : Nat) : Except Reject (Instr × List Byte) := decode (wordBytes n w)

/-- The fetch stops: it waits, or it faults, and what the parked instruction had marked pending is as it was. Where it was the first
at stvec, the hart does not enter again (R184). -/
def State.fetchStop (s : State) (st : Stop) : Res :=
  let u := s.updMe Hart.unclaim
  match st, s.me.handlerFetch with
  | .park p, _ => s.parks p
  | .trap c v, true => u.parks (.dying c s.me.pc v)
  | .report c v _ w, true => (u.tell s.cur c v w).parks (.dying c s.me.pc v)
  | _, _ => u.stop st

/-- The hart at issue begins its instruction: what it had marked pending while it was parked there is as it was, until it parks
again (R274, R298). -/
def State.begins (s : State) : State := s.updMe (fun a => { a.unclaim with handlerFetch := false })

/-- An encoding of an instruction that starts at veix: of custom-2, of format VM, of format VQ, VIDXRD, VIDXWR, VMVX, VMVS or VPUSH
(R185). -/
def startsAtVeix (n w : Nat) : Bool :=
  if n = 2 then (decodeVq w).isSome
  else match decodeMajor w with
    | some (.vidxrd _ _ _ _) => true
    | some (.vidxwr _ _ _ _) => true
    | some (.vpush _ _ _ _) => true
    | some _ => decide (w % 128 = 0x5B) || (decide (w % 128 = 0x7B) && decide (fld w 12 3 ≤ 5))
    | none => false

/-- The element at which an encoding that decode refuses stops: of a vector instruction, whose check 1 covers decode (R310), veix as it
is (R428). -/
def Hart.refusedAt (a : Hart) (n w : Nat) : Nat := if startsAtVeix n w then a.veix.toNat else 0

/-- Fetch, decode, execute (R216, R221): an encoding that the decoder refuses is illegal, with its word in stval. -/
def State.fetchExec (s : State) : Res :=
  match s.fetchRaw with
  | .error st => s.fetchStop st
  | .ok (n, w, t) =>
    let u := t.begins
    match rawInstr n w with
    | .error _ => u.trapAt 2 (BitVec.ofNat 64 w) (u.me.refusedAt n w)
    | .ok (i, _) => exec i u

/-! ### The issue turn of a hart (R170, R175, R189, R396) -/

/-- A park whose end is another agent's step: the hart does nothing at its turns. -/
def Park.idles : Park → Bool
  | .pop => true
  | .chinook => true
  | .dying _ _ _ => true
  | .retiring => true
  | .bwph => true
  | .pmiss _ _ _ => true
  | _ => false

/-- A throttled quad issues nothing in n of 8 rotations, spread evenly (R396). -/
def State.throttled (s : State) (h : Nat) : Bool :=
  let n := (s.quad (quadOf h)).tlvl
  let r := s.time / 8 % 8
  decide ((r + 1) * n / 8 ≠ r * n / 8)

/-- The hart may issue: it has a task, its quad is not throttled, its saved commands have run (R189), its partition runs or it
is in a park that a stop does not end (R382). -/
def State.mayIssue (s : State) (h : Nat) : Bool :=
  let a := s.hart h
  a.task.isSome && !s.throttled h && !(a.resuming && s.vworks h) &&
  (match a.park with
    | none => !s.quadStopped (quadOf h)
    | some p => !p.idles && !(s.quadStopped (quadOf h) && p.interruptible))

/-- The failed walks of the page at which a hart has just trapped end (R28): its next fetch is the first at stvec, or it is being retired
(R184). -/
def State.endTrapped (s : State) (h : Nat) : State :=
  let a := s.hart h
  let gone (v : Word) : State := s.endFailed (dieOfQuad (quadOf h)) (s.partOf h) (v.toNat / 4096)
  match a.park with
  | some (.dying _ _ v) => gone v
  | _ => if a.handlerFetch && [1, 5, 7, 12, 13, 15].contains a.csr.scause.toNat then gone a.csr.stval else s

/-- After a turn: a denial that the hart did not meet again is forgotten, and so are answers to snoops it no longer needs; a failed walk
ends with its trap; a hart whose partition is stopped leaves a park that a stop ends (R189). -/
def State.afterIssue (s₀ : State) (h : Nat) : State :=
  let s₁ := s₀.endTrapped h
  let s := if s₁.quadStopped (quadOf h) then s₁.leavePark h else s₁
  let p := (s.hart h).park
  let miss := match p with
    | some (.pmiss _ _ _) => true
    | _ => false
  let asks := match p with
    | some (.snoop _ _) => true
    | some .access => true
    | some .missFull => true
    | some (.commit _ _ _ _) => true
    | _ => false
  let t := if miss || (s.hart h).denied.isNone then s else s.updHart h (fun a => { a with denied := none })
  if asks || !t.bisnps.any (fun b => b.who == h) then t
  else { t with bisnps := t.bisnps.filter (fun b => b.who != h) }

/-- What follows a next state. -/
def andThen (r : Res) (f : State → State) : Res :=
  match r with
  | .next s => .next (f s)
  | .fault x => .fault x
  | .refused x => .refused x

/-- One turn of a hart. -/
def State.issueTurn (s : State) (h : Nat) : Res :=
  let t := { s with cur := h }
  if s.mayIssue h then
    let u := if (t.hart h).resuming then t.updHart h (fun a => { a with resuming := false }) else t
    andThen u.fetchExec (fun v => v.afterIssue h)
  else .next t

/-! ### Steps of other agents -/

/-- A step of another agent with its data; a row that has a word is no such step. -/
def State.eventTurn (s : State) (i : Instr) (a : EvArg) : Res :=
  if i.len = 0 then exec i { s with ev := a } else .next s

/-- Steps that work on hart `h` may be due. -/
def State.hartEvents (s : State) (h : Nat) : List (Instr × EvArg) :=
  let a := s.hart h
  let e : EvArg := { h := h }
  let park : List (Instr × EvArg) := match a.park with
    | some .chinook =>
      (match callOf (a.xv 17) with
        | some 0 => [(.retireCall, e)]
        | some 1 => [(.msixCall, e)]
        | some 2 => [(.swiCall, e)]
        | some _ => [(.claimCall, e)]
        | none => [])
    | some (.dying _ _ _) => [(.retireCall, e)]
    | some (.pmiss _ _ _) => [(.partitionMissTimeout, e)]
    | some (.empty _ _ _) => [(.presenceTimeout, e)]
    | some (.held _ _ _) => [(.presenceTimeout, e)]
    | some (.blend _ _) => [(.blendcQueueLimit, e)]
    | some .wfi => [(.supervisorTimerInterrupt, e)]
    | some (.acqBusy _) => [(.acqRetry, e)]
    | _ => []
  let l : List (List (Instr × EvArg)) := [
    if a.late.isEmpty then [] else [(.lateResultLand, e)], if a.vq.isEmpty then [] else [(.vectorQueueExecute, e)],
    if (s.interruptOf h).isSome then [(.interruptEntry, e)] else [], park]
  l.flatten

/-- Steps of quad `q` that may be due. -/
def State.quadEvents (s : State) (q : Nat) : List (Instr × EvArg) :=
  let a := s.quad q
  let e : EvArg := { q := q }
  let l : List (List (Instr × EvArg)) := [
    (if a.mq.isEmpty then [] else [(.matrixQueueExecute, e)]),
    (List.range a.drains.length).map (fun k => (.drainComplete, { e with k := k, b := true })),
    (List.range a.held.length).map (fun k => (.fifoHoldExpiry, { e with k := k })),
    (if a.cq.isEmpty then [] else [(.copyAdmit, e)]),
    a.running.flatMap (fun x => [(.copyRunEmit, { e with w := x.id }), (.copyLinePerformed, { e with w := x.id }),
      (.copyComplete, { e with w := x.id })] ++
      (if x.pmiss.isSome then [(.partitionMissTimeout, { e with w := x.id, c := true })] else [])),
    a.misses.map (fun l => (.memoryFillReturn, { e with addr := 64 * l })),
    (if a.reserve.isEmpty then [] else [(.wbdWrite, e)]),
    a.banks.flatMap (fun b => if b.2.st = 3 then [(.bankWakeDone, { e with w := b.1 }), (.bankRetWakeDone, { e with w := b.1 })] else []),
    a.ways.flatMap (fun w => if w.2.st = 2 then
      [(.wayWakeDone, { e with w := w.1 }), (.roleChangeDone, { e with w := w.1 }), (.wayPinDone, { e with w := w.1 })] else []),
    (if a.raise.isSome then [(.railRaiseDone, e)] else []),
    (if a.idle ≠ 0 ∧ s.quadWanted q then [(.idleWake, e)] else []),
    a.ways.flatMap (fun w => if (s.die (dieOfQuad q)).swbusy && decide (w.2.st ≠ 0) then [(.wayKill, { e with w := w.1 })] else [])]
  l.flatten

/-- Steps of the shared tables that may be due. -/
def State.sharedEvents (s : State) : List (Instr × EvArg) :=
  let l : List (List (Instr × EvArg)) := [
    (List.range s.rwrites.length).map (fun k => (.remoteWriteLand, { k := k })),
    (List.range s.greqs.length).map (fun k => (.groupRequestArrive, { k := k })),
    (List.range s.opens.length).map (fun k => (.groupHoldTimeout, { k := k })),
    (List.range s.fills.length).map (fun k => (.groupFillLand, { k := k })),
    (s.fills.filter (fun f => f.pmiss.isSome)).map (fun f => (.partitionMissTimeout, { k := 1, w := f.req.id })),
    (s.freezes.filter (fun o => o.pmiss.isSome)).map (fun o => (.partitionMissTimeout, { k := 2, w := o.id })),
    (s.queues.filter (fun q => q.2.pmiss.isSome)).map (fun q => (.partitionMissTimeout, { k := 3, q := q.1 })),
    (List.range s.peerWaits.length).map (fun k => (.partitionMissTimeout, { k := 4, w := k })),
    (List.range s.freezes.length).flatMap (fun k => [(.freezeComplete, { k := k }), (.thawComplete, { k := k }),
      (.peerInvalidateTimeout, { k := k })]),
    (List.range s.flips.length).map (fun k => (.biasFlipComplete, { k := k })),
    (s.shoots.zipIdx).flatMap (fun x => x.1.quads.map (fun q => (.shootdownAck, { k := x.2, q := q }))),
    s.queues.flatMap (fun q => if q.2.waiters.isEmpty then [] else
      [(.enqueueArrive, { q := q.1 })] ++ (List.range q.2.waiters.length).map (fun k => (.enqueueRetry, { q := q.1, k := k })) ++
      q.2.waiters.map (fun w => (.filterTokenAccrue, { q := q.1, p := s.partOf w.hart }))),
    (if s.queues.any (fun q => !q.2.tasks.isEmpty) then (List.range Config.dies).map (fun d => (.taskBind, { p := d })) else []),
    s.queues.flatMap (fun q => (q.2.tasks.zipIdx).flatMap (fun x =>
      (if x.1.at_ + (x.1.aged + 1) * 2 ^ 18 ≤ s.time then [(.taskAgeing, { q := q.1, k := x.2 })] else []) ++
      (if q.2.urgent x.1 then [(.urgentEvict, { q := q.1 })] else []))),
    s.dies.flatMap (fun d => if d.2.swbusy then [(.stampSweepEnd, { p := d.1 })] else [(.stampSweepStart, { p := d.1 })])]
  l.flatten

/-- Every step of the device's own agents that may be due; one that is not leaves the state (log 8). -/
def State.dueEvents (s : State) : List (Instr × EvArg) :=
  s.harts.flatMap (fun h => s.hartEvents h.1) ++ s.quads.flatMap (fun q => s.quadEvents q.1) ++ s.sharedEvents

/-! ### The schedule (log 1) -/

/-- The place of a hart in the rotation of the cores: slot by slot (R170), in every slot core by core. -/
def turnOf (h : Nat) : Nat := h % 8 * 1536 + h / 8

/-- The hart with a task whose turn comes next, and the cycles until then. -/
def State.nextHart (s : State) : Option (Nat × Nat) :=
  let away (h : Nat) : Nat := (turnOf h + 2 * Config.harts - 1 - turnOf s.cur) % Config.harts
  match leastCost away ((s.harts.filter (fun h => h.2.task.isSome)).map (·.1)) with
  | none => none
  | some h => some (h, (turnOf s.cur + 1 + away h) / 1536 - turnOf s.cur / 1536)

/-- An interrupt waits for the hart, and the hart stands where it takes one (R175, R188). -/
def State.interruptible (s : State) (h : Nat) : Bool :=
  (s.interruptOf h).isSome && s.mayIssue h &&
  (((s.hart h).atBoundary && !s.parkOver h) || decide ((s.hart h).park = some .wfi))

/-- The next turn when the agenda names none: in rotation a due step of another agent, or the turn of a
hart: it takes its interrupt, else it issues. -/
def State.ownTurn (s : State) : Turn × Nat :=
  let es := s.dueEvents
  match es[s.turn % (es.length + 1)]? with
  | some (i, a) => (.event i a, 0)
  | none => match s.nextHart with
    | some (h, n) => (if s.interruptible h then .event .interruptEntry { h := h } else .issue h, n)
    | none => (.advance 1, 0)

/-- The turn to take, and the state that takes it. -/
def State.nextTurn (s : State) : Turn × State :=
  match s.agenda with
  | t :: rest => (t, { s with agenda := rest })
  | [] => (s.ownTurn.1, { s with turn := s.turn + 1, time := s.time + s.ownTurn.2 })

/-- One turn. -/
def State.runTurn (s : State) : Turn → Res
  | .issue h => s.issueTurn h
  | .event i a => s.eventTurn i a
  | .advance n => .next { s with time := s.time + n }

/-- The turns that a module in recovery still takes: it answers SPDM, takes images through the recovery mailbox, and time passes; every
other turn has no effect (R411, log 48). -/
def Turn.inRecovery : Turn → Bool
  | .event .spdmRequest _ => true
  | .event .firmwareVerify _ => true
  | .advance _ => true
  | _ => false

/-- What every turn ends with: the partitions of lines that no list could hold are stopped (R80, R83); locks whose HELD reads 0 go to
their oldest waiters (R127); accesses of the host, of partners and of functions that wait try again (R404, R407, R414); what queues keep
for WARMPC is made (R376). -/
def State.settle (s : State) : State := s.loseOwners.grantFree.serveHeld.servePeers.serveEq.keepWarm

/-- One step of the machine. -/
def State.stepOnce (s : State) : Res :=
  let t := s.nextTurn
  if s.sec.recovery && !t.1.inRecovery then .next t.2 else andThen (t.2.runTurn t.1) State.settle

/-! ### Placing an instruction where the next step fetches (log 4) -/

/-- The TLB entry that maps a page of a hart's code to the same place of GDDR-7, executable in the hart's mode. -/
def codeEntry (q : Req) (va : Word) : TlbEntry :=
  let page := va.toNat / 4096 * 4096
  let u := decide (q.mode = .u)
  { va := page, pa := page % 2 ^ 38, size := 4096, part := q.part, asid := q.asid, global := false
    r := true, w := true, x := true, u := u, d := true, pr := true, pw := true, px := true, pu := true, pd := true
    mt := .normal, key := 0, frozen := false, stamp := 0, share := .unread }

/-- The hart of the placed instruction: able to issue, with a task. -/
def Hart.placed (a : Hart) (pc : Word) : Hart :=
  { a with
    pc := pc, park := none, resuming := false, handlerFetch := false, denied := none
    task := match a.task with
      | some t => some t
      | none => some {} }

/-- The state whose next step runs the instruction of some bytes at the pc of the hart at issue: memory holds them, and the hart's core
has their lines. -/
def State.placeBytes (s : State) (bytes : List Byte) : State :=
  let h := s.cur
  let pc := if canonical s.me.pc && canonical (s.me.pc + 2) then s.me.pc &&& 0xFFFFFFFFFFFFFFFE#64 else 0
  let q := s.reqOf h
  let a := pc.toNat % 2 ^ 38
  let b := (pc + 2).toNat % 2 ^ 38
  let mine (l : Nat) : Bool := l == a / 64 || l == b / 64
  let page (p : Nat) : Bool := p == pc.toNat / 4096 || p == (pc + 2).toNat / 4096
  let m := (s.mem.writeBytes a (bytes.take 2)).writeBytes b (bytes.drop 2)
  let code (l : Tab (List Byte)) (line : Nat) : Tab (List Byte) := Tab.set l line (m.readBytes (64 * line) 64)
  let t := s.updMe (fun x => x.placed pc)
  let u := ((t.updCore (coreOf h) (fun c => { c with
    tlb := codeEntry q pc :: codeEntry q (pc + 2) :: c.tlb, l1i := code (code c.l1i (a / 64)) (b / 64) })).updQuad (quadOf h)
      (fun c => { c with tlvl := 0 })).updDie (dieOf h) (fun d => { d with walks := d.walks.filter (fun w => !page w.page) })
  let p := s.partOf h
  let v := if (s.prt p).stopped then u.updPart p (fun x => { x with stopped := false }) else u
  { v with
    agenda := .issue h :: v.agenda
    mem := m
    keyed := v.keyed.filter (fun e => !(List.range 2).any (fun k => e.1 == a + k || e.1 == b + k))
    poison := v.poison.filter (fun l => !(mine l || l == codeSite (coreOf h) (a / 64) || l == codeSite (coreOf h) (b / 64)))
    failed := v.failed.filter (fun l => !mine l)
    sec := { v.sec with recovery := false } }

end Sys2Proof.Machine
end

