-- ==== Sys2Proof/Machine/Step.lean ====
section
/-!
DEFINITION. The step of the machine, and the state whose next step runs a given instruction.
-/
namespace Sys2Proof.Machine

/-- One step: the next turn of the schedule (log 1), a hart's instruction or a step of another agent. -/
def step (s : State) : Host.Outcome State Fault Refusal := s.stepOnce

/-- The state with the instruction whose `nbits` bits are `w` stored where the next step fetches (log 4). -/
def State.withFetchWord (s : State) (nbits w : Nat) : State := s.placeBytes (wordBytes 4 (w % 2 ^ nbits))

end Sys2Proof.Machine
end

