-- ==== Sys2Proof/Safety.lean ====
section
/-!
DEFINITION. What counts as a safe state and a safe run, in the terms the claims use.
-/
namespace Sys2Proof.Machine

/-- The memories of the device are in their one canonical form. -/
def State.MemCanonical (s : State) : Prop := s.mem.wf = true ∧ s.tmem.wf = true

/-- A state whose next step does not stop the machine. -/
def State.Safe (s : State) : Prop := ∃ t, step s = .next t

/-- `k` steps none of which stops. -/
def State.SafeRun : Nat → State → Prop
  | 0, _ => True
  | k + 1, s => ∃ t, step s = .next t ∧ t.SafeRun k

/-- The hart at issue may issue now: it has a task, is not parked, its quad is not throttled, its partition runs, and no saved
command of it is still to run (R189, R382, R396). -/
def State.CanIssue (s : State) : Prop := s.mayIssue s.cur = true

/-- The sources and destinations of a scalar instruction let it issue: present and unmarked, and not pending (R172, R173,
R180). -/
abbrev State.Ready (s : State) (src dst : List (RFile × Nat)) : Prop := s.me.ready src dst = none

/-- A translated scalar access of `n` bytes meets nothing more: no store error of the hart on its line (R180), no queued vector
store or atomic of the hart that it must follow (R114, R119, R265), and a miss register and a miss entry when it misses (R75, R76). -/
abbrev State.Clear (s : State) (c : Acc) (n : Nat) : Prop :=
  s.me.storeError (lineOf c.pa) = none ∧ s.me.pathBusy (decide (c.e.mt = .device)) c.write c.pa n = none ∧
  s.missWait (coreOf s.cur) c = none

/-- The issue checks and the presence of a queued vector instruction pass (R173, R183, R310, R433). -/
abbrev State.VReady (s : State) (r : VReq) : Prop :=
  s.me.vchecks r = none ∧ s.me.due false false true = none ∧ s.me.presentAll r.src = none ∧ s.me.ownedAll r.dst = none

/-- A queued vector instruction issues: its checks pass and its hart's queue has room (R177). -/
abbrev State.VIssues (s : State) (r : VReq) : Prop := s.VReady r ∧ s.me.vq.length < 8

end Sys2Proof.Machine
end

