-- ==== Sys2Proof/WellFormed.lean ====
section
/-!
DEFINITION. Which instructions an encoding may hold (R221): those whose fields pass every check of the decoder. The checks
themselves stand in Decode.lean.
-/
namespace Sys2Proof

/-- An instruction whose fields pass every check of R221; a step of another agent carries no field. -/
def Instr.WellFormed (i : Instr) : Prop := i.check = none

/-- The instruction has a word (rows 0 to 247 of the opcode table). -/
def Instr.Encoded (i : Instr) : Prop := i.len ≠ 0

end Sys2Proof
end

