-- ==== Sys2Proof/Certificates/Slice0/Obligations.lean ====
section
/-!
DEFINITION. The statements for the provers, from the numbered rules of the specification, one def per statement.
-/

/-! ### Tables and conditions that the statements share -/

namespace Sys2Proof.Claims

open Sys2Proof.Machine

/-- The sources, destination and value of a standard integer operation with a register result (R217, R219: the RISC-V
I, M, Zba and Zbb definitions). -/
def aluResult (a : Hart) : AluInstr → Option (List Reg × Reg × Word)
  | .rr op d x y =>
    let u := a.xv x
    let v := a.xv y
    let lo : BitVec 32 := u.setWidth 32
    some ([x, y], d, match op with
      | .add => u + v
      | .sub => u - v
      | .sll => u <<< (v.toNat % 64)
      | .slt => if u.toInt < v.toInt then 1 else 0
      | .sltu => if u.toNat < v.toNat then 1 else 0
      | .xor => u ^^^ v
      | .srl => u >>> (v.toNat % 64)
      | .sra => u.sshiftRight (v.toNat % 64)
      | .or => u ||| v
      | .and => u &&& v
      | .addw => ((u + v).setWidth 32).signExtend 64
      | .subw => ((u - v).setWidth 32).signExtend 64
      | .sllw => (lo <<< (v.toNat % 32)).signExtend 64
      | .srlw => (lo >>> (v.toNat % 32)).signExtend 64
      | .sraw => (lo.sshiftRight (v.toNat % 32)).signExtend 64
      | .mul => u * v
      | .mulh => BitVec.ofInt 64 (u.toInt * v.toInt / 2 ^ 64)
      | .mulhsu => BitVec.ofInt 64 (u.toInt * v.toNat / 2 ^ 64)
      | .mulhu => BitVec.ofNat 64 (u.toNat * v.toNat / 2 ^ 64)
      | .mulw => ((u * v).setWidth 32).signExtend 64
      | .sh1add => u * 2 + v
      | .sh2add => u * 4 + v
      | .sh3add => u * 8 + v
      | .adduw => lo.setWidth 64 + v
      | .sh1adduw => lo.setWidth 64 * 2 + v
      | .sh2adduw => lo.setWidth 64 * 4 + v
      | .sh3adduw => lo.setWidth 64 * 8 + v
      | .andn => u &&& ~~~v
      | .orn => u ||| ~~~v
      | .xnor => ~~~(u ^^^ v)
      | .min => if u.toInt < v.toInt then u else v
      | .max => if u.toInt < v.toInt then v else u
      | .minu => if u.toNat < v.toNat then u else v
      | .maxu => if u.toNat < v.toNat then v else u
      | .rol => u.rotateLeft (v.toNat % 64)
      | .ror => u.rotateRight (v.toNat % 64)
      | .rolw => (lo.rotateLeft (v.toNat % 32)).signExtend 64
      | .rorw => (lo.rotateRight (v.toNat % 32)).signExtend 64)
  | .imm op d x i =>
    let u := a.xv x
    let v : Word := i.signExtend 64
    some ([x], d, match op with
      | .addi => u + v
      | .slti => if u.toInt < v.toInt then 1 else 0
      | .sltiu => if u.toNat < v.toNat then 1 else 0
      | .xori => u ^^^ v
      | .ori => u ||| v
      | .andi => u &&& v
      | .addiw => ((u + v).setWidth 32).signExtend 64)
  | .sh op d x n =>
    let u := a.xv x
    some ([x], d, match op with
      | .slli => u <<< n.toNat
      | .srli => u >>> n.toNat
      | .srai => u.sshiftRight n.toNat
      | .rori => u.rotateRight n.toNat
      | .slliuw => ((u.setWidth 32).setWidth 64) <<< n.toNat)
  | .shw op d x n =>
    let lo : BitVec 32 := (a.xv x).setWidth 32
    some ([x], d, (match op with
      | .slliw => lo <<< n.toNat
      | .srliw => lo >>> n.toNat
      | .sraiw => lo.sshiftRight n.toNat
      | .roriw => lo.rotateRight n.toNat).signExtend 64)
  | .un op d x => some ([x], d, unResult op (a.xv x))
  | .lui d i => some ([], d, ((i ++ (0 : BitVec 12)) : BitVec 32).signExtend 64)
  | .auipc d i => some ([], d, a.pc + ((i ++ (0 : BitVec 12)) : BitVec 32).signExtend 64)
  | _ => none

/-- The sources, destination and value, with its flags, of a standard F or D operation with an f result, and whether it rounds
under the rounding mode of the instruction. -/
def fpResult (a : Hart) (m : RMode) : AluInstr → Option (List (RFile × Nat) × Reg × Word × Flags)
  | .farith op f _ d x y => some (fs [x, y], d, farithResult op f m (a.fv x) (a.fv y))
  | .ffused op f _ d x y z => some (fs [x, y, z], d, ffusedResult op f m (a.fv x) (a.fv y) (a.fv z))
  | .fpair op f d x y => some (fs [x, y], d, fpairResult op f (a.fv x) (a.fv y))
  | .itof f t _ d x => some (xs [x], d, itofResult f t m (a.xv x))
  | .fcvt f _ d x => some (fs [x], d, fcvtResult f m (a.fv x))
  | .fmvf f d x => some (xs [x], d, boxed f (a.xv x).toNat, 0)
  | _ => none

/-- The same for the operations with an x result. -/
def fpToX (a : Hart) (m : RMode) : AluInstr → Option (List (RFile × Nat) × Reg × Word × Flags)
  | .fcmp op f d x y => some (fs [x, y], d, fcmpResult op f (a.fv x) (a.fv y))
  | .ftoi t f _ d x => some (fs [x], d, ftoiResult t f m (a.fv x))
  | .fmvx .s d x => some (fs [x], d, ((a.fv x).setWidth 32).signExtend 64, 0)
  | .fmvx .d d x => some (fs [x], d, a.fv x, 0)
  | .fclass f d x => some (fs [x], d, BitVec.ofNat 64 (classMask (fmtOf f) (fvalOf f (a.fv x))), 0)
  | _ => none

/-- The rounding mode field of a standard F or D operation; 0 for one that has none. -/
def rmOf : AluInstr → BitVec 3
  | .farith _ _ rm _ _ _ => rm
  | .ffused _ _ rm _ _ _ _ => rm
  | .ftoi _ _ rm _ _ => rm
  | .itof _ _ rm _ _ => rm
  | .fcvt _ rm _ _ => rm
  | _ => 0

/-- The rational number of an exact one. -/
def ratOf (x : Exact) : ℚ := (x.num : ℚ) / x.den * (2 : ℚ) ^ x.exp

/-- The rational number of a finite floating value. -/
def realOf (neg : Bool) (x : Exact) : ℚ := if neg then -ratOf x else ratOf x

/-- `code` is the real number `v` rounded into a format as IEEE 754 rounds: for magnitudes `k`, `k + 1` of the format with
k ≤ |v| < k + 1, the one that the mode names (R204: a tie to even goes by the significand, which in a format without trailing
bits is odd from 1 on). A zero has the sign `z`; a format without a sign takes a negative number to 0. -/
def RoundsTo (f : Fmt) (m : RMode) (z : Bool) (v : ℚ) (code : Nat) : Prop :=
  (v = 0 → code = f.signed z 0) ∧
  (v < 0 → f.s = false → code = 0) ∧
  (v ≠ 0 → (0 < v ∨ f.s = true) → ∀ k : Nat, k < f.maxCode →
    let lo := ratOf (f.magnitude k)
    let hi := ratOf (f.magnitude (k + 1))
    let up : Prop := match m with
      | .rne => lo + hi < 2 * |v| ∨ (lo + hi = 2 * |v| ∧ (k % 2 = 1 ∨ (f.m = 0 ∧ 0 < k)))
      | .rtz => False
      | .rdn => v < 0 ∧ lo < |v|
      | .rup => 0 < v ∧ lo < |v|
      | .rmm => lo + hi ≤ 2 * |v|
      | .sr _ => code = f.signed (decide (v < 0)) (k + 1)
    lo ≤ |v| → |v| < hi →
    (up → code = f.signed (decide (v < 0)) (k + 1)) ∧ (¬ up → code = f.signed (decide (v < 0)) k))

/-- `code` is the square root of `v` rounded into a format: the code below or above it, and the root itself where it is a number of
the format. -/
def RootTo (f : Fmt) (v : ℚ) (code : Nat) : Prop :=
  ∀ k : Nat, k < f.maxCode → ratOf (f.magnitude k) ^ 2 ≤ v → v < ratOf (f.magnitude (k + 1)) ^ 2 →
    (code = k ∨ code = k + 1) ∧ (ratOf (f.magnitude k) ^ 2 = v → code = k)

/-- `i` is the number `v`, of sign `n`, rounded to an integer. -/
def IntRounds (m : RMode) (n : Bool) (v : ℚ) (i : Int) : Prop :=
  let q : Int := ⌊|v|⌋
  let of (j : Int) : Int := if n then -j else j
  let up : Prop := match m with
    | .rne => 2 * (q : ℚ) + 1 < 2 * |v| ∨ (2 * (q : ℚ) + 1 = 2 * |v| ∧ q % 2 = 1)
    | .rtz => False
    | .rdn => v < 0 ∧ (q : ℚ) < |v|
    | .rup => 0 < v ∧ (q : ℚ) < |v|
    | .rmm => 2 * (q : ℚ) + 1 ≤ 2 * |v|
    | .sr _ => i = of (q + 1)
  (up → i = of (q + 1)) ∧ (¬ up → i = of q)

/-- The place of a value that is no NaN among the numbers and the infinities. -/
def numOf : FVal → WithBot (WithTop ℚ)
  | .nan _ => 0
  | .inf n => if n then ⊥ else ((⊤ : WithTop ℚ) : WithBot (WithTop ℚ))
  | .fin n x => ((realOf n x : WithTop ℚ) : WithBot (WithTop ℚ))

/-- `q` and `r` are quotient and remainder of `a` by `b`, rounded to zero (the standard's M). -/
def DividesTo (a b q r : Int) : Prop := a = q * b + r ∧ |r| < |b| ∧ (0 ≤ a → 0 ≤ r) ∧ (a ≤ 0 → r ≤ 0)

/-- The standard register-register operation that a taking form computes (R224), with its take bits and registers. -/
def takingForm : Instr → Option (RROp × Bool × Bool × Reg × Reg × Reg)
  | .takingAdd u t b a d => some (.add, u, t, b, a, d)
  | .takingSub u t b a d => some (.sub, u, t, b, a, d)
  | .takingSll u t b a d => some (.sll, u, t, b, a, d)
  | .takingSlt u t b a d => some (.slt, u, t, b, a, d)
  | .takingSltu u t b a d => some (.sltu, u, t, b, a, d)
  | .takingXor u t b a d => some (.xor, u, t, b, a, d)
  | .takingSrl u t b a d => some (.srl, u, t, b, a, d)
  | .takingSra u t b a d => some (.sra, u, t, b, a, d)
  | .takingOr u t b a d => some (.or, u, t, b, a, d)
  | .takingAnd u t b a d => some (.and, u, t, b, a, d)
  | .takingAddw u t b a d => some (.addw, u, t, b, a, d)
  | .takingSubw u t b a d => some (.subw, u, t, b, a, d)
  | .takingSllw u t b a d => some (.sllw, u, t, b, a, d)
  | .takingSrlw u t b a d => some (.srlw, u, t, b, a, d)
  | .takingSraw u t b a d => some (.sraw, u, t, b, a, d)
  | .takingMul u t b a d => some (.mul, u, t, b, a, d)
  | .takingMulh u t b a d => some (.mulh, u, t, b, a, d)
  | .takingMulhu u t b a d => some (.mulhu, u, t, b, a, d)
  | .takingMulw u t b a d => some (.mulw, u, t, b, a, d)
  | .takingMin u t b a d => some (.min, u, t, b, a, d)
  | .takingMax u t b a d => some (.max, u, t, b, a, d)
  | .takingMinu u t b a d => some (.minu, u, t, b, a, d)
  | .takingMaxu u t b a d => some (.maxu, u, t, b, a, d)
  | _ => none

/-- The hart after the synchronised reads of a form with two take bits, the write of its destination and the advance of its pc:
sources are taken before the destination is written (R173). -/
def takenAndWritten (h : Hart) (u t : Bool) (b a d : Reg) (v : Word) : Hart :=
  let h1 := if t then h.presX a .opened else h
  let h2 := if u then h1.presX b .opened else h1
  (h2.setX d v).advance 4

/-- The field of a BFX, BFXS or BFI, as R242 writes it. -/
def fieldValue (signed : Bool) (v xf : Word) : Word :=
  let off := (xf.extractLsb' 0 8).toNat
  let wid := (xf.extractLsb' 8 8).toNat
  let w := min wid 64
  if wid = 0 ∨ 64 ≤ off then 0
  else
    let r := if w < 64 then (v >>> off) &&& (BitVec.ofNat 64 (2 ^ w - 1)) else v >>> off
    if signed ∧ r.getLsbD (w - 1) then r ||| ~~~(BitVec.ofNat 64 (2 ^ w - 1)) else r

/-- The value of BFI, as R242 writes it. -/
def fieldInsert (d v xf : Word) : Word :=
  let off := (xf.extractLsb' 0 8).toNat
  let wid := (xf.extractLsb' 8 8).toNat
  let w := min wid 64
  if wid = 0 ∨ 64 ≤ off then d
  else
    let m := BitVec.ofNat 64 ((2 ^ w - 1) * 2 ^ off)
    (d &&& ~~~m) ||| ((v <<< off) &&& m)

end Sys2Proof.Claims

section

open Sys2Proof Sys2Proof.Machine Sys2Proof.Claims

/-! ### The standard scalar instructions -/

/-- R170, R217, R219: an integer operation with a register result answers a next state in which its destination holds
the value of the standard, present and unmarked (a write to x0 is discarded), and the pc has moved on by 4; nothing
else has changed. R170, R217: a branch goes to its target when its condition holds and on by 4 otherwise; JAL and JALR
write the address of the next instruction and go to their targets, JALR's with bit 0 cleared. Nothing else changes. -/
def Obligations.IntegerResultsAndControlFlow : Prop :=
  (
    ∀ (s : State) (i : AluInstr) (src : List Reg) (d : Reg) (v : Word),
      aluResult s.me i = some (src, d, v) → s.Ready (xs src) (xs [d]) →
      exec (.scalarAlu i) s = .next (s.updMe (fun a => (a.setX d v).advance 4))) ∧
  (
    (∀ (s : State) (op : BrOp) (x y : Reg) (off : BitVec 12), s.Ready (xs [x, y]) [] →
      let u := s.me.xv x
      let v := s.me.xv y
      let taken : Prop := match op with
        | .beq => u = v
        | .bne => u ≠ v
        | .blt => u.toInt < v.toInt
        | .bge => v.toInt ≤ u.toInt
        | .bltu => u.toNat < v.toNat
        | .bgeu => v.toNat ≤ u.toNat
      (taken → exec (.scalarAlu (.branch op x y off)) s =
        .next (s.updMe (fun a => { a with pc := a.pc + ((off ++ (0 : BitVec 1)) : BitVec 13).signExtend 64, park := none }))) ∧
      (¬ taken → exec (.scalarAlu (.branch op x y off)) s = .next (s.updMe (fun a => a.advance 4)))) ∧
    (∀ (s : State) (d : Reg) (off : BitVec 20), s.Ready [] (xs [d]) →
      exec (.scalarAlu (.jal d off)) s =
        .next (s.updMe (fun a => { a.setX d (a.pc + 4) with
          pc := s.me.pc + ((off ++ (0 : BitVec 1)) : BitVec 21).signExtend 64, park := none }))) ∧
    (∀ (s : State) (d x : Reg) (i : BitVec 12), s.Ready (xs [x]) (xs [d]) →
      exec (.scalarAlu (.jalr d x i)) s =
        .next (s.updMe (fun a => { a.setX d (a.pc + 4) with
          pc := (s.me.xv x + i.signExtend 64) &&& ~~~1#64, park := none }))))

/-- R170, R193, R217: a standard F or D operation answers a next state in which its destination holds its value, its
flags are ORed into fflags and the pc has moved on by 4, under the rounding mode its field or frm names; where that
names none (frm 5 to 7), it takes cause 2 with its word in stval. Of finite operands the value is IEEE 754's: the exact
sum, difference, product, fused product and sum, or converted number, rounded once; an exact zero sum is −0 when both
terms are, or when they differ in sign and the mode rounds down. A conversion to an integer rounds the number and holds
it within the integer's range; a compare of finite numbers compares them. -/
def Obligations.FloatingResult : Prop :=
  (∀ (s : State) (i : AluInstr) (m : RMode) (src : List (RFile × Nat)) (d : Reg) (v : Word) (g : Flags),
    s.me.rmode (rmOf i) = some m → fpResult s.me m i = some (src, d, v, g) → s.Ready src (fs [d]) →
    exec (.scalarAlu i) s = .next (s.updMe (fun a => ((a.setF d v).orFFlags g).advance 4))) ∧
  (∀ (s : State) (i : AluInstr) (m : RMode) (src : List (RFile × Nat)) (d : Reg) (v : Word) (g : Flags),
    s.me.rmode (rmOf i) = some m → fpToX s.me m i = some (src, d, v, g) → s.Ready src (xs [d]) →
    exec (.scalarAlu i) s = .next (s.updMe (fun a => ((a.setX d v).orFFlags g).advance 4))) ∧
  (∀ (s : State) (i : AluInstr) (rm : BitVec 3), s.me.rmode rm = none →
    ((∃ op f d x y, i = .farith op f rm d x y) ∨ (∃ op f d x y z, i = .ffused op f rm d x y z) ∨
      (∃ w f d x, i = .ftoi w f rm d x) ∨ (∃ f w d x, i = .itof f w rm d x) ∨ (∃ f d x, i = .fcvt f rm d x)) →
    exec (.scalarAlu i) s = .next (s.updMe (fun a => a.trap 2 (wordOf (.scalarAlu i)) 0))) ∧
  (∀ (s : State) (sqrt : Bool) (f : FFmt) (rm : BitVec 3) (d a b : Reg), s.me.rmode rm = none →
    exec (.fpDivideSqrt sqrt f rm d a b) s =
      .next (s.updMe (fun h => h.trap 2 (wordOf (.fpDivideSqrt sqrt f rm d a b)) 0))) ∧
  (∀ (op : FArith) (f : FFmt) (m : RMode) (a b : Word) (n k : Bool) (x y : Exact),
    fvalOf f a = .fin n x → fvalOf f b = .fin k y →
    let u := realOf n x
    let w := realOf k y
    let zero (i j : Bool) : Bool := if i = j then i else decide (m = .rdn)
    ∃ c, (farithResult op f m a b).1 = boxed f c ∧
      (match op with
        | .add => RoundsTo (fmtOf f) m (zero n k) (u + w) c
        | .sub => RoundsTo (fmtOf f) m (zero n !k) (u - w) c
        | .mul => RoundsTo (fmtOf f) m (n != k) (u * w) c)) ∧
  (∀ (op : FFused) (f : FFmt) (m : RMode) (a b c : Word) (n k l : Bool) (x y z : Exact),
    fvalOf f a = .fin n x → fvalOf f b = .fin k y → fvalOf f c = .fin l z →
    let p := realOf n x * realOf k y
    let w := realOf l z
    let zero (i j : Bool) : Bool := if i = j then i else decide (m = .rdn)
    ∃ r, (ffusedResult op f m a b c).1 = boxed f r ∧
      (match op with
        | .madd => RoundsTo (fmtOf f) m (zero (n != k) l) (p + w) r
        | .msub => RoundsTo (fmtOf f) m (zero (n != k) !l) (p - w) r
        | .nmsub => RoundsTo (fmtOf f) m (zero (n == k) l) (-p + w) r
        | .nmadd => RoundsTo (fmtOf f) m (zero (n == k) !l) (-p - w) r)) ∧
  (∀ (f : FFmt) (t : FInt) (m : RMode) (a : Word),
    let i : Int := match t with
      | .w => (a.setWidth 32).toInt
      | .wu => (a.setWidth 32).toNat
      | .l => a.toInt
      | .lu => a.toNat
    ∃ c, (itofResult f t m a).1 = boxed f c ∧ RoundsTo (fmtOf f) m false i c) ∧
  (∀ (m : RMode) (a : Word) (n : Bool) (x : Exact),
    (fvalOf .d a = .fin n x → ∃ c, (fcvtResult .s m a).1 = boxed .s c ∧ RoundsTo fmtF32 m n (realOf n x) c) ∧
    (fvalOf .s a = .fin n x → ∃ c, (fcvtResult .d m a).1 = boxed .d c ∧ RoundsTo fmtF64 m n (realOf n x) c)) ∧
  (∀ (t : FInt) (f : FFmt) (m : RMode) (a : Word) (n : Bool) (x : Exact), fvalOf f a = .fin n x →
    let out : Int → Word := fun i => match t with
      | .l => BitVec.ofInt 64 i
      | .lu => BitVec.ofInt 64 i
      | _ => (BitVec.ofInt 32 i).signExtend 64
    ∃ i, IntRounds m n (realOf n x) i ∧
      (ftoiResult t f m a).1 = out (max (fintRange t).1 (min (fintRange t).2 i))) ∧
  (∀ (op : FCmp) (f : FFmt) (a b : Word) (n k : Bool) (x y : Exact), fvalOf f a = .fin n x → fvalOf f b = .fin k y →
    let holds : Prop := match op with
      | .eq => realOf n x = realOf k y
      | .lt => realOf n x < realOf k y
      | .le => realOf n x ≤ realOf k y
    (holds → fcmpResult op f a b = (1, 0)) ∧ (¬ holds → fcmpResult op f a b = (0, 0)))

/-- R170, R172: INTEGER_DIVIDE and FP_DIVIDE_SQRT make their destination pending and go on by 4, owing the standard's
result: quotient and remainder rounded to zero, of the low 32 bits and sign-extended for a word form; a division by zero
gives all ones, its remainder the dividend; the overflow of the most negative number by −1 gives the dividend and
remainder 0. A floating division of finite numbers, the divisor not 0, gives their exact quotient rounded once (R193), and
a square root of a positive number its root, below or above it.
The floating flags join fflags at issue. -/
def Obligations.DivideOwesResult : Prop :=
  (∀ (s : State) (op : DivOp) (d a b : Reg), s.Ready (xs [a, b]) (xs [d]) →
    exec (.integerDivide op d a b) s =
      .next (s.updMe (fun h => (h.owe ⟨.x, d, divResult op (h.xv a) (h.xv b), none, none⟩).advance 4))) ∧
  (∀ (s : State) (sqrt : Bool) (f : FFmt) (rm : BitVec 3) (m : RMode) (d a b : Reg), s.me.rmode rm = some m →
    s.Ready (fs (if sqrt then [a] else [a, b])) (fs [d]) →
    exec (.fpDivideSqrt sqrt f rm d a b) s =
      .next (s.updMe (fun h =>
        ((h.owe ⟨.f, d, (fdivsqrtResult sqrt f m (s.me.fv a) (s.me.fv b)).1, none, none⟩).orFFlags
          (fdivsqrtResult sqrt f m (s.me.fv a) (s.me.fv b)).2).advance 4))) ∧
  (∀ (a : Word), divResult .div a 0 = BitVec.allOnes 64 ∧ divResult .rem a 0 = a ∧ divResult .divu a 0 = BitVec.allOnes 64 ∧
    divResult .remu a 0 = a) ∧
  (divResult .div (BitVec.intMin 64) (BitVec.allOnes 64) = BitVec.intMin 64 ∧
    divResult .rem (BitVec.intMin 64) (BitVec.allOnes 64) = 0) ∧
  (∀ a b : Word, b ≠ 0 → ¬ (a = BitVec.intMin 64 ∧ b = BitVec.allOnes 64) →
    DividesTo a.toInt b.toInt (divResult .div a b).toInt (divResult .rem a b).toInt) ∧
  (∀ a b : Word, b ≠ 0 → DividesTo a.toNat b.toNat (divResult .divu a b).toNat (divResult .remu a b).toNat) ∧
  (∀ a b : Word,
    let u : BitVec 32 := a.setWidth 32
    let v : BitVec 32 := b.setWidth 32
    (v = 0 → divResult .divw a b = BitVec.allOnes 64 ∧ divResult .divuw a b = BitVec.allOnes 64 ∧
      divResult .remw a b = u.signExtend 64 ∧ divResult .remuw a b = u.signExtend 64) ∧
    (v ≠ 0 → ¬ (u = BitVec.intMin 32 ∧ v = BitVec.allOnes 32) →
      DividesTo u.toInt v.toInt (divResult .divw a b).toInt (divResult .remw a b).toInt) ∧
    (u = BitVec.intMin 32 → v = BitVec.allOnes 32 →
      divResult .divw a b = u.signExtend 64 ∧ divResult .remw a b = 0) ∧
    (v ≠ 0 → ∃ q r : BitVec 32, divResult .divuw a b = q.signExtend 64 ∧ divResult .remuw a b = r.signExtend 64 ∧
      DividesTo u.toNat v.toNat q.toNat r.toNat)) ∧
  (∀ (f : FFmt) (m : RMode) (a b : Word) (n k : Bool) (x y : Exact),
    fvalOf f a = .fin n x → fvalOf f b = .fin k y → y.num ≠ 0 →
    ∃ c, (fdivsqrtResult false f m a b).1 = boxed f c ∧ RoundsTo (fmtOf f) m (n != k) (realOf n x / realOf k y) c) ∧
  (∀ (f : FFmt) (m : RMode) (a b : Word) (x : Exact), fvalOf f a = .fin false x → x.num ≠ 0 →
    ∃ c, (fdivsqrtResult true f m a b).1 = boxed f c ∧ RootTo (fmtOf f) (ratOf x) c)

/-! ### Scalar memory -/

/-- R191, R217, R218: a standard load whose access passes its checks makes its destination pending and owes it the
value of its bytes as its key reads them (R410), little-endian, extended as its mnemonic says, and goes on by 4. Memory
and, but for a reservation that the access's translation may end, every other register stay. A load that crosses a 64-byte line takes cause 4
with its address. R191, R217, R218: a standard store whose access passes its checks writes the low bytes of its
source, little-endian, at the translated address, and no other byte, and goes on by 4; it writes no register. The
second clause is the trap of a store that crosses a 64-byte line: cause 6 with its address. -/
def Obligations.LoadsAndStores : Prop :=
  (
    (∀ (s : State) (op : LoadOp) (d a : Reg) (i : BitVec 12) (c : Acc),
      let va := s.me.xv a + i.signExtend 64
      let n := loadSize op
      s.Ready (xs [a]) [(loadFile op, d.toNat)] → s.scalarAccess s.cur va n .load = .ok c →
      s.Clear c n → isMmio c.pa = false →
      let v := c.mem.readN c.pa n
      let w : Word := match op with
        | .lb => (BitVec.ofNat 8 v).signExtend 64
        | .lh => (BitVec.ofNat 16 v).signExtend 64
        | .lw => (BitVec.ofNat 32 v).signExtend 64
        | .flw => (0xFFFFFFFF#32 ++ BitVec.ofNat 32 v : BitVec 64)
        | _ => BitVec.ofNat 64 v
      let f : Option (Nat × TlbEntry) := if s.inL1 c.e c.pa ∧ ¬ s.l1Hit (coreOf s.cur) c.e c.pa then some (c.pa, c.e) else none
      ∃ t, exec (.scalarLoad op d a i) s = .next t ∧
        t.me = ((c.s.me.sees c.pa n).owe ⟨loadFile op, d, w, s.markOf c.pa n va, f⟩).advance 4 ∧
        (∃ r, c.s.me = { s.me with resv := r }) ∧ (∀ h, h ≠ s.cur → ∃ r, t.hart h = { s.hart h with resv := r }) ∧
        t.mem = s.mem ∧ t.tmem = s.tmem) ∧
    (∀ (s : State) (op : LoadOp) (d a : Reg) (i : BitVec 12),
      let va := s.me.xv a + i.signExtend 64
      s.Ready (xs [a]) [(loadFile op, d.toNat)] → 64 < va.toNat % 64 + loadSize op →
      exec (.scalarLoad op d a i) s = .next (s.updMe (fun h => h.trap 4 va 0)))) ∧
  (
    (∀ (s : State) (op : StoreOp) (a b : Reg) (i : BitVec 12) (c : Acc),
      let va := s.me.xv a + i.signExtend 64
      let n := storeSize op
      s.Ready [(.x, a.toNat), (storeFile op, b.toNat)] [] → s.scalarAccess s.cur va n .store = .ok c →
      s.Clear c n → isMmio c.pa = false →
      ∃ t, exec (.scalarStore op a b i) s = .next t ∧
        (∀ k, k < n → t.mem.read (c.pa + k) = BitVec.ofNat 8 ((s.me.scalarV (storeFile op) b).toNat / 256 ^ k)) ∧
        (∀ y, y < c.pa ∨ c.pa + n ≤ y → t.mem.read y = s.mem.read y) ∧ t.tmem = s.tmem ∧
        t.me.pc = s.me.pc + 4 ∧ t.me.x = s.me.x ∧ t.me.f = s.me.f ∧ t.me.v = s.me.v ∧ t.me.p = s.me.p ∧ t.me.csr = s.me.csr ∧
        t.me.mode = s.me.mode ∧ t.me.fflags = s.me.fflags ∧ t.me.vflags = s.me.vflags ∧
        (∀ h, h ≠ s.cur → ∃ r, t.hart h = { s.hart h with resv := r })) ∧
    (∀ (s : State) (op : StoreOp) (a b : Reg) (i : BitVec 12),
      let va := s.me.xv a + i.signExtend 64
      s.Ready [(.x, a.toNat), (storeFile op, b.toNat)] [] → 64 < va.toNat % 64 + storeSize op →
      exec (.scalarStore op a b i) s = .next (s.updMe (fun h => h.trap 6 va 0))))

/-- R124, R217: an AMO whose access passes its checks writes the operation's result over its old value in one step and
owes its destination the old value, sign-extended; it changes no other byte and no other register, and a misaligned
one takes cause 6. R266, R267: LR owes the value of its bytes and holds a reservation of the 64-byte line of its
address. SC writes its source and owes 0 when the reservation is held for the same address and size; otherwise it
writes no memory and owes 1. Either way the SC leaves no reservation. A frozen page takes cause 25 with the address. -/
def Obligations.AtomicsAndReservations : Prop :=
  (
    (∀ (s : State) (op : AmoOp) (dbl aq rl : Bool) (d a b : Reg) (c : Acc),
      let va := s.me.xv a
      let n := if dbl then 8 else 4
      s.Ready (xs [a, b]) (xs [d]) → s.alignedAccess s.cur va n .store 6 7 = .ok c →
      s.Clear c n → (rl = true → s.me.releaseWait = none) →
      let old := c.mem.readN c.pa n
      let y := (s.me.xv b).toNat % 2 ^ (8 * n)
      let lt (u v : Nat) : Prop := (BitVec.ofNat (8 * n) u).toInt < (BitVec.ofNat (8 * n) v).toInt
      let new : Nat → Prop := fun r => match op with
        | .swap => r = y
        | .add => r = (old + y) % 2 ^ (8 * n)
        | .xor => r = old ^^^ y
        | .and => r = old &&& y
        | .or => r = old ||| y
        | .min => (lt y old ∧ r = y) ∨ (¬ lt y old ∧ r = old)
        | .max => (lt old y ∧ r = y) ∨ (¬ lt old y ∧ r = old)
        | .minu => r = min old y
        | .maxu => r = max old y
      ∃ t r, exec (.amo op dbl aq rl d a b) s = .next t ∧ new r ∧ t.mem.readN c.pa n = r ∧
        (∀ z, z < c.pa ∨ c.pa + n ≤ z → t.mem.read z = s.mem.read z) ∧ t.tmem = s.tmem ∧ t.me.pc = s.me.pc + 4 ∧
        (∀ q, q ≠ d → t.me.xv q = s.me.xv q) ∧
        (d ≠ 0 → ∃ m, t.me.late = s.me.late.concat ⟨.x, d, sextTo (8 * n) old, m, none⟩) ∧
        t.me.f = s.me.f ∧ t.me.v = s.me.v ∧ t.me.p = s.me.p ∧ t.me.csr = s.me.csr ∧ t.me.mode = s.me.mode) ∧
    (∀ (s : State) (op : AmoOp) (dbl aq rl : Bool) (d a b : Reg), s.Ready (xs [a, b]) (xs [d]) →
      (s.me.xv a).toNat % (if dbl then 8 else 4) ≠ 0 →
      exec (.amo op dbl aq rl d a b) s = .next (s.updMe (fun h => h.trap 6 (s.me.xv a) 0)))) ∧
  (
    (∀ (s : State) (dbl aq rl : Bool) (d a : Reg) (c : Acc),
      let va := s.me.xv a
      let n := if dbl then 8 else 4
      s.Ready (xs [a]) (xs [d]) → s.reservedAccess va n .load 4 = .ok c →
      s.Clear c n → (rl = true → s.me.releaseWait = none) →
      ∃ t, exec (.lr dbl aq rl d a) s = .next t ∧ t.me.resv = some ⟨c.pa / 64, c.pa, n⟩ ∧
        t.mem = s.mem ∧ t.tmem = s.tmem ∧ t.me.pc = s.me.pc + 4 ∧ (∀ q, q ≠ d → t.me.xv q = s.me.xv q) ∧
        (d ≠ 0 → ∃ m, t.me.late = s.me.late.concat ⟨.x, d, sextTo (8 * n) (c.mem.readN c.pa n), m, none⟩) ∧
        t.me.f = s.me.f ∧ t.me.v = s.me.v ∧ t.me.csr = s.me.csr ∧ t.me.mode = s.me.mode) ∧
    (∀ (s : State) (dbl aq rl : Bool) (d a b : Reg) (c : Acc),
      let va := s.me.xv a
      let n := if dbl then 8 else 4
      s.Ready (xs [a, b]) (xs [d]) → s.reservedAccess va n .store 6 = .ok c → isMmio c.pa = false →
      s.Clear c n → (rl = true → s.me.releaseWait = none) →
      let ok : Prop := s.me.resv = some ⟨c.pa / 64, c.pa, n⟩
      ∃ t, exec (.sc dbl aq rl d a b) s = .next t ∧ t.me.resv = none ∧ t.tmem = s.tmem ∧ t.me.pc = s.me.pc + 4 ∧
        (∀ q, q ≠ d → t.me.xv q = s.me.xv q) ∧
        (ok → (∀ k, k < n → t.mem.read (c.pa + k) = BitVec.ofNat 8 ((s.me.xv b).toNat / 256 ^ k)) ∧
          (∀ z, z < c.pa ∨ c.pa + n ≤ z → t.mem.read z = s.mem.read z) ∧
          (d ≠ 0 → t.me.late = s.me.late.concat ⟨.x, d, 0, none, none⟩)) ∧
        (¬ ok → t.mem = s.mem ∧ (d ≠ 0 → t.me.late = s.me.late.concat ⟨.x, d, 1, none, none⟩)) ∧
        t.me.f = s.me.f ∧ t.me.v = s.me.v ∧ t.me.csr = s.me.csr ∧ t.me.mode = s.me.mode) ∧
    (∀ (s : State) (dbl aq rl : Bool) (d a : Reg) (c : Acc),
      s.Ready (xs [a]) (xs [d]) →
      s.alignedReq s.cur { s.reqOf s.cur with excl := true } (s.me.xv a) (if dbl then 8 else 4) .load 4 7 = .ok c → c.e.frozen = true →
      exec (.lr dbl aq rl d a) s = .next (s.updMe (fun h => h.trap 25 (s.me.xv a) 0))) ∧
    (∀ (s u : State) (op : AmoOp) (dbl aq rl : Bool) (d a b : Reg) (e : TlbEntry) (pa : Nat),
      let va := s.me.xv a
      s.Ready (xs [a, b]) (xs [d]) → va.toNat % (if dbl then 8 else 4) = 0 → e.mt ≠ .device → e.frozen = true →
      (s.translate (s.reqOf s.cur) va .store = .ok e pa u →
        exec (.amo op dbl aq rl d a b) s = .next (s.updMe (fun h => h.trap 25 va 0))) ∧
      (s.translate { s.reqOf s.cur with excl := true } va .store = .ok e pa u →
        exec (.sc dbl aq rl d a b) s = .next (s.updMe (fun h => h.trap 25 va 0)))))

/-- R264, R265: LDS owes its destination the sign-extended value of its 2^z bytes; STS writes 2^z bytes of its source
and no other byte. A misaligned address takes cause 4 (LDS) or 6 (STS) with it. -/
def Obligations.SynchronisedAccess : Prop :=
  (∀ (s : State) (sc : BitVec 3) (z : BitVec 2) (b d : Reg) (c : Acc),
    let va := s.me.xv b
    let n := 2 ^ z.toNat
    s.Ready (xs [b]) (xs [d]) → s.alignedAccess s.cur va n .load 4 0 = .ok c → s.Clear c n → isMmio c.pa = false →
    ∀ i, (i = .ldsRlx sc z b d ∨ i = .ldsAcq sc z b d) →
    ∃ t, exec i s = .next t ∧ t.mem = s.mem ∧ t.tmem = s.tmem ∧ t.me.pc = s.me.pc + 4 ∧
      (∀ q, q ≠ d → t.me.xv q = s.me.xv q) ∧
      (d ≠ 0 → ∃ m f, t.me.late = s.me.late.concat ⟨.x, d, sextTo (8 * n) (c.mem.readN c.pa n), m, f⟩) ∧
      t.me.f = s.me.f ∧ t.me.v = s.me.v ∧ t.me.csr = s.me.csr ∧ t.me.mode = s.me.mode) ∧
  (∀ (s : State) (sc : BitVec 3) (z : BitVec 2) (b v : Reg) (c : Acc),
    let va := s.me.xv b
    let n := 2 ^ z.toNat
    s.Ready (xs [b, v]) [] → s.alignedAccess s.cur va n .store 6 0 = .ok c → s.Clear c n → s.me.releaseWait = none →
    s.me.due true false false = none → isMmio c.pa = false →
    ∀ i, (i = .stsRlx sc v b z ∨ i = .stsRel sc v b z) →
    ∃ t, exec i s = .next t ∧
      (∀ k, k < n → t.mem.read (c.pa + k) = BitVec.ofNat 8 ((s.me.xv v).toNat / 256 ^ k)) ∧
      (∀ y, y < c.pa ∨ c.pa + n ≤ y → t.mem.read y = s.mem.read y) ∧ t.tmem = s.tmem ∧ t.me.pc = s.me.pc + 4 ∧
      t.me.x = s.me.x ∧ t.me.f = s.me.f ∧ t.me.v = s.me.v ∧ t.me.csr = s.me.csr ∧ t.me.mode = s.me.mode) ∧
  (∀ (s : State) (sc : BitVec 3) (z : BitVec 2) (b d : Reg), s.Ready (xs [b]) (xs [d]) → (s.me.xv b).toNat % 2 ^ z.toNat ≠ 0 →
    exec (.ldsRlx sc z b d) s = .next (s.updMe (fun h => h.trap 4 (s.me.xv b) 0)) ∧
    exec (.ldsAcq sc z b d) s = .next (s.updMe (fun h => h.trap 4 (s.me.xv b) 0))) ∧
  (∀ (s : State) (sc : BitVec 3) (z : BitVec 2) (b v : Reg), s.Ready (xs [b, v]) [] → (s.me.xv b).toNat % 2 ^ z.toNat ≠ 0 →
    exec (.stsRlx sc v b z) s = .next (s.updMe (fun h => h.trap 6 (s.me.xv b) 0)) ∧
    (s.me.due true false false = none →
      exec (.stsRel sc v b z) s = .next (s.updMe (fun h => h.trap 6 (s.me.xv b) 0))))

/-! ### Fences, CSRs, exceptions -/

/-- R59, R124, R133, R285: a fence that owes no report and waits for no vector store goes on by 4: a release writes
back the core's dirty lines, an acquire discards the hart's slide buffer. FENCE's sets choose between them by R124's
table, an empty set does nothing, FENCE.TSO does both, FENCE.S orders nothing at scope .h, and FENCE.I empties the
core's L1 instruction cache. R34: in S mode SFENCE.VMA sends a shootdown of the page in rs1 (of all pages for x0) and
the ASID in rs2[15:0] (of all for x0) to every quad of its partition and parks; in U mode it takes cause 2 with its
word. -/
def Obligations.FencesAndShootdowns : Prop :=
  (
    let rd (v : BitVec 4) : Prop := v.getLsbD 1 ∨ v.getLsbD 3
    let wr (v : BitVec 4) : Prop := v.getLsbD 0 ∨ v.getLsbD 2
    let rel (s : State) : State := s.cleanCore (coreOf s.cur)
    let acq (s : State) : State := s.updMe (fun a => { a with slide := none })
    let goOn (s : State) : State := s.updMe (fun a => a.advance 4)
    (∀ (s : State) (c : Nat), (∀ l ∈ ((s.cleanCore c).core c).l1d, l.2 = false) ∧ (s.cleanCore c).harts = s.harts ∧
      (s.cleanCore c).mem = s.mem ∧ (s.cleanCore c).tmem = s.tmem) ∧
    (∀ (s : State) (fm pred succ : BitVec 4), s.me.due true false false = none → s.me.releaseWait = none →
      (pred = 0 ∨ succ = 0 → exec (.fence fm pred succ) s = .next (goOn s)) ∧
      (wr pred → rd succ → exec (.fence fm pred succ) s = .next (goOn (acq (rel s)))) ∧
      (pred ≠ 0 → wr succ → ¬ rd succ → exec (.fence fm pred succ) s = .next (goOn (rel s))) ∧
      (rd pred → ¬ wr pred → rd succ → exec (.fence fm pred succ) s = .next (goOn (acq s)))) ∧
    (∀ s : State, s.me.due true false false = none → s.me.releaseWait = none → exec .fenceTso s = .next (goOn (acq (rel s)))) ∧
    (∀ (s : State) (sc : BitVec 3), s.me.due true false true = none → s.me.releaseWait = none →
      exec (.fenceSAcq sc) s = .next (goOn (if sc = 0 then s else acq s)) ∧
      exec (.fenceSRel sc) s = .next (goOn (if sc = 0 then s else rel s)) ∧
      exec (.fenceSAr sc) s = .next (goOn (if sc = 0 then s else acq (rel s)))) ∧
    (∀ s : State, exec .fenceI s = .next (goOn (s.updCore (coreOf s.cur) (fun c => { c with l1i := [] }))))) ∧
  (
    (∀ (s : State) (b a : Reg), s.me.mode = .s → s.Ready (xs [a, b]) [] → s.me.releaseWait = none →
      s.shoots.any (fun x => x.hart == some s.cur) = false → (a = 0 ∨ canonical (s.me.xv a) = true) →
      ∃ t, exec (.sfenceVma b a) s = .next t ∧
        t.shoots = s.shoots.concat ⟨some s.cur, s.partOf s.cur, if a = 0 then none else some ((s.me.xv a).toNat / 4096),
          if b = 0 then none else some ((s.me.xv b).toNat % 2 ^ 16), s.quadsOf (s.partOf s.cur)⟩ ∧
        t.me.park = some .fence ∧ t.me.pc = s.me.pc ∧ t.me.x = s.me.x ∧ t.mem = s.mem) ∧
    (∀ (s : State) (b a : Reg), s.me.mode = .s → s.Ready (xs [a, b]) [] → s.me.releaseWait = none →
      s.shoots.any (fun x => x.hart == some s.cur) = false → a ≠ 0 → canonical (s.me.xv a) = false →
      exec (.sfenceVma b a) s = .next (State.updMe (State.updMe (s.cleanCore (coreOf s.cur)) (fun h => { h with slide := none }))
        (fun h => h.advance 4))) ∧
    (∀ (s : State) (b a : Reg), s.me.mode = .u →
      exec (.sfenceVma b a) s = .next (s.updMe (fun h => h.trap 2 (wordOf (.sfenceVma b a)) 0))))

/-- R259, R217: a CSR instruction that may access its CSR writes the old value to rd, goes on by 4 and then writes the
CSR, which a set or clear form with rs1 = x0 or 0 leaves alone; the read comes before the write. A CSR that the table
does not let the mode read takes cause 2, and so does a write to a read-only one. That `time` in U mode follows scounteren
bit 1, and what the standard S-mode CSRs hold, is the standard's as log 9 (PRESUMED) takes it. -/
def Obligations.CsrReadThenWritten : Prop :=
  (∀ (s : State) (op : CsrOp) (imm : Bool) (csr : BitVec 12) (d a : Reg) (old : Nat),
    s.csrRead s.cur csr.toNat = some old → s.Ready (if imm then [] else xs [a]) (xs [d]) →
    let src : Word := if imm then a.setWidth 64 else s.me.xv a
    let w : Word := BitVec.ofNat 64 old
    let t := s.updMe (fun h => (h.setX d w).advance 4)
    (op = .rw → csr.toNat / 1024 ≠ 3 → exec (.csrAccess op imm csr d a) s = .next (t.csrWrite s.cur csr.toNat src)) ∧
    (op = .rs → a ≠ 0 → csr.toNat / 1024 ≠ 3 →
      exec (.csrAccess op imm csr d a) s = .next (t.csrWrite s.cur csr.toNat (w ||| src))) ∧
    (op = .rc → a ≠ 0 → csr.toNat / 1024 ≠ 3 →
      exec (.csrAccess op imm csr d a) s = .next (t.csrWrite s.cur csr.toNat (w &&& ~~~src))) ∧
    (op ≠ .rw → a = 0 → exec (.csrAccess op imm csr d a) s = .next t) ∧
    ((op = .rw ∨ a ≠ 0) → csr.toNat / 1024 = 3 →
      exec (.csrAccess op imm csr d a) s = .next (s.updMe (fun h => h.trap 2 (wordOf (.csrAccess op imm csr d a)) 0)))) ∧
  (∀ (s : State) (op : CsrOp) (imm : Bool) (csr : BitVec 12) (d a : Reg),
    (s.csrRead s.cur csr.toNat = none ↔
      (s.me.mode = .u ∧ csr.toNat / 256 % 4 ≠ 0) ∨ (csr = 0xC01 ∧ s.me.mode = .u ∧ s.me.csr.scounteren.getLsbD 1 = false) ∨
      csr ∉ [0x001, 0x002, 0x003, 0xC01, 0x100, 0x104, 0x105, 0x106, 0x10A, 0x140, 0x141, 0x142, 0x143, 0x144, 0x14D, 0x180,
        0x5C0, 0x5C1, 0x8C0, 0x8C1, 0x8C2, 0x8C3, 0x8C4, 0x8C5, 0x8C6, 0x8D0, 0x8D1, 0x8D2, 0x8D3, 0x8D4, 0xCC0, 0xCC1, 0xCC2,
        0xCC3, 0xCC4]) ∧
    (s.csrRead s.cur csr.toNat = none →
      exec (.csrAccess op imm csr d a) s = .next (s.updMe (fun h => h.trap 2 (wordOf (.csrAccess op imm csr d a)) 0))))

/-- R184, R181, R182, R185: EBREAK takes cause 3 with its pc, ECALL in U mode cause 8 with 0, MRET cause 2 in either
mode, SRET and WFI cause 2 in U mode; ECALL in S mode parks for Chinook when it reads a call of the list (R408, a7 0
to 3), and writes all ones to a0 for any other. SRET in S mode returns to sepc in mode SPP with SIE := SPIE. WFI in S
mode goes on when an interrupt is pending and parks when none is. R184: the first four items of a synchronous trap,
taken in one step: sepc is the pc of the trapping instruction, scause and stval are as given, SPP is the former mode,
SPIE the former SIE, SIE is 0, veix is the element or 0, and the hart is in S mode at stvec with its low two bits read
as 0; an interrupt leaves veix. No register of a file, with its presence and mark, changes. The bit places of sstatus and
SRET's SPIE := 1 and SPP := U are the standard's (R217, log 9, PRESUMED); WFI's two clauses follow from R175 and R218. -/
def Obligations.TrapsAndReturns : Prop :=
  (
    (∀ s : State,
      exec .ebreak s = .next (s.updMe (fun a => a.trap 3 a.pc 0)) ∧
      exec .mret s = .next (s.updMe (fun a => a.trap 2 0x30200073 0)) ∧
      (s.me.mode = .u → exec .ecall s = .next (s.updMe (fun a => a.trap 8 0 0)) ∧
        exec .sret s = .next (s.updMe (fun a => a.trap 2 0x10200073 0)) ∧
        exec .wfi s = .next (s.updMe (fun a => a.trap 2 0x10500073 0)))) ∧
    (∀ s : State, s.me.mode = .s → s.Ready (xs [10, 11, 12, 13, 14, 15, 16, 17]) [] →
      (s.me.xv 17).toNat < 4 → exec .ecall s = .next (s.updMe (fun a => a.parkFor .chinook s.time s.clk))) ∧
    (∀ s : State, s.me.mode = .s → s.Ready (xs [10, 11, 12, 13, 14, 15, 16, 17]) [] →
      4 ≤ (s.me.xv 17).toNat → exec .ecall s = .next (s.updMe (fun a => (a.setX 10 (BitVec.allOnes 64)).advance 4))) ∧
    (∀ s : State, s.me.mode = .s → ∃ st : Word,
      st.getLsbD 1 = s.me.csr.sstatus.getLsbD 5 ∧ st.getLsbD 5 = true ∧ st.getLsbD 8 = false ∧
      (∀ k, k ≠ 1 → k ≠ 5 → k ≠ 8 → st.getLsbD k = s.me.csr.sstatus.getLsbD k) ∧
      exec .sret s = .next (s.updMe (fun a => { a with
        pc := a.csr.sepc, mode := if a.csr.sstatus.getLsbD 8 then .s else .u, csr := { a.csr with sstatus := st }, park := none }))) ∧
    (∀ s : State, s.me.mode = .s → (s.sip s.cur ≠ 0 → exec .wfi s = .next (s.updMe (fun a => a.advance 4))) ∧
      (s.sip s.cur = 0 → exec .wfi s = .next (s.updMe (fun a => a.parkFor .wfi s.time s.clk))))) ∧
  (
    (∀ (a : Hart) (c : Nat) (v : Word) (e : Nat), e < 4096 →
      let b := a.trap c v e
      b.csr.sepc = a.pc ∧ b.csr.scause = BitVec.ofNat 64 c ∧ b.csr.stval = v ∧ b.veix.toNat = e ∧ b.mode = .s ∧
      b.pc = a.csr.stvec &&& ~~~3#64 ∧
      (∀ k, b.csr.sstatus.getLsbD k = if k = 8 then decide (a.mode = .s) else if k = 5 then a.csr.sstatus.getLsbD 1
        else if k = 1 then false else a.csr.sstatus.getLsbD k) ∧
      b.x = a.x ∧ b.f = a.f ∧ b.v = a.v ∧ b.p = a.p ∧ b.vl = a.vl ∧ b.vcfg = a.vcfg ∧ b.vflags = a.vflags ∧ b.fflags = a.fflags ∧
      b.vq = a.vq ∧ b.late = a.late ∧ b.csr.stvec = a.csr.stvec ∧ b.csr.satp = a.csr.satp ∧ b.task = a.task) ∧
    (∀ (a : Hart) (c : Nat), c < 2 ^ 63 →
      let b := a.interrupt c
      b.csr.sepc = a.pc ∧ b.csr.scause.toNat = 2 ^ 63 + c ∧ b.csr.stval = 0 ∧ b.veix = a.veix ∧ b.mode = .s ∧ b.x = a.x ∧
      b.f = a.f ∧ b.v = a.v ∧ b.pc = a.csr.stvec &&& ~~~3#64))

/-! ### Custom-0 scalar instructions -/

/-- R224, R173: a taking form computes what its standard instruction computes; every source is read before a taken one
becomes open, and the destination is written last. -/
def Obligations.TakingResult : Prop :=
  ∀ (s : State) (i : Instr) (op : RROp) (u t : Bool) (b a d : Reg) (v : Word),
    takingForm i = some (op, u, t, b, a, d) → aluResult s.me (.rr op d a b) = some ([a, b], d, v) →
    s.Ready (xs [a, b]) (xs [d]) →
    exec i s = .next (s.updMe (fun h => takenAndWritten h u t b a d v))

/-- R242: BFX, BFXS and BFI write the field that xf names, extended or inserted; a field of width 0 or offset 64 and
above gives 0, or leaves BFI's register; the result is fixed. BFI waits for an empty xd. -/
def Obligations.BitFields : Prop :=
  (∀ (s : State) (u t : Bool) (b a d : Reg), s.Ready (xs [a, b]) (xs [d]) →
    exec (.bfx u t b a d) s = .next (s.updMe (fun h => takenAndWritten h u t b a d (fieldValue false (h.xv a) (h.xv b)))) ∧
    exec (.bfxs u t b a d) s = .next (s.updMe (fun h => takenAndWritten h u t b a d (fieldValue true (h.xv a) (h.xv b)))) ∧
    (s.Ready (xs [d]) [] →
      exec (.bfi u t b a d) s = .next (s.updMe (fun h => takenAndWritten h u t b a d (fieldInsert (h.xv d) (h.xv a) (h.xv b)))))) ∧
  (∀ (s : State) (u t : Bool) (b a d : Reg), s.me.markedAny (xs [a, b, d]) = none → s.Ready (xs [a, b]) [] →
    (s.me.cond .x d.toNat).1 ≠ .present →
    exec (.bfi u t b a d) s = .next (s.updMe (fun h => h.parkFor (.empty .x d.toNat false) s.time s.clk)))

/-- R244: TAKE waits until xs is present, opens it, then writes its value; with xd = xs the register ends present,
with xd = x0 it is only opened. The word of a TAKE with rs1 = x0 raises cause 2. -/
def Obligations.TakeReads : Prop :=
  (∀ (s : State) (t : Bool) (a d : Reg), s.Ready (xs [a]) (xs [d]) →
    exec (.take t a d) s = .next (s.updMe (fun h => ((h.presX a .opened).setX d (h.xv a)).advance 4))) ∧
  (∀ (s : State) (t : Bool) (a d : Reg), s.me.markedAny (xs [a]) = none → (s.me.cond .x a.toNat).1 ≠ .present →
    exec (.take t a d) s = .next (s.updMe (fun h => h.parkFor (.empty .x a.toNat false) s.time s.clk))) ∧
  (∀ (h : Hart) (a : Reg), a ≠ 0 →
    (((h.presX a .opened).setX a (h.xv a)).cond .x a.toNat).1 = .present ∧ ((h.presX a .opened).setX a (h.xv a)).xv a = h.xv a ∧
    (((h.presX a .opened).setX 0 (h.xv a)).cond .x a.toNat).1 = .opened) ∧
  (∀ (s u : State) (h : Nat) (rest : List Turn) (t : Bool) (d : Reg), s.agenda = .issue h :: rest → s.sec.recovery = false →
    s.mayIssue h = true → (s.hart h).resuming = false →
    State.fetchRaw { s with agenda := rest, cur := h } = .ok (4, encode (.take t 0 d), u) →
    step s = .next ((u.begins.updMe (fun a => a.trap 2 (BitVec.ofNat 64 (encode (.take t 0 d))) 0)).afterIssue h).settle)

/-- R245, R246: PREMPTY opens a register that is not pending and parks on a pending one; PRTEST writes the register's
presence, mark and held bits without parking on it or taking it, 0 for x0 (a pending register has no mark; a write is held
where it cannot land). A vector register beyond the allocation
takes cause 24, and PREMPTY of x0 cause 2. -/
def Obligations.PresenceOperations : Prop :=
  let file (b : Reg) : RFile := if b = 0 then .x else if b = 1 then .f else .v
  (∀ (s : State) (b d : Reg), b.toNat ≤ 2 → (b = 0 → d ≠ 0) → (b = 2 → d.toNat + 1 ≤ s.me.alloc) →
    ((s.me.cond (file b) d.toNat).1 ≠ .pending →
      ∃ t, exec (.prempty b d) s = .next t ∧ t.me.cond (file b) d.toNat = (.opened, none) ∧ t.me.pc = s.me.pc + 4 ∧
        (∀ fl r, r < 32 → (fl, r) ≠ (file b, d.toNat) → t.me.cond fl r = s.me.cond fl r) ∧
        (∀ h, h ≠ s.cur → t.hart h = s.hart h) ∧ t.mem = s.mem) ∧
    ((s.me.cond (file b) d.toNat).1 = .pending →
      exec (.prempty b d) s = .next (s.updMe (fun h => h.parkFor (.owed (file b) d.toNat) s.time s.clk)))) ∧
  (∀ s : State, exec (.prempty 0 0) s = .next (s.updMe (fun h => h.trap 2 (wordOf (.prempty 0 0)) 0))) ∧
  (∀ (s : State) (b a d : Reg), b.toNat ≤ 2 → (b = 2 → a.toNat + 1 ≤ s.me.alloc) → (s.me.cond .x d.toNat).1 ≠ .pending →
    let c := s.me.cond (file b) a.toNat
    let code : Nat := match c.1 with
      | .present => 0
      | .pending => 1
      | .opened => 2
    let held : Prop := ∃ w ∈ s.rwrites, (w.target = s.cur ∧ w.file = file b ∧ w.reg ≤ a.toNat ∧ a.toNat < w.reg + w.g) ∧
      (s.landWaits w = true ∨ s.openFor w = false)
    ∃ v : Word, exec (.prtest b a d) s = .next (s.updMe (fun h => (h.setX d v).advance 4)) ∧
      (b = 0 ∧ a = 0 → v = 0) ∧
      (¬ (b = 0 ∧ a = 0) → v.toNat % 4 = code ∧ (v.getLsbD 2 = true ↔ c.1 ≠ .pending ∧ c.2.isSome) ∧ (v.getLsbD 3 = true ↔ held) ∧ v.toNat < 16)) ∧
  (∀ (s : State) (a d : Reg), s.me.alloc < a.toNat + 1 →
    exec (.prtest 2 a d) s = .next (s.updMe (fun h => h.trap 24 (a.setWidth 64) 0)))

/-- R243, R332: PUTX to a hart of the issuer's partition sends its write and parks until it lands; the target is
checked first: a number above 12,287 or a hart of another partition takes cause 31 with it. VPUSH sends its group
after the same check. R172, R174: a late result lands on its register, present, with its mark, and its hart goes on if
it was parked on it. A remote scalar write to an open register of a hart with a task lands: the value, present and
unmarked, and the writer goes on. -/
def Obligations.RemoteAndLateWrites : Prop :=
  (
    (∀ (s : State) (u t : Bool) (b a d : Reg), d ≠ 0 → s.Ready (xs [a, b]) [] → s.writing = false →
      let h := (s.me.xv a).toNat
      h ≤ 12287 → s.partOf h = s.partOf s.cur →
      ∃ w : RWrite, w.wake = false ∧ w.src = s.cur ∧ w.target = h ∧ w.file = .x ∧ w.reg = d.toNat ∧ w.g = 1 ∧ w.val = s.me.xv b ∧
        (∀ r, r ∈ w.takes ↔ (t = true ∧ r = a.toNat) ∨ (u = true ∧ r = b.toNat)) ∧
        exec (.putx u t b a d) s = .next (State.updMe { s with rwrites := s.rwrites.concat w }
          (fun h' => h'.parkFor (.held h .x d.toNat) s.time s.clk))) ∧
    (∀ (s : State) (u t : Bool) (b a d : Reg), d ≠ 0 → s.Ready (xs [a, b]) [] → s.writing = false →
      12287 < (s.me.xv a).toNat ∨ s.partOf (s.me.xv a).toNat ≠ s.partOf s.cur →
      exec (.putx u t b a d) s = .next (s.updMe (fun h => h.trap 31 (s.me.xv a) 0))) ∧
    (∀ (s : State) (t : Bool) (b a d : Reg), d ≠ 0 → s.writing = false →
      let h := (s.me.xv a).toNat
      let g := 2 ^ s.me.vcfg.g.toNat
      (s.me.cond .x a.toNat).1 = .present → s.me.markedAny (xs [a] ++ vgroup b.toNat g) = none →
      s.me.presentAll (vgroup b.toNat g) = none → s.me.due false false true = none →
      b.toNat % g = 0 → b.toNat + g ≤ s.me.alloc → h ≤ 12287 → s.partOf h = s.partOf s.cur →
      ((s.hart h).task.isSome → d.toNat % g = 0 ∧ d.toNat + g ≤ (s.hart h).alloc) →
      ∃ w : RWrite, w.wake = false ∧ w.src = s.cur ∧ w.target = h ∧ w.file = .v ∧ w.reg = d.toNat ∧ w.g = g ∧ w.vs = b.toNat ∧
        exec (.vpush t b a d) s = .next (State.updMe { s with rwrites := s.rwrites.concat w }
          (fun h' => h'.parkFor (.held h .v d.toNat) s.time s.clk)))) ∧
  (
    (∀ (s : State) (l : Late) (rest : List Late), (s.hart s.ev.h).late = l :: rest → s.ev.k = 0 → l.file = .x → l.reg ≠ 0 →
      ∃ t, exec .lateResultLand s = .next t ∧ (t.hart s.ev.h).late = rest ∧ (t.hart s.ev.h).xv l.reg = l.val ∧
        (t.hart s.ev.h).cond .x l.reg.toNat = (.present, l.mark) ∧
        (∀ q, q ≠ l.reg → (t.hart s.ev.h).xv q = (s.hart s.ev.h).xv q) ∧ (t.hart s.ev.h).f = (s.hart s.ev.h).f ∧
        (t.hart s.ev.h).pc = (s.hart s.ev.h).pc ∧ (∀ h, h ≠ s.ev.h → t.hart h = s.hart h) ∧ t.mem = s.mem) ∧
    (∀ (s : State) (w : RWrite) (rest : List RWrite), s.rwrites = w :: rest → s.ev.k = 0 → w.wake = false → w.file = .x →
      w.g = 1 → 0 < w.reg → w.reg < 32 → w.src ≠ w.target → (s.hart w.target).task.isSome →
      ((s.hart w.target).cond .x w.reg).1 = .opened → s.quadStopped (quadOf w.target) = false →
      ∃ t, exec .remoteWriteLand s = .next t ∧ t.rwrites = rest ∧ (t.hart w.target).xv (BitVec.ofNat 5 w.reg) = w.val ∧
        (t.hart w.target).cond .x w.reg = (.present, none) ∧ (t.hart w.src).pc = (s.hart w.src).pc + 4 ∧
        (t.hart w.src).park = none ∧ (∀ h, h ≠ w.src → h ≠ w.target → t.hart h = s.hart h) ∧ t.mem = s.mem))

/-- R223, R256, R257, R258: PWHINT adds its core's hint of xs[2:0] for xs[15:8] × 1,024 cycles (of the reference clock: log 7,
DESIGN CHOICE), lets its quad's votes act, and PWHINT_EXPIRE removes those whose time is over and no other. SBWAIT of an empty mask has no effect; another goes on, acquiring, when
no token of its mask is pending and no failure is to report, parks while one is, and traps with the cause of a failure,
which it consumes. VFENCE goes on when the hart's vector and matrix work has written its results, and parks before. -/
def Obligations.WaitsAndHints : Prop :=
  (∀ (s : State) (a : Reg), s.Ready (xs [a]) [] →
    exec (.pwhint a) s = .next (State.updMe
      ((s.updCore (coreOf s.cur) (fun c => { c with
        hints := c.hints.concat ((s.me.xv a).setWidth 3, s.time + ((s.me.xv a).extractLsb' 8 8).toNat * 1024) })).repoint
          (quadOf s.cur))
      (fun h => h.advance 4))) ∧
  (∀ (s : State) (o : BitVec 3) (u : Nat), (o, u) ∈ (s.core s.ev.p).hints →
    ∃ t, exec .pwhintExpire s = .next t ∧ ((o, u) ∈ (t.core s.ev.p).hints ↔ s.time < u) ∧
      (∀ c, c ≠ s.ev.p → t.core c = s.core c) ∧ t.harts = s.harts ∧ t.mem = s.mem) ∧
  (∀ s : State, exec (.sbwait 0) s = .next (s.updMe (fun a => a.advance 4))) ∧
  (∀ (s : State) (m : BitVec 8), m ≠ 0 → s.me.due true true true = none →
    (s.me.tokensBusy m = false → s.me.tokenErr m = none →
      exec (.sbwait m) s = .next (State.updMe (s.updMe (fun a => { a with slide := none })) (fun a => a.advance 4))) ∧
    (s.me.tokensBusy m = true → exec (.sbwait m) s = .next (s.updMe (fun a => a.parkFor (.sbwait m) s.time s.clk))) ∧
    (∀ e, s.me.tokensBusy m = false → s.me.tokenErr m = some e →
      exec (.sbwait m) s =
        .next (State.updMe (s.updMe (fun a => { a with sbErr := a.sbErr.erase e })) (fun a => a.trap e.cause e.fva 0))) ∧
    (s.me.tokensBusy m = true ↔ ∃ k, ∃ h : k < 8, m.getLsbD k = true ∧ s.me.sb[k] ≠ 0)) ∧
  (∀ s : State, s.me.due false true true = none →
    (s.vworks s.cur = false → exec .vfence s = .next (s.updMe (fun a => a.advance 4))) ∧
    (s.vworks s.cur = true → exec .vfence s = .next (s.updMe (fun a => a.parkFor .vfence s.time s.clk))))

/-! ### Vector configuration and elements -/

/-- R305: VCFG and VCFGI write vl, the lesser of the requested length and 1,024 × 2^G / width, to vl and to rd, and
set ET and G of vcfg; BFZ, veix, the vector queue and every vector register stay. An nf type whose format register has
V = 0 takes cause 30 with the word of the instruction. The last clause is the examples. -/
def Obligations.VectorConfigured : Prop :=
  let after (s : State) (e : BitVec 4) (g : BitVec 2) (avl : Nat) (d : Reg) : State :=
    let n := min avl (1024 * 2 ^ g.toNat / etWidth s.me.fmts e.toNat)
    s.updMe (fun h => { (h.setX d (BitVec.ofNat 64 n)).advance 4 with vl := n, vcfg := { bfz := h.vcfg.bfz, g := g, et := e } })
  (∀ (s : State) (e : BitVec 4) (g : BitVec 2) (a d : Reg), s.me.fmtInvalid e.toNat = false → s.Ready (xs [a]) (xs [d]) →
    exec (.vcfg e g a d) s = .next (after s e g (s.me.xv a).toNat d)) ∧
  (∀ (s : State) (e : BitVec 4) (g : BitVec 2) (v : BitVec 10) (d : Reg), s.me.fmtInvalid e.toNat = false →
    s.Ready [] (xs [d]) → exec (.vcfgi e g v d) s = .next (after s e g v.toNat d)) ∧
  (∀ (s : State) (e : BitVec 4),
    s.me.fmtInvalid e.toNat = true ↔ 12 ≤ e.toNat ∧ ((s.me.fmts.getD (e.toNat - 12) 0).getLsbD 63 = false)) ∧
  (∀ (s : State) (e : BitVec 4) (g : BitVec 2) (a d : Reg) (v : BitVec 10), s.me.fmtInvalid e.toNat = true →
    exec (.vcfg e g a d) s = .next (s.updMe (fun h => h.trap 30 (wordOf (.vcfg e g a d)) 0)) ∧
    exec (.vcfgi e g v d) s = .next (s.updMe (fun h => h.trap 30 (wordOf (.vcfgi e g v d)) 0))) ∧
  (decodeTableWord 32 0x2005D28B = some (.vcfg 2 0 11 5) ∧ decodeTableWord 32 0x2210530B = some (.vcfgi 2 0 32 6) ∧
    decodeTableWord 32 0x8208548B = some (.vcfgi 8 0 16 9))

/-- R247, R327: VIDXRD and VIDXWR enter a copy of the group numbered xi + imm to or from the encoded group, and VMVX
and VMVS an element move of the register that holds the element numbered by the index, when their checks pass; veix is
0 from then on and the pc moves on by 4. An index register with its take bit set becomes open. A group out of the
allocation takes cause 24. -/
def Obligations.IndexedMovesIssue : Prop :=
  (∀ (s : State) (t : Bool) (imm x v : Reg) (n : Nat),
    let g := 2 ^ s.me.vcfg.g.toNat
    (s.me.xv x).toInt + imm.toInt = n → n + g ≤ s.me.alloc → n % g = 0 → v.toNat + g ≤ s.me.alloc → v.toNat % g = 0 →
    s.me.markedAny (xs [x]) = none → s.me.presentAll (xs [x]) = none →
    let take : Hart → Hart := fun h => if t then h.presX x .opened else h
    let rd : VReq := { i := .vidxrd t imm x v, src := vgroup n g, dst := vgroup v.toNat g, pre := take, vl := s.me.vl, g := g,
                       op := .copy v.toNat n g }
    let wr : VReq := { i := .vidxwr t imm x v, src := vgroup v.toNat g, dst := vgroup n g, pre := take, vl := s.me.vl, g := g,
                       op := .copy n v.toNat g }
    (s.VIssues rd → exec (.vidxrd t imm x v) s = .next (s.updMe (fun h => (h.enqueue rd).advance 4))) ∧
    (s.VIssues wr → exec (.vidxwr t imm x v) s = .next (s.updMe (fun h => (h.enqueue wr).advance 4)))) ∧
  (∀ (s : State) (t : Bool) (imm x v : Reg) (n : Int),
    let g := 2 ^ s.me.vcfg.g.toNat
    v.toNat + g ≤ s.me.alloc → v.toNat % g = 0 → s.me.markedAny (xs [x]) = none → s.me.presentAll (xs [x]) = none →
    (s.me.xv x).toInt + imm.toInt = n → (n < 0 ∨ s.me.alloc < n + g ∨ n % g ≠ 0) →
    exec (.vidxrd t imm x v) s = .next (s.updMe (fun h => h.trap 24 (BitVec.ofInt 64 n) h.veix.toNat)) ∧
    exec (.vidxwr t imm x v) s = .next (s.updMe (fun h => h.trap 24 (BitVec.ofInt 64 n) h.veix.toNat))) ∧
  (∀ (s : State) (e : BitVec 4) (b a d : Reg),
    let k := (s.me.xv b).toNat
    let w := etWidth s.me.fmts e.toNat
    s.me.fmtInvalid e.toNat = false → s.me.markedAny (xs [b]) = none → s.me.presentAll (xs [b]) = none →
    let mvx : VReq := { i := .vmvx e b a d, groups := [(a.toNat + k * w / 1024, 1)], src := [(.v, a.toNat + k * w / 1024)],
                        dst := [(.x, d.toNat)], vl := 0, g := 1, op := .mvx e.toNat d.toNat a.toNat k }
    let mvs : VReq := { i := .vmvs e b a d, groups := [(d.toNat + k * w / 1024, 1)],
                        src := [(.v, d.toNat + k * w / 1024), (.x, a.toNat)], dst := [(.v, d.toNat + k * w / 1024)], vl := 0, g := 1,
                        op := .mvs e.toNat d.toNat (s.me.xv a) k }
    (s.VIssues mvx → exec (.vmvx e b a d) s = .next (s.updMe (fun h => (h.enqueue mvx).advance 4))) ∧
    (s.VIssues mvs → exec (.vmvs e b a d) s = .next (s.updMe (fun h => (h.enqueue mvs).advance 4))))

/-! ### Tasks -/

/-- A late x result is owed, with its mark; x0 is owed none. -/
def Sys2Proof.Claims.OwesX (s t : State) (d : Reg) (v : Word) (m : Option Mark) : Prop :=
  t.me.late = if d = 0 then s.me.late else s.me.late.concat ⟨.x, d, v, m, none⟩

/-- R249, R370, R371: TENQ of a well-formed descriptor puts one task, with the next id of the queue's partition, at
the end of a queue with room, and goes on by 4; it parks at a full queue or over the filter's rate, and takes cause 31
with the queue's number where it is denied. TENQT answers 0 with the id, 1 for a full queue, 2 over the rate and 3 for a
denied one, as a late result. R250, R251: KLAUNCH of a well-formed launch descriptor enqueues one task for each
combination of its spatial indices, SH fastest, then SQ, then SD, each level's index in its place and 0 for a T level,
at the end of a queue with room, with consecutive ids, or none, and owes the first id, the number of tasks and the
status. R254: TICKET raises ISSUE of the tile record by 1, modulo 2^32, in one step, and owes its old value; no other byte of
memory changes. A record that is not 64-byte aligned takes cause 6. -/
def Obligations.TasksEnqueued : Prop :=
  (
    let opens (s : State) (b : Reg) (c : Acc) : Prop :=
      let t := s.cleanCore (coreOf s.cur)
      t.alignedAccess s.cur (s.me.xv b) 64 .load 4 0 = .ok c ∧ t.Clear c 64 ∧ t.badRange c.pa 64 = false ∧
      isMmio c.pa = false ∧ descBad (descOf (c.mem.readBytes c.pa 64)) = false
    let entered (s t : State) (q : Nat) (c : Acc) : Prop :=
      (∃ k : QTask, k.id = (s.prt (s.queue q).part).nextId ∧ k.desc = descOf (c.mem.readBytes c.pa 64) ∧ k.at_ = s.time ∧
        k.idx = [0, 0, 0, 0] ∧
        (t.queue q).tasks = (s.queue q).tasks.concat k) ∧
      (t.prt (s.queue q).part).nextId = (s.prt (s.queue q).part).nextId + 1 ∧ t.mem = s.mem ∧ t.tmem = s.tmem
    (∀ (s : State) (u tk : Bool) (b a : Reg) (c : Acc),
      let q := (s.me.xv a).toNat
      s.enqWaiting q = false → s.Ready (xs [a, b]) [] → s.me.releaseWait = none →
      (s.enqDenied (s.partOf s.cur) (s.me.xv a) = true →
        exec (.tenq u tk b a) s = .next (s.updMe (fun h => h.trap 31 (s.me.xv a) 0))) ∧
      (s.enqDenied (s.partOf s.cur) (s.me.xv a) = false → opens s b c →
        (s.enqStatus (s.partOf s.cur) q 1 (s.queue q).recorded = 0 →
          ∃ t, exec (.tenq u tk b a) s = .next t ∧ entered s t q c ∧ t.me.pc = s.me.pc + 4 ∧ t.me.park = none ∧
            (∀ r, t.me.xv r = s.me.xv r) ∧ t.me.f = s.me.f ∧ t.me.v = s.me.v) ∧
        (s.enqStatus (s.partOf s.cur) q 1 (s.queue q).recorded ≠ 0 →
          ∃ t, exec (.tenq u tk b a) s = .next t ∧ t.me.park = some .tenq ∧ t.me.pc = s.me.pc ∧
            (t.queue q).tasks = (s.queue q).tasks ∧ (∃ w ∈ (t.queue q).waiters, w.hart = s.cur) ∧ t.mem = s.mem))) ∧
    (∀ (s : State) (u tk : Bool) (b a d : Reg) (c : Acc),
      let q := (s.me.xv a).toNat
      s.Ready (xs [a, b]) (xs [d]) → s.me.releaseWait = none →
      (s.enqDenied (s.partOf s.cur) (s.me.xv a) = true →
        ∃ t, exec (.tenqt u tk b a d) s = .next t ∧ OwesX s t d 3 none ∧ t.me.pc = s.me.pc + 4 ∧
          t.queues = s.queues ∧ t.mem = s.mem) ∧
      (s.enqDenied (s.partOf s.cur) (s.me.xv a) = false → opens s b c →
        (s.enqStatus (s.partOf s.cur) q 1 (s.queue q).recorded = 0 →
          ∃ t, exec (.tenqt u tk b a d) s = .next t ∧ entered s t q c ∧ t.me.pc = s.me.pc + 4 ∧
            OwesX s t d (BitVec.ofNat 64 ((s.prt (s.queue q).part).nextId.toNat * 2 ^ 32)) none) ∧
        (∀ st, st ≠ 0 → s.enqStatus (s.partOf s.cur) q 1 (s.queue q).recorded = st →
          ∃ t, exec (.tenqt u tk b a d) s = .next t ∧ OwesX s t d (BitVec.ofNat 64 st) none ∧ t.me.pc = s.me.pc + 4 ∧
            t.queues = s.queues ∧ t.mem = s.mem)))) ∧
  (
    ∀ (s : State) (tk : Bool) (a d : Reg) (c1 c2 : Acc),
      let xk := s.me.xv a
      s.Ready (xs [a]) (xs [d]) → s.me.releaseWait = none →
      let s1 := s.cleanCore (coreOf s.cur)
      let s2 := (c1.s.updMe (fun h => h.sees c1.pa 64)).touch (coreOf s.cur) c1.e c1.pa false
      s1.alignedAccess s.cur xk 64 .load 4 0 = .ok c1 → s1.Clear c1 64 → s1.badRange c1.pa 64 = false → isMmio c1.pa = false →
      s2.alignedAccess s.cur (xk + 64) 64 .load 4 0 = .ok c2 → s2.Clear c2 64 → s2.badRange c2.pa 64 = false → isMmio c2.pa = false →
      let b := c1.mem.readBytes c1.pa 64 ++ c2.mem.readBytes c2.pa 64
      let q := leNat ((b.drop 64).take 8) % 4096
      let trips (k : Nat) : Nat := (launchTrip (launchLevels b) k).getD 1
      let n := trips 1 * trips 2 * trips 3
      let first := (s.prt (s.queue q).part).nextId
      let index (k w : Nat) : Nat := match w / 2 ^ 30 % 4 with
        | 0 => 0
        | 1 => k % trips 1
        | 2 => k / trips 1 % trips 2
        | _ => k / trips 1 / trips 2
      launchBad b = false → s.enqDenied (s.partOf s.cur) (BitVec.ofNat 64 q) = false →
      (s.enqStatus (s.partOf s.cur) q n (s.queue q).recorded = 0 →
        ∃ t l, exec (.klaunch tk a d) s = .next t ∧ (t.queue q).tasks = (s.queue q).tasks ++ l ∧ l.length = n ∧
          (∀ k, k < n → ∃ x, l[k]? = some x ∧ x.id = first + BitVec.ofNat 32 k ∧ x.desc = descOf (b.take 64) ∧
            x.idx = (launchLevels b).map (index k)) ∧
          OwesX s t d (BitVec.ofNat 64 (first.toNat * 2 ^ 32 + n * 256)) none ∧ t.me.pc = s.me.pc + 4 ∧
          t.mem = s.mem) ∧
      (∀ st, st ≠ 0 → s.enqStatus (s.partOf s.cur) q n (s.queue q).recorded = st →
        ∃ t, exec (.klaunch tk a d) s = .next t ∧ t.queues = s.queues ∧ OwesX s t d (BitVec.ofNat 64 st) none ∧
          t.me.pc = s.me.pc + 4 ∧ t.mem = s.mem)) ∧
  (
    (∀ (s : State) (tk : Bool) (a d : Reg) (c : Acc), s.Ready (xs [a]) (xs [d]) →
      s.alignedAccess s.cur (s.me.xv a) 64 .store 6 7 = .ok c → s.Clear c 4 →
      ∃ t m, exec (.ticket tk a d) s = .next t ∧ t.mem.readN c.pa 4 = (c.mem.readN c.pa 4 + 1) % 2 ^ 32 ∧
        (∀ z, z < c.pa ∨ c.pa + 4 ≤ z → t.mem.read z = s.mem.read z) ∧ t.tmem = s.tmem ∧
        OwesX s t d (BitVec.ofNat 64 (c.mem.readN c.pa 4)) m ∧ t.me.pc = s.me.pc + 4 ∧
        (∀ q, t.me.xv q = s.me.xv q) ∧ t.me.f = s.me.f ∧ t.me.v = s.me.v ∧ t.me.csr = s.me.csr) ∧
    (∀ (s : State) (tk : Bool) (a d : Reg), s.Ready (xs [a]) (xs [d]) → (s.me.xv a).toNat % 64 ≠ 0 →
      exec (.ticket tk a d) s = .next (s.updMe (fun h => h.trap 6 (s.me.xv a) 0))))

/-- R252: TEXIT of a task whose vector and matrix work is done, with nothing to report, no vector store and no
transfer on its tiles, frees every tile it did not allocate .keep, and no other, and releases the slot: with no
yielded task of the slot the hart is vacant, keeping only its supervisor's CSRs. It stores nothing. It parks while its
work or its transfers run on. R253: TYIELD, with its vector and matrix work done, its group requests filled and the
die free to bind, goes on by 4 when no ready task of its effective class or above fits its slot; else its task is
saved, to go on after the TYIELD, and that task is bound in the slot with its id in x16. It parks while its work runs
on. -/
def Obligations.TasksLeave : Prop :=
  (
    ∀ (s : State) (k : Task), s.me.task = some k → s.me.due false true true = none →
      (s.vworks s.cur = true → exec .texit s = .next (s.updMe (fun a => a.parkFor .vfence s.time s.clk))) ∧
      (s.vworks s.cur = false → s.me.due true false false = none → s.me.releaseWait = none →
        (s.tilesBusy s.cur k.id = true → exec .texit s = .next (s.updMe (fun a => a.parkFor .transfers s.time s.clk))) ∧
        (s.tilesBusy s.cur k.id = false → (∀ y ∈ s.yielded, y.slot ≠ s.cur) →
          ∃ t, exec .texit s = .next t ∧ t.me = { csr := s.me.csr, seq := s.me.seq } ∧
            (∀ h, let e := Tab.get (s.quad (quadOf s.cur)).tiles h {}
              e.v = true → e.keep = false → e.hart = s.cur → e.task = k.id →
              (Tab.get (t.quad (quadOf s.cur)).tiles h {}).v = false) ∧
            (∀ h, h ∉ s.ownTiles s.cur k.id →
              Tab.get (t.quad (quadOf s.cur)).tiles h {} = Tab.get (s.quad (quadOf s.cur)).tiles h {}) ∧
            t.mem = s.mem ∧ t.tmem = s.tmem))) ∧
  (
    ∀ (s : State) (k : Task), s.me.task = some k →
      (s.vworks s.cur = true → exec .tyield s = .next (s.updMe (fun a => a.parkFor .vfence s.time s.clk))) ∧
      (s.vworks s.cur = false → s.fillsDue s.cur = false → (s.die (dieOf s.cur)).bindAt ≤ s.time →
        let saved := (s.updMe (fun a => a.advance 4)).saveTask s.cur
        (saved.choose (dieOf s.cur) (some s.cur) k.cls = none → exec .tyield s = .next (s.updMe (fun a => a.advance 4))) ∧
        (∀ c, saved.choose (dieOf s.cur) (some s.cur) k.cls = some c →
          ∃ t y, exec .tyield s = .next t ∧ t.yielded = s.yielded.concat y ∧ y.slot = s.cur ∧ y.hart.pc = s.me.pc + 4 ∧
            y.hart.task = some k ∧ t.me.task.map (·.id) = some c.task.id ∧ t.mem = s.mem ∧
            (c.task.idx.length = 4 → t.me.xv 16 = c.task.id.setWidth 64))))

/-! ### Sync objects -/

/-- An object instruction reaches its object: registers ready, nothing to report, the line's checks passed with `c`, KIND as wanted. -/
def Sys2Proof.Claims.Reaches (s : State) (o : Reg) (src dst : List Reg) (release frozenOk : Bool) (kinds : List Nat) (c : Acc) :
    Prop :=
  s.Ready (xs (o :: src)) (xs dst) ∧ s.me.due release false false = none ∧ s.objAccess (s.me.xv o) frozenOk = .ok c ∧
  s.Clear c 64 ∧ c.obj.kind ∈ kinds

/-- Memory is as it was but for the bytes from `a` to `a + n`. -/
def Sys2Proof.Claims.OnlyBytes (s t : State) (a n : Nat) : Prop :=
  (∀ z, z < a ∨ a + n ≤ z → t.mem.read z = s.mem.read z) ∧ t.tmem = s.tmem

/-- A hart's registers of every file, its CSRs and mode are as they were. -/
def Sys2Proof.Claims.SameRegs (a b : Hart) : Prop :=
  b.x = a.x ∧ b.f = a.f ∧ b.v = a.v ∧ b.p = a.p ∧ b.csr = a.csr ∧ b.mode = a.mode ∧ b.vl = a.vl ∧ b.vcfg = a.vcfg ∧ b.veix = a.veix ∧
  b.vflags = a.vflags ∧ b.fflags = a.fflags ∧ b.frm = a.frm ∧ b.fmt = a.fmt ∧ b.late = a.late ∧ b.vq = a.vq

/-- R287, R288: BIND writes base and length into the lowest free range slot and raises NRNG by 1; UNBIND clears the
lowest slot of its base and lowers NRNG by 1. Nothing else in memory and no register changes. A pair that is bound
already, or a base that is not, changes nothing. A length of 0 or with no free slot takes cause 31 with the object's
address. -/
def Obligations.ObjectsBind : Prop :=
  (∀ (s : State) (a b c : Reg) (x : Acc) (k : Nat),
    let o := x.obj
    let base := (s.me.xv b).toNat
    let len := (s.me.xv c).toNat
    Reaches s a [b, c] [] false false [1, 2] x → 0 < len → len ≤ 0xFFFFFFFF → base + len ≤ 2 ^ 64 →
    ((base, len) ∈ o.ranges → ∃ t, exec (.bind c b a) s = .next t ∧ t.mem = s.mem ∧ t.me.pc = s.me.pc + 4 ∧ SameRegs s.me t.me) ∧
    ((base, len) ∉ o.ranges → k < 3 → (∀ j, j < k → (o.ranges.getD j (0, 0)).2 ≠ 0) → (o.ranges.getD k (0, 0)).2 = 0 →
      ∃ t, exec (.bind c b a) s = .next t ∧ t.mem.readN (x.pa + 16 + 16 * k) 8 = base ∧ t.mem.readN (x.pa + 24 + 16 * k) 8 = len ∧
        (objIn t.mem x.pa).w0 = putField o.w0 60 2 (fieldOf o.w0 60 2 + 1) ∧ (objIn t.mem x.pa).w1 = o.w1 ∧
        (∀ z, (z < x.pa ∨ x.pa + 16 ≤ z) → (z < x.pa + 16 + 16 * k ∨ x.pa + 32 + 16 * k ≤ z) → t.mem.read z = s.mem.read z) ∧
        t.tmem = s.tmem ∧ t.me.pc = s.me.pc + 4 ∧ SameRegs s.me t.me) ∧
    ((base, len) ∉ o.ranges → (∀ j, j < 3 → (o.ranges.getD j (0, 0)).2 ≠ 0) →
      exec (.bind c b a) s = .next (s.updMe (fun h => h.trap 31 (s.me.xv a) 0)))) ∧
  (∀ (s : State) (a b c : Reg) (x : Acc), Reaches s a [b, c] [] false false [1, 2] x → s.me.xv c = 0 →
    exec (.bind c b a) s = .next (s.updMe (fun h => h.trap 31 (s.me.xv a) 0))) ∧
  (∀ (s : State) (a b : Reg) (x : Acc) (k : Nat),
    let o := x.obj
    let mine (j : Nat) : Prop := (o.ranges.getD j (0, 0)).2 ≠ 0 ∧ (o.ranges.getD j (0, 0)).1 = (s.me.xv b).toNat
    Reaches s a [b] [] false false [1, 2] x →
    ((∀ j, j < 3 → ¬ mine j) →
      ∃ t, exec (.unbind b a) s = .next t ∧ t.mem = s.mem ∧ t.me.pc = s.me.pc + 4 ∧ SameRegs s.me t.me) ∧
    (k < 3 → mine k → (∀ j, j < k → ¬ mine j) →
      ∃ t, exec (.unbind b a) s = .next t ∧ t.mem.readN (x.pa + 16 + 16 * k) 8 = 0 ∧ t.mem.readN (x.pa + 24 + 16 * k) 8 = 0 ∧
        (objIn t.mem x.pa).w0 = putField o.w0 60 2 (fieldOf o.w0 60 2 + 3) ∧ (objIn t.mem x.pa).w1 = o.w1 ∧
        (∀ z, (z < x.pa ∨ x.pa + 16 ≤ z) → (z < x.pa + 16 + 16 * k ∨ x.pa + 32 + 16 * k ≤ z) → t.mem.read z = s.mem.read z) ∧
        t.tmem = s.tmem ∧ t.me.pc = s.me.pc + 4 ∧ SameRegs s.me t.me))

/-- R289, R290, R291: ACQ and TRYACQ of a free lock that no request awaits are granted: HELD is set, HOLDER and HTASK
name the hart and its task; TRYACQ writes 1 then and 0 otherwise. ACQ of a lock another holds joins the waiting list
and parks. REL of a lock that the hart's task holds clears HELD and HOLDER, or grants it to the oldest waiter, who
goes on. A lock already held by the task, or released by one that does not hold it, takes cause 31 with its address.
(With a lost line to report an acquire traps: R83.) -/
def Obligations.LocksHandOver : Prop :=
  let owned (t : State) (pa h : Nat) (task : BitVec 32) : Prop :=
    (objIn t.mem pa).held = true ∧ (objIn t.mem pa).holder = h ∧ (objIn t.mem pa).htask = task.toNat
  (∀ (s : State) (sc : BitVec 3) (b : Reg) (c : Acc) (k : Task), s.cur < 12288 → s.me.task = some k →
    Reaches s b [] [] false false [1] c → s.waiterOf s.cur = none → s.me.park ≠ some (.acqBusy b) →
    (s.holds s.cur c.obj = true → exec (.acq sc b) s = .next (s.updMe (fun h => h.trap 31 (s.me.xv b) 0))) ∧
    (c.obj.held = false → s.waitersAt (lineOf c.pa) false = [] → c.s.lostLines = [] →
      ∃ t, exec (.acq sc b) s = .next t ∧ owned t c.pa s.cur k.id ∧ OnlyBytes s t c.pa 16 ∧ t.me.pc = s.me.pc + 4 ∧ SameRegs s.me t.me) ∧
    (c.obj.held = true → s.holds s.cur c.obj = false → s.waitersAt (lineOf c.pa) false = [] →
      ∃ t, exec (.acq sc b) s = .next t ∧ t.mem = s.mem ∧ t.me.park = some .acq ∧ t.me.pc = s.me.pc ∧
        (∃ w, t.waiters = s.waiters.concat w ∧ w.hart = s.cur ∧ w.line = lineOf c.pa ∧ w.phase = none))) ∧
  (∀ (s : State) (sc : BitVec 3) (b d : Reg) (c : Acc) (k : Task), s.cur < 12288 → s.me.task = some k →
    Reaches s b [] [d] false false [1] c →
    (c.obj.held = false → s.waitersAt (lineOf c.pa) false = [] → c.s.lostLines = [] →
      ∃ t, exec (.tryacq sc b d) s = .next t ∧ owned t c.pa s.cur k.id ∧ OnlyBytes s t c.pa 16 ∧ t.me.pc = s.me.pc + 4 ∧
        t.me.x = (s.me.setX d 1).x ∧ t.me.f = s.me.f) ∧
    (c.obj.held = true → s.holds s.cur c.obj = false →
      ∃ t, exec (.tryacq sc b d) s = .next t ∧ t.mem = s.mem ∧ t.me.pc = s.me.pc + 4 ∧ t.me.x = (s.me.setX d 0).x ∧ t.me.f = s.me.f)) ∧
  (∀ (s : State) (sc : BitVec 3) (b : Reg) (c : Acc), Reaches s b [] [] true false [1] c → s.me.releaseWait = none →
    (s.holds s.cur c.obj = false → exec (.rel sc b) s = .next (s.updMe (fun h => h.trap 31 (s.me.xv b) 0))) ∧
    (s.holds s.cur c.obj = true → s.waitersAt (lineOf c.pa) false = [] →
      ∃ t, exec (.rel sc b) s = .next t ∧ (objIn t.mem c.pa).held = false ∧ (objIn t.mem c.pa).holder = 0 ∧ OnlyBytes s t c.pa 16 ∧
        t.me.pc = s.me.pc + 4 ∧ SameRegs s.me t.me) ∧
    (∀ w l k, s.holds s.cur c.obj = true → s.waitersAt (lineOf c.pa) false = w :: l → w.hart < 12288 → w.hart ≠ s.cur →
      (s.hart w.hart).task = some k → (Tab.get c.s.freeze (pageOf c.pa) {}).count = 0 → c.key < 64 → c.s.lostLines = [] →
      ∃ t, exec (.rel sc b) s = .next t ∧ owned t c.pa w.hart k.id ∧ OnlyBytes s t c.pa 16 ∧ w ∉ t.waiters ∧
        (t.hart w.hart).pc = (s.hart w.hart).pc + 4 ∧ (t.hart w.hart).park = none ∧ t.me.pc = s.me.pc + 4 ∧ SameRegs s.me t.me))

/-- R131, R292, R293, R294: ARRIVE raises ARR by 1, up to 65,535; when ARR and CURB meet EXP and EXPB the phase flips,
ARR and CURB are 0 and FAIL and OVR move to LFAIL and LOVR, and a hart that waits for the flip goes on. WAITPH goes on
when PH differs from xp[0] and parks when it does not; TESTPH writes 1 + 2·LFAIL + 4·LOVR then, and 0 otherwise. -/
def Obligations.BarriersFlip : Prop :=
  (∀ (s : State) (sc : BitVec 3) (b : Reg) (c : Acc), Reaches s b [] [] true false [2] c → s.me.releaseWait = none →
    let o := c.obj
    let arr := min (o.arr + 1) 65535
    (¬ (o.exp ≤ arr ∧ o.expb ≤ o.curb) →
      ∃ t, exec (.arrive sc b) s = .next t ∧ (objIn t.mem c.pa).w0 = putField o.w0 0 16 arr ∧ (objIn t.mem c.pa).w1 = o.w1 ∧
        OnlyBytes s t c.pa 16 ∧ t.me.pc = s.me.pc + 4 ∧ SameRegs s.me t.me ∧ t.waiters = s.waiters) ∧
    (o.exp ≤ arr → o.expb ≤ o.curb → s.waitersAt (lineOf c.pa) true = [] →
      ∃ t, exec (.arrive sc b) s = .next t ∧ (objIn t.mem c.pa).ph = 1 - o.ph ∧ (objIn t.mem c.pa).arr = 0 ∧ (objIn t.mem c.pa).curb = 0 ∧
        (objIn t.mem c.pa).exp = o.exp ∧ (objIn t.mem c.pa).expb = o.expb ∧ (objIn t.mem c.pa).lfail = fieldOf o.w0 59 1 ∧
        (objIn t.mem c.pa).lovr = fieldOf o.w0 58 1 ∧ fieldOf (objIn t.mem c.pa).w0 58 2 = 0 ∧ OnlyBytes s t c.pa 16 ∧ t.me.pc = s.me.pc + 4 ∧
        SameRegs s.me t.me) ∧
    (∀ w, o.exp ≤ arr → o.expb ≤ o.curb → s.waitersAt (lineOf c.pa) true = [w] → w.hart ≠ s.cur → c.s.lostLines = [] →
      ∃ t, exec (.arrive sc b) s = .next t ∧ (objIn t.mem c.pa).ph = 1 - o.ph ∧ w ∉ t.waiters ∧
        (t.hart w.hart).pc = (s.hart w.hart).pc + 4 ∧ (t.hart w.hart).park = none ∧ t.me.pc = s.me.pc + 4)) ∧
  (∀ (s : State) (sc : BitVec 3) (c b : Reg) (x : Acc), s.waiterOf s.cur = none → Reaches s b [c] [] false true [2] x →
    (x.obj.ph ≠ (s.me.xv c).toNat % 2 → x.s.lostLines = [] →
      ∃ t, exec (.waitph sc c b) s = .next t ∧ t.mem = s.mem ∧ t.me.pc = s.me.pc + 4 ∧ SameRegs s.me t.me) ∧
    (x.obj.ph = (s.me.xv c).toNat % 2 →
      ∃ t, exec (.waitph sc c b) s = .next t ∧ t.mem = s.mem ∧ t.me.park = some .waitph ∧ t.me.pc = s.me.pc ∧
        (∃ w, t.waiters = s.waiters.concat w ∧ w.hart = s.cur ∧ w.line = lineOf x.pa ∧
          w.phase = some (decide ((s.me.xv c).toNat % 2 = 1))))) ∧
  (∀ (s : State) (sc : BitVec 3) (c b d : Reg) (x : Acc), Reaches s b [c] [d] false true [2] x →
    let o := x.obj
    (o.ph ≠ (s.me.xv c).toNat % 2 → x.s.lostLines = [] →
      ∃ t, exec (.testph sc c b d) s = .next t ∧ t.mem = s.mem ∧ t.me.pc = s.me.pc + 4 ∧
        t.me.x = (s.me.setX d (BitVec.ofNat 64 (1 + 2 * o.lfail + 4 * o.lovr))).x ∧ t.me.f = s.me.f ∧ t.me.v = s.me.v) ∧
    (o.ph = (s.me.xv c).toNat % 2 →
      ∃ t, exec (.testph sc c b d) s = .next t ∧ t.mem = s.mem ∧ t.me.pc = s.me.pc + 4 ∧ t.me.x = (s.me.setX d 0).x ∧
        t.me.f = s.me.f ∧ t.me.v = s.me.v))

/-! ### Freezing -/

/-- R97, R98, R104, R295: a FREEZE or THAW of a range whose pages pass their checks records its operation, with the
counts of its pages, and goes on by 4, its token counting one more operation; without a token and a barrier register
it parks until it is complete. A base or length that is not page-aligned, or a length above 2^30, takes cause 31 with it,
and a count out of range cause 26 with the lowest failing page. -/
def Obligations.FreezeIssues : Prop :=
  let runs (s : State) (thaw : Bool) (b c a : Reg) (l : List (Nat × Nat)) (u : State) : Prop :=
    s.freezes.any (fun o => o.hart == s.cur && o.parks) = false ∧ s.Ready (xs [a, b, c]) [] ∧ (s.me.xv b).toNat % 4096 = 0 ∧
    (s.me.xv c).toNat % 4096 = 0 ∧ (s.me.xv c).toNat ≤ 2 ^ 30 ∧ (s.me.xv a).toNat % 64 = 0 ∧ (thaw = false → s.me.releaseWait = none) ∧
    s.rangeOf (s.me.xv b).toNat ((s.me.xv c).toNat / 4096) = .ok (l, u) ∧
    (∀ x ∈ l, x.2 < 2 ^ 39 / 4096 ∧ Tab.get s.bias x.2 0 = 0 ∧ s.pageLocked x.2 = false)
  let fits (s : State) (thaw : Bool) (l : List (Nat × Nat)) (p : Nat) : Prop :=
    if thaw then Tab.get (pageCounts l) p 0 ≤ s.count p else s.count p + Tab.get (pageCounts l) p 0 ≤ 255
  (∀ (s : State) (thaw e : Bool) (k : BitVec 3) (c b a : Reg) (l : List (Nat × Nat)) (u : State), runs s thaw b c a l u → l ≠ [] →
    (∀ x ∈ l, fits s thaw l x.2) → s.me.tokenFull (tokenOf e k) = none →
    ∃ t op, exec (if thaw then .thaw e k c b a else .freeze e k c b a) s = .next t ∧ t.freezes = s.freezes.concat op ∧
      op.thaw = thaw ∧ op.hart = s.cur ∧ op.pages = pageCounts l ∧ op.token = tokenOf e k ∧ op.done = false ∧ t.mem = s.mem ∧
      t.freeze = s.freeze ∧ SameRegs s.me t.me ∧
      ((e = true ∨ a ≠ 0) → t.me.pc = s.me.pc + 4 ∧ op.parks = false ∧
        (e = true → t.me.sb = s.me.sb.set k.toNat (s.me.sb[k.toNat]'(k.isLt) + 1) k.isLt)) ∧
      (e = false → a = 0 → t.me.pc = s.me.pc ∧ t.me.park = some .freeze ∧ op.parks = true)) ∧
  (∀ (s : State) (thaw e : Bool) (k : BitVec 3) (c b a : Reg) (l m : List (Nat × Nat)) (x : Nat × Nat) (u : State),
    runs s thaw b c a (l ++ x :: m) u → (∀ y ∈ l, fits s thaw (l ++ x :: m) y.2) → ¬ fits s thaw (l ++ x :: m) x.2 →
    exec (if thaw then .thaw e k c b a else .freeze e k c b a) s =
      .next (s.updMe (fun h => h.trap 26 (BitVec.ofNat 64 x.1) 0))) ∧
  (∀ (s : State) (e : Bool) (k : BitVec 3) (c b a : Reg), s.freezes.any (fun o => o.hart == s.cur && o.parks) = false →
    s.Ready (xs [a, b, c]) [] → (s.me.xv b).toNat % 4096 ≠ 0 →
    exec (.freeze e k c b a) s = .next (s.updMe (fun h => h.trap 31 (s.me.xv b) 0)) ∧
    exec (.thaw e k c b a) s = .next (s.updMe (fun h => h.trap 31 (s.me.xv b) 0))) ∧
  (∀ (s : State) (e : Bool) (k : BitVec 3) (c b a : Reg), s.freezes.any (fun o => o.hart == s.cur && o.parks) = false →
    s.Ready (xs [a, b, c]) [] → (s.me.xv b).toNat % 4096 = 0 → ((s.me.xv c).toNat % 4096 ≠ 0 ∨ 2 ^ 30 < (s.me.xv c).toNat) →
    exec (.freeze e k c b a) s = .next (s.updMe (fun h => h.trap 31 (s.me.xv c) 0)) ∧
    exec (.thaw e k c b a) s = .next (s.updMe (fun h => h.trap 31 (s.me.xv c) 0)))

/-! ### The copy engine -/

/-- R150, R303, R304: a CPY or CPYB whose checks pass enters the copy queue of its quad with its shape and operands as
they are, counts in its token, makes a VREG destination pending, and goes on by 4. A shape record with a reserved bit,
a count of levels or a run out of range takes cause 31 with check number 1. R302: SHPLD reads the twelve doublewords
of a record into its shape register, and SHPST writes them to memory, in order; a misaligned address takes cause 4 or
6. -/
def Obligations.CopiesIssue : Prop :=
  (
    (∀ (s : State) (cpyb e : Bool) (k : BitVec 3) (c b : Reg) (push pop : Bool) (h : BitVec 3),
      let r := s.me.shape h
      let dst := s.me.xv b
      let src := s.me.xv c
      let group (w : Word) : Nat × Nat := (w.toNat % 32, 2 ^ (w.toNat / 32 % 4))
      s.Ready (xs [b, c]) [] → (∀ st ∈ s.me.copyChecks r cpyb e dst src, st = none) →
      (Shape.sk r = 3 → s.me.markedAny (vgroup (group src).1 (group src).2) = none ∧
        s.me.presentAll (vgroup (group src).1 (group src).2) = none) →
      (Shape.dk r = 3 → s.me.ownedAll (vgroup (group dst).1 (group dst).2) = none) → s.me.tokenFull (tokenOf e k) = none →
      (s.quad (quadOf s.cur)).cq.length < 32 →
      ∃ t x, exec (if cpyb then .cpyb e k c b push pop h else .cpy e k c b push pop h) s = .next t ∧
        (t.quad (quadOf s.cur)).cq = (s.quad (quadOf s.cur)).cq.concat x ∧ x.hart = s.cur ∧ x.shape = r ∧ x.dst = dst ∧ x.src = src ∧
        x.push = push ∧ x.pop = pop ∧ x.cpyb = cpyb ∧ x.token = tokenOf e k ∧ x.fmt = s.me.fmts ∧ t.mem = s.mem ∧ t.tmem = s.tmem ∧
        t.me.pc = s.me.pc + 4 ∧ t.me.x = s.me.x ∧ t.me.f = s.me.f ∧
        (Shape.dk r ≠ 3 → t.me.v = s.me.v) ∧ (Shape.dk r = 3 → t.me.v = (s.me.pendV (group dst).1 (group dst).2).v) ∧
        (e = true → t.me.sb = s.me.sb.set k.toNat (s.me.sb[k.toNat]'(k.isLt) + 1) k.isLt)) ∧
    (∀ (s : State) (cpyb e : Bool) (k : BitVec 3) (c b : Reg) (push pop : Bool) (h : BitVec 3),
      let r := s.me.shape h
      s.Ready (xs [b, c]) [] → Shape.sk r ≠ 3 →
      (Shape.rsvOk r = false ∨ Shape.nlv r < 1 ∨ 6 < Shape.nlv r ∨ Shape.run r < 1 ∨ 65536 < Shape.run r) →
      exec (if cpyb then .cpyb e k c b push pop h else .cpy e k c b push pop h) s = .next (s.updMe (fun h => h.trap 31 1 0)))) ∧
  (
    (∀ (s : State) (b : Reg) (h : BitVec 3) (l : List (Acc × Nat)),
      let va := s.me.xv b
      s.Ready (xs [b]) [] → va.toNat % 8 = 0 →
      (∀ x ∈ l, s.me.storeError (lineOf x.2) = none ∧ s.me.pathBusy (decide (x.1.e.mt = .device)) x.1.write x.2 8 = none ∧
        s.missWait (coreOf s.cur) { x.1 with pa := x.2 } = none ∧ isMmio x.2 = false) →
      (s.recordAccess va .load = .ok l → l.length = 12 → (∀ x ∈ l, ∀ y ∈ l, y.1.s.badLine (lineOf x.2) = false) →
        ∃ t, exec (.shpld b h) s = .next t ∧
          (∀ k, k < 12 → ∃ x, l[k]? = some x ∧ Shape.word (t.me.shape h) k = (x.1.s.memUnder (x.1.e.keyAt x.2)).readN x.2 8) ∧
          (∀ g, g ≠ h → t.me.shape g = s.me.shape g) ∧ t.mem = s.mem ∧ t.me.pc = s.me.pc + 4 ∧ SameRegs s.me t.me) ∧
      (s.recordAccess va .store = .ok l → l.length = 12 →
        l.Pairwise (fun x y => x.2 + 8 ≤ y.2 ∨ y.2 + 8 ≤ x.2) →
        ∃ t, exec (.shpst b h) s = .next t ∧
          (∀ k, k < 12 → ∃ x, l[k]? = some x ∧ t.mem.readN x.2 8 = Shape.word (s.me.shape h) k) ∧
          (∀ z, (∀ x ∈ l, z < x.2 ∨ x.2 + 8 ≤ z) → t.mem.read z = s.mem.read z) ∧ t.me.pc = s.me.pc + 4 ∧ SameRegs s.me t.me)) ∧
    (∀ (s : State) (b : Reg) (h : BitVec 3), s.Ready (xs [b]) [] → (s.me.xv b).toNat % 8 ≠ 0 →
      exec (.shpld b h) s = .next (s.updMe (fun a => a.trap 4 (s.me.xv b) 0)) ∧
      exec (.shpst b h) s = .next (s.updMe (fun a => a.trap 6 (s.me.xv b) 0))))

/-! ### Tiles -/

/-- R36, R37, R38, R42, R300: TALLOC writes all ones where the budget, a handle or a run is missing, and otherwise
fills the lowest free entry of the tile table and writes its handle word, at once when the banks of its run are on (or
its ways pinned), after their wake otherwise; TALLOC.Z clears the storage of the run. Rows or columns of 0 or above
65,535, or a size beyond the level, take cause 27 with 0. R39, R283, R301: TLD owes the element of a tile, sign-extended for a signed
type (where a group load that has not completed is to fill it, some of its bytes may be new ones: seen), and TST
writes it and no other element, in a narrow format its low bits with 0 above them; an nf type whose format register
has V = 0 takes cause 30 with the word. TFREE makes the entry invalid and raises its generation. A handle word that names no
tile of the partition, or a row, column or width that the tile does not have, takes cause 27 with the handle word. -/
def Obligations.TilesUsed : Prop :=
  (
    let op (zero : Bool) (e : BitVec 4) (p k : Bool) (c b d : Reg) : Instr := if zero then .tallocZ e p k c b d else .talloc e p k c b d
    (∀ (s : State) (zero : Bool) (e : BitVec 4) (p k : Bool) (c b d : Reg) (task : Task),
      let q := s.quad (quadOf s.cur)
      let w := etWidth s.me.fmts e.toNat
      let rows := (s.me.xv b).toNat
      let cols := (s.me.xv c).toNat
      let n := (rows * cols * w + 32767) / 32768
      s.me.task = some task → q.allocs.any (fun x => x.hart == s.cur) = false → s.me.fmtInvalid e.toNat = false →
      s.Ready (xs [b, c]) (xs [d]) → 0 < rows → 0 < cols → rows ≤ 65535 → cols ≤ 65535 → n ≤ (if p then 64 else 256) →
      (task.tbud < q.taskGranules (s.partOf s.cur) task.id + n →
        exec (op zero e p k c b d) s = .next (s.updMe (fun a => (a.setX d (BitVec.allOnes 64)).advance 4))) ∧
      (q.freeHandle = none ∨ q.pickRun s.time p n = none →
        exec (op zero e p k c b d) s = .next (s.updMe (fun a => (a.setX d (BitVec.allOnes 64)).advance 4))) ∧
      (q.freeHandle = none ↔ ∀ h, h < 256 → (Tab.get q.tiles h {}).v = true) ∧
      (q.pickRun s.time false n = none ↔ ∀ g, g + n ≤ 256 → ∃ k, g ≤ k ∧ k < g + n ∧ k ∈ q.used false) ∧
      (∀ h g, q.taskGranules (s.partOf s.cur) task.id + n ≤ task.tbud → q.freeHandle = some h → q.pickRun s.time p n = some g →
        let old := Tab.get q.tiles h {}
        let entry : TileEntry := { v := true, sp := p, keep := k, ty := e.toNat, part := s.partOf s.cur, gen := old.gen, ngr := n, fgr := g,
                                   task := task.id, rows := rows, cols := cols, hart := s.cur, queue := task.queue }
        let on : Prop := if p then ∀ w ∈ runWays g n, (Tab.get q.ways w {}).role = 2 else ∀ m ∈ runBanks g n, (Tab.get q.banks m {}).st = 2
        ∃ t, exec (op zero e p k c b d) s = .next t ∧ Tab.get (t.quad (quadOf s.cur)).tiles h {} = entry ∧
          (∀ j, j ≠ h → Tab.get (t.quad (quadOf s.cur)).tiles j {} = Tab.get q.tiles j {}) ∧ t.mem = s.mem ∧
          (zero = true → ∀ z, quadOf s.cur * 2 ^ 21 + bitNat p * 2 ^ 20 + g * 4096 ≤ z →
            z < quadOf s.cur * 2 ^ 21 + bitNat p * 2 ^ 20 + g * 4096 + n * 4096 → t.tmem.read z = 0) ∧
          (∀ z, (z < quadOf s.cur * 2 ^ 21 + bitNat p * 2 ^ 20 + g * 4096 ∨
            quadOf s.cur * 2 ^ 21 + bitNat p * 2 ^ 20 + g * 4096 + n * 4096 ≤ z) → t.tmem.read z = s.tmem.read z) ∧
          (on → t.me.pc = s.me.pc + 4 ∧ t.me.park = none ∧ (d ≠ 0 → t.me.xv d = handleWord (quadOf s.cur) h old.gen.toNat) ∧
            (∀ r, r ≠ d → t.me.xv r = s.me.xv r)) ∧
          (¬ on → t.me.pc = s.me.pc ∧ t.me.park = some .talloc ∧ t.me.x = s.me.x))) ∧
    (∀ (s : State) (zero : Bool) (e : BitVec 4) (p k : Bool) (c b d : Reg),
      (s.quad (quadOf s.cur)).allocs.any (fun x => x.hart == s.cur) = false → s.me.fmtInvalid e.toNat = false →
      s.Ready (xs [b, c]) (xs [d]) →
      let rows := (s.me.xv b).toNat
      let cols := (s.me.xv c).toNat
      (rows = 0 ∨ cols = 0 ∨ 65535 < rows ∨ 65535 < cols ∨
        (if p then 64 else 256) < (rows * cols * etWidth s.me.fmts e.toNat + 32767) / 32768) →
      exec (op zero e p k c b d) s = .next (s.updMe (fun a => a.trap 27 0 0)))) ∧
  (
    let inTile (s : State) (e : BitVec 4) (hw rc : Word) (t : TileRef) : Prop :=
      s.tileOf (s.partOf s.cur) hw = some t ∧ rc.toNat / 65536 % 65536 < t.e.rows ∧ rc.toNat % 65536 < t.e.cols ∧
      etWidth s.me.fmts t.e.ty = etWidth s.me.fmts e.toNat ∧ s.me.fmtInvalid e.toNat = false
    let bitAt (s : State) (e : BitVec 4) (rc : Word) (t : TileRef) : Nat :=
      (rc.toNat / 65536 % 65536 * t.e.cols + rc.toNat % 65536) * etWidth s.me.fmts e.toNat
    (∀ (s : State) (e : BitVec 4) (c b d : Reg) (t : TileRef),
      let hw := s.me.xv b
      let rc := s.me.xv c
      let w := etWidth s.me.fmts e.toNat
      let v := s.seen.tileBits t (bitAt s e rc t) w
      s.Ready (xs [b, c]) (xs [d]) → inTile s e hw rc t → s.banksOn t (bitAt s e rc t / 8) (elemBytes w) = true →
      ∃ u m, exec (.tld e c b d) s = .next u ∧ OwesX s u d (if e.toNat < 4 then sextTo w v else BitVec.ofNat 64 v) m ∧
        u.me.pc = s.me.pc + 4 ∧ u.tmem = s.tmem ∧ u.mem = s.mem ∧ (∀ r, u.me.xv r = s.me.xv r) ∧ u.me.f = s.me.f ∧ u.me.v = s.me.v) ∧
    (∀ (s : State) (e : BitVec 4) (c b v : Reg) (t : TileRef),
      let hw := s.me.xv b
      let rc := s.me.xv c
      let w := etWidth s.me.fmts e.toNat
      let bit := bitAt s e rc t
      s.Ready (xs [b, c, v]) [] → inTile s e hw rc t → s.banksOn t (bit / 8) (elemBytes w) = true →
      ∃ u, exec (.tst e c b v) s = .next u ∧ u.tileBits t bit w = (s.me.xv v).toNat % 2 ^ etBits s.me.fmts e.toNat ∧
        (∀ z, z < t.base + bit / 8 ∨ t.base + bit / 8 + elemBytes w ≤ z → u.tmem.read z = s.tmem.read z) ∧ u.mem = s.mem ∧
        u.me.pc = s.me.pc + 4 ∧ SameRegs s.me u.me) ∧
    (∀ (s : State) (b : Reg) (t : TileRef), s.Ready (xs [b]) [] → s.tileOf (s.partOf s.cur) (s.me.xv b) = some t →
      s.tileBusy s.cur (s.me.xv b) = false →
      ∃ u, exec (.tfree b) s = .next u ∧ (Tab.get (u.quad t.q).tiles t.h {}).v = false ∧
        (Tab.get (u.quad t.q).tiles t.h {}).gen = t.e.gen + 1 ∧
        (∀ j, j ≠ t.h → Tab.get (u.quad t.q).tiles j {} = Tab.get (s.quad t.q).tiles j {}) ∧ u.mem = s.mem ∧ u.tmem = s.tmem ∧
        u.me.pc = s.me.pc + 4 ∧ SameRegs s.me u.me) ∧
    (∀ (s : State) (e : BitVec 4) (c b d : Reg), s.me.fmtInvalid e.toNat = true →
      exec (.tld e c b d) s = .next (s.updMe (fun a => a.trap 30 (wordOf (.tld e c b d)) 0)) ∧
      exec (.tst e c b d) s = .next (s.updMe (fun a => a.trap 30 (wordOf (.tst e c b d)) 0))) ∧
    (∀ (s : State) (e : BitVec 4) (c b d : Reg), s.me.fmtInvalid e.toNat = false → s.Ready (xs [b, c, d]) [] →
      s.tileOf (s.partOf s.cur) (s.me.xv b) = none →
      (s.Ready [] (xs [d]) → exec (.tld e c b d) s = .next (s.updMe (fun a => a.trap 27 (s.me.xv b) 0))) ∧
      exec (.tst e c b d) s = .next (s.updMe (fun a => a.trap 27 (s.me.xv b) 0)) ∧
      exec (.tfree b) s = .next (s.updMe (fun a => a.trap 27 (s.me.xv b) 0))) ∧
    (∀ (s : State) (e : BitVec 4) (c b d : Reg) (t : TileRef), s.me.fmtInvalid e.toNat = false → s.Ready (xs [b, c, d]) [] →
      s.tileOf (s.partOf s.cur) (s.me.xv b) = some t →
      (t.e.rows ≤ (s.me.xv c).toNat / 65536 % 65536 ∨ t.e.cols ≤ (s.me.xv c).toNat % 65536 ∨
        etWidth s.me.fmts t.e.ty ≠ etWidth s.me.fmts e.toNat) →
      (s.Ready [] (xs [d]) → exec (.tld e c b d) s = .next (s.updMe (fun a => a.trap 27 (s.me.xv b) 0))) ∧
      exec (.tst e c b d) s = .next (s.updMe (fun a => a.trap 27 (s.me.xv b) 0))))

/-! ### Groups -/

/-- R86, R297: GJOIN makes the hart's task a member of an owned group of its partition and answers the number of
members; a member stays one, and a group of 64 members answers all ones. GLEAVE takes it out. A group number above
255, or of a group that is not the partition's, takes cause 29 with it. R87, R89, R298, R299: a GLD or GLDV whose
checks pass sends its request, of the group and destination that its control word names, for the bytes at its source,
and parks until the request is accepted, its destinations pending from its issue on. A source that is not 64-byte
aligned takes cause 4, and a control word that is not well formed cause 29 with the source's address. -/
def Obligations.GroupsJoined : Prop :=
  (
    let die (s : State) : Nat := dieOf s.cur
    let task (s : State) : BitVec 32 := BitVec.ofNat 32 s.me.taskId
    (∀ (s : State) (c b d : Reg),
      let x := (s.me.xv b).toNat
      let g := s.group (die s) x
      s.Ready (xs [b, c]) (xs [d]) → x ≤ 255 → g.own = true → g.part = s.partOf s.cur →
      ((g.member (s.partOf s.cur) (task s) s.cur).isSome → exec (.gjoin c b d) s =
        .next (s.updMe (fun h => (h.setX d (BitVec.ofNat 64 g.members.length)).advance 4))) ∧
      (g.member (s.partOf s.cur) (task s) s.cur = none → 64 ≤ g.members.length → exec (.gjoin c b d) s =
        .next (s.updMe (fun h => (h.setX d (BitVec.allOnes 64)).advance 4))) ∧
      (g.member (s.partOf s.cur) (task s) s.cur = none → g.members.length < 64 →
        ∃ t, exec (.gjoin c b d) s = .next t ∧
          (t.group (die s) x).members = g.members.concat ⟨s.partOf s.cur, task s, s.cur, g.openseq + 1, g.openseq + 1⟩ ∧
          (g.members = [] → (t.group (die s) x).timer = (if (s.me.xv c).toNat % 65536 = 0 then 4096 else (s.me.xv c).toNat % 65536)) ∧
          (g.members ≠ [] → (t.group (die s) x).timer = g.timer) ∧ t.mem = s.mem ∧
          t.me = (s.me.setX d (BitVec.ofNat 64 (g.members.length + 1))).advance 4 ∧ (∀ h, h ≠ s.cur → t.hart h = s.hart h))) ∧
    (∀ (s : State) (b : Reg), s.Ready (xs [b]) [] → (s.me.xv b).toNat ≤ 255 →
      ∃ t, exec (.gleave b) s = .next t ∧ (∀ m ∈ (t.group (die s) (s.me.xv b).toNat).members,
          ¬ (m.part = s.partOf s.cur ∧ m.task = task s ∧ m.hart = s.cur)) ∧
        t.me = s.me.advance 4 ∧ t.mem = s.mem) ∧
    (∀ (s : State) (c b d : Reg), s.Ready (xs [b, c]) (xs [d]) →
      255 < (s.me.xv b).toNat ∨ (s.group (die s) (s.me.xv b).toNat).own = false ∨
        (s.group (die s) (s.me.xv b).toNat).part ≠ s.partOf s.cur →
      exec (.gjoin c b d) s = .next (s.updMe (fun h => h.trap 29 (s.me.xv b) 0))) ∧
    (∀ (s : State) (b : Reg), s.Ready (xs [b]) [] → 255 < (s.me.xv b).toNat →
      exec (.gleave b) s = .next (s.updMe (fun h => h.trap 29 (s.me.xv b) 0)))) ∧
  (
    (∀ (s : State) (vec e : Bool) (k : BitVec 3) (c b a : Reg) (pages : List MemPart) (u : State),
      let ctl := s.me.xv c
      let src := s.me.xv b
      let len := ctl.toNat / 2 ^ 40 % 2 ^ 17
      let g := (ctl.toNat % 32, 2 ^ (ctl.toNat / 32 % 4))
      let hw := handleWord (quadOf s.cur) (ctl.toNat % 256) (ctl.toNat / 256 % 256)
      let wr := if vec then span g.1 g.2 else []
      s.greqs.any (fun r => r.hart == s.cur && !r.accepted) = false → s.me.claimed = [] → s.Ready (xs [a, b, c]) (xs [a]) →
      (vec = true → s.me.groupStop g.1 g.2 = none ∧ s.me.ownedAll (vgroup g.1 g.2) = none) → (vec = false → e = true ∨ a ≠ 0) →
      src.toNat % 64 = 0 → ctlBad ctl vec = false →
      s.sourcePages src len ((src.toNat % 4096 + len + 4095) / 4096) 0 = .ok (pages, u) →
      (vec = false → (s.fillFits (s.partOf s.cur) s.me.fmts hw (ctl.toNat / 65536 % 65536) len).isSome) →
      s.me.tokenFull (tokenOf e k) = none →
      s.me.vq.any (fun x => x.op.isStore || overlap (x.reads ++ x.writes) wr) = false →
      (s.quad (quadOf s.cur)).clearFor s.cur s.me.seq wr wr = true →
      ∃ t r, exec (if vec then .gldv e k c b a else .gld e k c b a) s = .next t ∧ t.greqs = s.greqs.concat r ∧ r.hart = s.cur ∧
        r.group = ctl.toNat / 2 ^ 32 % 256 ∧ r.len = len ∧ r.src = src ∧ r.pages = pages ∧ r.vector = vec ∧ r.xd = a.toNat ∧
        r.token = tokenOf e k ∧ r.barrier = s.me.xv a ∧ r.accepted = false ∧ (vec = true → (r.reg, r.gsize) = g) ∧
        (vec = false → r.hw = hw ∧ r.row = ctl.toNat / 65536 % 65536) ∧
        t.me.park = some .gld ∧ t.me.pc = s.me.pc ∧ (∀ q, t.me.xv q = s.me.xv q) ∧ (∀ j, t.me.vv j = s.me.vv j) ∧
        (∀ fl j, j < 32 → (t.me.cond fl j).1 = if ((fl, j) = (.x, a.toNat) ∧ a ≠ 0) ∨ (fl = .v ∧ j ∈ wr) then .pending
          else (s.me.cond fl j).1) ∧
        t.me.f = s.me.f ∧ t.me.p = s.me.p ∧ t.me.csr = s.me.csr ∧ t.me.mode = s.me.mode ∧ t.mem = s.mem ∧ t.tmem = s.tmem) ∧
    (∀ (s : State) (e : Bool) (k : BitVec 3) (c b a : Reg), s.greqs.any (fun r => r.hart == s.cur && !r.accepted) = false →
      s.Ready (xs [a, b, c]) (xs [a]) → (e = true ∨ a ≠ 0) → (s.me.xv b).toNat % 64 ≠ 0 →
      exec (.gld e k c b a) s = .next (s.updMe (fun h => h.trap 4 (s.me.xv b) 0))) ∧
    (∀ (s : State) (vec e : Bool) (k : BitVec 3) (c b a : Reg) (pages : List MemPart) (u : State),
      let ctl := s.me.xv c
      let src := s.me.xv b
      let len := ctl.toNat / 2 ^ 40 % 2 ^ 17
      let g := (ctl.toNat % 32, 2 ^ (ctl.toNat / 32 % 4))
      let word : Instr := if vec then .gldv e k c b a else .gld e k c b a
      s.greqs.any (fun r => r.hart == s.cur && !r.accepted) = false → s.Ready (xs [a, b, c]) (xs [a]) →
      (vec = true → s.me.groupStop g.1 g.2 = none ∧ s.me.ownedAll (vgroup g.1 g.2) = none) → (vec = false → e = true ∨ a ≠ 0) →
      (vec = true → src.toNat % 64 ≠ 0 → exec word s = .next (s.updMe (fun h => h.trap 4 src 0))) ∧
      (src.toNat % 64 = 0 → ctlBad ctl vec = true →
        s.sourcePages src len (if len = 0 then 0 else (src.toNat % 4096 + len + 4095) / 4096) 0 = .ok (pages, u) →
        exec word s = .next (s.updMe (fun h => h.trap 29 src 0)))) ∧
    (∀ (w : Word) (vec : Bool), ctlBad w vec = true ↔
      let len := w.toNat / 2 ^ 40 % 2 ^ 17
      w.toNat / 2 ^ 57 ≠ 0 ∨ len = 0 ∨ len % 64 ≠ 0 ∨ (vec = false ∧ 65536 < len) ∨
      (vec = true ∧ (w.toNat / 2 ^ 16 % 2 ^ 16 ≠ 0 ∨ w.toNat / 2 ^ 7 % 2 ^ 9 ≠ 0 ∨ 128 * 2 ^ (w.toNat / 32 % 4) < len))))

/-! ### Vector instructions: what an issue enters into the queue -/

/-- An integer operation of two sources (R311): operation, element type, predicate, destination, second source with its register. -/
def Sys2Proof.Claims.intForm (a : Hart) : Instr → Option (IOp × Nat × Nat × Reg × VSrc × Reg)
  | .vaddVv p e v d => some (.add, e.toNat, p.toNat, d, .reg v.toNat, v)
  | .vaddVs p e v d => some (.add, e.toNat, p.toNat, d, .scalar (a.xv v), v)
  | .vaddVi p e i d => some (.add, e.toNat, p.toNat, d, .imm i.toInt, i)
  | .vsubVv p e v d => some (.sub, e.toNat, p.toNat, d, .reg v.toNat, v)
  | .vsubVs p e v d => some (.sub, e.toNat, p.toNat, d, .scalar (a.xv v), v)
  | .vrsubVs p e v d => some (.rsub, e.toNat, p.toNat, d, .scalar (a.xv v), v)
  | .vrsubVi p e i d => some (.rsub, e.toNat, p.toNat, d, .imm i.toInt, i)
  | .vmulVv p e v d => some (.mul, e.toNat, p.toNat, d, .reg v.toNat, v)
  | .vmulVs p e v d => some (.mul, e.toNat, p.toNat, d, .scalar (a.xv v), v)
  | .vmulhVv p e v d => some (.mulh, e.toNat, p.toNat, d, .reg v.toNat, v)
  | .vmulhVs p e v d => some (.mulh, e.toNat, p.toNat, d, .scalar (a.xv v), v)
  | .vmulhnVv p e v d => some (.mulhn, e.toNat, p.toNat, d, .reg v.toNat, v)
  | .vmulhnVs p e v d => some (.mulhn, e.toNat, p.toNat, d, .scalar (a.xv v), v)
  | .vaddsVv p e v d => some (.adds, e.toNat, p.toNat, d, .reg v.toNat, v)
  | .vaddsVs p e v d => some (.adds, e.toNat, p.toNat, d, .scalar (a.xv v), v)
  | .vaddsVi p e i d => some (.adds, e.toNat, p.toNat, d, .imm i.toInt, i)
  | .vsubsVv p e v d => some (.subs, e.toNat, p.toNat, d, .reg v.toNat, v)
  | .vsubsVs p e v d => some (.subs, e.toNat, p.toNat, d, .scalar (a.xv v), v)
  | .vminVv p e v d => some (.min, e.toNat, p.toNat, d, .reg v.toNat, v)
  | .vminVs p e v d => some (.min, e.toNat, p.toNat, d, .scalar (a.xv v), v)
  | .vmaxVv p e v d => some (.max, e.toNat, p.toNat, d, .reg v.toNat, v)
  | .vmaxVs p e v d => some (.max, e.toNat, p.toNat, d, .scalar (a.xv v), v)
  | .vandVv p e v d => some (.and, e.toNat, p.toNat, d, .reg v.toNat, v)
  | .vandVs p e v d => some (.and, e.toNat, p.toNat, d, .scalar (a.xv v), v)
  | .vandVi p e i d => some (.and, e.toNat, p.toNat, d, .imm i.toInt, i)
  | .vorVv p e v d => some (.or, e.toNat, p.toNat, d, .reg v.toNat, v)
  | .vorVs p e v d => some (.or, e.toNat, p.toNat, d, .scalar (a.xv v), v)
  | .vorVi p e i d => some (.or, e.toNat, p.toNat, d, .imm i.toInt, i)
  | .vxorVv p e v d => some (.xor, e.toNat, p.toNat, d, .reg v.toNat, v)
  | .vxorVs p e v d => some (.xor, e.toNat, p.toNat, d, .scalar (a.xv v), v)
  | .vxorVi p e i d => some (.xor, e.toNat, p.toNat, d, .imm i.toInt, i)
  | .vsllVv p e v d => some (.sll, e.toNat, p.toNat, d, .reg v.toNat, v)
  | .vsllVs p e v d => some (.sll, e.toNat, p.toNat, d, .scalar (a.xv v), v)
  | .vsllVi p e i d => some (.sll, e.toNat, p.toNat, d, .imm i.toInt, i)
  | .vsrlVv p e v d => some (.srl, e.toNat, p.toNat, d, .reg v.toNat, v)
  | .vsrlVs p e v d => some (.srl, e.toNat, p.toNat, d, .scalar (a.xv v), v)
  | .vsrlVi p e i d => some (.srl, e.toNat, p.toNat, d, .imm i.toInt, i)
  | .vsraVv p e v d => some (.sra, e.toNat, p.toNat, d, .reg v.toNat, v)
  | .vsraVs p e v d => some (.sra, e.toNat, p.toNat, d, .scalar (a.xv v), v)
  | .vsraVi p e i d => some (.sra, e.toNat, p.toNat, d, .imm i.toInt, i)
  | _ => none

/-- A floating operation of two sources (R319), and whether it rounds under frm, which must then name a mode (R201). -/
def Sys2Proof.Claims.fltForm (a : Hart) : Instr → Option (FOp × Bool × Nat × Nat × Reg × VSrc × Reg)
  | .vfaddVv p e v d => some (.add, true, 8 + e.toNat, p.toNat, d, .reg v.toNat, v)
  | .vfaddVs p e v d => some (.add, true, 8 + e.toNat, p.toNat, d, .scalar (a.xv v), v)
  | .vfsubVv p e v d => some (.sub, true, 8 + e.toNat, p.toNat, d, .reg v.toNat, v)
  | .vfsubVs p e v d => some (.sub, true, 8 + e.toNat, p.toNat, d, .scalar (a.xv v), v)
  | .vfmulVv p e v d => some (.mul, true, 8 + e.toNat, p.toNat, d, .reg v.toNat, v)
  | .vfmulVs p e v d => some (.mul, true, 8 + e.toNat, p.toNat, d, .scalar (a.xv v), v)
  | .vfdivVv p e v d => some (.div, true, 8 + e.toNat, p.toNat, d, .reg v.toNat, v)
  | .vfdivVs p e v d => some (.div, true, 8 + e.toNat, p.toNat, d, .scalar (a.xv v), v)
  | .vfminVv p e v d => some (.min, false, 8 + e.toNat, p.toNat, d, .reg v.toNat, v)
  | .vfminVs p e v d => some (.min, false, 8 + e.toNat, p.toNat, d, .scalar (a.xv v), v)
  | .vfmaxVv p e v d => some (.max, false, 8 + e.toNat, p.toNat, d, .reg v.toNat, v)
  | .vfmaxVs p e v d => some (.max, false, 8 + e.toNat, p.toNat, d, .scalar (a.xv v), v)
  | _ => none

/-- An operation of one source (R311, R319, R334). -/
def Sys2Proof.Claims.oneForm : Instr → Option (EOp × Bool × Nat × Nat × Reg × Reg)
  | .vclz p e v d => some (.clz, false, e.toNat, p.toNat, d, v)
  | .vpopc p e v d => some (.popc, false, e.toNat, p.toNat, d, v)
  | .vfabs p e v d => some (.fabs, false, 8 + e.toNat, p.toNat, d, v)
  | .vfneg p e v d => some (.fneg, false, 8 + e.toNat, p.toNat, d, v)
  | .vfsqrt p e v d => some (.fsqrt, true, 8 + e.toNat, p.toNat, d, v)
  | .vfclass p e v d => some (.fclass, false, 8 + e.toNat, p.toNat, d, v)
  | .vrcp p v d => some (.rcp, false, 10, p.toNat, d, v)
  | .vrsqrt p v d => some (.rsqrt, false, 10, p.toNat, d, v)
  | .vexp2 p v d => some (.exp2, false, 10, p.toNat, d, v)
  | .vlog2 p v d => some (.log2, false, 10, p.toNat, d, v)
  | .vsin p v d => some (.sin, false, 10, p.toNat, d, v)
  | .vcos p v d => some (.cos, false, 10, p.toNat, d, v)
  | _ => none

/-- An operation of three registers of one width (R311, R319). -/
def Sys2Proof.Claims.threeForm : Instr → Option (TOp × Bool × Nat × Nat × Reg × Reg × Reg)
  | .vmac b p e a d => some (.mac, false, e.toNat, p.toNat, d, a, b)
  | .vffma b p e a d => some (.ffma, true, 8 + e.toNat, p.toNat, d, a, b)
  | .vffms b p e a d => some (.ffms, true, 8 + e.toNat, p.toNat, d, a, b)
  | .vfnfma b p e a d => some (.fnfma, true, 8 + e.toNat, p.toNat, d, a, b)
  | _ => none

/-- A compare (R314): condition, element type, predicate, first group, second source. OP5 18 to 23 select the conditions 0 to 5. -/
def Sys2Proof.Claims.cmpForm (a : Hart) : Instr → Option (Nat × Nat × Nat × Reg × VSrc × Reg)
  | .vcmpVv c p e v d => some (c.toNat - 2, e.toNat, p.toNat, d, .reg v.toNat, v)
  | .vcmpVs c p e v d => some (c.toNat - 2, e.toNat, p.toNat, d, .scalar (a.xv v), v)
  | .vcmpVi c p e i d => some (c.toNat - 2, e.toNat, p.toNat, d, .imm i.toInt, i)
  | .vfcmpVv c p e v d => some (c.toNat - 2, 8 + e.toNat, p.toNat, d, .reg v.toNat, v)
  | .vfcmpVs c p e v d => some (c.toNat - 2, 8 + e.toNat, p.toNat, d, .scalar (a.xv v), v)
  | _ => none

/-- A select (R316). -/
def Sys2Proof.Claims.selForm (a : Hart) : Instr → Option (Nat × Nat × Reg × VSrc × Reg)
  | .vselVv p e v d => some (e.toNat, p.toNat, d, .reg v.toNat, v)
  | .vselVs p e v d => some (e.toNat, p.toNat, d, .scalar (a.xv v), v)
  | .vselVi p e i d => some (e.toNat, p.toNat, d, .imm i.toInt, i)
  | _ => none

/-- A movement inside one group, or between two (R326, R328 to R331, R333): the command, the element type, the destination, the second
source with its register, whether the destination is read, whether the two groups may not meet. -/
def Sys2Proof.Claims.moveForm (a : Hart) : Instr → Option (VOp × Nat × Reg × VSrc × Reg × Bool × Bool)
  | .vmv p e v d => some (.mv e.toNat p.toNat d.toNat (.reg v.toNat), e.toNat, d, .reg v.toNat, v, false, false)
  | .vmvScalar p e v d => some (.mv e.toNat p.toNat d.toNat (.scalar (a.xv v)), e.toNat, d, .scalar (a.xv v), v, false, false)
  | .vcompress p e v d => some (.compress e.toNat p.toNat d.toNat v.toNat, e.toNat, d, .reg v.toNat, v, false, true)
  | .vperm p e v d => some (.perm e.toNat p.toNat d.toNat v.toNat, e.toNat, d, .reg v.toNat, v, true, false)
  | .vslupVs p e v d => some (.slup e.toNat p.toNat d.toNat (a.xv v).toNat, e.toNat, d, .scalar (a.xv v), v, true, false)
  | .vslupVi p e i d => some (.slup e.toNat p.toNat d.toNat i.toNat, e.toNat, d, .imm i.toInt, i, true, false)
  | .vsldnVs p e v d => some (.sldn e.toNat p.toNat d.toNat (a.xv v).toNat, e.toNat, d, .scalar (a.xv v), v, true, false)
  | .vsldnVi p e i d => some (.sldn e.toNat p.toNat d.toNat i.toNat, e.toNat, d, .imm i.toInt, i, true, false)
  | .vsl1up p e v d => some (.sl1up e.toNat p.toNat d.toNat (a.xv v), e.toNat, d, .scalar (a.xv v), v, true, false)
  | .vxchg p e i d => some (.xchg e.toNat p.toNat d.toNat (i.toNat + 1), e.toNat, d, .imm i.toInt, i, true, false)
  | _ => none

/-- A reduction (R317, R318). -/
def Sys2Proof.Claims.redForm : Instr → Option (RedOp × Bool × Nat × Nat × Reg × Reg)
  | .vredsum p e v d => some (.sum, false, e.toNat, p.toNat, d, v)
  | .vredmin p e v d => some (.min, false, e.toNat, p.toNat, d, v)
  | .vredmax p e v d => some (.max, false, e.toNat, p.toNat, d, v)
  | .vfredsum p e v d => some (.fsum, true, 8 + e.toNat, p.toNat, d, v)
  | _ => none

/-- A predicate operation or a VFIFO push (R237, R315): the command, its x source, its x destination. -/
def Sys2Proof.Claims.predForm (a : Hart) : Instr → Option (VOp × List Reg × List Reg)
  | .pand p b c => some (.pred .and p.toNat c.toNat b.toNat, [], [])
  | .por p b c => some (.pred .or p.toNat c.toNat b.toNat, [], [])
  | .pxor p b c => some (.pred .xor p.toNat c.toNat b.toNat, [], [])
  | .pnot p c => some (.pred .not p.toNat c.toNat 0, [], [])
  | .pmskup p c => some (.pred .mskup p.toNat c.toNat 0, [], [])
  | .pset p x => some (.pset p.toNat (a.xv x), [x], [])
  | .pfirst b d => some (.pfirst d.toNat b.toNat, [], [d])
  | .pcnt b d => some (.pcnt d.toNat b.toNat, [], [d])
  | .vfifoPushVm => some (.push false, [], [])
  | .vfifoPushVc => some (.push true, [], [])
  | _ => none

/-- The element type of a 16-bit form is vcfg's; it is masked by no predicate but VSEL's p1 (R240). The kind of a form: an integer or
floating operation, or one of any type. -/
def Sys2Proof.Claims.shortBin (a : Hart) : Instr → Option (VOp × Bool × Reg × Reg)
  | .vqVadd d v => some (.int .add a.vcfg.et.toNat 0 d.toNat (.reg v.toNat), decide (8 ≤ a.vcfg.et.toNat), d, v)
  | .vqVsub d v => some (.int .sub a.vcfg.et.toNat 0 d.toNat (.reg v.toNat), decide (8 ≤ a.vcfg.et.toNat), d, v)
  | .vqVmul d v => some (.int .mul a.vcfg.et.toNat 0 d.toNat (.reg v.toNat), decide (8 ≤ a.vcfg.et.toNat), d, v)
  | .vqVand d v => some (.int .and a.vcfg.et.toNat 0 d.toNat (.reg v.toNat), decide (8 ≤ a.vcfg.et.toNat), d, v)
  | .vqVor d v => some (.int .or a.vcfg.et.toNat 0 d.toNat (.reg v.toNat), decide (8 ≤ a.vcfg.et.toNat), d, v)
  | .vqVxor d v => some (.int .xor a.vcfg.et.toNat 0 d.toNat (.reg v.toNat), decide (8 ≤ a.vcfg.et.toNat), d, v)
  | .vqVsll d v => some (.int .sll a.vcfg.et.toNat 0 d.toNat (.reg v.toNat), decide (8 ≤ a.vcfg.et.toNat), d, v)
  | .vqVsrl d v => some (.int .srl a.vcfg.et.toNat 0 d.toNat (.reg v.toNat), decide (8 ≤ a.vcfg.et.toNat), d, v)
  | .vqVfadd d v => some (.flt .add a.vcfg.et.toNat 0 d.toNat (.reg v.toNat),
      decide (a.vcfg.et.toNat < 8) || decide (12 ≤ a.vcfg.et.toNat) || decide (4 ≤ a.frm.toNat), d, v)
  | .vqVfmul d v => some (.flt .mul a.vcfg.et.toNat 0 d.toNat (.reg v.toNat),
      decide (a.vcfg.et.toNat < 8) || decide (12 ≤ a.vcfg.et.toNat) || decide (4 ≤ a.frm.toNat), d, v)
  | .vqVsel d v => some (.sel a.vcfg.et.toNat 1 d.toNat (.reg v.toNat), decide (12 ≤ a.vcfg.et.toNat), d, v)
  | _ => none

/-- R177, R185, R306, R310, R311, R314, R319: an arithmetic vector instruction whose checks pass and whose queue has
room enters its command with what it captures of vl, vcfg, frm, the formats and its scalar, marks its destination,
clears veix and goes on by 4; nothing outside its hart changes. -/
def Obligations.VectorArithmeticIssues : Prop :=
  let enters (s : State) (i : Instr) (r : VReq) : Prop :=
    s.VIssues r → exec i s = .next (s.updMe (fun a => (a.enqueue r).advance 4))
  (∀ (s : State) (i : Instr) (op : IOp) (et p : Nat) (d : Reg) (src : VSrc) (x : Reg), intForm s.me i = some (op, et, p, d, src, x) →
    enters s i (s.me.binReq i false et d src x (.int op et p d.toNat src))) ∧
  (∀ (s : State) (i : Instr) (op : FOp) (rnd : Bool) (et p : Nat) (d : Reg) (src : VSrc) (x : Reg),
    fltForm s.me i = some (op, rnd, et, p, d, src, x) →
    enters s i (s.me.binReq i (rnd && decide (4 ≤ s.me.frm.toNat)) et d src x (.flt op et p d.toNat src))) ∧
  (∀ (s : State) (i : Instr) (op : EOp) (rnd : Bool) (et p : Nat) (d v : Reg), oneForm i = some (op, rnd, et, p, d, v) →
    enters s i (s.me.unaReq i (rnd && decide (4 ≤ s.me.frm.toNat)) et false d (.reg v.toNat) v (.one op et p d.toNat v.toNat) id)) ∧
  (∀ (s : State) (i : Instr) (op : TOp) (rnd : Bool) (et p : Nat) (d a b : Reg), threeForm i = some (op, rnd, et, p, d, a, b) →
    enters s i (s.me.threeReq i op (rnd && decide (4 ≤ s.me.frm.toNat)) et p d a b.toNat)) ∧
  (∀ (s : State) (b : Reg) (p e : BitVec 3) (a d : Reg),
    enters s (.vwmac b p e a d) (s.me.wideReq (.vwmac b p e a d) true e.toNat p.toNat d a b) ∧
    enters s (.vwmul b p e a d) (s.me.wideReq (.vwmul b p e a d) false e.toNat p.toNat d a b)) ∧
  (∀ (s : State) (i : Instr) (cc et p : Nat) (d : Reg) (src : VSrc) (x : Reg), cmpForm s.me i = some (cc, et, p, d, src, x) →
    enters s i (s.me.cmpReq i cc et p d src x)) ∧
  (∀ (s : State) (i : Instr) (et p : Nat) (d : Reg) (src : VSrc) (x : Reg), selForm s.me i = some (et, p, d, src, x) →
    enters s i (s.me.binReq i (decide (12 ≤ s.me.vcfg.et.toNat)) et d src x (.sel et p d.toNat src))) ∧
  (∀ (s : State) (p : BitVec 3) (e : BitVec 2) (v d : Reg), enters s (.vscale p e v d) (s.me.scaleReq p e v d)) ∧
  (∀ (s : State) (f : BitVec 4) (p : BitVec 3) (e : BitVec 4) (v d : Reg),
    enters s (.vcvt f p e v d) (s.me.cvtReq (.vcvt f p e v d) false e.toNat f.toNat p.toNat d v) ∧
    enters s (.vcvtSr f p e v d) (s.me.cvtReq (.vcvtSr f p e v d) true e.toNat f.toNat p.toNat d v))

/-- R177, R237, R240, R315, R317, R326, R328 to R331, R333: the same of the movements, reductions and predicate
operations, of the VFIFO pushes, and of the 16-bit forms, which go on by 2. A VTAKE opens its source group at issue. A
VFIFO pop enters the queue and parks its hart until the pop is made. -/
def Obligations.VectorMovesIssue : Prop :=
  let enters (s : State) (i : Instr) (n : Nat) (r : VReq) : Prop :=
    s.VIssues r → exec i s = .next (s.updMe (fun a => (a.enqueue r).advance n))
  (∀ (s : State) (i : Instr) (op : VOp) (et : Nat) (d : Reg) (src : VSrc) (x : Reg) (rd apart : Bool),
    moveForm s.me i = some (op, et, d, src, x, rd, apart) →
    enters s i 4 (if rd then s.me.binReq i false et d src x op
      else s.me.unaReq i false et (apart && groupsMeet d.toNat s.me.gsz x.toNat s.me.gsz) d src x op id)) ∧
  (∀ (s : State) (p : BitVec 3) (e : BitVec 4) (v d : Reg),
    enters s (.vtake p e v d) 4 (s.me.unaReq (.vtake p e v d) false e.toNat false d (.reg v.toNat) v
      (.take e.toNat p.toNat d.toNat v.toNat) (fun h => h.openV v.toNat h.gsz))) ∧
  (∀ (s : State) (i : Instr) (op : RedOp) (rnd : Bool) (et p : Nat) (d v : Reg), redForm i = some (op, rnd, et, p, d, v) →
    enters s i 4 (s.me.redReq i op (rnd && decide (4 ≤ s.me.frm.toNat)) et p d v)) ∧
  (∀ (s : State) (i : Instr) (op : VOp) (src dst : List Reg), predForm s.me i = some (op, src, dst) →
    enters s i (Instr.len i) (s.me.predReq i (xs src) (xs dst) op)) ∧
  (∀ (s : State) (i : Instr) (op : VOp) (bad : Bool) (d v : Reg), shortBin s.me i = some (op, bad, d, v) →
    enters s i 2 (s.me.binReq i bad s.me.vcfg.et.toNat d (.reg v.toNat) v op)) ∧
  (∀ (s : State) (d v : Reg),
    let et := s.me.vcfg.et.toNat
    let g := 2 ^ s.me.vcfg.g.toNat
    enters s (.vqVmac d v) 2 (s.me.threeReq (.vqVmac d v) .mac (decide (8 ≤ et)) et 0 d v (v.toNat + g)) ∧
    enters s (.vqVffma d v) 2 (s.me.threeReq (.vqVffma d v) .ffma
      (decide (et < 8) || decide (12 ≤ et) || decide (4 ≤ s.me.frm.toNat)) et 0 d v (v.toNat + g)) ∧
    enters s (.vqVmv d v) 2 (s.me.unaReq (.vqVmv d v) false et false d (.reg v.toNat) v (.mv et 0 d.toNat (.reg v.toNat)) id)) ∧
  (∀ (s : State) (fromMatrix : Bool),
    let i : Instr := if fromMatrix then .vfifoPopMv else .vfifoPopCv
    let r : VReq := { i := i, vl := s.me.vl, g := 2 ^ s.me.vcfg.g.toNat, op := .pop fromMatrix }
    s.VIssues r → s.me.park ≠ some .pop →
    exec i s = .next (s.updMe (fun a => ({ a with vq := a.vq.concat (a.command r), seq := a.seq + 1 }).parkFor .pop s.time s.clk)))

/-- R172, R176, R183, R310: the checks that keep an integer or floating operation of two vector registers from issuing:
another width than vcfg's, or for one that rounds an frm that names no vector rounding (R201), takes cause 2 with its
word, a group out of the allocation or not aligned to its size cause 24 with its register number, an empty source parks,
and a full queue parks. veix holds the element at which it stopped. -/
def Obligations.VectorIssueStops : Prop :=
  let stops (s : State) (i : Instr) (rounds : Bool) (et : Nat) (d v : Reg) : Prop :=
    let g := 2 ^ s.me.vcfg.g.toNat
    let fits (r : Reg) : Prop := r.toNat % g = 0 ∧ r.toNat + g ≤ s.me.alloc
    let same : Prop := etWidth s.me.fmts et = etWidth s.me.fmts s.me.vcfg.et.toNat ∧ (rounds = true → s.me.frm.toNat < 4)
    let src := vgroup d.toNat g ++ vgroup v.toNat g
    (¬ same → exec i s = .next (s.updMe (fun h => h.trap 2 (wordOf i) h.veix.toNat))) ∧
    (same → ¬ fits d → exec i s = .next (s.updMe (fun h => h.trap 24 (d.setWidth 64) h.veix.toNat))) ∧
    (same → fits d → ¬ fits v → exec i s = .next (s.updMe (fun h => h.trap 24 (v.setWidth 64) h.veix.toNat))) ∧
    (same → fits d → fits v → s.me.markedAny src = none → s.me.due false false true = none →
      (∀ r, s.me.presentAll src = some (.park (.empty .v r false)) →
        exec i s = .next (s.updMe (fun h => h.parkFor (.empty .v r true) s.time s.clk))) ∧
      (s.me.presentAll src = none → s.me.ownedAll (vgroup d.toNat g) = none → 8 ≤ s.me.vq.length →
        exec i s = .next (s.updMe (fun h => h.parkFor .vqFull s.time s.clk))))
  (∀ (s : State) (i : Instr) (op : IOp) (et p : Nat) (d v : Reg), intForm s.me i = some (op, et, p, d, .reg v.toNat, v) →
    stops s i false et d v) ∧
  (∀ (s : State) (i : Instr) (op : FOp) (rnd : Bool) (et p : Nat) (d v : Reg),
    fltForm s.me i = some (op, rnd, et, p, d, .reg v.toNat, v) → stops s i rnd et d v)

/-! ### Vector instructions: what a queue's oldest command does -/

/-- The oldest command of a hart's queue may go on. -/
def Sys2Proof.Claims.Clears (s : State) (c : VCmd) (l : List VCmd) : Prop :=
  let h := s.ev.h
  (s.hart h).vq = c :: l ∧ (s.quad (quadOf h)).clearFor h c.seq c.reads c.writes = true ∧ s.quadHalted (quadOf h) = false

/-- The hart at the event has lost its oldest command and changed nothing but v registers, vflags, the dirty bits and the high-water
mark; nothing else of the machine has changed. -/
def Sys2Proof.Claims.OnlyVectors (s t : State) (l : List VCmd) : Prop :=
  let h := s.ev.h
  t = s.setHart h (t.hart h) ∧
  t.hart h = { s.hart h with
    vq := l
    v := (t.hart h).v
    vflags := (t.hart h).vflags
    dirty := (t.hart h).dirty
    hwb := (t.hart h).hwb }

/-- Elements of width `w` of the group of `g` registers from `d` become `val e` where `act` holds and stay otherwise; registers
outside the group, and every presence and mark, stay. -/
def Sys2Proof.Claims.Elements (a b : Hart) (d g w : Nat) (act : Nat → Prop) (val : Nat → BitVec w) : Prop :=
  (∀ e, (e + 1) * w ≤ 1024 * g → act e → BitVec.ofNat w (b.elem d w e) = val e) ∧
  (∀ e, (e + 1) * w ≤ 1024 * g → ¬ act e → b.elem d w e = a.elem d w e) ∧
  (∀ r : Reg, (r.toNat < d ∨ d + g ≤ r.toNat) → getReg b.v r = getReg a.v r) ∧
  (∀ r : Reg, (getReg b.v r).pres = (getReg a.v r).pres ∧ (getReg b.v r).mark = (getReg a.v r).mark)

/-- An element of a register group as a word. -/
def Sys2Proof.Claims.el (a : Hart) (n w e : Nat) : BitVec w := BitVec.ofNat w (a.elem n w e)

/-- A code as the integer that its type makes of it (R191). -/
def Sys2Proof.Claims.asInt (signed : Bool) {w : Nat} (v : BitVec w) : Int := if signed then v.toInt else v.toNat

/-- The exact value of a saturating operation, clamped to its type (R215). -/
def Sys2Proof.Claims.clamp (signed : Bool) (w : Nat) (i : Int) : Int :=
  if signed then max (-(2 ^ (w - 1))) (min (2 ^ (w - 1) - 1) i) else max 0 (min (2 ^ w - 1) i)

/-- The result column of R311, `bi` the value of the second source, `b` its code. -/
def Sys2Proof.Claims.intResult (op : IOp) (signed : Bool) {w : Nat} (a b : BitVec w) (bi : Int) : BitVec w :=
  let ai := asInt signed a
  match op with
  | .add => a + b
  | .sub => a - b
  | .rsub => b - a
  | .mul => a * b
  | .mulh => BitVec.ofInt w (ai * bi / 2 ^ w)
  | .mulhn => BitVec.ofInt w ((ai * bi + 2 ^ (w - 1)) / 2 ^ w)
  | .adds => BitVec.ofInt w (clamp signed w (ai + bi))
  | .subs => BitVec.ofInt w (clamp signed w (ai - bi))
  | .min => if ai ≤ bi then a else b
  | .max => if bi ≤ ai then a else b
  | .and => a &&& b
  | .or => a ||| b
  | .xor => a ^^^ b
  | .sll => a <<< (b.toNat % w)
  | .srl => a >>> (b.toNat % w)
  | .sra => a.sshiftRight (b.toNat % w)

/-- The fixed tree of R318 over the `2^n` leaves from `i × 2^n` on; a leaf without an active element adds nothing. -/
def Sys2Proof.Claims.fixedTree (add : Nat → Nat → Nat) (leaf : Nat → Option Nat) : Nat → Nat → Option Nat
  | 0, i => leaf i
  | n + 1, i =>
    match fixedTree add leaf n (2 * i), fixedTree add leaf n (2 * i + 1) with
    | none, y => y
    | x, none => x
    | some x, some y => some (add x y)

/-- R193, R201, R310, R319: VFFMA, VFFMS and VFNFMA, whose checks pass and whose queue has room, enter their command, mark
vd and go on by 4; a command of theirs, executed, writes into each active element of vd the one rounding of the exact
vs1 × vs2 + vd, vs1 × vs2 − vd or vd − vs1 × vs2, where the three are finite and that is not 0, and the canonical NaN
where one of them is a NaN; it changes no other element and no other register. -/
def Obligations.FusedMultiplyAdds : Prop :=
  (∀ (s : State) (b : Reg) (p : BitVec 3) (e : BitVec 2) (a d : Reg),
    let r (i : Instr) (op : TOp) : VReq := s.me.threeReq i op (decide (4 ≤ s.me.frm.toNat)) (8 + e.toNat) p.toNat d a b.toNat
    let issues (i : Instr) (op : TOp) : Prop := s.VIssues (r i op) → exec i s = .next (s.updMe (fun h => (h.enqueue (r i op)).advance 4))
    issues (.vffma b p e a d) .ffma ∧ issues (.vffms b p e a d) .ffms ∧ issues (.vfnfma b p e a d) .fnfma) ∧
  (∀ (s : State) (c : VCmd) (l : List VCmd) (op : TOp) (et p d va vb : Nat),
    Clears s c l → c.op = .three op et p d va vb → 8 ≤ et → et < 12 → (op = .ffma ∨ op = .ffms ∨ op = .fnfma) →
    let h := s.hart s.ev.h
    let w := etWidth c.fmt et
    let f := etFmt c.fmt et
    let act (e : Nat) : Prop := c.eix ≤ e ∧ e < c.vl ∧ h.pbit p e = true
    c.vl * w ≤ 1024 * c.g → d + c.g ≤ 32 →
    ∃ (t : State) (val : Nat → Nat), exec .vectorQueueExecute s = .next t ∧ OnlyVectors s t l ∧
      Elements h (t.hart s.ev.h) d c.g w act (fun e => BitVec.ofNat w (val e)) ∧
      ∀ e, act e →
        let x := c.val et (h.elem va w e)
        let y := c.val et (h.elem vb w e)
        let z := c.val et (h.elem d w e)
        (x.isNan = true ∨ y.isNan = true ∨ z.isNan = true → val e = f.nanCode) ∧
        (∀ m u n v k q, x = .fin m u → y = .fin n v → z = .fin k q →
          let xy := (signedOf m u).mul (signedOf n v)
          let exact := match op with
            | .ffma => xy.add (signedOf k q)
            | .ffms => xy.add (signedOf k q).neg
            | _ => xy.neg.add (signedOf k q)
          exact.num ≠ 0 → val e = (roundVal f c.mode c.bfz (finOf false exact)).1))

/-- R177, R206, R307, R311: an executed integer operation writes the result of R311 into every active element (veix ≤ e < vl,
predicate bit 1) of its group, reading its sources first, and nothing else; vflags gains SAT when VADDS or VSUBS clamps an
active element. The command leaves the queue. R316, R324, R326, R328 to R331, R333: a move, select, slide, exchange,
permutation, compression or take: the value of every element it writes, and the elements it leaves; no flag is raised. R237,
R314, R315, R317, R327: a predicate operation writes bits 0 to vl − 1 of its destination and zeros above; PFIRST and PCNT land
the lowest set bit (vl when none) and the number of set bits; a compare writes the bits from veix to vl − 1, keeps those below
veix and zeros those above; VREDSUM adds the active elements to element 0 of its destination, wrapping, VREDMIN and VREDMAX
write their least or greatest with it, and write nothing else; VMVX lands an element, sign-extended under a signed type, and
VMVS writes one; a copy of a register group writes that group; a VFIFO push adds a token to its FIFO. R311, R312: VMAC adds a
product to its accumulator, VWMAC and VWMUL one of twice the width; VCLZ counts leading zeros and VPOPC set bits. R193, R194,
R201, R319, R322: VFADD to VFDIV round the exact result once, the canonical NaN for a NaN; under BFZ a subnormal bf16 result
is a zero of its sign. VFMIN and VFMAX take the lesser or greater, of a number and a NaN the number; VFABS and VFNEG set the
sign; VFSQRT takes the root; VFCLASS names the class; VSCALE multiplies by 2^(code − 127), a NaN for code 255. R318: VFREDSUM
adds by the fixed tree, a leaf without an active element adding nothing (log 20). R203, R320, R321: VCVT and VCVT.SR round a
number to the destination type and hold an integer within its range. R334, R335: the special functions give the values of
R335's table, VRCP the reciprocal rounded to nearest, VRSQRT the root of it, and VEXP2 and VLOG2 the exact power and exponent
of 2. -/
def Obligations.VectorResults : Prop :=
  (
    ∀ (s : State) (c : VCmd) (l : List VCmd) (op : IOp) (et p d : Nat) (src : VSrc), Clears s c l → c.op = .int op et p d src → et < 8 →
      let w := 8 * 2 ^ (et % 4)
      let sg := decide (et < 4)
      let a := s.hart s.ev.h
      let act (e : Nat) : Prop := c.eix ≤ e ∧ e < c.vl ∧ a.pbit p e = true
      let code (e : Nat) : BitVec w := match src with
        | .reg n => el a n w e
        | .scalar v => v.setWidth w
        | .imm i => BitVec.ofInt w i
      let bi (e : Nat) : Int := match src with
        | .imm i => i
        | _ => asInt sg (code e)
      let sum (e : Nat) : Int := if op = .adds then asInt sg (el a d w e) + bi e else asInt sg (el a d w e) - bi e
      let clamped : Prop := (op = .adds ∨ op = .subs) ∧ ∃ e, act e ∧ clamp sg w (sum e) ≠ sum e
      c.vl * w ≤ 1024 * c.g → d + c.g ≤ 32 →
      ∃ t, exec .vectorQueueExecute s = .next t ∧ OnlyVectors s t l ∧
        Elements a (t.hart s.ev.h) d c.g w act (fun e => intResult op sg (el a d w e) (code e) (bi e)) ∧
        (clamped → (t.hart s.ev.h).vflags = a.vflags ||| 32#7) ∧ (¬ clamped → (t.hart s.ev.h).vflags = a.vflags)) ∧
  (
    let writes (s : State) (c : VCmd) (l : List VCmd) (d et : Nat) (act : Nat → Prop)
        (val : (w : Nat) → Nat → BitVec w) : Prop :=
      c.vl * etWidth c.fmt et ≤ 1024 * c.g → d + c.g ≤ 32 →
      ∃ t, exec .vectorQueueExecute s = .next t ∧ OnlyVectors s t l ∧ (t.hart s.ev.h).vflags = (s.hart s.ev.h).vflags ∧
        Elements (s.hart s.ev.h) (t.hart s.ev.h) d c.g (etWidth c.fmt et) act (val (etWidth c.fmt et))
    ∀ (s : State) (c : VCmd) (l : List VCmd), Clears s c l →
      let a := s.hart s.ev.h
      let act (p e : Nat) : Prop := c.eix ≤ e ∧ e < c.vl ∧ a.pbit p e = true
      let whole (p e : Nat) : Prop := e < c.vl ∧ a.pbit p e = true
      (∀ et p d n, c.op = .mv et p d (.reg n) → writes s c l d et (act p) (fun w e => el a n w e)) ∧
      (∀ et p d v, c.op = .mv et p d (.scalar v) → writes s c l d et (act p) (fun w _ => v.setWidth w)) ∧
      (∀ et p d n, c.op = .sel et p d (.reg n) → writes s c l d et (fun e => c.eix ≤ e ∧ e < c.vl)
        (fun w e => if a.pbit p e then el a d w e else el a n w e)) ∧
      (∀ et p d k, c.op = .slup et p d k → writes s c l d et (fun e => whole p e ∧ k ≤ e) (fun w e => el a d w (e - k))) ∧
      (∀ et p d k, c.op = .sldn et p d k → writes s c l d et (whole p)
        (fun w e => if e + k < c.vl then el a d w (e + k) else 0)) ∧
      (∀ et p d v, c.op = .sl1up et p d v → writes s c l d et (whole p)
        (fun w e => if e = 0 then v.setWidth w else el a d w (e - 1))) ∧
      (∀ et p d k, c.op = .xchg et p d k → writes s c l d et (fun e => whole p e ∧ e ^^^ k < c.vl) (fun w e => el a d w (e ^^^ k))) ∧
      (∀ et p d n, c.op = .perm et p d n → writes s c l d et (whole p)
        (fun w e => if a.elem n w e < c.vl then el a d w (a.elem n w e) else 0)) ∧
      (∀ et p d n, c.op = .take et p d n → writes s c l d et (whole p) (fun w e => el a n w e)) ∧
      (∀ et p d n, c.op = .compress et p d n →
        let picked := (List.range c.vl).filter (fun e => a.pbit p e)
        writes s c l d et (fun j => j < picked.length) (fun w j => el a n w (picked.getD j 0)))) ∧
  (
    ∀ (s : State) (c : VCmd) (l : List VCmd), Clears s c l → c.vl ≤ 2048 →
      let h := s.ev.h
      let a := s.hart h
      let popped (a : Hart) : Hart := { a with vq := l }
      let first (p : Nat) : Nat → Prop := fun f =>
        (f < c.vl ∧ a.pbit p f = true ∧ ∀ e, e < f → a.pbit p e = false) ∨ (f = c.vl ∧ ∀ e, e < c.vl → a.pbit p e = false)
      (∀ op pd pa pb, c.op = .pred op pd pa pb → ∃ t v, exec .vectorQueueExecute s = .next t ∧
        t = s.setHart h ((popped a).setP pd v) ∧
        ∀ e, e < 2048 → (v.getLsbD e = true ↔ e < c.vl ∧ match op with
          | .and => a.pbit pa e = true ∧ a.pbit pb e = true
          | .or => a.pbit pa e = true ∨ a.pbit pb e = true
          | .xor => a.pbit pa e ≠ a.pbit pb e
          | .not => a.pbit pa e = false
          | .mskup => ∀ k, k ≤ e → a.pbit pa k = false)) ∧
      (∀ pd x, c.op = .pset pd x → ∃ t v, exec .vectorQueueExecute s = .next t ∧ t = s.setHart h ((popped a).setP pd v) ∧
        ∀ e, e < 2048 → (v.getLsbD e = true ↔ e < c.vl ∧ e < x.toNat)) ∧
      (∀ xd pa, c.op = .pfirst xd pa → ∃ f, first pa f ∧ exec .vectorQueueExecute s =
        .next (s.setHart h ((popped a).land ⟨.x, regNo xd, BitVec.ofNat 64 f, none, none⟩))) ∧
      (∀ xd pa, c.op = .pcnt xd pa → exec .vectorQueueExecute s =
        .next (s.setHart h ((popped a).land
          ⟨.x, regNo xd, BitVec.ofNat 64 ((List.range c.vl).countP (fun e => a.pbit pa e)), none, none⟩))) ∧
      (∀ cc et p d n, c.op = .cmp cc et p d (.reg n) → et < 8 → cc < 6 →
        let x (e : Nat) : Int := asInt (decide (et < 4)) (el a d (8 * 2 ^ (et % 4)) e)
        let y (e : Nat) : Int := asInt (decide (et < 4)) (el a n (8 * 2 ^ (et % 4)) e)
        let holds (e : Nat) : Prop := match cc with
          | 0 => x e = y e
          | 1 => x e ≠ y e
          | 2 => x e < y e
          | 3 => x e ≤ y e
          | 4 => ¬ x e < y e
          | _ => ¬ x e ≤ y e
        ∃ t v, exec .vectorQueueExecute s = .next t ∧ t = s.setHart h ((popped a).setP p v) ∧
          ∀ e, e < 2048 → (v.getLsbD e = true ↔ e < c.vl ∧ ((e < c.eix ∧ a.pbit p e = true) ∨ (c.eix ≤ e ∧ holds e)))) ∧
      (∀ et p d n, c.op = .red .sum et p d n → et < 8 → d < 32 →
        let w := 8 * 2 ^ (et % 4)
        let els := ((List.range c.vl).filter (fun e => a.pbit p e)).map (fun e => el a n w e)
        ∃ t, exec .vectorQueueExecute s = .next t ∧ OnlyVectors s t l ∧ (t.hart h).vflags = a.vflags ∧
          Elements a (t.hart h) d 1 w (fun e => e = 0) (fun _ => els.foldl (· + ·) (el a d w 0))) ∧
      (∀ et xd n i, c.op = .mvx et xd n i → et < 8 →
        let v := el a n (8 * 2 ^ (et % 4)) i
        exec .vectorQueueExecute s = .next (s.setHart h ((popped a).land
          ⟨.x, regNo xd, if et < 4 then v.signExtend 64 else v.setWidth 64, none, none⟩))) ∧
      (∀ toCopy, c.op = .push toCopy →
        let q := s.quad (quadOf h)
        let n := if toCopy then Fifo.vc.no else Fifo.vm.no
        Tab.get q.fifo n 0 < 16 → q.held = [] →
        ∃ t, exec .vectorQueueExecute s = .next t ∧ t.hart h = popped a ∧
          t.quad (quadOf h) = { q with fifo := Tab.set q.fifo n (Tab.get q.fifo n 0 + 1) })) ∧
  (
    ∀ (s : State) (c : VCmd) (l : List VCmd), Clears s c l →
      let a := s.hart s.ev.h
      let act (p e : Nat) : Prop := c.eix ≤ e ∧ e < c.vl ∧ a.pbit p e = true
      let gives (d g w : Nat) (on : Nat → Prop) (is : Nat → BitVec w → Prop) : Prop :=
        ∃ (t : State) (val : Nat → BitVec w), exec .vectorQueueExecute s = .next t ∧ OnlyVectors s t l ∧
          Elements a (t.hart s.ev.h) d g w on val ∧ ∀ e, on e → is e (val e)
      (∀ et p d x y, c.op = .three .mac et p d x y → et < 8 →
        let w := 8 * 2 ^ (et % 4)
        c.vl * w ≤ 1024 * c.g → d + c.g ≤ 32 →
        gives d c.g w (act p) (fun e v => v = el a d w e + el a x w e * el a y w e)) ∧
      (∀ op et p d x y, c.op = .three op et p d x y → (op = .wmac ∨ op = .wmul) → et < 8 →
        let w := 8 * 2 ^ (et % 4)
        let product (e : Nat) : Int := asInt (decide (et < 4)) (el a x w e) * asInt (decide (et < 4)) (el a y w e)
        c.vl * w ≤ 1024 * c.g → d + 2 * c.g ≤ 32 →
        gives d (2 * c.g) (2 * w) (act p) (fun e v =>
          v = BitVec.ofInt (2 * w) (product e) + if op = .wmac then el a d (2 * w) e else 0)) ∧
      (∀ et p d n, c.op = .one .clz et p d n → et < 8 →
        let w := 8 * 2 ^ (et % 4)
        c.vl * w ≤ 1024 * c.g → d + c.g ≤ 32 →
        gives d c.g w (act p) (fun e v => v.toNat ≤ w ∧ (∀ k, w - v.toNat ≤ k → k < w → (el a n w e).getLsbD k = false) ∧
          (v.toNat < w → (el a n w e).getLsbD (w - 1 - v.toNat) = true))) ∧
      (∀ et p d n, c.op = .one .popc et p d n → et < 8 →
        let w := 8 * 2 ^ (et % 4)
        c.vl * w ≤ 1024 * c.g → d + c.g ≤ 32 →
        gives d c.g w (act p) (fun e v => v = BitVec.ofNat w ((List.range w).countP (fun k => (el a n w e).getLsbD k)))) ∧
      (∀ op et p d n, c.op = .red op et p d n → (op = .min ∨ op = .max) → et < 8 → d < 32 →
        let w := 8 * 2 ^ (et % 4)
        let of : BitVec w → Int := asInt (decide (et < 4))
        let among (v : BitVec w) : Prop := v = el a d w 0 ∨ ∃ e, e < c.vl ∧ a.pbit p e = true ∧ v = el a n w e
        gives d 1 w (fun e => e = 0) (fun _ v => among v ∧ ∀ u, among u → if op = .min then of v ≤ of u else of u ≤ of v)) ∧
      (∀ et d v i g, c.op = .mvs et d v i → (i + 1) * etWidth c.fmt et ≤ 1024 * g → d + g ≤ 32 →
        gives d g (etWidth c.fmt et) (fun e => e = i) (fun _ u => u = v.setWidth _)) ∧
      (∀ d n g, c.op = .copy d n g → d + g ≤ 32 →
        ∃ t, exec .vectorQueueExecute s = .next t ∧ OnlyVectors s t l ∧ (t.hart s.ev.h).vflags = a.vflags ∧
          (∀ k, k < g → (t.hart s.ev.h).vv (d + k) = a.vv (n + k)) ∧
          (∀ r : Reg, (r.toNat < d ∨ d + g ≤ r.toNat) → getReg (t.hart s.ev.h).v r = getReg a.v r) ∧
          (∀ r : Reg, (getReg (t.hart s.ev.h).v r).pres = (getReg a.v r).pres ∧
            (getReg (t.hart s.ev.h).v r).mark = (getReg a.v r).mark))) ∧
  (
    ∀ (s : State) (c : VCmd) (l : List VCmd) (et p d : Nat), Clears s c l → 8 ≤ et →
      let a := s.hart s.ev.h
      let w := etWidth c.fmt et
      let f := etFmt c.fmt et
      let act (e : Nat) : Prop := c.eix ≤ e ∧ e < c.vl ∧ a.pbit p e = true
      let flush (v : Nat) : Nat := if c.bfz = true ∧ f = fmtBf16 ∧ 0 < v % 2 ^ 15 ∧ v % 2 ^ 15 < 2 ^ 7 then v / 2 ^ 15 * 2 ^ 15 else v
      let rounds (m : RMode) (z : Bool) (v : ℚ) (code : Nat) : Prop := ∃ r, RoundsTo f m z v r ∧ code = flush r
      let gives (g w : Nat) (on : Nat → Prop) (is : Nat → Nat → Prop) : Prop :=
        ∃ (t : State) (val : Nat → Nat), exec .vectorQueueExecute s = .next t ∧ OnlyVectors s t l ∧
          Elements a (t.hart s.ev.h) d g w on (fun e => BitVec.ofNat w (val e)) ∧ ∀ e, on e → is e (val e)
      (∀ op src, c.op = .flt op et p d src → et < 12 → (∀ i, src ≠ .imm i) → c.vl * w ≤ 1024 * c.g → d + c.g ≤ 32 →
        let code (e : Nat) : Nat := match src with
          | .reg n => a.elem n w e
          | .scalar v => v.toNat % 2 ^ w
          | .imm _ => 0
        gives c.g w act (fun e v =>
          let x := c.val et (a.elem d w e)
          let y := c.val et (code e)
          let zero (i j : Bool) : Bool := if i = j then i else decide (c.mode = .rdn)
          (∀ n u k q, x = .fin n u → y = .fin k q → match op with
            | .add => rounds c.mode (zero n k) (realOf n u + realOf k q) v
            | .sub => rounds c.mode (zero n !k) (realOf n u - realOf k q) v
            | .mul => rounds c.mode (n != k) (realOf n u * realOf k q) v
            | .div => (q.num ≠ 0 → rounds c.mode (n != k) (realOf n u / realOf k q) v) ∧
              (q.num = 0 → v = if u.num = 0 then f.nanCode else f.signed (n != k) f.infCode)
            | _ => True) ∧
          ((op = .add ∨ op = .sub ∨ op = .mul ∨ op = .div) → (x.isNan = true ∨ y.isNan = true) → v = f.nanCode) ∧
          ((op = .min ∨ op = .max) →
            (x.isNan = true → v = if y.isNan then f.nanCode else flush (code e)) ∧
            (x.isNan = false → y.isNan = true → v = flush (a.elem d w e)) ∧
            (x.isNan = false → y.isNan = false →
              (numOf x < numOf y → v = flush (if op = .min then a.elem d w e else code e)) ∧
              (numOf y < numOf x → v = flush (if op = .min then code e else a.elem d w e)) ∧
              (numOf x = numOf y → x.isNeg ≠ y.isNeg → v = if (op = .min) = (x.isNeg = true) then flush (a.elem d w e)
                else flush (code e)))))) ∧
      (∀ op n, c.op = .one op et p d n → et < 12 → c.vl * w ≤ 1024 * c.g → d + c.g ≤ 32 →
        gives c.g w act (fun e v =>
          let x := c.val et (a.elem n w e)
          (op = .fabs ∨ op = .fneg ∨ op = .fsqrt → x.isNan = true → v = f.nanCode) ∧
          (op = .fabs → x.isNan = false → v = flush (a.elem n w e % 2 ^ (w - 1))) ∧
          (op = .fneg → x.isNan = false → v = flush (if x.isNeg then a.elem n w e % 2 ^ (w - 1) else a.elem n w e + 2 ^ (w - 1))) ∧
          (op = .fsqrt → ∀ s u, x = .fin s u →
            (u.num = 0 → v = f.signed s 0) ∧ (u.num ≠ 0 → if s then v = f.nanCode else RootTo f (ratOf u) v)) ∧
          (op = .fclass → ∃ k, k < 10 ∧ v = 2 ^ k ∧ match k with
            | 0 => x = .inf true
            | 1 => ∃ u, x = .fin true u ∧ (2 : ℚ) ^ f.emin ≤ ratOf u
            | 2 => ∃ u, x = .fin true u ∧ 0 < ratOf u ∧ ratOf u < (2 : ℚ) ^ f.emin
            | 3 => ∃ u, x = .fin true u ∧ ratOf u = 0
            | 4 => ∃ u, x = .fin false u ∧ ratOf u = 0
            | 5 => ∃ u, x = .fin false u ∧ 0 < ratOf u ∧ ratOf u < (2 : ℚ) ^ f.emin
            | 6 => ∃ u, x = .fin false u ∧ (2 : ℚ) ^ f.emin ≤ ratOf u
            | 7 => x = .inf false
            | 8 => x = .nan true
            | _ => x = .nan false))) ∧
      (∀ op n, c.op = .one op 10 p d n → et = 10 → c.vl * 32 ≤ 1024 * c.g → d + c.g ≤ 32 →
        gives c.g 32 act (fun e v =>
          let x := decodeF fmtF32 (a.elem n 32 e)
          let special : Prop := op = .rcp ∨ op = .rsqrt ∨ op = .exp2 ∨ op = .log2 ∨ op = .sin ∨ op = .cos
          (special → x.isNan = true → v = 0x7FC00000) ∧
          (∀ s, x = .inf s →
            (op = .rcp → v = fmtF32.signed s 0) ∧
            (op = .rsqrt ∨ op = .log2 → s = true → v = 0x7FC00000) ∧
            (op = .rsqrt → s = false → v = 0) ∧ (op = .log2 ∨ op = .exp2 → s = false → v = 0x7F800000) ∧
            (op = .exp2 → s = true → v = 0) ∧ (op = .sin ∨ op = .cos → v = 0x7FFFFFFF)) ∧
          (∀ s u, x = .fin s u → u.num = 0 →
            (op = .rcp ∨ op = .rsqrt → v = fmtF32.signed s 0x7F800000) ∧ (op = .exp2 ∨ op = .cos → v = 0x3F800000) ∧
            (op = .log2 → v = 0xFF800000) ∧ (op = .sin → v = fmtF32.signed s 0)) ∧
          (∀ s u, x = .fin s u → u.num ≠ 0 →
            (op = .rcp → RoundsTo fmtF32 .rne s (1 / realOf s u) v) ∧
            (op = .rsqrt ∨ op = .log2 → s = true → v = 0x7FC00000) ∧
            (op = .rsqrt → s = false → RootTo fmtF32 (1 / ratOf u) v) ∧
            (op = .sin ∨ op = .cos → 2 ^ 24 ≤ ratOf u → v = 0x7FFFFFFF) ∧
            (op = .exp2 → ∀ k : Int, realOf s u = k → -149 ≤ k → k ≤ 127 →
              ∃ q, decodeF fmtF32 v = .fin false q ∧ ratOf q = (2 : ℚ) ^ k) ∧
            (op = .log2 → s = false → ∀ k : Int, ratOf u = (2 : ℚ) ^ k →
              ∃ n q, decodeF fmtF32 v = .fin n q ∧ realOf n q = k)))) ∧
      (∀ cc n, c.op = .cmp cc et p d (.reg n) → et < 12 → cc < 6 → c.vl ≤ 2048 →
        let x (e : Nat) : FVal := c.val et (a.elem d w e)
        let y (e : Nat) : FVal := c.val et (a.elem n w e)
        let nan (e : Nat) : Prop := (x e).isNan = true ∨ (y e).isNan = true
        let holds (e : Nat) : Prop := match cc with
          | 0 => ¬ nan e ∧ numOf (x e) = numOf (y e)
          | 1 => nan e ∨ numOf (x e) ≠ numOf (y e)
          | 2 => ¬ nan e ∧ numOf (x e) < numOf (y e)
          | 3 => ¬ nan e ∧ numOf (x e) ≤ numOf (y e)
          | 4 => nan e ∨ ¬ numOf (x e) < numOf (y e)
          | _ => nan e ∨ ¬ numOf (x e) ≤ numOf (y e)
        ∃ t v g, exec .vectorQueueExecute s = .next t ∧
          t = s.setHart s.ev.h ((Hart.setP { a with vq := l } p v).orVFlags g) ∧
          ∀ e, e < 2048 → (v.getLsbD e = true ↔ e < c.vl ∧ ((e < c.eix ∧ a.pbit p e = true) ∨ (c.eix ≤ e ∧ holds e)))) ∧
      (∀ n, c.op = .scale et p d n → et < 12 → c.vl * w ≤ 1024 * c.g → d + c.g ≤ 32 →
        gives c.g w act (fun e v =>
          let k := a.elem n 8 (e / 32)
          let x := c.val et (a.elem d w e)
          (k = 255 ∨ x.isNan = true → v = f.nanCode) ∧
          (k ≠ 255 → ∀ s u, x = .fin s u → rounds c.mode s (realOf s u * (2 : ℚ) ^ ((k : Int) - 127)) v))) ∧
      (∀ n j, c.op = .red .fsum et p d n → et < 12 → d < 32 → 2 ^ j * w = 1024 * c.g → c.vl ≤ 2 ^ j →
        (∃ e, e < c.vl ∧ a.pbit p e = true) →
        let add (x y : Nat) : Nat := (c.fltElem .add et x y).1
        let leaf (e : Nat) : Option Nat := if e < c.vl ∧ a.pbit p e = true then some (a.elem n w e) else none
        gives 1 w (fun e => e = 0) (fun _ v => ∃ t, fixedTree add leaf j 0 = some t ∧ v = add (a.elem d w 0) t)) ∧
      (∀ n, c.op = .red .fsum et p d n → (∀ e, e < c.vl → a.pbit p e = false) →
        exec .vectorQueueExecute s = .next (s.setHart s.ev.h { a with vq := l }))) ∧
  (
    ∀ (s : State) (c : VCmd) (l : List VCmd) (et from_ p d n : Nat) (sr : Bool) (seed : Word) (base : Nat), Clears s c l →
      c.op = .cvt et from_ p d n sr seed base →
      let a := s.hart s.ev.h
      let wd := etWidth c.fmt et
      let ws := etWidth c.fmt from_
      let f := etFmt c.fmt et
      let act (e : Nat) : Prop := c.eix ≤ e ∧ e < c.vl ∧ a.pbit p e = true
      let mode (e : Nat) : RMode := if sr then .sr (srBits seed base e) else c.mode
      let flush (v : Nat) : Nat := if c.bfz = true ∧ f = fmtBf16 ∧ 0 < v % 2 ^ 15 ∧ v % 2 ^ 15 < 2 ^ 7 then v / 2 ^ 15 * 2 ^ 15 else v
      let rounds (m : RMode) (z : Bool) (v : ℚ) (code : Nat) : Prop := ∃ r, RoundsTo f m z v r ∧ code = flush r
      let held (i : Int) : Nat := (BitVec.ofInt wd (clamp (decide (et < 4)) wd i)).toNat
      ∀ g, c.vl * wd ≤ 1024 * g → d + g ≤ 32 →
        ∃ (t : State) (val : Nat → Nat), exec .vectorQueueExecute s = .next t ∧ OnlyVectors s t l ∧
          Elements a (t.hart s.ev.h) d g wd act (fun e => BitVec.ofNat wd (val e)) ∧
          ∀ e, act e →
            let i := asInt (decide (from_ < 4)) (el a n ws e)
            let x := c.val from_ (a.elem n ws e)
            (from_ < 8 → et < 8 → val e = held i) ∧
            (from_ < 8 → 8 ≤ et → rounds (mode e) false i (val e)) ∧
            (8 ≤ from_ → et < 8 →
              (∀ s u, x = .fin s u → ∃ j, IntRounds (mode e) s (realOf s u) j ∧ val e = held j) ∧
              (∀ s, x = .inf s → val e = held (if s then -(2 ^ 64) else 2 ^ 64)) ∧ (x.isNan = true → val e = held (2 ^ 64))) ∧
            (8 ≤ from_ → 8 ≤ et →
              (∀ s u, x = .fin s u → rounds (mode e) s (realOf s u) (val e)) ∧ (x.isNan = true → val e = f.nanCode)))

/-! ### Vector memory -/

/-- A vector memory instruction as R268 to R271 read it: what its issue asks, its width, group, predicate, the registers of its index
group, the address and nibble of each element, what its issue does to the slide buffer, its cp field, and the bits of an element's
code. -/
structure Sys2Proof.Claims.MemForm where
  req : VReq
  w : Nat
  d : Reg
  p : Nat
  idx : List Nat
  at_ : Nat → Word × Nat
  pre : Hart → Hart
  cp : Nat
  bits : Nat

/-- The address of an element at unit stride; a 4-bit element has a nibble (R270). -/
def Sys2Proof.Claims.unitAt (a : Hart) (x : Reg) (w e : Nat) : Word × Nat :=
  (a.xv x + BitVec.ofNat 64 (e * w / 8), if w = 4 then e % 2 else 0)

/-- The address of an element at a stride. -/
def Sys2Proof.Claims.strideAt (a : Hart) (x st : Reg) (e : Nat) : Word × Nat := (a.xv x + BitVec.ofNat 64 e * a.xv st, 0)

/-- The address of an indexed element: a signed 32-bit offset, of 64 bits with 64-bit elements (R271). -/
def Sys2Proof.Claims.indexAt (a : Hart) (x v : Reg) (w e : Nat) : Word × Nat :=
  (a.xv x + (if w = 64 then el a v.toNat 64 e else (el a v.toNat 32 e).signExtend 64), 0)

/-- The size of an index group (R271). -/
def Sys2Proof.Claims.gi (a : Hart) (w : Nat) : Nat := if w = 64 then 2 ^ a.vcfg.g.toNat else 2 ^ a.vcfg.g.toNat * 32 / w

/-- The vector loads (R277, R279). -/
def Sys2Proof.Claims.loadForm (a : Hart) : Instr → Option MemForm
  | .vld e p c x d =>
    let w := etWidth a.fmts e.toNat
    some ⟨a.loadReq (.vld e p c x d) false [e.toNat] w d [] (xs [x]), w, d, p.toNat, [], unitAt a x w, Hart.overwrites d, c.toNat, w⟩
  | .vldff e p c x d =>
    let w := etWidth a.fmts e.toNat
    some ⟨a.loadReq (.vldff e p c x d) false [e.toNat] w d [] (xs [x]), w, d, p.toNat, [], unitAt a x w, Hart.overwrites d, c.toNat, w⟩
  | .vqVld d x =>
    let e := a.vcfg.et.toNat
    let w := etWidth a.fmts e
    some ⟨a.loadReq (.vqVld d x) false [e] w d [] (xs [x]), w, d, 0, [], unitAt a x w, Hart.overwrites d, 0, w⟩
  | .vlds st p c z x d =>
    let w := 8 * 2 ^ z.toNat
    some ⟨a.loadReq (.vlds st p c z x d) false [] w d [] (xs [x, st]), w, d, p.toNat, [], strideAt a x st, Hart.overwrites d, c.toNat, w⟩
  | .vldx v p c z x d =>
    let w := 8 * 2 ^ z.toNat
    some ⟨a.loadReq (.vldx v p c z x d) (decide (8 < gi a w)) [] w d [(v.toNat, gi a w)] (xs [x]), w, d, p.toNat,
      span v.toNat (gi a w), indexAt a x v w, Hart.overwrites d, c.toNat, w⟩
  | .vldsr z k p c x d =>
    let w := 8 * 2 ^ z.toNat
    some ⟨a.loadReq (.vldsr z k p c x d) false [] w d [] (xs [x]), w, d, p.toNat, [],
      fun e => (a.xv x + BitVec.ofInt 64 (Shape.disp (a.shape k) true e), 0),
      fun h => { h with slide := some ⟨d.toNat, a.shape k, a.xv x, [], []⟩ }, c.toNat, w⟩
  | _ => none

/-- The vector stores (R277). -/
def Sys2Proof.Claims.storeForm (a : Hart) : Instr → Option MemForm
  | .vst e p c x d =>
    let w := etWidth a.fmts e.toNat
    some ⟨a.storeReq (.vst e p c x d) false [e.toNat] w d [] (xs [x]), w, d, p.toNat, [], unitAt a x w, id, c.toNat, etBits a.fmts e.toNat⟩
  | .vqVst d x =>
    let e := a.vcfg.et.toNat
    let w := etWidth a.fmts e
    some ⟨a.storeReq (.vqVst d x) false [e] w d [] (xs [x]), w, d, 0, [], unitAt a x w, id, 0, etBits a.fmts e⟩
  | .vsts st p c z x d =>
    let w := 8 * 2 ^ z.toNat
    some ⟨a.storeReq (.vsts st p c z x d) false [] w d [] (xs [x, st]), w, d, p.toNat, [], strideAt a x st, id, c.toNat, w⟩
  | .vstx v p c z x d =>
    let w := 8 * 2 ^ z.toNat
    some ⟨a.storeReq (.vstx v p c z x d) (decide (8 < gi a w)) [] w d [(v.toNat, gi a w)] (xs [x]), w, d, p.toNat,
      span v.toNat (gi a w), indexAt a x v w, id, c.toNat, w⟩
  | _ => none

/-- The vector atomics with their operations (R281). -/
def Sys2Proof.Claims.amoForm (a : Hart) : Instr → Option (MemForm × Nat)
  | .vamoAdd v p z x d =>
    let w := 8 * 2 ^ z.toNat
    some (⟨a.amoReq (.vamoAdd v p z x d) v w x d, w, d, p.toNat, span v.toNat (gi a w), indexAt a x v w, id, 0, w⟩, 0)
  | .vamoSwap v p z x d =>
    let w := 8 * 2 ^ z.toNat
    some (⟨a.amoReq (.vamoSwap v p z x d) v w x d, w, d, p.toNat, span v.toNat (gi a w), indexAt a x v w, id, 0, w⟩, 1)
  | .vamoMin v p z x d =>
    let w := 8 * 2 ^ z.toNat
    some (⟨a.amoReq (.vamoMin v p z x d) v w x d, w, d, p.toNat, span v.toNat (gi a w), indexAt a x v w, id, 0, w⟩, 2)
  | .vamoMax v p z x d =>
    let w := 8 * 2 ^ z.toNat
    some (⟨a.amoReq (.vamoMax v p z x d) v w x d, w, d, p.toNat, span v.toNat (gi a w), indexAt a x v w, id, 0, w⟩, 3)
  | _ => none

/-- The elements of a form that are active at issue, with their addresses (R269). -/
def Sys2Proof.Claims.formEls (a : Hart) (m : MemForm) : Els :=
  ((List.range a.vln).filter (fun e => decide (a.veix.toNat ≤ e) && a.pbit m.p e)).map (fun e => (e, m.at_ e))

/-- Every address of a list of elements is a multiple of the element's bytes. -/
def Sys2Proof.Claims.AlignedEls (w : Nat) (l : Els) : Prop := ∀ x ∈ l, x.2.1.toNat % max 1 (w / 8) = 0

/-- The hart after a vector load of the elements `rs`, translated in `u`: they hold their bytes, the other elements and registers are as
before, the group is present and unmarked, veix is 0, and no other register has changed. -/
def Sys2Proof.Claims.Loaded (s u t : State) (i : Instr) (m : MemForm) (rs : List REl) : Prop :=
  let a := s.me
  let b := t.me
  let g := 2 ^ a.vcfg.g.toNat
  (∀ x ∈ rs, b.elem m.d.toNat m.w x.e =
    if m.w = 4 then ((u.memUnder x.key).read x.pa).toNat / 16 ^ x.nib % 16 else (u.memUnder x.key).readN x.pa (m.w / 8)) ∧
  (∀ e, (e + 1) * m.w ≤ 1024 * g → (∀ x ∈ rs, x.e ≠ e) → b.elem m.d.toNat m.w e = a.elem m.d.toNat m.w e) ∧
  (∀ r : Reg, (r.toNat < m.d.toNat ∨ m.d.toNat + g ≤ r.toNat) → getReg b.v r = getReg a.v r) ∧
  (∀ r : Reg, m.d.toNat ≤ r.toNat → r.toNat < m.d.toNat + g → (getReg b.v r).pres = .present ∧ (getReg b.v r).mark = none) ∧
  b.pc = a.pc + BitVec.ofNat 64 (Instr.len i) ∧ b.veix = 0 ∧ b.x = a.x ∧ b.f = a.f ∧ b.p = a.p ∧ b.csr = a.csr ∧ b.mode = a.mode ∧
  b.vflags = a.vflags ∧ b.vcfg = a.vcfg ∧ t.mem = s.mem ∧ t.tmem = s.tmem

/-- R269, R270, R271, R272, R273, R274, R278: a vector load whose checks pass holds its issue until it has every
active element: its elements hold the bytes at their addresses, the other elements stay, the group is present, vl
stays. A misaligned element traps with cause 4 at the lowest such element; a failing first element traps with its own
cause; above the first, VLDFF cuts vl to the failing element instead. (Ordinary memory, no slide buffer held, every
element performed in one step: at most the quad's 256 line requests, none that waits at its home slice.) -/
def Obligations.VectorLoads : Prop :=
  ∀ (s : State) (i : Instr) (m : MemForm), loadForm s.me i = some m →
    (∀ z k p c x d, i = .vldsr z k p c x d → s.me.slide = none ∧ (s.me.shape k).windowStop (8 * 2 ^ z.toNat) s.me.vlmax = none) →
    s.VReady m.req → s.memWait true m.idx (span m.d.toNat (2 ^ s.me.vcfg.g.toNat)) = none → s.me.alloc ≤ 32 →
    let els := formEls s.me m
    let first : Nat := ((els.head?).map (·.1)).getD 0
    let ff : Prop := ∃ e p c x d, i = .vldff e p c x d
    let s0 := s.updMe m.pre
    let dev (n : Nat → Nat) : Prop := (ff → n = fun e => if e = first then 0 else 5) ∧ (¬ ff → n = fun _ => 0)
    let plain (u : State) (rs : List REl) : Prop :=
      (∀ x ∈ rs, isMmio x.pa = false ∧ u.badRange x.pa (max 1 (m.w / 8)) = false) ∧ u.elsNow (quadOf s.cur) false rs = rs
    (∀ n u rs, dev n → AlignedEls m.w els → s0.resolve .load m.cp n els = (u, rs, none) → plain u rs →
      ∃ t, exec i s = .next t ∧ rs.map (fun x => (x.e, x.va, x.nib)) = els ∧ Loaded s u t i m rs ∧ t.me.vl = s.me.vl) ∧
    (∀ n u rs e c va, ff → dev n → AlignedEls m.w els → s0.resolve .load m.cp n els = (u, rs, some (e, .trap c va)) → plain u rs →
      e ≠ first →
      ∃ t, exec i s = .next t ∧ Loaded s u t i m rs ∧ t.me.vl = e) ∧
    (∀ n u c va, dev n → AlignedEls m.w els → s0.resolve .load m.cp n els = (u, [], some (first, .trap c va)) →
      exec i s = .next (u.updMe (fun h => h.trap c va first))) ∧
    (∀ l e va nib r, els = l ++ (e, va, nib) :: r → AlignedEls m.w l → va.toNat % max 1 (m.w / 8) ≠ 0 →
      exec i s = .next (s0.updMe (fun h => h.trap 4 va e)))

/-- R272, R273, R274, R276, R281: a vector store or VAMO whose checks pass enters the queue with its active elements
and their translated addresses and goes on; a misaligned element takes cause 6. When the store executes, each byte it
covers holds its source element's byte (the bits of a narrow format's container above its width as 0), of the higher
element where two meet, and no other byte changes; a 4-bit
element changes its nibble alone. A VAMO's element writes its operation's result and receives the old value. -/
def Obligations.VectorStores : Prop :=
  let issues (s : State) (i : Instr) (m : MemForm) (dev : Nat) (op : List QEl → VOp) (u : State) (rs : List REl) : Prop :=
    s.resolve .store m.cp (fun _ => dev) (formEls s.me m) = (u, rs, none) →
    ∃ t c, exec i s = .next t ∧ rs.map (fun x => (x.e, x.va, x.nib)) = formEls s.me m ∧ t.me.vq = s.me.vq.concat c ∧
      c.op = op (rs.map (fun x => ⟨x.e, 2 * x.pa + x.nib, x.page, x.tr, x.np, x.key⟩)) ∧ c.fmt = s.me.fmts ∧ c.g = 2 ^ s.me.vcfg.g.toNat ∧
      t.me.pc = s.me.pc + BitVec.ofNat 64 (Instr.len i) ∧ t.me.veix = 0 ∧ t.me.x = s.me.x ∧ t.me.f = s.me.f ∧ t.me.p = s.me.p ∧
      t.me.csr = s.me.csr ∧ t.me.mode = s.me.mode ∧ t.me.vflags = s.me.vflags ∧ t.mem = s.mem ∧ t.tmem = s.tmem ∧
      (∀ r : Reg, (getReg t.me.v r).val = (getReg s.me.v r).val)
  let misaligned (s : State) (i : Instr) (m : MemForm) : Prop :=
    ∀ l e va nib r, formEls s.me m = l ++ (e, va, nib) :: r → AlignedEls m.w l → va.toNat % max 1 (m.w / 8) ≠ 0 →
      exec i s = .next (s.updMe (fun h => h.trap 6 va e))
  let covers (w : Nat) (x : QEl) (z : Nat) : Prop := x.at_ / 2 ≤ z ∧ z < x.at_ / 2 + max 1 (w / 8)
  (∀ (s : State) (i : Instr) (m : MemForm), storeForm s.me i = some m → s.VIssues m.req →
    s.memWait (decide (m.p ≠ 0) || !m.idx.isEmpty) m.idx [] = none →
    misaligned s i m ∧ (∀ u rs, AlignedEls m.w (formEls s.me m) → u.storeBad m.w true rs = none →
      issues s i m 0 (fun l => .store m.d.toNat m.w m.bits l) u rs)) ∧
  (∀ (s : State) (i : Instr) (m : MemForm) (op : Nat), amoForm s.me i = some (m, op) → s.VReady m.req →
    s.memWait true (m.idx ++ span m.d.toNat (2 ^ s.me.vcfg.g.toNat)) (span m.d.toNat (2 ^ s.me.vcfg.g.toNat)) = none →
    misaligned s i m ∧ (∀ u rs, AlignedEls m.w (formEls s.me m) → u.storeBad m.w false rs = none → (∀ x ∈ rs, isHost x.pa = false) →
      issues s i m 7 (fun l => .amo op m.d.toNat m.w l) u rs)) ∧
  (∀ (s : State) (c : VCmd) (l : List VCmd) (d w bits : Nat) (els : List QEl), Clears s c l → c.op = .store d w bits els →
    (∀ x ∈ els, isMmio (x.at_ / 2) = false) → s.elemsNow s.ev.h els = els →
    ∃ t, exec .vectorQueueExecute s = .next t ∧ t.tmem = s.tmem ∧ t.hart s.ev.h = { s.hart s.ev.h with vq := l } ∧
      (∀ z, (∀ x ∈ els, ¬ covers w x z) → t.mem.read z = s.mem.read z) ∧
      (w ≠ 4 → ∀ l1 x l2 k, els = l1 ++ x :: l2 → k < w / 8 → (∀ y ∈ l2, ¬ covers w y (x.at_ / 2 + k)) →
        t.mem.read (x.at_ / 2 + k) = BitVec.ofNat 8 ((s.hart s.ev.h).elem d w x.e % 2 ^ bits / 256 ^ k)) ∧
      (w = 4 → bits = 4 → ∀ x, els = [x] → (t.mem.read (x.at_ / 2)).toNat =
        if x.at_ % 2 = 0 then ((s.memUnder x.key).read (x.at_ / 2)).toNat / 16 * 16 + (s.hart s.ev.h).elem d 4 x.e
        else ((s.memUnder x.key).read (x.at_ / 2)).toNat % 16 + 16 * (s.hart s.ev.h).elem d 4 x.e)) ∧
  (∀ (s : State) (c : VCmd) (l : List VCmd) (op d e pa page np key : Nat) (tr : Treat) (z : BitVec 2), Clears s c l →
    let w := 8 * 2 ^ z.toNat
    let old := BitVec.ofNat w ((s.memUnder key).readN pa (w / 8))
    let v := el (s.hart s.ev.h) d w e
    let new : BitVec w := match op with
      | 0 => old + v
      | 1 => v
      | 2 => if old.toInt ≤ v.toInt then old else v
      | _ => if old.toInt ≤ v.toInt then v else old
    c.op = .amo op d w [⟨e, 2 * pa, page, tr, np, key⟩] → s.elemBusy s.ev.h ⟨e, 2 * pa, page, tr, np, key⟩ = false → d + c.g ≤ 32 → (e + 1) * w ≤ 1024 * c.g →
    ∃ t, exec .vectorQueueExecute s = .next t ∧ t.mem.readN pa (w / 8) = new.toNat ∧
      (∀ y, y < pa ∨ pa + w / 8 ≤ y → t.mem.read y = s.mem.read y) ∧ t.tmem = s.tmem ∧ el (t.hart s.ev.h) d w e = old ∧
      (∀ k, (k + 1) * w ≤ 1024 * c.g → k ≠ e → (t.hart s.ev.h).elem d w k = (s.hart s.ev.h).elem d w k) ∧
      (∀ r : Reg, d ≤ r.toNat → r.toNat < d + c.g → (getReg (t.hart s.ev.h).v r).pres = .present))

/-! ### Graphics -/

/-- A graphics instruction passes its checks and waits up to the record it reads (R352). -/
def Sys2Proof.Claims.Draws (s : State) (i : Instr) (pre : List (Option Stop)) (src dst : List (RFile × Nat)) (rd wr : List Nat) : Prop :=
  (∀ c ∈ pre, c = none) ∧ s.VReady { i := i, src := src, dst := dst, vl := s.me.vl, g := s.me.gsz, op := .push false } ∧
  s.memWait true rd wr = none

/-- The line of ordinary memory that holds a record of the instruction is readable at once. -/
def Sys2Proof.Claims.HasRecord (s : State) (va : Word) (c : Acc) : Prop :=
  s.access s.cur (s.vreqOf s.cur) va .load 0 0 = .ok c ∧ isMmio c.pa = false ∧ c.readStop va = none

/-- The hart has gone on by 4 with veix 0, and changed neither its x and f registers, its CSRs, its flags nor memory. -/
def Sys2Proof.Claims.DrawnOnly (s t : State) : Prop :=
  t.me.pc = s.me.pc + 4 ∧ t.me.veix = 0 ∧ t.me.x = s.me.x ∧ t.me.f = s.me.f ∧ t.me.csr = s.me.csr ∧ t.me.mode = s.me.mode ∧
  t.me.vl = s.me.vl ∧ t.me.vcfg = s.me.vcfg ∧ t.me.vflags = s.me.vflags ∧ t.mem = s.mem ∧ t.tmem = s.tmem

/-- Predicate `p` of the hart holds `bit e` from veix to vl, its old bits below veix and zeros above; nothing else is written. -/
def Sys2Proof.Claims.WritesPred (s t : State) (p : Nat) (bit : Nat → Prop) : Prop :=
  DrawnOnly s t ∧ t.me.v = s.me.v ∧ (∀ q, q % 8 ≠ p % 8 → t.me.pv q = s.me.pv q) ∧
  ∀ e, e < 2048 → ((t.me.pv p).getLsbD e = true ↔
    e < s.me.vln ∧ ((e < s.me.veix.toNat ∧ s.me.pbit p e = true) ∨ (s.me.veix.toNat ≤ e ∧ bit e)))

/-- R354 to R358: VEDGE writes, for each lane, whether its three edge functions are positive, or zero on a top or left
edge; VRBOX whether the lane's ray meets the selected box of the node record (R357's test, `boxHit`); VRTRI the three
groups t, u and v that R358's test (`triHit`) gives each active lane. They go on by 4 with veix 0 and change nothing
else. A misaligned record takes cause 4 with its address and a set reserved bit of an edge record cause 31 with 1. -/
def Obligations.RasterAndRays : Prop :=
  (∀ (s : State) (p : BitVec 3) (x d : Reg) (c : Acc),
    let g := 2 ^ s.me.vcfg.g.toNat
    let wd (k : Nat) : Nat := c.mem.readN (c.pa + 8 * k) 8
    let off := s.me.xv (x + 1)
    let px (e : Nat) : Int := (((s.me.elem d.toNat 32 e) % 65536 : Nat) : Int) + (off.setWidth 16).toInt
    let py (e : Nat) : Int := (((s.me.elem d.toNat 32 e) / 65536 : Nat) : Int) + ((off >>> 16).setWidth 16).toInt
    let edge (i e : Nat) : Int := (BitVec.ofNat 32 (wd (2 * i))).toInt * px e + (BitVec.ofNat 32 (wd (2 * i) / 2 ^ 32)).toInt * py e +
      (BitVec.ofNat 64 (wd (2 * i + 1))).toInt
    s.me.vw = 32 → Draws s (.vedge p x d) [s.me.groupStop d.toNat g] (xs [x, x + 1] ++ vgroup d.toNat g) [] (span d.toNat g) [] →
    ((s.me.xv x).toNat % 64 ≠ 0 →
      exec (.vedge p x d) s = .next (s.updMe (fun h => h.trap 4 (s.me.xv x) s.me.veix.toNat))) ∧
    ((s.me.xv x).toNat % 64 = 0 → HasRecord s (s.me.xv x) c → wd 6 < 8 → wd 7 = 0 → s.me.vln ≤ 2048 →
      ∃ t, exec (.vedge p x d) s = .next t ∧
        WritesPred s t p.toNat (fun e => ∀ i, i < 3 → 0 < edge i e ∨ (edge i e = 0 ∧ wd 6 / 2 ^ i % 2 = 1))) ∧
    ((s.me.xv x).toNat % 64 = 0 → HasRecord s (s.me.xv x) c → 8 ≤ wd 6 →
      exec (.vedge p x d) s = .next (s.updMe (fun h => h.trap 31 1 s.me.veix.toNat)))) ∧
  (∀ (s : State) (p : BitVec 3) (x d : Reg) (c : Acc),
    let g := 2 ^ s.me.vcfg.g.toNat
    let va := s.me.xv x
    let box := if va.getLsbD 5 then c.pa + 32 else c.pa
    s.me.vw = 32 → Draws s (.vrbox p x d) [s.me.blockStop d.toNat g 8] (xs [x] ++ vgroup d.toNat (8 * g)) [] (span d.toNat (8 * g)) [] →
    va.toNat % 32 = 0 → HasRecord s (va &&& ~~~63#64) c → s.me.vln ≤ 2048 →
    ∃ t, exec (.vrbox p x d) s = .next t ∧
      WritesPred s t p.toNat (fun e => boxHit (fun k => decodeF fmtF32 (s.me.elem (d.toNat + k * g) 32 e))
        (fun k => decodeF fmtF32 (c.mem.readN (box + 4 * k) 4)) = true)) ∧
  (∀ (s : State) (p : BitVec 3) (x d : Reg) (c : Acc),
    let g := 2 ^ s.me.vcfg.g.toNat
    let va := s.me.xv x
    let r := va.toNat % 32
    let act (e : Nat) : Prop := s.me.veix.toNat ≤ e ∧ e < s.me.vln ∧ s.me.pbit p.toNat e = true
    s.me.vw = 32 → Draws s (.vrtri p x d) [s.me.blockStop d.toNat g 3, s.me.presentAll (xs [x]), s.me.blockStop r g 8]
      (xs [x] ++ vgroup r (8 * g)) (vgroup d.toNat (3 * g)) (span r (8 * g)) (span d.toNat (3 * g)) →
    va.getLsbD 5 = false → HasRecord s (va &&& ~~~63#64) c → s.me.alloc ≤ 32 →
    ∃ t, exec (.vrtri p x d) s = .next t ∧ DrawnOnly s t ∧ t.me.p = s.me.p ∧
      (∀ e k, act e → k < 3 → some (t.me.elem (d.toNat + k * g) 32 e) =
        ((triHit (fun k => decodeF fmtF32 (s.me.elem (r + k * g) 32 e))
          (fun k => decodeF fmtF32 (c.mem.readN (c.pa + 16 * (k / 3) + 4 * (k % 3)) 4)))[k]?).map (· % 2 ^ 32)) ∧
      (∀ e k, (e + 1) * 32 ≤ 1024 * g → k < 3 → ¬ act e →
        t.me.elem (d.toNat + k * g) 32 e = s.me.elem (d.toNat + k * g) 32 e) ∧
      (∀ q : Reg, (q.toNat < d.toNat ∨ d.toNat + 3 * g ≤ q.toNat) → getReg t.me.v q = getReg s.me.v q))

/-- R359 to R363: VTEX and VTEXL whose lanes are all read make the block of four groups present and go on by 4 with
veix 0, changing no memory. A lane with a NaN or infinite coordinate gets four zeros. Under the nearest filter with
one level of 8-bit channels, a lane gets the f32 of each byte of the texel at floor(u × width), floor(v × height),
wrapped, over 255. A reserved value of the descriptor takes cause 31 with its register's place. R364 to R366: BLENDC
whose ticket's turn has come blends every covered pixel of its tile and leaves every other byte of memory; its hart stays
parked until the write of COMMIT, a step of its own that raises COMMIT by 1 and goes on by 4; no register changes. Before
its turn it parks, and past the queue limit a hart parked so whose turn has not come takes cause 31 with 0. (Without a
pass object; that the blend and the write of COMMIT are two steps is log 60's reading of R429.) -/
def Obligations.TexturesAndBlending : Prop :=
  (
    ∀ (s : State) (given : Bool) (p : BitVec 3) (x d : Reg),
      let i : Instr := if given then .vtexl p x d else .vtex p x d
      let g := 2 ^ s.me.vcfg.g.toNat
      let k := if given then 3 else 2
      let w0 := (s.me.xv x).toNat
      let w1 := (s.me.xv (x + 1)).toNat
      let nx := w1 % 2 ^ 14 + 1
      let ny := w1 / 2 ^ 14 % 2 ^ 14 + 1
      let u (e : Nat) : FVal := decodeF fmtF32 (s.me.elem d.toNat 32 e)
      let v (e : Nat) : FVal := decodeF fmtF32 (s.me.elem (d.toNat + g) 32 e)
      let act := (List.range s.me.vln).filter (fun e => decide (s.me.veix.toNat ≤ e) && s.me.pbit p.toNat e)
      let fits : Prop := w0 / 16 % 16 < 10 ∧ w0 / 4 % 4 ≠ 3 ∧ w0 % 4 ≠ 3 ∧ w1 / 2 ^ 48 = 0
      let off (e : Nat) : Prop := ∃ z, (z = u e ∨ z = v e) ∧ (z.isNan = true ∨ z.isInf = true)
      let same (t : State) (l : List Nat) : Prop :=
        DrawnOnly s t ∧ t.me.p = s.me.p ∧
        (∀ e c, (e + 1) * 32 ≤ 1024 * g → c < 4 → e ∉ l →
          t.me.elem (d.toNat + c * g) 32 e = s.me.elem (d.toNat + c * g) 32 e) ∧
        (∀ q : Reg, (q.toNat < d.toNat ∨ d.toNat + 4 * g ≤ q.toNat) → getReg t.me.v q = getReg s.me.v q) ∧
        (∀ q : Reg, d.toNat ≤ q.toNat → q.toNat < d.toNat + 4 * g → (getReg t.me.v q).pres = .present)
      s.me.vw = 32 → s.me.alloc ≤ 32 →
      Draws s i [s.me.blockStop d.toNat g 4] (xs [x, x + 1] ++ vgroup d.toNat (k * g)) (vgroup d.toNat (4 * g)) (span d.toNat (4 * g))
        (span d.toNat (4 * g)) →
      ((∀ e ∈ act, off e) → lanesNow act = act → fits →
        ∃ t, exec i s = .next t ∧ same t act ∧ ∀ e c, e ∈ act → c < 4 → t.me.elem (d.toNat + c * g) 32 e = 0) ∧
      (∀ e c, act = [e] → fits → ¬ off e → w0 % 256 / 4 = 0 → w1 / 2 ^ 28 % 16 = 0 →
        let ix := wrapIndex (w0 % 4) nx (scaled256 (u e).exact nx / 256)
        let iy := wrapIndex (w0 % 4) ny (scaled256 (v e).exact ny / 256)
        State.access { s with fresh := s.fresh + 1 } s.cur (s.vreqOf s.cur) (BitVec.ofNat 64 (w0 / 256 * 256 + (iy * nx + ix) * 4)) .load 0 7 = .ok c →
        c.readStop (BitVec.ofNat 64 (w0 / 256 * 256 + (iy * nx + ix) * 4)) = none →
        ∃ t, exec i s = .next t ∧ same t act ∧
          ∀ k, k < 4 → t.me.elem (d.toNat + k * g) 32 e =
            (roundVal fmtF32 .rne false (ratio (c.mem.readN c.pa 4 / 256 ^ k % 256) 255)).1) ∧
      (w0 % 4 = 3 → exec i s = .next (s.updMe (fun h => h.trap 31 0 s.me.veix.toNat))) ∧
      (w0 / 16 % 16 < 10 → w0 / 4 % 4 ≠ 3 → w0 % 4 ≠ 3 → w1 / 2 ^ 48 ≠ 0 →
        exec i s = .next (s.updMe (fun h => h.trap 31 1 s.me.veix.toNat)))) ∧
  (
    (∀ (s : State) (p : BitVec 3) (x d : Reg) (c : Acc) (va0 va1 : Word) (tile rc : Acc) (u : State),
      let x1 := s.me.xv (x + 1)
      let bytes := c.mem.readBytes c.pa 64
      let ticket := x1.toNat / 2 ^ 32
      let commit := (u.memUnder rc.key).readN (rc.pa + 4) 4
      Draws s (.blendc p x d) [s.me.groupStop d.toNat 2] (xs [x, x + 1] ++ vgroup d.toNat 2) [] (span d.toNat 2) [] →
      (s.me.xv x).toNat % 64 = 0 → HasRecord s (s.me.xv x) c → blendBad bytes x1 = false →
      (c.reached 64).targets (blendTargets bytes x1) = .ok ([(va0, tile), (va1, rc)], u) →
      targetStop7 (va0, tile) = none → targetStop7 (va1, rc) = none → u.targetWait (va1, rc) [0] = none →
      (ticket = commit → u.targetWait (va0, tile) (s.me.pixels p.toNat) = none →
        ∃ t, exec (.blendc p x d) s = .next t ∧
          t.me.park = some (.commit (rc.pa + 4) rc.key (rc.e.va / 4096) (rc.e.size / 4096)) ∧
          (∀ k j, k < 64 → j < 4 →
            let src := s.me.elem d.toNat 32 k
            let al := src / 2 ^ 24
            let ch := if j = 3 then 255 else src / 256 ^ j % 256
            s.me.pbit p.toNat k = true → (t.mem.read (tile.pa + 4 * k + j)).toNat =
              (ch * al + ((u.memUnder tile.key).read (tile.pa + 4 * k + j)).toNat * (255 - al) + 127) / 255) ∧
          (∀ z, (∀ k, k < 64 → s.me.pbit p.toNat k = true → z < tile.pa + 4 * k ∨ tile.pa + 4 * k + 4 ≤ z) →
            t.mem.read z = s.mem.read z) ∧ t.tmem = s.tmem ∧ t.me.pc = s.me.pc ∧ SameRegs s.me t.me) ∧
      (ticket ≠ commit → (ticket + 2 ^ 32 - commit) % 2 ^ 32 < 2 ^ 31 →
        ∃ t, exec (.blendc p x d) s = .next t ∧ t.me.park = some (.blend (rc.pa + 4) ticket) ∧ t.me.pc = s.me.pc ∧ t.mem = s.mem)) ∧
    (∀ (s : State) (p : BitVec 3) (x d : Reg) (pa key w n : Nat), s.me.park = some (.commit pa key w n) →
      Tab.get s.bias (pageOf pa) 0 < 2 → s.sliceBusy (quadOf s.cur) pa true none = false → s.mustSnoop s.cur pa true = false →
      ∃ t, exec (.blendc p x d) s = .next t ∧ t.mem.readN pa 4 = ((s.memUnder key).readN pa 4 + 1) % 2 ^ 32 ∧
        (∀ z, (z < pa ∨ pa + 4 ≤ z) → t.mem.read z = s.mem.read z) ∧ t.tmem = s.tmem ∧
        t.me.pc = s.me.pc + 4 ∧ SameRegs { s.me with veix := 0 } t.me) ∧
    (∀ (s : State) (pa ticket : Nat), (s.hart s.ev.h).park = some (.blend pa ticket) → s.commitAt pa ≠ ticket →
      s.past (quadOf s.ev.h) (s.queueLimit s.ev.h) (s.hart s.ev.h).sinceQ = true →
      exec .blendcQueueLimit s = .next (s.setHart s.ev.h ((s.hart s.ev.h).trap 31 0 (s.hart s.ev.h).veix.toNat))))

/-! ### The matrix engine -/

/-- What every matrix instruction asks of its issue (R177, R339): no pop of its own is awaited, its formats are valid, its groups fit, its
sources are present and unmarked, its destinations not pending, no error is due, and the queue has room. -/
def Sys2Proof.Claims.MatrixReady (s : State) (ets : List Nat) (groups : List (Nat × Nat)) (src dst : List Reg) (vdst : List (RFile × Nat)) :
    Prop :=
  let a := s.me
  let vsrc := if vdst = [] then groups.flatMap (fun g => vgroup g.1 g.2) else []
  let q := s.quad (quadOf s.cur)
  a.park ≠ some .pop ∧ (∀ e ∈ ets, a.fmtInvalid e = false) ∧ (∀ g ∈ groups, a.groupStop g.1 g.2 = none) ∧
  a.markedAny (xs src ++ vsrc) = none ∧ a.presentAll (xs src) = none ∧ a.due false true true = none ∧ a.presentAll vsrc = none ∧
  a.ownedAll (xs dst ++ vdst) = none ∧ (q.mq.filter (fun c => c.hart == s.cur)).length < 8 ∧ q.mq.length < 32

/-- The tile that a handle word names holds at least what the instruction reads or writes (R39). -/
def Sys2Proof.Claims.TileFits (s : State) (hw : Word) (fits : TileEntry → Prop) : Prop :=
  ∃ t, s.tileOf (s.partOf s.cur) hw = some t ∧ fits t.e

/-- The instruction has entered the quad's queue as its youngest command; its hart goes on by 4, or parks until its pop is made. -/
def Sys2Proof.Claims.MatrixEnters (s t : State) (pops : Bool) (op : MOp) : Prop :=
  let q := quadOf s.cur
  (∃ c, (t.quad q).mq = (s.quad q).mq.concat c ∧ c.op = op ∧ c.hart = s.cur ∧ c.fmt = s.me.fmts ∧ c.bfz = s.me.vcfg.bfz ∧
    c.popped = !pops) ∧
  (pops = false → t.me.pc = s.me.pc + 4) ∧ (pops = true → t.me.pc = s.me.pc ∧ t.me.park = some .pop) ∧
  (t.quad q).acc = (s.quad q).acc ∧ (∀ r : Reg, (getReg t.me.v r).val = (getReg s.me.v r).val ∧ t.me.fv r = s.me.fv r ∧ t.me.xv r = s.me.xv r) ∧
  t.me.p = s.me.p ∧ t.me.csr = s.me.csr ∧ t.me.mode = s.me.mode ∧ t.me.vflags = s.me.vflags ∧ t.mem = s.mem ∧ t.tmem = s.tmem

/-- A register number as a matrix source of a kind: a vector register, a feed, or a tile by its handle word. -/
def Sys2Proof.Claims.matrixSrc (s : State) (kind : BitVec 2) (a : Reg) : MSrc :=
  match kind with
  | 0 => .vec a.toNat
  | 1 => .feed (a.toNat % 4)
  | _ => .tile (s.me.xv a)

/-- R177, R337 to R346, R348: a matrix instruction whose checks pass enters its quad's queue with its captured
operands; MLDB sets the type record of its stationary tile then, and MCFG makes its destination pending. A row field
out of range takes cause 31 with the row register's value. -/
def Obligations.MatrixIssues : Prop :=
  let bits (x : Word) (lo n : Nat) : Nat := x.toNat / 2 ^ lo % 2 ^ n
  (∀ (s : State) (a : Reg) (add : Bool) (m : BitVec 2) (e : BitVec 4) (k t : BitVec 2) (d : Reg) (r : Nat × Word),
    let x := s.me.xv d
    let w := etWidth s.me.fmts e.toNat
    let kk := if w = 16 then 16 else if w = 8 then 32 else 64
    MatrixReady s [e.toNat] (if k = 0 then [(a.toNat, 1)] else []) (if k = 2 then [d, a] else [d]) [] [] →
    (128 ≤ bits x 0 16 → exec (.mrow a add m e k t d) s = .next (s.updMe (fun h => h.trap 31 x 0))) ∧
    (bits x 0 16 < 128 → ((s.quad (quadOf s.cur)).m[m.toNat]'(m.isLt)).kind = some r → etWidth (List.replicate 4 r.2) r.1 = w →
      (k = 2 → TileFits s (s.me.xv a) (fun i => bits x 16 16 < i.rows ∧ kk ≤ i.cols ∧ etWidth s.me.fmts i.ty = w)) →
      ∃ u, exec (.mrow a add m e k t d) s = .next u ∧ MatrixEnters s u (t.getLsbD 0)
        (.row add (t.getLsbD 1) (t.getLsbD 0) m.toNat e.toNat (bits x 0 16) (bits x 16 16) (matrixSrc s k a) r))) ∧
  (∀ (s : State) (a e : Reg) (t : BitVec 2) (d : Reg),
    let x := s.me.xv d
    MatrixReady s [] [(a.toNat, 2)] [d, e] [] [] → bits x 0 16 < 128 → bits x 16 16 < 128 →
    ∃ u, exec (.msca a e t d) s = .next u ∧ MatrixEnters s u (t.getLsbD 0)
      (.sca (t.getLsbD 1) (t.getLsbD 0) (bits x 0 16) (bits x 16 16) (s.me.xv e).toInt a.toNat)) ∧
  (∀ (s : State) (a d : Reg), MatrixReady s [] [] [a] [d] [] →
    ((s.me.xv a).toNat < 16 → ∃ u n, exec (.mcfg a d) s = .next u ∧ MatrixEnters s u false (.cfg d.toNat (s.me.xv a) n) ∧
      (∀ k : Fin 4, n.testBit k.val = ((s.quad (quadOf s.cur)).m[k]).kind.isSome) ∧ (d ≠ 0 → (u.me.cond .x d.toNat).1 = .pending)) ∧
    (16 ≤ (s.me.xv a).toNat → exec (.mcfg a d) s = .next (s.updMe (fun h => h.trap 31 (s.me.xv a) 0)))) ∧
  (∀ (s : State) (a : Reg) (e : BitVec 4) (k : BitVec 2) (c v : Bool) (d : Reg),
    let w := etWidth s.me.fmts e.toNat
    let kk := if w = 16 then 16 else if w = 8 then 32 else 64
    MatrixReady s [e.toNat] (if k = 0 then [(a.toNat, 8)] else []) (if k = 2 then [a] else []) [] [] →
    (k = 2 → TileFits s (s.me.xv a) (fun i => kk * 256 ≤ i.rows * i.cols ∧ etWidth s.me.fmts i.ty = w)) →
    ∃ u, exec (.mldb a e k c v d) s = .next u ∧
      MatrixEnters s u (c || v) (.ldb c v (d.toNat % 4) (d.toNat / 4) e.toNat (matrixSrc s k a)) ∧
      ((u.quad (quadOf s.cur)).m[d.toNat % 4]'(Nat.mod_lt _ (by decide))).kind =
        some (e.toNat, if e.toNat < 12 then 0 else s.me.fmts.getD (e.toNat - 12) 0) ∧
      (∀ j : Fin 4, ((u.quad (quadOf s.cur)).m[j]).bits = ((s.quad (quadOf s.cur)).m[j]).bits)) ∧
  (∀ (s : State) (a : Reg),
    let x := s.me.xv a
    MatrixReady s [] [] [a] [] [] →
    (bits x 0 16 + bits x 16 16 ≤ 128 →
      ∃ u, exec (.mzero a) s = .next u ∧ MatrixEnters s u false (.zero (bits x 0 16) (bits x 16 16))) ∧
    (128 < bits x 0 16 + bits x 16 16 → exec (.mzero a) s = .next (s.updMe (fun h => h.trap 31 x 0)))) ∧
  (∀ (s : State) (a : Reg) (e : BitVec 4) (push : Bool) (d : Reg),
    let x := s.me.xv a
    let g := if e = 10 then 8 else 4
    MatrixReady s [] [(d.toNat, g)] [a] [] (vgroup d.toNat g) → bits x 0 16 < 128 →
    ∃ u, exec (.mrd a e push d) s = .next u ∧ MatrixEnters s u false (.rd push e.toNat d.toNat (bits x 0 16)) ∧
      (∀ n ∈ vgroup d.toNat g, (u.me.cond .v n.2).1 = .present)) ∧
  (∀ (s : State) (i : Instr) (ext add push : Bool) (et : Nat) (a b d : Reg),
    (i, ext, add, push, et) ∈ [(Instr.mdrainSt a push b d, false, false, push, 10), (.mdrainAdd a push b d, false, true, push, 10),
      (.mdrainxSt a (BitVec.ofNat 4 et) b d, true, false, false, et), (.mdrainxAdd a (BitVec.ofNat 4 et) b d, true, true, false, et)] →
    et < 16 →
    let x := s.me.xv d
    let lo := bits x 0 16
    let hi := bits x 16 16
    let wk := s.me.xv b
    MatrixReady s (if ext then [et] else []) [] (if b = 0 then [d, a] else [d, a, b, b + 1]) [] [] →
    ((hi = 0 ∨ 128 < lo + hi) → exec i s = .next (s.updMe (fun h => h.trap 31 x 0))) ∧
    (0 < hi → lo + hi ≤ 128 →
      (b ≠ 0 → wk.toNat < 2 ^ 21 ∧ bits wk 14 2 = 0 ∧ bits wk 16 5 ≠ 0 ∧ bits wk 0 14 < 12288 ∧ s.partOf (bits wk 0 14) = s.partOf s.cur) →
      TileFits s (s.me.xv a) (fun i => bits x 32 16 + hi ≤ i.rows ∧ 256 ≤ i.cols ∧
        if ext then etWidth s.me.fmts i.ty = etWidth s.me.fmts et else i.ty = 10) →
      ∃ u, exec i s = .next u ∧ MatrixEnters s u false
        (.drain ext add push et lo hi (bits x 32 16) (s.me.xv a) (if b = 0 then none else some (wk, s.me.xv (b + 1))))))

/-- The head of a quad's matrix queue may act: its tokens are popped, no push of it is held, and nothing it reads or writes is
awaited. -/
def Sys2Proof.Claims.MatrixHead (s : State) (c : MCmd) (l : List MCmd) : Prop :=
  let q := s.ev.q
  (s.quad q).mq = c :: l ∧ c.popped = true ∧ (s.quad q).held = [] ∧ s.mqWaits q c = false ∧ s.ev.stuck = [] ∧
  (s.hart c.hart).runs c.task = true

/-- Code `n` of an accumulator row. -/
def Sys2Proof.Claims.accCode (a : Quad) (row n : Nat) : BitVec 32 := BitVec.ofNat 32 ((Tab.get a.acc row 0).toNat / 2 ^ (32 * n))

/-- R206, R336 to R345, R348: what the head of a matrix queue does when it acts: MROW writes its row's 256 exact sums
(R209), MSCA the scaled sums, MZERO +0 into its rows, MRD the codes of its row into its group, MLDB 1,024 bytes of a
vector group into its stationary tile, MCFG lands its answer, and a drain reads its rows. Other rows keep their codes,
and the head leaves the queue. R44, R139, R345, R346, R433: DRAIN_COMPLETE of a one-row f32 store whose banks are on
writes its 256 codes into its tile row and no other byte of tile storage, and the drain retires, its wake sent. A pop
or push held past its partition's limit is abandoned: a VFIFO push leaves its queue, is logged as unit 6 cause 31 and
owed to its hart; a VFIFO pop leaves its queue and its parked hart takes cause 31 with 0. -/
def Obligations.MatrixWorkRuns : Prop :=
  (
    ∀ (s : State) (c : MCmd) (l : List MCmd), MatrixHead s c l →
      let q := s.ev.q
      let a := s.quad q
      let h := s.hart c.hart
      let leaves (t : State) : Prop := (t.quad q).mq = l ∧ t.mem = s.mem ∧ t.tmem = s.tmem
      let keeps (t : State) (hit : Nat → Prop) : Prop := ∀ r n, ¬ hit r → n < 256 → accCode (t.quad q) r n = accCode a r n
      (∀ add pop m et lo hi r rec_, c.op = .row add false pop m et lo hi (.vec r) rec_ → m < 4 →
        let w := etWidth c.fmt et
        let kk := if w = 16 then 16 else if w = 8 then 32 else 64
        let av (k : Nat) : FVal := matrixVal c.fmt c.bfz et ((h.vv r).toNat / 2 ^ (w * k) % 2 ^ w)
        let bv (k n : Nat) : FVal := matrixVal (List.replicate 4 rec_.2) c.bfz rec_.1
          ((a.m[m % 4]'(Nat.mod_lt _ (by decide))).bits.toNat / 2 ^ ((k * 256 + n) * w) % 2 ^ w)
        let sum (n : Nat) : Nat × Flags := exactRow q (if add then some (accCode a lo n).toNat else none)
          ((List.range kk).map av) ((List.range kk).map (fun k => bv k n))
        (w = 16 ∨ w = 8 ∨ w = 4) →
        ∃ t, exec .matrixQueueExecute s = .next t ∧ leaves t ∧ keeps t (fun r => r = lo) ∧
          (∀ n, n < 256 → accCode (t.quad q) lo n = BitVec.ofNat 32 (sum n).1) ∧
          (t.hart c.hart).vflags = (List.range 256).foldl (fun f n => f ||| (sum n).2) h.vflags) ∧
      (∀ pop lo hi ea eb, c.op = .sca false pop lo hi ea eb →
        let code (n : Nat) : Nat × Flags :=
          if h.elem eb 8 n = 255 then (nanPayload q 0x1FFF, fNV)
          else scaleAdd q (accCode a lo n).toNat (accCode a hi n).toNat (ea + h.elem eb 8 n - 127)
        ∃ t, exec .matrixQueueExecute s = .next t ∧ leaves t ∧ keeps t (fun r => r = lo) ∧
          (∀ n, n < 256 → accCode (t.quad q) lo n = BitVec.ofNat 32 (code n).1)) ∧
      (∀ lo n, c.op = .zero lo n →
        ∃ t, exec .matrixQueueExecute s = .next t ∧ leaves t ∧ keeps t (fun r => lo ≤ r ∧ r < lo + n) ∧
          (∀ r k, lo ≤ r → r < lo + n → accCode (t.quad q) r k = 0) ∧ t.hart c.hart = s.hart c.hart) ∧
      (∀ d lo, c.op = .rd false 10 d lo → d + 8 ≤ 32 →
        ∃ t, exec .matrixQueueExecute s = .next t ∧ leaves t ∧ keeps t (fun _ => False) ∧
          (∀ n, n < 256 → el (t.hart c.hart) d 32 n = accCode a lo n) ∧
          (∀ r : Reg, (r.toNat < d ∨ d + 8 ≤ r.toNat) → getReg (t.hart c.hart).v r = getReg h.v r) ∧
          (t.hart c.hart).vflags = h.vflags ∧ (t.hart c.hart).x = h.x ∧ (t.hart c.hart).pc = h.pc) ∧
      (∀ pc pv m part et r, c.op = .ldb pc pv m part et (.vec r) → m < 4 → part < 8 →
        ∃ t, exec .matrixQueueExecute s = .next t ∧ leaves t ∧ keeps t (fun _ => False) ∧
          (∀ k, k < 8192 → (((t.quad q).m[m % 4]'(Nat.mod_lt _ (by decide))).bits.toNat / 256 ^ k % 256) =
            if 1024 * part ≤ k ∧ k < 1024 * (part + 1) then h.elem r 8 (k - 1024 * part)
            else (a.m[m % 4]'(Nat.mod_lt _ (by decide))).bits.toNat / 256 ^ k % 256) ∧
          (∀ j : Fin 4, j.val ≠ m → (t.quad q).m[j] = a.m[j])) ∧
      (∀ xd ldm, c.op = .cfg xd 0 ldm → 0 < xd → xd < 32 → ldm < 16 → (∀ k : Fin 4, (a.feeds[k]).length / 32 < 1024) →
        ∃ t v, exec .matrixQueueExecute s = .next t ∧ leaves t ∧ keeps t (fun _ => False) ∧
          getReg (t.hart c.hart).x (regNo xd) = ⟨v, .present, none⟩ ∧ v.toNat / 2 ^ 40 = ldm ∧
          (∀ k : Fin 4, v.toNat / 2 ^ (10 * k.val) % 1024 = (a.feeds[k]).length / 32)) ∧
      (∀ ext add push et lo n trow hw wake, c.op = .drain ext add push et lo n trow hw wake →
        ∃ t d, exec .matrixQueueExecute s = .next t ∧ leaves t ∧ keeps t (fun _ => False) ∧ (t.quad q).drains = a.drains.concat d ∧
          d.hart = c.hart ∧ d.et = et ∧ d.add = add ∧ d.push = push ∧ d.trow = trow ∧ d.hw = hw ∧ d.wake = wake ∧
          d.rows.map (·.1) = List.range n ∧ (∀ i r k, (i, r) ∈ d.rows → k < 256 → r[k]? = some (accCode a (lo + i) k).toNat))) ∧
  (
    (∀ (s : State) (d : Drain) (r : TileRef) (i : Nat) (codes : List Nat),
      let q := s.ev.q
      let a := s.quad q
      let row := d.trow + i
      let off := row * r.e.cols * 4
      a.drains[s.ev.k]? = some d → d.rows = [(i, codes)] → codes.length = 256 → (∀ c ∈ codes, c < 2 ^ 32) → d.add = false → d.ext = false →
      d.et = 10 → d.push = false → s.ev.b = true → s.tileOf d.part d.hw = some r → r.e.ty = 10 → row < r.e.rows → 256 ≤ r.e.cols →
      s.banksOn r off 1024 = true → (∀ e ∈ a.drains, e.id = d.id → e = d) →
      ∃ t, exec .drainComplete s = .next t ∧
        (∀ n, n < 256 → some (t.tmem.readN (r.base + off + 4 * n) 4) = codes[n]?) ∧
        (∀ z, z < r.base + off ∨ r.base + off + 1024 ≤ z → t.tmem.read z = s.tmem.read z) ∧ t.mem = s.mem ∧
        (t.quad q).drains = a.drains.filter (fun e => e.id != d.id) ∧
        (∀ x w, d.wake = some (x, w) → ∃ m, t.rwrites = s.rwrites.concat m ∧ m.wake = true ∧ m.target = x.toNat % 2 ^ 14 ∧
          m.reg = x.toNat / 2 ^ 16 % 32 ∧ m.val = w ∧ m.src = d.hart) ∧
        (d.wake = none → t.rwrites = s.rwrites)) ∧
    (∀ (s : State) (x : Held) (f : Fifo) (h : Nat) (c : VCmd) (l : List VCmd) (k : Task),
      let q := s.ev.q
      (s.quad q).held[s.ev.k]? = some x → x.op = .vpush f h → s.past q (s.queueLimit h) x.since = true → s.quadHalted q = false →
      (s.hart h).vq = c :: l → (s.hart h).task = some k → (s.quad q).errs.length < 15 →
      ∃ t, exec .fifoHoldExpiry s = .next t ∧ (t.hart h).vq = l ∧ (t.hart h).deferred = (s.hart h).deferred.concat (.push) ∧
        (t.quad q).errs = (s.quad q).errs.concat ⟨6, 31, 0, k.id.toNat, h⟩ ∧ (∀ y ∈ (t.quad q).held, y.op ≠ x.op) ∧
        (t.quad q).fifo = (s.quad q).fifo ∧ t.mem = s.mem) ∧
    (∀ (s : State) (x : Held) (f : Fifo) (h : Nat) (c : VCmd) (l : List VCmd),
      let q := s.ev.q
      (s.quad q).held[s.ev.k]? = some x → x.op = .vpop f h → s.past q (s.queueLimit h) x.since = true → s.quadHalted q = false →
      (s.hart h).vq = c :: l → (s.hart h).park = some .pop →
      ∃ t, exec .fifoHoldExpiry s = .next t ∧ t.hart h = ({ s.hart h with vq := l }).trap 31 0 (s.hart h).veix.toNat ∧
        (∀ y ∈ (t.quad q).held, y.op ≠ x.op) ∧ (t.quad q).fifo = (s.quad q).fifo ∧ t.mem = s.mem))

/-! ### Bias and the host -/

/-- R255, R403, R405: PGBIAS in S mode of a GDDR-7 page that is not frozen: a page of that bias stays as it is and the
hart goes on; a page of the other bias begins its flip, and the hart goes on with its token counted, or parks without
one; a page in flip takes the flip as its next. To device bias the lines that the host may hold are awaited. In U mode
PGBIAS takes cause 2 with its word. A complete flip gives the page its new bias and ends its token's operation or its
hart's park; to host bias the write-backs of the lines that the device holds come first, one at a step, each of which
leaves no copy of its line. (While FREEZE or THAW has locked the page the hart waits: log 49's choice.) -/
def Obligations.BiasFlips : Prop :=
  (∀ (s : State) (host e : Bool) (k : BitVec 3) (a : Reg) (n : TlbEntry) (pa : Nat) (u : State),
    let i : Instr := if host then .pgbiasHost e k a else .pgbiasDev e k a
    let page := pageOf pa
    let now := Tab.get s.bias page 0
    let goal := if host then 1 else 0
    let f : BiasFlip := {
      page := page, host := host, part := s.partOf s.cur, hart := s.cur, task := BitVec.ofNat 32 s.me.taskId, token := tokenOf e k }
    let goes (t : State) : Prop :=
      t.mem = s.mem ∧ SameRegs s.me t.me ∧
      (e = true → t.me.pc = s.me.pc + 4 ∧ t.me.sb = s.me.sb.set k.toNat (s.me.sb[k.toNat]'(k.isLt) + 1) k.isLt) ∧
      (e = false → t.me.pc = s.me.pc ∧ t.me.park = some .pgbias)
    (s.me.mode = .u → exec i s = .next (s.updMe (fun h => h.trap 2 (wordOf i) 0))) ∧
    (s.me.mode = .s → s.me.park ≠ some .pgbias → s.Ready (xs [a]) [] → s.me.releaseWait = none →
      s.translate (s.reqOf s.cur) (s.me.xv a) .store = .ok n pa u →
      (n.mt = .device → exec i s = .next (s.updMe (fun h => h.trap 7 (s.me.xv a) 0))) ∧
      (n.mt ≠ .device → isGddr pa = true → n.frozen = true → exec i s = .next (s.updMe (fun h => h.trap 25 (s.me.xv a) 0))) ∧
      (n.mt ≠ .device → isGddr pa = true → n.frozen = false → s.pageLocked page = true →
        ∃ t, exec i s = .next t ∧ t.me.park = some .access ∧ t.me.pc = s.me.pc ∧ t.bias = s.bias ∧ t.flips = s.flips) ∧
      (n.mt ≠ .device → isGddr pa = true → n.frozen = false → s.pageLocked page = false →
        (now = goal → ∃ t, exec i s = .next t ∧ t.me.pc = s.me.pc + 4 ∧ SameRegs s.me t.me ∧ t.bias = s.bias ∧ t.flips = s.flips ∧
          t.mem = s.mem) ∧
        (now < 2 → now ≠ goal → s.me.tokenFull (tokenOf e k) = none → (∀ g ∈ s.flips, g ≠ f) →
          ∃ t w, exec i s = .next t ∧ goes t ∧ t.flips = s.flips.concat ({ f with active := true, waits := w }) ∧
            w = (if host then t.cachedLines page else s.snooped page) ∧ Tab.get t.bias page 0 = (if host then 2 else 3) ∧
            (∀ q, q ≠ page → Tab.get t.bias q 0 = Tab.get s.bias q 0)) ∧
        (2 ≤ now → s.me.tokenFull (tokenOf e k) = none →
          ∃ t, exec i s = .next t ∧ goes t ∧ t.flips = s.flips.concat f ∧ t.bias = s.bias)))) ∧
  (∀ (s : State) (f : BiasFlip) (l : Nat), s.flips[s.ev.k]? = some f → f.active = true → f.host = true → f.waits[s.ev.w]? = some l →
    ∃ t, exec .biasFlipComplete s = .next t ∧ (∀ c, ∀ x ∈ (t.core c).l1d, x.1 ≠ l) ∧ (∀ c, ∀ x ∈ (t.core c).l1i, x.1 ≠ l) ∧
      (∀ q ∈ t.quads, ∀ x ∈ q.2.lines, x.1 ≠ l) ∧ t.bias = s.bias ∧ t.mem = s.mem ∧ t.harts = s.harts ∧
      t.flips = s.flips.map (fun x => if x = f then { f with waits := f.waits.erase l } else x)) ∧
  (∀ (s : State) (f : BiasFlip), s.flips[s.ev.k]? = some f → f.active = true → f.waits = [] →
    (f.host = true → ∀ x ∈ s.heldHost, pageOf x.addr ≠ f.page) → (∀ q ∈ s.quads, ∀ r ∈ q.2.input, pageOf r.addr ≠ f.page) →
    (∀ g ∈ s.flips.erase f, g.page ≠ f.page) → (s.hart f.hart).runs f.task = true → s.partOf f.hart = f.part →
    ∃ t, exec .biasFlipComplete s = .next t ∧ Tab.get t.bias f.page 0 = (if f.host then 1 else 0) ∧
      (∀ q, q ≠ f.page → Tab.get t.bias q 0 = Tab.get s.bias q 0) ∧ t.flips = s.flips.erase f ∧ t.mem = s.mem ∧
      (∀ j : Fin 8, f.token = some j.val → (t.hart f.hart).sb = (s.hart f.hart).sb.set j ((s.hart f.hart).sb[j] - 1) ∧
        (t.hart f.hart).pc = (s.hart f.hart).pc) ∧
      (f.token = none → (s.hart f.hart).park = some .pgbias →
        (t.hart f.hart).pc = (s.hart f.hart).pc + 4 ∧ (t.hart f.hart).park = none))

/-- R402, R404, R406, R430, R431: a host read of a page in device bias answers its 64-byte line and leaves the filter
as it was; in host bias, or once a flip to host bias has done the line's write-back, the filter takes the line; else it is
held during a flip. A host write changes its bytes and no
other; one of a frozen page changes none, is answered as an error and logged as unit 7 cause 25; an address that no
decoder maps is answered as an error. A snoop of a host-window line is answered and, with invalidation, leaves no
copy. An answered BISnpInv takes its line out of the filters and frees the flip that waited. R407: a write of EQDESC
enqueues the descriptor that it names at the function's queue with the next id of the queue's partition and answers it
in EQSTAT with status 0, and waits while the descriptor's page flips or its line's home slice is busy; a full queue answers 1, and a function without a partition, a denied enqueue or a descriptor
that cannot be read answers 3, and no task enters. A write of HOSTIRQ makes the software interrupt of a hart of its
partition pending; a hart of another partition is ignored. -/
def Obligations.HostReachesDevice : Prop :=
  (
    let line (pa : Nat) : Nat := pa / 64
    let maps (s : State) (pa key : Nat) : Prop := s.hdmAddr s.ev.addr = some (pa, key)
    let bias (s : State) (pa : Nat) : Nat := Tab.get s.bias (pageOf pa) 0
    (∀ (s : State), s.hdmAddr s.ev.addr = none →
      exec .hostMemRead s = .next (s.emit (.hostError s.ev.addr)) ∧ exec .hostMemWrite s = .next (s.emit (.hostError s.ev.addr))) ∧
    (∀ (s : State) (pa key : Nat), maps s pa key → s.badLine (line pa) = false →
      let answer := s.out.concat (.hostRead s.ev.addr ((s.memUnder key).readBytes (pa / 64 * 64) 64) false)
      let x : HeldHost := ⟨s.ev.addr, pa, none, s.ev.b, key⟩
      (bias s pa = 0 → s.hostWaits x = false →
        ∃ t, exec .hostMemRead s = .next t ∧ t.out = answer ∧ t.mem = s.mem ∧ ∀ d, (t.die d).snoop = (s.die d).snoop) ∧
      (bias s pa ≠ 0 → s.hostWaits x = false → s.ev.b = true → (s.die (s.homeDie (64 * line pa))).snoop.length < 65536 →
        ∃ t, exec .hostMemRead s = .next t ∧ t.out = answer ∧ t.mem = s.mem ∧ line pa ∈ (t.die (s.homeDie (64 * line pa))).snoop) ∧
      (s.hostWaits x = true → exec .hostMemRead s = .next { s with heldHost := s.heldHost.concat x }) ∧
      (bias s pa = 1 → s.hostWaits x = false) ∧ (bias s pa = 3 → s.hostWaits x = true) ∧
      (bias s pa = 2 → (s.hostWaits x = true ↔ ∃ f ∈ s.flips, f.active = true ∧ f.page = pageOf pa ∧ line pa ∈ f.waits))) ∧
    (∀ (s : State) (pa key : Nat) (b : List Byte), maps s pa key → bias s pa = 0 → s.ev.bytes = some b → pa % 64 + b.length ≤ 64 →
      s.hostWaits ⟨s.ev.addr, pa, some b, s.ev.b, key⟩ = false →
      (s.count (pageOf pa) = 0 → ∃ t, exec .hostMemWrite s = .next t ∧ (∀ k, k < b.length → some (t.mem.read (pa + k)) = b[k]?) ∧
        (∀ z, z < pa ∨ pa + b.length ≤ z → t.mem.read z = s.mem.read z) ∧ t.out = s.out.concat (.hostWrite s.ev.addr) ∧
        ∀ c, ∀ l ∈ (t.core c).l1d, l.1 ≠ line pa) ∧
      (s.count (pageOf pa) ≠ 0 → (s.quad (s.homeQuad pa)).errs.length < 15 →
        ∃ t, exec .hostMemWrite s = .next t ∧ t.mem = s.mem ∧
          t.out = s.out ++ [.errorMessage (pa / 64 * 64), .hostError s.ev.addr] ∧
          (t.quad (s.homeQuad pa)).errs = (s.quad (s.homeQuad pa)).errs.concat ⟨7, 25, pa / 64 * 64, 0, 0x3FFF⟩)) ∧
    (∀ (s : State), isHost s.ev.addr = true →
      ∃ t d, exec .hostSnoop s = .next t ∧ t.out = s.out.concat (.hostSnoop (line s.ev.addr) d) ∧
        (d = true ↔ (∃ c ∈ s.cores, Tab.get c.2.l1d (line s.ev.addr) false = true) ∨ ∃ q ∈ s.quads,
          (∃ l ∈ q.2.lines, l.1 = line s.ev.addr ∧ l.2.dirty = true) ∨ line s.ev.addr ∈ q.2.reserve) ∧
        (s.ev.b = false → t.mem = s.mem) ∧
        (s.ev.b = true → (∀ q ∈ t.quads, ∀ l ∈ q.2.lines, l.1 ≠ line s.ev.addr) ∧
          (∀ c, ∀ l ∈ (t.core c).l1i, l.1 ≠ line s.ev.addr) ∧
          ∀ b : List Byte, s.ev.bytes = some b → b.length = 64 →
            ∀ k, k < 64 → some (t.mem.read (64 * line s.ev.addr + k)) = b[k]?)) ∧
    (∀ (s : State) (x : BiSnp), x ∈ s.bisnps → x.line = s.ev.addr → x.inv = true → x.done = false → s.ev.b = true → s.ev.bytes = none →
      ∃ t, exec .bisnpResponse s = .next t ∧ (∀ d, (t.die d).snoop = (s.die d).snoop.erase s.ev.addr) ∧
        t.flips = s.flips.map (fun f => if f.host then f else { f with waits := f.waits.erase s.ev.addr }) ∧
        (∀ y ∈ t.bisnps, y.line = s.ev.addr → y.inv = true → y.done = true) ∧ t.mem = s.mem)) ∧
  (
    (∀ (s u : State) (p pa key : Nat),
      let f := s.ev.p
      let k := Tab.get s.funcs f {}
      let q := k.eqq.toNat
      let d := descOf ((s.memUnder key).readBytes pa 64)
      let stat (t : State) : Word := (Tab.get t.funcs f {}).eqstat
      0 < f → f ≤ Config.functions →
      (k.part = none → ∃ t, exec .eqdescWrite s = .next t ∧ stat t = 3 ∧ t.queues = s.queues ∧ t.mem = s.mem) ∧
      (k.part = some p → s.enqDenied p (BitVec.ofNat 64 q) = true →
        ∃ t, exec .eqdescWrite s = .next t ∧ stat t = 3 ∧ t.queues = s.queues) ∧
      (k.part = some p → s.enqDenied p (BitVec.ofNat 64 q) = false → (s.queue q).func = f →
        (s.descAddr p s.ev.v.toNat = (none, u) → ∃ t, exec .eqdescWrite s = .next t ∧ stat t = 3 ∧ t.queues = s.queues) ∧
        (s.descAddr p s.ev.v.toNat = (some (pa, key), u) → (2 ≤ Tab.get s.bias (pageOf pa) 0 ∨ s.sliceBusy (s.homeQuad pa) pa false none = true) →
          exec .eqdescWrite s = .next { s with eqWaits := s.eqWaits.concat ⟨f, s.ev.v.toNat, q⟩ }) ∧
        (s.descAddr p s.ev.v.toNat = (some (pa, key), u) → Tab.get s.bias (pageOf pa) 0 < 2 →
          s.sliceBusy (s.homeQuad pa) pa false none = false → s.mustSnoop (eqAgent f) pa false = false → s.badLine (lineOf pa) = false →
          descBad d = false →
          (s.enqStatus p q 1 (s.queue q).recorded = 0 →
            ∃ t x, exec .eqdescWrite s = .next t ∧ (t.queue q).tasks = (s.queue q).tasks.concat x ∧ x.desc = d ∧
              x.id = (s.prt (s.queue q).part).nextId ∧ stat t = BitVec.ofNat 64 (x.id.toNat * 2 ^ 32) ∧
              (t.prt (s.queue q).part).nextId = x.id + 1 ∧ t.mem = s.mem) ∧
          (s.enqStatus p q 1 (s.queue q).recorded = 1 →
            ∃ t, exec .eqdescWrite s = .next t ∧ stat t = 1 ∧ t.queues = s.queues ∧ t.mem = s.mem)))) ∧
    (∀ (s : State),
      let h := s.ev.v.toNat % 2 ^ 14
      s.ev.p ≠ 0 → h < 12288 →
      ((Tab.get s.funcs s.ev.p {}).part = some (s.partOf h) →
        exec .hostirqWrite s = .next (s.updHart h (fun a => { a with csr := { a.csr with ssip := true } }))) ∧
      ((Tab.get s.funcs s.ev.p {}).part ≠ some (s.partOf h) → exec .hostirqWrite s = .next s)))

/-! ### Interrupts and limits of a hart -/

/-- R184, R186, R188, R217: INTERRUPT_ENTRY of a hart with a task takes the enabled pending interrupt, external before
software before timer, in U mode or with SIE set: sepc is its pc (the next instruction's out of a WFI), scause the
interrupt bit and its code, stval 0, SPP its mode, SPIE the old SIE, SIE 0, the mode S and the pc stvec's; it changes
no other register, and not at a park that is no boundary or whose event has occurred. A hart that waits for a register past the presence limit
takes cause 32 with the register's code; a held write is withdrawn. A timer that is due ends a WFI. (The order external,
software, timer is log 56's, and the places of the bits of sstatus, sie and sip log 9's: PRESUMED.) -/
def Obligations.HartEvents : Prop :=
  (∀ (s : State),
    let h := s.ev.h
    let a := s.hart h
    let on (c : Nat) : Bool := (s.sip h).testBit c && a.csr.sie.getLsbD c
    let entered (c : Nat) (pc : Word) (b : Hart) : Prop :=
      b.csr.sepc = pc ∧ b.csr.scause = BitVec.ofNat 64 (2 ^ 63 + c) ∧ b.csr.stval = 0 ∧ b.mode = .s ∧ b.park = none ∧
      b.pc = a.csr.stvec &&& 0xFFFFFFFFFFFFFFFC#64 ∧ b.csr.sstatus.getLsbD 8 = decide (a.mode = .s) ∧
      b.csr.sstatus.getLsbD 5 = a.csr.sstatus.getLsbD 1 ∧ b.csr.sstatus.getLsbD 1 = false ∧
      (∀ k, k ≠ 1 → k ≠ 5 → k ≠ 8 → b.csr.sstatus.getLsbD k = a.csr.sstatus.getLsbD k) ∧
      b.x = a.x ∧ b.f = a.f ∧ b.v = a.v ∧ b.p = a.p ∧ b.veix = a.veix ∧ b.csr.stvec = a.csr.stvec ∧ b.csr.sscratch = a.csr.sscratch ∧
      b.csr.sie = a.csr.sie
    let takes (c : Nat) : Prop :=
      (a.park = none → ∃ t, exec .interruptEntry s = .next t ∧ entered c a.pc (t.hart h) ∧ t.mem = s.mem) ∧
      (∀ m, a.park = some (.sbwait m) →
        (a.tokensBusy m = true → ∃ t, exec .interruptEntry s = .next t ∧ entered c a.pc (t.hart h) ∧ t.mem = s.mem) ∧
        (a.tokensBusy m = false → exec .interruptEntry s = .next s)) ∧
      (a.park = some .wfi → ∃ t, exec .interruptEntry s = .next t ∧ entered c (a.pc + 4) (t.hart h) ∧ t.mem = s.mem) ∧
      (a.park = some .faultPoint → exec .interruptEntry s = .next s)
    a.task.isSome = true → s.quadStopped (quadOf h) = false → a.claimed = [] →
    ((a.mode = .u ∨ a.csr.sstatus.getLsbD 1 = true) →
      (on 9 = true → takes 9) ∧ (on 9 = false → on 1 = true → takes 1) ∧
      (on 9 = false → on 1 = false → on 5 = true → takes 5)) ∧
    ((a.mode = .s ∧ a.csr.sstatus.getLsbD 1 = false) → exec .interruptEntry s = .next s)) ∧
  (∀ (s : State) (fl : RFile) (r : Nat) (vec : Bool),
    let h := s.ev.h
    let a := s.hart h
    let file : Nat := match fl with
      | .x => 0
      | .f => 1
      | .v => 2
    s.past (quadOf h) (s.presenceLimit h) a.sinceQ = true → r < 32 → h < 12288 →
    (a.park = some (.empty fl r vec) → (a.cond fl r).1 ≠ .present →
      exec .presenceTimeout s = .next (s.setHart h
        (a.trap 32 (BitVec.ofNat 64 (h * 2 ^ 32 + file * 32 + r)) (if vec then a.veix.toNat else 0)))) ∧
    (∀ g, g < 12288 → a.park = some (.held g fl r) →
      ∃ t, exec .presenceTimeout s = .next t ∧
        t.hart h = a.trap 32 (BitVec.ofNat 64 (2 ^ 63 + g * 2 ^ 32 + file * 32 + r)) (if fl = .v then a.veix.toNat else 0) ∧
        t.rwrites = s.rwrites.filter (fun w => w.wake || w.src != h) ∧ t.mem = s.mem)) ∧
  (∀ (s : State), s.past (quadOf s.ev.h) (s.presenceLimit s.ev.h) (s.hart s.ev.h).sinceQ = false → exec .presenceTimeout s = .next s) ∧
  (∀ (s : State), (s.hart s.ev.h).park = some .wfi →
    (s.time < (s.hart s.ev.h).csr.stimecmp.toNat → exec .supervisorTimerInterrupt s = .next s) ∧
    ((s.hart s.ev.h).csr.stimecmp.toNat ≤ s.time →
      (s.sip s.ev.h).testBit 5 = true ∧ exec .supervisorTimerInterrupt s = .next (s.updHart s.ev.h (fun a => a.advance 4))))

/-! ### Translation -/

/-- R18, R28, R29, R33, R34, R66, R67: PAGE_WALK begins a walk of a page that nobody walks, which reads the tables then,
or one for a single access or element whatever the TLBs hold; or it ends that walk, or a fresh one, with its result
installed in the quad TLB, and claims an unclaimed page of ordinary memory for the core that walked; a failure installs
nothing and its walk is gone, and a missing partition leaf goes to Chinook. PAGE_FLUSH makes a private page shared and
takes its lines out of its core. Chinook's retry or denial ends the park of a missing leaf and the walks that found one,
and 2^20 cycles without an answer deny it. An acknowledged shootdown leaves none of the entries it selects in the quad
or kept for a WARMPC, and none of its partition in its die's walkers, and the last one lets its SFENCE.VMA go on. (Which
walker serves a fresh walk, and that PAGE_WALK begins and ends walks, is log 66's choice.) -/
def Obligations.TranslationSteps : Prop :=
  (∀ (s : State),
    let r := if s.ev.b then s.vreqOf s.ev.h else s.reqOf s.ev.h
    let d := dieOfQuad r.quad
    let page := s.ev.v.toNat / 4096
    let c := s.wcache d (s.ev.w % 64)
    let begins (q : Req) (one : Option Nat) : Prop :=
      s.readsWait q.who q.quad (readsOf c (s.gtrail c q s.ev.v.toNat 4 q.root)) = none →
      ∃ t, exec .pageWalk s = .next t ∧ t.mem = s.mem ∧ (∀ k, (t.quad k).tlb = (s.quad k).tlb) ∧ (∀ k, (t.core k).tlb = (s.core k).tlb) ∧
        (t.die d).walks = (s.die d).walks.concat ⟨q.part, q.asid, page, q.mode, s.ev.acc, s.gwalk c q s.ev.acc s.ev.v.toNat 4 q.root, one⟩
    canonical s.ev.v = true → s.ev.c = true → (s.die d).walks.length < 320 →
    (s.ev.k = 0 → s.walkFor { r with elem := 0 } s.ev.acc page = none → s.tlbHit r s.ev.v.toNat = none → begins { r with elem := 0 } none) ∧
    (∀ e, s.ev.k = e + 1 → s.ownWalk { r with elem := e } s.ev.acc page = none → begins { r with elem := e } (some e))) ∧
  (∀ (s b v : State) (res : WRes),
    let q := if s.ev.b then s.vreqOf s.ev.h else s.reqOf s.ev.h
    let d := dieOfQuad q.quad
    let page := s.ev.v.toNat / 4096
    let k := walkerOf s.ev.v.toNat
    let l := s.gtrail (s.wcache d k) q s.ev.v.toNat 4 q.root
    canonical s.ev.v = true →
    (s.ev.c = false → s.ev.k = 0 →
      ((s.walkFor q s.ev.acc page = none ∧ (s.die d).walks.length < 320 ∧ s.readsWait q.who q.quad (readsOf (s.wcache d k) l) = none ∧
          b = s ∧ v = s.walked q k l ∧ res = s.gwalk (s.wcache d k) q s.ev.acc s.ev.v.toNat 4 q.root) ∨
        ∃ w, s.walkFor q s.ev.acc page = some w ∧ b = s.endWalk d w ∧ v = b ∧ res = w.res) →
      (∀ g, res = .miss g → exec .pageWalk s = .next (b.emit (.chinookMiss q.part g))) ∧
      (∀ c why, res = .fault c why → exec .pageWalk s = .next b) ∧
      (∀ e, res = .ok e → guestPerm q s.ev.acc e.r e.w e.x e.u e.d = true → placeFault q s.ev.acc e (e.addr s.ev.v.toNat) = none →
        v.entryBad e (e.addr s.ev.v.toNat) = none → s.pageLocked (pageOf (e.addr s.ev.v.toNat)) = false →
        ∃ t r, exec .pageWalk s = .next t ∧ (t.quad q.quad).tlb.head? = some r ∧ r.va = e.va ∧ r.pa = e.pa ∧ r.size = e.size ∧
          r.part = e.part ∧ r.asid = e.asid ∧ t.mem = s.mem ∧
          (∀ c, q.core = some c → (t.core c).tlb.head? = some r) ∧
          (∀ c, q.core = some c → e.frozen = false → e.share ≠ .always → e.share ≠ .unread → (Tab.get s.share (pageOf e.pa) {}).cls = 0 →
            r.share = .priv c ∧ Tab.get t.share (pageOf e.pa) {} = ⟨1, BitVec.ofNat 11 c⟩)))) ∧
  (∀ (s : State),
    let se := Tab.get s.share s.ev.addr {}
    se.cls = 1 → se.owner.toNat = s.ev.p →
    ∃ t, exec .pageFlush s = .next t ∧ Tab.get t.share s.ev.addr {} = ⟨2, 0⟩ ∧ (∀ l ∈ (t.core s.ev.p).l1d, l.1 / 64 ≠ s.ev.addr) ∧
      t.mem = s.mem) ∧
  (∀ (s : State) (va : Word) (acc : AccKind) (g : Nat), s.ev.k = 0 → s.ev.c = false → (s.hart s.ev.h).park = some (.pmiss va acc g) →
    let ends (i : Instr) (deny : Option Nat) : Prop := ∃ u : State, exec i s = .next (u.updHart s.ev.h (fun a => { a with park := none, denied := deny })) ∧
      u = { s with dies := u.dies } ∧ ∀ d ∈ u.dies, ∀ w ∈ d.2.walks, ∀ p, w.res ≠ .miss p
    ends .chinookAnswer (if s.ev.b then none else some g) ∧
    ((s.hart s.ev.h).since + 2 ^ 20 < s.time → ends .partitionMissTimeout (some g)) ∧
    (s.time ≤ (s.hart s.ev.h).since + 2 ^ 20 → exec .partitionMissTimeout s = .next s)) ∧
  (∀ (s : State) (x : Shootdown), s.shoots[s.ev.k]? = some x → s.ev.q ∈ x.quads →
    s.usesEntries s.ev.q x = false →
    ∃ t, exec .shootdownAck s = .next t ∧ (∀ e ∈ (t.quad s.ev.q).tlb, x.selects e = false) ∧
      (∀ a ∈ t.queues, ∀ w ∈ a.2.warm, x.selects w.1 = false) ∧ (∀ w ∈ (t.die (dieOfQuad s.ev.q)).walks, w.part ≠ x.part) ∧
      (∀ w ∈ (t.die (dieOfQuad s.ev.q)).walkers, ∀ e ∈ w.2, e.1 ≠ x.part) ∧
      (∀ c, 4 * s.ev.q ≤ c → c < 4 * s.ev.q + 4 → ∀ e ∈ (t.core c).tlb, x.selects e = false) ∧ t.mem = s.mem ∧
      (x.quads ≠ [s.ev.q] → t.shoots = s.shoots.set s.ev.k { x with quads := x.quads.erase s.ev.q }) ∧
      (x.quads = [s.ev.q] → t.shoots = s.shoots.eraseIdx s.ev.k) ∧
      (∀ h, x.hart = some h → x.quads = [s.ev.q] → (s.hart h).park = some .fence →
        (t.hart h).pc = (s.hart h).pc + 4 ∧ (t.hart h).park = none)) ∧
  (∀ (s : State), s.ev.p < 16 → s.ev.c = false → s.shootQuads s.ev.p ≠ [] →
    exec .chinookInvalidate s = .next { s.measured with shoots := s.shoots.concat ⟨none, s.ev.p, none, none, s.shootQuads s.ev.p⟩ })

/-! ### Caches, ports and the error log -/

/-- R60, R61, R69 to R76, R78, R101: the steps of slices and directories move lines and change no memory: an exclusive
request that its home slice can answer puts its line into the core's L1 data cache and out of every other sharer, and a
core on the home die becomes the owner in the directory; one that it cannot answer waits for a fill; a probe takes the
line out of its quad; a fill takes its way as a home or proxy line, or as a replica of a frozen page with its stamp,
frees its miss entry, notes an error of the controller and counts a correction; an evicted dirty line goes to the
first neighbour that accepts it, as a victim whose slice the directory names, or to memory; a write-back makes its line
dirty at home or, with 256 misses there, waits in the reserve of 16, from which the controller takes the oldest. -/
def Obligations.CacheSteps : Prop :=
  (∀ (s : State),
    let pa := s.ev.addr
    let line := pa / 64
    let home := s.homeQuad pa
    let me := s.ev.p / 4
    let old := Tab.get (s.quad home).dir (pa / 512) {}
    let r : SliceReq := ⟨pa, s.ev.p, s.ev.b, s.ev.c⟩
    isGddr pa = true → Tab.get s.bias (pageOf pa) 0 = 0 → s.ev.stuck = [] → s.ev.size = 0 → s.ev.k = 0 → line ∉ (s.quad home).reserve →
    (s.answerable r.quad pa s.ev.b (s.stampOf (pageOf pa)) = true → s.ev.b = true → s.ev.c = false → s.count (pageOf pa) = 0 →
      ∃ t, exec .homeSliceRequest s = .next t ∧ t.mem = s.mem ∧ t.tmem = s.tmem ∧ (∃ d, (line, d) ∈ (t.core s.ev.p).l1d) ∧
        s.ev.p % 4 ∈ Tab.get (t.quad me).filter line [] ∧
        (∀ q ∈ s.sharersOf (dieOfQuad home) old, q ≠ me → Tab.get (t.quad q).filter line [] = [] ∧
          ∀ c ∈ Tab.get (s.quad q).filter line [], c < 4 → ∀ l ∈ (t.core (4 * q + c)).l1d, l.1 ≠ line) ∧
        (dieOfQuad home = dieOfQuad me → (s.core s.ev.p).l1d.length + (s.core s.ev.p).rep.length < 8 →
          (Tab.get (t.quad home).dir (pa / 512) {}).owned = true ∧ (Tab.get (t.quad home).dir (pa / 512) {}).owner = some (.quad me))) ∧
    (s.answerable r.quad pa s.ev.b (s.stampOf (pageOf pa)) = false → line ∉ s.missEntries home → (s.missEntries home).length < 256 →
      exec .homeSliceRequest s = .next (s.updQuad home (fun a => { a with input := a.input.concat r, misses := a.misses.concat line })))) ∧
  (∀ (s : State),
    let line := s.ev.addr / 64
    s.ev.b = false →
    ∃ t, exec .directoryProbe s = .next t ∧ t.mem = s.mem ∧ (∀ e ∈ (t.quad s.ev.q).filter, e.1 ≠ line) ∧
      (∀ c ∈ Tab.get (s.quad s.ev.q).filter line [], ∀ l ∈ (t.core (4 * s.ev.q + c)).l1d, l.1 ≠ line)) ∧
  (∀ (s : State),
    let pa := s.ev.addr
    let line := pa / 64
    let q := s.ev.q
    let a := s.quad q
    let home := s.homeQuad pa = q
    let f := Tab.get s.freeze (pageOf pa) {}
    let kind : LineKind := if f.count ≠ 0 then .replica else if home then .home else .proxy
    let stamp := if f.count ≠ 0 then f.gen.toNat % 4096 else 0
    q < Config.quads → isGddr pa = true → ((home ∧ line ∈ a.misses) ∨ (¬ home ∧ proxyQuad (dieOfQuad q) pa = q)) →
    ∃ t, exec .memoryFillReturn s = .next t ∧ t.mem = s.mem ∧
      (a.input = [] → (s.ev.b = true → line ∈ t.poison) ∧
        (t.quad q).cecnt = (if s.ev.c then min (a.cecnt + 1) 0xFFFFFFFF else a.cecnt) ∧
        (t.quad q).misses = (if home then a.misses.erase line else a.misses)) ∧
      (∀ w, a.input = [] → (∀ l ∈ a.lines, l.1 % 1024 ≠ line % 1024) → (List.range 16).find? a.takesLines = some w →
        copySite line ∉ s.poison → Tab.get s.bias (pageOf pa) 0 = 0 →
        (s.ev.b = false → t.poison = s.poison) ∧ ∃ k, (line, ⟨kind, false, w, stamp, k⟩) ∈ (t.quad q).lines)) ∧
  (∀ (s : State) (l : Nat × SliceLine),
    let q := s.ev.q
    let line := s.ev.addr / 64
    let dest := (neighbours q).find? (fun n => ((s.quad n).victimWay (line % 1024)).isSome)
    let home := s.homeQuad (64 * line)
    let d := Tab.get (s.quad home).dir (line / 8) {}
    (s.quad q).lines.find? (fun x => x.1 == line) = some l → l.2.dirty = true → (l.2.kind = .home ∨ l.2.kind = .proxy) →
    ∃ t, exec .victimOffer s = .next t ∧ t.mem = s.mem ∧ (∀ x ∈ (t.quad q).lines, x.1 ≠ line) ∧
      (∀ n, dest = some n → (d.owner = none ∨ d.owner = some (.slice n)) → (∃ e ∈ (s.quad home).dir, e.1 = line / 8) → ∃ w, (s.quad n).victimWay (line % 1024) = some w ∧ (Tab.get (t.quad home).dir (line / 8) {}).owner = some (.slice n) ∧
        (line, ⟨.victim, true, w, 0, s.time + 1⟩) ∈ (t.quad n).lines)) ∧
  (∀ (s : State),
    let q := s.ev.q
    let line := s.ev.addr / 64
    let a := s.quad q
    s.homeQuad s.ev.addr = q → s.homeQuad (64 * line) = q → s.cacheable s.ev.addr = true → s.victimAt line = none →
    s.badCopy line = false → line ∉ a.reserve →
    ((s.missEntries q).length < 256 → ∃ t, exec .writeBackArrival s = .next t ∧ t.mem = s.mem ∧
      (∀ l, (t.quad q).line line = some l → l.dirty = true) ∧ (t.quad q).reserve = a.reserve) ∧
    (256 ≤ (s.missEntries q).length → a.reserve.length < 16 →
      exec .writeBackArrival s = .next ((s.dropLine q line).updQuad q (fun a => { a with reserve := a.reserve.concat line }))) ∧
    (256 ≤ (s.missEntries q).length → 16 ≤ a.reserve.length →
      ∃ t, exec .writeBackArrival s = .next t ∧ t.mem = s.mem ∧ (t.quad q).reserve = a.reserve)) ∧
  (∀ (s : State) (l : Nat) (rest : List Nat), (s.quad s.ev.q).reserve = l :: rest →
    ∃ t, exec .wbdWrite s = .next t ∧ t.mem = s.mem ∧
      ((s.quad s.ev.q).input = [] → (t.quad s.ev.q).reserve = rest ∧ (s.badCopy l = false → t.failed = s.failed)))

/-- R81, R82, R83, R379, R380: a rejoining quad has its incarnation raised and its caches empty, and a dirty line it owned is
entered in the failed-line list and its home's loss table; a rejoining engine or link has its incarnation raised. Reading the
error log answers the oldest record and removes it; CECNT is written 0. A port grants at most one request a cycle, of the
context that holds tokens, which loses one; every 64 cycles each bucket gains one token, to at most 64. A request is of the
context of its hart's, its transfer's or its drain's partition and class, a host's and Chinook's of the system context. -/
def Obligations.ErrorsAndPorts : Prop :=
  (∀ (s : State) (q : Nat), s.ev.rejoin = .quad q →
    (s.dirtyLines q = [] → ∃ t, exec .agentRejoin s = .next t ∧ (t.quad q).inc = (s.quad q).inc + 1 ∧ (t.quad q).lines = [] ∧
      (t.quad q).dir = [] ∧ (t.quad q).tlb = [] ∧ (∀ c, 4 * q ≤ c → c < 4 * q + 4 → (t.core c).l1d = [] ∧ (t.core c).tlb = []) ∧
      t.mem = s.mem ∧ t.failed = s.failed) ∧
    (∀ l, s.dirtyLines q = [l] → l ∉ s.failed → s.failedAt (64 * l) < 1024 → (s.quad (s.homeQuad (64 * l))).loss.length < 64 →
      ∃ t, exec .agentRejoin s = .next t ∧ t.failed = s.failed.concat l ∧ l ∈ (t.quad (s.homeQuad (64 * l))).loss ∧ t.mem = s.mem ∧
        (t.quad q).inc = (s.quad q).inc + 1 ∧ (t.quad q).lines = [])) ∧
  (∀ (s : State) (q : Nat), s.ev.rejoin = .engine q →
    exec .agentRejoin s = .next (s.updQuad q (fun a => { a with einc := a.einc + 1 }))) ∧
  (∀ (s : State) (l : Nat), s.ev.rejoin = .link l →
    ∃ t, exec .agentRejoin s = .next t ∧ (Tab.get t.links l {}).inc = (Tab.get s.links l {}).inc + 1 ∧ t.mem = s.mem) ∧
  (∀ (s : State) (e : ErrRec) (rest : List ErrRec), (s.quad s.ev.q).errs = e :: rest →
    ∃ t, exec .errlogRead s = .next t ∧ t.out = s.out.concat (.reg (BitVec.ofNat 64 (e.task * 2 ^ 32 + e.hart))) ∧
      t.quad s.ev.q = { s.quad s.ev.q with errs := rest } ∧ t.mem = s.mem) ∧
  (∀ (s : State), exec .cecntWrite s = .next (s.updQuad s.ev.q (fun a => { a with cecnt := 0 }))) ∧
  (∀ (s : State) (who : Nat),
    let pair (p c : Nat) : Nat := p * 3 + if 7 ≤ c then 0 else if 4 ≤ c then 1 else 2
    (12288 ≤ who → who < 2 ^ 31 → s.contextOf who = some 48) ∧
    (∀ k h, (who = h ∨ who = queueAgent h) → h < 12288 → (s.hart h).task = some k → s.quadStopped (quadOf h) = false →
      s.contextOf who = some (pair (s.partOf h) k.cls)) ∧
    (∀ id, who = engineAgent id → s.contextOf who = (s.engineClass id).map (fun k => pair k.1 k.2))) ∧
  (∀ (s : State) (who c : Nat), s.ev.stuck = [who] → s.contextOf who = some c →
    let a := s.quad s.ev.q
    (s.clockOf s.ev.q < a.portNext → exec .portGrant s = .next s) ∧
    (a.portNext ≤ s.clockOf s.ev.q → -1024 < Tab.get a.buckets c 64 →
      ∃ t, exec .portGrant s = .next t ∧ Tab.get (t.quad s.ev.q).buckets c 64 = Tab.get a.buckets c 64 - 1 ∧
        (∀ d, d ≠ c → Tab.get (t.quad s.ev.q).buckets d 64 = Tab.get a.buckets d 64) ∧ (t.quad s.ev.q).portLast = c ∧
        (t.quad s.ev.q).portNext = s.clockOf s.ev.q + 34) ∧
    (Tab.get a.buckets c 64 ≤ -1024 → exec .portGrant s = .next s)) ∧
  (∀ (s : State) (v w c d : Nat), s.ev.stuck = [v, w] → s.contextOf v = some c → s.contextOf w = some d → c ≠ d →
    (s.quad s.ev.q).portNext ≤ s.clockOf s.ev.q → 0 < Tab.get (s.quad s.ev.q).buckets c 64 →
    Tab.get (s.quad s.ev.q).buckets d 64 ≤ 0 → ∃ t, exec .portGrant s = .next t ∧ (t.quad s.ev.q).portLast = c) ∧
  (∀ (s : State),
    let a := s.quad s.ev.q
    (s.time < a.portAt + 64 → exec .portTokenAccrue s = .next s) ∧
    (a.portAt + 64 ≤ s.time → ∃ t, exec .portTokenAccrue s = .next t ∧ (t.quad s.ev.q).portAt = a.portAt + 64 ∧
      ∀ c, Tab.get a.buckets c 64 ≤ 64 → Tab.get (t.quad s.ev.q).buckets c 64 = min (Tab.get a.buckets c 64 + 1) 64))

/-! ### Power of banks and ways, phases -/

/-- The harts of quad `q` that wait for a lowered phase go on where their quad meets it; no other hart changes. -/
def Sys2Proof.Claims.PhaseMet (s t : State) (q : Nat) : Prop :=
  ((t.quad q).meets (t.quad q).qph = true → ∀ h, quadOf h = q → (s.hart h).park = some .bwph →
    t.hart h = { s.hart h with park := none }) ∧
  (∀ h, quadOf h ≠ q → (s.hart h).park ≠ some .talloc → t.hart h = s.hart h)

/-- An allocation that waits for its banks or ways alone, and finds them ready, is done: its hart holds the handle word and goes on. -/
def Sys2Proof.Claims.AllocDone (s t : State) (q : Nat) : Prop :=
  ∀ x, (s.quad q).allocs = [x] → (t.quad q).allocReady x = true → (s.hart x.hart).park = some .talloc →
    (t.quad q).allocs = [] ∧ t.hart x.hart = ((s.hart x.hart).setX (regNo x.xd) x.word).advance 4

/-- R42, R44, R45, R47, R50, R52, R53: a bank that has woken is ON and a way that has woken holds what it held; a bank
without granules goes off after 1,024 cycles or in phase 3, one with granules to retention in phase 2 or 3 after
2,048, a way to retention where the phase permits it and no hit has touched it for 16,384, an interface where the device
phase permits it, in phase 3 after 4,096; a role change empties,
cleans or keeps the lines of its way and no byte of memory changes; a lowered bwph is in force at once and parks its
hart until its quad meets it, a raised one is written only. -/
def Obligations.StoragePower : Prop :=
  (∀ (s : State) (ret : Bool),
    let q := s.ev.q
    let b := Tab.get (s.quad q).banks s.ev.w {}
    let i : Instr := if ret then .bankRetWakeDone else .bankWakeDone
    (b.st = 3 → b.ret = ret → b.last ≤ s.time →
      ∃ t, exec i s = .next t ∧ (t.quad q).banks = Tab.set (s.quad q).banks s.ev.w ⟨2, s.time, false⟩ ∧ AllocDone s t q ∧
        (ret = true → PhaseMet s t q) ∧ t.mem = s.mem ∧ t.tmem = s.tmem ∧ (t.quad q).tiles = (s.quad q).tiles) ∧
    ((b.st ≠ 3 ∨ b.ret ≠ ret ∨ s.time < b.last) → exec i s = .next s)) ∧
  (∀ (s : State) (off : Bool),
    let q := s.ev.q
    let a := s.quad q
    let b := Tab.get a.banks s.ev.w {}
    let due : Prop := if off then b.st = 2 ∧ a.bankHeld s.ev.w = false ∧ (b.last + 1024 ≤ s.time ∨ a.qph = 3)
      else b.st = 2 ∧ a.bankHeld s.ev.w = true ∧ 2 ≤ a.qph ∧ b.last + 2048 ≤ s.time
    let i : Instr := if off then .bankPowerOff else .bankRetention
    (due → exec i s = .next (s.updQuad q (fun a => { a with
      banks := Tab.set a.banks s.ev.w { b with st := if off then 0 else 1 } }))) ∧ (¬ due → exec i s = .next s)) ∧
  (∀ (s : State),
    let q := s.ev.q
    let w := Tab.get (s.quad q).ways s.ev.w {}
    (s.ev.w < 16 → w.st = 0 → w.next = none → ((s.quad q).role s.ev.w = 0 ∨ (s.quad q).role s.ev.w = 3) →
      wayMayRetire s.dph s.ev.w = true → w.last + 16384 ≤ s.time →
      exec .wayRetire s = .next (s.updQuad q (fun a => { a with ways := Tab.set a.ways s.ev.w { w with st := 1 } }))) ∧
    (s.time < w.last + 16384 ∨ wayMayRetire s.dph s.ev.w = false → exec .wayRetire s = .next s) ∧
    (w.st = 2 → w.next = none → w.last ≤ s.time → w.kill = false → (s.die (dieOfQuad q)).swbusy = false →
      ∃ t, exec .wayWakeDone s = .next t ∧ (t.quad q).lines = (s.quad q).lines ∧
        (t.quad q).ways = Tab.set (s.quad q).ways s.ev.w { w with st := 0, kill := false, last := s.time } ∧ PhaseMet s t q ∧
        t.mem = s.mem ∧ t.tmem = s.tmem) ∧
    (w.st = 2 → w.next = none → w.last ≤ s.time → (w.kill = true ∨ (s.die (dieOfQuad q)).swbusy = true) →
      ∃ t, exec .wayWakeDone s = .next t ∧ (∀ l, l ∈ (t.quad q).lines ↔ l ∈ (s.quad q).lines ∧ ¬ (l.2.way = s.ev.w ∧ l.2.kind = .replica)) ∧
        (t.quad q).ways = Tab.set (s.quad q).ways s.ev.w { w with st := 0, kill := false, last := s.time } ∧
        t.mem = s.mem ∧ t.tmem = s.tmem)) ∧
  (∀ (s : State) (w : Nat), s.ev.q < Config.quads → w < 16 →
    let q := s.ev.q
    let way (t : State) : Way := Tab.get (t.quad q).ways w {}
    let begins (t : State) (r : Nat) : Prop := way t = { way s with next := some r, st := 2, last := s.time }
    let want := s.ev.v.toNat % 2 ^ 32 / 4 ^ w % 4
    let n := min (s.ev.v.toNat % 8) 4
    let old := (s.quad q).swr
    (∃ t, exec .wroleWrite s = .next t ∧ t.mem = s.mem ∧ t.harts = s.harts ∧ (t.quad q).lines = (s.quad q).lines ∧
      (want = 1 → w < 4 → (s.quad q).role w = 0 → begins t 1) ∧
      (want = 0 → (s.quad q).role w = 1 → s.homesQueue q = false → begins t 0) ∧
      ((2 ≤ want ∨ (want = 1 ∧ (4 ≤ w ∨ (s.quad q).role w ≠ 0)) ∨
        (want = 0 ∧ ((s.quad q).role w ≠ 1 ∨ s.homesQueue q = true))) → way t = way s)) ∧
    (∃ t, exec .swrWrite s = .next t ∧ t.mem = s.mem ∧ t.harts = s.harts ∧ (t.quad q).lines = (s.quad q).lines ∧ (t.quad q).swr = n ∧
      (16 ≤ w + n → w + old < 16 → begins t 3) ∧ (w + n < 16 → 16 ≤ w + old → begins t 0) ∧
      ((16 ≤ w + n ↔ 16 ≤ w + old) → way t = way s))) ∧
  (∀ (s : State) (r : Nat),
    let q := s.ev.q
    let i : Instr := if r = 2 then .wayPinDone else .roleChangeDone
    let x := Tab.get (s.quad q).ways s.ev.w {}
    x.next = some r → r < 4 →
    ∃ t, exec i s = .next t ∧ t.mem = s.mem ∧ t.tmem = s.tmem ∧
      (t.quad q).ways = Tab.set (s.quad q).ways s.ev.w
        { x with role := if r = 3 then 0 else r, next := none, st := 0, kill := false, last := s.time } ∧
      ((r = 1 ∨ r = 2) → ∀ l ∈ (t.quad q).lines, l.2.way ≠ s.ev.w) ∧
      (r = 0 → ∀ l, l ∈ (t.quad q).lines ↔ l ∈ (s.quad q).lines ∧
        ¬ ((x.kill = true ∨ (s.die (dieOfQuad q)).swbusy = true) ∧ l.2.way = s.ev.w ∧ l.2.kind = .replica)) ∧
      (r = 3 → (∀ l ∈ (s.quad q).lines, l.2.way = s.ev.w → l.2.dirty = true → l.2.kind = .home) →
        ∀ line l, (t.quad q).line line = some l → l.way = s.ev.w → l.dirty = false) ∧
      (r = 2 → AllocDone s t q) ∧ PhaseMet s t q) ∧
  (∀ (s : State),
    let h := s.ev.h
    let q := quadOf h
    let v : BitVec 2 := s.ev.v.setWidth 2
    ((s.hart h).bwphEff.toNat ≤ v.toNat → exec .bwphWrite s = .next (s.updHart h (fun a => { a with bwph := v }))) ∧
    (v.toNat < (s.hart h).bwphEff.toNat →
      ∃ t, exec .bwphWrite s = .next t ∧ (t.hart h).bwph = v ∧ (t.hart h).bwphEff = v ∧
        (t.quad q).qph = min (s.quad q).qph (t.phaseOfQuad q) ∧
        ((t.quad q).meets (t.quad q).qph = false → (t.hart h).park = some .bwph) ∧
        ((t.quad q).meets (t.quad q).qph = true → (t.hart h).park = (s.hart h).park) ∧
        SameRegs (s.hart h) (t.hart h) ∧ (t.hart h).pc = (s.hart h).pc ∧ t.mem = s.mem)) ∧
  (∀ (s : State) (q w : Nat) (a : Quad), Tab.get s.quads q {} = a → s.quads.any (fun e => e.1 == q) = true → w < 16 →
    ∃ t, exec .devicePhaseSettle s = .next t ∧ t.mem = s.mem ∧ t.harts = s.harts ∧
      (wayMayRetire s.dph w = false → (Tab.get a.ways w {}).st = 1 →
        Tab.get (t.quad q).ways w {} = { Tab.get a.ways w {} with st := 2, last := s.time + 48 }) ∧
      ((wayMayRetire s.dph w = true ∨ (Tab.get a.ways w {}).st ≠ 1) → Tab.get (t.quad q).ways w {} = Tab.get a.ways w {}) ∧
      (∀ d, s.gddrMayRest d = false → (t.die d).gddrDown = []) ∧ (∀ d, s.gddrMayRest d = true → t.die d = s.die d)) ∧
  (∀ (s : State),
    let d := s.ev.p / 16
    (s.ev.p < 64 → s.gddrMayRest d = true → s.ev.p ∉ (s.die d).gddrDown →
      (s.dph = 3 → Tab.get (s.die d).gddrLast s.ev.p 0 + 4096 ≤ s.time) →
      exec .gddrPowerDown s = .next (s.updDie d (fun a => { a with gddrDown := a.gddrDown.concat (s.ev.p) }))) ∧
    ((s.gddrMayRest d = false ∨ (s.dph = 3 ∧ s.time < Tab.get (s.die d).gddrLast s.ev.p 0 + 4096)) → exec .gddrPowerDown s = .next s))

/-! ### Power, current and heat -/

/-- R52, R388 to R400: Mistral's period sets ECAP to the greater of HCAP, of which it takes at most 1,900 W, and the idle
floor, grants no die more than 335 W, charges a partition that owns quads the model power of their votes, and puts raised
phases in force; a quad then runs at no more than its cap. A lower point is taken at once and a higher one when its rail
has risen. The limiter rises on the droop signal and falls without it. A sensor out of range, stuck, or off its
neighbours' median fails; two failed hold their quad at OP0, found or written to SFAIL, and 105 °C holds it at OP0 with
TLVL 7, which no write lowers meanwhile. A quad without work takes the deepest idle state its latency tolerance allows and
wakes, with its die's GDDR-7, for a task that fits. Events are popped oldest first, and one that finds 16 is dropped.
(CAPCLAMP in each period, FLREDU, the grants, the energy's carry and the order in which sensors are judged are log 41's
reading.) -/
def Obligations.PowerAndHeat : Prop :=
  (∀ (s : State),
    (s.time < s.mistral.periodAt + 17000 → exec .mistralPeriod s = .next s) ∧
    (s.mistral.periodAt + 17000 ≤ s.time →
      let sum := s.parts.foldl (fun n p => n + p.2.floor) 0
      ∃ t, exec .mistralPeriod s = .next t ∧ t.mem = s.mem ∧ t.tmem = s.tmem ∧ t.mistral.periodAt = s.time ∧
        t.mistral.ecap = max (min s.mistral.hcap 1900) s.mistral.idlefl ∧ t.mistral.pwr = s.ev.size % 65536 ∧
        (min s.mistral.hcap 1900 < s.mistral.idlefl → t.mistral.capclamp = true) ∧
        (t.mistral.ecap < s.mistral.idlefl + sum → t.mistral.fluredu = true) ∧
        ((s.parts.map (·.1)).Nodup → (∀ e ∈ s.parts, e.2.fcls < 8) → s.mistral.idlefl + sum ≤ t.mistral.ecap →
          ∀ e ∈ s.parts, (t.prt e.1).floore = e.2.floor) ∧
        (∀ q, q < Config.quads → (t.quad q).opcur ≤ (t.quad q).opcap ∧ (t.quad q).qph = t.phaseOfQuad q) ∧
        (∀ d, d < 4 → (span (96 * d) 96).foldl (fun n q =>
          n + if (t.quad q).opcap = 0 then 0 else modelPower (t.quad q).opcap) 0 ≤ 33500) ∧
        (∀ h, (t.hart h).bwphEff = (s.hart h).bwph ∧ SameRegs (s.hart h) (t.hart h)) ∧
        (∀ p q, p < 16 → s.quadsOf p = [q] → q < Config.quads → (s.quad q).part = some p →
          let e := (s.prt p).energyPart + modelPower (s.quadVote q)
          (t.prt p).energy = (s.prt p).energy + BitVec.ofNat 64 (e / 10000) ∧ (t.prt p).energyPart = e % 10000))) ∧
  (∀ (s : State) (n : Nat),
    let q := s.ev.q
    (s.pointOf q ≤ (s.quad q).opcur → ∃ t, exec .railRaiseDone s = .next t ∧ (t.quad q).opcur = s.pointOf q ∧
      (t.quad q).raise = none ∧ t.mem = s.mem ∧ t.harts = s.harts) ∧
    ((s.quad q).raise = some n → s.pointOf q = n → (s.quad q).opcur < n → s.railPoint q < n →
      ∃ t, exec .railRaiseDone s = .next t ∧ (t.quad q).opcur = n ∧ (t.quad q).raise = none ∧ t.mem = s.mem ∧ t.harts = s.harts)) ∧
  (∀ (s : State),
    let q := s.ev.q
    let a := s.quad q
    let level (n : Nat) : State := s.updQuad q (fun b => { b with clvl := n, droopAt := s.time })
    (a.droop = false → s.ev.b = true → exec .droopSignal s =
      .next (s.updQuad q (fun b => { b with droop := true, clvl := min 3 (a.clvl + 1), droopAt := s.time }))) ∧
    (a.droop = true → s.ev.b = false → exec .droopSignal s = .next (s.updQuad q (fun b => { b with droop := false, droopAt := s.time }))) ∧
    (a.droop = s.ev.b → exec .droopSignal s = .next s) ∧
    (a.droop = true → a.droopAt + 64 ≤ s.time → exec .clvlRise s = .next (level (min 3 (a.clvl + 1)))) ∧
    (a.droop = false ∨ s.time < a.droopAt + 64 → exec .clvlRise s = .next s) ∧
    (a.droop = false → a.droopAt + 4096 ≤ s.time → exec .clvlFall s = .next (level (a.clvl - 1))) ∧
    (a.droop = true ∨ s.time < a.droopAt + 4096 → exec .clvlFall s = .next s)) ∧
  (∀ (s : State), s.ev.q < Config.quads →
    let q := s.ev.q
    let v := s.ev.v.toNat
    let n := if (s.quad q).hot then 7 else v % 8
    (n = (s.quad q).tlvl → exec .tlvlWrite s = .next s) ∧
    (n ≠ (s.quad q).tlvl → ∃ t, exec .tlvlWrite s = .next t ∧ t.quad q = { s.quad q with tlvl := n } ∧ t.mistral.throt = true ∧
      t.harts = s.harts ∧ t.mem = s.mem) ∧
    (∃ t, exec .sfailWrite s = .next t ∧ (t.quad q).sfail = BitVec.ofNat 6 v ∧ (v % 64 = 0 → (t.quad q).hold = false) ∧
      (∀ i, v % 64 = 2 ^ i → (t.quad q).hold = (s.quad q).hold) ∧
      (∀ i j, i < j → j < 6 → v.testBit i = true → v.testBit j = true → (t.quad q).hold = true ∧ (t.quad q).opcur = 0) ∧ t.harts = s.harts ∧ t.mem = s.mem)) ∧
  (∀ (s : State), s.ev.q < Config.quads →
    let q := s.ev.q
    let a := s.quad q
    ∃ t, exec .sensorSample s = .next t ∧
      (∀ i, i < 6 → (a.sfail.getLsbD i = true ∨ s.sensorBroken q s.ev.codes i = true) → (t.quad q).sfail.getLsbD i = true) ∧
      (∀ i, i < 6 → (t.quad q).sfail.getLsbD i = true → a.sfail.getLsbD i = true ∨ s.sensorBroken q s.ev.codes i = true ∨
        ∃ m, s.sensorOff q s.ev.codes m i = true) ∧
      (∀ i, i < 6 → a.sfail = 0 → (∀ j, j < 6 → s.sensorBroken q s.ev.codes j = false) →
        (∀ j, j < i → (t.quad q).sfail.getLsbD j = false) → (t.quad q).sfail.getLsbD i = s.sensorOff q s.ev.codes 0 i) ∧
      (∀ i, i < 6 → (s.ev.codes.getD i 999 < -40 ∨ 150 < s.ev.codes.getD i 999) → (t.quad q).sfail.getLsbD i = true) ∧
      (∀ i, i < 6 → (t.quad q).sfail.getLsbD i = false → (t.quad q).readings[i]? = some (s.ev.codes.getD i 0)) ∧
      ((t.quad q).sfail ≠ a.sfail → t.mistral.sensf = true) ∧
      (∀ i j, i < 6 → j < 6 → i ≠ j → (t.quad q).sfail.getLsbD i = true → (t.quad q).sfail.getLsbD j = true →
        (t.quad q).hold = true ∧ (t.quad q).opcur = 0) ∧
      (105 ≤ (t.quad q).temp → (t.quad q).hot = true ∧ (t.quad q).opcur = 0 ∧ (a.hot = false → (t.quad q).tlvl = 7)) ∧
      ((t.quad q).temp < 95 → (t.quad q).hot = false) ∧ t.harts = s.harts ∧ t.mem = s.mem) ∧
  (∀ (s : State),
    let q := s.ev.q
    let n := s.idleFor q
    (q < Config.quads → (s.freeSlots q).length = 32 → s.quadWanted q = false → (s.quad q).idle < n →
      ∃ t, exec .idleEntry s = .next t ∧ (t.quad q).idle = n ∧
        (2 ≤ n → ∀ b, b < 32 → (s.quad q).bankHeld b = true → (Tab.get (t.quad q).banks b {}).st ≠ 2) ∧
        (n = 3 → (t.die (dieOfQuad q)).gddrDown = span (16 * dieOfQuad q) 16) ∧ t.harts = s.harts ∧ t.mem = s.mem ∧ t.tmem = s.tmem) ∧
    ((s.freeSlots q).length ≠ 32 ∨ s.quadWanted q = true ∨ n ≤ (s.quad q).idle → exec .idleEntry s = .next s) ∧
    ((s.quad q).idle ≠ 0 → s.quadWanted q = true →
      ∃ t, exec .idleWake s = .next t ∧ (t.quad q).idle = 0 ∧ t.harts = s.harts ∧ t.mem = s.mem ∧ t.tmem = s.tmem ∧
        (∀ b, b < 32 → (Tab.get (s.quad q).banks b {}).st = 1 → Tab.get (t.quad q).banks b {} = ⟨3, s.time + 32, true⟩) ∧
        (∀ k, 2 ≤ (s.quad q).idle → k / 96 = q / 96 → (s.quad k).idle = 3 → (t.die (q / 96)).gddrDown = [] ∧ (t.quad k).idle ≠ 3)) ∧
    ((s.quad q).idle = 0 ∨ s.quadWanted q = false → exec .idleWake s = .next s)) ∧
  (∀ (s : State),
    (s.mistral.events = [] → exec .evpopRead s = .next (s.emit (.reg 0))) ∧
    (∀ e rest, s.mistral.events = e :: rest →
      exec .evpopRead s = .next { s.emit (.reg e) with mistral := { s.mistral with events := rest } }) ∧
    (s.mistral.events.length < 16 →
      exec .evpushWrite s = .next { s with mistral := { s.mistral with events := s.mistral.events.concat (s.ev.v) } }) ∧
    (16 ≤ s.mistral.events.length → exec .evpushWrite s = .next s))

/-! ### Group loads on their way -/

/-- The request `r` of a member is accepted: it stays under way, its member's next load follows, and its hart goes on with its
destinations pending and its token counting. -/
def Sys2Proof.Claims.Accepted (s t : State) (r : GReq) : Prop :=
  ((t.group r.die r.group).member r.part r.task r.hart).map (·.next) = some (r.seq + 1) ∧ (t.hart r.hart).pc = (s.hart r.hart).pc + 4 ∧
  (t.hart r.hart).park = none ∧ (r.xd % 32 ≠ 0 → ((t.hart r.hart).cond .x r.xd).1 = .pending) ∧
  (r.vector = true → ∀ k, k < r.gsize → ((t.hart r.hart).cond .v (r.reg + k)).1 = .pending) ∧
  (∀ k, r.token = some k → (t.hart r.hart).sb.toList.getD (k % 8) 0 = (s.hart r.hart).sb.toList.getD (k % 8) 0 + 1) ∧
  (t.hart r.hart).csr = (s.hart r.hart).csr ∧ (t.hart r.hart).f = (s.hart r.hart).f ∧ t.mem = s.mem ∧ t.tmem = s.tmem

/-- R88, R89, R92, R94: a request of no member, or one that differs from those accepted for its load, traps with cause
29 and its source; one that opens a load or joins one that agrees is accepted; with the expected number the load is
released, once its source can be read, one fill of the same bytes for each request; one for a released sequence is
served alone as a straggler; a fifth load of a slice waits. The timer releases a load. A fill of a destination that nothing else has written
meanwhile writes it and the status word, ends its token, and is gone. -/
def Obligations.GroupLoadsDeliver : Prop :=
  (∀ (s : State) (r : GReq), s.greqs[s.ev.k]? = some r → r.accepted = false → (s.greqs.map (·.id)).Nodup →
    let here (o : OpenLoad) : Bool := o.die == r.die && o.group == r.group && o.slice == r.slice
    let o := s.opens.find? (fun o => o.die == r.die && o.group == r.group && o.slice == r.slice && o.seq == r.seq)
    let refused : State := State.updHart { s with greqs := s.greqs.filter (fun x => x.id != r.id) } r.hart (fun a => a.unclaim.trap 29 r.src 0)
    let a := s.group r.die r.group
    (a.member r.part r.task r.hart = none → exec .groupRequestArrive s = .next refused) ∧
    (∀ m, a.member r.part r.task r.hart = some m → (s.prt a.part).stopped = false →
      (∀ x, o = some x → ¬ (∀ y ∈ s.loadReqs x, r.agrees y = true) → exec .groupRequestArrive s = .next refused) ∧
      (∀ x, o = some x → (∀ y ∈ s.loadReqs x, r.agrees y = true) → (s.loadReqs x).length + 1 < x.expected →
        ∃ t, exec .groupRequestArrive s = .next t ∧ Accepted s t r ∧ t.opens = s.opens ∧ t.fills = s.fills ∧
          { r with accepted := true } ∈ t.greqs) ∧
      (∀ x, o = some x → (∀ y ∈ s.loadReqs x, r.agrees y = true) → (s.loadReqs x).length + 1 = x.expected →
        (∀ y, (y = r ∨ y ∈ s.loadReqs x) → s.sourceWaits y = none) →
        ∃ t fs bytes err, exec .groupRequestArrive s = .next t ∧ Accepted s t r ∧ x ∉ t.opens ∧ t.fills = s.fills ++ fs ∧
          fs.length = x.expected ∧ (∀ f ∈ fs, f.bytes = bytes ∧ f.err = err ∧ f.nreq = x.expected ∧ f.tmo = false ∧ f.str = false) ∧
          (∃ f ∈ fs, f.req = { r with accepted := true })) ∧
      (o = none → s.wasReleased r.die r.group r.slice r.seq = true → s.sourceWaits r = none →
        let src := s.readSource r [r]
        ∃ t, exec .groupRequestArrive s = .next t ∧ Accepted s t r ∧ t.opens = s.opens ∧
          t.fills = s.fills.concat ⟨r, src.1, 1, false, true, src.2.1, false, false, none, false⟩ ∧ (∀ x ∈ t.greqs, x.id ≠ r.id)) ∧
      (o = none → s.wasReleased r.die r.group r.slice r.seq = false → 4 ≤ (s.opens.filter here).length →
        exec .groupRequestArrive s = .next s) ∧
      (o = none → s.wasReleased r.die r.group r.slice r.seq = false → (s.opens.filter here).length < 4 →
        (∀ x ∈ s.greqs, x.accepted = false) → 1 < a.members.length →
        ∃ t, exec .groupRequestArrive s = .next t ∧ Accepted s t r ∧ t.fills = s.fills ∧
          t.opens = s.opens.concat ⟨r.die, r.group, r.slice, r.seq, s.time, a.timer, a.members.length,
            a.members.map (fun m => (m.part, m.task, m.hart))⟩ ∧
          (t.group r.die r.group).openseq = max a.openseq r.seq))) ∧
  (∀ (s : State) (o : OpenLoad), s.opens[s.ev.k]? = some o → (s.loadReqs o).length < o.expected →
    (s.time < o.openedAt + o.timer → (s.prt (s.group o.die o.group).part).stopped = false → exec .groupHoldTimeout s = .next s) ∧
    (o.openedAt + o.timer ≤ s.time → (∀ y ∈ s.loadReqs o, s.sourceWaits y = none) →
      ∃ t fs, exec .groupHoldTimeout s = .next t ∧ o ∉ t.opens ∧ t.fills = s.fills ++ fs ∧ fs.map (·.req) = s.loadReqs o ∧
        (∀ f ∈ fs, f.tmo = true ∧ f.nreq = (s.loadReqs o).length) ∧ t.mem = s.mem ∧ t.harts = s.harts)) ∧
  (∀ (s : State) (f : GFill), s.fills[s.ev.k]? = some f → f.err = false → f.landed = false →
    let r := f.req
    let a := s.hart r.hart
    a.runs r.task = true → s.partOf r.hart = r.part → (r.xd = 0 ∨ r.barrier = 0) →
    let left (t : State) : Prop := t.fills = s.fills.filter (fun x => x.req.id != r.id)
    (∀ t0 bit, r.vector = false → r.dirty = [] → s.fillFits r.part r.fmt r.hw r.row r.len = some (t0, bit) → s.banksOn t0 (bit / 8) r.len = true →
      ∃ t, exec .groupFillLand s = .next t ∧ t.tmem = s.tmem.writeBytes (t0.base + bit / 8) f.bytes ∧ t.mem = s.mem ∧
        left t ∧ (t.hart r.hart).pc = a.pc ∧ (t.hart r.hart).v = a.v ∧ (t.hart r.hart).f = a.f ∧
        (r.xd % 32 ≠ 0 → getReg (t.hart r.hart).x (regNo r.xd) = ⟨f.status, .present, none⟩) ∧
        (∀ k, r.token = some k → (t.hart r.hart).sb.toList.getD (k % 8) 0 = a.sb.toList.getD (k % 8) 0 - 1)) ∧
    (r.vector = true → r.dirty = [] → r.reg + r.gsize ≤ 32 → f.bytes.length ≤ 128 * r.gsize →
      ∃ t, exec .groupFillLand s = .next t ∧ t.tmem = s.tmem ∧ t.mem = s.mem ∧ left t ∧
        (t.hart r.hart).pc = a.pc ∧ (t.hart r.hart).f = a.f ∧
        (∀ j b, f.bytes[j]? = some b → (t.hart r.hart).elem r.reg 8 j = b.toNat) ∧
        (∀ k, k < r.gsize → ((t.hart r.hart).cond .v (r.reg + k)) = (.present, none)) ∧
        (∀ k, k < 32 → (k < r.reg ∨ r.reg + r.gsize ≤ k) → getReg (t.hart r.hart).v (regNo k) = getReg a.v (regNo k)) ∧
        (r.xd % 32 ≠ 0 → getReg (t.hart r.hart).x (regNo r.xd) = ⟨f.status, .present, none⟩)))

/-! ### Freezes that run on, and the stamp sweep -/

/-- R98, R104 to R109: FREEZE's completion raises the counts of its pages and takes every translation and tracked copy
of the pages that were at 0; THAW's lowers them, then raises TEPOCH on every die and the generations of those it brings
to 0, unless a running sweep holds the epoch, then takes their translations; peers with replicas are asked last, and the
link of one that does not answer in 2^20 cycles is reset. With no barrier named the operation ends its token and is
gone. A frame that leaves its partition is thawed. A sweep starts at 2,048 epochs or by SWGO, drops replicas, kills the
ways that have not woken after 4,096 cycles, and ends when every way is swept or killed. -/
def Obligations.FreezesComplete : Prop :=
  let plain (s : State) (op : FreezeOp) (thaw : Bool) : Prop :=
    s.freezes[s.ev.k]? = some op ∧ op.thaw = thaw ∧ op.done = false ∧ op.barrier = 0 ∧ (s.prt op.part).stopped = false ∧
    (op.pages.map (·.1)).Nodup
  let gone (s t : State) (op : FreezeOp) : Prop :=
    (∀ o ∈ t.freezes, o.id ≠ op.id) ∧ t.mem = s.mem ∧ t.tmem = s.tmem ∧
    (∀ k, op.token = some k → s.partOf op.hart = op.part → (s.hart op.hart).runs op.task = true → op.parks = false →
      (t.hart op.hart).sb.toList.getD (k % 8) 0 = (s.hart op.hart).sb.toList.getD (k % 8) 0 - 1)
  let unmapped (t : State) (page : Nat) : Prop :=
    (∀ q, ∀ e ∈ (t.quad q).tlb, e.maps [page] = false) ∧ (∀ c, ∀ e ∈ (t.core c).tlb, e.maps [page] = false)
  (∀ (s : State) (op : FreezeOp), plain s op false →
    let fresh := (op.pages.filter (fun p => s.count p.1 = 0)).map (·.1)
    s.storesWait fresh = false →
    ∃ t, exec .freezeComplete s = .next t ∧ gone s t op ∧ (∀ p ∈ op.pages, t.count p.1 = s.count p.1 + p.2) ∧
      (∀ p, (∀ x ∈ op.pages, x.1 ≠ p) → Tab.get t.freeze p {} = Tab.get s.freeze p {}) ∧
      (∀ p ∈ fresh, unmapped t p ∧ (∀ c, ∀ l ∈ (t.core c).l1d, l.1 / 64 ≠ p))) ∧
  (∀ (s : State) (op : FreezeOp), plain s op true → op.stage = .counts →
    let zero := (op.pages.filter (fun p => s.count p.1 = p.2)).map (·.1)
    let lowered (t : State) : Prop := ∀ p ∈ op.pages, t.count p.1 = s.count p.1 - p.2
    let raised (t : State) : Prop :=
      (∀ p ∈ op.pages, (Tab.get t.freeze p.1 {}).gen = (Tab.get s.freeze p.1 {}).gen + (if s.count p.1 = p.2 then 1 else 0)) ∧
      (∀ p ∈ zero, unmapped t p) ∧ (∀ d, d < 4 → (t.die d).tepoch = (s.die d).tepoch + (if zero = [] then 0 else 1))
    (zero = [] ∨ (s.epochHolds = false ∧ s.storesWait zero = false ∧ s.replicaLinks = []) →
      ∃ t, exec .thawComplete s = .next t ∧ gone s t op ∧ lowered t ∧ raised t) ∧
    (zero ≠ [] → s.epochHolds = false → s.storesWait zero = false → s.replicaLinks ≠ [] →
      ∃ t, exec .thawComplete s = .next t ∧ lowered t ∧ raised t ∧
        t.out = s.out ++ s.replicaLinks.map (fun l => .peerInvalidate l zero) ∧
        ∃ o ∈ t.freezes, o.id = op.id ∧ o.peers = s.replicaLinks ∧ o.since = s.time ∧ o.stage = .peers) ∧
    (zero ≠ [] → s.epochHolds = true →
      ∃ t, exec .thawComplete s = .next t ∧ lowered t ∧ t.dies = s.dies ∧ ∃ o ∈ t.freezes, o.id = op.id ∧ o.stage = .epoch)) ∧
  (∀ (s : State) (op : FreezeOp) (l : Nat), plain s op true → op.peers = [l] →
    (s.time < op.since + 2 ^ 20 → exec .peerInvalidateTimeout s = .next s) ∧
    (op.since + 2 ^ 20 ≤ s.time →
      ∃ t, exec .peerInvalidateTimeout s = .next t ∧ gone s t op ∧ (Tab.get t.links l {}).inc = (Tab.get s.links l {}).inc + 1 ∧
        (Tab.get t.links l {}).replicas = false ∧ .linkReset l ∈ t.out ∧ t.freeze = s.freeze)) ∧
  (∀ (s : State),
    let page := pageOf s.ev.addr
    (s.count page = 0 → exec .frameLeavesPartition s = .next s) ∧
    (s.count page ≠ 0 → s.pageLocked page = false →
      ∃ t op, exec .frameLeavesPartition s = .next t ∧ t.freezes = s.freezes.concat op ∧ op.thaw = true ∧ op.pages = [(page, s.count page)] ∧
        op.barrier = 0 ∧ op.token = none ∧ t.freeze = s.freeze ∧ t.mem = s.mem ∧ t.harts = s.harts)) ∧
  (∀ (s : State) (sw : Bool), s.ev.p < 4 →
    let d := s.die s.ev.p
    let i : Instr := if sw then .swgoWrite else .stampSweepStart
    d.swbusy = false → (sw = true ∨ 2048 ≤ (d.tepoch - d.swstart).toNat) →
    ∃ t, exec i s = .next t ∧ (t.die s.ev.p).swstart = d.tepoch ∧ (t.die s.ev.p).swbusy = true ∧ (t.die s.ev.p).swat = s.time ∧
      (t.die s.ev.p).killw = 0 ∧ (∀ e, e ≠ s.ev.p → t.die e = s.die e) ∧ t.harts = s.harts ∧ t.mem = s.mem ∧
      (∀ c, c / 384 = s.ev.p → (t.core c).rep = []) ∧
      (∀ q, q / 96 = s.ev.p → ∀ l ∈ (t.quad q).lines, l.2.kind = .replica → (Tab.get (s.quad q).ways l.2.way {}).st ≠ 0)) ∧
  (∀ (s : State) (i : Instr), i = .swgoWrite ∨ i = .stampSweepStart → (s.die s.ev.p).swbusy = true → exec i s = .next s) ∧
  (∀ (s : State),
    let dn := dieOfQuad s.ev.q
    let w := Tab.get (s.quad s.ev.q).ways s.ev.w {}
    ((s.die dn).swbusy = true → (s.die dn).swat + 4096 ≤ s.time → w.st ≠ 0 → w.kill = false →
      ∃ t, exec .wayKill s = .next t ∧ Tab.get (t.quad s.ev.q).ways s.ev.w {} = { w with kill := true } ∧
        (t.die dn).killw = ((s.die dn).killw + 1) % 65536 ∧ (t.quad s.ev.q).lines = (s.quad s.ev.q).lines ∧ t.harts = s.harts ∧
        t.mem = s.mem) ∧
    ((s.die dn).swbusy = false ∨ s.time < (s.die dn).swat + 4096 ∨ w.st = 0 → exec .wayKill s = .next s)) ∧
  (∀ (s : State),
    ((s.die s.ev.p).swbusy = true → s.swept s.ev.p = true →
      exec .stampSweepEnd s = .next (s.updDie s.ev.p (fun a => { a with swbusy := false, swcnt := a.swcnt + 1 }))) ∧
    ((s.die s.ev.p).swbusy = false ∨ s.swept s.ev.p = false → exec .stampSweepEnd s = .next s))

/-! ### Transfers run -/

/-- R156: the pieces of a run cover it in order, each of a plain copy within one line of its memory endpoints. -/
def Sys2Proof.Claims.PiecesCover (x : Xfer) (n : Nat) : Prop :=
  0 < Shape.run x.shape →
  ((x.pieces n).head?.map (·.i) = some 0 ∧ (x.pieces n).getLast?.map (·.j) = some (Shape.run x.shape) ∧
    (∀ j p r, (x.pieces n)[j]? = some p → (x.pieces n)[j + 1]? = some r → p.j = r.i) ∧
    (∀ p ∈ x.pieces n, p.n = n ∧ p.i < p.j ∧ p.got = none ∧
      (Shape.opn x.shape = 0 → (Shape.sk x.shape = 0 → ((x.runAddr true n).toNat + p.i) % 64 + (p.j - p.i) ≤ 64) ∧
        (Shape.dk x.shape = 0 → ((x.runAddr false n).toNat + p.i) % 64 + (p.j - p.i) ≤ 64))))

/-- R32, R75, R151 to R163, R167, R289: the oldest transfer is admitted while fewer than 8 run, a `.pop` one with its
token; a running one emits the pieces of its next run, which take tags of the engine's 128 or wait for one; a piece
performed writes its source's bytes, or the sum of an update, to its destination and nothing else in memory; one that
fails records its run, cause and address and drops the pieces after it. A transfer whose pieces are done leaves: it
writes its record, pushes its token, ends its scoreboard token and fills its register group; without a record a failure
is owed to a wait. SLIDE_PREFETCH holds bytes of memory only, none that the hart is still to store. An ACQ that was
answered busy asks again after 256 cycles. -/
def Obligations.TransfersRun : Prop :=
  (∀ (s : State) (x : Xfer) (rest : List Xfer),
    let q := s.ev.q
    let a := s.quad q
    let n := Tab.get a.fifo x.popFifo.no 0
    a.cq = x :: rest →
    (8 ≤ a.running.length ∨ s.quadHalted q = true → exec .copyAdmit s = .next s) ∧
    (a.running.length < 8 → s.quadHalted q = false → x.pop = false →
      exec .copyAdmit s = .next (s.updQuad q (fun a => { a with cq := rest, running := a.running.concat x }))) ∧
    (a.running.length < 8 → s.quadHalted q = false → x.pop = true → 0 < n → (∀ y ∈ a.held, y.op.fifo ≠ x.popFifo) →
      exec .copyAdmit s = .next (s.updQuad q (fun a => { a with
        cq := rest, running := a.running.concat x, fifo := Tab.set a.fifo x.popFifo.no (n - 1) }))) ∧
    (a.running.length < 8 → s.quadHalted q = false → x.pop = true → n = 0 → (∀ y ∈ a.held, y.op.fifo ≠ x.popFifo) →
      exec .copyAdmit s = .next (s.updQuad q (fun a => { a with held := a.held.concat ⟨.cpop x.popFifo x.id, s.clockOf q⟩ })))) ∧
  (∀ (s : State) (x : Xfer),
    let q := s.ev.q
    let a := s.quad q
    let left (f : Xfer → Xfer) : List Xfer := a.running.map (fun y => if y.id == x.id then f y else y)
    a.running.find? (fun y => y.id == s.ev.w) = some x → (a.running.map (·.id)).Nodup →
    (x.fail = none → x.aborted = false → x.stage = .running → s.quadHalted q = false → Shape.dk x.shape ≠ 2 → x.next < Shape.runs x.shape →
      (∀ y ∈ a.running, y.untagged = []) →
      (a.tagsUsed + (x.pieces x.next).length ≤ 128 →
        ∃ t, exec .copyRunEmit s = .next t ∧ t.mem = s.mem ∧ t.harts = s.harts ∧
          (t.quad q).running = left (fun y => { y with next := y.next + 1, emitted := y.emitted ++ y.pieces y.next })) ∧
      (128 ≤ a.tagsUsed → exec .copyRunEmit s = .next (s.updQuad q (fun a => { a with
        running := left (fun y => { y with next := y.next + 1, untagged := y.pieces y.next }) })))) ∧
    (x.untagged ≠ [] → exec .copyRunEmit s = .next s)) ∧
  (∀ (x : Xfer) (n : Nat), PiecesCover x n) ∧
  (∀ (s : State) (x : Xfer) (p : Piece) (rest : List Piece),
    let q := s.ev.q
    let n := p.j - p.i
    let left (f : Xfer → Xfer) : List Xfer := (s.quad q).running.map (fun y => if y.id == x.id then f y else y)
    let wrote (t : State) (pb : Nat) (bytes : List Byte) : Prop :=
      t.mem = s.mem.writeBytes pb bytes ∧ t.tmem = s.tmem ∧
      (t.quad q).running = left (fun y => { y with emitted := rest, denied := false })
    s.ev.bytes = none → s.ev.stuck = [] → s.ev.k = 0 → (s.quad q).running.find? (fun y => y.id == s.ev.w) = some x →
    ((s.quad q).running.map (·.id)).Nodup → (∀ y ∈ (s.quad q).running, y.untagged = []) →
    x.emitted = p :: rest → p.got = none → s.vregBusy x = false →
    (∀ a b u, Shape.dk x.shape = 0 → s.findPiece x p = .ok (.mem [a], .mem [b], u) → a.n = n → b.n = n → isMmio a.pa = false →
      isMmio b.pa = false → (u.readPlace x n (.mem [a])).2.partsWait x.who (quadOf x.hart) true [b] = none →
      (Shape.opn x.shape = 0 → ∃ t, exec .copyLinePerformed s = .next t ∧ wrote t b.pa ((u.memUnder a.key).readBytes a.pa n)) ∧
      (Shape.opn x.shape = 1 →
        ∃ t, exec .copyLinePerformed s = .next t ∧
          wrote t b.pa (leBytes n ((u.memUnder b.key).readN b.pa n + (u.memUnder a.key).readN a.pa n)))) ∧
    (∀ l va b u, Shape.dk x.shape = 0 → s.findPiece x p = .ok (.peer l va, .mem [b], u) → b.n = n → isMmio b.pa = false →
      u.partsWait x.who (quadOf x.hart) true [b] = none → Shape.opn x.shape = 0 →
      ∃ t, exec .copyLinePerformed s = .next t ∧ wrote t b.pa ((Tab.get s.peers l {}).mem.readBytes va.toNat n)) ∧
    (∀ c va why, s.findPiece x p = .error (.fail c va why) →
      ∃ t, exec .copyLinePerformed s = .next t ∧ t.mem = s.mem ∧ t.tmem = s.tmem ∧
        (t.quad q).running = left (fun y => y.failAt p c va))) ∧
  (∀ (s : State) (x : Xfer),
    let q := s.ev.q
    let a := s.hart x.hart
    (s.quad q).running.find? (fun y => y.id == s.ev.w) = some x → x.stage = .running → x.over = true → s.quadHalted q = false →
    Shape.ctgt x.shape = 0 → a.runs x.task = true → x.aborted = false → x.abandoned = false →
    let gone (t : State) : Prop := (t.quad q).running = (s.quad q).running.filter (fun y => y.id != x.id) ∧ t.tmem = s.tmem
    let ended (t : State) (failed : Bool) : Prop := ∀ k, x.token = some k → k < 8 →
      (t.hart x.hart).sb.toList.getD k 0 = a.sb.toList.getD k 0 - 1 ∧
      (t.hart x.hart).sbFail.getLsbD k = (a.sbFail.getLsbD k || failed)
    (Shape.crec x.shape = 0 → x.push = false →
      ∃ t, exec .copyComplete s = .next t ∧ gone t ∧ t.mem = s.mem ∧ ended t x.fail.isSome ∧
        (x.fail = none → (t.hart x.hart).sbErr = a.sbErr) ∧
        (∀ r c va k, x.fail = some (r, c, va) → x.token = some k → (t.hart x.hart).sbErr = a.sbErr.concat ⟨k, x.id, c, va⟩) ∧
        (Shape.dk x.shape = 3 → ∀ k, k < 2 ^ (x.dst.toNat / 32 % 4) →
          ((t.hart x.hart).cond .v (x.dst.toNat % 32 + k)).1 = .present)) ∧
    (Shape.crec x.shape = 0 → x.push = true → x.fail = none → Tab.get (s.quad q).fifo x.pushFifo.no 0 < 16 →
      (∀ y ∈ (s.quad q).held, y.op.fifo ≠ x.pushFifo) →
      ∃ t, exec .copyComplete s = .next t ∧ gone t ∧ t.mem = s.mem ∧ ended t false ∧
        Tab.get (t.quad q).fifo x.pushFifo.no 0 = Tab.get (s.quad q).fifo x.pushFifo.no 0 + 1) ∧
    (∀ m u, Shape.crec x.shape ≠ 0 → x.push = false →
      let at_ := s.stageXfer q x (.checked x.outcome.1 x.outcome.2.1 none)
      at_.engineParts x.who x.req .store 0 0 false (lineParts (BitVec.ofNat 64 (Shape.crec x.shape)) 32) = .ok (.mem [m]) u →
      m.n = 32 → isMmio m.pa = false →
      ∃ t, exec .copyComplete s = .next t ∧ gone t ∧ ended t x.fail.isSome ∧ (t.hart x.hart).sbErr = a.sbErr ∧
        (x.fail = none → t.mem.readN m.pa 8 = x.task.toNat * 2 ^ 32 ∧ t.mem.readN (m.pa + 8) 8 = Shape.runs x.shape % 2 ^ 64 ∧
          t.mem.readN (m.pa + 16) 8 = 0 ∧ t.mem.readN (m.pa + 24) 8 = Shape.run x.shape * Shape.runs x.shape % 2 ^ 32) ∧
        (∀ r cause va, x.fail = some (r, cause, va) → cause < 256 → t.mem.readN m.pa 8 = x.task.toNat * 2 ^ 32 + cause * 256 + 1 ∧
          t.mem.readN (m.pa + 8) 8 = r % 2 ^ 64 ∧ t.mem.readN (m.pa + 16) 8 = va.toNat ∧
          t.mem.readN (m.pa + 24) 8 = Shape.run x.shape * r % 2 ^ 32) ∧
        (∀ z, z < m.pa ∨ m.pa + 32 ≤ z → t.mem.read z = s.mem.read z))) ∧
  (∀ (s : State) (x : Slide), (s.hart s.ev.h).slide = some x →
    ∃ t y, exec .slidePrefetch s = .next t ∧ (t.hart s.ev.h).slide = some y ∧ y.group = x.group ∧ y.base = x.base ∧ y.shape = x.shape ∧
      SameRegs (s.hart s.ev.h) (t.hart s.ev.h) ∧ (t.hart s.ev.h).pc = (s.hart s.ev.h).pc ∧ t.mem = s.mem ∧ y.bytes.length ≤ 1024 ∧
      ∀ b ∈ y.bytes, ∃ va e pa u j, s.translate (s.vreqOf s.ev.h) va .load = .ok e pa u ∧ b.1 = va.toNat + j ∧ j < Shape.run x.shape ∧
        b.2 = (s.memUnder (e.keyAt pa)).read (pa + j) ∧ ∀ c ∈ (s.hart s.ev.h).vq, c.op.writesMem pa (Shape.run x.shape) = false) ∧
  (∀ (s : State) (c : Acc) (k : Task) (b : Reg),
    let h := s.ev.h
    let u : State := { s with cur := h }
    (s.hart h).park = some (.acqBusy b) →
    (s.time < (s.hart h).since + 256 → exec .acqRetry s = .next s) ∧
    ((s.hart h).since + 256 ≤ s.time → Reaches u b [] [] false false [1] c → (s.hart h).task = some k → h < 12288 →
      (c.obj.held = false → s.waitersAt (lineOf c.pa) false = [] → c.s.lostLines = [] →
        ∃ t, exec .acqRetry s = .next t ∧ (objIn t.mem c.pa).held = true ∧ (objIn t.mem c.pa).holder = h ∧
          (objIn t.mem c.pa).htask = k.id.toNat ∧
          OnlyBytes s t c.pa 16 ∧ (t.hart h).pc = (s.hart h).pc + 4 ∧ SameRegs (s.hart h) (t.hart h)) ∧
      (c.obj.held = true → s.holds h c.obj = false → (s.waitersAt (lineOf c.pa) false).length < 64 →
        ∃ t w, exec .acqRetry s = .next t ∧ t.waiters = s.waiters.concat w ∧ w.hart = h ∧ w.line = lineOf c.pa ∧ t.mem = s.mem ∧
          (t.hart h).park = some .acq ∧ (t.hart h).pc = (s.hart h).pc)))

/-! ### Writes as steps of their own -/

/-- R52, R187, R195, R217, R259, R260, R261, R400, R434: a write of a CSR by a hart that may write it changes the fields
that its map makes writable and nothing else; a read-only one, or an S-mode one in U mode, changes nothing. The mask
0x222 of sie, the low bits that stvec and sepc clear and the place of SSIP in sip are the standard instruction set's
(PRESUMED, log 9; R217 sends there). In the MMIO window an address without a register is refused, and a field is changed
only by the agents that its map names. -/
def Obligations.RegisterWrites : Prop :=
  let only (s : State) (f : Hart → Hart) : Host.Outcome State Fault Refusal := .next (s.updHart s.ev.h f)
  (∀ s : State,
    let a := s.hart s.ev.h
    let v := s.ev.v
    (a.mode = .s → exec .wdlimWrite s = .next (s.updPart (s.partOf s.ev.h) (fun p => { p with wdlim := v &&& 0x000000FF000000FF#64 })) ∧
      exec .vhwWrite s = only s (fun h => { h with dirty := (v >>> 32).setWidth 32, hwb := v.setWidth 8 })) ∧
    (a.mode = .u → exec .wdlimWrite s = .next s ∧ exec .vhwWrite s = .next s) ∧
    (∃ t, exec .fmtWrite s = .next t ∧ (∀ k, k < 4 → (t.hart s.ev.h).fmts.getD k 0 =
        if k = s.ev.k % 4 then fmtRegWrite (a.fmts.getD k 0) v else a.fmts.getD k 0) ∧
      (t.hart s.ev.h).x = a.x ∧ (t.hart s.ev.h).v = a.v ∧ (t.hart s.ev.h).csr = a.csr ∧ (∀ h, h ≠ s.ev.h → t.hart h = s.hart h) ∧
      t.mem = s.mem) ∧
    exec .sbstatWrite s = only s (fun h => { h with sbFail := h.sbFail &&& ~~~((v >>> 8).setWidth 8) })) ∧
  (∀ s : State,
    let a := s.hart s.ev.h
    let v := s.ev.v
    (s.ev.k / 1024 = 3 ∨ (a.mode = .u ∧ s.ev.k / 256 % 4 ≠ 0) → exec .csrWrite s = .next s) ∧
    (s.ev.k = 0x001 → exec .csrWrite s = only s (fun h => { h with fflags := v.setWidth 5 })) ∧
    (s.ev.k = 0x002 → exec .csrWrite s = only s (fun h => { h with frm := v.setWidth 3 })) ∧
    (s.ev.k = 0x003 → exec .csrWrite s = only s (fun h => { h with frm := (v >>> 5).setWidth 3, fflags := v.setWidth 5 })) ∧
    (s.ev.k = 0x8C4 → exec .csrWrite s = only s (fun h => { h with srseed := v })) ∧
    (s.ev.k = 0x8C5 → exec .csrWrite s = only s (fun h => { h with srbase := v.setWidth 32 })) ∧
    (s.ev.k = 0x8C6 → exec .csrWrite s = only s (fun h => { h with vflags := v.setWidth 7 })) ∧
    (s.ev.k = 0x8D0 → exec .csrWrite s = only s (fun h => { h with vcfg := { h.vcfg with bfz := v.getLsbD 6 } })) ∧
    (s.ev.k = 0x8D1 → exec .csrWrite s = only s (fun h => { h with veix := v.setWidth 12 })) ∧
    (s.ev.k = 0x8D4 → exec .csrWrite s = only s (fun h => { h with pwreq := v.setWidth 3 })) ∧
    (a.mode = .s →
      (s.ev.k = 0x104 → exec .csrWrite s = only s (fun h => { h with csr := { h.csr with sie := v &&& 0x222#64 } })) ∧
      (s.ev.k = 0x105 → exec .csrWrite s = only s (fun h => { h with csr := { h.csr with stvec := v &&& ~~~3#64 } })) ∧
      (s.ev.k = 0x140 → exec .csrWrite s = only s (fun h => { h with csr := { h.csr with sscratch := v } })) ∧
      (s.ev.k = 0x141 → exec .csrWrite s = only s (fun h => { h with csr := { h.csr with sepc := v &&& ~~~1#64 } })) ∧
      (s.ev.k = 0x144 → exec .csrWrite s = only s (fun h => { h with csr := { h.csr with ssip := v.getLsbD 1 } })) ∧
      (s.ev.k = 0x14D → exec .csrWrite s = only s (fun h => { h with csr := { h.csr with stimecmp := v } })))) ∧
  (∀ s : State, s.ev.c = false →
    let caps (w : Writer) : Prop := s.ev.addr = 0xF30000000000 ∧ s.ev.size = 8 ∧ s.ev.writer = w
    (mmioReg s.ev.addr = none → exec .mmioWrite s = .next (s.emit (.refusedAccess s.ev.addr))) ∧
    (caps .host → exec .mmioWrite s =
      .next { s with mistral := { s.mistral with hcap := s.ev.v.toNat % 2 ^ 16 } }) ∧
    (∀ w, w ≠ .host → caps w → exec .mmioWrite s = .next s) ∧
    (∀ k, k < 2 ^ 22 → s.ev.addr = 0xF40000000000 + 8 * k → s.ev.size = 8 →
      (s.ev.writer ≠ .quince → exec .mmioWrite s = .next s) ∧
      (s.ev.writer = .quince → ∃ t, exec .mmioWrite s = .next t ∧ t.mem = s.mem ∧ t.harts = s.harts ∧
        (∀ i, i < 32 → Tab.get t.bias (32 * k + i) 0 = s.ev.v.toNat / 4 ^ i % 4) ∧
        (∀ p, (p < 32 * k ∨ 32 * k + 32 ≤ p) → Tab.get t.bias p 0 = Tab.get s.bias p 0))) ∧
    (∀ p, p < 16 → s.ev.addr = 0xF30000000100 + 0x20 * p → s.ev.size = 8 → s.ev.writer = .host →
      exec .mmioWrite s = .next (s.updPart p (fun a => { a with fcls := s.ev.v.toNat / 2 ^ 45 % 8, floor := s.ev.v.toNat % 2 ^ 16 }))))

/-! ### Queues and their waiters -/

/-- The waiter `w` of queue `q` has entered its task, with the next id of the queue's partition, and its hart goes on. -/
def Sys2Proof.Claims.WaiterEnters (s t : State) (q : Nat) (w : QWait) : Prop :=
  (∃ k : QTask, k.id = (s.prt (s.queue q).part).nextId ∧ k.desc = w.desc ∧ k.at_ = s.time ∧
    (t.queue q).tasks = (s.queue q).tasks.concat k) ∧
  (t.prt (s.queue q).part).nextId = (s.prt (s.queue q).part).nextId + 1 ∧ (∀ x ∈ (t.queue q).waiters, x.hart ≠ w.hart) ∧
  (t.hart w.hart).pc = (s.hart w.hart).pc + 4 ∧ (t.hart w.hart).park = none ∧ (∀ r, (t.hart w.hart).xv r = (s.hart w.hart).xv r) ∧
  (∀ r ∈ w.takes, r % 32 ≠ 0 → ((t.hart w.hart).cond .x r).1 = .opened) ∧ (∀ h, h ≠ w.hart → t.hart h = s.hart h) ∧ t.mem = s.mem

/-! ### The scheduler -/

/-- The chosen task is bound in its slot with its entry state, and has left its queue. That bit 0 of the entry pc is
cleared is read from R248's 2-byte alignment (DEDUCED, log 35). -/
def Sys2Proof.Claims.BoundIn (s t : State) (c : Choice) : Prop :=
  (t.hart c.slot).task.map (·.id) = some c.task.id ∧ (t.hart c.slot).pc = c.task.desc.pc &&& ~~~1#64 ∧
  (t.hart c.slot).mode = .u ∧ (t.hart c.slot).park = none ∧ (t.hart c.slot).csr = (s.hart c.slot).csr ∧
  (c.task.idx.length = 4 → (t.hart c.slot).xv 16 = c.task.id.setWidth 64 ∧ (t.hart c.slot).xv 17 = c.task.desc.key.setWidth 64 ∧
    (∀ k, k < 4 → (t.hart c.slot).xv (BitVec.ofNat 5 (18 + k)) = BitVec.ofNat 64 (c.task.idx.getD k 0)) ∧
    (c.task.desc.args.length = 6 → ∀ k, k < 6 → (t.hart c.slot).xv (BitVec.ofNat 5 (10 + k)) = c.task.desc.args.getD k 0)) ∧
  (∀ x ∈ (t.queue c.queue).tasks, x.id ≠ c.task.id) ∧ t.mem = s.mem

/-- R249, R368, R370, R371: the oldest recorded enqueuer takes the slot that is free; one that was answered full asks
again after 256 cycles and is recorded when fewer than 64 are; a bucket gains what has accrued up to BURST, and the
oldest enqueuer that its rate held goes on at a whole token. R189, R200, R259, R372 to R377, R381: a die binds the
task that its scheduler takes, at most one in 8 cycles, with its entry state. A waiting task rises one class for each
2^18 cycles, and past class 6 becomes urgent; an urgent one that has found no slot for 2^17 cycles evicts its victim,
which is saved at an instruction boundary, and takes its slot at a bind time of the die. A preload names the task the slot would take next, and is
discarded when the slot's task runs past its budget. That the 2^17 cycles start where the scheduler first finds no slot for
the urgent task, and what makes a task urgent, are the model's reading of R377 (log 39); the entry pc is log 35's. -/
def Obligations.QueuesAndScheduler : Prop :=
  (
    (∀ (s : State) (w : QWait),
      let q := s.ev.q
      let first := (s.queue q).waiters.find? (fun x => decide (x.why = 0))
      (first = none → exec .enqueueArrive s = .next s) ∧
      (first = some w → s.enqStatus (s.partOf w.hart) q 1 0 = 1 → exec .enqueueArrive s = .next s) ∧
      (first = some w → s.enqStatus (s.partOf w.hart) q 1 0 = 0 → ∃ t, exec .enqueueArrive s = .next t ∧ WaiterEnters s t q w)) ∧
    (∀ (s : State) (w : QWait),
      let q := s.ev.q
      let n := (s.queue q).recorded
      (s.queue q).waiters[s.ev.k]? = some w →
      (w.why ≠ 1 ∨ s.time < w.since + 256 → exec .enqueueRetry s = .next s) ∧
      (w.why = 1 → w.since + 256 ≤ s.time →
        (s.enqStatus (s.partOf w.hart) q 1 n = 0 → ∃ t, exec .enqueueRetry s = .next t ∧ WaiterEnters s t q w) ∧
        (s.enqStatus (s.partOf w.hart) q 1 n = 1 → exec .enqueueRetry s = .next (s.updQueue q (fun a => { a with
          waiters := a.waiters.filter (fun x => x.hart != w.hart) ++ [{ w with why := if n < 64 then 0 else 1, since := s.time }] }))))) ∧
    (∀ (s : State) (w : QWait),
      let p := s.ev.p
      let q := s.ev.q
      let f := s.filterOf p q
      let b := Tab.get s.buckets (filterKey p q) (0, 0)
      let level := min (f.toNat / 2 ^ 16 % 2 ^ 8 * 65536) (b.1 + f.toNat % 2 ^ 16 * (s.time - b.2))
      let t0 : State := { s with buckets := Tab.set s.buckets (filterKey p q) (level, s.time) }
      let first := (s.queue q).waiters.find? (fun w => decide (w.why = 2) && decide (s.partOf w.hart = p))
      (f.toNat / 2 ^ 16 % 2 ^ 8 = 0 → exec .filterTokenAccrue s = .next s) ∧
      (f.toNat / 2 ^ 16 % 2 ^ 8 ≠ 0 →
        ((first = none ∨ level < 65536) → exec .filterTokenAccrue s = .next t0) ∧
        (first = some w → 65536 ≤ level → (s.queue q).part ≠ p → (s.queue q).tasks.length + (s.queue q).recorded + 1 ≤ (s.queue q).cap →
          ∃ t, exec .filterTokenAccrue s = .next t ∧ WaiterEnters s t q w ∧
            Tab.get t.buckets (filterKey p q) (0, 0) = (level - 65536, s.time))))) ∧
  (
    (∀ (s : State) (c : Choice),
      let d := s.ev.p
      let u : State := s.queues.foldl (fun t e => if e.2.exists_ && !(t.prt e.2.part).stopped then t.noteFit e.1 else t) s
      (s.time < (s.die d).bindAt → exec .taskBind s = .next u) ∧
      ((s.die d).bindAt ≤ s.time → (s.die d).preload = [] →
        (u.choose d none 0 = none → exec .taskBind s = .next u) ∧
        (u.choose d none 0 = some c → (u.queue c.queue).waiters = [] →
          ∃ t, exec .taskBind s = .next t ∧ BoundIn s t c ∧ (t.die d).bindAt = s.time + 8 ∧
            ((u.queue c.queue).eff c.task < 7 → ∀ h, h ≠ c.slot → t.hart h = s.hart h)))) ∧
    (∀ (s : State) (x : QTask),
      let q := s.ev.q
      let a := s.queue q
      a.tasks[s.ev.k]? = some x →
      (a.base x < 6 → x.aged < 7 → x.at_ + (x.aged + 1) * 2 ^ 18 ≤ s.time →
        exec .taskAgeing s = .next (s.updQueue q (fun b => { b with tasks := b.tasks.set s.ev.k { x with aged := x.aged + 1 } }))) ∧
      (6 ≤ a.base x ∨ 7 ≤ x.aged ∨ s.time < x.at_ + (x.aged + 1) * 2 ^ 18 → exec .taskAgeing s = .next s)) ∧
    (∀ (s : State) (x : QTask) (h : Nat),
      let q := s.ev.q
      let a := s.queue q
      let bindAt := (s.die (dieOf h)).bindAt
      a.offered = some x → a.tasks.find? (fun y => y.id == x.id) = some x → a.exists_ = true → (s.prt a.part).stopped = false →
      ((a.urgent x = false ∨ ∃ d, d < 4 ∧ (s.place d q x none).isSome = true) →
        ∃ t, exec .urgentEvict s = .next t ∧ ((t.queue q).tasks.find? (fun y => y.id == x.id)).bind (·.nofit) = none ∧
          t.harts = s.harts ∧ t.yielded = s.yielded ∧ t.mem = s.mem) ∧
      (a.urgent x = true → (∀ d, d < 4 → s.place d q x none = none) →
        (x.nofit = none → exec .urgentEvict s =
          .next (s.updQueue q (fun b => { b with tasks := b.tasks.map (fun y => if y.id = x.id then { y with nofit := some s.time } else y) }))) ∧
        (∀ n, x.nofit = some n →
          (s.time < n + 2 ^ 17 → exec .urgentEvict s = .next s) ∧
          (n + 2 ^ 17 ≤ s.time → s.victim q x = some h →
            ((s.hart h).canLeave = false ∨ s.fillsDue h = true ∨ s.time < bindAt → exec .urgentEvict s = .next s) ∧
            ((s.hart h).canLeave = true → s.fillsDue h = false → bindAt ≤ s.time → a.waiters = [] →
              ∃ t y, exec .urgentEvict s = .next t ∧ BoundIn s t ⟨q, x, h⟩ ∧ t.yielded = s.yielded.concat y ∧ y.slot = h ∧
                y.hart.task = (s.hart h).task ∧ y.hart.pc = (s.hart h).pc ∧ y.hart.park = none ∧ y.hart.late = []))))) ∧
    (∀ (s : State) (c : Choice),
      let h := s.ev.h
      let d := dieOf h
      ((s.hart h).task = none ∨ s.slotLoad h ≠ 1 ∨ s.overBudget h = true ∨ s.pickFor h = none → exec .taskPreload s = .next s) ∧
      ((s.hart h).task.isSome = true → s.slotLoad h = 1 → s.overBudget h = false → s.pickFor h = some c →
        (∀ p ∈ (s.die d).preload, ¬ (p.queue = c.queue ∧ p.id = c.task.id)) →
        ∃ t p, exec .taskPreload s = .next t ∧ (t.die d).preload = (s.die d).preload.concat p ∧ p.queue = c.queue ∧ p.id = c.task.id ∧
          p.hart = h ∧ (∀ k, SameRegs (s.hart k) (t.hart k) ∧ (t.hart k).pc = (s.hart k).pc) ∧ t.queues = s.queues ∧ t.mem = s.mem ∧
          t.tmem = s.tmem)) ∧
    (∀ (s : State) (p : Preload),
      let h := s.ev.h
      (s.overBudget h = false → exec .runBudgetExceeded s = .next s) ∧
      (s.overBudget h = true → (s.die (dieOf h)).preload.find? (fun x => x.hart == h) = some p →
        ∃ t, exec .runBudgetExceeded s = .next t ∧ (t.die (dieOf h)).preload = (s.die (dieOf h)).preload.filter (fun x => decide (x ≠ p)) ∧
          t.harts = s.harts ∧ t.queues = s.queues ∧ t.mem = s.mem)))

/-! ### Partitions, functions and calls -/

/-- R57, R82, R95, R165, R189, R266, R382 to R387: stopping a partition abandons interruptible parks and lands late results,
and each of its harts loses its reservation (R266 names pre-emption; that a stop is one is DEDUCED, log 12); resuming lets its harts issue their saved commands first. A quad that
holds no work passes to another partition with its tiles freed, each valid one with its generation one higher, and with
tile storage and matrix state zero. A function's reset denies enqueues, removes queued tasks with a record, and at its
end frees the tiles of its tasks, also those that a stopped partition left. A task retired as failed leaves its slot with
a record, here in Chinook's log for a queue without a ring. -/
def Obligations.PartitionsMove : Prop :=
  (∀ (s : State),
    let p := s.ev.p
    ((s.prt p).stopped = true → exec .partitionStop s = .next s) ∧
    ((s.prt p).stopped = false →
      ∃ t, exec .partitionStop s = .next t ∧ (t.prt p).stopped = true ∧ t.mem = s.mem ∧ t.tmem = s.tmem ∧
        (∀ h ∈ s.partHarts p, (t.hart h).resv = none ∧ (t.hart h).late = [] ∧ (t.hart h).pc = (s.hart h).pc ∧
          (t.hart h).task = (s.hart h).task ∧ (t.hart h).csr = (s.hart h).csr) ∧
        (∀ h, h ∉ s.partHarts p → t.hart h = s.hart h)) ∧
    ((s.prt p).stopped = false ∨ (∃ x ∈ s.saved, x.part = p) → exec .partitionResume s = .next s) ∧
    ((s.prt p).stopped = true → (∀ x ∈ s.saved, x.part ≠ p) →
      ∃ t, exec .partitionResume s = .next t ∧ (t.prt p).stopped = false ∧ t.mem = s.mem ∧ t.tmem = s.tmem ∧
        (∀ h ∈ s.partHarts p, (t.hart h).resuming = true ∧ (t.hart h).slide = none ∧ (t.hart h).resv = none ∧
          (t.hart h).pc = (s.hart h).pc ∧ (t.hart h).task = (s.hart h).task ∧ (t.hart h).csr = (s.hart h).csr) ∧
        (∀ h, h ∉ s.partHarts p → t.hart h = s.hart h))) ∧
  (∀ (s : State),
    let q := s.ev.q
    (s.quadIdle q = false → s.quadStopped q = false → exec .quadReassign s = .next s) ∧
    (q < Config.quads → s.ev.p < 16 → s.ev.b = false → (s.quad q).part ≠ some s.ev.p → s.quadIdle q = true → s.quadStopped q = false →
      (∀ x ∈ s.saved, ¬ (x.quad = q ∧ x.part = s.ev.p)) →
      ∃ t, exec .quadReassign s = .next t ∧ (t.quad q).part = some s.ev.p ∧ (t.quad q).acc = [] ∧
        (∀ k, let e := Tab.get (s.quad q).tiles k {}
          let e' := Tab.get (t.quad q).tiles k {}
          e'.v = false ∧ (e.v = true → e'.gen = e.gen + 1)) ∧
        (t.quad q).m = Vector.replicate 4 {} ∧ (t.quad q).fifo = [] ∧
        (∀ a, q * 2 ^ 21 ≤ a → a < (q + 1) * 2 ^ 21 → t.tmem.read a = 0) ∧
        (∀ a, (a < q * 2 ^ 21 ∨ (q + 1) * 2 ^ 21 ≤ a) → t.tmem.read a = s.tmem.read a) ∧ t.mem = s.mem ∧
        (∀ h, t.hart h = if quadOf h = q then {} else s.hart h))) ∧
  (∀ (s : State),
    let f := s.ev.p
    let qs := s.funcQueues f
    let fn (t : State) : Func := Tab.get t.funcs f {}
    (f = 0 ∨ Config.functions < f → exec .vfReset s = .next s) ∧
    (1 ≤ f → f ≤ Config.functions → (fn s).resetting = false →
      ∃ t, exec .vfReset s = .next t ∧ (fn t).resetting = true ∧ t.mem = s.mem ∧ t.tmem = s.tmem ∧
        ((∀ q ∈ qs, (s.queue q).waiters = []) → t.harts = s.harts)) ∧
    (∀ q x rest, 1 ≤ f → f ≤ Config.functions → (fn s).resetting = true →
      qs.find? (fun q => !(s.queue q).tasks.isEmpty) = some q → (s.queue q).tasks = x :: rest → (s.queue q).lfr = 0 →
      ∃ t, exec .vfReset s = .next t ∧ t.mem = s.mem ∧ t.harts = s.harts ∧ (∀ y ∈ (t.queue q).tasks, y.id ≠ x.id) ∧
        t.out = s.out.concat (.chinookLog (BitVec.ofNat 64 (x.id.toNat * 2 ^ 32 + 2)) x.desc.pc 0
          (BitVec.ofNat 64 (x.desc.key.toNat * 2 ^ 32 + q)))) ∧
    (1 ≤ f → f ≤ Config.functions → (fn s).resetting = true → (∀ q ∈ qs, (s.queue q).tasks = []) → s.funcHarts qs = [] → s.yielded = [] →
      s.savedTask qs = none → s.ev.stuck = [] →
      ∃ t, exec .vfReset s = .next t ∧ (fn t).resetting = false ∧ t.mem = s.mem ∧ t.harts = s.harts ∧
        (∀ q h, let e := Tab.get (s.quad q).tiles h {}
          e.v = true → e.queue ∈ qs → (Tab.get (t.quad q).tiles h {}).v = false) ∧
        (∀ x ∈ t.saved, ∀ e ∈ x.state.tiles, e.2.queue ∈ qs → e.2.v = false))) ∧
  (∀ (s : State) (k : Task),
    let h := s.ev.h
    let a := s.hart h
    a.task = some k →
    (a.park = none → exec .retireCall s = .next s) ∧
    (a.park = some .chinook → a.xv 17 ≠ 0 → exec .retireCall s = .next s) ∧
    (a.park = some .chinook → a.xv 17 = 0 → (∀ c ∈ (s.quad (quadOf h)).mq, c.hart ≠ h) → s.tilesBusy h k.id = false →
      (s.queue k.queue).lfr = 0 → (∀ y ∈ s.yielded, y.slot ≠ h) →
      ∃ t, exec .retireCall s = .next t ∧ t.hart h = { csr := a.csr, seq := a.seq } ∧ t.mem = s.mem ∧
        t.out.getLast? = some (.chinookLog (BitVec.ofNat 64 (k.id.toNat * 2 ^ 32 + (a.xv 10).toNat % 256 * 256 + 1)) a.csr.sepc
          a.csr.stval (BitVec.ofNat 64 (k.key.toNat * 2 ^ 32 + k.queue))) ∧
        (∀ x ∈ s.ownTiles h k.id, (Tab.get (t.quad (quadOf h)).tiles x {}).v = false)))

/-- R408, R409: a call ends with a0: MSIX sends the vector of a function of the caller's partition, SWI makes the
software interrupt of a hart of it pending, and any other target answers 1 with no effect; CLAIM takes the oldest
source of the partition. A source is pending once. A hart that is parked in no such call is not changed. -/
def Obligations.ChinookCalls : Prop :=
  let ends (v : Nat) : Hart → Hart := fun b => (b.setX 10 (BitVec.ofNat 64 v)).advance 4
  let calls (s : State) (n : Word) : Prop := (s.hart s.ev.h).park = some .chinook ∧ (s.hart s.ev.h).xv 17 = n
  (∀ s : State,
    let h := s.ev.h
    let a := s.hart h
    let f := (a.xv 11).toNat
    let n := (a.xv 10).toNat
    let p := s.partOf h
    (¬ calls s 1 → exec .msixCall s = .next s) ∧ (¬ calls s 2 → exec .swiCall s = .next s) ∧ (¬ calls s 3 → exec .claimCall s = .next s) ∧
    (calls s 1 →
      ((Tab.get s.funcs f {}).part = some p → exec .msixCall s = .next ((s.emit (.msix f (n % 8))).updHart h (ends 0))) ∧
      ((Tab.get s.funcs f {}).part ≠ some p → exec .msixCall s = .next (s.updHart h (ends 1)))) ∧
    (calls s 2 →
      (n < 12288 → s.partOf n = p → exec .swiCall s =
        .next ((s.updHart n (fun b => { b with csr := { b.csr with ssip := true } })).updHart h (ends 0))) ∧
      (12288 ≤ n ∨ s.partOf n ≠ p → exec .swiCall s = .next (s.updHart h (ends 1)))) ∧
    (calls s 3 → ∃ t, exec .claimCall s = .next t ∧ (t.prt p).sources = (s.prt p).sources.tail ∧
      (t.hart h).xv 11 = BitVec.ofNat 64 ((s.prt p).sources.headD 0) ∧ (t.hart h).xv 10 = 0 ∧ (t.hart h).pc = a.pc + 4 ∧
      (t.hart h).park = none ∧ (∀ r, r ≠ 10 → r ≠ 11 → (t.hart h).xv r = a.xv r) ∧ t.mem = s.mem)) ∧
  (∀ s : State, s.ev.p < 16 →
    let n : Nat := match s.ev.src with
      | .errorLog => 1
      | .linkChange => 2
      | .mistral => 3
    (n ∈ (s.prt s.ev.p).sources → ∃ t, exec .externalSourceRaise s = .next t ∧ t.prt s.ev.p = s.prt s.ev.p ∧ t.harts = s.harts) ∧
    (n ∉ (s.prt s.ev.p).sources → ∃ t, exec .externalSourceRaise s = .next t ∧
      t.prt s.ev.p = { s.prt s.ev.p with sources := (s.prt s.ev.p).sources.concat n } ∧ t.harts = s.harts ∧ t.mem = s.mem ∧
      ∀ h, s.partOf h = s.ev.p → (t.sip h).testBit 9 = true))

/-! ### The host port, firmware and peers -/

/-- R18, R401, R411 to R416: a module of the port trains to a rate; an image is accepted with good signatures at or above
the fused version, the others only after Quince's, and a refused one leaves the module in recovery, where it goes on
answering SPDM and takes images, and every other turn of an agent does nothing (which turns those are is DEDUCED, log 48).
SPDM answers the measurements in R412's order (each a digest of its items, log 48) with a signature, the key assignments
and the map as they were measured. A link comes up under a new incarnation when it rejoins, and its change is a source of
its partition. A partner's access is answered with the bytes of its address, or performed, under the partition of the
link; it fails with cause 13 or 15 where its translation does, with 25 where it writes a frozen page, and with 7 where the
link is down or bound to no partition; one that misses at the partition stage, or reads a frozen page under THAW, waits. An
abort record stops the transfers over links of its collective. -/
def Obligations.ModuleAndPeers : Prop :=
  (∀ s : State, s.ev.p < 4 → exec .ucieTraining s = .next { s with ucie := Tab.set s.ucie s.ev.p s.ev.rate }) ∧
  (∀ s : State,
    let n : Nat := match s.ev.img with
      | .quince => 0
      | .chinook => 1
      | .mistral => 2
      | .security => 3
    let known : Prop := ∃ v ∈ s.sec.versions, v.1 = 0
    (n ≠ 0 → ¬ known → exec .firmwareVerify s = .next s) ∧
    ((n = 0 ∨ known) → s.ev.b = true → s.sec.fused ≤ s.ev.v.toNat →
      exec .firmwareVerify s = .next { s with sec := { s.sec with versions := Tab.set s.sec.versions n s.ev.v.toNat } }) ∧
    ((n = 0 ∨ known) → s.ev.b = false ∨ s.ev.v.toNat < s.sec.fused →
      exec .firmwareVerify s = .next { s with sec := { s.sec with recovery := true } }) ∧
    (∀ x rest, s.sec.recovery = true → s.agenda = x :: rest →
      let answers : Prop := (∃ a, x = .event .spdmRequest a) ∨ (∃ a, x = .event .firmwareVerify a) ∨ ∃ n, x = .advance n
      (¬ answers → step s = .next { s with agenda := rest }) ∧
      (∀ a, x = .event .spdmRequest a → step s = andThen (exec .spdmRequest { s with agenda := rest, ev := a }) State.settle))) ∧
  (∀ s : State,
    let image (n : Nat) : Nat := Tab.get s.sec.versions n 0
    ∃ t, exec .spdmRequest s = .next t ∧ t.out = s.out.concat (.spdm [Config.digest 0 [], Config.digest 1 [image 0], Config.digest 2 [image 1],
        Config.digest 3 [image 2], Config.digest 4 [image 3], Config.digest 5 [s.sec.fused], Config.digest 6 s.sec.keyMap,
        Config.digest 7 s.sec.partMap, Config.signature s.fresh]) ∧
      t.fresh = s.fresh + 1 ∧ t.mem = s.mem ∧ t.harts = s.harts ∧ t.sec = s.sec) ∧
  (∀ s : State,
    let l := s.ev.p
    let k := Tab.get s.links l {}
    (12 ≤ l ∨ k.up = s.ev.b → exec .boraLinkChange s = .next s) ∧
    (l < 12 → k.up ≠ s.ev.b →
      ∃ t, exec .boraLinkChange s = .next t ∧ (Tab.get t.links l {}).up = s.ev.b ∧ t.mem = s.mem ∧ t.harts = s.harts ∧
        (s.ev.b = true → (Tab.get t.links l {}).peerid = s.ev.v.setWidth 16 ∧
          (Tab.get t.links l {}).inc = k.inc + (if k.joined then 1 else 0)) ∧
        (s.ev.b = false → (Tab.get t.links l {}).inc = k.inc) ∧ (k.bnd = true → 2 ∈ (t.prt k.part).sources))) ∧
  (∀ s : State,
    let l := s.ev.p
    let k := Tab.get s.links l {}
    let agent := 65536 + l
    let room := 64 - s.ev.v.toNat % 64
    let w : PeerWait := { link := l, va := s.ev.v, bytes := s.ev.bytes.map (fun b => b.take room), n := min s.ev.size room }
    (l < 12 → (k.up = false ∨ k.bnd = false) → exec .peerRequest s =
      .next (s.emit (match s.ev.bytes with
        | none => .peerRead l [] 7
        | some _ => .peerWrite l 7))) ∧
    (∀ q, l < 12 → k.up = true → k.bnd = true → s.peerReq l k = some q →
      (∀ c y, s.ev.bytes = none → s.engineAccess agent q s.ev.v .load 0 = .fail c y → c ≠ 25 →
        exec .peerRequest s = .next ((s.tellEngine q.quad k.part 0 c s.ev.v y).emit (.peerRead l [] 13))) ∧
      (∀ b c y, s.ev.bytes = some b → s.engineAccess agent q s.ev.v .store 0 = .fail c y →
        exec .peerRequest s = .next ((s.tellEngine q.quad k.part 0 c s.ev.v y).emit (.peerWrite l (if c = 25 then 25 else 15)))) ∧
      (∀ g, s.engineAccess agent q s.ev.v (if s.ev.bytes.isSome then .store else .load) 0 = .miss g →
        ∃ t, exec .peerRequest s = .next t ∧ t.peerWaits = s.peerWaits.concat { w with since := some s.time } ∧ t.mem = s.mem ∧
          t.out = s.out.concat (.chinookMiss k.part g)) ∧
      (∀ c, s.ev.bytes = none → s.engineAccess agent q s.ev.v .load 0 = .ok c → c.e.frozen = true → s.pageLocked (pageOf c.pa) = true →
        exec .peerRequest s = .next { s with peerWaits := s.peerWaits.concat w }) ∧
      (∀ c, s.ev.bytes = none → s.engineAccess agent q s.ev.v .load 0 = .ok c → isMmio c.pa = false →
        (c.e.frozen = true → s.pageLocked (pageOf c.pa) = false) → s.badRange c.pa w.n = false →
        ∃ t, exec .peerRequest s = .next t ∧ t.out.getLast? = some (.peerRead l (c.mem.readBytes c.pa w.n) 0) ∧ t.mem = s.mem ∧
          (c.e.frozen = true → (Tab.get t.links l {}).replicas = true)) ∧
      (∀ c b, s.ev.bytes = some b → s.engineAccess agent q s.ev.v .store 0 = .ok c → isMmio c.pa = false →
        ∃ t, exec .peerRequest s = .next t ∧ t.out.getLast? = some (.peerWrite l 0) ∧ t.mem = s.mem.writeBytes c.pa (b.take room)))) ∧
  (∀ s : State,
    let coll : BitVec 16 := s.ev.v.setWidth 16
    let spans (x : Xfer) : Prop := x.cpyb = true ∧ ∃ src l, x.link src = some l ∧ (Tab.get s.links l {}).coll = coll
    (coll = 0 → exec .collectiveAbort s = .next s) ∧
    (coll ≠ 0 → ∃ t, exec .collectiveAbort s = .next t ∧ t.mem = s.mem ∧ t.harts = s.harts ∧
      (∀ q x, x ∈ (s.quad q).running → spans x → x.stage = .running → { x with aborted := true } ∈ (t.quad q).running) ∧
      (∀ q x, x ∈ (s.quad q).running → (¬ spans x ∨ x.stage ≠ .running) → x ∈ (t.quad q).running) ∧
      (∀ q x, x ∈ (t.quad q).cq → x ∈ (s.quad q).cq ∧ ¬ spans x) ∧ (∀ y ∈ t.saved, ∀ x ∈ y.state.cq, ¬ spans x)))

/-! ### The machine as a whole -/

/-- The values that the specification gives for reset (R36, R46, R187, R195, R200, R217, R262, R389, R400, R403):
device time 0; in every hart the entry formats, bwph 0, pwreq 7 and no reservation; in every partition both limits 30;
every quad's controller 0 and its cap OP7; Mistral's floors and caps; every page in device bias. That memory reads 0,
that the pc is 0, and the other values that State.reset names are the model's choice (logs 2, 3 and 9). -/
def Obligations.ResetState : Prop :=
  let s := State.reset
  s.time = 0 ∧ s.harts = [] ∧ s.agenda = [] ∧
  (∀ h, (s.hart h).fmts = [0x8000000000107698, 0x800000000000F4B8, 0x8000000000203476, 0x8000000000201254] ∧ (s.hart h).bwph = 0 ∧
    (s.hart h).pwreq = 7 ∧ (s.hart h).task = none ∧ (s.hart h).resv = none ∧ (s.hart h).vl = 0 ∧ (s.hart h).mode = .u ∧
    ∀ r, (s.hart h).xv r = 0) ∧
  (∀ p, (s.prt p).wdlim = 0x1E0000001E ∧ (s.prt p).stopped = false ∧ (s.prt p).sources = []) ∧
  (∀ q, s.regValue (.bankst q) = 0 ∧ s.regValue (.ways q) = 0 ∧ s.regValue (.phases q) = 0 ∧ s.regValue (.reserve q) = 0 ∧
    (s.quad q).opcap = 7 ∧ (s.quad q).opcur = 0 ∧ (s.quad q).part = none ∧
    ∀ k b, s.regValue (.tile q k b) = 0) ∧
  s.regValue .caps = 410 * 2 ^ 32 + 1900 * 2 ^ 16 + 1900 ∧ s.regValue .status = 0 ∧ s.regValue .evpop = 0 ∧
  (∀ k w, s.regValue (.queue k w) = 0) ∧ (∀ d, s.regValue (.epoch d) = 0 ∧ s.regValue (.sweep d) = 0) ∧
  (∀ p, Tab.get s.bias p 0 = 0 ∧ Tab.get s.freeze p {} = {} ∧ Tab.get s.share p {} = {}) ∧ (∀ a, s.mem.read a = 0 ∧ s.tmem.read a = 0) ∧
  s.MemCanonical

/-- R216, R221 and the encoding tables: words written from the table's fields decode to the instructions they stand
for, at least one of each of the 25 major opcodes and a 16-bit one; and words with an unassigned major opcode, with a field that
must be 0 (VFENCE's bits 11 to 7, SB with SBE = 0), with a scope code of 5, with a take bit on a register that forbids it and
with p0 where a predicate is needed are refused. -/
def Obligations.EncodingsDecode : Prop :=
  decodeTableWord 32 0x00A58513 = some (.scalarAlu (.imm .addi 10 11 10)) ∧
  decodeTableWord 32 0x92331283 = some (.scalarLoad .lh 5 6 0x923) ∧
  decodeTableWord 32 0x92333287 = some (.scalarLoad .fld 5 6 0x923) ∧
  decodeTableWord 32 0x8330000F = some .fenceTso ∧
  decodeTableWord 32 0xABCDE297 = some (.scalarAlu (.auipc 5 0xABCDE)) ∧
  decodeTableWord 32 0x0AD3129B = some (.scalarAlu (.sh .slliuw 5 6 45)) ∧
  decodeTableWord 32 0x927301A3 = some (.scalarStore .sb 6 7 0x923) ∧
  decodeTableWord 32 0x927321A7 = some (.scalarStore .fsw 6 7 0x923) ∧
  decodeTableWord 32 0x027332AF = some (.amo .add true false true 5 6 7) ∧
  decodeTableWord 32 0x027352B3 = some (.integerDivide .divu 5 6 7) ∧
  decodeTableWord 32 0xABCDE2B7 = some (.scalarAlu (.lui 5 0xABCDE)) ∧
  decodeTableWord 32 0x027342BB = some (.integerDivide .divw 5 6 7) ∧
  decodeTableWord 32 0x427372C3 = some (.scalarAlu (.ffused .madd .d 7 5 6 7 8)) ∧
  decodeTableWord 32 0x407372C7 = some (.scalarAlu (.ffused .msub .s 7 5 6 7 8)) ∧
  decodeTableWord 32 0x427372CB = some (.scalarAlu (.ffused .nmsub .d 7 5 6 7 8)) ∧
  decodeTableWord 32 0x407372CF = some (.scalarAlu (.ffused .nmadd .s 7 5 6 7 8)) ∧
  decodeTableWord 32 0x027312D3 = some (.scalarAlu (.farith .add .d 1 5 6 7)) ∧
  decodeTableWord 32 0x2A7315E3 = some (.scalarAlu (.branch .bne 6 7 0x555)) ∧
  decodeTableWord 32 0x9A5300E7 = some (.scalarAlu (.jalr 1 6 0x9A5)) ∧
  decodeTableWord 32 0xD54550EF = some (.scalarAlu (.jal 1 0xAAAAA)) ∧
  decodeTableWord 32 0x12730073 = some (.sfenceVma 7 6) ∧
  decodeTableWord 32 0x1462838B = some (.takingSll true false 6 5 7) ∧
  decodeTableWord 32 0x3AB5160B = some (.bfx false true 11 10 12) ∧
  decodeTableWord 32 0x1000300B = some .vfence ∧
  decodeTableWord 32 0x823254AB = some (.tld 8 3 4 9) ∧
  decodeTableWord 32 0x4216025B = some (.vminVv 2 1 12 4) ∧
  decodeTableWord 32 0x8B2FA45B = some (.vselVi 3 2 31 8) ∧
  decodeTableWord 32 0x4985087B = some (.vld 9 1 2 10 16) ∧
  decodeTableWord 16 0xC0A2 = some (.vqVor 24 2) ∧
  decodeTableWord 32 0x00000077 = none ∧ decodeTableWord 32 0xFFFFFFFF = none ∧ decodeTableWord 32 0x1000308B = none ∧
  decodeTableWord 32 0x1065202B = none ∧ decodeTableWord 32 0xA225002B = none ∧ decodeTableWord 32 0x0603028B = none ∧
  decodeTableWord 32 0x8820205B = none

/-- R216, R221: every instruction that has a word, with every operand that the encoding admits, is what the decoder
reads from that word, and the decoder reads no byte after it. -/
def Obligations.RoundTrip : Prop :=
  ∀ i : Instr, i.WellFormed → i.Encoded →
    decode i.bytes = .ok (i, []) ∧ (∀ rest, decode (i.bytes ++ rest) = .ok (i, rest)) ∧
    decodeTableWord (8 * i.len) (encode i) = some i

/-- R170, R183, R216, R221: the turn of a hart that may issue runs exec of the instruction that its bytes at the pc
decode to, with that hart at issue; bytes that decode to none take cause 2 with them in stval; a step of another agent
runs exec of its row with its data. Every step ends by stopping the partitions whose lost lines no list could hold and by
giving free locks to their oldest waiters (R80, R83, R127), and with the accesses that waited for the host or Chinook tried
again and what queues keep for WARMPC made (R376, R404, R407, R414). A 16-bit instruction's bytes are those of memory at the translated pc, where its
line is not in the L1 instruction cache. -/
def Obligations.StepRunsDecoded : Prop :=
  (∀ (s u : State) (h n w : Nat) (rest : List Turn),
    let at_ : State := { s with agenda := rest, cur := h }
    let after (r : Host.Outcome State Fault Refusal) := andThen (andThen r (fun v => v.afterIssue h)) State.settle
    s.agenda = .issue h :: rest → s.sec.recovery = false → s.mayIssue h = true → (s.hart h).resuming = false →
    at_.fetchRaw = .ok (n, w, u) →
    (∀ i l, decode (wordBytes n w) = .ok (i, l) → step s = after (exec i u.begins)) ∧
    (∀ r, decode (wordBytes n w) = .error r →
      step s = after (.next (u.begins.updMe (fun a => a.trap 2 (BitVec.ofNat 64 w) 0))))) ∧
  (∀ (s : State) (h : Nat) (rest : List Turn), s.agenda = .issue h :: rest → s.sec.recovery = false → s.mayIssue h = false →
    step s = .next (State.settle { s with agenda := rest, cur := h })) ∧
  (∀ (s : State) (i : Instr) (a : EvArg) (rest : List Turn), s.agenda = .event i a :: rest → s.sec.recovery = false → i.len = 0 →
    step s = andThen (exec i { s with agenda := rest, ev := a }) State.settle) ∧
  (∀ (s t : State) (e : TlbEntry) (pa : Nat),
    s.translate (s.reqOf s.cur) s.me.pc .fetch = .ok e pa t → (∀ l ∈ (t.core (coreOf s.cur)).l1i, l.1 ≠ lineOf pa) → pa % 64 ≤ 62 →
    isMmio pa = false → Tab.get t.bias (pageOf pa) 0 < 2 → t.mustSnoop s.cur pa false = false → t.badLine (lineOf pa) = false →
    t.mem.readN pa 2 % 4 ≠ 3 → ∃ u, s.fetchRaw = .ok (2, t.mem.readN pa 2, u) ∧ u.mem = t.mem)

/-- R181, R183: no instruction and no step of another agent stops the machine: exec answers a next state in every
state, an instruction that cannot have its effect having trapped, parked, or, for a step of an agent that is not due, left the
state (the model's choice, log 8); and so does every step of the machine. -/
def Obligations.NothingStops : Prop :=
  (∀ (i : Instr) (s : State), ∃ t, exec i s = .next t) ∧ ∀ s : State, s.Safe

/-- Every step keeps the two memories of the device in their canonical form, from every state that has it: a byte that
is written with 0 is unlisted, and no address is listed twice (the model's form of memory: log 3). -/
def Obligations.MemoriesStayCanonical : Prop :=
  ∀ s t : State, s.MemCanonical → step s = .next t → t.MemCanonical

/-- R170, R181, R184: a standard instruction with a fixed result that does not trap leaves the mode, the supervisor's
CSRs, the vector and predicate registers, the tokens, both memories and every other hart as they were; one that traps
enters S mode with its own address in sepc and changes no memory and no other hart. -/
def Obligations.ScalarFrame : Prop :=
  ∀ (s t : State) (a : AluInstr), exec (.scalarAlu a) s = .next t →
    t.mem = s.mem ∧ t.tmem = s.tmem ∧ (∀ h, h ≠ s.cur → t.hart h = s.hart h) ∧ t.me.v = s.me.v ∧ t.me.p = s.me.p ∧ t.me.vl = s.me.vl ∧
    t.me.vcfg = s.me.vcfg ∧ t.me.sb = s.me.sb ∧ t.me.csr.stvec = s.me.csr.stvec ∧ t.me.csr.sscratch = s.me.csr.sscratch ∧
    ((t.me.mode = s.me.mode ∧ t.me.csr = s.me.csr) ∨ (t.me.mode = .s ∧ t.me.csr.sepc = s.me.pc ∧ t.me.x = s.me.x ∧ t.me.f = s.me.f))

end
end

