-- ==== Sys2Proof/Laws/Memory.lean ====
section
/-!
SUPPORT. Byte memory and tables: what a read gives after a write, and that every operation on memory keeps its canonical form.
-/
namespace Sys2Proof.Machine

/-! ### The canonical form -/

/-- Every address of a memory is above `a`. -/
def Memory.above (a : Nat) (m : Memory) : Prop := ∀ c ∈ m, a < c.1

theorem Memory.wf_cons (a : Nat) (b : Byte) (m : Memory) :
    Memory.wf ((a, b) :: m) = true ↔ b ≠ 0 ∧ Memory.above a m ∧ Memory.wf m = true := by
  induction m generalizing a b with
  | nil => simp [Memory.wf, Memory.above]
  | cons c t ih =>
    obtain ⟨c, d⟩ := c
    have hc := ih c d
    constructor
    · intro h
      simp only [Memory.wf, Bool.and_eq_true, decide_eq_true_eq] at h
      refine ⟨h.1.1, ?_, h.2⟩
      intro x hx
      rcases List.mem_cons.mp hx with rfl | hx
      · exact h.1.2
      · exact Nat.lt_trans h.1.2 ((hc.mp h.2).2.1 x hx)
    · intro ⟨hb, hab, hw⟩
      simp only [Memory.wf, Bool.and_eq_true, decide_eq_true_eq]
      exact ⟨⟨hb, hab (c, d) (List.mem_cons_self ..)⟩, hw⟩

theorem Memory.wf_nil : Memory.wf [] = true := rfl

theorem Memory.above_put {a b : Nat} {v : Byte} {m : Memory} (h : Memory.above a m) (hab : a < b) :
    Memory.above a (m.put b v) := by
  induction m with
  | nil => intro c hc; simp [Memory.put] at hc; subst hc; exact hab
  | cons x t ih =>
    obtain ⟨j, w⟩ := x
    have hj : a < j := h (j, w) (List.mem_cons_self ..)
    have ht : Memory.above a t := fun c hc => h c (List.mem_cons_of_mem _ hc)
    simp only [Memory.put]
    split
    · intro c hc
      rcases List.mem_cons.mp hc with rfl | hc
      · exact hab
      · exact h c hc
    · split
      · intro c hc
        rcases List.mem_cons.mp hc with rfl | hc
        · exact hab
        · exact ht c hc
      · intro c hc
        rcases List.mem_cons.mp hc with rfl | hc
        · exact hj
        · exact ih ht c hc

/-- Putting a byte other than 0 keeps the form. -/
theorem Memory.wf_put {m : Memory} (h : m.wf = true) (a : Nat) {v : Byte} (hv : v ≠ 0) : (m.put a v).wf = true := by
  induction m with
  | nil => simpa [Memory.put, Memory.wf] using hv
  | cons x t ih =>
    obtain ⟨j, w⟩ := x
    obtain ⟨hw, habove, ht⟩ := (Memory.wf_cons j w t).mp h
    simp only [Memory.put]
    split
    · refine (Memory.wf_cons ..).mpr ⟨hv, ?_, h⟩
      intro c hc
      rcases List.mem_cons.mp hc with rfl | hc
      · assumption
      · exact Nat.lt_trans ‹a < j› (habove c hc)
    · split
      · subst_vars
        exact (Memory.wf_cons ..).mpr ⟨hv, habove, ht⟩
      · exact (Memory.wf_cons ..).mpr ⟨hw, Memory.above_put habove (by omega), ih ht⟩

/-- Leaving entries out keeps the form. -/
theorem Memory.wf_filter {m : Memory} (h : m.wf = true) (p : Host.Cell → Bool) : Memory.wf (m.filter p) = true := by
  induction m with
  | nil => rfl
  | cons x t ih =>
    obtain ⟨j, w⟩ := x
    obtain ⟨hw, habove, ht⟩ := (Memory.wf_cons j w t).mp h
    simp only [List.filter_cons]
    split
    · exact (Memory.wf_cons ..).mpr ⟨hw, fun c hc => habove c (List.mem_filter.mp hc).1, ih ht⟩
    · exact ih ht

/-- A write of one byte keeps the form. -/
theorem Memory.wf_write {m : Memory} (h : m.wf = true) (a : Nat) (v : Byte) : (m.write a v).wf = true := by
  unfold Memory.write
  split
  · exact Memory.wf_filter h _
  · exact Memory.wf_put h a ‹_›

/-- A write of bytes keeps the form. -/
theorem Memory.wf_writeBytes {m : Memory} (h : m.wf = true) (a : Nat) (l : List Byte) : (m.writeBytes a l).wf = true := by
  induction l generalizing m a with
  | nil => exact h
  | cons b t ih => exact ih (Memory.wf_write h a b) (a + 1)

/-- A write of a number's bytes keeps the form. -/
theorem Memory.wf_writeN {m : Memory} (h : m.wf = true) (a n v : Nat) : (m.writeN a n v).wf = true :=
  Memory.wf_writeBytes h a _

/-- Memory has its form after reset. -/
theorem State.reset_memCanonical : State.reset.mem.wf = true ∧ State.reset.tmem.wf = true := ⟨rfl, rfl⟩

/-! ### Reads after writes -/

theorem Memory.read_put (m : Memory) (a b : Nat) (v : Byte) :
    (m.put a v).read b = if b = a then v else m.read b := by
  induction m with
  | nil =>
    simp only [Memory.put, Memory.read]
    by_cases h : b = a
    · simp [h]
    · simp [h, Ne.symm h]
  | cons x t ih =>
    obtain ⟨j, w⟩ := x
    simp only [Memory.put]
    by_cases h : b = a
    · subst h
      split
      · simp [Memory.read]
      · split
        · simp [Memory.read]
        · simp only [Memory.read, ih, if_true]
          rw [if_neg (by omega)]
    · have h' : ¬a = b := Ne.symm h
      split
      · simp [Memory.read, h']
      · split
        · subst_vars; simp [Memory.read, h']
        · simp [Memory.read, ih, h]

theorem Memory.read_filter_ne (m : Memory) (a b : Nat) :
    Memory.read (m.filter (fun c => c.1 != a)) b = if b = a then 0 else m.read b := by
  induction m with
  | nil => simp [Memory.read]
  | cons x t ih =>
    obtain ⟨j, w⟩ := x
    by_cases hj : j = a
    · subst hj
      by_cases h : b = j
      · subst h; simpa using ih
      · simp [ih, h, Memory.read, Ne.symm h]
    · by_cases h : b = a
      · subst h; simp [hj, Memory.read, ih]
      · simp [hj, h, Memory.read, ih]

/-- Byte `b` after a write of byte `a`. -/
@[simp] theorem Memory.read_write (m : Memory) (a b : Nat) (v : Byte) :
    (m.write a v).read b = if b = a then v else m.read b := by
  unfold Memory.write
  split
  · subst_vars; exact Memory.read_filter_ne m a b
  · exact Memory.read_put m a b v

/-- A byte outside the written bytes reads as before. -/
theorem Memory.read_writeBytes_outside (m : Memory) (a b : Nat) (l : List Byte) (h : b < a ∨ a + l.length ≤ b) :
    (m.writeBytes a l).read b = m.read b := by
  induction l generalizing m a with
  | nil => rfl
  | cons x t ih =>
    simp only [Memory.writeBytes]
    simp only [List.length_cons] at h
    rw [ih (m.write a x) (a + 1) (by omega), Memory.read_write, if_neg (by omega)]

/-- Byte `k` of the written bytes reads as written. -/
theorem Memory.read_writeBytes_inside (m : Memory) (a k : Nat) (l : List Byte) (h : k < l.length) :
    (m.writeBytes a l).read (a + k) = l[k] := by
  induction l generalizing m a k with
  | nil => simp at h
  | cons x t ih =>
    simp only [Memory.writeBytes]
    cases k with
    | zero =>
      rw [Memory.read_writeBytes_outside _ _ _ _ (by omega)]
      simp
    | succ k =>
      have := ih (m.write a x) (a + 1) k (by simpa using h)
      rw [show a + (k + 1) = a + 1 + k by omega, this]
      simp

theorem leBytes_length (n v : Nat) : (leBytes n v).length = n := by
  induction n generalizing v with
  | zero => rfl
  | succ n ih => simp [leBytes, ih]

/-- The number of `n` little-endian bytes of `v`. -/
theorem leNat_leBytes (n v : Nat) : leNat (leBytes n v) = v % 256 ^ n := by
  induction n generalizing v with
  | zero => simp [leBytes, leNat, Nat.mod_one]
  | succ n ih =>
    have h : v % 256 ^ (n + 1) = v % 256 + 256 * (v / 256 % 256 ^ n) := by rw [Nat.pow_succ', Nat.mod_mul]
    rw [h]
    simp only [leBytes, leNat, ih, BitVec.toNat_ofNat]

theorem Memory.readBytes_writeBytes (m : Memory) (a : Nat) (l : List Byte) :
    (m.writeBytes a l).readBytes a l.length = l := by
  induction l generalizing m a with
  | nil => rfl
  | cons x t ih =>
    simp only [List.length_cons, Memory.readBytes, Memory.writeBytes]
    rw [ih, Memory.read_writeBytes_outside _ _ _ _ (by omega)]
    simp

/-- A number reads back as written. -/
theorem Memory.readN_writeN (m : Memory) (a n v : Nat) : (m.writeN a n v).readN a n = v % 256 ^ n := by
  unfold Memory.writeN Memory.readN
  have h := Memory.readBytes_writeBytes m a (leBytes n v)
  rw [leBytes_length] at h
  rw [h, leNat_leBytes]

/-! ### Tables -/

@[simp] theorem Tab.get_set_same {α : Type} (t : Tab α) (k : Nat) (a d : α) : Tab.get (Tab.set t k a) k d = a := by
  induction t with
  | nil => simp [Tab.set, Tab.get]
  | cons x t ih =>
    obtain ⟨j, b⟩ := x
    simp only [Tab.set]
    split
    · simp [Tab.get]
    · split
      · simp [Tab.get]
      · simp only [Tab.get]; split <;> simp_all

theorem Tab.get_set_other {α : Type} (t : Tab α) (k j : Nat) (a d : α) (h : j ≠ k) :
    Tab.get (Tab.set t k a) j d = Tab.get t j d := by
  induction t with
  | nil => simp [Tab.set, Tab.get, Ne.symm h]
  | cons x t ih =>
    obtain ⟨i, b⟩ := x
    simp only [Tab.set]
    split
    · simp [Tab.get, Ne.symm h]
    · split
      · subst_vars; simp [Tab.get, Ne.symm h]
      · simp only [Tab.get, ih]

/-! ### The agents' tables -/

@[simp] theorem State.hart_updHart (s : State) (h : Nat) (f : Hart → Hart) : (s.updHart h f).hart h = f (s.hart h) :=
  Tab.get_set_same ..

theorem State.hart_updHart_other (s : State) (h j : Nat) (f : Hart → Hart) (n : j ≠ h) : (s.updHart h f).hart j = s.hart j :=
  Tab.get_set_other _ _ _ _ _ n

@[simp] theorem State.me_updMe (s : State) (f : Hart → Hart) : (s.updMe f).me = f s.me := State.hart_updHart ..

@[simp] theorem State.quad_updQuad (s : State) (q : Nat) (f : Quad → Quad) : (s.updQuad q f).quad q = f (s.quad q) :=
  Tab.get_set_same ..

theorem State.quad_updQuad_other (s : State) (q j : Nat) (f : Quad → Quad) (n : j ≠ q) : (s.updQuad q f).quad j = s.quad j :=
  Tab.get_set_other _ _ _ _ _ n

@[simp] theorem State.core_updCore (s : State) (c : Nat) (f : Core → Core) : (s.updCore c f).core c = f (s.core c) :=
  Tab.get_set_same ..

@[simp] theorem State.die_updDie (s : State) (d : Nat) (f : Die → Die) : (s.updDie d f).die d = f (s.die d) :=
  Tab.get_set_same ..

@[simp] theorem State.prt_updPart (s : State) (p : Nat) (f : Part → Part) : (s.updPart p f).prt p = f (s.prt p) :=
  Tab.get_set_same ..

@[simp] theorem State.queue_updQueue (s : State) (q : Nat) (f : Queue → Queue) : (s.updQueue q f).queue q = f (s.queue q) :=
  Tab.get_set_same ..

end Sys2Proof.Machine
end

