-- ==== Sys2Proof/Laws/State.lean ====
section
/-!
SUPPORT. The fields that each update of the state leaves, one lemma per field and update.
-/
namespace Sys2Proof.Machine

/-! ### State.setHart -/

@[simp] theorem State.setHart_time (s : State) (h : Nat) (a : Hart) : (s.setHart h a).time = s.time := rfl
@[simp] theorem State.setHart_cur (s : State) (h : Nat) (a : Hart) : (s.setHart h a).cur = s.cur := rfl
@[simp] theorem State.setHart_agenda (s : State) (h : Nat) (a : Hart) : (s.setHart h a).agenda = s.agenda := rfl
@[simp] theorem State.setHart_turn (s : State) (h : Nat) (a : Hart) : (s.setHart h a).turn = s.turn := rfl
@[simp] theorem State.setHart_ev (s : State) (h : Nat) (a : Hart) : (s.setHart h a).ev = s.ev := rfl
@[simp] theorem State.setHart_fresh (s : State) (h : Nat) (a : Hart) : (s.setHart h a).fresh = s.fresh := rfl
@[simp] theorem State.setHart_nextXfer (s : State) (h : Nat) (a : Hart) : (s.setHart h a).nextXfer = s.nextXfer := rfl
@[simp] theorem State.setHart_cores (s : State) (h : Nat) (a : Hart) : (s.setHart h a).cores = s.cores := rfl
@[simp] theorem State.setHart_quads (s : State) (h : Nat) (a : Hart) : (s.setHart h a).quads = s.quads := rfl
@[simp] theorem State.setHart_dies (s : State) (h : Nat) (a : Hart) : (s.setHart h a).dies = s.dies := rfl
@[simp] theorem State.setHart_parts (s : State) (h : Nat) (a : Hart) : (s.setHart h a).parts = s.parts := rfl
@[simp] theorem State.setHart_queues (s : State) (h : Nat) (a : Hart) : (s.setHart h a).queues = s.queues := rfl
@[simp] theorem State.setHart_affinity (s : State) (h : Nat) (a : Hart) : (s.setHart h a).affinity = s.affinity := rfl
@[simp] theorem State.setHart_filters (s : State) (h : Nat) (a : Hart) : (s.setHart h a).filters = s.filters := rfl
@[simp] theorem State.setHart_buckets (s : State) (h : Nat) (a : Hart) : (s.setHart h a).buckets = s.buckets := rfl
@[simp] theorem State.setHart_mem (s : State) (h : Nat) (a : Hart) : (s.setHart h a).mem = s.mem := rfl
@[simp] theorem State.setHart_tmem (s : State) (h : Nat) (a : Hart) : (s.setHart h a).tmem = s.tmem := rfl
@[simp] theorem State.setHart_tpast (s : State) (h : Nat) (a : Hart) : (s.setHart h a).tpast = s.tpast := rfl
@[simp] theorem State.setHart_keyed (s : State) (h : Nat) (a : Hart) : (s.setHart h a).keyed = s.keyed := rfl
@[simp] theorem State.setHart_poison (s : State) (h : Nat) (a : Hart) : (s.setHart h a).poison = s.poison := rfl
@[simp] theorem State.setHart_failed (s : State) (h : Nat) (a : Hart) : (s.setHart h a).failed = s.failed := rfl
@[simp] theorem State.setHart_doomed (s : State) (h : Nat) (a : Hart) : (s.setHart h a).doomed = s.doomed := rfl
@[simp] theorem State.setHart_share (s : State) (h : Nat) (a : Hart) : (s.setHart h a).share = s.share := rfl
@[simp] theorem State.setHart_freeze (s : State) (h : Nat) (a : Hart) : (s.setHart h a).freeze = s.freeze := rfl
@[simp] theorem State.setHart_bias (s : State) (h : Nat) (a : Hart) : (s.setHart h a).bias = s.bias := rfl
@[simp] theorem State.setHart_regions (s : State) (h : Nat) (a : Hart) : (s.setHart h a).regions = s.regions := rfl
@[simp] theorem State.setHart_rwrites (s : State) (h : Nat) (a : Hart) : (s.setHart h a).rwrites = s.rwrites := rfl
@[simp] theorem State.setHart_waiters (s : State) (h : Nat) (a : Hart) : (s.setHart h a).waiters = s.waiters := rfl
@[simp] theorem State.setHart_nextTicket (s : State) (h : Nat) (a : Hart) : (s.setHart h a).nextTicket = s.nextTicket := rfl
@[simp] theorem State.setHart_greqs (s : State) (h : Nat) (a : Hart) : (s.setHart h a).greqs = s.greqs := rfl
@[simp] theorem State.setHart_opens (s : State) (h : Nat) (a : Hart) : (s.setHart h a).opens = s.opens := rfl
@[simp] theorem State.setHart_released (s : State) (h : Nat) (a : Hart) : (s.setHart h a).released = s.released := rfl
@[simp] theorem State.setHart_fills (s : State) (h : Nat) (a : Hart) : (s.setHart h a).fills = s.fills := rfl
@[simp] theorem State.setHart_freezes (s : State) (h : Nat) (a : Hart) : (s.setHart h a).freezes = s.freezes := rfl
@[simp] theorem State.setHart_flips (s : State) (h : Nat) (a : Hart) : (s.setHart h a).flips = s.flips := rfl
@[simp] theorem State.setHart_heldHost (s : State) (h : Nat) (a : Hart) : (s.setHart h a).heldHost = s.heldHost := rfl
@[simp] theorem State.setHart_peerWaits (s : State) (h : Nat) (a : Hart) : (s.setHart h a).peerWaits = s.peerWaits := rfl
@[simp] theorem State.setHart_eqWaits (s : State) (h : Nat) (a : Hart) : (s.setHart h a).eqWaits = s.eqWaits := rfl
@[simp] theorem State.setHart_shoots (s : State) (h : Nat) (a : Hart) : (s.setHart h a).shoots = s.shoots := rfl
@[simp] theorem State.setHart_bisnps (s : State) (h : Nat) (a : Hart) : (s.setHart h a).bisnps = s.bisnps := rfl
@[simp] theorem State.setHart_yielded (s : State) (h : Nat) (a : Hart) : (s.setHart h a).yielded = s.yielded := rfl
@[simp] theorem State.setHart_saved (s : State) (h : Nat) (a : Hart) : (s.setHart h a).saved = s.saved := rfl
@[simp] theorem State.setHart_hdm (s : State) (h : Nat) (a : Hart) : (s.setHart h a).hdm = s.hdm := rfl
@[simp] theorem State.setHart_funcs (s : State) (h : Nat) (a : Hart) : (s.setHart h a).funcs = s.funcs := rfl
@[simp] theorem State.setHart_links (s : State) (h : Nat) (a : Hart) : (s.setHart h a).links = s.links := rfl
@[simp] theorem State.setHart_peers (s : State) (h : Nat) (a : Hart) : (s.setHart h a).peers = s.peers := rfl
@[simp] theorem State.setHart_mistral (s : State) (h : Nat) (a : Hart) : (s.setHart h a).mistral = s.mistral := rfl
@[simp] theorem State.setHart_dph (s : State) (h : Nat) (a : Hart) : (s.setHart h a).dph = s.dph := rfl
@[simp] theorem State.setHart_sec (s : State) (h : Nat) (a : Hart) : (s.setHart h a).sec = s.sec := rfl
@[simp] theorem State.setHart_ucie (s : State) (h : Nat) (a : Hart) : (s.setHart h a).ucie = s.ucie := rfl
@[simp] theorem State.setHart_out (s : State) (h : Nat) (a : Hart) : (s.setHart h a).out = s.out := rfl

/-! ### State.setMe -/

@[simp] theorem State.setMe_time (s : State) (a : Hart) : (s.setMe a).time = s.time := rfl
@[simp] theorem State.setMe_cur (s : State) (a : Hart) : (s.setMe a).cur = s.cur := rfl
@[simp] theorem State.setMe_agenda (s : State) (a : Hart) : (s.setMe a).agenda = s.agenda := rfl
@[simp] theorem State.setMe_turn (s : State) (a : Hart) : (s.setMe a).turn = s.turn := rfl
@[simp] theorem State.setMe_ev (s : State) (a : Hart) : (s.setMe a).ev = s.ev := rfl
@[simp] theorem State.setMe_fresh (s : State) (a : Hart) : (s.setMe a).fresh = s.fresh := rfl
@[simp] theorem State.setMe_nextXfer (s : State) (a : Hart) : (s.setMe a).nextXfer = s.nextXfer := rfl
@[simp] theorem State.setMe_cores (s : State) (a : Hart) : (s.setMe a).cores = s.cores := rfl
@[simp] theorem State.setMe_quads (s : State) (a : Hart) : (s.setMe a).quads = s.quads := rfl
@[simp] theorem State.setMe_dies (s : State) (a : Hart) : (s.setMe a).dies = s.dies := rfl
@[simp] theorem State.setMe_parts (s : State) (a : Hart) : (s.setMe a).parts = s.parts := rfl
@[simp] theorem State.setMe_queues (s : State) (a : Hart) : (s.setMe a).queues = s.queues := rfl
@[simp] theorem State.setMe_affinity (s : State) (a : Hart) : (s.setMe a).affinity = s.affinity := rfl
@[simp] theorem State.setMe_filters (s : State) (a : Hart) : (s.setMe a).filters = s.filters := rfl
@[simp] theorem State.setMe_buckets (s : State) (a : Hart) : (s.setMe a).buckets = s.buckets := rfl
@[simp] theorem State.setMe_mem (s : State) (a : Hart) : (s.setMe a).mem = s.mem := rfl
@[simp] theorem State.setMe_tmem (s : State) (a : Hart) : (s.setMe a).tmem = s.tmem := rfl
@[simp] theorem State.setMe_tpast (s : State) (a : Hart) : (s.setMe a).tpast = s.tpast := rfl
@[simp] theorem State.setMe_keyed (s : State) (a : Hart) : (s.setMe a).keyed = s.keyed := rfl
@[simp] theorem State.setMe_poison (s : State) (a : Hart) : (s.setMe a).poison = s.poison := rfl
@[simp] theorem State.setMe_failed (s : State) (a : Hart) : (s.setMe a).failed = s.failed := rfl
@[simp] theorem State.setMe_doomed (s : State) (a : Hart) : (s.setMe a).doomed = s.doomed := rfl
@[simp] theorem State.setMe_share (s : State) (a : Hart) : (s.setMe a).share = s.share := rfl
@[simp] theorem State.setMe_freeze (s : State) (a : Hart) : (s.setMe a).freeze = s.freeze := rfl
@[simp] theorem State.setMe_bias (s : State) (a : Hart) : (s.setMe a).bias = s.bias := rfl
@[simp] theorem State.setMe_regions (s : State) (a : Hart) : (s.setMe a).regions = s.regions := rfl
@[simp] theorem State.setMe_rwrites (s : State) (a : Hart) : (s.setMe a).rwrites = s.rwrites := rfl
@[simp] theorem State.setMe_waiters (s : State) (a : Hart) : (s.setMe a).waiters = s.waiters := rfl
@[simp] theorem State.setMe_nextTicket (s : State) (a : Hart) : (s.setMe a).nextTicket = s.nextTicket := rfl
@[simp] theorem State.setMe_greqs (s : State) (a : Hart) : (s.setMe a).greqs = s.greqs := rfl
@[simp] theorem State.setMe_opens (s : State) (a : Hart) : (s.setMe a).opens = s.opens := rfl
@[simp] theorem State.setMe_released (s : State) (a : Hart) : (s.setMe a).released = s.released := rfl
@[simp] theorem State.setMe_fills (s : State) (a : Hart) : (s.setMe a).fills = s.fills := rfl
@[simp] theorem State.setMe_freezes (s : State) (a : Hart) : (s.setMe a).freezes = s.freezes := rfl
@[simp] theorem State.setMe_flips (s : State) (a : Hart) : (s.setMe a).flips = s.flips := rfl
@[simp] theorem State.setMe_heldHost (s : State) (a : Hart) : (s.setMe a).heldHost = s.heldHost := rfl
@[simp] theorem State.setMe_peerWaits (s : State) (a : Hart) : (s.setMe a).peerWaits = s.peerWaits := rfl
@[simp] theorem State.setMe_eqWaits (s : State) (a : Hart) : (s.setMe a).eqWaits = s.eqWaits := rfl
@[simp] theorem State.setMe_shoots (s : State) (a : Hart) : (s.setMe a).shoots = s.shoots := rfl
@[simp] theorem State.setMe_bisnps (s : State) (a : Hart) : (s.setMe a).bisnps = s.bisnps := rfl
@[simp] theorem State.setMe_yielded (s : State) (a : Hart) : (s.setMe a).yielded = s.yielded := rfl
@[simp] theorem State.setMe_saved (s : State) (a : Hart) : (s.setMe a).saved = s.saved := rfl
@[simp] theorem State.setMe_hdm (s : State) (a : Hart) : (s.setMe a).hdm = s.hdm := rfl
@[simp] theorem State.setMe_funcs (s : State) (a : Hart) : (s.setMe a).funcs = s.funcs := rfl
@[simp] theorem State.setMe_links (s : State) (a : Hart) : (s.setMe a).links = s.links := rfl
@[simp] theorem State.setMe_peers (s : State) (a : Hart) : (s.setMe a).peers = s.peers := rfl
@[simp] theorem State.setMe_mistral (s : State) (a : Hart) : (s.setMe a).mistral = s.mistral := rfl
@[simp] theorem State.setMe_dph (s : State) (a : Hart) : (s.setMe a).dph = s.dph := rfl
@[simp] theorem State.setMe_sec (s : State) (a : Hart) : (s.setMe a).sec = s.sec := rfl
@[simp] theorem State.setMe_ucie (s : State) (a : Hart) : (s.setMe a).ucie = s.ucie := rfl
@[simp] theorem State.setMe_out (s : State) (a : Hart) : (s.setMe a).out = s.out := rfl

/-! ### State.updHart -/

@[simp] theorem State.updHart_time (s : State) (h : Nat) (f : Hart → Hart) : (s.updHart h f).time = s.time := rfl
@[simp] theorem State.updHart_cur (s : State) (h : Nat) (f : Hart → Hart) : (s.updHart h f).cur = s.cur := rfl
@[simp] theorem State.updHart_agenda (s : State) (h : Nat) (f : Hart → Hart) : (s.updHart h f).agenda = s.agenda := rfl
@[simp] theorem State.updHart_turn (s : State) (h : Nat) (f : Hart → Hart) : (s.updHart h f).turn = s.turn := rfl
@[simp] theorem State.updHart_ev (s : State) (h : Nat) (f : Hart → Hart) : (s.updHart h f).ev = s.ev := rfl
@[simp] theorem State.updHart_fresh (s : State) (h : Nat) (f : Hart → Hart) : (s.updHart h f).fresh = s.fresh := rfl
@[simp] theorem State.updHart_nextXfer (s : State) (h : Nat) (f : Hart → Hart) : (s.updHart h f).nextXfer = s.nextXfer := rfl
@[simp] theorem State.updHart_cores (s : State) (h : Nat) (f : Hart → Hart) : (s.updHart h f).cores = s.cores := rfl
@[simp] theorem State.updHart_quads (s : State) (h : Nat) (f : Hart → Hart) : (s.updHart h f).quads = s.quads := rfl
@[simp] theorem State.updHart_dies (s : State) (h : Nat) (f : Hart → Hart) : (s.updHart h f).dies = s.dies := rfl
@[simp] theorem State.updHart_parts (s : State) (h : Nat) (f : Hart → Hart) : (s.updHart h f).parts = s.parts := rfl
@[simp] theorem State.updHart_queues (s : State) (h : Nat) (f : Hart → Hart) : (s.updHart h f).queues = s.queues := rfl
@[simp] theorem State.updHart_affinity (s : State) (h : Nat) (f : Hart → Hart) : (s.updHart h f).affinity = s.affinity := rfl
@[simp] theorem State.updHart_filters (s : State) (h : Nat) (f : Hart → Hart) : (s.updHart h f).filters = s.filters := rfl
@[simp] theorem State.updHart_buckets (s : State) (h : Nat) (f : Hart → Hart) : (s.updHart h f).buckets = s.buckets := rfl
@[simp] theorem State.updHart_mem (s : State) (h : Nat) (f : Hart → Hart) : (s.updHart h f).mem = s.mem := rfl
@[simp] theorem State.updHart_tmem (s : State) (h : Nat) (f : Hart → Hart) : (s.updHart h f).tmem = s.tmem := rfl
@[simp] theorem State.updHart_tpast (s : State) (h : Nat) (f : Hart → Hart) : (s.updHart h f).tpast = s.tpast := rfl
@[simp] theorem State.updHart_keyed (s : State) (h : Nat) (f : Hart → Hart) : (s.updHart h f).keyed = s.keyed := rfl
@[simp] theorem State.updHart_poison (s : State) (h : Nat) (f : Hart → Hart) : (s.updHart h f).poison = s.poison := rfl
@[simp] theorem State.updHart_failed (s : State) (h : Nat) (f : Hart → Hart) : (s.updHart h f).failed = s.failed := rfl
@[simp] theorem State.updHart_doomed (s : State) (h : Nat) (f : Hart → Hart) : (s.updHart h f).doomed = s.doomed := rfl
@[simp] theorem State.updHart_share (s : State) (h : Nat) (f : Hart → Hart) : (s.updHart h f).share = s.share := rfl
@[simp] theorem State.updHart_freeze (s : State) (h : Nat) (f : Hart → Hart) : (s.updHart h f).freeze = s.freeze := rfl
@[simp] theorem State.updHart_bias (s : State) (h : Nat) (f : Hart → Hart) : (s.updHart h f).bias = s.bias := rfl
@[simp] theorem State.updHart_regions (s : State) (h : Nat) (f : Hart → Hart) : (s.updHart h f).regions = s.regions := rfl
@[simp] theorem State.updHart_rwrites (s : State) (h : Nat) (f : Hart → Hart) : (s.updHart h f).rwrites = s.rwrites := rfl
@[simp] theorem State.updHart_waiters (s : State) (h : Nat) (f : Hart → Hart) : (s.updHart h f).waiters = s.waiters := rfl
@[simp] theorem State.updHart_nextTicket (s : State) (h : Nat) (f : Hart → Hart) : (s.updHart h f).nextTicket = s.nextTicket := rfl
@[simp] theorem State.updHart_greqs (s : State) (h : Nat) (f : Hart → Hart) : (s.updHart h f).greqs = s.greqs := rfl
@[simp] theorem State.updHart_opens (s : State) (h : Nat) (f : Hart → Hart) : (s.updHart h f).opens = s.opens := rfl
@[simp] theorem State.updHart_released (s : State) (h : Nat) (f : Hart → Hart) : (s.updHart h f).released = s.released := rfl
@[simp] theorem State.updHart_fills (s : State) (h : Nat) (f : Hart → Hart) : (s.updHart h f).fills = s.fills := rfl
@[simp] theorem State.updHart_freezes (s : State) (h : Nat) (f : Hart → Hart) : (s.updHart h f).freezes = s.freezes := rfl
@[simp] theorem State.updHart_flips (s : State) (h : Nat) (f : Hart → Hart) : (s.updHart h f).flips = s.flips := rfl
@[simp] theorem State.updHart_heldHost (s : State) (h : Nat) (f : Hart → Hart) : (s.updHart h f).heldHost = s.heldHost := rfl
@[simp] theorem State.updHart_peerWaits (s : State) (h : Nat) (f : Hart → Hart) : (s.updHart h f).peerWaits = s.peerWaits := rfl
@[simp] theorem State.updHart_eqWaits (s : State) (h : Nat) (f : Hart → Hart) : (s.updHart h f).eqWaits = s.eqWaits := rfl
@[simp] theorem State.updHart_shoots (s : State) (h : Nat) (f : Hart → Hart) : (s.updHart h f).shoots = s.shoots := rfl
@[simp] theorem State.updHart_bisnps (s : State) (h : Nat) (f : Hart → Hart) : (s.updHart h f).bisnps = s.bisnps := rfl
@[simp] theorem State.updHart_yielded (s : State) (h : Nat) (f : Hart → Hart) : (s.updHart h f).yielded = s.yielded := rfl
@[simp] theorem State.updHart_saved (s : State) (h : Nat) (f : Hart → Hart) : (s.updHart h f).saved = s.saved := rfl
@[simp] theorem State.updHart_hdm (s : State) (h : Nat) (f : Hart → Hart) : (s.updHart h f).hdm = s.hdm := rfl
@[simp] theorem State.updHart_funcs (s : State) (h : Nat) (f : Hart → Hart) : (s.updHart h f).funcs = s.funcs := rfl
@[simp] theorem State.updHart_links (s : State) (h : Nat) (f : Hart → Hart) : (s.updHart h f).links = s.links := rfl
@[simp] theorem State.updHart_peers (s : State) (h : Nat) (f : Hart → Hart) : (s.updHart h f).peers = s.peers := rfl
@[simp] theorem State.updHart_mistral (s : State) (h : Nat) (f : Hart → Hart) : (s.updHart h f).mistral = s.mistral := rfl
@[simp] theorem State.updHart_dph (s : State) (h : Nat) (f : Hart → Hart) : (s.updHart h f).dph = s.dph := rfl
@[simp] theorem State.updHart_sec (s : State) (h : Nat) (f : Hart → Hart) : (s.updHart h f).sec = s.sec := rfl
@[simp] theorem State.updHart_ucie (s : State) (h : Nat) (f : Hart → Hart) : (s.updHart h f).ucie = s.ucie := rfl
@[simp] theorem State.updHart_out (s : State) (h : Nat) (f : Hart → Hart) : (s.updHart h f).out = s.out := rfl

/-! ### State.updMe -/

@[simp] theorem State.updMe_time (s : State) (f : Hart → Hart) : (s.updMe f).time = s.time := rfl
@[simp] theorem State.updMe_cur (s : State) (f : Hart → Hart) : (s.updMe f).cur = s.cur := rfl
@[simp] theorem State.updMe_agenda (s : State) (f : Hart → Hart) : (s.updMe f).agenda = s.agenda := rfl
@[simp] theorem State.updMe_turn (s : State) (f : Hart → Hart) : (s.updMe f).turn = s.turn := rfl
@[simp] theorem State.updMe_ev (s : State) (f : Hart → Hart) : (s.updMe f).ev = s.ev := rfl
@[simp] theorem State.updMe_fresh (s : State) (f : Hart → Hart) : (s.updMe f).fresh = s.fresh := rfl
@[simp] theorem State.updMe_nextXfer (s : State) (f : Hart → Hart) : (s.updMe f).nextXfer = s.nextXfer := rfl
@[simp] theorem State.updMe_cores (s : State) (f : Hart → Hart) : (s.updMe f).cores = s.cores := rfl
@[simp] theorem State.updMe_quads (s : State) (f : Hart → Hart) : (s.updMe f).quads = s.quads := rfl
@[simp] theorem State.updMe_dies (s : State) (f : Hart → Hart) : (s.updMe f).dies = s.dies := rfl
@[simp] theorem State.updMe_parts (s : State) (f : Hart → Hart) : (s.updMe f).parts = s.parts := rfl
@[simp] theorem State.updMe_queues (s : State) (f : Hart → Hart) : (s.updMe f).queues = s.queues := rfl
@[simp] theorem State.updMe_affinity (s : State) (f : Hart → Hart) : (s.updMe f).affinity = s.affinity := rfl
@[simp] theorem State.updMe_filters (s : State) (f : Hart → Hart) : (s.updMe f).filters = s.filters := rfl
@[simp] theorem State.updMe_buckets (s : State) (f : Hart → Hart) : (s.updMe f).buckets = s.buckets := rfl
@[simp] theorem State.updMe_mem (s : State) (f : Hart → Hart) : (s.updMe f).mem = s.mem := rfl
@[simp] theorem State.updMe_tmem (s : State) (f : Hart → Hart) : (s.updMe f).tmem = s.tmem := rfl
@[simp] theorem State.updMe_tpast (s : State) (f : Hart → Hart) : (s.updMe f).tpast = s.tpast := rfl
@[simp] theorem State.updMe_keyed (s : State) (f : Hart → Hart) : (s.updMe f).keyed = s.keyed := rfl
@[simp] theorem State.updMe_poison (s : State) (f : Hart → Hart) : (s.updMe f).poison = s.poison := rfl
@[simp] theorem State.updMe_failed (s : State) (f : Hart → Hart) : (s.updMe f).failed = s.failed := rfl
@[simp] theorem State.updMe_doomed (s : State) (f : Hart → Hart) : (s.updMe f).doomed = s.doomed := rfl
@[simp] theorem State.updMe_share (s : State) (f : Hart → Hart) : (s.updMe f).share = s.share := rfl
@[simp] theorem State.updMe_freeze (s : State) (f : Hart → Hart) : (s.updMe f).freeze = s.freeze := rfl
@[simp] theorem State.updMe_bias (s : State) (f : Hart → Hart) : (s.updMe f).bias = s.bias := rfl
@[simp] theorem State.updMe_regions (s : State) (f : Hart → Hart) : (s.updMe f).regions = s.regions := rfl
@[simp] theorem State.updMe_rwrites (s : State) (f : Hart → Hart) : (s.updMe f).rwrites = s.rwrites := rfl
@[simp] theorem State.updMe_waiters (s : State) (f : Hart → Hart) : (s.updMe f).waiters = s.waiters := rfl
@[simp] theorem State.updMe_nextTicket (s : State) (f : Hart → Hart) : (s.updMe f).nextTicket = s.nextTicket := rfl
@[simp] theorem State.updMe_greqs (s : State) (f : Hart → Hart) : (s.updMe f).greqs = s.greqs := rfl
@[simp] theorem State.updMe_opens (s : State) (f : Hart → Hart) : (s.updMe f).opens = s.opens := rfl
@[simp] theorem State.updMe_released (s : State) (f : Hart → Hart) : (s.updMe f).released = s.released := rfl
@[simp] theorem State.updMe_fills (s : State) (f : Hart → Hart) : (s.updMe f).fills = s.fills := rfl
@[simp] theorem State.updMe_freezes (s : State) (f : Hart → Hart) : (s.updMe f).freezes = s.freezes := rfl
@[simp] theorem State.updMe_flips (s : State) (f : Hart → Hart) : (s.updMe f).flips = s.flips := rfl
@[simp] theorem State.updMe_heldHost (s : State) (f : Hart → Hart) : (s.updMe f).heldHost = s.heldHost := rfl
@[simp] theorem State.updMe_peerWaits (s : State) (f : Hart → Hart) : (s.updMe f).peerWaits = s.peerWaits := rfl
@[simp] theorem State.updMe_eqWaits (s : State) (f : Hart → Hart) : (s.updMe f).eqWaits = s.eqWaits := rfl
@[simp] theorem State.updMe_shoots (s : State) (f : Hart → Hart) : (s.updMe f).shoots = s.shoots := rfl
@[simp] theorem State.updMe_bisnps (s : State) (f : Hart → Hart) : (s.updMe f).bisnps = s.bisnps := rfl
@[simp] theorem State.updMe_yielded (s : State) (f : Hart → Hart) : (s.updMe f).yielded = s.yielded := rfl
@[simp] theorem State.updMe_saved (s : State) (f : Hart → Hart) : (s.updMe f).saved = s.saved := rfl
@[simp] theorem State.updMe_hdm (s : State) (f : Hart → Hart) : (s.updMe f).hdm = s.hdm := rfl
@[simp] theorem State.updMe_funcs (s : State) (f : Hart → Hart) : (s.updMe f).funcs = s.funcs := rfl
@[simp] theorem State.updMe_links (s : State) (f : Hart → Hart) : (s.updMe f).links = s.links := rfl
@[simp] theorem State.updMe_peers (s : State) (f : Hart → Hart) : (s.updMe f).peers = s.peers := rfl
@[simp] theorem State.updMe_mistral (s : State) (f : Hart → Hart) : (s.updMe f).mistral = s.mistral := rfl
@[simp] theorem State.updMe_dph (s : State) (f : Hart → Hart) : (s.updMe f).dph = s.dph := rfl
@[simp] theorem State.updMe_sec (s : State) (f : Hart → Hart) : (s.updMe f).sec = s.sec := rfl
@[simp] theorem State.updMe_ucie (s : State) (f : Hart → Hart) : (s.updMe f).ucie = s.ucie := rfl
@[simp] theorem State.updMe_out (s : State) (f : Hart → Hart) : (s.updMe f).out = s.out := rfl

/-! ### State.updCore -/

@[simp] theorem State.updCore_time (s : State) (c : Nat) (f : Core → Core) : (s.updCore c f).time = s.time := rfl
@[simp] theorem State.updCore_cur (s : State) (c : Nat) (f : Core → Core) : (s.updCore c f).cur = s.cur := rfl
@[simp] theorem State.updCore_agenda (s : State) (c : Nat) (f : Core → Core) : (s.updCore c f).agenda = s.agenda := rfl
@[simp] theorem State.updCore_turn (s : State) (c : Nat) (f : Core → Core) : (s.updCore c f).turn = s.turn := rfl
@[simp] theorem State.updCore_ev (s : State) (c : Nat) (f : Core → Core) : (s.updCore c f).ev = s.ev := rfl
@[simp] theorem State.updCore_fresh (s : State) (c : Nat) (f : Core → Core) : (s.updCore c f).fresh = s.fresh := rfl
@[simp] theorem State.updCore_nextXfer (s : State) (c : Nat) (f : Core → Core) : (s.updCore c f).nextXfer = s.nextXfer := rfl
@[simp] theorem State.updCore_harts (s : State) (c : Nat) (f : Core → Core) : (s.updCore c f).harts = s.harts := rfl
@[simp] theorem State.updCore_quads (s : State) (c : Nat) (f : Core → Core) : (s.updCore c f).quads = s.quads := rfl
@[simp] theorem State.updCore_dies (s : State) (c : Nat) (f : Core → Core) : (s.updCore c f).dies = s.dies := rfl
@[simp] theorem State.updCore_parts (s : State) (c : Nat) (f : Core → Core) : (s.updCore c f).parts = s.parts := rfl
@[simp] theorem State.updCore_queues (s : State) (c : Nat) (f : Core → Core) : (s.updCore c f).queues = s.queues := rfl
@[simp] theorem State.updCore_affinity (s : State) (c : Nat) (f : Core → Core) : (s.updCore c f).affinity = s.affinity := rfl
@[simp] theorem State.updCore_filters (s : State) (c : Nat) (f : Core → Core) : (s.updCore c f).filters = s.filters := rfl
@[simp] theorem State.updCore_buckets (s : State) (c : Nat) (f : Core → Core) : (s.updCore c f).buckets = s.buckets := rfl
@[simp] theorem State.updCore_mem (s : State) (c : Nat) (f : Core → Core) : (s.updCore c f).mem = s.mem := rfl
@[simp] theorem State.updCore_tmem (s : State) (c : Nat) (f : Core → Core) : (s.updCore c f).tmem = s.tmem := rfl
@[simp] theorem State.updCore_tpast (s : State) (c : Nat) (f : Core → Core) : (s.updCore c f).tpast = s.tpast := rfl
@[simp] theorem State.updCore_keyed (s : State) (c : Nat) (f : Core → Core) : (s.updCore c f).keyed = s.keyed := rfl
@[simp] theorem State.updCore_poison (s : State) (c : Nat) (f : Core → Core) : (s.updCore c f).poison = s.poison := rfl
@[simp] theorem State.updCore_failed (s : State) (c : Nat) (f : Core → Core) : (s.updCore c f).failed = s.failed := rfl
@[simp] theorem State.updCore_doomed (s : State) (c : Nat) (f : Core → Core) : (s.updCore c f).doomed = s.doomed := rfl
@[simp] theorem State.updCore_share (s : State) (c : Nat) (f : Core → Core) : (s.updCore c f).share = s.share := rfl
@[simp] theorem State.updCore_freeze (s : State) (c : Nat) (f : Core → Core) : (s.updCore c f).freeze = s.freeze := rfl
@[simp] theorem State.updCore_bias (s : State) (c : Nat) (f : Core → Core) : (s.updCore c f).bias = s.bias := rfl
@[simp] theorem State.updCore_regions (s : State) (c : Nat) (f : Core → Core) : (s.updCore c f).regions = s.regions := rfl
@[simp] theorem State.updCore_rwrites (s : State) (c : Nat) (f : Core → Core) : (s.updCore c f).rwrites = s.rwrites := rfl
@[simp] theorem State.updCore_waiters (s : State) (c : Nat) (f : Core → Core) : (s.updCore c f).waiters = s.waiters := rfl
@[simp] theorem State.updCore_nextTicket (s : State) (c : Nat) (f : Core → Core) : (s.updCore c f).nextTicket = s.nextTicket := rfl
@[simp] theorem State.updCore_greqs (s : State) (c : Nat) (f : Core → Core) : (s.updCore c f).greqs = s.greqs := rfl
@[simp] theorem State.updCore_opens (s : State) (c : Nat) (f : Core → Core) : (s.updCore c f).opens = s.opens := rfl
@[simp] theorem State.updCore_released (s : State) (c : Nat) (f : Core → Core) : (s.updCore c f).released = s.released := rfl
@[simp] theorem State.updCore_fills (s : State) (c : Nat) (f : Core → Core) : (s.updCore c f).fills = s.fills := rfl
@[simp] theorem State.updCore_freezes (s : State) (c : Nat) (f : Core → Core) : (s.updCore c f).freezes = s.freezes := rfl
@[simp] theorem State.updCore_flips (s : State) (c : Nat) (f : Core → Core) : (s.updCore c f).flips = s.flips := rfl
@[simp] theorem State.updCore_heldHost (s : State) (c : Nat) (f : Core → Core) : (s.updCore c f).heldHost = s.heldHost := rfl
@[simp] theorem State.updCore_peerWaits (s : State) (c : Nat) (f : Core → Core) : (s.updCore c f).peerWaits = s.peerWaits := rfl
@[simp] theorem State.updCore_eqWaits (s : State) (c : Nat) (f : Core → Core) : (s.updCore c f).eqWaits = s.eqWaits := rfl
@[simp] theorem State.updCore_shoots (s : State) (c : Nat) (f : Core → Core) : (s.updCore c f).shoots = s.shoots := rfl
@[simp] theorem State.updCore_bisnps (s : State) (c : Nat) (f : Core → Core) : (s.updCore c f).bisnps = s.bisnps := rfl
@[simp] theorem State.updCore_yielded (s : State) (c : Nat) (f : Core → Core) : (s.updCore c f).yielded = s.yielded := rfl
@[simp] theorem State.updCore_saved (s : State) (c : Nat) (f : Core → Core) : (s.updCore c f).saved = s.saved := rfl
@[simp] theorem State.updCore_hdm (s : State) (c : Nat) (f : Core → Core) : (s.updCore c f).hdm = s.hdm := rfl
@[simp] theorem State.updCore_funcs (s : State) (c : Nat) (f : Core → Core) : (s.updCore c f).funcs = s.funcs := rfl
@[simp] theorem State.updCore_links (s : State) (c : Nat) (f : Core → Core) : (s.updCore c f).links = s.links := rfl
@[simp] theorem State.updCore_peers (s : State) (c : Nat) (f : Core → Core) : (s.updCore c f).peers = s.peers := rfl
@[simp] theorem State.updCore_mistral (s : State) (c : Nat) (f : Core → Core) : (s.updCore c f).mistral = s.mistral := rfl
@[simp] theorem State.updCore_dph (s : State) (c : Nat) (f : Core → Core) : (s.updCore c f).dph = s.dph := rfl
@[simp] theorem State.updCore_sec (s : State) (c : Nat) (f : Core → Core) : (s.updCore c f).sec = s.sec := rfl
@[simp] theorem State.updCore_ucie (s : State) (c : Nat) (f : Core → Core) : (s.updCore c f).ucie = s.ucie := rfl
@[simp] theorem State.updCore_out (s : State) (c : Nat) (f : Core → Core) : (s.updCore c f).out = s.out := rfl

/-! ### State.updQuad -/

@[simp] theorem State.updQuad_time (s : State) (q : Nat) (f : Quad → Quad) : (s.updQuad q f).time = s.time := rfl
@[simp] theorem State.updQuad_cur (s : State) (q : Nat) (f : Quad → Quad) : (s.updQuad q f).cur = s.cur := rfl
@[simp] theorem State.updQuad_agenda (s : State) (q : Nat) (f : Quad → Quad) : (s.updQuad q f).agenda = s.agenda := rfl
@[simp] theorem State.updQuad_turn (s : State) (q : Nat) (f : Quad → Quad) : (s.updQuad q f).turn = s.turn := rfl
@[simp] theorem State.updQuad_ev (s : State) (q : Nat) (f : Quad → Quad) : (s.updQuad q f).ev = s.ev := rfl
@[simp] theorem State.updQuad_fresh (s : State) (q : Nat) (f : Quad → Quad) : (s.updQuad q f).fresh = s.fresh := rfl
@[simp] theorem State.updQuad_nextXfer (s : State) (q : Nat) (f : Quad → Quad) : (s.updQuad q f).nextXfer = s.nextXfer := rfl
@[simp] theorem State.updQuad_harts (s : State) (q : Nat) (f : Quad → Quad) : (s.updQuad q f).harts = s.harts := rfl
@[simp] theorem State.updQuad_cores (s : State) (q : Nat) (f : Quad → Quad) : (s.updQuad q f).cores = s.cores := rfl
@[simp] theorem State.updQuad_dies (s : State) (q : Nat) (f : Quad → Quad) : (s.updQuad q f).dies = s.dies := rfl
@[simp] theorem State.updQuad_parts (s : State) (q : Nat) (f : Quad → Quad) : (s.updQuad q f).parts = s.parts := rfl
@[simp] theorem State.updQuad_queues (s : State) (q : Nat) (f : Quad → Quad) : (s.updQuad q f).queues = s.queues := rfl
@[simp] theorem State.updQuad_affinity (s : State) (q : Nat) (f : Quad → Quad) : (s.updQuad q f).affinity = s.affinity := rfl
@[simp] theorem State.updQuad_filters (s : State) (q : Nat) (f : Quad → Quad) : (s.updQuad q f).filters = s.filters := rfl
@[simp] theorem State.updQuad_buckets (s : State) (q : Nat) (f : Quad → Quad) : (s.updQuad q f).buckets = s.buckets := rfl
@[simp] theorem State.updQuad_mem (s : State) (q : Nat) (f : Quad → Quad) : (s.updQuad q f).mem = s.mem := rfl
@[simp] theorem State.updQuad_tmem (s : State) (q : Nat) (f : Quad → Quad) : (s.updQuad q f).tmem = s.tmem := rfl
@[simp] theorem State.updQuad_tpast (s : State) (q : Nat) (f : Quad → Quad) : (s.updQuad q f).tpast = s.tpast := rfl
@[simp] theorem State.updQuad_keyed (s : State) (q : Nat) (f : Quad → Quad) : (s.updQuad q f).keyed = s.keyed := rfl
@[simp] theorem State.updQuad_poison (s : State) (q : Nat) (f : Quad → Quad) : (s.updQuad q f).poison = s.poison := rfl
@[simp] theorem State.updQuad_failed (s : State) (q : Nat) (f : Quad → Quad) : (s.updQuad q f).failed = s.failed := rfl
@[simp] theorem State.updQuad_doomed (s : State) (q : Nat) (f : Quad → Quad) : (s.updQuad q f).doomed = s.doomed := rfl
@[simp] theorem State.updQuad_share (s : State) (q : Nat) (f : Quad → Quad) : (s.updQuad q f).share = s.share := rfl
@[simp] theorem State.updQuad_freeze (s : State) (q : Nat) (f : Quad → Quad) : (s.updQuad q f).freeze = s.freeze := rfl
@[simp] theorem State.updQuad_bias (s : State) (q : Nat) (f : Quad → Quad) : (s.updQuad q f).bias = s.bias := rfl
@[simp] theorem State.updQuad_regions (s : State) (q : Nat) (f : Quad → Quad) : (s.updQuad q f).regions = s.regions := rfl
@[simp] theorem State.updQuad_rwrites (s : State) (q : Nat) (f : Quad → Quad) : (s.updQuad q f).rwrites = s.rwrites := rfl
@[simp] theorem State.updQuad_waiters (s : State) (q : Nat) (f : Quad → Quad) : (s.updQuad q f).waiters = s.waiters := rfl
@[simp] theorem State.updQuad_nextTicket (s : State) (q : Nat) (f : Quad → Quad) : (s.updQuad q f).nextTicket = s.nextTicket := rfl
@[simp] theorem State.updQuad_greqs (s : State) (q : Nat) (f : Quad → Quad) : (s.updQuad q f).greqs = s.greqs := rfl
@[simp] theorem State.updQuad_opens (s : State) (q : Nat) (f : Quad → Quad) : (s.updQuad q f).opens = s.opens := rfl
@[simp] theorem State.updQuad_released (s : State) (q : Nat) (f : Quad → Quad) : (s.updQuad q f).released = s.released := rfl
@[simp] theorem State.updQuad_fills (s : State) (q : Nat) (f : Quad → Quad) : (s.updQuad q f).fills = s.fills := rfl
@[simp] theorem State.updQuad_freezes (s : State) (q : Nat) (f : Quad → Quad) : (s.updQuad q f).freezes = s.freezes := rfl
@[simp] theorem State.updQuad_flips (s : State) (q : Nat) (f : Quad → Quad) : (s.updQuad q f).flips = s.flips := rfl
@[simp] theorem State.updQuad_heldHost (s : State) (q : Nat) (f : Quad → Quad) : (s.updQuad q f).heldHost = s.heldHost := rfl
@[simp] theorem State.updQuad_peerWaits (s : State) (q : Nat) (f : Quad → Quad) : (s.updQuad q f).peerWaits = s.peerWaits := rfl
@[simp] theorem State.updQuad_eqWaits (s : State) (q : Nat) (f : Quad → Quad) : (s.updQuad q f).eqWaits = s.eqWaits := rfl
@[simp] theorem State.updQuad_shoots (s : State) (q : Nat) (f : Quad → Quad) : (s.updQuad q f).shoots = s.shoots := rfl
@[simp] theorem State.updQuad_bisnps (s : State) (q : Nat) (f : Quad → Quad) : (s.updQuad q f).bisnps = s.bisnps := rfl
@[simp] theorem State.updQuad_yielded (s : State) (q : Nat) (f : Quad → Quad) : (s.updQuad q f).yielded = s.yielded := rfl
@[simp] theorem State.updQuad_saved (s : State) (q : Nat) (f : Quad → Quad) : (s.updQuad q f).saved = s.saved := rfl
@[simp] theorem State.updQuad_hdm (s : State) (q : Nat) (f : Quad → Quad) : (s.updQuad q f).hdm = s.hdm := rfl
@[simp] theorem State.updQuad_funcs (s : State) (q : Nat) (f : Quad → Quad) : (s.updQuad q f).funcs = s.funcs := rfl
@[simp] theorem State.updQuad_links (s : State) (q : Nat) (f : Quad → Quad) : (s.updQuad q f).links = s.links := rfl
@[simp] theorem State.updQuad_peers (s : State) (q : Nat) (f : Quad → Quad) : (s.updQuad q f).peers = s.peers := rfl
@[simp] theorem State.updQuad_mistral (s : State) (q : Nat) (f : Quad → Quad) : (s.updQuad q f).mistral = s.mistral := rfl
@[simp] theorem State.updQuad_dph (s : State) (q : Nat) (f : Quad → Quad) : (s.updQuad q f).dph = s.dph := rfl
@[simp] theorem State.updQuad_sec (s : State) (q : Nat) (f : Quad → Quad) : (s.updQuad q f).sec = s.sec := rfl
@[simp] theorem State.updQuad_ucie (s : State) (q : Nat) (f : Quad → Quad) : (s.updQuad q f).ucie = s.ucie := rfl
@[simp] theorem State.updQuad_out (s : State) (q : Nat) (f : Quad → Quad) : (s.updQuad q f).out = s.out := rfl

/-! ### State.updDie -/

@[simp] theorem State.updDie_time (s : State) (d : Nat) (f : Die → Die) : (s.updDie d f).time = s.time := rfl
@[simp] theorem State.updDie_cur (s : State) (d : Nat) (f : Die → Die) : (s.updDie d f).cur = s.cur := rfl
@[simp] theorem State.updDie_agenda (s : State) (d : Nat) (f : Die → Die) : (s.updDie d f).agenda = s.agenda := rfl
@[simp] theorem State.updDie_turn (s : State) (d : Nat) (f : Die → Die) : (s.updDie d f).turn = s.turn := rfl
@[simp] theorem State.updDie_ev (s : State) (d : Nat) (f : Die → Die) : (s.updDie d f).ev = s.ev := rfl
@[simp] theorem State.updDie_fresh (s : State) (d : Nat) (f : Die → Die) : (s.updDie d f).fresh = s.fresh := rfl
@[simp] theorem State.updDie_nextXfer (s : State) (d : Nat) (f : Die → Die) : (s.updDie d f).nextXfer = s.nextXfer := rfl
@[simp] theorem State.updDie_harts (s : State) (d : Nat) (f : Die → Die) : (s.updDie d f).harts = s.harts := rfl
@[simp] theorem State.updDie_cores (s : State) (d : Nat) (f : Die → Die) : (s.updDie d f).cores = s.cores := rfl
@[simp] theorem State.updDie_quads (s : State) (d : Nat) (f : Die → Die) : (s.updDie d f).quads = s.quads := rfl
@[simp] theorem State.updDie_parts (s : State) (d : Nat) (f : Die → Die) : (s.updDie d f).parts = s.parts := rfl
@[simp] theorem State.updDie_queues (s : State) (d : Nat) (f : Die → Die) : (s.updDie d f).queues = s.queues := rfl
@[simp] theorem State.updDie_affinity (s : State) (d : Nat) (f : Die → Die) : (s.updDie d f).affinity = s.affinity := rfl
@[simp] theorem State.updDie_filters (s : State) (d : Nat) (f : Die → Die) : (s.updDie d f).filters = s.filters := rfl
@[simp] theorem State.updDie_buckets (s : State) (d : Nat) (f : Die → Die) : (s.updDie d f).buckets = s.buckets := rfl
@[simp] theorem State.updDie_mem (s : State) (d : Nat) (f : Die → Die) : (s.updDie d f).mem = s.mem := rfl
@[simp] theorem State.updDie_tmem (s : State) (d : Nat) (f : Die → Die) : (s.updDie d f).tmem = s.tmem := rfl
@[simp] theorem State.updDie_tpast (s : State) (d : Nat) (f : Die → Die) : (s.updDie d f).tpast = s.tpast := rfl
@[simp] theorem State.updDie_keyed (s : State) (d : Nat) (f : Die → Die) : (s.updDie d f).keyed = s.keyed := rfl
@[simp] theorem State.updDie_poison (s : State) (d : Nat) (f : Die → Die) : (s.updDie d f).poison = s.poison := rfl
@[simp] theorem State.updDie_failed (s : State) (d : Nat) (f : Die → Die) : (s.updDie d f).failed = s.failed := rfl
@[simp] theorem State.updDie_doomed (s : State) (d : Nat) (f : Die → Die) : (s.updDie d f).doomed = s.doomed := rfl
@[simp] theorem State.updDie_share (s : State) (d : Nat) (f : Die → Die) : (s.updDie d f).share = s.share := rfl
@[simp] theorem State.updDie_freeze (s : State) (d : Nat) (f : Die → Die) : (s.updDie d f).freeze = s.freeze := rfl
@[simp] theorem State.updDie_bias (s : State) (d : Nat) (f : Die → Die) : (s.updDie d f).bias = s.bias := rfl
@[simp] theorem State.updDie_regions (s : State) (d : Nat) (f : Die → Die) : (s.updDie d f).regions = s.regions := rfl
@[simp] theorem State.updDie_rwrites (s : State) (d : Nat) (f : Die → Die) : (s.updDie d f).rwrites = s.rwrites := rfl
@[simp] theorem State.updDie_waiters (s : State) (d : Nat) (f : Die → Die) : (s.updDie d f).waiters = s.waiters := rfl
@[simp] theorem State.updDie_nextTicket (s : State) (d : Nat) (f : Die → Die) : (s.updDie d f).nextTicket = s.nextTicket := rfl
@[simp] theorem State.updDie_greqs (s : State) (d : Nat) (f : Die → Die) : (s.updDie d f).greqs = s.greqs := rfl
@[simp] theorem State.updDie_opens (s : State) (d : Nat) (f : Die → Die) : (s.updDie d f).opens = s.opens := rfl
@[simp] theorem State.updDie_released (s : State) (d : Nat) (f : Die → Die) : (s.updDie d f).released = s.released := rfl
@[simp] theorem State.updDie_fills (s : State) (d : Nat) (f : Die → Die) : (s.updDie d f).fills = s.fills := rfl
@[simp] theorem State.updDie_freezes (s : State) (d : Nat) (f : Die → Die) : (s.updDie d f).freezes = s.freezes := rfl
@[simp] theorem State.updDie_flips (s : State) (d : Nat) (f : Die → Die) : (s.updDie d f).flips = s.flips := rfl
@[simp] theorem State.updDie_heldHost (s : State) (d : Nat) (f : Die → Die) : (s.updDie d f).heldHost = s.heldHost := rfl
@[simp] theorem State.updDie_peerWaits (s : State) (d : Nat) (f : Die → Die) : (s.updDie d f).peerWaits = s.peerWaits := rfl
@[simp] theorem State.updDie_eqWaits (s : State) (d : Nat) (f : Die → Die) : (s.updDie d f).eqWaits = s.eqWaits := rfl
@[simp] theorem State.updDie_shoots (s : State) (d : Nat) (f : Die → Die) : (s.updDie d f).shoots = s.shoots := rfl
@[simp] theorem State.updDie_bisnps (s : State) (d : Nat) (f : Die → Die) : (s.updDie d f).bisnps = s.bisnps := rfl
@[simp] theorem State.updDie_yielded (s : State) (d : Nat) (f : Die → Die) : (s.updDie d f).yielded = s.yielded := rfl
@[simp] theorem State.updDie_saved (s : State) (d : Nat) (f : Die → Die) : (s.updDie d f).saved = s.saved := rfl
@[simp] theorem State.updDie_hdm (s : State) (d : Nat) (f : Die → Die) : (s.updDie d f).hdm = s.hdm := rfl
@[simp] theorem State.updDie_funcs (s : State) (d : Nat) (f : Die → Die) : (s.updDie d f).funcs = s.funcs := rfl
@[simp] theorem State.updDie_links (s : State) (d : Nat) (f : Die → Die) : (s.updDie d f).links = s.links := rfl
@[simp] theorem State.updDie_peers (s : State) (d : Nat) (f : Die → Die) : (s.updDie d f).peers = s.peers := rfl
@[simp] theorem State.updDie_mistral (s : State) (d : Nat) (f : Die → Die) : (s.updDie d f).mistral = s.mistral := rfl
@[simp] theorem State.updDie_dph (s : State) (d : Nat) (f : Die → Die) : (s.updDie d f).dph = s.dph := rfl
@[simp] theorem State.updDie_sec (s : State) (d : Nat) (f : Die → Die) : (s.updDie d f).sec = s.sec := rfl
@[simp] theorem State.updDie_ucie (s : State) (d : Nat) (f : Die → Die) : (s.updDie d f).ucie = s.ucie := rfl
@[simp] theorem State.updDie_out (s : State) (d : Nat) (f : Die → Die) : (s.updDie d f).out = s.out := rfl

/-! ### State.updPart -/

@[simp] theorem State.updPart_time (s : State) (p : Nat) (f : Part → Part) : (s.updPart p f).time = s.time := rfl
@[simp] theorem State.updPart_cur (s : State) (p : Nat) (f : Part → Part) : (s.updPart p f).cur = s.cur := rfl
@[simp] theorem State.updPart_agenda (s : State) (p : Nat) (f : Part → Part) : (s.updPart p f).agenda = s.agenda := rfl
@[simp] theorem State.updPart_turn (s : State) (p : Nat) (f : Part → Part) : (s.updPart p f).turn = s.turn := rfl
@[simp] theorem State.updPart_ev (s : State) (p : Nat) (f : Part → Part) : (s.updPart p f).ev = s.ev := rfl
@[simp] theorem State.updPart_fresh (s : State) (p : Nat) (f : Part → Part) : (s.updPart p f).fresh = s.fresh := rfl
@[simp] theorem State.updPart_nextXfer (s : State) (p : Nat) (f : Part → Part) : (s.updPart p f).nextXfer = s.nextXfer := rfl
@[simp] theorem State.updPart_harts (s : State) (p : Nat) (f : Part → Part) : (s.updPart p f).harts = s.harts := rfl
@[simp] theorem State.updPart_cores (s : State) (p : Nat) (f : Part → Part) : (s.updPart p f).cores = s.cores := rfl
@[simp] theorem State.updPart_quads (s : State) (p : Nat) (f : Part → Part) : (s.updPart p f).quads = s.quads := rfl
@[simp] theorem State.updPart_dies (s : State) (p : Nat) (f : Part → Part) : (s.updPart p f).dies = s.dies := rfl
@[simp] theorem State.updPart_queues (s : State) (p : Nat) (f : Part → Part) : (s.updPart p f).queues = s.queues := rfl
@[simp] theorem State.updPart_affinity (s : State) (p : Nat) (f : Part → Part) : (s.updPart p f).affinity = s.affinity := rfl
@[simp] theorem State.updPart_filters (s : State) (p : Nat) (f : Part → Part) : (s.updPart p f).filters = s.filters := rfl
@[simp] theorem State.updPart_buckets (s : State) (p : Nat) (f : Part → Part) : (s.updPart p f).buckets = s.buckets := rfl
@[simp] theorem State.updPart_mem (s : State) (p : Nat) (f : Part → Part) : (s.updPart p f).mem = s.mem := rfl
@[simp] theorem State.updPart_tmem (s : State) (p : Nat) (f : Part → Part) : (s.updPart p f).tmem = s.tmem := rfl
@[simp] theorem State.updPart_tpast (s : State) (p : Nat) (f : Part → Part) : (s.updPart p f).tpast = s.tpast := rfl
@[simp] theorem State.updPart_keyed (s : State) (p : Nat) (f : Part → Part) : (s.updPart p f).keyed = s.keyed := rfl
@[simp] theorem State.updPart_poison (s : State) (p : Nat) (f : Part → Part) : (s.updPart p f).poison = s.poison := rfl
@[simp] theorem State.updPart_failed (s : State) (p : Nat) (f : Part → Part) : (s.updPart p f).failed = s.failed := rfl
@[simp] theorem State.updPart_doomed (s : State) (p : Nat) (f : Part → Part) : (s.updPart p f).doomed = s.doomed := rfl
@[simp] theorem State.updPart_share (s : State) (p : Nat) (f : Part → Part) : (s.updPart p f).share = s.share := rfl
@[simp] theorem State.updPart_freeze (s : State) (p : Nat) (f : Part → Part) : (s.updPart p f).freeze = s.freeze := rfl
@[simp] theorem State.updPart_bias (s : State) (p : Nat) (f : Part → Part) : (s.updPart p f).bias = s.bias := rfl
@[simp] theorem State.updPart_regions (s : State) (p : Nat) (f : Part → Part) : (s.updPart p f).regions = s.regions := rfl
@[simp] theorem State.updPart_rwrites (s : State) (p : Nat) (f : Part → Part) : (s.updPart p f).rwrites = s.rwrites := rfl
@[simp] theorem State.updPart_waiters (s : State) (p : Nat) (f : Part → Part) : (s.updPart p f).waiters = s.waiters := rfl
@[simp] theorem State.updPart_nextTicket (s : State) (p : Nat) (f : Part → Part) : (s.updPart p f).nextTicket = s.nextTicket := rfl
@[simp] theorem State.updPart_greqs (s : State) (p : Nat) (f : Part → Part) : (s.updPart p f).greqs = s.greqs := rfl
@[simp] theorem State.updPart_opens (s : State) (p : Nat) (f : Part → Part) : (s.updPart p f).opens = s.opens := rfl
@[simp] theorem State.updPart_released (s : State) (p : Nat) (f : Part → Part) : (s.updPart p f).released = s.released := rfl
@[simp] theorem State.updPart_fills (s : State) (p : Nat) (f : Part → Part) : (s.updPart p f).fills = s.fills := rfl
@[simp] theorem State.updPart_freezes (s : State) (p : Nat) (f : Part → Part) : (s.updPart p f).freezes = s.freezes := rfl
@[simp] theorem State.updPart_flips (s : State) (p : Nat) (f : Part → Part) : (s.updPart p f).flips = s.flips := rfl
@[simp] theorem State.updPart_heldHost (s : State) (p : Nat) (f : Part → Part) : (s.updPart p f).heldHost = s.heldHost := rfl
@[simp] theorem State.updPart_peerWaits (s : State) (p : Nat) (f : Part → Part) : (s.updPart p f).peerWaits = s.peerWaits := rfl
@[simp] theorem State.updPart_eqWaits (s : State) (p : Nat) (f : Part → Part) : (s.updPart p f).eqWaits = s.eqWaits := rfl
@[simp] theorem State.updPart_shoots (s : State) (p : Nat) (f : Part → Part) : (s.updPart p f).shoots = s.shoots := rfl
@[simp] theorem State.updPart_bisnps (s : State) (p : Nat) (f : Part → Part) : (s.updPart p f).bisnps = s.bisnps := rfl
@[simp] theorem State.updPart_yielded (s : State) (p : Nat) (f : Part → Part) : (s.updPart p f).yielded = s.yielded := rfl
@[simp] theorem State.updPart_saved (s : State) (p : Nat) (f : Part → Part) : (s.updPart p f).saved = s.saved := rfl
@[simp] theorem State.updPart_hdm (s : State) (p : Nat) (f : Part → Part) : (s.updPart p f).hdm = s.hdm := rfl
@[simp] theorem State.updPart_funcs (s : State) (p : Nat) (f : Part → Part) : (s.updPart p f).funcs = s.funcs := rfl
@[simp] theorem State.updPart_links (s : State) (p : Nat) (f : Part → Part) : (s.updPart p f).links = s.links := rfl
@[simp] theorem State.updPart_peers (s : State) (p : Nat) (f : Part → Part) : (s.updPart p f).peers = s.peers := rfl
@[simp] theorem State.updPart_mistral (s : State) (p : Nat) (f : Part → Part) : (s.updPart p f).mistral = s.mistral := rfl
@[simp] theorem State.updPart_dph (s : State) (p : Nat) (f : Part → Part) : (s.updPart p f).dph = s.dph := rfl
@[simp] theorem State.updPart_sec (s : State) (p : Nat) (f : Part → Part) : (s.updPart p f).sec = s.sec := rfl
@[simp] theorem State.updPart_ucie (s : State) (p : Nat) (f : Part → Part) : (s.updPart p f).ucie = s.ucie := rfl
@[simp] theorem State.updPart_out (s : State) (p : Nat) (f : Part → Part) : (s.updPart p f).out = s.out := rfl

/-! ### State.updQueue -/

@[simp] theorem State.updQueue_time (s : State) (q : Nat) (f : Queue → Queue) : (s.updQueue q f).time = s.time := rfl
@[simp] theorem State.updQueue_cur (s : State) (q : Nat) (f : Queue → Queue) : (s.updQueue q f).cur = s.cur := rfl
@[simp] theorem State.updQueue_agenda (s : State) (q : Nat) (f : Queue → Queue) : (s.updQueue q f).agenda = s.agenda := rfl
@[simp] theorem State.updQueue_turn (s : State) (q : Nat) (f : Queue → Queue) : (s.updQueue q f).turn = s.turn := rfl
@[simp] theorem State.updQueue_ev (s : State) (q : Nat) (f : Queue → Queue) : (s.updQueue q f).ev = s.ev := rfl
@[simp] theorem State.updQueue_fresh (s : State) (q : Nat) (f : Queue → Queue) : (s.updQueue q f).fresh = s.fresh := rfl
@[simp] theorem State.updQueue_nextXfer (s : State) (q : Nat) (f : Queue → Queue) : (s.updQueue q f).nextXfer = s.nextXfer := rfl
@[simp] theorem State.updQueue_harts (s : State) (q : Nat) (f : Queue → Queue) : (s.updQueue q f).harts = s.harts := rfl
@[simp] theorem State.updQueue_cores (s : State) (q : Nat) (f : Queue → Queue) : (s.updQueue q f).cores = s.cores := rfl
@[simp] theorem State.updQueue_quads (s : State) (q : Nat) (f : Queue → Queue) : (s.updQueue q f).quads = s.quads := rfl
@[simp] theorem State.updQueue_dies (s : State) (q : Nat) (f : Queue → Queue) : (s.updQueue q f).dies = s.dies := rfl
@[simp] theorem State.updQueue_parts (s : State) (q : Nat) (f : Queue → Queue) : (s.updQueue q f).parts = s.parts := rfl
@[simp] theorem State.updQueue_affinity (s : State) (q : Nat) (f : Queue → Queue) : (s.updQueue q f).affinity = s.affinity := rfl
@[simp] theorem State.updQueue_filters (s : State) (q : Nat) (f : Queue → Queue) : (s.updQueue q f).filters = s.filters := rfl
@[simp] theorem State.updQueue_buckets (s : State) (q : Nat) (f : Queue → Queue) : (s.updQueue q f).buckets = s.buckets := rfl
@[simp] theorem State.updQueue_mem (s : State) (q : Nat) (f : Queue → Queue) : (s.updQueue q f).mem = s.mem := rfl
@[simp] theorem State.updQueue_tmem (s : State) (q : Nat) (f : Queue → Queue) : (s.updQueue q f).tmem = s.tmem := rfl
@[simp] theorem State.updQueue_tpast (s : State) (q : Nat) (f : Queue → Queue) : (s.updQueue q f).tpast = s.tpast := rfl
@[simp] theorem State.updQueue_keyed (s : State) (q : Nat) (f : Queue → Queue) : (s.updQueue q f).keyed = s.keyed := rfl
@[simp] theorem State.updQueue_poison (s : State) (q : Nat) (f : Queue → Queue) : (s.updQueue q f).poison = s.poison := rfl
@[simp] theorem State.updQueue_failed (s : State) (q : Nat) (f : Queue → Queue) : (s.updQueue q f).failed = s.failed := rfl
@[simp] theorem State.updQueue_doomed (s : State) (q : Nat) (f : Queue → Queue) : (s.updQueue q f).doomed = s.doomed := rfl
@[simp] theorem State.updQueue_share (s : State) (q : Nat) (f : Queue → Queue) : (s.updQueue q f).share = s.share := rfl
@[simp] theorem State.updQueue_freeze (s : State) (q : Nat) (f : Queue → Queue) : (s.updQueue q f).freeze = s.freeze := rfl
@[simp] theorem State.updQueue_bias (s : State) (q : Nat) (f : Queue → Queue) : (s.updQueue q f).bias = s.bias := rfl
@[simp] theorem State.updQueue_regions (s : State) (q : Nat) (f : Queue → Queue) : (s.updQueue q f).regions = s.regions := rfl
@[simp] theorem State.updQueue_rwrites (s : State) (q : Nat) (f : Queue → Queue) : (s.updQueue q f).rwrites = s.rwrites := rfl
@[simp] theorem State.updQueue_waiters (s : State) (q : Nat) (f : Queue → Queue) : (s.updQueue q f).waiters = s.waiters := rfl
@[simp] theorem State.updQueue_nextTicket (s : State) (q : Nat) (f : Queue → Queue) : (s.updQueue q f).nextTicket = s.nextTicket := rfl
@[simp] theorem State.updQueue_greqs (s : State) (q : Nat) (f : Queue → Queue) : (s.updQueue q f).greqs = s.greqs := rfl
@[simp] theorem State.updQueue_opens (s : State) (q : Nat) (f : Queue → Queue) : (s.updQueue q f).opens = s.opens := rfl
@[simp] theorem State.updQueue_released (s : State) (q : Nat) (f : Queue → Queue) : (s.updQueue q f).released = s.released := rfl
@[simp] theorem State.updQueue_fills (s : State) (q : Nat) (f : Queue → Queue) : (s.updQueue q f).fills = s.fills := rfl
@[simp] theorem State.updQueue_freezes (s : State) (q : Nat) (f : Queue → Queue) : (s.updQueue q f).freezes = s.freezes := rfl
@[simp] theorem State.updQueue_flips (s : State) (q : Nat) (f : Queue → Queue) : (s.updQueue q f).flips = s.flips := rfl
@[simp] theorem State.updQueue_heldHost (s : State) (q : Nat) (f : Queue → Queue) : (s.updQueue q f).heldHost = s.heldHost := rfl
@[simp] theorem State.updQueue_peerWaits (s : State) (q : Nat) (f : Queue → Queue) : (s.updQueue q f).peerWaits = s.peerWaits := rfl
@[simp] theorem State.updQueue_eqWaits (s : State) (q : Nat) (f : Queue → Queue) : (s.updQueue q f).eqWaits = s.eqWaits := rfl
@[simp] theorem State.updQueue_shoots (s : State) (q : Nat) (f : Queue → Queue) : (s.updQueue q f).shoots = s.shoots := rfl
@[simp] theorem State.updQueue_bisnps (s : State) (q : Nat) (f : Queue → Queue) : (s.updQueue q f).bisnps = s.bisnps := rfl
@[simp] theorem State.updQueue_yielded (s : State) (q : Nat) (f : Queue → Queue) : (s.updQueue q f).yielded = s.yielded := rfl
@[simp] theorem State.updQueue_saved (s : State) (q : Nat) (f : Queue → Queue) : (s.updQueue q f).saved = s.saved := rfl
@[simp] theorem State.updQueue_hdm (s : State) (q : Nat) (f : Queue → Queue) : (s.updQueue q f).hdm = s.hdm := rfl
@[simp] theorem State.updQueue_funcs (s : State) (q : Nat) (f : Queue → Queue) : (s.updQueue q f).funcs = s.funcs := rfl
@[simp] theorem State.updQueue_links (s : State) (q : Nat) (f : Queue → Queue) : (s.updQueue q f).links = s.links := rfl
@[simp] theorem State.updQueue_peers (s : State) (q : Nat) (f : Queue → Queue) : (s.updQueue q f).peers = s.peers := rfl
@[simp] theorem State.updQueue_mistral (s : State) (q : Nat) (f : Queue → Queue) : (s.updQueue q f).mistral = s.mistral := rfl
@[simp] theorem State.updQueue_dph (s : State) (q : Nat) (f : Queue → Queue) : (s.updQueue q f).dph = s.dph := rfl
@[simp] theorem State.updQueue_sec (s : State) (q : Nat) (f : Queue → Queue) : (s.updQueue q f).sec = s.sec := rfl
@[simp] theorem State.updQueue_ucie (s : State) (q : Nat) (f : Queue → Queue) : (s.updQueue q f).ucie = s.ucie := rfl
@[simp] theorem State.updQueue_out (s : State) (q : Nat) (f : Queue → Queue) : (s.updQueue q f).out = s.out := rfl

/-! ### State.emit -/

@[simp] theorem State.emit_time (s : State) (o : Out) : (s.emit o).time = s.time := rfl
@[simp] theorem State.emit_cur (s : State) (o : Out) : (s.emit o).cur = s.cur := rfl
@[simp] theorem State.emit_agenda (s : State) (o : Out) : (s.emit o).agenda = s.agenda := rfl
@[simp] theorem State.emit_turn (s : State) (o : Out) : (s.emit o).turn = s.turn := rfl
@[simp] theorem State.emit_ev (s : State) (o : Out) : (s.emit o).ev = s.ev := rfl
@[simp] theorem State.emit_fresh (s : State) (o : Out) : (s.emit o).fresh = s.fresh := rfl
@[simp] theorem State.emit_nextXfer (s : State) (o : Out) : (s.emit o).nextXfer = s.nextXfer := rfl
@[simp] theorem State.emit_harts (s : State) (o : Out) : (s.emit o).harts = s.harts := rfl
@[simp] theorem State.emit_cores (s : State) (o : Out) : (s.emit o).cores = s.cores := rfl
@[simp] theorem State.emit_quads (s : State) (o : Out) : (s.emit o).quads = s.quads := rfl
@[simp] theorem State.emit_dies (s : State) (o : Out) : (s.emit o).dies = s.dies := rfl
@[simp] theorem State.emit_parts (s : State) (o : Out) : (s.emit o).parts = s.parts := rfl
@[simp] theorem State.emit_queues (s : State) (o : Out) : (s.emit o).queues = s.queues := rfl
@[simp] theorem State.emit_affinity (s : State) (o : Out) : (s.emit o).affinity = s.affinity := rfl
@[simp] theorem State.emit_filters (s : State) (o : Out) : (s.emit o).filters = s.filters := rfl
@[simp] theorem State.emit_buckets (s : State) (o : Out) : (s.emit o).buckets = s.buckets := rfl
@[simp] theorem State.emit_mem (s : State) (o : Out) : (s.emit o).mem = s.mem := rfl
@[simp] theorem State.emit_tmem (s : State) (o : Out) : (s.emit o).tmem = s.tmem := rfl
@[simp] theorem State.emit_tpast (s : State) (o : Out) : (s.emit o).tpast = s.tpast := rfl
@[simp] theorem State.emit_keyed (s : State) (o : Out) : (s.emit o).keyed = s.keyed := rfl
@[simp] theorem State.emit_poison (s : State) (o : Out) : (s.emit o).poison = s.poison := rfl
@[simp] theorem State.emit_failed (s : State) (o : Out) : (s.emit o).failed = s.failed := rfl
@[simp] theorem State.emit_doomed (s : State) (o : Out) : (s.emit o).doomed = s.doomed := rfl
@[simp] theorem State.emit_share (s : State) (o : Out) : (s.emit o).share = s.share := rfl
@[simp] theorem State.emit_freeze (s : State) (o : Out) : (s.emit o).freeze = s.freeze := rfl
@[simp] theorem State.emit_bias (s : State) (o : Out) : (s.emit o).bias = s.bias := rfl
@[simp] theorem State.emit_regions (s : State) (o : Out) : (s.emit o).regions = s.regions := rfl
@[simp] theorem State.emit_rwrites (s : State) (o : Out) : (s.emit o).rwrites = s.rwrites := rfl
@[simp] theorem State.emit_waiters (s : State) (o : Out) : (s.emit o).waiters = s.waiters := rfl
@[simp] theorem State.emit_nextTicket (s : State) (o : Out) : (s.emit o).nextTicket = s.nextTicket := rfl
@[simp] theorem State.emit_greqs (s : State) (o : Out) : (s.emit o).greqs = s.greqs := rfl
@[simp] theorem State.emit_opens (s : State) (o : Out) : (s.emit o).opens = s.opens := rfl
@[simp] theorem State.emit_released (s : State) (o : Out) : (s.emit o).released = s.released := rfl
@[simp] theorem State.emit_fills (s : State) (o : Out) : (s.emit o).fills = s.fills := rfl
@[simp] theorem State.emit_freezes (s : State) (o : Out) : (s.emit o).freezes = s.freezes := rfl
@[simp] theorem State.emit_flips (s : State) (o : Out) : (s.emit o).flips = s.flips := rfl
@[simp] theorem State.emit_heldHost (s : State) (o : Out) : (s.emit o).heldHost = s.heldHost := rfl
@[simp] theorem State.emit_peerWaits (s : State) (o : Out) : (s.emit o).peerWaits = s.peerWaits := rfl
@[simp] theorem State.emit_eqWaits (s : State) (o : Out) : (s.emit o).eqWaits = s.eqWaits := rfl
@[simp] theorem State.emit_shoots (s : State) (o : Out) : (s.emit o).shoots = s.shoots := rfl
@[simp] theorem State.emit_bisnps (s : State) (o : Out) : (s.emit o).bisnps = s.bisnps := rfl
@[simp] theorem State.emit_yielded (s : State) (o : Out) : (s.emit o).yielded = s.yielded := rfl
@[simp] theorem State.emit_saved (s : State) (o : Out) : (s.emit o).saved = s.saved := rfl
@[simp] theorem State.emit_hdm (s : State) (o : Out) : (s.emit o).hdm = s.hdm := rfl
@[simp] theorem State.emit_funcs (s : State) (o : Out) : (s.emit o).funcs = s.funcs := rfl
@[simp] theorem State.emit_links (s : State) (o : Out) : (s.emit o).links = s.links := rfl
@[simp] theorem State.emit_peers (s : State) (o : Out) : (s.emit o).peers = s.peers := rfl
@[simp] theorem State.emit_mistral (s : State) (o : Out) : (s.emit o).mistral = s.mistral := rfl
@[simp] theorem State.emit_dph (s : State) (o : Out) : (s.emit o).dph = s.dph := rfl
@[simp] theorem State.emit_sec (s : State) (o : Out) : (s.emit o).sec = s.sec := rfl
@[simp] theorem State.emit_ucie (s : State) (o : Out) : (s.emit o).ucie = s.ucie := rfl

/-! ### State.advance -/

@[simp] theorem State.advance_time (s : State) (n : Nat) : (s.advance n).time = s.time := rfl
@[simp] theorem State.advance_cur (s : State) (n : Nat) : (s.advance n).cur = s.cur := rfl
@[simp] theorem State.advance_agenda (s : State) (n : Nat) : (s.advance n).agenda = s.agenda := rfl
@[simp] theorem State.advance_turn (s : State) (n : Nat) : (s.advance n).turn = s.turn := rfl
@[simp] theorem State.advance_ev (s : State) (n : Nat) : (s.advance n).ev = s.ev := rfl
@[simp] theorem State.advance_fresh (s : State) (n : Nat) : (s.advance n).fresh = s.fresh := rfl
@[simp] theorem State.advance_nextXfer (s : State) (n : Nat) : (s.advance n).nextXfer = s.nextXfer := rfl
@[simp] theorem State.advance_cores (s : State) (n : Nat) : (s.advance n).cores = s.cores := rfl
@[simp] theorem State.advance_quads (s : State) (n : Nat) : (s.advance n).quads = s.quads := rfl
@[simp] theorem State.advance_dies (s : State) (n : Nat) : (s.advance n).dies = s.dies := rfl
@[simp] theorem State.advance_parts (s : State) (n : Nat) : (s.advance n).parts = s.parts := rfl
@[simp] theorem State.advance_queues (s : State) (n : Nat) : (s.advance n).queues = s.queues := rfl
@[simp] theorem State.advance_affinity (s : State) (n : Nat) : (s.advance n).affinity = s.affinity := rfl
@[simp] theorem State.advance_filters (s : State) (n : Nat) : (s.advance n).filters = s.filters := rfl
@[simp] theorem State.advance_buckets (s : State) (n : Nat) : (s.advance n).buckets = s.buckets := rfl
@[simp] theorem State.advance_mem (s : State) (n : Nat) : (s.advance n).mem = s.mem := rfl
@[simp] theorem State.advance_tmem (s : State) (n : Nat) : (s.advance n).tmem = s.tmem := rfl
@[simp] theorem State.advance_tpast (s : State) (n : Nat) : (s.advance n).tpast = s.tpast := rfl
@[simp] theorem State.advance_keyed (s : State) (n : Nat) : (s.advance n).keyed = s.keyed := rfl
@[simp] theorem State.advance_poison (s : State) (n : Nat) : (s.advance n).poison = s.poison := rfl
@[simp] theorem State.advance_failed (s : State) (n : Nat) : (s.advance n).failed = s.failed := rfl
@[simp] theorem State.advance_doomed (s : State) (n : Nat) : (s.advance n).doomed = s.doomed := rfl
@[simp] theorem State.advance_share (s : State) (n : Nat) : (s.advance n).share = s.share := rfl
@[simp] theorem State.advance_freeze (s : State) (n : Nat) : (s.advance n).freeze = s.freeze := rfl
@[simp] theorem State.advance_bias (s : State) (n : Nat) : (s.advance n).bias = s.bias := rfl
@[simp] theorem State.advance_regions (s : State) (n : Nat) : (s.advance n).regions = s.regions := rfl
@[simp] theorem State.advance_rwrites (s : State) (n : Nat) : (s.advance n).rwrites = s.rwrites := rfl
@[simp] theorem State.advance_waiters (s : State) (n : Nat) : (s.advance n).waiters = s.waiters := rfl
@[simp] theorem State.advance_nextTicket (s : State) (n : Nat) : (s.advance n).nextTicket = s.nextTicket := rfl
@[simp] theorem State.advance_greqs (s : State) (n : Nat) : (s.advance n).greqs = s.greqs := rfl
@[simp] theorem State.advance_opens (s : State) (n : Nat) : (s.advance n).opens = s.opens := rfl
@[simp] theorem State.advance_released (s : State) (n : Nat) : (s.advance n).released = s.released := rfl
@[simp] theorem State.advance_fills (s : State) (n : Nat) : (s.advance n).fills = s.fills := rfl
@[simp] theorem State.advance_freezes (s : State) (n : Nat) : (s.advance n).freezes = s.freezes := rfl
@[simp] theorem State.advance_flips (s : State) (n : Nat) : (s.advance n).flips = s.flips := rfl
@[simp] theorem State.advance_heldHost (s : State) (n : Nat) : (s.advance n).heldHost = s.heldHost := rfl
@[simp] theorem State.advance_peerWaits (s : State) (n : Nat) : (s.advance n).peerWaits = s.peerWaits := rfl
@[simp] theorem State.advance_eqWaits (s : State) (n : Nat) : (s.advance n).eqWaits = s.eqWaits := rfl
@[simp] theorem State.advance_shoots (s : State) (n : Nat) : (s.advance n).shoots = s.shoots := rfl
@[simp] theorem State.advance_bisnps (s : State) (n : Nat) : (s.advance n).bisnps = s.bisnps := rfl
@[simp] theorem State.advance_yielded (s : State) (n : Nat) : (s.advance n).yielded = s.yielded := rfl
@[simp] theorem State.advance_saved (s : State) (n : Nat) : (s.advance n).saved = s.saved := rfl
@[simp] theorem State.advance_hdm (s : State) (n : Nat) : (s.advance n).hdm = s.hdm := rfl
@[simp] theorem State.advance_funcs (s : State) (n : Nat) : (s.advance n).funcs = s.funcs := rfl
@[simp] theorem State.advance_links (s : State) (n : Nat) : (s.advance n).links = s.links := rfl
@[simp] theorem State.advance_peers (s : State) (n : Nat) : (s.advance n).peers = s.peers := rfl
@[simp] theorem State.advance_mistral (s : State) (n : Nat) : (s.advance n).mistral = s.mistral := rfl
@[simp] theorem State.advance_dph (s : State) (n : Nat) : (s.advance n).dph = s.dph := rfl
@[simp] theorem State.advance_sec (s : State) (n : Nat) : (s.advance n).sec = s.sec := rfl
@[simp] theorem State.advance_ucie (s : State) (n : Nat) : (s.advance n).ucie = s.ucie := rfl
@[simp] theorem State.advance_out (s : State) (n : Nat) : (s.advance n).out = s.out := rfl

end Sys2Proof.Machine
end

