-- ==== Sys2Proof/Laws/Caches.lean ====
section
/-!
SUPPORT. What the operations of the caches may change: lines, directories, filters and ways of the cores and quads, interfaces of the
dies, and the lists of lines with errors. One lemma for each operation; everything else of the state is as it was.
-/
namespace Sys2Proof.Machine

/-! ### The relation -/

/-- A core with the caches of another record of it. -/
def Core.recache (a b : Core) : Core := { a with l1i := b.l1i, l1d := b.l1d, rep := b.rep }

/-- A quad with the caches of another record of it. -/
def Quad.recache (a b : Quad) : Quad :=
  { a with
    lines := b.lines, dir := b.dir, filter := b.filter, predictor := b.predictor, ways := b.ways
    reserve := b.reserve }

/-- A die with the interfaces of another record of it. -/
def Die.recache (a b : Die) : Die :=
  { a with gddrDown := b.gddrDown, gddrLast := b.gddrLast }

/-- A state that differs from another in what the caches hold alone. -/
structure Cached (s t : State) : Prop where
  rest : t = { s with
    cores := t.cores, quads := t.quads, dies := t.dies, poison := t.poison, failed := t.failed, doomed := t.doomed }
  core : ∀ c, t.core c = (s.core c).recache (t.core c)
  quad : ∀ q, t.quad q = (s.quad q).recache (t.quad q)
  die : ∀ d, t.die d = (s.die d).recache (t.die d)
  loss : (∀ e ∈ s.quads, e.2.loss = []) → ∀ e ∈ t.quads, e.2.loss = []

theorem Cached.refl (s : State) : Cached s s := ⟨rfl, fun _ => rfl, fun _ => rfl, fun _ => rfl, id⟩

theorem Cached.trans {s t u : State} (a : Cached s t) (b : Cached t u) : Cached s u where
  rest := b.rest.trans (by rw [a.rest])
  core c := (b.core c).trans (by rw [a.core c]; rfl)
  quad q := (b.quad q).trans (by rw [a.quad q]; rfl)
  die d := (b.die d).trans (by rw [a.die d]; rfl)
  loss := b.loss ∘ a.loss

theorem Tab.mem_set {α : Type} {t : Tab α} {k : Nat} {a : α} {e : Nat × α} (h : e ∈ Tab.set t k a) : e ∈ t ∨ e = (k, a) := by
  induction t with
  | nil => exact .inr (by simpa [Tab.set] using h)
  | cons x t ih =>
    simp only [Tab.set] at h
    split at h
    · rcases List.mem_cons.1 h with h | h
      · exact .inr h
      · exact .inl h
    · split at h
      · rcases List.mem_cons.1 h with h | h
        · exact .inr h
        · exact .inl (List.mem_cons_of_mem _ h)
      · rcases List.mem_cons.1 h with h | h
        · exact .inl (h ▸ List.mem_cons_self)
        · exact (ih h).imp_left (List.mem_cons_of_mem _)

theorem Tab.get_mem {α : Type} (t : Tab α) (k : Nat) (d : α) : Tab.get t k d = d ∨ (k, Tab.get t k d) ∈ t := by
  induction t with
  | nil => exact .inl rfl
  | cons x t ih =>
    simp only [Tab.get]
    split
    · rename_i h; subst h; exact .inr List.mem_cons_self
    · exact ih.imp_right (List.mem_cons_of_mem _)

/-- A quad's record replaced by one with its lost lines. -/
theorem State.updQuad_loss {s : State} {q : Nat} {f : Quad → Quad} (h : (f (s.quad q)).loss = (s.quad q).loss)
    (k : ∀ e ∈ s.quads, e.2.loss = []) : ∀ e ∈ (s.updQuad q f).quads, e.2.loss = [] := by
  intro e he
  rcases Tab.mem_set he with he | rfl
  · exact k e he
  · show (f (s.quad q)).loss = []
    rw [h]
    rcases Tab.get_mem s.quads q {} with g | g
    · unfold State.quad; rw [g]
    · exact k _ g

theorem Cached.updQuad (s : State) (q : Nat) (f : Quad → Quad) (h : ∀ a, f a = a.recache (f a)) : Cached s (s.updQuad q f) where
  rest := rfl
  core _ := rfl
  quad k := by
    by_cases e : k = q
    · subst e; rw [State.quad_updQuad]; exact h _
    · rw [State.quad_updQuad_other _ _ _ _ e]; rfl
  die _ := rfl
  loss := State.updQuad_loss (by rw [h]; rfl)

theorem Cached.updCore (s : State) (c : Nat) (f : Core → Core) (h : ∀ a, f a = a.recache (f a)) : Cached s (s.updCore c f) where
  rest := rfl
  core k := by
    by_cases e : k = c
    · subst e
      unfold State.core State.updCore
      rw [Tab.get_set_same]; exact h _
    · unfold State.core State.updCore
      rw [Tab.get_set_other _ _ _ _ _ e]; rfl
  quad _ := rfl
  die _ := rfl
  loss := id

theorem Cached.updDie (s : State) (d : Nat) (f : Die → Die) (h : ∀ a, f a = a.recache (f a)) : Cached s (s.updDie d f) where
  rest := rfl
  core _ := rfl
  quad _ := rfl
  die k := by
    by_cases e : k = d
    · subst e
      unfold State.die State.updDie
      rw [Tab.get_set_same]; exact h _
    · unfold State.die State.updDie
      rw [Tab.get_set_other _ _ _ _ _ e]; rfl
  loss := id

theorem Cached.lists (s : State) (p f d : List Nat) : Cached s { s with poison := p, failed := f, doomed := d } :=
  ⟨rfl, fun _ => rfl, fun _ => rfl, fun _ => rfl, id⟩

theorem Cached.foldl {α : Type} {f : State → α → State} (h : ∀ s x, Cached s (f s x)) (l : List α) (s : State) :
    Cached s (l.foldl f s) := by
  induction l generalizing s with
  | nil => exact .refl s
  | cons x l ih => exact (h s x).trans (ih _)

/-- The fields that programs read. -/
theorem Cached.fields {s t : State} (h : Cached s t) :
    t.harts = s.harts ∧ t.mem = s.mem ∧ t.tmem = s.tmem ∧ t.cur = s.cur ∧ t.time = s.time := by
  rw [h.rest]; exact ⟨rfl, rfl, rfl, rfl, rfl⟩

/-! ### Errors and lines of slices -/

theorem State.clearSite_cached (s : State) (n : Nat) : Cached s (s.clearSite n) := by
  unfold State.clearSite
  split
  · exact .lists s _ _ _
  · exact .refl s

theorem State.forget_cached (s : State) (l : Nat) : Cached s (s.forget l) := by
  unfold State.forget
  split
  · exact .refl s
  · exact State.clearSite_cached ..

theorem State.failLine_cached (s : State) (l : Nat) : Cached s (s.failLine l) := by
  unfold State.failLine
  split
  · exact .refl s
  · split <;> exact .lists s _ _ _

theorem State.writtenBack_cached (s : State) (l : Nat) : Cached s (s.writtenBack l) := by
  unfold State.writtenBack
  split
  · exact (Cached.lists s _ _ _).trans (State.failLine_cached _ _)
  · exact .refl s

theorem State.useGddr_cached (s : State) (pa : Nat) : Cached s (s.useGddr pa) := by
  unfold State.useGddr
  split
  · exact .updDie _ _ _ (fun _ => rfl)
  · exact .refl s

theorem Quad.hit_cached (a : Quad) (now line : Nat) (l : SliceLine) : a.hit now line l = a.recache (a.hit now line l) := by
  unfold Quad.hit Quad.wakeWay
  dsimp only
  split <;> split <;> rfl

theorem State.useLine_cached (s : State) (q l : Nat) : Cached s (s.useLine q l) := by
  unfold State.useLine
  split
  · exact .refl s
  · exact .updQuad _ _ _ (fun a => Quad.hit_cached a _ _ _)

theorem State.dropLine_cached (s : State) (q l : Nat) : Cached s (s.dropLine q l) := .updQuad _ _ _ (fun _ => rfl)

theorem State.dropClean_cached (s : State) (q l : Nat) : Cached s (s.dropClean q l) :=
  (State.dropLine_cached ..).trans (State.forget_cached ..)

theorem State.memoryTakes_cached (s : State) (l : Nat) : Cached s (s.memoryTakes l) :=
  (State.useGddr_cached ..).trans (State.writtenBack_cached ..)

/-- A slice's line goes to memory. -/
theorem State.dropToMemory_cached (s : State) (q l : Nat) : Cached s ((s.dropLine q l).memoryTakes l) :=
  (State.dropLine_cached ..).trans (State.memoryTakes_cached ..)

theorem State.toMemory_cached (s : State) (q l : Nat) : Cached s (s.toMemory q l) := by
  unfold State.toMemory
  dsimp only
  split
  · exact (State.dropToMemory_cached s q l).trans (.updQuad _ _ _ (fun _ => rfl))
  · exact State.dropToMemory_cached s q l

/-- A line of a slice marked. -/
theorem Cached.mark (s : State) (q line : Nat) (g : SliceLine → SliceLine) :
    Cached s (s.updQuad q (fun a => match a.line line with
      | none => a
      | some k => { a with lines := Tab.set a.lines line (g k) })) := by
  refine .updQuad _ _ _ (fun a => ?_)
  split <;> rfl

theorem State.settleDirty_cached (s : State) (l : Nat) : Cached s (State.settleDirty s l) := by
  unfold State.settleDirty
  dsimp only
  split
  · exact State.useLine_cached ..
  · split
    · exact State.memoryTakes_cached ..
    · split
      · exact State.dropToMemory_cached ..
      · exact (State.useLine_cached s _ l).trans (.mark ..)

/-! ### What a write-back of any kind keeps -/

/-- A write-back changes the caches alone. -/
abbrev WriteBack.Keeps (wb : WriteBack) : Prop := ∀ s l, Cached s (wb s l)

section
variable {wb : WriteBack}

theorem WriteBack.Keeps.dropL1By (k : wb.Keeps) (s : State) (c l : Nat) : Cached s (s.dropL1By wb c l) := by
  unfold State.dropL1By
  split
  · exact .refl s
  · dsimp only
    split
    · exact (Cached.updCore s c _ (fun _ => rfl)).trans (k ..)
    · exact (Cached.updCore s c _ (fun _ => rfl)).trans (State.forget_cached ..)

theorem WriteBack.Keeps.probeCoresBy (k : wb.Keeps) (s : State) (q l : Nat) (keep : Option Nat) (dirty : Bool) :
    Cached s (s.probeCoresBy wb q l keep dirty) := by
  unfold State.probeCoresBy
  extract_lets cs go t left
  have ht : Cached s t := .foldl (fun s c => k.dropL1By s (4 * q + c) l) _ s
  split
  · exact (ht.trans (.updQuad _ _ _ (fun _ => rfl))).trans (State.clearSite_cached ..)
  · exact ht.trans (.updQuad _ _ _ (fun _ => rfl))

theorem WriteBack.Keeps.probeDieBy (k : wb.Keeps) (s : State) (d l : Nat) : Cached s (s.probeDieBy wb d l) := by
  unfold State.probeDieBy
  extract_lets x t
  have ht : Cached s t := .foldl (fun s q => k.probeCoresBy s q l none false) _ s
  split
  · exact ht
  · split
    · exact ht
    · split
      · exact (ht.trans (State.dropLine_cached ..)).trans (k ..)
      · exact ht.trans (State.dropClean_cached ..)

theorem WriteBack.Keeps.recallVictimBy (k : wb.Keeps) (s : State) (n l : Nat) : Cached s (s.recallVictimBy wb n l) := by
  unfold State.recallVictimBy
  split
  · exact .refl s
  · split
    · exact (State.dropLine_cached ..).trans (k ..)
    · exact .refl s

theorem WriteBack.Keeps.evictRegionBy (k : wb.Keeps) (s : State) (q r : Nat) : Cached s (s.evictRegionBy wb q r) := by
  unfold State.evictRegionBy
  extract_lets e ls t u v
  have ht : Cached s t := .foldl (fun s j => .foldl (fun s l => k.probeCoresBy s j l none false) ls s) _ s
  have hu : Cached t u := .foldl (fun s d =>
    (Cached.foldl (fun s l => k.probeDieBy s d l) ls s).trans (.updQuad _ _ _ (fun _ => rfl))) _ t
  have hv : Cached u v := by
    unfold v
    split
    · exact (Cached.updQuad _ _ _ (fun _ => rfl)).trans (.foldl (fun s l => k.recallVictimBy s _ l) ls _)
    · exact .refl u
  exact (((ht.trans hu).trans hv).trans (.updQuad _ _ _ (fun _ => rfl))).trans (State.clearSite_cached ..)

theorem WriteBack.Keeps.updDirBy (k : wb.Keeps) (s : State) (q r : Nat) (f : DirEntry → DirEntry) : Cached s (s.updDirBy wb q r f) := by
  unfold State.updDirBy
  extract_lets d mates t
  have ht : Cached s t := by
    unfold t
    split
    · exact .refl s
    · generalize mates = l
      cases l
      · exact .refl s
      · exact k.evictRegionBy ..
  exact ht.trans (.updQuad _ _ _ (fun _ => rfl))

end

/-! ### Owners -/

theorem State.cleanRegion_cached (s : State) (q r : Nat) : Cached s (s.cleanRegion q r) :=
  .foldl (fun _ _ => (Cached.foldl (f := fun (u : State) (l : Nat × Bool) => u.memoryTakes l.1)
    (fun s l => State.memoryTakes_cached s l.1) _ _).trans (.updCore _ _ _ (fun _ => rfl))) _ s

theorem State.flushRegion_cached (s : State) (q r : Nat) (f : SliceLine → Bool) : Cached s (s.flushRegion q r f) :=
  Cached.foldl (f := fun (u : State) (l : Nat × SliceLine) => u.toMemory q l.1) (fun s l => State.toMemory_cached s q l.1) _ s

theorem State.releaseOwner_cached (s : State) (q r : Nat) (o : DirOwner) : Cached s (s.releaseOwner q r o) := by
  unfold State.releaseOwner
  dsimp only
  split
  · exact .refl s
  · split
    · exact .refl s
    · exact State.cleanRegion_cached ..
    · refine ((Cached.foldl (fun s q => State.cleanRegion_cached s q r) _ s).trans (State.flushRegion_cached ..)).trans
        (.updQuad _ _ _ (fun a => ?_))
      split <;> rfl
    · exact State.flushRegion_cached ..

/-! ### Victims, fills and write-backs -/

theorem State.evictDirty_cached (s : State) (q l : Nat) : Cached s (s.evictDirty q l) := by
  unfold State.evictDirty
  split
  · exact .refl s
  · extract_lets home dest
    generalize dest = o
    cases o with
    | none => exact State.toMemory_cached ..
    | some n =>
      dsimp only
      have hu := ((State.dropLine_cached s q l).trans (State.releaseOwner_cached _ home (l / 8) (.slice n))).trans
        (WriteBack.Keeps.updDirBy State.settleDirty_cached _ home (l / 8) id)
      generalize (((s.dropLine q l).releaseOwner home (l / 8) (.slice n)).updDirBy State.settleDirty home (l / 8) id) = u at hu ⊢
      split
      · exact hu.trans (State.memoryTakes_cached ..)
      · refine hu.trans (Cached.trans (Cached.trans ?_ (.updQuad _ _ _ (fun _ => rfl))) (.updQuad _ _ _ (fun _ => rfl)))
        split
        · exact State.dropClean_cached ..
        · exact .refl u

theorem State.fillSlice_cached (s : State) (q line : Nat) (k : LineKind) (d : Bool) (st : Nat) (least : Bool) :
    Cached s (s.fillSlice q line k d st least) := by
  unfold State.fillSlice
  extract_lets t u
  have ht : Cached s t := by
    unfold t
    split
    · exact State.dropLine_cached ..
    · exact .refl s
  refine (ht.trans (State.forget_cached t line)).trans ?_
  split
  · split
    · exact State.memoryTakes_cached ..
    · exact .refl u
  · refine Cached.trans ?_ (.updQuad _ _ _ (fun _ => rfl))
    split
    · split
      · exact State.evictDirty_cached ..
      · exact State.dropClean_cached ..
    · exact .refl u

theorem State.dirtyLine_cached (s : State) (q l : Nat) (k : LineKind) : Cached s (s.dirtyLine q l k) := by
  unfold State.dirtyLine
  split
  · exact State.fillSlice_cached ..
  · split
    · exact (State.dropLine_cached ..).trans (State.fillSlice_cached ..)
    · exact (State.useLine_cached s q l).trans (.mark ..)

theorem State.writeHome_cached (s : State) (l : Nat) : Cached s (s.writeHome l) := by
  unfold State.writeHome
  dsimp only
  split
  · exact State.useLine_cached ..
  · split
    · exact State.dropToMemory_cached ..
    · split
      · exact State.dirtyLine_cached ..
      · have h := State.dropLine_cached s (s.homeQuad (64 * l)) l
        split
        · exact h
        · split
          · exact h.trans (.updQuad _ _ _ (fun _ => rfl))
          · exact State.dropToMemory_cached ..

/-- A line's way home changes the caches alone. -/
theorem State.writeHome_keeps : WriteBack.Keeps State.writeHome := State.writeHome_cached

theorem State.writeOut_cached (s : State) (q l : Nat) : Cached s (s.writeOut q l) := by
  unfold State.writeOut
  split
  · exact .refl s
  · split
    · exact State.dropClean_cached ..
    · split
      · exact (State.dropLine_cached ..).trans (State.writeHome_cached ..)
      · exact State.toMemory_cached ..

theorem State.dropL1_cached (s : State) (c l : Nat) : Cached s (s.dropL1 c l) := State.writeHome_keeps.dropL1By ..
theorem State.probeQuad_cached (s : State) (q l : Nat) : Cached s (s.probeQuad q l) := State.writeHome_keeps.probeCoresBy ..
theorem State.probeDie_cached (s : State) (d l : Nat) : Cached s (s.probeDie d l) := State.writeHome_keeps.probeDieBy ..
theorem State.recallVictim_cached (s : State) (n l : Nat) : Cached s (s.recallVictim n l) := State.writeHome_keeps.recallVictimBy ..
theorem State.evictRegion_cached (s : State) (q r : Nat) : Cached s (s.evictRegion q r) := State.writeHome_keeps.evictRegionBy ..
theorem State.updDir_cached (s : State) (q r : Nat) (f : DirEntry → DirEntry) : Cached s (s.updDir q r f) :=
  State.writeHome_keeps.updDirBy ..

/-! ### L1 data caches and filters -/

theorem State.roomL1_cached (s : State) (c l : Nat) : Cached s (s.roomL1 c l) := by
  unfold State.roomL1
  dsimp only
  split
  · exact .refl s
  · split
    · exact .updCore _ _ _ (fun _ => rfl)
    · split
      · exact State.dropL1_cached ..
      · exact .refl s

theorem State.noteFilter_cached (s : State) (q l c : Nat) : Cached s (s.noteFilter q l c) := by
  unfold State.noteFilter
  dsimp only
  refine Cached.trans ?_ (.updQuad _ _ _ (fun _ => rfl))
  split
  · exact .refl s
  · split
    · exact State.probeQuad_cached ..
    · exact .refl s

/-! ### Requests -/

theorem State.settleCopies_cached (s : State) (cl : Client) (line : Nat) (excl : Bool) : Cached s (s.settleCopies cl line excl) := by
  unfold State.settleCopies
  extract_lets pa home e d r far ask back t u v w
  have ha (x : State) (q : Nat) : Cached x (ask x q) := State.writeHome_keeps.probeCoresBy ..
  have hb (x : State) (o : Option DirOwner) : Cached x (back x o) := by
    unfold back
    split
    · split
      · exact ha ..
      · exact .refl x
    · split
      · exact .refl x
      · exact State.probeDie_cached ..
    · exact .refl x
  have hu : Cached s u := by
    unfold u
    split
    · exact (hb s _).trans (hb ..)
    · exact hb s _
  split
  · exact hu
  · have hv : Cached u v := .foldl ha _ u
    have hw : Cached v w := by
      unfold w
      split
      · exact .refl v
      · exact .foldl ha _ v
    exact ((hu.trans hv).trans hw).trans (.foldl (fun s k => State.probeDie_cached s k line) _ w)

theorem State.noteSharer_cached (s : State) (q pa : Nat) (excl : Bool) : Cached s (s.noteSharer q pa excl) := by
  unfold State.noteSharer
  extract_lets home inc note d x t
  have hn (y : State) (n : Nat) (o : DirOwner) (f : DirEntry → DirEntry) : Cached y (note y n o f) := by
    refine Cached.trans ?_ (State.updDir_cached ..)
    split
    · exact State.releaseOwner_cached ..
    · exact .refl y
  split
  · exact hn ..
  · exact (hn s _ _ _).trans (hn ..)

theorem State.track_cached (s : State) (c pa : Nat) (excl : Bool) : Cached s (s.track c pa excl) :=
  (State.noteFilter_cached ..).trans (State.noteSharer_cached ..)

theorem State.useSlices_cached (s : State) (cl : Client) (pa : Nat) (write : Bool) (tr : Treat) (stamp : Option Nat) :
    Cached s (s.useSlices cl pa write tr stamp) := by
  unfold State.useSlices
  extract_lets line home x away least kind held t u
  split
  · exact State.useLine_cached ..
  · have ht : Cached s t := by
      unfold t
      split
      · exact State.useLine_cached ..
      · split
        · exact State.useLine_cached ..
        · split
          · exact State.useGddr_cached ..
          · exact (State.useGddr_cached ..).trans (State.fillSlice_cached ..)
    have hu : Cached t u := by
      unfold u
      split
      · exact State.writeHome_cached ..
      · exact .refl t
    refine (ht.trans hu).trans ?_
    split
    · exact .refl u
    · exact (State.fillSlice_cached ..).trans (State.updDir_cached ..)

theorem State.serve_cached (s : State) (cl : Client) (pa : Nat) (write : Bool) (tr : Treat) (stamp : Option Nat) :
    Cached s (s.serve cl pa write tr stamp) := by
  unfold State.serve
  split
  · exact .refl s
  · extract_lets t
    have ht : Cached s t := by
      unfold t
      split
      · exact .refl s
      · exact State.settleCopies_cached ..
    exact ht.trans (State.useSlices_cached ..)

theorem State.resetCount_cached (s : State) (pa : Nat) : Cached s (s.resetCount pa) := by
  unfold State.resetCount
  dsimp only
  split
  · exact .updQuad _ _ _ (fun _ => rfl)
  · exact .refl s

theorem State.bypass_cached (s : State) (q pa : Nat) (write : Bool) (tr : Treat) (stamp : Option Nat) :
    Cached s (s.bypass q pa write tr stamp) := (State.serve_cached ..).trans (State.resetCount_cached ..)

theorem State.reach_cached (s : State) (q : Nat) (write : Bool) (l : List LineReq) : Cached s (s.reach q write l) := by
  unfold State.reach
  generalize l.eraseDups = k
  exact Cached.foldl (f := fun (t : State) (x : LineReq) => t.bypass q (64 * x.1) write x.2.1 x.2.2)
    (fun t x => State.bypass_cached t q (64 * x.1) write x.2.1 x.2.2) k s

/-! ### Translation -/

theorem State.dropDirs_cached (s : State) (page : Nat) : Cached s (s.dropDirs page) := by
  refine Cached.foldl (fun t k => ?_) _ s
  dsimp only
  split
  · exact State.evictRegion_cached ..
  · exact .refl t

/-! ### A core's accesses -/

theorem State.otherCore_cached (s : State) (c pa : Nat) : Cached s (s.otherCore c pa) := by
  unfold State.otherCore
  split
  · exact State.resetCount_cached ..
  · exact .refl s

/-- A scalar access's cache updates leave everything but the caches. -/
theorem State.touch_cached (s : State) (c : Nat) (e : TlbEntry) (pa : Nat) (store : Bool) : Cached s (s.touch c e pa store) := by
  unfold State.touch
  extract_lets line cl t
  have ht : Cached s t := by
    unfold t
    split
    · exact .refl s
    · split
      · exact State.useSlices_cached ..
      · exact ((State.otherCore_cached s c pa).trans (State.serve_cached _ cl pa store .normal none)).trans
          (State.track_cached _ c pa store)
  clear_value t
  split
  · exact State.serve_cached ..
  · split
    · split
      · exact .refl s
      · exact ((State.serve_cached s cl pa false .normal (some e.stamp)).trans (State.roomL1_cached _ c line)).trans
          (.updCore _ c _ (fun _ => rfl))
    · exact (ht.trans (State.roomL1_cached t c line)).trans (.updCore _ c _ (fun _ => rfl))

theorem Quad.count_cached (a : Quad) (line c : Nat) : (a.count line c).2 = a.recache (a.count line c).2 := rfl

/-- An atomic's cache updates leave everything but the caches. -/
theorem State.atomicAt_cached (s : State) (c : Nat) (e : TlbEntry) (pa : Nat) : Cached s (s.atomicAt c e pa) := by
  unfold State.atomicAt
  extract_lets line home d t r u
  split
  · exact State.serve_cached ..
  · split
    · exact State.touch_cached ..
    · split
      · exact (Cached.foldl (fun s q => State.probeQuad_cached s q line) _ s).trans (State.dirtyLine_cached ..)
      · have hu : Cached s u := by
          refine (State.serve_cached s ⟨c / 4, none⟩ pa true .normal none).trans ⟨rfl, fun _ => rfl, fun k => ?_, fun _ => rfl, State.updQuad_loss rfl⟩
          by_cases h : k = home
          · subst h
            show (t.updQuad home (fun _ => r.2)).quad home = (t.quad home).recache _
            rw [State.quad_updQuad]; rfl
          · show (t.updQuad home (fun _ => r.2)).quad k = (t.quad k).recache _
            rw [State.quad_updQuad_other _ _ _ _ h]; rfl
        split
        · exact hu
        · exact hu.trans (State.touch_cached ..)

theorem State.atHome_cached (s : State) (c pa : Nat) (tr : Treat) : Cached s (s.atHome c pa tr) := by
  unfold State.atHome
  split
  · exact (State.settleCopies_cached ..).trans (State.useSlices_cached ..)
  · exact .refl s

theorem State.keepCode_cached (s : State) (c : Nat) (e : TlbEntry) (pa : Nat) : Cached s (s.keepCode c e pa) := by
  unfold State.keepCode
  exact (State.clearSite_cached ..).trans (.updCore _ _ _ (fun _ => rfl))

theorem State.fillL1i_cached (s : State) (c : Nat) (e : TlbEntry) (pa : Nat) : Cached s (s.fillL1i c e pa) :=
  (State.serve_cached ..).trans (State.keepCode_cached ..)

theorem State.cleanCore_cached (s : State) (c : Nat) : Cached s (s.cleanCore c) := by
  unfold State.cleanCore
  exact (Cached.foldl (f := fun (u : State) (x : Nat × Bool) => u.writeHome x.1) (fun s x => State.writeHome_cached s x.1) _ s).trans
    (.updCore _ _ _ (fun _ => rfl))

end Sys2Proof.Machine
end

