-- ==== Sys2Proof/Laws/Control.lean ====
section
/-!
SUPPORT. What the shared operations of an issue answer: a stop of the first check that fails, or the effect; and what taking
and leaving an exception does to a hart.
-/
namespace Sys2Proof.Machine

/-! ### Checks -/

@[simp] theorem firstStop_nil : firstStop [] = none := rfl
@[simp] theorem firstStop_none (l : List (Option Stop)) : firstStop (none :: l) = firstStop l := rfl
@[simp] theorem firstStop_some (st : Stop) (l : List (Option Stop)) : firstStop (some st :: l) = some st := rfl

/-- No check of a list stops exactly when none of them does. -/
theorem firstStop_eq_none {l : List (Option Stop)} : firstStop l = none ↔ ∀ c ∈ l, c = none := by
  induction l with
  | nil => simp
  | cons c t ih => cases c <;> simp [ih]

@[simp] theorem trapIf_false (c : Nat) (v : Word) : trapIf false c v = none := rfl
@[simp] theorem trapIf_true (c : Nat) (v : Word) : trapIf true c v = some (.trap c v) := rfl
@[simp] theorem parkIf_false (p : Park) : parkIf false p = none := rfl
@[simp] theorem parkIf_true (p : Park) : parkIf true p = some (.park p) := rfl

/-- With every check passed, the effect. -/
theorem State.guarded_pass {s : State} {l : List (Option Stop)} {go : Res} (h : firstStop l = none) :
    s.guarded l go = go := by
  simp [State.guarded, h]

/-- With a check failed, its stop. -/
theorem State.guarded_stop {s : State} {l : List (Option Stop)} {go : Res} {st : Stop} (h : firstStop l = some st) :
    s.guarded l go = s.stop st := by
  simp [State.guarded, h]

/-- A stop is a next state. -/
theorem State.stop_next (s : State) (st : Stop) : ∃ t, s.stop st = .next t := by
  cases st <;> exact ⟨_, rfl⟩

/-- Checks before an effect that answers a next state answer a next state. -/
theorem State.guarded_next {s : State} {l : List (Option Stop)} {go : Res} (h : ∃ t, go = .next t) :
    ∃ t, s.guarded l go = .next t := by
  unfold State.guarded
  split
  · exact State.stop_next ..
  · exact h

/-- What a guarded effect answers: a stop's state, or the effect's. -/
theorem State.guarded_cases {s : State} {l : List (Option Stop)} {go : Res} {r : Res} (h : s.guarded l go = r) :
    (∃ st, firstStop l = some st ∧ r = s.stop st) ∨ (firstStop l = none ∧ r = go) := by
  unfold State.guarded at h
  split at h
  · exact .inl ⟨_, by assumption, h.symm⟩
  · exact .inr ⟨by assumption, h.symm⟩

/-! ### Sources and destinations -/

theorem Hart.ready_split {a : Hart} {src dst : List (RFile × Nat)} :
    a.ready src dst = none ↔ a.markedAny src = none ∧ a.presentAll src = none ∧ a.ownedAll dst = none := by
  simp [Hart.ready, firstStop_eq_none]

/-- A scalar instruction whose sources and destinations let it issue goes on to its effect. -/
theorem State.guarded_ready {s : State} {src dst : List (RFile × Nat)} {go : Res} (r : s.Ready src dst) :
    s.guarded [s.me.ready src dst] go = go := by
  have h : s.me.ready src dst = none := r
  simp [State.guarded, h]

/-- A vector issue whose checks pass and whose queue has room enters its command and goes on. -/
theorem State.vgo_issues {s : State} {r : VReq} (h : s.VIssues r) :
    s.vgo r = .next (s.updMe (fun a => (a.enqueue r).advance (Instr.len r.i))) := by
  obtain ⟨⟨h1, h2, h3, h4⟩, h5⟩ := h
  have h6 : ¬ 8 ≤ s.me.vq.length := by omega
  simp [State.vgo, State.vguard, h1, h2, h3, h4, h6, State.guarded]

/-- The checks of a vector instruction passed, what follows them. -/
theorem State.vguard_pass {s : State} {r : VReq} {go : Res} (h : s.VReady r) : s.vguard r go = go := by
  obtain ⟨h1, h2, h3, h4⟩ := h
  simp [State.vguard, h1, h2, h3, h4, State.guarded]

/-! ### Exceptions (R184, R185) -/

/-- What an entry writes. -/
theorem Hart.enter_spec (a : Hart) (cause tval : Word) :
    (a.enter cause tval).csr.sepc = a.pc ∧ (a.enter cause tval).csr.scause = cause ∧ (a.enter cause tval).csr.stval = tval ∧
    (a.enter cause tval).csr.sstatus = enterStatus a.csr.sstatus a.mode ∧ (a.enter cause tval).mode = .s ∧
    (a.enter cause tval).pc = a.csr.stvec &&& 0xFFFFFFFFFFFFFFFC#64 ∧ (a.enter cause tval).park = none ∧
    (a.enter cause tval).resv = none := ⟨rfl, rfl, rfl, rfl, rfl, rfl, rfl, rfl⟩

/-- A trap's veix. -/
theorem Hart.trap_veix (a : Hart) (c : Nat) (v : Word) (e : Nat) : (a.trap c v e).veix = BitVec.ofNat 12 e := rfl

/-- What a return writes. -/
theorem Hart.sret_spec (a : Hart) :
    a.sret.pc = a.csr.sepc ∧ a.sret.mode = (if bitOf a.csr.sstatus 8 then .s else .u) ∧
    a.sret.csr.sstatus = leaveStatus a.csr.sstatus ∧ a.sret.park = none := ⟨rfl, rfl, rfl, rfl⟩

/-- Setting a bit of a word. -/
theorem withBit_get (w : Word) (k j : Nat) (b : Bool) (hk : k < 64) :
    (withBit w k b).getLsbD j = if j = k then b else w.getLsbD j := by
  unfold withBit
  cases b
  · by_cases h : j = k
    · subst h; simp
    · by_cases hj : j < 64
      · by_cases hjk : j < k
        · simp [h, hjk, hj]
        · have : j - k ≠ 0 := by omega
          simp [h, hjk, this, hj]
      · simp [h, BitVec.getLsbD_of_ge _ _ (Nat.le_of_not_lt hj)]
  · by_cases h : j = k
    · subst h; simp [hk]
    · by_cases hj : j < 64
      · by_cases hjk : j < k
        · simp [h, hjk, hj]
        · have : j - k ≠ 0 := by omega
          simp [h, hjk, this, hj]
      · simp [h, BitVec.getLsbD_of_ge _ _ (Nat.le_of_not_lt hj)]

end Sys2Proof.Machine
end

