-- ==== Sys2Proof/Laws/Access.lean ====
section
/-!
SUPPORT. What the shared operations of an access leave: a translation and its checks leave memory and every register, a hart
losing at most its reservation; the caches' part leaves harts and memory; a write changes its own bytes alone.
-/
namespace Sys2Proof.Machine

/-! ### Tables mapped entry by entry -/

theorem Tab.get_map {α : Type} (t : Tab α) (g : Nat × α → α) (k : Nat) (d : α) :
    (Tab.get t k d = Tab.get (t.map (fun e => (e.1, g e))) k d) ∨ ∃ a, Tab.get t k d = a ∧
      Tab.get (t.map (fun e => (e.1, g e))) k d = g (k, a) := by
  induction t with
  | nil => exact .inl rfl
  | cons x t ih =>
    obtain ⟨j, a⟩ := x
    simp only [List.map_cons, Tab.get]
    split
    · subst_vars; exact .inr ⟨a, rfl, rfl⟩
    · exact ih

/-- A state whose harts differ from another's in their reservations alone, with the same memories. -/
structure SameButResv (s t : State) : Prop where
  mem : t.mem = s.mem
  tmem : t.tmem = s.tmem
  cur : t.cur = s.cur
  time : t.time = s.time
  hart : ∀ h, ∃ r, t.hart h = { s.hart h with resv := r }

theorem SameButResv.refl (s : State) : SameButResv s s := ⟨rfl, rfl, rfl, rfl, fun h => ⟨(s.hart h).resv, rfl⟩⟩

theorem SameButResv.trans {s t u : State} (a : SameButResv s t) (b : SameButResv t u) : SameButResv s u := by
  refine ⟨b.mem.trans a.mem, b.tmem.trans a.tmem, b.cur.trans a.cur, b.time.trans a.time, fun h => ?_⟩
  obtain ⟨r, hr⟩ := a.hart h
  obtain ⟨q, hq⟩ := b.hart h
  exact ⟨q, by rw [hq, hr]⟩

/-- An update that leaves harts, memories, the hart at issue and the time. -/
theorem SameButResv.of_eq {s t : State} (h1 : t.harts = s.harts) (h2 : t.mem = s.mem) (h3 : t.tmem = s.tmem)
    (h4 : t.cur = s.cur) (h5 : t.time = s.time) : SameButResv s t :=
  ⟨h2, h3, h4, h5, fun h => ⟨(s.hart h).resv, by simp [State.hart, h1]⟩⟩

theorem SameButResv.updQuad (s : State) (q : Nat) (f : Quad → Quad) : SameButResv s (s.updQuad q f) := .of_eq rfl rfl rfl rfl rfl
theorem SameButResv.updCore (s : State) (q : Nat) (f : Core → Core) : SameButResv s (s.updCore q f) := .of_eq rfl rfl rfl rfl rfl

theorem SameButResv.updDie (s : State) (d : Nat) (f : Die → Die) : SameButResv s (s.updDie d f) := .of_eq rfl rfl rfl rfl rfl

theorem SameButResv.withShare (s : State) (x : Tab ShareEntry) : SameButResv s { s with share := x } := .of_eq rfl rfl rfl rfl rfl

/-- Harts mapped to harts that differ in the reservation alone. -/
theorem State.mapHarts_resv (s : State) (f : Nat → Hart → Hart) (hf : ∀ h a, ∃ r, f h a = { a with resv := r }) :
    SameButResv s (s.mapHarts f) := by
  refine ⟨rfl, rfl, rfl, rfl, fun h => ?_⟩
  rcases Tab.get_map s.harts (fun e => f e.1 e.2) h {} with e | ⟨a, ha, e⟩
  · refine ⟨(s.hart h).resv, ?_⟩
    unfold State.hart State.mapHarts
    rw [← e]
  · obtain ⟨r, hr⟩ := hf h a
    refine ⟨r, ?_⟩
    unfold State.hart State.mapHarts
    rw [e, ha]
    exact hr

theorem Hart.loseResv_spec (a : Hart) (hit : Reservation → Bool) : ∃ r, a.loseResv hit = { a with resv := r } := ⟨_, rfl⟩

/-! ### Translation -/

/-- What the caches hold is no part of what harts and memory are. -/
theorem Cached.same {s t : State} (h : Cached s t) : SameButResv s t :=
  have f := h.fields
  .of_eq f.1 f.2.1 f.2.2.1 f.2.2.2.1 f.2.2.2.2

theorem State.flushPage_same (s : State) (c page : Nat) : SameButResv s (s.flushPage c page) := by
  unfold State.flushPage
  extract_lets keepT t mine u
  have ht : SameButResv s t := State.mapHarts_resv s _ (fun _ a => Hart.loseResv_spec a _)
  have hu : SameButResv t u := (Cached.foldl (f := fun (u : State) (l : Nat × Bool) => u.dropL1 c l.1)
    (fun s x => State.dropL1_cached s c x.1) mine t).same.trans (.updCore _ _ _)
  exact (ht.trans hu).trans (SameButResv.updQuad _ _ _)

theorem State.claim_same (s : State) (q : Req) (e : TlbEntry) : SameButResv s (s.claim q e).2 := by
  unfold State.claim
  dsimp only
  split
  · exact .refl s
  · split
    · split
      · exact (State.dropDirs_cached s _).same.trans (SameButResv.withShare _ _)
      · exact (State.dropDirs_cached s _).same.trans (SameButResv.withShare _ _)
    · split
      · exact .refl s
      · exact (State.flushPage_same s _ _).trans (SameButResv.withShare _ _)
    · exact .refl s

theorem State.installTlb_same (s : State) (q : Req) (e : TlbEntry) : SameButResv s (s.installTlb q e) := by
  unfold State.installTlb
  dsimp only
  split
  · exact (SameButResv.updQuad s _ _).trans (.updCore _ _ _)
  · exact .updQuad _ _ _

theorem State.learn_same (s : State) (d w : Nat) (l : WCache) : SameButResv s (s.learn d w l) := by
  unfold State.learn
  dsimp only
  split
  · exact .refl s
  · exact .updDie _ _ _

theorem State.endWalk_same (s : State) (d : Nat) (w : Walk) : SameButResv s (s.endWalk d w) := .updDie _ _ _

theorem State.endFailed_same (s : State) (d p g : Nat) : SameButResv s (s.endFailed d p g) := by
  unfold State.endFailed
  dsimp only
  split
  · exact .updDie _ _ _
  · exact .refl s

/-- A walk's result leaves memory and every register but reservations. -/
theorem State.useWalk_same {s t : State} {q : Req} {acc : AccKind} {v : Nat} {keep : Bool} {r : WRes} {e : TlbEntry} {pa : Nat}
    (h : s.useWalk q acc v keep r = .ok e pa t) : SameButResv s t := by
  unfold State.useWalk at h
  split at h
  · cases h
  · cases h
  · split at h
    · cases h
    · split at h
      · cases h
      · split at h
        · cases h
        · split at h
          · cases h
          · dsimp only at h
            cases h
            cases keep
            · exact State.claim_same s q _
            · exact (State.claim_same s q _).trans (State.installTlb_same ..)

theorem State.snoopsUsed_same (s : State) (who : Nat) (l : List Nat) : SameButResv s (s.snoopsUsed who l) := by
  unfold State.snoopsUsed
  split
  · exact .refl s
  · exact .of_eq rfl rfl rfl rfl rfl

/-- A walk's reads leave memory and every register. -/
theorem State.walked_same (s : State) (q : Req) (w : Nat) (l : WCache) : SameButResv s (s.walked q w l) := by
  unfold State.walked
  exact (State.learn_same ..).trans ((State.snoopsUsed_same ..).trans (State.reach_cached ..).same)

/-- A translation leaves memory and every register but reservations. -/
theorem State.translate_same {s t : State} {q : Req} {va : Word} {acc : AccKind} {e : TlbEntry} {pa : Nat}
    (h : s.translate q va acc = .ok e pa t) : SameButResv s t := by
  unfold State.translate at h
  dsimp only at h
  split at h
  · cases h
  · split at h
    · exact (State.endWalk_same s _ _).trans (State.useWalk_same h)
    · split at h
      · split at h
        · cases h
        · split at h
          · cases h
          · cases h; exact .refl s
      · unfold State.walk at h
        dsimp only at h
        split at h
        · exact (State.endWalk_same s _ _).trans (State.useWalk_same h)
        · split at h
          · cases h
          · split at h
            · cases h
            · exact (State.walked_same s _ _ _).trans (State.useWalk_same h)

/-- A checked access leaves memory and every register but reservations. -/
theorem State.access_same {s : State} {who : Nat} {q : Req} {va : Word} {acc : AccKind} {mis dev : Nat} {c : Acc}
    (h : s.access who q va acc mis dev = .ok c) : SameButResv s c.s := by
  unfold State.access at h
  split at h
  · cases h
  · cases h
  · cases h
  · rename_i hk
    split at h
    · cases h
    · split at h
      · cases h
      · split at h
        · cases h
        · split at h
          · cases h
          · split at h
            · cases h
            · cases h; exact State.translate_same hk

/-- A scalar access leaves memory and every register but reservations. -/
theorem State.scalarAccess_same {s : State} {h : Nat} {va : Word} {n : Nat} {acc : AccKind} {c : Acc}
    (k : s.scalarAccess h va n acc = .ok c) : SameButResv s c.s := by
  unfold State.scalarAccess at k
  dsimp only at k
  split at k
  · cases k
  · exact State.access_same k

/-- An aligned access leaves memory and every register but reservations. -/
theorem State.alignedAccess_same {s : State} {h : Nat} {va : Word} {n : Nat} {acc : AccKind} {mis dev : Nat} {c : Acc}
    (k : s.alignedAccess h va n acc mis dev = .ok c) : SameButResv s c.s := by
  unfold State.alignedAccess State.alignedReq at k
  split at k
  · cases k
  · exact State.access_same k

/-! ### The caches' part -/

/-- A scalar access's cache updates leave harts, memory and the rest of what programs read. -/
theorem State.touch_same (s : State) (c : Nat) (e : TlbEntry) (pa : Nat) (store : Bool) :
    (s.touch c e pa store).harts = s.harts ∧ (s.touch c e pa store).mem = s.mem ∧ (s.touch c e pa store).tmem = s.tmem ∧
    (s.touch c e pa store).cur = s.cur ∧ (s.touch c e pa store).time = s.time := (State.touch_cached ..).fields

theorem State.atomicAt_same (s : State) (c : Nat) (e : TlbEntry) (pa : Nat) :
    (s.atomicAt c e pa).harts = s.harts ∧ (s.atomicAt c e pa).mem = s.mem ∧ (s.atomicAt c e pa).tmem = s.tmem ∧
    (s.atomicAt c e pa).cur = s.cur ∧ (s.atomicAt c e pa).time = s.time := (State.atomicAt_cached ..).fields

/-! ### Writes -/

theorem State.breakResv_same (s : State) (who : Option Nat) (lines : List Nat) : SameButResv s (s.breakResv who lines) :=
  State.mapHarts_resv s _ (fun _ a => Hart.loseResv_spec a _)

theorem State.seal_same (s : State) (k pa n : Nat) : SameButResv s (s.seal k pa n) := by
  unfold State.seal
  split
  · exact .refl s
  · exact .of_eq rfl rfl rfl rfl rfl

theorem State.healLines_same (s : State) (l : List Nat) : SameButResv s (s.healLines l) := by
  unfold State.healLines
  split
  · exact .refl s
  · exact .of_eq rfl rfl rfl rfl rfl

/-- A write performed at memory changes the bytes it names and, of the harts, reservations alone. -/
theorem State.poke_spec (s : State) (who : Option Nat) (key pa : Nat) (bytes : List Byte) :
    (s.poke who key pa bytes).mem = s.mem.writeBytes pa bytes ∧ (s.poke who key pa bytes).tmem = s.tmem ∧
    (s.poke who key pa bytes).cur = s.cur ∧ (s.poke who key pa bytes).time = s.time ∧
    ∀ h, ∃ r, (s.poke who key pa bytes).hart h = { s.hart h with resv := r } := by
  let u : State := { s with mem := s.mem.writeBytes pa bytes }
  have k : SameButResv u (s.poke who key pa bytes) :=
    ((State.seal_same u key pa bytes.length).trans (State.healLines_same _ _)).trans (State.breakResv_same _ _ _)
  exact ⟨k.mem, k.tmem, k.cur, k.time, k.hart⟩

/-- Memory under a key where no byte has a key. -/
theorem State.memUnder_nil {s : State} (h : s.keyed = []) (k : Nat) : s.memUnder k = s.mem := by simp [State.memUnder, h]

/-- A byte under a key: as it was written where it has no key or that one, a free value otherwise. -/
theorem State.memUnder_read (s : State) (k a : Nat) :
    (s.memUnder k).read a = match s.keyed.find? (fun e => e.1 == a) with
      | none => s.mem.read a
      | some e => if e.2 = s.keyWord k then s.mem.read a else Config.decrypt e.2 (s.keyWord k) a (s.mem.read a) := by
  unfold State.memUnder
  induction s.keyed with
  | nil => rfl
  | cons x l ih =>
    simp only [List.foldr_cons, Memory.read_write, List.find?_cons]
    by_cases h : x.1 = a
    · subst h; simp
    · rw [if_neg (Ne.symm h), ih, show (x.1 == a) = false by simpa using h]

/-- A read of bytes of the slide buffer empties it; no register changes. -/
theorem Hart.sees_spec (a : Hart) (pa n : Nat) : ∃ w, a.sees pa n = { a with slide := w } := by
  unfold Hart.sees
  split
  · exact ⟨a.slide, rfl⟩
  · split
    · exact ⟨_, rfl⟩
    · exact ⟨a.slide, rfl⟩

/-- A store into the slide buffer's bytes ends it; no register changes. -/
theorem Hart.storedAt_spec (a : Hart) (va : Word) (pa n : Nat) : ∃ w, a.storedAt va pa n = { a with slide := w } := by
  unfold Hart.storedAt
  split
  · exact ⟨a.slide, rfl⟩
  · split
    · exact ⟨none, rfl⟩
    · exact ⟨a.slide, rfl⟩

end Sys2Proof.Machine
end

