-- ==== Sys2Proof/Laws/Hart.lean ====
section
/-!
SUPPORT. The fields that each update of a hart leaves, one lemma per field and update.
-/
namespace Sys2Proof.Machine

/-! ### Hart.setX -/

@[simp] theorem Hart.setX_pc (a : Hart) (r : Reg) (v : Word) : (a.setX r v).pc = a.pc := by
  unfold Hart.setX; split <;> rfl
@[simp] theorem Hart.setX_mode (a : Hart) (r : Reg) (v : Word) : (a.setX r v).mode = a.mode := by
  unfold Hart.setX; split <;> rfl
@[simp] theorem Hart.setX_f (a : Hart) (r : Reg) (v : Word) : (a.setX r v).f = a.f := by
  unfold Hart.setX; split <;> rfl
@[simp] theorem Hart.setX_v (a : Hart) (r : Reg) (v : Word) : (a.setX r v).v = a.v := by
  unfold Hart.setX; split <;> rfl
@[simp] theorem Hart.setX_p (a : Hart) (r : Reg) (v : Word) : (a.setX r v).p = a.p := by
  unfold Hart.setX; split <;> rfl
@[simp] theorem Hart.setX_vl (a : Hart) (r : Reg) (v : Word) : (a.setX r v).vl = a.vl := by
  unfold Hart.setX; split <;> rfl
@[simp] theorem Hart.setX_vcfg (a : Hart) (r : Reg) (v : Word) : (a.setX r v).vcfg = a.vcfg := by
  unfold Hart.setX; split <;> rfl
@[simp] theorem Hart.setX_veix (a : Hart) (r : Reg) (v : Word) : (a.setX r v).veix = a.veix := by
  unfold Hart.setX; split <;> rfl
@[simp] theorem Hart.setX_vflags (a : Hart) (r : Reg) (v : Word) : (a.setX r v).vflags = a.vflags := by
  unfold Hart.setX; split <;> rfl
@[simp] theorem Hart.setX_frm (a : Hart) (r : Reg) (v : Word) : (a.setX r v).frm = a.frm := by
  unfold Hart.setX; split <;> rfl
@[simp] theorem Hart.setX_fflags (a : Hart) (r : Reg) (v : Word) : (a.setX r v).fflags = a.fflags := by
  unfold Hart.setX; split <;> rfl
@[simp] theorem Hart.setX_fmt (a : Hart) (r : Reg) (v : Word) : (a.setX r v).fmt = a.fmt := by
  unfold Hart.setX; split <;> rfl
@[simp] theorem Hart.setX_srseed (a : Hart) (r : Reg) (v : Word) : (a.setX r v).srseed = a.srseed := by
  unfold Hart.setX; split <;> rfl
@[simp] theorem Hart.setX_srbase (a : Hart) (r : Reg) (v : Word) : (a.setX r v).srbase = a.srbase := by
  unfold Hart.setX; split <;> rfl
@[simp] theorem Hart.setX_bwph (a : Hart) (r : Reg) (v : Word) : (a.setX r v).bwph = a.bwph := by
  unfold Hart.setX; split <;> rfl
@[simp] theorem Hart.setX_bwphEff (a : Hart) (r : Reg) (v : Word) : (a.setX r v).bwphEff = a.bwphEff := by
  unfold Hart.setX; split <;> rfl
@[simp] theorem Hart.setX_pwreq (a : Hart) (r : Reg) (v : Word) : (a.setX r v).pwreq = a.pwreq := by
  unfold Hart.setX; split <;> rfl
@[simp] theorem Hart.setX_dirty (a : Hart) (r : Reg) (v : Word) : (a.setX r v).dirty = a.dirty := by
  unfold Hart.setX; split <;> rfl
@[simp] theorem Hart.setX_hwb (a : Hart) (r : Reg) (v : Word) : (a.setX r v).hwb = a.hwb := by
  unfold Hart.setX; split <;> rfl
@[simp] theorem Hart.setX_sbFail (a : Hart) (r : Reg) (v : Word) : (a.setX r v).sbFail = a.sbFail := by
  unfold Hart.setX; split <;> rfl
@[simp] theorem Hart.setX_sb (a : Hart) (r : Reg) (v : Word) : (a.setX r v).sb = a.sb := by
  unfold Hart.setX; split <;> rfl
@[simp] theorem Hart.setX_sbErr (a : Hart) (r : Reg) (v : Word) : (a.setX r v).sbErr = a.sbErr := by
  unfold Hart.setX; split <;> rfl
@[simp] theorem Hart.setX_shp (a : Hart) (r : Reg) (v : Word) : (a.setX r v).shp = a.shp := by
  unfold Hart.setX; split <;> rfl
@[simp] theorem Hart.setX_resv (a : Hart) (r : Reg) (v : Word) : (a.setX r v).resv = a.resv := by
  unfold Hart.setX; split <;> rfl
@[simp] theorem Hart.setX_late (a : Hart) (r : Reg) (v : Word) : (a.setX r v).late = a.late := by
  unfold Hart.setX; split <;> rfl
@[simp] theorem Hart.setX_vq (a : Hart) (r : Reg) (v : Word) : (a.setX r v).vq = a.vq := by
  unfold Hart.setX; split <;> rfl
@[simp] theorem Hart.setX_seq (a : Hart) (r : Reg) (v : Word) : (a.setX r v).seq = a.seq := by
  unfold Hart.setX; split <;> rfl
@[simp] theorem Hart.setX_park (a : Hart) (r : Reg) (v : Word) : (a.setX r v).park = a.park := by
  unfold Hart.setX; split <;> rfl
@[simp] theorem Hart.setX_since (a : Hart) (r : Reg) (v : Word) : (a.setX r v).since = a.since := by
  unfold Hart.setX; split <;> rfl
@[simp] theorem Hart.setX_sinceQ (a : Hart) (r : Reg) (v : Word) : (a.setX r v).sinceQ = a.sinceQ := by
  unfold Hart.setX; split <;> rfl
@[simp] theorem Hart.setX_deferred (a : Hart) (r : Reg) (v : Word) : (a.setX r v).deferred = a.deferred := by
  unfold Hart.setX; split <;> rfl
@[simp] theorem Hart.setX_claimed (a : Hart) (r : Reg) (v : Word) : (a.setX r v).claimed = a.claimed := by
  unfold Hart.setX; split <;> rfl
@[simp] theorem Hart.setX_slide (a : Hart) (r : Reg) (v : Word) : (a.setX r v).slide = a.slide := by
  unfold Hart.setX; split <;> rfl
@[simp] theorem Hart.setX_task (a : Hart) (r : Reg) (v : Word) : (a.setX r v).task = a.task := by
  unfold Hart.setX; split <;> rfl
@[simp] theorem Hart.setX_handlerFetch (a : Hart) (r : Reg) (v : Word) : (a.setX r v).handlerFetch = a.handlerFetch := by
  unfold Hart.setX; split <;> rfl
@[simp] theorem Hart.setX_csr (a : Hart) (r : Reg) (v : Word) : (a.setX r v).csr = a.csr := by
  unfold Hart.setX; split <;> rfl
@[simp] theorem Hart.setX_denied (a : Hart) (r : Reg) (v : Word) : (a.setX r v).denied = a.denied := by
  unfold Hart.setX; split <;> rfl
@[simp] theorem Hart.setX_resuming (a : Hart) (r : Reg) (v : Word) : (a.setX r v).resuming = a.resuming := by
  unfold Hart.setX; split <;> rfl

/-! ### Hart.setF -/

@[simp] theorem Hart.setF_pc (a : Hart) (r : Reg) (v : Word) : (a.setF r v).pc = a.pc := rfl
@[simp] theorem Hart.setF_mode (a : Hart) (r : Reg) (v : Word) : (a.setF r v).mode = a.mode := rfl
@[simp] theorem Hart.setF_x (a : Hart) (r : Reg) (v : Word) : (a.setF r v).x = a.x := rfl
@[simp] theorem Hart.setF_v (a : Hart) (r : Reg) (v : Word) : (a.setF r v).v = a.v := rfl
@[simp] theorem Hart.setF_p (a : Hart) (r : Reg) (v : Word) : (a.setF r v).p = a.p := rfl
@[simp] theorem Hart.setF_vl (a : Hart) (r : Reg) (v : Word) : (a.setF r v).vl = a.vl := rfl
@[simp] theorem Hart.setF_vcfg (a : Hart) (r : Reg) (v : Word) : (a.setF r v).vcfg = a.vcfg := rfl
@[simp] theorem Hart.setF_veix (a : Hart) (r : Reg) (v : Word) : (a.setF r v).veix = a.veix := rfl
@[simp] theorem Hart.setF_vflags (a : Hart) (r : Reg) (v : Word) : (a.setF r v).vflags = a.vflags := rfl
@[simp] theorem Hart.setF_frm (a : Hart) (r : Reg) (v : Word) : (a.setF r v).frm = a.frm := rfl
@[simp] theorem Hart.setF_fflags (a : Hart) (r : Reg) (v : Word) : (a.setF r v).fflags = a.fflags := rfl
@[simp] theorem Hart.setF_fmt (a : Hart) (r : Reg) (v : Word) : (a.setF r v).fmt = a.fmt := rfl
@[simp] theorem Hart.setF_srseed (a : Hart) (r : Reg) (v : Word) : (a.setF r v).srseed = a.srseed := rfl
@[simp] theorem Hart.setF_srbase (a : Hart) (r : Reg) (v : Word) : (a.setF r v).srbase = a.srbase := rfl
@[simp] theorem Hart.setF_bwph (a : Hart) (r : Reg) (v : Word) : (a.setF r v).bwph = a.bwph := rfl
@[simp] theorem Hart.setF_bwphEff (a : Hart) (r : Reg) (v : Word) : (a.setF r v).bwphEff = a.bwphEff := rfl
@[simp] theorem Hart.setF_pwreq (a : Hart) (r : Reg) (v : Word) : (a.setF r v).pwreq = a.pwreq := rfl
@[simp] theorem Hart.setF_dirty (a : Hart) (r : Reg) (v : Word) : (a.setF r v).dirty = a.dirty := rfl
@[simp] theorem Hart.setF_hwb (a : Hart) (r : Reg) (v : Word) : (a.setF r v).hwb = a.hwb := rfl
@[simp] theorem Hart.setF_sbFail (a : Hart) (r : Reg) (v : Word) : (a.setF r v).sbFail = a.sbFail := rfl
@[simp] theorem Hart.setF_sb (a : Hart) (r : Reg) (v : Word) : (a.setF r v).sb = a.sb := rfl
@[simp] theorem Hart.setF_sbErr (a : Hart) (r : Reg) (v : Word) : (a.setF r v).sbErr = a.sbErr := rfl
@[simp] theorem Hart.setF_shp (a : Hart) (r : Reg) (v : Word) : (a.setF r v).shp = a.shp := rfl
@[simp] theorem Hart.setF_resv (a : Hart) (r : Reg) (v : Word) : (a.setF r v).resv = a.resv := rfl
@[simp] theorem Hart.setF_late (a : Hart) (r : Reg) (v : Word) : (a.setF r v).late = a.late := rfl
@[simp] theorem Hart.setF_vq (a : Hart) (r : Reg) (v : Word) : (a.setF r v).vq = a.vq := rfl
@[simp] theorem Hart.setF_seq (a : Hart) (r : Reg) (v : Word) : (a.setF r v).seq = a.seq := rfl
@[simp] theorem Hart.setF_park (a : Hart) (r : Reg) (v : Word) : (a.setF r v).park = a.park := rfl
@[simp] theorem Hart.setF_since (a : Hart) (r : Reg) (v : Word) : (a.setF r v).since = a.since := rfl
@[simp] theorem Hart.setF_sinceQ (a : Hart) (r : Reg) (v : Word) : (a.setF r v).sinceQ = a.sinceQ := rfl
@[simp] theorem Hart.setF_deferred (a : Hart) (r : Reg) (v : Word) : (a.setF r v).deferred = a.deferred := rfl
@[simp] theorem Hart.setF_claimed (a : Hart) (r : Reg) (v : Word) : (a.setF r v).claimed = a.claimed := rfl
@[simp] theorem Hart.setF_slide (a : Hart) (r : Reg) (v : Word) : (a.setF r v).slide = a.slide := rfl
@[simp] theorem Hart.setF_task (a : Hart) (r : Reg) (v : Word) : (a.setF r v).task = a.task := rfl
@[simp] theorem Hart.setF_handlerFetch (a : Hart) (r : Reg) (v : Word) : (a.setF r v).handlerFetch = a.handlerFetch := rfl
@[simp] theorem Hart.setF_csr (a : Hart) (r : Reg) (v : Word) : (a.setF r v).csr = a.csr := rfl
@[simp] theorem Hart.setF_denied (a : Hart) (r : Reg) (v : Word) : (a.setF r v).denied = a.denied := rfl
@[simp] theorem Hart.setF_resuming (a : Hart) (r : Reg) (v : Word) : (a.setF r v).resuming = a.resuming := rfl

/-! ### Hart.presX -/

@[simp] theorem Hart.presX_pc (a : Hart) (r : Reg) (p : Presence) : (a.presX r p).pc = a.pc := by
  unfold Hart.presX; split <;> rfl
@[simp] theorem Hart.presX_mode (a : Hart) (r : Reg) (p : Presence) : (a.presX r p).mode = a.mode := by
  unfold Hart.presX; split <;> rfl
@[simp] theorem Hart.presX_f (a : Hart) (r : Reg) (p : Presence) : (a.presX r p).f = a.f := by
  unfold Hart.presX; split <;> rfl
@[simp] theorem Hart.presX_v (a : Hart) (r : Reg) (p : Presence) : (a.presX r p).v = a.v := by
  unfold Hart.presX; split <;> rfl
@[simp] theorem Hart.presX_p (a : Hart) (r : Reg) (p : Presence) : (a.presX r p).p = a.p := by
  unfold Hart.presX; split <;> rfl
@[simp] theorem Hart.presX_vl (a : Hart) (r : Reg) (p : Presence) : (a.presX r p).vl = a.vl := by
  unfold Hart.presX; split <;> rfl
@[simp] theorem Hart.presX_vcfg (a : Hart) (r : Reg) (p : Presence) : (a.presX r p).vcfg = a.vcfg := by
  unfold Hart.presX; split <;> rfl
@[simp] theorem Hart.presX_veix (a : Hart) (r : Reg) (p : Presence) : (a.presX r p).veix = a.veix := by
  unfold Hart.presX; split <;> rfl
@[simp] theorem Hart.presX_vflags (a : Hart) (r : Reg) (p : Presence) : (a.presX r p).vflags = a.vflags := by
  unfold Hart.presX; split <;> rfl
@[simp] theorem Hart.presX_frm (a : Hart) (r : Reg) (p : Presence) : (a.presX r p).frm = a.frm := by
  unfold Hart.presX; split <;> rfl
@[simp] theorem Hart.presX_fflags (a : Hart) (r : Reg) (p : Presence) : (a.presX r p).fflags = a.fflags := by
  unfold Hart.presX; split <;> rfl
@[simp] theorem Hart.presX_fmt (a : Hart) (r : Reg) (p : Presence) : (a.presX r p).fmt = a.fmt := by
  unfold Hart.presX; split <;> rfl
@[simp] theorem Hart.presX_srseed (a : Hart) (r : Reg) (p : Presence) : (a.presX r p).srseed = a.srseed := by
  unfold Hart.presX; split <;> rfl
@[simp] theorem Hart.presX_srbase (a : Hart) (r : Reg) (p : Presence) : (a.presX r p).srbase = a.srbase := by
  unfold Hart.presX; split <;> rfl
@[simp] theorem Hart.presX_bwph (a : Hart) (r : Reg) (p : Presence) : (a.presX r p).bwph = a.bwph := by
  unfold Hart.presX; split <;> rfl
@[simp] theorem Hart.presX_bwphEff (a : Hart) (r : Reg) (p : Presence) : (a.presX r p).bwphEff = a.bwphEff := by
  unfold Hart.presX; split <;> rfl
@[simp] theorem Hart.presX_pwreq (a : Hart) (r : Reg) (p : Presence) : (a.presX r p).pwreq = a.pwreq := by
  unfold Hart.presX; split <;> rfl
@[simp] theorem Hart.presX_dirty (a : Hart) (r : Reg) (p : Presence) : (a.presX r p).dirty = a.dirty := by
  unfold Hart.presX; split <;> rfl
@[simp] theorem Hart.presX_hwb (a : Hart) (r : Reg) (p : Presence) : (a.presX r p).hwb = a.hwb := by
  unfold Hart.presX; split <;> rfl
@[simp] theorem Hart.presX_sbFail (a : Hart) (r : Reg) (p : Presence) : (a.presX r p).sbFail = a.sbFail := by
  unfold Hart.presX; split <;> rfl
@[simp] theorem Hart.presX_sb (a : Hart) (r : Reg) (p : Presence) : (a.presX r p).sb = a.sb := by
  unfold Hart.presX; split <;> rfl
@[simp] theorem Hart.presX_sbErr (a : Hart) (r : Reg) (p : Presence) : (a.presX r p).sbErr = a.sbErr := by
  unfold Hart.presX; split <;> rfl
@[simp] theorem Hart.presX_shp (a : Hart) (r : Reg) (p : Presence) : (a.presX r p).shp = a.shp := by
  unfold Hart.presX; split <;> rfl
@[simp] theorem Hart.presX_resv (a : Hart) (r : Reg) (p : Presence) : (a.presX r p).resv = a.resv := by
  unfold Hart.presX; split <;> rfl
@[simp] theorem Hart.presX_late (a : Hart) (r : Reg) (p : Presence) : (a.presX r p).late = a.late := by
  unfold Hart.presX; split <;> rfl
@[simp] theorem Hart.presX_vq (a : Hart) (r : Reg) (p : Presence) : (a.presX r p).vq = a.vq := by
  unfold Hart.presX; split <;> rfl
@[simp] theorem Hart.presX_seq (a : Hart) (r : Reg) (p : Presence) : (a.presX r p).seq = a.seq := by
  unfold Hart.presX; split <;> rfl
@[simp] theorem Hart.presX_park (a : Hart) (r : Reg) (p : Presence) : (a.presX r p).park = a.park := by
  unfold Hart.presX; split <;> rfl
@[simp] theorem Hart.presX_since (a : Hart) (r : Reg) (p : Presence) : (a.presX r p).since = a.since := by
  unfold Hart.presX; split <;> rfl
@[simp] theorem Hart.presX_sinceQ (a : Hart) (r : Reg) (p : Presence) : (a.presX r p).sinceQ = a.sinceQ := by
  unfold Hart.presX; split <;> rfl
@[simp] theorem Hart.presX_deferred (a : Hart) (r : Reg) (p : Presence) : (a.presX r p).deferred = a.deferred := by
  unfold Hart.presX; split <;> rfl
@[simp] theorem Hart.presX_claimed (a : Hart) (r : Reg) (p : Presence) : (a.presX r p).claimed = a.claimed := by
  unfold Hart.presX; split <;> rfl
@[simp] theorem Hart.presX_slide (a : Hart) (r : Reg) (p : Presence) : (a.presX r p).slide = a.slide := by
  unfold Hart.presX; split <;> rfl
@[simp] theorem Hart.presX_task (a : Hart) (r : Reg) (p : Presence) : (a.presX r p).task = a.task := by
  unfold Hart.presX; split <;> rfl
@[simp] theorem Hart.presX_handlerFetch (a : Hart) (r : Reg) (p : Presence) : (a.presX r p).handlerFetch = a.handlerFetch := by
  unfold Hart.presX; split <;> rfl
@[simp] theorem Hart.presX_csr (a : Hart) (r : Reg) (p : Presence) : (a.presX r p).csr = a.csr := by
  unfold Hart.presX; split <;> rfl
@[simp] theorem Hart.presX_denied (a : Hart) (r : Reg) (p : Presence) : (a.presX r p).denied = a.denied := by
  unfold Hart.presX; split <;> rfl
@[simp] theorem Hart.presX_resuming (a : Hart) (r : Reg) (p : Presence) : (a.presX r p).resuming = a.resuming := by
  unfold Hart.presX; split <;> rfl

/-! ### Hart.presF -/

@[simp] theorem Hart.presF_pc (a : Hart) (r : Reg) (p : Presence) : (a.presF r p).pc = a.pc := rfl
@[simp] theorem Hart.presF_mode (a : Hart) (r : Reg) (p : Presence) : (a.presF r p).mode = a.mode := rfl
@[simp] theorem Hart.presF_x (a : Hart) (r : Reg) (p : Presence) : (a.presF r p).x = a.x := rfl
@[simp] theorem Hart.presF_v (a : Hart) (r : Reg) (p : Presence) : (a.presF r p).v = a.v := rfl
@[simp] theorem Hart.presF_p (a : Hart) (r : Reg) (p : Presence) : (a.presF r p).p = a.p := rfl
@[simp] theorem Hart.presF_vl (a : Hart) (r : Reg) (p : Presence) : (a.presF r p).vl = a.vl := rfl
@[simp] theorem Hart.presF_vcfg (a : Hart) (r : Reg) (p : Presence) : (a.presF r p).vcfg = a.vcfg := rfl
@[simp] theorem Hart.presF_veix (a : Hart) (r : Reg) (p : Presence) : (a.presF r p).veix = a.veix := rfl
@[simp] theorem Hart.presF_vflags (a : Hart) (r : Reg) (p : Presence) : (a.presF r p).vflags = a.vflags := rfl
@[simp] theorem Hart.presF_frm (a : Hart) (r : Reg) (p : Presence) : (a.presF r p).frm = a.frm := rfl
@[simp] theorem Hart.presF_fflags (a : Hart) (r : Reg) (p : Presence) : (a.presF r p).fflags = a.fflags := rfl
@[simp] theorem Hart.presF_fmt (a : Hart) (r : Reg) (p : Presence) : (a.presF r p).fmt = a.fmt := rfl
@[simp] theorem Hart.presF_srseed (a : Hart) (r : Reg) (p : Presence) : (a.presF r p).srseed = a.srseed := rfl
@[simp] theorem Hart.presF_srbase (a : Hart) (r : Reg) (p : Presence) : (a.presF r p).srbase = a.srbase := rfl
@[simp] theorem Hart.presF_bwph (a : Hart) (r : Reg) (p : Presence) : (a.presF r p).bwph = a.bwph := rfl
@[simp] theorem Hart.presF_bwphEff (a : Hart) (r : Reg) (p : Presence) : (a.presF r p).bwphEff = a.bwphEff := rfl
@[simp] theorem Hart.presF_pwreq (a : Hart) (r : Reg) (p : Presence) : (a.presF r p).pwreq = a.pwreq := rfl
@[simp] theorem Hart.presF_dirty (a : Hart) (r : Reg) (p : Presence) : (a.presF r p).dirty = a.dirty := rfl
@[simp] theorem Hart.presF_hwb (a : Hart) (r : Reg) (p : Presence) : (a.presF r p).hwb = a.hwb := rfl
@[simp] theorem Hart.presF_sbFail (a : Hart) (r : Reg) (p : Presence) : (a.presF r p).sbFail = a.sbFail := rfl
@[simp] theorem Hart.presF_sb (a : Hart) (r : Reg) (p : Presence) : (a.presF r p).sb = a.sb := rfl
@[simp] theorem Hart.presF_sbErr (a : Hart) (r : Reg) (p : Presence) : (a.presF r p).sbErr = a.sbErr := rfl
@[simp] theorem Hart.presF_shp (a : Hart) (r : Reg) (p : Presence) : (a.presF r p).shp = a.shp := rfl
@[simp] theorem Hart.presF_resv (a : Hart) (r : Reg) (p : Presence) : (a.presF r p).resv = a.resv := rfl
@[simp] theorem Hart.presF_late (a : Hart) (r : Reg) (p : Presence) : (a.presF r p).late = a.late := rfl
@[simp] theorem Hart.presF_vq (a : Hart) (r : Reg) (p : Presence) : (a.presF r p).vq = a.vq := rfl
@[simp] theorem Hart.presF_seq (a : Hart) (r : Reg) (p : Presence) : (a.presF r p).seq = a.seq := rfl
@[simp] theorem Hart.presF_park (a : Hart) (r : Reg) (p : Presence) : (a.presF r p).park = a.park := rfl
@[simp] theorem Hart.presF_since (a : Hart) (r : Reg) (p : Presence) : (a.presF r p).since = a.since := rfl
@[simp] theorem Hart.presF_sinceQ (a : Hart) (r : Reg) (p : Presence) : (a.presF r p).sinceQ = a.sinceQ := rfl
@[simp] theorem Hart.presF_deferred (a : Hart) (r : Reg) (p : Presence) : (a.presF r p).deferred = a.deferred := rfl
@[simp] theorem Hart.presF_claimed (a : Hart) (r : Reg) (p : Presence) : (a.presF r p).claimed = a.claimed := rfl
@[simp] theorem Hart.presF_slide (a : Hart) (r : Reg) (p : Presence) : (a.presF r p).slide = a.slide := rfl
@[simp] theorem Hart.presF_task (a : Hart) (r : Reg) (p : Presence) : (a.presF r p).task = a.task := rfl
@[simp] theorem Hart.presF_handlerFetch (a : Hart) (r : Reg) (p : Presence) : (a.presF r p).handlerFetch = a.handlerFetch := rfl
@[simp] theorem Hart.presF_csr (a : Hart) (r : Reg) (p : Presence) : (a.presF r p).csr = a.csr := rfl
@[simp] theorem Hart.presF_denied (a : Hart) (r : Reg) (p : Presence) : (a.presF r p).denied = a.denied := rfl
@[simp] theorem Hart.presF_resuming (a : Hart) (r : Reg) (p : Presence) : (a.presF r p).resuming = a.resuming := rfl

/-! ### Hart.presV -/

@[simp] theorem Hart.presV_pc (a : Hart) (n : Nat) (p : Presence) : (a.presV n p).pc = a.pc := rfl
@[simp] theorem Hart.presV_mode (a : Hart) (n : Nat) (p : Presence) : (a.presV n p).mode = a.mode := rfl
@[simp] theorem Hart.presV_x (a : Hart) (n : Nat) (p : Presence) : (a.presV n p).x = a.x := rfl
@[simp] theorem Hart.presV_f (a : Hart) (n : Nat) (p : Presence) : (a.presV n p).f = a.f := rfl
@[simp] theorem Hart.presV_p (a : Hart) (n : Nat) (p : Presence) : (a.presV n p).p = a.p := rfl
@[simp] theorem Hart.presV_vl (a : Hart) (n : Nat) (p : Presence) : (a.presV n p).vl = a.vl := rfl
@[simp] theorem Hart.presV_vcfg (a : Hart) (n : Nat) (p : Presence) : (a.presV n p).vcfg = a.vcfg := rfl
@[simp] theorem Hart.presV_veix (a : Hart) (n : Nat) (p : Presence) : (a.presV n p).veix = a.veix := rfl
@[simp] theorem Hart.presV_vflags (a : Hart) (n : Nat) (p : Presence) : (a.presV n p).vflags = a.vflags := rfl
@[simp] theorem Hart.presV_frm (a : Hart) (n : Nat) (p : Presence) : (a.presV n p).frm = a.frm := rfl
@[simp] theorem Hart.presV_fflags (a : Hart) (n : Nat) (p : Presence) : (a.presV n p).fflags = a.fflags := rfl
@[simp] theorem Hart.presV_fmt (a : Hart) (n : Nat) (p : Presence) : (a.presV n p).fmt = a.fmt := rfl
@[simp] theorem Hart.presV_srseed (a : Hart) (n : Nat) (p : Presence) : (a.presV n p).srseed = a.srseed := rfl
@[simp] theorem Hart.presV_srbase (a : Hart) (n : Nat) (p : Presence) : (a.presV n p).srbase = a.srbase := rfl
@[simp] theorem Hart.presV_bwph (a : Hart) (n : Nat) (p : Presence) : (a.presV n p).bwph = a.bwph := rfl
@[simp] theorem Hart.presV_bwphEff (a : Hart) (n : Nat) (p : Presence) : (a.presV n p).bwphEff = a.bwphEff := rfl
@[simp] theorem Hart.presV_pwreq (a : Hart) (n : Nat) (p : Presence) : (a.presV n p).pwreq = a.pwreq := rfl
@[simp] theorem Hart.presV_dirty (a : Hart) (n : Nat) (p : Presence) : (a.presV n p).dirty = a.dirty := rfl
@[simp] theorem Hart.presV_hwb (a : Hart) (n : Nat) (p : Presence) : (a.presV n p).hwb = a.hwb := rfl
@[simp] theorem Hart.presV_sbFail (a : Hart) (n : Nat) (p : Presence) : (a.presV n p).sbFail = a.sbFail := rfl
@[simp] theorem Hart.presV_sb (a : Hart) (n : Nat) (p : Presence) : (a.presV n p).sb = a.sb := rfl
@[simp] theorem Hart.presV_sbErr (a : Hart) (n : Nat) (p : Presence) : (a.presV n p).sbErr = a.sbErr := rfl
@[simp] theorem Hart.presV_shp (a : Hart) (n : Nat) (p : Presence) : (a.presV n p).shp = a.shp := rfl
@[simp] theorem Hart.presV_resv (a : Hart) (n : Nat) (p : Presence) : (a.presV n p).resv = a.resv := rfl
@[simp] theorem Hart.presV_late (a : Hart) (n : Nat) (p : Presence) : (a.presV n p).late = a.late := rfl
@[simp] theorem Hart.presV_vq (a : Hart) (n : Nat) (p : Presence) : (a.presV n p).vq = a.vq := rfl
@[simp] theorem Hart.presV_seq (a : Hart) (n : Nat) (p : Presence) : (a.presV n p).seq = a.seq := rfl
@[simp] theorem Hart.presV_park (a : Hart) (n : Nat) (p : Presence) : (a.presV n p).park = a.park := rfl
@[simp] theorem Hart.presV_since (a : Hart) (n : Nat) (p : Presence) : (a.presV n p).since = a.since := rfl
@[simp] theorem Hart.presV_sinceQ (a : Hart) (n : Nat) (p : Presence) : (a.presV n p).sinceQ = a.sinceQ := rfl
@[simp] theorem Hart.presV_deferred (a : Hart) (n : Nat) (p : Presence) : (a.presV n p).deferred = a.deferred := rfl
@[simp] theorem Hart.presV_claimed (a : Hart) (n : Nat) (p : Presence) : (a.presV n p).claimed = a.claimed := rfl
@[simp] theorem Hart.presV_slide (a : Hart) (n : Nat) (p : Presence) : (a.presV n p).slide = a.slide := rfl
@[simp] theorem Hart.presV_task (a : Hart) (n : Nat) (p : Presence) : (a.presV n p).task = a.task := rfl
@[simp] theorem Hart.presV_handlerFetch (a : Hart) (n : Nat) (p : Presence) : (a.presV n p).handlerFetch = a.handlerFetch := rfl
@[simp] theorem Hart.presV_csr (a : Hart) (n : Nat) (p : Presence) : (a.presV n p).csr = a.csr := rfl
@[simp] theorem Hart.presV_denied (a : Hart) (n : Nat) (p : Presence) : (a.presV n p).denied = a.denied := rfl
@[simp] theorem Hart.presV_resuming (a : Hart) (n : Nat) (p : Presence) : (a.presV n p).resuming = a.resuming := rfl

/-! ### Hart.advance -/

@[simp] theorem Hart.advance_mode (a : Hart) (n : Nat) : (a.advance n).mode = a.mode := rfl
@[simp] theorem Hart.advance_x (a : Hart) (n : Nat) : (a.advance n).x = a.x := rfl
@[simp] theorem Hart.advance_f (a : Hart) (n : Nat) : (a.advance n).f = a.f := rfl
@[simp] theorem Hart.advance_v (a : Hart) (n : Nat) : (a.advance n).v = a.v := rfl
@[simp] theorem Hart.advance_p (a : Hart) (n : Nat) : (a.advance n).p = a.p := rfl
@[simp] theorem Hart.advance_vl (a : Hart) (n : Nat) : (a.advance n).vl = a.vl := rfl
@[simp] theorem Hart.advance_vcfg (a : Hart) (n : Nat) : (a.advance n).vcfg = a.vcfg := rfl
@[simp] theorem Hart.advance_veix (a : Hart) (n : Nat) : (a.advance n).veix = a.veix := rfl
@[simp] theorem Hart.advance_vflags (a : Hart) (n : Nat) : (a.advance n).vflags = a.vflags := rfl
@[simp] theorem Hart.advance_frm (a : Hart) (n : Nat) : (a.advance n).frm = a.frm := rfl
@[simp] theorem Hart.advance_fflags (a : Hart) (n : Nat) : (a.advance n).fflags = a.fflags := rfl
@[simp] theorem Hart.advance_fmt (a : Hart) (n : Nat) : (a.advance n).fmt = a.fmt := rfl
@[simp] theorem Hart.advance_srseed (a : Hart) (n : Nat) : (a.advance n).srseed = a.srseed := rfl
@[simp] theorem Hart.advance_srbase (a : Hart) (n : Nat) : (a.advance n).srbase = a.srbase := rfl
@[simp] theorem Hart.advance_bwph (a : Hart) (n : Nat) : (a.advance n).bwph = a.bwph := rfl
@[simp] theorem Hart.advance_bwphEff (a : Hart) (n : Nat) : (a.advance n).bwphEff = a.bwphEff := rfl
@[simp] theorem Hart.advance_pwreq (a : Hart) (n : Nat) : (a.advance n).pwreq = a.pwreq := rfl
@[simp] theorem Hart.advance_dirty (a : Hart) (n : Nat) : (a.advance n).dirty = a.dirty := rfl
@[simp] theorem Hart.advance_hwb (a : Hart) (n : Nat) : (a.advance n).hwb = a.hwb := rfl
@[simp] theorem Hart.advance_sbFail (a : Hart) (n : Nat) : (a.advance n).sbFail = a.sbFail := rfl
@[simp] theorem Hart.advance_sb (a : Hart) (n : Nat) : (a.advance n).sb = a.sb := rfl
@[simp] theorem Hart.advance_sbErr (a : Hart) (n : Nat) : (a.advance n).sbErr = a.sbErr := rfl
@[simp] theorem Hart.advance_shp (a : Hart) (n : Nat) : (a.advance n).shp = a.shp := rfl
@[simp] theorem Hart.advance_resv (a : Hart) (n : Nat) : (a.advance n).resv = a.resv := rfl
@[simp] theorem Hart.advance_late (a : Hart) (n : Nat) : (a.advance n).late = a.late := rfl
@[simp] theorem Hart.advance_vq (a : Hart) (n : Nat) : (a.advance n).vq = a.vq := rfl
@[simp] theorem Hart.advance_seq (a : Hart) (n : Nat) : (a.advance n).seq = a.seq := rfl
@[simp] theorem Hart.advance_since (a : Hart) (n : Nat) : (a.advance n).since = a.since := rfl
@[simp] theorem Hart.advance_sinceQ (a : Hart) (n : Nat) : (a.advance n).sinceQ = a.sinceQ := rfl
@[simp] theorem Hart.advance_deferred (a : Hart) (n : Nat) : (a.advance n).deferred = a.deferred := rfl
@[simp] theorem Hart.advance_claimed (a : Hart) (n : Nat) : (a.advance n).claimed = a.claimed := rfl
@[simp] theorem Hart.advance_slide (a : Hart) (n : Nat) : (a.advance n).slide = a.slide := rfl
@[simp] theorem Hart.advance_task (a : Hart) (n : Nat) : (a.advance n).task = a.task := rfl
@[simp] theorem Hart.advance_handlerFetch (a : Hart) (n : Nat) : (a.advance n).handlerFetch = a.handlerFetch := rfl
@[simp] theorem Hart.advance_csr (a : Hart) (n : Nat) : (a.advance n).csr = a.csr := rfl
@[simp] theorem Hart.advance_denied (a : Hart) (n : Nat) : (a.advance n).denied = a.denied := rfl
@[simp] theorem Hart.advance_resuming (a : Hart) (n : Nat) : (a.advance n).resuming = a.resuming := rfl

/-! ### Hart.parkFor -/

@[simp] theorem Hart.parkFor_pc (a : Hart) (p : Park) (now clk : Nat) : (a.parkFor p now clk).pc = a.pc := by
  unfold Hart.parkFor; split <;> rfl
@[simp] theorem Hart.parkFor_mode (a : Hart) (p : Park) (now clk : Nat) : (a.parkFor p now clk).mode = a.mode := by
  unfold Hart.parkFor; split <;> rfl
@[simp] theorem Hart.parkFor_x (a : Hart) (p : Park) (now clk : Nat) : (a.parkFor p now clk).x = a.x := by
  unfold Hart.parkFor; split <;> rfl
@[simp] theorem Hart.parkFor_f (a : Hart) (p : Park) (now clk : Nat) : (a.parkFor p now clk).f = a.f := by
  unfold Hart.parkFor; split <;> rfl
@[simp] theorem Hart.parkFor_v (a : Hart) (p : Park) (now clk : Nat) : (a.parkFor p now clk).v = a.v := by
  unfold Hart.parkFor; split <;> rfl
@[simp] theorem Hart.parkFor_p (a : Hart) (p : Park) (now clk : Nat) : (a.parkFor p now clk).p = a.p := by
  unfold Hart.parkFor; split <;> rfl
@[simp] theorem Hart.parkFor_vl (a : Hart) (p : Park) (now clk : Nat) : (a.parkFor p now clk).vl = a.vl := by
  unfold Hart.parkFor; split <;> rfl
@[simp] theorem Hart.parkFor_vcfg (a : Hart) (p : Park) (now clk : Nat) : (a.parkFor p now clk).vcfg = a.vcfg := by
  unfold Hart.parkFor; split <;> rfl
@[simp] theorem Hart.parkFor_veix (a : Hart) (p : Park) (now clk : Nat) : (a.parkFor p now clk).veix = a.veix := by
  unfold Hart.parkFor; split <;> rfl
@[simp] theorem Hart.parkFor_vflags (a : Hart) (p : Park) (now clk : Nat) : (a.parkFor p now clk).vflags = a.vflags := by
  unfold Hart.parkFor; split <;> rfl
@[simp] theorem Hart.parkFor_frm (a : Hart) (p : Park) (now clk : Nat) : (a.parkFor p now clk).frm = a.frm := by
  unfold Hart.parkFor; split <;> rfl
@[simp] theorem Hart.parkFor_fflags (a : Hart) (p : Park) (now clk : Nat) : (a.parkFor p now clk).fflags = a.fflags := by
  unfold Hart.parkFor; split <;> rfl
@[simp] theorem Hart.parkFor_fmt (a : Hart) (p : Park) (now clk : Nat) : (a.parkFor p now clk).fmt = a.fmt := by
  unfold Hart.parkFor; split <;> rfl
@[simp] theorem Hart.parkFor_srseed (a : Hart) (p : Park) (now clk : Nat) : (a.parkFor p now clk).srseed = a.srseed := by
  unfold Hart.parkFor; split <;> rfl
@[simp] theorem Hart.parkFor_srbase (a : Hart) (p : Park) (now clk : Nat) : (a.parkFor p now clk).srbase = a.srbase := by
  unfold Hart.parkFor; split <;> rfl
@[simp] theorem Hart.parkFor_bwph (a : Hart) (p : Park) (now clk : Nat) : (a.parkFor p now clk).bwph = a.bwph := by
  unfold Hart.parkFor; split <;> rfl
@[simp] theorem Hart.parkFor_bwphEff (a : Hart) (p : Park) (now clk : Nat) : (a.parkFor p now clk).bwphEff = a.bwphEff := by
  unfold Hart.parkFor; split <;> rfl
@[simp] theorem Hart.parkFor_pwreq (a : Hart) (p : Park) (now clk : Nat) : (a.parkFor p now clk).pwreq = a.pwreq := by
  unfold Hart.parkFor; split <;> rfl
@[simp] theorem Hart.parkFor_dirty (a : Hart) (p : Park) (now clk : Nat) : (a.parkFor p now clk).dirty = a.dirty := by
  unfold Hart.parkFor; split <;> rfl
@[simp] theorem Hart.parkFor_hwb (a : Hart) (p : Park) (now clk : Nat) : (a.parkFor p now clk).hwb = a.hwb := by
  unfold Hart.parkFor; split <;> rfl
@[simp] theorem Hart.parkFor_sbFail (a : Hart) (p : Park) (now clk : Nat) : (a.parkFor p now clk).sbFail = a.sbFail := by
  unfold Hart.parkFor; split <;> rfl
@[simp] theorem Hart.parkFor_sb (a : Hart) (p : Park) (now clk : Nat) : (a.parkFor p now clk).sb = a.sb := by
  unfold Hart.parkFor; split <;> rfl
@[simp] theorem Hart.parkFor_sbErr (a : Hart) (p : Park) (now clk : Nat) : (a.parkFor p now clk).sbErr = a.sbErr := by
  unfold Hart.parkFor; split <;> rfl
@[simp] theorem Hart.parkFor_shp (a : Hart) (p : Park) (now clk : Nat) : (a.parkFor p now clk).shp = a.shp := by
  unfold Hart.parkFor; split <;> rfl
@[simp] theorem Hart.parkFor_resv (a : Hart) (p : Park) (now clk : Nat) : (a.parkFor p now clk).resv = a.resv := by
  unfold Hart.parkFor; split <;> rfl
@[simp] theorem Hart.parkFor_late (a : Hart) (p : Park) (now clk : Nat) : (a.parkFor p now clk).late = a.late := by
  unfold Hart.parkFor; split <;> rfl
@[simp] theorem Hart.parkFor_vq (a : Hart) (p : Park) (now clk : Nat) : (a.parkFor p now clk).vq = a.vq := by
  unfold Hart.parkFor; split <;> rfl
@[simp] theorem Hart.parkFor_seq (a : Hart) (p : Park) (now clk : Nat) : (a.parkFor p now clk).seq = a.seq := by
  unfold Hart.parkFor; split <;> rfl
@[simp] theorem Hart.parkFor_deferred (a : Hart) (p : Park) (now clk : Nat) : (a.parkFor p now clk).deferred = a.deferred := by
  unfold Hart.parkFor; split <;> rfl
@[simp] theorem Hart.parkFor_claimed (a : Hart) (p : Park) (now clk : Nat) : (a.parkFor p now clk).claimed = a.claimed := by
  unfold Hart.parkFor; split <;> rfl
@[simp] theorem Hart.parkFor_slide (a : Hart) (p : Park) (now clk : Nat) : (a.parkFor p now clk).slide = a.slide := by
  unfold Hart.parkFor; split <;> rfl
@[simp] theorem Hart.parkFor_task (a : Hart) (p : Park) (now clk : Nat) : (a.parkFor p now clk).task = a.task := by
  unfold Hart.parkFor; split <;> rfl
@[simp] theorem Hart.parkFor_handlerFetch (a : Hart) (p : Park) (now clk : Nat) : (a.parkFor p now clk).handlerFetch = a.handlerFetch := by
  unfold Hart.parkFor; split <;> rfl
@[simp] theorem Hart.parkFor_csr (a : Hart) (p : Park) (now clk : Nat) : (a.parkFor p now clk).csr = a.csr := by
  unfold Hart.parkFor; split <;> rfl
@[simp] theorem Hart.parkFor_denied (a : Hart) (p : Park) (now clk : Nat) : (a.parkFor p now clk).denied = a.denied := by
  unfold Hart.parkFor; split <;> rfl
@[simp] theorem Hart.parkFor_resuming (a : Hart) (p : Park) (now clk : Nat) : (a.parkFor p now clk).resuming = a.resuming := by
  unfold Hart.parkFor; split <;> rfl

/-! ### Hart.enter -/

@[simp] theorem Hart.enter_x (a : Hart) (cause tval : Word) : (a.enter cause tval).x = a.x := rfl
@[simp] theorem Hart.enter_f (a : Hart) (cause tval : Word) : (a.enter cause tval).f = a.f := rfl
@[simp] theorem Hart.enter_v (a : Hart) (cause tval : Word) : (a.enter cause tval).v = a.v := rfl
@[simp] theorem Hart.enter_p (a : Hart) (cause tval : Word) : (a.enter cause tval).p = a.p := rfl
@[simp] theorem Hart.enter_vl (a : Hart) (cause tval : Word) : (a.enter cause tval).vl = a.vl := rfl
@[simp] theorem Hart.enter_vcfg (a : Hart) (cause tval : Word) : (a.enter cause tval).vcfg = a.vcfg := rfl
@[simp] theorem Hart.enter_veix (a : Hart) (cause tval : Word) : (a.enter cause tval).veix = a.veix := rfl
@[simp] theorem Hart.enter_vflags (a : Hart) (cause tval : Word) : (a.enter cause tval).vflags = a.vflags := rfl
@[simp] theorem Hart.enter_frm (a : Hart) (cause tval : Word) : (a.enter cause tval).frm = a.frm := rfl
@[simp] theorem Hart.enter_fflags (a : Hart) (cause tval : Word) : (a.enter cause tval).fflags = a.fflags := rfl
@[simp] theorem Hart.enter_fmt (a : Hart) (cause tval : Word) : (a.enter cause tval).fmt = a.fmt := rfl
@[simp] theorem Hart.enter_srseed (a : Hart) (cause tval : Word) : (a.enter cause tval).srseed = a.srseed := rfl
@[simp] theorem Hart.enter_srbase (a : Hart) (cause tval : Word) : (a.enter cause tval).srbase = a.srbase := rfl
@[simp] theorem Hart.enter_bwph (a : Hart) (cause tval : Word) : (a.enter cause tval).bwph = a.bwph := rfl
@[simp] theorem Hart.enter_bwphEff (a : Hart) (cause tval : Word) : (a.enter cause tval).bwphEff = a.bwphEff := rfl
@[simp] theorem Hart.enter_pwreq (a : Hart) (cause tval : Word) : (a.enter cause tval).pwreq = a.pwreq := rfl
@[simp] theorem Hart.enter_dirty (a : Hart) (cause tval : Word) : (a.enter cause tval).dirty = a.dirty := rfl
@[simp] theorem Hart.enter_hwb (a : Hart) (cause tval : Word) : (a.enter cause tval).hwb = a.hwb := rfl
@[simp] theorem Hart.enter_sbFail (a : Hart) (cause tval : Word) : (a.enter cause tval).sbFail = a.sbFail := rfl
@[simp] theorem Hart.enter_sb (a : Hart) (cause tval : Word) : (a.enter cause tval).sb = a.sb := rfl
@[simp] theorem Hart.enter_sbErr (a : Hart) (cause tval : Word) : (a.enter cause tval).sbErr = a.sbErr := rfl
@[simp] theorem Hart.enter_shp (a : Hart) (cause tval : Word) : (a.enter cause tval).shp = a.shp := rfl
@[simp] theorem Hart.enter_late (a : Hart) (cause tval : Word) : (a.enter cause tval).late = a.late := rfl
@[simp] theorem Hart.enter_vq (a : Hart) (cause tval : Word) : (a.enter cause tval).vq = a.vq := rfl
@[simp] theorem Hart.enter_seq (a : Hart) (cause tval : Word) : (a.enter cause tval).seq = a.seq := rfl
@[simp] theorem Hart.enter_since (a : Hart) (cause tval : Word) : (a.enter cause tval).since = a.since := rfl
@[simp] theorem Hart.enter_sinceQ (a : Hart) (cause tval : Word) : (a.enter cause tval).sinceQ = a.sinceQ := rfl
@[simp] theorem Hart.enter_deferred (a : Hart) (cause tval : Word) : (a.enter cause tval).deferred = a.deferred := rfl
@[simp] theorem Hart.enter_claimed (a : Hart) (cause tval : Word) : (a.enter cause tval).claimed = a.claimed := rfl
@[simp] theorem Hart.enter_task (a : Hart) (cause tval : Word) : (a.enter cause tval).task = a.task := rfl
@[simp] theorem Hart.enter_denied (a : Hart) (cause tval : Word) : (a.enter cause tval).denied = a.denied := rfl
@[simp] theorem Hart.enter_resuming (a : Hart) (cause tval : Word) : (a.enter cause tval).resuming = a.resuming := rfl

/-! ### Hart.trap -/

@[simp] theorem Hart.trap_x (a : Hart) (cause : Nat) (tval : Word) (eix : Nat) : (a.trap cause tval eix).x = a.x := rfl
@[simp] theorem Hart.trap_f (a : Hart) (cause : Nat) (tval : Word) (eix : Nat) : (a.trap cause tval eix).f = a.f := rfl
@[simp] theorem Hart.trap_v (a : Hart) (cause : Nat) (tval : Word) (eix : Nat) : (a.trap cause tval eix).v = a.v := rfl
@[simp] theorem Hart.trap_p (a : Hart) (cause : Nat) (tval : Word) (eix : Nat) : (a.trap cause tval eix).p = a.p := rfl
@[simp] theorem Hart.trap_vl (a : Hart) (cause : Nat) (tval : Word) (eix : Nat) : (a.trap cause tval eix).vl = a.vl := rfl
@[simp] theorem Hart.trap_vcfg (a : Hart) (cause : Nat) (tval : Word) (eix : Nat) : (a.trap cause tval eix).vcfg = a.vcfg := rfl
@[simp] theorem Hart.trap_vflags (a : Hart) (cause : Nat) (tval : Word) (eix : Nat) : (a.trap cause tval eix).vflags = a.vflags := rfl
@[simp] theorem Hart.trap_frm (a : Hart) (cause : Nat) (tval : Word) (eix : Nat) : (a.trap cause tval eix).frm = a.frm := rfl
@[simp] theorem Hart.trap_fflags (a : Hart) (cause : Nat) (tval : Word) (eix : Nat) : (a.trap cause tval eix).fflags = a.fflags := rfl
@[simp] theorem Hart.trap_fmt (a : Hart) (cause : Nat) (tval : Word) (eix : Nat) : (a.trap cause tval eix).fmt = a.fmt := rfl
@[simp] theorem Hart.trap_srseed (a : Hart) (cause : Nat) (tval : Word) (eix : Nat) : (a.trap cause tval eix).srseed = a.srseed := rfl
@[simp] theorem Hart.trap_srbase (a : Hart) (cause : Nat) (tval : Word) (eix : Nat) : (a.trap cause tval eix).srbase = a.srbase := rfl
@[simp] theorem Hart.trap_bwph (a : Hart) (cause : Nat) (tval : Word) (eix : Nat) : (a.trap cause tval eix).bwph = a.bwph := rfl
@[simp] theorem Hart.trap_bwphEff (a : Hart) (cause : Nat) (tval : Word) (eix : Nat) : (a.trap cause tval eix).bwphEff = a.bwphEff := rfl
@[simp] theorem Hart.trap_pwreq (a : Hart) (cause : Nat) (tval : Word) (eix : Nat) : (a.trap cause tval eix).pwreq = a.pwreq := rfl
@[simp] theorem Hart.trap_dirty (a : Hart) (cause : Nat) (tval : Word) (eix : Nat) : (a.trap cause tval eix).dirty = a.dirty := rfl
@[simp] theorem Hart.trap_hwb (a : Hart) (cause : Nat) (tval : Word) (eix : Nat) : (a.trap cause tval eix).hwb = a.hwb := rfl
@[simp] theorem Hart.trap_sbFail (a : Hart) (cause : Nat) (tval : Word) (eix : Nat) : (a.trap cause tval eix).sbFail = a.sbFail := rfl
@[simp] theorem Hart.trap_sb (a : Hart) (cause : Nat) (tval : Word) (eix : Nat) : (a.trap cause tval eix).sb = a.sb := rfl
@[simp] theorem Hart.trap_sbErr (a : Hart) (cause : Nat) (tval : Word) (eix : Nat) : (a.trap cause tval eix).sbErr = a.sbErr := rfl
@[simp] theorem Hart.trap_shp (a : Hart) (cause : Nat) (tval : Word) (eix : Nat) : (a.trap cause tval eix).shp = a.shp := rfl
@[simp] theorem Hart.trap_late (a : Hart) (cause : Nat) (tval : Word) (eix : Nat) : (a.trap cause tval eix).late = a.late := rfl
@[simp] theorem Hart.trap_vq (a : Hart) (cause : Nat) (tval : Word) (eix : Nat) : (a.trap cause tval eix).vq = a.vq := rfl
@[simp] theorem Hart.trap_seq (a : Hart) (cause : Nat) (tval : Word) (eix : Nat) : (a.trap cause tval eix).seq = a.seq := rfl
@[simp] theorem Hart.trap_since (a : Hart) (cause : Nat) (tval : Word) (eix : Nat) : (a.trap cause tval eix).since = a.since := rfl
@[simp] theorem Hart.trap_sinceQ (a : Hart) (cause : Nat) (tval : Word) (eix : Nat) : (a.trap cause tval eix).sinceQ = a.sinceQ := rfl
@[simp] theorem Hart.trap_deferred (a : Hart) (cause : Nat) (tval : Word) (eix : Nat) : (a.trap cause tval eix).deferred = a.deferred := rfl
@[simp] theorem Hart.trap_claimed (a : Hart) (cause : Nat) (tval : Word) (eix : Nat) : (a.trap cause tval eix).claimed = a.claimed := rfl
@[simp] theorem Hart.trap_task (a : Hart) (cause : Nat) (tval : Word) (eix : Nat) : (a.trap cause tval eix).task = a.task := rfl
@[simp] theorem Hart.trap_denied (a : Hart) (cause : Nat) (tval : Word) (eix : Nat) : (a.trap cause tval eix).denied = a.denied := rfl
@[simp] theorem Hart.trap_resuming (a : Hart) (cause : Nat) (tval : Word) (eix : Nat) : (a.trap cause tval eix).resuming = a.resuming := rfl

/-! ### Hart.interrupt -/

@[simp] theorem Hart.interrupt_x (a : Hart) (cause : Nat) : (a.interrupt cause).x = a.x := rfl
@[simp] theorem Hart.interrupt_f (a : Hart) (cause : Nat) : (a.interrupt cause).f = a.f := rfl
@[simp] theorem Hart.interrupt_v (a : Hart) (cause : Nat) : (a.interrupt cause).v = a.v := rfl
@[simp] theorem Hart.interrupt_p (a : Hart) (cause : Nat) : (a.interrupt cause).p = a.p := rfl
@[simp] theorem Hart.interrupt_vl (a : Hart) (cause : Nat) : (a.interrupt cause).vl = a.vl := rfl
@[simp] theorem Hart.interrupt_vcfg (a : Hart) (cause : Nat) : (a.interrupt cause).vcfg = a.vcfg := rfl
@[simp] theorem Hart.interrupt_veix (a : Hart) (cause : Nat) : (a.interrupt cause).veix = a.veix := rfl
@[simp] theorem Hart.interrupt_vflags (a : Hart) (cause : Nat) : (a.interrupt cause).vflags = a.vflags := rfl
@[simp] theorem Hart.interrupt_frm (a : Hart) (cause : Nat) : (a.interrupt cause).frm = a.frm := rfl
@[simp] theorem Hart.interrupt_fflags (a : Hart) (cause : Nat) : (a.interrupt cause).fflags = a.fflags := rfl
@[simp] theorem Hart.interrupt_fmt (a : Hart) (cause : Nat) : (a.interrupt cause).fmt = a.fmt := rfl
@[simp] theorem Hart.interrupt_srseed (a : Hart) (cause : Nat) : (a.interrupt cause).srseed = a.srseed := rfl
@[simp] theorem Hart.interrupt_srbase (a : Hart) (cause : Nat) : (a.interrupt cause).srbase = a.srbase := rfl
@[simp] theorem Hart.interrupt_bwph (a : Hart) (cause : Nat) : (a.interrupt cause).bwph = a.bwph := rfl
@[simp] theorem Hart.interrupt_bwphEff (a : Hart) (cause : Nat) : (a.interrupt cause).bwphEff = a.bwphEff := rfl
@[simp] theorem Hart.interrupt_pwreq (a : Hart) (cause : Nat) : (a.interrupt cause).pwreq = a.pwreq := rfl
@[simp] theorem Hart.interrupt_dirty (a : Hart) (cause : Nat) : (a.interrupt cause).dirty = a.dirty := rfl
@[simp] theorem Hart.interrupt_hwb (a : Hart) (cause : Nat) : (a.interrupt cause).hwb = a.hwb := rfl
@[simp] theorem Hart.interrupt_sbFail (a : Hart) (cause : Nat) : (a.interrupt cause).sbFail = a.sbFail := rfl
@[simp] theorem Hart.interrupt_sb (a : Hart) (cause : Nat) : (a.interrupt cause).sb = a.sb := rfl
@[simp] theorem Hart.interrupt_sbErr (a : Hart) (cause : Nat) : (a.interrupt cause).sbErr = a.sbErr := rfl
@[simp] theorem Hart.interrupt_shp (a : Hart) (cause : Nat) : (a.interrupt cause).shp = a.shp := rfl
@[simp] theorem Hart.interrupt_late (a : Hart) (cause : Nat) : (a.interrupt cause).late = a.late := rfl
@[simp] theorem Hart.interrupt_vq (a : Hart) (cause : Nat) : (a.interrupt cause).vq = a.vq := rfl
@[simp] theorem Hart.interrupt_seq (a : Hart) (cause : Nat) : (a.interrupt cause).seq = a.seq := rfl
@[simp] theorem Hart.interrupt_since (a : Hart) (cause : Nat) : (a.interrupt cause).since = a.since := rfl
@[simp] theorem Hart.interrupt_sinceQ (a : Hart) (cause : Nat) : (a.interrupt cause).sinceQ = a.sinceQ := rfl
@[simp] theorem Hart.interrupt_deferred (a : Hart) (cause : Nat) : (a.interrupt cause).deferred = a.deferred := rfl
@[simp] theorem Hart.interrupt_claimed (a : Hart) (cause : Nat) : (a.interrupt cause).claimed = a.claimed := rfl
@[simp] theorem Hart.interrupt_task (a : Hart) (cause : Nat) : (a.interrupt cause).task = a.task := rfl
@[simp] theorem Hart.interrupt_denied (a : Hart) (cause : Nat) : (a.interrupt cause).denied = a.denied := rfl
@[simp] theorem Hart.interrupt_resuming (a : Hart) (cause : Nat) : (a.interrupt cause).resuming = a.resuming := rfl

/-! ### Hart.sret -/

@[simp] theorem Hart.sret_x (a : Hart) : (a.sret).x = a.x := rfl
@[simp] theorem Hart.sret_f (a : Hart) : (a.sret).f = a.f := rfl
@[simp] theorem Hart.sret_v (a : Hart) : (a.sret).v = a.v := rfl
@[simp] theorem Hart.sret_p (a : Hart) : (a.sret).p = a.p := rfl
@[simp] theorem Hart.sret_vl (a : Hart) : (a.sret).vl = a.vl := rfl
@[simp] theorem Hart.sret_vcfg (a : Hart) : (a.sret).vcfg = a.vcfg := rfl
@[simp] theorem Hart.sret_veix (a : Hart) : (a.sret).veix = a.veix := rfl
@[simp] theorem Hart.sret_vflags (a : Hart) : (a.sret).vflags = a.vflags := rfl
@[simp] theorem Hart.sret_frm (a : Hart) : (a.sret).frm = a.frm := rfl
@[simp] theorem Hart.sret_fflags (a : Hart) : (a.sret).fflags = a.fflags := rfl
@[simp] theorem Hart.sret_fmt (a : Hart) : (a.sret).fmt = a.fmt := rfl
@[simp] theorem Hart.sret_srseed (a : Hart) : (a.sret).srseed = a.srseed := rfl
@[simp] theorem Hart.sret_srbase (a : Hart) : (a.sret).srbase = a.srbase := rfl
@[simp] theorem Hart.sret_bwph (a : Hart) : (a.sret).bwph = a.bwph := rfl
@[simp] theorem Hart.sret_bwphEff (a : Hart) : (a.sret).bwphEff = a.bwphEff := rfl
@[simp] theorem Hart.sret_pwreq (a : Hart) : (a.sret).pwreq = a.pwreq := rfl
@[simp] theorem Hart.sret_dirty (a : Hart) : (a.sret).dirty = a.dirty := rfl
@[simp] theorem Hart.sret_hwb (a : Hart) : (a.sret).hwb = a.hwb := rfl
@[simp] theorem Hart.sret_sbFail (a : Hart) : (a.sret).sbFail = a.sbFail := rfl
@[simp] theorem Hart.sret_sb (a : Hart) : (a.sret).sb = a.sb := rfl
@[simp] theorem Hart.sret_sbErr (a : Hart) : (a.sret).sbErr = a.sbErr := rfl
@[simp] theorem Hart.sret_shp (a : Hart) : (a.sret).shp = a.shp := rfl
@[simp] theorem Hart.sret_resv (a : Hart) : (a.sret).resv = a.resv := rfl
@[simp] theorem Hart.sret_late (a : Hart) : (a.sret).late = a.late := rfl
@[simp] theorem Hart.sret_vq (a : Hart) : (a.sret).vq = a.vq := rfl
@[simp] theorem Hart.sret_seq (a : Hart) : (a.sret).seq = a.seq := rfl
@[simp] theorem Hart.sret_since (a : Hart) : (a.sret).since = a.since := rfl
@[simp] theorem Hart.sret_sinceQ (a : Hart) : (a.sret).sinceQ = a.sinceQ := rfl
@[simp] theorem Hart.sret_deferred (a : Hart) : (a.sret).deferred = a.deferred := rfl
@[simp] theorem Hart.sret_claimed (a : Hart) : (a.sret).claimed = a.claimed := rfl
@[simp] theorem Hart.sret_slide (a : Hart) : (a.sret).slide = a.slide := rfl
@[simp] theorem Hart.sret_task (a : Hart) : (a.sret).task = a.task := rfl
@[simp] theorem Hart.sret_handlerFetch (a : Hart) : (a.sret).handlerFetch = a.handlerFetch := rfl
@[simp] theorem Hart.sret_denied (a : Hart) : (a.sret).denied = a.denied := rfl
@[simp] theorem Hart.sret_resuming (a : Hart) : (a.sret).resuming = a.resuming := rfl

/-! ### Hart.orFFlags -/

@[simp] theorem Hart.orFFlags_pc (a : Hart) (g : Flags) : (a.orFFlags g).pc = a.pc := rfl
@[simp] theorem Hart.orFFlags_mode (a : Hart) (g : Flags) : (a.orFFlags g).mode = a.mode := rfl
@[simp] theorem Hart.orFFlags_x (a : Hart) (g : Flags) : (a.orFFlags g).x = a.x := rfl
@[simp] theorem Hart.orFFlags_f (a : Hart) (g : Flags) : (a.orFFlags g).f = a.f := rfl
@[simp] theorem Hart.orFFlags_v (a : Hart) (g : Flags) : (a.orFFlags g).v = a.v := rfl
@[simp] theorem Hart.orFFlags_p (a : Hart) (g : Flags) : (a.orFFlags g).p = a.p := rfl
@[simp] theorem Hart.orFFlags_vl (a : Hart) (g : Flags) : (a.orFFlags g).vl = a.vl := rfl
@[simp] theorem Hart.orFFlags_vcfg (a : Hart) (g : Flags) : (a.orFFlags g).vcfg = a.vcfg := rfl
@[simp] theorem Hart.orFFlags_veix (a : Hart) (g : Flags) : (a.orFFlags g).veix = a.veix := rfl
@[simp] theorem Hart.orFFlags_vflags (a : Hart) (g : Flags) : (a.orFFlags g).vflags = a.vflags := rfl
@[simp] theorem Hart.orFFlags_frm (a : Hart) (g : Flags) : (a.orFFlags g).frm = a.frm := rfl
@[simp] theorem Hart.orFFlags_fmt (a : Hart) (g : Flags) : (a.orFFlags g).fmt = a.fmt := rfl
@[simp] theorem Hart.orFFlags_srseed (a : Hart) (g : Flags) : (a.orFFlags g).srseed = a.srseed := rfl
@[simp] theorem Hart.orFFlags_srbase (a : Hart) (g : Flags) : (a.orFFlags g).srbase = a.srbase := rfl
@[simp] theorem Hart.orFFlags_bwph (a : Hart) (g : Flags) : (a.orFFlags g).bwph = a.bwph := rfl
@[simp] theorem Hart.orFFlags_bwphEff (a : Hart) (g : Flags) : (a.orFFlags g).bwphEff = a.bwphEff := rfl
@[simp] theorem Hart.orFFlags_pwreq (a : Hart) (g : Flags) : (a.orFFlags g).pwreq = a.pwreq := rfl
@[simp] theorem Hart.orFFlags_dirty (a : Hart) (g : Flags) : (a.orFFlags g).dirty = a.dirty := rfl
@[simp] theorem Hart.orFFlags_hwb (a : Hart) (g : Flags) : (a.orFFlags g).hwb = a.hwb := rfl
@[simp] theorem Hart.orFFlags_sbFail (a : Hart) (g : Flags) : (a.orFFlags g).sbFail = a.sbFail := rfl
@[simp] theorem Hart.orFFlags_sb (a : Hart) (g : Flags) : (a.orFFlags g).sb = a.sb := rfl
@[simp] theorem Hart.orFFlags_sbErr (a : Hart) (g : Flags) : (a.orFFlags g).sbErr = a.sbErr := rfl
@[simp] theorem Hart.orFFlags_shp (a : Hart) (g : Flags) : (a.orFFlags g).shp = a.shp := rfl
@[simp] theorem Hart.orFFlags_resv (a : Hart) (g : Flags) : (a.orFFlags g).resv = a.resv := rfl
@[simp] theorem Hart.orFFlags_late (a : Hart) (g : Flags) : (a.orFFlags g).late = a.late := rfl
@[simp] theorem Hart.orFFlags_vq (a : Hart) (g : Flags) : (a.orFFlags g).vq = a.vq := rfl
@[simp] theorem Hart.orFFlags_seq (a : Hart) (g : Flags) : (a.orFFlags g).seq = a.seq := rfl
@[simp] theorem Hart.orFFlags_park (a : Hart) (g : Flags) : (a.orFFlags g).park = a.park := rfl
@[simp] theorem Hart.orFFlags_since (a : Hart) (g : Flags) : (a.orFFlags g).since = a.since := rfl
@[simp] theorem Hart.orFFlags_sinceQ (a : Hart) (g : Flags) : (a.orFFlags g).sinceQ = a.sinceQ := rfl
@[simp] theorem Hart.orFFlags_deferred (a : Hart) (g : Flags) : (a.orFFlags g).deferred = a.deferred := rfl
@[simp] theorem Hart.orFFlags_claimed (a : Hart) (g : Flags) : (a.orFFlags g).claimed = a.claimed := rfl
@[simp] theorem Hart.orFFlags_slide (a : Hart) (g : Flags) : (a.orFFlags g).slide = a.slide := rfl
@[simp] theorem Hart.orFFlags_task (a : Hart) (g : Flags) : (a.orFFlags g).task = a.task := rfl
@[simp] theorem Hart.orFFlags_handlerFetch (a : Hart) (g : Flags) : (a.orFFlags g).handlerFetch = a.handlerFetch := rfl
@[simp] theorem Hart.orFFlags_csr (a : Hart) (g : Flags) : (a.orFFlags g).csr = a.csr := rfl
@[simp] theorem Hart.orFFlags_denied (a : Hart) (g : Flags) : (a.orFFlags g).denied = a.denied := rfl
@[simp] theorem Hart.orFFlags_resuming (a : Hart) (g : Flags) : (a.orFFlags g).resuming = a.resuming := rfl

/-! ### Hart.orVFlags -/

@[simp] theorem Hart.orVFlags_pc (a : Hart) (g : Flags) : (a.orVFlags g).pc = a.pc := rfl
@[simp] theorem Hart.orVFlags_mode (a : Hart) (g : Flags) : (a.orVFlags g).mode = a.mode := rfl
@[simp] theorem Hart.orVFlags_x (a : Hart) (g : Flags) : (a.orVFlags g).x = a.x := rfl
@[simp] theorem Hart.orVFlags_f (a : Hart) (g : Flags) : (a.orVFlags g).f = a.f := rfl
@[simp] theorem Hart.orVFlags_v (a : Hart) (g : Flags) : (a.orVFlags g).v = a.v := rfl
@[simp] theorem Hart.orVFlags_p (a : Hart) (g : Flags) : (a.orVFlags g).p = a.p := rfl
@[simp] theorem Hart.orVFlags_vl (a : Hart) (g : Flags) : (a.orVFlags g).vl = a.vl := rfl
@[simp] theorem Hart.orVFlags_vcfg (a : Hart) (g : Flags) : (a.orVFlags g).vcfg = a.vcfg := rfl
@[simp] theorem Hart.orVFlags_veix (a : Hart) (g : Flags) : (a.orVFlags g).veix = a.veix := rfl
@[simp] theorem Hart.orVFlags_frm (a : Hart) (g : Flags) : (a.orVFlags g).frm = a.frm := rfl
@[simp] theorem Hart.orVFlags_fflags (a : Hart) (g : Flags) : (a.orVFlags g).fflags = a.fflags := rfl
@[simp] theorem Hart.orVFlags_fmt (a : Hart) (g : Flags) : (a.orVFlags g).fmt = a.fmt := rfl
@[simp] theorem Hart.orVFlags_srseed (a : Hart) (g : Flags) : (a.orVFlags g).srseed = a.srseed := rfl
@[simp] theorem Hart.orVFlags_srbase (a : Hart) (g : Flags) : (a.orVFlags g).srbase = a.srbase := rfl
@[simp] theorem Hart.orVFlags_bwph (a : Hart) (g : Flags) : (a.orVFlags g).bwph = a.bwph := rfl
@[simp] theorem Hart.orVFlags_bwphEff (a : Hart) (g : Flags) : (a.orVFlags g).bwphEff = a.bwphEff := rfl
@[simp] theorem Hart.orVFlags_pwreq (a : Hart) (g : Flags) : (a.orVFlags g).pwreq = a.pwreq := rfl
@[simp] theorem Hart.orVFlags_dirty (a : Hart) (g : Flags) : (a.orVFlags g).dirty = a.dirty := rfl
@[simp] theorem Hart.orVFlags_hwb (a : Hart) (g : Flags) : (a.orVFlags g).hwb = a.hwb := rfl
@[simp] theorem Hart.orVFlags_sbFail (a : Hart) (g : Flags) : (a.orVFlags g).sbFail = a.sbFail := rfl
@[simp] theorem Hart.orVFlags_sb (a : Hart) (g : Flags) : (a.orVFlags g).sb = a.sb := rfl
@[simp] theorem Hart.orVFlags_sbErr (a : Hart) (g : Flags) : (a.orVFlags g).sbErr = a.sbErr := rfl
@[simp] theorem Hart.orVFlags_shp (a : Hart) (g : Flags) : (a.orVFlags g).shp = a.shp := rfl
@[simp] theorem Hart.orVFlags_resv (a : Hart) (g : Flags) : (a.orVFlags g).resv = a.resv := rfl
@[simp] theorem Hart.orVFlags_late (a : Hart) (g : Flags) : (a.orVFlags g).late = a.late := rfl
@[simp] theorem Hart.orVFlags_vq (a : Hart) (g : Flags) : (a.orVFlags g).vq = a.vq := rfl
@[simp] theorem Hart.orVFlags_seq (a : Hart) (g : Flags) : (a.orVFlags g).seq = a.seq := rfl
@[simp] theorem Hart.orVFlags_park (a : Hart) (g : Flags) : (a.orVFlags g).park = a.park := rfl
@[simp] theorem Hart.orVFlags_since (a : Hart) (g : Flags) : (a.orVFlags g).since = a.since := rfl
@[simp] theorem Hart.orVFlags_sinceQ (a : Hart) (g : Flags) : (a.orVFlags g).sinceQ = a.sinceQ := rfl
@[simp] theorem Hart.orVFlags_deferred (a : Hart) (g : Flags) : (a.orVFlags g).deferred = a.deferred := rfl
@[simp] theorem Hart.orVFlags_claimed (a : Hart) (g : Flags) : (a.orVFlags g).claimed = a.claimed := rfl
@[simp] theorem Hart.orVFlags_slide (a : Hart) (g : Flags) : (a.orVFlags g).slide = a.slide := rfl
@[simp] theorem Hart.orVFlags_task (a : Hart) (g : Flags) : (a.orVFlags g).task = a.task := rfl
@[simp] theorem Hart.orVFlags_handlerFetch (a : Hart) (g : Flags) : (a.orVFlags g).handlerFetch = a.handlerFetch := rfl
@[simp] theorem Hart.orVFlags_csr (a : Hart) (g : Flags) : (a.orVFlags g).csr = a.csr := rfl
@[simp] theorem Hart.orVFlags_denied (a : Hart) (g : Flags) : (a.orVFlags g).denied = a.denied := rfl
@[simp] theorem Hart.orVFlags_resuming (a : Hart) (g : Flags) : (a.orVFlags g).resuming = a.resuming := rfl

end Sys2Proof.Machine
end

