-- ==== Sys2Proof/Laws/Objects.lean ====
section
/-!
SUPPORT. What the shared part of an object operation leaves: memory, the waiting lists and every register but the slide buffer; and
that it loses no line.
-/
namespace Sys2Proof.Machine

theorem State.lostLines_nil (s : State) : s.lostLines = [] ↔ ∀ e ∈ s.quads, e.2.loss = [] := by
  simp [State.lostLines, List.flatMap_eq_nil_iff]

/-- The caches lose no line by themselves. -/
theorem Cached.lost {s t : State} (h : Cached s t) (k : s.lostLines = []) : t.lostLines = [] :=
  (State.lostLines_nil t).2 (h.loss ((State.lostLines_nil s).1 k))

/-- An object operation's step at its line: the caches, and the slide buffer of the hart at issue. -/
theorem State.atObject_spec (s : State) (c : Acc) (va : Word) :
    ∃ (u : State) (w : Option Slide), Cached c.s u ∧ s.atObject c va = u.updMe (fun a => { a with slide := w }) := by
  let t := if c.write then c.s.dropL1 (coreOf s.cur) (lineOf c.pa) else c.s
  let u := t.bypass (quadOf s.cur) c.pa c.write .normal c.e.replica
  have ht : Cached c.s t := by
    show Cached c.s (if c.write then _ else _)
    split
    · exact State.dropL1_cached ..
    · exact .refl _
  have e : ∃ w, (if c.write then u.me.storedAt va c.pa 64 else u.me.sees c.pa 64) = { u.me with slide := w } := by
    split
    · exact Hart.storedAt_spec ..
    · exact Hart.sees_spec ..
  obtain ⟨w, e⟩ := e
  exact ⟨u, w, ht.trans (State.bypass_cached ..), congrArg (fun a => u.setHart u.cur a) e⟩

end Sys2Proof.Machine
end

