-- ==== Sys2Proof/Laws/PerInstr.lean ====
section
/-!
SUPPORT. Facts about every instruction as syntax, one lemma for each constructor of `Instr`.
-/
namespace Sys2Proof.Laws.Fits

set_option Elab.async false

/-- R216: an instruction's word fits its length: 32 bits where the low two bits are 11, 16 where they are 10, and no
bits for a step without a word. -/
def Statement (i : Instr) : Prop := encode i < 2 ^ (8 * i.len)

theorem ofWord {i : Instr} (w : Nat) (e : encode i = w) (h : w % 4 = 3 ∧ w < 2 ^ 32) : Statement i := by
  subst e; simpa [Statement, Instr.len, h.1] using h.2

theorem ofParcel {i : Instr} (w : Nat) (e : encode i = w) (h : w % 4 = 2 ∧ w < 2 ^ 16) : Statement i := by
  subst e
  have h0 : encode i ≠ 0 := fun e => by simp [e] at h
  simpa [Statement, Instr.len, h.1, h0] using h.2

theorem ofNone {i : Instr} (e : encode i = 0) : Statement i := by
  simp only [Statement, e]; exact Nat.two_pow_pos _

theorem bitNat_lt (b : Bool) : bitNat b < 2 := by cases b <;> decide

/-- A word of R-type and of I-type: the fields within their widths. -/
theorem encR_fits {o d f a b g : Nat} (ho : o % 4 = 3 ∧ o < 128) (hd : d < 32) (hf : f < 8) (ha : a < 32) (hb : b < 32) (hg : g < 128) :
    encR o d f a b g % 4 = 3 ∧ encR o d f a b g < 2 ^ 32 := by
  simp only [encR]; omega

theorem encI_fits {o d f a i : Nat} (ho : o % 4 = 3 ∧ o < 128) (hd : d < 32) (hf : f < 8) (ha : a < 32) (hi : i < 4096) :
    encI o d f a i % 4 = 3 ∧ encI o d f a i < 2 ^ 32 := by
  simp only [encI]; omega

/-- The word of a standard operation is a 32-bit word. -/
theorem alu (i : AluInstr) : i.encode % 4 = 3 ∧ i.encode < 2 ^ 32 := by
  cases i with
  | rr op d a b => cases op <;> exact encR_fits (by decide) d.isLt (by decide) a.isLt b.isLt (by decide)
  | un op d a => cases op <;> exact encI_fits (by decide) d.isLt (by decide) a.isLt (by decide)
  | imm op d a i => cases op <;> exact encI_fits (by decide) d.isLt (by decide) a.isLt i.isLt
  | sh op d a n => cases op <;> exact encI_fits (by decide) d.isLt (by decide) a.isLt (by omega)
  | shw op d a n => cases op <;> exact encR_fits (by decide) d.isLt (by decide) a.isLt n.isLt (by decide)
  | lui d i => simp only [AluInstr.encode]; omega
  | auipc d i => simp only [AluInstr.encode]; omega
  | branch op a b off =>
    have := off.isLt
    cases op <;> exact encR_fits (by decide) (by simp only [fld]; omega) (by decide) a.isLt b.isLt (by simp only [fld]; omega)
  | jal d off => simp only [AluInstr.encode, fld]; omega
  | jalr d a i => exact encI_fits (by decide) d.isLt (by decide) a.isLt i.isLt
  | farith op f rm d a b => cases op <;> cases f <;> exact encR_fits (by decide) d.isLt rm.isLt a.isLt b.isLt (by decide)
  | ffused op f rm d a b c =>
    cases op <;> cases f <;> exact encR_fits (by decide) d.isLt rm.isLt a.isLt b.isLt (by simp only [FFmt.code]; omega)
  | fpair op f d a b => cases op <;> cases f <;> exact encR_fits (by decide) d.isLt (by decide) a.isLt b.isLt (by decide)
  | fcmp op f d a b => cases op <;> cases f <;> exact encR_fits (by decide) d.isLt (by decide) a.isLt b.isLt (by decide)
  | ftoi t f rm d a => cases t <;> cases f <;> exact encR_fits (by decide) d.isLt rm.isLt a.isLt (by decide) (by decide)
  | itof f t rm d a => cases t <;> cases f <;> exact encR_fits (by decide) d.isLt rm.isLt a.isLt (by decide) (by decide)
  | fcvt f rm d a => cases f <;> exact encR_fits (by decide) d.isLt rm.isLt a.isLt (by decide) (by decide)
  | fmvx f d a => cases f <;> exact encR_fits (by decide) d.isLt (by decide) a.isLt (by decide) (by decide)
  | fmvf f d a => cases f <;> exact encR_fits (by decide) d.isLt (by decide) a.isLt (by decide) (by decide)
  | fclass f d a => cases f <;> exact encR_fits (by decide) d.isLt (by decide) a.isLt (by decide) (by decide)
theorem scalarAlu (a : AluInstr) : Statement (.scalarAlu a) := ofWord a.encode rfl (alu a)
theorem integerDivide (op : DivOp) (d : Reg) (a : Reg) (b : Reg) : Statement (.integerDivide op d a b) :=
  ofWord (encR op.code.1 d.toNat op.code.2 a.toNat b.toNat 1) rfl (by
    cases op <;> exact encR_fits (by decide) d.isLt (by decide) a.isLt b.isLt (by decide))
theorem fpDivideSqrt (sqrt : Bool) (f : FFmt) (rm : BitVec 3) (d : Reg) (a : Reg) (b : Reg) : Statement (.fpDivideSqrt sqrt f rm d a b) :=
  ofWord (encR 0x53 d.toNat rm.toNat a.toNat b.toNat (f.code + 4 * (if sqrt then 11 else 3))) rfl (by
    cases sqrt <;> cases f <;> exact encR_fits (by decide) d.isLt rm.isLt a.isLt b.isLt (by decide))
theorem scalarLoad (op : LoadOp) (d : Reg) (a : Reg) (i : BitVec 12) : Statement (.scalarLoad op d a i) :=
  ofWord (encI op.code.1 d.toNat op.code.2 a.toNat i.toNat) rfl (by
    cases op <;> exact encI_fits (by decide) d.isLt (by decide) a.isLt i.isLt)
theorem scalarStore (op : StoreOp) (a : Reg) (b : Reg) (i : BitVec 12) : Statement (.scalarStore op a b i) :=
  ofWord (encR op.code.1 (fld i.toNat 0 5) op.code.2 a.toNat b.toNat (fld i.toNat 5 7)) rfl (by
    have := i.isLt; cases op <;> exact encR_fits (by decide) (by simp only [fld]; omega) (by decide) a.isLt b.isLt (by simp only [fld]; omega))
theorem amo (op : AmoOp) (dbl : Bool) (aq : Bool) (rl : Bool) (d : Reg) (a : Reg) (b : Reg) : Statement (.amo op dbl aq rl d a b) :=
  ofWord (encR 0x2F d.toNat (2 + bitNat dbl) a.toNat b.toNat (bitNat rl + 2 * bitNat aq + 4 * op.code)) rfl (by
    cases op <;> cases dbl <;> cases aq <;> cases rl <;> exact encR_fits (by decide) d.isLt (by decide) a.isLt b.isLt (by decide))
theorem lr (dbl : Bool) (aq : Bool) (rl : Bool) (d : Reg) (a : Reg) : Statement (.lr dbl aq rl d a) :=
  ofWord (encR 0x2F d.toNat (2 + bitNat dbl) a.toNat 0 (bitNat rl + 2 * bitNat aq + 4 * 2)) rfl (by
    cases dbl <;> cases aq <;> cases rl <;> exact encR_fits (by decide) d.isLt (by decide) a.isLt (by decide) (by decide))
theorem sc (dbl : Bool) (aq : Bool) (rl : Bool) (d : Reg) (a : Reg) (b : Reg) : Statement (.sc dbl aq rl d a b) :=
  ofWord (encR 0x2F d.toNat (2 + bitNat dbl) a.toNat b.toNat (bitNat rl + 2 * bitNat aq + 4 * 3)) rfl (by
    cases dbl <;> cases aq <;> cases rl <;> exact encR_fits (by decide) d.isLt (by decide) a.isLt b.isLt (by decide))
theorem fence (fm : BitVec 4) (pred : BitVec 4) (succ : BitVec 4) : Statement (.fence fm pred succ) :=
  ofWord (encI 0x0F 0 0 0 (succ.toNat + pred.toNat * 2 ^ 4 + fm.toNat * 2 ^ 8)) rfl (by
    exact encI_fits (by decide) (by decide) (by decide) (by decide) (by omega))
theorem sfenceVma (b : Reg) (a : Reg) : Statement (.sfenceVma b a) :=
  ofWord (encR 0x73 0 0 a.toNat b.toNat 9) rfl (by
    exact encR_fits (by decide) (by decide) (by decide) a.isLt b.isLt (by decide))
theorem csrAccess (op : CsrOp) (imm : Bool) (csr : BitVec 12) (d : Reg) (a : Reg) : Statement (.csrAccess op imm csr d a) := by
  cases op <;> cases imm <;>
    exact ofWord (encI _ _ _ _ _) rfl (encI_fits (by decide) d.isLt (by decide) a.isLt csr.isLt)
theorem takingAdd (u : Bool) (t : Bool) (b : Reg) (a : Reg) (d : Reg) : Statement (.takingAdd u t b a d) :=
  ofWord (word 0xB [(bitNat u, 26), (bitNat t, 25), (b.toNat, 20), (a.toNat, 15), (d.toNat, 7)]) rfl (by have := bitNat_lt u; have := bitNat_lt t; simp only [word]; omega)
theorem takingSub (u : Bool) (t : Bool) (b : Reg) (a : Reg) (d : Reg) : Statement (.takingSub u t b a d) :=
  ofWord (word 0x800000B [(bitNat u, 26), (bitNat t, 25), (b.toNat, 20), (a.toNat, 15), (d.toNat, 7)]) rfl (by have := bitNat_lt u; have := bitNat_lt t; simp only [word]; omega)
theorem takingSll (u : Bool) (t : Bool) (b : Reg) (a : Reg) (d : Reg) : Statement (.takingSll u t b a d) :=
  ofWord (word 0x1000000B [(bitNat u, 26), (bitNat t, 25), (b.toNat, 20), (a.toNat, 15), (d.toNat, 7)]) rfl (by have := bitNat_lt u; have := bitNat_lt t; simp only [word]; omega)
theorem takingSlt (u : Bool) (t : Bool) (b : Reg) (a : Reg) (d : Reg) : Statement (.takingSlt u t b a d) :=
  ofWord (word 0x1800000B [(bitNat u, 26), (bitNat t, 25), (b.toNat, 20), (a.toNat, 15), (d.toNat, 7)]) rfl (by have := bitNat_lt u; have := bitNat_lt t; simp only [word]; omega)
theorem takingSltu (u : Bool) (t : Bool) (b : Reg) (a : Reg) (d : Reg) : Statement (.takingSltu u t b a d) :=
  ofWord (word 0x2000000B [(bitNat u, 26), (bitNat t, 25), (b.toNat, 20), (a.toNat, 15), (d.toNat, 7)]) rfl (by have := bitNat_lt u; have := bitNat_lt t; simp only [word]; omega)
theorem takingXor (u : Bool) (t : Bool) (b : Reg) (a : Reg) (d : Reg) : Statement (.takingXor u t b a d) :=
  ofWord (word 0x2800000B [(bitNat u, 26), (bitNat t, 25), (b.toNat, 20), (a.toNat, 15), (d.toNat, 7)]) rfl (by have := bitNat_lt u; have := bitNat_lt t; simp only [word]; omega)
theorem takingSrl (u : Bool) (t : Bool) (b : Reg) (a : Reg) (d : Reg) : Statement (.takingSrl u t b a d) :=
  ofWord (word 0x3000000B [(bitNat u, 26), (bitNat t, 25), (b.toNat, 20), (a.toNat, 15), (d.toNat, 7)]) rfl (by have := bitNat_lt u; have := bitNat_lt t; simp only [word]; omega)
theorem takingSra (u : Bool) (t : Bool) (b : Reg) (a : Reg) (d : Reg) : Statement (.takingSra u t b a d) :=
  ofWord (word 0x3800000B [(bitNat u, 26), (bitNat t, 25), (b.toNat, 20), (a.toNat, 15), (d.toNat, 7)]) rfl (by have := bitNat_lt u; have := bitNat_lt t; simp only [word]; omega)
theorem takingOr (u : Bool) (t : Bool) (b : Reg) (a : Reg) (d : Reg) : Statement (.takingOr u t b a d) :=
  ofWord (word 0x4000000B [(bitNat u, 26), (bitNat t, 25), (b.toNat, 20), (a.toNat, 15), (d.toNat, 7)]) rfl (by have := bitNat_lt u; have := bitNat_lt t; simp only [word]; omega)
theorem takingAnd (u : Bool) (t : Bool) (b : Reg) (a : Reg) (d : Reg) : Statement (.takingAnd u t b a d) :=
  ofWord (word 0x4800000B [(bitNat u, 26), (bitNat t, 25), (b.toNat, 20), (a.toNat, 15), (d.toNat, 7)]) rfl (by have := bitNat_lt u; have := bitNat_lt t; simp only [word]; omega)
theorem takingAddw (u : Bool) (t : Bool) (b : Reg) (a : Reg) (d : Reg) : Statement (.takingAddw u t b a d) :=
  ofWord (word 0x5000000B [(bitNat u, 26), (bitNat t, 25), (b.toNat, 20), (a.toNat, 15), (d.toNat, 7)]) rfl (by have := bitNat_lt u; have := bitNat_lt t; simp only [word]; omega)
theorem takingSubw (u : Bool) (t : Bool) (b : Reg) (a : Reg) (d : Reg) : Statement (.takingSubw u t b a d) :=
  ofWord (word 0x5800000B [(bitNat u, 26), (bitNat t, 25), (b.toNat, 20), (a.toNat, 15), (d.toNat, 7)]) rfl (by have := bitNat_lt u; have := bitNat_lt t; simp only [word]; omega)
theorem takingSllw (u : Bool) (t : Bool) (b : Reg) (a : Reg) (d : Reg) : Statement (.takingSllw u t b a d) :=
  ofWord (word 0x6000000B [(bitNat u, 26), (bitNat t, 25), (b.toNat, 20), (a.toNat, 15), (d.toNat, 7)]) rfl (by have := bitNat_lt u; have := bitNat_lt t; simp only [word]; omega)
theorem takingSrlw (u : Bool) (t : Bool) (b : Reg) (a : Reg) (d : Reg) : Statement (.takingSrlw u t b a d) :=
  ofWord (word 0x6800000B [(bitNat u, 26), (bitNat t, 25), (b.toNat, 20), (a.toNat, 15), (d.toNat, 7)]) rfl (by have := bitNat_lt u; have := bitNat_lt t; simp only [word]; omega)
theorem takingSraw (u : Bool) (t : Bool) (b : Reg) (a : Reg) (d : Reg) : Statement (.takingSraw u t b a d) :=
  ofWord (word 0x7000000B [(bitNat u, 26), (bitNat t, 25), (b.toNat, 20), (a.toNat, 15), (d.toNat, 7)]) rfl (by have := bitNat_lt u; have := bitNat_lt t; simp only [word]; omega)
theorem takingMul (u : Bool) (t : Bool) (b : Reg) (a : Reg) (d : Reg) : Statement (.takingMul u t b a d) :=
  ofWord (word 0x7800000B [(bitNat u, 26), (bitNat t, 25), (b.toNat, 20), (a.toNat, 15), (d.toNat, 7)]) rfl (by have := bitNat_lt u; have := bitNat_lt t; simp only [word]; omega)
theorem takingMulh (u : Bool) (t : Bool) (b : Reg) (a : Reg) (d : Reg) : Statement (.takingMulh u t b a d) :=
  ofWord (word 0x8000000B [(bitNat u, 26), (bitNat t, 25), (b.toNat, 20), (a.toNat, 15), (d.toNat, 7)]) rfl (by have := bitNat_lt u; have := bitNat_lt t; simp only [word]; omega)
theorem takingMulhu (u : Bool) (t : Bool) (b : Reg) (a : Reg) (d : Reg) : Statement (.takingMulhu u t b a d) :=
  ofWord (word 0x8800000B [(bitNat u, 26), (bitNat t, 25), (b.toNat, 20), (a.toNat, 15), (d.toNat, 7)]) rfl (by have := bitNat_lt u; have := bitNat_lt t; simp only [word]; omega)
theorem takingMulw (u : Bool) (t : Bool) (b : Reg) (a : Reg) (d : Reg) : Statement (.takingMulw u t b a d) :=
  ofWord (word 0x9000000B [(bitNat u, 26), (bitNat t, 25), (b.toNat, 20), (a.toNat, 15), (d.toNat, 7)]) rfl (by have := bitNat_lt u; have := bitNat_lt t; simp only [word]; omega)
theorem takingMin (u : Bool) (t : Bool) (b : Reg) (a : Reg) (d : Reg) : Statement (.takingMin u t b a d) :=
  ofWord (word 0x9800000B [(bitNat u, 26), (bitNat t, 25), (b.toNat, 20), (a.toNat, 15), (d.toNat, 7)]) rfl (by have := bitNat_lt u; have := bitNat_lt t; simp only [word]; omega)
theorem takingMax (u : Bool) (t : Bool) (b : Reg) (a : Reg) (d : Reg) : Statement (.takingMax u t b a d) :=
  ofWord (word 0xA000000B [(bitNat u, 26), (bitNat t, 25), (b.toNat, 20), (a.toNat, 15), (d.toNat, 7)]) rfl (by have := bitNat_lt u; have := bitNat_lt t; simp only [word]; omega)
theorem takingMinu (u : Bool) (t : Bool) (b : Reg) (a : Reg) (d : Reg) : Statement (.takingMinu u t b a d) :=
  ofWord (word 0xA800000B [(bitNat u, 26), (bitNat t, 25), (b.toNat, 20), (a.toNat, 15), (d.toNat, 7)]) rfl (by have := bitNat_lt u; have := bitNat_lt t; simp only [word]; omega)
theorem takingMaxu (u : Bool) (t : Bool) (b : Reg) (a : Reg) (d : Reg) : Statement (.takingMaxu u t b a d) :=
  ofWord (word 0xB000000B [(bitNat u, 26), (bitNat t, 25), (b.toNat, 20), (a.toNat, 15), (d.toNat, 7)]) rfl (by have := bitNat_lt u; have := bitNat_lt t; simp only [word]; omega)
theorem putx (u : Bool) (t : Bool) (b : Reg) (a : Reg) (d : Reg) : Statement (.putx u t b a d) :=
  ofWord (word 0x100B [(bitNat u, 26), (bitNat t, 25), (b.toNat, 20), (a.toNat, 15), (d.toNat, 7)]) rfl (by have := bitNat_lt u; have := bitNat_lt t; simp only [word]; omega)
theorem take (t : Bool) (a : Reg) (d : Reg) : Statement (.take t a d) :=
  ofWord (word 0x800100B [(bitNat t, 25), (a.toNat, 15), (d.toNat, 7)]) rfl (by have := bitNat_lt t; simp only [word]; omega)
theorem prempty (b : Reg) (d : Reg) : Statement (.prempty b d) :=
  ofWord (word 0x1000100B [(b.toNat, 20), (d.toNat, 7)]) rfl (by simp only [word]; omega)
theorem prtest (b : Reg) (a : Reg) (d : Reg) : Statement (.prtest b a d) :=
  ofWord (word 0x1800100B [(b.toNat, 20), (a.toNat, 15), (d.toNat, 7)]) rfl (by simp only [word]; omega)
theorem vidxrd (t : Bool) (b : Reg) (a : Reg) (d : Reg) : Statement (.vidxrd t b a d) :=
  ofWord (word 0x2000100B [(bitNat t, 25), (b.toNat, 20), (a.toNat, 15), (d.toNat, 7)]) rfl (by have := bitNat_lt t; simp only [word]; omega)
theorem vidxwr (t : Bool) (b : Reg) (a : Reg) (d : Reg) : Statement (.vidxwr t b a d) :=
  ofWord (word 0x2800100B [(bitNat t, 25), (b.toNat, 20), (a.toNat, 15), (d.toNat, 7)]) rfl (by have := bitNat_lt t; simp only [word]; omega)
theorem vpush (t : Bool) (b : Reg) (a : Reg) (d : Reg) : Statement (.vpush t b a d) :=
  ofWord (word 0x3000100B [(bitNat t, 25), (b.toNat, 20), (a.toNat, 15), (d.toNat, 7)]) rfl (by have := bitNat_lt t; simp only [word]; omega)
theorem bfx (u : Bool) (t : Bool) (b : Reg) (a : Reg) (d : Reg) : Statement (.bfx u t b a d) :=
  ofWord (word 0x3800100B [(bitNat u, 26), (bitNat t, 25), (b.toNat, 20), (a.toNat, 15), (d.toNat, 7)]) rfl (by have := bitNat_lt u; have := bitNat_lt t; simp only [word]; omega)
theorem bfxs (u : Bool) (t : Bool) (b : Reg) (a : Reg) (d : Reg) : Statement (.bfxs u t b a d) :=
  ofWord (word 0x4000100B [(bitNat u, 26), (bitNat t, 25), (b.toNat, 20), (a.toNat, 15), (d.toNat, 7)]) rfl (by have := bitNat_lt u; have := bitNat_lt t; simp only [word]; omega)
theorem bfi (u : Bool) (t : Bool) (b : Reg) (a : Reg) (d : Reg) : Statement (.bfi u t b a d) :=
  ofWord (word 0x4800100B [(bitNat u, 26), (bitNat t, 25), (b.toNat, 20), (a.toNat, 15), (d.toNat, 7)]) rfl (by have := bitNat_lt u; have := bitNat_lt t; simp only [word]; omega)
theorem tenq (u : Bool) (t : Bool) (b : Reg) (a : Reg) : Statement (.tenq u t b a) :=
  ofWord (word 0x200B [(bitNat u, 26), (bitNat t, 25), (b.toNat, 20), (a.toNat, 15)]) rfl (by have := bitNat_lt u; have := bitNat_lt t; simp only [word]; omega)
theorem tenqt (u : Bool) (t : Bool) (b : Reg) (a : Reg) (d : Reg) : Statement (.tenqt u t b a d) :=
  ofWord (word 0x800200B [(bitNat u, 26), (bitNat t, 25), (b.toNat, 20), (a.toNat, 15), (d.toNat, 7)]) rfl (by have := bitNat_lt u; have := bitNat_lt t; simp only [word]; omega)
theorem klaunch (t : Bool) (a : Reg) (d : Reg) : Statement (.klaunch t a d) :=
  ofWord (word 0x2000200B [(bitNat t, 25), (a.toNat, 15), (d.toNat, 7)]) rfl (by have := bitNat_lt t; simp only [word]; omega)
theorem ticket (t : Bool) (a : Reg) (d : Reg) : Statement (.ticket t a d) :=
  ofWord (word 0x2800200B [(bitNat t, 25), (a.toNat, 15), (d.toNat, 7)]) rfl (by have := bitNat_lt t; simp only [word]; omega)
theorem pgbiasHost (e : Bool) (s : BitVec 3) (a : Reg) : Statement (.pgbiasHost e s a) :=
  ofWord (word 0x100300B [(bitNat e, 23), (s.toNat, 20), (a.toNat, 15)]) rfl (by have := bitNat_lt e; simp only [word]; omega)
theorem pgbiasDev (e : Bool) (s : BitVec 3) (a : Reg) : Statement (.pgbiasDev e s a) :=
  ofWord (word 0x300B [(bitNat e, 23), (s.toNat, 20), (a.toNat, 15)]) rfl (by have := bitNat_lt e; simp only [word]; omega)
theorem pwhint (a : Reg) : Statement (.pwhint a) :=
  ofWord (word 0x800300B [(a.toNat, 15)]) rfl (by simp only [word]; omega)
theorem sbwait (m : BitVec 8) : Statement (.sbwait m) :=
  ofWord (word 0x400B [(m.toNat, 20)]) rfl (by simp only [word]; omega)
theorem vcfg (e : BitVec 4) (g : BitVec 2) (a : Reg) (d : Reg) : Statement (.vcfg e g a d) :=
  ofWord (word 0x500B [(e.toNat, 28), (g.toNat, 26), (a.toNat, 15), (d.toNat, 7)]) rfl (by simp only [word]; omega)
theorem vcfgi (e : BitVec 4) (g : BitVec 2) (v : BitVec 10) (d : Reg) : Statement (.vcfgi e g v d) :=
  ofWord (word 0x200500B [(e.toNat, 28), (g.toNat, 26), (v.toNat, 15), (d.toNat, 7)]) rfl (by simp only [word]; omega)
theorem vmvx (e : BitVec 4) (b : Reg) (a : Reg) (d : Reg) : Statement (.vmvx e b a d) :=
  ofWord (word 0x600B [(e.toNat, 28), (b.toNat, 20), (a.toNat, 15), (d.toNat, 7)]) rfl (by simp only [word]; omega)
theorem vmvs (e : BitVec 4) (b : Reg) (a : Reg) (d : Reg) : Statement (.vmvs e b a d) :=
  ofWord (word 0x200600B [(e.toNat, 28), (b.toNat, 20), (a.toNat, 15), (d.toNat, 7)]) rfl (by simp only [word]; omega)
theorem ldsRlx (s : BitVec 3) (z : BitVec 2) (b : Reg) (d : Reg) : Statement (.ldsRlx s z b d) :=
  ofWord (word 0x2B [(s.toNat, 29), (z.toNat, 20), (b.toNat, 15), (d.toNat, 7)]) rfl (by simp only [word]; omega)
theorem ldsAcq (s : BitVec 3) (z : BitVec 2) (b : Reg) (d : Reg) : Statement (.ldsAcq s z b d) :=
  ofWord (word 0x200002B [(s.toNat, 29), (z.toNat, 20), (b.toNat, 15), (d.toNat, 7)]) rfl (by simp only [word]; omega)
theorem stsRlx (s : BitVec 3) (v : Reg) (b : Reg) (z : BitVec 2) : Statement (.stsRlx s v b z) :=
  ofWord (word 0x800002B [(s.toNat, 29), (v.toNat, 20), (b.toNat, 15), (z.toNat, 7)]) rfl (by simp only [word]; omega)
theorem stsRel (s : BitVec 3) (v : Reg) (b : Reg) (z : BitVec 2) : Statement (.stsRel s v b z) :=
  ofWord (word 0xC00002B [(s.toNat, 29), (v.toNat, 20), (b.toNat, 15), (z.toNat, 7)]) rfl (by simp only [word]; omega)
theorem fenceSAcq (s : BitVec 3) : Statement (.fenceSAcq s) :=
  ofWord (word 0x1200002B [(s.toNat, 29)]) rfl (by simp only [word]; omega)
theorem fenceSRel (s : BitVec 3) : Statement (.fenceSRel s) :=
  ofWord (word 0x1400002B [(s.toNat, 29)]) rfl (by simp only [word]; omega)
theorem fenceSAr (s : BitVec 3) : Statement (.fenceSAr s) :=
  ofWord (word 0x1600002B [(s.toNat, 29)]) rfl (by simp only [word]; omega)
theorem bind (c : Reg) (b : Reg) (a : Reg) : Statement (.bind c b a) :=
  ofWord (word 0x102B [(c.toNat, 20), (b.toNat, 15), (a.toNat, 7)]) rfl (by simp only [word]; omega)
theorem unbind (b : Reg) (a : Reg) : Statement (.unbind b a) :=
  ofWord (word 0x200102B [(b.toNat, 15), (a.toNat, 7)]) rfl (by simp only [word]; omega)
theorem acq (s : BitVec 3) (b : Reg) : Statement (.acq s b) :=
  ofWord (word 0x400102B [(s.toNat, 29), (b.toNat, 15)]) rfl (by simp only [word]; omega)
theorem tryacq (s : BitVec 3) (b : Reg) (d : Reg) : Statement (.tryacq s b d) :=
  ofWord (word 0x600102B [(s.toNat, 29), (b.toNat, 15), (d.toNat, 7)]) rfl (by simp only [word]; omega)
theorem rel (s : BitVec 3) (b : Reg) : Statement (.rel s b) :=
  ofWord (word 0x800102B [(s.toNat, 29), (b.toNat, 15)]) rfl (by simp only [word]; omega)
theorem arrive (s : BitVec 3) (b : Reg) : Statement (.arrive s b) :=
  ofWord (word 0xA00102B [(s.toNat, 29), (b.toNat, 15)]) rfl (by simp only [word]; omega)
theorem waitph (s : BitVec 3) (c : Reg) (b : Reg) : Statement (.waitph s c b) :=
  ofWord (word 0xC00102B [(s.toNat, 29), (c.toNat, 20), (b.toNat, 15)]) rfl (by simp only [word]; omega)
theorem testph (s : BitVec 3) (c : Reg) (b : Reg) (d : Reg) : Statement (.testph s c b d) :=
  ofWord (word 0xE00102B [(s.toNat, 29), (c.toNat, 20), (b.toNat, 15), (d.toNat, 7)]) rfl (by simp only [word]; omega)
theorem freeze (e : Bool) (s : BitVec 3) (c : Reg) (b : Reg) (a : Reg) : Statement (.freeze e s c b a) :=
  ofWord (word 0x202B [(bitNat e, 31), (s.toNat, 28), (c.toNat, 20), (b.toNat, 15), (a.toNat, 7)]) rfl (by have := bitNat_lt e; simp only [word]; omega)
theorem thaw (e : Bool) (s : BitVec 3) (c : Reg) (b : Reg) (a : Reg) : Statement (.thaw e s c b a) :=
  ofWord (word 0x200202B [(bitNat e, 31), (s.toNat, 28), (c.toNat, 20), (b.toNat, 15), (a.toNat, 7)]) rfl (by have := bitNat_lt e; simp only [word]; omega)
theorem cpy (e : Bool) (s : BitVec 3) (c : Reg) (b : Reg) (u : Bool) (q : Bool) (h : BitVec 3) : Statement (.cpy e s c b u q h) :=
  ofWord (word 0x400202B [(bitNat e, 31), (s.toNat, 28), (c.toNat, 20), (b.toNat, 15), (bitNat u, 11), (bitNat q, 10), (h.toNat, 7)]) rfl (by have := bitNat_lt e; have := bitNat_lt u; have := bitNat_lt q; simp only [word]; omega)
theorem cpyb (e : Bool) (s : BitVec 3) (c : Reg) (b : Reg) (u : Bool) (q : Bool) (h : BitVec 3) : Statement (.cpyb e s c b u q h) :=
  ofWord (word 0x600202B [(bitNat e, 31), (s.toNat, 28), (c.toNat, 20), (b.toNat, 15), (bitNat u, 11), (bitNat q, 10), (h.toNat, 7)]) rfl (by have := bitNat_lt e; have := bitNat_lt u; have := bitNat_lt q; simp only [word]; omega)
theorem shpld (b : Reg) (h : BitVec 3) : Statement (.shpld b h) :=
  ofWord (word 0x800202B [(b.toNat, 15), (h.toNat, 7)]) rfl (by simp only [word]; omega)
theorem shpst (b : Reg) (h : BitVec 3) : Statement (.shpst b h) :=
  ofWord (word 0xA00202B [(b.toNat, 15), (h.toNat, 7)]) rfl (by simp only [word]; omega)
theorem talloc (e : BitVec 4) (p : Bool) (k : Bool) (c : Reg) (b : Reg) (d : Reg) : Statement (.talloc e p k c b d) :=
  ofWord (word 0x402B [(e.toNat, 28), (bitNat p, 26), (bitNat k, 25), (c.toNat, 20), (b.toNat, 15), (d.toNat, 7)]) rfl (by have := bitNat_lt p; have := bitNat_lt k; simp only [word]; omega)
theorem tallocZ (e : BitVec 4) (p : Bool) (k : Bool) (c : Reg) (b : Reg) (d : Reg) : Statement (.tallocZ e p k c b d) :=
  ofWord (word 0x800402B [(e.toNat, 28), (bitNat p, 26), (bitNat k, 25), (c.toNat, 20), (b.toNat, 15), (d.toNat, 7)]) rfl (by have := bitNat_lt p; have := bitNat_lt k; simp only [word]; omega)
theorem tfree (b : Reg) : Statement (.tfree b) :=
  ofWord (word 0x502B [(b.toNat, 15)]) rfl (by simp only [word]; omega)
theorem tld (e : BitVec 4) (c : Reg) (b : Reg) (d : Reg) : Statement (.tld e c b d) :=
  ofWord (word 0x200502B [(e.toNat, 28), (c.toNat, 20), (b.toNat, 15), (d.toNat, 7)]) rfl (by simp only [word]; omega)
theorem tst (e : BitVec 4) (c : Reg) (b : Reg) (a : Reg) : Statement (.tst e c b a) :=
  ofWord (word 0x400502B [(e.toNat, 28), (c.toNat, 20), (b.toNat, 15), (a.toNat, 7)]) rfl (by simp only [word]; omega)
theorem gld (e : Bool) (s : BitVec 3) (c : Reg) (b : Reg) (a : Reg) : Statement (.gld e s c b a) :=
  ofWord (word 0x302B [(bitNat e, 31), (s.toNat, 28), (c.toNat, 20), (b.toNat, 15), (a.toNat, 7)]) rfl (by have := bitNat_lt e; simp only [word]; omega)
theorem gldv (e : Bool) (s : BitVec 3) (c : Reg) (b : Reg) (a : Reg) : Statement (.gldv e s c b a) :=
  ofWord (word 0x200302B [(bitNat e, 31), (s.toNat, 28), (c.toNat, 20), (b.toNat, 15), (a.toNat, 7)]) rfl (by have := bitNat_lt e; simp only [word]; omega)
theorem gjoin (c : Reg) (b : Reg) (d : Reg) : Statement (.gjoin c b d) :=
  ofWord (word 0x400302B [(c.toNat, 20), (b.toNat, 15), (d.toNat, 7)]) rfl (by simp only [word]; omega)
theorem gleave (b : Reg) : Statement (.gleave b) :=
  ofWord (word 0x600302B [(b.toNat, 15)]) rfl (by simp only [word]; omega)
theorem vaddVv (p : BitVec 3) (e : BitVec 3) (s : Reg) (d : Reg) : Statement (.vaddVv p e s d) :=
  ofWord (word 0x5B [(p.toNat, 24), (e.toNat, 20), (s.toNat, 15), (d.toNat, 7)]) rfl (by simp only [word]; omega)
theorem vaddVs (p : BitVec 3) (e : BitVec 3) (s : Reg) (d : Reg) : Statement (.vaddVs p e s d) :=
  ofWord (word 0x105B [(p.toNat, 24), (e.toNat, 20), (s.toNat, 15), (d.toNat, 7)]) rfl (by simp only [word]; omega)
theorem vaddVi (p : BitVec 3) (e : BitVec 3) (i : Reg) (d : Reg) : Statement (.vaddVi p e i d) :=
  ofWord (word 0x205B [(p.toNat, 24), (e.toNat, 20), (i.toNat, 15), (d.toNat, 7)]) rfl (by simp only [word]; omega)
theorem vfaddVv (p : BitVec 3) (e : BitVec 2) (s : Reg) (d : Reg) : Statement (.vfaddVv p e s d) :=
  ofWord (word 0x80005B [(p.toNat, 24), (e.toNat, 20), (s.toNat, 15), (d.toNat, 7)]) rfl (by simp only [word]; omega)
theorem vfaddVs (p : BitVec 3) (e : BitVec 2) (s : Reg) (d : Reg) : Statement (.vfaddVs p e s d) :=
  ofWord (word 0x80105B [(p.toNat, 24), (e.toNat, 20), (s.toNat, 15), (d.toNat, 7)]) rfl (by simp only [word]; omega)
theorem vsubVv (p : BitVec 3) (e : BitVec 3) (s : Reg) (d : Reg) : Statement (.vsubVv p e s d) :=
  ofWord (word 0x800005B [(p.toNat, 24), (e.toNat, 20), (s.toNat, 15), (d.toNat, 7)]) rfl (by simp only [word]; omega)
theorem vsubVs (p : BitVec 3) (e : BitVec 3) (s : Reg) (d : Reg) : Statement (.vsubVs p e s d) :=
  ofWord (word 0x800105B [(p.toNat, 24), (e.toNat, 20), (s.toNat, 15), (d.toNat, 7)]) rfl (by simp only [word]; omega)
theorem vfsubVv (p : BitVec 3) (e : BitVec 2) (s : Reg) (d : Reg) : Statement (.vfsubVv p e s d) :=
  ofWord (word 0x880005B [(p.toNat, 24), (e.toNat, 20), (s.toNat, 15), (d.toNat, 7)]) rfl (by simp only [word]; omega)
theorem vfsubVs (p : BitVec 3) (e : BitVec 2) (s : Reg) (d : Reg) : Statement (.vfsubVs p e s d) :=
  ofWord (word 0x880105B [(p.toNat, 24), (e.toNat, 20), (s.toNat, 15), (d.toNat, 7)]) rfl (by simp only [word]; omega)
theorem vrsubVs (p : BitVec 3) (e : BitVec 3) (s : Reg) (d : Reg) : Statement (.vrsubVs p e s d) :=
  ofWord (word 0x1000105B [(p.toNat, 24), (e.toNat, 20), (s.toNat, 15), (d.toNat, 7)]) rfl (by simp only [word]; omega)
theorem vrsubVi (p : BitVec 3) (e : BitVec 3) (i : Reg) (d : Reg) : Statement (.vrsubVi p e i d) :=
  ofWord (word 0x1000205B [(p.toNat, 24), (e.toNat, 20), (i.toNat, 15), (d.toNat, 7)]) rfl (by simp only [word]; omega)
theorem vmulVv (p : BitVec 3) (e : BitVec 3) (s : Reg) (d : Reg) : Statement (.vmulVv p e s d) :=
  ofWord (word 0x1800005B [(p.toNat, 24), (e.toNat, 20), (s.toNat, 15), (d.toNat, 7)]) rfl (by simp only [word]; omega)
theorem vmulVs (p : BitVec 3) (e : BitVec 3) (s : Reg) (d : Reg) : Statement (.vmulVs p e s d) :=
  ofWord (word 0x1800105B [(p.toNat, 24), (e.toNat, 20), (s.toNat, 15), (d.toNat, 7)]) rfl (by simp only [word]; omega)
theorem vfmulVv (p : BitVec 3) (e : BitVec 2) (s : Reg) (d : Reg) : Statement (.vfmulVv p e s d) :=
  ofWord (word 0x1880005B [(p.toNat, 24), (e.toNat, 20), (s.toNat, 15), (d.toNat, 7)]) rfl (by simp only [word]; omega)
theorem vfmulVs (p : BitVec 3) (e : BitVec 2) (s : Reg) (d : Reg) : Statement (.vfmulVs p e s d) :=
  ofWord (word 0x1880105B [(p.toNat, 24), (e.toNat, 20), (s.toNat, 15), (d.toNat, 7)]) rfl (by simp only [word]; omega)
theorem vmulhVv (p : BitVec 3) (e : BitVec 3) (s : Reg) (d : Reg) : Statement (.vmulhVv p e s d) :=
  ofWord (word 0x2000005B [(p.toNat, 24), (e.toNat, 20), (s.toNat, 15), (d.toNat, 7)]) rfl (by simp only [word]; omega)
theorem vmulhVs (p : BitVec 3) (e : BitVec 3) (s : Reg) (d : Reg) : Statement (.vmulhVs p e s d) :=
  ofWord (word 0x2000105B [(p.toNat, 24), (e.toNat, 20), (s.toNat, 15), (d.toNat, 7)]) rfl (by simp only [word]; omega)
theorem vmulhnVv (p : BitVec 3) (e : BitVec 3) (s : Reg) (d : Reg) : Statement (.vmulhnVv p e s d) :=
  ofWord (word 0x2800005B [(p.toNat, 24), (e.toNat, 20), (s.toNat, 15), (d.toNat, 7)]) rfl (by simp only [word]; omega)
theorem vmulhnVs (p : BitVec 3) (e : BitVec 3) (s : Reg) (d : Reg) : Statement (.vmulhnVs p e s d) :=
  ofWord (word 0x2800105B [(p.toNat, 24), (e.toNat, 20), (s.toNat, 15), (d.toNat, 7)]) rfl (by simp only [word]; omega)
theorem vaddsVv (p : BitVec 3) (e : BitVec 3) (s : Reg) (d : Reg) : Statement (.vaddsVv p e s d) :=
  ofWord (word 0x3000005B [(p.toNat, 24), (e.toNat, 20), (s.toNat, 15), (d.toNat, 7)]) rfl (by simp only [word]; omega)
theorem vaddsVs (p : BitVec 3) (e : BitVec 3) (s : Reg) (d : Reg) : Statement (.vaddsVs p e s d) :=
  ofWord (word 0x3000105B [(p.toNat, 24), (e.toNat, 20), (s.toNat, 15), (d.toNat, 7)]) rfl (by simp only [word]; omega)
theorem vaddsVi (p : BitVec 3) (e : BitVec 3) (i : Reg) (d : Reg) : Statement (.vaddsVi p e i d) :=
  ofWord (word 0x3000205B [(p.toNat, 24), (e.toNat, 20), (i.toNat, 15), (d.toNat, 7)]) rfl (by simp only [word]; omega)
theorem vsubsVv (p : BitVec 3) (e : BitVec 3) (s : Reg) (d : Reg) : Statement (.vsubsVv p e s d) :=
  ofWord (word 0x3800005B [(p.toNat, 24), (e.toNat, 20), (s.toNat, 15), (d.toNat, 7)]) rfl (by simp only [word]; omega)
theorem vsubsVs (p : BitVec 3) (e : BitVec 3) (s : Reg) (d : Reg) : Statement (.vsubsVs p e s d) :=
  ofWord (word 0x3800105B [(p.toNat, 24), (e.toNat, 20), (s.toNat, 15), (d.toNat, 7)]) rfl (by simp only [word]; omega)
theorem vminVv (p : BitVec 3) (e : BitVec 3) (s : Reg) (d : Reg) : Statement (.vminVv p e s d) :=
  ofWord (word 0x4000005B [(p.toNat, 24), (e.toNat, 20), (s.toNat, 15), (d.toNat, 7)]) rfl (by simp only [word]; omega)
theorem vminVs (p : BitVec 3) (e : BitVec 3) (s : Reg) (d : Reg) : Statement (.vminVs p e s d) :=
  ofWord (word 0x4000105B [(p.toNat, 24), (e.toNat, 20), (s.toNat, 15), (d.toNat, 7)]) rfl (by simp only [word]; omega)
theorem vfminVv (p : BitVec 3) (e : BitVec 2) (s : Reg) (d : Reg) : Statement (.vfminVv p e s d) :=
  ofWord (word 0x4080005B [(p.toNat, 24), (e.toNat, 20), (s.toNat, 15), (d.toNat, 7)]) rfl (by simp only [word]; omega)
theorem vfminVs (p : BitVec 3) (e : BitVec 2) (s : Reg) (d : Reg) : Statement (.vfminVs p e s d) :=
  ofWord (word 0x4080105B [(p.toNat, 24), (e.toNat, 20), (s.toNat, 15), (d.toNat, 7)]) rfl (by simp only [word]; omega)
theorem vmaxVv (p : BitVec 3) (e : BitVec 3) (s : Reg) (d : Reg) : Statement (.vmaxVv p e s d) :=
  ofWord (word 0x4800005B [(p.toNat, 24), (e.toNat, 20), (s.toNat, 15), (d.toNat, 7)]) rfl (by simp only [word]; omega)
theorem vmaxVs (p : BitVec 3) (e : BitVec 3) (s : Reg) (d : Reg) : Statement (.vmaxVs p e s d) :=
  ofWord (word 0x4800105B [(p.toNat, 24), (e.toNat, 20), (s.toNat, 15), (d.toNat, 7)]) rfl (by simp only [word]; omega)
theorem vfmaxVv (p : BitVec 3) (e : BitVec 2) (s : Reg) (d : Reg) : Statement (.vfmaxVv p e s d) :=
  ofWord (word 0x4880005B [(p.toNat, 24), (e.toNat, 20), (s.toNat, 15), (d.toNat, 7)]) rfl (by simp only [word]; omega)
theorem vfmaxVs (p : BitVec 3) (e : BitVec 2) (s : Reg) (d : Reg) : Statement (.vfmaxVs p e s d) :=
  ofWord (word 0x4880105B [(p.toNat, 24), (e.toNat, 20), (s.toNat, 15), (d.toNat, 7)]) rfl (by simp only [word]; omega)
theorem vandVv (p : BitVec 3) (e : BitVec 3) (s : Reg) (d : Reg) : Statement (.vandVv p e s d) :=
  ofWord (word 0x5000005B [(p.toNat, 24), (e.toNat, 20), (s.toNat, 15), (d.toNat, 7)]) rfl (by simp only [word]; omega)
theorem vandVs (p : BitVec 3) (e : BitVec 3) (s : Reg) (d : Reg) : Statement (.vandVs p e s d) :=
  ofWord (word 0x5000105B [(p.toNat, 24), (e.toNat, 20), (s.toNat, 15), (d.toNat, 7)]) rfl (by simp only [word]; omega)
theorem vandVi (p : BitVec 3) (e : BitVec 3) (i : Reg) (d : Reg) : Statement (.vandVi p e i d) :=
  ofWord (word 0x5000205B [(p.toNat, 24), (e.toNat, 20), (i.toNat, 15), (d.toNat, 7)]) rfl (by simp only [word]; omega)
theorem vorVv (p : BitVec 3) (e : BitVec 3) (s : Reg) (d : Reg) : Statement (.vorVv p e s d) :=
  ofWord (word 0x5800005B [(p.toNat, 24), (e.toNat, 20), (s.toNat, 15), (d.toNat, 7)]) rfl (by simp only [word]; omega)
theorem vorVs (p : BitVec 3) (e : BitVec 3) (s : Reg) (d : Reg) : Statement (.vorVs p e s d) :=
  ofWord (word 0x5800105B [(p.toNat, 24), (e.toNat, 20), (s.toNat, 15), (d.toNat, 7)]) rfl (by simp only [word]; omega)
theorem vorVi (p : BitVec 3) (e : BitVec 3) (i : Reg) (d : Reg) : Statement (.vorVi p e i d) :=
  ofWord (word 0x5800205B [(p.toNat, 24), (e.toNat, 20), (i.toNat, 15), (d.toNat, 7)]) rfl (by simp only [word]; omega)
theorem vxorVv (p : BitVec 3) (e : BitVec 3) (s : Reg) (d : Reg) : Statement (.vxorVv p e s d) :=
  ofWord (word 0x6000005B [(p.toNat, 24), (e.toNat, 20), (s.toNat, 15), (d.toNat, 7)]) rfl (by simp only [word]; omega)
theorem vxorVs (p : BitVec 3) (e : BitVec 3) (s : Reg) (d : Reg) : Statement (.vxorVs p e s d) :=
  ofWord (word 0x6000105B [(p.toNat, 24), (e.toNat, 20), (s.toNat, 15), (d.toNat, 7)]) rfl (by simp only [word]; omega)
theorem vxorVi (p : BitVec 3) (e : BitVec 3) (i : Reg) (d : Reg) : Statement (.vxorVi p e i d) :=
  ofWord (word 0x6000205B [(p.toNat, 24), (e.toNat, 20), (i.toNat, 15), (d.toNat, 7)]) rfl (by simp only [word]; omega)
theorem vsllVv (p : BitVec 3) (e : BitVec 3) (s : Reg) (d : Reg) : Statement (.vsllVv p e s d) :=
  ofWord (word 0x6800005B [(p.toNat, 24), (e.toNat, 20), (s.toNat, 15), (d.toNat, 7)]) rfl (by simp only [word]; omega)
theorem vsllVs (p : BitVec 3) (e : BitVec 3) (s : Reg) (d : Reg) : Statement (.vsllVs p e s d) :=
  ofWord (word 0x6800105B [(p.toNat, 24), (e.toNat, 20), (s.toNat, 15), (d.toNat, 7)]) rfl (by simp only [word]; omega)
theorem vsllVi (p : BitVec 3) (e : BitVec 3) (i : Reg) (d : Reg) : Statement (.vsllVi p e i d) :=
  ofWord (word 0x6800205B [(p.toNat, 24), (e.toNat, 20), (i.toNat, 15), (d.toNat, 7)]) rfl (by simp only [word]; omega)
theorem vsrlVv (p : BitVec 3) (e : BitVec 3) (s : Reg) (d : Reg) : Statement (.vsrlVv p e s d) :=
  ofWord (word 0x7000005B [(p.toNat, 24), (e.toNat, 20), (s.toNat, 15), (d.toNat, 7)]) rfl (by simp only [word]; omega)
theorem vsrlVs (p : BitVec 3) (e : BitVec 3) (s : Reg) (d : Reg) : Statement (.vsrlVs p e s d) :=
  ofWord (word 0x7000105B [(p.toNat, 24), (e.toNat, 20), (s.toNat, 15), (d.toNat, 7)]) rfl (by simp only [word]; omega)
theorem vsrlVi (p : BitVec 3) (e : BitVec 3) (i : Reg) (d : Reg) : Statement (.vsrlVi p e i d) :=
  ofWord (word 0x7000205B [(p.toNat, 24), (e.toNat, 20), (i.toNat, 15), (d.toNat, 7)]) rfl (by simp only [word]; omega)
theorem vsraVv (p : BitVec 3) (e : BitVec 3) (s : Reg) (d : Reg) : Statement (.vsraVv p e s d) :=
  ofWord (word 0x7800005B [(p.toNat, 24), (e.toNat, 20), (s.toNat, 15), (d.toNat, 7)]) rfl (by simp only [word]; omega)
theorem vsraVs (p : BitVec 3) (e : BitVec 3) (s : Reg) (d : Reg) : Statement (.vsraVs p e s d) :=
  ofWord (word 0x7800105B [(p.toNat, 24), (e.toNat, 20), (s.toNat, 15), (d.toNat, 7)]) rfl (by simp only [word]; omega)
theorem vsraVi (p : BitVec 3) (e : BitVec 3) (i : Reg) (d : Reg) : Statement (.vsraVi p e i d) :=
  ofWord (word 0x7800205B [(p.toNat, 24), (e.toNat, 20), (i.toNat, 15), (d.toNat, 7)]) rfl (by simp only [word]; omega)
theorem vfdivVv (p : BitVec 3) (e : BitVec 2) (s : Reg) (d : Reg) : Statement (.vfdivVv p e s d) :=
  ofWord (word 0x8080005B [(p.toNat, 24), (e.toNat, 20), (s.toNat, 15), (d.toNat, 7)]) rfl (by simp only [word]; omega)
theorem vfdivVs (p : BitVec 3) (e : BitVec 2) (s : Reg) (d : Reg) : Statement (.vfdivVs p e s d) :=
  ofWord (word 0x8080105B [(p.toNat, 24), (e.toNat, 20), (s.toNat, 15), (d.toNat, 7)]) rfl (by simp only [word]; omega)
theorem vselVv (p : BitVec 3) (e : BitVec 4) (s : Reg) (d : Reg) : Statement (.vselVv p e s d) :=
  ofWord (word 0x8800005B [(p.toNat, 24), (e.toNat, 20), (s.toNat, 15), (d.toNat, 7)]) rfl (by simp only [word]; omega)
theorem vselVs (p : BitVec 3) (e : BitVec 4) (s : Reg) (d : Reg) : Statement (.vselVs p e s d) :=
  ofWord (word 0x8800105B [(p.toNat, 24), (e.toNat, 20), (s.toNat, 15), (d.toNat, 7)]) rfl (by simp only [word]; omega)
theorem vselVi (p : BitVec 3) (e : BitVec 4) (i : Reg) (d : Reg) : Statement (.vselVi p e i d) :=
  ofWord (word 0x8800205B [(p.toNat, 24), (e.toNat, 20), (i.toNat, 15), (d.toNat, 7)]) rfl (by simp only [word]; omega)
theorem vcmpVv (c : BitVec 3) (p : BitVec 3) (e : BitVec 3) (s : Reg) (d : Reg) : Statement (.vcmpVv c p e s d) :=
  ofWord (word 0x8000005B [(c.toNat, 27), (p.toNat, 24), (e.toNat, 20), (s.toNat, 15), (d.toNat, 7)]) rfl (by simp only [word]; omega)
theorem vcmpVs (c : BitVec 3) (p : BitVec 3) (e : BitVec 3) (s : Reg) (d : Reg) : Statement (.vcmpVs c p e s d) :=
  ofWord (word 0x8000105B [(c.toNat, 27), (p.toNat, 24), (e.toNat, 20), (s.toNat, 15), (d.toNat, 7)]) rfl (by simp only [word]; omega)
theorem vcmpVi (c : BitVec 3) (p : BitVec 3) (e : BitVec 3) (i : Reg) (d : Reg) : Statement (.vcmpVi c p e i d) :=
  ofWord (word 0x8000205B [(c.toNat, 27), (p.toNat, 24), (e.toNat, 20), (i.toNat, 15), (d.toNat, 7)]) rfl (by simp only [word]; omega)
theorem vfcmpVv (c : BitVec 3) (p : BitVec 3) (e : BitVec 2) (s : Reg) (d : Reg) : Statement (.vfcmpVv c p e s d) :=
  ofWord (word 0x8080005B [(c.toNat, 27), (p.toNat, 24), (e.toNat, 20), (s.toNat, 15), (d.toNat, 7)]) rfl (by simp only [word]; omega)
theorem vfcmpVs (c : BitVec 3) (p : BitVec 3) (e : BitVec 2) (s : Reg) (d : Reg) : Statement (.vfcmpVs c p e s d) :=
  ofWord (word 0x8080105B [(c.toNat, 27), (p.toNat, 24), (e.toNat, 20), (s.toNat, 15), (d.toNat, 7)]) rfl (by simp only [word]; omega)
theorem vperm (p : BitVec 3) (e : BitVec 4) (s : Reg) (d : Reg) : Statement (.vperm p e s d) :=
  ofWord (word 0xC000005B [(p.toNat, 24), (e.toNat, 20), (s.toNat, 15), (d.toNat, 7)]) rfl (by simp only [word]; omega)
theorem vslupVs (p : BitVec 3) (e : BitVec 4) (s : Reg) (d : Reg) : Statement (.vslupVs p e s d) :=
  ofWord (word 0xC800105B [(p.toNat, 24), (e.toNat, 20), (s.toNat, 15), (d.toNat, 7)]) rfl (by simp only [word]; omega)
theorem vslupVi (p : BitVec 3) (e : BitVec 4) (i : Reg) (d : Reg) : Statement (.vslupVi p e i d) :=
  ofWord (word 0xC800205B [(p.toNat, 24), (e.toNat, 20), (i.toNat, 15), (d.toNat, 7)]) rfl (by simp only [word]; omega)
theorem vsldnVs (p : BitVec 3) (e : BitVec 4) (s : Reg) (d : Reg) : Statement (.vsldnVs p e s d) :=
  ofWord (word 0xD000105B [(p.toNat, 24), (e.toNat, 20), (s.toNat, 15), (d.toNat, 7)]) rfl (by simp only [word]; omega)
theorem vsldnVi (p : BitVec 3) (e : BitVec 4) (i : Reg) (d : Reg) : Statement (.vsldnVi p e i d) :=
  ofWord (word 0xD000205B [(p.toNat, 24), (e.toNat, 20), (i.toNat, 15), (d.toNat, 7)]) rfl (by simp only [word]; omega)
theorem vsl1up (p : BitVec 3) (e : BitVec 4) (s : Reg) (d : Reg) : Statement (.vsl1up p e s d) :=
  ofWord (word 0xD800105B [(p.toNat, 24), (e.toNat, 20), (s.toNat, 15), (d.toNat, 7)]) rfl (by simp only [word]; omega)
theorem vxchg (p : BitVec 3) (e : BitVec 4) (i : Reg) (d : Reg) : Statement (.vxchg p e i d) :=
  ofWord (word 0xE000205B [(p.toNat, 24), (e.toNat, 20), (i.toNat, 15), (d.toNat, 7)]) rfl (by simp only [word]; omega)
theorem vscale (p : BitVec 3) (e : BitVec 2) (s : Reg) (d : Reg) : Statement (.vscale p e s d) :=
  ofWord (word 0xE880005B [(p.toNat, 24), (e.toNat, 20), (s.toNat, 15), (d.toNat, 7)]) rfl (by simp only [word]; omega)
theorem vmac (b : Reg) (p : BitVec 3) (e : BitVec 3) (a : Reg) (d : Reg) : Statement (.vmac b p e a d) :=
  ofWord (word 0x305B [(b.toNat, 27), (p.toNat, 24), (e.toNat, 20), (a.toNat, 15), (d.toNat, 7)]) rfl (by simp only [word]; omega)
theorem vffma (b : Reg) (p : BitVec 3) (e : BitVec 2) (a : Reg) (d : Reg) : Statement (.vffma b p e a d) :=
  ofWord (word 0x80305B [(b.toNat, 27), (p.toNat, 24), (e.toNat, 20), (a.toNat, 15), (d.toNat, 7)]) rfl (by simp only [word]; omega)
theorem vwmac (b : Reg) (p : BitVec 3) (e : BitVec 3) (a : Reg) (d : Reg) : Statement (.vwmac b p e a d) :=
  ofWord (word 0x405B [(b.toNat, 27), (p.toNat, 24), (e.toNat, 20), (a.toNat, 15), (d.toNat, 7)]) rfl (by simp only [word]; omega)
theorem vffms (b : Reg) (p : BitVec 3) (e : BitVec 2) (a : Reg) (d : Reg) : Statement (.vffms b p e a d) :=
  ofWord (word 0x80405B [(b.toNat, 27), (p.toNat, 24), (e.toNat, 20), (a.toNat, 15), (d.toNat, 7)]) rfl (by simp only [word]; omega)
theorem vwmul (b : Reg) (p : BitVec 3) (e : BitVec 3) (a : Reg) (d : Reg) : Statement (.vwmul b p e a d) :=
  ofWord (word 0x505B [(b.toNat, 27), (p.toNat, 24), (e.toNat, 20), (a.toNat, 15), (d.toNat, 7)]) rfl (by simp only [word]; omega)
theorem vfnfma (b : Reg) (p : BitVec 3) (e : BitVec 2) (a : Reg) (d : Reg) : Statement (.vfnfma b p e a d) :=
  ofWord (word 0x80505B [(b.toNat, 27), (p.toNat, 24), (e.toNat, 20), (a.toNat, 15), (d.toNat, 7)]) rfl (by simp only [word]; omega)
theorem vcvt (f : BitVec 4) (p : BitVec 3) (e : BitVec 4) (s : Reg) (d : Reg) : Statement (.vcvt f p e s d) :=
  ofWord (word 0x605B [(f.toNat, 27), (p.toNat, 24), (e.toNat, 20), (s.toNat, 15), (d.toNat, 7)]) rfl (by simp only [word]; omega)
theorem vcvtSr (f : BitVec 4) (p : BitVec 3) (e : BitVec 4) (s : Reg) (d : Reg) : Statement (.vcvtSr f p e s d) :=
  ofWord (word 0x8000605B [(f.toNat, 27), (p.toNat, 24), (e.toNat, 20), (s.toNat, 15), (d.toNat, 7)]) rfl (by simp only [word]; omega)
theorem vmv (p : BitVec 3) (e : BitVec 4) (s : Reg) (d : Reg) : Statement (.vmv p e s d) :=
  ofWord (word 0x705B [(p.toNat, 24), (e.toNat, 20), (s.toNat, 15), (d.toNat, 7)]) rfl (by simp only [word]; omega)
theorem vmvScalar (p : BitVec 3) (e : BitVec 4) (s : Reg) (d : Reg) : Statement (.vmvScalar p e s d) :=
  ofWord (word 0x800705B [(p.toNat, 24), (e.toNat, 20), (s.toNat, 15), (d.toNat, 7)]) rfl (by simp only [word]; omega)
theorem vtake (p : BitVec 3) (e : BitVec 4) (s : Reg) (d : Reg) : Statement (.vtake p e s d) :=
  ofWord (word 0x1000705B [(p.toNat, 24), (e.toNat, 20), (s.toNat, 15), (d.toNat, 7)]) rfl (by simp only [word]; omega)
theorem vcompress (p : BitVec 3) (e : BitVec 4) (s : Reg) (d : Reg) : Statement (.vcompress p e s d) :=
  ofWord (word 0x1800705B [(p.toNat, 24), (e.toNat, 20), (s.toNat, 15), (d.toNat, 7)]) rfl (by simp only [word]; omega)
theorem vclz (p : BitVec 3) (e : BitVec 3) (s : Reg) (d : Reg) : Statement (.vclz p e s d) :=
  ofWord (word 0x2000705B [(p.toNat, 24), (e.toNat, 20), (s.toNat, 15), (d.toNat, 7)]) rfl (by simp only [word]; omega)
theorem vfabs (p : BitVec 3) (e : BitVec 2) (s : Reg) (d : Reg) : Statement (.vfabs p e s d) :=
  ofWord (word 0x2080705B [(p.toNat, 24), (e.toNat, 20), (s.toNat, 15), (d.toNat, 7)]) rfl (by simp only [word]; omega)
theorem vpopc (p : BitVec 3) (e : BitVec 3) (s : Reg) (d : Reg) : Statement (.vpopc p e s d) :=
  ofWord (word 0x2800705B [(p.toNat, 24), (e.toNat, 20), (s.toNat, 15), (d.toNat, 7)]) rfl (by simp only [word]; omega)
theorem vfneg (p : BitVec 3) (e : BitVec 2) (s : Reg) (d : Reg) : Statement (.vfneg p e s d) :=
  ofWord (word 0x2880705B [(p.toNat, 24), (e.toNat, 20), (s.toNat, 15), (d.toNat, 7)]) rfl (by simp only [word]; omega)
theorem vfsqrt (p : BitVec 3) (e : BitVec 2) (s : Reg) (d : Reg) : Statement (.vfsqrt p e s d) :=
  ofWord (word 0x3080705B [(p.toNat, 24), (e.toNat, 20), (s.toNat, 15), (d.toNat, 7)]) rfl (by simp only [word]; omega)
theorem vfclass (p : BitVec 3) (e : BitVec 2) (s : Reg) (d : Reg) : Statement (.vfclass p e s d) :=
  ofWord (word 0x3880705B [(p.toNat, 24), (e.toNat, 20), (s.toNat, 15), (d.toNat, 7)]) rfl (by simp only [word]; omega)
theorem vrcp (p : BitVec 3) (s : Reg) (d : Reg) : Statement (.vrcp p s d) :=
  ofWord (word 0x40A0705B [(p.toNat, 24), (s.toNat, 15), (d.toNat, 7)]) rfl (by simp only [word]; omega)
theorem vrsqrt (p : BitVec 3) (s : Reg) (d : Reg) : Statement (.vrsqrt p s d) :=
  ofWord (word 0x48A0705B [(p.toNat, 24), (s.toNat, 15), (d.toNat, 7)]) rfl (by simp only [word]; omega)
theorem vexp2 (p : BitVec 3) (s : Reg) (d : Reg) : Statement (.vexp2 p s d) :=
  ofWord (word 0x50A0705B [(p.toNat, 24), (s.toNat, 15), (d.toNat, 7)]) rfl (by simp only [word]; omega)
theorem vlog2 (p : BitVec 3) (s : Reg) (d : Reg) : Statement (.vlog2 p s d) :=
  ofWord (word 0x58A0705B [(p.toNat, 24), (s.toNat, 15), (d.toNat, 7)]) rfl (by simp only [word]; omega)
theorem vsin (p : BitVec 3) (s : Reg) (d : Reg) : Statement (.vsin p s d) :=
  ofWord (word 0x60A0705B [(p.toNat, 24), (s.toNat, 15), (d.toNat, 7)]) rfl (by simp only [word]; omega)
theorem vcos (p : BitVec 3) (s : Reg) (d : Reg) : Statement (.vcos p s d) :=
  ofWord (word 0x68A0705B [(p.toNat, 24), (s.toNat, 15), (d.toNat, 7)]) rfl (by simp only [word]; omega)
theorem vredsum (p : BitVec 3) (e : BitVec 3) (s : Reg) (d : Reg) : Statement (.vredsum p e s d) :=
  ofWord (word 0x7000705B [(p.toNat, 24), (e.toNat, 20), (s.toNat, 15), (d.toNat, 7)]) rfl (by simp only [word]; omega)
theorem vfredsum (p : BitVec 3) (e : BitVec 2) (s : Reg) (d : Reg) : Statement (.vfredsum p e s d) :=
  ofWord (word 0x7080705B [(p.toNat, 24), (e.toNat, 20), (s.toNat, 15), (d.toNat, 7)]) rfl (by simp only [word]; omega)
theorem vredmin (p : BitVec 3) (e : BitVec 3) (s : Reg) (d : Reg) : Statement (.vredmin p e s d) :=
  ofWord (word 0x7800705B [(p.toNat, 24), (e.toNat, 20), (s.toNat, 15), (d.toNat, 7)]) rfl (by simp only [word]; omega)
theorem vredmax (p : BitVec 3) (e : BitVec 3) (s : Reg) (d : Reg) : Statement (.vredmax p e s d) :=
  ofWord (word 0x8000705B [(p.toNat, 24), (e.toNat, 20), (s.toNat, 15), (d.toNat, 7)]) rfl (by simp only [word]; omega)
theorem pand (p : BitVec 3) (b : BitVec 3) (a : BitVec 3) : Statement (.pand p b a) :=
  ofWord (word 0x8800705B [(p.toNat, 24), (b.toNat, 15), (a.toNat, 7)]) rfl (by simp only [word]; omega)
theorem por (p : BitVec 3) (b : BitVec 3) (a : BitVec 3) : Statement (.por p b a) :=
  ofWord (word 0x8810705B [(p.toNat, 24), (b.toNat, 15), (a.toNat, 7)]) rfl (by simp only [word]; omega)
theorem pxor (p : BitVec 3) (b : BitVec 3) (a : BitVec 3) : Statement (.pxor p b a) :=
  ofWord (word 0x8820705B [(p.toNat, 24), (b.toNat, 15), (a.toNat, 7)]) rfl (by simp only [word]; omega)
theorem pnot (p : BitVec 3) (a : BitVec 3) : Statement (.pnot p a) :=
  ofWord (word 0x8830705B [(p.toNat, 24), (a.toNat, 7)]) rfl (by simp only [word]; omega)
theorem pset (p : BitVec 3) (s : Reg) : Statement (.pset p s) :=
  ofWord (word 0x8840705B [(p.toNat, 24), (s.toNat, 15)]) rfl (by simp only [word]; omega)
theorem pfirst (b : BitVec 3) (d : Reg) : Statement (.pfirst b d) :=
  ofWord (word 0x8850705B [(b.toNat, 15), (d.toNat, 7)]) rfl (by simp only [word]; omega)
theorem pmskup (p : BitVec 3) (a : BitVec 3) : Statement (.pmskup p a) :=
  ofWord (word 0x8860705B [(p.toNat, 24), (a.toNat, 7)]) rfl (by simp only [word]; omega)
theorem pcnt (b : BitVec 3) (d : Reg) : Statement (.pcnt b d) :=
  ofWord (word 0x8870705B [(b.toNat, 15), (d.toNat, 7)]) rfl (by simp only [word]; omega)
theorem vedge (p : BitVec 3) (s : Reg) (d : Reg) : Statement (.vedge p s d) :=
  ofWord (word 0x9020705B [(p.toNat, 24), (s.toNat, 15), (d.toNat, 7)]) rfl (by simp only [word]; omega)
theorem vrbox (p : BitVec 3) (s : Reg) (d : Reg) : Statement (.vrbox p s d) :=
  ofWord (word 0x98A0705B [(p.toNat, 24), (s.toNat, 15), (d.toNat, 7)]) rfl (by simp only [word]; omega)
theorem vrtri (p : BitVec 3) (s : Reg) (d : Reg) : Statement (.vrtri p s d) :=
  ofWord (word 0xA0A0705B [(p.toNat, 24), (s.toNat, 15), (d.toNat, 7)]) rfl (by simp only [word]; omega)
theorem vtex (p : BitVec 3) (s : Reg) (d : Reg) : Statement (.vtex p s d) :=
  ofWord (word 0xA8A0705B [(p.toNat, 24), (s.toNat, 15), (d.toNat, 7)]) rfl (by simp only [word]; omega)
theorem vtexl (p : BitVec 3) (s : Reg) (d : Reg) : Statement (.vtexl p s d) :=
  ofWord (word 0xB0A0705B [(p.toNat, 24), (s.toNat, 15), (d.toNat, 7)]) rfl (by simp only [word]; omega)
theorem blendc (p : BitVec 3) (s : Reg) (d : Reg) : Statement (.blendc p s d) :=
  ofWord (word 0xB860705B [(p.toNat, 24), (s.toNat, 15), (d.toNat, 7)]) rfl (by simp only [word]; omega)
theorem vld (e : BitVec 4) (p : BitVec 3) (c : BitVec 2) (a : Reg) (d : Reg) : Statement (.vld e p c a d) :=
  ofWord (word 0x7B [(e.toNat, 27), (p.toNat, 24), (c.toNat, 22), (a.toNat, 15), (d.toNat, 7)]) rfl (by simp only [word]; omega)
theorem vst (e : BitVec 4) (p : BitVec 3) (c : BitVec 2) (a : Reg) (d : Reg) : Statement (.vst e p c a d) :=
  ofWord (word 0x10007B [(e.toNat, 27), (p.toNat, 24), (c.toNat, 22), (a.toNat, 15), (d.toNat, 7)]) rfl (by simp only [word]; omega)
theorem vldff (e : BitVec 4) (p : BitVec 3) (c : BitVec 2) (a : Reg) (d : Reg) : Statement (.vldff e p c a d) :=
  ofWord (word 0x20007B [(e.toNat, 27), (p.toNat, 24), (c.toNat, 22), (a.toNat, 15), (d.toNat, 7)]) rfl (by simp only [word]; omega)
theorem vldsr (w : BitVec 2) (h : BitVec 3) (p : BitVec 3) (c : BitVec 2) (a : Reg) (d : Reg) : Statement (.vldsr w h p c a d) :=
  ofWord (word 0x30007B [(w.toNat, 30), (h.toNat, 27), (p.toNat, 24), (c.toNat, 22), (a.toNat, 15), (d.toNat, 7)]) rfl (by simp only [word]; omega)
theorem vlds (s : Reg) (p : BitVec 3) (c : BitVec 2) (w : BitVec 2) (a : Reg) (d : Reg) : Statement (.vlds s p c w a d) :=
  ofWord (word 0x107B [(s.toNat, 27), (p.toNat, 24), (c.toNat, 22), (w.toNat, 20), (a.toNat, 15), (d.toNat, 7)]) rfl (by simp only [word]; omega)
theorem vsts (s : Reg) (p : BitVec 3) (c : BitVec 2) (w : BitVec 2) (a : Reg) (d : Reg) : Statement (.vsts s p c w a d) :=
  ofWord (word 0x207B [(s.toNat, 27), (p.toNat, 24), (c.toNat, 22), (w.toNat, 20), (a.toNat, 15), (d.toNat, 7)]) rfl (by simp only [word]; omega)
theorem vldx (s : Reg) (p : BitVec 3) (c : BitVec 2) (w : BitVec 2) (a : Reg) (d : Reg) : Statement (.vldx s p c w a d) :=
  ofWord (word 0x307B [(s.toNat, 27), (p.toNat, 24), (c.toNat, 22), (w.toNat, 20), (a.toNat, 15), (d.toNat, 7)]) rfl (by simp only [word]; omega)
theorem vstx (s : Reg) (p : BitVec 3) (c : BitVec 2) (w : BitVec 2) (a : Reg) (d : Reg) : Statement (.vstx s p c w a d) :=
  ofWord (word 0x407B [(s.toNat, 27), (p.toNat, 24), (c.toNat, 22), (w.toNat, 20), (a.toNat, 15), (d.toNat, 7)]) rfl (by simp only [word]; omega)
theorem vamoAdd (s : Reg) (p : BitVec 3) (w : BitVec 2) (a : Reg) (d : Reg) : Statement (.vamoAdd s p w a d) :=
  ofWord (word 0x507B [(s.toNat, 27), (p.toNat, 24), (w.toNat, 22), (a.toNat, 15), (d.toNat, 7)]) rfl (by simp only [word]; omega)
theorem vamoSwap (s : Reg) (p : BitVec 3) (w : BitVec 2) (a : Reg) (d : Reg) : Statement (.vamoSwap s p w a d) :=
  ofWord (word 0x10507B [(s.toNat, 27), (p.toNat, 24), (w.toNat, 22), (a.toNat, 15), (d.toNat, 7)]) rfl (by simp only [word]; omega)
theorem vamoMin (s : Reg) (p : BitVec 3) (w : BitVec 2) (a : Reg) (d : Reg) : Statement (.vamoMin s p w a d) :=
  ofWord (word 0x20507B [(s.toNat, 27), (p.toNat, 24), (w.toNat, 22), (a.toNat, 15), (d.toNat, 7)]) rfl (by simp only [word]; omega)
theorem vamoMax (s : Reg) (p : BitVec 3) (w : BitVec 2) (a : Reg) (d : Reg) : Statement (.vamoMax s p w a d) :=
  ofWord (word 0x30507B [(s.toNat, 27), (p.toNat, 24), (w.toNat, 22), (a.toNat, 15), (d.toNat, 7)]) rfl (by simp only [word]; omega)
theorem mrow (a : Reg) (u : Bool) (m : BitVec 2) (e : BitVec 4) (k : BitVec 2) (t : BitVec 2) (d : Reg) : Statement (.mrow a u m e k t d) :=
  ofWord (word 0x607B [(a.toNat, 27), (bitNat u, 26), (m.toNat, 24), (e.toNat, 20), (k.toNat, 18), (t.toNat, 16), (d.toNat, 7)]) rfl (by have := bitNat_lt u; simp only [word]; omega)
theorem msca (a : Reg) (e : Reg) (t : BitVec 2) (d : Reg) : Statement (.msca a e t d) :=
  ofWord (word 0xE07B [(a.toNat, 27), (e.toNat, 19), (t.toNat, 16), (d.toNat, 7)]) rfl (by simp only [word]; omega)
theorem mcfg (a : Reg) (d : Reg) : Statement (.mcfg a d) :=
  ofWord (word 0x707B [(a.toNat, 27), (d.toNat, 7)]) rfl (by simp only [word]; omega)
theorem mldb (a : Reg) (e : BitVec 4) (k : BitVec 2) (c : Bool) (v : Bool) (d : Reg) : Statement (.mldb a e k c v d) :=
  ofWord (word 0x100707B [(a.toNat, 27), (e.toNat, 20), (k.toNat, 18), (bitNat c, 17), (bitNat v, 16), (d.toNat, 7)]) rfl (by have := bitNat_lt c; have := bitNat_lt v; simp only [word]; omega)
theorem mzero (a : Reg) : Statement (.mzero a) :=
  ofWord (word 0x200707B [(a.toNat, 27)]) rfl (by simp only [word]; omega)
theorem mrd (a : Reg) (e : BitVec 4) (u : Bool) (d : Reg) : Statement (.mrd a e u d) :=
  ofWord (word 0x300707B [(a.toNat, 27), (e.toNat, 20), (bitNat u, 17), (d.toNat, 7)]) rfl (by have := bitNat_lt u; simp only [word]; omega)
theorem mdrainSt (a : Reg) (u : Bool) (b : Reg) (d : Reg) : Statement (.mdrainSt a u b d) :=
  ofWord (word 0x400707B [(a.toNat, 27), (bitNat u, 23), (b.toNat, 15), (d.toNat, 7)]) rfl (by have := bitNat_lt u; simp only [word]; omega)
theorem mdrainAdd (a : Reg) (u : Bool) (b : Reg) (d : Reg) : Statement (.mdrainAdd a u b d) :=
  ofWord (word 0x500707B [(a.toNat, 27), (bitNat u, 23), (b.toNat, 15), (d.toNat, 7)]) rfl (by have := bitNat_lt u; simp only [word]; omega)
theorem mdrainxSt (a : Reg) (e : BitVec 4) (b : Reg) (d : Reg) : Statement (.mdrainxSt a e b d) :=
  ofWord (word 0x600707B [(a.toNat, 27), (e.toNat, 20), (b.toNat, 15), (d.toNat, 7)]) rfl (by simp only [word]; omega)
theorem mdrainxAdd (a : Reg) (e : BitVec 4) (b : Reg) (d : Reg) : Statement (.mdrainxAdd a e b d) :=
  ofWord (word 0x700707B [(a.toNat, 27), (e.toNat, 20), (b.toNat, 15), (d.toNat, 7)]) rfl (by simp only [word]; omega)
theorem vqVadd (d : Reg) (s : Reg) : Statement (.vqVadd d s) :=
  ofParcel (word 0x2 [(d.toNat, 11), (s.toNat, 6)]) rfl (by simp only [word]; omega)
theorem vqVsub (d : Reg) (s : Reg) : Statement (.vqVsub d s) :=
  ofParcel (word 0x6 [(d.toNat, 11), (s.toNat, 6)]) rfl (by simp only [word]; omega)
theorem vqVmul (d : Reg) (s : Reg) : Statement (.vqVmul d s) :=
  ofParcel (word 0xA [(d.toNat, 11), (s.toNat, 6)]) rfl (by simp only [word]; omega)
theorem vqVmac (d : Reg) (s : Reg) : Statement (.vqVmac d s) :=
  ofParcel (word 0xE [(d.toNat, 11), (s.toNat, 6)]) rfl (by simp only [word]; omega)
theorem vqVfadd (d : Reg) (s : Reg) : Statement (.vqVfadd d s) :=
  ofParcel (word 0x12 [(d.toNat, 11), (s.toNat, 6)]) rfl (by simp only [word]; omega)
theorem vqVfmul (d : Reg) (s : Reg) : Statement (.vqVfmul d s) :=
  ofParcel (word 0x16 [(d.toNat, 11), (s.toNat, 6)]) rfl (by simp only [word]; omega)
theorem vqVffma (d : Reg) (s : Reg) : Statement (.vqVffma d s) :=
  ofParcel (word 0x1A [(d.toNat, 11), (s.toNat, 6)]) rfl (by simp only [word]; omega)
theorem vqVand (d : Reg) (s : Reg) : Statement (.vqVand d s) :=
  ofParcel (word 0x1E [(d.toNat, 11), (s.toNat, 6)]) rfl (by simp only [word]; omega)
theorem vqVor (d : Reg) (s : Reg) : Statement (.vqVor d s) :=
  ofParcel (word 0x22 [(d.toNat, 11), (s.toNat, 6)]) rfl (by simp only [word]; omega)
theorem vqVxor (d : Reg) (s : Reg) : Statement (.vqVxor d s) :=
  ofParcel (word 0x26 [(d.toNat, 11), (s.toNat, 6)]) rfl (by simp only [word]; omega)
theorem vqVsll (d : Reg) (s : Reg) : Statement (.vqVsll d s) :=
  ofParcel (word 0x2A [(d.toNat, 11), (s.toNat, 6)]) rfl (by simp only [word]; omega)
theorem vqVsrl (d : Reg) (s : Reg) : Statement (.vqVsrl d s) :=
  ofParcel (word 0x2E [(d.toNat, 11), (s.toNat, 6)]) rfl (by simp only [word]; omega)
theorem vqVmv (d : Reg) (s : Reg) : Statement (.vqVmv d s) :=
  ofParcel (word 0x32 [(d.toNat, 11), (s.toNat, 6)]) rfl (by simp only [word]; omega)
theorem vqVsel (d : Reg) (s : Reg) : Statement (.vqVsel d s) :=
  ofParcel (word 0x36 [(d.toNat, 11), (s.toNat, 6)]) rfl (by simp only [word]; omega)
theorem vqVld (d : Reg) (s : Reg) : Statement (.vqVld d s) :=
  ofParcel (word 0x3A [(d.toNat, 11), (s.toNat, 6)]) rfl (by simp only [word]; omega)
theorem vqVst (d : Reg) (s : Reg) : Statement (.vqVst d s) :=
  ofParcel (word 0x3E [(d.toNat, 11), (s.toNat, 6)]) rfl (by simp only [word]; omega)
theorem fenceTso : Statement .fenceTso := ofWord (encode .fenceTso) rfl (by decide)
theorem fenceI : Statement .fenceI := ofWord (encode .fenceI) rfl (by decide)
theorem ecall : Statement .ecall := ofWord (encode .ecall) rfl (by decide)
theorem ebreak : Statement .ebreak := ofWord (encode .ebreak) rfl (by decide)
theorem sret : Statement .sret := ofWord (encode .sret) rfl (by decide)
theorem mret : Statement .mret := ofWord (encode .mret) rfl (by decide)
theorem wfi : Statement .wfi := ofWord (encode .wfi) rfl (by decide)
theorem texit : Statement .texit := ofWord (encode .texit) rfl (by decide)
theorem tyield : Statement .tyield := ofWord (encode .tyield) rfl (by decide)
theorem vfence : Statement .vfence := ofWord (encode .vfence) rfl (by decide)
theorem vfifoPushVm : Statement .vfifoPushVm := ofWord (encode .vfifoPushVm) rfl (by decide)
theorem vfifoPushVc : Statement .vfifoPushVc := ofWord (encode .vfifoPushVc) rfl (by decide)
theorem vfifoPopCv : Statement .vfifoPopCv := ofWord (encode .vfifoPopCv) rfl (by decide)
theorem vfifoPopMv : Statement .vfifoPopMv := ofWord (encode .vfifoPopMv) rfl (by decide)
theorem interruptEntry : Statement .interruptEntry := ofNone rfl
theorem lateResultLand : Statement .lateResultLand := ofNone rfl
theorem remoteWriteLand : Statement .remoteWriteLand := ofNone rfl
theorem presenceTimeout : Statement .presenceTimeout := ofNone rfl
theorem vectorQueueExecute : Statement .vectorQueueExecute := ofNone rfl
theorem matrixQueueExecute : Statement .matrixQueueExecute := ofNone rfl
theorem drainComplete : Statement .drainComplete := ofNone rfl
theorem fifoHoldExpiry : Statement .fifoHoldExpiry := ofNone rfl
theorem pageWalk : Statement .pageWalk := ofNone rfl
theorem pageFlush : Statement .pageFlush := ofNone rfl
theorem chinookAnswer : Statement .chinookAnswer := ofNone rfl
theorem partitionMissTimeout : Statement .partitionMissTimeout := ofNone rfl
theorem shootdownAck : Statement .shootdownAck := ofNone rfl
theorem chinookInvalidate : Statement .chinookInvalidate := ofNone rfl
theorem homeSliceRequest : Statement .homeSliceRequest := ofNone rfl
theorem directoryProbe : Statement .directoryProbe := ofNone rfl
theorem victimOffer : Statement .victimOffer := ofNone rfl
theorem writeBackArrival : Statement .writeBackArrival := ofNone rfl
theorem wbdWrite : Statement .wbdWrite := ofNone rfl
theorem agentRejoin : Statement .agentRejoin := ofNone rfl
theorem errlogRead : Statement .errlogRead := ofNone rfl
theorem cecntWrite : Statement .cecntWrite := ofNone rfl
theorem bankWakeDone : Statement .bankWakeDone := ofNone rfl
theorem bankRetWakeDone : Statement .bankRetWakeDone := ofNone rfl
theorem bankPowerOff : Statement .bankPowerOff := ofNone rfl
theorem bankRetention : Statement .bankRetention := ofNone rfl
theorem wayRetire : Statement .wayRetire := ofNone rfl
theorem wayWakeDone : Statement .wayWakeDone := ofNone rfl
theorem wroleWrite : Statement .wroleWrite := ofNone rfl
theorem swrWrite : Statement .swrWrite := ofNone rfl
theorem roleChangeDone : Statement .roleChangeDone := ofNone rfl
theorem wayPinDone : Statement .wayPinDone := ofNone rfl
theorem bwphWrite : Statement .bwphWrite := ofNone rfl
theorem devicePhaseSettle : Statement .devicePhaseSettle := ofNone rfl
theorem gddrPowerDown : Statement .gddrPowerDown := ofNone rfl
theorem groupRequestArrive : Statement .groupRequestArrive := ofNone rfl
theorem groupHoldTimeout : Statement .groupHoldTimeout := ofNone rfl
theorem groupFillLand : Statement .groupFillLand := ofNone rfl
theorem freezeComplete : Statement .freezeComplete := ofNone rfl
theorem thawComplete : Statement .thawComplete := ofNone rfl
theorem peerInvalidateTimeout : Statement .peerInvalidateTimeout := ofNone rfl
theorem stampSweepStart : Statement .stampSweepStart := ofNone rfl
theorem wayKill : Statement .wayKill := ofNone rfl
theorem stampSweepEnd : Statement .stampSweepEnd := ofNone rfl
theorem swgoWrite : Statement .swgoWrite := ofNone rfl
theorem acqRetry : Statement .acqRetry := ofNone rfl
theorem copyAdmit : Statement .copyAdmit := ofNone rfl
theorem copyRunEmit : Statement .copyRunEmit := ofNone rfl
theorem copyLinePerformed : Statement .copyLinePerformed := ofNone rfl
theorem copyComplete : Statement .copyComplete := ofNone rfl
theorem slidePrefetch : Statement .slidePrefetch := ofNone rfl
theorem wdlimWrite : Statement .wdlimWrite := ofNone rfl
theorem fmtWrite : Statement .fmtWrite := ofNone rfl
theorem sbstatWrite : Statement .sbstatWrite := ofNone rfl
theorem vhwWrite : Statement .vhwWrite := ofNone rfl
theorem csrWrite : Statement .csrWrite := ofNone rfl
theorem mmioWrite : Statement .mmioWrite := ofNone rfl
theorem enqueueArrive : Statement .enqueueArrive := ofNone rfl
theorem enqueueRetry : Statement .enqueueRetry := ofNone rfl
theorem filterTokenAccrue : Statement .filterTokenAccrue := ofNone rfl
theorem taskBind : Statement .taskBind := ofNone rfl
theorem taskPreload : Statement .taskPreload := ofNone rfl
theorem taskAgeing : Statement .taskAgeing := ofNone rfl
theorem urgentEvict : Statement .urgentEvict := ofNone rfl
theorem portGrant : Statement .portGrant := ofNone rfl
theorem portTokenAccrue : Statement .portTokenAccrue := ofNone rfl
theorem partitionStop : Statement .partitionStop := ofNone rfl
theorem partitionResume : Statement .partitionResume := ofNone rfl
theorem quadReassign : Statement .quadReassign := ofNone rfl
theorem vfReset : Statement .vfReset := ofNone rfl
theorem retireCall : Statement .retireCall := ofNone rfl
theorem msixCall : Statement .msixCall := ofNone rfl
theorem swiCall : Statement .swiCall := ofNone rfl
theorem claimCall : Statement .claimCall := ofNone rfl
theorem externalSourceRaise : Statement .externalSourceRaise := ofNone rfl
theorem mistralPeriod : Statement .mistralPeriod := ofNone rfl
theorem railRaiseDone : Statement .railRaiseDone := ofNone rfl
theorem droopSignal : Statement .droopSignal := ofNone rfl
theorem clvlRise : Statement .clvlRise := ofNone rfl
theorem clvlFall : Statement .clvlFall := ofNone rfl
theorem tlvlWrite : Statement .tlvlWrite := ofNone rfl
theorem sfailWrite : Statement .sfailWrite := ofNone rfl
theorem sensorSample : Statement .sensorSample := ofNone rfl
theorem pwhintExpire : Statement .pwhintExpire := ofNone rfl
theorem idleEntry : Statement .idleEntry := ofNone rfl
theorem idleWake : Statement .idleWake := ofNone rfl
theorem evpopRead : Statement .evpopRead := ofNone rfl
theorem evpushWrite : Statement .evpushWrite := ofNone rfl
theorem hostMemRead : Statement .hostMemRead := ofNone rfl
theorem hostMemWrite : Statement .hostMemWrite := ofNone rfl
theorem bisnpResponse : Statement .bisnpResponse := ofNone rfl
theorem biasFlipComplete : Statement .biasFlipComplete := ofNone rfl
theorem hostSnoop : Statement .hostSnoop := ofNone rfl
theorem eqdescWrite : Statement .eqdescWrite := ofNone rfl
theorem hostirqWrite : Statement .hostirqWrite := ofNone rfl
theorem ucieTraining : Statement .ucieTraining := ofNone rfl
theorem firmwareVerify : Statement .firmwareVerify := ofNone rfl
theorem spdmRequest : Statement .spdmRequest := ofNone rfl
theorem boraLinkChange : Statement .boraLinkChange := ofNone rfl
theorem peerRequest : Statement .peerRequest := ofNone rfl
theorem collectiveAbort : Statement .collectiveAbort := ofNone rfl
theorem supervisorTimerInterrupt : Statement .supervisorTimerInterrupt := ofNone rfl
theorem blendcQueueLimit : Statement .blendcQueueLimit := ofNone rfl
theorem runBudgetExceeded : Statement .runBudgetExceeded := ofNone rfl
theorem memoryFillReturn : Statement .memoryFillReturn := ofNone rfl
theorem frameLeavesPartition : Statement .frameLeavesPartition := ofNone rfl

end Sys2Proof.Laws.Fits
end

