-- ==== Sys2Proof/Tests/Slice0.lean ====
section
/-!
SUPPORT. The modeller's own tests: ill-formed instructions, words of the manual's tables with the instructions they stand
for, the manual's worked numbers, and for every statement of Obligations.lean, states and operands that meet its hypotheses.
-/
namespace Sys2Proof.Tests

set_option maxRecDepth 20000
set_option exponentiation.threshold 5000
set_option Elab.async false

open Sys2Proof Sys2Proof.Machine Sys2Proof.Claims

/-! ### Small states -/

/-- A state whose hart 0, the one at issue, is `h`, in quad 0, which is `q`. -/
def st (h : Hart) (q : Quad := { part := some 0 }) (s : State := {}) : State := { s with harts := [(0, h)], quads := [(0, q)] }

/-- A page of ordinary memory: virtual address 0 to device physical address `pa`. -/
def page (pa : Nat := 0) (frozen : Bool := false) : TlbEntry :=
  { va := 0, pa := pa, size := 4096, part := 0, asid := 0, global := true, r := true, w := true, x := true, u := true, d := true,
    pr := true, pw := true, px := true, pu := true, pd := true, mt := .normal, key := 0, frozen := frozen, stamp := 0,
    share := .shared }

/-- The same with the page in the TLBs of core 0 and of quad 0. -/
def mapped (h : Hart := {}) (e : TlbEntry := page) (q : Quad := { part := some 0 }) (s : State := {}) : State :=
  { st h { q with tlb := [e] } s with cores := [(0, { tlb := [e] })] }

/-- What a check has answered, or else `d`. -/
def okOf {ε α : Type} (d : α) : Except ε α → α
  | .ok c => c
  | .error _ => d

theorem okOf_eq {ε α : Type} {d : α} {e : Except ε α} (h : e.isOk = true) : e = .ok (okOf d e) := by
  cases e <;> first | rfl | cases h

theorem okPair {ε α β : Type} {d : α × β} {a : α} {e : Except ε (α × β)} (h : e.toOption.map Prod.fst = some a) :
    e = .ok (a, (okOf d e).2) := by
  rcases e with _ | ⟨x, y⟩
  · cases h
  · injection h with h; subst h; rfl

theorem okFetch {ε α β γ : Type} {d : α × β × γ} {a : α} {b : β} {e : Except ε (α × β × γ)}
    (h : e.toOption.map (fun f => (f.1, f.2.1)) = some (a, b)) : e = .ok (a, b, (okOf d e).2.2) := by
  rcases e with _ | ⟨x, y, z⟩
  · cases h
  · injection h with h; injection h with h1 h2; subst h1; subst h2; rfl

theorem okSome {α : Type} {d : α} {o : Option α} (h : o.isSome = true) : o = some (o.getD d) := by
  cases o <;> first | rfl | cases h

theorem okSomePair {α β : Type} {d : α × β} {o : Option (α × β)} (h : o.isSome = true) :
    o = some ((o.getD d).1, (o.getD d).2) := by
  cases o <;> first | rfl | cases h

theorem okTriple {α β γ : Type} {e : α × β × γ} {c : γ} (h : e.2.2 = c) : e = (e.1, e.2.1, c) := by
  subst h; rfl

theorem allMem {α : Type} {l : List α} {p : α → Prop} [DecidablePred p] (h : l.all (fun x => decide (p x)) = true) :
    ∀ x, x ∈ l → p x := by
  simpa using h

theorem consMem {α : Type} {a : α} {l : List α} {p : α → Prop} [DecidablePred p]
    (h : (a :: l).all (fun x => decide (p x)) = true) : ∀ x, x = a ∨ x ∈ l → p x := by
  simpa using h

/-- The access that a check passed. -/
abbrev accOf (e : Except Stop Acc) : Acc := okOf ⟨page, 0, false, {}⟩ e

/-- The state that a translation leaves. -/
abbrev mapState (r : Trans) : State :=
  match r with
  | .ok _ _ u => u
  | _ => {}

/-- A frozen page. -/
abbrev ice : State := mapped {} (page 0 true)

/-- A hart with register `r` at `v`. -/
def withX (r : Reg) (v : Word) (h : Hart := {}) : Hart := h.setX r v

/-- A supervisor with the timer far away. -/
def super (h : Hart := {}) : Hart := { h with mode := .s, csr := { h.csr with stimecmp := 100 } }

/-- A vector command that waits. -/
def vcmd (op : VOp := .pset 1 0) : VCmd := { op := op, vl := 0, et := 0, g := 1, bfz := false, frm := 0, fmt := [], eix := 0, seq := 0 }

/-- A hart with a task of 8 vector registers. -/
def busy (h : Hart := {}) : Hart := { h with task := some {} }

/-- The state in which hart 0 fetches `w` next. -/
def fetching (w : Nat) : State := { State.reset.withFetchWord 32 w with agenda := [.issue 0] }

/-- The state after that fetch. -/
def fetched (w : Nat) : State := (okOf (0, 0, {}) (State.fetchRaw { fetching w with agenda := [], cur := 0 })).2.2

/-- A state whose memory holds 8-byte words from address 0 on. -/
def words (l : List Nat) (s : State) : State := { s with mem := s.mem.writeBytes 0 (l.flatMap (leBytes 8)) }

/-- A hart whose object is the word list at address 0. -/
def objSt (l : List Nat) (h : Hart := busy) (s : State := {}) : State := words l (mapped h page { part := some 0 } s)

/-- The access of that object. -/
abbrev objAcc (s : State) (frozenOk : Bool := false) : Acc := accOf (s.objAccess 0 frozenOk)

/-- A descriptor of zeros. -/
def noDesc : TaskDesc := ⟨0, [], 0, 0, 0, 0, 0⟩

/-- A state with queue 0 in partition 0, of capacity 1, with tasks. -/
def queued (l : List QTask) (h : Hart := busy) : State :=
  mapped h page { part := some 0 } { affinity := [(0, 1)], queues := [(0, { w0 := 0x8000000000000000, tasks := l })] }

/-- A tile of 16-bit elements with two rows of 4. -/
def tile : TileEntry := { v := true, ngr := 1, gen := 3, ty := 2, rows := 2, cols := 4, part := 0 }

/-- The handle word of handle 1 of quad 0. -/
def hwt : Word := handleWord 0 1 3

/-- A quad with that tile, its bank on. -/
def tiled : Quad := { part := some 0, tiles := [(1, tile)], banks := [(0, { st := 2 })] }

/-- A state whose hart is in quad `tiled`. -/
def tileSt (h : Hart) : State := st h tiled

/-- A die 0 with group 255. -/
def grouped (g : Group) (h : Hart := {}) : State := { mapped h with dies := [(0, { groups := [(255, g)] })] }

/-- A hart with a task and `n` elements of 8 bits. -/
def vec (n : Nat) (h : Hart := {}) : Hart := busy { h with vl := n }

/-- The form of a vector memory instruction, or else an empty one. -/
abbrev formOf (o : Option MemForm) : MemForm :=
  o.getD ⟨{ i := .vfence, vl := 0, g := 1, op := .push false }, 8, 0, 0, [], fun _ => (0, 0), id, 0, 8⟩

/-- The same of a VAMO. -/
abbrev amoOf (o : Option (MemForm × Nat)) : MemForm × Nat := o.getD (formOf none, 0)

/-- A state whose hart's queue starts with the command of `op`. -/
def cmdSt (op : VOp) : State := st { vq := [vcmd op] }

/-- A state whose hart's queue starts with a reduction of 32 active f32 elements. -/
def summed : State := st { (Hart.setP {} 7 1) with vq := [{ vcmd (.red .fsum 10 7 31 30) with vl := 32, fmt := ({} : Hart).fmts }] }

/-- A hart at the first byte of a page with two elements of 8 bits, and one 1 byte on with two of 16 bits. -/
abbrev two : Hart := vec 2
abbrev edge : Hart := vec 2 (withX 1 0xFFFFFFFFFFFFFF)
abbrev far : Hart := vec 2 (withX 1 0x100000000000000)
abbrev amo : Hart := vec 2 { vcfg := { et := 2 } }
abbrev odd : Hart := vec 2 { withX 1 1 with vcfg := { et := 1 } }

/-- The last page of the lower half of the address space. -/
abbrev last : TlbEntry := { page with va := 0xFFFFFFFFFFF000 }

/-- The elements of a vector memory instruction of a hart, as they are translated. -/
abbrev resOf (h : Hart) (m : MemForm) (acc : AccKind) (n : Nat → Nat := fun _ => 0) (e : TlbEntry := page) :
    State × List REl × Option (Nat × Stop) :=
  ((mapped h e).updMe m.pre).resolve acc m.cp n (formEls h m)

/-- A tile of 128 rows of 256 f32 elements. -/
def wide : TileEntry := { tile with ngr := 32, ty := 10, rows := 128, cols := 256 }

/-- A command of the matrix queue with its tokens popped. -/
def mcmd (op : MOp) : MCmd := { hart := 0, task := 0, op := op, fmt := ({} : Hart).fmts, bfz := false, seq := 0, popped := true }

/-- A state whose matrix queue starts with the command of `op`. -/
def mcmdSt (op : MOp) : State := st busy { part := some 0, mq := [mcmd op] }

/-- Tables: the partition's at 0x1000 maps its first GiB to itself; the guest's at 0x3000 does the same. -/
def tables : Memory :=
  [(0x1000, 0x801), (0x2000, 0xDF), (0x3000, 0x1001), (0x4000, 0x1401), (0x5000, 0xDF)].foldl
    (fun m e => Memory.writeN m e.1 8 e.2) []

/-- A state with these tables. -/
def paged (h : Hart := {}) (s : State := {}) : State :=
  { st h { part := some 0 } s with mem := tables, parts := [(0, { root := some 0x1000 })] }

/-- A hart under the guest's table. -/
def guest : Hart := busy { csr := { ({} : SCsr) with satp := 3 } }

/-- The entry that a walk has found. -/
def entryOf : WRes → TlbEntry
  | .ok e => e
  | _ => page

/-- The entry of the guest's walk to 0x3000, and that walk as a walker has done it. -/
abbrev walked : TlbEntry :=
  entryOf ((paged guest).gwalk ((paged guest).wcache 0 (walkerOf 0)) ((paged guest).reqOf 0) .load 0 4 0x3000)
abbrev walk1 : Walk := { part := 0, asid := 0, page := 0, mode := .u, acc := .load, res := .ok walked }
/-- The state in which the walker of page 0 has read its tables for hart 0. -/
abbrev read1 (s : State) : State := s.walked (s.reqOf 0) (walkerOf 0) (s.gtrail (s.wcache 0 (walkerOf 0)) (s.reqOf 0) 0 4 (s.reqOf 0).root)
abbrev joined : State := { paged guest with dies := [(0, { walks := [walk1] })] }

/-- A state with host addresses from 0 on at the device's memory. -/
def hdmSt (e : EvArg) (s : State := {}) : State := { s with ev := e, hdm := [(0, { hpa := 0, dpa := 0, size := 0x1000 })] }

/-- A hart with interrupts on. -/
def irq (sie : Word) (h : Hart := {}) : Hart := busy { h with csr := { h.csr with sie := sie } }

/-- Function 1 of partition 0 with queue 0, of capacity 1, with tasks. -/
def funcSt (l : List QTask) (s : State := paged) : State :=
  { s with ev := { p := 1 }, funcs := [(1, { part := some 0 })], queues := [(0, { w0 := 0x8000000000000000, tasks := l })] }

/-- A state with a blend record at 0, its tile at 1024 and its tile record at 512, and the ticket in x2. -/
abbrev blendSt (x : Word) : State := words [1024, 512, 0, 0x10001] (mapped (busy (withX 2 x)))

/-- The access to the record. -/
abbrev blendAcc (x : Word) : Acc := accOf ((blendSt x).access 0 ((blendSt x).vreqOf 0) 0 .load 0 0)

/-- What its two places have been translated to. -/
abbrev drawTargets (x : Word) : List (Word × Acc) × State := okOf ([], {}) (((blendAcc x).reached 64).targets [1024, 512])
abbrev targetAt (x : Word) (k : Nat) : Acc := ((drawTargets x).1.getD k (0, ⟨page, 0, false, {}⟩)).2

/-- A drain with one row left. -/
def drain : Drain :=
  { hart := 0, task := 0, part := 0, ext := false, add := false, push := false, et := 10, fmt := [], bfz := false,
    rows := [(0, List.replicate 256 0)], trow := 0, hw := hwt, wake := none }

/-- A request for a load of 64 bytes from address 0 by hart 0 to the first row of a tile. -/
def greq : GReq :=
  { id := 0, die := 0, group := 255, seq := 0, slice := 0, hart := 0, task := 0, part := 0, asid := 0, root := 0, mode := .u,
    pages := [{ pa := 0, n := 64 }], pa := 0, src := 0, len := 64, vector := false, row := 0, hw := hwt, reg := 31, gsize := 1, xd := 0, token := none, barrier := 0,
    fmt := ({} : Hart).fmts }

/-- Another member's request, accepted, of `len` bytes. -/
def other (len : Nat) : GReq := { greq with id := 1, hart := 1, len := len, accepted := true }

/-- The open load of these requests. -/
def open2 (n : Nat) : OpenLoad := { die := 0, group := 255, slice := 0, seq := 0, openedAt := 0, timer := 0, expected := n }

/-- A state with a group of two members and requests. -/
def loadSt (l : List GReq) (o : List OpenLoad) (g : Group := { own := true, members := [⟨0, 0, 0, 0, 0⟩, ⟨0, 0, 1, 0, 0⟩] }) : State :=
  { grouped g with greqs := l, opens := o }

/-- A fill of a request. -/
def fill (r : GReq) : GFill := { req := r, bytes := List.replicate 64 7, nreq := 2, tmo := false, str := false, err := false }

/-- A FREEZE or THAW of page 5. -/
def fop (thaw : Bool) (peers : List Nat := []) : FreezeOp :=
  { thaw := thaw, hart := 0, task := 0, part := 0, asid := 0, root := 0, mode := .u, pages := [(5, 1)], len := 4096, token := none,
    barrier := 0, id := 0, parks := false, peers := peers }

/-- A transfer of one run of `n` elements; `sh` are further bits of its shape record. -/
def xfer (sh : Shape := 0) (src : Word := 0) : Xfer :=
  { id := 0, hart := 0, task := 0, mode := .u, part := 0, asid := 0, root := 0, cpyb := false, push := false, pop := false,
    token := none, shape := 0x10000000000000000000000000000000000000000000000000020000000000000 ||| sh, dst := 64, src := src, fmt := [] }

/-- A quad in which a transfer runs. -/
def running (x : Xfer) : Quad := { part := some 0, running := [x] }

/-- A state in which a transfer runs on mapped memory. -/
def xferSt (x : Xfer) (h : Hart := busy) : State := mapped h page (running x)

/-- A transfer with its runs emitted, or with a piece of `n` bytes to perform. -/
def done (x : Xfer := xfer 1) : Xfer := { x with next := 1 }
def piece (x : Xfer := xfer 1) (n : Nat := 1) : Xfer := { x with next := 1, emitted := [⟨0, 0, n, none⟩] }

/-- The access that an engine's check passed. -/
def accE : EAcc → Acc
  | .ok c => c
  | _ => ⟨page, 0, false, {}⟩

/-- The state that a search has come to. -/
def foundSt : Found → State
  | .ok _ u => u
  | _ => {}

/-- The state that an outcome gives next. -/
def nextOf (o : Host.Outcome State Fault Refusal) : State :=
  match o with
  | .next t => t
  | _ => {}

/-- An outcome is a next state. -/
def isNext (o : Host.Outcome State Fault Refusal) : Bool :=
  match o with
  | .next _ => true
  | _ => false

theorem okNext {o : Host.Outcome State Fault Refusal} (h : isNext o = true) : o = .next (nextOf o) := by
  cases o <;> first | rfl | cases h

/-- A waiting enqueuer. -/
def waiter (why : Nat) (hart : Nat := 0) : QWait := { hart := hart, takes := [], desc := noDesc, why := why, since := 0 }

/-- A ready task. -/
def ready (aged : Nat := 0) : QTask := { id := 7, desc := noDesc, aged := aged }

/-- Queue 0, of capacity 1, with tasks and enqueuers. -/
def waitSt (l : List QTask) (w : List QWait) (s : State := queued []) : State :=
  { s with queues := [(0, { w0 := 0x8000000000000000, tasks := l, waiters := w })] }

/-- Quad 0 with a task in every slot, and queue 0 with an urgent task. -/
def crowded (p : Option Park := none) (n : Option Nat := none) : State :=
  { queued [{ ready 7 with nofit := n }] with harts := (List.range 32).map (fun h => (h, busy { park := p })), time := 0x1000000 }

/-- Function 1 in its reset, with tasks in its queue 0. -/
def resetSt (l : List QTask) : State :=
  { st {} with ev := { p := 1 }, funcs := [(1, { resetting := true })], queues := [(0, { w0 := 0x8000000000000000, tasks := l })] }

/-- A hart that waits for Chinook's answer to call `n`. -/
def calling (n : Word) (h : Hart := {}) : Hart := busy { h.setX 17 n with park := some .chinook }

/-- Link 11 up, with its partner's request at address `v`. -/
def linkSt (v : Word) (b : Option (List Byte)) : State :=
  { mapped (busy) with links := [(11, { up := true, bnd := true })], ev := { p := 11, v := v, bytes := b, size := 8 } }

/-- What that partner asks as. -/
def peerQ : Req := { (linkSt 0 none).vreqOf 0 with mode := .u, mxr := false, who := 65547 }

/-! ### What is ill formed (R221) -/

/-- One ill-formed instruction for each field check, and the reason for which it is refused. -/
theorem test_illFormed : ([
    (.scalarAlu (.farith .add .s 5 1 2 3), .roundingMode), (.scalarAlu (.ffused .madd .d 6 1 2 3 4), .roundingMode),
    (.scalarAlu (.ftoi .w .s 5 1 2), .roundingMode), (.scalarAlu (.itof .s .w 6 1 2), .roundingMode),
    (.scalarAlu (.fcvt .s 5 1 2), .roundingMode), (.fpDivideSqrt false .s 6 1 2 3, .roundingMode),
    (.fpDivideSqrt true .s 0 1 2 3, .mustBeZero), (.fence 8 3 3, .unassigned),
    (.takingAdd true false 0 6 5, .takeBit), (.takingAdd false true 6 0 5, .takeBit), (.klaunch true 0 5, .takeBit),
    (.putx true false 0 6 5, .takeBit), (.putx false true 6 0 5, .takeBit), (.putx false false 6 7 0, .forbiddenRegister),
    (.take false 0 5, .forbiddenRegister), (.prempty 3 5, .unassigned), (.prempty 0 0, .forbiddenRegister),
    (.prtest 3 1 5, .unassigned), (.vpush true 2 0 8, .takeBit), (.vpush false 2 6 0, .forbiddenRegister),
    (.ldsRlx 5 0 6 5, .scope), (.acq 7 6, .scope), (.freeze false 1 6 7 8, .mustBeZero), (.cpyb false 7 6 7 false false 0, .mustBeZero),
    (.vselVv 1 12 3 2, .elementType), (.vselVi 0 2 3 2, .predicate), (.vcmpVv 1 1 2 3 4, .unassigned),
    (.vcmpVi 2 0 2 3 4, .predicate), (.vfcmpVs 0 1 2 3 4, .unassigned), (.vfcmpVv 3 0 2 3 4, .predicate),
    (.vwmac 2 0 3 4 8, .elementType), (.vwmul 2 0 7 4 8, .elementType), (.vcvtSr 8 0 10 0 2, .elementType),
    (.pand 0 1 2, .predicate), (.pset 0 6, .predicate), (.vedge 0 6 0, .predicate), (.vedge 1 7 0, .forbiddenRegister),
    (.vedge 1 0 0, .forbiddenRegister), (.vrbox 0 6 8, .predicate), (.vtex 0 5 8, .forbiddenRegister),
    (.blendc 0 0 4, .forbiddenRegister), (.vamoAdd 2 0 1 6 4, .unassigned), (.mrow 0 false 0 8 3 0 0, .unassigned),
    (.mrow 0 false 0 2 0 0 0, .elementType), (.mldb 0 8 3 false false 0, .unassigned),
    (.mldb 0 10 0 false false 0, .elementType), (.mldb 5 8 2 false false 4, .mustBeZero), (.mldb 4 12 1 false false 1, .mustBeZero),
    (.mrd 0 11 false 8, .elementType), (.mdrainSt 5 false 31 20, .forbiddenRegister), (.mdrainxSt 5 11 8 20, .elementType),
    (.mdrainxAdd 5 9 31 20, .forbiddenRegister)] : List (Instr × Reject)).all (fun x => x.1.check == some x.2) = true := by
  decide +kernel

/-- No word decodes to them: the words that hold those fields are refused. -/
theorem test_illFormed_refused : decodeTableWord 32 0x0603028B = none ∧ decodeTableWord 32 0x0280028B = none ∧
    decodeTableWord 32 0xA225002B = none ∧ decodeTableWord 32 0x1065202B = none ∧ decodeTableWord 32 0x8820205B = none := by
  decide +kernel

/-! ### Words of the encoding tables (R216 to R240) -/

/-- RV64I, M, Zba and Zbb register forms (R217): the word of each operation. -/
theorem test_decode_integer : ([
    (0x007302B3, .scalarAlu (.rr .add 5 6 7)), (0x407302B3, .scalarAlu (.rr .sub 5 6 7)),
    (0x007312B3, .scalarAlu (.rr .sll 5 6 7)), (0x007322B3, .scalarAlu (.rr .slt 5 6 7)),
    (0x007332B3, .scalarAlu (.rr .sltu 5 6 7)), (0x007342B3, .scalarAlu (.rr .xor 5 6 7)),
    (0x007352B3, .scalarAlu (.rr .srl 5 6 7)), (0x407352B3, .scalarAlu (.rr .sra 5 6 7)),
    (0x007362B3, .scalarAlu (.rr .or 5 6 7)), (0x007372B3, .scalarAlu (.rr .and 5 6 7)),
    (0x007302BB, .scalarAlu (.rr .addw 5 6 7)), (0x407302BB, .scalarAlu (.rr .subw 5 6 7)),
    (0x007312BB, .scalarAlu (.rr .sllw 5 6 7)), (0x007352BB, .scalarAlu (.rr .srlw 5 6 7)),
    (0x407352BB, .scalarAlu (.rr .sraw 5 6 7)), (0x027302B3, .scalarAlu (.rr .mul 5 6 7)),
    (0x027312B3, .scalarAlu (.rr .mulh 5 6 7)), (0x027322B3, .scalarAlu (.rr .mulhsu 5 6 7)),
    (0x027332B3, .scalarAlu (.rr .mulhu 5 6 7)), (0x027302BB, .scalarAlu (.rr .mulw 5 6 7)),
    (0x207322B3, .scalarAlu (.rr .sh1add 5 6 7)), (0x207342B3, .scalarAlu (.rr .sh2add 5 6 7)),
    (0x207362B3, .scalarAlu (.rr .sh3add 5 6 7)), (0x087302BB, .scalarAlu (.rr .adduw 5 6 7)),
    (0x207322BB, .scalarAlu (.rr .sh1adduw 5 6 7)), (0x207342BB, .scalarAlu (.rr .sh2adduw 5 6 7)),
    (0x207362BB, .scalarAlu (.rr .sh3adduw 5 6 7)), (0x407372B3, .scalarAlu (.rr .andn 5 6 7)),
    (0x407362B3, .scalarAlu (.rr .orn 5 6 7)), (0x407342B3, .scalarAlu (.rr .xnor 5 6 7)),
    (0x0A7342B3, .scalarAlu (.rr .min 5 6 7)), (0x0A7352B3, .scalarAlu (.rr .minu 5 6 7)),
    (0x0A7362B3, .scalarAlu (.rr .max 5 6 7)), (0x0A7372B3, .scalarAlu (.rr .maxu 5 6 7)),
    (0x607312B3, .scalarAlu (.rr .rol 5 6 7)), (0x607352B3, .scalarAlu (.rr .ror 5 6 7)),
    (0x607312BB, .scalarAlu (.rr .rolw 5 6 7)), (0x607352BB, .scalarAlu (.rr .rorw 5 6 7)),
    (0x60031293, .scalarAlu (.un .clz 5 6)), (0x60131293, .scalarAlu (.un .ctz 5 6)),
    (0x60231293, .scalarAlu (.un .cpop 5 6)), (0x6003129B, .scalarAlu (.un .clzw 5 6)),
    (0x6013129B, .scalarAlu (.un .ctzw 5 6)), (0x6023129B, .scalarAlu (.un .cpopw 5 6)),
    (0x60431293, .scalarAlu (.un .sextb 5 6)), (0x60531293, .scalarAlu (.un .sexth 5 6)),
    (0x080342BB, .scalarAlu (.un .zexth 5 6)), (0x6B835293, .scalarAlu (.un .rev8 5 6)),
    (0x28735293, .scalarAlu (.un .orcb 5 6))] : List (Nat × Instr)).all
    (fun x => decodeTableWord 32 x.1 == some x.2) = true := by decide +kernel

/-- RV64I immediates, branches, jumps and the F and D operations with a fixed result (R217). -/
theorem test_decode_immediate : ([
    (0x87F30293, .scalarAlu (.imm .addi 5 6 0x87F)), (0x87F32293, .scalarAlu (.imm .slti 5 6 0x87F)),
    (0x87F33293, .scalarAlu (.imm .sltiu 5 6 0x87F)), (0x87F34293, .scalarAlu (.imm .xori 5 6 0x87F)),
    (0x87F36293, .scalarAlu (.imm .ori 5 6 0x87F)), (0x87F37293, .scalarAlu (.imm .andi 5 6 0x87F)),
    (0x87F3029B, .scalarAlu (.imm .addiw 5 6 0x87F)), (0x02D31293, .scalarAlu (.sh .slli 5 6 45)),
    (0x02D35293, .scalarAlu (.sh .srli 5 6 45)), (0x42D35293, .scalarAlu (.sh .srai 5 6 45)),
    (0x62D35293, .scalarAlu (.sh .rori 5 6 45)), (0x0AD3129B, .scalarAlu (.sh .slliuw 5 6 45)),
    (0x0153129B, .scalarAlu (.shw .slliw 5 6 21)), (0x0153529B, .scalarAlu (.shw .srliw 5 6 21)),
    (0x4153529B, .scalarAlu (.shw .sraiw 5 6 21)), (0x6153529B, .scalarAlu (.shw .roriw 5 6 21)),
    (0xABCDE2B7, .scalarAlu (.lui 5 0xABCDE)), (0xABCDE297, .scalarAlu (.auipc 5 0xABCDE)),
    (0xD4730A63, .scalarAlu (.branch .beq 6 7 0xAAA)), (0x2A7315E3, .scalarAlu (.branch .bne 6 7 0x555)),
    (0x007340E3, .scalarAlu (.branch .blt 6 7 0x400)), (0x80735063, .scalarAlu (.branch .bge 6 7 0x800)),
    (0x7E736063, .scalarAlu (.branch .bltu 6 7 0x3F0)), (0x00737F63, .scalarAlu (.branch .bgeu 6 7 0xF)),
    (0xD54550EF, .scalarAlu (.jal 1 0xAAAAA)), (0x2ABAA0EF, .scalarAlu (.jal 1 0x55555)),
    (0x001000EF, .scalarAlu (.jal 1 0x400)), (0x000FF0EF, .scalarAlu (.jal 1 0x7F800)),
    (0x9A5300E7, .scalarAlu (.jalr 1 6 0x9A5)), (0x007312D3, .scalarAlu (.farith .add .s 1 5 6 7)),
    (0x027312D3, .scalarAlu (.farith .add .d 1 5 6 7)), (0x087312D3, .scalarAlu (.farith .sub .s 1 5 6 7)),
    (0x0A7312D3, .scalarAlu (.farith .sub .d 1 5 6 7)), (0x107312D3, .scalarAlu (.farith .mul .s 1 5 6 7)),
    (0x127312D3, .scalarAlu (.farith .mul .d 1 5 6 7)), (0x407372C3, .scalarAlu (.ffused .madd .s 7 5 6 7 8)),
    (0x427372C3, .scalarAlu (.ffused .madd .d 7 5 6 7 8)),
    (0x407372C7, .scalarAlu (.ffused .msub .s 7 5 6 7 8)),
    (0x427372C7, .scalarAlu (.ffused .msub .d 7 5 6 7 8)),
    (0x407372CB, .scalarAlu (.ffused .nmsub .s 7 5 6 7 8)),
    (0x427372CB, .scalarAlu (.ffused .nmsub .d 7 5 6 7 8)),
    (0x407372CF, .scalarAlu (.ffused .nmadd .s 7 5 6 7 8)),
    (0x427372CF, .scalarAlu (.ffused .nmadd .d 7 5 6 7 8)), (0x207302D3, .scalarAlu (.fpair .sgnj .s 5 6 7)),
    (0x227302D3, .scalarAlu (.fpair .sgnj .d 5 6 7)), (0x207312D3, .scalarAlu (.fpair .sgnjn .s 5 6 7)),
    (0x227312D3, .scalarAlu (.fpair .sgnjn .d 5 6 7)), (0x207322D3, .scalarAlu (.fpair .sgnjx .s 5 6 7)),
    (0x227322D3, .scalarAlu (.fpair .sgnjx .d 5 6 7)), (0x287302D3, .scalarAlu (.fpair .min .s 5 6 7)),
    (0x2A7302D3, .scalarAlu (.fpair .min .d 5 6 7)), (0x287312D3, .scalarAlu (.fpair .max .s 5 6 7)),
    (0x2A7312D3, .scalarAlu (.fpair .max .d 5 6 7)), (0xA07302D3, .scalarAlu (.fcmp .le .s 5 6 7)),
    (0xA27302D3, .scalarAlu (.fcmp .le .d 5 6 7)), (0xA07312D3, .scalarAlu (.fcmp .lt .s 5 6 7)),
    (0xA27312D3, .scalarAlu (.fcmp .lt .d 5 6 7)), (0xA07322D3, .scalarAlu (.fcmp .eq .s 5 6 7)),
    (0xA27322D3, .scalarAlu (.fcmp .eq .d 5 6 7)), (0xC00322D3, .scalarAlu (.ftoi .w .s 2 5 6)),
    (0xD00332D3, .scalarAlu (.itof .s .w 3 5 6)), (0xC20322D3, .scalarAlu (.ftoi .w .d 2 5 6)),
    (0xD20332D3, .scalarAlu (.itof .d .w 3 5 6)), (0xC01322D3, .scalarAlu (.ftoi .wu .s 2 5 6)),
    (0xD01332D3, .scalarAlu (.itof .s .wu 3 5 6)), (0xC21322D3, .scalarAlu (.ftoi .wu .d 2 5 6)),
    (0xD21332D3, .scalarAlu (.itof .d .wu 3 5 6)), (0xC02322D3, .scalarAlu (.ftoi .l .s 2 5 6)),
    (0xD02332D3, .scalarAlu (.itof .s .l 3 5 6)), (0xC22322D3, .scalarAlu (.ftoi .l .d 2 5 6)),
    (0xD22332D3, .scalarAlu (.itof .d .l 3 5 6)), (0xC03322D3, .scalarAlu (.ftoi .lu .s 2 5 6)),
    (0xD03332D3, .scalarAlu (.itof .s .lu 3 5 6)), (0xC23322D3, .scalarAlu (.ftoi .lu .d 2 5 6)),
    (0xD23332D3, .scalarAlu (.itof .d .lu 3 5 6)), (0x401342D3, .scalarAlu (.fcvt .s 4 5 6)),
    (0x420342D3, .scalarAlu (.fcvt .d 4 5 6)), (0xE00302D3, .scalarAlu (.fmvx .s 5 6)),
    (0xE00312D3, .scalarAlu (.fclass .s 5 6)), (0xF00302D3, .scalarAlu (.fmvf .s 5 6)),
    (0xE20302D3, .scalarAlu (.fmvx .d 5 6)), (0xE20312D3, .scalarAlu (.fclass .d 5 6)),
    (0xF20302D3, .scalarAlu (.fmvf .d 5 6))] : List (Nat × Instr)).all
    (fun x => decodeTableWord 32 x.1 == some x.2) = true := by decide +kernel

/-- M divides, loads, stores, A, fences, Zicsr and the system words (R217, R218). -/
theorem test_decode_memoryAndSystem : ([
    (0x027342B3, .integerDivide .div 5 6 7), (0x027352B3, .integerDivide .divu 5 6 7),
    (0x027362B3, .integerDivide .rem 5 6 7), (0x027372B3, .integerDivide .remu 5 6 7),
    (0x027342BB, .integerDivide .divw 5 6 7), (0x027352BB, .integerDivide .divuw 5 6 7),
    (0x027362BB, .integerDivide .remw 5 6 7), (0x027372BB, .integerDivide .remuw 5 6 7),
    (0x187302D3, .fpDivideSqrt false .s 0 5 6 7), (0x580372D3, .fpDivideSqrt true .s 7 5 6 0),
    (0x1A7302D3, .fpDivideSqrt false .d 0 5 6 7), (0x5A0372D3, .fpDivideSqrt true .d 7 5 6 0),
    (0x92330283, .scalarLoad .lb 5 6 0x923), (0x92331283, .scalarLoad .lh 5 6 0x923),
    (0x92332283, .scalarLoad .lw 5 6 0x923), (0x92333283, .scalarLoad .ld 5 6 0x923),
    (0x92334283, .scalarLoad .lbu 5 6 0x923), (0x92335283, .scalarLoad .lhu 5 6 0x923),
    (0x92336283, .scalarLoad .lwu 5 6 0x923), (0x92332287, .scalarLoad .flw 5 6 0x923),
    (0x92333287, .scalarLoad .fld 5 6 0x923), (0x927301A3, .scalarStore .sb 6 7 0x923),
    (0x927311A3, .scalarStore .sh 6 7 0x923), (0x927321A3, .scalarStore .sw 6 7 0x923),
    (0x927331A3, .scalarStore .sd 6 7 0x923), (0x927321A7, .scalarStore .fsw 6 7 0x923),
    (0x927331A7, .scalarStore .fsd 6 7 0x923), (0x087322AF, .amo .swap false false false 5 6 7),
    (0x027332AF, .amo .add true false true 5 6 7), (0x247322AF, .amo .xor false true false 5 6 7),
    (0x667332AF, .amo .and true true true 5 6 7), (0x407322AF, .amo .or false false false 5 6 7),
    (0x827332AF, .amo .min true false true 5 6 7), (0xA47322AF, .amo .max false true false 5 6 7),
    (0xC67332AF, .amo .minu true true true 5 6 7), (0xE07322AF, .amo .maxu false false false 5 6 7),
    (0x140322AF, .lr false true false 5 6), (0x1A7332AF, .sc true false true 5 6 7),
    (0x0FF0000F, .fence 0 15 15), (0x8330000F, .fenceTso), (0x0000100F, .fenceI), (0x12730073, .sfenceVma 7 6),
    (0x00000073, .ecall), (0x00100073, .ebreak), (0x10200073, .sret), (0x30200073, .mret), (0x10500073, .wfi),
    (0x8C5312F3, .csrAccess .rw false 0x8C5 5 6), (0x8C5352F3, .csrAccess .rw true 0x8C5 5 6),
    (0x8C5322F3, .csrAccess .rs false 0x8C5 5 6), (0x8C5362F3, .csrAccess .rs true 0x8C5 5 6),
    (0x8C5332F3, .csrAccess .rc false 0x8C5 5 6), (0x8C5372F3, .csrAccess .rc true 0x8C5 5 6)] : List (Nat × Instr)).all
    (fun x => decodeTableWord 32 x.1 == some x.2) = true := by decide +kernel

/-- custom-0 (R223, R224): one word of each row, its match value with the fields at their places. -/
theorem test_decode_custom0 : ([
    (0x036B0E0B, .takingAdd false true 22 22 28), (0x0B4F030B, .takingSub false true 20 30 6),
    (0x12E2020B, .takingSll false true 14 4 4), (0x1B0A080B, .takingSlt false true 16 20 16),
    (0x24860B0B, .takingSltu true false 8 12 22), (0x2EE20B0B, .takingXor true true 14 4 22),
    (0x36440A0B, .takingSrl true true 4 8 20), (0x3882020B, .takingSra false false 8 4 4),
    (0x438D050B, .takingOr false true 24 26 10), (0x4E6A020B, .takingAnd true true 6 20 4),
    (0x53840E0B, .takingAddw false true 24 8 28), (0x58210D0B, .takingSubw false false 2 2 26),
    (0x666C0B0B, .takingSllw true true 6 24 22), (0x6FE30F0B, .takingSrlw true true 30 6 30),
    (0x7663070B, .takingSraw true true 6 6 14), (0x79AA070B, .takingMul false false 26 20 14),
    (0x844F0A0B, .takingMulh true false 4 30 20), (0x88E3030B, .takingMulhu false false 14 6 6),
    (0x91AF050B, .takingMulw false false 26 30 10), (0x9B6C070B, .takingMin false true 22 24 14),
    (0xA5CB030B, .takingMax true false 28 22 6), (0xAB26010B, .takingMinu false true 18 12 2),
    (0xB046050B, .takingMaxu false false 4 12 10), (0x03611D0B, .putx false true 22 2 26),
    (0x0804140B, .take false 8 8), (0x1010190B, .prempty 1 18), (0x18111F0B, .prtest 1 2 30),
    (0x23C3170B, .vidxrd true 28 6 14), (0x2A47120B, .vidxwr true 4 14 4), (0x30841E0B, .vpush false 8 8 28),
    (0x38A3190B, .bfx false false 10 6 18), (0x4562180B, .bfxs true false 22 4 16),
    (0x4C641E0B, .bfi true false 6 8 28), (0x07C2200B, .tenq true true 28 4),
    (0x0CCA250B, .tenqt true false 12 20 10), (0x200B2C0B, .klaunch false 22 24),
    (0x2801250B, .ticket false 2 10), (0x019F300B, .pgbiasHost true 1 30), (0x00C6300B, .pgbiasDev true 4 12),
    (0x080C300B, .pwhint 24), (0x0F90400B, .sbwait 249), (0x580E5F0B, .vcfg 5 2 28 30),
    (0x8622DA0B, .vcfgi 8 1 69 20), (0x808F610B, .vmvx 8 8 30 2), (0xC389620B, .vmvs 12 24 18 4),
    (0x1000200B, .texit), (0x1800200B, .tyield), (0x1000300B, .vfence)] : List (Nat × Instr)).all
    (fun x => decodeTableWord 32 x.1 == some x.2) = true := by decide +kernel

/-- custom-1 (R226): one word of each row. -/
theorem test_decode_custom1 : ([
    (0x6031032B, .ldsRlx 3 3 2 6), (0x622A0E2B, .ldsAcq 3 2 20 28), (0x282100AB, .stsRlx 1 2 2 1),
    (0x4D4701AB, .stsRel 2 20 14 3), (0x3200002B, .fenceSAcq 1), (0x7400002B, .fenceSRel 3),
    (0x7600002B, .fenceSAr 3), (0x01011D2B, .bind 16 2 26), (0x020B132B, .unbind 22 6), (0x840F102B, .acq 4 30),
    (0x8607152B, .tryacq 4 14 10), (0x280D102B, .rel 1 26), (0x8A02102B, .arrive 4 4),
    (0x8CC4102B, .waitph 4 12 8), (0x4EA81F2B, .testph 2 10 16 30), (0xB0E42A2B, .freeze true 3 14 8 20),
    (0x92C3222B, .thaw true 1 12 6 4), (0xB42D252B, .cpy true 3 2 26 false true 2),
    (0xA6AD232B, .cpyb true 2 10 26 false false 6), (0x080621AB, .shpld 12 3), (0x0A09212B, .shpst 18 2),
    (0x1328442B, .talloc 1 false true 18 16 8), (0xFF894E2B, .tallocZ 15 true true 24 18 28),
    (0x000C502B, .tfree 24), (0xF2A95A2B, .tld 15 10 18 20), (0xB5855A2B, .tst 11 24 10 20),
    (0x9168352B, .gld true 1 22 16 10), (0xB383382B, .gldv true 3 24 6 16), (0x056C3E2B, .gjoin 22 24 28),
    (0x0604302B, .gleave 8)] : List (Nat × Instr)).all
    (fun x => decodeTableWord 32 x.1 == some x.2) = true := by decide +kernel

/-- custom-2 (R230): one word of each row, the first 40. -/
theorem test_decode_vectorInteger : ([
    (0x04260E5B, .vaddVv 4 2 12 28), (0x036F195B, .vaddVs 3 6 30 18), (0x026C2C5B, .vaddVi 2 6 24 24),
    (0x06BB095B, .vfaddVv 6 3 22 18), (0x079C155B, .vfaddVs 7 1 24 10), (0x0E19045B, .vsubVv 6 1 18 8),
    (0x0B44195B, .vsubVs 3 4 8 18), (0x0DB50E5B, .vfsubVv 5 3 10 28), (0x0CB31F5B, .vfsubVs 4 3 6 30),
    (0x12251F5B, .vrsubVs 2 2 10 30), (0x115B2F5B, .vrsubVi 1 5 22 30), (0x1973065B, .vmulVv 1 7 6 12),
    (0x1B2D1B5B, .vmulVs 3 2 26 22), (0x1B93055B, .vfmulVv 3 1 6 10), (0x1B93155B, .vfmulVs 3 1 6 10),
    (0x2141095B, .vmulhVv 1 4 2 18), (0x2148175B, .vmulhVs 1 4 16 14), (0x2E790C5B, .vmulhnVv 6 7 18 24),
    (0x2E1B1F5B, .vmulhnVs 6 1 22 30), (0x327C055B, .vaddsVv 2 7 24 10), (0x35571F5B, .vaddsVs 5 5 14 30),
    (0x32482B5B, .vaddsVi 2 4 16 22), (0x3F580E5B, .vsubsVv 7 5 16 28), (0x3A24145B, .vsubsVs 2 2 8 8),
    (0x4314085B, .vminVv 3 1 8 16), (0x44421E5B, .vminVs 4 4 4 28), (0x47AB095B, .vfminVv 7 2 22 18),
    (0x419C1F5B, .vfminVs 1 1 24 30), (0x4F740C5B, .vmaxVv 7 7 8 24), (0x4B74195B, .vmaxVs 3 7 8 18),
    (0x4BAE085B, .vfmaxVv 3 2 28 16), (0x49A9145B, .vfmaxVs 1 2 18 8), (0x5673095B, .vandVv 6 7 6 18),
    (0x553E155B, .vandVs 5 3 28 10), (0x52162D5B, .vandVi 2 1 12 26), (0x5C25095B, .vorVv 4 2 10 18),
    (0x5F63195B, .vorVs 7 6 6 18), (0x592A2E5B, .vorVi 1 2 20 28), (0x6551025B, .vxorVv 5 5 2 4),
    (0x673F175B, .vxorVs 7 3 30 14)] : List (Nat × Instr)).all
    (fun x => decodeTableWord 32 x.1 == some x.2) = true := by decide +kernel

/-- custom-2 (R230): one word of each row, the next 40. -/
theorem test_decode_vectorMoves : ([
    (0x6519245B, .vxorVi 5 1 18 8), (0x6D7F0B5B, .vsllVv 5 7 30 22), (0x6C471F5B, .vsllVs 4 4 14 30),
    (0x6E1C2B5B, .vsllVi 6 1 24 22), (0x72730E5B, .vsrlVv 2 7 6 28), (0x77181C5B, .vsrlVs 7 1 16 24),
    (0x755C2B5B, .vsrlVi 5 5 24 22), (0x7B24055B, .vsraVv 3 2 8 10), (0x7A12195B, .vsraVs 2 1 4 18),
    (0x7E5A285B, .vsraVi 6 5 20 16), (0x84AD045B, .vfdivVv 4 2 26 8), (0x85B3195B, .vfdivVs 5 3 6 18),
    (0x8982095B, .vselVv 1 8 4 18), (0x89511F5B, .vselVs 1 5 2 30), (0x8B6D265B, .vselVi 3 6 26 12),
    (0x9B570B5B, .vcmpVv 3 3 5 14 22), (0xBE1B1E5B, .vcmpVs 7 6 1 22 28), (0x991A2C5B, .vcmpVi 3 1 1 20 24),
    (0xBF93045B, .vfcmpVv 7 7 1 6 8), (0xB1B8175B, .vfcmpVs 6 1 3 16 14), (0xC7110A5B, .vperm 7 1 2 20),
    (0xCF47195B, .vslupVs 7 4 14 18), (0xCDD8225B, .vslupVi 5 13 16 4), (0xD3DE1E5B, .vsldnVs 3 13 28 28),
    (0xD4FC2E5B, .vsldnVi 4 15 24 28), (0xDEDE195B, .vsl1up 6 13 28 18), (0xE362285B, .vxchg 3 6 4 16),
    (0xEA9A0B5B, .vscale 2 1 20 22), (0x261E365B, .vmac 4 6 1 28 12), (0x3693345B, .vffma 6 6 1 6 8),
    (0x5152415B, .vwmac 10 1 5 4 2), (0x44BB4A5B, .vffms 8 4 3 22 20), (0x76255A5B, .vwmul 14 6 2 10 20),
    (0x66B9535B, .vfnfma 12 6 3 18 6), (0x37116E5B, .vcvt 6 7 1 2 28), (0x9599685B, .vcvtSr 2 5 9 18 16),
    (0x02E3745B, .vmv 2 14 6 8), (0x0DE6735B, .vmvScalar 5 14 12 6), (0x12FD755B, .vtake 2 15 26 10),
    (0x1F23795B, .vcompress 7 2 6 18)] : List (Nat × Instr)).all
    (fun x => decodeTableWord 32 x.1 == some x.2) = true := by decide +kernel

/-- custom-2 (R230): one word of each row, the others. -/
theorem test_decode_vectorRest : ([
    (0x2378745B, .vclz 3 7 16 8), (0x2792735B, .vfabs 7 1 4 6), (0x2953795B, .vpopc 1 5 6 18),
    (0x2FA5765B, .vfneg 7 2 10 12), (0x36957C5B, .vfsqrt 6 1 10 24), (0x39A1765B, .vfclass 1 2 2 12),
    (0x47A57C5B, .vrcp 7 10 24), (0x4CAE785B, .vrsqrt 4 28 16), (0x57A5715B, .vexp2 7 10 2),
    (0x59A1725B, .vlog2 1 2 4), (0x61A97E5B, .vsin 1 18 28), (0x6BA7755B, .vcos 3 14 10),
    (0x745F755B, .vredsum 4 5 30 10), (0x71BF775B, .vfredsum 1 3 30 14), (0x7F62715B, .vredmin 7 6 4 2),
    (0x8471755B, .vredmax 4 7 2 10), (0x8E00F3DB, .pand 6 1 7), (0x8E12F2DB, .por 6 5 5),
    (0x8F20F35B, .pxor 7 1 6), (0x893073DB, .pnot 1 7), (0x8B4C705B, .pset 3 24), (0x8850F85B, .pfirst 1 16),
    (0x8C6070DB, .pmskup 4 1), (0x8871F95B, .pcnt 3 18), (0x912C715B, .vedge 1 24 2),
    (0x9EA27F5B, .vrbox 6 4 30), (0xA5AE7B5B, .vrtri 5 28 22), (0xAEA17F5B, .vtex 6 2 30),
    (0xB5A4785B, .vtexl 5 8 16), (0xBA66765B, .blendc 2 12 12), (0xC000705B, .vfifoPushVm),
    (0xC100705B, .vfifoPushVc), (0xC200705B, .vfifoPopCv), (0xC300705B, .vfifoPopMv)] : List (Nat × Instr)).all
    (fun x => decodeTableWord 32 x.1 == some x.2) = true := by decide +kernel

/-- custom-3 (R236, R237, R238): one word of each row. -/
theorem test_decode_custom3 : ([
    (0x49C90E7B, .vld 9 1 3 18 28), (0x16540E7B, .vst 2 6 1 8 28), (0x73E80E7B, .vldff 14 3 3 16 28),
    (0xA17D0E7B, .vldsr 2 4 1 1 26 28), (0xD7E2137B, .vlds 26 7 3 2 4 6), (0xF2FA247B, .vsts 30 2 3 3 20 8),
    (0x95F4347B, .vldx 18 5 3 3 8 8), (0x435F467B, .vstx 8 3 1 1 30 12), (0xA7CF5C7B, .vamoAdd 20 7 3 30 24),
    (0x64D15F7B, .vamoSwap 12 4 3 2 30), (0x55A65C7B, .vamoMin 10 5 2 12 24),
    (0x47FD5E7B, .vamoMax 8 7 3 26 28), (0x3299657B, .mrow 6 false 2 9 2 1 10), (0x3091ED7B, .msca 6 18 1 26),
    (0x9000717B, .mcfg 18 2), (0xB19871FB, .mldb 22 9 2 false false 3), (0x8200707B, .mzero 16),
    (0x8392747B, .mrd 16 9 true 8), (0xF407747B, .mdrainSt 30 false 14 8),
    (0x5585747B, .mdrainAdd 10 true 10 8), (0x66A8777B, .mdrainxSt 12 10 16 14),
    (0xB7D27F7B, .mdrainxAdd 22 13 4 30)] : List (Nat × Instr)).all
    (fun x => decodeTableWord 32 x.1 == some x.2) = true := by decide +kernel

/-- The 16-bit forms (R240): one word of each row. -/
theorem test_decode_vq : ([
    (0xF202, .vqVadd 30 8), (0x4786, .vqVsub 8 30), (0x460A, .vqVmul 8 24), (0x840E, .vqVmac 16 16),
    (0xE592, .vqVfadd 28 22), (0x6196, .vqVfmul 12 6), (0x859A, .vqVffma 16 22), (0x939E, .vqVand 18 14),
    (0x20A2, .vqVor 4 2), (0xD1A6, .vqVxor 26 6), (0x822A, .vqVsll 16 8), (0xA52E, .vqVsrl 20 20),
    (0xC4B2, .vqVmv 24 18), (0x1436, .vqVsel 2 16), (0xC2BA, .vqVld 24 10), (0x113E, .vqVst 2 4)] : List (Nat × Instr)).all
    (fun x => decodeTableWord 16 x.1 == some x.2) = true := by decide +kernel

/-! ### The manual's example words -/

/-- The words that chapter 13 prints beside its scalar and system examples. -/
theorem test_examples_13 : ([
    (0x0055160B, .putx false false 5 10 12), (0x0804930B, .take false 9 6), (0x1000160B, .prempty 0 12),
    (0x1821928B, .prtest 2 3 5), (0x2034910B, .vidxrd false 3 9 2), (0x2804920B, .vidxwr false 0 9 4),
    (0x3873128B, .bfx false false 7 6 5), (0x4073128B, .bfxs false false 7 6 5),
    (0x4873128B, .bfi false false 7 6 5), (0x00B5200B, .tenq false false 11 10),
    (0x08B5228B, .tenqt false false 11 10 5), (0x1000200B, .texit), (0x1800200B, .tyield),
    (0x2005228B, .klaunch false 10 5), (0x2805228B, .ticket false 10 5), (0x01B5300B, .pgbiasHost true 3 10),
    (0x0805300B, .pwhint 10), (0x1000300B, .vfence), (0x0040400B, .sbwait 4)] : List (Nat × Instr)).all
    (fun x => decodeTableWord 32 x.1 == some x.2) = true := by decide +kernel

/-- The words that chapter 14 prints beside its memory examples. -/
theorem test_examples_14 : ([
    (0x622502AB, .ldsAcq 3 2 10 5), (0x6C65012B, .stsRel 3 6 10 2), (0x1005007B, .vld 2 0 0 10 0),
    (0x1015807B, .vst 2 0 0 11 0), (0x1025007B, .vldff 2 0 0 10 0), (0x6925117B, .vlds 13 1 0 2 10 2),
    (0x2272D32B, .tld 2 7 5 6), (0x8482D3AB, .tst 8 8 5 7)] : List (Nat × Instr)).all
    (fun x => decodeTableWord 32 x.1 == some x.2) = true := by decide +kernel

/-- The words that chapter 15 prints beside its synchronisation and engine examples. -/
theorem test_examples_15 : ([
    (0x00C5952B, .bind 12 11 10), (0x0205952B, .unbind 11 10), (0x6405102B, .acq 3 10),
    (0x660512AB, .tryacq 3 10 5), (0x6805102B, .rel 3 10), (0x6A05102B, .arrive 3 10),
    (0x6C05902B, .waitph 3 0 11), (0x6E6512AB, .testph 3 6 10 5), (0x006525AB, .freeze false 0 6 10 11),
    (0x90B5202B, .freeze true 1 11 10 0), (0xC265202B, .thaw true 4 6 10 0), (0x90B532AB, .gld true 1 11 10 5),
    (0xA2B532AB, .gldv true 2 11 10 5), (0x04B532AB, .gjoin 11 10 5), (0x0605302B, .gleave 10),
    (0x207342AB, .talloc 2 false false 7 6 5), (0x887342AB, .tallocZ 8 false false 7 6 5),
    (0x867342AB, .talloc 8 true true 7 6 5), (0x080620AB, .shpld 12 1), (0x0A0620AB, .shpst 12 1),
    (0xA4A2A02B, .cpy true 2 10 5 false false 0), (0xA4A2A8AB, .cpy true 2 10 5 true false 1),
    (0xB673212B, .cpyb true 3 7 6 false false 2)] : List (Nat × Instr)).all
    (fun x => decodeTableWord 32 x.1 == some x.2) = true := by decide +kernel

/-- The words that chapter 16 prints beside its vector arithmetic examples. -/
theorem test_examples_16 : ([
    (0x2005D28B, .vcfg 2 0 11 5), (0x2210530B, .vcfgi 2 0 32 6), (0x8208548B, .vcfgi 8 0 16 9),
    (0x0021815B, .vaddVv 0 2 3 2), (0x3002A25B, .vaddsVi 0 0 5 4), (0x206490DB, .vmulhVs 0 6 9 1),
    (0x7811A05B, .vsraVi 0 1 3 0), (0x2022F1DB, .vclz 0 2 5 3), (0x1010445B, .vwmac 2 0 1 0 8),
    (0xA120105B, .vcmpVs 4 1 2 0 0), (0xB2A0805B, .vfcmpVv 6 2 2 1 0), (0x8943F05B, .pset 1 7),
    (0x8A6070DB, .pmskup 2 1), (0x8850F2DB, .pfirst 1 5), (0x89A1815B, .vselVv 1 10 3 2),
    (0x702070DB, .vredsum 0 2 0 1), (0x70A070DB, .vfredsum 0 2 0 1), (0x08A0325B, .vffma 1 0 2 0 4),
    (0x18A390DB, .vfmulVs 0 2 7 1), (0x50C0E15B, .vcvt 10 0 12 1 2), (0xD090615B, .vcvtSr 10 0 9 0 2)] : List (Nat × Instr)).all
    (fun x => decodeTableWord 32 x.1 == some x.2) = true := by decide +kernel

/-- The words that chapter 17 prints beside its vector movement examples. -/
theorem test_examples_17 : ([
    (0x0020715B, .vmv 0 2 0 2), (0x0822F15B, .vmvScalar 0 2 5 2), (0x1024725B, .vtake 0 2 8 4),
    (0x1A20725B, .vcompress 2 2 0 4), (0xC022815B, .vperm 0 2 5 2), (0xC82221DB, .vslupVi 0 2 4 3),
    (0xD024915B, .vsldnVs 0 2 9 2), (0xD8A3905B, .vsl1up 0 10 7 0), (0xE02FA05B, .vxchg 0 2 31 0),
    (0xA004660B, .vmvx 10 0 8 12), (0x2262E18B, .vmvs 2 6 5 3), (0x3025140B, .vpush false 2 10 8)] : List (Nat × Instr)).all
    (fun x => decodeTableWord 32 x.1 == some x.2) = true := by decide +kernel

/-- The words that chapter 18 prints beside its matrix examples. -/
theorem test_examples_18 : ([
    (0x2988707B, .mldb 5 8 2 false false 0), (0x4180777B, .mldb 8 8 0 false false 14),
    (0x19C670FB, .mldb 3 12 1 true false 1), (0x0080607B, .mrow 0 false 0 8 0 0 0),
    (0x15C46A7B, .mrow 2 true 1 12 1 0 20), (0x36896A7B, .mrow 6 true 2 8 2 1 20),
    (0x03A0747B, .mrd 0 10 false 8), (0x4B82727B, .mrd 9 8 true 4), (0x2D047A7B, .mdrainAdd 5 false 8 20),
    (0x2C807A7B, .mdrainSt 5 true 0 20), (0x2F947A7B, .mdrainxAdd 5 9 8 20)] : List (Nat × Instr)).all
    (fun x => decodeTableWord 32 x.1 == some x.2) = true := by decide +kernel

/-- The words that chapter 19 prints beside its graphics examples. -/
theorem test_examples_19 : ([
    (0x9123705B, .vedge 1 6 0), (0x9AA5745B, .vrbox 2 10 8), (0xA0A5F85B, .vrtri 0 11 16),
    (0xA8A6745B, .vtex 0 12 8), (0xB0A6745B, .vtexl 0 12 8), (0xBB67725B, .blendc 3 14 4)] : List (Nat × Instr)).all
    (fun x => decodeTableWord 32 x.1 == some x.2) = true := by decide +kernel

/-! ### The manual's worked numbers -/

/-- R3's example: hart 7,541 is in slot 5 of core 2 of quad 235. -/
theorem test_numbering : quadOf 7541 = 235 ∧ coreOf 7541 = 4 * 235 + 2 ∧ 7541 % 8 = 5 ∧ dieOf 7541 = 2 := by decide

/-- The examples after R26 and R60: the interface and home slice of 0x0003_41A0_4ABC. -/
theorem test_placement : interfaceOf 0 0x341A04ABC = 40 ∧ interfaceOf 2 0x341A04ABC = 26 ∧ sliceIndex 0x341A04ABC = 11 ∧
    State.reset.homeQuad 0x341A04ABC = 203 := by decide +kernel

/-- The examples of R210 and R212. -/
theorem test_nanPayloads : nanPayload 235 9 = 0x7FDD6009 ∧ nanMerge 0x7FDD6009 0x7FC50003 = 0x7FC50003 ∧
    nanMerge 0x7FC50003 0x7FDD6009 = 0x7FC50003 := by decide

/-- The example of R214: element 5 under seed 5 draws 0. -/
theorem test_stochastic : srBits 5 0 5 = 0 := by decide

/-- The example after R208: E4M3 0x2A is 0.3125. -/
theorem test_e4m3 : (roundVal fmtF32 .rne false (decodeF (fmtOfReg (fmtPreset 1)) 0x2A)).1 = 0x3EA00000 := by decide +kernel

/-- The example of R209: the exact sum of bf16 products is 1.0, where f32 addition in order would give +0. -/
theorem test_exactRow : exactRow 0 none ([0x4580, 0x3F80, 0xC580].map (decodeF fmtBf16)) ([0x4580, 0x3F80, 0x4580].map (decodeF fmtBf16)) =
    (0x3F800000, 0) := by decide +kernel

/-- The example after R318: the tree over eight samples gives 5, with NX. -/
theorem test_tree : treeSum (fun a b => roundScalar fmtF32 .rne (addV .rne (decodeF fmtF32 a) (decodeF fmtF32 b))) 5
    ([0x4B800000, 0x3F800000, 0x3F800000, 0x3F800000, 0xCB800000, 0x3F800000, 0x3F800000, 0x3F800000].map some ++ List.replicate 24 none) =
    (some 0x40A00000, fNX) := by decide +kernel

/-- The same example: 500.0 becomes E4M3's 448, saturated, with OF and NX. -/
theorem test_saturate : roundVal (fmtOfReg (fmtPreset 1)) .rne false (decodeF fmtF32 0x43FA0000) = (0x7E, fOF ||| fNX) := by
  decide +kernel

/-- The example after R366: red at alpha 128 over opaque black. -/
theorem test_blend : blendPixel 0x800000FF 0xFF000000 = 0xFF000080 := by decide

/-- The example of R355: lane 3 is inside, lane 4 lies on edge 0, which TL 0 excludes and TL 1 does not. -/
theorem test_edges :
    let rec_ (tl : Nat) : List Byte := [0x00000000FFFFFFFF, 72, 0x0000000100000000, 0, 1, 0, tl, 0].flatMap (leBytes 8)
    edgeInside (rec_ 0) 56 8 = true ∧ edgeInside (rec_ 0) 72 8 = false ∧ edgeInside (rec_ 1) 72 8 = true := by decide +kernel

/-- The fetch stream of chapter 12: a 16-bit VADD, a taking ADD, then a parcel of quadrant 0b01. -/
theorem test_stream :
    (decode [0x42, 0x19, 0x8B, 0x82]).toOption = some (.vqVadd 3 5, [0x8B, 0x82]) ∧
    (decode [0x8B, 0x82, 0xC2, 0x04, 0x01, 0x00]).toOption = some (.takingAdd true false 12 5 5, [0x01, 0x00]) ∧
    (decode [0x01, 0x00]).toOption = none := by decide +kernel

/-! ### One step -/

/-- A step fetches and runs `addi x5, x0, -1`: the result is sign extended and the pc moves on by 4. -/
theorem test_step_addi : let t := nextOf (step (fetching 0xFFF00293))
    (t.hart 0).xv 5 = 0xFFFFFFFFFFFFFFFF ∧ (t.hart 0).pc = ((fetching 0).hart 0).pc + 4 := by decide +kernel

/-- The last parcel of the fetch stream takes cause 2 with the parcel in stval (R239). -/
theorem test_step_illegal : let t := nextOf (step (fetching 0x1))
    (t.hart 0).csr.scause = 2 ∧ (t.hart 0).csr.stval = 1 ∧ (t.hart 0).csr.sepc = ((fetching 0).hart 0).pc := by decide +kernel

/-! ### The hypotheses of every statement are met -/

/-- The hypotheses of IntegerResultsAndControlFlow are met. -/
theorem test_meets_IntegerResultsAndControlFlow :
    (∃ (s : State) (i : AluInstr) (src : List Reg) (d : Reg) (v : Word),
      aluResult s.me i = some (src, d, v) ∧ s.Ready (xs src) (xs [d])) ∧
    (∃ (s : State) (op : BrOp) (x y : Reg),
      let u := s.me.xv x
      let v := s.me.xv y
      let taken := match op with
        | BrOp.beq => u = v
        | BrOp.bne => u ≠ v
        | BrOp.blt => BitVec.toInt u < BitVec.toInt v
        | BrOp.bge => BitVec.toInt v ≤ BitVec.toInt u
        | BrOp.bltu => u.toNat < v.toNat
        | BrOp.bgeu => v.toNat ≤ u.toNat
      s.Ready (xs [x, y]) [] ∧ taken) ∧
    (∃ (s : State) (op : BrOp) (x y : Reg),
      let u := s.me.xv x
      let v := s.me.xv y
      let taken := match op with
        | BrOp.beq => u = v
        | BrOp.bne => u ≠ v
        | BrOp.blt => BitVec.toInt u < BitVec.toInt v
        | BrOp.bge => BitVec.toInt v ≤ BitVec.toInt u
        | BrOp.bltu => u.toNat < v.toNat
        | BrOp.bgeu => v.toNat ≤ u.toNat
      s.Ready (xs [x, y]) [] ∧ ¬taken) ∧
    (∃ (s : State) (d : Reg), s.Ready [] (xs [d])) ∧
    (∃ (s : State) (d x : Reg), s.Ready (xs [x]) (xs [d])) := by
  refine ⟨⟨st (withX 31 7), .rr .add 31 31 31, [31, 31], 31, 14, ?_⟩,
    ⟨st {}, .beq, 31, 1, ?_⟩,
    ⟨st {}, .blt, 31, 1, ?_⟩,
    ⟨st {}, 31, ?_⟩,
    ⟨st {}, 31, 1, ?_⟩⟩
  all_goals decide +kernel

/-- The hypotheses of FloatingResult are met. -/
theorem test_meets_FloatingResult :
    (∃ (s : State) (i : AluInstr) (m : RMode) (src : List (RFile × Nat)) (d : Reg) (v : Word) (g : Flags),
      s.me.rmode (rmOf i) = some m ∧ fpResult s.me m i = some (src, d, v, g) ∧ s.Ready src (fs [d])) ∧
    (∃ (s : State) (i : AluInstr) (m : RMode) (src : List (RFile × Nat)) (d : Reg) (v : Word) (g : Flags),
      s.me.rmode (rmOf i) = some m ∧ fpToX s.me m i = some (src, d, v, g) ∧ s.Ready src (xs [d])) ∧
    (∃ (s : State) (i : AluInstr) (rm : BitVec 3), s.me.rmode rm = none ∧ ∃ w f d x, i = .ftoi w f rm d x) ∧
    (∃ (s : State) (rm : BitVec 3), s.me.rmode rm = none) ∧
    (∃ (a b : Word) (n k : Bool) (x y : Exact), fvalOf .d a = .fin n x ∧ fvalOf .d b = .fin k y) ∧
    (∃ (a b c : Word) (n k l : Bool) (x y z : Exact), fvalOf .s a = .fin n x ∧ fvalOf .s b = .fin k y ∧ fvalOf .s c = .fin l z) := by
  refine ⟨⟨st {}, .farith .add .d 7 31 1 2, .rne, [(.f, 1), (.f, 2)], 31, 0, 0, ?_⟩,
    ⟨st {}, .fcmp .eq .d 31 1 2, .rne, [(.f, 1), (.f, 2)], 31, 1, 0, ?_⟩,
    ⟨st {}, .ftoi .l .d 5 3 4, 5, by decide +kernel, .l, .d, 3, 4, rfl⟩,
    ⟨st {}, 5, ?_⟩,
    ⟨0x3FF0000000000000, 0x8000000000000000, false, true, _, _, rfl, rfl⟩,
    ⟨0xFFFFFFFF3F800000, 0xFFFFFFFF80000001, 0xFFFFFFFF7F7FFFFF, false, true, false, _, _, _, rfl, rfl, rfl⟩⟩
  all_goals decide +kernel

/-- The hypotheses of DivideOwesResult are met. -/
theorem test_meets_DivideOwesResult :
    (∃ (s : State) (d a b : Reg), s.Ready (xs [a, b]) (xs [d])) ∧
    (∃ (s : State) (sqrt : Bool) (rm : BitVec 3) (m : RMode) (d a b : Reg),
      s.me.rmode rm = some m ∧ s.Ready (fs (if sqrt = true then [a] else [a, b])) (fs [d])) ∧
    (∃ a b : Word, b ≠ 0 ∧ ¬ (a = BitVec.intMin 64 ∧ b = BitVec.allOnes 64)) ∧
    (∃ v : BitVec 32, v = 0) ∧
    (∃ u v : BitVec 32, v ≠ 0 ∧ ¬ (u = BitVec.intMin 32 ∧ v = BitVec.allOnes 32)) ∧
    (∃ u v : BitVec 32, u = BitVec.intMin 32 ∧ v = BitVec.allOnes 32) ∧
    (∃ (a b : Word) (n k : Bool) (x y : Exact), fvalOf .d a = .fin n x ∧ fvalOf .d b = .fin k y ∧ y.num ≠ 0) ∧
    (∃ (a : Word) (x : Exact), fvalOf .d a = .fin false x ∧ x.num ≠ 0) := by
  refine ⟨⟨st {}, 31, 1, 2, ?_⟩,
    ⟨st {}, true, 7, .rne, 31, 1, 2, ?_⟩,
    ⟨BitVec.intMin 64, 1, ?_⟩, ⟨0, ?_⟩, ⟨BitVec.intMin 32, 1, ?_⟩, ⟨BitVec.intMin 32, BitVec.allOnes 32, ?_⟩,
    ⟨0, 0x8000000000000001, false, true, _, _, rfl, rfl, by decide +kernel⟩,
    ⟨1, _, rfl, by decide +kernel⟩⟩
  all_goals decide +kernel

/-- The hypotheses of LoadsAndStores are met. -/
theorem test_meets_LoadsAndStores :
    ( ∃ (s : State) (op : LoadOp) (d a : Reg) (i : BitVec 12) (c : Acc),
      let va := s.me.xv a + BitVec.signExtend 64 i
      let n := loadSize op
      s.Ready (xs [a]) [(loadFile op, d.toNat)] ∧ s.scalarAccess s.cur va n AccKind.load = .ok c ∧
      s.Clear c n ∧ isMmio c.pa = false) ∧
    ( ∃ (s : State) (op : LoadOp) (d a : Reg) (i : BitVec 12),
      let va := s.me.xv a + BitVec.signExtend 64 i
      s.Ready (xs [a]) [(loadFile op, d.toNat)] ∧ 64 < va.toNat % 64 + loadSize op) ∧
    ( ∃ (s : State) (op : StoreOp) (a b : Reg) (i : BitVec 12) (c : Acc),
      let va := s.me.xv a + BitVec.signExtend 64 i
      let n := storeSize op
      s.Ready [(RFile.x, a.toNat), (storeFile op, b.toNat)] [] ∧
      s.scalarAccess s.cur va n AccKind.store = .ok c ∧ s.Clear c n ∧ isMmio c.pa = false) ∧
    ( ∃ (s : State) (op : StoreOp) (a b : Reg) (i : BitVec 12),
      let va := s.me.xv a + BitVec.signExtend 64 i
      s.Ready [(RFile.x, a.toNat), (storeFile op, b.toNat)] [] ∧
      64 < va.toNat % 64 + storeSize op) := by
  refine ⟨⟨mapped, .lw, 31, 0, 0x7FC, accOf ((mapped).scalarAccess 0 0x7FC 4 .load), ?_⟩,
    ⟨st {}, .ld, 31, 0, 0x39, ?_⟩,
    ⟨mapped, .sw, 0, 31, 4, accOf ((mapped).scalarAccess 0 4 4 .store), ?_⟩,
    ⟨st {}, .sd, 0, 31, 0x3F, ?_⟩⟩
  all_goals repeat' apply And.intro
  all_goals first | decide +kernel | rfl

/-- The hypotheses of AtomicsAndReservations are met. -/
theorem test_meets_AtomicsAndReservations :
    ( ∃ (s : State) (dbl rl : Bool) (d a b : Reg) (c : Acc),
      let va := s.me.xv a
      let n := if dbl = true then 8 else 4
      s.Ready (xs [a, b]) (xs [d]) ∧ s.alignedAccess s.cur va n AccKind.store 6 7 = .ok c ∧ s.Clear c n ∧
      (rl = true → s.me.releaseWait = none)) ∧
    (∃ (s : State) (dbl : Bool) (d a b : Reg),
      s.Ready (xs [a, b]) (xs [d]) ∧ (BitVec.toNat (s.me.xv a) % if dbl = true then 8 else 4) ≠ 0) ∧
    ( ∃ (s : State) (dbl rl : Bool) (d a : Reg) (c : Acc),
      let va := s.me.xv a
      let n := if dbl = true then 8 else 4

      s.Ready (xs [a]) (xs [d]) ∧ s.reservedAccess va n .load 4 = .ok c ∧
      s.Clear c n ∧ (rl = true → s.me.releaseWait = none)) ∧
    ( ∃ (s : State) (dbl rl : Bool) (d a b : Reg) (c : Acc),
      let va := s.me.xv a
      let n := if dbl = true then 8 else 4
      s.Ready (xs [a, b]) (xs [d]) ∧ s.reservedAccess va n .store 6 = .ok c ∧
      isMmio c.pa = false ∧ s.Clear c n ∧ (rl = true → s.me.releaseWait = none)) ∧
    (∃ (s : State) (dbl : Bool) (d a : Reg) (c : Acc), s.Ready (xs [a]) (xs [d]) ∧
      s.alignedReq s.cur { s.reqOf s.cur with excl := true } (s.me.xv a) (if dbl then 8 else 4) .load 4 7 = .ok c ∧ c.e.frozen = true) ∧
    (∃ (s u : State) (dbl : Bool) (d a b : Reg) (e : TlbEntry) (pa : Nat),
      let va := s.me.xv a
      s.Ready (xs [a, b]) (xs [d]) ∧ va.toNat % (if dbl then 8 else 4) = 0 ∧ e.mt ≠ .device ∧ e.frozen = true ∧
      s.translate (s.reqOf s.cur) va .store = .ok e pa u) ∧
    (∃ (s u : State) (dbl : Bool) (d a b : Reg) (e : TlbEntry) (pa : Nat),
      let va := s.me.xv a
      s.Ready (xs [a, b]) (xs [d]) ∧ va.toNat % (if dbl then 8 else 4) = 0 ∧ e.mt ≠ .device ∧ e.frozen = true ∧
      s.translate { s.reqOf s.cur with excl := true } va .store = .ok e pa u) := by
  refine ⟨⟨mapped, true, true, 31, 1, 2, accOf ((mapped).alignedAccess 0 0 8 .store 6 7), ?_⟩,
    ⟨st (withX 1 4), true, 31, 1, 2, ?_⟩,
    ⟨mapped, false, true, 31, 1, accOf ((mapped).reservedAccess 0 4 .load 4), ?_⟩,
    ⟨mapped, true, true, 31, 1, 2, accOf ((mapped).reservedAccess 0 8 .store 6), ?_⟩,
    ⟨ice, true, 31, 1, accOf (ice.alignedReq 0 { ice.reqOf 0 with excl := true } 0 8 .load 4 7), ?_⟩,
    ⟨ice, mapState (ice.translate (ice.reqOf 0) 0 .store), true, 31, 1, 2, page 0 true, 0, ?_⟩,
    ⟨ice, mapState (ice.translate { ice.reqOf 0 with excl := true } 0 .store), false, 31, 1, 2, page 0 true, 0, ?_⟩⟩
  all_goals repeat' apply And.intro
  all_goals first | decide +kernel | rfl

/-- The hypotheses of SynchronisedAccess are met. -/
theorem test_meets_SynchronisedAccess :
    ( ∃ (s : State) (sc : BitVec 3) (z : BitVec 2) (b d : Reg) (c : Acc),
      let va := s.me.xv b
      let n := 2 ^ z.toNat
      ∃ (i : Instr),
      s.Ready (xs [b]) (xs [d]) ∧ s.alignedAccess s.cur va n AccKind.load 4 0 = .ok c ∧ s.Clear c n ∧
      isMmio c.pa = false ∧ (i = Instr.ldsRlx sc z b d ∨ i = Instr.ldsAcq sc z b d)) ∧
    ( ∃ (s : State) (sc : BitVec 3) (z : BitVec 2) (b v : Reg) (c : Acc),
      let va := s.me.xv b
      let n := 2 ^ z.toNat
      ∃ (i : Instr),
      s.Ready (xs [b, v]) [] ∧ s.alignedAccess s.cur va n AccKind.store 6 0 = .ok c ∧ s.Clear c n ∧
      s.me.releaseWait = none ∧ s.me.due true false false = none ∧ isMmio c.pa = false ∧
      (i = Instr.stsRlx sc v b z ∨ i = Instr.stsRel sc v b z)) ∧
    (∃ (s : State) (z : BitVec 2) (b d : Reg),
      s.Ready (xs [b]) (xs [d]) ∧ BitVec.toNat (s.me.xv b) % 2 ^ z.toNat ≠ 0) ∧
    (∃ (s : State) (z : BitVec 2) (b v : Reg),
      s.Ready (xs [b, v]) [] ∧ BitVec.toNat (s.me.xv b) % 2 ^ z.toNat ≠ 0 ∧ s.me.due true false false = none) := by
  refine ⟨⟨mapped, 4, 3, 31, 1, accOf ((mapped).alignedAccess 0 0 8 .load 4 0), .ldsAcq 4 3 31 1, ?_⟩,
    ⟨mapped, 4, 0, 31, 1, accOf ((mapped).alignedAccess 0 0 1 .store 6 0), .stsRel 4 1 31 0, ?_⟩,
    ⟨st (withX 31 4), 3, 31, 1, ?_⟩,
    ⟨st (withX 31 4), 3, 31, 1, ?_⟩⟩
  all_goals repeat' apply And.intro
  all_goals first | decide +kernel | rfl

/-- The hypotheses of FencesAndShootdowns are met. -/
theorem test_meets_FencesAndShootdowns :
    (∃ (s : State) (c : ℕ) (l : ℕ × Bool), l ∈ ((s.cleanCore c).core c).l1d) ∧
    (∃ (s : State) (pred succ : BitVec 4),
      s.me.due true false false = none ∧ s.me.releaseWait = none ∧ (pred = 0 ∨ succ = 0)) ∧
    (
      let rd := fun (v : BitVec 4) => v.getLsbD 1 = true ∨ v.getLsbD 3 = true
      let wr := fun (v : BitVec 4) => v.getLsbD 0 = true ∨ v.getLsbD 2 = true
      ∃ (s : State) (pred succ : BitVec 4),
      s.me.due true false false = none ∧ s.me.releaseWait = none ∧ wr pred ∧ rd succ) ∧
    (
      let rd := fun (v : BitVec 4) => v.getLsbD 1 = true ∨ v.getLsbD 3 = true
      let wr := fun (v : BitVec 4) => v.getLsbD 0 = true ∨ v.getLsbD 2 = true
      ∃ (s : State) (pred succ : BitVec 4),
      s.me.due true false false = none ∧ s.me.releaseWait = none ∧ pred ≠ 0 ∧ wr succ ∧ ¬rd succ) ∧
    (
      let rd := fun (v : BitVec 4) => v.getLsbD 1 = true ∨ v.getLsbD 3 = true
      let wr := fun (v : BitVec 4) => v.getLsbD 0 = true ∨ v.getLsbD 2 = true
      ∃ (s : State) (pred succ : BitVec 4),
      s.me.due true false false = none ∧ s.me.releaseWait = none ∧ rd pred ∧ ¬wr pred ∧ rd succ) ∧
    (∃ (s : State), s.me.due true false false = none ∧ s.me.releaseWait = none) ∧
    (∃ (s : State), s.me.due true false true = none ∧ s.me.releaseWait = none) ∧
    (∃ (s : State), s.me.due true false true = none ∧ s.me.releaseWait = none) ∧
    (∃ (s : State), s.me.due true false true = none ∧ s.me.releaseWait = none) ∧
    (∃ (s : State) (b a : Reg), s.me.mode = Mode.s ∧ s.Ready (xs [a, b]) [] ∧ s.me.releaseWait = none ∧
      (s.shoots.any fun (x : Shootdown) => x.hart == some s.cur) = false ∧ (a = 0 ∨ canonical (s.me.xv a) = true)) ∧
    (∃ (s : State) (b a : Reg), s.me.mode = Mode.s ∧ s.Ready (xs [a, b]) [] ∧ s.me.releaseWait = none ∧
      (s.shoots.any fun (x : Shootdown) => x.hart == some s.cur) = false ∧ a ≠ 0 ∧ canonical (s.me.xv a) = false) ∧
    (∃ (s : State), s.me.mode = Mode.u) := by
  refine ⟨⟨{ st {} with cores := [(0, { l1d := [(3, true)] })] }, 0, (3, false), ?_⟩,
    ⟨st {}, 0, 15, ?_⟩,
    ⟨st {}, 1, 2, ?_⟩,
    ⟨st {}, 8, 1, ?_⟩,
    ⟨st {}, 2, 8, ?_⟩,
    ⟨st {}, ?_⟩,
    ⟨st {}, ?_⟩,
    ⟨st {}, ?_⟩,
    ⟨st {}, ?_⟩,
    ⟨st (super (withX 31 0xFF00000000000000)), 0, 0, ?_⟩,
    ⟨st (super (withX 31 0x0100000000000000)), 0, 31, ?_⟩,
    ⟨st {}, ?_⟩⟩
  all_goals decide +kernel

/-- The hypotheses of CsrReadThenWritten are met. -/
theorem test_meets_CsrReadThenWritten :
    (∃ (s : State) (op : CsrOp) (imm : Bool) (csr : BitVec 12) (d a : Reg) (old : Nat),
      s.csrRead s.cur csr.toNat = some old ∧ s.Ready (if imm = true then [] else xs [a]) (xs [d]) ∧ op = CsrOp.rw ∧
      csr.toNat / 1024 ≠ 3) ∧
    (∃ (s : State) (op : CsrOp) (imm : Bool) (csr : BitVec 12) (d a : Reg) (old : Nat),
      s.csrRead s.cur csr.toNat = some old ∧ s.Ready (if imm = true then [] else xs [a]) (xs [d]) ∧ op = CsrOp.rs ∧
      a ≠ 0 ∧ csr.toNat / 1024 ≠ 3) ∧
    (∃ (s : State) (op : CsrOp) (imm : Bool) (csr : BitVec 12) (d a : Reg) (old : Nat),
      s.csrRead s.cur csr.toNat = some old ∧ s.Ready (if imm = true then [] else xs [a]) (xs [d]) ∧ op = CsrOp.rc ∧
      a ≠ 0 ∧ csr.toNat / 1024 ≠ 3) ∧
    (∃ (s : State) (op : CsrOp) (imm : Bool) (csr : BitVec 12) (d a : Reg) (old : Nat),
      s.csrRead s.cur csr.toNat = some old ∧ s.Ready (if imm = true then [] else xs [a]) (xs [d]) ∧ op ≠ CsrOp.rw ∧
      a = 0) ∧
    (∃ (s : State) (op : CsrOp) (imm : Bool) (csr : BitVec 12) (d a : Reg) (old : Nat),
      s.csrRead s.cur csr.toNat = some old ∧ s.Ready (if imm = true then [] else xs [a]) (xs [d]) ∧
      (op = CsrOp.rw ∨ a ≠ 0) ∧ csr.toNat / 1024 = 3) ∧
    (∃ (s : State) (csr : BitVec 12), s.csrRead s.cur csr.toNat = none) := by
  refine ⟨⟨st (busy), .rw, true, 0x8C0, 31, 31, 9223372036855854744, ?_⟩,
    ⟨st {}, .rs, false, 0x001, 31, 31, 0, ?_⟩,
    ⟨st {}, .rc, false, 0x003, 31, 1, 0, ?_⟩,
    ⟨st (super), .rc, true, 0xC01, 31, 0, 0, ?_⟩,
    ⟨st (super), .rw, true, 0xC01, 31, 0, 0, ?_⟩,
    ⟨st {}, 0xFFF, ?_⟩⟩
  all_goals decide +kernel

/-- The hypotheses of TrapsAndReturns are met. -/
theorem test_meets_TrapsAndReturns :
    (∃ (s : State), s.me.mode = Mode.u) ∧
    (∃ (s : State),
      s.me.mode = Mode.s ∧ s.Ready (xs [10, 11, 12, 13, 14, 15, 16, 17]) [] ∧ BitVec.toNat (s.me.xv 17) < 4) ∧
    (∃ (s : State),
      s.me.mode = Mode.s ∧ s.Ready (xs [10, 11, 12, 13, 14, 15, 16, 17]) [] ∧ 4 ≤ BitVec.toNat (s.me.xv 17)) ∧
    (∃ (s : State), s.me.mode = Mode.s ∧ s.sip s.cur ≠ 0) ∧
    (∃ (s : State), s.me.mode = Mode.s ∧ s.sip s.cur = 0) ∧
    (∃ (e : Nat), e < 4096) ∧
    (∃ (c : Nat), c < 2 ^ 63) := by
  refine ⟨⟨st {}, ?_⟩,
    ⟨st (super (withX 17 3)), ?_⟩,
    ⟨st (super (withX 17 4)), ?_⟩,
    ⟨st { mode := .s }, ?_⟩,
    ⟨st (super), ?_⟩,
    ⟨4095, ?_⟩,
    ⟨2 ^ 63 - 1, ?_⟩⟩
  all_goals decide +kernel

/-- The hypotheses of TakingResult are met. -/
theorem test_meets_TakingResult :
    (∃ (s : State) (i : Instr) (op : RROp) (u t : Bool) (b a d : Reg) (v : Word),
      takingForm i = some (op, u, t, b, a, d) ∧ aluResult s.me (AluInstr.rr op d a b) = some ([a, b], d, v) ∧
      s.Ready (xs [a, b]) (xs [d])) := by
  refine ⟨st {}, .takingMaxu true true 1 31 31, .maxu, true, true, 1, 31, 31, 0, ?_⟩
  all_goals decide +kernel

/-- The hypotheses of BitFields are met. -/
theorem test_meets_BitFields :
    (∃ (s : State) (b a d : Reg), s.Ready (xs [a, b]) (xs [d])) ∧
    (∃ (s : State) (b a d : Reg), s.Ready (xs [a, b]) (xs [d]) ∧ s.Ready (xs [d]) []) ∧
    (∃ (s : State) (b a d : Reg), s.me.markedAny (xs [a, b, d]) = none ∧ s.Ready (xs [a, b]) [] ∧
      (s.me.cond RFile.x (d.toNat)).fst ≠ Presence.present) := by
  refine ⟨⟨st {}, 1, 31, 31, ?_⟩,
    ⟨st {}, 1, 31, 31, ?_⟩,
    ⟨st (({} : Hart).presX 31 .opened), 1, 2, 31, ?_⟩⟩
  all_goals decide +kernel

/-- The hypotheses of TakeReads are met. -/
theorem test_meets_TakeReads :
    (∃ (s : State) (a d : Reg), s.Ready (xs [a]) (xs [d])) ∧
    (∃ (s : State) (a : Reg),
      s.me.markedAny (xs [a]) = none ∧ (s.me.cond RFile.x (a.toNat)).1 ≠ Presence.present) ∧
    (∃ (a : Reg), a ≠ 0) ∧
    (∃ (a : Reg), a ≠ 0) ∧
    (∃ (a : Reg), a ≠ 0) ∧
    (∃ (s u : State) (h : ℕ) (rest : List Turn) (t : Bool) (d : Reg),
      s.agenda = Turn.issue h :: rest ∧ s.sec.recovery = false ∧ s.mayIssue h = true ∧ (s.hart h).resuming = false ∧
      State.fetchRaw { s with cur := h, agenda := rest } = .ok (4, encode (Instr.take t 0 d), u)) := by
  refine ⟨⟨st {}, 31, 31, ?_⟩,
    ⟨st (({} : Hart).presX 31 .pending), 31, ?_⟩,
    ⟨31, ?_⟩,
    ⟨31, ?_⟩,
    ⟨31, ?_⟩,
    ⟨fetching (encode (.take true 0 1)), fetched (encode (.take true 0 1)), 0, [], true, 1, ?_⟩⟩
  all_goals decide +kernel

/-- The hypotheses of PresenceOperations are met. -/
theorem test_meets_PresenceOperations :
    (
      let file := fun (b : Reg) => if b = 0 then RFile.x else if b = 1 then RFile.f else RFile.v
      ∃ (s : State) (b d : Reg),
      b.toNat ≤ 2 ∧ (b = 0 → d ≠ 0) ∧ (b = 2 → d.toNat + 1 ≤ s.me.alloc) ∧
      (s.me.cond (file b) (d.toNat)).fst ≠ Presence.pending) ∧
    (
      let file := fun (b : Reg) => if b = 0 then RFile.x else if b = 1 then RFile.f else RFile.v
      ∃ (s : State) (b d : Reg),
      b.toNat ≤ 2 ∧ (b = 0 → d ≠ 0) ∧ (b = 2 → d.toNat + 1 ≤ s.me.alloc) ∧
      (s.me.cond (file b) (d.toNat)).fst = Presence.pending) ∧
    (∃ (s : State) (b a d : Reg), b.toNat ≤ 2 ∧ (b = 2 → a.toNat + 1 ≤ s.me.alloc) ∧
      (s.me.cond RFile.x (d.toNat)).fst ≠ Presence.pending) ∧
    (∃ (s : State) (a : Reg), s.me.alloc < a.toNat + 1) := by
  refine ⟨⟨st (busy), 2, 7, ?_⟩,
    ⟨st (({} : Hart).presX 31 .pending), 0, 31, ?_⟩,
    ⟨st (busy), 2, 7, 31, ?_⟩,
    ⟨st (busy), 8, ?_⟩⟩
  all_goals decide +kernel

/-- The hypotheses of RemoteAndLateWrites are met. -/
theorem test_meets_RemoteAndLateWrites :
    (∃ (s : State) (b a d : Reg),
      let h := BitVec.toNat (s.me.xv a)
      d ≠ 0 ∧ s.Ready (xs [a, b]) [] ∧ s.writing = false ∧ h ≤ 12287 ∧ s.partOf h = s.partOf s.cur) ∧
    (∃ (s : State) (b a d : Reg), d ≠ 0 ∧ s.Ready (xs [a, b]) [] ∧ s.writing = false ∧
      (12287 < BitVec.toNat (s.me.xv a) ∨ s.partOf (BitVec.toNat (s.me.xv a)) ≠ s.partOf s.cur)) ∧
    (∃ (s : State) (b a d : Reg),
      let h := BitVec.toNat (s.me.xv a)
      let g := 2 ^ s.me.vcfg.g.toNat
      d ≠ 0 ∧ s.writing = false ∧ (s.me.cond RFile.x (a.toNat)).fst = Presence.present ∧
      s.me.markedAny (xs [a] ++ vgroup (b.toNat) g) = none ∧
      s.me.presentAll (vgroup (b.toNat) g) = none ∧ s.me.due false false true = none ∧
      b.toNat % g = 0 ∧ b.toNat + g ≤ s.me.alloc ∧ h ≤ 12287 ∧ s.partOf h = s.partOf s.cur ∧
      ((s.hart h).task.isSome = true → d.toNat % g = 0 ∧ d.toNat + g ≤ (s.hart h).alloc)) ∧
    (∃ (s : State) (l : Late) (rest : List Late),
      (s.hart s.ev.h).late = l :: rest ∧ s.ev.k = 0 ∧ l.file = RFile.x ∧ l.reg ≠ 0) ∧
    (∃ (s : State) (w : RWrite) (rest : List RWrite),
      s.rwrites = w :: rest ∧ s.ev.k = 0 ∧ w.wake = false ∧ w.file = RFile.x ∧ w.g = 1 ∧ 0 < w.reg ∧ w.reg < 32 ∧
      w.src ≠ w.target ∧ (s.hart w.target).task.isSome = true ∧
      ((s.hart w.target).cond RFile.x w.reg).fst = Presence.opened ∧ s.quadStopped (quadOf w.target) = false) := by
  refine ⟨⟨st (withX 1 1), 2, 1, 31, ?_⟩,
    ⟨st (withX 1 12288), 2, 1, 31, ?_⟩,
    ⟨st (busy), 7, 0, 7, ?_⟩,
    ⟨{ st { late := [⟨.x, 31, 7, none, none⟩] } with ev := { h := 0 } }, ⟨.x, 31, 7, none, none⟩, [], ?_⟩,
    ⟨{ st {} with harts := [(1, busy (({} : Hart).presX 31 .opened))], rwrites := [{ wake := false, src := 0, target := 1, file := .x, reg := 31, val := 7 }] }, { wake := false, src := 0, target := 1, file := .x, reg := 31, val := 7 }, [], ?_⟩⟩
  all_goals decide +kernel

/-- The hypotheses of WaitsAndHints are met. -/
theorem test_meets_WaitsAndHints :
    (∃ (s : State) (a : Reg), s.Ready (xs [a]) []) ∧
    (∃ (s : State) (o : BitVec 3) (u : ℕ), (o, u) ∈ (s.core s.ev.p).hints) ∧
    (∃ (s : State) (m : BitVec 8),
      m ≠ 0 ∧ s.me.due true true true = none ∧ s.me.tokensBusy m = false ∧ s.me.tokenErr m = none) ∧
    (∃ (s : State) (m : BitVec 8), m ≠ 0 ∧ s.me.due true true true = none ∧ s.me.tokensBusy m = true) ∧
    (∃ (s : State) (m : BitVec 8) (e : TokenErr),
      m ≠ 0 ∧ s.me.due true true true = none ∧ s.me.tokensBusy m = false ∧ s.me.tokenErr m = some e) ∧
    (∃ (s : State), s.me.due false true true = none ∧ s.vworks s.cur = false) ∧
    (∃ (s : State), s.me.due false true true = none ∧ s.vworks s.cur = true) := by
  refine ⟨⟨st {}, 31, ?_⟩,
    ⟨{ st {} with cores := [(0, { hints := [(3, 0), (5, 1)] })] }, 5, 1, ?_⟩,
    ⟨st { sb := #v[0, 1, 0, 0, 0, 0, 0, 0] }, 0xFD, ?_⟩,
    ⟨st { sb := #v[0, 1, 0, 0, 0, 0, 0, 0] }, 2, ?_⟩,
    ⟨st { sbErr := [⟨7, 3, 11, 0⟩] }, 0x80, ⟨7, 3, 11, 0⟩, ?_⟩,
    ⟨st {}, ?_⟩,
    ⟨st { vq := [vcmd] }, ?_⟩⟩
  all_goals decide +kernel

/-- The hypotheses of VectorConfigured are met. -/
theorem test_meets_VectorConfigured :
    (∃ (s : State) (e : BitVec 4) (a d : Reg), s.me.fmtInvalid e.toNat = false ∧ s.Ready (xs [a]) (xs [d])) ∧
    (∃ (s : State) (e : BitVec 4) (d : Reg), s.me.fmtInvalid e.toNat = false ∧ s.Ready [] (xs [d])) ∧
    (∃ (s : State) (e : BitVec 4), s.me.fmtInvalid e.toNat = true) := by
  refine ⟨⟨st {}, 15, 31, 31, ?_⟩,
    ⟨st {}, 0, 31, ?_⟩,
    ⟨st { fmt := #v[0, 0, 0, 0] }, 12, ?_⟩⟩
  all_goals decide +kernel

/-- The hypotheses of IndexedMovesIssue are met. -/
theorem test_meets_IndexedMovesIssue :
    (∃ (s : State) (t : Bool) (imm x v : Reg) (n : Nat),
      let g := 2 ^ s.me.vcfg.g.toNat
      let take := fun (h : Hart) => if t = true then h.presX x Presence.opened else h
      let rd := { i := Instr.vidxrd t imm x v, src := vgroup n g, dst := vgroup (v.toNat) g, pre := take, vl := s.me.vl, g := g, op := VOp.copy (v.toNat) n g }
      BitVec.toInt (s.me.xv x) + BitVec.toInt imm = ↑n ∧ n + g ≤ s.me.alloc ∧ n % g = 0 ∧
      v.toNat + g ≤ s.me.alloc ∧ v.toNat % g = 0 ∧ s.me.markedAny (xs [x]) = none ∧
      s.me.presentAll (xs [x]) = none ∧ s.VIssues rd) ∧
    (∃ (s : State) (t : Bool) (imm x v : Reg) (n : Nat),
      let g := 2 ^ s.me.vcfg.g.toNat
      let take := fun (h : Hart) => if t = true then h.presX x Presence.opened else h
      let wr := { i := Instr.vidxwr t imm x v, src := vgroup (v.toNat) g, dst := vgroup n g, pre := take, vl := s.me.vl, g := g, op := VOp.copy n (v.toNat) g }
      BitVec.toInt (s.me.xv x) + BitVec.toInt imm = ↑n ∧ n + g ≤ s.me.alloc ∧ n % g = 0 ∧
      v.toNat + g ≤ s.me.alloc ∧ v.toNat % g = 0 ∧ s.me.markedAny (xs [x]) = none ∧
      s.me.presentAll (xs [x]) = none ∧ s.VIssues wr) ∧
    (∃ (s : State) (imm x v : Reg) (n : Int),
      let g := 2 ^ s.me.vcfg.g.toNat
      v.toNat + g ≤ s.me.alloc ∧ v.toNat % g = 0 ∧ s.me.markedAny (xs [x]) = none ∧
      s.me.presentAll (xs [x]) = none ∧ BitVec.toInt (s.me.xv x) + BitVec.toInt imm = n ∧
      (n < 0 ∨ ↑s.me.alloc < n + ↑g ∨ n % ↑g ≠ 0)) ∧
    (∃ (s : State) (imm x v : Reg) (n : Int),
      let g := 2 ^ s.me.vcfg.g.toNat
      v.toNat + g ≤ s.me.alloc ∧ v.toNat % g = 0 ∧ s.me.markedAny (xs [x]) = none ∧
      s.me.presentAll (xs [x]) = none ∧ BitVec.toInt (s.me.xv x) + BitVec.toInt imm = n ∧
      (n < 0 ∨ ↑s.me.alloc < n + ↑g ∨ n % ↑g ≠ 0)) ∧
    (∃ (s : State) (e : BitVec 4) (b a d : Reg),
      let k := BitVec.toNat (s.me.xv b)
      let w := etWidth s.me.fmts e.toNat
      let mvx := { i := Instr.vmvx e b a d, groups := [(a.toNat + k * w / 1024, 1)], src := [(RFile.v, a.toNat + k * w / 1024)], dst := [(RFile.x, d.toNat)], vl := 0, g := 1, op := VOp.mvx e.toNat (d.toNat) (a.toNat) k }
      s.me.fmtInvalid e.toNat = false ∧ s.me.markedAny (xs [b]) = none ∧ s.me.presentAll (xs [b]) = none ∧
      s.VIssues mvx) ∧
    (∃ (s : State) (e : BitVec 4) (b a d : Reg),
      let k := BitVec.toNat (s.me.xv b)
      let w := etWidth s.me.fmts e.toNat
      let mvs := { i := Instr.vmvs e b a d, groups := [(d.toNat + k * w / 1024, 1)], src := [(RFile.v, d.toNat + k * w / 1024), (RFile.x, a.toNat)], dst := [(RFile.v, d.toNat + k * w / 1024)], vl := 0, g := 1, op := VOp.mvs e.toNat (d.toNat) (s.me.xv a) k }
      s.me.fmtInvalid e.toNat = false ∧ s.me.markedAny (xs [b]) = none ∧ s.me.presentAll (xs [b]) = none ∧
      s.VIssues mvs) := by
  refine ⟨⟨st (busy (withX 1 6)), true, 1, 1, 7, 7, ?_⟩,
    ⟨st (busy (withX 1 0)), false, 0, 1, 7, 0, ?_⟩,
    ⟨st (busy (withX 1 (-1))), 0, 1, 7, -1, ?_⟩,
    ⟨st (busy (withX 1 8)), 0, 1, 7, 8, ?_⟩,
    ⟨st (busy (withX 1 255)), 0, 1, 6, 31, ?_⟩,
    ⟨st (busy (withX 1 255)), 0, 1, 31, 6, ?_⟩⟩
  all_goals decide +kernel

/-- The hypotheses of TasksEnqueued are met. -/
theorem test_meets_TasksEnqueued :
    ( ∃ (s : State) (b a : Reg),
      let q := BitVec.toNat (s.me.xv a)
      s.enqWaiting q = false ∧ s.Ready (xs [a, b]) [] ∧ s.me.releaseWait = none ∧
      s.enqDenied (s.partOf s.cur) (s.me.xv a) = true) ∧
    (
      let opens := fun (s : State) (b : Reg) (c : Acc) => (s.cleanCore (coreOf s.cur)).alignedAccess s.cur (s.me.xv b) 64 AccKind.load 4 0 = .ok c ∧ (s.cleanCore (coreOf s.cur)).Clear c 64 ∧ (s.cleanCore (coreOf s.cur)).badRange c.pa 64 = false ∧ isMmio c.pa = false ∧ descBad (descOf (c.mem.readBytes c.pa 64)) = false
      ∃ (s : State) (b a : Reg) (c : Acc),
      let q := BitVec.toNat (s.me.xv a)
      s.enqWaiting q = false ∧ s.Ready (xs [a, b]) [] ∧ s.me.releaseWait = none ∧
      s.enqDenied (s.partOf s.cur) (s.me.xv a) = false ∧ opens s b c ∧
      s.enqStatus (s.partOf s.cur) q 1 (s.queue q).recorded = 0) ∧
    (
      let opens := fun (s : State) (b : Reg) (c : Acc) => (s.cleanCore (coreOf s.cur)).alignedAccess s.cur (s.me.xv b) 64 AccKind.load 4 0 = .ok c ∧ (s.cleanCore (coreOf s.cur)).Clear c 64 ∧ (s.cleanCore (coreOf s.cur)).badRange c.pa 64 = false ∧ isMmio c.pa = false ∧ descBad (descOf (c.mem.readBytes c.pa 64)) = false
      ∃ (s : State) (b a : Reg) (c : Acc),
      let q := BitVec.toNat (s.me.xv a)
      s.enqWaiting q = false ∧ s.Ready (xs [a, b]) [] ∧ s.me.releaseWait = none ∧
      s.enqDenied (s.partOf s.cur) (s.me.xv a) = false ∧ opens s b c ∧
      s.enqStatus (s.partOf s.cur) q 1 (s.queue q).recorded = 1) ∧
    (∃ (s : State) (b a d : Reg), s.Ready (xs [a, b]) (xs [d]) ∧ s.me.releaseWait = none ∧ d ≠ 0 ∧
      s.enqDenied (s.partOf s.cur) (s.me.xv a) = true) ∧
    (
      let opens := fun (s : State) (b : Reg) (c : Acc) => (s.cleanCore (coreOf s.cur)).alignedAccess s.cur (s.me.xv b) 64 AccKind.load 4 0 = .ok c ∧ (s.cleanCore (coreOf s.cur)).Clear c 64 ∧ (s.cleanCore (coreOf s.cur)).badRange c.pa 64 = false ∧ isMmio c.pa = false ∧ descBad (descOf (c.mem.readBytes c.pa 64)) = false
      ∃ (s : State) (b a d : Reg) (c : Acc),
      let q := BitVec.toNat (s.me.xv a)
      s.Ready (xs [a, b]) (xs [d]) ∧ s.me.releaseWait = none ∧ d ≠ 0 ∧
      s.enqDenied (s.partOf s.cur) (s.me.xv a) = false ∧ opens s b c ∧
      s.enqStatus (s.partOf s.cur) q 1 (s.queue q).recorded = 0) ∧
    ( ∃ (s : State) (a d : Reg) (c1 c2 : Acc),
      let xk := s.me.xv a
      let s1 := s.cleanCore (coreOf s.cur)
      let s2 := (c1.s.updMe (fun h => h.sees c1.pa 64)).touch (coreOf s.cur) c1.e c1.pa false
      let b := c1.mem.readBytes c1.pa 64 ++ c2.mem.readBytes c2.pa 64
      let q := leNat (List.take 8 (List.drop 64 b)) % 4096
      let trips := fun (k : ℕ) => (launchTrip (launchLevels b) k).getD 1
      let n := trips 1 * trips 2 * trips 3
      s.Ready (xs [a]) (xs [d]) ∧ s.me.releaseWait = none ∧ d ≠ 0 ∧
      s1.alignedAccess s.cur xk 64 AccKind.load 4 0 = .ok c1 ∧ s1.Clear c1 64 ∧ s1.badRange c1.pa 64 = false ∧
      isMmio c1.pa = false ∧ s2.alignedAccess s.cur (xk + 64) 64 AccKind.load 4 0 = .ok c2 ∧ s2.Clear c2 64 ∧
      s2.badRange c2.pa 64 = false ∧ isMmio c2.pa = false ∧ launchBad b = false ∧
      s.enqDenied (s.partOf s.cur) (BitVec.ofNat 64 q) = false ∧
      s.enqStatus (s.partOf s.cur) q n (s.queue q).recorded = 0) ∧
    ( ∃ (s : State) (a d : Reg) (c1 c2 : Acc),
      let xk := s.me.xv a
      let s1 := s.cleanCore (coreOf s.cur)
      let s2 := (c1.s.updMe (fun h => h.sees c1.pa 64)).touch (coreOf s.cur) c1.e c1.pa false
      let b := c1.mem.readBytes c1.pa 64 ++ c2.mem.readBytes c2.pa 64
      let q := leNat (List.take 8 (List.drop 64 b)) % 4096
      let trips := fun (k : ℕ) => (launchTrip (launchLevels b) k).getD 1
      let n := trips 1 * trips 2 * trips 3
      s.Ready (xs [a]) (xs [d]) ∧ s.me.releaseWait = none ∧ d ≠ 0 ∧
      s1.alignedAccess s.cur xk 64 AccKind.load 4 0 = .ok c1 ∧ s1.Clear c1 64 ∧ s1.badRange c1.pa 64 = false ∧
      isMmio c1.pa = false ∧ s2.alignedAccess s.cur (xk + 64) 64 AccKind.load 4 0 = .ok c2 ∧ s2.Clear c2 64 ∧
      s2.badRange c2.pa 64 = false ∧ isMmio c2.pa = false ∧ launchBad b = false ∧
      s.enqDenied (s.partOf s.cur) (BitVec.ofNat 64 q) = false ∧
      s.enqStatus (s.partOf s.cur) q n (s.queue q).recorded = 1) ∧
    (∃ (s : State) (a d : Reg) (c : Acc),
      s.Ready (xs [a]) (xs [d]) ∧ d ≠ 0 ∧ s.alignedAccess s.cur (s.me.xv a) 64 AccKind.store 6 7 = .ok c ∧
      s.Clear c 4) ∧
    (∃ (s : State) (a d : Reg), s.Ready (xs [a]) (xs [d]) ∧ BitVec.toNat (s.me.xv a) % 64 ≠ 0) := by
  refine ⟨⟨st (withX 1 4096), 2, 1, ?_⟩,
    ⟨queued [], 2, 1, accOf (((queued []).cleanCore 0).alignedAccess 0 0 64 .load 4 0), ?_⟩,
    ⟨queued [{ id := 7, desc := noDesc }], 2, 1, accOf (((queued [{ id := 7, desc := noDesc }]).cleanCore 0).alignedAccess 0 0 64 .load 4 0), ?_⟩,
    ⟨queued [] (withX 1 4096 (busy)), 2, 1, 31, ?_⟩,
    ⟨queued [], 2, 1, 31, accOf (((queued []).cleanCore 0).alignedAccess 0 0 64 .load 4 0), ?_⟩,
    ⟨queued [], 1, 31, accOf (((queued []).cleanCore 0).alignedAccess 0 0 64 .load 4 0), accOf ((((accOf (((queued []).cleanCore 0).alignedAccess 0 0 64 .load 4 0)).s.updMe (fun h => h.sees 0 64)).touch 0 page 0 false).alignedAccess 0 64 64 .load 4 0), ?_⟩,
    ⟨queued [{ id := 7, desc := noDesc }], 1, 31, accOf (((queued [{ id := 7, desc := noDesc }]).cleanCore 0).alignedAccess 0 0 64 .load 4 0), accOf ((((accOf (((queued [{ id := 7, desc := noDesc }]).cleanCore 0).alignedAccess 0 0 64 .load 4 0)).s.updMe (fun h => h.sees 0 64)).touch 0 page 0 false).alignedAccess 0 64 64 .load 4 0), ?_⟩,
    ⟨mapped (withX 1 0xFC0), 1, 31, accOf ((mapped (withX 1 0xFC0)).alignedAccess 0 0xFC0 64 .store 6 7), ?_⟩,
    ⟨st (withX 1 63), 1, 31, ?_⟩⟩
  all_goals repeat' apply And.intro
  all_goals first | decide +kernel | rfl

/-- The hypotheses of TasksLeave are met. -/
theorem test_meets_TasksLeave :
    (∃ (s : State) (k : Task),
      s.me.task = some k ∧ s.me.due false true true = none ∧ s.vworks s.cur = true) ∧
    (∃ (s : State) (k : Task),
      s.me.task = some k ∧ s.me.due false true true = none ∧ s.vworks s.cur = false ∧
      s.me.due true false false = none ∧ s.me.releaseWait = none ∧ s.tilesBusy s.cur k.id = true) ∧
    (∃ (s : State) (k : Task),
      s.me.task = some k ∧ s.me.due false true true = none ∧ s.vworks s.cur = false ∧
      s.me.due true false false = none ∧ s.me.releaseWait = none ∧ s.tilesBusy s.cur k.id = false ∧
      ∀ y ∈ s.yielded, y.slot ≠ s.cur) ∧
    (∃ (s : State) (k : Task), s.me.task = some k ∧ s.vworks s.cur = true) ∧
    ( ∃ (s : State) (k : Task),
      let saved := (s.updMe fun (a : Hart) => a.advance 4).saveTask s.cur
      s.me.task = some k ∧ s.vworks s.cur = false ∧ s.fillsDue s.cur = false ∧
      (s.die (dieOf s.cur)).bindAt ≤ s.time ∧ saved.choose (dieOf s.cur) (some s.cur) k.cls = none) ∧
    ( ∃ (s : State) (k : Task),
      let saved := (s.updMe fun (a : Hart) => a.advance 4).saveTask s.cur
      ∃ (c : Choice), s.me.task = some k ∧ s.vworks s.cur = false ∧ s.fillsDue s.cur = false ∧
      (s.die (dieOf s.cur)).bindAt ≤ s.time ∧ saved.choose (dieOf s.cur) (some s.cur) k.cls = some c) := by
  refine ⟨⟨st (busy { vq := [vcmd] }), {}, ?_⟩,
    ⟨st (busy) { tiled with cq := [{ id := 0, hart := 0, task := 0, mode := .u, part := 0, asid := 0, root := 0, cpyb := false, push := false, pop := false, token := none, shape := 0x100000000000000, dst := hwt, src := 0, fmt := [] }] }, {}, ?_⟩,
    ⟨st (busy), {}, ?_⟩,
    ⟨st (busy { vq := [vcmd] }), {}, ?_⟩,
    ⟨st (busy), {}, ?_⟩,
    ⟨queued [{ id := 7, desc := noDesc }], {}, ⟨0, { id := 7, desc := noDesc }, 0⟩, ?_⟩⟩
  all_goals decide +kernel

/-- The hypotheses of ObjectsBind are met. -/
theorem test_meets_ObjectsBind :
    (∃ (s : State) (a b c : Reg) (x : Acc),
      let o := x.obj
      let base := BitVec.toNat (s.me.xv b)
      let len := BitVec.toNat (s.me.xv c)
      Reaches s a [b, c] [] false false [1, 2] x ∧ 0 < len ∧ len ≤ 4294967295 ∧ base + len ≤ 2 ^ 64 ∧
      (base, len) ∈ o.ranges) ∧
    (∃ (s : State) (a b c : Reg) (x : Acc) (k : Nat),
      let o := x.obj
      let base := BitVec.toNat (s.me.xv b)
      let len := BitVec.toNat (s.me.xv c)
      Reaches s a [b, c] [] false false [1, 2] x ∧ 0 < len ∧ len ≤ 4294967295 ∧ base + len ≤ 2 ^ 64 ∧
      ¬(base, len) ∈ o.ranges ∧ k < 3 ∧ (∀ (j : Nat), j < k → (o.ranges.getD j (0, 0)).snd ≠ 0) ∧
      (o.ranges.getD k (0, 0)).snd = 0) ∧
    (∃ (s : State) (a b c : Reg) (x : Acc),
      let o := x.obj
      let base := BitVec.toNat (s.me.xv b)
      let len := BitVec.toNat (s.me.xv c)
      Reaches s a [b, c] [] false false [1, 2] x ∧ 0 < len ∧ len ≤ 4294967295 ∧ base + len ≤ 2 ^ 64 ∧
      ¬(base, len) ∈ o.ranges ∧ ∀ (j : Nat), j < 3 → (o.ranges.getD j (0, 0)).snd ≠ 0) ∧
    (∃ (s : State) (a b c : Reg) (x : Acc),
      Reaches s a [b, c] [] false false [1, 2] x ∧ s.me.xv c = 0) ∧
    (∃ (s : State) (a b : Reg) (x : Acc),
      let o := x.obj
      let mine := fun (j : Nat) => (o.ranges.getD j (0, 0)).snd ≠ 0 ∧ (o.ranges.getD j (0, 0)).fst = BitVec.toNat (s.me.xv b)
      Reaches s a [b] [] false false [1, 2] x ∧ ∀ (j : Nat), j < 3 → ¬mine j) ∧
    (∃ (s : State) (a b : Reg) (x : Acc) (k : Nat),
      let o := x.obj
      let mine := fun (j : Nat) => (o.ranges.getD j (0, 0)).snd ≠ 0 ∧ (o.ranges.getD j (0, 0)).fst = BitVec.toNat (s.me.xv b)
      Reaches s a [b] [] false false [1, 2] x ∧ k < 3 ∧ mine k ∧ ∀ (j : Nat), j < k → ¬mine j) := by
  refine ⟨⟨objSt [2 ^ 62, 0, 0, 1] (busy (withX 3 1)), 1, 2, 3, objAcc (objSt [2 ^ 62, 0, 0, 1] (busy (withX 3 1))), ?_⟩,
    ⟨objSt [2 ^ 62, 0, 0, 1] (busy (withX 3 0xFFFFFFFF)), 1, 2, 3, objAcc (objSt [2 ^ 62, 0, 0, 1] (busy (withX 3 0xFFFFFFFF))), 1, ?_⟩,
    ⟨objSt [2 ^ 62, 0, 0, 1, 8, 1, 16, 1] (busy (withX 3 2)), 1, 2, 3, objAcc (objSt [2 ^ 62, 0, 0, 1, 8, 1, 16, 1] (busy (withX 3 2))), ?_⟩,
    ⟨objSt [2 ^ 63], 1, 2, 3, objAcc (objSt [2 ^ 63]), ?_⟩,
    ⟨objSt [2 ^ 63], 1, 2, objAcc (objSt [2 ^ 63]), ?_⟩,
    ⟨objSt [2 ^ 62, 0, 8, 1, 8, 1, 0, 1], 1, 2, objAcc (objSt [2 ^ 62, 0, 8, 1, 8, 1, 0, 1]), 2, ?_⟩⟩
  all_goals repeat' apply And.intro
  all_goals first | decide +kernel | rfl

/-- The hypotheses of LocksHandOver are met. -/
theorem test_meets_LocksHandOver :
    (∃ (s : State) (b : Reg) (c : Acc) (k : Task),
      s.cur < 12288 ∧ s.me.task = some k ∧ Reaches s b [] [] false false [1] c ∧ s.waiterOf s.cur = none ∧
      s.me.park ≠ some (Park.acqBusy b) ∧ s.holds s.cur c.obj = true) ∧
    (∃ (s : State) (b : Reg) (c : Acc) (k : Task),
      s.cur < 12288 ∧ s.me.task = some k ∧ Reaches s b [] [] false false [1] c ∧ s.waiterOf s.cur = none ∧
      s.me.park ≠ some (Park.acqBusy b) ∧ c.obj.held = false ∧ s.waitersAt (lineOf c.pa) false = [] ∧
      c.s.lostLines = []) ∧
    (∃ (s : State) (b : Reg) (c : Acc) (k : Task),
      s.cur < 12288 ∧ s.me.task = some k ∧ Reaches s b [] [] false false [1] c ∧ s.waiterOf s.cur = none ∧
      s.me.park ≠ some (Park.acqBusy b) ∧ c.obj.held = true ∧ s.holds s.cur c.obj = false ∧
      s.waitersAt (lineOf c.pa) false = []) ∧
    (∃ (s : State) (b d : Reg) (c : Acc) (k : Task),
      s.cur < 12288 ∧ s.me.task = some k ∧ Reaches s b [] [d] false false [1] c ∧ c.obj.held = false ∧
      s.waitersAt (lineOf c.pa) false = [] ∧ c.s.lostLines = []) ∧
    (∃ (s : State) (b d : Reg) (c : Acc) (k : Task),
      s.cur < 12288 ∧ s.me.task = some k ∧ Reaches s b [] [d] false false [1] c ∧ c.obj.held = true ∧
      s.holds s.cur c.obj = false) ∧
    (∃ (s : State) (b : Reg) (c : Acc),
      Reaches s b [] [] true false [1] c ∧ s.me.releaseWait = none ∧ s.holds s.cur c.obj = false) ∧
    (∃ (s : State) (b : Reg) (c : Acc),
      Reaches s b [] [] true false [1] c ∧ s.me.releaseWait = none ∧ s.holds s.cur c.obj = true ∧
      s.waitersAt (lineOf c.pa) false = []) ∧
    (∃ (s : State) (b : Reg) (c : Acc) (w : Waiter) (l : List Waiter) (k : Task),
      Reaches s b [] [] true false [1] c ∧ s.me.releaseWait = none ∧ s.holds s.cur c.obj = true ∧
      s.waitersAt (lineOf c.pa) false = w :: l ∧ w.hart < 12288 ∧ w.hart ≠ s.cur ∧ (s.hart w.hart).task = some k ∧
      (Tab.get c.s.freeze (pageOf c.pa) {}).count = 0 ∧ c.key < 64 ∧ c.s.lostLines = []) := by
  refine ⟨⟨objSt [2 ^ 62 + 2 ^ 31], 1, objAcc (objSt [2 ^ 62 + 2 ^ 31]), {}, ?_⟩,
    ⟨objSt [2 ^ 62], 1, objAcc (objSt [2 ^ 62]), {}, ?_⟩,
    ⟨objSt [2 ^ 62 + 2 ^ 31 + 2 ^ 32], 1, objAcc (objSt [2 ^ 62 + 2 ^ 31 + 2 ^ 32]), {}, ?_⟩,
    ⟨objSt [2 ^ 62], 1, 31, objAcc (objSt [2 ^ 62]), {}, ?_⟩,
    ⟨objSt [2 ^ 62 + 2 ^ 31 + 2 ^ 32], 1, 31, objAcc (objSt [2 ^ 62 + 2 ^ 31 + 2 ^ 32]), {}, ?_⟩,
    ⟨objSt [2 ^ 62], 1, objAcc (objSt [2 ^ 62]), ?_⟩,
    ⟨objSt [2 ^ 62 + 2 ^ 31], 1, objAcc (objSt [2 ^ 62 + 2 ^ 31]), ?_⟩,
    ⟨{ objSt [2 ^ 62 + 2 ^ 31] with harts := [(0, busy), (9, busy)], waiters := [⟨0, 9, 0, none, 0⟩] }, 1, objAcc { objSt [2 ^ 62 + 2 ^ 31] with harts := [(0, busy), (9, busy)], waiters := [⟨0, 9, 0, none, 0⟩] }, ⟨0, 9, 0, none, 0⟩, [], {}, ?_⟩⟩
  all_goals repeat' apply And.intro
  all_goals first | decide +kernel | rfl

/-- The hypotheses of BarriersFlip are met. -/
theorem test_meets_BarriersFlip :
    (∃ (s : State) (b : Reg) (c : Acc),
      let o := c.obj
      let arr := min (o.arr + 1) 65535
      Reaches s b [] [] true false [2] c ∧ s.me.releaseWait = none ∧ ¬(o.exp ≤ arr ∧ o.expb ≤ o.curb)) ∧
    (∃ (s : State) (b : Reg) (c : Acc),
      let o := c.obj
      let arr := min (o.arr + 1) 65535
      Reaches s b [] [] true false [2] c ∧ s.me.releaseWait = none ∧ o.exp ≤ arr ∧ o.expb ≤ o.curb ∧
      s.waitersAt (lineOf c.pa) true = []) ∧
    (∃ (s : State) (b : Reg) (c : Acc),
      let o := c.obj
      let arr := min (o.arr + 1) 65535
      ∃ (w : Waiter),
      Reaches s b [] [] true false [2] c ∧ s.me.releaseWait = none ∧ o.exp ≤ arr ∧ o.expb ≤ o.curb ∧
      s.waitersAt (lineOf c.pa) true = [w] ∧ w.hart ≠ s.cur ∧ c.s.lostLines = []) ∧
    (∃ (s : State) (c b : Reg) (x : Acc),
      s.waiterOf s.cur = none ∧ Reaches s b [c] [] false true [2] x ∧
      x.obj.ph ≠ BitVec.toNat (s.me.xv c) % 2 ∧ x.s.lostLines = []) ∧
    (∃ (s : State) (c b : Reg) (x : Acc),
      s.waiterOf s.cur = none ∧ Reaches s b [c] [] false true [2] x ∧
      x.obj.ph = BitVec.toNat (s.me.xv c) % 2) ∧
    (∃ (s : State) (c b d : Reg) (x : Acc),
      let o := x.obj
      Reaches s b [c] [d] false true [2] x ∧ o.ph ≠ BitVec.toNat (s.me.xv c) % 2 ∧ x.s.lostLines = []) ∧
    (∃ (s : State) (c b d : Reg) (x : Acc),
      let o := x.obj
      Reaches s b [c] [d] false true [2] x ∧ o.ph = BitVec.toNat (s.me.xv c) % 2) := by
  refine ⟨⟨objSt [2 ^ 63 + 2 * 2 ^ 16], 1, objAcc (objSt [2 ^ 63 + 2 * 2 ^ 16]), ?_⟩,
    ⟨objSt [2 ^ 63 + 65536], 1, objAcc (objSt [2 ^ 63 + 65536]), ?_⟩,
    ⟨{ objSt [2 ^ 63 + 65536] with waiters := [⟨0, 9, 0, some true, 0⟩] }, 1, objAcc { objSt [2 ^ 63 + 65536] with waiters := [⟨0, 9, 0, some true, 0⟩] }, ⟨0, 9, 0, some true, 0⟩, ?_⟩,
    ⟨objSt [2 ^ 63] (withX 2 1), 2, 1, objAcc (objSt [2 ^ 63] (withX 2 1)) true, ?_⟩,
    ⟨objSt [2 ^ 63], 2, 1, objAcc (objSt [2 ^ 63]) true, ?_⟩,
    ⟨objSt [2 ^ 63] (withX 2 1), 2, 1, 31, objAcc (objSt [2 ^ 63] (withX 2 1)) true, ?_⟩,
    ⟨objSt [2 ^ 63], 2, 1, 31, objAcc (objSt [2 ^ 63]) true, ?_⟩⟩
  all_goals repeat' apply And.intro
  all_goals first | decide +kernel | rfl

/-- The hypotheses of FreezeIssues are met. -/
theorem test_meets_FreezeIssues :
    (
      let runs := fun (s : State) (thaw : Bool) (b c a : Reg) (l : List (Nat × Nat)) (u : State) => (s.freezes.any fun (o : FreezeOp) => o.hart == s.cur && o.parks) = false ∧ s.Ready (xs [a, b, c]) [] ∧ BitVec.toNat (s.me.xv b) % 4096 = 0 ∧ BitVec.toNat (s.me.xv c) % 4096 = 0 ∧ BitVec.toNat (s.me.xv c) ≤ 2 ^ 30 ∧ BitVec.toNat (s.me.xv a) % 64 = 0 ∧ (thaw = false → s.me.releaseWait = none) ∧ s.rangeOf (BitVec.toNat (s.me.xv b)) (BitVec.toNat (s.me.xv c) / 4096) = .ok (l, u) ∧ ∀ (x : Nat × Nat), x ∈ l → x.snd < 2 ^ 39 / 4096 ∧ s.bias.get x.snd 0 = 0 ∧ s.pageLocked x.snd = false
      let fits := fun (s : State) (thaw : Bool) (l : List (Nat × Nat)) (p : Nat) => if thaw = true then (pageCounts l).get p 0 ≤ s.count p else s.count p + (pageCounts l).get p 0 ≤ 255
      ∃ (s : State) (thaw e : Bool) (k : BitVec 3) (c b a : Reg) (l : List (Nat × Nat)) (u : State),
      runs s thaw b c a l u ∧ l ≠ [] ∧ (∀ (x : Nat × Nat), x ∈ l → fits s thaw l x.snd) ∧
      s.me.tokenFull (tokenOf e k) = none) ∧
    (
      let runs := fun (s : State) (thaw : Bool) (b c a : Reg) (l : List (Nat × Nat)) (u : State) => (s.freezes.any fun (o : FreezeOp) => o.hart == s.cur && o.parks) = false ∧ s.Ready (xs [a, b, c]) [] ∧ BitVec.toNat (s.me.xv b) % 4096 = 0 ∧ BitVec.toNat (s.me.xv c) % 4096 = 0 ∧ BitVec.toNat (s.me.xv c) ≤ 2 ^ 30 ∧ BitVec.toNat (s.me.xv a) % 64 = 0 ∧ (thaw = false → s.me.releaseWait = none) ∧ s.rangeOf (BitVec.toNat (s.me.xv b)) (BitVec.toNat (s.me.xv c) / 4096) = .ok (l, u) ∧ ∀ (x : Nat × Nat), x ∈ l → x.snd < 2 ^ 39 / 4096 ∧ s.bias.get x.snd 0 = 0 ∧ s.pageLocked x.snd = false
      let fits := fun (s : State) (thaw : Bool) (l : List (Nat × Nat)) (p : Nat) => if thaw = true then (pageCounts l).get p 0 ≤ s.count p else s.count p + (pageCounts l).get p 0 ≤ 255
      ∃ (s : State) (thaw : Bool) (c b a : Reg) (l m : List (Nat × Nat)) (x : Nat × Nat) (u : State),
      runs s thaw b c a (l ++ x :: m) u ∧ (∀ (y : Nat × Nat), y ∈ l → fits s thaw (l ++ x :: m) y.snd) ∧
      ¬fits s thaw (l ++ x :: m) x.snd) ∧
    (∃ (s : State) (c b a : Reg),
      (s.freezes.any fun (o : FreezeOp) => o.hart == s.cur && o.parks) = false ∧ s.Ready (xs [a, b, c]) [] ∧
      BitVec.toNat (s.me.xv b) % 4096 ≠ 0) ∧
    (∃ (s : State) (c b a : Reg),
      (s.freezes.any fun (o : FreezeOp) => o.hart == s.cur && o.parks) = false ∧ s.Ready (xs [a, b, c]) [] ∧
      (s.me.xv b).toNat % 4096 = 0 ∧ (s.me.xv c).toNat % 4096 ≠ 0) ∧
    (∃ (s : State) (c b a : Reg),
      (s.freezes.any fun (o : FreezeOp) => o.hart == s.cur && o.parks) = false ∧ s.Ready (xs [a, b, c]) [] ∧
      (s.me.xv b).toNat % 4096 = 0 ∧ 2 ^ 30 < (s.me.xv c).toNat) := by
  refine ⟨⟨mapped (withX 3 4096), false, true, 7, 3, 2, 1, [(0, 0)], (okOf ([], {}) ((mapped (withX 3 4096)).rangeOf 0 1)).2, ?_⟩,
    ⟨mapped (withX 3 4096), true, 3, 2, 1, [], [], (0, 0), (okOf ([], {}) ((mapped (withX 3 4096)).rangeOf 0 1)).2, ?_⟩,
    ⟨st (withX 2 4095), 3, 2, 1, ?_⟩,
    ⟨st (withX 3 4095), 3, 2, 1, ?_⟩,
    ⟨st (withX 3 0x40001000), 3, 2, 1, ?_⟩⟩
  all_goals repeat' apply And.intro
  all_goals decide +kernel

/-- The hypotheses of CopiesIssue are met. -/
theorem test_meets_CopiesIssue :
    ( ∃ (s : State) (cpyb e : Bool) (k : BitVec 3) (c b : Reg) (h : BitVec 3),
      let r := s.me.shape h
      let dst := s.me.xv b
      let src := s.me.xv c
      let group := fun (w : Word) => (w.toNat % 32, 2 ^ (w.toNat / 32 % 4))
      s.Ready (xs [b, c]) [] ∧ (∀ st ∈ s.me.copyChecks r cpyb e dst src, st = none) ∧
      (r.sk = 3 → s.me.markedAny (vgroup (group src).1 (group src).2) = none ∧
      s.me.presentAll (vgroup (group src).1 (group src).2) = none) ∧
      (r.dk = 3 → s.me.ownedAll (vgroup (group dst).1 (group dst).2) = none) ∧ s.me.tokenFull (tokenOf e k) = none ∧
      (s.quad (quadOf s.cur)).cq.length < 32) ∧
    ( ∃ (s : State) (c b : Reg) (h : BitVec 3),
      let r := s.me.shape h
      s.Ready (xs [b, c]) [] ∧ r.sk ≠ 3 ∧ (r.rsvOk = false ∨ r.nlv < 1 ∨ 6 < r.nlv ∨ r.run < 1 ∨ 65536 < r.run)) ∧
    ( ∃ (s : State) (b : Reg) (l : List (Acc × ℕ)),
      let va := s.me.xv b
      s.Ready (xs [b]) [] ∧ va.toNat % 8 = 0 ∧ (∀ x ∈ l, s.me.storeError (lineOf x.2) = none ∧
      s.me.pathBusy (decide (x.1.e.mt = MType.device)) x.1.write x.2 8 = none ∧
      s.missWait (coreOf s.cur) { x.1 with pa := x.2 } = none ∧ isMmio x.2 = false) ∧
      s.recordAccess va AccKind.load = .ok l ∧ l.length = 12 ∧
      ∀ x ∈ l, ∀ y ∈ l, y.1.s.badLine (lineOf x.2) = false) ∧
    ( ∃ (s : State) (b : Reg) (l : List (Acc × ℕ)),
      let va := s.me.xv b
      s.Ready (xs [b]) [] ∧ va.toNat % 8 = 0 ∧ (∀ x ∈ l, s.me.storeError (lineOf x.2) = none ∧
      s.me.pathBusy (decide (x.1.e.mt = MType.device)) x.1.write x.2 8 = none ∧
      s.missWait (coreOf s.cur) { x.1 with pa := x.2 } = none ∧ isMmio x.2 = false) ∧
      s.recordAccess va AccKind.store = .ok l ∧ l.length = 12 ∧
      List.Pairwise (fun (x y : Acc × ℕ) => x.2 + 8 ≤ y.2 ∨ y.2 + 8 ≤ x.2) l) ∧
    (∃ (s : State) (b : Reg), s.Ready (xs [b]) [] ∧ BitVec.toNat (s.me.xv b) % 8 ≠ 0) ∧
    (∃ (s : State) (b : Reg), s.Ready (xs [b]) [] ∧ BitVec.toNat (s.me.xv b) % 8 ≠ 0) := by
  refine ⟨⟨st { shp := #v[0, 0, 0, 0, 0, 0, 0, 0x10000000000000000000000000000000000000000000000000020000000000001] }, false, true, 7, 2, 1, 7, ?_⟩,
    ⟨st {}, 2, 1, 7, ?_⟩,
    ⟨mapped, 1, okOf [] ((mapped).recordAccess 0 .load), ?_⟩,
    ⟨mapped, 1, okOf [] ((mapped).recordAccess 0 .store), ?_⟩,
    ⟨st (withX 1 7), 1, ?_⟩,
    ⟨st (withX 1 7), 1, ?_⟩⟩
  all_goals repeat' apply And.intro
  all_goals first | decide +kernel | rfl

/-- The hypotheses of TilesUsed are met. -/
theorem test_meets_TilesUsed :
    ( ∃ (s : State) (e : BitVec 4) (p : Bool) (c b d : Reg) (task : Task),
      let q := s.quad (quadOf s.cur)
      let w := etWidth s.me.fmts e.toNat
      let rows := BitVec.toNat (s.me.xv b)
      let cols := BitVec.toNat (s.me.xv c)
      let n := (rows * cols * w + 32767) / 32768
      s.me.task = some task ∧ (q.allocs.any fun (x : AllocWait) => x.hart == s.cur) = false ∧
      s.me.fmtInvalid e.toNat = false ∧ s.Ready (xs [b, c]) (xs [d]) ∧ 0 < rows ∧ 0 < cols ∧ rows ≤ 65535 ∧
      cols ≤ 65535 ∧ (n ≤ if p = true then 64 else 256) ∧ task.tbud < q.taskGranules (s.partOf s.cur) task.id + n) ∧
    ( ∃ (s : State) (e : BitVec 4) (p : Bool) (c b d : Reg) (task : Task),
      let q := s.quad (quadOf s.cur)
      let w := etWidth s.me.fmts e.toNat
      let rows := BitVec.toNat (s.me.xv b)
      let cols := BitVec.toNat (s.me.xv c)
      let n := (rows * cols * w + 32767) / 32768
      ∃ (h g : ℕ), s.me.task = some task ∧ (q.allocs.any fun (x : AllocWait) => x.hart == s.cur) = false ∧
      s.me.fmtInvalid e.toNat = false ∧ s.Ready (xs [b, c]) (xs [d]) ∧ 0 < rows ∧ 0 < cols ∧ rows ≤ 65535 ∧
      cols ≤ 65535 ∧ (n ≤ if p = true then 64 else 256) ∧ q.taskGranules (s.partOf s.cur) task.id + n ≤ task.tbud ∧
      q.freeHandle = some h ∧ q.pickRun s.time p n = some g) ∧
    (∃ (s : State) (e : BitVec 4) (c b d : Reg),
      ((s.quad (quadOf s.cur)).allocs.any fun (x : AllocWait) => x.hart == s.cur) = false ∧
      s.me.fmtInvalid e.toNat = false ∧ s.Ready (xs [b, c]) (xs [d]) ∧ (s.me.xv b = 0 ∨ s.me.xv c = 0)) ∧
    (∃ (s : State) (e : BitVec 4) (p : Bool) (c b d : Reg),
      let rows := (s.me.xv b).toNat
      let cols := (s.me.xv c).toNat
      ((s.quad (quadOf s.cur)).allocs.any fun (x : AllocWait) => x.hart == s.cur) = false ∧
      s.me.fmtInvalid e.toNat = false ∧ s.Ready (xs [b, c]) (xs [d]) ∧ rows ≤ 65535 ∧ cols ≤ 65535 ∧
      (if p then 64 else 256) < (rows * cols * etWidth s.me.fmts e.toNat + 32767) / 32768) ∧
    ( ∃ (s : State) (e : BitVec 4) (p : Bool) (c b d : Reg) (task : Task),
      let q := s.quad (quadOf s.cur)
      let w := etWidth s.me.fmts e.toNat
      let rows := BitVec.toNat (s.me.xv b)
      let cols := BitVec.toNat (s.me.xv c)
      let n := (rows * cols * w + 32767) / 32768
      s.me.task = some task ∧ (q.allocs.any fun (x : AllocWait) => x.hart == s.cur) = false ∧
      s.me.fmtInvalid e.toNat = false ∧ s.Ready (xs [b, c]) (xs [d]) ∧ 0 < rows ∧ 0 < cols ∧ rows ≤ 65535 ∧
      cols ≤ 65535 ∧ (n ≤ if p = true then 64 else 256) ∧ q.pickRun s.time p n = none) ∧
    ( ∃ (s : State) (e : BitVec 4) (c b d : Reg) (t : TileRef), s.me.fmtInvalid e.toNat = false ∧ s.Ready (xs [b, c, d]) [] ∧
      s.tileOf (s.partOf s.cur) (s.me.xv b) = some t ∧ t.e.rows ≤ (s.me.xv c).toNat / 65536 % 65536 ∧ s.Ready [] (xs [d])) ∧
    ( ∃ (s : State) (e : BitVec 4) (c b d : Reg) (t : TileRef), s.me.fmtInvalid e.toNat = false ∧ s.Ready (xs [b, c, d]) [] ∧
      s.tileOf (s.partOf s.cur) (s.me.xv b) = some t ∧ t.e.cols ≤ (s.me.xv c).toNat % 65536 ∧ s.Ready [] (xs [d])) ∧
    ( ∃ (s : State) (e : BitVec 4) (c b d : Reg) (t : TileRef), s.me.fmtInvalid e.toNat = false ∧ s.Ready (xs [b, c, d]) [] ∧
      s.tileOf (s.partOf s.cur) (s.me.xv b) = some t ∧ etWidth s.me.fmts t.e.ty ≠ etWidth s.me.fmts e.toNat ∧ s.Ready [] (xs [d])) ∧
    (
      let inTile := fun (s : State) (e : BitVec 4) (hw rc : Word) (t : TileRef) => s.tileOf (s.partOf s.cur) hw = some t ∧ rc.toNat / 65536 % 65536 < t.e.rows ∧ rc.toNat % 65536 < t.e.cols ∧ etWidth s.me.fmts t.e.ty = etWidth s.me.fmts e.toNat ∧ s.me.fmtInvalid e.toNat = false
      let bitAt := fun (s : State) (e : BitVec 4) (rc : Word) (t : TileRef) => (rc.toNat / 65536 % 65536 * t.e.cols + rc.toNat % 65536) * etWidth s.me.fmts e.toNat
      ∃ (s : State) (e : BitVec 4) (c b d : Reg) (t : TileRef),
      let hw := s.me.xv b
      let rc := s.me.xv c
      let w := etWidth s.me.fmts e.toNat

      s.Ready (xs [b, c]) (xs [d]) ∧ inTile s e hw rc t ∧ s.banksOn t (bitAt s e rc t / 8) (elemBytes w) = true ∧
      d ≠ 0) ∧
    (
      let inTile := fun (s : State) (e : BitVec 4) (hw rc : Word) (t : TileRef) => s.tileOf (s.partOf s.cur) hw = some t ∧ rc.toNat / 65536 % 65536 < t.e.rows ∧ rc.toNat % 65536 < t.e.cols ∧ etWidth s.me.fmts t.e.ty = etWidth s.me.fmts e.toNat ∧ s.me.fmtInvalid e.toNat = false
      let bitAt := fun (s : State) (e : BitVec 4) (rc : Word) (t : TileRef) => (rc.toNat / 65536 % 65536 * t.e.cols + rc.toNat % 65536) * etWidth s.me.fmts e.toNat
      ∃ (s : State) (e : BitVec 4) (c b v : Reg) (t : TileRef),
      let hw := s.me.xv b
      let rc := s.me.xv c
      let w := etWidth s.me.fmts e.toNat
      let bit := bitAt s e rc t
      s.Ready (xs [b, c, v]) [] ∧ inTile s e hw rc t ∧ s.banksOn t (bit / 8) (elemBytes w) = true) ∧
    (∃ (s : State) (b : Reg) (t : TileRef),
      s.Ready (xs [b]) [] ∧ s.tileOf (s.partOf s.cur) (s.me.xv b) = some t ∧ s.tileBusy s.cur (s.me.xv b) = false) ∧
    (∃ (s : State) (e : BitVec 4), s.me.fmtInvalid e.toNat = true) ∧
    (∃ (s : State) (e : BitVec 4) (c b d : Reg),
      s.me.fmtInvalid e.toNat = false ∧ s.Ready (xs [b, c, d]) [] ∧ s.tileOf (s.partOf s.cur) (s.me.xv b) = none ∧
      s.Ready [] (xs [d])) := by
  refine ⟨⟨st (busy (withX 1 1)), 8, false, 1, 1, 31, {}, ?_⟩,
    ⟨st { (withX 1 65535).setX 2 1 with task := some { tbud := 256 } }, 8, false, 2, 1, 31, { tbud := 256 }, 0, 0, ?_⟩,
    ⟨st {}, 8, 2, 1, 31, ?_⟩,
    ⟨st ((withX 1 65535).setX 2 17), 8, false, 2, 1, 31, ?_⟩,
    ⟨st (busy ((withX 1 1).setX 2 1)) { part := some 0, tiles := [(9, { tile with ngr := 256 })] }, 8, false, 2, 1, 31, {}, ?_⟩,
    ⟨tileSt ((withX 1 hwt).setX 2 0x20000), 2, 2, 1, 31, ⟨0, 1, tile⟩, ?_⟩,
    ⟨tileSt ((withX 1 hwt).setX 2 4), 2, 2, 1, 31, ⟨0, 1, tile⟩, ?_⟩,
    ⟨tileSt (withX 1 hwt), 0, 2, 1, 31, ⟨0, 1, tile⟩, ?_⟩,
    ⟨tileSt ((withX 1 hwt).setX 2 0x10003), 2, 2, 1, 31, ⟨0, 1, tile⟩, ?_⟩,
    ⟨tileSt ((withX 1 hwt).setX 2 0x10003), 2, 2, 1, 3, ⟨0, 1, tile⟩, ?_⟩,
    ⟨tileSt (withX 1 hwt), 1, ⟨0, 1, tile⟩, ?_⟩,
    ⟨st { fmt := #v[0, 0, 0, 0] }, 12, ?_⟩,
    ⟨tileSt (withX 1 (hwt + 256)), 2, 2, 1, 31, ?_⟩⟩
  all_goals decide +kernel

/-- The hypotheses of GroupsJoined are met. -/
theorem test_meets_GroupsJoined :
    (
      let die := fun (s : State) => dieOf s.cur
      let task := fun (s : State) => BitVec.ofNat 32 s.me.taskId
      ∃ (s : State) (c b d : Reg),
      let x := BitVec.toNat (s.me.xv b)
      let g := s.group (die s) x
      s.Ready (xs [b, c]) (xs [d]) ∧ x ≤ 255 ∧ g.own = true ∧ g.part = s.partOf s.cur ∧
      (g.member (s.partOf s.cur) (task s) s.cur).isSome = true) ∧
    (
      let die := fun (s : State) => dieOf s.cur
      let task := fun (s : State) => BitVec.ofNat 32 s.me.taskId
      ∃ (s : State) (c b d : Reg),
      let x := BitVec.toNat (s.me.xv b)
      let g := s.group (die s) x
      s.Ready (xs [b, c]) (xs [d]) ∧ x ≤ 255 ∧ g.own = true ∧ g.part = s.partOf s.cur ∧
      g.member (s.partOf s.cur) (task s) s.cur = none ∧ 64 ≤ g.members.length) ∧
    (
      let die := fun (s : State) => dieOf s.cur
      let task := fun (s : State) => BitVec.ofNat 32 s.me.taskId
      ∃ (s : State) (c b d : Reg),
      let x := BitVec.toNat (s.me.xv b)
      let g := s.group (die s) x
      s.Ready (xs [b, c]) (xs [d]) ∧ x ≤ 255 ∧ g.own = true ∧ g.part = s.partOf s.cur ∧
      g.member (s.partOf s.cur) (task s) s.cur = none ∧ g.members.length < 64) ∧
    (∃ (s : State) (b : Reg), s.Ready (xs [b]) [] ∧ BitVec.toNat (s.me.xv b) ≤ 255) ∧
    (
      let die := fun (s : State) => dieOf s.cur
      ∃ (s : State) (c b d : Reg), s.Ready (xs [b, c]) (xs [d]) ∧
      (255 < BitVec.toNat (s.me.xv b) ∨ (s.group (die s) (BitVec.toNat (s.me.xv b))).own = false ∨ (s.group (die s) (BitVec.toNat (s.me.xv b))).part ≠ s.partOf s.cur)) ∧
    ( ∃ (s : State) (vec e : Bool) (k : BitVec 3) (c b a : Reg) (pages : List MemPart) (u : State),
      let ctl := s.me.xv c
      let src := s.me.xv b
      let len := ctl.toNat / 2 ^ 40 % 2 ^ 17
      let g := (ctl.toNat % 32, 2 ^ (ctl.toNat / 32 % 4))
      let hw := handleWord (quadOf s.cur) (ctl.toNat % 256) (ctl.toNat / 256 % 256)
      let wr := if vec = true then span g.1 g.2 else []
      (s.greqs.any fun (r : GReq) => r.hart == s.cur && !r.accepted) = false ∧ s.me.claimed = [] ∧
      s.Ready (xs [a, b, c]) (xs [a]) ∧ (vec = true → s.me.groupStop (↑g.1) g.2 = none ∧
      s.me.ownedAll (vgroup g.1 g.2) = none) ∧ (vec = false → e = true ∨ a ≠ 0) ∧ src.toNat % 64 = 0 ∧
      ctlBad ctl vec = false ∧
      s.sourcePages src len ((src.toNat % 4096 + len + 4095) / 4096) 0 = .ok (pages, u) ∧
      (vec = false → (s.fillFits (s.partOf s.cur) s.me.fmts hw (ctl.toNat / 65536 % 65536) len).isSome = true) ∧
      s.me.tokenFull (tokenOf e k) = none ∧
      (s.me.vq.any fun (x : VCmd) => x.op.isStore || overlap (x.reads ++ x.writes) wr) = false ∧
      (s.quad (quadOf s.cur)).clearFor s.cur s.me.seq wr wr = true) ∧
    ( ∃ (s : State) (vec e : Bool) (k : BitVec 3) (c b a : Reg) (pages : List MemPart) (u : State),
      let ctl := s.me.xv c
      let src := s.me.xv b
      let len := ctl.toNat / 2 ^ 40 % 2 ^ 17
      let g := (ctl.toNat % 32, 2 ^ (ctl.toNat / 32 % 4))
      let hw := handleWord (quadOf s.cur) (ctl.toNat % 256) (ctl.toNat / 256 % 256)
      let wr := if vec = true then span g.1 g.2 else []
      (s.greqs.any fun (r : GReq) => r.hart == s.cur && !r.accepted) = false ∧ s.me.claimed = [] ∧
      s.Ready (xs [a, b, c]) (xs [a]) ∧ (vec = true → s.me.groupStop (↑g.1) g.2 = none ∧
      s.me.ownedAll (vgroup g.1 g.2) = none) ∧ (vec = false → e = true ∨ a ≠ 0) ∧ src.toNat % 64 = 0 ∧
      ctlBad ctl vec = false ∧
      s.sourcePages src len ((src.toNat % 4096 + len + 4095) / 4096) 0 = .ok (pages, u) ∧
      (vec = false → (s.fillFits (s.partOf s.cur) s.me.fmts hw (ctl.toNat / 65536 % 65536) len).isSome = true) ∧
      s.me.tokenFull (tokenOf e k) = none ∧
      (s.me.vq.any fun (x : VCmd) => x.op.isStore || overlap (x.reads ++ x.writes) wr) = false ∧
      (s.quad (quadOf s.cur)).clearFor s.cur s.me.seq wr wr = true) ∧
    (∃ (s : State) (e : Bool) (c b a : Reg),
      (s.greqs.any fun (r : GReq) => r.hart == s.cur && !r.accepted) = false ∧ s.Ready (xs [a, b, c]) (xs [a]) ∧
      (e = true ∨ a ≠ 0) ∧ BitVec.toNat (s.me.xv b) % 64 ≠ 0) ∧
    (∃ (s : State) (b : Reg), s.Ready (xs [b]) [] ∧ 255 < (s.me.xv b).toNat) ∧
    (∃ (s : State) (c b a : Reg),
      let ctl := s.me.xv c
      let g := (ctl.toNat % 32, 2 ^ (ctl.toNat / 32 % 4))
      (s.greqs.any fun (r : GReq) => r.hart == s.cur && !r.accepted) = false ∧ s.Ready (xs [a, b, c]) (xs [a]) ∧
      s.me.groupStop g.1 g.2 = none ∧ s.me.ownedAll (vgroup g.1 g.2) = none ∧ (s.me.xv b).toNat % 64 ≠ 0) ∧
    (∃ (s : State) (c b a : Reg) (pages : List MemPart) (u : State),
      let ctl := s.me.xv c
      let src := s.me.xv b
      let len := ctl.toNat / 2 ^ 40 % 2 ^ 17
      (s.greqs.any fun (r : GReq) => r.hart == s.cur && !r.accepted) = false ∧ s.Ready (xs [a, b, c]) (xs [a]) ∧ a ≠ 0 ∧
      src.toNat % 64 = 0 ∧ ctlBad ctl false = true ∧
      s.sourcePages src len (if len = 0 then 0 else (src.toNat % 4096 + len + 4095) / 4096) 0 = .ok (pages, u)) := by
  refine ⟨⟨grouped { own := true, part := 0, members := [⟨0, 0, 0, 5, 5⟩] } (withX 1 255), 2, 1, 31, ?_⟩,
    ⟨grouped { own := true, part := 0, members := List.replicate 64 ⟨1, 1, 1, 5, 5⟩ } (withX 1 255), 2, 1, 31, ?_⟩,
    ⟨grouped { own := true, part := 0 } (withX 1 255), 2, 1, 31, ?_⟩,
    ⟨grouped {} (withX 1 255), 1, ?_⟩,
    ⟨st (withX 1 256), 2, 1, 31, ?_⟩,
    ⟨mapped (busy (withX 2 (64 * 2 ^ 40))), true, true, 7, 2, 1, 3, [{ pa := 0, n := 64 }], (okOf ([], {}) ((mapped (busy (withX 2 (64 * 2 ^ 40)))).sourcePages 0 64 1 0)).2, ?_⟩,
    ⟨{ mapped ((withX 2 (64 * 2 ^ 40 + 65536 + 3 * 256 + 1)).setX 1 0) with quads := [(0, { part := some 0, tlb := [page], tiles := [(1, { tile with rows := 64 })], banks := [(0, { st := 2 })] })] }, false, true, 7, 2, 1, 3, [{ pa := 0, n := 64 }], (okOf ([], {}) (State.sourcePages { mapped ((withX 2 (64 * 2 ^ 40 + 65536 + 3 * 256 + 1)).setX 1 0) with quads := [(0, { part := some 0, tlb := [page], tiles := [(1, { tile with rows := 64 })], banks := [(0, { st := 2 })] })] } 0 64 1 0)).2, ?_⟩,
    ⟨st (withX 1 63), true, 2, 1, 3, ?_⟩,
    ⟨st (withX 1 256), 1, ?_⟩,
    ⟨st (busy ((withX 1 63).setX 2 (64 * 2 ^ 40))), 2, 1, 3, ?_⟩,
    ⟨mapped (busy (withX 2 (32 * 2 ^ 40))), 2, 1, 3, (okOf ([], {}) ((mapped (busy (withX 2 (32 * 2 ^ 40)))).sourcePages 0 32 1 0)).1, (okOf ([], {}) ((mapped (busy (withX 2 (32 * 2 ^ 40)))).sourcePages 0 32 1 0)).2, ?_⟩⟩
  all_goals decide +kernel

/-- The hypotheses of VectorArithmeticIssues are met. -/
theorem test_meets_VectorArithmeticIssues :
    (∃ (s : State) (i : Instr) (op : IOp) (et p : Nat) (d : Reg) (src : VSrc) (x : Reg),
      intForm s.me i = some (op, et, p, d, src, x) ∧
      s.VIssues (s.me.binReq i false et d src x (VOp.int op et p (d.toNat) src))) ∧
    (∃ (s : State) (i : Instr) (op : FOp) (rnd : Bool) (et p : Nat) (d : Reg) (src : VSrc) (x : Reg),
      fltForm s.me i = some (op, rnd, et, p, d, src, x) ∧
      s.VIssues (s.me.binReq i (rnd && decide (4 ≤ s.me.frm.toNat)) et d src x (VOp.flt op et p (d.toNat) src))) ∧
    (∃ (s : State) (i : Instr) (op : EOp) (rnd : Bool) (et p : Nat) (d v : Reg),
      oneForm i = some (op, rnd, et, p, d, v) ∧
      s.VIssues (s.me.unaReq i (rnd && decide (4 ≤ s.me.frm.toNat)) et false d (VSrc.reg (v.toNat)) v (VOp.one op et p (d.toNat) (v.toNat)) id)) ∧
    (∃ (s : State) (i : Instr) (op : TOp) (rnd : Bool) (et p : Nat) (d a b : Reg),
      threeForm i = some (op, rnd, et, p, d, a, b) ∧
      s.VIssues (s.me.threeReq i op (rnd && decide (4 ≤ s.me.frm.toNat)) et p d a (b.toNat))) ∧
    (∃ (s : State) (b : Reg) (p e : BitVec 3) (a d : Reg),
      s.VIssues (s.me.wideReq (Instr.vwmac b p e a d) true e.toNat p.toNat d a b)) ∧
    (∃ (s : State) (b : Reg) (p e : BitVec 3) (a d : Reg),
      s.VIssues (s.me.wideReq (Instr.vwmul b p e a d) false e.toNat p.toNat d a b)) ∧
    (∃ (s : State) (i : Instr) (cc et p : Nat) (d : Reg) (src : VSrc) (x : Reg),
      cmpForm s.me i = some (cc, et, p, d, src, x) ∧ s.VIssues (s.me.cmpReq i cc et p d src x)) ∧
    (∃ (s : State) (i : Instr) (et p : Nat) (d : Reg) (src : VSrc) (x : Reg),
      selForm s.me i = some (et, p, d, src, x) ∧
      s.VIssues (s.me.binReq i (decide (12 ≤ s.me.vcfg.et.toNat)) et d src x (VOp.sel et p (d.toNat) src))) ∧
    (∃ (s : State) (p : BitVec 3) (e : BitVec 2) (v d : Reg), s.VIssues (s.me.scaleReq p e v d)) ∧
    (∃ (s : State) (f : BitVec 4) (p : BitVec 3) (e : BitVec 4) (v d : Reg),
      s.VIssues (s.me.cvtReq (Instr.vcvt f p e v d) false e.toNat f.toNat p.toNat d v)) ∧
    (∃ (s : State) (f : BitVec 4) (p : BitVec 3) (e : BitVec 4) (v d : Reg),
      s.VIssues (s.me.cvtReq (Instr.vcvtSr f p e v d) true e.toNat f.toNat p.toNat d v)) := by
  refine ⟨⟨st (vec 128), .vaddVi 7 0 16 7, .add, 0, 7, 7, .imm (-16), 16, ?_⟩,
    ⟨st (vec 16 { vcfg := { et := 10 } }), .vfaddVv 7 2 7 7, .add, true, 10, 7, 7, .reg 7, 7, ?_⟩,
    ⟨st (vec 16 { vcfg := { et := 10 } }), .vfabs 7 2 7 7, .fabs, false, 10, 7, 7, 7, ?_⟩,
    ⟨st (vec 16 { vcfg := { et := 10 } }), .vffma 6 7 2 5 7, .ffma, true, 10, 7, 7, 5, 6, ?_⟩,
    ⟨st (vec 128), 5, 7, 0, 6, 2, ?_⟩,
    ⟨st (vec 128), 5, 7, 0, 6, 2, ?_⟩,
    ⟨st (vec 128), .vcmpVv 2 7 0 6 7, 0, 0, 7, 7, .reg 6, 6, ?_⟩,
    ⟨st (vec 128), .vselVv 7 0 6 7, 0, 7, 7, .reg 6, 6, ?_⟩,
    ⟨st (vec 16 { vcfg := { et := 10 } }), 7, 2, 6, 7, ?_⟩,
    ⟨st (vec 16 { vcfg := { et := 10 } }), 8, 7, 10, 6, 7, ?_⟩,
    ⟨st (vec 16 { vcfg := { et := 10 } }), 8, 7, 10, 6, 7, ?_⟩⟩
  all_goals repeat' apply And.intro
  all_goals first | decide +kernel | rfl

/-- The hypotheses of VectorMovesIssue are met. -/
theorem test_meets_VectorMovesIssue :
    (∃ (s : State) (i : Instr) (op : VOp) (et : Nat) (d : Reg) (src : VSrc) (x : Reg) (rd apart : Bool),
      moveForm s.me i = some (op, et, d, src, x, rd, apart) ∧
      s.VIssues (if rd = true then s.me.binReq i false et d src x op else s.me.unaReq i false et (apart && groupsMeet (d.toNat) s.me.gsz (x.toNat) s.me.gsz) d src x op id)) ∧
    (∃ (s : State) (p : BitVec 3) (e : BitVec 4) (v d : Reg),
      s.VIssues (s.me.unaReq (Instr.vtake p e v d) false e.toNat false d (VSrc.reg (v.toNat)) v (VOp.take e.toNat p.toNat (d.toNat) (v.toNat)) fun (h : Hart) => h.openV (v.toNat) h.gsz)) ∧
    (∃ (s : State) (i : Instr) (op : RedOp) (rnd : Bool) (et p : Nat) (d v : Reg),
      redForm i = some (op, rnd, et, p, d, v) ∧
      s.VIssues (s.me.redReq i op (rnd && decide (4 ≤ s.me.frm.toNat)) et p d v)) ∧
    (∃ (s : State) (i : Instr) (op : VOp) (src dst : List Reg),
      predForm s.me i = some (op, src, dst) ∧ s.VIssues (s.me.predReq i (xs src) (xs dst) op)) ∧
    (∃ (s : State) (i : Instr) (op : VOp) (bad : Bool) (d v : Reg), shortBin s.me i = some (op, bad, d, v) ∧
      s.VIssues (s.me.binReq i bad s.me.vcfg.et.toNat d (VSrc.reg (v.toNat)) v op)) ∧
    (∃ (s : State) (d v : Reg),
      let et := s.me.vcfg.et.toNat
      let g := 2 ^ s.me.vcfg.g.toNat
      s.VIssues (s.me.threeReq (Instr.vqVmac d v) TOp.mac (decide (8 ≤ et)) et 0 d v (v.toNat + g))) ∧
    (∃ (s : State) (d v : Reg),
      let et := s.me.vcfg.et.toNat
      let g := 2 ^ s.me.vcfg.g.toNat

      s.VIssues (s.me.threeReq (Instr.vqVffma d v) TOp.ffma (decide (et < 8) || decide (12 ≤ et) || decide (4 ≤ s.me.frm.toNat)) et 0 d v (v.toNat + g))) ∧
    (∃ (s : State) (d v : Reg),
      let et := s.me.vcfg.et.toNat

      s.VIssues (s.me.unaReq (Instr.vqVmv d v) false et false d (VSrc.reg (v.toNat)) v (VOp.mv et 0 (d.toNat) (VSrc.reg (v.toNat))) id)) ∧
    (∃ (s : State) (fromMatrix : Bool),
      let i := if fromMatrix = true then Instr.vfifoPopMv else Instr.vfifoPopCv
      let r := { i := i, vl := s.me.vl, g := 2 ^ s.me.vcfg.g.toNat, op := VOp.pop fromMatrix }
      s.VIssues r ∧ s.me.park ≠ some Park.pop) := by
  refine ⟨⟨st (vec 128), .vcompress 7 0 6 7, .compress 0 7 7 6, 0, 7, .reg 6, 6, false, true, ?_⟩,
    ⟨st (vec 128), 7, 0, 6, 7, ?_⟩,
    ⟨st (vec 128), .vredsum 7 0 6 7, .sum, false, 0, 7, 7, 6, ?_⟩,
    ⟨st (vec 128), .pand 7 6 5, .pred .and 7 5 6, [], [], ?_⟩,
    ⟨st (vec 128), .vqVadd 7 6, .int .add 0 0 7 (.reg 6), false, 7, 6, ?_⟩,
    ⟨st (vec 128), 7, 5, ?_⟩,
    ⟨st (vec 16 { vcfg := { et := 10 } }), 7, 5, ?_⟩,
    ⟨st (vec 128), 7, 6, ?_⟩,
    ⟨st (vec 128), true, ?_⟩⟩
  all_goals repeat' apply And.intro
  all_goals first | decide +kernel | rfl

/-- The hypotheses of VectorIssueStops are met. -/
theorem test_meets_VectorIssueStops :
    (∃ (s : State) (i : Instr) (op : IOp) (et p : Nat) (d v : Reg),
      let same := etWidth s.me.fmts et = etWidth s.me.fmts s.me.vcfg.et.toNat
      intForm s.me i = some (op, et, p, d, VSrc.reg (v.toNat), v) ∧ ¬same) ∧
    (∃ (s : State) (i : Instr) (op : IOp) (et p : Nat) (d v : Reg),
      let g := 2 ^ s.me.vcfg.g.toNat
      let fits := fun (r : Reg) => r.toNat % g = 0 ∧ r.toNat + g ≤ s.me.alloc
      let same := etWidth s.me.fmts et = etWidth s.me.fmts s.me.vcfg.et.toNat
      intForm s.me i = some (op, et, p, d, VSrc.reg (v.toNat), v) ∧ same ∧ ¬fits d) ∧
    (∃ (s : State) (i : Instr) (op : IOp) (et p : Nat) (d v : Reg),
      let g := 2 ^ s.me.vcfg.g.toNat
      let fits := fun (r : Reg) => r.toNat % g = 0 ∧ r.toNat + g ≤ s.me.alloc
      let same := etWidth s.me.fmts et = etWidth s.me.fmts s.me.vcfg.et.toNat
      intForm s.me i = some (op, et, p, d, VSrc.reg (v.toNat), v) ∧ same ∧ fits d ∧ ¬fits v) ∧
    (∃ (s : State) (i : Instr) (op : IOp) (et p : Nat) (d v : Reg),
      let g := 2 ^ s.me.vcfg.g.toNat
      let fits := fun (r : Reg) => r.toNat % g = 0 ∧ r.toNat + g ≤ s.me.alloc
      let same := etWidth s.me.fmts et = etWidth s.me.fmts s.me.vcfg.et.toNat
      let src := vgroup (d.toNat) g ++ vgroup (v.toNat) g
      ∃ (r : Nat), intForm s.me i = some (op, et, p, d, VSrc.reg (v.toNat), v) ∧ same ∧ fits d ∧ fits v ∧
      s.me.markedAny src = none ∧ s.me.due false false true = none ∧
      s.me.presentAll src = some (Stop.park (Park.empty RFile.v r false))) ∧
    (∃ (s : State) (i : Instr) (op : IOp) (et p : Nat) (d v : Reg),
      let g := 2 ^ s.me.vcfg.g.toNat
      let fits := fun (r : Reg) => r.toNat % g = 0 ∧ r.toNat + g ≤ s.me.alloc
      let same := etWidth s.me.fmts et = etWidth s.me.fmts s.me.vcfg.et.toNat
      let src := vgroup (d.toNat) g ++ vgroup (v.toNat) g
      intForm s.me i = some (op, et, p, d, VSrc.reg (v.toNat), v) ∧ same ∧ fits d ∧ fits v ∧
      s.me.markedAny src = none ∧ s.me.due false false true = none ∧ s.me.presentAll src = none ∧
      s.me.ownedAll (vgroup (d.toNat) g) = none ∧ 8 ≤ s.me.vq.length) ∧
    (∃ (s : State) (i : Instr) (op : FOp) (et p : Nat) (d v : Reg),
      fltForm s.me i = some (op, true, et, p, d, VSrc.reg (v.toNat), v) ∧ etWidth s.me.fmts et = etWidth s.me.fmts s.me.vcfg.et.toNat ∧
      ¬ s.me.frm.toNat < 4) ∧
    (∃ (s : State) (i : Instr) (op : FOp) (rnd : Bool) (et p : Nat) (d v : Reg),
      fltForm s.me i = some (op, rnd, et, p, d, VSrc.reg (v.toNat), v) ∧ etWidth s.me.fmts et = etWidth s.me.fmts s.me.vcfg.et.toNat ∧
      s.me.frm.toNat < 4 ∧ s.me.alloc < d.toNat + 1) := by
  refine ⟨⟨st (vec 1), .vaddVv 7 1 6 7, .add, 1, 7, 7, 6, ?_⟩,
    ⟨st (vec 1), .vaddVv 7 0 6 8, .add, 0, 7, 8, 6, ?_⟩,
    ⟨st (vec 1), .vaddVv 7 0 8 7, .add, 0, 7, 7, 8, ?_⟩,
    ⟨st ((vec 1).presV 6 .opened), .vaddVv 7 0 6 7, .add, 0, 7, 7, 6, 6, ?_⟩,
    ⟨st (vec 1 { vq := List.replicate 8 vcmd }), .vaddVv 7 0 6 7, .add, 0, 7, 7, 6, ?_⟩,
    ⟨st (vec 1 { frm := 4, vcfg := { et := 10 } }), .vfaddVv 7 2 6 7, .add, 10, 7, 7, 6, rfl, by decide +kernel, by decide +kernel⟩,
    ⟨st (vec 1 { vcfg := { et := 10 } }), .vfaddVv 7 2 6 8, .add, true, 10, 7, 8, 6, rfl, by decide +kernel, by decide +kernel, by decide +kernel⟩⟩
  all_goals decide +kernel

/-- The hypotheses of FusedMultiplyAdds are met. -/
theorem test_meets_FusedMultiplyAdds :
    ( ∃ (s : State) (b : Reg) (p : BitVec 3) (e : BitVec 2) (a d : Reg),
      let r := fun (i : Instr) (op : TOp) => s.me.threeReq i op (decide (4 ≤ s.me.frm.toNat)) (8 + e.toNat) p.toNat d a (b.toNat)
      s.VIssues (r (Instr.vffma b p e a d) TOp.ffma)) ∧
    ( ∃ (s : State) (b : Reg) (p : BitVec 3) (e : BitVec 2) (a d : Reg),
      let r := fun (i : Instr) (op : TOp) => s.me.threeReq i op (decide (4 ≤ s.me.frm.toNat)) (8 + e.toNat) p.toNat d a (b.toNat)
      s.VIssues (r (Instr.vffms b p e a d) TOp.ffms)) ∧
    ( ∃ (s : State) (b : Reg) (p : BitVec 3) (e : BitVec 2) (a d : Reg),
      let r := fun (i : Instr) (op : TOp) => s.me.threeReq i op (decide (4 ≤ s.me.frm.toNat)) (8 + e.toNat) p.toNat d a (b.toNat)
      s.VIssues (r (Instr.vfnfma b p e a d) TOp.fnfma)) ∧
    ( ∃ (s : State) (c : VCmd) (l : List VCmd) (op : TOp) (et p d va vb : ℕ),
      let w := etWidth c.fmt et
      Clears s c l ∧ c.op = VOp.three op et p d va vb ∧ 8 ≤ et ∧ et < 12 ∧
      (op = TOp.ffma ∨ op = TOp.ffms ∨ op = TOp.fnfma) ∧ c.vl * w ≤ 1024 * c.g ∧ d + c.g ≤ 32) := by
  refine ⟨⟨st (vec 16 { vcfg := { et := 10 } }), 6, 7, 2, 5, 7, ?_⟩,
    ⟨st (vec 16 { vcfg := { et := 10 } }), 6, 7, 2, 5, 7, ?_⟩,
    ⟨st (vec 16 { vcfg := { et := 10 } }), 7, 0, 2, 7, 7, ?_⟩,
    ⟨cmdSt (.three .fnfma 10 0 31 31 31), vcmd (.three .fnfma 10 0 31 31 31), [], .fnfma, 10, 0, 31, 31, 31, ?_⟩⟩
  all_goals repeat' apply And.intro
  all_goals decide +kernel

/-- The hypotheses of VectorResults are met. -/
theorem test_meets_VectorResults :
    (∃ (s : State) (c : VCmd) (l : List VCmd) (op : IOp) (et p d : Nat) (src : VSrc),
      let w := 8 * 2 ^ (et % 4)
      Clears s c l ∧ c.op = VOp.int op et p d src ∧ et < 8 ∧ c.vl * w ≤ 1024 * c.g ∧ d + c.g ≤ 32) ∧
    (∃ (s : State) (c : VCmd) (l : List VCmd) (et p d n : Nat),
      Clears s c l ∧ c.op = VOp.mv et p d (VSrc.reg n) ∧ c.vl * etWidth c.fmt et ≤ 1024 * c.g ∧ d + c.g ≤ 32) ∧
    (∃ (s : State) (c : VCmd) (l : List VCmd) (et p d : Nat) (v : Word),
      Clears s c l ∧ c.op = VOp.mv et p d (VSrc.scalar v) ∧ c.vl * etWidth c.fmt et ≤ 1024 * c.g ∧ d + c.g ≤ 32) ∧
    (∃ (s : State) (c : VCmd) (l : List VCmd) (et p d n : Nat),
      Clears s c l ∧ c.op = VOp.sel et p d (VSrc.reg n) ∧ c.vl * etWidth c.fmt et ≤ 1024 * c.g ∧ d + c.g ≤ 32) ∧
    (∃ (s : State) (c : VCmd) (l : List VCmd) (et p d k : Nat),
      Clears s c l ∧ c.op = VOp.slup et p d k ∧ c.vl * etWidth c.fmt et ≤ 1024 * c.g ∧ d + c.g ≤ 32) ∧
    (∃ (s : State) (c : VCmd) (l : List VCmd) (et p d k : Nat),
      Clears s c l ∧ c.op = VOp.sldn et p d k ∧ c.vl * etWidth c.fmt et ≤ 1024 * c.g ∧ d + c.g ≤ 32) ∧
    (∃ (s : State) (c : VCmd) (l : List VCmd) (et p d : Nat) (v : Word),
      Clears s c l ∧ c.op = VOp.sl1up et p d v ∧ c.vl * etWidth c.fmt et ≤ 1024 * c.g ∧ d + c.g ≤ 32) ∧
    (∃ (s : State) (c : VCmd) (l : List VCmd) (et p d k : Nat),
      Clears s c l ∧ c.op = VOp.xchg et p d k ∧ c.vl * etWidth c.fmt et ≤ 1024 * c.g ∧ d + c.g ≤ 32) ∧
    (∃ (s : State) (c : VCmd) (l : List VCmd) (et p d n : Nat),
      Clears s c l ∧ c.op = VOp.perm et p d n ∧ c.vl * etWidth c.fmt et ≤ 1024 * c.g ∧ d + c.g ≤ 32) ∧
    (∃ (s : State) (c : VCmd) (l : List VCmd) (et p d n : Nat),
      Clears s c l ∧ c.op = VOp.take et p d n ∧ c.vl * etWidth c.fmt et ≤ 1024 * c.g ∧ d + c.g ≤ 32) ∧
    (∃ (s : State) (c : VCmd) (l : List VCmd) (et p d n : Nat),
      Clears s c l ∧ c.op = VOp.compress et p d n ∧ c.vl * etWidth c.fmt et ≤ 1024 * c.g ∧ d + c.g ≤ 32) ∧
    (∃ (s : State) (c : VCmd) (l : List VCmd) (op : PrOp) (pd pa pb : Nat),
      Clears s c l ∧ c.vl ≤ 2048 ∧ c.op = VOp.pred op pd pa pb) ∧
    (∃ (s : State) (c : VCmd) (l : List VCmd) (pd : Nat) (x : Word),
      Clears s c l ∧ c.vl ≤ 2048 ∧ c.op = VOp.pset pd x) ∧
    (∃ (s : State) (c : VCmd) (l : List VCmd) (xd pa : Nat),
      Clears s c l ∧ c.vl ≤ 2048 ∧ c.op = VOp.pfirst xd pa) ∧
    (∃ (s : State) (c : VCmd) (l : List VCmd) (xd pa : Nat),
      Clears s c l ∧ c.vl ≤ 2048 ∧ c.op = VOp.pcnt xd pa) ∧
    (∃ (s : State) (c : VCmd) (l : List VCmd) (cc et p d n : Nat),
      Clears s c l ∧ c.vl ≤ 2048 ∧ c.op = VOp.cmp cc et p d (VSrc.reg n) ∧ et < 8 ∧ cc < 6) ∧
    (∃ (s : State) (c : VCmd) (l : List VCmd) (et p d n : Nat),
      Clears s c l ∧ c.vl ≤ 2048 ∧ c.op = VOp.red RedOp.sum et p d n ∧ et < 8 ∧ d < 32) ∧
    (∃ (s : State) (c : VCmd) (l : List VCmd) (et xd n i : Nat),
      Clears s c l ∧ c.vl ≤ 2048 ∧ c.op = VOp.mvx et xd n i ∧ et < 8) ∧
    (∃ (s : State) (c : VCmd) (l : List VCmd),
      let h := s.ev.h
      ∃ (toCopy : Bool),
      let q := s.quad (quadOf h)
      let n := if toCopy = true then Fifo.vc.no else Fifo.vm.no
      Clears s c l ∧ c.vl ≤ 2048 ∧ c.op = VOp.push toCopy ∧ q.fifo.get n 0 < 16 ∧ q.held = []) ∧
    (∃ (s : State) (c : VCmd) (l : List VCmd) (et p d x y : Nat),
      Clears s c l ∧ c.op = .three .mac et p d x y ∧ et < 8 ∧ c.vl * (8 * 2 ^ (et % 4)) ≤ 1024 * c.g ∧ d + c.g ≤ 32) ∧
    (∃ (s : State) (c : VCmd) (l : List VCmd) (et p d x y : Nat),
      Clears s c l ∧ c.op = .three .wmac et p d x y ∧ et < 8 ∧ c.vl * (8 * 2 ^ (et % 4)) ≤ 1024 * c.g ∧ d + 2 * c.g ≤ 32) ∧
    (∃ (s : State) (c : VCmd) (l : List VCmd) (et p d n : Nat),
      Clears s c l ∧ c.op = .one .clz et p d n ∧ et < 8 ∧ c.vl * (8 * 2 ^ (et % 4)) ≤ 1024 * c.g ∧ d + c.g ≤ 32) ∧
    (∃ (s : State) (c : VCmd) (l : List VCmd) (et p d n : Nat),
      Clears s c l ∧ c.op = .one .popc et p d n ∧ et < 8 ∧ c.vl * (8 * 2 ^ (et % 4)) ≤ 1024 * c.g ∧ d + c.g ≤ 32) ∧
    (∃ (s : State) (c : VCmd) (l : List VCmd) (et p d n : Nat), Clears s c l ∧ c.op = .red .min et p d n ∧ et < 8 ∧ d < 32) ∧
    (∃ (s : State) (c : VCmd) (l : List VCmd) (et d i g : Nat) (v : Word),
      Clears s c l ∧ c.op = .mvs et d v i ∧ (i + 1) * etWidth c.fmt et ≤ 1024 * g ∧ d + g ≤ 32) ∧
    (∃ (s : State) (c : VCmd) (l : List VCmd) (d n g : Nat), Clears s c l ∧ c.op = .copy d n g ∧ d + g ≤ 32) ∧
    (∃ (s : State) (c : VCmd) (l : List VCmd) (et p d n : Nat),
      Clears s c l ∧ 8 ≤ et ∧ c.op = .flt .div et p d (.reg n) ∧ et < 12 ∧ c.vl * etWidth c.fmt et ≤ 1024 * c.g ∧ d + c.g ≤ 32) ∧
    (∃ (s : State) (c : VCmd) (l : List VCmd) (et p d n : Nat),
      Clears s c l ∧ 8 ≤ et ∧ c.op = .one .fsqrt et p d n ∧ et < 12 ∧ c.vl * etWidth c.fmt et ≤ 1024 * c.g ∧ d + c.g ≤ 32) ∧
    (∃ (s : State) (c : VCmd) (l : List VCmd) (p d n : Nat),
      Clears s c l ∧ c.op = .one .rcp 10 p d n ∧ c.vl * 32 ≤ 1024 * c.g ∧ d + c.g ≤ 32) ∧
    (∃ (s : State) (c : VCmd) (l : List VCmd) (cc et p d n : Nat),
      Clears s c l ∧ 8 ≤ et ∧ c.op = .cmp cc et p d (.reg n) ∧ et < 12 ∧ cc < 6 ∧ c.vl ≤ 2048) ∧
    (∃ (s : State) (c : VCmd) (l : List VCmd) (et p d n : Nat),
      Clears s c l ∧ 8 ≤ et ∧ c.op = .scale et p d n ∧ et < 12 ∧ c.vl * etWidth c.fmt et ≤ 1024 * c.g ∧ d + c.g ≤ 32) ∧
    (∃ (s : State) (c : VCmd) (l : List VCmd) (et p d n j : Nat),
      Clears s c l ∧ 8 ≤ et ∧ c.op = .red .fsum et p d n ∧ et < 12 ∧ d < 32 ∧ 2 ^ j * etWidth c.fmt et = 1024 * c.g ∧ c.vl ≤ 2 ^ j ∧
      0 < c.vl ∧ (s.hart s.ev.h).pbit p 0 = true) ∧
    (∃ (s : State) (c : VCmd) (l : List VCmd) (et p d n : Nat),
      Clears s c l ∧ 8 ≤ et ∧ c.op = .red .fsum et p d n ∧ (∀ e, e < c.vl → (s.hart s.ev.h).pbit p e = false)) ∧
    (∃ (s : State) (c : VCmd) (l : List VCmd) (et from_ p d n g : Nat) (sr : Bool) (seed : Word) (base : Nat),
      Clears s c l ∧ c.op = .cvt et from_ p d n sr seed base ∧ c.vl * etWidth c.fmt et ≤ 1024 * g ∧ d + g ≤ 32) := by
  refine ⟨⟨cmdSt (.int .add 7 7 31 (.reg 30)), vcmd (.int .add 7 7 31 (.reg 30)), [], .add, 7, 7, 31, .reg 30, ?_⟩,
    ⟨cmdSt (.mv 0 7 31 (.reg 30)), vcmd (.mv 0 7 31 (.reg 30)), [], 0, 7, 31, 30, ?_⟩,
    ⟨cmdSt (.mv 0 7 31 (.scalar 5)), vcmd (.mv 0 7 31 (.scalar 5)), [], 0, 7, 31, 5, ?_⟩,
    ⟨cmdSt (.sel 0 7 31 (.reg 30)), vcmd (.sel 0 7 31 (.reg 30)), [], 0, 7, 31, 30, ?_⟩,
    ⟨cmdSt (.slup 0 7 31 9), vcmd (.slup 0 7 31 9), [], 0, 7, 31, 9, ?_⟩,
    ⟨cmdSt (.sldn 0 7 31 9), vcmd (.sldn 0 7 31 9), [], 0, 7, 31, 9, ?_⟩,
    ⟨cmdSt (.sl1up 0 7 31 9), vcmd (.sl1up 0 7 31 9), [], 0, 7, 31, 9, ?_⟩,
    ⟨cmdSt (.xchg 0 7 31 9), vcmd (.xchg 0 7 31 9), [], 0, 7, 31, 9, ?_⟩,
    ⟨cmdSt (.perm 0 7 31 9), vcmd (.perm 0 7 31 9), [], 0, 7, 31, 9, ?_⟩,
    ⟨cmdSt (.take 0 7 31 9), vcmd (.take 0 7 31 9), [], 0, 7, 31, 9, ?_⟩,
    ⟨cmdSt (.compress 0 7 31 9), vcmd (.compress 0 7 31 9), [], 0, 7, 31, 9, ?_⟩,
    ⟨cmdSt (.pred .and 7 6 5), vcmd (.pred .and 7 6 5), [], .and, 7, 6, 5, ?_⟩,
    ⟨cmdSt (.pset 7 9), vcmd (.pset 7 9), [], 7, 9, ?_⟩,
    ⟨cmdSt (.pfirst 31 7), vcmd (.pfirst 31 7), [], 31, 7, ?_⟩,
    ⟨cmdSt (.pcnt 31 7), vcmd (.pcnt 31 7), [], 31, 7, ?_⟩,
    ⟨cmdSt (.cmp 5 7 7 7 (.reg 31)), vcmd (.cmp 5 7 7 7 (.reg 31)), [], 5, 7, 7, 7, 31, ?_⟩,
    ⟨cmdSt (.red .sum 7 7 31 30), vcmd (.red .sum 7 7 31 30), [], 7, 7, 31, 30, ?_⟩,
    ⟨cmdSt (.mvx 7 31 30 15), vcmd (.mvx 7 31 30 15), [], 7, 31, 30, 15, ?_⟩,
    ⟨cmdSt (.push true), vcmd (.push true), [], true, ?_⟩,
    ⟨cmdSt (.three .mac 7 7 31 30 29), vcmd (.three .mac 7 7 31 30 29), [], 7, 7, 31, 30, 29, ?_⟩,
    ⟨cmdSt (.three .wmac 6 7 30 29 28), vcmd (.three .wmac 6 7 30 29 28), [], 6, 7, 30, 29, 28, ?_⟩,
    ⟨cmdSt (.one .clz 7 7 31 30), vcmd (.one .clz 7 7 31 30), [], 7, 7, 31, 30, ?_⟩,
    ⟨cmdSt (.one .popc 3 7 31 30), vcmd (.one .popc 3 7 31 30), [], 3, 7, 31, 30, ?_⟩,
    ⟨cmdSt (.red .min 3 7 31 30), vcmd (.red .min 3 7 31 30), [], 3, 7, 31, 30, ?_⟩,
    ⟨cmdSt (.mvs 3 31 9 15), vcmd (.mvs 3 31 9 15), [], 3, 31, 15, 1, 9, ?_⟩,
    ⟨cmdSt (.copy 24 16 8), vcmd (.copy 24 16 8), [], 24, 16, 8, ?_⟩,
    ⟨cmdSt (.flt .div 11 7 31 (.reg 30)), vcmd (.flt .div 11 7 31 (.reg 30)), [], 11, 7, 31, 30, ?_⟩,
    ⟨cmdSt (.one .fsqrt 8 7 31 30), vcmd (.one .fsqrt 8 7 31 30), [], 8, 7, 31, 30, ?_⟩,
    ⟨cmdSt (.one .rcp 10 7 31 30), vcmd (.one .rcp 10 7 31 30), [], 7, 31, 30, ?_⟩,
    ⟨cmdSt (.cmp 5 11 7 7 (.reg 31)), vcmd (.cmp 5 11 7 7 (.reg 31)), [], 5, 11, 7, 7, 31, ?_⟩,
    ⟨cmdSt (.scale 10 7 31 30), vcmd (.scale 10 7 31 30), [], 10, 7, 31, 30, ?_⟩,
    ⟨summed, { vcmd (.red .fsum 10 7 31 30) with vl := 32, fmt := ({} : Hart).fmts }, [], 10, 7, 31, 30, 5, ?_⟩,
    ⟨cmdSt (.red .fsum 10 7 31 30), vcmd (.red .fsum 10 7 31 30), [], 10, 7, 31, 30, ⟨by decide +kernel, by decide +kernel⟩, by decide +kernel, rfl, fun _ h => absurd h (Nat.not_lt_zero _)⟩,
    ⟨cmdSt (.cvt 3 11 7 31 30 true 5 9), vcmd (.cvt 3 11 7 31 30 true 5 9), [], 3, 11, 7, 31, 30, 1, true, 5, 9, ?_⟩⟩
  all_goals repeat' apply And.intro
  all_goals decide +kernel

/-- The hypotheses of VectorLoads are met. -/
theorem test_meets_VectorLoads :
    ( ∃ (s : State) (i : Instr) (m : MemForm),
      let els := formEls s.me m
      let first := (Option.map (fun (x : ℕ × Word × ℕ) => x.1) (List.head? els)).getD 0
      let ff := ∃ (e : BitVec 4) (p : BitVec 3) (c : BitVec 2) (x : Reg) (d : Reg), i = Instr.vldff e p c x d
      let s0 := s.updMe m.pre
      let dev := fun (n : ℕ → ℕ) => (ff → n = fun (e : ℕ) => if e = first then 0 else 5) ∧ (¬ff → n = fun (_ : ℕ) => 0)
      let plain := fun (u : State) (rs : List REl) => (∀ x ∈ rs, isMmio x.pa = false ∧ u.badRange x.pa (max 1 (m.w / 8)) = false) ∧ u.elsNow (quadOf s.cur) false rs = rs
      ∃ (n : ℕ → ℕ) (u : State) (rs : List REl), loadForm s.me i = some m ∧
      (∀ (z : BitVec 2) (k p : BitVec 3) (c : BitVec 2) (x d : Reg), i = Instr.vldsr z k p c x d → s.me.slide = none ∧
      (s.me.shape k).windowStop (8 * 2 ^ z.toNat) s.me.vlmax = none) ∧ s.VReady m.req ∧
      s.memWait true m.idx (span (m.d.toNat) (2 ^ s.me.vcfg.g.toNat)) = none ∧ s.me.alloc ≤ 32 ∧ dev n ∧
      AlignedEls m.w els ∧ s0.resolve AccKind.load m.cp n els = (u, rs, none) ∧ plain u rs) ∧
    ( ∃ (s : State) (i : Instr) (m : MemForm),
      let els := formEls s.me m
      let first := (Option.map (fun (x : ℕ × Word × ℕ) => x.1) (List.head? els)).getD 0
      let ff := ∃ (e : BitVec 4) (p : BitVec 3) (c : BitVec 2) (x : Reg) (d : Reg), i = Instr.vldff e p c x d
      let s0 := s.updMe m.pre
      let dev := fun (n : ℕ → ℕ) => (ff → n = fun (e : ℕ) => if e = first then 0 else 5) ∧ (¬ff → n = fun (_ : ℕ) => 0)
      let plain := fun (u : State) (rs : List REl) => (∀ x ∈ rs, isMmio x.pa = false ∧ u.badRange x.pa (max 1 (m.w / 8)) = false) ∧ u.elsNow (quadOf s.cur) false rs = rs
      ∃ (n : ℕ → ℕ) (u : State) (rs : List REl) (e c : ℕ) (va : Word), loadForm s.me i = some m ∧
      (∀ (z : BitVec 2) (k p : BitVec 3) (c : BitVec 2) (x d : Reg), i = Instr.vldsr z k p c x d → s.me.slide = none ∧
      (s.me.shape k).windowStop (8 * 2 ^ z.toNat) s.me.vlmax = none) ∧ s.VReady m.req ∧
      s.memWait true m.idx (span (m.d.toNat) (2 ^ s.me.vcfg.g.toNat)) = none ∧ s.me.alloc ≤ 32 ∧ ff ∧ dev n ∧
      AlignedEls m.w els ∧ s0.resolve AccKind.load m.cp n els = (u, rs, some (e, Stop.trap c va)) ∧ plain u rs ∧
      e ≠ first) ∧
    ( ∃ (s : State) (i : Instr) (m : MemForm),
      let els := formEls s.me m
      let first := (Option.map (fun (x : ℕ × Word × ℕ) => x.1) (List.head? els)).getD 0
      let ff := ∃ (e : BitVec 4) (p : BitVec 3) (c : BitVec 2) (x : Reg) (d : Reg), i = Instr.vldff e p c x d
      let s0 := s.updMe m.pre
      let dev := fun (n : ℕ → ℕ) => (ff → n = fun (e : ℕ) => if e = first then 0 else 5) ∧ (¬ff → n = fun (_ : ℕ) => 0)
      ∃ (n : ℕ → ℕ) (u : State) (c : ℕ) (va : Word), loadForm s.me i = some m ∧
      (∀ (z : BitVec 2) (k p : BitVec 3) (c : BitVec 2) (x d : Reg), i = Instr.vldsr z k p c x d → s.me.slide = none ∧
      (s.me.shape k).windowStop (8 * 2 ^ z.toNat) s.me.vlmax = none) ∧ s.VReady m.req ∧
      s.memWait true m.idx (span (m.d.toNat) (2 ^ s.me.vcfg.g.toNat)) = none ∧ s.me.alloc ≤ 32 ∧ dev n ∧
      AlignedEls m.w els ∧ s0.resolve AccKind.load m.cp n els = (u, [], some (first, Stop.trap c va))) ∧
    ( ∃ (s : State) (i : Instr) (m : MemForm),
      let els := formEls s.me m
      ∃ (l : Els) (e : ℕ) (va : Word) (nib : ℕ) (r : List (ℕ × Word × ℕ)), loadForm s.me i = some m ∧
      (∀ (z : BitVec 2) (k p : BitVec 3) (c : BitVec 2) (x d : Reg), i = Instr.vldsr z k p c x d → s.me.slide = none ∧
      (s.me.shape k).windowStop (8 * 2 ^ z.toNat) s.me.vlmax = none) ∧ s.VReady m.req ∧
      s.memWait true m.idx (span (m.d.toNat) (2 ^ s.me.vcfg.g.toNat)) = none ∧ s.me.alloc ≤ 32 ∧
      els = l ++ (e, va, nib) :: r ∧ AlignedEls m.w l ∧ va.toNat % max 1 (m.w / 8) ≠ 0) := by
  refine ⟨⟨mapped two, (.vld 0 0 0 1 7), formOf (loadForm two (.vld 0 0 0 1 7)), fun _ => 0, (resOf two (formOf (loadForm two (.vld 0 0 0 1 7))) .load).1, (resOf two (formOf (loadForm two (.vld 0 0 0 1 7))) .load).2.1, ⟨okSome (by decide +kernel), (fun _ _ _ _ _ _ h => nomatch h), ⟨by decide +kernel, by decide +kernel, by decide +kernel, by decide +kernel⟩, by decide +kernel, by decide +kernel, ⟨(fun ⟨_, _, _, _, _, h⟩ => nomatch h), fun _ => rfl⟩, allMem (by decide +kernel), okTriple (by decide +kernel), allMem (by decide +kernel), by decide +kernel⟩⟩,
    ⟨mapped edge last, (.vldff 0 0 0 1 7), formOf (loadForm edge (.vldff 0 0 0 1 7)), (fun e => if e = 0 then 0 else 5), (resOf edge (formOf (loadForm edge (.vldff 0 0 0 1 7))) .load (fun e => if e = 0 then 0 else 5) last).1, (resOf edge (formOf (loadForm edge (.vldff 0 0 0 1 7))) .load (fun e => if e = 0 then 0 else 5) last).2.1, 1, 13, 0x100000000000000, ⟨okSome (by decide +kernel), (fun _ _ _ _ _ _ h => nomatch h), ⟨by decide +kernel, by decide +kernel, by decide +kernel, by decide +kernel⟩, by decide +kernel, by decide +kernel, ⟨_, _, _, _, _, rfl⟩, ⟨fun _ => rfl, fun h => absurd ⟨_, _, _, _, _, rfl⟩ h⟩, allMem (by decide +kernel), okTriple (by decide +kernel), ⟨allMem (by decide +kernel), by decide +kernel⟩, by decide +kernel⟩⟩,
    ⟨mapped far, (.vld 0 0 0 1 7), formOf (loadForm far (.vld 0 0 0 1 7)), fun _ => 0, (resOf far (formOf (loadForm far (.vld 0 0 0 1 7))) .load).1, 13, 0x100000000000000, ⟨okSome (by decide +kernel), (fun _ _ _ _ _ _ h => nomatch h), ⟨by decide +kernel, by decide +kernel, by decide +kernel, by decide +kernel⟩, by decide +kernel, by decide +kernel, ⟨(fun ⟨_, _, _, _, _, h⟩ => nomatch h), fun _ => rfl⟩, allMem (by decide +kernel), by decide +kernel⟩⟩,
    ⟨mapped odd, (.vld 1 0 0 1 7), formOf (loadForm odd (.vld 1 0 0 1 7)), [], 0, 1, 0, [(1, 3, 0)], ⟨okSome (by decide +kernel), (fun _ _ _ _ _ _ h => nomatch h), ⟨by decide +kernel, by decide +kernel, by decide +kernel, by decide +kernel⟩, by decide +kernel, by decide +kernel, by decide +kernel, allMem (by decide +kernel), by decide +kernel⟩⟩⟩

/-- The hypotheses of VectorStores are met. -/
theorem test_meets_VectorStores :
    (∃ (s : State) (i : Instr) (m : MemForm) (l : Els) (e : ℕ) (va : Word) (nib : ℕ) (r : List (ℕ × Word × ℕ)),
      storeForm s.me i = some m ∧ s.VIssues m.req ∧ s.memWait (decide (m.p ≠ 0) || !m.idx.isEmpty) m.idx [] = none ∧
      formEls s.me m = l ++ (e, va, nib) :: r ∧ AlignedEls m.w l ∧ va.toNat % max 1 (m.w / 8) ≠ 0) ∧
    (∃ (s : State) (i : Instr) (m : MemForm) (u : State) (rs : List REl),
      storeForm s.me i = some m ∧ s.VIssues m.req ∧ s.memWait (decide (m.p ≠ 0) || !m.idx.isEmpty) m.idx [] = none ∧
      AlignedEls m.w (formEls s.me m) ∧ u.storeBad m.w true rs = none ∧
      s.resolve AccKind.store m.cp (fun (_ : ℕ) => 0) (formEls s.me m) = (u, rs, none)) ∧
    (∃ (s : State) (i : Instr) (m : MemForm) (op : ℕ) (l : Els) (e : ℕ) (va : Word) (nib : ℕ) (r : List (ℕ × Word × ℕ)),
      amoForm s.me i = some (m, op) ∧ s.VReady m.req ∧
      s.memWait true (m.idx ++ span (m.d.toNat) (2 ^ s.me.vcfg.g.toNat)) (span (m.d.toNat) (2 ^ s.me.vcfg.g.toNat)) = none ∧
      formEls s.me m = l ++ (e, va, nib) :: r ∧ AlignedEls m.w l ∧ va.toNat % max 1 (m.w / 8) ≠ 0) ∧
    (∃ (s : State) (i : Instr) (m : MemForm) (op : ℕ) (u : State) (rs : List REl),
      amoForm s.me i = some (m, op) ∧ s.VReady m.req ∧
      s.memWait true (m.idx ++ span (m.d.toNat) (2 ^ s.me.vcfg.g.toNat)) (span (m.d.toNat) (2 ^ s.me.vcfg.g.toNat)) = none ∧
      AlignedEls m.w (formEls s.me m) ∧ u.storeBad m.w false rs = none ∧ (∀ x ∈ rs, isHost x.pa = false) ∧
      s.resolve AccKind.store m.cp (fun (_ : ℕ) => 7) (formEls s.me m) = (u, rs, none)) ∧
    (∃ (s : State) (c : VCmd) (l : List VCmd) (d w bits : ℕ) (els : List QEl),
      Clears s c l ∧ c.op = VOp.store d w bits els ∧ (∀ x ∈ els, isMmio (x.at_ / 2) = false) ∧
      s.elemsNow s.ev.h els = els) ∧
    ( ∃ (s : State) (c : VCmd) (l : List VCmd) (op d e pa page : ℕ) (tr : Treat) (z : BitVec 2),
      let w := 8 * 2 ^ z.toNat
      Clears s c l ∧ c.op = VOp.amo op d w [{ e := e, at_ := 2 * pa, page := page, tr := tr }] ∧
      s.elemBusy s.ev.h { e := e, at_ := 2 * pa, page := page, tr := tr } = false ∧ d + c.g ≤ 32 ∧
      (e + 1) * w ≤ 1024 * c.g) := by
  refine ⟨⟨mapped odd, (.vst 1 0 0 1 7), formOf (storeForm odd (.vst 1 0 0 1 7)), [], 0, 1, 0, [(1, 3, 0)], ⟨okSome (by decide +kernel), ⟨⟨by decide +kernel, by decide +kernel, by decide +kernel, by decide +kernel⟩, by decide +kernel⟩, by decide +kernel, by decide +kernel, allMem (by decide +kernel), by decide +kernel⟩⟩,
    ⟨mapped two, (.vst 0 0 0 1 7), formOf (storeForm two (.vst 0 0 0 1 7)), (resOf two (formOf (storeForm two (.vst 0 0 0 1 7))) .store).1, (resOf two (formOf (storeForm two (.vst 0 0 0 1 7))) .store).2.1, ⟨okSome (by decide +kernel), ⟨⟨by decide +kernel, by decide +kernel, by decide +kernel, by decide +kernel⟩, by decide +kernel⟩, by decide +kernel, allMem (by decide +kernel), by decide +kernel, okTriple (by decide +kernel)⟩⟩,
    ⟨mapped (vec 2 { withX 1 1 with vcfg := { et := 2 } }), (.vamoAdd 6 0 2 1 7), (amoOf (amoForm (vec 2 { withX 1 1 with vcfg := { et := 2 } }) (.vamoAdd 6 0 2 1 7))).1, (amoOf (amoForm (vec 2 { withX 1 1 with vcfg := { et := 2 } }) (.vamoAdd 6 0 2 1 7))).2, [], 0, 1, 0, (formEls (vec 2 { withX 1 1 with vcfg := { et := 2 } }) (amoOf (amoForm (vec 2 { withX 1 1 with vcfg := { et := 2 } }) (.vamoAdd 6 0 2 1 7))).1).tail, ⟨okSomePair (by decide +kernel), ⟨by decide +kernel, by decide +kernel, by decide +kernel, by decide +kernel⟩, by decide +kernel, by decide +kernel, allMem (by decide +kernel), by decide +kernel⟩⟩,
    ⟨mapped amo, (.vamoAdd 6 0 2 1 7), (amoOf (amoForm amo (.vamoAdd 6 0 2 1 7))).1, (amoOf (amoForm amo (.vamoAdd 6 0 2 1 7))).2, (resOf amo (amoOf (amoForm amo (.vamoAdd 6 0 2 1 7))).1 .store (fun _ => 7)).1, (resOf amo (amoOf (amoForm amo (.vamoAdd 6 0 2 1 7))).1 .store (fun _ => 7)).2.1, ⟨okSomePair (by decide +kernel), ⟨by decide +kernel, by decide +kernel, by decide +kernel, by decide +kernel⟩, by decide +kernel, allMem (by decide +kernel), by decide +kernel, allMem (by decide +kernel), okTriple (by decide +kernel)⟩⟩,
    ⟨cmdSt (.store 7 8 8 [{ e := 0, at_ := 128 }]), vcmd (.store 7 8 8 [{ e := 0, at_ := 128 }]), [], 7, 8, 8, [{ e := 0, at_ := 128 }], ?_⟩,
    ⟨cmdSt (.amo 0 31 64 [{ e := 15, at_ := 128, page := 5, tr := .noAllocate }]), vcmd (.amo 0 31 64 [{ e := 15, at_ := 128, page := 5, tr := .noAllocate }]), [], 0, 31, 15, 64, 5, .noAllocate, 3, ?_⟩⟩
  all_goals repeat' apply And.intro
  all_goals decide +kernel

/-- The hypotheses of RasterAndRays are met. -/
theorem test_meets_RasterAndRays :
    (∃ (s : State) (p : BitVec 3) (x d : Reg),
      let g := 2 ^ s.me.vcfg.g.toNat
      s.me.vw = 32 ∧
      Draws s (Instr.vedge p x d) [s.me.groupStop (↑(d.toNat)) g] (xs [x, x + 1] ++ vgroup (d.toNat) g) [] (span (d.toNat) g) [] ∧
      BitVec.toNat (s.me.xv x) % 64 ≠ 0) ∧
    (∃ (s : State) (p : BitVec 3) (x d : Reg) (c : Acc),
      let g := 2 ^ s.me.vcfg.g.toNat
      let wd := fun (k : Nat) => c.mem.readN (c.pa + 8 * k) 8
      s.me.vw = 32 ∧
      Draws s (Instr.vedge p x d) [s.me.groupStop (↑(d.toNat)) g] (xs [x, x + 1] ++ vgroup (d.toNat) g) [] (span (d.toNat) g) [] ∧
      BitVec.toNat (s.me.xv x) % 64 = 0 ∧ HasRecord s (s.me.xv x) c ∧ wd 6 < 8 ∧ wd 7 = 0 ∧ s.me.vln ≤ 2048) ∧
    (∃ (s : State) (p : BitVec 3) (x d : Reg) (c : Acc),
      let g := 2 ^ s.me.vcfg.g.toNat
      let wd := fun (k : Nat) => c.mem.readN (c.pa + 8 * k) 8
      s.me.vw = 32 ∧
      Draws s (Instr.vedge p x d) [s.me.groupStop (↑(d.toNat)) g] (xs [x, x + 1] ++ vgroup (d.toNat) g) [] (span (d.toNat) g) [] ∧
      BitVec.toNat (s.me.xv x) % 64 = 0 ∧ HasRecord s (s.me.xv x) c ∧ 8 ≤ wd 6) ∧
    (∃ (s : State) (p : BitVec 3) (x d : Reg) (c : Acc),
      let g := 2 ^ s.me.vcfg.g.toNat
      let va := s.me.xv x
      s.me.vw = 32 ∧
      Draws s (Instr.vrbox p x d) [s.me.blockStop (d.toNat) g 8] (xs [x] ++ vgroup (d.toNat) (8 * g)) [] (span (d.toNat) (8 * g)) [] ∧
      va.toNat % 32 = 0 ∧ HasRecord s (va &&& ~~~63#64) c ∧ s.me.vln ≤ 2048) ∧
    (∃ (s : State) (p : BitVec 3) (x d : Reg) (c : Acc),
      let g := 2 ^ s.me.vcfg.g.toNat
      let va := s.me.xv x
      let r := va.toNat % 32
      s.me.vw = 32 ∧
      Draws s (Instr.vrtri p x d) [s.me.blockStop (d.toNat) g 3, s.me.presentAll (xs [x]), s.me.blockStop r g 8] (xs [x] ++ vgroup r (8 * g)) (vgroup (d.toNat) (3 * g)) (span r (8 * g)) (span (d.toNat) (3 * g)) ∧
      BitVec.getLsbD va 5 = false ∧ HasRecord s (va &&& ~~~63#64) c ∧ s.me.alloc ≤ 32) := by
  refine ⟨⟨st (vec 32 { withX 1 63 with vcfg := { et := 2 } }), 7, 1, 7, ?_⟩,
    ⟨mapped (vec 32 { vcfg := { et := 2 } }), 7, 1, 7, accOf (State.access (mapped (vec 32 { vcfg := { et := 2 } })) 0 ((mapped (vec 32 { vcfg := { et := 2 } })).vreqOf 0) 0 .load 0 0), ?_⟩,
    ⟨words [0, 0, 0, 0, 0, 0, 8] (mapped (vec 32 { vcfg := { et := 2 } })), 7, 1, 7, accOf (State.access (words [0, 0, 0, 0, 0, 0, 8] (mapped (vec 32 { vcfg := { et := 2 } }))) 0 ((words [0, 0, 0, 0, 0, 0, 8] (mapped (vec 32 { vcfg := { et := 2 } }))).vreqOf 0) 0 .load 0 0), ?_⟩,
    ⟨mapped (vec 32 { vcfg := { et := 2 } }), 7, 1, 0, accOf (State.access (mapped (vec 32 { vcfg := { et := 2 } })) 0 ((mapped (vec 32 { vcfg := { et := 2 } })).vreqOf 0) 0 .load 0 0), ?_⟩,
    ⟨mapped (vec 32 { vcfg := { et := 2 } }), 7, 1, 5, accOf (State.access (mapped (vec 32 { vcfg := { et := 2 } })) 0 ((mapped (vec 32 { vcfg := { et := 2 } })).vreqOf 0) 0 .load 0 0), ?_⟩⟩
  all_goals repeat' apply And.intro
  all_goals first | decide +kernel | rfl

/-- The hypotheses of TexturesAndBlending are met. -/
theorem test_meets_TexturesAndBlending :
    ( ∃ (s : State) (given : Bool) (p : BitVec 3) (x d : Reg),
      let i := if given = true then Instr.vtexl p x d else Instr.vtex p x d
      let g := 2 ^ s.me.vcfg.g.toNat
      let k := if given = true then 3 else 2
      let w0 := BitVec.toNat (s.me.xv x)
      let w1 := BitVec.toNat (s.me.xv (x + 1))
      let u := fun (e : ℕ) => decodeF fmtF32 (s.me.elem (d.toNat) 32 e)
      let v := fun (e : ℕ) => decodeF fmtF32 (s.me.elem (d.toNat + g) 32 e)
      let act := List.filter (fun (e : ℕ) => decide (s.me.veix.toNat ≤ e) && s.me.pbit p.toNat e) (List.range s.me.vln)
      let fits := w0 / 16 % 16 < 10 ∧ w0 / 4 % 4 ≠ 3 ∧ w0 % 4 ≠ 3 ∧ w1 / 2 ^ 48 = 0
      let off := fun (e : ℕ) => ∃ (z : FVal), (z = u e ∨ z = v e) ∧ (z.isNan = true ∨ z.isInf = true)
      s.me.vw = 32 ∧ s.me.alloc ≤ 32 ∧
      Draws s i [s.me.blockStop (d.toNat) g 4] (xs [x, x + 1] ++ vgroup (d.toNat) (k * g)) (vgroup (d.toNat) (4 * g)) (span (d.toNat) (4 * g)) (span (d.toNat) (4 * g)) ∧
      (∀ e ∈ act, off e) ∧ lanesNow act = act ∧ fits) ∧
    ( ∃ (s : State) (given : Bool) (p : BitVec 3) (x d : Reg),
      let i := if given = true then Instr.vtexl p x d else Instr.vtex p x d
      let g := 2 ^ s.me.vcfg.g.toNat
      let k := if given = true then 3 else 2
      let w0 := BitVec.toNat (s.me.xv x)
      let w1 := BitVec.toNat (s.me.xv (x + 1))
      let nx := w1 % 2 ^ 14 + 1
      let ny := w1 / 2 ^ 14 % 2 ^ 14 + 1
      let u := fun (e : ℕ) => decodeF fmtF32 (s.me.elem (d.toNat) 32 e)
      let v := fun (e : ℕ) => decodeF fmtF32 (s.me.elem (d.toNat + g) 32 e)
      let act := List.filter (fun (e : ℕ) => decide (s.me.veix.toNat ≤ e) && s.me.pbit p.toNat e) (List.range s.me.vln)
      let fits := w0 / 16 % 16 < 10 ∧ w0 / 4 % 4 ≠ 3 ∧ w0 % 4 ≠ 3 ∧ w1 / 2 ^ 48 = 0
      let off := fun (e : ℕ) => ∃ (z : FVal), (z = u e ∨ z = v e) ∧ (z.isNan = true ∨ z.isInf = true)
      ∃ (e : ℕ) (c : Acc),
      let ix := wrapIndex (w0 % 4) nx (scaled256 (u e).exact nx / 256)
      let iy := wrapIndex (w0 % 4) ny (scaled256 (v e).exact ny / 256)
      s.me.vw = 32 ∧ s.me.alloc ≤ 32 ∧
      Draws s i [s.me.blockStop (d.toNat) g 4] (xs [x, x + 1] ++ vgroup (d.toNat) (k * g)) (vgroup (d.toNat) (4 * g)) (span (d.toNat) (4 * g)) (span (d.toNat) (4 * g)) ∧
      act = [e] ∧ fits ∧ ¬off e ∧ w0 % 256 / 4 = 0 ∧ w1 / 2 ^ 28 % 16 = 0 ∧
      { s with fresh := s.fresh + 1 }.access s.cur (s.vreqOf s.cur) (BitVec.ofNat 64 (w0 / 256 * 256 + (iy * nx + ix) * 4)) AccKind.load 0 7 = .ok c ∧
      c.readStop (BitVec.ofNat 64 (w0 / 256 * 256 + (iy * nx + ix) * 4)) = none) ∧
    ( ∃ (s : State) (given : Bool) (p : BitVec 3) (x d : Reg),
      let i := if given = true then Instr.vtexl p x d else Instr.vtex p x d
      let g := 2 ^ s.me.vcfg.g.toNat
      let k := if given = true then 3 else 2
      let w0 := BitVec.toNat (s.me.xv x)
      s.me.vw = 32 ∧ s.me.alloc ≤ 32 ∧
      Draws s i [s.me.blockStop (d.toNat) g 4] (xs [x, x + 1] ++ vgroup (d.toNat) (k * g)) (vgroup (d.toNat) (4 * g)) (span (d.toNat) (4 * g)) (span (d.toNat) (4 * g)) ∧
      w0 % 4 = 3) ∧
    ( ∃ (s : State) (given : Bool) (p : BitVec 3) (x d : Reg),
      let i := if given = true then Instr.vtexl p x d else Instr.vtex p x d
      let g := 2 ^ s.me.vcfg.g.toNat
      let k := if given = true then 3 else 2
      let w0 := BitVec.toNat (s.me.xv x)
      let w1 := BitVec.toNat (s.me.xv (x + 1))
      s.me.vw = 32 ∧ s.me.alloc ≤ 32 ∧
      Draws s i [s.me.blockStop (d.toNat) g 4] (xs [x, x + 1] ++ vgroup (d.toNat) (k * g)) (vgroup (d.toNat) (4 * g)) (span (d.toNat) (4 * g)) (span (d.toNat) (4 * g)) ∧
      w0 / 16 % 16 < 10 ∧ w0 / 4 % 4 ≠ 3 ∧ w0 % 4 ≠ 3 ∧ w1 / 2 ^ 48 ≠ 0) ∧
    ( ∃ (s : State) (p : BitVec 3) (x d : Reg) (c : Acc) (va0 va1 : Word) (tile rc : Acc) (u : State),
      let x1 := s.me.xv (x + 1)
      let bytes := c.mem.readBytes c.pa 64
      let ticket := x1.toNat / 2 ^ 32
      let commit := (u.memUnder rc.key).readN (rc.pa + 4) 4
      Draws s (Instr.blendc p x d) [s.me.groupStop (↑(d.toNat)) 2] (xs [x, x + 1] ++ vgroup (d.toNat) 2) [] (span (d.toNat) 2) [] ∧
      BitVec.toNat (s.me.xv x) % 64 = 0 ∧ HasRecord s (s.me.xv x) c ∧ blendBad bytes x1 = false ∧
      (c.reached 64).targets (blendTargets bytes x1) = .ok ([(va0, tile), (va1, rc)], u) ∧
      targetStop7 (va0, tile) = none ∧ targetStop7 (va1, rc) = none ∧
      u.targetWait (va1, rc) [0] = none ∧ ticket = commit ∧
      u.targetWait (va0, tile) (s.me.pixels p.toNat) = none) ∧
    ( ∃ (s : State) (p : BitVec 3) (x d : Reg) (c : Acc) (va0 va1 : Word) (tile rc : Acc) (u : State),
      let x1 := s.me.xv (x + 1)
      let bytes := c.mem.readBytes c.pa 64
      let ticket := x1.toNat / 2 ^ 32
      let commit := (u.memUnder rc.key).readN (rc.pa + 4) 4
      Draws s (Instr.blendc p x d) [s.me.groupStop (↑(d.toNat)) 2] (xs [x, x + 1] ++ vgroup (d.toNat) 2) [] (span (d.toNat) 2) [] ∧
      BitVec.toNat (s.me.xv x) % 64 = 0 ∧ HasRecord s (s.me.xv x) c ∧ blendBad bytes x1 = false ∧
      (c.reached 64).targets (blendTargets bytes x1) = .ok ([(va0, tile), (va1, rc)], u) ∧
      targetStop7 (va0, tile) = none ∧ targetStop7 (va1, rc) = none ∧
      u.targetWait (va1, rc) [0] = none ∧ ticket ≠ commit ∧ (ticket + 2 ^ 32 - commit) % 2 ^ 32 < 2 ^ 31) ∧
    (∃ (s : State) (pa key w n : ℕ), s.me.park = some (.commit pa key w n) ∧ Tab.get s.bias (pageOf pa) 0 < 2 ∧
      s.sliceBusy (quadOf s.cur) pa true none = false ∧ s.mustSnoop s.cur pa true = false) ∧
    (∃ (s : State) (pa ticket : ℕ), (s.hart s.ev.h).park = some (Park.blend pa ticket) ∧ s.commitAt pa ≠ ticket ∧
      s.past (quadOf s.ev.h) (s.queueLimit s.ev.h) (s.hart s.ev.h).sinceQ = true) := by
  refine ⟨⟨mapped (vec 0 { vcfg := { et := 2 } }), true, 0, 1, 4, ?_⟩,
    ⟨mapped (vec 1 { vcfg := { et := 2 } }), false, 0, 1, 4, 0, accOf (State.access { mapped (vec 1 { vcfg := { et := 2 } }) with fresh := 1 } 0 ((mapped (vec 1 { vcfg := { et := 2 } })).vreqOf 0) 0 .load 0 7), ?_⟩,
    ⟨mapped (vec 1 { withX 1 3 with vcfg := { et := 2 } }), true, 0, 1, 0, ?_⟩,
    ⟨mapped (vec 1 { withX 2 0x1000000000000 with vcfg := { et := 2 } }), true, 0, 1, 0, ?_⟩,
    ⟨blendSt 0, 0, 1, 0, blendAcc 0, 1024, 512, targetAt 0 0, targetAt 0 1, (drawTargets 0).2, ?_⟩,
    ⟨blendSt 0x100000000, 0, 1, 0, blendAcc 0x100000000, 1024, 512, targetAt 0x100000000 0, targetAt 0x100000000 1, (drawTargets 0x100000000).2, ?_⟩,
    ⟨st { park := some (.commit 516 0 0 1) }, 516, 0, 0, 1, ?_⟩,
    ⟨{ st { park := some (.blend 7 1) } with time := 0x10000000000 }, 7, 1, ?_⟩⟩
  all_goals repeat' apply And.intro
  all_goals first | decide +kernel | rfl | rintro _ (rfl | rfl) | (rintro ⟨z, rfl | rfl, h | h⟩ <;> revert h <;> decide +kernel)

/-- The hypotheses of MatrixIssues are met. -/
theorem test_meets_MatrixIssues :
    (
      let bits := fun (x : Word) (lo n : Nat) => x.toNat / 2 ^ lo % 2 ^ n
      ∃ (s : State) (a : Reg) (e : BitVec 4) (k : BitVec 2) (d : Reg),
      let x := s.me.xv d

      MatrixReady s [e.toNat] (if k = 0 then [(a.toNat, 1)] else []) (if k = 2 then [d, a] else [d]) [] [] ∧
      128 ≤ bits x 0 16) ∧
    (
      let bits := fun (x : Word) (lo n : Nat) => x.toNat / 2 ^ lo % 2 ^ n
      ∃ (s : State) (a : Reg) (m : BitVec 2) (e : BitVec 4) (k : BitVec 2) (d : Reg) (r : Nat × Word),
      let x := s.me.xv d
      let w := etWidth s.me.fmts e.toNat
      let kk := if w = 16 then 16 else if w = 8 then 32 else 64

      MatrixReady s [e.toNat] (if k = 0 then [(a.toNat, 1)] else []) (if k = 2 then [d, a] else [d]) [] [] ∧
      bits x 0 16 < 128 ∧ (s.quad (quadOf s.cur)).m[m.toNat].kind = some r ∧
      etWidth (List.replicate 4 r.snd) r.fst = w ∧
      (k = 2 → TileFits s (s.me.xv a) fun (i : TileEntry) => bits x 16 16 < i.rows ∧ kk ≤ i.cols ∧
      etWidth s.me.fmts i.ty = w)) ∧
    (
      let bits := fun (x : Word) (lo n : Nat) => x.toNat / 2 ^ lo % 2 ^ n
      ∃ (s : State) (a e d : Reg),
      let x := s.me.xv d
      MatrixReady s [] [(a.toNat, 2)] [d, e] [] [] ∧ bits x 0 16 < 128 ∧ bits x 16 16 < 128) ∧
    (∃ (s : State) (a d : Reg), MatrixReady s [] [] [a] [d] [] ∧ BitVec.toNat (s.me.xv a) < 16) ∧
    (∃ (s : State) (a d : Reg), MatrixReady s [] [] [a] [d] [] ∧ 16 ≤ BitVec.toNat (s.me.xv a)) ∧
    (∃ (s : State) (a : Reg) (e : BitVec 4) (k : BitVec 2),
      let w := etWidth s.me.fmts e.toNat
      let kk := if w = 16 then 16 else if w = 8 then 32 else 64
      MatrixReady s [e.toNat] (if k = 0 then [(a.toNat, 8)] else []) (if k = 2 then [a] else []) [] [] ∧
      (k = 2 → TileFits s (s.me.xv a) fun (i : TileEntry) => kk * 256 ≤ i.rows * i.cols ∧
      etWidth s.me.fmts i.ty = w)) ∧
    (
      let bits := fun (x : Word) (lo n : Nat) => x.toNat / 2 ^ lo % 2 ^ n
      ∃ (s : State) (a : Reg),
      let x := s.me.xv a
      MatrixReady s [] [] [a] [] [] ∧ bits x 0 16 + bits x 16 16 ≤ 128) ∧
    (
      let bits := fun (x : Word) (lo n : Nat) => x.toNat / 2 ^ lo % 2 ^ n
      ∃ (s : State) (a : Reg),
      let x := s.me.xv a
      MatrixReady s [] [] [a] [] [] ∧ 128 < bits x 0 16 + bits x 16 16) ∧
    (
      let bits := fun (x : Word) (lo n : Nat) => x.toNat / 2 ^ lo % 2 ^ n
      ∃ (s : State) (a : Reg) (e : BitVec 4) (d : Reg),
      let x := s.me.xv a
      let g := if e = 10 then 8 else 4
      MatrixReady s [] [(d.toNat, g)] [a] [] (vgroup (d.toNat) g) ∧ bits x 0 16 < 128) ∧
    (
      let bits := fun (x : Word) (lo n : Nat) => x.toNat / 2 ^ lo % 2 ^ n
      ∃ (s : State) (i : Instr) (ext add push : Bool) (et : Nat) (a b d : Reg),
      let x := s.me.xv d
      let lo := bits x 0 16
      let hi := bits x 16 16

      (i, ext, add, push, et) ∈ [(Instr.mdrainSt a push b d, false, false, push, 10), (Instr.mdrainAdd a push b d, false, true, push, 10), (Instr.mdrainxSt a (BitVec.ofNat 4 et) b d, true, false, false, et), (Instr.mdrainxAdd a (BitVec.ofNat 4 et) b d, true, true, false, et)] ∧
      et < 16 ∧
      MatrixReady s (if ext = true then [et] else []) [] (if b = 0 then [d, a] else [d, a, b, b + 1]) [] [] ∧
      (hi = 0 ∨ 128 < lo + hi)) ∧
    (
      let bits := fun (x : Word) (lo n : Nat) => x.toNat / 2 ^ lo % 2 ^ n
      ∃ (s : State) (i : Instr) (ext add push : Bool) (et : Nat) (a b d : Reg),
      let x := s.me.xv d
      let lo := bits x 0 16
      let hi := bits x 16 16
      let wk := s.me.xv b

      (i, ext, add, push, et) ∈ [(Instr.mdrainSt a push b d, false, false, push, 10), (Instr.mdrainAdd a push b d, false, true, push, 10), (Instr.mdrainxSt a (BitVec.ofNat 4 et) b d, true, false, false, et), (Instr.mdrainxAdd a (BitVec.ofNat 4 et) b d, true, true, false, et)] ∧
      et < 16 ∧
      MatrixReady s (if ext = true then [et] else []) [] (if b = 0 then [d, a] else [d, a, b, b + 1]) [] [] ∧
      0 < hi ∧ lo + hi ≤ 128 ∧ (b ≠ 0 → wk.toNat < 2 ^ 21 ∧ bits wk 14 2 = 0 ∧ bits wk 16 5 ≠ 0 ∧
      bits wk 0 14 < 12288 ∧ s.partOf (bits wk 0 14) = s.partOf s.cur) ∧
      TileFits s (s.me.xv a) fun (i : TileEntry) => bits x 32 16 + hi ≤ i.rows ∧ 256 ≤ i.cols ∧
      if ext = true then etWidth s.me.fmts i.ty = etWidth s.me.fmts et else i.ty = 10) := by
  refine ⟨⟨st (busy (withX 31 128)), 7, 8, 0, 31, ?_⟩,
    ⟨st (busy (withX 31 127)) { part := some 0, m := #v[{}, {}, {}, { kind := some (8, 0) }] }, 7, 3, 8, 0, 31, (8, 0), ?_⟩,
    ⟨st (busy), 6, 1, 2, ?_⟩,
    ⟨st (busy (withX 1 15)), 1, 31, ?_⟩,
    ⟨st (busy (withX 1 16)), 1, 31, ?_⟩,
    ⟨st (busy), 0, 8, 0, ?_⟩,
    ⟨st (busy (withX 1 0x400040)), 1, ?_⟩,
    ⟨st (busy (withX 1 0x410040)), 1, ?_⟩,
    ⟨st (busy (withX 1 127)), 1, 10, 0, ?_⟩,
    ⟨st (busy), .mdrainSt 1 true 0 2, false, false, true, 10, 1, 0, 2, ?_⟩,
    ⟨st (busy (((withX 1 hwt).setX 2 0x800000).setX 3 0x10000)) { part := some 0, tiles := [(1, wide)] }, .mdrainSt 1 true 3 2, false, false, true, 10, 1, 3, 2, ?_⟩⟩
  all_goals repeat' apply And.intro
  all_goals first | decide +kernel | exact fun h => absurd h (by decide) | exact ⟨⟨0, 1, wide⟩, by decide +kernel, by decide +kernel⟩

/-- The hypotheses of MatrixWorkRuns are met. -/
theorem test_meets_MatrixWorkRuns :
    ( ∃ (s : State) (c : MCmd) (l : List MCmd) (add pop : Bool) (m et lo hi r : ℕ) (rec_ : ℕ × Word),
      let w := etWidth c.fmt et
      MatrixHead s c l ∧ c.op = MOp.row add false pop m et lo hi (MSrc.vec r) rec_ ∧ m < 4 ∧
      (w = 16 ∨ w = 8 ∨ w = 4)) ∧
    (∃ (s : State) (c : MCmd) (l : List MCmd) (pop : Bool) (lo hi : ℕ) (ea : ℤ) (eb : ℕ),
      MatrixHead s c l ∧ c.op = MOp.sca false pop lo hi ea eb) ∧
    (∃ (s : State) (c : MCmd) (l : List MCmd) (lo n : ℕ), MatrixHead s c l ∧ c.op = MOp.zero lo n) ∧
    (∃ (s : State) (c : MCmd) (l : List MCmd) (d lo : ℕ),
      MatrixHead s c l ∧ c.op = MOp.rd false 10 d lo ∧ d + 8 ≤ 32) ∧
    (∃ (s : State) (c : MCmd) (l : List MCmd) (pc pv : Bool) (m part et r : ℕ),
      MatrixHead s c l ∧ c.op = MOp.ldb pc pv m part et (MSrc.vec r) ∧ m < 4 ∧ part < 8) ∧
    ( ∃ (s : State) (c : MCmd) (l : List MCmd),
      let q := s.ev.q
      let a := s.quad q
      ∃ (xd ldm : ℕ), MatrixHead s c l ∧ c.op = MOp.cfg xd 0 ldm ∧ 0 < xd ∧ xd < 32 ∧ ldm < 16 ∧
      ∀ (k : Fin 4), a.feeds[k].length / 32 < 1024) ∧
    (∃ (s : State) (c : MCmd) (l : List MCmd) (ext add push : Bool) (et lo n trow : ℕ) (hw : Word) (wake : Option (Word × Word)),
      MatrixHead s c l ∧ c.op = MOp.drain ext add push et lo n trow hw wake) ∧
    ( ∃ (s : State) (d : Drain) (r : TileRef) (i : ℕ) (codes : List ℕ),
      let q := s.ev.q
      let a := s.quad q
      let row := d.trow + i
      let off := row * r.e.cols * 4
      a.drains[s.ev.k]? = some d ∧ d.rows = [(i, codes)] ∧ codes.length = 256 ∧ (∀ c ∈ codes, c < 2 ^ 32) ∧
      d.add = false ∧ d.ext = false ∧ d.et = 10 ∧ d.push = false ∧ s.ev.b = true ∧ s.tileOf d.part d.hw = some r ∧
      r.e.ty = 10 ∧ row < r.e.rows ∧ 256 ≤ r.e.cols ∧ s.banksOn r off 1024 = true ∧
      ∀ e ∈ a.drains, e.id = d.id → e = d) ∧
    ( ∃ (s : State) (x : Held) (f : Fifo) (h : ℕ) (c : VCmd) (l : List VCmd) (k : Task),
      let q := s.ev.q
      (s.quad q).held[s.ev.k]? = some x ∧ x.op = HeldOp.vpush f h ∧ s.past q (s.queueLimit h) x.since = true ∧
      s.quadHalted q = false ∧ (s.hart h).vq = c :: l ∧ (s.hart h).task = some k ∧ (s.quad q).errs.length < 15) ∧
    ( ∃ (s : State) (x : Held) (f : Fifo) (h : ℕ) (c : VCmd) (l : List VCmd),
      let q := s.ev.q
      (s.quad q).held[s.ev.k]? = some x ∧ x.op = HeldOp.vpop f h ∧ s.past q (s.queueLimit h) x.since = true ∧
      s.quadHalted q = false ∧ (s.hart h).vq = c :: l ∧ (s.hart h).park = some Park.pop) := by
  refine ⟨⟨mcmdSt (.row true false true 3 8 127 0 (.vec 31) (8, 0)), mcmd (.row true false true 3 8 127 0 (.vec 31) (8, 0)), [], true, true, 3, 8, 127, 0, 31, (8, 0), ?_⟩,
    ⟨mcmdSt (.sca false true 127 127 (-5) 5), mcmd (.sca false true 127 127 (-5) 5), [], true, 127, 127, -5, 5, ?_⟩,
    ⟨mcmdSt (.zero 0 128), mcmd (.zero 0 128), [], 0, 128, ?_⟩,
    ⟨mcmdSt (.rd false 10 24 127), mcmd (.rd false 10 24 127), [], 24, 127, ?_⟩,
    ⟨mcmdSt (.ldb true true 3 7 8 (.vec 24)), mcmd (.ldb true true 3 7 8 (.vec 24)), [], true, true, 3, 7, 8, 24, ?_⟩,
    ⟨mcmdSt (.cfg 31 0 15), mcmd (.cfg 31 0 15), [], 31, 15, ?_⟩,
    ⟨mcmdSt (.drain false false true 10 0 128 0 hwt none), mcmd (.drain false false true 10 0 128 0 hwt none), [], false, false, true, 10, 0, 128, 0, hwt, none, ?_⟩,
    ⟨{ st {} { part := some 0, tiles := [(1, wide)], banks := [(0, { st := 2 })], drains := [drain] } with ev := { b := true } }, drain, ⟨0, 1, wide⟩, 0, List.replicate 256 0, ?_⟩,
    ⟨{ st (busy { vq := [vcmd] }) { part := some 0, held := [⟨.vpush .vc 0, 0⟩] } with time := 0x10000000000 }, ⟨.vpush .vc 0, 0⟩, .vc, 0, vcmd, [], {}, ?_⟩,
    ⟨{ st (busy { vq := [vcmd], park := some .pop }) { part := some 0, held := [⟨.vpop .mv 0, 0⟩] } with time := 0x10000000000 }, ⟨.vpop .mv 0, 0⟩, .mv, 0, vcmd, [], ?_⟩⟩
  all_goals repeat' apply And.intro
  all_goals decide +kernel

/-- The hypotheses of BiasFlips are met. -/
theorem test_meets_BiasFlips :
    (∃ (s : State), s.me.mode = Mode.u) ∧
    (∃ (s : State) (a : Reg) (n : TlbEntry) (pa : ℕ) (u : State),
      s.me.mode = Mode.s ∧ s.me.park ≠ some Park.pgbias ∧ s.Ready (xs [a]) [] ∧ s.me.releaseWait = none ∧
      s.translate (s.reqOf s.cur) (s.me.xv a) AccKind.store = Trans.ok n pa u ∧ n.mt = MType.device) ∧
    (∃ (s : State) (a : Reg) (n : TlbEntry) (pa : ℕ) (u : State),
      s.me.mode = Mode.s ∧ s.me.park ≠ some Park.pgbias ∧ s.Ready (xs [a]) [] ∧ s.me.releaseWait = none ∧
      s.translate (s.reqOf s.cur) (s.me.xv a) AccKind.store = Trans.ok n pa u ∧ n.mt ≠ MType.device ∧
      isGddr pa = true ∧ n.frozen = true) ∧
    ( ∃ (s : State) (host : Bool) (a : Reg) (n : TlbEntry) (pa : ℕ) (u : State),
      let page := pageOf pa
      let now := s.bias.get page 0
      let goal := if host = true then 1 else 0
      s.me.mode = Mode.s ∧ s.me.park ≠ some Park.pgbias ∧ s.Ready (xs [a]) [] ∧ s.me.releaseWait = none ∧
      s.translate (s.reqOf s.cur) (s.me.xv a) AccKind.store = Trans.ok n pa u ∧ n.mt ≠ MType.device ∧
      isGddr pa = true ∧ n.frozen = false ∧ s.pageLocked page = false ∧ now = goal) ∧
    ( ∃ (s : State) (host e : Bool) (k : BitVec 3) (a : Reg) (n : TlbEntry) (pa : ℕ) (u : State),
      let page := pageOf pa
      let now := s.bias.get page 0
      let goal := if host = true then 1 else 0
      let f := { page := page, host := host, part := s.partOf s.cur, hart := s.cur, task := BitVec.ofNat 32 s.me.taskId, token := tokenOf e k }
      s.me.mode = Mode.s ∧ s.me.park ≠ some Park.pgbias ∧ s.Ready (xs [a]) [] ∧ s.me.releaseWait = none ∧
      s.translate (s.reqOf s.cur) (s.me.xv a) AccKind.store = Trans.ok n pa u ∧ n.mt ≠ MType.device ∧
      isGddr pa = true ∧ n.frozen = false ∧ s.pageLocked page = false ∧ now < 2 ∧ now ≠ goal ∧ s.me.tokenFull (tokenOf e k) = none ∧
      ∀ g ∈ s.flips, g ≠ f) ∧
    ( ∃ (s : State) (e : Bool) (k : BitVec 3) (a : Reg) (n : TlbEntry) (pa : ℕ) (u : State),
      let page := pageOf pa
      let now := s.bias.get page 0
      s.me.mode = Mode.s ∧ s.me.park ≠ some Park.pgbias ∧ s.Ready (xs [a]) [] ∧ s.me.releaseWait = none ∧
      s.translate (s.reqOf s.cur) (s.me.xv a) AccKind.store = Trans.ok n pa u ∧ n.mt ≠ MType.device ∧
      isGddr pa = true ∧ n.frozen = false ∧ s.pageLocked page = false ∧ 2 ≤ now ∧ s.me.tokenFull (tokenOf e k) = none) ∧
    (∃ (s : State) (a : Reg) (n : TlbEntry) (pa : ℕ) (u : State),
      s.me.mode = Mode.s ∧ s.me.park ≠ some Park.pgbias ∧ s.Ready (xs [a]) [] ∧ s.me.releaseWait = none ∧
      s.translate (s.reqOf s.cur) (s.me.xv a) AccKind.store = Trans.ok n pa u ∧ n.mt ≠ MType.device ∧
      isGddr pa = true ∧ n.frozen = false ∧ s.pageLocked (pageOf pa) = true) ∧
    (∃ (s : State) (f : BiasFlip) (l : Nat),
      s.flips[s.ev.k]? = some f ∧ f.active = true ∧ f.host = true ∧ f.waits[s.ev.w]? = some l) ∧
    (∃ (s : State) (f : BiasFlip),
      s.flips[s.ev.k]? = some f ∧ f.active = true ∧ f.waits = [] ∧ (f.host = true → ∀ x ∈ s.heldHost, pageOf x.addr ≠ f.page) ∧
      (∀ q ∈ s.quads, ∀ r ∈ q.2.input, pageOf r.addr ≠ f.page) ∧
      (∀ g ∈ s.flips.erase f, g.page ≠ f.page) ∧ (s.hart f.hart).runs f.task = true ∧ s.partOf f.hart = f.part) := by
  refine ⟨⟨st {}, ?_⟩,
    ⟨mapped (super) { page with mt := .device }, 1, { page with mt := .device }, 0, mapped (super) { page with mt := .device }, ?_⟩,
    ⟨mapped (super) (page 0 true), 1, page 0 true, 0, mapped (super) (page 0 true), ?_⟩,
    ⟨mapped (super), false, 1, page, 0, mapped (super), ?_⟩,
    ⟨mapped (super), true, true, 7, 1, page, 0, mapped (super), ?_⟩,
    ⟨{ mapped (super) with bias := [(0, 3)] }, true, 7, 1, page, 0, { mapped (super) with bias := [(0, 3)] }, ?_⟩,
    ⟨{ mapped (super) (page 0x5000) with freezes := [fop false] }, 1, page 0x5000, 0x5000, { mapped (super) (page 0x5000) with freezes := [fop false] }, ?_⟩,
    ⟨{ st (busy) with flips := [⟨5, true, 0, 0, 0, some 7, true, [320]⟩] }, ⟨5, true, 0, 0, 0, some 7, true, [320]⟩, 320, ?_⟩,
    ⟨{ st (busy) with flips := [⟨5, true, 0, 0, 0, some 7, true, []⟩] }, ⟨5, true, 0, 0, 0, some 7, true, []⟩, ?_⟩⟩
  all_goals decide +kernel

/-- The hypotheses of HostReachesDevice are met. -/
theorem test_meets_HostReachesDevice :
    (∃ (s : State), s.hdmAddr s.ev.addr = none) ∧
    (
      let line := fun (pa : Nat) => pa / 64
      let maps := fun (s : State) (pa : Nat) => s.hdmAddr s.ev.addr = some (pa, 0)
      let bias := fun (s : State) (pa : Nat) => s.bias.get (pageOf pa) 0
      ∃ (s : State) (pa : Nat), maps s pa ∧ s.badLine (line pa) = false ∧ bias s pa = 0 ∧
      s.hostWaits ⟨s.ev.addr, pa, none, s.ev.b, 0⟩ = false) ∧
    (
      let line := fun (pa : Nat) => pa / 64
      let maps := fun (s : State) (pa : Nat) => s.hdmAddr s.ev.addr = some (pa, 0)
      let bias := fun (s : State) (pa : Nat) => s.bias.get (pageOf pa) 0
      ∃ (s : State) (pa : Nat),
      maps s pa ∧ s.badLine (line pa) = false ∧ bias s pa ≠ 0 ∧ s.hostWaits ⟨s.ev.addr, pa, none, s.ev.b, 0⟩ = false ∧ s.ev.b = true ∧
      (s.die (s.homeDie (64 * line pa))).snoop.length < 65536) ∧
    (
      let line := fun (pa : Nat) => pa / 64
      let maps := fun (s : State) (pa : Nat) => s.hdmAddr s.ev.addr = some (pa, 0)
      let bias := fun (s : State) (pa : Nat) => s.bias.get (pageOf pa) 0
      ∃ (s : State) (pa : Nat), maps s pa ∧ s.badLine (line pa) = false ∧ s.hostWaits ⟨s.ev.addr, pa, none, s.ev.b, 0⟩ = true) ∧
    (
      let maps := fun (s : State) (pa : Nat) => s.hdmAddr s.ev.addr = some (pa, 0)
      let bias := fun (s : State) (pa : Nat) => s.bias.get (pageOf pa) 0
      ∃ (s : State) (pa : Nat) (b : List Byte),
      maps s pa ∧ bias s pa = 0 ∧ s.ev.bytes = some b ∧ pa % 64 + b.length ≤ 64 ∧
      s.hostWaits ⟨s.ev.addr, pa, some b, s.ev.b, 0⟩ = false ∧ s.count (pageOf pa) = 0) ∧
    (
      let maps := fun (s : State) (pa : Nat) => s.hdmAddr s.ev.addr = some (pa, 0)
      let bias := fun (s : State) (pa : Nat) => s.bias.get (pageOf pa) 0
      ∃ (s : State) (pa : Nat) (b : List Byte),
      maps s pa ∧ bias s pa = 0 ∧ s.ev.bytes = some b ∧ pa % 64 + b.length ≤ 64 ∧
      s.hostWaits ⟨s.ev.addr, pa, some b, s.ev.b, 0⟩ = false ∧ s.count (pageOf pa) ≠ 0 ∧
      (s.quad (s.homeQuad pa)).errs.length < 15) ∧
    (∃ (s : State), isHost s.ev.addr = true) ∧
    (∃ (s : State) (x : BiSnp),
      x ∈ s.bisnps ∧ x.line = s.ev.addr ∧ x.inv = true ∧ x.done = false ∧ s.ev.b = true ∧ s.ev.bytes = none) ∧
    (∃ (s : State),
      let f := s.ev.p
      let k := s.funcs.get f { }
      0 < f ∧ f ≤ Config.functions ∧ k.part = none) ∧
    (∃ (s : State) (p : Nat),
      let f := s.ev.p
      let k := s.funcs.get f { }
      let q := k.eqq.toNat
      0 < f ∧ f ≤ Config.functions ∧ k.part = some p ∧ s.enqDenied p (BitVec.ofNat 64 q) = true) ∧
    (∃ (s : State) (p : Nat),
      let f := s.ev.p
      let k := s.funcs.get f { }
      let q := k.eqq.toNat
      0 < f ∧ f ≤ Config.functions ∧ k.part = some p ∧ s.enqDenied p (BitVec.ofNat 64 q) = false ∧
      (s.queue q).func = f ∧ (s.descAddr p (s.ev.v.toNat)).1 = none) ∧
    (∃ (s : State) (p pa key : Nat),
      let f := s.ev.p
      let k := s.funcs.get f { }
      let q := k.eqq.toNat
      0 < f ∧ f ≤ Config.functions ∧ k.part = some p ∧ s.enqDenied p (BitVec.ofNat 64 q) = false ∧
      (s.queue q).func = f ∧ (s.descAddr p (s.ev.v.toNat)).1 = some (pa, key) ∧ 2 ≤ s.bias.get (pageOf pa) 0) ∧
    (∃ (s : State) (p pa key : Nat),
      let f := s.ev.p
      let k := s.funcs.get f { }
      let q := k.eqq.toNat
      let d := descOf ((s.memUnder key).readBytes pa 64)
      0 < f ∧ f ≤ Config.functions ∧ k.part = some p ∧ s.enqDenied p (BitVec.ofNat 64 q) = false ∧
      (s.queue q).func = f ∧ (s.descAddr p (s.ev.v.toNat)).1 = some (pa, key) ∧ s.bias.get (pageOf pa) 0 < 2 ∧
      s.sliceBusy (s.homeQuad pa) pa false none = false ∧ s.mustSnoop (eqAgent f) pa false = false ∧
      s.badLine (lineOf pa) = false ∧ descBad d = false ∧ s.enqStatus p q 1 (s.queue q).recorded = 0) ∧
    (∃ (s : State) (p pa key : Nat),
      let f := s.ev.p
      let k := s.funcs.get f { }
      let q := k.eqq.toNat
      let d := descOf ((s.memUnder key).readBytes pa 64)
      0 < f ∧ f ≤ Config.functions ∧ k.part = some p ∧ s.enqDenied p (BitVec.ofNat 64 q) = false ∧
      (s.queue q).func = f ∧ (s.descAddr p (s.ev.v.toNat)).1 = some (pa, key) ∧ s.bias.get (pageOf pa) 0 < 2 ∧
      s.sliceBusy (s.homeQuad pa) pa false none = false ∧ s.mustSnoop (eqAgent f) pa false = false ∧
      s.badLine (lineOf pa) = false ∧ descBad d = false ∧ s.enqStatus p q 1 (s.queue q).recorded = 1) ∧
    (∃ (s : State),
      let h := s.ev.v.toNat % 2 ^ 14
      s.ev.p ≠ 0 ∧ h < 12288 ∧ (s.funcs.get s.ev.p { }).part = some (s.partOf h)) ∧
    (∃ (s : State),
      let h := s.ev.v.toNat % 2 ^ 14
      s.ev.p ≠ 0 ∧ h < 12288 ∧ (s.funcs.get s.ev.p { }).part ≠ some (s.partOf h)) := by
  refine ⟨⟨st {}, ?_⟩,
    ⟨hdmSt { addr := 0xFFF }, 0xFFF, ?_⟩,
    ⟨hdmSt { addr := 64, b := true } { bias := [(0, 1)] }, 64, ?_⟩,
    ⟨hdmSt { addr := 64 } { bias := [(0, 3)] }, 64, ?_⟩,
    ⟨hdmSt { addr := 0xFFF, bytes := some [1] }, 0xFFF, [1], ?_⟩,
    ⟨hdmSt { addr := 0xFC0, bytes := some (List.replicate 64 1) } { freeze := [(0, { count := 1 })] }, 0xFC0, List.replicate 64 1, ?_⟩,
    ⟨{ st {} with ev := { addr := 0x100000000000 } }, ?_⟩,
    ⟨{ st {} with ev := { addr := 5, b := true }, bisnps := [⟨0, 5, true, false⟩] }, ⟨0, 5, true, false⟩, ?_⟩,
    ⟨{ st {} with ev := { p := 192 } }, ?_⟩,
    ⟨{ st {} with ev := { p := 1 }, funcs := [(1, { part := some 0 })] }, 0, ?_⟩,
    ⟨funcSt [] (st {}), 0, ?_⟩,
    ⟨funcSt [] { paged with bias := [(0, 2)] }, 0, 0, 0, ?_⟩,
    ⟨funcSt [], 0, 0, 0, ?_⟩,
    ⟨funcSt [{ id := 7, desc := noDesc }], 0, 0, 0, ?_⟩,
    ⟨funcSt [], ?_⟩,
    ⟨{ st {} with ev := { p := 1 } }, ?_⟩⟩
  all_goals decide +kernel

/-- The hypotheses of HartEvents are met. -/
theorem test_meets_HartEvents :
    ( ∃ (s : State),
      let h := s.ev.h
      let a := s.hart h
      let on := fun (c : ℕ) => (s.sip h).testBit c && BitVec.getLsbD a.csr.sie c
      a.task.isSome = true ∧ s.quadStopped (quadOf h) = false ∧ a.claimed = [] ∧
      (a.mode = Mode.u ∨ BitVec.getLsbD a.csr.sstatus 1 = true) ∧ on 9 = true ∧ a.park = none) ∧
    ( ∃ (s : State),
      let h := s.ev.h
      let a := s.hart h
      let on := fun (c : ℕ) => (s.sip h).testBit c && BitVec.getLsbD a.csr.sie c
      ∃ (m : BitVec 8), a.task.isSome = true ∧ s.quadStopped (quadOf h) = false ∧ a.claimed = [] ∧
      (a.mode = Mode.u ∨ BitVec.getLsbD a.csr.sstatus 1 = true) ∧ on 9 = true ∧ a.park = some (Park.sbwait m) ∧
      a.tokensBusy m = true) ∧
    ( ∃ (s : State),
      let h := s.ev.h
      let a := s.hart h
      let on := fun (c : ℕ) => (s.sip h).testBit c && BitVec.getLsbD a.csr.sie c
      ∃ (m : BitVec 8), a.task.isSome = true ∧ s.quadStopped (quadOf h) = false ∧ a.claimed = [] ∧
      (a.mode = Mode.u ∨ BitVec.getLsbD a.csr.sstatus 1 = true) ∧ on 9 = true ∧ a.park = some (Park.sbwait m) ∧
      a.tokensBusy m = false) ∧
    ( ∃ (s : State),
      let h := s.ev.h
      let a := s.hart h
      let on := fun (c : ℕ) => (s.sip h).testBit c && BitVec.getLsbD a.csr.sie c
      a.task.isSome = true ∧ s.quadStopped (quadOf h) = false ∧ a.claimed = [] ∧
      (a.mode = Mode.u ∨ BitVec.getLsbD a.csr.sstatus 1 = true) ∧ on 9 = true ∧ a.park = some Park.wfi) ∧
    ( ∃ (s : State),
      let h := s.ev.h
      let a := s.hart h
      let on := fun (c : ℕ) => (s.sip h).testBit c && BitVec.getLsbD a.csr.sie c
      a.task.isSome = true ∧ s.quadStopped (quadOf h) = false ∧ a.claimed = [] ∧
      (a.mode = Mode.u ∨ BitVec.getLsbD a.csr.sstatus 1 = true) ∧ on 9 = true ∧ a.park = some Park.faultPoint) ∧
    ( ∃ (s : State),
      let h := s.ev.h
      let a := s.hart h
      let on := fun (c : ℕ) => (s.sip h).testBit c && BitVec.getLsbD a.csr.sie c
      a.task.isSome = true ∧ s.quadStopped (quadOf h) = false ∧ a.claimed = [] ∧
      (a.mode = Mode.u ∨ BitVec.getLsbD a.csr.sstatus 1 = true) ∧ on 9 = false ∧ on 1 = true ∧ a.park = none) ∧
    ( ∃ (s : State),
      let h := s.ev.h
      let a := s.hart h
      let on := fun (c : ℕ) => (s.sip h).testBit c && BitVec.getLsbD a.csr.sie c
      ∃ (m : BitVec 8), a.task.isSome = true ∧ s.quadStopped (quadOf h) = false ∧ a.claimed = [] ∧
      (a.mode = Mode.u ∨ BitVec.getLsbD a.csr.sstatus 1 = true) ∧ on 9 = false ∧ on 1 = true ∧
      a.park = some (Park.sbwait m) ∧ a.tokensBusy m = true) ∧
    ( ∃ (s : State),
      let h := s.ev.h
      let a := s.hart h
      let on := fun (c : ℕ) => (s.sip h).testBit c && BitVec.getLsbD a.csr.sie c
      ∃ (m : BitVec 8), a.task.isSome = true ∧ s.quadStopped (quadOf h) = false ∧ a.claimed = [] ∧
      (a.mode = Mode.u ∨ BitVec.getLsbD a.csr.sstatus 1 = true) ∧ on 9 = false ∧ on 1 = true ∧
      a.park = some (Park.sbwait m) ∧ a.tokensBusy m = false) ∧
    ( ∃ (s : State),
      let h := s.ev.h
      let a := s.hart h
      let on := fun (c : ℕ) => (s.sip h).testBit c && BitVec.getLsbD a.csr.sie c
      a.task.isSome = true ∧ s.quadStopped (quadOf h) = false ∧ a.claimed = [] ∧
      (a.mode = Mode.u ∨ BitVec.getLsbD a.csr.sstatus 1 = true) ∧ on 9 = false ∧ on 1 = true ∧
      a.park = some Park.wfi) ∧
    ( ∃ (s : State),
      let h := s.ev.h
      let a := s.hart h
      let on := fun (c : ℕ) => (s.sip h).testBit c && BitVec.getLsbD a.csr.sie c
      a.task.isSome = true ∧ s.quadStopped (quadOf h) = false ∧ a.claimed = [] ∧
      (a.mode = Mode.u ∨ BitVec.getLsbD a.csr.sstatus 1 = true) ∧ on 9 = false ∧ on 1 = true ∧
      a.park = some Park.faultPoint) ∧
    ( ∃ (s : State),
      let h := s.ev.h
      let a := s.hart h
      let on := fun (c : ℕ) => (s.sip h).testBit c && BitVec.getLsbD a.csr.sie c
      a.task.isSome = true ∧ s.quadStopped (quadOf h) = false ∧ a.claimed = [] ∧
      (a.mode = Mode.u ∨ BitVec.getLsbD a.csr.sstatus 1 = true) ∧ on 9 = false ∧ on 1 = false ∧ on 5 = true ∧
      a.park = none) ∧
    ( ∃ (s : State),
      let h := s.ev.h
      let a := s.hart h
      let on := fun (c : ℕ) => (s.sip h).testBit c && BitVec.getLsbD a.csr.sie c
      ∃ (m : BitVec 8), a.task.isSome = true ∧ s.quadStopped (quadOf h) = false ∧ a.claimed = [] ∧
      (a.mode = Mode.u ∨ BitVec.getLsbD a.csr.sstatus 1 = true) ∧ on 9 = false ∧ on 1 = false ∧ on 5 = true ∧
      a.park = some (Park.sbwait m) ∧ a.tokensBusy m = true) ∧
    ( ∃ (s : State),
      let h := s.ev.h
      let a := s.hart h
      let on := fun (c : ℕ) => (s.sip h).testBit c && BitVec.getLsbD a.csr.sie c
      ∃ (m : BitVec 8), a.task.isSome = true ∧ s.quadStopped (quadOf h) = false ∧ a.claimed = [] ∧
      (a.mode = Mode.u ∨ BitVec.getLsbD a.csr.sstatus 1 = true) ∧ on 9 = false ∧ on 1 = false ∧ on 5 = true ∧
      a.park = some (Park.sbwait m) ∧ a.tokensBusy m = false) ∧
    ( ∃ (s : State),
      let h := s.ev.h
      let a := s.hart h
      let on := fun (c : ℕ) => (s.sip h).testBit c && BitVec.getLsbD a.csr.sie c
      a.task.isSome = true ∧ s.quadStopped (quadOf h) = false ∧ a.claimed = [] ∧
      (a.mode = Mode.u ∨ BitVec.getLsbD a.csr.sstatus 1 = true) ∧ on 9 = false ∧ on 1 = false ∧ on 5 = true ∧
      a.park = some Park.wfi) ∧
    ( ∃ (s : State),
      let h := s.ev.h
      let a := s.hart h
      let on := fun (c : ℕ) => (s.sip h).testBit c && BitVec.getLsbD a.csr.sie c
      a.task.isSome = true ∧ s.quadStopped (quadOf h) = false ∧ a.claimed = [] ∧
      (a.mode = Mode.u ∨ BitVec.getLsbD a.csr.sstatus 1 = true) ∧ on 9 = false ∧ on 1 = false ∧ on 5 = true ∧
      a.park = some Park.faultPoint) ∧
    ( ∃ (s : State),
      let h := s.ev.h
      let a := s.hart h
      a.task.isSome = true ∧ s.quadStopped (quadOf h) = false ∧ a.claimed = [] ∧ a.mode = Mode.s ∧
      BitVec.getLsbD a.csr.sstatus 1 = false) ∧
    ( ∃ (s : State) (fl : RFile) (r : ℕ) (vec : Bool),
      let h := s.ev.h
      let a := s.hart h
      s.past (quadOf h) (s.presenceLimit h) a.sinceQ = true ∧ r < 32 ∧ h < 12288 ∧
      a.park = some (Park.empty fl r vec) ∧ (a.cond fl r).1 ≠ Presence.present) ∧
    ( ∃ (s : State) (fl : RFile) (r : ℕ),
      let h := s.ev.h
      let a := s.hart h
      ∃ (g : ℕ), s.past (quadOf h) (s.presenceLimit h) a.sinceQ = true ∧ r < 32 ∧ h < 12288 ∧ g < 12288 ∧
      a.park = some (Park.held g fl r)) ∧
    (∃ (s : State), s.past (quadOf s.ev.h) (s.presenceLimit s.ev.h) (s.hart s.ev.h).sinceQ = false) ∧
    (∃ (s : State), (s.hart s.ev.h).park = some Park.wfi ∧ s.time < BitVec.toNat (s.hart s.ev.h).csr.stimecmp) ∧
    (∃ (s : State), (s.hart s.ev.h).park = some Park.wfi ∧ BitVec.toNat (s.hart s.ev.h).csr.stimecmp ≤ s.time) ∧
    (∃ (s : State), (s.hart s.ev.h).park = some Park.wfi ∧ BitVec.toNat (s.hart s.ev.h).csr.stimecmp ≤ s.time) := by
  refine ⟨⟨{ st (irq 0x220) with parts := [(0, { sources := [1] })] }, ?_⟩,
    ⟨{ st (irq 0x200 { park := some (.sbwait 2), sb := #v[0, 1, 0, 0, 0, 0, 0, 0] }) with parts := [(0, { sources := [1] })] }, 2, ?_⟩,
    ⟨{ st (irq 0x200 { park := some (.sbwait 2) }) with parts := [(0, { sources := [1] })] }, 2, ?_⟩,
    ⟨{ st (irq 0x200 { park := some .wfi }) with parts := [(0, { sources := [1] })] }, ?_⟩,
    ⟨{ st (irq 0x200 { park := some .faultPoint }) with parts := [(0, { sources := [1] })] }, ?_⟩,
    ⟨st { irq 2 with csr := { ({} : SCsr) with sie := 2, ssip := true } }, ?_⟩,
    ⟨st { irq 2 with csr := { ({} : SCsr) with sie := 2, ssip := true }, park := some (.sbwait 128), sb := #v[0, 0, 0, 0, 0, 0, 0, 3] }, 128, ?_⟩,
    ⟨st { irq 2 with csr := { ({} : SCsr) with sie := 2, ssip := true }, park := some (.sbwait 1), sb := #v[0, 0, 0, 0, 0, 0, 0, 3] }, 1, ?_⟩,
    ⟨st { irq 2 with csr := { ({} : SCsr) with sie := 2, ssip := true }, park := some .wfi }, ?_⟩,
    ⟨st { irq 2 with csr := { ({} : SCsr) with sie := 2, ssip := true }, park := some .faultPoint }, ?_⟩,
    ⟨st (irq 0x20), ?_⟩,
    ⟨st (irq 0x20 { park := some (.sbwait 1), sb := #v[9, 0, 0, 0, 0, 0, 0, 0] }), 1, ?_⟩,
    ⟨st (irq 0x20 { park := some (.sbwait 1) }), 1, ?_⟩,
    ⟨st (irq 0x20 { park := some .wfi }), ?_⟩,
    ⟨st (irq 0x20 { park := some .faultPoint }), ?_⟩,
    ⟨st (busy { mode := .s }), ?_⟩,
    ⟨{ st { park := some (.empty .x 31 false), x := (({} : Hart).presX 31 .opened).x } with time := 0x10000000000 }, .x, 31, false, ?_⟩,
    ⟨{ st { park := some (.held 9 .x 31) } with time := 0x10000000000 }, .x, 31, 9, ?_⟩,
    ⟨st {}, ?_⟩,
    ⟨st (super { park := some .wfi }), ?_⟩,
    ⟨st { park := some .wfi }, ?_⟩,
    ⟨st { park := some .wfi }, ?_⟩⟩
  all_goals decide +kernel

/-- The hypotheses of TranslationSteps are met. -/
theorem test_meets_TranslationSteps :
    ( ∃ (s : State),
      let r := if s.ev.b then s.vreqOf s.ev.h else s.reqOf s.ev.h
      let d := dieOfQuad r.quad
      let page := s.ev.v.toNat / 4096
      let c := s.wcache d (s.ev.w % 64)
      let q : Req := { r with elem := 0 }
      canonical s.ev.v = true ∧ s.ev.c = true ∧ (s.die d).walks.length < 320 ∧ s.ev.k = 0 ∧
      s.walkFor q s.ev.acc page = none ∧ s.tlbHit r s.ev.v.toNat = none ∧
      s.readsWait q.who q.quad (readsOf c (s.gtrail c q s.ev.v.toNat 4 q.root)) = none) ∧
    ( ∃ (s : State) (e : Nat),
      let r := if s.ev.b then s.vreqOf s.ev.h else s.reqOf s.ev.h
      let d := dieOfQuad r.quad
      let page := s.ev.v.toNat / 4096
      let c := s.wcache d (s.ev.w % 64)
      let q : Req := { r with elem := e }
      canonical s.ev.v = true ∧ s.ev.c = true ∧ (s.die d).walks.length < 320 ∧ s.ev.k = e + 1 ∧
      s.ownWalk q s.ev.acc page = none ∧ s.readsWait q.who q.quad (readsOf c (s.gtrail c q s.ev.v.toNat 4 q.root)) = none) ∧
    ( ∃ (s b v : State) (res : WRes),
      let q := if s.ev.b = true then s.vreqOf s.ev.h else s.reqOf s.ev.h
      let d := dieOfQuad q.quad
      let page := s.ev.v.toNat / 4096
      let k := walkerOf s.ev.v.toNat
      let l := s.gtrail (s.wcache d k) q s.ev.v.toNat 4 q.root
      ∃ (g : ℕ),
      canonical s.ev.v = true ∧ s.ev.c = false ∧ s.ev.k = 0 ∧ (s.walkFor q s.ev.acc page = none ∧ (s.die d).walks.length < 320 ∧
      s.readsWait q.who q.quad (readsOf (s.wcache d k) l) = none ∧ b = s ∧ v = s.walked q k l ∧
      res = s.gwalk (s.wcache d k) q s.ev.acc s.ev.v.toNat 4 q.root ∨ ∃ (w : Walk), s.walkFor q s.ev.acc page = some w ∧
      b = s.endWalk d w ∧ v = b ∧ res = w.res) ∧ res = WRes.miss g) ∧
    ( ∃ (s b v : State) (res : WRes),
      let q := if s.ev.b = true then s.vreqOf s.ev.h else s.reqOf s.ev.h
      let d := dieOfQuad q.quad
      let page := s.ev.v.toNat / 4096
      let k := walkerOf s.ev.v.toNat
      let l := s.gtrail (s.wcache d k) q s.ev.v.toNat 4 q.root
      ∃ (c : ℕ) (why : Why),
      canonical s.ev.v = true ∧ s.ev.c = false ∧ s.ev.k = 0 ∧ (s.walkFor q s.ev.acc page = none ∧ (s.die d).walks.length < 320 ∧
      s.readsWait q.who q.quad (readsOf (s.wcache d k) l) = none ∧ b = s ∧ v = s.walked q k l ∧
      res = s.gwalk (s.wcache d k) q s.ev.acc s.ev.v.toNat 4 q.root ∨ ∃ (w : Walk), s.walkFor q s.ev.acc page = some w ∧
      b = s.endWalk d w ∧ v = b ∧ res = w.res) ∧ res = WRes.fault c why) ∧
    ( ∃ (s b v : State) (res : WRes),
      let q := if s.ev.b = true then s.vreqOf s.ev.h else s.reqOf s.ev.h
      let d := dieOfQuad q.quad
      let page := s.ev.v.toNat / 4096
      let k := walkerOf s.ev.v.toNat
      let l := s.gtrail (s.wcache d k) q s.ev.v.toNat 4 q.root
      ∃ (e : TlbEntry),
      canonical s.ev.v = true ∧ s.ev.c = false ∧ s.ev.k = 0 ∧ (s.walkFor q s.ev.acc page = none ∧ (s.die d).walks.length < 320 ∧
      s.readsWait q.who q.quad (readsOf (s.wcache d k) l) = none ∧ b = s ∧ v = s.walked q k l ∧
      res = s.gwalk (s.wcache d k) q s.ev.acc s.ev.v.toNat 4 q.root ∨ ∃ (w : Walk), s.walkFor q s.ev.acc page = some w ∧
      b = s.endWalk d w ∧ v = b ∧ res = w.res) ∧ res = WRes.ok e ∧ guestPerm q s.ev.acc e.r e.w e.x e.u e.d = true ∧
      placeFault q s.ev.acc e (e.addr (s.ev.v.toNat)) = none ∧
      v.entryBad e (e.addr (s.ev.v.toNat)) = none ∧
      s.pageLocked (pageOf (e.addr (s.ev.v.toNat))) = false) ∧
    ( ∃ (s b v : State) (res : WRes),
      let q := if s.ev.b = true then s.vreqOf s.ev.h else s.reqOf s.ev.h
      let d := dieOfQuad q.quad
      let page := s.ev.v.toNat / 4096
      let k := walkerOf s.ev.v.toNat
      let l := s.gtrail (s.wcache d k) q s.ev.v.toNat 4 q.root
      ∃ (e : TlbEntry),
      canonical s.ev.v = true ∧ s.ev.c = false ∧ s.ev.k = 0 ∧ (s.walkFor q s.ev.acc page = none ∧ (s.die d).walks.length < 320 ∧
      s.readsWait q.who q.quad (readsOf (s.wcache d k) l) = none ∧ b = s ∧ v = s.walked q k l ∧
      res = s.gwalk (s.wcache d k) q s.ev.acc s.ev.v.toNat 4 q.root ∨ ∃ (w : Walk), s.walkFor q s.ev.acc page = some w ∧
      b = s.endWalk d w ∧ v = b ∧ res = w.res) ∧ res = WRes.ok e ∧ guestPerm q s.ev.acc e.r e.w e.x e.u e.d = true ∧
      placeFault q s.ev.acc e (e.addr (s.ev.v.toNat)) = none ∧
      v.entryBad e (e.addr (s.ev.v.toNat)) = none ∧
      s.pageLocked (pageOf (e.addr (s.ev.v.toNat))) = false) ∧
    ( ∃ (s : State),
      let se := s.share.get s.ev.addr { }
      se.cls = 1 ∧ se.owner.toNat = s.ev.p) ∧
    (∃ (s : State) (va : Word) (acc : AccKind) (g : ℕ),
      s.ev.k = 0 ∧ s.ev.c = false ∧ (s.hart s.ev.h).park = some (Park.pmiss va acc g)) ∧
    (∃ (s : State) (va : Word) (acc : AccKind) (g : ℕ),
      s.ev.k = 0 ∧ s.ev.c = false ∧ (s.hart s.ev.h).park = some (Park.pmiss va acc g) ∧
      (s.hart s.ev.h).since + 2 ^ 20 < s.time) ∧
    (∃ (s : State) (va : Word) (acc : AccKind) (g : ℕ),
      s.ev.k = 0 ∧ s.ev.c = false ∧ (s.hart s.ev.h).park = some (Park.pmiss va acc g) ∧
      s.time ≤ (s.hart s.ev.h).since + 2 ^ 20) ∧
    (∃ (s : State) (x : Shootdown),
      s.shoots[s.ev.k]? = some x ∧ s.ev.q ∈ x.quads ∧ s.usesEntries s.ev.q x = false) ∧
    (∃ (s : State), s.ev.p < 16 ∧ s.ev.c = false ∧ s.shootQuads s.ev.p ≠ []) := by
  refine ⟨⟨{ st (busy) with ev := { v := 0xFFFFFFFFFFF000, c := true } }, ?_⟩,
    ⟨{ st (busy) with ev := { v := 0xFFFFFFFFFFF000, c := true, k := 256 } }, 255, ?_⟩,
    ⟨st (busy), st (busy), read1 (st busy), .miss 0, 0, ⟨by decide +kernel, by decide +kernel, rfl, .inl ⟨by decide +kernel, by decide +kernel, by decide +kernel, rfl, rfl, by decide +kernel⟩, rfl⟩⟩,
    ⟨paged (busy), paged (busy), read1 (paged busy), .fault 13 .plain, 13, .plain, ⟨by decide +kernel, by decide +kernel, rfl, .inl ⟨by decide +kernel, by decide +kernel, by decide +kernel, rfl, rfl, by decide +kernel⟩, rfl⟩⟩,
    ⟨paged guest, paged guest, read1 (paged guest), .ok walked, walked, ⟨by decide +kernel, by decide +kernel, rfl, .inl ⟨by decide +kernel, by decide +kernel, by decide +kernel, rfl, rfl, by decide +kernel⟩, rfl, by decide +kernel, by decide +kernel, by decide +kernel, by decide +kernel⟩⟩,
    ⟨joined, joined.endWalk 0 walk1, joined.endWalk 0 walk1, .ok walked, walked, ⟨by decide +kernel, by decide +kernel, rfl, .inr ⟨walk1, by decide +kernel, rfl, rfl, rfl⟩, rfl, by decide +kernel, by decide +kernel, by decide +kernel, by decide +kernel⟩⟩,
    ⟨{ st {} with share := [(0, { cls := 1, owner := 5 })], ev := { p := 5 } }, ?_⟩,
    ⟨st { park := some (.pmiss 0 .load 64) }, 0, .load, 64, ?_⟩,
    ⟨{ st { park := some (.pmiss 0 .load 64) } with time := 0x100001 }, 0, .load, 64, ?_⟩,
    ⟨{ st { park := some (.pmiss 0 .load 64) } with time := 0x100000 }, 0, .load, 64, ?_⟩,
    ⟨{ st {} with shoots := [⟨none, 0, none, none, [0]⟩] }, ⟨none, 0, none, none, [0]⟩, ?_⟩,
    ⟨st {}, ?_⟩⟩
  all_goals decide +kernel

/-- The hypotheses of CacheSteps are met. -/
theorem test_meets_CacheSteps :
    ( ∃ (s : State),
      let pa := s.ev.addr
      let line := pa / 64
      let home := s.homeQuad pa
      let me := (⟨pa, s.ev.p, s.ev.b, s.ev.c⟩ : SliceReq).quad
      isGddr pa = true ∧ s.bias.get (pageOf pa) 0 = 0 ∧ s.ev.stuck = [] ∧ s.ev.size = 0 ∧ s.ev.k = 0 ∧
      line ∉ (s.quad home).reserve ∧ s.answerable me pa s.ev.b (s.stampOf (pageOf pa)) = true ∧ s.ev.b = true ∧ s.ev.c = false ∧
      s.count (pageOf pa) = 0) ∧
    ( ∃ (s : State),
      let pa := s.ev.addr
      let line := pa / 64
      let home := s.homeQuad pa
      let me := (⟨pa, s.ev.p, s.ev.b, s.ev.c⟩ : SliceReq).quad
      isGddr pa = true ∧ s.bias.get (pageOf pa) 0 = 0 ∧ s.ev.stuck = [] ∧ s.ev.size = 0 ∧ s.ev.k = 0 ∧
      line ∉ (s.quad home).reserve ∧ s.answerable me pa s.ev.b (s.stampOf (pageOf pa)) = false ∧ line ∉ s.missEntries home ∧
      (s.missEntries home).length < 256) ∧
    (∃ (s : State), s.ev.b = false) ∧
    ( ∃ (s : State),
      let pa := s.ev.addr
      let line := pa / 64
      let q := s.ev.q
      let a := s.quad q
      let home := s.homeQuad pa = q
      q < Config.quads ∧ isGddr pa = true ∧ (home ∧ line ∈ a.misses ∨ ¬home ∧ proxyQuad (dieOfQuad q) pa = q)) ∧
    ( ∃ (s : State),
      let pa := s.ev.addr
      let line := pa / 64
      let q := s.ev.q
      let a := s.quad q
      let home := s.homeQuad pa = q
      q < Config.quads ∧ isGddr pa = true ∧ (home ∧ line ∈ a.misses ∨ ¬home ∧ proxyQuad (dieOfQuad q) pa = q)) ∧
    ( ∃ (s : State) (w : Nat),
      let pa := s.ev.addr
      let line := pa / 64
      let q := s.ev.q
      let a := s.quad q
      q < Config.quads ∧ isGddr pa = true ∧ s.homeQuad pa = q ∧ line ∈ a.misses ∧ a.input = [] ∧ (∀ l ∈ a.lines, l.1 % 1024 ≠ line % 1024) ∧
      (List.range 16).find? a.takesLines = some w ∧ copySite line ∉ s.poison ∧ Tab.get s.bias (pageOf pa) 0 = 0) ∧
    ( ∃ (s : State) (l : ℕ × SliceLine) (n : Nat),
      let q := s.ev.q
      let line := s.ev.addr / 64
      let home := s.homeQuad (64 * line)
      let d := Tab.get (s.quad home).dir (line / 8) {}
      List.find? (fun (x : ℕ × SliceLine) => x.1 == line) (s.quad q).lines = some l ∧ l.2.dirty = true ∧ l.2.kind = .home ∧
      (neighbours q).find? (fun n => ((s.quad n).victimWay (line % 1024)).isSome) = some n ∧ d.owner = none ∧
      (∃ e ∈ (s.quad home).dir, e.1 = line / 8)) ∧
    ( ∃ (s : State) (l : ℕ × SliceLine),
      let q := s.ev.q
      let line := s.ev.addr / 64
      List.find? (fun (x : ℕ × SliceLine) => x.1 == line) (s.quad q).lines = some l ∧ l.2.dirty = true ∧
      (l.2.kind = LineKind.home ∨ l.2.kind = LineKind.proxy)) ∧
    ( ∃ (s : State),
      let q := s.ev.q
      let line := s.ev.addr / 64
      let a := s.quad q
      s.homeQuad s.ev.addr = q ∧ s.homeQuad (64 * line) = q ∧ s.cacheable s.ev.addr = true ∧ s.victimAt line = none ∧
      s.badCopy line = false ∧ line ∉ a.reserve ∧ (s.missEntries q).length < 256) ∧
    ( ∃ (s : State),
      let q := s.ev.q
      let line := s.ev.addr / 64
      let a := s.quad q
      s.homeQuad s.ev.addr = q ∧ s.homeQuad (64 * line) = q ∧ s.cacheable s.ev.addr = true ∧ s.victimAt line = none ∧
      s.badCopy line = false ∧ line ∉ a.reserve ∧ 256 ≤ (s.missEntries q).length ∧
      a.reserve.length < 16) ∧
    ( ∃ (s : State),
      let q := s.ev.q
      let line := s.ev.addr / 64
      let a := s.quad q
      s.homeQuad s.ev.addr = q ∧ s.homeQuad (64 * line) = q ∧ s.cacheable s.ev.addr = true ∧ s.victimAt line = none ∧
      s.badCopy line = false ∧ line ∉ a.reserve ∧ 256 ≤ (s.missEntries q).length ∧
      16 ≤ a.reserve.length) ∧
    (∃ (s : State) (l : ℕ) (rest : List ℕ), (s.quad s.ev.q).reserve = l :: rest) := by
  refine ⟨⟨{ st {} { lines := [(1, { kind := .home, dirty := true, way := 0 })] } with ev := { addr := 64, b := true } }, ?_⟩,
    ⟨{ st {} with ev := { addr := 64 } }, ?_⟩,
    ⟨st {}, ?_⟩,
    ⟨{ st {} { misses := [1] } with ev := { addr := 64 } }, ?_⟩,
    ⟨{ st {} with ev := { addr := 64, q := 96 } }, ?_⟩,
    ⟨{ st {} { misses := [1] } with ev := { addr := 64 } }, 0, ?_⟩,
    ⟨{ st {} { lines := [(1, { kind := .home, dirty := true, way := 0 })], dir := [(0, {})] } with ev := { addr := 64 } }, (1, { kind := .home, dirty := true, way := 0 }), 1, ?_⟩,
    ⟨{ st {} { lines := [(1, { kind := .home, dirty := true, way := 0 })] } with ev := { addr := 64 } }, (1, { kind := .home, dirty := true, way := 0 }), ?_⟩,
    ⟨{ st {} with ev := { addr := 64 } }, ?_⟩,
    ⟨{ st {} { misses := (List.range 256).map (· + 100), reserve := List.replicate 15 0 } with ev := { addr := 64 } }, ?_⟩,
    ⟨{ st {} { misses := (List.range 256).map (· + 100), reserve := List.replicate 16 0 } with ev := { addr := 64 } }, ?_⟩,
    ⟨st {} { reserve := [5] }, 5, [], ?_⟩⟩
  all_goals decide +kernel

/-- The hypotheses of ErrorsAndPorts are met. -/
theorem test_meets_ErrorsAndPorts :
    (∃ (s : State) (q : ℕ), s.ev.rejoin = Rejoiner.quad q ∧ s.dirtyLines q = []) ∧
    (∃ (s : State) (q l : ℕ),
      s.ev.rejoin = Rejoiner.quad q ∧ s.dirtyLines q = [l] ∧ l ∉ s.failed ∧ s.failedAt (64 * l) < 1024 ∧
      (s.quad (s.homeQuad (64 * l))).loss.length < 64) ∧
    (∃ (s : State) (q : ℕ), s.ev.rejoin = Rejoiner.engine q) ∧
    (∃ (s : State) (l : ℕ), s.ev.rejoin = Rejoiner.link l) ∧
    (∃ (s : State) (e : ErrRec) (rest : List ErrRec), (s.quad s.ev.q).errs = e :: rest) ∧
    (∃ (who : ℕ), 12288 ≤ who ∧ who < 2 ^ 31) ∧
    (∃ (s : State) (who h : ℕ) (k : Task),
      who = queueAgent h ∧ h < 12288 ∧ (s.hart h).task = some k ∧ s.quadStopped (quadOf h) = false) ∧
    (∃ (who id : ℕ), who = engineAgent id) ∧
    ( ∃ (s : State) (who c : ℕ),
      let a := s.quad s.ev.q
      s.ev.stuck = [who] ∧ s.contextOf who = some c ∧ s.clockOf s.ev.q < a.portNext) ∧
    ( ∃ (s : State) (who c : ℕ),
      let a := s.quad s.ev.q
      s.ev.stuck = [who] ∧ s.contextOf who = some c ∧ a.portNext ≤ s.clockOf s.ev.q ∧ -1024 < a.buckets.get c 64) ∧
    ( ∃ (s : State) (who c : ℕ),
      let a := s.quad s.ev.q
      s.ev.stuck = [who] ∧ s.contextOf who = some c ∧ a.buckets.get c 64 ≤ -1024) ∧
    (∃ (s : State) (v w c d : ℕ),
      s.ev.stuck = [v, w] ∧ s.contextOf v = some c ∧ s.contextOf w = some d ∧ c ≠ d ∧
      (s.quad s.ev.q).portNext ≤ s.clockOf s.ev.q ∧ 0 < (s.quad s.ev.q).buckets.get c 64 ∧
      (s.quad s.ev.q).buckets.get d 64 ≤ 0) ∧
    ( ∃ (s : State),
      let a := s.quad s.ev.q
      s.time < a.portAt + 64) ∧
    ( ∃ (s : State),
      let a := s.quad s.ev.q
      a.portAt + 64 ≤ s.time) := by
  refine ⟨⟨st {}, 0, ?_⟩,
    ⟨{ st {} with cores := [(0, { l1d := [(5, true)] })] }, 0, 5, ?_⟩,
    ⟨{ st {} with ev := { rejoin := .engine 383 } }, 383, ?_⟩,
    ⟨{ st {} with ev := { rejoin := .link 3 } }, 3, ?_⟩,
    ⟨st {} { errs := [⟨1, 2, 3, 4, 5⟩] }, ⟨1, 2, 3, 4, 5⟩, [], ?_⟩,
    ⟨12288, ?_⟩,
    ⟨st (busy), queueAgent 0, 0, {}, ?_⟩,
    ⟨engineAgent 0, 0, ?_⟩,
    ⟨{ st (busy) { part := some 0, portNext := 1 } with ev := { stuck := [0] } }, 0, 2, ?_⟩,
    ⟨{ st (busy) { part := some 0, buckets := [(2, -1023)] } with ev := { stuck := [0] } }, 0, 2, ?_⟩,
    ⟨{ st (busy) { part := some 0, buckets := [(2, -1024)] } with ev := { stuck := [0] } }, 0, 2, ?_⟩,
    ⟨{ st (busy) { part := some 0, buckets := [(2, 1), (48, 0)] } with ev := { stuck := [0, 12288] } }, 0, 12288, 2, 48, ?_⟩,
    ⟨{ st {} with time := 63 }, ?_⟩,
    ⟨{ st {} with time := 64 }, ?_⟩⟩
  all_goals decide +kernel

/-- The hypotheses of StoragePower are met. -/
theorem test_meets_StoragePower :
    ( ∃ (s : State) (ret : Bool),
      let q := s.ev.q
      let b := (s.quad q).banks.get s.ev.w { }
      b.st = 3 ∧ b.ret = ret ∧ b.last ≤ s.time) ∧
    ( ∃ (s : State) (ret : Bool),
      let q := s.ev.q
      let b := (s.quad q).banks.get s.ev.w { }
      b.st ≠ 3 ∨ b.ret ≠ ret ∨ s.time < b.last) ∧
    ( ∃ (s : State) (off : Bool),
      let q := s.ev.q
      let a := s.quad q
      let b := a.banks.get s.ev.w { }
      let due := if off = true then b.st = 2 ∧ a.bankHeld s.ev.w = false ∧ (b.last + 1024 ≤ s.time ∨ a.qph = 3) else b.st = 2 ∧ a.bankHeld s.ev.w = true ∧ 2 ≤ a.qph ∧ b.last + 2048 ≤ s.time
      due) ∧
    ( ∃ (s : State) (off : Bool),
      let q := s.ev.q
      let a := s.quad q
      let b := a.banks.get s.ev.w { }
      let due := if off = true then b.st = 2 ∧ a.bankHeld s.ev.w = false ∧ (b.last + 1024 ≤ s.time ∨ a.qph = 3) else b.st = 2 ∧ a.bankHeld s.ev.w = true ∧ 2 ≤ a.qph ∧ b.last + 2048 ≤ s.time
      due) ∧
    ( ∃ (s : State) (off : Bool),
      let q := s.ev.q
      let a := s.quad q
      let b := a.banks.get s.ev.w { }
      let due := if off = true then b.st = 2 ∧ a.bankHeld s.ev.w = false ∧ (b.last + 1024 ≤ s.time ∨ a.qph = 3) else b.st = 2 ∧ a.bankHeld s.ev.w = true ∧ 2 ≤ a.qph ∧ b.last + 2048 ≤ s.time
      ¬due) ∧
    ( ∃ (s : State),
      let q := s.ev.q
      let w := (s.quad q).ways.get s.ev.w { }
      s.ev.w < 16 ∧ w.st = 0 ∧ w.next = none ∧ ((s.quad q).role s.ev.w = 0 ∨ (s.quad q).role s.ev.w = 3) ∧
      wayMayRetire s.dph s.ev.w = true ∧ w.last + 16384 ≤ s.time) ∧
    ( ∃ (s : State),
      let q := s.ev.q
      let w := (s.quad q).ways.get s.ev.w { }
      s.time < w.last + 16384 ∨ wayMayRetire s.dph s.ev.w = false) ∧
    ( ∃ (s : State),
      let q := s.ev.q
      let w := (s.quad q).ways.get s.ev.w { }
      w.st = 2 ∧ w.next = none ∧ w.last ≤ s.time ∧ w.kill = false ∧ (s.die (dieOfQuad q)).swbusy = false) ∧
    ( ∃ (s : State),
      let q := s.ev.q
      let w := (s.quad q).ways.get s.ev.w { }
      w.st = 2 ∧ w.next = none ∧ w.last ≤ s.time ∧ (w.kill = true ∨ (s.die (dieOfQuad q)).swbusy = true)) ∧
    (∃ (s : State) (w : ℕ), s.ev.q < Config.quads ∧ w < 16) ∧
    ( ∃ (s : State) (r : ℕ),
      let q := s.ev.q
      let x := (s.quad q).ways.get s.ev.w { }
      x.next = some r ∧ r < 4) ∧
    ( ∃ (s : State),
      let h := s.ev.h
      let v := BitVec.setWidth 2 s.ev.v
      (s.hart h).bwphEff.toNat ≤ v.toNat) ∧
    ( ∃ (s : State),
      let h := s.ev.h
      let v := BitVec.setWidth 2 s.ev.v
      v.toNat < (s.hart h).bwphEff.toNat) ∧
    (∃ (s : State) (q w : ℕ) (a : Quad),
      s.quads.get q { } = a ∧ (List.any s.quads fun (e : ℕ × Quad) => e.1 == q) = true ∧ w < 16) ∧
    ( ∃ (s : State),
      let d := s.ev.p / 16
      s.ev.p < 64 ∧ s.gddrMayRest d = true ∧ s.ev.p ∉ (s.die d).gddrDown ∧
      (s.dph = 3 → (s.die d).gddrLast.get s.ev.p 0 + 4096 ≤ s.time)) ∧
    ( ∃ (s : State),
      let d := s.ev.p / 16
      s.ev.p < 64 ∧ s.gddrMayRest d = true ∧ s.ev.p ∉ (s.die d).gddrDown ∧
      (s.dph = 3 → (s.die d).gddrLast.get s.ev.p 0 + 4096 ≤ s.time)) ∧
    ( ∃ (s : State),
      let d := s.ev.p / 16
      s.gddrMayRest d = false ∨ s.dph = 3 ∧ s.time < (s.die d).gddrLast.get s.ev.p 0 + 4096) := by
  refine ⟨⟨{ st {} { banks := [(31, { st := 3, last := 5, ret := true })] } with time := 5, ev := { w := 31 } }, true, ?_⟩,
    ⟨{ st {} { banks := [(31, { st := 3, last := 5, ret := true })] } with time := 4, ev := { w := 31 } }, true, ?_⟩,
    ⟨{ st {} { banks := [(31, { st := 2 })] } with time := 1024, ev := { w := 31 } }, true, ?_⟩,
    ⟨{ st {} { tiled with qph := 2 } with time := 2048 }, false, ?_⟩,
    ⟨{ st {} { banks := [(31, { st := 2 })] } with time := 1023, ev := { w := 31 } }, true, ?_⟩,
    ⟨{ st {} with time := 16384, dph := 1, ev := { w := 15 } }, ?_⟩,
    ⟨{ st {} with time := 16383, dph := 1, ev := { w := 15 } }, ?_⟩,
    ⟨{ st {} { ways := [(15, { st := 2, last := 5 })] } with time := 5, ev := { w := 15 } }, ?_⟩,
    ⟨{ st {} { ways := [(15, { st := 2, last := 5, kill := true })] } with time := 5, ev := { w := 15 } }, ?_⟩,
    ⟨{ st {} with ev := { q := 383 } }, 15, ?_⟩,
    ⟨{ st {} { ways := [(15, { next := some 3 })] } with ev := { w := 15 } }, 3, ?_⟩,
    ⟨{ st { bwphEff := 3 } with ev := { v := 3 } }, ?_⟩,
    ⟨{ st { bwphEff := 3 } with ev := { v := 2 } }, ?_⟩,
    ⟨st {}, 0, 15, { part := some 0 }, ?_⟩,
    ⟨{ st {} with time := 4096, dph := 3, ev := { p := 63 } }, ?_⟩,
    ⟨{ st {} with dph := 2, ev := { p := 63 } }, ?_⟩,
    ⟨{ st {} with time := 4095, dph := 3, ev := { p := 63 } }, ?_⟩⟩
  all_goals decide +kernel

/-- The hypotheses of PowerAndHeat are met. -/
theorem test_meets_PowerAndHeat :
    (∃ (s : State), s.time < s.mistral.periodAt + 17000) ∧
    (∃ (s : State), s.mistral.periodAt + 17000 ≤ s.time) ∧
    (∃ (s : State) (p q : ℕ),
      s.mistral.periodAt + 17000 ≤ s.time ∧ p < 16 ∧ s.quadsOf p = [q] ∧ q < Config.quads ∧ (s.quad q).part = some p) ∧
    (∃ (s : State),
      let q := s.ev.q
      s.pointOf q ≤ (s.quad q).opcur) ∧
    (∃ (s : State) (n : Nat),
      let q := s.ev.q
      (s.quad q).raise = some n ∧ s.pointOf q = n ∧ (s.quad q).opcur < n ∧ s.railPoint q < n) ∧
    (∃ (s : State),
      let q := s.ev.q
      let a := s.quad q
      a.droop = false ∧ s.ev.b = true) ∧
    (∃ (s : State),
      let q := s.ev.q
      let a := s.quad q
      a.droop = true ∧ s.ev.b = false) ∧
    (∃ (s : State),
      let q := s.ev.q
      let a := s.quad q
      a.droop = s.ev.b) ∧
    (∃ (s : State),
      let q := s.ev.q
      let a := s.quad q
      a.droop = true ∧ a.droopAt + 64 ≤ s.time) ∧
    (∃ (s : State),
      let q := s.ev.q
      let a := s.quad q
      a.droop = false ∨ s.time < a.droopAt + 64) ∧
    (∃ (s : State),
      let q := s.ev.q
      let a := s.quad q
      a.droop = false ∧ a.droopAt + 4096 ≤ s.time) ∧
    (∃ (s : State),
      let q := s.ev.q
      let a := s.quad q
      a.droop = true ∨ s.time < a.droopAt + 4096) ∧
    (∃ (s : State),
      let q := s.ev.q
      let v := s.ev.v.toNat
      let n := if (s.quad q).hot then 7 else v % 8
      s.ev.q < Config.quads ∧ n = (s.quad q).tlvl) ∧
    (∃ (s : State),
      let q := s.ev.q
      let v := s.ev.v.toNat
      let n := if (s.quad q).hot then 7 else v % 8
      s.ev.q < Config.quads ∧ n ≠ (s.quad q).tlvl) ∧
    (∃ (s : State) (i : ℕ), s.ev.q < Config.quads ∧ s.ev.v.toNat % 64 = 2 ^ i) ∧
    (∃ (s : State) (i j : ℕ),
      let v := s.ev.v.toNat
      s.ev.q < Config.quads ∧ i < j ∧ j < 6 ∧ v.testBit i = true ∧ v.testBit j = true) ∧
    (∃ (s : State),
      let q := s.ev.q
      q < Config.quads ∧ (s.quad q).sfail = 0 ∧ ∀ j < 6, s.sensorBroken q s.ev.codes j = false) ∧
    (∃ (s : State) (i : ℕ), s.ev.q < Config.quads ∧ i < 6 ∧ 150 < s.ev.codes.getD i 999) ∧
    (∃ (s : State),
      let q := s.ev.q
      let n := s.idleFor q
      q < Config.quads ∧ (s.freeSlots q).length = 32 ∧ s.quadWanted q = false ∧ (s.quad q).idle < n) ∧
    (∃ (s : State),
      let q := s.ev.q
      let n := s.idleFor q
      (s.freeSlots q).length ≠ 32 ∨ s.quadWanted q = true ∨ n ≤ (s.quad q).idle) ∧
    (∃ (s : State),
      let q := s.ev.q
      (s.quad q).idle ≠ 0 ∧ s.quadWanted q = true) ∧
    (∃ (s : State) (k : ℕ),
      let q := s.ev.q
      (s.quad q).idle ≠ 0 ∧ s.quadWanted q = true ∧ 2 ≤ (s.quad q).idle ∧ k / 96 = q / 96 ∧ (s.quad k).idle = 3) ∧
    (∃ (s : State),
      let q := s.ev.q
      (s.quad q).idle = 0 ∨ s.quadWanted q = false) ∧
    (∃ (s : State), s.mistral.events = []) ∧
    (∃ (s : State) (e : Word) (rest : List Word), s.mistral.events = e :: rest) ∧
    (∃ (s : State), s.mistral.events.length < 16) ∧
    (∃ (s : State), 16 ≤ s.mistral.events.length) := by
  refine ⟨⟨{ st {} with time := 16999 }, ?_⟩,
    ⟨{ st {} with time := 17000 }, ?_⟩,
    ⟨{ st (busy) { part := some 0 } with time := 17000 }, 0, 0, ?_⟩,
    ⟨st {}, ?_⟩,
    ⟨st (busy) { part := some 0, raise := some 7 }, 7, ?_⟩,
    ⟨{ st {} with ev := { b := true } }, ?_⟩,
    ⟨st {} { droop := true }, ?_⟩,
    ⟨st {}, ?_⟩,
    ⟨{ st {} { droop := true } with time := 64 }, ?_⟩,
    ⟨{ st {} { droop := true } with time := 63 }, ?_⟩,
    ⟨{ st {} with time := 4096 }, ?_⟩,
    ⟨{ st {} with time := 4095 }, ?_⟩,
    ⟨{ st {} with ev := { q := 383, v := 8 } }, ?_⟩,
    ⟨{ st {} with ev := { q := 383, v := 7 } }, ?_⟩,
    ⟨{ st {} with ev := { q := 383, v := 32 } }, 5, ?_⟩,
    ⟨{ st {} with ev := { q := 383, v := 48 } }, 4, 5, ?_⟩,
    ⟨{ st {} with ev := { codes := List.replicate 6 40 } }, ?_⟩,
    ⟨{ st {} with ev := { codes := [40, 151] } }, 1, ?_⟩,
    ⟨{ st {} with harts := [] }, ?_⟩,
    ⟨st (busy), ?_⟩,
    ⟨{ queued [{ id := 7, desc := noDesc }] {} with quads := [(0, { part := some 0, idle := 2 })] }, ?_⟩,
    ⟨{ queued [{ id := 7, desc := noDesc }] {} with quads := [(0, { part := some 0, idle := 2 }), (95, { idle := 3 })] }, 95, ?_⟩,
    ⟨st {}, ?_⟩,
    ⟨st {}, ?_⟩,
    ⟨{ st {} with mistral := { events := [5] } }, 5, [], ?_⟩,
    ⟨{ st {} with mistral := { events := List.replicate 15 5 } }, ?_⟩,
    ⟨{ st {} with mistral := { events := List.replicate 16 5 } }, ?_⟩⟩
  all_goals decide +kernel

/-- The hypotheses of GroupLoadsDeliver are met. -/
theorem test_meets_GroupLoadsDeliver :
    ( ∃ (s : State) (r : GReq),
      let a := s.group r.die r.group
      s.greqs[s.ev.k]? = some r ∧ r.accepted = false ∧ (List.map (fun (x : GReq) => x.id) s.greqs).Nodup ∧
      a.member r.part r.task r.hart = none) ∧
    ( ∃ (s : State) (r : GReq),
      let o := List.find? (fun (o : OpenLoad) => o.die == r.die && o.group == r.group && o.slice == r.slice && o.seq == r.seq) s.opens
      let a := s.group r.die r.group
      ∃ (m : Member) (x : OpenLoad),
      s.greqs[s.ev.k]? = some r ∧ r.accepted = false ∧ (List.map (fun (x : GReq) => x.id) s.greqs).Nodup ∧
      a.member r.part r.task r.hart = some m ∧ (s.prt a.part).stopped = false ∧ o = some x ∧
      ¬∀ y ∈ s.loadReqs x, r.agrees y = true) ∧
    ( ∃ (s : State) (r : GReq),
      let o := List.find? (fun (o : OpenLoad) => o.die == r.die && o.group == r.group && o.slice == r.slice && o.seq == r.seq) s.opens
      let a := s.group r.die r.group
      ∃ (m : Member) (x : OpenLoad),
      s.greqs[s.ev.k]? = some r ∧ r.accepted = false ∧ (List.map (fun (x : GReq) => x.id) s.greqs).Nodup ∧
      a.member r.part r.task r.hart = some m ∧ (s.prt a.part).stopped = false ∧ o = some x ∧
      (∀ y ∈ s.loadReqs x, r.agrees y = true) ∧ (s.loadReqs x).length + 1 < x.expected) ∧
    ( ∃ (s : State) (r : GReq),
      let o := List.find? (fun (o : OpenLoad) => o.die == r.die && o.group == r.group && o.slice == r.slice && o.seq == r.seq) s.opens
      let a := s.group r.die r.group
      ∃ (m : Member) (x : OpenLoad),
      s.greqs[s.ev.k]? = some r ∧ r.accepted = false ∧ (List.map (fun (x : GReq) => x.id) s.greqs).Nodup ∧
      a.member r.part r.task r.hart = some m ∧ (s.prt a.part).stopped = false ∧ o = some x ∧
      (∀ y ∈ s.loadReqs x, r.agrees y = true) ∧ (s.loadReqs x).length + 1 = x.expected ∧
      ∀ (y : GReq), y = r ∨ y ∈ s.loadReqs x → s.sourceWaits y = none) ∧
    ( ∃ (s : State) (r : GReq),
      let o := List.find? (fun (o : OpenLoad) => o.die == r.die && o.group == r.group && o.slice == r.slice && o.seq == r.seq) s.opens
      let a := s.group r.die r.group
      ∃ (m : Member),
      s.greqs[s.ev.k]? = some r ∧ r.accepted = false ∧ (List.map (fun (x : GReq) => x.id) s.greqs).Nodup ∧
      a.member r.part r.task r.hart = some m ∧ (s.prt a.part).stopped = false ∧ o = none ∧
      s.wasReleased r.die r.group r.slice r.seq = true ∧ s.sourceWaits r = none) ∧
    ( ∃ (s : State) (r : GReq),
      let here := fun (o : OpenLoad) => o.die == r.die && o.group == r.group && o.slice == r.slice
      let o := List.find? (fun (o : OpenLoad) => o.die == r.die && o.group == r.group && o.slice == r.slice && o.seq == r.seq) s.opens
      let a := s.group r.die r.group
      ∃ (m : Member),
      s.greqs[s.ev.k]? = some r ∧ r.accepted = false ∧ (List.map (fun (x : GReq) => x.id) s.greqs).Nodup ∧
      a.member r.part r.task r.hart = some m ∧ (s.prt a.part).stopped = false ∧ o = none ∧
      s.wasReleased r.die r.group r.slice r.seq = false ∧ 4 ≤ (List.filter here s.opens).length) ∧
    ( ∃ (s : State) (r : GReq),
      let here := fun (o : OpenLoad) => o.die == r.die && o.group == r.group && o.slice == r.slice
      let o := List.find? (fun (o : OpenLoad) => o.die == r.die && o.group == r.group && o.slice == r.slice && o.seq == r.seq) s.opens
      let a := s.group r.die r.group
      ∃ (m : Member),
      s.greqs[s.ev.k]? = some r ∧ r.accepted = false ∧ (List.map (fun (x : GReq) => x.id) s.greqs).Nodup ∧
      a.member r.part r.task r.hart = some m ∧ (s.prt a.part).stopped = false ∧ o = none ∧
      s.wasReleased r.die r.group r.slice r.seq = false ∧ (List.filter here s.opens).length < 4 ∧
      (∀ x ∈ s.greqs, x.accepted = false) ∧ 1 < a.members.length) ∧
    (∃ (s : State) (o : OpenLoad),
      s.opens[s.ev.k]? = some o ∧ (s.loadReqs o).length < o.expected ∧ s.time < o.openedAt + o.timer ∧
      (s.prt (s.group o.die o.group).part).stopped = false) ∧
    (∃ (s : State) (o : OpenLoad),
      s.opens[s.ev.k]? = some o ∧ (s.loadReqs o).length < o.expected ∧ o.openedAt + o.timer ≤ s.time ∧
      ∀ y ∈ s.loadReqs o, s.sourceWaits y = none) ∧
    ( ∃ (s : State) (f : GFill),
      let r := f.req
      let a := s.hart r.hart
      ∃ (t0 : TileRef) (bit : ℕ),
      s.fills[s.ev.k]? = some f ∧ f.err = false ∧ f.landed = false ∧ a.runs r.task = true ∧
      s.partOf r.hart = r.part ∧ (r.xd = 0 ∨ r.barrier = 0) ∧ r.vector = false ∧ r.dirty = [] ∧
      s.fillFits r.part r.fmt r.hw r.row r.len = some (t0, bit) ∧ s.banksOn t0 (bit / 8) r.len = true) ∧
    ( ∃ (s : State) (f : GFill),
      let r := f.req
      let a := s.hart r.hart
      s.fills[s.ev.k]? = some f ∧ f.err = false ∧ f.landed = false ∧ a.runs r.task = true ∧
      s.partOf r.hart = r.part ∧ (r.xd = 0 ∨ r.barrier = 0) ∧ r.vector = true ∧ r.dirty = [] ∧
      r.reg + r.gsize ≤ 32 ∧ f.bytes.length ≤ 128 * r.gsize) := by
  refine ⟨⟨loadSt [greq] [] {}, greq, ?_⟩,
    ⟨loadSt [greq, other 128] [open2 2], greq, ⟨0, 0, 0, 0, 0⟩, open2 2, ?_⟩,
    ⟨loadSt [greq, other 64] [open2 3], greq, ⟨0, 0, 0, 0, 0⟩, open2 3, ?_⟩,
    ⟨loadSt [greq, other 64] [open2 2], greq, ⟨0, 0, 0, 0, 0⟩, open2 2, ?_⟩,
    ⟨{ loadSt [greq] [] with released := [(releaseKey 0 255 0, [0])] }, greq, ⟨0, 0, 0, 0, 0⟩, ?_⟩,
    ⟨loadSt [greq] ([1, 2, 3, 4].map (fun k => { open2 2 with seq := k })), greq, ⟨0, 0, 0, 0, 0⟩, ?_⟩,
    ⟨loadSt [greq] ([1, 2, 3].map (fun k => { open2 2 with seq := k })), greq, ⟨0, 0, 0, 0, 0⟩, ?_⟩,
    ⟨{ loadSt [] [{ open2 2 with timer := 10 }] with time := 9 }, { open2 2 with timer := 10 }, ?_⟩,
    ⟨{ loadSt [] [{ open2 2 with timer := 10 }] with time := 10 }, { open2 2 with timer := 10 }, ?_⟩,
    ⟨{ st (busy) { part := some 0, tiles := [(1, wide)], banks := [(0, { st := 2 })] } with fills := [fill greq] }, fill greq, ⟨0, 1, wide⟩, 0, ?_⟩,
    ⟨{ st (busy) with fills := [fill { greq with vector := true }] }, fill { greq with vector := true }, ?_⟩⟩
  all_goals repeat' apply And.intro
  all_goals first | decide +kernel | exact consMem (by decide +kernel)

/-- The hypotheses of FreezesComplete are met. -/
theorem test_meets_FreezesComplete :
    (
      let plain := fun (s : State) (op : FreezeOp) (thaw : Bool) => s.freezes[s.ev.k]? = some op ∧ op.thaw = thaw ∧ op.done = false ∧ op.barrier = 0 ∧ (s.prt op.part).stopped = false ∧ (List.map (fun (x : ℕ × ℕ) => x.1) op.pages).Nodup
      ∃ (s : State) (op : FreezeOp),
      let fresh := List.map (fun (x : ℕ × ℕ) => x.1) (List.filter (fun (p : ℕ × ℕ) => decide (s.count p.1 = 0)) op.pages)
      plain s op false ∧ s.storesWait fresh = false) ∧
    (
      let plain := fun (s : State) (op : FreezeOp) (thaw : Bool) => s.freezes[s.ev.k]? = some op ∧ op.thaw = thaw ∧ op.done = false ∧ op.barrier = 0 ∧ (s.prt op.part).stopped = false ∧ (List.map (fun (x : ℕ × ℕ) => x.1) op.pages).Nodup
      ∃ (s : State) (op : FreezeOp),
      let zero := List.map (fun (x : ℕ × ℕ) => x.1) (List.filter (fun (p : ℕ × ℕ) => decide (s.count p.1 = p.2)) op.pages)
      plain s op true ∧ op.stage = ThawStage.counts ∧ (zero = [] ∨ s.epochHolds = false ∧
      s.storesWait zero = false ∧ s.replicaLinks = [])) ∧
    (
      let plain := fun (s : State) (op : FreezeOp) (thaw : Bool) => s.freezes[s.ev.k]? = some op ∧ op.thaw = thaw ∧ op.done = false ∧ op.barrier = 0 ∧ (s.prt op.part).stopped = false ∧ (List.map (fun (x : ℕ × ℕ) => x.1) op.pages).Nodup
      ∃ (s : State) (op : FreezeOp),
      let zero := List.map (fun (x : ℕ × ℕ) => x.1) (List.filter (fun (p : ℕ × ℕ) => decide (s.count p.1 = p.2)) op.pages)

      plain s op true ∧ op.stage = ThawStage.counts ∧ zero ≠ [] ∧ s.epochHolds = false ∧ s.storesWait zero = false ∧
      s.replicaLinks ≠ []) ∧
    (
      let plain := fun (s : State) (op : FreezeOp) (thaw : Bool) => s.freezes[s.ev.k]? = some op ∧ op.thaw = thaw ∧ op.done = false ∧ op.barrier = 0 ∧ (s.prt op.part).stopped = false ∧ (List.map (fun (x : ℕ × ℕ) => x.1) op.pages).Nodup
      ∃ (s : State) (op : FreezeOp),
      let zero := List.map (fun (x : ℕ × ℕ) => x.1) (List.filter (fun (p : ℕ × ℕ) => decide (s.count p.1 = p.2)) op.pages)
      plain s op true ∧ op.stage = ThawStage.counts ∧ zero ≠ [] ∧ s.epochHolds = true) ∧
    (
      let plain := fun (s : State) (op : FreezeOp) (thaw : Bool) => s.freezes[s.ev.k]? = some op ∧ op.thaw = thaw ∧ op.done = false ∧ op.barrier = 0 ∧ (s.prt op.part).stopped = false ∧ (List.map (fun (x : ℕ × ℕ) => x.1) op.pages).Nodup
      ∃ (s : State) (op : FreezeOp) (l : ℕ),
      plain s op true ∧ op.peers = [l] ∧ s.time < op.since + 2 ^ 20) ∧
    (
      let plain := fun (s : State) (op : FreezeOp) (thaw : Bool) => s.freezes[s.ev.k]? = some op ∧ op.thaw = thaw ∧ op.done = false ∧ op.barrier = 0 ∧ (s.prt op.part).stopped = false ∧ (List.map (fun (x : ℕ × ℕ) => x.1) op.pages).Nodup
      ∃ (s : State) (op : FreezeOp) (l : ℕ),
      plain s op true ∧ op.peers = [l] ∧ op.since + 2 ^ 20 ≤ s.time) ∧
    ( ∃ (s : State),
      let page := pageOf s.ev.addr
      s.count page = 0) ∧
    ( ∃ (s : State),
      let page := pageOf s.ev.addr
      s.count page ≠ 0 ∧ s.pageLocked page = false) ∧
    ( ∃ (s : State) (sw : Bool),
      let d := s.die s.ev.p
      s.ev.p < 4 ∧ d.swbusy = false ∧ (sw = true ∨ 2048 ≤ (d.tepoch - d.swstart).toNat)) ∧
    (∃ (s : State) (i : Instr),
      (i = Instr.swgoWrite ∨ i = Instr.stampSweepStart) ∧ (s.die s.ev.p).swbusy = true) ∧
    ( ∃ (s : State),
      let dn := dieOfQuad s.ev.q
      let w := (s.quad s.ev.q).ways.get s.ev.w { }
      (s.die dn).swbusy = true ∧ (s.die dn).swat + 4096 ≤ s.time ∧ w.st ≠ 0 ∧ w.kill = false) ∧
    ( ∃ (s : State),
      let dn := dieOfQuad s.ev.q
      let w := (s.quad s.ev.q).ways.get s.ev.w { }
      (s.die dn).swbusy = false ∨ s.time < (s.die dn).swat + 4096 ∨ w.st = 0) ∧
    (∃ (s : State), (s.die s.ev.p).swbusy = true ∧ s.swept s.ev.p = true) ∧
    (∃ (s : State), (s.die s.ev.p).swbusy = false ∨ s.swept s.ev.p = false) := by
  refine ⟨⟨{ st {} with freezes := [fop false] }, fop false, ?_⟩,
    ⟨{ st {} with freezes := [fop true], freeze := [(5, { count := 2 })] }, fop true, ?_⟩,
    ⟨{ st {} with freezes := [fop true], freeze := [(5, { count := 1 })], links := [(3, { up := true, replicas := true })] }, fop true, ?_⟩,
    ⟨{ st {} with freezes := [fop true], freeze := [(5, { count := 1 })], dies := [(0, { swbusy := true, tepoch := 2047 })] }, fop true, ?_⟩,
    ⟨{ st {} with freezes := [fop true [3]], time := 0xFFFFF }, fop true [3], 3, ?_⟩,
    ⟨{ st {} with freezes := [fop true [3]], time := 0x100000 }, fop true [3], 3, ?_⟩,
    ⟨st {}, ?_⟩,
    ⟨{ st {} with freeze := [(5, { count := 255 })], ev := { addr := 0x5FFF } }, ?_⟩,
    ⟨{ st {} with dies := [(3, { tepoch := 2048 })], ev := { p := 3 } }, false, ?_⟩,
    ⟨{ st {} with dies := [(3, { swbusy := true })], ev := { p := 3 } }, .swgoWrite, ?_⟩,
    ⟨{ st {} { ways := [(15, { st := 1 })] } with dies := [(0, { swbusy := true })], time := 4096, ev := { w := 15 } }, ?_⟩,
    ⟨{ st {} { ways := [(15, { st := 1 })] } with dies := [(0, { swbusy := true })], time := 4095, ev := { w := 15 } }, ?_⟩,
    ⟨{ st {} { ways := [(15, { st := 1, kill := true })] } with dies := [(0, { swbusy := true })] }, ?_⟩,
    ⟨{ st {} { ways := [(15, { st := 1 })] } with dies := [(0, { swbusy := true })] }, ?_⟩⟩
  all_goals decide +kernel

/-- The hypotheses of TransfersRun are met. -/
theorem test_meets_TransfersRun :
    ( ∃ (s : State) (x : Xfer) (rest : List Xfer),
      let q := s.ev.q
      let a := s.quad q
      a.cq = x :: rest ∧ (8 ≤ a.running.length ∨ s.quadHalted q = true)) ∧
    ( ∃ (s : State) (x : Xfer) (rest : List Xfer),
      let q := s.ev.q
      let a := s.quad q
      a.cq = x :: rest ∧ a.running.length < 8 ∧ s.quadHalted q = false ∧ x.pop = false) ∧
    ( ∃ (s : State) (x : Xfer) (rest : List Xfer),
      let q := s.ev.q
      let a := s.quad q
      let n := a.fifo.get x.popFifo.no 0
      a.cq = x :: rest ∧ a.running.length < 8 ∧ s.quadHalted q = false ∧ x.pop = true ∧ 0 < n ∧
      ∀ y ∈ a.held, y.op.fifo ≠ x.popFifo) ∧
    ( ∃ (s : State) (x : Xfer) (rest : List Xfer),
      let q := s.ev.q
      let a := s.quad q
      let n := a.fifo.get x.popFifo.no 0
      a.cq = x :: rest ∧ a.running.length < 8 ∧ s.quadHalted q = false ∧ x.pop = true ∧ n = 0 ∧
      ∀ y ∈ a.held, y.op.fifo ≠ x.popFifo) ∧
    ( ∃ (s : State) (x : Xfer),
      let q := s.ev.q
      let a := s.quad q
      List.find? (fun (y : Xfer) => y.id == s.ev.w) a.running = some x ∧
      (List.map (fun (x : Xfer) => x.id) a.running).Nodup ∧ x.fail = none ∧ x.aborted = false ∧
      x.stage = Stage.running ∧ s.quadHalted q = false ∧ Shape.dk x.shape ≠ 2 ∧ x.next < Shape.runs x.shape ∧
      (∀ y ∈ a.running, y.untagged = []) ∧ a.tagsUsed + (x.pieces x.next).length ≤ 128) ∧
    ( ∃ (s : State) (x : Xfer),
      let q := s.ev.q
      let a := s.quad q
      List.find? (fun (y : Xfer) => y.id == s.ev.w) a.running = some x ∧
      (List.map (fun (x : Xfer) => x.id) a.running).Nodup ∧ x.fail = none ∧ x.aborted = false ∧
      x.stage = Stage.running ∧ s.quadHalted q = false ∧ Shape.dk x.shape ≠ 2 ∧ x.next < Shape.runs x.shape ∧
      (∀ y ∈ a.running, y.untagged = []) ∧ 128 ≤ a.tagsUsed) ∧
    ( ∃ (s : State) (x : Xfer),
      let q := s.ev.q
      let a := s.quad q
      List.find? (fun (y : Xfer) => y.id == s.ev.w) a.running = some x ∧
      (List.map (fun (x : Xfer) => x.id) a.running).Nodup ∧ x.untagged ≠ []) ∧
    ( ∃ (s : State) (x : Xfer) (p : Piece) (rest : List Piece),
      let q := s.ev.q
      let n := p.j - p.i
      ∃ (a b : MemPart) (u : State), s.ev.bytes = none ∧ s.ev.stuck = [] ∧ s.ev.k = 0 ∧
      List.find? (fun (y : Xfer) => y.id == s.ev.w) (s.quad q).running = some x ∧
      (List.map (fun (x : Xfer) => x.id) (s.quad q).running).Nodup ∧ (∀ y ∈ (s.quad q).running, y.untagged = []) ∧
      x.emitted = p :: rest ∧ p.got = none ∧ s.vregBusy x = false ∧ Shape.dk x.shape = 0 ∧
      s.findPiece x p = .ok (Place.mem [a], Place.mem [b], u) ∧ a.n = n ∧ b.n = n ∧ isMmio a.pa = false ∧
      isMmio b.pa = false ∧ (u.readPlace x n (.mem [a])).2.partsWait x.who (quadOf x.hart) true [b] = none ∧ Shape.opn x.shape = 0) ∧
    ( ∃ (s : State) (x : Xfer) (p : Piece) (rest : List Piece),
      let q := s.ev.q
      let n := p.j - p.i
      ∃ (a b : MemPart) (u : State), s.ev.bytes = none ∧ s.ev.stuck = [] ∧ s.ev.k = 0 ∧
      List.find? (fun (y : Xfer) => y.id == s.ev.w) (s.quad q).running = some x ∧
      (List.map (fun (x : Xfer) => x.id) (s.quad q).running).Nodup ∧ (∀ y ∈ (s.quad q).running, y.untagged = []) ∧
      x.emitted = p :: rest ∧ p.got = none ∧ s.vregBusy x = false ∧ Shape.dk x.shape = 0 ∧
      s.findPiece x p = .ok (Place.mem [a], Place.mem [b], u) ∧ a.n = n ∧ b.n = n ∧ isMmio a.pa = false ∧
      isMmio b.pa = false ∧ (u.readPlace x n (.mem [a])).2.partsWait x.who (quadOf x.hart) true [b] = none ∧ Shape.opn x.shape = 1) ∧
    ( ∃ (s : State) (x : Xfer) (p : Piece) (rest : List Piece),
      let q := s.ev.q
      let n := p.j - p.i
      ∃ (l : ℕ) (va : Word) (b : MemPart) (u : State),
      s.ev.bytes = none ∧ s.ev.stuck = [] ∧ s.ev.k = 0 ∧
      List.find? (fun (y : Xfer) => y.id == s.ev.w) (s.quad q).running = some x ∧
      (List.map (fun (x : Xfer) => x.id) (s.quad q).running).Nodup ∧ (∀ y ∈ (s.quad q).running, y.untagged = []) ∧
      x.emitted = p :: rest ∧ p.got = none ∧ s.vregBusy x = false ∧ Shape.dk x.shape = 0 ∧
      s.findPiece x p = .ok (Place.peer l va, Place.mem [b], u) ∧ b.n = n ∧ isMmio b.pa = false ∧
      u.partsWait x.who (quadOf x.hart) true [b] = none ∧ Shape.opn x.shape = 0) ∧
    ( ∃ (s : State) (x : Xfer) (p : Piece) (rest : List Piece),
      let q := s.ev.q
      ∃ (c : ℕ) (va : Word) (why : Why), s.ev.bytes = none ∧ s.ev.stuck = [] ∧ s.ev.k = 0 ∧
      List.find? (fun (y : Xfer) => y.id == s.ev.w) (s.quad q).running = some x ∧
      (List.map (fun (x : Xfer) => x.id) (s.quad q).running).Nodup ∧ (∀ y ∈ (s.quad q).running, y.untagged = []) ∧
      x.emitted = p :: rest ∧ p.got = none ∧ s.vregBusy x = false ∧
      s.findPiece x p = .error (Found.fail c va why)) ∧
    ( ∃ (s : State) (x : Xfer),
      let q := s.ev.q
      let a := s.hart x.hart
      List.find? (fun (y : Xfer) => y.id == s.ev.w) (s.quad q).running = some x ∧ x.stage = Stage.running ∧
      x.over = true ∧ s.quadHalted q = false ∧ Shape.ctgt x.shape = 0 ∧ a.runs x.task = true ∧ x.aborted = false ∧
      x.abandoned = false ∧ Shape.crec x.shape = 0 ∧ x.push = false) ∧
    ( ∃ (s : State) (x : Xfer),
      let q := s.ev.q
      let a := s.hart x.hart
      List.find? (fun (y : Xfer) => y.id == s.ev.w) (s.quad q).running = some x ∧ x.stage = Stage.running ∧
      x.over = true ∧ s.quadHalted q = false ∧ Shape.ctgt x.shape = 0 ∧ a.runs x.task = true ∧ x.aborted = false ∧
      x.abandoned = false ∧ Shape.crec x.shape = 0 ∧ x.push = true ∧ x.fail = none ∧
      (s.quad q).fifo.get x.pushFifo.no 0 < 16 ∧ ∀ y ∈ (s.quad q).held, y.op.fifo ≠ x.pushFifo) ∧
    ( ∃ (s : State) (x : Xfer),
      let q := s.ev.q
      let a := s.hart x.hart
      ∃ (m : MemPart) (u : State),
      let at_ := s.stageXfer q x (Stage.checked x.outcome.1 x.outcome.2.1 none)
      List.find? (fun (y : Xfer) => y.id == s.ev.w) (s.quad q).running = some x ∧ x.stage = Stage.running ∧
      x.over = true ∧ s.quadHalted q = false ∧ Shape.ctgt x.shape = 0 ∧ a.runs x.task = true ∧ x.aborted = false ∧
      x.abandoned = false ∧ Shape.crec x.shape ≠ 0 ∧ x.push = false ∧
      at_.engineParts x.who x.req AccKind.store 0 0 false (lineParts (BitVec.ofNat 64 (Shape.crec x.shape)) 32) = Found.ok (Place.mem [m]) u ∧
      m.n = 32 ∧ isMmio m.pa = false) ∧
    (∃ (s : State) (x : Slide), (s.hart s.ev.h).slide = some x) ∧
    ( ∃ (s : State) (b : Reg),
      let h := s.ev.h
      (s.hart h).park = some (Park.acqBusy b) ∧ s.time < (s.hart h).since + 256) ∧
    ( ∃ (s : State) (c : Acc) (k : Task) (b : Reg),
      let h := s.ev.h
      let u := { s with cur := h }
      (s.hart h).park = some (Park.acqBusy b) ∧ (s.hart h).since + 256 ≤ s.time ∧
      Reaches u b [] [] false false [1] c ∧ (s.hart h).task = some k ∧ h < 12288 ∧ (c.obj).held = false ∧
      s.waitersAt (lineOf c.pa) false = [] ∧ c.s.lostLines = []) ∧
    ( ∃ (s : State) (c : Acc) (k : Task) (b : Reg),
      let h := s.ev.h
      let u := { s with cur := h }
      (s.hart h).park = some (Park.acqBusy b) ∧ (s.hart h).since + 256 ≤ s.time ∧
      Reaches u b [] [] false false [1] c ∧ (s.hart h).task = some k ∧ h < 12288 ∧ (c.obj).held = true ∧
      s.holds h (c.obj) = false ∧ (s.waitersAt (lineOf c.pa) false).length < 64) := by
  refine ⟨⟨st (busy) { cq := [xfer], running := List.replicate 8 xfer }, xfer, [], ?_⟩,
    ⟨st (busy) { cq := [xfer], running := List.replicate 7 xfer }, xfer, [], ?_⟩,
    ⟨st (busy) { cq := [{ xfer with pop := true }], fifo := [((xfer).popFifo.no, 16)] }, { xfer with pop := true }, [], ?_⟩,
    ⟨st (busy) { cq := [{ xfer with pop := true }] }, { xfer with pop := true }, [], ?_⟩,
    ⟨xferSt (xfer 1), xfer 1, ?_⟩,
    ⟨xferSt { xfer 1 with emitted := List.replicate 128 ⟨0, 0, 1, none⟩ }, { xfer 1 with emitted := List.replicate 128 ⟨0, 0, 1, none⟩ }, ?_⟩,
    ⟨xferSt { xfer 1 with untagged := [⟨0, 0, 1, none⟩] }, { xfer 1 with untagged := [⟨0, 0, 1, none⟩] }, ?_⟩,
    ⟨xferSt piece, piece, ⟨0, 0, 1, none⟩, [], { pa := 0, n := 1 }, { pa := 64, n := 1 }, (okOf (.feed 0, .feed 0, {}) ((xferSt piece).findPiece piece ⟨0, 0, 1, none⟩)).2.2, ?_⟩,
    ⟨xferSt (piece (xfer 0x1000000000000000000000000000000000010000000000004) 4), piece (xfer 0x1000000000000000000000000000000000010000000000004) 4, ⟨0, 0, 4, none⟩, [], { pa := 0, n := 4 }, { pa := 64, n := 4 }, (okOf (.feed 0, .feed 0, {}) ((xferSt (piece (xfer 0x1000000000000000000000000000000000010000000000004) 4)).findPiece (piece (xfer 0x1000000000000000000000000000000000010000000000004) 4) ⟨0, 0, 4, none⟩)).2.2, ?_⟩,
    ⟨{ xferSt (piece (xfer 0x4000000000000001 0xB000000000000000)) with links := [(11, { up := true, bnd := true })] }, piece (xfer 0x4000000000000001 0xB000000000000000), ⟨0, 0, 1, none⟩, [], 11, 0, { pa := 64, n := 1 }, (okOf (.feed 0, .feed 0, {}) (State.findPiece { xferSt (piece (xfer 0x4000000000000001 0xB000000000000000)) with links := [(11, { up := true, bnd := true })] } (piece (xfer 0x4000000000000001 0xB000000000000000)) ⟨0, 0, 1, none⟩)).2.2, ?_⟩,
    ⟨xferSt (piece (xfer 1 0x100000000000000)), piece (xfer 1 0x100000000000000), ⟨0, 0, 1, none⟩, [], 13, 0x100000000000000, .plain, ?_⟩,
    ⟨xferSt (done), done, ?_⟩,
    ⟨xferSt { done with push := true }, { done with push := true }, ?_⟩,
    ⟨xferSt (done (xfer 0x40000000000000000000000000000000000000000000000001)), done (xfer 0x40000000000000000000000000000000000000000000000001), { pa := 64, n := 32 }, foundSt ((State.stageXfer (xferSt (done (xfer 0x40000000000000000000000000000000000000000000000001))) 0 (done (xfer 0x40000000000000000000000000000000000000000000000001)) (.checked 0 0 none)).engineParts 16384 (xfer).req .store 0 0 false (lineParts 64 32)), ?_⟩,
    ⟨st { slide := some { group := 7, shape := 0, base := 0, bytes := [] } }, { group := 7, shape := 0, base := 0, bytes := [] }, ?_⟩,
    ⟨{ st { park := some (.acqBusy 1) } with time := 255 }, 1, ?_⟩,
    ⟨{ objSt [0x4000000000000000] (busy { park := some (.acqBusy 1) }) with time := 256 }, objAcc { objSt [0x4000000000000000] (busy { park := some (.acqBusy 1) }) with time := 256 }, {}, 1, ?_⟩,
    ⟨{ objSt [0x4000000180000000] (busy { park := some (.acqBusy 1) }) with time := 256 }, objAcc { objSt [0x4000000180000000] (busy { park := some (.acqBusy 1) }) with time := 256 }, {}, 1, ?_⟩⟩
  all_goals repeat' apply And.intro
  all_goals first | decide +kernel | rfl

/-- The hypotheses of RegisterWrites are met. -/
theorem test_meets_RegisterWrites :
    (∃ (s : State),
      let a := s.hart s.ev.h
      a.mode = Mode.s) ∧
    (∃ (s : State),
      let a := s.hart s.ev.h
      a.mode = Mode.u) ∧
    (∃ (s : State),
      let a := s.hart s.ev.h
      s.ev.k / 1024 = 3 ∨ a.mode = Mode.u ∧ s.ev.k / 256 % 4 ≠ 0) ∧
    (∃ (s : State), s.ev.k = 1) ∧
    (∃ (s : State), s.ev.k = 2) ∧
    (∃ (s : State), s.ev.k = 3) ∧
    (∃ (s : State), s.ev.k = 2244) ∧
    (∃ (s : State), s.ev.k = 2245) ∧
    (∃ (s : State), s.ev.k = 2246) ∧
    (∃ (s : State), s.ev.k = 2256) ∧
    (∃ (s : State), s.ev.k = 2257) ∧
    (∃ (s : State), s.ev.k = 2260) ∧
    (∃ (s : State),
      let a := s.hart s.ev.h
      a.mode = Mode.s ∧ s.ev.k = 260) ∧
    (∃ (s : State),
      let a := s.hart s.ev.h
      a.mode = Mode.s ∧ s.ev.k = 261) ∧
    (∃ (s : State),
      let a := s.hart s.ev.h
      a.mode = Mode.s ∧ s.ev.k = 320) ∧
    (∃ (s : State),
      let a := s.hart s.ev.h
      a.mode = Mode.s ∧ s.ev.k = 321) ∧
    (∃ (s : State),
      let a := s.hart s.ev.h
      a.mode = Mode.s ∧ s.ev.k = 324) ∧
    (∃ (s : State),
      let a := s.hart s.ev.h
      a.mode = Mode.s ∧ s.ev.k = 333) ∧
    (∃ (s : State), s.ev.c = false ∧ mmioReg s.ev.addr = none) ∧
    (∃ (s : State),
      let caps := fun (w : Writer) => s.ev.addr = 267181325549568 ∧ s.ev.size = 8 ∧ s.ev.writer = w
      s.ev.c = false ∧ caps Writer.host) ∧
    (∃ (s : State),
      let caps := fun (w : Writer) => s.ev.addr = 267181325549568 ∧ s.ev.size = 8 ∧ s.ev.writer = w
      ∃ (w : Writer), s.ev.c = false ∧ w ≠ Writer.host ∧ caps w) ∧
    (∃ (s : State) (k : Nat),
      s.ev.c = false ∧ k < 2 ^ 22 ∧ s.ev.addr = 268280837177344 + 8 * k ∧ s.ev.size = 8 ∧
      s.ev.writer ≠ Writer.quince) ∧
    (∃ (s : State) (k : Nat),
      s.ev.c = false ∧ k < 2 ^ 22 ∧ s.ev.addr = 268280837177344 + 8 * k ∧ s.ev.size = 8 ∧
      s.ev.writer = Writer.quince) ∧
    (∃ (s : State) (p : Nat),
      s.ev.c = false ∧ p < 16 ∧ s.ev.addr = 267181325549824 + 32 * p ∧ s.ev.size = 8 ∧ s.ev.writer = Writer.host) := by
  refine ⟨⟨st (super), ?_⟩,
    ⟨st {}, ?_⟩,
    ⟨{ st (super) with ev := { k := 0xC00 } }, ?_⟩,
    ⟨{ st {} with ev := { k := 1 } }, ?_⟩,
    ⟨{ st {} with ev := { k := 2 } }, ?_⟩,
    ⟨{ st {} with ev := { k := 3 } }, ?_⟩,
    ⟨{ st {} with ev := { k := 0x8C4 } }, ?_⟩,
    ⟨{ st {} with ev := { k := 0x8C5 } }, ?_⟩,
    ⟨{ st {} with ev := { k := 0x8C6 } }, ?_⟩,
    ⟨{ st {} with ev := { k := 0x8D0 } }, ?_⟩,
    ⟨{ st {} with ev := { k := 0x8D1 } }, ?_⟩,
    ⟨{ st {} with ev := { k := 0x8D4 } }, ?_⟩,
    ⟨{ st (super) with ev := { k := 0x104 } }, ?_⟩,
    ⟨{ st (super) with ev := { k := 0x105 } }, ?_⟩,
    ⟨{ st (super) with ev := { k := 0x140 } }, ?_⟩,
    ⟨{ st (super) with ev := { k := 0x141 } }, ?_⟩,
    ⟨{ st (super) with ev := { k := 0x144 } }, ?_⟩,
    ⟨{ st (super) with ev := { k := 0x14D } }, ?_⟩,
    ⟨st {}, ?_⟩,
    ⟨{ st {} with ev := { addr := 267181325549568, size := 8, writer := .host } }, ?_⟩,
    ⟨{ st {} with ev := { addr := 267181325549568, size := 8, writer := .quince } }, .quince, ?_⟩,
    ⟨{ st {} with ev := { addr := 268280837177344 + 8 * 4194303, size := 8, writer := .chinook } }, 4194303, ?_⟩,
    ⟨{ st {} with ev := { addr := 268280837177344 + 8 * 4194303, size := 8, writer := .quince } }, 4194303, ?_⟩,
    ⟨{ st {} with ev := { addr := 267181325549824 + 32 * 15, size := 8, writer := .host } }, 15, ?_⟩⟩
  all_goals decide +kernel

/-- The hypotheses of QueuesAndScheduler are met. -/
theorem test_meets_QueuesAndScheduler :
    ( ∃ (s : State),
      let q := s.ev.q
      let first := List.find? (fun (x : QWait) => decide (x.why = 0)) (s.queue q).waiters
      first = none) ∧
    ( ∃ (s : State) (w : QWait),
      let q := s.ev.q
      let first := List.find? (fun (x : QWait) => decide (x.why = 0)) (s.queue q).waiters
      first = some w ∧ s.enqStatus (s.partOf w.hart) q 1 0 = 1) ∧
    ( ∃ (s : State) (w : QWait),
      let q := s.ev.q
      let first := List.find? (fun (x : QWait) => decide (x.why = 0)) (s.queue q).waiters
      first = some w ∧ s.enqStatus (s.partOf w.hart) q 1 0 = 0) ∧
    ( ∃ (s : State) (w : QWait),
      let q := s.ev.q
      (s.queue q).waiters[s.ev.k]? = some w ∧ (w.why ≠ 1 ∨ s.time < w.since + 256)) ∧
    ( ∃ (s : State) (w : QWait),
      let q := s.ev.q
      let n := (s.queue q).recorded
      (s.queue q).waiters[s.ev.k]? = some w ∧ w.why = 1 ∧ w.since + 256 ≤ s.time ∧
      s.enqStatus (s.partOf w.hart) q 1 n = 0) ∧
    ( ∃ (s : State) (w : QWait),
      let q := s.ev.q
      let n := (s.queue q).recorded
      (s.queue q).waiters[s.ev.k]? = some w ∧ w.why = 1 ∧ w.since + 256 ≤ s.time ∧
      s.enqStatus (s.partOf w.hart) q 1 n = 1) ∧
    ( ∃ (s : State),
      let p := s.ev.p
      let q := s.ev.q
      let f := s.filterOf p q
      f.toNat / 2 ^ 16 % 2 ^ 8 = 0) ∧
    ( ∃ (s : State),
      let p := s.ev.p
      let q := s.ev.q
      let f := s.filterOf p q
      let b := s.buckets.get (filterKey p q) (0, 0)
      let level := min (f.toNat / 2 ^ 16 % 2 ^ 8 * 65536) (b.1 + f.toNat % 2 ^ 16 * (s.time - b.2))
      let first := List.find? (fun (w : QWait) => decide (w.why = 2) && decide (s.partOf w.hart = p)) (s.queue q).waiters
      f.toNat / 2 ^ 16 % 2 ^ 8 ≠ 0 ∧ (first = none ∨ level < 65536)) ∧
    ( ∃ (s : State) (w : QWait),
      let p := s.ev.p
      let q := s.ev.q
      let f := s.filterOf p q
      let b := s.buckets.get (filterKey p q) (0, 0)
      let level := min (f.toNat / 2 ^ 16 % 2 ^ 8 * 65536) (b.1 + f.toNat % 2 ^ 16 * (s.time - b.2))
      let first := List.find? (fun (w : QWait) => decide (w.why = 2) && decide (s.partOf w.hart = p)) (s.queue q).waiters
      f.toNat / 2 ^ 16 % 2 ^ 8 ≠ 0 ∧ first = some w ∧ 65536 ≤ level ∧ (s.queue q).part ≠ p ∧
      (s.queue q).tasks.length + (s.queue q).recorded + 1 ≤ (s.queue q).cap) ∧
    ( ∃ (s : State),
      let d := s.ev.p
      s.time < (s.die d).bindAt) ∧
    ( ∃ (s : State),
      let d := s.ev.p
      let u := List.foldl (fun (t : State) (e : ℕ × Queue) => if (e.2.exists_ && !(t.prt e.2.part).stopped) = true then t.noteFit e.1 else t) s s.queues
      (s.die d).bindAt ≤ s.time ∧ (s.die d).preload = [] ∧ u.choose d none 0 = none) ∧
    ( ∃ (s : State) (c : Choice),
      let d := s.ev.p
      let u := List.foldl (fun (t : State) (e : ℕ × Queue) => if (e.2.exists_ && !(t.prt e.2.part).stopped) = true then t.noteFit e.1 else t) s s.queues
      (s.die d).bindAt ≤ s.time ∧ (s.die d).preload = [] ∧ u.choose d none 0 = some c ∧
      (u.queue c.queue).waiters = []) ∧
    ( ∃ (s : State) (x : QTask),
      let q := s.ev.q
      let a := s.queue q
      a.tasks[s.ev.k]? = some x ∧ a.base x < 6 ∧ x.aged < 7 ∧ x.at_ + (x.aged + 1) * 2 ^ 18 ≤ s.time) ∧
    ( ∃ (s : State) (x : QTask),
      let q := s.ev.q
      let a := s.queue q
      a.tasks[s.ev.k]? = some x ∧ (6 ≤ a.base x ∨ 7 ≤ x.aged ∨ s.time < x.at_ + (x.aged + 1) * 2 ^ 18)) ∧
    ( ∃ (s : State) (x : QTask),
      let q := s.ev.q
      let a := s.queue q
      a.offered = some x ∧ List.find? (fun (y : QTask) => y.id == x.id) a.tasks = some x ∧ a.exists_ = true ∧
      (s.prt a.part).stopped = false ∧ (a.urgent x = false ∨ ∃ d < 4, (s.place d q x none).isSome = true)) ∧
    ( ∃ (s : State) (x : QTask),
      let q := s.ev.q
      let a := s.queue q
      a.offered = some x ∧ List.find? (fun (y : QTask) => y.id == x.id) a.tasks = some x ∧ a.exists_ = true ∧
      (s.prt a.part).stopped = false ∧ a.urgent x = true ∧ (∀ d < 4, s.place d q x none = none) ∧ x.nofit = none) ∧
    ( ∃ (s : State) (x : QTask),
      let q := s.ev.q
      let a := s.queue q
      ∃ (n : ℕ),
      a.offered = some x ∧ List.find? (fun (y : QTask) => y.id == x.id) a.tasks = some x ∧ a.exists_ = true ∧
      (s.prt a.part).stopped = false ∧ a.urgent x = true ∧ (∀ d < 4, s.place d q x none = none) ∧ x.nofit = some n ∧
      s.time < n + 2 ^ 17) ∧
    ( ∃ (s : State) (x : QTask) (h : ℕ),
      let q := s.ev.q
      let a := s.queue q
      let bindAt := (s.die (dieOf h)).bindAt
      ∃ (n : ℕ),
      a.offered = some x ∧ List.find? (fun (y : QTask) => y.id == x.id) a.tasks = some x ∧ a.exists_ = true ∧
      (s.prt a.part).stopped = false ∧ a.urgent x = true ∧ (∀ d < 4, s.place d q x none = none) ∧ x.nofit = some n ∧
      n + 2 ^ 17 ≤ s.time ∧ s.victim q x = some h ∧
      ((s.hart h).canLeave = false ∨ s.fillsDue h = true ∨ s.time < bindAt)) ∧
    ( ∃ (s : State) (x : QTask) (h : ℕ),
      let q := s.ev.q
      let a := s.queue q
      let bindAt := (s.die (dieOf h)).bindAt
      ∃ (n : ℕ),
      a.offered = some x ∧ List.find? (fun (y : QTask) => y.id == x.id) a.tasks = some x ∧ a.exists_ = true ∧
      (s.prt a.part).stopped = false ∧ a.urgent x = true ∧ (∀ d < 4, s.place d q x none = none) ∧ x.nofit = some n ∧
      n + 2 ^ 17 ≤ s.time ∧ s.victim q x = some h ∧ (s.hart h).canLeave = true ∧ s.fillsDue h = false ∧
      bindAt ≤ s.time ∧ a.waiters = []) ∧
    ( ∃ (s : State),
      let h := s.ev.h
      (s.hart h).task = none ∨ s.slotLoad h ≠ 1 ∨ s.overBudget h = true ∨ s.pickFor h = none) ∧
    ( ∃ (s : State) (c : Choice),
      let h := s.ev.h
      let d := dieOf h
      (s.hart h).task.isSome = true ∧ s.slotLoad h = 1 ∧ s.overBudget h = false ∧ s.pickFor h = some c ∧
      ∀ p ∈ (s.die d).preload, ¬(p.queue = c.queue ∧ p.id = c.task.id)) ∧
    ( ∃ (s : State),
      let h := s.ev.h
      s.overBudget h = false) ∧
    ( ∃ (s : State) (p : Preload),
      let h := s.ev.h
      s.overBudget h = true ∧ List.find? (fun (x : Preload) => x.hart == h) (s.die (dieOf h)).preload = some p) := by
  refine ⟨⟨waitSt [] [waiter 1], ?_⟩,
    ⟨waitSt [ready] [waiter 1, waiter 0], waiter 0, ?_⟩,
    ⟨waitSt [] [waiter 1, waiter 0], waiter 0, ?_⟩,
    ⟨{ waitSt [] [waiter 1] with time := 255 }, waiter 1, ?_⟩,
    ⟨{ waitSt [] [waiter 1] with time := 256 }, waiter 1, ?_⟩,
    ⟨{ waitSt [ready] [waiter 1] with time := 256 }, waiter 1, ?_⟩,
    ⟨st {}, ?_⟩,
    ⟨{ waitSt [] [waiter 2 32] with ev := { p := 1 }, filters := [(filterKey 1 0, 0x10001)], quads := [(1, { part := some 1 })], time := 65535 }, ?_⟩,
    ⟨{ waitSt [] [waiter 2 32] with ev := { p := 1 }, filters := [(filterKey 1 0, 0x10001)], quads := [(1, { part := some 1 })], time := 65536 }, waiter 2 32, ?_⟩,
    ⟨{ st {} with dies := [(0, { bindAt := 8 })], time := 7 }, ?_⟩,
    ⟨queued [] {}, ?_⟩,
    ⟨queued [ready] {}, ⟨0, ready, 0⟩, ?_⟩,
    ⟨{ queued [ready] with time := 0x40000 }, ready, ?_⟩,
    ⟨{ queued [ready] with time := 0x3FFFF }, ready, ?_⟩,
    ⟨queued [ready 7], ready 7, ?_⟩,
    ⟨crowded, ready 7, ?_⟩,
    ⟨crowded none (some 0xFFFFFF), { ready 7 with nofit := some 0xFFFFFF }, 0xFFFFFF, ?_⟩,
    ⟨crowded (some .faultPoint) (some 0), { ready 7 with nofit := some 0 }, 0, 0, ?_⟩,
    ⟨crowded none (some 0), { ready 7 with nofit := some 0 }, 0, 0, ?_⟩,
    ⟨st {}, ?_⟩,
    ⟨queued [ready], ⟨0, ready, 0⟩, ?_⟩,
    ⟨st {}, ?_⟩,
    ⟨{ queued [] with queues := [(0, { w0 := 0x8000000000010000 })], dies := [(0, { preload := [⟨0, 7, 0, none⟩] })], time := 65537 }, ⟨0, 7, 0, none⟩, ?_⟩⟩
  all_goals decide +kernel

/-- The hypotheses of PartitionsMove are met. -/
theorem test_meets_PartitionsMove :
    ( ∃ (s : State),
      let p := s.ev.p
      (s.prt p).stopped = true) ∧
    ( ∃ (s : State),
      let p := s.ev.p
      (s.prt p).stopped = false) ∧
    ( ∃ (s : State),
      let p := s.ev.p
      (s.prt p).stopped = false ∨ ∃ x ∈ s.saved, x.part = p) ∧
    ( ∃ (s : State),
      let p := s.ev.p
      (s.prt p).stopped = true ∧ ∀ x ∈ s.saved, x.part ≠ p) ∧
    ( ∃ (s : State),
      let q := s.ev.q
      s.quadIdle q = false ∧ s.quadStopped q = false) ∧
    ( ∃ (s : State),
      let q := s.ev.q
      q < Config.quads ∧ s.ev.p < 16 ∧ s.ev.b = false ∧ (s.quad q).part ≠ some s.ev.p ∧ s.quadIdle q = true ∧
      s.quadStopped q = false ∧ ∀ x ∈ s.saved, ¬(x.quad = q ∧ x.part = s.ev.p)) ∧
    ( ∃ (s : State),
      let f := s.ev.p
      f = 0 ∨ Config.functions < f) ∧
    ( ∃ (s : State),
      let f := s.ev.p
      let fn := fun (t : State) => t.funcs.get f { }
      1 ≤ f ∧ f ≤ Config.functions ∧ (fn s).resetting = false) ∧
    ( ∃ (s : State),
      let f := s.ev.p
      let qs := s.funcQueues f
      let fn := fun (t : State) => t.funcs.get f { }
      ∃ (q : ℕ) (x : QTask) (rest : List QTask), 1 ≤ f ∧ f ≤ Config.functions ∧ (fn s).resetting = true ∧
      List.find? (fun (q : ℕ) => !(s.queue q).tasks.isEmpty) qs = some q ∧ (s.queue q).tasks = x :: rest ∧
      (s.queue q).lfr = 0) ∧
    ( ∃ (s : State),
      let f := s.ev.p
      let qs := s.funcQueues f
      let fn := fun (t : State) => t.funcs.get f { }
      1 ≤ f ∧ f ≤ Config.functions ∧ (fn s).resetting = true ∧ (∀ q ∈ qs, (s.queue q).tasks = []) ∧
      s.funcHarts qs = [] ∧ s.yielded = [] ∧ s.savedTask qs = none ∧ s.ev.stuck = []) ∧
    ( ∃ (s : State) (k : Task),
      let h := s.ev.h
      let a := s.hart h
      a.task = some k ∧ a.park = none) ∧
    ( ∃ (s : State) (k : Task),
      let h := s.ev.h
      let a := s.hart h
      a.task = some k ∧ a.park = some Park.chinook ∧ a.xv 17 ≠ 0) ∧
    ( ∃ (s : State) (k : Task),
      let h := s.ev.h
      let a := s.hart h
      a.task = some k ∧ a.park = some Park.chinook ∧ a.xv 17 = 0 ∧ (∀ c ∈ (s.quad (quadOf h)).mq, c.hart ≠ h) ∧
      s.tilesBusy h k.id = false ∧ (s.queue k.queue).lfr = 0 ∧ ∀ y ∈ s.yielded, y.slot ≠ h) := by
  refine ⟨⟨{ st {} with parts := [(0, { stopped := true })] }, ?_⟩,
    ⟨st {}, ?_⟩,
    ⟨st {}, ?_⟩,
    ⟨{ st {} with parts := [(0, { stopped := true })] }, ?_⟩,
    ⟨st (busy), ?_⟩,
    ⟨{ st {} with ev := { p := 15 } }, ?_⟩,
    ⟨{ st {} with ev := { p := 193 } }, ?_⟩,
    ⟨{ st {} with ev := { p := 192 } }, ?_⟩,
    ⟨resetSt [ready], 0, ready, [], ?_⟩,
    ⟨resetSt [], ?_⟩,
    ⟨st (busy), {}, ?_⟩,
    ⟨st (calling 1), {}, ?_⟩,
    ⟨st (calling 0), {}, ?_⟩⟩
  all_goals decide +kernel

/-- The hypotheses of ChinookCalls are met. -/
theorem test_meets_ChinookCalls :
    (
      let calls := fun (s : State) (n : Word) => (s.hart s.ev.h).park = some Park.chinook ∧ (s.hart s.ev.h).xv 17 = n
      ∃ (s : State), ¬calls s 1) ∧
    (
      let calls := fun (s : State) (n : Word) => (s.hart s.ev.h).park = some Park.chinook ∧ (s.hart s.ev.h).xv 17 = n
      ∃ (s : State), ¬calls s 2) ∧
    (
      let calls := fun (s : State) (n : Word) => (s.hart s.ev.h).park = some Park.chinook ∧ (s.hart s.ev.h).xv 17 = n
      ∃ (s : State), ¬calls s 3) ∧
    (
      let calls := fun (s : State) (n : Word) => (s.hart s.ev.h).park = some Park.chinook ∧ (s.hart s.ev.h).xv 17 = n
      ∃ (s : State),
      let h := s.ev.h
      let a := s.hart h
      let f := BitVec.toNat (a.xv 11)
      let p := s.partOf h
      calls s 1 ∧ (s.funcs.get f { }).part = some p) ∧
    (
      let calls := fun (s : State) (n : Word) => (s.hart s.ev.h).park = some Park.chinook ∧ (s.hart s.ev.h).xv 17 = n
      ∃ (s : State),
      let h := s.ev.h
      let a := s.hart h
      let f := BitVec.toNat (a.xv 11)
      let p := s.partOf h
      calls s 1 ∧ (s.funcs.get f { }).part ≠ some p) ∧
    (
      let calls := fun (s : State) (n : Word) => (s.hart s.ev.h).park = some Park.chinook ∧ (s.hart s.ev.h).xv 17 = n
      ∃ (s : State),
      let h := s.ev.h
      let a := s.hart h
      let n := BitVec.toNat (a.xv 10)
      let p := s.partOf h
      calls s 2 ∧ n < 12288 ∧ s.partOf n = p) ∧
    (
      let calls := fun (s : State) (n : Word) => (s.hart s.ev.h).park = some Park.chinook ∧ (s.hart s.ev.h).xv 17 = n
      ∃ (s : State),
      let h := s.ev.h
      let a := s.hart h
      let n := BitVec.toNat (a.xv 10)
      let p := s.partOf h
      calls s 2 ∧ (12288 ≤ n ∨ s.partOf n ≠ p)) ∧
    (
      let calls := fun (s : State) (n : Word) => (s.hart s.ev.h).park = some Park.chinook ∧ (s.hart s.ev.h).xv 17 = n
      ∃ (s : State), calls s 3) ∧
    (∃ (s : State),
      let n := match s.ev.src with
        | ExtSource.errorLog => 1
        | ExtSource.linkChange => 2
        | ExtSource.mistral => 3
      s.ev.p < 16 ∧ n ∈ (s.prt s.ev.p).sources) ∧
    (∃ (s : State),
      let n := match s.ev.src with
        | ExtSource.errorLog => 1
        | ExtSource.linkChange => 2
        | ExtSource.mistral => 3
      s.ev.p < 16 ∧ ¬n ∈ (s.prt s.ev.p).sources) := by
  refine ⟨⟨st {}, ?_⟩,
    ⟨st {}, ?_⟩,
    ⟨st {}, ?_⟩,
    ⟨{ st (calling 1 (withX 11 1)) with funcs := [(1, { part := some 0 })] }, ?_⟩,
    ⟨st (calling 1 (withX 11 1)), ?_⟩,
    ⟨st (calling 2 (withX 10 31)), ?_⟩,
    ⟨st (calling 2 (withX 10 12288)), ?_⟩,
    ⟨st (calling 3), ?_⟩,
    ⟨{ st {} with ev := { src := .mistral }, parts := [(0, { sources := [3] })] }, ?_⟩,
    ⟨{ st {} with ev := { p := 15, src := .mistral } }, ?_⟩⟩
  all_goals decide +kernel

/-- The hypotheses of ModuleAndPeers are met. -/
theorem test_meets_ModuleAndPeers :
    (∃ (s : State), s.ev.p < 4) ∧
    ( ∃ (s : State),
      let n := match s.ev.img with
        | FwImage.quince => 0
        | FwImage.chinook => 1
        | FwImage.mistral => 2
        | FwImage.security => 3
      let known := ∃ v ∈ s.sec.versions, v.1 = 0
      n ≠ 0 ∧ ¬known) ∧
    ( ∃ (s : State),
      let n := match s.ev.img with
        | FwImage.quince => 0
        | FwImage.chinook => 1
        | FwImage.mistral => 2
        | FwImage.security => 3
      let known := ∃ v ∈ s.sec.versions, v.1 = 0
      (n = 0 ∨ known) ∧ s.ev.b = true ∧ s.sec.fused ≤ s.ev.v.toNat) ∧
    ( ∃ (s : State),
      let n := match s.ev.img with
        | FwImage.quince => 0
        | FwImage.chinook => 1
        | FwImage.mistral => 2
        | FwImage.security => 3
      let known := ∃ v ∈ s.sec.versions, v.1 = 0
      (n = 0 ∨ known) ∧ (s.ev.b = false ∨ s.ev.v.toNat < s.sec.fused)) ∧
    (∃ (s : State) (x : Turn) (rest : List Turn),
      s.sec.recovery = true ∧ s.agenda = x :: rest ∧
      ¬ ((∃ a, x = .event .spdmRequest a) ∨ (∃ a, x = .event .firmwareVerify a) ∨ ∃ n, x = .advance n)) ∧
    (∃ (s : State) (a : EvArg) (rest : List Turn), s.sec.recovery = true ∧ s.agenda = .event .spdmRequest a :: rest) ∧
    ( ∃ (s : State),
      let l := s.ev.p
      let k := s.links.get l { }
      12 ≤ l ∨ k.up = s.ev.b) ∧
    ( ∃ (s : State),
      let l := s.ev.p
      let k := s.links.get l { }
      l < 12 ∧ k.up ≠ s.ev.b) ∧
    ( ∃ (s : State),
      let l := s.ev.p
      let k := s.links.get l { }
      l < 12 ∧ (k.up = false ∨ k.bnd = false)) ∧
    ( ∃ (s : State),
      let l := s.ev.p
      let k := s.links.get l { }
      let agent := 65536 + l
      ∃ (q : Req) (c : ℕ) (w : Why),
      l < 12 ∧ k.up = true ∧ k.bnd = true ∧ s.peerReq l k = some q ∧ s.ev.bytes = none ∧
      s.engineAccess agent q s.ev.v AccKind.load 0 = EAcc.fail c w ∧ c ≠ 25) ∧
    ( ∃ (s : State),
      let l := s.ev.p
      let k := s.links.get l { }
      let agent := 65536 + l
      ∃ (q : Req) (b : List Byte) (c : ℕ) (w : Why),
      l < 12 ∧ k.up = true ∧ k.bnd = true ∧ s.peerReq l k = some q ∧ s.ev.bytes = some b ∧
      s.engineAccess agent q s.ev.v AccKind.store 0 = EAcc.fail c w) ∧
    ( ∃ (s : State),
      let l := s.ev.p
      let k := s.links.get l { }
      let agent := 65536 + l
      ∃ (q : Req) (c : Acc),
      l < 12 ∧ k.up = true ∧ k.bnd = true ∧ s.peerReq l k = some q ∧ s.ev.bytes = none ∧
      s.engineAccess agent q s.ev.v AccKind.load 0 = EAcc.ok c ∧ c.e.frozen = true ∧
      s.pageLocked (pageOf c.pa) = true) ∧
    ( ∃ (s : State),
      let l := s.ev.p
      let k := s.links.get l { }
      let agent := 65536 + l
      ∃ (q : Req) (c : Acc),
      let n := min s.ev.size (64 - s.ev.v.toNat % 64)
      l < 12 ∧ k.up = true ∧ k.bnd = true ∧ s.peerReq l k = some q ∧ s.ev.bytes = none ∧
      s.engineAccess agent q s.ev.v AccKind.load 0 = EAcc.ok c ∧ isMmio c.pa = false ∧
      (c.e.frozen = true → s.pageLocked (pageOf c.pa) = false) ∧ s.badRange c.pa n = false) ∧
    ( ∃ (s : State),
      let l := s.ev.p
      let k := s.links.get l { }
      let agent := 65536 + l
      ∃ (q : Req) (g : Nat),
      l < 12 ∧ k.up = true ∧ k.bnd = true ∧ s.peerReq l k = some q ∧
      s.engineAccess agent q s.ev.v (if s.ev.bytes.isSome then .store else .load) 0 = .miss g) ∧
    ( ∃ (s : State),
      let l := s.ev.p
      let k := s.links.get l { }
      let agent := 65536 + l
      ∃ (q : Req) (c : Acc) (b : List Byte),
      l < 12 ∧ k.up = true ∧ k.bnd = true ∧ s.peerReq l k = some q ∧ s.ev.bytes = some b ∧
      s.engineAccess agent q s.ev.v AccKind.store 0 = EAcc.ok c ∧ isMmio c.pa = false) ∧
    ( ∃ (s : State),
      let coll := BitVec.setWidth 16 s.ev.v
      coll = 0) ∧
    ( ∃ (s : State),
      let coll := BitVec.setWidth 16 s.ev.v
      coll ≠ 0) := by
  refine ⟨⟨{ st {} with ev := { p := 3 } }, ?_⟩,
    ⟨{ st {} with ev := { img := .security } }, ?_⟩,
    ⟨{ st {} with ev := { img := .quince, b := true } }, ?_⟩,
    ⟨st {}, ?_⟩,
    ⟨{ st {} with sec := { recovery := true }, agenda := [.issue 0] }, .issue 0, [], ?_⟩,
    ⟨{ st {} with sec := { recovery := true }, agenda := [.event .spdmRequest {}] }, {}, [], ?_⟩,
    ⟨{ st {} with ev := { p := 11 } }, ?_⟩,
    ⟨{ st {} with ev := { p := 11, b := true } }, ?_⟩,
    ⟨{ st {} with ev := { p := 11 } }, ?_⟩,
    ⟨linkSt 0x100000000000000 none, peerQ, 13, .plain, ?_⟩,
    ⟨linkSt 0x100000000000000 (some [7]), peerQ, [7], 15, .plain, ?_⟩,
    ⟨{ mapped (busy) (page 0 true) with links := [(11, { up := true, bnd := true })], freezes := [{ fop false with pages := [(0, 1)] }], ev := { p := 11, v := 8, size := 8 } }, peerQ, accE (State.engineAccess { mapped (busy) (page 0 true) with links := [(11, { up := true, bnd := true })], freezes := [{ fop false with pages := [(0, 1)] }], ev := { p := 11, v := 8, size := 8 } } 65547 (peerQ) 8 .load 0), ?_⟩,
    ⟨linkSt 8 none, peerQ, accE ((linkSt 8 none).engineAccess 65547 (peerQ) 8 .load 0), ?_⟩,
    ⟨{ st busy with links := [(11, { up := true, bnd := true })], ev := { p := 11, v := 8, size := 8 } }, peerQ, 0, ?_⟩,
    ⟨linkSt 8 (some [7]), peerQ, accE ((linkSt 8 (some [7])).engineAccess 65547 (peerQ) 8 .store 0), [7], ?_⟩,
    ⟨st {}, ?_⟩,
    ⟨{ st {} with ev := { v := 65535 } }, ?_⟩⟩
  all_goals repeat' apply And.intro
  all_goals first | decide +kernel | rfl | rintro _ (rfl | rfl) | (rintro (⟨_, h⟩ | ⟨_, h⟩ | ⟨_, h⟩) <;> cases h)

/-- The hypotheses of RoundTrip are met. -/
theorem test_meets_RoundTrip :
    (∃ (i : Instr), i.WellFormed ∧ i.Encoded) := by
  refine ⟨.takingAdd true true 31 31 31, ⟨rfl, show _ ≠ 0 by decide⟩⟩

/-- The hypotheses of StepRunsDecoded are met. -/
theorem test_meets_StepRunsDecoded :
    ( ∃ (s u : State) (h n w : ℕ) (rest : List Turn),
      let at_ := { s with cur := h, agenda := rest }
      ∃ (i : Instr) (l : List Byte),
      s.agenda = Turn.issue h :: rest ∧ s.sec.recovery = false ∧ s.mayIssue h = true ∧ (s.hart h).resuming = false ∧
      at_.fetchRaw = .ok (n, w, u) ∧ decode (wordBytes n w) = .ok (i, l)) ∧
    ( ∃ (s u : State) (h n w : ℕ) (rest : List Turn),
      let at_ := { s with cur := h, agenda := rest }
      ∃ (r : Reject),
      s.agenda = Turn.issue h :: rest ∧ s.sec.recovery = false ∧ s.mayIssue h = true ∧ (s.hart h).resuming = false ∧
      at_.fetchRaw = .ok (n, w, u) ∧ decode (wordBytes n w) = .error r) ∧
    (∃ (s : State) (h : ℕ) (rest : List Turn),
      s.agenda = Turn.issue h :: rest ∧ s.sec.recovery = false ∧ s.mayIssue h = false) ∧
    (∃ (s : State) (i : Instr) (a : EvArg) (rest : List Turn),
      s.agenda = Turn.event i a :: rest ∧ s.sec.recovery = false ∧ i.len = 0) ∧
    (∃ (s t : State) (e : TlbEntry) (pa : ℕ),
      s.translate (s.reqOf s.cur) s.me.pc AccKind.fetch = Trans.ok e pa t ∧
      (∀ l ∈ (t.core (coreOf s.cur)).l1i, l.1 ≠ lineOf pa) ∧ pa % 64 ≤ 62 ∧ isMmio pa = false ∧
      t.bias.get (pageOf pa) 0 < 2 ∧ t.mustSnoop s.cur pa false = false ∧ t.badLine (lineOf pa) = false ∧
      t.mem.readN pa 2 % 4 ≠ 3) := by
  refine ⟨⟨fetching 0x13, fetched 0x13, 0, 4, 0x13, [], .scalarAlu (.imm .addi 0 0 0), [], ?_⟩,
    ⟨fetching 0, fetched 0, 0, 2, 0, [], .unassigned, ?_⟩,
    ⟨{ st {} with agenda := [.issue 0] }, 0, [], ?_⟩,
    ⟨{ st {} with agenda := [.event .bankPowerOff {}] }, .bankPowerOff, {}, [], ?_⟩,
    ⟨mapped (busy), mapped (busy), page, 0, ?_⟩⟩
  all_goals decide +kernel

/-- The hypotheses of NothingStops are met. -/
theorem test_meets_NothingStops :
    (∃ (s : State), s.sec.recovery = false) := by
  refine ⟨State.reset, ?_⟩
  all_goals decide +kernel

/-- The hypotheses of MemoriesStayCanonical are met. -/
theorem test_meets_MemoriesStayCanonical :
    (∃ (s t : State), s.MemCanonical ∧ step s = Host.Outcome.next t) := by
  refine ⟨State.reset, nextOf (step State.reset), ?_⟩
  all_goals repeat' apply And.intro
  all_goals first | decide +kernel | rfl

/-- The hypotheses of ScalarFrame are met. -/
theorem test_meets_ScalarFrame :
    (∃ (s t : State) (a : AluInstr), exec (Instr.scalarAlu a) s = Host.Outcome.next t) := by
  refine ⟨st (withX 1 7), nextOf (exec (.scalarAlu (.imm .addi 31 1 5)) (st (withX 1 7))), .imm .addi 31 1 5, ?_⟩
  all_goals first | decide +kernel | rfl

end Sys2Proof.Tests
end

section
/-!
SUPPORT. What a step may write of the device's two memories. `Kept M T s u` says that `u` follows `s` with memory as it was, or written
where `M` allows it, and tile storage as it was, or written where `T` allows it; every write that is allowed keeps the canonical form
(log 3). One lemma for each operation of the model, in the model's order: what holds of the state an operation starts from holds
of the state it answers.
-/
namespace Sys2Proof.Machine

/-! ### The relation -/

/-- One memory before and after: the same, or where writes are allowed, canonical if it was. -/
def Memory.Kept (w : Bool) (m n : Memory) : Prop := n = m ∨ (w = true ∧ (m.wf = true → n.wf = true))

/-- A state that follows another, of whose memories it may have written those that `M` and `T` allow. -/
structure Kept (M T : Bool) (s u : State) : Prop where
  mem : s.mem.Kept M u.mem
  tmem : s.tmem.Kept T u.tmem

/-- What a meaning answers follows `s`. -/
def Leads (M T : Bool) (s : State) (r : Res) : Prop := ∀ u, r = .next u → Kept M T s u

theorem Memory.Kept.wf {w : Bool} {m n : Memory} (h : m.Kept w n) (k : m.wf = true) : n.wf = true := by
  rcases h with rfl | ⟨-, h⟩
  · exact k
  · exact h k

theorem Memory.Kept.trans {w : Bool} {l m n : Memory} (a : l.Kept w m) (b : m.Kept w n) : l.Kept w n := by
  rcases b with rfl | ⟨hw, b⟩
  · exact a
  · exact .inr ⟨hw, fun k => b (a.wf k)⟩

theorem Kept.refl {M T : Bool} (s : State) : Kept M T s s := ⟨.inl rfl, .inl rfl⟩

theorem Kept.trans {M T : Bool} {s u v : State} (a : Kept M T s u) (b : Kept M T u v) : Kept M T s v :=
  ⟨a.mem.trans b.mem, a.tmem.trans b.tmem⟩

/-- The canonical form goes along. -/
theorem Kept.canonical {M T : Bool} {s u : State} (h : Kept M T s u) (k : s.MemCanonical) : u.MemCanonical :=
  ⟨h.mem.wf k.1, h.tmem.wf k.2⟩

/-- Where no write of memory is allowed, it is as it was. -/
theorem Kept.mem_eq {T : Bool} {s u : State} (h : Kept false T s u) : u.mem = s.mem := by
  rcases h.mem with h | ⟨h, -⟩
  · exact h
  · cases h

/-- Where no write of tile storage is allowed, it is as it was. -/
theorem Kept.tmem_eq {M : Bool} {s u : State} (h : Kept M false s u) : u.tmem = s.tmem := by
  rcases h.tmem with h | ⟨h, -⟩
  · exact h
  · cases h

section
-- `same` fills its proofs with a tactic of its own, for which every theorem would else wait in a thread of its own
set_option Elab.async false
variable {M T : Bool} {s₀ s : State}

/-- A change of anything but the memories. -/
theorem Kept.same {v : State} (k : Kept M T s₀ s) (e : v.mem = s.mem := by rfl) (f : v.tmem = s.tmem := by rfl) : Kept M T s₀ v :=
  ⟨e ▸ k.mem, f ▸ k.tmem⟩

theorem Kept.cached {v : State} (k : Kept M T s₀ s) (c : Cached s v) : Kept M T s₀ v := k.same c.fields.2.1 c.fields.2.2.1

theorem Kept.butResv {v : State} (k : Kept M T s₀ s) (c : SameButResv s v) : Kept M T s₀ v := k.same c.mem c.tmem

theorem Kept.ite {c : Prop} [Decidable c] {u v : State} (a : Kept M T s₀ u) (b : Kept M T s₀ v) :
    Kept M T s₀ (if c then u else v) := by split <;> assumption

theorem Kept.foldl {α : Type} {f : State → α → State} {l : List α} (k : Kept M T s₀ s)
    (h : ∀ {v : State} (x : α), Kept M T s₀ v → Kept M T s₀ (f v x)) : Kept M T s₀ (l.foldl f s) := by
  induction l generalizing s with
  | nil => exact k
  | cons x l ih => exact ih (h x k)

/-- A fold over a pair whose second half is the state. -/
theorem Kept.foldlSnd {α β : Type} {f : β × State → α → β × State} {l : List α} {b : β} (k : Kept M T s₀ s)
    (h : ∀ {q : β × State} (x : α), Kept M T s₀ q.2 → Kept M T s₀ (f q x).2) : Kept M T s₀ (l.foldl f (b, s)).2 := by
  induction l generalizing b s with
  | nil => exact k
  | cons x l ih => exact ih (b := (f (b, s) x).1) (h (q := (b, s)) x k)

/-- A fold over a pair whose first half is the state. -/
theorem Kept.foldlFst {α β : Type} {f : State × β → α → State × β} {l : List α} {b : β} (k : Kept M T s₀ s)
    (h : ∀ {q : State × β} (x : α), Kept M T s₀ q.1 → Kept M T s₀ (f q x).1) : Kept M T s₀ (l.foldl f (s, b)).1 := by
  induction l generalizing b s with
  | nil => exact k
  | cons x l ih => exact ih (b := (f (s, b) x).2) (h (q := (s, b)) x k)

theorem Kept.ofPair {β : Type} {p : β × State} {b : β} {v : State} (k : Kept M T s₀ p.2) (e : p = (b, v)) : Kept M T s₀ v := by
  subst e
  exact k

theorem Kept.next (k : Kept M T s₀ s) : Leads M T s₀ (.next s) := by
  intro u h
  cases h
  exact k

theorem Leads.ite {c : Prop} [Decidable c] {a b : Res} (ha : Leads M T s₀ a) (hb : Leads M T s₀ b) :
    Leads M T s₀ (if c then a else b) := by split <;> assumption

/-- A memory folded with writes that keep its form. -/
theorem Memory.wf_foldl {α : Type} {f : Memory → α → Memory} {l : List α} {m : Memory} (w : m.wf = true)
    (h : ∀ {n : Memory} (x : α), n.wf = true → (f n x).wf = true) : (l.foldl f m).wf = true := by
  induction l generalizing m with
  | nil => exact w
  | cons x l ih => exact ih (h x w)

/-- A write of memory keeps its form. -/
theorem Kept.writeMem {v : State} (k : Kept true T s₀ s) (e : s.mem.wf = true → v.mem.wf = true) (f : v.tmem = s.tmem := by rfl) :
    Kept true T s₀ v := ⟨.inr ⟨rfl, fun h => e (k.mem.wf h)⟩, f ▸ k.tmem⟩

/-- A write of tile storage keeps its form. -/
theorem Kept.writeTile {v : State} (k : Kept M true s₀ s) (e : s.tmem.wf = true → v.tmem.wf = true) (f : v.mem = s.mem := by rfl) :
    Kept M true s₀ v := ⟨f ▸ k.mem, .inr ⟨rfl, fun h => e (k.tmem.wf h)⟩⟩

/-! ### The state's own updates -/

theorem Kept.setHart {h : Nat} {a : Hart} (k : Kept M T s₀ s) : Kept M T s₀ (s.setHart h a) := k.same
theorem Kept.updHart {h : Nat} {f : Hart → Hart} (k : Kept M T s₀ s) : Kept M T s₀ (s.updHart h f) := k.same
theorem Kept.updMe {f : Hart → Hart} (k : Kept M T s₀ s) : Kept M T s₀ (s.updMe f) := k.same
theorem Kept.mapHarts {f : Nat → Hart → Hart} (k : Kept M T s₀ s) : Kept M T s₀ (s.mapHarts f) := k.same
theorem Kept.updQuad {q : Nat} {f : Quad → Quad} (k : Kept M T s₀ s) : Kept M T s₀ (s.updQuad q f) := k.same
theorem Kept.updCore {c : Nat} {f : Core → Core} (k : Kept M T s₀ s) : Kept M T s₀ (s.updCore c f) := k.same
theorem Kept.updDie {d : Nat} {f : Die → Die} (k : Kept M T s₀ s) : Kept M T s₀ (s.updDie d f) := k.same
theorem Kept.updPart {p : Nat} {f : Part → Part} (k : Kept M T s₀ s) : Kept M T s₀ (s.updPart p f) := k.same
theorem Kept.updQueue {q : Nat} {f : Queue → Queue} (k : Kept M T s₀ s) : Kept M T s₀ (s.updQueue q f) := k.same
theorem Kept.emit {o : Out} (k : Kept M T s₀ s) : Kept M T s₀ (s.emit o) := k.same

/-! ### Taking an exception and returning from one (R184, R185) -/

theorem Kept.trap {cause : Nat} {tval : Word} (k : Kept M T s₀ s) : Leads M T s₀ (s.trap cause tval) := k.same.next
theorem Kept.trapAt {cause : Nat} {tval : Word} {eix : Nat} (k : Kept M T s₀ s) : Leads M T s₀ (s.trapAt cause tval eix) := k.same.next
theorem Kept.illegal {i : Instr} (k : Kept M T s₀ s) : Leads M T s₀ (s.illegal i) := k.trap

/-! ### Telling of errors and breaches (R20, R81) -/

theorem Kept.logError {q : Nat} {e : ErrRec} (k : Kept M T s₀ s) : Kept M T s₀ (s.logError q e) := by
  unfold State.logError
  dsimp only
  split <;> exact k.same

theorem Kept.logUse {h unit cause pa : Nat} (k : Kept M T s₀ s) : Kept M T s₀ (s.logUse h unit cause pa) := k.logError

theorem Kept.tell {h cause : Nat} {va : Word} {w : Why} (k : Kept M T s₀ s) : Kept M T s₀ (s.tell h cause va w) := by
  unfold State.tell
  split
  · exact k
  · exact k.same
  · exact k.logUse

/-! ### Parking (R175) -/

theorem Kept.sendSnoop {who line : Nat} {inv : Bool} (k : Kept M T s₀ s) : Kept M T s₀ (s.sendSnoop who line inv) := Kept.ite k k.same

theorem Kept.parkMsg {p : Park} (k : Kept M T s₀ s) : Kept M T s₀ (s.parkMsg p) := by
  unfold State.parkMsg
  split
  · exact Kept.ite k k.same
  · exact k.sendSnoop
  · exact k

theorem Kept.parks {p : Park} (k : Kept M T s₀ s) : Leads M T s₀ (s.parks p) := k.parkMsg.updMe.next

theorem Kept.stop {st : Stop} (k : Kept M T s₀ s) : Leads M T s₀ (s.stop st) := by
  unfold State.stop
  split
  · exact k.parks
  · exact k.trap
  · exact k.trapAt
  · exact k.tell.trapAt
  · exact k.same.trapAt

theorem Kept.guarded {checks : List (Option Stop)} {go : Res} (k : Kept M T s₀ s) (k1 : Leads M T s₀ go) :
    Leads M T s₀ (s.guarded checks go) := by
  unfold State.guarded
  split
  · exact k.stop
  · exact k1

theorem Kept.parksFor {dst : List (RFile × Nat)} {p : Park} (k : Kept M T s₀ s) : Leads M T s₀ (s.parksFor dst p) :=
  Leads.ite k.parks k.same.parks

theorem Kept.stopFor {dst : List (RFile × Nat)} {st : Stop} (k : Kept M T s₀ s) : Leads M T s₀ (s.stopFor dst st) := by
  unfold State.stopFor
  split
  · exact k.parksFor
  · exact k.stop

theorem Kept.advance {n : Nat} (k : Kept M T s₀ s) : Kept M T s₀ (s.advance n) := k.same

/-! ### Reading -/

theorem Kept.repoint {q : Nat} (k : Kept M T s₀ s) : Kept M T s₀ (s.repoint q) := k.same

theorem Kept.regReadEffect {x2 : MReg} (k : Kept M T s₀ s) : Kept M T s₀ (s.regReadEffect x2) := by
  unfold State.regReadEffect
  split
  · exact k.same
  · exact k.same
  · exact k

theorem Kept.mmioRead {pa n : Nat} (k : Kept M T s₀ s) : Kept M T s₀ (s.mmioRead pa n).2 := by
  unfold State.mmioRead
  split
  · exact k
  · exact k.regReadEffect

/-! ### Writing -/

theorem Kept.beginRole {q w r : Nat} (k : Kept M T s₀ s) : Kept M T s₀ (s.beginRole q w r) := k.same
theorem Kept.wroleWay {q v w : Nat} (k : Kept M T s₀ s) : Kept M T s₀ (s.wroleWay q v w) := Kept.ite k.same (Kept.ite k.same k)
theorem Kept.wroleWrite {q v : Nat} (k : Kept M T s₀ s) : Kept M T s₀ (s.wroleWrite q v) := k.foldl fun _ k₁ => k₁.wroleWay

theorem Kept.swrWrite {q v : Nat} (k : Kept M T s₀ s) : Kept M T s₀ (s.swrWrite q v) :=
  k.same.foldl fun _ k₁ => Kept.ite k₁.same (Kept.ite k₁.same k₁)

theorem Kept.logEvent {w : Word} (k : Kept M T s₀ s) : Kept M T s₀ (s.logEvent w) := Kept.ite k.same k
theorem Kept.startSweep {d : Nat} (k : Kept M T s₀ s) : Kept M T s₀ (s.startSweep d) := k.same
theorem Kept.tlvlWrite {q v : Nat} (k : Kept M T s₀ s) : Kept M T s₀ (s.tlvlWrite q v) := Kept.ite k k.same
theorem Kept.holdFailed {q : Nat} (k : Kept M T s₀ s) : Kept M T s₀ (s.holdFailed q) := Kept.ite k.same.logEvent k
theorem Kept.sfailWrite {q v : Nat} (k : Kept M T s₀ s) : Kept M T s₀ (s.sfailWrite q v) := k.same.holdFailed.repoint

/-! ### Idle states (R399) -/

theorem Kept.raiseIdle {q n : Nat} (k : Kept M T s₀ s) : Kept M T s₀ (s.raiseIdle q n) := Kept.ite k.same k.same
theorem Kept.limitIdle {qs : List Nat} (k : Kept M T s₀ s) : Kept M T s₀ (s.limitIdle qs) := k.foldl fun _ k₁ => Kept.ite k₁.raiseIdle k₁

theorem Kept.regWrite {wr : Writer} {r : MReg} {a b : Nat} (k : Kept M T s₀ s) : Kept M T s₀ (s.regWrite wr r a b) := by
  cases r with
  | ways q => exact .ite k.wroleWrite k
  | phases q => exact .ite k.swrWrite k
  | err0 q => exact .ite (.ite (.updQuad (.ite k.same k)) (.ite k.same k)) k
  | reserve q => exact .ite k.updQuad.limitIdle k
  | group d g lo =>
    cases lo
    · exact .ite k.same k
    · exact k
  | swgo d => exact .ite k.startSweep k
  | queue q w =>
    unfold State.regWrite
    dsimp only
    split
    · exact .ite k.same k
    · exact .ite k.same k
    · exact .ite k.same k
    · exact .ite (.updQueue (.ite k.same k)) (.ite k.same k)
    · exact k
  | filter n =>
    refine .ite ?_ k
    split <;> split <;> exact k.same
  | affinity n w => exact .ite k.same k
  | caps => exact .ite k.same k
  | status => exact .ite k.same k
  | evpush => exact .ite k.logEvent k
  | partFloor p => exact .ite k.same k
  | partLat p => exact .ite k.updPart.limitIdle k
  | quadPower q => exact .ite k.sfailWrite.tlvlWrite k
  | bias n => exact .ite k.same k
  | link l => exact .ite k.same k
  | tile | bankst | err1 | err2 | err3 | epoch | sweep | evpop | partEnergy => exact k

theorem Kept.mmioWrite {wr : Writer} {pa n v : Nat} (k : Kept M T s₀ s) : Kept M T s₀ (s.mmioWrite wr pa n v) := by
  unfold State.mmioWrite
  split
  · exact k
  · exact k.regWrite

theorem Kept.mmioNibble {wr : Writer} {pa nib v : Nat} (k : Kept M T s₀ s) : Kept M T s₀ (s.mmioNibble wr pa nib v) := by
  unfold State.mmioNibble
  split
  · exact k
  · exact k.regWrite

/-! ### Keys (R25, R402, R410) -/

theorem Kept.seal {x2 pa n : Nat} (k : Kept M T s₀ s) : Kept M T s₀ (s.seal x2 pa n) := k.butResv (State.seal_same ..)

/-! ### Errors of lines and table entries (R30, R78 to R81) -/

theorem Kept.logEngine {q task unit cause pa : Nat} (k : Kept M T s₀ s) : Kept M T s₀ (s.logEngine q task unit cause pa) := k.logError

/-! ### Failed lines (R80, R83) -/

theorem Kept.loseLine {line : Nat} (k : Kept M T s₀ s) : Kept M T s₀ (s.loseLine line) :=
  Kept.ite (k.cached (State.failLine_cached ..)).updQuad (k.cached (State.failLine_cached ..)).same

/-! ### Claims and reclassification (R65 to R67) -/

theorem Kept.flushPage {c page : Nat} (k : Kept M T s₀ s) : Kept M T s₀ (s.flushPage c page) := k.butResv (State.flushPage_same ..)

/-! ### Walkers (R29) and the translation of an access -/

theorem Kept.snoopsUsed {who : Nat} {lines : List Nat} (k : Kept M T s₀ s) : Kept M T s₀ (s.snoopsUsed who lines) :=
  k.butResv (State.snoopsUsed_same ..)

theorem Kept.endWalk {d : Nat} {w : Walk} (k : Kept M T s₀ s) : Kept M T s₀ (s.endWalk d w) := k.butResv (State.endWalk_same ..)

theorem Kept.useWalk {q : Req} {acc : AccKind} {a : Nat} {keep : Bool} {r : WRes} {e : TlbEntry} {pa : Nat} {v : State}
    (k : Kept M T s₀ s) (h : s.useWalk q acc a keep r = .ok e pa v) : Kept M T s₀ v := k.butResv (State.useWalk_same h)

theorem Kept.walked {q : Req} {w : Nat} {l : WCache} (k : Kept M T s₀ s) : Kept M T s₀ (s.walked q w l) :=
  k.butResv (State.walked_same ..)

theorem Kept.walk {q : Req} {acc : AccKind} {a : Nat} {e : TlbEntry} {pa : Nat} {v : State}
    (k : Kept M T s₀ s) (h : s.walk q acc a = .ok e pa v) : Kept M T s₀ v := by
  unfold State.walk at h
  dsimp only at h
  split at h
  · exact (k.butResv (State.endWalk_same ..)).useWalk h
  · split at h
    · cases h
    · split at h
      · cases h
      · exact (k.butResv (State.walked_same ..)).useWalk h

theorem Kept.translate {q : Req} {va : Word} {acc : AccKind} {e : TlbEntry} {pa : Nat} {v : State}
    (k : Kept M T s₀ s) (h : s.translate q va acc = .ok e pa v) : Kept M T s₀ v := k.butResv (State.translate_same h)

theorem Kept.endFailed {d part page : Nat} (k : Kept M T s₀ s) : Kept M T s₀ (s.endFailed d part page) :=
  k.butResv (State.endFailed_same ..)

/-! ### Writes and what they disturb -/

theorem Kept.breakResv {who : Option Nat} {lines : List Nat} (k : Kept M T s₀ s) : Kept M T s₀ (s.breakResv who lines) :=
  k.butResv (State.breakResv_same ..)

theorem Kept.healLines {whole : List Nat} (k : Kept M T s₀ s) : Kept M T s₀ (s.healLines whole) := k.butResv (State.healLines_same ..)

theorem Kept.poke {who : Option Nat} {key pa : Nat} {bytes : List Byte} (k : Kept true T s₀ s) :
    Kept true T s₀ (s.poke who key pa bytes) :=
  have h := State.poke_spec s who key pa bytes
  k.writeMem (fun w => h.1 ▸ Memory.wf_writeBytes w ..) h.2.1

theorem Kept.fetchData {key pa n : Nat} (k : Kept M T s₀ s) : Kept M T s₀ (s.fetchData key pa n).2 := by
  unfold State.fetchData
  split
  · exact k.mmioRead
  · exact k

theorem Kept.storeData {h key pa n v : Nat} (k : Kept true T s₀ s) : Kept true T s₀ (s.storeData h key pa n v) :=
  Kept.ite k.mmioWrite k.poke

/-! ### One access -/

theorem Kept.access {who : Nat} {q : Req} {va : Word} {acc : AccKind} {mis dev : Nat} {c : Acc}
    (k : Kept M T s₀ s) (h : s.access who q va acc mis dev = .ok c) : Kept M T s₀ c.s := k.butResv (State.access_same h)

theorem Kept.scalarAccess {i : Nat} {va : Word} {n : Nat} {acc : AccKind} {c : Acc}
    (k : Kept M T s₀ s) (h : s.scalarAccess i va n acc = .ok c) : Kept M T s₀ c.s := k.butResv (State.scalarAccess_same h)

theorem Kept.alignedReq {i : Nat} {q : Req} {va : Word} {n : Nat} {acc : AccKind} {mis dev : Nat} {c : Acc}
    (k : Kept M T s₀ s) (h : s.alignedReq i q va n acc mis dev = .ok c) : Kept M T s₀ c.s := by
  unfold State.alignedReq at h
  split at h
  · cases h
  · exact k.access h

theorem Kept.alignedAccess {i : Nat} {va : Word} {n : Nat} {acc : AccKind} {mis dev : Nat} {c : Acc}
    (k : Kept M T s₀ s) (h : s.alignedAccess i va n acc mis dev = .ok c) : Kept M T s₀ c.s := k.alignedReq h

theorem Kept.reporting {d : Option Deferred} {go : Res} (k : Kept M T s₀ s) (k1 : Leads M T s₀ go) :
    Leads M T s₀ (s.reporting d go) := by
  unfold State.reporting
  split
  · exact k.stop
  · exact k1

/-! ### The hart's own paths (R114) and its releases (R133, R285) -/

theorem Kept.paths {c : Acc} {n : Nat} {go : Res} (k : Kept M T s₀ s) (k1 : Kept M T s₀ c.s) (k2 : Leads M T s₀ go) :
    Leads M T s₀ (s.paths c n go) := by
  unfold State.paths
  split
  · exact k.stop
  · exact k2

theorem Kept.acquires (k : Kept M T s₀ s) : Kept M T s₀ s.acquires := k.same

theorem Kept.storeAt {h : Nat} {va : Word} {key pa n v : Nat} (k : Kept true T s₀ s) : Kept true T s₀ (s.storeAt h va key pa n v) := by
  unfold State.storeAt
  exact (Kept.ite k.storeData.logUse.updHart k.storeData).updHart

/-! ### ScalarAlu -/

theorem Kept.fixedX {src : List Reg} {d : Reg} {v : Word} (k : Kept M T s₀ s) : Leads M T s₀ (s.fixedX src d v) := k.guarded k.same.next

theorem Kept.fixedF {src : List (RFile × Nat)} {d : Reg} {r : Word × Flags} (k : Kept M T s₀ s) : Leads M T s₀ (s.fixedF src d r) :=
  k.guarded k.same.next

theorem Kept.fixedXF {src : List (RFile × Nat)} {d : Reg} {r : Word × Flags} (k : Kept M T s₀ s) : Leads M T s₀ (s.fixedXF src d r) :=
  k.guarded k.same.next

theorem Kept.jump {src : List Reg} {d : Reg} {target : Word} (k : Kept M T s₀ s) : Leads M T s₀ (s.jump src d target) :=
  k.guarded k.same.next

theorem Kept.rounded {i : Instr} {rm : BitVec 3} {go : RMode → Res} (k : Kept M T s₀ s) (h : ∀ m, Leads M T s₀ (go m)) :
    Leads M T s₀ (s.rounded i rm go) := by
  unfold State.rounded
  split
  · exact k.illegal
  · exact h _

theorem execScalarAlu_leads {i : AluInstr} (k : Kept M T s₀ s) : Leads M T s₀ (execScalarAlu i s) := by
  unfold execScalarAlu
  dsimp only
  split
  · exact k.fixedX
  · exact k.fixedX
  · exact k.fixedX
  · exact k.fixedX
  · exact k.fixedX
  · exact k.fixedX
  · exact k.fixedX
  · exact k.guarded k.same.next
  · exact k.jump
  · exact k.jump
  · exact k.rounded (fun _ => k.fixedF)
  · exact k.rounded (fun _ => k.fixedF)
  · exact k.fixedF
  · exact k.fixedXF
  · exact k.rounded (fun _ => k.fixedXF)
  · exact k.rounded (fun _ => k.fixedF)
  · exact k.rounded (fun _ => k.fixedF)
  · exact k.fixedXF
  · exact k.fixedF
  · exact k.fixedXF

/-! ### Phase -/

theorem Kept.setPhase {n : Nat} (k : Kept M T s₀ s) : Kept M T s₀ (s.setPhase n) := k.same.limitIdle
theorem Kept.lowerPhase {q : Nat} (k : Kept M T s₀ s) : Kept M T s₀ (s.lowerPhase q) := Kept.ite k.same.setPhase k
theorem Kept.phaseUnpark {q : Nat} (k : Kept M T s₀ s) : Kept M T s₀ (s.phaseUnpark q) := Kept.ite k.same k

theorem Kept.writeBwph {h : Nat} {v : BitVec 2} (k : Kept M T s₀ s) : Kept M T s₀ (s.writeBwph h v) :=
  Kept.ite (Kept.ite k.same.lowerPhase k.same.lowerPhase.updHart) k.same

theorem Kept.raisePhases (k : Kept M T s₀ s) : Kept M T s₀ s.raisePhases := by
  unfold State.raisePhases
  extract_lets t u
  have hu : Kept M T s₀ u := k.same
  exact hu.setPhase

/-! ### Fences -/

theorem Kept.fences {release acquire strong : Bool} (k : Kept M T s₀ s) : Leads M T s₀ (s.fences release acquire strong) := by
  unfold State.fences
  dsimp only
  refine Kept.reporting k
    (k.guarded
      (Kept.ite (Kept.ite (k.cached (State.cleanCore_cached ..)) k).acquires
        (Kept.ite (k.cached (State.cleanCore_cached ..)) k)).advance.next)

theorem execSfenceVma_leads {b a : Reg} (k : Kept M T s₀ s) : Leads M T s₀ (execSfenceVma b a s) := by
  unfold execSfenceVma
  split
  · exact k.illegal
  · dsimp only
    refine Kept.guarded k
      (Leads.ite k.parks
        (Leads.ite (k.cached (State.cleanCore_cached ..)).acquires.advance.next (k.cached (State.cleanCore_cached ..)).same.parks))

/-! ### Calls, traps and returns (R181, R182, R185, R408) -/

theorem execEcall_leads (k : Kept M T s₀ s) : Leads M T s₀ (execEcall s) := by
  unfold execEcall
  split
  · exact k.trap
  · refine Kept.guarded k ?_
    split
    · exact k.parks
    · exact k.same.next

theorem execSret_leads (k : Kept M T s₀ s) : Leads M T s₀ (execSret s) := by
  unfold execSret
  split
  · exact k.illegal
  · exact k.same.next

theorem execWfi_leads (k : Kept M T s₀ s) : Leads M T s₀ (execWfi s) := by
  unfold execWfi
  split
  · exact k.illegal
  · exact Leads.ite k.parks k.same.next

/-! ### CSRs (R217, R259) -/

theorem Kept.csrWrite {h n : Nat} {v : Word} (k : Kept M T s₀ s) : Kept M T s₀ (s.csrWrite h n v) := by
  unfold State.csrWrite
  split
  · exact k.same
  · exact k.same
  · exact k.same
  · exact k.same
  · exact k.same
  · exact k.same
  · exact k.writeBwph
  · exact k.same
  · exact k.same
  · exact k.same

theorem execCsrAccess_leads {op : CsrOp} {imm : Bool} {csr : BitVec 12} {d a : Reg} (k : Kept M T s₀ s) :
    Leads M T s₀ (execCsrAccess op imm csr d a s) := by
  unfold execCsrAccess
  dsimp only
  split
  · exact k.illegal
  · exact Leads.ite k.illegal (k.guarded (Kept.ite k.same.csrWrite k.same).next)

/-! ### The writes as steps of their own -/

theorem Kept.writeStep {n : Nat} (k : Kept M T s₀ s) : Leads M T s₀ (s.writeStep n) := by
  unfold State.writeStep
  split
  · exact k.next
  · exact Leads.ite k.next k.csrWrite.next

/-! ### Stores and atomics of a queue (R274 to R276, R281) -/

theorem Kept.putBytes {key pa : Nat} {l : List Byte} (k : Kept true T s₀ s) : Kept true T s₀ (s.putBytes key pa l) :=
  .seal (k.writeMem fun w => Memory.wf_writeBytes w ..)

theorem Kept.storeElems {h d w bits : Nat} {elems : List QEl} (k : Kept true T s₀ s) :
    Kept true T s₀ (s.storeElems h d w bits elems) := .breakResv (.healLines (k.foldl fun _ k₁ => k₁.putBytes))

theorem Kept.storeReg {h d w bits : Nat} {x : QEl} (k : Kept true T s₀ s) : Kept true T s₀ (s.storeReg h d w bits x) :=
  Kept.ite k.mmioNibble k.storeData

theorem Kept.vectorStore {h d w bits : Nat} {elems : List QEl} (k : Kept true T s₀ s) :
    Kept true T s₀ (s.vectorStore h d w bits elems) := .cached (k.storeElems.foldl fun _ k₁ => k₁.storeReg) (State.reach_cached ..)

theorem Kept.vectorAmo {h op d w : Nat} {l : List QEl} (k : Kept true T s₀ s) : Kept true T s₀ (s.vectorAmo h op d w l) := by
  induction l generalizing s with
  | nil => exact k
  | cons x l ih => exact ih (k.poke.updHart.cached (State.bypass_cached ..))

theorem Kept.elemsDone {h : Nat} {now rest : List QEl} (k : Kept M T s₀ s) : Kept M T s₀ (s.elemsDone h now rest) := by
  unfold State.elemsDone
  dsimp only
  split
  · exact k.snoopsUsed
  · exact Kept.ite k.snoopsUsed.sendSnoop k.snoopsUsed

/-! ### Token FIFOs (R138, R139) -/

theorem Kept.popVq {h : Nat} (k : Kept M T s₀ s) : Kept M T s₀ (s.popVq h) := k.same
theorem Kept.keepVq {h : Nat} {c : VCmd} (k : Kept M T s₀ s) : Kept M T s₀ (s.keepVq h c) := k.same

theorem Kept.runVq {h : Nat} {c : VCmd} (k : Kept true T s₀ s) : Kept true T s₀ (s.runVq h c) := by
  unfold State.runVq
  split
  · exact Kept.ite (Kept.ite k.same k.same) k.same
  · split
    · exact Kept.ite k.vectorStore.elemsDone.popVq k.vectorStore.elemsDone.keepVq
    · exact Kept.ite k.vectorAmo.elemsDone.popVq.updHart k.vectorAmo.elemsDone.keepVq
    · exact k.same

theorem execVectorQueueExecute_leads (k : Kept true T s₀ s) : Leads true T s₀ (execVectorQueueExecute s) := by
  unfold execVectorQueueExecute
  dsimp only
  split
  · exact k.next
  · exact Leads.ite k.runVq.next k.next

/-! ### VectorIssue -/

theorem Kept.vguard {r : VReq} {go : Res} (k : Kept M T s₀ s) (k1 : Leads M T s₀ go) : Leads M T s₀ (s.vguard r go) := by
  unfold State.vguard
  dsimp only
  split
  · exact k.stop
  · split
    · exact k.stop
    · exact k.guarded k1

theorem Kept.vgo {r : VReq} (k : Kept M T s₀ s) : Leads M T s₀ (s.vgo r) := k.vguard (k.guarded k.same.next)

theorem Kept.vbin {i : Instr} {bad : Bool} {et : Nat} {d : Reg} {src : VSrc} {x : Reg} {op : VOp} (k : Kept M T s₀ s) :
    Leads M T s₀ (s.vbin i bad et d src x op) := k.vgo

theorem Kept.vint {i : Instr} {op : IOp} {et p : Nat} {d : Reg} {src : VSrc} {x : Reg} (k : Kept M T s₀ s) :
    Leads M T s₀ (s.vint i op et p d src x) := k.vbin

theorem Kept.vflt {i : Instr} {op : FOp} {rounds : Bool} {et p : Nat} {d : Reg} {src : VSrc} {x : Reg} (k : Kept M T s₀ s) :
    Leads M T s₀ (s.vflt i op rounds et p d src x) := k.vbin

theorem Kept.vuna {i : Instr} {bad : Bool} {et : Nat} {clash : Bool} {d : Reg} {src : VSrc} {x : Reg} {op : VOp} {pre : Hart → Hart}
    (k : Kept M T s₀ s) : Leads M T s₀ (s.vuna i bad et clash d src x op pre) := k.vgo

theorem Kept.vone {i : Instr} {op : EOp} {rounds : Bool} {et p : Nat} {d vs : Reg} (k : Kept M T s₀ s) :
    Leads M T s₀ (s.vone i op rounds et p d vs) := k.vuna

theorem Kept.vthree {i : Instr} {op : TOp} {bad : Bool} {et p : Nat} {d va : Reg} {b2 : Nat} (k : Kept M T s₀ s) :
    Leads M T s₀ (s.vthree i op bad et p d va b2) := k.vgo

theorem Kept.vwide {i : Instr} {acc : Bool} {et p : Nat} {d va vb : Reg} (k : Kept M T s₀ s) :
    Leads M T s₀ (s.vwide i acc et p d va vb) := k.vgo

theorem Kept.vcmp {i : Instr} {cc et p : Nat} {d : Reg} {src : VSrc} {x : Reg} (k : Kept M T s₀ s) :
    Leads M T s₀ (s.vcmp i cc et p d src x) := k.vgo

theorem Kept.vsel {i : Instr} {bad : Bool} {et p : Nat} {d : Reg} {src : VSrc} {x : Reg} (k : Kept M T s₀ s) :
    Leads M T s₀ (s.vsel i bad et p d src x) := k.vbin

theorem Kept.vred {i : Instr} {op : RedOp} {bad : Bool} {et p : Nat} {d vs : Reg} (k : Kept M T s₀ s) :
    Leads M T s₀ (s.vred i op bad et p d vs) := k.vgo

theorem Kept.vpred {i : Instr} {src dst : List (RFile × Nat)} {op : VOp} (k : Kept M T s₀ s) : Leads M T s₀ (s.vpred i src dst op) :=
  k.vgo

theorem Kept.vcvt {i : Instr} {sr : Bool} {et ets p : Nat} {d vs : Reg} (k : Kept M T s₀ s) :
    Leads M T s₀ (s.vcvt i sr et ets p d vs) := k.vgo

theorem Kept.vconfigure {i : Instr} {et : BitVec 4} {g : BitVec 2} {src : List Reg} {avl : Nat} {d : Reg} (k : Kept M T s₀ s) :
    Leads M T s₀ (s.vconfigure i et g src avl d) := k.guarded k.same.next

theorem Kept.velem {i : Instr} {et : Nat} {n idx : Reg} {src dst : List (RFile × Nat)} {store : Bool} {op : Nat → VOp}
    (k : Kept M T s₀ s) : Leads M T s₀ (s.velem i et n idx src dst store op) := k.guarded k.vgo

theorem Kept.vindexed {i : Instr} {rd t : Bool} {imm x v : Reg} (k : Kept M T s₀ s) : Leads M T s₀ (s.vindexed i rd t imm x v) :=
  k.guarded k.vgo

/-! ### Taking forms (R173, R224) -/

theorem Kept.taken2 {u t : Bool} {b a d : Reg} {v : Word} (k : Kept M T s₀ s) : Leads M T s₀ (s.taken2 u t b a d v) :=
  k.guarded k.same.next

theorem Kept.taking {op : RROp} {u t : Bool} {b a d : Reg} (k : Kept M T s₀ s) : Leads M T s₀ (s.taking op u t b a d) := k.taken2

/-! ### Presence operations (R243 to R246) -/

theorem Kept.sendWrite {w : RWrite} (k : Kept M T s₀ s) : Leads M T s₀ (s.sendWrite w) := k.same.parks

/-! ### Landing (R172, R174, R332) -/

theorem Kept.fillL1 {h : Nat} {l : Late} (k : Kept M T s₀ s) : Kept M T s₀ (s.fillL1 h l) := by
  unfold State.fillL1
  split
  · exact k
  · exact k.cached (State.touch_cached ..)

theorem execLateResultLand_leads (k : Kept M T s₀ s) : Leads M T s₀ (execLateResultLand s) := by
  unfold execLateResultLand
  dsimp only
  split
  · exact k.next
  · exact Leads.ite k.next k.same.fillL1.next

theorem execRemoteWriteLand_leads (k : Kept M T s₀ s) : Leads M T s₀ (execRemoteWriteLand s) := by
  unfold execRemoteWriteLand
  split
  · exact k.next
  · exact Leads.ite k.next (Leads.ite k.same.next (Leads.ite k.next (Kept.ite k.same k.same).updHart.next))

theorem execPresenceTimeout_leads (k : Kept M T s₀ s) : Leads M T s₀ (execPresenceTimeout s) := by
  unfold execPresenceTimeout
  dsimp only
  split
  · exact k.next
  · split
    · exact Leads.ite k.next k.same.next
    · exact k.same.next
    · exact k.next

/-! ### Waits and hints (R256 to R258) -/

theorem Kept.waitTokens {m : BitVec 8} (k : Kept M T s₀ s) : Leads M T s₀ (s.waitTokens m) := by
  unfold State.waitTokens
  split
  · exact k.same.trap
  · exact k.same.next

/-! ### Elements and their addresses -/

theorem Kept.resolve {acc : AccKind} {cp : Nat} {dev : Nat → Nat} {l : Els} (k : Kept M T s₀ s) :
    Kept M T s₀ (s.resolve acc cp dev l).1 := by
  induction l generalizing s with
  | nil => exact k
  | cons x l ih =>
    obtain ⟨e, va, nib⟩ := x
    unfold State.resolve
    split
    · exact k
    · split
      · exact k.access ‹_›
      · exact ih (k.access ‹_›)

/-! ### Loads -/

theorem Kept.loadAll {h d w : Nat} {buf : Tab Byte} {l : List REl} (k : Kept M T s₀ s) : Kept M T s₀ (s.loadAll h d w buf l).1 := by
  induction l generalizing s with
  | nil => exact k
  | cons x l ih =>
    unfold State.loadAll
    extract_lets n r v
    have hr : Kept M T s₀ r.2 := by
      unfold r
      split
      · exact k
      · exact k.fetchData
    split
    · exact k
    · exact ih hr.updHart

theorem Kept.loadGo {d g w len cp : Nat} {ff : Bool} {buf : Tab Byte} {els : Els} (k : Kept M T s₀ s) :
    Leads M T s₀ (s.loadGo d g w len cp ff buf els) := by
  unfold State.loadGo
  split
  · exact k.trapAt
  · dsimp only
    split
    · exact k.resolve.parksFor
    · split
      · exact (k.resolve.loadAll.cached (State.reach_cached ..)).updMe.parksFor
      · split
        · exact (k.resolve.loadAll.cached (State.reach_cached ..)).updMe.next
        · split
          · split
            · exact (k.resolve.loadAll.cached (State.reach_cached ..)).updMe.next
            · exact
                (Kept.ite (k.resolve.loadAll.cached (State.reach_cached ..))
                  (k.resolve.loadAll.cached (State.reach_cached ..)).updMe).stop
          · split
            · exact (k.resolve.loadAll.cached (State.reach_cached ..)).updMe.next
            · exact
                (Kept.ite (k.resolve.loadAll.cached (State.reach_cached ..))
                  (k.resolve.loadAll.cached (State.reach_cached ..)).updMe).stop

theorem Kept.vload {i : Instr} {bad : Bool} {fmts : List Nat} {w cp : Nat} {d : Reg} {idx : List (Nat × Nat)}
    {src : List (RFile × Nat)} {rec_ : Option Stop} {ff : Bool} {buf : Tab Byte} {els : Els} {after : Hart → Hart} (k : Kept M T s₀ s) :
    Leads M T s₀ (s.vload i bad fmts w cp d idx src rec_ ff buf els after) := by
  unfold State.vload
  dsimp only
  refine Kept.vguard k ?_
  split
  · exact k.stopFor
  · exact k.same.loadGo

theorem Kept.unitLoad {i : Instr} {ff : Bool} {et p cp : Nat} {a d : Reg} (k : Kept M T s₀ s) :
    Leads M T s₀ (s.unitLoad i ff et p cp a d) := k.vload

/-! ### VLDSR and its slide buffer (R167, R279, R280) -/

theorem execSlidePrefetch_leads (k : Kept M T s₀ s) : Leads M T s₀ (execSlidePrefetch s) := by
  unfold execSlidePrefetch
  dsimp only
  split
  · exact k.next
  · exact k.same.next

/-! ### Stores and VAMO -/

theorem Kept.storeGo {r : VReq} {w cp : Nat} {amo : Bool} {els : Els} {op : List QEl → VOp} (k : Kept M T s₀ s) :
    Leads M T s₀ (s.storeGo r w cp amo els op) := by
  unfold State.storeGo
  split
  · exact k.trapAt
  · dsimp only
    split
    · exact k.resolve.parksFor
    · split
      · exact k.resolve.updMe.updMe.next
      · exact k.resolve.updMe.stop

theorem Kept.vstore {i : Instr} {bad : Bool} {fmts : List Nat} {w bits p cp : Nat} {d : Reg} {idx : List (Nat × Nat)}
    {src : List (RFile × Nat)} {els : Els} (k : Kept M T s₀ s) : Leads M T s₀ (s.vstore i bad fmts w bits p cp d idx src els) :=
  k.vguard (k.guarded k.storeGo)

theorem Kept.unitStore {i : Instr} {et p cp : Nat} {a d : Reg} (k : Kept M T s₀ s) : Leads M T s₀ (s.unitStore i et p cp a d) := k.vstore

theorem Kept.vamo {i : Instr} {op : Nat} {v : Reg} {p w : Nat} {a d : Reg} (k : Kept M T s₀ s) :
    Leads M T s₀ (s.vamo i op v p w a d) := by
  unfold State.vamo
  dsimp only
  refine Kept.vguard k ?_
  split
  · exact k.stopFor
  · exact k.storeGo

/-! ### Handle words and their checks (R35, R37, R39) -/

theorem Kept.useBanks {t : TileRef} {off n : Nat} (k : Kept M T s₀ s) : Kept M T s₀ (s.useBanks t off n) := Kept.ite k k.same
theorem Kept.looked (k : Kept M T s₀ s) : Kept M T s₀ s.looked := Kept.ite k k.same
theorem Kept.soiled {a n : Nat} (k : Kept M T s₀ s) : Kept M T s₀ (s.soiled a n) := Kept.ite k k.same

theorem Kept.writeTmem {a : Nat} {bytes : List Byte} (k : Kept M true s₀ s) : Kept M true s₀ (s.writeTmem a bytes) :=
  have h : (s.soiled a bytes.length).tmem = s.tmem := ((Kept.refl s).soiled (M := false) (T := false)).tmem_eq
  k.soiled.writeTile fun w => Memory.wf_writeBytes (h ▸ w) ..

theorem Kept.putTile {t : TileRef} {bit w v : Nat} (k : Kept M true s₀ s) : Kept M true s₀ (s.putTile t bit w v) :=
  Kept.ite k.writeTmem k.writeTmem

theorem Kept.unkeep {a n : Nat} (k : Kept M T s₀ s) : Kept M T s₀ (s.unkeep a n) := Kept.ite k k.same

theorem Kept.putTileBytes {t : TileRef} {off : Nat} {bytes : List Byte} (k : Kept M true s₀ s) :
    Kept M true s₀ (s.putTileBytes t off bytes) := by
  unfold State.putTileBytes
  dsimp only
  exact Kept.unkeep (Kept.same (s := s.writeTmem (t.base + off) bytes) k.writeTmem)

/-! ### What a later TST leaves to earlier transfers (R117) -/

theorem Kept.keepOld {h : Nat} {w : Word} {a n : Nat} (k : Kept M T s₀ s) : Kept M T s₀ (s.keepOld h w a n) := k.same

/-! ### TLD and TST (R282, R283) -/

theorem Kept.tileAccess {e : BitVec 4} {hw rc : Word} {go : TileRef → Nat → Nat → Res} (k : Kept M T s₀ s)
    (h : ∀ t i w, Leads M T s₀ (go t i w)) : Leads M T s₀ (s.tileAccess e hw rc go) := by
  unfold State.tileAccess
  dsimp only
  split
  · exact k.trap
  · exact .ite k.trap (.ite (h _ _ _) k.useBanks.parks)

/-! ### Allocation (R37, R38, R41, R42, R53) -/

theorem State.freshCells_wf {w base n : Nat} {zero : Bool} (h : s.tmem.wf = true) : (s.freshCells w base n zero).wf = true := by
  have bare := Memory.wf_filter h (fun c => decide (c.1 < base) || decide (base + n ≤ c.1))
  unfold State.freshCells
  dsimp only
  split
  · exact bare
  · split
    · exact Memory.wf_foldl bare fun _ w₁ => Memory.wf_write w₁ ..
    · exact Memory.wf_foldl bare fun _ w₁ => Memory.wf_writeN w₁ ..

theorem Kept.finishAllocs {q : Nat} (k : Kept M T s₀ s) : Kept M T s₀ (s.finishAllocs q) := by
  unfold State.finishAllocs
  dsimp only
  exact k.same.foldl fun _ k₁ => k₁.same

theorem Kept.allocate {part : Nat} {task : Task} {sp keep zero : Bool} {et w rows cols ngr h g : Nat} {d : Reg}
    (k : Kept M true s₀ s) : Kept M true s₀ (s.allocate part task sp keep zero et w rows cols ngr h g d) := by
  unfold State.allocate
  extract_lets q old e base t u v
  have ht : Kept M true s₀ t := k.updQuad
  have hu : Kept M true s₀ u := .ite (ht.foldl fun _ k₁ => k₁.beginRole) ht
  clear_value u
  have hv : Kept M true s₀ v := hu.writeTile State.freshCells_wf
  exact hv.updMe.finishAllocs

theorem Kept.talloc {i : Instr} {zero : Bool} {et : BitVec 4} {sp keep : Bool} {c b d : Reg} (k : Kept M true s₀ s) :
    Leads M true s₀ (s.talloc i zero et sp keep c b d) := by
  unfold State.talloc
  dsimp only
  split
  · exact k.parks
  · refine Kept.guarded k ?_
    split
    · exact k.same.next
    · split
      · exact k.same.next
      · split
        · exact k.allocate.next
        · exact k.same.next

/-! ### Freeing (R38, R44, R53, R55) -/

theorem Kept.freeTile {q h : Nat} (k : Kept M T s₀ s) : Kept M T s₀ (s.freeTile q h) := k.same

theorem execTfree_leads {b : Reg} (k : Kept M T s₀ s) : Leads M T s₀ (execTfree b s) := by
  unfold execTfree
  dsimp only
  refine Kept.guarded k ?_
  split
  · exact k.trap
  · exact k.guarded k.same.next

/-! ### Steps of the ways (R45, R47, R53, R108) -/

theorem Kept.emptyWay {q w r : Nat} (k : Kept M T s₀ s) : Kept M T s₀ (s.emptyWay q w r) := by
  unfold State.emptyWay
  dsimp only
  split
  · exact k.foldl fun _ k₁ => k₁.cached (State.writeOut_cached ..)
  · split
    · refine k.foldl fun x k₁ => ?_
      split
      · exact k₁
      · exact Kept.ite ((k₁.cached (State.useGddr_cached ..)).cached (State.writtenBack_cached ..)).updQuad
          (k₁.cached (State.writeOut_cached ..))
    · exact k

theorem Kept.roleDone {q w r : Nat} (k : Kept M T s₀ s) : Kept M T s₀ (s.roleDone q w r) := k.emptyWay.updQuad

theorem execRoleChangeDone_leads (k : Kept M T s₀ s) : Leads M T s₀ (execRoleChangeDone s) := by
  unfold execRoleChangeDone
  split
  · exact k.next
  · exact k.next
  · exact k.roleDone.phaseUnpark.next

/-! ### FENCE.S (R285) -/

theorem Kept.fenceS {sc : BitVec 3} {rel acq : Bool} (k : Kept M T s₀ s) : Leads M T s₀ (s.fenceS sc rel acq) := k.fences

/-! ### The line of an object (R125) -/

theorem Kept.putObj {who : Option Nat} {key pa : Nat} {o : Obj} (k : Kept true T s₀ s) : Kept true T s₀ (s.putObj who key pa o) := k.poke

theorem Kept.putRange {who : Option Nat} {key pa x5 base len : Nat} (k : Kept true T s₀ s) :
    Kept true T s₀ (s.putRange who key pa x5 base len) := k.poke

/-! ### Checks (R286) -/

theorem Kept.objAccess {va : Word} {frozenOk : Bool} {c : Acc} (k : Kept M T s₀ s) (h : s.objAccess va frozenOk = .ok c) :
    Kept M T s₀ c.s := by
  unfold State.objAccess at h
  split at h
  · cases h
  · split at h
    case h_4 =>
      repeat' split at h
      all_goals cases h
      exact k.translate ‹_›
    all_goals cases h

theorem Kept.atObject {c : Acc} {va : Word} (k : Kept M T s₀ s) (k1 : Kept M T s₀ c.s) : Kept M T s₀ (s.atObject c va) :=
  ((Kept.ite (k1.cached (State.dropL1_cached ..)) k1).cached (State.bypass_cached ..)).updMe

theorem Kept.onObjectFor {hold : List (RFile × Nat)} {o : Reg} {src dst : List Reg} {release frozenOk : Bool} {kinds : List Nat}
    {go : Acc → Obj → Word → Res} (k : Kept M T s₀ s) (h : ∀ c ob va, Kept M T s₀ c.s → Leads M T s₀ (go c ob va)) :
    Leads M T s₀ (s.onObjectFor hold o src dst release frozenOk kinds go) := by
  unfold State.onObjectFor
  refine k.guarded (k.reporting ?_)
  split
  · exact k.stopFor
  · split
    · exact k.stopFor
    · have hc := k.objAccess ‹_›
      exact .ite (h _ _ _ (k.atObject hc)) k.trap

theorem Kept.onObject {o : Reg} {src dst : List Reg} {release frozenOk : Bool} {kinds : List Nat}
    {go : Acc → Obj → Word → Res} (k : Kept M T s₀ s) (h : ∀ c ob va, Kept M T s₀ c.s → Leads M T s₀ (go c ob va)) :
    Leads M T s₀ (s.onObject o src dst release frozenOk kinds go) := k.onObjectFor h

/-! ### Lost lines (R83) -/

theorem Kept.acquireObj {h : Nat} {o : Obj} {va : Word} (k : Kept M T s₀ s) : Kept M T s₀ (s.acquireObj h o va) := by
  unfold State.acquireObj
  dsimp only
  split
  · exact k.same
  · exact k.same.logError.updHart

/-! ### Locks (R289 to R291) -/

theorem Kept.grantLock {h key pa : Nat} {va : Word} (k : Kept true T s₀ s) : Kept true T s₀ (s.grantLock h key pa va) :=
  k.putObj.updHart.acquireObj

theorem Kept.addWaiter {w : Waiter} (k : Kept M T s₀ s) : Kept M T s₀ (s.addWaiter w) := k.same

theorem Kept.grantNext {pa : Nat} (k : Kept true T s₀ s) : Kept true T s₀ (s.grantNext pa) := by
  unfold State.grantNext
  split
  · exact k
  · exact Kept.ite k (Kept.ite k.same k.same.grantLock)

theorem Kept.grantFree (k : Kept true T s₀ s) : Kept true T s₀ s.grantFree := k.foldl fun _ k₁ => k₁.grantNext

theorem Kept.acqStep {b : Reg} (k : Kept true T s₀ s) : Leads true T s₀ (s.acqStep b) :=
  k.onObject fun _ _ _ hc => .ite k.trap (.ite hc.grantLock.next (.ite hc.updMe.next hc.addWaiter.updMe.next))

theorem Kept.asHart {h : Nat} {f : State → Res} (k : Kept M T s₀ s) (kf : ∀ {v : State}, Kept M T s₀ v → Leads M T s₀ (f v)) :
    Leads M T s₀ (s.asHart h f) := by
  unfold State.asHart
  split
  · next e => exact (kf k.same _ e).same.next
  · next e => exact kf k.same

theorem execAcqRetry_leads (k : Kept true T s₀ s) : Leads true T s₀ (execAcqRetry s) := by
  unfold execAcqRetry
  split
  · split
    · exact k.asHart fun k₁ => k₁.acqStep
    · exact k.next
  · exact k.next

theorem execTryacq_leads {sc : BitVec 3} {b d : Reg} (k : Kept true T s₀ s) : Leads true T s₀ (execTryacq sc b d s) :=
  k.onObjectFor fun _ _ _ hc => .ite k.trap (.ite hc.updMe.grantLock.next hc.updMe.next)

theorem Kept.releasing {sc : BitVec 3} {go : State → Res} {t : State} (k : Kept M T s₀ s)
    (ht : Kept M T s₀ t) (h : ∀ {v}, Kept M T s₀ v → Leads M T s₀ (go v)) : Leads M T s₀ (s.releasing sc go t) :=
  .ite (h ht) (k.guarded (h (ht.cached (State.cleanCore_cached ..))))

theorem execRel_leads {sc : BitVec 3} {b : Reg} (k : Kept true T s₀ s) : Leads true T s₀ (execRel sc b s) :=
  k.onObject fun _ _ _ hc => .ite k.trap (k.releasing hc fun k₁ => k₁.putObj.advance.grantNext.next)

/-! ### Phase barriers (R131, R292 to R294) -/

theorem Kept.wakeFlip {pa : Nat} (k : Kept M T s₀ s) : Kept M T s₀ (s.wakeFlip pa) := k.same.foldl fun _ k₁ => k₁.same.acquireObj

theorem Kept.putBarrier {who : Option Nat} {key pa : Nat} {o : Obj} (k : Kept true T s₀ s) :
    Kept true T s₀ (s.putBarrier who key pa o) := Kept.ite k.putObj.wakeFlip k.putObj

theorem execArrive_leads {sc : BitVec 3} {b : Reg} (k : Kept true T s₀ s) : Leads true T s₀ (execArrive sc b s) :=
  k.onObject fun _ _ _ hc => k.releasing hc fun k₁ => k₁.putBarrier.advance.next

theorem execWaitph_leads {sc : BitVec 3} {c b : Reg} (k : Kept M T s₀ s) : Leads M T s₀ (execWaitph sc c b s) :=
  .ite k.next (k.onObject fun _ _ _ hc => .ite hc.advance.acquireObj.next hc.addWaiter.updMe.next)

theorem execTestph_leads {sc : BitVec 3} {c b d : Reg} (k : Kept M T s₀ s) : Leads M T s₀ (execTestph sc c b d s) :=
  k.onObject fun _ _ _ hc => .ite hc.updMe.acquireObj.next hc.updMe.next

/-! ### BIND and UNBIND (R287, R288) -/

theorem execBind_leads {c b a : Reg} (k : Kept true T s₀ s) : Leads true T s₀ (execBind c b a s) := by
  refine k.onObject fun _ _ _ hc => .ite k.trap (.ite hc.advance.next ?_)
  split
  · exact k.trap
  · exact hc.putRange.putObj.advance.next

theorem execUnbind_leads {b a : Reg} (k : Kept true T s₀ s) : Leads true T s₀ (execUnbind b a s) := by
  refine k.onObject fun _ _ _ hc => ?_
  split
  · exact hc.advance.next
  · exact hc.putRange.putObj.advance.next

/-! ### Counting a completion (R131, R135, R136, R164) -/

theorem Kept.engineAccess {who : Nat} {q : Req} {va : Word} {acc : AccKind} {dev : Nat} {c : Acc}
    (k : Kept M T s₀ s) (h : s.engineAccess who q va acc dev = .ok c) : Kept M T s₀ c.s := by
  unfold State.engineAccess at h
  split at h
  case h_1 hk =>
    split at h
    · cases h
    · cases h; exact k.access hk
  all_goals cases h

theorem Kept.barrier {who : Nat} {q : Req} {va : Word} {c : Acc} (k : Kept M T s₀ s) (h : s.barrier who q va = .ok c) :
    Kept M T s₀ c.s := by
  unfold State.barrier at h
  split at h
  · split at h
    · cases h
    · split at h
      · cases h
      · cases h; exact k.engineAccess ‹_›
  · exact k.engineAccess h

theorem Kept.engineWait {who : Nat} {q : Req} {e : EAcc} (k : Kept M T s₀ s) : Kept M T s₀ (s.engineWait who q e) := by
  unfold State.engineWait
  split
  · exact k.sendSnoop
  · exact k.same
  · exact k

theorem Kept.tellEngine {q part task cause : Nat} {va : Word} {w : Why} (k : Kept M T s₀ s) :
    Kept M T s₀ (s.tellEngine q part task cause va w) := by
  unfold State.tellEngine
  refine Kept.endFailed ?_
  split
  · exact k
  · exact k.same
  · exact k.logEngine

theorem Kept.countInto {pa n : Nat} {fail : Bool} (k : Kept true T s₀ s) : Kept true T s₀ (s.countInto pa n fail) :=
  (k.cached (State.bypass_cached ..)).putBarrier

theorem Kept.updTask {h : Nat} {task : BitVec 32} {f : Hart → Hart} (k : Kept M T s₀ s) : Kept M T s₀ (s.updTask h task f) :=
  Kept.ite k.same k.same

theorem Kept.updTaskOf {p h : Nat} {task : BitVec 32} {f : Hart → Hart} (k : Kept M T s₀ s) : Kept M T s₀ (s.updTaskOf p h task f) :=
  Kept.ite k.updTask k.same

theorem Kept.endToken {h : Nat} {task : BitVec 32} {tok : Option Nat} {fail : Bool} (k : Kept M T s₀ s) :
    Kept M T s₀ (s.endToken h task tok fail) := k.updTask

theorem Kept.endTokenOf {p h : Nat} {task : BitVec 32} {tok : Option Nat} {fail : Bool} (k : Kept M T s₀ s) :
    Kept M T s₀ (s.endTokenOf p h task tok fail) := k.updTaskOf

/-! ### SHPLD and SHPST (R302) -/

/-- The doublewords of an access are all of that access. -/
theorem doublesOf_acc {acc : AccKind} {va : Word} {c : Acc} {n : Nat} {l : List (Acc × Nat)} (h : doublesOf acc va c n = .ok l) :
    ∀ x ∈ l, x.1 = c := by
  unfold doublesOf at h
  split at h <;> cases h
  intro x hx
  obtain ⟨a, -, rfl⟩ := List.mem_map.mp hx
  rfl

theorem Kept.recordAccess {va : Word} {acc : AccKind} {l : List (Acc × Nat)} (k : Kept M T s₀ s) (h : s.recordAccess va acc = .ok l) :
    ∀ x ∈ l, Kept M T s₀ x.1.s := by
  unfold State.recordAccess at h
  dsimp only at h
  split at h
  · cases h
  · next hc =>
    split at h
    · cases h
    · next hd =>
      split at h
      · cases h
        intro x hx
        exact doublesOf_acc hd x hx ▸ k.access hc
      · split at h
        · cases h
        · next d he =>
          have kd : Kept M T s₀ d.s := (k.access hc).access he
          generalize e : doublesOf acc _ d _ = r at h
          cases r with
          | error => cases h
          | ok m =>
            cases h
            intro x hx
            rcases List.mem_append.mp hx with hx | hx
            · obtain ⟨y, -, rfl⟩ := List.mem_map.mp hx
              exact kd
            · exact doublesOf_acc e x hx ▸ kd

theorem Kept.recordPaths {l : List (Acc × Nat)} {go : State → Res} (k : Kept M T s₀ s) (hl : ∀ x ∈ l, Kept M T s₀ x.1.s)
    (h : ∀ {v}, Kept M T s₀ v → Leads M T s₀ (go v)) : Leads M T s₀ (s.recordPaths l go) := by
  unfold State.recordPaths
  split
  · exact k.stop
  · split
    · exact k.next
    · next x e => exact k.guarded (h (hl x (List.mem_of_getLast? e)))

theorem Kept.readDoubles {l : List (Nat × Nat)} (k : Kept M T s₀ s) : Kept M T s₀ (s.readDoubles l).2 := by
  induction l generalizing s with
  | nil => exact k
  | cons x l ih => exact ih k.updMe.fetchData

theorem Kept.touchAll {l : List (Acc × Nat)} {store : Bool} (k : Kept M T s₀ s) : Kept M T s₀ (s.touchAll l store) :=
  k.foldl fun _ k₁ => k₁.cached (State.touch_cached ..)

theorem execShpld_leads {b : Reg} {h : BitVec 3} (k : Kept M T s₀ s) : Leads M T s₀ (execShpld b h s) := by
  unfold execShpld
  refine k.guarded ?_
  split
  · exact k.stop
  · refine k.recordPaths (k.recordAccess ‹_›) fun k₁ => ?_
    split
    · exact k.stop
    · exact k₁.readDoubles.touchAll.updMe.next

theorem execShpst_leads {b : Reg} {h : BitVec 3} (k : Kept true T s₀ s) : Leads true T s₀ (execShpst b h s) := by
  unfold execShpst
  refine k.guarded ?_
  split
  · exact k.stop
  · exact k.recordPaths (k.recordAccess ‹_›) fun k₁ => .next (.advance (.touchAll (k₁.foldl fun _ k₂ => k₂.storeAt)))

/-! ### The checks of CPY and CPYB (R149, R150, R304) -/

theorem Kept.copy {cpyb e : Bool} {x4 : BitVec 3} {c b : Reg} {push pop : Bool} {h : BitVec 3} (k : Kept M T s₀ s) :
    Leads M T s₀ (s.copy cpyb e x4 c b push pop h) := k.guarded k.same.next

/-! ### Admission (R158) -/

theorem execCopyAdmit_leads (k : Kept M T s₀ s) : Leads M T s₀ (execCopyAdmit s) := by
  unfold execCopyAdmit
  dsimp only
  split
  · exact k.next
  · exact Leads.ite k.next (Leads.ite k.same.next k.same.next)

/-! ### Tags (R6, R75, R158) -/

theorem execCopyRunEmit_leads (k : Kept M T s₀ s) : Leads M T s₀ (execCopyRunEmit s) := by
  unfold execCopyRunEmit
  dsimp only
  split
  · exact k.next
  · exact Leads.ite k.same.next k.next

/-! ### Where a piece lies -/

theorem Kept.engineParts {who : Nat} {q : Req} {acc : AccKind} {cp dev : Nat} {denied : Bool} {l : List (Word × Nat)} {p : Place}
    {v : State} (k : Kept M T s₀ s) (h : s.engineParts who q acc cp dev denied l = .ok p v) : Kept M T s₀ v := by
  induction l generalizing s p v with
  | nil => cases h; exact k
  | cons x l ih =>
    unfold State.engineParts at h
    split at h
    · cases h
    · split at h <;> cases h
    · split at h
      · cases h
      · split at h
        · cases h; exact ih (k.engineAccess ‹_›) ‹_›
        · exact ih (k.engineAccess ‹_›) h
    · cases h

theorem Kept.findSide {x : Xfer} {src : Bool} {p : Piece} {a : Place} {v : State}
    (k : Kept M T s₀ s) (h : s.findSide x src p = .ok a v) : Kept M T s₀ v := by
  unfold State.findSide at h
  dsimp only at h
  split at h
  · exact k.engineParts h
  · split at h
    · cases h
    · split at h <;> cases h
      exact k
  · cases h; exact k
  · generalize (src && _) = bad at h
    cases bad <;> cases h
    exact k
  · split at h <;> cases h
    exact k

theorem Kept.findPiece {x : Xfer} {p : Piece} {r : Place × Place × State}
    (k : Kept M T s₀ s) (h : s.findPiece x p = .ok r) : Kept M T s₀ r.2.2 := by
  unfold State.findPiece at h
  split at h
  · split at h <;> cases h
    exact (k.findSide ‹_›).findSide ‹_›
  · cases h

/-! ### Reading and writing places -/

theorem Kept.readSpan {key pa n : Nat} (k : Kept M T s₀ s) : Kept M T s₀ (s.readSpan key pa n).2 := by
  unfold State.readSpan
  split
  · dsimp only
    exact k.mmioRead.foldlSnd fun _ k₁ => k₁.mmioRead
  · exact k

theorem Kept.writeSpan {wr : Writer} {key pa : Nat} {bytes : List Byte} (k : Kept true T s₀ s) :
    Kept true T s₀ (s.writeSpan wr key pa bytes) := Kept.ite (k.mmioWrite.foldl fun _ k₁ => k₁.mmioWrite) k.poke

theorem Kept.putTileRun {t : TileRef} {bit : Nat} {bytes : List Byte} (k : Kept M true s₀ s) :
    Kept M true s₀ (s.putTileRun t bit bytes) := Kept.ite k.putTileBytes (k.foldl fun _ k₁ => k₁.putTile.putTile)

theorem Kept.readPlace {x : Xfer} {n : Nat} {x4 : Place} (k : Kept M T s₀ s) : Kept M T s₀ (s.readPlace x n x4).2 := by
  unfold State.readPlace
  split
  · dsimp only
    exact (k.snoopsUsed.cached (State.reach_cached ..)).foldlSnd fun _ k₁ => k₁.readSpan
  · exact k.looked
  · exact k
  · exact k
  · exact k

theorem Kept.writePlace {x : Xfer} {q : Nat} {bytes : List Byte} {p : Place} (k : Kept true true s₀ s) :
    Kept true true s₀ (s.writePlace x q bytes p) := by
  cases p with
  | mem l => exact .cached (k.foldlFst fun _ k₁ => k₁.writeSpan) (State.reach_cached ..)
  | tile t bit => exact k.putTileRun
  | feed i => exact k.same
  | vreg g off => exact k.updTask
  | peer l va => exact k.same

/-! ### Performing (R156, R157, R160) -/

theorem Kept.placeOn {n : Nat} {x3 : Place} (k : Kept M T s₀ s) : Kept M T s₀ (s.placeOn n x3).2 := by
  unfold State.placeOn
  split
  · exact k.useBanks
  · exact k

theorem Kept.updXfer {q id : Nat} {f : Xfer → Xfer} (k : Kept M T s₀ s) : Kept M T s₀ (s.updXfer q id f) := k.same
theorem Kept.failRuns {l : Nat} (k : Kept M T s₀ s) : Kept M T s₀ (s.failRuns l) := k.same
theorem Kept.peerTells (k : Kept M T s₀ s) : Kept M T s₀ s.peerTells := Kept.ite k k.same

theorem Kept.failPiece {q : Nat} {x : Xfer} {p : Piece} {cause : Nat} {va : Word} {w : Why} (k : Kept M T s₀ s) :
    Kept M T s₀ (s.failPiece q x p cause va w) := k.tellEngine.updXfer.updQuad

theorem Kept.xferWait {q : Nat} {x : Xfer} {e : EAcc} (k : Kept M T s₀ s) : Kept M T s₀ (s.xferWait q x e) := by
  unfold State.xferWait
  split
  · exact Kept.ite k k.engineWait.updXfer
  · exact k.engineWait

theorem Kept.readPiece {x : Xfer} {p : Piece} (k : Kept M T s₀ s) :
    Kept M T s₀ (s.readPiece x p).2 ∧ ∀ p' u, (s.readPiece x p).1 = .ok (p', u) → Kept M T s₀ u := by
  unfold State.readPiece
  split
  · exact ⟨k, fun _ _ e => by cases e⟩
  · next ht =>
    extract_lets n u r parts
    have hu : Kept M T s₀ u.2 := (k.findPiece ht).placeOn
    have hr : Kept M T s₀ r.2 := hu.readPlace
    clear_value u r
    split
    · exact ⟨hu, fun _ _ e => by cases e⟩
    · refine ⟨hr, fun p' v e => ?_⟩
      rw [Except.ok.injEq, Prod.mk.injEq] at e
      exact e.2 ▸ hr

theorem Kept.readPieces {x : Xfer} {l : List Piece} (k : Kept M T s₀ s) : Kept M T s₀ (s.readPieces x l).2.1 := by
  induction l generalizing s with
  | nil => exact k
  | cons p l ih =>
    unfold State.readPieces
    split
    · exact ih k
    · split
      case h_1 e => exact ih (k.readPiece.2 _ _ (congrArg Prod.fst e))
      case h_2 e =>
        have h := k.readPiece (x := x) (p := p)
        rw [e] at h
        exact h.1

theorem Kept.destOf {x : Xfer} {p : Piece} {g : Got} {d : Place} {v : State}
    (k : Kept M T s₀ s) (h : s.destOf x p g = .ok d v) : Kept M T s₀ v := by
  unfold State.destOf at h
  split at h
  · exact k.findSide h
  · split at h <;> cases h
    exact k

theorem Kept.writePiece {q n : Nat} {x : Xfer} {p : Piece} {g : Got} (k : Kept true true s₀ s) :
    Kept true true s₀ (s.writePiece q n x p g) := by
  unfold State.writePiece
  dsimp only
  split
  · exact k.failPiece
  · exact k.xferWait
  · have ht := k.destOf ‹_›
    split
    · exact k
    · split
      · exact ht.placeOn
      · exact (Kept.updXfer ht.placeOn.writePlace).updQuad

theorem execCopyLinePerformed_leads {x1 : State} (k : Kept true true s₀ x1) : Leads true true s₀ (execCopyLinePerformed x1) := by
  unfold execCopyLinePerformed
  dsimp only
  split
  · exact k.peerTells.next
  · split
    · exact k.peerTells.next
    · split
      · exact k.peerTells.readPieces.updXfer.failPiece.next
      · exact k.peerTells.readPieces.updXfer.xferWait.next
      · exact k.peerTells.readPieces.updXfer.next
      · split
        · split
          · exact k.peerTells.readPieces.updXfer.writePiece.next
          · exact k.peerTells.readPieces.updXfer.next
        · exact k.peerTells.readPieces.updXfer.next

/-! ### Completion (R161 to R164) -/

theorem Kept.stageXfer {q : Nat} {x : Xfer} {st : Stage} (k : Kept M T s₀ s) : Kept M T s₀ (s.stageXfer q x st) := k.same

theorem Kept.countXfer {q : Nat} {x : Xfer} {stat : Nat} {bar : Option Nat} {lost : Bool} (k : Kept true T s₀ s) :
    Kept true T s₀ (s.countXfer q x stat bar lost) := by
  unfold State.countXfer
  dsimp only
  split
  · exact k.same.endToken
  · exact Kept.ite k
      (Kept.ite k.sendSnoop (Kept.ite k.same.logEngine.endToken (Kept.ite k.same.logEngine.endToken k.same.countInto.endToken)))

theorem Kept.pushXfer {q : Nat} {x : Xfer} {stat : Nat} {bar : Option Nat} (k : Kept true T s₀ s) :
    Kept true T s₀ (s.pushXfer q x stat bar) := Kept.ite (Kept.ite k.same.countXfer k.same) k.same.countXfer

theorem Kept.writeParts {x : Xfer} {l : List MemPart} {bytes : List Byte} (k : Kept true true s₀ s) :
    Kept true true s₀ (s.writeParts x l bytes) := k.writePlace

theorem Kept.recordXfer {q : Nat} {x : Xfer} {stat cause : Nat} {bar : Option Nat} (k : Kept true true s₀ s) :
    Kept true true s₀ (s.recordXfer q x stat cause bar) := by
  unfold State.recordXfer
  dsimp only
  split
  · exact k.updTask.stageXfer.pushXfer
  · split
    · exact (k.engineParts ‹_›).writeParts.updTask.stageXfer.pushXfer
    · exact (k.engineParts ‹_›).updTask.stageXfer.pushXfer
    · exact k.tellEngine.updTask.stageXfer.pushXfer
    · exact k.xferWait

theorem Kept.checkXfer {q : Nat} {x : Xfer} (k : Kept true true s₀ s) : Kept true true s₀ (s.checkXfer q x) := by
  unfold State.checkXfer
  dsimp only
  split
  · exact k.same.recordXfer
  · split
    · exact (k.barrier ‹_›).stageXfer.recordXfer
    · exact Kept.ite k.tellEngine.stageXfer.recordXfer k.tellEngine.stageXfer.recordXfer
    · exact Kept.ite (Kept.ite k.same.recordXfer k.same.recordXfer) k.xferWait
    · exact k.xferWait

theorem execCopyComplete_leads (k : Kept true true s₀ s) : Leads true true s₀ (execCopyComplete s) := by
  unfold execCopyComplete
  dsimp only
  split
  · exact k.next
  · split
    · exact k.next
    · split
      · exact (Kept.ite k.checkXfer k).next
      · exact k.recordXfer.next
      · exact k.pushXfer.next
      · exact k.countXfer.next

/-! ### Reading a source (R91, R404) -/

theorem Kept.sourceWaits {r : GReq} {x : State} (k : Kept M T s₀ s) (e : s.sourceWaits r = some x) : Kept M T s₀ x := by
  unfold State.sourceWaits at e
  dsimp only at e
  split at e
  · cases e; exact k
  · split at e
    · cases e
    · cases e; exact k.foldl fun _ k₁ => k₁.sendSnoop

theorem Kept.readSource {r : GReq} {users : List GReq} (k : Kept M T s₀ s) : Kept M T s₀ (s.readSource r users).2.2 := by
  unfold State.readSource
  dsimp only
  split
  · exact (k.same.cached (State.reach_cached ..)).foldlSnd fun _ k₁ => k₁.readSpan
  · exact .foldl ((k.same.cached (State.reach_cached ..)).foldlSnd fun _ k₁ => k₁.readSpan) fun _ k₁ => k₁.logError

/-! ### Releases (R88, R91) -/

theorem Kept.releaseLoad {o : OpenLoad} {tmo : Bool} (k : Kept M T s₀ s) : Kept M T s₀ (s.releaseLoad o tmo) := by
  unfold State.releaseLoad
  dsimp only
  split
  · exact k.same
  · split
    · exact k.sourceWaits ‹_›
    · exact k.readSource.same

theorem Kept.tryRelease {o : OpenLoad} (k : Kept M T s₀ s) : Kept M T s₀ (s.tryRelease o) :=
  Kept.ite k.releaseLoad (Kept.ite k.releaseLoad k)

theorem Kept.leaveGroup {d g p h : Nat} {task : BitVec 32} (k : Kept M T s₀ s) : Kept M T s₀ (s.leaveGroup d g p h task) := by
  unfold State.leaveGroup
  split
  · exact k
  · dsimp only
    exact k.same.foldl fun _ k₁ => k₁.tryRelease

theorem Kept.leaveGroupsOf {p h : Nat} {task : BitVec 32} (k : Kept M T s₀ s) : Kept M T s₀ (s.leaveGroupsOf p h task) :=
  k.foldl fun _ k₁ => k₁.leaveGroup

theorem Kept.leaveGroups {h : Nat} {task : BitVec 32} (k : Kept M T s₀ s) : Kept M T s₀ (s.leaveGroups h task) := k.leaveGroupsOf

/-! ### GLD and GLDV at issue (R87, R89, R298, R299) -/

theorem Kept.sourcePages {src : Word} {len n i : Nat} {r : List MemPart × State} (k : Kept M T s₀ s)
    (h : s.sourcePages src len n i = .ok r) : Kept M T s₀ r.2 := by
  induction n generalizing s i r with
  | zero => cases h; exact k
  | succ n ih =>
    unfold State.sourcePages at h
    dsimp only at h
    split at h
    case h_4 ht =>
      split at h
      · cases h
      · generalize e : State.sourcePages _ src len n (i + 1) = x at h
        cases x with
        | error => cases h
        | ok => cases h; exact (ih (k.translate ht) e :)
    all_goals cases h

theorem Kept.groupLoad {vec e : Bool} {y : BitVec 3} {c b a : Reg} (k : Kept M T s₀ s) : Leads M T s₀ (s.groupLoad vec e y c b a) := by
  unfold State.groupLoad
  dsimp only
  refine .ite k.updMe.next (k.guarded ?_)
  split
  · exact k.stopFor
  · next pages t h =>
    have ht : Kept M T s₀ t := k.sourcePages h
    exact k.guarded (Kept.parksFor (ht.same (v := { t with nextXfer := _, greqs := _ })))

/-! ### At the holding slice (R88, R89, R92) -/

theorem execGroupRequestArrive_leads (k : Kept M T s₀ s) : Leads M T s₀ (execGroupRequestArrive s) := by
  unfold execGroupRequestArrive
  dsimp only
  split
  · exact k.next
  · split
    · exact k.next
    · split
      · exact k.same.next
      · split
        · exact .ite k.same.tryRelease.next k.same.next
        · split
          · split
            · exact (k.sourceWaits ‹_›).next
            · exact k.readSource.same.next
          · exact .ite k.next k.same.tryRelease.next

theorem execGroupHoldTimeout_leads (k : Kept M T s₀ s) : Leads M T s₀ (execGroupHoldTimeout s) := by
  unfold execGroupHoldTimeout
  split
  · exact k.next
  · exact Leads.ite k.tryRelease.next k.releaseLoad.next

theorem Kept.releaseAll {p : Nat} (k : Kept M T s₀ s) : Kept M T s₀ (s.releaseAll p) := k.foldl fun _ k₁ => k₁.releaseLoad

/-! ### The fill (R94) -/

theorem Kept.endFill {f : GFill} {failed : Bool} (k : Kept M T s₀ s) : Kept M T s₀ (s.endFill f failed) := k.same.updTaskOf

theorem Kept.logTarget {q part task cause : Nat} {va : Word} {w : Why} (k : Kept M T s₀ s) :
    Kept M T s₀ (s.logTarget q part task cause va w) := by
  unfold State.logTarget
  split
  · exact k.tellEngine
  · exact k.tellEngine.logEngine

theorem Kept.countFill {f : GFill} (k : Kept true T s₀ s) : Kept true T s₀ (s.countFill f) := by
  unfold State.countFill
  dsimp only
  split
  · exact k.endFill
  · split
    · exact k
    · split
      · exact k.logTarget.endFill
      · split
        · exact (k.barrier ‹_›).countInto.endFill
        · exact k.logTarget.endFill
        · exact Kept.ite k.logTarget.endFill (Kept.ite k k.engineWait.same)
        · exact k.engineWait

theorem Kept.landFill {f : GFill} (k : Kept true true s₀ s) : Kept true true s₀ (s.landFill f) := by
  unfold State.landFill
  dsimp only
  split
  · exact k.same.updTask.countFill
  · exact Kept.ite k.useBanks.same.putTileBytes.updTask.countFill k.useBanks

theorem execGroupFillLand_leads (k : Kept true true s₀ s) : Leads true true s₀ (execGroupFillLand s) := by
  unfold execGroupFillLand
  split
  · exact k.next
  · exact (Kept.ite k.countFill k.landFill).next

/-! ### The range and its checks (R97, R295) -/

theorem Kept.rangeOf {va n : Nat} {r : List (Nat × Nat) × State} (k : Kept M T s₀ s) (h : s.rangeOf va n = .ok r) :
    Kept M T s₀ r.2 := by
  induction n generalizing s va r with
  | zero => cases h; exact k
  | succ n ih =>
    unfold State.rangeOf at h
    split at h
    case h_4 ht =>
      split at h
      · cases h
      · next e =>
        cases h
        exact (ih (k.translate ht) e :)
    all_goals cases h

/-! ### Completion (R106, R135, R164) -/

theorem Kept.endFreeze {op : FreezeOp} {failed : Bool} (k : Kept M T s₀ s) : Kept M T s₀ (s.endFreeze op failed) := by
  unfold State.endFreeze
  exact Kept.ite (Kept.ite k.same.endTokenOf.updTaskOf k.same.endTokenOf).updHart (Kept.ite k.same.endTokenOf.updTaskOf k.same.endTokenOf)

theorem Kept.updFreezeOp {id : Nat} {f : FreezeOp → FreezeOp} (k : Kept M T s₀ s) : Kept M T s₀ (s.updFreezeOp id f) := k.same

theorem Kept.signalFreeze {op : FreezeOp} (k : Kept true T s₀ s) : Kept true T s₀ (s.signalFreeze op) := by
  unfold State.signalFreeze
  dsimp only
  split
  · exact k
  · split
    · exact k.endFreeze
    · split
      · exact (k.barrier ‹_›).countInto.endFreeze
      · exact k.logTarget.endFreeze
      · exact Kept.ite k.logTarget.endFreeze (Kept.ite k k.engineWait.updFreezeOp)
      · exact k.engineWait

theorem Kept.unlockFreeze {op : FreezeOp} (k : Kept true T s₀ s) : Kept true T s₀ (s.unlockFreeze op) := k.same.signalFreeze

/-! ### Issue (R98, R104, R295) -/

theorem Kept.freezeIssue {thaw e : Bool} {y : BitVec 3} {c b a : Reg} (k : Kept true T s₀ s) :
    Leads true T s₀ (s.freezeIssue thaw e y c b a) := by
  unfold State.freezeIssue
  refine .ite k.next (k.guarded ?_)
  split
  · exact k.stop
  · next l t h =>
    have ht : Kept true T s₀ t := k.rangeOf h
    refine k.guarded ?_
    extract_lets parks u op v w
    have hu : Kept true T s₀ u := .ite ht (ht.cached (State.cleanCore_cached ..))
    have hv : Kept true T s₀ v := hu.same
    exact Kept.next (.ite hv.updMe.unlockFreeze hv.updMe)

/-! ### Shootdown and collection (R98, R104) -/

theorem Kept.collectPages {ps : List Nat} (k : Kept M T s₀ s) : Kept M T s₀ (s.collectPages ps) := by
  unfold State.collectPages
  extract_lets line near t far u
  have ht : Kept M T s₀ t := k.same.foldl fun _ k₁ => k₁.cached (State.dropL1_cached ..)
  have hu : Kept M T s₀ u := by
    unfold u
    refine ht.foldl fun x k₁ => ?_
    split
    · exact k₁.cached (State.recallVictim_cached ..)
    · exact k₁.cached (State.writeOut_cached ..)
    · exact k₁
  exact hu.same

theorem execFreezeComplete_leads (k : Kept true T s₀ s) : Leads true T s₀ (execFreezeComplete s) := by
  unfold execFreezeComplete
  split
  · exact k.next
  · exact Leads.ite k.next
      (Leads.ite k.signalFreeze.next (Leads.ite k.next (.next (.unlockFreeze (k.same.collectPages.foldl fun _ k₁ => k₁.same)))))

theorem Kept.thawShoot {op : FreezeOp} (k : Kept true T s₀ s) : Kept true T s₀ (s.thawShoot op) :=
  Kept.ite k (Kept.ite k.same.unlockFreeze (.updFreezeOp (k.same.foldl fun _ k₁ => k₁.same)))

theorem Kept.thawEpoch {op : FreezeOp} (k : Kept true T s₀ s) : Kept true T s₀ (s.thawEpoch op) := by
  unfold State.thawEpoch
  exact Kept.ite k (.thawShoot (.updFreezeOp (.foldl (k.foldl fun _ k₁ => k₁.same) fun _ k₁ => k₁.same)))

theorem Kept.thawCounts {op : FreezeOp} (k : Kept true T s₀ s) : Kept true T s₀ (s.thawCounts op) := by
  unfold State.thawCounts
  exact Kept.ite (.unlockFreeze (k.foldl fun _ k₁ => k₁.same)) (.thawEpoch (.updFreezeOp (k.foldl fun _ k₁ => k₁.same)))

theorem execThawComplete_leads (k : Kept true T s₀ s) : Leads true T s₀ (execThawComplete s) := by
  unfold execThawComplete
  split
  · exact k.next
  · split
    · exact k.next
    · split
      · exact k.signalFreeze.next
      · split
        · exact k.thawCounts.next
        · exact k.thawEpoch.next
        · exact k.thawShoot.next
        · exact Leads.ite k.unlockFreeze.next k.same.next

theorem Kept.resetLink {l : Nat} (k : Kept M T s₀ s) : Kept M T s₀ (s.resetLink l) := k.same

theorem execPeerInvalidateTimeout_leads (k : Kept true T s₀ s) : Leads true T s₀ (execPeerInvalidateTimeout s) := by
  unfold execPeerInvalidateTimeout
  split
  · exact k.next
  · exact Leads.ite (.next (.unlockFreeze (k.foldl fun _ k₁ => k₁.same))) k.next

/-! ### Issue (R177, R337 to R339) -/

theorem Kept.mgo {r : MReq} {enter : Quad → Quad} (k : Kept M T s₀ s) : Leads M T s₀ (s.mgo r enter) :=
  Leads.ite k.next (k.guarded (k.reporting (k.guarded k.same.next)))

theorem execMldb_leads {a : Reg} {e : BitVec 4} {y : BitVec 2} {c v : Bool} {d : Reg} (k : Kept M T s₀ s) :
    Leads M T s₀ (execMldb a e y c v d s) := by
  unfold execMldb
  exact k.mgo

theorem Kept.mdrain {i : Instr} {ext add push : Bool} {et : Nat} {a b d : Reg} (k : Kept M T s₀ s) :
    Leads M T s₀ (s.mdrain i ext add push et a b d) := k.mgo

/-! ### Operands at the head of the queue -/

theorem Kept.operandBytesOk {q : Nat} {c : MCmd} {src : MSrc} {n : Nat} {off : TileEntry → Nat} {l : List Byte} {b : Bool} {v : State}
    (k : Kept M T s₀ s) (h : s.operandBytes q c src n off = .ok l b v) : Kept M T s₀ v := by
  unfold State.operandBytes at h
  split at h
  · cases h; exact k
  · dsimp only at h
    split at h
    · cases h
    · cases h; exact k.updQuad
  · split at h
    · cases h; exact k.same
    · dsimp only at h
      split at h
      · cases h
      · obtain ⟨-, -, rfl⟩ := MGet.ok.inj h
        exact .ite (.same (s := s.useBanks ..) k.useBanks) k.useBanks.looked

theorem Kept.operandBytesWait {q : Nat} {c : MCmd} {src : MSrc} {n : Nat} {off : TileEntry → Nat} {v : State}
    (k : Kept M T s₀ s) (h : s.operandBytes q c src n off = .wait v) : Kept M T s₀ v := by
  unfold State.operandBytes at h
  split at h
  · cases h
  · dsimp only at h
    split at h <;> cases h
    exact k
  · split at h
    · cases h
    · dsimp only at h
      split at h <;> cases h
      exact k.useBanks

theorem Kept.matrixError {q h unit : Nat} {task : BitVec 32} (k : Kept M T s₀ s) : Kept M T s₀ (s.matrixError q h unit task) :=
  k.same.logError.updTask

/-! ### What the operations do (R340 to R348) -/

theorem Kept.mflags {c : MCmd} {f : Flags} (k : Kept M T s₀ s) : Kept M T s₀ (s.mflags c f) := k.updTask

theorem Kept.matrixEffect {q : Nat} {c : MCmd} {bad : List Nat} (k : Kept M T s₀ s) : Kept M T s₀ (s.matrixEffect q c bad).2 := by
  unfold State.matrixEffect
  extract_lets a err
  have he {b : Bool} {t : State} (ht : Kept M T s₀ t) : Kept M T s₀ (err b t) := .ite ht.matrixError (.ite ht.matrixError ht)
  clear_value err a
  split
  · split
    · exact k.operandBytesWait ‹_›
    · exact he (k.operandBytesOk ‹_›).updQuad.mflags
  · exact he k.updQuad.mflags
  · dsimp only
    exact k.updQuad.updTask
  · dsimp only
    split
    · exact k.operandBytesWait ‹_›
    · exact he (k.operandBytesOk ‹_›).updQuad
  · dsimp only
    exact k.updQuad
  · exact he k.updTask
  · exact he (Kept.updQuad k.same)

theorem Kept.retireMq {q : Nat} {c : MCmd} (k : Kept M T s₀ s) : Kept M T s₀ (s.retireMq q c) := Kept.ite (Kept.ite k.same k.same) k.same

theorem Kept.runMq {q : Nat} {c : MCmd} {bad : List Nat} (k : Kept M T s₀ s) : Kept M T s₀ (s.runMq q c bad) := by
  unfold State.runMq
  dsimp only
  split <;> exact Kept.ite k.same (Kept.ite k.same (Kept.ite k.same.matrixEffect.retireMq k.same.matrixEffect))

theorem execMatrixQueueExecute_leads (k : Kept M T s₀ s) : Leads M T s₀ (execMatrixQueueExecute s) := by
  unfold execMatrixQueueExecute
  dsimp only
  split
  · exact k.next
  · exact (Kept.ite k (Kept.ite k.retireMq k.runMq)).next

/-! ### Drains (R345, R346) -/

theorem Kept.drainRow {d : Drain} {r : Nat × List Nat} {v : State} (k : Kept M true s₀ s) (h : s.drainRow d r = some v) :
    Kept M true s₀ v := by
  unfold State.drainRow at h
  split at h
  · cases h; exact k
  · dsimp only at h
    split at h
    · cases h; exact k
    · split at h
      · cases h
      · rw [Option.some.injEq] at h
        subst h
        exact .ite (Kept.updTask (.putTileRun (.ite k.useBanks.looked k.useBanks))).matrixError
          (Kept.updTask (.putTileRun (.ite k.useBanks.looked k.useBanks)))

theorem Kept.drainRows {d : Drain} {l : List (Nat × List Nat)} (k : Kept M true s₀ s) : Kept M true s₀ (s.drainRows d l).1 := by
  induction l generalizing s with
  | nil => exact k
  | cons r l ih =>
    unfold State.drainRows
    split
    · exact k
    · exact ih (k.drainRow ‹_›)

theorem Kept.updDrain {q id : Nat} {f : Drain → Drain} (k : Kept M T s₀ s) : Kept M T s₀ (s.updDrain q id f) := k.same

theorem Kept.endDrain {q : Nat} {d : Drain} (k : Kept M T s₀ s) : Kept M T s₀ (s.endDrain q d) := by
  unfold State.endDrain
  extract_lets t gone
  have ht : Kept M T s₀ t := by
    unfold t
    split
    · exact k
    · exact k.same
  exact Kept.ite (Kept.ite ht.same ht.same) ht.same

theorem Kept.drainWake {d : Drain} {r : List (Nat × List Nat)} (k : Kept M T s₀ s) : Kept M T s₀ (s.drainWake d r) := by
  unfold State.drainWake
  split
  · exact k.useBanks
  · exact k

theorem execDrainComplete_leads (k : Kept M true s₀ s) : Leads M true s₀ (execDrainComplete s) := by
  unfold execDrainComplete
  dsimp only
  split
  · exact k.next
  · exact Leads.ite k.endDrain.next (Kept.ite k.drainRows.updDrain.drainWake.endDrain k.drainRows.updDrain.drainWake).next

/-! ### The limit of a hold (R139, R433) -/

theorem Kept.pushLost {q h : Nat} {task : BitVec 32} (k : Kept M T s₀ s) : Kept M T s₀ (s.pushLost q h task) :=
  Kept.ite k.logError.updHart k.logError

theorem Kept.expire {q : Nat} {op : HeldOp} (k : Kept true T s₀ s) : Kept true T s₀ (s.expire q op) := by
  unfold State.expire
  dsimp only
  split
  · exact k.same.pushLost
  · exact k.same
  · split <;> exact k.same
  · split
    · exact k.same
    · exact k.same.pushLost
  · split
    · exact k.same
    · exact k.same.pushLost
  · exact k.same
  · split
    · exact k.same
    · split
      · exact k.same.logEngine.stageXfer.countXfer
      · exact k.same

theorem execFifoHoldExpiry_leads (k : Kept true T s₀ s) : Leads true T s₀ (execFifoHoldExpiry s) := by
  unfold execFifoHoldExpiry
  dsimp only
  split
  · exact k.next
  · split
    · exact k.next
    · exact Leads.ite k.expire.next k.next

/-! ### Shared rules (R352) -/

theorem Kept.graphic {i : Instr} {bad : Bool} {pre : List (Option Stop)} {src dst : List (RFile × Nat)} {rd wr : List Nat} {go : Res}
    (k : Kept M T s₀ s) (k1 : Leads M T s₀ go) : Leads M T s₀ (s.graphic i bad pre src dst rd wr go) := by
  unfold State.graphic
  refine Kept.guarded k ?_
  refine Kept.vguard k ?_
  split
  · exact k.stopFor
  · exact k1

theorem Kept.reached {c : Acc} {n : Nat} (k : Kept M T s₀ c.s) : Kept M T s₀ (Acc.reached c n) :=
  (k.cached (State.bypass_cached ..)).updMe

theorem Kept.recordLine {dst : List (RFile × Nat)} {va : Word} {go : List Byte → State → Res} (k : Kept M T s₀ s)
    (h : ∀ l {v}, Kept M T s₀ v → Leads M T s₀ (go l v)) : Leads M T s₀ (s.recordLine dst va go) := by
  unfold State.recordLine
  dsimp only
  split
  · exact k.stopFor
  · split
    · exact k.stopFor
    · exact h _ (k.access ‹_›).reached.readSpan

theorem Kept.drawn {f : Hart → Hart} (k : Kept M T s₀ s) : Leads M T s₀ (s.drawn f) := k.same.next

/-! ### Textures (R359 to R363) -/

theorem Kept.readTaps {t : Tex} {l : List (Nat × Int × Int × Nat)} {r : List (Rgba × Nat) × State}
    (k : Kept M T s₀ s) (h : s.readTaps t l = .ok r) : Kept M T s₀ r.2 := by
  induction l generalizing s r with
  | nil => cases h; exact k
  | cons x l ih =>
    obtain ⟨a, i, j, w⟩ := x
    unfold State.readTaps at h
    dsimp only at h
    split at h
    · cases h
    · split at h
      · cases h
      · split at h
        · cases h
        · next e =>
          cases h
          exact (ih (k.access ‹_›).reached e :)

theorem Kept.lane {t : Tex} {lod e : Nat} {u v : FVal} {r : List Nat × State} (k : Kept M T s₀ s)
    (h : s.lane t lod e u v = .ok r) : Kept M T s₀ r.2 := by
  unfold State.lane at h
  split at h
  · cases h; exact k
  · split at h <;> cases h
    exact k.readTaps ‹_›

theorem Kept.lanes {t : Tex} {d g : Nat} {lod : Nat → Nat} {u v : Nat → FVal} {l : List Nat} (k : Kept M T s₀ s) :
    Kept M T s₀ (s.lanes t d g lod u v l).1 := by
  induction l generalizing s with
  | nil => exact k
  | cons e l ih =>
    unfold State.lanes
    split
    · exact k
    · exact ih (k.lane ‹_›).updMe

theorem Kept.sample {i : Instr} {given : Bool} {p : Nat} {x d : Reg} (k : Kept M T s₀ s) : Leads M T s₀ (s.sample i given p x d) := by
  unfold State.sample
  dsimp only
  refine Kept.graphic k ?_
  refine Kept.guarded k ?_
  split
  · split
    · exact k.same.lanes.drawn
    · exact k.same.lanes.updMe.parksFor
  · exact k.parksFor
  · exact (Kept.ite k.same.lanes k.same.lanes.updMe).stop

/-! ### BLENDC (R364 to R367) -/

theorem Kept.targets {l : List Word} {r : List Target × State} (k : Kept M T s₀ s) (h : s.targets l = .ok r) :
    Kept M T s₀ r.2 := by
  induction l generalizing s r with
  | nil => cases h; exact k
  | cons va l ih =>
    unfold State.targets at h
    split at h
    case h_4 =>
      split at h
      · cases h
      · next e =>
        cases h
        exact (ih (k.translate ‹_›) e :)
    all_goals cases h

theorem Kept.blend {h : Hart} {v p : Nat} {tile : Acc} {pass : Option Nat} (k : Kept true T s₀ s) :
    Kept true T s₀ (s.blend h v p tile pass) := by
  unfold State.blend
  extract_lets t
  have ht : Kept true T s₀ t := k.foldl fun _ k₁ => k₁.poke
  split
  · exact ht
  · exact ht.countInto

theorem Kept.commitBlend {pa key : Nat} (k : Kept true T s₀ s) : Leads true T s₀ (s.commitBlend pa key) := by
  unfold State.commitBlend
  exact Leads.ite k.next (Leads.ite k.sendSnoop.next ((k.cached (State.cleanCore_cached ..)).cached (State.reach_cached ..)).poke.drawn)

theorem Kept.blendGo {r : List Byte} {x : Word} {v p : Nat} (k : Kept true T s₀ s) : Leads true T s₀ (s.blendGo r x v p) := by
  unfold State.blendGo
  dsimp only
  split
  · exact k.trapAt
  · split
    · exact k.stop
    · next u e =>
      have hu : Kept true T s₀ u := k.targets e
      exact k.guarded (Kept.cached hu (State.reach_cached ..)).blend.parks
    · exact (k.targets ‹_›).next

theorem execBlendc_leads {p : BitVec 3} {x d : Reg} (k : Kept true T s₀ s) : Leads true T s₀ (execBlendc p x d s) := by
  unfold execBlendc
  dsimp only
  split
  · exact k.commitBlend
  · exact k.graphic (k.guarded (k.recordLine (fun _ _ k₁ => k₁.blendGo)))

theorem execBlendcQueueLimit_leads (k : Kept M T s₀ s) : Leads M T s₀ (execBlendcQueueLimit s) := by
  unfold execBlendcQueueLimit
  dsimp only
  split
  · exact Leads.ite k.same.next k.next
  · exact k.next

/-! ### ScalarMem -/

theorem Kept.logRead {pa n : Nat} (k : Kept M T s₀ s) : Kept M T s₀ (s.logRead pa n) := Kept.ite k.logUse k

theorem Kept.owedRead {c : Acc} {file : RFile} {d : Reg} {n : Nat} {va : Word} {value : Nat → Word} (k : Kept M T s₀ s)
    (k1 : Kept M T s₀ c.s) : Leads M T s₀ (s.owedRead c file d n va value) := by
  unfold State.owedRead
  exact k.paths k1 (Kept.ite k1.logRead.fetchData (k1.logRead.fetchData.cached (State.touch_cached ..))).updMe.next

theorem Kept.doneWrite {c : Acc} {n : Nat} {va : Word} {v : Nat} (k : Kept true T s₀ s) (k1 : Kept true T s₀ c.s) :
    Leads true T s₀ (s.doneWrite c n va v) := k.paths k1 (k1.storeAt.cached (State.touch_cached ..)).advance.next

theorem execScalarLoad_leads {op : LoadOp} {d a : Reg} {imm : BitVec 12} (k : Kept M T s₀ s) :
    Leads M T s₀ (execScalarLoad op d a imm s) := by
  unfold execScalarLoad
  dsimp only
  refine Kept.guarded k ?_
  split
  · exact k.stop
  · exact k.owedRead (k.scalarAccess ‹_›)

theorem execScalarStore_leads {op : StoreOp} {a b : Reg} {imm : BitVec 12} (k : Kept true T s₀ s) :
    Leads true T s₀ (execScalarStore op a b imm s) := by
  unfold execScalarStore
  dsimp only
  refine Kept.guarded k ?_
  split
  · exact k.stop
  · exact k.doneWrite (k.scalarAccess ‹_›)

/-! ### Atomics (R74, R124, R217, R267) -/

theorem Kept.releasesIf {b : Bool} (k : Kept M T s₀ s) : Kept M T s₀ (s.releasesIf b) := Kept.ite (k.cached (State.cleanCore_cached ..)) k
theorem Kept.acquiresIf {b : Bool} (k : Kept M T s₀ s) : Kept M T s₀ (s.acquiresIf b) := Kept.ite k.same k

theorem execAmo_leads {op : AmoOp} {dbl aq rl : Bool} {d a b : Reg} (k : Kept true T s₀ s) :
    Leads true T s₀ (execAmo op dbl aq rl d a b s) := by
  unfold execAmo
  dsimp only
  refine Kept.guarded k ?_
  split
  · exact k.stop
  · refine Kept.paths k (k.alignedAccess ‹_›)
      (k.guarded ((k.alignedAccess ‹_›).releasesIf.logRead.poke.cached (State.atomicAt_cached ..)).updMe.acquiresIf.next)

theorem Kept.reservedAccess {va : Word} {n : Nat} {acc : AccKind} {mis : Nat} {c : Acc} (k : Kept M T s₀ s)
    (h : s.reservedAccess va n acc mis = .ok c) : Kept M T s₀ c.s := by
  unfold State.reservedAccess at h
  split at h
  · cases h
  · next e =>
    split at h <;> cases h
    exact (k.alignedReq e :)

theorem Kept.reserves {c : Acc} {load : Bool} (k : Kept M T s₀ s) (k1 : Kept M T s₀ c.s) : Kept M T s₀ (s.reserves c load) :=
  Kept.ite (k.cached (State.atHome_cached ..)) (Kept.ite (k.cached (State.touch_cached ..)) k)

theorem execLr_leads {dbl aq rl : Bool} {d a : Reg} (k : Kept M T s₀ s) : Leads M T s₀ (execLr dbl aq rl d a s) := by
  unfold execLr
  refine k.guarded ?_
  split
  · exact k.stop
  · next c e =>
    have hc : Kept M T s₀ c.s := k.reservedAccess e
    exact k.paths hc (k.guarded (hc.releasesIf.logRead.reserves hc).updMe.acquiresIf.next)

theorem execSc_leads {dbl aq rl : Bool} {d a b : Reg} (k : Kept true T s₀ s) : Leads true T s₀ (execSc dbl aq rl d a b s) := by
  unfold execSc
  refine k.guarded ?_
  split
  · exact k.stop
  · next c e =>
    have hc : Kept true T s₀ c.s := k.reservedAccess e
    have hr : Kept true T s₀ (c.s.releasesIf rl) := hc.releasesIf
    exact k.paths hc (k.guarded (Kept.acquiresIf
      (Kept.updMe (.ite (hr.storeAt.cached (State.touch_cached ..)) (hr.reserves hc)))).next)

/-! ### LDS and STS (R264, R265) -/

theorem Kept.lds {acq : Bool} {z : BitVec 2} {b d : Reg} (k : Kept M T s₀ s) : Leads M T s₀ (s.lds acq z b d) := by
  unfold State.lds
  dsimp only
  refine Kept.guarded k ?_
  split
  · exact k.stop
  · exact Kept.owedRead k (k.alignedAccess ‹_›).acquiresIf

theorem Kept.sts {rel : Bool} {sc : BitVec 3} {v b : Reg} {z : BitVec 2} (k : Kept true T s₀ s) :
    Leads true T s₀ (s.sts rel sc v b z) := by
  unfold State.sts
  dsimp only
  refine Kept.guarded k ?_
  refine Kept.reporting k ?_
  split
  · exact k.stop
  · exact Kept.guarded k (Kept.doneWrite k (Kept.ite ((k.alignedAccess ‹_›).cached (State.cleanCore_cached ..)) (k.alignedAccess ‹_›)))

/-! ### Enqueuing (R248, R251) -/

theorem Kept.enqueueOne {q : Nat} {d : TaskDesc} {idx : List Nat} {quads : Option (List Nat)} {mate : Option (BitVec 32)}
    (k : Kept M T s₀ s) : Kept M T s₀ (s.enqueueOne q d idx quads mate) := k.same

theorem Kept.charge {p q n : Nat} (k : Kept M T s₀ s) : Kept M T s₀ (s.charge p q n) := Kept.ite k.same k
theorem Kept.enqueuePlain {p q : Nat} {d : TaskDesc} (k : Kept M T s₀ s) : Kept M T s₀ (s.enqueuePlain p q d) := k.charge.enqueueOne

theorem Kept.enqueueWaiter {q : Nat} {w : QWait} (k : Kept M T s₀ s) : Kept M T s₀ (s.enqueueWaiter q w) := by
  unfold State.enqueueWaiter
  exact k.same.enqueuePlain.updHart

theorem Kept.serveQueue {q : Nat} (k : Kept M T s₀ s) : Kept M T s₀ (s.serveQueue q) := by
  unfold State.serveQueue
  split
  · exact k
  · split
    · exact k.enqueueWaiter
    · exact k
    · exact k.same

theorem Kept.tenqArrive {q : Nat} {w : QWait} (k : Kept M T s₀ s) : Kept M T s₀ (s.tenqArrive q w) := by
  unfold State.tenqArrive
  dsimp only
  split
  · exact k.enqueueWaiter
  · exact k.same
  · exact k.same

/-! ### TENQ and TENQT (R249) -/

theorem Kept.readLine {va base : Word} {go : List Byte → State → Res} (k : Kept M T s₀ s)
    (h : ∀ l {v}, Kept M T s₀ v → Leads M T s₀ (go l v)) : Leads M T s₀ (s.readLine va base go) := by
  unfold State.readLine
  split
  · exact k.trap
  · exact k.stop
  · next c e =>
    have hc : Kept M T s₀ c.s := k.alignedAccess e
    exact k.paths hc (.ite hc.stop (h _ (hc.updMe.readSpan.cached (State.touch_cached ..))))

theorem Kept.takeAll {l : List Nat} (k : Kept M T s₀ s) : Kept M T s₀ (s.takeAll l) := k.same

theorem Kept.enqueueSteps {a b : Reg} {dst : List Reg} {denied : Res} {go : TaskDesc → State → Res} (k : Kept M T s₀ s)
    (hd : Leads M T s₀ denied) (h : ∀ d {v}, Kept M T s₀ v → Leads M T s₀ (go d v)) :
    Leads M T s₀ (s.enqueueSteps a b dst denied go) :=
  k.guarded (.ite hd ((k.cached (State.cleanCore_cached ..)).readLine fun _ _ k₁ => .ite k₁.trap (h _ k₁)))

theorem execTenqt_leads {u t : Bool} {b a d : Reg} (k : Kept M T s₀ s) : Leads M T s₀ (execTenqt u t b a d s) := by
  unfold execTenqt
  dsimp only
  refine Kept.enqueueSteps k (k.cached (State.cleanCore_cached ..)).takeAll.updMe.next (fun desc r k₁ => ?_)
  split
  · exact k₁.enqueuePlain.takeAll.updMe.next
  · exact k₁.same.next

/-! ### KLAUNCH (R250, R251) -/

theorem Kept.launch {q : Nat} {d : TaskDesc} {ls : List Nat} (k : Kept M T s₀ s) : Kept M T s₀ (s.launch q d ls) :=
  k.foldl fun _ k₁ => k₁.same

theorem execKlaunch_leads {t : Bool} {a d : Reg} (k : Kept M T s₀ s) : Leads M T s₀ (execKlaunch t a d s) := by
  refine k.guarded ((k.cached (State.cleanCore_cached ..)).readLine fun _ _ k₁ => k₁.readLine fun _ _ k₂ => ?_)
  dsimp only
  refine .ite k₂.trap (.ite k₂.takeAll.updMe.next ?_)
  split
  · exact k₂.charge.launch.takeAll.updMe.next
  · exact k₂.takeAll.updMe.next

/-! ### TICKET (R254) -/

theorem execTicket_leads {t : Bool} {a d : Reg} (k : Kept true T s₀ s) : Leads true T s₀ (execTicket t a d s) := by
  unfold execTicket
  dsimp only
  refine Kept.guarded k ?_
  split
  · exact k.stop
  · exact k.paths (k.alignedAccess ‹_›) ((k.alignedAccess ‹_›).logRead.poke.cached (State.atomicAt_cached ..)).takeAll.updMe.next

/-! ### Steps of the queues' slices -/

theorem execEnqueueRetry_leads (k : Kept M T s₀ s) : Leads M T s₀ (execEnqueueRetry s) := by
  unfold execEnqueueRetry
  split
  · exact k.next
  · exact Leads.ite k.tenqArrive.next k.next

theorem execFilterTokenAccrue_leads (k : Kept M T s₀ s) : Leads M T s₀ (execFilterTokenAccrue s) := by
  unfold execFilterTokenAccrue
  dsimp only
  split
  · exact k.next
  · split
    · exact k.same.next
    · exact Leads.ite k.same.next k.same.tenqArrive.next

/-! ### Leaving a park (R175) -/

theorem Kept.withdrawPop {h : Nat} (k : Kept M T s₀ s) : Kept M T s₀ (s.withdrawPop h) := by
  unfold State.withdrawPop
  dsimp only
  split
  · exact k.same
  · split
    · exact k
    · exact k.same

theorem Kept.undoAlloc {h : Nat} (k : Kept M T s₀ s) : Kept M T s₀ (s.undoAlloc h) := by
  unfold State.undoAlloc
  dsimp only
  split
  · exact k
  · exact k.same

theorem Kept.withdraw {h : Nat} (k : Kept M T s₀ s) : Kept M T s₀ (s.withdraw h) := by
  unfold State.withdraw
  extract_lets t u
  have ht : Kept M T s₀ t := Kept.ite k.withdrawPop (Kept.ite k.undoAlloc k)
  exact ht.same

/-! ### Classes (R374, R377) -/

theorem execTaskAgeing_leads (k : Kept M T s₀ s) : Leads M T s₀ (execTaskAgeing s) := by
  unfold execTaskAgeing
  dsimp only
  split
  · exact k.next
  · exact Leads.ite k.same.next k.next

/-! ### Which quads fit (R369, R373, R374) -/

theorem Kept.unpreload {d q : Nat} {id : BitVec 32} (k : Kept M T s₀ s) : Kept M T s₀ (s.unpreload d q id) := k.same

/-! ### Binding (R12, R200, R248, R259, R376) -/

theorem Kept.discard {p : Preload} (k : Kept M T s₀ s) : Kept M T s₀ (s.discard p) := by
  unfold State.discard
  dsimp only
  split <;> exact k.same

theorem Kept.discardSlot {h : Nat} (k : Kept M T s₀ s) : Kept M T s₀ (s.discardSlot h) := by
  unfold State.discardSlot
  split
  · exact k
  · exact k.discard

/-! ### WARMPC (R376) -/

theorem Kept.warmPart {qn h q : Nat} {x : Word × Nat} (k : Kept M T s₀ s) : Kept M T s₀ (s.warmPart qn h q x) := by
  unfold State.warmPart
  split
  · exact Kept.ite (k.translate ‹_›) ((k.translate ‹_›).cached (State.reach_cached ..)).updQueue
  · exact k

theorem Kept.keepWarm (k : Kept M T s₀ s) : Kept M T s₀ s.keepWarm := by
  unfold State.keepWarm
  refine k.foldl fun x k₁ => ?_
  split
  · exact Kept.ite (k₁.foldl fun _ k₂ => k₂.warmPart) k₁
  · exact k₁

theorem Kept.setWarm {qn h : Nat} {pc : Word} (k : Kept M T s₀ s) : Kept M T s₀ (s.setWarm qn h pc) := k.same

theorem Kept.bindTask {d : Nat} {c : Choice} (k : Kept M T s₀ s) : Kept M T s₀ (s.bindTask d c) := by
  unfold State.bindTask
  extract_lets a e task pre t t₁ t₂ t₃ t₄ t₅
  clear_value pre
  have h : Kept M T s₀ t := by
    unfold t
    split
    · exact k
    · exact .ite k.unpreload k.discard
  have h₂ : Kept M T s₀ t₂ := .ite (Kept.setWarm h.updQueue) h.updQueue
  have h₄ : Kept M T s₀ t₄ := h₂.same
  exact h₄.raiseIdle.lowerPhase.repoint.serveQueue

theorem Kept.dropStale {d : Nat} (k : Kept M T s₀ s) : Kept M T s₀ (s.dropStale d) := k.foldl fun _ k₁ => k₁.discard

theorem Kept.noteFit {q : Nat} (k : Kept M T s₀ s) : Kept M T s₀ (s.noteFit q) := by
  unfold State.noteFit
  dsimp only
  split
  · exact k
  · exact Kept.ite k k.same

theorem execTaskBind_leads (k : Kept M T s₀ s) : Leads M T s₀ (execTaskBind s) := by
  unfold execTaskBind
  extract_lets u d t
  have hu : Kept M T s₀ u := k.foldl fun _ k₁ => .ite k₁.noteFit k₁
  split
  · exact hu.next
  · split
    · exact hu.dropStale.next
    · exact hu.dropStale.bindTask.next

/-! ### Preloads (R381) -/

theorem Kept.fetchAhead {h : Nat} {pc : Word} (k : Kept M T s₀ s) : Kept M T s₀ (s.fetchAhead h pc) := by
  unfold State.fetchAhead
  split
  · exact Kept.ite (k.translate ‹_›) ((k.translate ‹_›).foldl fun _ k₁ => Kept.ite k₁ (k₁.cached (State.fillL1i_cached ..)))
  · exact k

theorem execTaskPreload_leads (k : Kept M T s₀ s) : Leads M T s₀ (execTaskPreload s) := by
  unfold execTaskPreload
  dsimp only
  split
  · exact k.next
  · split
    · exact k.next
    · split
      · exact k.next
      · split
        · exact k.fetchAhead.updDie.next
        · exact k.fetchAhead.updDie.updQuad.next

/-! ### Saving a task, and resuming it (R189, R253, R383) -/

theorem Kept.saveTask {h : Nat} (k : Kept M T s₀ s) : Kept M T s₀ (s.saveTask h) := k.same

theorem Kept.resumeSlot {h : Nat} (k : Kept M T s₀ s) : Kept M T s₀ (s.resumeSlot h) := by
  unfold State.resumeSlot
  split
  · exact k
  · exact k.same.lowerPhase

theorem Kept.freeSlot {h : Nat} (k : Kept M T s₀ s) : Kept M T s₀ (s.freeSlot h) := k.same.resumeSlot.repoint

theorem execTyield_leads (k : Kept M T s₀ s) : Leads M T s₀ (execTyield s) := by
  unfold execTyield
  dsimp only
  refine Kept.guarded k ?_
  split
  · exact k.same.next
  · split
    · exact k.same.next
    · exact k.same.bindTask.next

/-! ### TEXIT (R55, R84, R252) -/

theorem Kept.leaveAll {h : Nat} {task : BitVec 32} (k : Kept M T s₀ s) : Kept M T s₀ (s.leaveAll h task) :=
  .leaveGroups (k.foldl fun _ k₁ => k₁.same)

theorem execTexit_leads (k : Kept M T s₀ s) : Leads M T s₀ (execTexit s) := by
  unfold execTexit
  dsimp only
  refine Kept.reporting k ?_
  refine Kept.guarded k ?_
  refine Kept.reporting k ?_
  split
  · exact k.same.next
  · exact k.guarded (k.cached (State.cleanCore_cached ..)).leaveAll.freeSlot.next

/-! ### Eviction (R377) -/

theorem execUrgentEvict_leads (k : Kept M T s₀ s) : Leads M T s₀ (execUrgentEvict s) := by
  unfold execUrgentEvict
  dsimp only
  split
  · exact k.next
  · split
    · exact k.next
    · split
      · exact k.noteFit.next
      · exact Leads.ite k.noteFit.withdraw.saveTask.bindTask.next k.noteFit.next

/-! ### Failure records (R385) -/

theorem Kept.logRecord {q : Nat} {ws : List Word} (k : Kept M T s₀ s) : Kept M T s₀ (s.logRecord q ws) := k.same

theorem Kept.recordWait {q : Nat} {rq : Req} {e : EAcc} (k : Kept M T s₀ s) : Kept M T s₀ (s.recordWait q rq e) := by
  unfold State.recordWait
  split
  · exact Kept.ite k k.engineWait.updQueue
  · exact k.engineWait

theorem Kept.failRecord {q : Nat} {rq : Req} {ws : List Word} (k : Kept true T s₀ s) : Kept true T s₀ (s.failRecord q rq ws).2 := by
  unfold State.failRecord
  extract_lets a n task va
  split
  · exact k.logRecord
  · split
    case h_1 p u _ =>
      have hu : Kept true T s₀ u := k.engineParts ‹_›
      split
      · exact k.logRecord
      · extract_lets t
        have ht : Kept true T s₀ t := (hu.cached (State.bypass_cached ..)).poke
        exact ht.same
    · exact k.logRecord
    · exact k.tellEngine.logRecord
    · exact k.recordWait

/-! ### Retiring as failed (R386) -/

theorem Kept.discardWork {h : Nat} (k : Kept M T s₀ s) : Kept M T s₀ (s.discardWork h) := k.same

theorem Kept.logStoreErrors {h : Nat} {a : Hart} (k : Kept M T s₀ s) : Kept M T s₀ (s.logStoreErrors h a) := by
  unfold State.logStoreErrors
  refine k.foldl fun x k₁ => ?_
  split
  · exact k₁.logError
  · exact k₁

theorem Kept.dropRequests {h : Nat} (k : Kept M T s₀ s) : Kept M T s₀ (s.dropRequests h) := k.same

theorem Kept.retireFailed {h stat cause : Nat} {pc tval : Word} (k : Kept true T s₀ s) :
    Kept true T s₀ (s.retireFailed h stat cause pc tval) := by
  unfold State.retireFailed
  split
  · exact k
  · extract_lets t u v rq r
    have ht : Kept true T s₀ t := k.discardWork.discardSlot
    split
    · exact ht
    · have hu : Kept true T s₀ u := (ht.cached (State.cleanCore_cached ..)).logStoreErrors.updHart
      have hr : Kept true T s₀ r.2 := hu.dropRequests.leaveAll.failRecord
      exact .ite hr.freeSlot hr

theorem execRetireCall_leads (k : Kept true T s₀ s) : Leads true T s₀ (execRetireCall s) := by
  unfold execRetireCall
  dsimp only
  split
  · exact Leads.ite k.retireFailed.next k.next
  · exact k.retireFailed.next
  · exact k.next

/-! ### The reset of a virtual function (R387) -/

theorem Kept.denyAll {f : Nat} {qs : List Nat} (k : Kept M T s₀ s) : Kept M T s₀ (s.denyAll f qs) := by
  unfold State.denyAll
  exact k.same.foldl fun _ k₁ => k₁.foldl fun _ k₂ => k₂.same

theorem Kept.removeQueued {q h : Nat} {t : QTask} (k : Kept true T s₀ s) : Kept true T s₀ (s.removeQueued q h t) := by
  unfold State.removeQueued
  dsimp only
  split
  · exact Kept.ite (.updQueue (k.failRecord.foldl fun _ k₁ => k₁.discard)) k.failRecord
  · exact Kept.ite (.updQueue (k.same.foldl fun _ k₁ => k₁.discard)) k.same

theorem Kept.abortFunc {qs : List Nat} (k : Kept M T s₀ s) : Kept M T s₀ (s.abortFunc qs) := k.same

theorem Kept.resetRecord {a : Hart} {part h : Nat} {x5 : Task} (k : Kept true T s₀ s) :
    Kept true T s₀ (s.resetRecord a part h x5).2 := by
  unfold State.resetRecord
  exact k.failRecord

theorem Kept.retireYielded {y : Yielded} (k : Kept true T s₀ s) : Kept true T s₀ (s.retireYielded y) := by
  unfold State.retireYielded
  split
  · exact k
  · split
    · exact k
    · extract_lets _ z t u r
      have ht : Kept true T s₀ t := k.logStoreErrors
      have hu : Kept true T s₀ u := .leaveAll ht.same
      have hr : Kept true T s₀ r.2 := hu.resetRecord
      exact .ite hr.same hr

theorem Kept.updSaved {x : Saved} {f : Saved → Saved} (k : Kept M T s₀ s) : Kept M T s₀ (s.updSaved x f) := k.same

theorem Kept.retireSaved {x : Saved} {e : Nat × Hart} (k : Kept true T s₀ s) : Kept true T s₀ (s.retireSaved x e) := by
  unfold State.retireSaved
  split
  · exact k
  · exact Kept.ite k.logStoreErrors.updSaved.leaveGroupsOf.resetRecord.updSaved k.logStoreErrors.updSaved.leaveGroupsOf.resetRecord

theorem Kept.abortCollectives {p : Nat} (k : Kept M T s₀ s) : Kept M T s₀ (s.abortCollectives p) :=
  k.foldl fun _ k₁ => Kept.ite k₁.same k₁

theorem Kept.scrubTiles {qs : List Nat} (k : Kept M true s₀ s) : Kept M true s₀ (s.scrubTiles qs) := by
  unfold State.scrubTiles
  extract_lets t
  have ht : Kept M true s₀ t := k.foldl fun _ k₁ => k₁.foldl fun _ k₂ =>
    .freeTile (k₂.writeTile fun w => Memory.wf_filter w _)
  exact ht.same

/-! ### What is measured (R412) -/

theorem Kept.measured (k : Kept M T s₀ s) : Kept M T s₀ s.measured := k.same

theorem Kept.scrubKey {key : Nat} (k : Kept true T s₀ s) : Kept true T s₀ (s.scrubKey key) := by
  refine k.writeMem fun w => Memory.wf_foldl w fun r w₁ => Memory.wf_foldl w₁ fun i w₂ => ?_
  dsimp only
  split
  · exact w₂
  · exact Memory.wf_write w₂ ..

theorem Kept.retireRunning {h : Nat} (k : Kept true T s₀ s) : Kept true T s₀ (s.retireRunning h) :=
  (Kept.ite k k.withdraw.updHart).retireFailed

theorem execVfReset_leads (k : Kept true true s₀ s) : Leads true true s₀ (execVfReset s) := by
  unfold execVfReset
  extract_lets f qs t p u v
  split
  · exact k.next
  · split
    · exact k.denyAll.next
    · split
      · split
        · exact k.next
        · exact k.removeQueued.next
      · have ht : Kept true true s₀ t := k.abortFunc
        split
        · exact ht.retireRunning.next
        · exact ht.retireYielded.next
        · exact ht.retireSaved.next
        · clear_value p
          have hu : Kept true true s₀ u := by
            unfold u
            split
            · exact ht
            · exact ht.abortCollectives
          have hv : Kept true true s₀ v := hu.scrubTiles.foldl fun _ k₁ => k₁.scrubKey
          exact hv.same.next

/-! ### Stopping and resuming (R57, R143, R165, R189, R382) -/

theorem Kept.leavePark {h : Nat} (k : Kept M T s₀ s) : Kept M T s₀ (s.leavePark h) := Kept.ite k.withdraw k
theorem Kept.stopHart {h : Nat} (k : Kept M T s₀ s) : Kept M T s₀ (s.stopHart h) := k.leavePark.updHart.cached (State.cleanCore_cached ..)

theorem Kept.stopPart {p : Nat} (k : Kept M T s₀ s) : Kept M T s₀ (s.stopPart p) := by
  unfold State.stopPart
  split
  · exact k
  · extract_lets t u v
    have ht : Kept M T s₀ t := k.foldl fun _ k₁ => k₁.stopHart
    have hv : Kept M T s₀ v := ht.releaseAll.foldl fun _ k₁ => .ite k₁.discard k₁
    exact .updPart (hv.foldl fun _ k₁ => k₁.same)

theorem execPartitionResume_leads (k : Kept M T s₀ s) : Leads M T s₀ (execPartitionResume s) := by
  unfold execPartitionResume
  exact Leads.ite k.next (.next (.updPart (k.foldl fun _ k₁ => k₁.same.cached (State.cleanCore_cached ..))))

/-! ### A quad passes to another partition (R38, R43, R57, R336) -/

theorem Kept.pinAgain {q : Nat} (k : Kept M T s₀ s) : Kept M T s₀ (s.pinAgain q) := k.foldl fun _ k₁ => k₁.roleDone

theorem Kept.emptyQuad {q : Nat} (k : Kept M true s₀ s) : Kept M true s₀ (s.emptyQuad q) :=
  .updQuad (k.writeTile fun w => Memory.wf_filter w _)

theorem Kept.enterQuad {x : Saved} (k : Kept M true s₀ s) : Kept M true s₀ (s.enterQuad x) :=
  .pinAgain (.updQuad (k.writeTile fun w => Memory.wf_foldl w fun _ w₁ => Memory.wf_write w₁ ..))

theorem execQuadReassign_leads (k : Kept M true s₀ s) : Leads M true s₀ (execQuadReassign s) := by
  unfold execQuadReassign
  extract_lets q old new stopped isBack back fits u keep w t v map
  split
  · exact k.next
  · have hu : Kept M true s₀ u := k.foldl fun _ k₁ => k₁.cached (State.cleanCore_cached ..)
    have hw : Kept M true s₀ w := hu.emptyQuad
    clear_value w back
    have ht : Kept M true s₀ t := hw.same
    have hv : Kept M true s₀ v := by
      unfold v
      split
      · exact ht
      · exact ht.enterQuad
    exact hv.updQuad.lowerPhase.repoint.measured.next

/-! ### Walks (R29, R66, R67) -/

theorem Kept.beginWalk {q : Req} {acc : AccKind} {v w : Nat} {one : Option Nat} (k : Kept M T s₀ s) :
    Kept M T s₀ (s.beginWalk q acc v w one) := by
  unfold State.beginWalk
  dsimp only
  split
  · exact k.sendSnoop
  · exact k
  · exact k.walked.updDie

theorem execPageWalk_leads (k : Kept M T s₀ s) : Leads M T s₀ (execPageWalk s) := by
  unfold execPageWalk
  extract_lets r one q v d under mine gone
  clear_value under
  have hg : Kept M T s₀ gone := by
    unfold gone
    split
    · exact k
    · exact k.endWalk
  split
  · exact k.next
  · split
    · exact .ite k.next k.beginWalk.next
    · split
      · exact (k.walk ‹_›).next
      · exact hg.emit.next
      · exact hg.next
      · exact k.sendSnoop.next
      · exact k.next

/-! ### Chinook's answers (R18) -/

theorem Kept.dropMisses (k : Kept M T s₀ s) : Kept M T s₀ s.dropMisses := Kept.ite k.same k

theorem Kept.answer {m : MissBy} {deny : Bool} (k : Kept M T s₀ s) : Kept M T s₀ (s.answer m deny) := by
  unfold State.answer
  dsimp only
  split
  · exact k.dropMisses.updHart
  · exact k.dropMisses.updXfer
  · exact k.dropMisses.same
  · exact k.dropMisses.updFreezeOp
  · exact k.dropMisses.updQueue
  · exact k.dropMisses.same

theorem execChinookAnswer_leads (k : Kept M T s₀ s) : Leads M T s₀ (execChinookAnswer s) := by
  unfold execChinookAnswer
  split
  · exact k.next
  · exact k.answer.next

theorem execPartitionMissTimeout_leads (k : Kept M T s₀ s) : Leads M T s₀ (execPartitionMissTimeout s) := by
  unfold execPartitionMissTimeout
  split
  · exact k.next
  · exact Leads.ite k.answer.next k.next

/-! ### Shootdowns (R34) -/

theorem Kept.shootQuad {q : Nat} {x : Shootdown} (k : Kept M T s₀ s) : Kept M T s₀ (s.shootQuad q x) := by
  unfold State.shootQuad
  extract_lets keep t
  have h : Kept M T s₀ t := .updQuad k.same
  exact (h.foldl fun _ k₁ => k₁.updCore).updDie

theorem Kept.endShoot {x : Shootdown} (k : Kept M T s₀ s) : Kept M T s₀ (s.endShoot x) := by
  unfold State.endShoot
  split
  · exact k
  · exact k.same

theorem execShootdownAck_leads (k : Kept M T s₀ s) : Leads M T s₀ (execShootdownAck s) := by
  unfold execShootdownAck
  split
  · exact k.next
  · extract_lets q t y
    have h : Kept M T s₀ t := k.shootQuad
    clear_value t
    exact .ite k.same.endShoot.next (.ite k.next (.ite h.next (.ite h.same.endShoot.next h.same.next)))

theorem execChinookInvalidate_leads (k : Kept M T s₀ s) : Leads M T s₀ (execChinookInvalidate s) := by
  unfold execChinookInvalidate
  extract_lets p t
  have h : Kept M T s₀ t := (Kept.ite k.updPart k).measured
  exact .ite k.next (.ite h.next h.same.next)

/-! ### Lost lines that no list can hold (R80, R83) -/

theorem Kept.losePart {p : Nat} (k : Kept M T s₀ s) : Kept M T s₀ (s.losePart p) := k.stopPart.emit.foldl fun _ k₁ => k₁.denyAll

theorem Kept.loseOwners (k : Kept M T s₀ s) : Kept M T s₀ s.loseOwners := by
  unfold State.loseOwners
  split
  · exact k
  · exact k.same.foldl fun _ k₁ => k₁.foldl fun _ k₂ => k₂.losePart

/-! ### Steps of the directories and slices (R60, R69 to R76, R101, R103) -/

theorem Kept.serveReq {r : SliceReq} (k : Kept M T s₀ s) : Kept M T s₀ (s.serveReq r) := by
  unfold State.serveReq
  dsimp only
  split
  · exact k.cached (State.bypass_cached ..)
  · split
    · exact ((k.cached (State.serve_cached ..)).cached (State.roomL1_cached ..)).updCore
    · exact (((k.cached (State.serve_cached ..)).cached (State.track_cached ..)).cached (State.roomL1_cached ..)).updCore

theorem Kept.arriveAt {q : Nat} {r : SliceReq} (k : Kept M T s₀ s) : Kept M T s₀ (s.arriveAt q r) :=
  Kept.ite k (Kept.ite k.serveReq k.same)

theorem Kept.retryInput {q : Nat} (k : Kept M T s₀ s) : Kept M T s₀ (s.retryInput q) := k.same.foldl fun _ k₁ => k₁.arriveAt
theorem Kept.addError {n : Nat} (k : Kept M T s₀ s) : Kept M T s₀ (s.addError n) := Kept.ite k.logUse.updHart (Kept.ite k k.same)
theorem Kept.dropReplicas {line : Nat} (k : Kept M T s₀ s) : Kept M T s₀ (s.dropReplicas line) := k.same

theorem execHomeSliceRequest_leads (k : Kept M T s₀ s) : Leads M T s₀ (execHomeSliceRequest s) := by
  unfold execHomeSliceRequest
  extract_lets pa t t₁ t₂
  have h : Kept M T s₀ t := k.foldl fun _ k₁ => k₁.addError
  have h₁ : Kept M T s₀ t₁ := .ite h h.updQuad
  have h₂ : Kept M T s₀ t₂ := .ite h₁ h₁.dropReplicas
  exact .ite h₂.next h₂.arriveAt.next

theorem execMemoryFillReturn_leads (k : Kept M T s₀ s) : Leads M T s₀ (execMemoryFillReturn s) := by
  unfold execMemoryFillReturn
  extract_lets pa line q home st kind t t₁ t₂ t₃
  split
  · exact k.next
  · have h : Kept M T s₀ t := k.cached (State.useGddr_cached ..)
    have h₁ : Kept M T s₀ t₁ := .ite h.addError h
    have h₂ : Kept M T s₀ t₂ := .ite h₁.same h₁
    have h₃ : Kept M T s₀ t₃ := .ite h₂ (h₂.cached (State.fillSlice_cached ..))
    exact .ite h₃.updQuad.retryInput.next h₃.next

theorem execVictimOffer_leads (k : Kept M T s₀ s) : Leads M T s₀ (execVictimOffer s) := by
  unfold execVictimOffer
  split
  · exact k.next
  · exact Leads.ite k.next (k.cached (State.evictDirty_cached ..)).next

theorem execWriteBackArrival_leads (k : Kept M T s₀ s) : Leads M T s₀ (execWriteBackArrival s) := by
  unfold execWriteBackArrival
  split
  · exact k.next
  · refine Kept.next ?_
    refine Kept.cached ?_ (State.writeHome_cached ..)
    exact k

theorem execWbdWrite_leads (k : Kept M T s₀ s) : Leads M T s₀ (execWbdWrite s) := by
  unfold execWbdWrite
  split
  · exact k.next
  · exact (k.same.cached (State.memoryTakes_cached ..)).retryInput.next

/-! ### Rejoining, and the error log (R81 to R83) -/

theorem Kept.clearNames {q inc : Nat} (k : Kept M T s₀ s) : Kept M T s₀ (s.clearNames q inc) := k.same

theorem execAgentRejoin_leads (k : Kept M T s₀ s) : Leads M T s₀ (execAgentRejoin s) := by
  unfold execAgentRejoin
  split
  · exact k.resetLink.next
  · exact k.updQuad.next
  · exact (Kept.foldl (k.foldl fun _ k₁ => k₁.loseLine) fun _ k₁ => k₁.updCore).clearNames.updQuad.next

theorem Kept.configWrite (k : Kept M T s₀ s) : Kept M T s₀ s.configWrite := by
  unfold State.configWrite
  dsimp only
  split
  · exact Kept.ite (Kept.ite k.same k) k
  · exact Kept.ite k.same k
  · exact Kept.ite (Kept.ite k.same k).measured k
  · exact Kept.ite k.same k
  · exact Kept.ite k.same k
  · exact Kept.ite k.same k
  · exact k

/-! ### The L2 ports (R379, R380) -/

theorem execPortGrant_leads (k : Kept M T s₀ s) : Leads M T s₀ (execPortGrant s) := by
  unfold execPortGrant
  dsimp only
  split
  · exact k.next
  · split
    · exact k.next
    · exact k.same.next

/-! ### Operating points (R388 to R390) -/

theorem execRailRaiseDone_leads (k : Kept M T s₀ s) : Leads M T s₀ (execRailRaiseDone s) := by
  unfold execRailRaiseDone
  dsimp only
  split
  · exact k.same.next
  · exact Leads.ite k.same.next k.same.next

/-! ### Mistral's budget (R392 to R394) -/

theorem Kept.setCaps (k : Kept M T s₀ s) : Kept M T s₀ s.setCaps := by
  unfold State.setCaps
  extract_lets m hcap clamp ecap t t₁ sum short fl t₂
  have ht₁ : Kept M T s₀ t₁ := Kept.ite k.same.logEvent k.same
  exact Kept.ite ht₁.same ht₁.same.logEvent

theorem Kept.chargeEnergy (k : Kept M T s₀ s) : Kept M T s₀ s.chargeEnergy := by
  unfold State.chargeEnergy
  dsimp only
  refine k.foldl fun x k₁ => ?_
  split
  · exact k₁
  · exact k₁.same

theorem execMistralPeriod_leads (k : Kept M T s₀ s) : Leads M T s₀ (execMistralPeriod s) := by
  unfold execMistralPeriod
  split
  · exact k.next
  · extract_lets _ t t₁ g t₂ t₃
    have h₁ : Kept M T s₀ t₁ := Kept.setCaps (s := t) k.same
    have h₂ : Kept M T s₀ t₂ := h₁.same
    have h₃ : Kept M T s₀ t₃ := h₂.chargeEnergy.foldl fun _ k₁ => k₁.repoint
    exact h₃.raisePhases.next

/-! ### Throttling and sensors (R396 to R398) -/

theorem Kept.thermal {q : Nat} (k : Kept M T s₀ s) : Kept M T s₀ (s.thermal q) := by
  unfold State.thermal
  extract_lets a t t₁ t₂
  have ht₁ : Kept M T s₀ t₁ := Kept.ite k.holdFailed.updQuad.tlvlWrite.logEvent k.holdFailed
  have ht₂ : Kept M T s₀ t₂ := Kept.ite ht₁.same ht₁
  exact ht₂.same

theorem execSensorSample_leads (k : Kept M T s₀ s) : Leads M T s₀ (execSensorSample s) := by
  unfold execSensorSample
  extract_lets q a codes failed news rs same t t₁ _ t₂
  have h₁ : Kept M T s₀ t₁ := .foldl k.same fun _ k₁ => k₁.logEvent
  have h₂ : Kept M T s₀ t₂ := .ite h₁ h₁.same
  exact .ite k.next h₂.thermal.next

/-! ### Host accesses of device memory (R402, R404, R405, R430) -/

theorem Kept.setBias {page b : Nat} (k : Kept M T s₀ s) : Kept M T s₀ (s.setBias page b) := k.same
theorem Kept.hostReport {pa cause : Nat} (k : Kept M T s₀ s) : Kept M T s₀ (s.hostReport pa cause) := k.logError.emit

theorem Kept.recallLine {line : Nat} (k : Kept M T s₀ s) : Kept M T s₀ (s.recallLine line) := by
  unfold State.recallLine
  extract_lets t
  have ht : Kept M T s₀ t := Kept.ite (k.cached (State.memoryTakes_cached ..)) k
  exact ht.same

theorem Kept.invalidateLine {line : Nat} (k : Kept M T s₀ s) : Kept M T s₀ (s.invalidateLine line) :=
  k.same.cached (State.forget_cached ..)

theorem Kept.expelLine {line : Nat} (k : Kept M T s₀ s) : Kept M T s₀ (s.expelLine line) := k.recallLine.invalidateLine
theorem Kept.hostAnswer {x : HeldHost} (k : Kept M T s₀ s) : Kept M T s₀ (s.hostAnswer x) := (Kept.ite k.hostReport k).emit

theorem Kept.hostPerform {x : HeldHost} (k : Kept true T s₀ s) : Kept true T s₀ (s.hostPerform x) := by
  unfold State.hostPerform
  split
  · exact k.hostAnswer.cached (State.bypass_cached ..)
  · exact Kept.ite k.hostReport.emit (k.cached (State.bypass_cached ..)).expelLine.poke.emit

theorem Kept.serveHost {x : HeldHost} (k : Kept true T s₀ s) : Kept true T s₀ (s.serveHost x) := by
  unfold State.serveHost
  dsimp only
  split
  · exact k.same
  · split
    · exact (Kept.ite k.recallLine k).hostPerform
    · split
      · split
        · exact k.same.sendSnoop
        · exact k.same.hostPerform
      · exact k.hostPerform

theorem Kept.serveHeld (k : Kept true T s₀ s) : Kept true T s₀ s.serveHeld := Kept.ite k (k.same.foldl fun _ k₁ => k₁.serveHost)

theorem execHostMemRead_leads (k : Kept true T s₀ s) : Leads true T s₀ (execHostMemRead s) := by
  unfold execHostMemRead
  split
  · exact k.same.next
  · exact k.serveHost.next

theorem execHostMemWrite_leads (k : Kept true T s₀ s) : Leads true T s₀ (execHostMemWrite s) := by
  unfold execHostMemWrite
  split
  · exact k.same.next
  · exact k.serveHost.next

theorem execBisnpResponse_leads (k : Kept true T s₀ s) : Leads true T s₀ (execBisnpResponse s) := by
  unfold execBisnpResponse
  extract_lets line inv mine t kept u
  split
  · exact k.next
  · have ht : Kept true T s₀ t := by
      unfold t
      split
      · exact k
      · exact .ite k k.poke
    exact .ite ht.same.next ht.same.next

theorem execHostSnoop_leads (k : Kept true T s₀ s) : Leads true T s₀ (execHostSnoop s) := by
  unfold execHostSnoop
  dsimp only
  split
  · exact k.next
  · split
    · exact k.same.recallLine.next
    · split
      · exact k.same.recallLine.invalidateLine.breakResv.next
      · exact k.same.recallLine.invalidateLine.breakResv.poke.next

/-! ### Bias flips (R255, R405, R432) -/

theorem Kept.startFlip {f : BiasFlip} (k : Kept M T s₀ s) : Kept M T s₀ (s.startFlip f) := by
  unfold State.startFlip
  extract_lets t ls u v
  have hv : Kept M T s₀ v := Kept.ite k.same (k.same.foldl fun _ k₁ => k₁.sendSnoop)
  exact hv.same

theorem Kept.endFlip {f : BiasFlip} (k : Kept M T s₀ s) : Kept M T s₀ (s.endFlip f) := by
  unfold State.endFlip
  dsimp only
  split
  · exact k.same.endTokenOf
  · exact k.same.updTaskOf

theorem Kept.nextFlips {page : Nat} (k : Kept M T s₀ s) : Kept M T s₀ (s.nextFlips page) :=
  k.foldl fun _ k₁ => Kept.ite k₁ (Kept.ite k₁.endFlip k₁.startFlip)

theorem Kept.retryPage {page : Nat} (k : Kept M T s₀ s) : Kept M T s₀ (s.retryPage page) := k.foldl fun _ k₁ => k₁.retryInput

theorem execBiasFlipComplete_leads (k : Kept M T s₀ s) : Leads M T s₀ (execBiasFlipComplete s) := by
  unfold execBiasFlipComplete
  split
  · exact k.next
  · split
    · exact k.nextFlips.next
    · split
      · exact .ite k.expelLine.same.next k.next
      · split
        · exact k.next
        · extract_lets t
          have ht : Kept M T s₀ t := .ite (k.cached (State.dropDirs_cached ..)) k
          exact ht.setBias.endFlip.nextFlips.retryPage.next

theorem Kept.pgbias {host : Bool} {i : Instr} {e : Bool} {x5 : BitVec 3} {a : Reg} (k : Kept M T s₀ s) :
    Leads M T s₀ (s.pgbias host i e x5 a) := by
  unfold State.pgbias
  dsimp only
  split
  · exact k.illegal
  · split
    · exact k.next
    · refine Kept.guarded k ?_
      split
      · exact k.stop
      · exact k.stop
      · exact k.stop
      · refine Kept.guarded k
          (Leads.ite ((k.translate ‹_›).cached (State.cleanCore_cached ..)).advance.next
            (k.guarded
              (Kept.ite ((k.translate ‹_›).cached (State.cleanCore_cached ..)).same
                ((k.translate ‹_›).cached (State.cleanCore_cached ..)).startFlip).updMe.next))

/-! ### Interrupts (R188, R409) -/

theorem execInterruptEntry_leads (k : Kept M T s₀ s) : Leads M T s₀ (execInterruptEntry s) := by
  unfold execInterruptEntry
  dsimp only
  split
  · exact k.next
  · exact Leads.ite k.next (Leads.ite k.same.next (Leads.ite k.withdraw.updHart.next k.next))

/-! ### Virtual functions (R407) -/

theorem Kept.setEqstat {f v : Nat} (k : Kept M T s₀ s) : Kept M T s₀ (s.setEqstat f v) := k.same

theorem Kept.descAddr {p gpa : Nat} (k : Kept M T s₀ s) : Kept M T s₀ (s.descAddr p gpa).2 := by
  unfold State.descAddr
  dsimp only
  split
  · exact k
  · split
    · split
      · exact k.same
      · split <;> exact k
    · exact k
    · exact k.same
    · exact k.logEngine

theorem Kept.eqEnqueue {f p q : Nat} {d : TaskDesc} (k : Kept M T s₀ s) : Kept M T s₀ (s.eqEnqueue f p q d) := by
  unfold State.eqEnqueue
  split
  · exact k.same
  · split
    · exact k.enqueuePlain.setEqstat
    · exact k.same

theorem Kept.eqdesc {x : EqWait} (k : Kept M T s₀ s) : Kept M T s₀ (s.eqdesc x) := by
  unfold State.eqdesc
  dsimp only
  split
  · exact k.same
  · split
    · exact k.same
    · split
      · exact (k.descAddr.ofPair ‹_›).setEqstat
      · split
        · exact k.same
        · split
          · exact k.same.sendSnoop
          · exact Kept.ite (k.descAddr.ofPair ‹_›).logEngine.setEqstat
              ((k.descAddr.ofPair ‹_›).snoopsUsed.cached (State.bypass_cached ..)).eqEnqueue

theorem Kept.serveEq (k : Kept M T s₀ s) : Kept M T s₀ s.serveEq := Kept.ite k (k.same.foldl fun _ k₁ => k₁.eqdesc)

/-! ### Bora links (R413 to R416) -/

theorem Kept.linkChanged {l : Nat} (k : Kept M T s₀ s) : Kept M T s₀ (s.linkChanged l) := Kept.ite k.same k

theorem Kept.peerFail {w : PeerWait} {cause : Nat} (k : Kept M T s₀ s) : Kept M T s₀ (s.peerFail w cause) := by
  unfold State.peerFail
  split <;> exact k.same

theorem Kept.peerPerform {w : PeerWait} {c : Acc} (k : Kept true T s₀ s) (h : Kept true T s₀ c.s) :
    Kept true T s₀ (s.peerPerform w c) := by
  unfold State.peerPerform
  extract_lets l home t mine r _ _ u
  have ht : Kept true T s₀ t := h.cached (State.bypass_cached ..)
  split
  · exact .same (s := (t.writeSpan .hartU c.key c.pa _).emit (.peerWrite l 0)) ht.writeSpan.emit
  · split
    · exact k.logEngine.peerFail.same
    · have hu : Kept true T s₀ u := .ite (.same (s := r.2) ht.readSpan) ht.readSpan
      exact .same (s := u.emit (.peerRead l r.1 0)) hu.emit

theorem Kept.peerAccess {w : PeerWait} (k : Kept true T s₀ s) : Kept true T s₀ (s.peerAccess w) := by
  unfold State.peerAccess
  dsimp only
  split
  · exact k.peerFail
  · split
    · exact k.peerFail
    · split
      · exact k.tellEngine.peerFail
      · exact Kept.ite k.same (k.peerPerform (k.engineAccess ‹_›))
      · exact Kept.ite k.peerFail k.engineWait.same
      · exact k.engineWait.same

theorem Kept.servePeers (k : Kept true T s₀ s) : Kept true T s₀ s.servePeers :=
  Kept.ite k (k.same.foldl fun _ k₁ => Kept.ite k₁.same k₁.peerAccess)

/-! ### VectorArith -/

theorem Kept.vfifoPop {i : Instr} {fromMatrix : Bool} (k : Kept M T s₀ s) : Leads M T s₀ (s.vfifoPop i fromMatrix) :=
  Leads.ite k.next (k.vguard (k.guarded k.same.next))

/-! ### Dispatch -/

theorem exec_leads {i : Instr} (k : Kept true true s₀ s) : Leads true true s₀ (exec i s) := by
  cases i with
  | scalarAlu => exact execScalarAlu_leads k
  | integerDivide | take | pwhint => exact k.guarded k.same.next
  | fpDivideSqrt => exact k.rounded (fun _ => k.guarded k.same.next)
  | scalarLoad => exact execScalarLoad_leads k
  | scalarStore => exact execScalarStore_leads k
  | amo => exact execAmo_leads k
  | lr => exact execLr_leads k
  | sc => exact execSc_leads k
  | fence | fenceTso => exact k.fences
  | sfenceVma => exact execSfenceVma_leads k
  | csrAccess => exact execCsrAccess_leads k
  | takingAdd | takingSub | takingSll | takingSlt | takingSltu | takingXor | takingSrl | takingSra | takingOr | takingAnd
  | takingAddw | takingSubw | takingSllw | takingSrlw | takingSraw | takingMul | takingMulh | takingMulhu | takingMulw | takingMin
  | takingMax | takingMinu | takingMaxu => exact k.taking
  | putx => exact .ite k.next (.ite k.illegal (k.guarded k.sendWrite))
  | prempty | prtest => exact .ite k.illegal (k.guarded k.same.next)
  | vidxrd | vidxwr => exact k.vindexed
  | vpush => exact .ite k.next (k.guarded (k.vguard (k.guarded k.sendWrite)))
  | bfx | bfxs => exact k.taken2
  | bfi => exact k.guarded k.taken2
  | tenq => exact .ite k.next (k.enqueueSteps k.trap (fun _ _ k₁ => k₁.same.tenqArrive.next))
  | tenqt => exact execTenqt_leads k
  | klaunch => exact execKlaunch_leads k
  | ticket => exact execTicket_leads k
  | pgbiasHost | pgbiasDev => exact k.pgbias
  | sbwait => exact .ite k.same.next (k.reporting (k.guarded k.waitTokens))
  | vcfg | vcfgi => exact k.vconfigure
  | vmvx | vmvs => exact k.velem
  | ldsRlx | ldsAcq => exact k.lds
  | stsRlx | stsRel => exact k.sts
  | fenceSAcq | fenceSRel | fenceSAr => exact k.fenceS
  | bind => exact execBind_leads k
  | unbind => exact execUnbind_leads k
  | acq => exact .ite k.next k.acqStep
  | tryacq => exact execTryacq_leads (sc := 0) k
  | rel => exact execRel_leads k
  | arrive => exact execArrive_leads k
  | waitph => exact execWaitph_leads (sc := 0) k
  | testph => exact execTestph_leads (sc := 0) k
  | freeze | thaw => exact k.freezeIssue
  | cpy | cpyb => exact k.copy
  | shpld => exact execShpld_leads k
  | shpst => exact execShpst_leads k
  | talloc | tallocZ => exact k.talloc
  | tfree => exact execTfree_leads k
  | tld => exact k.guarded (k.tileAccess (fun _ _ _ => (Kept.ite k.logUse k).looked.useBanks.updMe.next))
  | tst => exact k.guarded (k.tileAccess (fun _ _ _ => k.useBanks.keepOld.putTile.advance.next))
  | gld | gldv => exact k.groupLoad
  | gjoin => exact k.guarded (.ite k.same.next (.ite k.same.next k.same.next))
  | gleave => exact k.guarded k.leaveGroup.advance.next
  | vaddVv | vaddVs | vaddVi | vsubVv | vsubVs | vrsubVs | vrsubVi | vmulVv | vmulVs | vmulhVv | vmulhVs | vmulhnVv | vmulhnVs
  | vaddsVv | vaddsVs | vaddsVi | vsubsVv | vsubsVs | vminVv | vminVs | vmaxVv | vmaxVs | vandVv | vandVs | vandVi | vorVv | vorVs
  | vorVi | vxorVv | vxorVs | vxorVi | vsllVv | vsllVs | vsllVi | vsrlVv | vsrlVs | vsrlVi | vsraVv | vsraVs | vsraVi => exact k.vint
  | vfaddVv | vfaddVs | vfsubVv | vfsubVs | vfmulVv | vfmulVs | vfminVv | vfminVs | vfmaxVv | vfmaxVs | vfdivVv | vfdivVs => exact k.vflt
  | vselVv | vselVs | vselVi | vqVsel => exact k.vsel
  | vcmpVv | vcmpVs | vcmpVi | vfcmpVv | vfcmpVs => exact k.vcmp
  | vperm | vslupVs | vslupVi | vsldnVs | vsldnVi | vsl1up | vxchg | vqVadd | vqVsub | vqVmul | vqVfadd | vqVfmul | vqVand | vqVor
  | vqVxor | vqVsll | vqVsrl => exact k.vbin
  | vscale => exact k.vgo
  | vmac | vffma | vffms | vfnfma | vqVmac | vqVffma => exact k.vthree
  | vwmac | vwmul => exact k.vwide
  | vcvt | vcvtSr => exact k.vcvt
  | vmv | vmvScalar | vtake | vcompress | vqVmv => exact k.vuna
  | vclz | vfabs | vpopc | vfneg | vfsqrt | vfclass | vrcp | vrsqrt | vexp2 | vlog2 | vsin | vcos => exact k.vone
  | vredsum | vfredsum | vredmin | vredmax => exact k.vred
  | pand | por | pxor | pnot | pset | pfirst | pmskup | pcnt | vfifoPushVm | vfifoPushVc =>
    dsimp only [exec]
    exact k.vpred
  | vedge => exact k.graphic (k.guarded (k.recordLine (fun _ _ k₁ => Leads.ite k.trapAt k₁.drawn)))
  | vrbox | vrtri => exact k.graphic (k.guarded (k.recordLine (fun _ _ k₁ => k₁.drawn)))
  | vtex | vtexl => exact k.sample
  | blendc => exact execBlendc_leads k
  | vld | vldff | vqVld => exact k.unitLoad
  | vst | vqVst => exact k.unitStore
  | vldsr | vlds | vldx => exact k.vload
  | vsts | vstx => exact k.vstore
  | vamoAdd | vamoSwap | vamoMin | vamoMax => exact k.vamo
  | mrow | msca | mcfg | mzero | mrd => exact k.mgo
  | mldb => exact execMldb_leads k
  | mdrainSt | mdrainAdd | mdrainxSt | mdrainxAdd => exact k.mdrain
  | fenceI | devicePhaseSettle | pwhintExpire | spdmRequest => exact k.same.next
  | ecall => exact execEcall_leads k
  | ebreak => exact k.trap
  | sret => exact execSret_leads k
  | mret => exact k.illegal
  | wfi => exact execWfi_leads k
  | texit => exact execTexit_leads k
  | tyield => exact execTyield_leads k
  | vfence => exact k.reporting (k.guarded k.same.next)
  | vfifoPopCv | vfifoPopMv => exact k.vfifoPop
  | interruptEntry => exact execInterruptEntry_leads k
  | lateResultLand => exact execLateResultLand_leads k
  | remoteWriteLand => exact execRemoteWriteLand_leads k
  | presenceTimeout => exact execPresenceTimeout_leads k
  | vectorQueueExecute => exact execVectorQueueExecute_leads k
  | matrixQueueExecute => exact execMatrixQueueExecute_leads k
  | drainComplete => exact execDrainComplete_leads k
  | fifoHoldExpiry => exact execFifoHoldExpiry_leads k
  | pageWalk => exact execPageWalk_leads k
  | pageFlush => exact .ite k.flushPage.same.next k.next
  | chinookAnswer => exact execChinookAnswer_leads k
  | partitionMissTimeout => exact execPartitionMissTimeout_leads k
  | shootdownAck => exact execShootdownAck_leads k
  | chinookInvalidate => exact execChinookInvalidate_leads k
  | homeSliceRequest => exact execHomeSliceRequest_leads k
  | directoryProbe => exact (Kept.ite (k.cached (State.probeDie_cached ..)) (k.cached (State.probeQuad_cached ..))).next
  | victimOffer => exact execVictimOffer_leads k
  | writeBackArrival => exact execWriteBackArrival_leads k
  | wbdWrite => exact execWbdWrite_leads k
  | agentRejoin => exact execAgentRejoin_leads k
  | errlogRead | evpopRead => exact k.same.regReadEffect.next
  | cecntWrite | evpushWrite => exact k.regWrite.next
  | bankWakeDone => exact .ite k.same.finishAllocs.next k.next
  | bankRetWakeDone => exact .ite k.same.finishAllocs.phaseUnpark.next k.next
  | bankPowerOff | bankRetention | wayRetire | stampSweepStart | wayKill | stampSweepEnd | swgoWrite | externalSourceRaise | clvlRise
  | clvlFall | hostirqWrite | ucieTraining | supervisorTimerInterrupt => exact .ite k.same.next k.next
  | wayWakeDone => exact .ite k.same.phaseUnpark.next k.next
  | wroleWrite => exact .ite k.wroleWrite.next k.next
  | swrWrite => exact .ite k.swrWrite.next k.next
  | roleChangeDone => exact execRoleChangeDone_leads k
  | wayPinDone => exact .ite k.roleDone.finishAllocs.phaseUnpark.next k.next
  | bwphWrite | wdlimWrite | fmtWrite | sbstatWrite | vhwWrite | csrWrite => exact k.writeStep
  | gddrPowerDown | portTokenAccrue | claimCall | droopSignal | collectiveAbort | frameLeavesPartition => exact .ite k.next k.same.next
  | groupRequestArrive => exact execGroupRequestArrive_leads k
  | groupHoldTimeout => exact execGroupHoldTimeout_leads k
  | groupFillLand => exact execGroupFillLand_leads k
  | freezeComplete => exact execFreezeComplete_leads k
  | thawComplete => exact execThawComplete_leads k
  | peerInvalidateTimeout => exact execPeerInvalidateTimeout_leads k
  | acqRetry => exact execAcqRetry_leads k
  | copyAdmit => exact execCopyAdmit_leads k
  | copyRunEmit => exact execCopyRunEmit_leads k
  | copyLinePerformed => exact execCopyLinePerformed_leads k
  | copyComplete => exact execCopyComplete_leads k
  | slidePrefetch => exact execSlidePrefetch_leads k
  | mmioWrite => exact .ite k.configWrite.next (.ite k.same.next (.ite k.next k.mmioWrite.next))
  | enqueueArrive => exact k.serveQueue.next
  | enqueueRetry => exact execEnqueueRetry_leads k
  | filterTokenAccrue => exact execFilterTokenAccrue_leads k
  | taskBind => exact execTaskBind_leads k
  | taskPreload => exact execTaskPreload_leads k
  | taskAgeing => exact execTaskAgeing_leads k
  | urgentEvict => exact execUrgentEvict_leads k
  | portGrant => exact execPortGrant_leads k
  | partitionStop => exact k.stopPart.next
  | partitionResume => exact execPartitionResume_leads k
  | quadReassign => exact execQuadReassign_leads k
  | vfReset => exact execVfReset_leads k
  | retireCall => exact execRetireCall_leads k
  | msixCall | swiCall | idleEntry | firmwareVerify => exact .ite k.next (.ite k.same.next k.same.next)
  | mistralPeriod => exact execMistralPeriod_leads k
  | railRaiseDone => exact execRailRaiseDone_leads k
  | tlvlWrite => exact .ite k.tlvlWrite.next k.next
  | sfailWrite => exact .ite k.sfailWrite.next k.next
  | sensorSample => exact execSensorSample_leads k
  | idleWake => exact .ite k.raiseIdle.next k.next
  | hostMemRead => exact execHostMemRead_leads k
  | hostMemWrite => exact execHostMemWrite_leads k
  | bisnpResponse => exact execBisnpResponse_leads k
  | biasFlipComplete => exact execBiasFlipComplete_leads k
  | hostSnoop => exact execHostSnoop_leads k
  | eqdescWrite => exact .ite k.next k.eqdesc.next
  | boraLinkChange => exact .ite k.next (.ite k.same.linkChanged.next k.same.linkChanged.failRuns.next)
  | peerRequest => exact .ite k.next k.peerAccess.next
  | blendcQueueLimit => exact execBlendcQueueLimit_leads k
  | runBudgetExceeded => exact .ite k.discardSlot.next k.next
  | memoryFillReturn => exact execMemoryFillReturn_leads k

/-! ### Fetching an instruction (R59, R79, R183, R216) -/

theorem Kept.fetchParcel {va : Word} {r : Nat × State} (k : Kept M T s₀ s) (h : s.fetchParcel va = .ok r) : Kept M T s₀ r.2 := by
  unfold State.fetchParcel at h
  split at h
  case h_4 ht =>
    have kt := k.translate ht
    dsimp only at h
    split at h
    · split at h <;> cases h
      exact kt
    · split at h
      · cases h
        exact kt.fetchData
      · repeat' split at h
        all_goals cases h
        · exact kt.cached (State.keepCode_cached ..)
        · exact kt.cached (State.fillL1i_cached ..)
        · exact kt.cached (State.bypass_cached ..)
  all_goals cases h

theorem Kept.fetchRaw {n w : Nat} {v : State} (k : Kept M T s₀ s) (h : s.fetchRaw = .ok (n, w, v)) : Kept M T s₀ v := by
  unfold State.fetchRaw at h
  split at h
  · cases h
  · next e =>
    split at h
    · split at h <;> cases h
      exact (k.fetchParcel e).fetchParcel ‹_›
    · cases h
      exact k.fetchParcel e

theorem Kept.fetchStop {st : Stop} (k : Kept M T s₀ s) : Leads M T s₀ (s.fetchStop st) := by
  unfold State.fetchStop
  dsimp only
  split
  · exact k.parks
  · exact k.same.parks
  · exact k.same.tell.parks
  · exact k.same.stop

theorem Kept.begins (k : Kept M T s₀ s) : Kept M T s₀ s.begins := k.same

theorem Kept.fetchExec (k : Kept true true s₀ s) : Leads true true s₀ s.fetchExec := by
  unfold State.fetchExec
  split
  · exact k.fetchStop
  · next t h =>
    have hu : Kept true true s₀ t.begins := (k.fetchRaw h).begins
    dsimp only
    split
    · exact hu.trapAt
    · exact exec_leads hu

/-! ### The issue turn of a hart (R170, R175, R189, R396) -/

theorem Kept.endTrapped {h : Nat} (k : Kept M T s₀ s) : Kept M T s₀ (s.endTrapped h) := by
  unfold State.endTrapped
  dsimp only
  split
  · exact k.endFailed
  · exact Kept.ite k.endFailed k

theorem Kept.afterIssue {h : Nat} (k : Kept M T s₀ s) : Kept M T s₀ (s.afterIssue h) := by
  unfold State.afterIssue
  extract_lets t t₁ p miss asks u
  have h₁ : Kept M T s₀ t₁ := .ite k.endTrapped.leavePark k.endTrapped
  have hu : Kept M T s₀ u := .ite h₁ h₁.same
  exact .ite hu hu.same

theorem Leads.andThen {r : Res} {f : State → State} (k : Leads M T s₀ r) (h : ∀ {v}, Kept M T s₀ v → Kept M T s₀ (f v)) :
    Leads M T s₀ (andThen r f) := by
  intro u hu
  cases r with
  | next v => exact (h (k v rfl)).next u hu
  | fault => cases hu
  | refused => cases hu

theorem Kept.issueTurn {h : Nat} (k : Kept true true s₀ s) : Leads true true s₀ (s.issueTurn h) := by
  have ht : Kept true true s₀ { s with cur := h } := k.same
  exact .ite (Leads.andThen (Kept.ite ht.updHart ht).fetchExec fun k₁ => k₁.afterIssue) ht.next

/-! ### Steps of other agents -/

theorem Kept.eventTurn {i : Instr} {a : EvArg} (k : Kept true true s₀ s) : Leads true true s₀ (s.eventTurn i a) :=
  Leads.ite (exec_leads k.same) k.next

/-! ### The schedule (log 1) -/

theorem Kept.nextTurn (k : Kept M T s₀ s) : Kept M T s₀ s.nextTurn.2 := by
  unfold State.nextTurn
  split <;> exact k.same

theorem Kept.runTurn {x2 : Turn} (k : Kept true true s₀ s) : Leads true true s₀ (s.runTurn x2) := by
  unfold State.runTurn
  split
  · exact k.issueTurn
  · exact k.eventTurn
  · exact k.same.next

theorem Kept.settle (k : Kept true T s₀ s) : Kept true T s₀ s.settle := k.loseOwners.grantFree.serveHeld.servePeers.serveEq.keepWarm

theorem Kept.stepOnce (k : Kept true true s₀ s) : Leads true true s₀ s.stepOnce :=
  .ite k.nextTurn.next (Leads.andThen k.nextTurn.runTurn fun k₁ => k₁.settle)

/-- Settles O58: the memories are written in their canonical form by every operation (`Kept`), and a step is a run of operations. -/
theorem memoriesStayCanonical : Obligations.MemoriesStayCanonical :=
  fun s t w e => ((Kept.refl s).stepOnce t e).canonical w

end

end Sys2Proof.Machine
end

section
/-!
SUPPORT. The L1 data caches only lose lines to the operations of slices and directories, and dropping a line removes it from its core.
-/
namespace Sys2Proof.Machine

/-! ### Lines of L1 data caches -/

/-- The L1 data caches of a state hold no line that those of another do not. -/
structure State.L1Within (s t : State) : Prop where
  sub : ∀ c, ∀ l ∈ (t.core c).l1d, ∃ m ∈ (s.core c).l1d, m.1 = l.1

theorem State.L1Within.refl (s : State) : s.L1Within s := ⟨fun _ l hl => ⟨l, hl, rfl⟩⟩

theorem State.L1Within.trans {s t u : State} (a : s.L1Within t) (b : t.L1Within u) : s.L1Within u := by
  refine ⟨fun c l hl => ?_⟩
  obtain ⟨m, hm, e⟩ := b.sub c l hl
  exact e ▸ a.sub c m hm

/-- An operation that leaves the cores. -/
theorem State.L1Within.same {s t u : State} (h : s.L1Within t) (e : u.cores = t.cores) : s.L1Within u := by
  refine ⟨fun c l hl => ?_⟩
  unfold State.core at hl
  rw [e] at hl
  exact h.sub c l hl

theorem State.L1Within.updQuad {s t : State} (h : s.L1Within t) (q : Nat) (f : Quad → Quad) : s.L1Within (t.updQuad q f) := h.same rfl

theorem State.L1Within.foldl {α : Type} {f : State → α → State} {s t : State} (k : s.L1Within t) (l : List α)
    (h : ∀ t x, State.L1Within t (f t x)) : s.L1Within (l.foldl f t) := by
  induction l generalizing t with
  | nil => exact k
  | cons x l ih => exact ih (k.trans (h t x))

/-- A core's record replaced by one that holds no further line. -/
theorem State.L1Within.updCore {s t : State} (k : s.L1Within t) (c : Nat) (f : Core → Core)
    (h : ∀ a, ∀ l ∈ (f a).l1d, ∃ m ∈ a.l1d, m.1 = l.1) : s.L1Within (t.updCore c f) := by
  refine k.trans ⟨fun j l hl => ?_⟩
  by_cases e : j = c
  · subst e
    rw [State.core_updCore] at hl
    exact h _ l hl
  · unfold State.core State.updCore at hl
    rw [Tab.get_set_other _ _ _ _ _ e] at hl
    exact ⟨l, hl, rfl⟩

/-! ### Operations that leave the cores -/

theorem State.clearSite_cores (s : State) (n : Nat) : (s.clearSite n).cores = s.cores := by
  unfold State.clearSite
  split <;> rfl

theorem State.forget_cores (s : State) (line : Nat) : (s.forget line).cores = s.cores := by
  unfold State.forget
  split
  · rfl
  · exact State.clearSite_cores ..

theorem State.failLine_cores (s : State) (line : Nat) : (s.failLine line).cores = s.cores := by
  unfold State.failLine
  split
  · rfl
  · split <;> rfl

theorem State.useGddr_cores (s : State) (pa : Nat) : (s.useGddr pa).cores = s.cores := by
  unfold State.useGddr
  split <;> rfl

theorem State.writtenBack_cores (s : State) (line : Nat) : (s.writtenBack line).cores = s.cores := by
  unfold State.writtenBack
  split
  · exact State.failLine_cores ..
  · rfl

theorem State.memoryTakes_cores (s : State) (line : Nat) : (s.memoryTakes line).cores = s.cores :=
  (State.writtenBack_cores ..).trans (State.useGddr_cores ..)

theorem State.useLine_cores (s : State) (q line : Nat) : (s.useLine q line).cores = s.cores := by
  unfold State.useLine
  split <;> rfl

theorem State.dropClean_cores (s : State) (q line : Nat) : (s.dropClean q line).cores = s.cores := State.forget_cores ..

theorem State.toMemory_cores (s : State) (q line : Nat) : (s.toMemory q line).cores = s.cores := by
  unfold State.toMemory
  dsimp only
  split
  · exact State.memoryTakes_cores (s.dropLine q line) line
  · exact State.memoryTakes_cores (s.dropLine q line) line

theorem State.flushRegion_cores (s : State) (q region : Nat) (f : SliceLine → Bool) : (s.flushRegion q region f).cores = s.cores := by
  unfold State.flushRegion
  generalize (s.quad q).lines.filter _ = l
  induction l generalizing s with
  | nil => rfl
  | cons x l ih => exact (ih _).trans (State.toMemory_cores ..)

theorem State.settleDirty_cores (s : State) (line : Nat) : (State.settleDirty s line).cores = s.cores := by
  unfold State.settleDirty
  dsimp only
  split
  · exact State.useLine_cores ..
  · split
    · exact State.memoryTakes_cores ..
    · split
      · exact State.memoryTakes_cores (s.dropLine _ line) line
      · exact State.useLine_cores ..

/-! ### What a write-back of any kind leaves of the L1 caches -/

/-- A write-back adds no line to an L1 cache. -/
abbrev WriteBack.Within (wb : WriteBack) : Prop := ∀ s line, State.L1Within s (wb s line)

section
variable {wb : WriteBack}

theorem WriteBack.Within.dropL1By (k : wb.Within) (s : State) (c line : Nat) : s.L1Within (s.dropL1By wb c line) := by
  have ht : s.L1Within (s.updCore c (fun a => { a with l1d := Tab.erase a.l1d line })) :=
    (State.L1Within.refl s).updCore c _ fun a l hl => ⟨l, (List.mem_filter.mp hl).1, rfl⟩
  unfold State.dropL1By
  split
  · exact .refl s
  · dsimp only
    split
    · exact ht.trans (k ..)
    · exact ht.same (State.forget_cores ..)

theorem WriteBack.Within.probeCoresBy (k : wb.Within) (s : State) (q line : Nat) (keep : Option Nat) (dirty : Bool) :
    s.L1Within (s.probeCoresBy wb q line keep dirty) := by
  unfold State.probeCoresBy
  extract_lets cs go t left
  have ht : s.L1Within t := (State.L1Within.refl s).foldl _ fun t c => k.dropL1By t (4 * q + c) line
  split
  · exact (ht.updQuad ..).same (State.clearSite_cores ..)
  · exact ht.same rfl

theorem WriteBack.Within.probeDieBy (k : wb.Within) (s : State) (d line : Nat) : s.L1Within (s.probeDieBy wb d line) := by
  unfold State.probeDieBy
  extract_lets x t
  have ht : s.L1Within t := (State.L1Within.refl s).foldl _ fun t q => k.probeCoresBy t q line none false
  split
  · exact ht
  · split
    · exact ht
    · split
      · exact (ht.same (u := t.dropLine x line) rfl).trans (k ..)
      · exact ht.same (State.dropClean_cores ..)

theorem WriteBack.Within.recallVictimBy (k : wb.Within) (s : State) (n line : Nat) : s.L1Within (s.recallVictimBy wb n line) := by
  unfold State.recallVictimBy
  split
  · exact .refl s
  · split
    · exact ((State.L1Within.refl s).same (u := s.dropLine n line) rfl).trans (k ..)
    · exact .refl s

theorem WriteBack.Within.evictRegionBy (k : wb.Within) (s : State) (q region : Nat) : s.L1Within (s.evictRegionBy wb q region) := by
  unfold State.evictRegionBy
  extract_lets e ls t u v
  have ht : s.L1Within t := (State.L1Within.refl s).foldl _ fun t j =>
    (State.L1Within.refl t).foldl ls fun t l => k.probeCoresBy t j l none false
  have hu : s.L1Within u := ht.foldl _ fun t d =>
    ((State.L1Within.refl t).foldl ls fun t l => k.probeDieBy t d l).updQuad ..
  have hv : s.L1Within v := by
    unfold v
    split
    · exact (hu.updQuad ..).foldl ls fun t l => k.recallVictimBy t _ l
    · exact hu
  exact (hv.updQuad ..).same (State.clearSite_cores ..)

theorem WriteBack.Within.updDirBy (k : wb.Within) (s : State) (q region : Nat) (f : DirEntry → DirEntry) :
    s.L1Within (s.updDirBy wb q region f) := by
  unfold State.updDirBy
  extract_lets d mates t
  clear_value mates
  have ht : s.L1Within t := by
    unfold t
    split
    · exact .refl s
    · split
      · exact k.evictRegionBy ..
      · exact .refl s
  exact ht.same rfl

end

theorem State.settleDirty_within : WriteBack.Within State.settleDirty := fun s line =>
  (State.L1Within.refl s).same (State.settleDirty_cores s line)

/-! ### Evictions and fills -/

theorem State.cleanRegion_within (s : State) (q region : Nat) : s.L1Within (s.cleanRegion q region) := by
  refine (State.L1Within.refl s).foldl _ fun t c => ?_
  refine State.L1Within.updCore ?_ c _ fun a l hl => ?_
  · exact (State.L1Within.refl t).foldl _ fun t l => (State.L1Within.refl t).same (State.memoryTakes_cores ..)
  · obtain ⟨m, hm, rfl⟩ := List.mem_map.mp hl
    refine ⟨m, hm, ?_⟩
    split <;> rfl

theorem State.releaseOwner_within (s : State) (n region : Nat) (o : DirOwner) : s.L1Within (s.releaseOwner n region o) := by
  unfold State.releaseOwner
  dsimp only
  split
  · exact .refl s
  · split
    · exact .refl s
    · exact State.cleanRegion_within ..
    · refine State.L1Within.updQuad ?_ ..
      exact ((State.L1Within.refl s).foldl _ fun t q => State.cleanRegion_within t q region).same (State.flushRegion_cores ..)
    · exact (State.L1Within.refl s).same (State.flushRegion_cores ..)

theorem State.evictDirty_within (s : State) (q line : Nat) : s.L1Within (s.evictDirty q line) := by
  unfold State.evictDirty
  split
  · exact .refl s
  · extract_lets home dest
    clear_value dest
    split
    · exact (State.L1Within.refl s).same (State.toMemory_cores ..)
    · extract_lets u
      have hu : s.L1Within u :=
        (((State.L1Within.refl s).same (u := s.dropLine q line) rfl).trans (State.releaseOwner_within ..)).trans
          (State.settleDirty_within.updDirBy ..)
      split
      · exact hu.same (State.memoryTakes_cores ..)
      · extract_lets v name
        have hv : s.L1Within v := by
          unfold v
          split
          · exact hu.same (State.dropClean_cores ..)
          · exact hu
        exact (hv.updQuad ..).updQuad ..

theorem State.fillSlice_within (s : State) (q line : Nat) (kind : LineKind) (dirty : Bool) (stamp : Nat) (least : Bool) :
    s.L1Within (s.fillSlice q line kind dirty stamp least) := by
  unfold State.fillSlice
  extract_lets s₁ s₂
  have h₁ : s.L1Within s₁ := by
    unfold s₁
    split
    · exact (State.L1Within.refl s).same rfl
    · exact .refl s
  have h₂ : s.L1Within s₂ := h₁.same (State.forget_cores ..)
  split
  · split
    · exact h₂.same (State.memoryTakes_cores ..)
    · exact h₂
  · extract_lets t
    have ht : s.L1Within t := by
      unfold t
      split
      · split
        · exact h₂.trans (State.evictDirty_within ..)
        · exact h₂.same (State.dropClean_cores ..)
      · exact h₂
    exact ht.same rfl

theorem State.dirtyLine_within (s : State) (q line : Nat) (kind : LineKind) : s.L1Within (s.dirtyLine q line kind) := by
  unfold State.dirtyLine
  split
  · exact State.fillSlice_within ..
  · split
    · exact ((State.L1Within.refl s).same (u := s.dropLine q line) rfl).trans (State.fillSlice_within ..)
    · exact (State.L1Within.refl s).same (State.useLine_cores ..)

theorem State.writeHome_within : WriteBack.Within State.writeHome := by
  intro s line
  unfold State.writeHome
  dsimp only
  split
  · exact (State.L1Within.refl s).same (State.useLine_cores ..)
  · split
    · exact (State.L1Within.refl s).same (State.memoryTakes_cores (s.dropLine _ line) line)
    · split
      · exact State.dirtyLine_within ..
      · split
        · exact (State.L1Within.refl s).same rfl
        · split
          · exact (State.L1Within.refl s).same rfl
          · exact (State.L1Within.refl s).same (State.memoryTakes_cores (s.dropLine _ line) line)

/-! ### A line dropped -/

theorem State.dropL1_within (s : State) (c line : Nat) : s.L1Within (s.dropL1 c line) := State.writeHome_within.dropL1By ..

/-- A dropped line is in its core no longer. -/
theorem State.dropL1_gone (s : State) (c line : Nat) : ∀ l ∈ ((s.dropL1 c line).core c).l1d, l.1 ≠ line := by
  have erased : ∀ l ∈ ((s.updCore c (fun a => { a with l1d := Tab.erase a.l1d line })).core c).l1d, l.1 ≠ line := by
    intro l hl
    rw [State.core_updCore] at hl
    simpa using (List.mem_filter.mp hl).2
  intro l hl
  unfold State.dropL1 State.dropL1By at hl
  split at hl
  · next h =>
    have := List.find?_eq_none.mp h l hl
    simpa using this
  · dsimp only at hl
    split at hl
    · obtain ⟨m, hm, e⟩ := (State.writeHome_within _ _).sub c l hl
      exact e ▸ erased m hm
    · obtain ⟨m, hm, e⟩ := ((State.L1Within.refl _).same (State.forget_cores ..)).sub c l hl
      exact e ▸ erased m hm

/-- Lines dropped one after the other are all in their core no longer. -/
theorem State.dropL1s_gone (s : State) (c : Nat) (ls : List (Nat × Bool)) :
    ∀ x ∈ ls, ∀ l ∈ ((ls.foldl (fun u l => u.dropL1 c l.1) s).core c).l1d, l.1 ≠ x.1 := by
  induction ls generalizing s with
  | nil => exact nofun
  | cons y ls ih =>
    intro x hx l hl
    rcases List.mem_cons.mp hx with rfl | hx
    · have w := (State.L1Within.refl (s.dropL1 c x.1)).foldl ls fun t l => State.dropL1_within t c l.1
      obtain ⟨m, hm, e⟩ := w.sub c l hl
      exact e ▸ State.dropL1_gone s c x.1 m hm
    · exact ih _ x hx l hl

end Sys2Proof.Machine
end

section
/-!
PROOFS. The steps of the walkers, Chinook's answers and shootdowns: obligation O40.
-/
namespace Sys2Proof.Machine

/-! ### What the reads of a walk leave -/

/-- A state after a walk's reads: the caches and the walkers' entries may differ, the walks and the TLBs do not. -/
structure WalkReads (s t : State) : Prop where
  mem : t.mem = s.mem
  share : t.share = s.share
  freezes : t.freezes = s.freezes
  quad : ∀ k, (t.quad k).tlb = (s.quad k).tlb
  core : ∀ k, (t.core k).tlb = (s.core k).tlb
  die : ∀ k, (t.die k).walks = (s.die k).walks

theorem WalkReads.refl (s : State) : WalkReads s s := ⟨rfl, rfl, rfl, fun _ => rfl, fun _ => rfl, fun _ => rfl⟩

theorem WalkReads.trans {s t u : State} (a : WalkReads s t) (b : WalkReads t u) : WalkReads s u where
  mem := b.mem.trans a.mem
  share := b.share.trans a.share
  freezes := b.freezes.trans a.freezes
  quad k := (b.quad k).trans (a.quad k)
  core k := (b.core k).trans (a.core k)
  die k := (b.die k).trans (a.die k)

theorem Cached.walkReads {s t : State} (h : Cached s t) : WalkReads s t where
  mem := h.fields.2.1
  share := by rw [h.rest]
  freezes := by rw [h.rest]
  quad k := by rw [h.quad k]; rfl
  core k := by rw [h.core k]; rfl
  die k := by rw [h.die k]; rfl

theorem State.die_updDie_other (s : State) (d k : Nat) (f : Die → Die) (n : k ≠ d) : (s.updDie d f).die k = s.die k :=
  Tab.get_set_other _ _ _ _ _ n

theorem State.core_updCore_other (s : State) (c k : Nat) (f : Core → Core) (n : k ≠ c) : (s.updCore c f).core k = s.core k :=
  Tab.get_set_other _ _ _ _ _ n

theorem State.learn_walkReads (s : State) (d w : Nat) (l : WCache) : WalkReads s (s.learn d w l) := by
  unfold State.learn
  dsimp only
  split
  · exact .refl s
  · refine ⟨rfl, rfl, rfl, fun _ => rfl, fun _ => rfl, fun k => ?_⟩
    by_cases e : k = d
    · subst e
      rw [State.die_updDie]
    · rw [State.die_updDie_other _ _ _ _ e]

theorem State.snoopsUsed_walkReads (s : State) (who : Nat) (l : List Nat) : WalkReads s (s.snoopsUsed who l) := by
  unfold State.snoopsUsed
  split
  · exact .refl s
  · exact ⟨rfl, rfl, rfl, fun _ => rfl, fun _ => rfl, fun _ => rfl⟩

theorem State.walked_walkReads (s : State) (q : Req) (w : Nat) (l : WCache) : WalkReads s (s.walked q w l) :=
  ((State.learn_walkReads ..).trans (State.snoopsUsed_walkReads ..)).trans (State.reach_cached ..).walkReads

/-! ### A walk begins -/

/-- A walk whose reads wait for nothing is under way in its die, last; memory and the TLBs are as they were. -/
theorem State.beginWalk_spec (s : State) (q : Req) (acc : AccKind) (v w : Nat) (one : Option Nat)
    (h : s.readsWait q.who q.quad (readsOf (s.wcache (dieOfQuad q.quad) w) (s.gtrail (s.wcache (dieOfQuad q.quad) w) q v 4 q.root)) = none) :
    let t := s.beginWalk q acc v w one
    t.mem = s.mem ∧ (∀ k, (t.quad k).tlb = (s.quad k).tlb) ∧ (∀ k, (t.core k).tlb = (s.core k).tlb) ∧
      (t.die (dieOfQuad q.quad)).walks = (s.die (dieOfQuad q.quad)).walks.concat
        ⟨q.part, q.asid, v / 4096, q.mode, acc, s.gwalk (s.wcache (dieOfQuad q.quad) w) q acc v 4 q.root, one⟩ := by
  have r := State.walked_walkReads s q w (s.gtrail (s.wcache (dieOfQuad q.quad) w) q v 4 q.root)
  unfold State.beginWalk
  dsimp only
  rw [h]
  refine ⟨r.mem, r.quad, r.core, ?_⟩
  rw [State.die_updDie, r.die, List.concat_eq_append]

/-- PAGE_WALK with `c` begins a walk where the page's walk, or that of the single access, is not under way. -/
theorem execPageWalk_begins (s : State) (q : Req) (one : Option Nat)
    (hq : q = { (if s.ev.b then s.vreqOf s.ev.h else s.reqOf s.ev.h) with elem := one.getD 0 })
    (hone : one = if s.ev.k = 0 then none else some (s.ev.k - 1)) (hv : canonical s.ev.v = true) (hc : s.ev.c = true)
    (hlen : (s.die (dieOfQuad q.quad)).walks.length < 320)
    (hnew : if one.isSome then s.ownWalk q s.ev.acc (s.ev.v.toNat / 4096) = none else
      s.walkFor q s.ev.acc (s.ev.v.toNat / 4096) = none ∧ s.tlbHit q s.ev.v.toNat = none) :
    exec .pageWalk s = .next (s.beginWalk q s.ev.acc s.ev.v.toNat (s.ev.w % 64) one) := by
  show execPageWalk s = _
  unfold execPageWalk
  extract_lets r one' q' v d under mine gone
  have ho : one' = one := hone.symm
  have hq' : q' = q := by rw [hq]; unfold q'; rw [ho]
  have idle : ¬ (320 ≤ (s.die d).walks.length ∨
      (if one'.isSome then mine.isSome else decide (under.isSome = true ∨ (s.tlbHit q' v).isSome = true)) = true) := by
    unfold mine under d
    rw [ho, hq']
    split at hnew
    · next h => rw [if_pos h, hnew]; simpa using hlen
    · next h => rw [if_neg h, hnew.1, show s.tlbHit q v = none from hnew.2]; simpa using hlen
  rw [if_neg (by simpa using hv), if_pos hc, if_neg idle, hq', ho]

/-! ### A walk ends -/

/-- What a claim for an access leaves: the entry but for its class, and memory; an unclaimed page of ordinary memory is the core's. -/
theorem State.claim_entry (s : State) (q : Req) (e : TlbEntry) : ∃ x, (s.claim q e).1 = { e with share := x } := by
  unfold State.claim
  dsimp only
  split
  · exact ⟨e.share, rfl⟩
  · split
    · split <;> exact ⟨_, rfl⟩
    · split <;> exact ⟨_, rfl⟩
    · exact ⟨_, rfl⟩

theorem State.claim_unclaimed (s : State) (q : Req) (e : TlbEntry) (c : Nat) (hc : q.core = some c) (hf : e.frozen = false)
    (ha : e.share ≠ .always) (hu : e.share ≠ .unread) (h : (Tab.get s.share (pageOf e.pa) {}).cls = 0) :
    (s.claim q e).1.share = .priv c ∧ Tab.get (s.claim q e).2.share (pageOf e.pa) {} = ⟨1, BitVec.ofNat 11 c⟩ := by
  have hs : s.shareOf (pageOf e.pa) = .unclaimed := by
    unfold State.shareOf
    dsimp only
    rw [h]
    rfl
  unfold State.claim
  dsimp only
  rw [if_neg (by simp [hf, ha, hu]), hs]
  dsimp only
  rw [hc]
  dsimp only
  exact ⟨rfl, Tab.get_set_same ..⟩

theorem State.installTlb_quad (s : State) (q : Req) (e : TlbEntry) : ((s.installTlb q e).quad q.quad).tlb.head? = some e := by
  have h : ((s.updQuad q.quad (fun a => { a with tlb := (e :: a.tlb).take 4096 })).quad q.quad).tlb.head? = some e := by
    rw [State.quad_updQuad]
    rfl
  unfold State.installTlb
  dsimp only
  split <;> exact h

theorem State.installTlb_core (s : State) (q : Req) (e : TlbEntry) (c : Nat) (hc : q.core = some c) :
    ((s.installTlb q e).core c).tlb.head? = some e := by
  unfold State.installTlb
  dsimp only
  rw [hc]
  dsimp only
  rw [State.core_updCore]
  rfl

theorem State.installTlb_share (s : State) (q : Req) (e : TlbEntry) : (s.installTlb q e).share = s.share := by
  unfold State.installTlb
  dsimp only
  split <;> rfl

/-- A walk's good result is used: the claimed entry, installed. -/
theorem State.useWalk_ok (s : State) (q : Req) (acc : AccKind) (v : Nat) (e : TlbEntry) (hg : guestPerm q acc e.r e.w e.x e.u e.d = true)
    (hp : placeFault q acc e (e.addr v) = none) (hb : s.entryBad e (e.addr v) = none) (hl : s.pageLocked (pageOf (e.addr v)) = false) :
    s.useWalk q acc v true (.ok e) = .ok (s.claim q e).1 ((s.claim q e).1.addr v) ((s.claim q e).2.installTlb q (s.claim q e).1) := by
  unfold State.useWalk
  simp [hg, hp, hb, hl]

/-- The state without the walk that serves an access. -/
def State.sansWalk (s : State) (q : Req) (acc : AccKind) (page : Nat) : State :=
  match s.walkFor q acc page with
  | none => s
  | some w => s.endWalk (dieOfQuad q.quad) w

/-- The walk that PAGE_WALK ends: a fresh one, or the one under way, which is gone then. -/
theorem State.walk_eq (s b v : State) (q : Req) (acc : AccKind) (va : Nat) (res : WRes)
    (h : (s.walkFor q acc (va / 4096) = none ∧ (s.die (dieOfQuad q.quad)).walks.length < 320 ∧
          s.readsWait q.who q.quad (readsOf (s.wcache (dieOfQuad q.quad) (walkerOf va))
            (s.gtrail (s.wcache (dieOfQuad q.quad) (walkerOf va)) q va 4 q.root)) = none ∧
          b = s ∧ v = s.walked q (walkerOf va) (s.gtrail (s.wcache (dieOfQuad q.quad) (walkerOf va)) q va 4 q.root) ∧
          res = s.gwalk (s.wcache (dieOfQuad q.quad) (walkerOf va)) q acc va 4 q.root) ∨
        ∃ w, s.walkFor q acc (va / 4096) = some w ∧ b = s.endWalk (dieOfQuad q.quad) w ∧ v = b ∧ res = w.res) :
    s.walk q acc va = v.useWalk q acc va true res ∧ WalkReads b v ∧
      s.sansWalk q acc (va / 4096) = b ∧ b.mem = s.mem ∧ b.share = s.share ∧ b.freezes = s.freezes := by
  unfold State.walk State.sansWalk
  dsimp only
  rcases h with ⟨hw, hlen, hr, rfl, rfl, rfl⟩ | ⟨w, hw, rfl, rfl, rfl⟩
  · rw [hw]
    dsimp only
    rw [if_neg (by omega), hr]
    exact ⟨rfl, State.walked_walkReads .., rfl, rfl, rfl, rfl⟩
  · rw [hw]
    exact ⟨rfl, .refl _, rfl, rfl, rfl, rfl⟩

/-- PAGE_WALK without `c` ends a walk as its result says. -/
theorem execPageWalk_ends (s : State) (q : Req) (hq : q = if s.ev.b then s.vreqOf s.ev.h else s.reqOf s.ev.h)
    (hv : canonical s.ev.v = true) (hc : s.ev.c = false) (hk : s.ev.k = 0) :
    (∀ e pa t, s.walk q s.ev.acc s.ev.v.toNat = .ok e pa t → exec .pageWalk s = .next t) ∧
    (∀ g, s.walk q s.ev.acc s.ev.v.toNat = .miss g →
      exec .pageWalk s = .next ((s.sansWalk q s.ev.acc (s.ev.v.toNat / 4096)).emit (.chinookMiss q.part g))) ∧
    (∀ c w, s.walk q s.ev.acc s.ev.v.toNat = .fault c w →
      exec .pageWalk s = .next (s.sansWalk q s.ev.acc (s.ev.v.toNat / 4096))) := by
  show (∀ e pa t, _ → execPageWalk s = _) ∧ (∀ g, _ → execPageWalk s = _) ∧ (∀ c w, _ → execPageWalk s = _)
  unfold execPageWalk
  extract_lets r one q' v d under mine gone
  have hq' : q' = q := by
    rw [hq]
    unfold q' one r
    rw [hk]
    cases s.ev.b <;> rfl
  have hg : gone = s.sansWalk q s.ev.acc (s.ev.v.toNat / 4096) := by
    unfold gone under d
    rw [hq']
    rfl
  rw [if_neg (by simpa using hv), if_neg (by simp [hc]), hg, hq']
  refine ⟨fun e pa t h => ?_, fun g h => ?_, fun c w h => ?_⟩ <;> rw [h]

/-- A walk's good result is installed, and claims an unclaimed page. -/
theorem execPageWalk_installs (s b v : State) (q : Req) (e : TlbEntry) (hb : WalkReads b v) (hm : b.mem = s.mem) (hs : b.share = s.share)
    (hf : b.freezes = s.freezes) (hw : s.walk q s.ev.acc s.ev.v.toNat = v.useWalk q s.ev.acc s.ev.v.toNat true (.ok e))
    (hx : ∀ e pa t, s.walk q s.ev.acc s.ev.v.toNat = .ok e pa t → exec .pageWalk s = .next t)
    (hg : guestPerm q s.ev.acc e.r e.w e.x e.u e.d = true) (hp : placeFault q s.ev.acc e (e.addr s.ev.v.toNat) = none)
    (he : v.entryBad e (e.addr s.ev.v.toNat) = none) (hl : s.pageLocked (pageOf (e.addr s.ev.v.toNat)) = false) :
    ∃ t r, exec .pageWalk s = .next t ∧ (t.quad q.quad).tlb.head? = some r ∧ r.va = e.va ∧ r.pa = e.pa ∧ r.size = e.size ∧
      r.part = e.part ∧ r.asid = e.asid ∧ t.mem = s.mem ∧
      (∀ c, q.core = some c → (t.core c).tlb.head? = some r) ∧
      (∀ c, q.core = some c → e.frozen = false → e.share ≠ .always → e.share ≠ .unread → (Tab.get s.share (pageOf e.pa) {}).cls = 0 →
        r.share = .priv c ∧ Tab.get t.share (pageOf e.pa) {} = ⟨1, BitVec.ofNat 11 c⟩) := by
  have hl' : v.pageLocked (pageOf (e.addr s.ev.v.toNat)) = false := by
    unfold State.pageLocked at hl ⊢
    rw [hb.freezes, hf]
    exact hl
  rw [State.useWalk_ok v q s.ev.acc _ e hg hp he hl'] at hw
  obtain ⟨x, hxe⟩ := State.claim_entry v q e
  have hmem : ((v.claim q e).2.installTlb q (v.claim q e).1).mem = s.mem :=
    ((State.installTlb_same ..).mem.trans (State.claim_same ..).mem).trans (hb.mem.trans hm)
  refine ⟨_, (v.claim q e).1, hx _ _ _ hw, State.installTlb_quad .., ?_, ?_, ?_, ?_, ?_, hmem,
    fun c hc => State.installTlb_core _ _ _ c hc, fun c hc hf ha hu h0 => ?_⟩
  case refine_6 =>
    rw [State.installTlb_share]
    exact State.claim_unclaimed v q e c hc hf ha hu (by rw [hb.share, hs]; exact h0)
  all_goals rw [hxe]

/-! ### A page made shared -/

/-- No line of a flushed page is left in its core. -/
theorem State.flushPage_gone (s : State) (c page : Nat) : ∀ l ∈ ((s.flushPage c page).core c).l1d, l.1 / 64 ≠ page := by
  unfold State.flushPage
  extract_lets keepT t mine u
  intro l hl
  have hl' : l ∈ ((mine.foldl (fun u l => u.dropL1 c l.1) t).core c).l1d := by
    have e : (u.updQuad (c / 4) (fun a => { a with tlb := a.tlb.filter keepT })).core c = u.core c := rfl
    rw [e, State.core_updCore] at hl
    exact hl
  intro hp
  obtain ⟨m, hm, e⟩ := ((State.L1Within.refl t).foldl mine fun t l => State.dropL1_within t c l.1).sub c l hl'
  have mine_m : m ∈ mine := List.mem_filter.mpr ⟨hm, by simpa [e] using hp⟩
  exact State.dropL1s_gone t c mine m mine_m l hl' e.symm

theorem execPageFlush_spec (s : State) (h : (Tab.get s.share s.ev.addr {}).cls = 1) (ho : (Tab.get s.share s.ev.addr {}).owner.toNat = s.ev.p) :
    ∃ t, exec .pageFlush s = .next t ∧ Tab.get t.share s.ev.addr {} = ⟨2, 0⟩ ∧
      (∀ l ∈ (t.core s.ev.p).l1d, l.1 / 64 ≠ s.ev.addr) ∧ t.mem = s.mem := by
  refine ⟨{ s.flushPage s.ev.p s.ev.addr with share := _ }, if_pos ⟨h, ho⟩, Tab.get_set_same .., ?_,
    (State.flushPage_same s s.ev.p s.ev.addr).mem⟩
  exact State.flushPage_gone s s.ev.p s.ev.addr

/-! ### Chinook's answers -/

/-- The walks that found no partition leaf are gone; nothing else changes. -/
theorem State.dropMisses_spec (s : State) : s.dropMisses = { s with dies := s.dropMisses.dies } ∧
    ∀ d ∈ s.dropMisses.dies, ∀ w ∈ d.2.walks, ∀ p, w.res ≠ .miss p := by
  unfold State.dropMisses
  extract_lets miss
  have missed (w : Walk) (p : Nat) (e : w.res = .miss p) : miss w = true := by
    unfold miss
    rw [e]
  clear_value miss
  split
  · refine ⟨rfl, fun d hd w hw p e => ?_⟩
    obtain ⟨x, -, rfl⟩ := List.mem_map.mp hd
    have := (List.mem_filter.mp hw).2
    rw [missed w p e] at this
    cases this
  · next h =>
    refine ⟨rfl, fun d hd w hw p e => h ?_⟩
    exact List.any_eq_true.mpr ⟨d, hd, List.any_eq_true.mpr ⟨w, hw, missed w p e⟩⟩

theorem Hart.answered_pmiss {a : Hart} {va : Word} {acc : AccKind} {g : Nat} (h : a.park = some (.pmiss va acc g)) (deny : Bool) :
    a.answered deny = { a with park := none, denied := if deny then some g else none } := by
  unfold Hart.answered
  rw [h]

/-- An answer ends the park of a hart at a missing leaf. -/
theorem State.answer_hart (s : State) (h : Nat) (deny : Bool) (va : Word) (acc : AccKind) (g : Nat)
    (hp : (s.hart h).park = some (.pmiss va acc g)) :
    s.answer (.hart h) deny = s.dropMisses.updHart h (fun a => { a with park := none, denied := if deny then some g else none }) := by
  have hh : s.dropMisses.hart h = s.hart h := by rw [(State.dropMisses_spec s).1]; rfl
  exact congrArg (s.dropMisses.setHart h) (Hart.answered_pmiss (a := s.dropMisses.hart h) (hh ▸ hp) deny)

/-- Chinook's answer, and the time that ends the wait for it, to a hart parked at a missing leaf. -/
theorem missSince_hart (s : State) (va : Word) (acc : AccKind) (g : Nat) (hk : s.ev.k = 0) (hc : s.ev.c = false)
    (hp : (s.hart s.ev.h).park = some (.pmiss va acc g)) :
    missByOf s.ev = .hart s.ev.h ∧ s.missSince (.hart s.ev.h) = some (s.hart s.ev.h).since := by
  refine ⟨by simp [missByOf, hk, hc], ?_⟩
  unfold State.missSince
  dsimp only
  rw [hp]

theorem missAnswers_spec (s : State) (va : Word) (acc : AccKind) (g : Nat) (hk : s.ev.k = 0) (hc : s.ev.c = false)
    (hp : (s.hart s.ev.h).park = some (.pmiss va acc g)) :
    exec .chinookAnswer s = .next (s.answer (.hart s.ev.h) (!s.ev.b)) ∧
    ((s.hart s.ev.h).since + 2 ^ 20 < s.time → exec .partitionMissTimeout s = .next (s.answer (.hart s.ev.h) true)) ∧
    (s.time ≤ (s.hart s.ev.h).since + 2 ^ 20 → exec .partitionMissTimeout s = .next s) := by
  obtain ⟨hm, hs⟩ := missSince_hart s va acc g hk hc hp
  show execChinookAnswer s = _ ∧ (_ → execPartitionMissTimeout s = _) ∧ (_ → execPartitionMissTimeout s = _)
  unfold execChinookAnswer execPartitionMissTimeout
  rw [hm, hs]
  exact ⟨rfl, fun h => if_pos h, fun h => if_neg (by omega)⟩

/-! ### Shootdowns -/

/-- The cores of a list with their TLBs filtered. -/
def State.filterTlbs (s : State) (p : TlbEntry → Bool) (cs : List Nat) : State :=
  cs.foldl (fun t c => t.updCore c (fun a => { a with tlb := a.tlb.filter p })) s

theorem State.filterTlbs_rest (s : State) (p : TlbEntry → Bool) (cs : List Nat) :
    s.filterTlbs p cs = { s with cores := (s.filterTlbs p cs).cores } := by
  induction cs generalizing s with
  | nil => rfl
  | cons c cs ih => exact ih _

/-- A TLB once filtered stays so. -/
theorem State.filterTlbs_keeps (s : State) (p : TlbEntry → Bool) (cs : List Nat) (c : Nat) (h : ∀ e ∈ (s.core c).tlb, p e = true) :
    ∀ e ∈ ((s.filterTlbs p cs).core c).tlb, p e = true := by
  induction cs generalizing s with
  | nil => exact h
  | cons d cs ih =>
    refine ih (s.updCore d _) fun e he => ?_
    by_cases n : c = d
    · subst n
      rw [State.core_updCore] at he
      exact (List.mem_filter.mp he).2
    · rw [State.core_updCore_other _ _ _ _ n] at he
      exact h e he

theorem State.filterTlbs_core (s : State) (p : TlbEntry → Bool) (cs : List Nat) :
    ∀ c ∈ cs, ∀ e ∈ ((s.filterTlbs p cs).core c).tlb, p e = true := by
  induction cs generalizing s with
  | nil => exact nofun
  | cons d cs ih =>
    intro c hc
    rcases List.mem_cons.mp hc with rfl | hc
    · refine State.filterTlbs_keeps (s.updCore c _) p cs c fun e he => ?_
      rw [State.core_updCore] at he
      exact (List.mem_filter.mp he).2
    · exact ih _ c hc

/-- The warm entries of a queue that a shootdown selects one of are all gone. -/
def Queue.shoot (x : Shootdown) (a : Queue) : Queue := if a.warm.any (fun w => x.selects w.1) then { a with warm := [] } else a

theorem Queue.shoot_warm (x : Shootdown) (a : Queue) : ∀ w ∈ (a.shoot x).warm, x.selects w.1 = false := by
  by_cases h : a.warm.any (fun w => x.selects w.1) = true
  · rw [Queue.shoot, if_pos h]
    intro w hw
    cases hw
  · rw [Queue.shoot, if_neg h]
    exact fun w hw => by simpa using fun e => h (List.any_eq_true.mpr ⟨w, hw, e⟩)

/-- A shootdown in a quad, by its parts. -/
theorem State.shootQuad_eq (s : State) (q : Nat) (x : Shootdown) :
    s.shootQuad q x = State.updDie (State.filterTlbs (State.updQuad { s with queues := s.queues.map (fun e => (e.1, e.2.shoot x)) } q
      (fun a => { a with tlb := a.tlb.filter (fun e => !x.selects e) })) (fun e => !x.selects e) (span (4 * q) 4)) (dieOfQuad q)
      (fun a => a.forgetWalks x.part) := rfl

/-- What a shootdown leaves of all but TLBs, warm entries and walks. -/
theorem State.shootQuad_rest (s : State) (q : Nat) (x : Shootdown) :
    s.shootQuad q x = { s with
      queues := s.queues.map (fun e => (e.1, e.2.shoot x)), cores := (s.shootQuad q x).cores, dies := (s.shootQuad q x).dies
      quads := Tab.set s.quads q { s.quad q with tlb := (s.quad q).tlb.filter (fun e => !x.selects e) } } := by
  rw [State.shootQuad_eq, State.filterTlbs_rest]
  rfl

theorem State.shootQuad_quad (s : State) (q : Nat) (x : Shootdown) :
    (s.shootQuad q x).quad q = { s.quad q with tlb := (s.quad q).tlb.filter (fun e => !x.selects e) } := by
  rw [State.shootQuad_rest]
  exact Tab.get_set_same ..

theorem State.shootQuad_tlb (s : State) (q : Nat) (x : Shootdown) : ∀ e ∈ ((s.shootQuad q x).quad q).tlb, x.selects e = false := by
  rw [State.shootQuad_quad]
  exact fun e he => by simpa using (List.mem_filter.mp he).2

theorem State.shootQuad_warm (s : State) (q : Nat) (x : Shootdown) :
    ∀ a ∈ (s.shootQuad q x).queues, ∀ w ∈ a.2.warm, x.selects w.1 = false := by
  rw [State.shootQuad_rest]
  intro a ha
  obtain ⟨e, -, rfl⟩ := List.mem_map.mp ha
  exact Queue.shoot_warm x e.2

theorem State.shootQuad_cores (s : State) (q : Nat) (x : Shootdown) :
    ∀ c, 4 * q ≤ c → c < 4 * q + 4 → ∀ e ∈ ((s.shootQuad q x).core c).tlb, x.selects e = false := by
  intro c h1 h2 e he
  rw [State.shootQuad_eq] at he
  have hc : c ∈ span (4 * q) 4 := List.mem_map.mpr ⟨c - 4 * q, List.mem_range.mpr (by omega), by omega⟩
  simpa using State.filterTlbs_core _ _ _ c hc e he

theorem State.shootQuad_die (s : State) (q : Nat) (x : Shootdown) :
    (∀ w ∈ ((s.shootQuad q x).die (dieOfQuad q)).walks, w.part ≠ x.part) ∧
    (∀ w ∈ ((s.shootQuad q x).die (dieOfQuad q)).walkers, ∀ e ∈ w.2, e.1 ≠ x.part) := by
  rw [State.shootQuad_eq, State.die_updDie]
  refine ⟨fun w hw => by simpa using (List.mem_filter.mp hw).2, fun w hw e he => ?_⟩
  obtain ⟨y, -, rfl⟩ := List.mem_map.mp hw
  simpa using (List.mem_filter.mp he).2

/-- Whether what an agent of the quad does uses a selected page is read off nothing that the shootdown changes. -/
theorem State.shootQuad_uses (s : State) (q : Nat) (x : Shootdown) : (s.shootQuad q x).usesEntries q x = s.usesEntries q x := by
  have hq := State.shootQuad_quad s q x
  have rest := State.shootQuad_rest s q x
  have hp : (s.shootQuad q x).partOfQuad q = s.partOfQuad q := by
    unfold State.partOfQuad
    rw [hq]
  have h₁ : (s.shootQuad q x).harts = s.harts := by rw [rest]
  have h₂ : (s.shootQuad q x).yielded = s.yielded := by rw [rest]
  have h₃ : (s.shootQuad q x).saved = s.saved := by rw [rest]
  have h₄ : (s.shootQuad q x).greqs = s.greqs := by rw [rest]
  unfold State.usesEntries
  rw [hp, hq, h₁, h₂, h₃, h₄]

/-- The end of a shootdown changes nothing but the hart that waits for it. -/
theorem State.endShoot_rest (s : State) (l : List Shootdown) (x : Shootdown) :
    State.endShoot { s with shoots := l } x = { s with harts := (State.endShoot { s with shoots := l } x).harts, shoots := l } := by
  unfold State.endShoot
  split <;> rfl

theorem State.endShoot_hart (s : State) (x : Shootdown) (h : Nat) (hx : x.hart = some h) (hp : (s.hart h).park = some .fence) :
    ((s.endShoot x).hart h).pc = (s.hart h).pc + 4 ∧ ((s.endShoot x).hart h).park = none := by
  unfold State.endShoot
  rw [hx]
  dsimp only
  rw [State.hart_updHart, if_pos hp]
  exact ⟨rfl, rfl⟩

/-- An acknowledgement, that is not the last one, and the last one. -/
theorem execShootdownAck_cases (s : State) (x : Shootdown) (hx : s.shoots[s.ev.k]? = some x) (hq : s.ev.q ∈ x.quads)
    (hu : s.usesEntries s.ev.q x = false) :
    (x.quads ≠ [s.ev.q] → exec .shootdownAck s =
      .next { s.shootQuad s.ev.q x with shoots := (s.shootQuad s.ev.q x).shoots.set s.ev.k { x with quads := x.quads.erase s.ev.q } }) ∧
    (x.quads = [s.ev.q] → exec .shootdownAck s =
      .next (State.endShoot { s.shootQuad s.ev.q x with shoots := (s.shootQuad s.ev.q x).shoots.eraseIdx s.ev.k } x)) := by
  have hne : x.quads ≠ [] := List.ne_nil_of_mem hq
  have erase : x.quads.erase s.ev.q = [] ↔ x.quads = [s.ev.q] := by
    rw [List.erase_eq_nil_iff]
    exact or_iff_right hne
  show (_ → execShootdownAck s = _) ∧ (_ → execShootdownAck s = _)
  unfold execShootdownAck
  rw [hx]
  dsimp only
  rw [if_neg hne, if_neg (by simpa using hq), State.shootQuad_uses, hu]
  exact ⟨fun n => if_neg (n ∘ erase.mp), fun e => if_pos (erase.mpr e)⟩

/-- An acknowledged shootdown is done in its quad; the others, and with the last acknowledgement the hart that waits, go on. -/
theorem execShootdownAck_spec (s : State) (x : Shootdown) (hx : s.shoots[s.ev.k]? = some x) (hq : s.ev.q ∈ x.quads)
    (hu : s.usesEntries s.ev.q x = false) :
    ∃ t, exec .shootdownAck s = .next t ∧ t = { s.shootQuad s.ev.q x with harts := t.harts, shoots := t.shoots } ∧
      (x.quads ≠ [s.ev.q] → t.shoots = s.shoots.set s.ev.k { x with quads := x.quads.erase s.ev.q }) ∧
      (x.quads = [s.ev.q] → t.shoots = s.shoots.eraseIdx s.ev.k) ∧
      (∀ h, x.hart = some h → x.quads = [s.ev.q] → (s.hart h).park = some .fence →
        (t.hart h).pc = (s.hart h).pc + 4 ∧ (t.hart h).park = none) := by
  obtain ⟨hmore, hlast⟩ := execShootdownAck_cases s x hx hq hu
  have rest := State.shootQuad_rest s s.ev.q x
  have shoots : (s.shootQuad s.ev.q x).shoots = s.shoots := by rw [rest]
  have harts : (s.shootQuad s.ev.q x).harts = s.harts := by rw [rest]
  by_cases e : x.quads = [s.ev.q]
  · have after := State.endShoot_rest (s.shootQuad s.ev.q x) ((s.shootQuad s.ev.q x).shoots.eraseIdx s.ev.k) x
    refine ⟨_, hlast e, by rw [after], fun e' => absurd e e', fun _ => by rw [after, shoots], fun h hh _ hp => ?_⟩
    have same : State.hart { s.shootQuad s.ev.q x with shoots := (s.shootQuad s.ev.q x).shoots.eraseIdx s.ev.k } h = s.hart h := by
      show Tab.get (s.shootQuad s.ev.q x).harts h {} = Tab.get s.harts h {}
      rw [harts]
    rw [← same] at hp ⊢
    exact State.endShoot_hart _ x h hh hp
  · exact ⟨_, hmore e, rfl, fun _ => by dsimp only; rw [shoots], fun e' => absurd e' e, fun h _ e' => absurd e' e⟩

/-- What an acknowledged shootdown leaves, in whichever of its two ways it goes on. -/
theorem shootdownAck_leaves (s t : State) (x : Shootdown)
    (ht : t = { s.shootQuad s.ev.q x with harts := t.harts, shoots := t.shoots }) :
    (∀ e ∈ (t.quad s.ev.q).tlb, x.selects e = false) ∧ (∀ a ∈ t.queues, ∀ w ∈ a.2.warm, x.selects w.1 = false) ∧
    (∀ w ∈ (t.die (dieOfQuad s.ev.q)).walks, w.part ≠ x.part) ∧ (∀ w ∈ (t.die (dieOfQuad s.ev.q)).walkers, ∀ e ∈ w.2, e.1 ≠ x.part) ∧
    (∀ c, 4 * s.ev.q ≤ c → c < 4 * s.ev.q + 4 → ∀ e ∈ (t.core c).tlb, x.selects e = false) ∧ t.mem = s.mem := by
  have hd := State.shootQuad_die s s.ev.q x
  rw [ht]
  refine ⟨State.shootQuad_tlb s s.ev.q x, State.shootQuad_warm s s.ev.q x, hd.1, hd.2, State.shootQuad_cores s s.ev.q x, ?_⟩
  show (s.shootQuad s.ev.q x).mem = s.mem
  rw [State.shootQuad_rest]

/-! ### The obligation -/

/-- Settles O40, a lemma for each step: a walk begun, a walk ended, a page flushed, an answer, a shootdown acknowledged or begun. -/
theorem translationSteps : Obligations.TranslationSteps := by
  unfold Obligations.TranslationSteps
  refine ⟨?begins, ?ends, ?flush, ?answer, ?shoot, ?invalidate⟩
  case begins =>
    intro s r d page c begins hv hc hlen
    have hr : r = { r with elem := 0 } := by
      unfold r
      cases s.ev.b <;> rfl
    refine ⟨fun hk hw hh hb => ?_, fun e hk hw hb => ?_⟩
    · exact ⟨_, execPageWalk_begins s { r with elem := 0 } none rfl (by simp [hk]) hv hc hlen ⟨hw, hr ▸ hh⟩,
        State.beginWalk_spec s _ _ _ _ none hb⟩
    · exact ⟨_, execPageWalk_begins s { r with elem := e } (some e) rfl (by simp [hk]) hv hc hlen hw,
        State.beginWalk_spec s _ _ _ _ (some e) hb⟩
  case ends =>
    intro s b v res q d page k l hv hc hk h
    obtain ⟨hw, hread, hsans, hm, hs, hf⟩ := State.walk_eq s b v q s.ev.acc s.ev.v.toNat res h
    obtain ⟨hok, hmiss, hfault⟩ := execPageWalk_ends s q rfl hv hc hk
    refine ⟨fun g e => ?_, fun c why e => ?_, fun e he hg hp hb hl => ?_⟩
    · exact hsans ▸ hmiss g (by rw [hw, e]; rfl)
    · exact hsans ▸ hfault c why (by rw [hw, e]; rfl)
    · exact execPageWalk_installs s b v q e hread hm hs hf (he ▸ hw) hok hg hp hb hl
  case flush => exact execPageFlush_spec
  case answer =>
    intro s va acc g hk hc hp ends
    obtain ⟨answered, late, early⟩ := missAnswers_spec s va acc g hk hc hp
    have ended (i : Instr) (deny : Bool) (h : exec i s = .next (s.answer (.hart s.ev.h) deny)) : ends i (if deny then some g else none) :=
      ⟨s.dropMisses, h.trans (by rw [State.answer_hart s _ deny va acc g hp]), State.dropMisses_spec s⟩
    refine ⟨?_, fun h => ended _ true (late h), early⟩
    have h := ended _ _ answered
    cases hb : s.ev.b <;> rw [hb] at h <;> exact h
  case shoot =>
    intro s x hx hq hu
    obtain ⟨t, hs, ht, hmore, hlast, hhart⟩ := execShootdownAck_spec s x hx hq hu
    obtain ⟨h₁, h₂, h₃, h₄, h₅, h₆⟩ := shootdownAck_leaves s t x ht
    exact ⟨t, hs, h₁, h₂, h₃, h₄, h₅, h₆, hmore, hlast, hhart⟩
  case invalidate =>
    intro s hp hc hq
    have hq' : s.measured.shootQuads s.ev.p ≠ [] := hq
    show execChinookInvalidate s = _
    unfold execChinookInvalidate
    dsimp only
    rw [if_neg (by omega), if_neg (by simp [hc] : ¬ s.ev.c = true), if_neg hq', List.concat_eq_append]
    rfl

end Sys2Proof.Machine
end

section
/-!
What an access of an engine or of a partner may change besides memory: caches, translations, walks, the sharing of pages, the
host's snoops and the harts' reservations. Transfers, partners and all the rest stay.
-/
namespace Sys2Proof.Machine

/-- A state that differs from another by the work of accesses alone. -/
structure Accessed (s t : State) : Prop where
  rest : t = { s with
    harts := t.harts, cores := t.cores, quads := t.quads, dies := t.dies, poison := t.poison, failed := t.failed
    doomed := t.doomed, share := t.share, bisnps := t.bisnps }
  hart : ∀ h, ∃ r, t.hart h = { s.hart h with resv := r }
  running : ∀ q, (t.quad q).running = (s.quad q).running

variable {s t u : State}

theorem Accessed.refl (s : State) : Accessed s s := ⟨rfl, fun h => ⟨(s.hart h).resv, rfl⟩, fun _ => rfl⟩

theorem Accessed.trans (a : Accessed s t) (b : Accessed t u) : Accessed s u where
  rest := b.rest.trans (by rw [a.rest])
  hart h := by
    obtain ⟨r, hr⟩ := a.hart h
    obtain ⟨r', hr'⟩ := b.hart h
    exact ⟨r', by rw [hr', hr]⟩
  running q := (b.running q).trans (a.running q)

theorem Cached.accessed (h : Cached s t) : Accessed s t where
  rest := by
    have k := h.rest
    rw [k]
  hart j := ⟨(s.hart j).resv, by rw [State.hart, h.fields.1]; rfl⟩
  running q := by rw [h.quad q]; rfl

theorem Accessed.mapResv (f : Nat → Hart → Hart) (hf : ∀ h a, ∃ r, f h a = { a with resv := r }) :
    Accessed s (s.mapHarts f) := ⟨rfl, (State.mapHarts_resv s f hf).hart, fun _ => rfl⟩

theorem Accessed.updQuad (q : Nat) (f : Quad → Quad) (h : ∀ a, (f a).running = a.running) : Accessed s (s.updQuad q f) where
  rest := rfl
  hart j := ⟨(s.hart j).resv, rfl⟩
  running k := by
    by_cases e : k = q
    · subst e; rw [State.quad_updQuad]; exact h _
    · rw [State.quad_updQuad_other _ _ _ _ e]

theorem Accessed.updCore (c : Nat) (f : Core → Core) : Accessed s (s.updCore c f) :=
  ⟨rfl, fun h => ⟨(s.hart h).resv, rfl⟩, fun _ => rfl⟩

theorem Accessed.updDie (d : Nat) (f : Die → Die) : Accessed s (s.updDie d f) :=
  ⟨rfl, fun h => ⟨(s.hart h).resv, rfl⟩, fun _ => rfl⟩

theorem Accessed.withShare (x : Tab ShareEntry) : Accessed s { s with share := x } :=
  ⟨rfl, fun h => ⟨(s.hart h).resv, rfl⟩, fun _ => rfl⟩

theorem Accessed.withBisnps (x : List BiSnp) : Accessed s { s with bisnps := x } :=
  ⟨rfl, fun h => ⟨(s.hart h).resv, rfl⟩, fun _ => rfl⟩

/-! ### Translation -/

theorem State.flushPage_accessed (s : State) (c page : Nat) : Accessed s (s.flushPage c page) := by
  unfold State.flushPage
  extract_lets keepT t mine u
  have ht : Accessed s t := .mapResv _ (fun _ a => Hart.loseResv_spec a _)
  have hu : Accessed t u := (Cached.foldl (f := fun (u : State) (l : Nat × Bool) => u.dropL1 c l.1)
    (fun s x => State.dropL1_cached s c x.1) mine t).accessed.trans (.updCore _ _)
  exact (ht.trans hu).trans (.updQuad _ _ fun _ => rfl)

theorem State.claim_accessed (s : State) (q : Req) (e : TlbEntry) : Accessed s (s.claim q e).2 := by
  unfold State.claim
  dsimp only
  split
  · exact .refl s
  · split
    · split <;> exact (State.dropDirs_cached s _).accessed.trans (.withShare _)
    · split
      · exact .refl s
      · exact (State.flushPage_accessed s _ _).trans (.withShare _)
    · exact .refl s

theorem State.installTlb_accessed (s : State) (q : Req) (e : TlbEntry) : Accessed s (s.installTlb q e) := by
  have h : Accessed s (s.updQuad q.quad (fun a => { a with tlb := (e :: a.tlb).take 4096 })) := .updQuad _ _ fun _ => rfl
  unfold State.installTlb
  dsimp only
  split
  · exact h.trans (.updCore _ _)
  · exact h

theorem State.useWalk_accessed {q : Req} {acc : AccKind} {v : Nat} {keep : Bool} {r : WRes} {e : TlbEntry} {pa : Nat}
    (h : s.useWalk q acc v keep r = .ok e pa t) : Accessed s t := by
  unfold State.useWalk at h
  split at h
  · cases h
  · cases h
  · split at h
    · cases h
    · split at h
      · cases h
      · split at h
        · cases h
        · split at h
          · cases h
          · dsimp only at h
            cases h
            cases keep
            · exact State.claim_accessed s q _
            · exact (State.claim_accessed s q _).trans (State.installTlb_accessed ..)

theorem State.endWalk_accessed (s : State) (d : Nat) (w : Walk) : Accessed s (s.endWalk d w) := .updDie _ _

theorem State.snoopsUsed_accessed (s : State) (who : Nat) (l : List Nat) : Accessed s (s.snoopsUsed who l) := by
  unfold State.snoopsUsed
  split
  · exact .refl s
  · exact .withBisnps _

theorem State.learn_accessed (s : State) (d w : Nat) (l : WCache) : Accessed s (s.learn d w l) := by
  unfold State.learn
  dsimp only
  split
  · exact .refl s
  · exact .updDie _ _

theorem State.walked_accessed (s : State) (q : Req) (w : Nat) (l : WCache) : Accessed s (s.walked q w l) := by
  unfold State.walked
  exact (State.learn_accessed ..).trans ((State.snoopsUsed_accessed ..).trans (State.reach_cached ..).accessed)

theorem State.walk_accessed {q : Req} {acc : AccKind} {v : Nat} {e : TlbEntry} {pa : Nat}
    (h : s.walk q acc v = .ok e pa t) : Accessed s t := by
  unfold State.walk at h
  dsimp only at h
  split at h
  · exact (State.endWalk_accessed s _ _).trans (State.useWalk_accessed h)
  · split at h
    · cases h
    · split at h
      · cases h
      · exact (State.walked_accessed s _ _ _).trans (State.useWalk_accessed h)

theorem State.translate_accessed {q : Req} {va : Word} {acc : AccKind} {e : TlbEntry} {pa : Nat}
    (h : s.translate q va acc = .ok e pa t) : Accessed s t := by
  unfold State.translate at h
  dsimp only at h
  split at h
  · cases h
  · split at h
    · exact (State.endWalk_accessed s _ _).trans (State.useWalk_accessed h)
    · split at h
      · split at h
        · cases h
        · split at h
          · cases h
          · cases h; exact .refl s
      · exact State.walk_accessed h

theorem State.access_accessed {who : Nat} {q : Req} {va : Word} {acc : AccKind} {mis dev : Nat} {c : Acc}
    (h : s.access who q va acc mis dev = .ok c) : Accessed s c.s := by
  unfold State.access at h
  split at h
  · cases h
  · cases h
  · cases h
  · rename_i hk
    repeat' split at h
    all_goals cases h
    exact State.translate_accessed hk

theorem State.objAccess_accessed {va : Word} {f : Bool} {c : Acc} (h : s.objAccess va f = .ok c) : Accessed s c.s := by
  unfold State.objAccess at h
  split at h
  · cases h
  · split at h
    · cases h
    · cases h
    · cases h
    · rename_i hk
      repeat' split at h
      all_goals cases h
      exact State.translate_accessed hk

/-! ### Engines -/

theorem State.engineAccess_accessed {who : Nat} {q : Req} {va : Word} {acc : AccKind} {dev : Nat} {c : Acc}
    (h : s.engineAccess who q va acc dev = .ok c) : Accessed s c.s := by
  unfold State.engineAccess at h
  split at h
  · rename_i hk
    split at h <;> cases h
    exact State.access_accessed hk
  all_goals cases h

theorem State.engineParts_accessed {who : Nat} {q : Req} {acc : AccKind} {cp dev : Nat} {denied : Bool}
    {l : List (Word × Nat)} {p : Place} (h : s.engineParts who q acc cp dev denied l = .ok p t) : Accessed s t := by
  induction l generalizing s p t with
  | nil => cases h; exact .refl s
  | cons x l ih =>
    unfold State.engineParts at h
    split at h
    · cases h
    · split at h <;> cases h
    · rename_i hk
      have ha := State.engineAccess_accessed hk
      split at h
      · cases h
      · split at h
        · rename_i hl
          cases h; exact ha.trans (ih hl)
        · exact ha.trans (ih h)
    · cases h

theorem State.findSide_accessed {x : Xfer} {src : Bool} {p : Piece} {a : Place}
    (h : s.findSide x src p = .ok a t) : Accessed s t := by
  unfold State.findSide at h
  dsimp only at h
  split at h
  · exact State.engineParts_accessed h
  · split at h
    · cases h
    · split at h <;> cases h
      exact .refl _
  · cases h; exact .refl _
  · generalize (src && _) = bad at h
    cases bad <;> cases h
    exact .refl _
  · split at h <;> cases h
    exact .refl _

theorem State.findPiece_accessed {x : Xfer} {p : Piece} {a b : Place} (h : s.findPiece x p = .ok (a, b, t)) :
    Accessed s t := by
  unfold State.findPiece at h
  split at h
  · rename_i ha
    split at h
    · rename_i hb
      cases h
      exact (State.findSide_accessed ha).trans (State.findSide_accessed hb)
    · cases h
  · cases h

/-! ### What it leaves -/

theorem Accessed.mem (h : Accessed s t) : t.mem = s.mem := by rw [h.rest]
theorem Accessed.tmem (h : Accessed s t) : t.tmem = s.tmem := by rw [h.rest]
theorem Accessed.peers (h : Accessed s t) : t.peers = s.peers := by rw [h.rest]
theorem Accessed.waiters (h : Accessed s t) : t.waiters = s.waiters := by rw [h.rest]

theorem Accessed.memUnder (h : Accessed s t) : t.memUnder = s.memUnder := by rw [h.rest]; rfl

end Sys2Proof.Machine
end

section
/-!
The queue of a quad's copy engine, its tags and the pieces of a run (R151, R156, R158).
-/
namespace Sys2Proof.Machine

open Claims

/-! ### Admission -/

theorem Quad.fifoTry_pop {a : Quad} {f : Fifo} {id clk : Nat} (room : 0 < Tab.get a.fifo f.no 0)
    (first : ∀ y ∈ a.held, y.op.fifo ≠ f) :
    a.fifoTry (.cpop f id) clk = (true, { a with fifo := Tab.set a.fifo f.no (Tab.get a.fifo f.no 0 - 1) }) := by
  have hf : a.held.find? (fun x => decide (x.op.fifo = f) && x.op.isPush == false) = none :=
    List.find?_eq_none.2 fun y hy => by simp [first y hy]
  have hk : a.held.filter (fun x => decide (x.op ≠ .cpop f id)) = a.held :=
    List.filter_eq_self.2 fun y hy => by
      have : y.op ≠ .cpop f id := fun e => first y hy (by rw [e]; rfl)
      simpa using this
  have hp : HeldOp.isPush (.cpop f id) = false := rfl
  have hn : HeldOp.fifo (.cpop f id) = f := rfl
  unfold Quad.fifoTry
  simp only [hp, hn, hf, hk]
  simp [room]

theorem Quad.fifoTry_pop_empty {a : Quad} {f : Fifo} {id clk : Nat} (none : Tab.get a.fifo f.no 0 = 0)
    (first : ∀ y ∈ a.held, y.op.fifo ≠ f) :
    a.fifoTry (.cpop f id) clk = (false, { a with held := a.held.concat ⟨.cpop f id, clk⟩ }) := by
  have hk : a.held.any (fun x => decide (x.op = .cpop f id)) = false :=
    List.any_eq_false.2 fun y hy => by
      have : y.op ≠ .cpop f id := fun e => first y hy (by rw [e]; rfl)
      simpa using this
  have hp : HeldOp.isPush (.cpop f id) = false := rfl
  have hn : HeldOp.fifo (.cpop f id) = f := rfl
  unfold Quad.fifoTry
  simp only [hp, hn, hk, none]
  simp

theorem Quad.fifoTry_push {a : Quad} {f : Fifo} {id clk : Nat} (room : Tab.get a.fifo f.no 0 < 16)
    (first : ∀ y ∈ a.held, y.op.fifo ≠ f) :
    a.fifoTry (.cpush f id) clk = (true, { a with fifo := Tab.set a.fifo f.no (Tab.get a.fifo f.no 0 + 1) }) := by
  have hf : a.held.find? (fun x => decide (x.op.fifo = f) && x.op.isPush == true) = none :=
    List.find?_eq_none.2 fun y hy => by simp [first y hy]
  have hk : a.held.filter (fun x => decide (x.op ≠ .cpush f id)) = a.held :=
    List.filter_eq_self.2 fun y hy => by
      have : y.op ≠ .cpush f id := fun e => first y hy (by rw [e]; rfl)
      simpa using this
  have hp : HeldOp.isPush (.cpush f id) = true := rfl
  have hn : HeldOp.fifo (.cpush f id) = f := rfl
  unfold Quad.fifoTry
  simp only [hp, hn, hf, hk]
  simp [room]

theorem Quad.admitHead_cons {a : Quad} {x : Xfer} {rest : List Xfer} (h : a.cq = x :: rest) :
    a.admitHead = { a with cq := rest, running := a.running.concat x } := by
  unfold Quad.admitHead
  rw [h, List.concat_eq_append]

/-- COPY_ADMIT with a transfer at the head of the queue. -/
theorem execCopyAdmit_cons {s : State} {x : Xfer} {rest : List Xfer} (h : (s.quad s.ev.q).cq = x :: rest) :
    execCopyAdmit s =
      if 8 ≤ (s.quad s.ev.q).running.length ∨ s.quadHalted s.ev.q then .next s
      else if x.pop then
        let r := (s.quad s.ev.q).fifoTry (.cpop x.popFifo x.id) (s.clockOf s.ev.q)
        .next (s.updQuad s.ev.q (fun _ => if r.1 then r.2.admitHead else r.2))
      else .next (s.updQuad s.ev.q (fun a => a.admitHead)) := by
  unfold execCopyAdmit
  dsimp only
  rw [h]

theorem State.updQuad_eq {s : State} {q : Nat} {f g : Quad → Quad} (h : f (s.quad q) = g (s.quad q)) :
    s.updQuad q f = s.updQuad q g := by
  unfold State.updQuad
  rw [h]

/-- R158: the oldest transfer is admitted while fewer than 8 run. -/
theorem copyAdmit_steps (s : State) (x : Xfer) (rest : List Xfer) :
    let q := s.ev.q
    let a := s.quad q
    let n := Tab.get a.fifo x.popFifo.no 0
    a.cq = x :: rest →
    (8 ≤ a.running.length ∨ s.quadHalted q = true → exec .copyAdmit s = .next s) ∧
    (a.running.length < 8 → s.quadHalted q = false → x.pop = false →
      exec .copyAdmit s = .next (s.updQuad q (fun a => { a with cq := rest, running := a.running.concat x }))) ∧
    (a.running.length < 8 → s.quadHalted q = false → x.pop = true → 0 < n → (∀ y ∈ a.held, y.op.fifo ≠ x.popFifo) →
      exec .copyAdmit s = .next (s.updQuad q (fun a => { a with
        cq := rest, running := a.running.concat x, fifo := Tab.set a.fifo x.popFifo.no (n - 1) }))) ∧
    (a.running.length < 8 → s.quadHalted q = false → x.pop = true → n = 0 → (∀ y ∈ a.held, y.op.fifo ≠ x.popFifo) →
      exec .copyAdmit s = .next (s.updQuad q (fun a => { a with held := a.held.concat ⟨.cpop x.popFifo x.id, s.clockOf q⟩ }))) := by
  intro q a n h
  have he : exec .copyAdmit s = _ := execCopyAdmit_cons h
  refine ⟨fun hb => ?_, fun hl hh hp => ?_, fun hl hh hp hn hf => ?_, fun hl hh hp hn hf => ?_⟩
  · rw [he, if_pos hb]
  all_goals
    rw [he, if_neg (by simp only [not_or, Nat.not_le, Bool.not_eq_true]; exact ⟨hl, hh⟩), hp]
    dsimp only
  · rw [if_neg Bool.false_ne_true]
    refine congrArg Host.Outcome.next (State.updQuad_eq ?_)
    exact Quad.admitHead_cons h
  · rw [if_pos rfl, Quad.fifoTry_pop hn hf]
    refine congrArg Host.Outcome.next (State.updQuad_eq ?_)
    exact Quad.admitHead_cons (a := { a with fifo := Tab.set a.fifo x.popFifo.no (n - 1) }) h
  · rw [if_pos rfl, Quad.fifoTry_pop_empty hn hf]
    refine congrArg Host.Outcome.next (State.updQuad_eq ?_)
    rfl

/-! ### Tags -/

/-- A transfer with the pieces that wait for tags given them. -/
def Xfer.tagged (x : Xfer) : Xfer := { x with emitted := x.emitted ++ x.untagged, untagged := [] }

/-- A transfer with a tag for its next piece. -/
def Xfer.tagOne (x : Xfer) : Xfer := { x with emitted := x.emitted ++ x.untagged.take 1, untagged := x.untagged.tail }

theorem Xfer.tagOne_tagged (x : Xfer) : x.tagOne.tagged = x.tagged := by
  have h : x.untagged.take 1 ++ x.untagged.tail = x.untagged := by cases x.untagged <;> rfl
  unfold Xfer.tagOne Xfer.tagged
  simp only [List.append_assoc, h]

/-- The transfers of a number changed. -/
def Xfer.onId (i : Nat) (f : Xfer → Xfer) (y : Xfer) : Xfer := if y.id == i then f y else y

theorem Xfer.onId_same {i : Nat} {f : Xfer → Xfer} {y : Xfer} (h : y.id = i) : Xfer.onId i f y = f y := if_pos (by simpa using h)
theorem Xfer.onId_other {i : Nat} {f : Xfer → Xfer} {y : Xfer} (h : y.id ≠ i) : Xfer.onId i f y = y := if_neg (by simpa using h)

theorem Xfer.onId_id {i : Nat} {f : Xfer → Xfer} (h : ∀ y, (f y).id = y.id) (y : Xfer) : (Xfer.onId i f y).id = y.id := by
  unfold Xfer.onId
  split
  · exact h y
  · rfl

theorem Quad.wantsTag_untagged {a : Quad} {x : Xfer} (h : a.wantsTag x = true) : x.untagged ≠ [] := by
  intro e
  simp [Quad.wantsTag, e] at h

theorem Quad.wantsTag_plain {a : Quad} {x : Xfer} (h : x.untagged ≠ []) (f : x.feed = none) : a.wantsTag x = true := by
  unfold Quad.wantsTag
  split
  · exact absurd ‹_› h
  · simp [Quad.roomFor, f]

/-- The transfer whose turn it is waits for a tag. -/
theorem Quad.tagNext_mem {a : Quad} {i : Nat} (h : a.tagNext = some i) : ∃ y ∈ a.running, y.id = i ∧ a.wantsTag y = true := by
  unfold Quad.tagNext at h
  dsimp only at h
  obtain ⟨y, hy, rfl⟩ := Option.map_eq_some_iff.1 h
  have hm := List.mem_of_mem_head? hy
  rcases List.mem_append.1 hm with hm | hm
  · have hm := List.mem_filter.1 (List.mem_filter.1 hm).1
    exact ⟨y, hm.1, rfl, hm.2⟩
  · have hm := List.mem_filter.1 hm
    exact ⟨y, hm.1, rfl, hm.2⟩

theorem Quad.tagNext_none {a : Quad} (h : a.tagNext = none) : ∀ y ∈ a.running, a.wantsTag y = false := by
  intro y hy
  unfold Quad.tagNext at h
  dsimp only at h
  rw [Option.map_eq_none_iff, List.head?_eq_none_iff] at h
  have hf := List.filter_eq_nil_iff.1 (List.append_eq_nil_iff.1 h).2 y hy
  simpa using hf

theorem Quad.giveTags_settled {a : Quad} (h : ∀ y ∈ a.running, y.untagged = []) (n : Nat) : a.giveTags n = a := by
  cases n with
  | zero => rfl
  | succ n =>
    unfold Quad.giveTags
    split
    · rfl
    · rename_i i hi
      obtain ⟨y, hy, -, hw⟩ := Quad.tagNext_mem hi
      exact absurd (h y hy) (Quad.wantsTag_untagged hw)

/-- With no piece waiting, no tag is given. -/
theorem Quad.shareTags_settled {a : Quad} (h : ∀ y ∈ a.running, y.untagged = []) : a.shareTags = a :=
  Quad.giveTags_settled h _

/-- A transfer alone in waiting, no feed's, takes tags for all its pieces while there are enough. -/
theorem Quad.giveTags_one {i n : Nat} : ∀ {a : Quad} {k : Nat}, k ≤ n → (∀ y ∈ a.running, y.id ≠ i → y.untagged = []) →
    (∀ y ∈ a.running, y.id = i → y.untagged.length = k ∧ y.feed = none) →
    (a.giveTags n).running = a.running.map (Xfer.onId i Xfer.tagged) := by
  have same {a : Quad} (h : ∀ y ∈ a.running, y.untagged = []) : a.running = a.running.map (Xfer.onId i Xfer.tagged) := by
    refine (List.map_id' _).symm.trans (List.map_congr_left fun y hy => ?_)
    unfold Xfer.onId Xfer.tagged
    rw [h y hy, List.append_nil, ← h y hy]
    split <;> rfl
  induction n with
  | zero =>
    intro a k hk ho hi
    refine same fun y hy => ?_
    by_cases e : y.id = i
    · exact List.eq_nil_of_length_eq_zero (by have := (hi y hy e).1; omega)
    · exact ho y hy e
  | succ n ih =>
    intro a k hk ho hi
    unfold Quad.giveTags
    split
    · rename_i hn
      refine same fun y hy => ?_
      by_cases e : y.id = i
      · by_contra hu
        exact absurd (Quad.wantsTag_plain hu (hi y hy e).2) (by rw [Quad.tagNext_none hn y hy]; simp)
      · exact ho y hy e
    · rename_i j hj
      obtain ⟨y, hy, rfl, hw⟩ := Quad.tagNext_mem hj
      have hid : y.id = i := by
        by_contra e
        exact Quad.wantsTag_untagged hw (ho y hy e)
      have hk : 0 < k := by
        rw [← (hi y hy hid).1]
        exact List.length_pos_of_ne_nil (Quad.wantsTag_untagged hw)
      have hr : (a.tagOne i).running = a.running.map (Xfer.onId i Xfer.tagOne) := rfl
      have hg (z : Xfer) : (Xfer.onId i Xfer.tagOne z).id = z.id := Xfer.onId_id (f := Xfer.tagOne) (fun _ => rfl) z
      rw [hid, ih (k := k - 1) (by omega) ?_ ?_, hr, List.map_map]
      · refine List.map_congr_left fun z hz => ?_
        rw [Function.comp]
        by_cases e : z.id = i
        · rw [Xfer.onId_same ((hg z).trans e), Xfer.onId_same e, Xfer.onId_same e, Xfer.tagOne_tagged]
        · rw [Xfer.onId_other e]
      · intro z hz
        obtain ⟨w, hw, rfl⟩ := List.mem_map.1 (hr ▸ hz)
        rw [hg]
        intro e
        rw [Xfer.onId_other e]
        exact ho w hw e
      · intro z hz
        obtain ⟨w, hw, rfl⟩ := List.mem_map.1 (hr ▸ hz)
        rw [hg]
        intro e
        obtain ⟨hl, hf⟩ := hi w hw e
        rw [Xfer.onId_same e]
        exact ⟨by simp [Xfer.tagOne, hl], hf⟩

/-- Tags in use are those of the pieces emitted. -/
theorem Quad.tagsUsed_map {a b : Quad} {f : Xfer → Xfer} (h : b.running = a.running.map f)
    (e : ∀ y, (f y).emitted = y.emitted) : b.tagsUsed = a.tagsUsed := by
  unfold Quad.tagsUsed
  rw [h, List.foldl_map]
  simp only [e]

/-- Transfers of one number are one. -/
theorem eq_of_id_eq {l : List Xfer} (h : (l.map (·.id)).Nodup) {x y : Xfer} (hx : x ∈ l) (hy : y ∈ l) (e : y.id = x.id) : y = x :=
  List.inj_on_of_nodup_map h hy hx e

/-- A run emitted: its pieces wait for tags. -/
def Xfer.emits (y : Xfer) : Xfer := { y with next := y.next + 1, untagged := y.pieces y.next }

/-- A transfer that may emit its next run. -/
theorem execCopyRunEmit_emits {s : State} {x : Xfer} (h : (s.quad s.ev.q).running.find? (fun y => y.id == s.ev.w) = some x)
    (c : x.fail = none) (ha : x.aborted = false) (hs : x.stage = .running) (hh : s.quadHalted s.ev.q = false)
    (hd : Shape.dk x.shape ≠ 2) (hn : x.next < Shape.runs x.shape) (hu : x.untagged = []) :
    execCopyRunEmit s = .next (s.updQuad s.ev.q (fun a => Quad.shareTags { a with
      running := a.running.map (Xfer.onId x.id Xfer.emits) })) := by
  have hr : (s.quad s.ev.q).roomFor x 1 = true := by simp [Quad.roomFor, Xfer.feed, hd]
  unfold execCopyRunEmit
  dsimp only
  rw [h]
  dsimp only
  rw [if_pos ⟨hn, hu, c, by simp [ha], hs, by simp [hr], by simp [hh]⟩]
  rfl

/-- R75, R151: a running transfer emits the pieces of its next run. -/
theorem copyRunEmit_steps (s : State) (x : Xfer) :
    let q := s.ev.q
    let a := s.quad q
    let left (f : Xfer → Xfer) : List Xfer := a.running.map (fun y => if y.id == x.id then f y else y)
    a.running.find? (fun y => y.id == s.ev.w) = some x → (a.running.map (·.id)).Nodup →
    (x.fail = none → x.aborted = false → x.stage = .running → s.quadHalted q = false → Shape.dk x.shape ≠ 2 → x.next < Shape.runs x.shape →
      (∀ y ∈ a.running, y.untagged = []) →
      (a.tagsUsed + (x.pieces x.next).length ≤ 128 →
        ∃ t, exec .copyRunEmit s = .next t ∧ t.mem = s.mem ∧ t.harts = s.harts ∧
          (t.quad q).running = left (fun y => { y with next := y.next + 1, emitted := y.emitted ++ y.pieces y.next })) ∧
      (128 ≤ a.tagsUsed → exec .copyRunEmit s = .next (s.updQuad q (fun a => { a with
        running := left (fun y => { y with next := y.next + 1, untagged := y.pieces y.next }) })))) ∧
    (x.untagged ≠ [] → exec .copyRunEmit s = .next s) := by
  intro q a left hf hd
  have hx : x ∈ a.running := List.mem_of_find?_eq_some hf
  refine ⟨fun c ha hs hh hk hn hu => ?_, fun hu => ?_⟩
  · have he : exec .copyRunEmit s = _ := execCopyRunEmit_emits hf c ha hs hh hk hn (hu x hx)
    let b : Quad := { a with running := a.running.map (Xfer.onId x.id Xfer.emits) }
    have hb : b.tagsUsed = a.tagsUsed := Quad.tagsUsed_map rfl fun y => by unfold Xfer.onId Xfer.emits; split <;> rfl
    have hid (y : Xfer) : (Xfer.onId x.id Xfer.emits y).id = y.id := Xfer.onId_id (f := Xfer.emits) (fun _ => rfl) y
    refine ⟨fun hl => ⟨_, he, rfl, rfl, ?_⟩, fun hl => ?_⟩
    · rw [State.quad_updQuad]
      show (b.giveTags (128 - b.tagsUsed)).running = _
      rw [Quad.giveTags_one (i := x.id) (k := (x.pieces x.next).length) (by omega)]
      · show (a.running.map _).map _ = a.running.map _
        rw [List.map_map]
        refine List.map_congr_left fun y hy => ?_
        by_cases e : y.id = x.id
        · unfold Function.comp Xfer.onId Xfer.emits Xfer.tagged
          simp only [e, beq_self_eq_true, if_true]
          rw [← hu y hy]
        · simp [Xfer.onId, e]
      · intro z hz
        obtain ⟨y, hy, rfl⟩ := List.mem_map.1 hz
        rw [hid]
        intro e
        rw [Xfer.onId_other e]
        exact hu y hy
      · intro z hz
        obtain ⟨y, hy, rfl⟩ := List.mem_map.1 hz
        rw [hid]
        intro e
        rw [eq_of_id_eq hd hx hy e]
        rw [Xfer.onId_same rfl]
        refine ⟨rfl, ?_⟩
        show x.feed = none
        simp [Xfer.feed, hk]
    · rw [he]
      refine congrArg Host.Outcome.next (State.updQuad_eq ?_)
      show b.giveTags (128 - b.tagsUsed) = _
      rw [hb, Nat.sub_eq_zero_of_le hl]
      rfl
  · show execCopyRunEmit s = _
    unfold execCopyRunEmit
    dsimp only
    rw [show (s.quad s.ev.q).running.find? (fun y => y.id == s.ev.w) = some x from hf]
    dsimp only
    rw [if_neg fun h => hu h.2.1]

/-! ### Pieces -/

/-- The spans between the members of a list, up to an end. -/
def spansOf (l : List Nat) (r : Nat) : List (Nat × Nat) := l.zip (l.tail ++ [r])

theorem spansOf_one (a r : Nat) : spansOf [a] r = [(a, r)] := rfl
theorem spansOf_cons (a b r : Nat) (l : List Nat) : spansOf (a :: b :: l) r = (a, b) :: spansOf (b :: l) r := rfl

theorem spansOf_head (a r : Nat) (l : List Nat) : ∃ b t, spansOf (a :: l) r = (a, b) :: t := by
  cases l with
  | nil => exact ⟨_, _, spansOf_one a r⟩
  | cons b l => exact ⟨_, _, spansOf_cons a b r l⟩

theorem spansOf_last (a r : Nat) (l : List Nat) : ((spansOf (a :: l) r).getLast?).map (·.2) = some r := by
  induction l generalizing a with
  | nil => rfl
  | cons b l ih =>
    obtain ⟨c, t, e⟩ := spansOf_head b r l
    rw [spansOf_cons, e, List.getLast?_cons_cons, ← e, ih]

theorem spansOf_chain (a r : Nat) (l : List Nat) (j : Nat) (p n : Nat × Nat) (hp : (spansOf (a :: l) r)[j]? = some p)
    (hn : (spansOf (a :: l) r)[j + 1]? = some n) : p.2 = n.1 := by
  induction l generalizing a j with
  | nil => simp [spansOf_one] at hn
  | cons b l ih =>
    rw [spansOf_cons] at hp hn
    cases j with
    | zero =>
      obtain ⟨c, t, e⟩ := spansOf_head b r l
      rw [e] at hn
      simp only [List.getElem?_cons_zero, List.getElem?_cons_succ, Option.some.injEq] at hp hn
      rw [← hp, ← hn]
    | succ j => exact ih b j (by simpa using hp) (by simpa using hn)

/-- A span of an increasing list has none of it inside. -/
theorem spansOf_gap (a r : Nat) (l : List Nat) (h : (a :: l).Pairwise (· < ·)) (hr : ∀ e ∈ a :: l, e < r) (p : Nat × Nat)
    (hp : p ∈ spansOf (a :: l) r) : p.1 < p.2 ∧ p.2 ≤ r ∧ ∀ e ∈ a :: l, ¬ (p.1 < e ∧ e < p.2) := by
  induction l generalizing a with
  | nil =>
    rw [spansOf_one, List.mem_singleton] at hp
    subst hp
    exact ⟨hr a (by simp), Nat.le_refl r, fun e he => by simp at he; omega⟩
  | cons b l ih =>
    rw [spansOf_cons] at hp
    obtain ⟨ha, ht⟩ := List.pairwise_cons.1 h
    rcases List.mem_cons.1 hp with rfl | hq
    · refine ⟨ha b (by simp), (hr b (by simp)).le, fun e he => ?_⟩
      rcases List.mem_cons.1 he with rfl | he
      · simp
      · rcases List.mem_cons.1 he with rfl | he
        · simp
        · have := (List.pairwise_cons.1 ht).1 e he
          simp only; omega
    · obtain ⟨h1, h2, h3⟩ := ih b ht (fun e he => hr e (List.mem_cons_of_mem _ he)) hq
      refine ⟨h1, h2, fun e he => ?_⟩
      rcases List.mem_cons.1 he with rfl | he
      · have hb : b ≤ p.1 := by
          have hm : p.1 ∈ b :: l := (List.of_mem_zip (a := p.1) (b := p.2) hq).1
          rcases List.mem_cons.1 hm with e | hm
          · omega
          · exact ((List.pairwise_cons.1 ht).1 _ hm).le
        have := ha b (by simp)
        omega
      · exact h3 e he

/-- Where a run's pieces start. -/
def Xfer.starts (x : Xfer) (n : Nat) : List Nat := (List.range (Shape.run x.shape)).filter (fun i => decide (i = 0) || x.cutAt n i)

theorem Xfer.pieces_eq (x : Xfer) (n : Nat) :
    x.pieces n = (spansOf (x.starts n) (Shape.run x.shape)).map (fun p => { n := n, i := p.1, j := p.2 }) := rfl

theorem Xfer.starts_cons (x : Xfer) (n : Nat) (h : 0 < Shape.run x.shape) : ∃ l, x.starts n = 0 :: l := by
  obtain ⟨r, hr⟩ := Nat.exists_eq_succ_of_ne_zero (Nat.pos_iff_ne_zero.1 h)
  refine ⟨((List.range r).map Nat.succ).filter (fun i => decide (i = 0) || x.cutAt n i), ?_⟩
  unfold Xfer.starts
  rw [hr, List.range_succ_eq_map, List.filter_cons_of_pos (by simp)]

/-- Bytes that a line ends at none of lie in one line. -/
theorem within_line {a i j : Nat} (hij : i < j) (h : ∀ e, i < e → e < j → (a + e) % 64 ≠ 0) : (a + i) % 64 + (j - i) ≤ 64 := by
  by_contra hc
  exact h (i + (64 - (a + i) % 64)) (by omega) (by omega) (by omega)

/-- R156: the pieces of a run cover it in order. -/
theorem piecesCover (x : Xfer) (n : Nat) : PiecesCover x n := by
  intro hr
  obtain ⟨l, hl⟩ := x.starts_cons n hr
  have hp : (x.starts n).Pairwise (· < ·) := List.pairwise_lt_range.filter _
  have hlt : ∀ e ∈ x.starts n, e < Shape.run x.shape := fun e he => List.mem_range.1 (List.mem_filter.1 he).1
  rw [Xfer.pieces_eq]
  refine ⟨?_, ?_, fun j p r h1 h2 => ?_, fun p hp' => ?_⟩
  · obtain ⟨b, t, e⟩ := spansOf_head 0 (Shape.run x.shape) l
    rw [hl, e]
    rfl
  · have h := spansOf_last 0 (Shape.run x.shape) l
    rw [hl, List.getLast?_map, Option.map_map]
    exact h
  · rw [hl, List.getElem?_map] at h1 h2
    obtain ⟨p', hp', rfl⟩ := Option.map_eq_some_iff.1 h1
    obtain ⟨r', hr', rfl⟩ := Option.map_eq_some_iff.1 h2
    exact spansOf_chain _ _ _ _ _ _ hp' hr'
  · obtain ⟨p', hm, rfl⟩ := List.mem_map.1 hp'
    rw [hl] at hm hp hlt
    obtain ⟨h1, h2, h3⟩ := spansOf_gap _ _ _ hp hlt p' hm
    have cut (e : Nat) (h4 : p'.1 < e) (h5 : e < p'.2) : x.cutAt n e = false := by
      by_contra hc
      refine h3 e ?_ ⟨h4, h5⟩
      rw [← hl]
      exact List.mem_filter.2 ⟨List.mem_range.2 (by omega), by simp [hc]⟩
    refine ⟨rfl, h1, rfl, fun hop => ⟨fun hk => ?_, fun hk => ?_⟩⟩
    · refine within_line h1 fun e h4 h5 hz => ?_
      have := cut e h4 h5
      simp [Xfer.cutAt, hop, hk, hz] at this
    · refine within_line h1 fun e h4 h5 hz => ?_
      have := cut e h4 h5
      simp [Xfer.cutAt, hop, hk, hz] at this

end Sys2Proof.Machine
end

section
/-!
A piece of a transfer performed at memory (R32, R156, R157): what is read, what is written, and a piece that fails.
-/
namespace Sys2Proof.Machine

variable {s t u : State} {x : Xfer} {p : Piece}

/-! ### Reading and writing memory -/

/-- Bytes of memory read by an engine. -/
theorem State.readPlace_mem {n : Nat} {a : MemPart} (h : isMmio a.pa = false) :
    (s.readPlace x n (.mem [a])).1 = (s.memUnder a.key).readBytes a.pa a.n ∧ Accessed s (s.readPlace x n (.mem [a])).2 := by
  have ha : Accessed s ((s.snoopsUsed x.who [lineOf a.pa]).reach (quadOf x.hart) false [a.req]) :=
    (State.snoopsUsed_accessed ..).trans (State.reach_cached ..).accessed
  unfold State.readPlace State.readSpan
  simp only [List.foldl_cons, List.foldl_nil, List.map_cons, List.map_nil, h, Bool.false_eq_true, if_false, List.nil_append]
  exact ⟨by rw [ha.memUnder], ha⟩

theorem State.poke_quads (who : Option Nat) (key pa : Nat) (bytes : List Byte) : (s.poke who key pa bytes).quads = s.quads := by
  have hs (v : State) (n : Nat) : (v.seal key pa n).quads = v.quads := by unfold State.seal; split <;> rfl
  have hh (v : State) (l : List Nat) : (v.healLines l).quads = v.quads := by unfold State.healLines; split <;> rfl
  show (State.healLines _ _).quads = _
  rw [hh, hs]

theorem State.poke_running (who : Option Nat) (key pa : Nat) (bytes : List Byte) (q : Nat) :
    ((s.poke who key pa bytes).quad q).running = (s.quad q).running := by
  unfold State.quad
  rw [State.poke_quads]

/-- Bytes written by an engine at a place of memory. -/
theorem State.writePlace_mem {q : Nat} {bytes : List Byte} {b : MemPart} (h : isMmio b.pa = false) (l : bytes.length = b.n) :
    let v := s.writePlace x q bytes (.mem [b])
    v.mem = s.mem.writeBytes b.pa bytes ∧ v.tmem = s.tmem ∧ (∀ k, (v.quad k).running = (s.quad k).running) ∧
      ∀ k, ∃ r, v.hart k = { s.hart k with resv := r } := by
  obtain ⟨hm, ht, -, -, hr⟩ := s.poke_spec none b.key b.pa bytes
  have hc : Accessed (s.poke none b.key b.pa bytes) (s.writePlace x q bytes (.mem [b])) := by
    unfold State.writePlace State.writeSpan
    simp only [List.foldl_cons, List.foldl_nil, h, Bool.false_eq_true, if_false, ← l, List.take_length]
    exact (State.reach_cached ..).accessed
  refine ⟨hc.mem.trans hm, hc.tmem.trans ht, fun k => (hc.running k).trans (State.poke_running ..), fun k => ?_⟩
  obtain ⟨r, e⟩ := hr k
  obtain ⟨r', e'⟩ := hc.hart k
  exact ⟨r', by rw [e', e]⟩

/-! ### A transfer changed -/

theorem State.updXfer_running (q id : Nat) (f : Xfer → Xfer) :
    ((s.updXfer q id f).quad q).running = (s.quad q).running.map (Xfer.onId id f) := by
  unfold State.updXfer
  rw [State.quad_updQuad]
  rfl

/-- A transfer changed leaves every other field of the quads. -/
theorem State.updXfer_quad (q id : Nat) (f : Xfer → Xfer) (k : Nat) :
    ∃ r, (s.updXfer q id f).quad k = { s.quad k with running := r } := by
  unfold State.updXfer
  by_cases e : k = q
  · subst e
    rw [State.quad_updQuad]
    exact ⟨_, rfl⟩
  · rw [State.quad_updQuad_other _ _ _ _ e]
    exact ⟨(s.quad k).running, rfl⟩

theorem State.sliceBusy_updXfer (q id : Nat) (f : Xfer → Xfer) : (s.updXfer q id f).sliceBusy = s.sliceBusy := by
  have hv (l : Nat) : (s.updXfer q id f).victimAt l = s.victimAt l := by
    have hh : (s.updXfer q id f).homeQuad (64 * l) = s.homeQuad (64 * l) := rfl
    obtain ⟨r, e⟩ := s.updXfer_quad q id f (s.homeQuad (64 * l))
    unfold State.victimAt
    rw [hh, e]
    dsimp only
    split
    · rename_i n _
      obtain ⟨r', e'⟩ := s.updXfer_quad q id f n
      rw [e']
    · rfl
  have hs (k : Nat) : ((s.updXfer q id f).quad k).serves = (s.quad k).serves := by
    obtain ⟨r, e⟩ := s.updXfer_quad q id f k
    rw [e]; rfl
  have hm (k : Nat) : (s.updXfer q id f).missEntries k = s.missEntries k := by
    obtain ⟨r, e⟩ := s.updXfer_quad q id f k
    unfold State.missEntries
    rw [e]; rfl
  have hr (k : Nat) : ((s.updXfer q id f).quad k).reserve = (s.quad k).reserve := by
    obtain ⟨r, e⟩ := s.updXfer_quad q id f k
    rw [e]
  funext k pa w stamp
  unfold State.sliceBusy State.answerable
  rw [hr, hm, hs, hs, hv]
  rfl

theorem State.partsWait_updXfer (q id : Nat) (f : Xfer → Xfer) (who k : Nat) (w : Bool) (l : List MemPart) :
    (s.updXfer q id f).partsWait who k w l = s.partsWait who k w l := by
  induction l with
  | nil => rfl
  | cons a l ih =>
    unfold State.partsWait
    rw [ih, State.sliceBusy_updXfer]
    rfl

/-! ### The first piece of a transfer -/

theorem State.peerTells_nothing (h : s.ev.bytes = none) (h' : s.ev.stuck = []) : s.peerTells = s := by
  unfold State.peerTells
  simp [h, h']

/-- The pieces of a transfer replaced. -/
def Xfer.withPieces (l : List Piece) (x : Xfer) : Xfer := { x with emitted := l }

/-- What holds when the first piece that a transfer has emitted is performed, and no piece waits for a tag. -/
structure FirstPiece (s : State) (x : Xfer) (p : Piece) (rest : List Piece) : Prop where
  bytes : s.ev.bytes = none
  stuck : s.ev.stuck = []
  k : s.ev.k = 0
  find : (s.quad s.ev.q).running.find? (fun y => y.id == s.ev.w) = some x
  nodup : ((s.quad s.ev.q).running.map (·.id)).Nodup
  settled : ∀ y ∈ (s.quad s.ev.q).running, y.untagged = []
  emitted : x.emitted = p :: rest
  got : p.got = none
  idle : s.vregBusy x = false

variable {rest : List Piece}

/-- The transfer read up to its first piece. -/
theorem FirstPiece.step (h : FirstPiece s x p rest) {r : List Piece × State × Option (Piece × Found)}
    (hr : s.readPieces x [p] = r) : ∃ y t, y = x.withPieces (r.1 ++ rest) ∧ t = r.2.1.updXfer s.ev.q x.id (Xfer.withPieces (r.1 ++ rest)) ∧
      execCopyLinePerformed s = match r.2.2 with
      | some (p, .fail c va w) => .next (t.failPiece s.ev.q x p c va w)
      | some (_, .wait e) => .next (t.xferWait s.ev.q x e)
      | some (_, .ok _ _) => .next t
      | none => match y.emitted[0]? with
        | some p => match p.got with
          | some g => .next (t.writePiece s.ev.q 0 y p g)
          | none => .next t
        | none => .next t := by
  refine ⟨_, _, rfl, rfl, ?_⟩
  have hk : ¬ (x.emitted.length ≤ 0 ∨ s.vregBusy x = true) := by simp [h.emitted, h.idle]
  unfold execCopyLinePerformed
  rw [State.peerTells_nothing h.bytes h.stuck]
  dsimp only
  rw [h.find, h.k]
  dsimp only
  rw [if_neg hk, h.emitted]
  simp only [Nat.zero_add, List.take_succ_cons, List.take_zero, List.drop_succ_cons, List.drop_zero, hr]
  rfl

/-- The first piece read, then written. -/
theorem FirstPiece.reads (h : FirstPiece s x p rest) {l : List MemPart} {a : Place} (hf : s.findPiece x p = .ok (a, .mem l, t))
    (hp : t.placeOn (p.j - p.i) a = (true, t)) :
    let r := t.readPlace x (p.j - p.i) a
    let p' : Piece := { p with got := some ⟨r.1, l⟩ }
    execCopyLinePerformed s = .next ((r.2.updXfer s.ev.q x.id (Xfer.withPieces (p' :: rest))).writePiece s.ev.q 0
      (x.withPieces (p' :: rest)) p' ⟨r.1, l⟩) := by
  intro r p'
  have hr : s.readPieces x [p] = ([p'], r.2, none) := by
    unfold State.readPieces State.readPiece
    simp only [h.got, hf, hp]
    rfl
  obtain ⟨y, v, hy, hv, e⟩ := h.step hr
  rw [e]
  dsimp only
  rw [hy, hv]
  rfl

/-- The first piece cannot be read or its destination fails. -/
theorem FirstPiece.fails (h : FirstPiece s x p rest) {c : Nat} {va : Word} {why : Why} (hf : s.findPiece x p = .error (.fail c va why)) :
    execCopyLinePerformed s =
      .next ((s.updXfer s.ev.q x.id (Xfer.withPieces (p :: rest))).failPiece s.ev.q x p c va why) := by
  have hr : s.readPieces x [p] = ([p], s, some (p, .fail c va why)) := by
    unfold State.readPieces State.readPiece
    simp only [h.got, hf]
    rfl
  obtain ⟨y, v, hy, hv, e⟩ := h.step hr
  rw [e]
  dsimp only
  rw [hv]
  rfl

/-- With no piece waiting for a tag, freed tags go to none. -/
theorem State.shareTags_running {q : Nat} (h : ∀ y ∈ (s.quad q).running, y.untagged = []) :
    ((s.updQuad q Quad.shareTags).quad q).running = (s.quad q).running := by
  rw [State.quad_updQuad, Quad.shareTags_settled h]

theorem Xfer.onId_settled {i : Nat} {f : Xfer → Xfer} {l : List Xfer} (h : ∀ y ∈ l, y.untagged = [])
    (k : ∀ y, y.untagged = [] → (f y).untagged = []) : ∀ z ∈ l.map (Xfer.onId i f), z.untagged = [] := by
  intro z hz
  obtain ⟨y, hy, rfl⟩ := List.mem_map.1 hz
  unfold Xfer.onId
  split
  · exact k y (h y hy)
  · exact h y hy

/-- The bytes that a piece writes at its destination in memory. -/
def State.pieceBytes (s : State) (x : Xfer) (n : Nat) (b : MemPart) (l : List Byte) : List Byte :=
  if Shape.opn x.shape = 0 then l else updateBytes (Shape.opn x.shape) n ((s.memUnder b.key).readBytes b.pa b.n) l

/-- A piece leaves its transfer. -/
def Xfer.dropFirst (y : Xfer) : Xfer := { y with emitted := y.emitted.eraseIdx 0, denied := false }

/-- The first piece, which was read, written at memory. -/
theorem State.writePiece_mem {q : Nat} {g : Got} {b : MemPart} (hk : Shape.dk x.shape = 0) (hg : g.parts = [b]) (hm : isMmio b.pa = false)
    (hw : s.partsWait x.who (quadOf x.hart) true [b] = none) (hl : (s.pieceBytes x (p.j - p.i) b g.bytes).length = b.n)
    (hu : ∀ y ∈ (s.quad q).running, y.untagged = []) :
    let v := s.writePiece q 0 x p g
    v.mem = s.mem.writeBytes b.pa (s.pieceBytes x (p.j - p.i) b g.bytes) ∧ v.tmem = s.tmem ∧
      (v.quad q).running = (s.quad q).running.map (Xfer.onId x.id Xfer.dropFirst) := by
  intro v
  have hd : s.destOf x p g = .ok (.mem [b]) s := by
    unfold State.destOf
    rw [if_neg (by simp [hk]), hg, hw]
  let w := s.writePlace x q (s.pieceBytes x (p.j - p.i) b g.bytes) (.mem [b])
  have hv : v = (w.updXfer q x.id Xfer.dropFirst).updQuad q Quad.shareTags := by
    show s.writePiece q 0 x p g = _
    unfold State.writePiece
    simp only [hd, List.take_zero, List.any_nil, Bool.false_eq_true, and_false, if_false]
    simp only [State.placeOn, State.feedRoom, Bool.and_self, Bool.not_true, Bool.false_eq_true, if_false,
      (s.readPlace_mem (x := x) (n := p.j - p.i) hm).1]
    rfl
  obtain ⟨h1, h2, h3, -⟩ : w.mem = _ ∧ w.tmem = _ ∧ (∀ k, (w.quad k).running = _) ∧ _ := s.writePlace_mem (x := x) (q := q) hm hl
  clear_value v w
  subst hv
  have hr : ((w.updXfer q x.id Xfer.dropFirst).quad q).running = (s.quad q).running.map (Xfer.onId x.id Xfer.dropFirst) := by
    rw [State.updXfer_running, h3]
  refine ⟨h1, h2, ?_⟩
  rw [State.shareTags_running, hr]
  rw [hr]
  exact Xfer.onId_settled hu fun _ h => h

/-- The first piece of a transfer, read and then written at memory. -/
theorem FirstPiece.performs (h : FirstPiece s x p rest) {a : Place} {b : MemPart} (hf : s.findPiece x p = .ok (a, .mem [b], t))
    (hp : t.placeOn (p.j - p.i) a = (true, t)) (hc : Accessed t (t.readPlace x (p.j - p.i) a).2) (hk : Shape.dk x.shape = 0)
    (hm : isMmio b.pa = false)
    (hw : (t.readPlace x (p.j - p.i) a).2.partsWait x.who (quadOf x.hart) true [b] = none)
    (hl : (t.pieceBytes x (p.j - p.i) b (t.readPlace x (p.j - p.i) a).1).length = b.n) :
    ∃ v, execCopyLinePerformed s = .next v ∧
      v.mem = s.mem.writeBytes b.pa (t.pieceBytes x (p.j - p.i) b (t.readPlace x (p.j - p.i) a).1) ∧ v.tmem = s.tmem ∧
      (v.quad s.ev.q).running =
        (s.quad s.ev.q).running.map (Xfer.onId x.id (fun y => { y with emitted := rest, denied := false })) := by
  have he := h.reads hf hp
  dsimp only at he
  generalize t.readPlace x (p.j - p.i) a = r at he hc hw hl ⊢
  let p' : Piece := { p with got := some ⟨r.1, [b]⟩ }
  let w := r.2.updXfer s.ev.q x.id (Xfer.withPieces (p' :: rest))
  have ha : Accessed s r.2 := (State.findPiece_accessed hf).trans hc
  have hb : w.pieceBytes (x.withPieces (p' :: rest)) (p.j - p.i) b r.1 = t.pieceBytes x (p.j - p.i) b r.1 := by
    have e : w.memUnder = t.memUnder := Eq.trans (show w.memUnder = r.2.memUnder from rfl) hc.memUnder
    unfold State.pieceBytes
    rw [e]
    rfl
  have hr : (w.quad s.ev.q).running = (s.quad s.ev.q).running.map (Xfer.onId x.id (Xfer.withPieces (p' :: rest))) := by
    show ((r.2.updXfer _ _ _).quad _).running = _
    rw [State.updXfer_running, ha.running]
  obtain ⟨h1, h2, h3⟩ := w.writePiece_mem (x := x.withPieces (p' :: rest)) (p := p') (q := s.ev.q) (g := ⟨r.1, [b]⟩) (b := b)
    hk rfl hm ((State.partsWait_updXfer ..).trans hw) ((congrArg List.length hb).trans hl)
    (by rw [hr]; exact Xfer.onId_settled h.settled fun _ k => k)
  refine ⟨_, he, h1.trans ?_, h2.trans ha.tmem, h3.trans ?_⟩
  · show w.mem.writeBytes b.pa (w.pieceBytes (x.withPieces (p' :: rest)) (p.j - p.i) b r.1) = _
    rw [hb, show w.mem = s.mem from ha.mem]
  · rw [hr, List.map_map]
    refine List.map_congr_left fun y _ => ?_
    show Xfer.onId x.id Xfer.dropFirst (Xfer.onId x.id _ y) = _
    by_cases e : y.id = x.id
    · rw [Xfer.onId_same (f := Xfer.withPieces _) e, Xfer.onId_same (f := fun y => { y with emitted := rest, denied := false }) e,
        Xfer.onId_same (by exact e)]
      rfl
    · rw [Xfer.onId_other e, Xfer.onId_other e, Xfer.onId_other e]

/-! ### A piece that fails -/

theorem State.tellEngine_keeps (q part task cause : Nat) (va : Word) (w : Why) :
    (s.tellEngine q part task cause va w).mem = s.mem ∧ (s.tellEngine q part task cause va w).tmem = s.tmem ∧
    (∀ k, ((s.tellEngine q part task cause va w).quad k).running = (s.quad k).running) ∧
    (s.tellEngine q part task cause va w).harts = s.harts := by
  have he (v : State) (d n g : Nat) : (v.endFailed d n g).mem = v.mem ∧ (v.endFailed d n g).tmem = v.tmem ∧
      (∀ k, ((v.endFailed d n g).quad k).running = (v.quad k).running) ∧ (v.endFailed d n g).harts = v.harts := by
    unfold State.endFailed
    dsimp only
    split <;> exact ⟨rfl, rfl, fun _ => rfl, rfl⟩
  unfold State.tellEngine
  cases w with
  | plain => exact he ..
  | breach => exact he ..
  | bad n pa =>
    obtain ⟨h1, h2, h3, h4⟩ := he (s.logEngine q task n cause pa) (dieOfQuad q) part (va.toNat / 4096)
    have hl : (s.logEngine q task n cause pa).mem = s.mem ∧ (s.logEngine q task n cause pa).tmem = s.tmem ∧
        (∀ k, ((s.logEngine q task n cause pa).quad k).running = (s.quad k).running) ∧
        (s.logEngine q task n cause pa).harts = s.harts := by
      unfold State.logEngine State.logError
      extract_lets v
      have hv : Accessed s v := .updQuad _ _ fun a => by split <;> rfl
      split <;> exact ⟨rfl, rfl, hv.running, rfl⟩
    exact ⟨h1.trans hl.1, h2.trans hl.2.1, fun k => (h3 k).trans (hl.2.2.1 k), h4.trans hl.2.2.2⟩

/-- The first piece failing, its transfer records where and drops it and what follows. -/
theorem FirstPiece.fails_records (h : FirstPiece s x p rest) {c : Nat} {va : Word} {why : Why}
    (hf : s.findPiece x p = .error (.fail c va why)) :
    ∃ v, execCopyLinePerformed s = .next v ∧ v.mem = s.mem ∧ v.tmem = s.tmem ∧
      (v.quad s.ev.q).running = (s.quad s.ev.q).running.map (Xfer.onId x.id (fun y => y.failAt p c va)) := by
  let w := s.updXfer s.ev.q x.id (Xfer.withPieces (p :: rest))
  obtain ⟨h1, h2, h3, -⟩ := w.tellEngine_keeps s.ev.q x.part x.task.toNat c va why
  have hr : (((w.tellEngine s.ev.q x.part x.task.toNat c va why).updXfer s.ev.q x.id (fun y => y.failAt p c va)).quad s.ev.q).running =
      (s.quad s.ev.q).running.map (Xfer.onId x.id (fun y => y.failAt p c va)) := by
    rw [State.updXfer_running, h3, State.updXfer_running, List.map_map]
    refine List.map_congr_left fun y hy => ?_
    show Xfer.onId x.id _ (Xfer.onId x.id _ y) = _
    by_cases e : y.id = x.id
    · obtain rfl := eq_of_id_eq h.nodup (List.mem_of_find?_eq_some h.find) hy e
      have hx : Xfer.onId y.id (Xfer.withPieces (p :: rest)) y = y := by
        rw [Xfer.onId_same rfl, ← h.emitted]
        rfl
      rw [hx]
    · rw [Xfer.onId_other (f := Xfer.withPieces _) e]
  refine ⟨_, h.fails hf, h1, h2, ?_⟩
  unfold State.failPiece
  rw [State.shareTags_running, hr]
  rw [hr]
  exact Xfer.onId_settled h.settled fun _ _ => rfl

theorem Memory.readBytes_length (m : Memory) (a n : Nat) : (m.readBytes a n).length = n := by
  induction n generalizing a with
  | zero => rfl
  | succ n ih => simp [Memory.readBytes, ih]

/-- R32, R156, R157: a piece performed writes its source's bytes, or the sum of an update, at its destination; one that fails
records where. -/
theorem copyLinePerformed_steps (s : State) (x : Xfer) (p : Piece) (rest : List Piece) :
    let q := s.ev.q
    let n := p.j - p.i
    let left (f : Xfer → Xfer) : List Xfer := (s.quad q).running.map (fun y => if y.id == x.id then f y else y)
    let wrote (t : State) (pb : Nat) (bytes : List Byte) : Prop :=
      t.mem = s.mem.writeBytes pb bytes ∧ t.tmem = s.tmem ∧
      (t.quad q).running = left (fun y => { y with emitted := rest, denied := false })
    s.ev.bytes = none → s.ev.stuck = [] → s.ev.k = 0 → (s.quad q).running.find? (fun y => y.id == s.ev.w) = some x →
    ((s.quad q).running.map (·.id)).Nodup → (∀ y ∈ (s.quad q).running, y.untagged = []) →
    x.emitted = p :: rest → p.got = none → s.vregBusy x = false →
    (∀ a b u, Shape.dk x.shape = 0 → s.findPiece x p = .ok (.mem [a], .mem [b], u) → a.n = n → b.n = n → isMmio a.pa = false →
      isMmio b.pa = false → (u.readPlace x n (.mem [a])).2.partsWait x.who (quadOf x.hart) true [b] = none →
      (Shape.opn x.shape = 0 → ∃ t, exec .copyLinePerformed s = .next t ∧ wrote t b.pa ((u.memUnder a.key).readBytes a.pa n)) ∧
      (Shape.opn x.shape = 1 →
        ∃ t, exec .copyLinePerformed s = .next t ∧
          wrote t b.pa (leBytes n ((u.memUnder b.key).readN b.pa n + (u.memUnder a.key).readN a.pa n)))) ∧
    (∀ l va b u, Shape.dk x.shape = 0 → s.findPiece x p = .ok (.peer l va, .mem [b], u) → b.n = n → isMmio b.pa = false →
      u.partsWait x.who (quadOf x.hart) true [b] = none → Shape.opn x.shape = 0 →
      ∃ t, exec .copyLinePerformed s = .next t ∧ wrote t b.pa ((Tab.get s.peers l {}).mem.readBytes va.toNat n)) ∧
    (∀ c va why, s.findPiece x p = .error (.fail c va why) →
      ∃ t, exec .copyLinePerformed s = .next t ∧ t.mem = s.mem ∧ t.tmem = s.tmem ∧
        (t.quad q).running = left (fun y => y.failAt p c va)) := by
  intro q n left wrote hb hs hk hf hd hu he hg hv
  have h : FirstPiece s x p rest := ⟨hb, hs, hk, hf, hd, hu, he, hg, hv⟩
  refine ⟨fun a b u hdk hfp ha hbn hma hmb hw => ?_, fun l va b u hdk hfp hbn hmb hw hop => ?_, fun c va why hfp => h.fails_records hfp⟩
  · obtain ⟨hr, hc⟩ := u.readPlace_mem (x := x) (n := n) hma
    rw [ha] at hr
    have go (l : List Byte) (hl : u.pieceBytes x n b ((u.memUnder a.key).readBytes a.pa n) = l) (hn : l.length = n) :
        ∃ t, exec .copyLinePerformed s = .next t ∧ wrote t b.pa l := by
      have e : u.pieceBytes x (p.j - p.i) b (u.readPlace x (p.j - p.i) (.mem [a])).1 = l := by
        rw [← hl]; exact congrArg _ hr
      obtain ⟨t, k1, k2, k3, k4⟩ := h.performs hfp rfl hc hdk hmb hw (by rw [e, hn, hbn])
      exact ⟨t, k1, by rw [k2, e], k3, k4⟩
    refine ⟨fun hop => go _ (if_pos hop) (Memory.readBytes_length ..), fun hop => go _ ?_ (leBytes_length ..)⟩
    unfold State.pieceBytes updateBytes
    rw [if_neg (by simp [hop]), if_pos hop, hbn]
    rfl
  · have hc := State.findPiece_accessed hfp
    have e : u.pieceBytes x (p.j - p.i) b (u.readPlace x (p.j - p.i) (.peer l va)).1 =
        (Tab.get s.peers l {}).mem.readBytes va.toNat n := by
      unfold State.pieceBytes
      rw [if_pos hop, ← hc.peers]
      rfl
    obtain ⟨t, k1, k2, k3, k4⟩ := h.performs hfp rfl (.refl u) hdk hmb hw (by rw [e, Memory.readBytes_length, hbn])
    exact ⟨t, k1, by rw [k2, e], k3, k4⟩

end Sys2Proof.Machine
end

section
/-!
The completion of a transfer (R154, R161 to R163): the record, the push, the token and the group of a VREG destination.
-/
namespace Sys2Proof.Machine

variable {s t u : State} {x : Xfer}

/-! ### What a completion does to its hart -/

theorem getReg_setReg_same {α : Type} (rs : Vector α 32) (r : Reg) (a : α) : getReg (setReg rs r a) r = a := by
  simp [getReg, setReg]

theorem getReg_setReg_other {α : Type} (rs : Vector α 32) {r j : Reg} (a : α) (h : j ≠ r) :
    getReg (setReg rs r a) j = getReg rs j := by
  have : r.toNat ≠ j.toNat := fun e => h (BitVec.eq_of_toNat_eq e.symm)
  simp [getReg, setReg, this]

/-- A group made present changes the registers alone. -/
theorem Hart.presentV_rest (a : Hart) (n g : Nat) : a.presentV n g = { a with v := (a.presentV n g).v } := by
  induction g with
  | zero => rfl
  | succ g ih =>
    have e : a.presentV n (g + 1) = { a.presentV n g with v := (a.presentV n (g + 1)).v } := by
      unfold Hart.presentV
      rw [List.range_succ, List.foldl_append]
      rfl
    rw [e, ih]

/-- Each register of a group made present is. -/
theorem Hart.presentV_cond (a : Hart) (n g k : Nat) (h : k < g) : ((a.presentV n g).cond .v (n + k)).1 = .present := by
  induction g with
  | zero => omega
  | succ g ih =>
    have e : (a.presentV n (g + 1)).v =
        setReg (a.presentV n g).v (regNo (n + g)) ⟨(getReg (a.presentV n g).v (regNo (n + g))).val, .present, none⟩ := by
      unfold Hart.presentV
      rw [List.range_succ, List.foldl_append]
      rfl
    show (getReg (a.presentV n (g + 1)).v (regNo (n + k))).pres = .present
    rw [e]
    by_cases hk : regNo (n + k) = regNo (n + g)
    · rw [hk, getReg_setReg_same]
    · rw [getReg_setReg_other _ _ hk]
      have hne : k ≠ g := fun e => hk (by rw [e])
      exact ih (by omega)

theorem Hart.unparkOn_rest (a : Hart) (fl : RFile) (r g : Nat) : a.unparkOn fl r g = { a with park := (a.unparkOn fl r g).park } := by
  unfold Hart.unparkOn
  split
  · split <;> rfl
  · rfl

theorem Xfer.arrive_rest (x : Xfer) (a : Hart) : x.arrive a = { a with v := (x.arrive a).v, park := (x.arrive a).park } := by
  unfold Xfer.arrive
  split
  · dsimp only
    rw [Hart.unparkOn_rest, Hart.presentV_rest]
  · rfl

theorem Xfer.arrive_cond (x : Xfer) (a : Hart) (h : Shape.dk x.shape = 3) (k : Nat) (hk : k < 2 ^ (x.dst.toNat / 32 % 4)) :
    ((x.arrive a).cond .v (x.dst.toNat % 32 + k)).1 = .present := by
  unfold Xfer.arrive
  rw [if_pos h]
  dsimp only
  rw [Hart.unparkOn_rest]
  exact Hart.presentV_cond a _ _ k hk

theorem Xfer.tokenErr_rest (x : Xfer) (w : Bool) (a : Hart) : x.tokenErr w a = { a with sbErr := (x.tokenErr w a).sbErr } := by
  unfold Xfer.tokenErr
  split
  · split <;> rfl
  · rfl

/-- The hart of a transfer that completes. -/
def Xfer.finish (x : Xfer) (written failed : Bool) (a : Hart) : Hart := (x.tokenErr written (x.arrive a)).endToken x.token failed

/-- The token of a completion ends. -/
theorem Xfer.finish_token (x : Xfer) (w f : Bool) (a : Hart) (k : Nat) (h : x.token = some k) (hk : k < 8) :
    (x.finish w f a).sb.toList.getD k 0 = a.sb.toList.getD k 0 - 1 ∧
    (x.finish w f a).sbFail.getLsbD k = (a.sbFail.getLsbD k || f) := by
  have hs : (x.tokenErr w (x.arrive a)).sb = a.sb := by rw [Xfer.tokenErr_rest, Xfer.arrive_rest]
  have hf : (x.tokenErr w (x.arrive a)).sbFail = a.sbFail := by rw [Xfer.tokenErr_rest, Xfer.arrive_rest]
  unfold Xfer.finish Hart.endToken
  rw [h]
  dsimp only
  rw [hs, hf]
  have hm : k % 8 = k := Nat.mod_eq_of_lt hk
  constructor
  · simp [List.getD_eq_getElem?_getD, hm, hk]
  · cases f
    · simp
    · simp [hm, hk]

/-- The failures that a completion owes to a wait are those of its record's check. -/
theorem Xfer.finish_sbErr (x : Xfer) (w f : Bool) (a : Hart) : (x.finish w f a).sbErr = (x.tokenErr w (x.arrive a)).sbErr := by
  unfold Xfer.finish Hart.endToken
  split <;> rfl

theorem Xfer.finish_sbErr_kept (x : Xfer) (w f : Bool) (a : Hart) (h : w = true ∨ x.fail = none) :
    (x.finish w f a).sbErr = a.sbErr := by
  have ha : (x.arrive a).sbErr = a.sbErr := by rw [Xfer.arrive_rest]
  rw [Xfer.finish_sbErr]
  unfold Xfer.tokenErr
  split
  · rename_i hx
    rcases h with h | h
    · rw [h]
      exact ha
    · rw [h] at hx
      cases hx
  · exact ha

theorem Xfer.finish_sbErr_owed (x : Xfer) (f : Bool) (a : Hart) {r c k : Nat} {va : Word} (hx : x.fail = some (r, c, va))
    (hk : x.token = some k) (h1 : x.aborted = false) (h2 : x.abandoned = false) :
    (x.finish false f a).sbErr = a.sbErr.concat ⟨k, x.id, c, va⟩ := by
  have ha : (x.arrive a).sbErr = a.sbErr := by rw [Xfer.arrive_rest]
  rw [Xfer.finish_sbErr]
  unfold Xfer.tokenErr
  rw [hx, hk]
  simp [h1, h2, ha]

theorem Xfer.finish_cond (x : Xfer) (w f : Bool) (a : Hart) (h : Shape.dk x.shape = 3) (k : Nat)
    (hk : k < 2 ^ (x.dst.toNat / 32 % 4)) : ((x.finish w f a).cond .v (x.dst.toNat % 32 + k)).1 = .present := by
  have e : (x.finish w f a).v = (x.arrive a).v := by
    unfold Xfer.finish Hart.endToken
    rw [Xfer.tokenErr_rest]
    split <;> rfl
  have hc := x.arrive_cond a h k hk
  unfold Hart.cond at hc ⊢
  dsimp only at hc ⊢
  rw [e]
  exact hc

theorem Xfer.tokenErr_runs (x : Xfer) (w : Bool) (a : Hart) (n : BitVec 32) : (x.tokenErr w (x.arrive a)).runs n = a.runs n := by
  have e : (x.tokenErr w (x.arrive a)).task = a.task := by rw [Xfer.tokenErr_rest, Xfer.arrive_rest]
  unfold Hart.runs
  rw [e]

/-! ### The stages -/

theorem State.updTask_runs {h : Nat} {n : BitVec 32} {f : Hart → Hart} (r : (s.hart h).runs n = true) :
    s.updTask h n f = s.updHart h f := if_pos r

theorem State.stageXfer_running (q : Nat) (x : Xfer) (st : Stage) :
    ((s.stageXfer q x st).quad q).running.filter (fun y => y.id != x.id) = (s.quad q).running.filter (fun y => y.id != x.id) := by
  unfold State.stageXfer
  rw [State.updXfer_running, List.filter_map]
  refine (List.map_congr_left (g := id) fun y hy => ?_).trans ?_
  · have hy := (List.mem_filter.1 hy).2
    refine Xfer.onId_other fun e => ?_
    have e' : (Xfer.onId x.id (fun y => { y with stage := st, pmiss := none, denied := false }) y).id = x.id := by
      unfold Xfer.onId; split <;> exact e
    simp [e'] at hy
  · rw [List.map_id]
    refine List.filter_congr fun y _ => ?_
    have e' : (Xfer.onId x.id (fun y => { y with stage := st, pmiss := none, denied := false }) y).id = y.id := by
      unfold Xfer.onId; split <;> rfl
    simp [e']

/-- What a completion from its record on leaves: its transfer gone and its hart told. -/
structure Ends (s t : State) (q : Nat) (x : Xfer) (written failed : Bool) : Prop where
  running : (t.quad q).running = (s.quad q).running.filter (fun y => y.id != x.id)
  mem : t.mem = s.mem
  tmem : t.tmem = s.tmem
  hart : t.hart x.hart = x.finish written failed (s.hart x.hart)

/-- The count of a completion without a barrier: the transfer leaves and its token ends. -/
theorem State.countXfer_none {q stat : Nat} (hr : (s.hart x.hart).runs x.task = true) (hc : Shape.ctgt x.shape = 0) :
    let v := s.countXfer q x stat none false
    (v.quad q).running = (s.quad q).running.filter (fun y => y.id != x.id) ∧ (v.quad q).fifo = (s.quad q).fifo ∧ v.mem = s.mem ∧
      v.tmem = s.tmem ∧ v.hart x.hart = (s.hart x.hart).endToken x.token (decide (stat ≠ 0)) := by
  intro v
  let t : State := { s.updQuad q (fun a => { a with running := a.running.filter (fun y => y.id != x.id) }) with
    bisnps := s.bisnps.filter (fun b => b.who != x.who) }
  have hv : v = t.updHart x.hart (fun a => a.endToken x.token (decide (stat ≠ 0))) := by
    refine Eq.trans ?_ (State.updTask_runs (s := t) (n := x.task) hr)
    show s.countXfer q x stat none false = t.endToken x.hart x.task x.token (decide (stat ≠ 0))
    unfold State.countXfer
    simp [hc, t]
  have hq : t.quad q = { s.quad q with running := (s.quad q).running.filter (fun y => y.id != x.id) } :=
    State.quad_updQuad s q (fun a => { a with running := a.running.filter (fun y => y.id != x.id) })
  have ht : t.mem = s.mem ∧ t.tmem = s.tmem ∧ t.hart x.hart = s.hart x.hart := ⟨rfl, rfl, rfl⟩
  clear_value v t
  subst hv
  refine ⟨?_, ?_, ht.1, ht.2.1, ?_⟩
  · show (t.quad q).running = _
    rw [hq]
  · show (t.quad q).fifo = _
    rw [hq]
  · rw [State.hart_updHart, ht.2.2]

/-- A completion's record as it is told to the hart. -/
def State.told (s : State) (q : Nat) (x : Xfer) (stat : Nat) (written : Bool) : State :=
  ((s.updTask x.hart x.task (fun a => x.tokenErr written (x.arrive a))).stageXfer q x (.recorded stat none)).pushXfer q x stat none

/-- Without a push. -/
theorem State.told_ends {q stat : Nat} {w : Bool} (hr : (s.hart x.hart).runs x.task = true) (hc : Shape.ctgt x.shape = 0)
    (hp : x.push = false) : Ends s (s.told q x stat w) q x w (decide (stat ≠ 0)) := by
  unfold State.told
  rw [State.updTask_runs hr]
  let v := ((s.updHart x.hart (fun a => x.tokenErr w (x.arrive a))).stageXfer q x (.recorded stat none)).stageXfer q x (.pushed stat none false)
  have hv : v.hart x.hart = x.tokenErr w (x.arrive (s.hart x.hart)) := State.hart_updHart s x.hart (fun a => x.tokenErr w (x.arrive a))
  obtain ⟨h1, -, h2, h3, h4⟩ := v.countXfer_none (q := q) (stat := stat) (x := x) (by rw [hv, Xfer.tokenErr_runs]; exact hr) hc
  unfold State.pushXfer
  dsimp only
  rw [if_neg (by simp [hp])]
  refine ⟨h1.trans ?_, h2, h3, h4.trans (by rw [hv]; rfl)⟩
  rw [State.stageXfer_running, State.stageXfer_running]
  rfl

/-- With a push that has room and is first. -/
theorem State.told_pushes {q stat : Nat} {w : Bool} (hr : (s.hart x.hart).runs x.task = true) (hc : Shape.ctgt x.shape = 0)
    (hp : x.push = true) (room : Tab.get (s.quad q).fifo x.pushFifo.no 0 < 16)
    (first : ∀ y ∈ (s.quad q).held, y.op.fifo ≠ x.pushFifo) :
    Ends s (s.told q x stat w) q x w (decide (stat ≠ 0)) ∧
      Tab.get ((s.told q x stat w).quad q).fifo x.pushFifo.no 0 = Tab.get (s.quad q).fifo x.pushFifo.no 0 + 1 := by
  unfold State.told
  rw [State.updTask_runs hr]
  let r := (s.updHart x.hart (fun a => x.tokenErr w (x.arrive a))).stageXfer q x (.recorded stat none)
  have hrq : ∃ l, r.quad q = { s.quad q with running := l } := State.updXfer_quad ..
  have hrr : (r.quad q).running.filter (fun y => y.id != x.id) = (s.quad q).running.filter (fun y => y.id != x.id) :=
    State.stageXfer_running ..
  have hrh : r.hart x.hart = x.tokenErr w (x.arrive (s.hart x.hart)) := State.hart_updHart s x.hart (fun a => x.tokenErr w (x.arrive a))
  have hrm : r.mem = s.mem ∧ r.tmem = s.tmem := ⟨rfl, rfl⟩
  change Ends s (r.pushXfer q x stat none) q x w _ ∧ Tab.get ((r.pushXfer q x stat none).quad q).fifo _ 0 = _
  clear_value r
  obtain ⟨l, hl⟩ := hrq
  have ht := Quad.fifoTry_push (a := r.quad q) (f := x.pushFifo) (id := x.id) (clk := r.clockOf q) (by rw [hl]; exact room)
    (by rw [hl]; exact first)
  let n := Tab.set (r.quad q).fifo x.pushFifo.no (Tab.get (r.quad q).fifo x.pushFifo.no 0 + 1)
  let p := r.updQuad q (fun _ => { r.quad q with fifo := n })
  have hpq : p.quad q = { r.quad q with fifo := n } := State.quad_updQuad ..
  have hph : p.hart x.hart = r.hart x.hart := rfl
  have hpm : p.mem = r.mem ∧ p.tmem = r.tmem := ⟨rfl, rfl⟩
  have he : r.pushXfer q x stat none = (p.stageXfer q x (.pushed stat none false)).countXfer q x stat none false := by
    unfold State.pushXfer
    dsimp only
    rw [if_pos hp, ht]
    rfl
  clear_value p
  obtain ⟨h1, hf, h2, h3, h4⟩ := (p.stageXfer q x (.pushed stat none false)).countXfer_none (q := q) (stat := stat) (x := x)
    (by show (p.hart x.hart).runs _ = true; rw [hph, hrh, Xfer.tokenErr_runs]; exact hr) hc
  rw [he]
  refine ⟨⟨h1.trans ?_, h2.trans (hpm.1.trans hrm.1), h3.trans (hpm.2.trans hrm.2), h4.trans ?_⟩, ?_⟩
  · rw [State.stageXfer_running, hpq]
    exact hrr
  · show (p.hart x.hart).endToken _ _ = _
    rw [hph, hrh]
    rfl
  · obtain ⟨l', hl'⟩ := p.updXfer_quad q x.id (fun y => { y with stage := .pushed stat none false, pmiss := none, denied := false }) q
    have hq : ((p.stageXfer q x (.pushed stat none false)).quad q).fifo = n := by
      show (State.quad (p.updXfer _ _ _) q).fifo = n
      rw [hl', hpq]
    rw [hf, hq, Tab.get_set_same, hl]

/-- A completion that begins, without a barrier. -/
theorem execCopyComplete_begins (hf : (s.quad s.ev.q).running.find? (fun y => y.id == s.ev.w) = some x) (hs : x.stage = .running)
    (ho : x.over = true) (hh : s.quadHalted s.ev.q = false) (hc : Shape.ctgt x.shape = 0) :
    execCopyComplete s = .next ((s.stageXfer s.ev.q x (.checked x.outcome.1 x.outcome.2.1 none)).recordXfer s.ev.q
      { x with denied := false } x.outcome.1 x.outcome.2.1 none) := by
  unfold execCopyComplete
  dsimp only
  rw [hf]
  dsimp only
  rw [if_neg (by simp [hh]), hs]
  dsimp only
  rw [if_pos ho]
  unfold State.checkXfer
  dsimp only
  rw [if_pos hc, hs]

theorem State.recordXfer_none {q stat cause : Nat} (h : Shape.crec x.shape = 0) :
    s.recordXfer q x stat cause none = s.told q x stat false := by
  unfold State.recordXfer
  dsimp only
  rw [if_pos h]
  rfl

theorem State.recordXfer_written {q stat cause : Nat} {m : MemPart} (h : Shape.crec x.shape ≠ 0)
    (he : s.engineParts x.who x.req .store 0 0 x.denied (lineParts (BitVec.ofNat 64 (Shape.crec x.shape)) 32) = .ok (.mem [m]) u) :
    s.recordXfer q x stat cause none =
      (u.writeParts x [m] (x.record stat cause x.outcome.2.2.1 x.outcome.2.2.2)).told q x stat true := by
  unfold State.recordXfer
  dsimp only
  rw [if_neg h, he]
  rfl

/-! ### The record's bytes -/

theorem Memory.writeBytes_append (m : Memory) (a : Nat) (l k : List Byte) :
    m.writeBytes a (l ++ k) = (m.writeBytes a l).writeBytes (a + l.length) k := by
  induction l generalizing m a with
  | nil => rfl
  | cons b l ih =>
    show (m.write a b).writeBytes (a + 1) (l ++ k) = _
    rw [ih, List.length_cons, Nat.add_assoc, Nat.add_comm 1]
    rfl

theorem Memory.readN_congr {m k : Memory} {a n : Nat} (h : ∀ z, a ≤ z → z < a + n → m.read z = k.read z) :
    m.readN a n = k.readN a n := by
  have hb : m.readBytes a n = k.readBytes a n := by
    induction n generalizing a with
    | zero => rfl
    | succ n ih =>
      show m.read a :: m.readBytes (a + 1) n = k.read a :: k.readBytes (a + 1) n
      rw [h a (by omega) (by omega), ih fun z h1 h2 => h z (by omega) (by omega)]
  unfold Memory.readN
  rw [hb]

/-- A number of a record read back: the bytes before it and after it are others. -/
theorem Memory.readN_record (m : Memory) (a : Nat) (l k : List Byte) (n v : Nat) :
    (m.writeBytes a (l ++ leBytes n v ++ k)).readN (a + l.length) n = v % 256 ^ n := by
  rw [List.append_assoc, Memory.writeBytes_append, Memory.writeBytes_append, leBytes_length]
  refine Eq.trans (Memory.readN_congr fun z _ h2 => Memory.read_writeBytes_outside _ _ _ _ (.inl h2)) ?_
  exact Memory.readN_writeN _ _ n v

/-- What a record reads back as. -/
theorem Xfer.record_reads (x : Xfer) (m : Memory) (a stat cause iter : Nat) (fva : Word) :
    let r := m.writeBytes a (x.record stat cause iter fva)
    r.readN a 8 = (x.task.toNat * 2 ^ 32 + cause % 256 * 256 + stat) % 2 ^ 64 ∧ r.readN (a + 8) 8 = iter % 2 ^ 64 ∧
      r.readN (a + 16) 8 = fva.toNat ∧ r.readN (a + 24) 8 = Shape.run x.shape * iter % 2 ^ 32 := by
  intro r
  let w (v : Nat) : List Byte := leBytes 8 v
  let h := x.task.toNat * 2 ^ 32 + cause % 256 * 256 + stat
  let b := Shape.run x.shape * iter % 2 ^ 32
  have hr : r = m.writeBytes a (w h ++ w iter ++ w fva.toNat ++ w b) := rfl
  have hw (v : Nat) : (w v).length = 8 := leBytes_length 8 v
  have hp : 256 ^ 8 = 2 ^ 64 := by decide
  have h1 := m.readN_record a [] (w iter ++ w fva.toNat ++ w b) 8 h
  have h2 := m.readN_record a (w h) (w fva.toNat ++ w b) 8 iter
  have h3 := m.readN_record a (w h ++ w iter) (w b) 8 fva.toNat
  have h4 := m.readN_record a (w h ++ w iter ++ w fva.toNat) [] 8 b
  simp only [List.length_append, hw, List.length_nil, List.nil_append, List.append_nil, Nat.add_zero, List.append_assoc, hp,
    show leBytes 8 = w from rfl] at h1 h2 h3 h4
  rw [hr]
  simp only [List.append_assoc]
  refine ⟨h1, h2, h3.trans (Nat.mod_eq_of_lt fva.isLt), h4.trans (Nat.mod_eq_of_lt ?_)⟩
  have : b < 2 ^ 32 := Nat.mod_lt _ (by decide)
  omega

theorem Xfer.record_length (x : Xfer) (stat cause iter : Nat) (fva : Word) : (x.record stat cause iter fva).length = 32 := by
  simp [Xfer.record, leBytes_length]

theorem Xfer.outcome_done {x : Xfer} (h : x.aborted = false) (f : x.fail = none) : x.outcome = (0, 0, Shape.runs x.shape, 0) := by
  simp [Xfer.outcome, h, f]

theorem Xfer.outcome_failed {x : Xfer} (h : x.aborted = false) {n c : Nat} {va : Word} (f : x.fail = some (n, c, va)) :
    x.outcome = (1, c, n, va) := by
  simp [Xfer.outcome, h, f]

theorem Xfer.outcome_stat {x : Xfer} (h : x.aborted = false) : decide (x.outcome.1 ≠ 0) = x.fail.isSome := by
  cases hf : x.fail with
  | none => simp [Xfer.outcome_done h hf]
  | some f => simp [Xfer.outcome_failed h (n := f.1) (c := f.2.1) (va := f.2.2) hf]

/-- R154, R161 to R163: a transfer whose pieces are done leaves, with its record, its push and its token. -/
theorem copyComplete_steps (s : State) (x : Xfer) :
    let q := s.ev.q
    let a := s.hart x.hart
    (s.quad q).running.find? (fun y => y.id == s.ev.w) = some x → x.stage = .running → x.over = true → s.quadHalted q = false →
    Shape.ctgt x.shape = 0 → a.runs x.task = true → x.aborted = false → x.abandoned = false →
    let gone (t : State) : Prop := (t.quad q).running = (s.quad q).running.filter (fun y => y.id != x.id) ∧ t.tmem = s.tmem
    let ended (t : State) (failed : Bool) : Prop := ∀ k, x.token = some k → k < 8 →
      (t.hart x.hart).sb.toList.getD k 0 = a.sb.toList.getD k 0 - 1 ∧
      (t.hart x.hart).sbFail.getLsbD k = (a.sbFail.getLsbD k || failed)
    (Shape.crec x.shape = 0 → x.push = false →
      ∃ t, exec .copyComplete s = .next t ∧ gone t ∧ t.mem = s.mem ∧ ended t x.fail.isSome ∧
        (x.fail = none → (t.hart x.hart).sbErr = a.sbErr) ∧
        (∀ r c va k, x.fail = some (r, c, va) → x.token = some k → (t.hart x.hart).sbErr = a.sbErr.concat ⟨k, x.id, c, va⟩) ∧
        (Shape.dk x.shape = 3 → ∀ k, k < 2 ^ (x.dst.toNat / 32 % 4) →
          ((t.hart x.hart).cond .v (x.dst.toNat % 32 + k)).1 = .present)) ∧
    (Shape.crec x.shape = 0 → x.push = true → x.fail = none → Tab.get (s.quad q).fifo x.pushFifo.no 0 < 16 →
      (∀ y ∈ (s.quad q).held, y.op.fifo ≠ x.pushFifo) →
      ∃ t, exec .copyComplete s = .next t ∧ gone t ∧ t.mem = s.mem ∧ ended t false ∧
        Tab.get (t.quad q).fifo x.pushFifo.no 0 = Tab.get (s.quad q).fifo x.pushFifo.no 0 + 1) ∧
    (∀ m u, Shape.crec x.shape ≠ 0 → x.push = false →
      let at_ := s.stageXfer q x (.checked x.outcome.1 x.outcome.2.1 none)
      at_.engineParts x.who x.req .store 0 0 false (lineParts (BitVec.ofNat 64 (Shape.crec x.shape)) 32) = .ok (.mem [m]) u →
      m.n = 32 → isMmio m.pa = false →
      ∃ t, exec .copyComplete s = .next t ∧ gone t ∧ ended t x.fail.isSome ∧ (t.hart x.hart).sbErr = a.sbErr ∧
        (x.fail = none → t.mem.readN m.pa 8 = x.task.toNat * 2 ^ 32 ∧ t.mem.readN (m.pa + 8) 8 = Shape.runs x.shape % 2 ^ 64 ∧
          t.mem.readN (m.pa + 16) 8 = 0 ∧ t.mem.readN (m.pa + 24) 8 = Shape.run x.shape * Shape.runs x.shape % 2 ^ 32) ∧
        (∀ r cause va, x.fail = some (r, cause, va) → cause < 256 → t.mem.readN m.pa 8 = x.task.toNat * 2 ^ 32 + cause * 256 + 1 ∧
          t.mem.readN (m.pa + 8) 8 = r % 2 ^ 64 ∧ t.mem.readN (m.pa + 16) 8 = va.toNat ∧
          t.mem.readN (m.pa + 24) 8 = Shape.run x.shape * r % 2 ^ 32) ∧
        (∀ z, z < m.pa ∨ m.pa + 32 ≤ z → t.mem.read z = s.mem.read z)) := by
  intro q a hf hs ho hh hc hr ha hb gone ended
  let y : Xfer := { x with denied := false }
  let v := s.stageXfer q x (.checked x.outcome.1 x.outcome.2.1 none)
  have hv : (v.quad q).running.filter (fun z => z.id != x.id) = (s.quad q).running.filter (fun z => z.id != x.id) :=
    State.stageXfer_running ..
  have hvq : ∃ l, v.quad q = { s.quad q with running := l } := State.updXfer_quad ..
  have hvh : v.hart x.hart = a := rfl
  have hvm : v.mem = s.mem ∧ v.tmem = s.tmem := ⟨rfl, rfl⟩
  have he : exec .copyComplete s = .next (v.recordXfer q y x.outcome.1 x.outcome.2.1 none) :=
    execCopyComplete_begins hf hs ho hh hc
  have hst := Xfer.outcome_stat ha
  have hvr : (v.hart y.hart).runs y.task = true := hr
  refine ⟨fun h0 hp => ?_, fun h0 hp hn room first => ?_, ?_⟩
  · clear_value v
    rw [State.recordXfer_none (x := y) h0] at he
    obtain ⟨e1, e2, e3, e4⟩ := State.told_ends (q := q) (stat := x.outcome.1) (w := false) hvr hc hp
    have e4 : _ = Xfer.finish y false _ (v.hart x.hart) := e4
    rw [hst, hvh] at e4
    refine ⟨_, he, ⟨e1.trans hv, e3.trans hvm.2⟩, e2.trans hvm.1, fun k hk h8 => ?_, fun hn => ?_, fun r c va k hx hk => ?_,
      fun hd k hk => ?_⟩
    · have := Xfer.finish_token y false x.fail.isSome a k hk h8
      rwa [← e4] at this
    · exact (congrArg Hart.sbErr e4).trans (y.finish_sbErr_kept _ _ _ (.inr hn))
    · exact (congrArg Hart.sbErr e4).trans (y.finish_sbErr_owed _ _ hx hk ha hb)
    · exact (congrArg (fun b : Hart => (b.cond .v _).1) e4).trans (y.finish_cond _ _ _ hd k hk)
  · clear_value v
    rw [State.recordXfer_none (x := y) h0] at he
    obtain ⟨l, hl⟩ := hvq
    obtain ⟨⟨e1, e2, e3, e4⟩, e5⟩ := State.told_pushes (q := q) (x := y) (stat := x.outcome.1) (w := false) hvr hc hp
      (by rw [hl]; exact room) (by rw [hl]; exact first)
    have e4 : _ = Xfer.finish y false _ (v.hart x.hart) := e4
    rw [hst, hvh, hn] at e4
    refine ⟨_, he, ⟨e1.trans hv, e3.trans hvm.2⟩, e2.trans hvm.1, fun k hk h8 => ?_, e5.trans (by rw [hl]; rfl)⟩
    have := Xfer.finish_token y false (none : Option (Nat × Nat × Word)).isSome a k hk h8
    rwa [← e4] at this
  · intro m u h0 hp at_ hu hm hmm
    have hu : v.engineParts y.who y.req .store 0 0 y.denied _ = .ok (.mem [m]) u := hu
    clear_value v
    rw [State.recordXfer_written (x := y) h0 hu] at he
    have hacc := State.engineParts_accessed hu
    let o := x.outcome
    let b := y.record o.1 o.2.1 o.2.2.1 o.2.2.2
    obtain ⟨w1, w2, w3, w4⟩ := u.writePlace_mem (x := y) (q := quadOf y.hart) (bytes := b) (b := m) hmm
      ((Xfer.record_length ..).trans hm.symm)
    let w := u.writeParts y [m] b
    change w.mem = _ at w1
    change w.tmem = _ at w2
    change ∀ k, (w.quad k).running = _ at w3
    change ∀ k, ∃ r, w.hart k = _ at w4
    change exec .copyComplete s = .next (w.told q y o.1 true) at he
    clear_value w
    obtain ⟨r, hwr⟩ := w4 x.hart
    obtain ⟨r', hur⟩ := hacc.hart x.hart
    rw [hur, hvh] at hwr
    obtain ⟨e1, e2, e3, e4⟩ := State.told_ends (s := w) (q := q) (x := y) (stat := o.1) (w := true)
      (by show (w.hart x.hart).runs _ = true; rw [hwr]; exact hr) hc hp
    have e4 : _ = Xfer.finish y true _ (w.hart x.hart) := e4
    rw [hst] at e4
    have hmem : (w.told q y o.1 true).mem = s.mem.writeBytes m.pa b := by rw [e2, w1, hacc.mem, hvm.1]
    obtain ⟨r1, r2, r3, r4⟩ := y.record_reads s.mem m.pa o.1 o.2.1 o.2.2.1 o.2.2.2
    refine ⟨_, he, ⟨?_, ?_⟩, fun k hk h8 => ?_, ?_, fun hn => ?_, fun r c va hx h256 => ?_, fun z hz => ?_⟩
    · rw [e1, w3, hacc.running]
      exact hv
    · rw [e3, w2, hacc.tmem, hvm.2]
    · have := Xfer.finish_token y true x.fail.isSome (w.hart x.hart) k hk h8
      rw [← e4, hwr] at this
      exact this
    · refine (congrArg Hart.sbErr e4).trans ((y.finish_sbErr_kept _ _ _ (.inl rfl)).trans ?_)
      rw [hwr]
    · have ho : o = (0, 0, Shape.runs x.shape, 0) := Xfer.outcome_done ha hn
      rw [hmem]
      refine ⟨r1.trans ?_, r2.trans ?_, r3.trans ?_, r4.trans ?_⟩
      · rw [ho]
        show (x.task.toNat * 2 ^ 32 + 0 % 256 * 256 + 0) % 2 ^ 64 = _
        omega
      all_goals rw [ho]
      all_goals rfl
    · have ho : o = (1, c, r, va) := Xfer.outcome_failed ha hx
      rw [hmem]
      refine ⟨r1.trans ?_, r2.trans ?_, r3.trans ?_, r4.trans ?_⟩
      · rw [ho]
        show (x.task.toNat * 2 ^ 32 + c % 256 * 256 + 1) % 2 ^ 64 = _
        omega
      all_goals rw [ho]
    · rw [hmem]
      exact Memory.read_writeBytes_outside _ _ _ _ (by rw [Xfer.record_length]; exact hz)

end Sys2Proof.Machine
end

section
/-!
The tail that a slide buffer prefetches (R114, R167), and an ACQ that asks again (R289).
-/
namespace Sys2Proof.Machine

open Claims

variable {s t u : State}

/-! ### The slide buffer -/

theorem Tab.length_set_le {α : Type} (t : Tab α) (k : Nat) (a : α) : (Tab.set t k a).length ≤ t.length + 1 := by
  induction t with
  | nil => simp [Tab.set]
  | cons e t ih =>
    unfold Tab.set
    split
    · simp
    · split
      · simp
      · simp only [List.length_cons]; omega

/-- A byte that hart `h` may prefetch for a slide: one of memory, at an address that translates, that none of the hart's queued
stores is to write. -/
def State.Prefetched (s : State) (h : Nat) (x : Slide) (b : Nat × Byte) : Prop :=
  ∃ va e pa u j, s.translate (s.vreqOf h) va .load = .ok e pa u ∧ b.1 = va.toNat + j ∧ j < Shape.run x.shape ∧
    b.2 = (s.memUnder (e.keyAt pa)).read (pa + j) ∧ ∀ c ∈ (s.hart h).vq, c.op.writesMem pa (Shape.run x.shape) = false

/-- Bytes put into a table one by one. -/
theorem foldl_set_spec (f g : Nat → Nat) (v : Nat → Byte) (n : Nat) (t : Tab Byte) :
    ((List.range n).foldl (fun b j => Tab.set b (f j) (v (g j))) t).length ≤ t.length + n ∧
    ∀ e ∈ (List.range n).foldl (fun b j => Tab.set b (f j) (v (g j))) t, e ∈ t ∨ ∃ j, j < n ∧ e = (f j, v (g j)) := by
  induction n with
  | zero => exact ⟨Nat.le_refl _, fun e h => .inl h⟩
  | succ n ih =>
    obtain ⟨hl, hm⟩ := ih
    rw [List.range_succ, List.foldl_append]
    refine ⟨(Tab.length_set_le ..).trans (by omega), fun e he => ?_⟩
    rcases Tab.mem_set he with he | rfl
    · rcases hm e he with h | ⟨j, hj, rfl⟩
      · exact .inl h
      · exact .inr ⟨j, by omega, rfl⟩
    · exact .inr ⟨n, by omega, rfl⟩

/-- A fold keeps what each of its steps keeps. -/
theorem foldl_keeps {α β : Type} {P : β → Prop} {f : β → α → β} (hf : ∀ b a, P b → P (f b a)) (l : List α) {b : β} (h : P b) :
    P (l.foldl f b) := by
  induction l generalizing b with
  | nil => exact h
  | cons a l ih => exact ih (hf b a h)

/-- What the prefetched tail holds. -/
theorem State.tailBytes_spec (s : State) (h : Nat) (x : Slide) (k : Nat) :
    (s.tailBytes h x k).1.length ≤ 1024 ∧ ∀ b ∈ (s.tailBytes h x k).1, s.Prefetched h x b := by
  unfold State.tailBytes
  refine foldl_keeps (P := fun (acc : Tab Byte × List Nat) => acc.1.length ≤ 1024 ∧ ∀ b ∈ acc.1, s.Prefetched h x b)
    (fun acc va hacc => ?_) _ ⟨Nat.zero_le _, fun b hb => absurd hb List.not_mem_nil⟩
  obtain ⟨hl, hb⟩ := hacc
  split
  · exact ⟨hl, hb⟩
  · rename_i hn
    split
    · rename_i e pa u hk
      split
      · exact ⟨hl, hb⟩
      · rename_i hq
        obtain ⟨h1, h2⟩ := foldl_set_spec (fun j => va.toNat + j) (fun j => pa + j) (s.memUnder (e.keyAt pa)).read
          (Shape.run x.shape) acc.1
        refine ⟨h1.trans (by omega), fun b hm => ?_⟩
        rcases h2 b hm with hm | ⟨j, hj, rfl⟩
        · exact hb b hm
        · refine ⟨va, e, pa, u, j, hk, rfl, hj, rfl, fun c hc => ?_⟩
          by_contra hw
          exact hq (.inr (.inr (.inr (List.any_eq_true.2 ⟨c, hc, by simpa using hw⟩))))
    · exact ⟨hl, hb⟩

/-- R167: SLIDE_PREFETCH holds bytes of memory only. -/
theorem slidePrefetch_step (s : State) (x : Slide) (h : (s.hart s.ev.h).slide = some x) :
    ∃ t y, exec .slidePrefetch s = .next t ∧ (t.hart s.ev.h).slide = some y ∧ y.group = x.group ∧ y.base = x.base ∧ y.shape = x.shape ∧
      SameRegs (s.hart s.ev.h) (t.hart s.ev.h) ∧ (t.hart s.ev.h).pc = (s.hart s.ev.h).pc ∧ t.mem = s.mem ∧ y.bytes.length ≤ 1024 ∧
      ∀ b ∈ y.bytes, ∃ va e pa u j, s.translate (s.vreqOf s.ev.h) va .load = .ok e pa u ∧ b.1 = va.toNat + j ∧ j < Shape.run x.shape ∧
        b.2 = (s.memUnder (e.keyAt pa)).read (pa + j) ∧ ∀ c ∈ (s.hart s.ev.h).vq, c.op.writesMem pa (Shape.run x.shape) = false := by
  let b := s.tailBytes s.ev.h x (max 1 s.ev.k)
  let y : Slide := { x with bytes := b.1, pas := b.2 }
  let t := s.updHart s.ev.h (fun a => { a with slide := some y })
  have he : exec .slidePrefetch s = .next t := by
    show execSlidePrefetch s = _
    unfold execSlidePrefetch
    dsimp only
    rw [h]
  have ht : t.hart s.ev.h = { s.hart s.ev.h with slide := some y } := State.hart_updHart s s.ev.h (fun a => { a with slide := some y })
  obtain ⟨hl, hb⟩ := s.tailBytes_spec s.ev.h x (max 1 s.ev.k)
  refine ⟨t, y, he, by rw [ht], rfl, rfl, rfl, ?_, by rw [ht], rfl, hl, hb⟩
  rw [ht]
  exact ⟨rfl, rfl, rfl, rfl, rfl, rfl, rfl, rfl, rfl, rfl, rfl, rfl, rfl, rfl, rfl⟩

/-! ### Locks -/

/-- An object's words as they are written are read back. -/
theorem objIn_written (m : Memory) (pa : Nat) (o : Obj) :
    (objIn (m.writeBytes pa (leBytes 8 o.w0 ++ leBytes 8 o.w1)) pa).w0 = o.w0 % 2 ^ 64 ∧
    (objIn (m.writeBytes pa (leBytes 8 o.w0 ++ leBytes 8 o.w1)) pa).w1 = o.w1 % 2 ^ 64 := by
  have h1 := m.readN_record pa [] (leBytes 8 o.w1) 8 o.w0
  have h2 := m.readN_record pa (leBytes 8 o.w0) [] 8 o.w1
  simp only [List.nil_append, List.append_nil, List.length_nil, Nat.add_zero, leBytes_length] at h1 h2
  exact ⟨h1, h2⟩

/-- What a granted lock says when it is read back. -/
theorem Obj.granted_fields (o r : Obj) (h task : Nat) (h0 : r.w0 = (o.granted h task).w0 % 2 ^ 64)
    (h1 : r.w1 = (o.granted h task).w1 % 2 ^ 64) : r.held = true ∧ r.holder = h % 2 ^ 14 ∧ r.htask = task % 2 ^ 32 := by
  unfold Obj.granted putField at h0 h1
  dsimp only at h0 h1
  refine ⟨?_, ?_, ?_⟩
  · unfold Obj.held fieldOf
    rw [beq_iff_eq, h0]
    omega
  · unfold Obj.holder fieldOf
    rw [h0]
    omega
  · unfold Obj.htask fieldOf
    rw [h1]
    omega

/-- A grant with no line lost: the lock's fields, then the hart goes on. -/
theorem State.grantLock_spec {h key pa : Nat} {va : Word} (hl : s.lostLines = []) :
    ∃ v : State, s.grantLock h key pa va = v ∧
      v.mem = s.mem.writeBytes pa (leBytes 8 ((objIn (s.memUnder key) pa).granted h (s.hart h).taskId).w0 ++
        leBytes 8 ((objIn (s.memUnder key) pa).granted h (s.hart h).taskId).w1) ∧
      v.tmem = s.tmem ∧ ∃ r, v.hart h = ({ s.hart h with resv := r }.advance 4).acquired := by
  let g := (objIn (s.memUnder key) pa).granted h (s.hart h).taskId
  let p := s.putObj (some h) key pa g
  obtain ⟨hm, ht, -, -, hr⟩ := s.poke_spec (some h) key pa (leBytes 8 g.w0 ++ leBytes 8 g.w1)
  have hq : p.quads = s.quads := State.poke_quads ..
  have hm : p.mem = _ := hm
  have ht : p.tmem = _ := ht
  obtain ⟨r, hr⟩ := hr h
  have hr : p.hart h = _ := hr
  have hg : s.grantLock h key pa va = (p.updHart h (fun a => a.advance 4)).acquireObj h (objIn (s.memUnder key) pa) va := rfl
  clear_value p
  let w := (p.updHart h (fun a => a.advance 4)).updHart h Hart.acquired
  have hw : w.lostIn h (objIn (s.memUnder key) pa) = none := by
    unfold State.lostIn
    rw [if_pos]
    show State.lostLines w = []
    unfold State.lostLines at hl ⊢
    rw [← hq] at hl
    exact hl
  have ha : (p.updHart h (fun a => a.advance 4)).acquireObj h (objIn (s.memUnder key) pa) va = w := by
    unfold State.acquireObj
    dsimp only
    rw [hw]
  refine ⟨w, hg.trans ha, hm, ht, r, ?_⟩
  rw [State.hart_updHart, State.hart_updHart, hr]

/-- An object's operation that reaches its object. -/
theorem State.onObject_reaches {o : Reg} {src dst : List Reg} {rl fo : Bool} {kinds : List Nat} {c : Acc}
    (h : Reaches s o src dst rl fo kinds c) (go : Acc → Obj → Word → Res) :
    s.onObject o src dst rl fo kinds go = go { c with s := s.atObject c (s.me.xv o) } c.obj (s.me.xv o) := by
  obtain ⟨hr, hd, ha, ⟨h1, h2, h3⟩, hk⟩ := h
  have hp : s.pathStop c 64 = none := by
    unfold State.pathStop
    rw [h1]
    simp [h2, h3]
  unfold State.onObject State.onObjectFor
  dsimp only
  rw [State.guarded_ready hr, hd, ha]
  unfold State.reporting
  dsimp only
  rw [hp]
  dsimp only
  rw [if_pos (List.elem_iff.2 hk)]

/-- An object reached, as the operation finds the state: all but caches, translations and the hart's slide buffer is as it was. -/
theorem State.atObject_reached {o : Reg} {src dst : List Reg} {rl fo : Bool} {kinds : List Nat} {c : Acc}
    (h : Reaches s o src dst rl fo kinds c) :
    ∃ v w r, s.atObject c (s.me.xv o) = v ∧ v.mem = s.mem ∧ v.tmem = s.tmem ∧ v.waiters = s.waiters ∧ v.cur = s.cur ∧ v.time = s.time ∧
      v.memUnder = c.s.memUnder ∧ v.hart s.cur = { s.me with slide := w, resv := r } ∧ (c.s.lostLines = [] → v.lostLines = []) := by
  obtain ⟨-, -, ha, -, -⟩ := h
  have hc := State.objAccess_accessed ha
  obtain ⟨v, w, hv, e⟩ := s.atObject_spec c (s.me.xv o)
  have hcu := hc.trans hv.accessed
  have hcur : v.cur = s.cur := by rw [hcu.rest]
  obtain ⟨r, hr⟩ := hcu.hart s.cur
  refine ⟨_, w, r, e, hcu.mem, hcu.tmem, hcu.waiters, hcur, by rw [State.updMe_time, hcu.rest], ?_, ?_, fun hl => ?_⟩
  · exact Eq.trans (show _ = v.memUnder from rfl) hv.accessed.memUnder
  · show (v.updHart v.cur _).hart s.cur = _
    rw [hcur, State.hart_updHart, hr]
    rfl
  · exact (State.lostLines_nil _).2 (hv.loss ((State.lostLines_nil _).1 hl))

/-- ACQ on a lock that is free and that none waits for. -/
theorem State.acqStep_grants {b : Reg} {c : Acc} {k : Task} (hr : Reaches s b [] [] false false [1] c) (hk : s.me.task = some k)
    (hh : s.cur < 16384) (hheld : c.obj.held = false) (hw : s.waitersAt (lineOf c.pa) false = []) (hl : c.s.lostLines = []) :
    ∃ t, s.acqStep b = .next t ∧ (objIn t.mem c.pa).held = true ∧ (objIn t.mem c.pa).holder = s.cur ∧
      (objIn t.mem c.pa).htask = k.id.toNat ∧
      OnlyBytes s t c.pa 16 ∧ (t.hart s.cur).pc = s.me.pc + 4 ∧ SameRegs s.me (t.hart s.cur) := by
  obtain ⟨v, w, r, hv, hmem, htmem, hwait, hcur, -, hund, hhart, hloss⟩ := State.atObject_reached hr
  obtain ⟨t, hg, gm, gt, r', gh⟩ := v.grantLock_spec (h := s.cur) (key := c.key) (pa := c.pa) (va := s.me.xv b) (hloss hl)
  have ha : s.acqStep b = .next t := by
    unfold State.acqStep
    rw [State.onObject_reaches hr, hv]
    dsimp only
    rw [if_neg (by simp [State.holds, hheld]), hheld, hw]
    exact congrArg Host.Outcome.next hg
  obtain ⟨w0, w1⟩ := objIn_written v.mem c.pa ((objIn (v.memUnder c.key) c.pa).granted s.cur (v.hart s.cur).taskId)
  rw [← gm] at w0 w1
  obtain ⟨f1, f2, f3⟩ := Obj.granted_fields _ _ _ _ w0 w1
  have hid : (v.hart s.cur).taskId = k.id.toNat := by
    unfold Hart.taskId
    rw [hhart]
    dsimp only
    rw [hk]
  refine ⟨t, ha, f1, f2.trans (Nat.mod_eq_of_lt hh), f3.trans ?_, ⟨fun z hz => ?_, gt.trans htmem⟩, ?_, ?_⟩
  · rw [hid]
    exact Nat.mod_eq_of_lt k.id.isLt
  · rw [gm, ← hmem]
    exact Memory.read_writeBytes_outside _ _ _ _ (by simpa [leBytes_length] using hz)
  · rw [gh, hhart]
    rfl
  · rw [gh, hhart]
    exact ⟨rfl, rfl, rfl, rfl, rfl, rfl, rfl, rfl, rfl, rfl, rfl, rfl, rfl, rfl, rfl⟩

/-- ACQ on a lock that another task holds, with room in its list. -/
theorem State.acqStep_waits {b : Reg} {c : Acc} (hr : Reaches s b [] [] false false [1] c) (hheld : c.obj.held = true)
    (hno : s.holds s.cur c.obj = false) (hlen : (s.waitersAt (lineOf c.pa) false).length < 64) :
    ∃ t w, s.acqStep b = .next t ∧ t.waiters = s.waiters.concat w ∧ w.hart = s.cur ∧ w.line = lineOf c.pa ∧ t.mem = s.mem ∧
      (t.hart s.cur).park = some .acq ∧ (t.hart s.cur).pc = s.me.pc := by
  obtain ⟨v, w, r, hv, hmem, htmem, hwait, hcur, -, hund, hhart, hloss⟩ := State.atObject_reached hr
  let wt : Waiter := ⟨lineOf c.pa, s.cur, 0, none, s.me.xv b⟩
  let t := (v.addWaiter wt).updMe (fun a => a.parkFor .acq s.time s.clk)
  have ha : s.acqStep b = .next t := by
    unfold State.acqStep
    rw [State.onObject_reaches hr, hv]
    dsimp only
    rw [hno, hheld, if_neg Bool.false_ne_true, Bool.not_true, Bool.false_and, if_neg Bool.false_ne_true, if_neg (by omega)]
  have hth : t.hart s.cur = (v.hart s.cur).parkFor .acq s.time s.clk := by
    show ((v.addWaiter wt).updHart v.cur _).hart s.cur = _
    rw [hcur, State.hart_updHart]
    rfl
  refine ⟨t, { wt with ticket := v.nextTicket }, ha, ?_, rfl, rfl, hmem, ?_, ?_⟩
  · show v.waiters ++ _ = _
    rw [hwait, List.concat_eq_append]
  · rw [hth]
    unfold Hart.parkFor
    split
    · assumption
    · rfl
  · rw [hth, hhart]
    unfold Hart.parkFor
    split <;> rfl

theorem State.asHart_next {h : Nat} {f : State → Res} (e : f { s with cur := h } = .next t) :
    s.asHart h f = .next { t with cur := s.cur } := by
  unfold State.asHart
  rw [e]

/-- R289: an ACQ that was answered busy asks again after 256 cycles. -/
theorem acqRetry_steps (s : State) (c : Acc) (k : Task) (b : Reg) :
    let h := s.ev.h
    let u : State := { s with cur := h }
    (s.hart h).park = some (.acqBusy b) →
    (s.time < (s.hart h).since + 256 → exec .acqRetry s = .next s) ∧
    ((s.hart h).since + 256 ≤ s.time → Reaches u b [] [] false false [1] c → (s.hart h).task = some k → h < 12288 →
      (c.obj.held = false → s.waitersAt (lineOf c.pa) false = [] → c.s.lostLines = [] →
        ∃ t, exec .acqRetry s = .next t ∧ (objIn t.mem c.pa).held = true ∧ (objIn t.mem c.pa).holder = h ∧
          (objIn t.mem c.pa).htask = k.id.toNat ∧
          OnlyBytes s t c.pa 16 ∧ (t.hart h).pc = (s.hart h).pc + 4 ∧ SameRegs (s.hart h) (t.hart h)) ∧
      (c.obj.held = true → s.holds h c.obj = false → (s.waitersAt (lineOf c.pa) false).length < 64 →
        ∃ t w, exec .acqRetry s = .next t ∧ t.waiters = s.waiters.concat w ∧ w.hart = h ∧ w.line = lineOf c.pa ∧ t.mem = s.mem ∧
          (t.hart h).park = some .acq ∧ (t.hart h).pc = (s.hart h).pc)) := by
  intro h u hp
  have he : exec .acqRetry s = if (s.hart h).since + 256 ≤ s.time then s.asHart h (fun t => t.acqStep b) else .next s := by
    show execAcqRetry s = _
    unfold execAcqRetry
    rw [show (s.hart s.ev.h).park = some (.acqBusy b) from hp]
  refine ⟨fun ht => by rw [he, if_neg (by omega)], fun ht hr hk hh => ?_⟩
  rw [if_pos ht] at he
  refine ⟨fun hheld hw hl => ?_, fun hheld hno hlen => ?_⟩
  · obtain ⟨t, ha, h1, h2, h3, h4, h5, h6⟩ := State.acqStep_grants hr hk (show h < 16384 by omega) hheld hw hl
    exact ⟨_, he.trans (State.asHart_next ha), h1, h2, h3, h4, h5, h6⟩
  · obtain ⟨t, w, ha, h1, h2, h3, h4, h5, h6⟩ := State.acqStep_waits hr hheld hno hlen
    exact ⟨_, w, he.trans (State.asHart_next ha), h1, h2, h3, h4, h5, h6⟩

/-- Settles O47: each event of the copy engine by its own theorem. -/
theorem transfersRun : Obligations.TransfersRun :=
  ⟨copyAdmit_steps, copyRunEmit_steps, piecesCover, copyLinePerformed_steps, copyComplete_steps, slidePrefetch_step, acqRetry_steps⟩

end Sys2Proof.Machine
end

section
/-!
The host port, firmware, attestation and links (R401, R411 to R413).
-/
namespace Sys2Proof.Machine

/-! ### Port, firmware, attestation -/

theorem ucieTraining_step (s : State) (h : s.ev.p < 4) :
    exec .ucieTraining s = .next { s with ucie := Tab.set s.ucie s.ev.p s.ev.rate } := by
  show execUcieTraining s = _
  unfold execUcieTraining
  rw [if_pos h]

theorem State.verified_iff (s : State) (n : Nat) : s.verified n = true ↔ ∃ v ∈ s.sec.versions, v.1 = n := by
  unfold State.verified
  simp only [List.any_eq_true, beq_iff_eq]

/-- R411: an image is taken, or leaves the module in recovery, once Quince's is verified. -/
theorem firmwareVerify_cases (s : State) (n : Nat) (hn : imageNo s.ev.img = n) :
    (n ≠ 0 → ¬ (∃ v ∈ s.sec.versions, v.1 = 0) → exec .firmwareVerify s = .next s) ∧
    ((n = 0 ∨ ∃ v ∈ s.sec.versions, v.1 = 0) → s.ev.b = true → s.sec.fused ≤ s.ev.v.toNat →
      exec .firmwareVerify s = .next { s with sec := { s.sec with versions := Tab.set s.sec.versions n s.ev.v.toNat } }) ∧
    ((n = 0 ∨ ∃ v ∈ s.sec.versions, v.1 = 0) → s.ev.b = false ∨ s.ev.v.toNat < s.sec.fused →
      exec .firmwareVerify s = .next { s with sec := { s.sec with recovery := true } }) := by
  subst hn
  rw [← s.verified_iff 0]
  have he : exec .firmwareVerify s = execFirmwareVerify s := rfl
  unfold execFirmwareVerify at he
  dsimp only at he
  rw [he]
  refine ⟨fun h1 h2 => if_pos ⟨h1, h2⟩, fun h1 h2 h3 => ?_, fun h1 h2 => ?_⟩
  · rw [if_neg (by tauto), if_pos ⟨h2, h3⟩]
  · rw [if_neg (by tauto), if_neg]
    rintro ⟨h3, h4⟩
    rcases h2 with h2 | h2
    · rw [h2] at h3
      cases h3
    · omega

/-- R411: a module in recovery answers SPDM, takes images and lets time pass; every other turn has no effect. -/
theorem recovery_turns (s : State) (x : Turn) (rest : List Turn) (hr : s.sec.recovery = true) (ha : s.agenda = x :: rest) :
    (¬ ((∃ a, x = .event .spdmRequest a) ∨ (∃ a, x = .event .firmwareVerify a) ∨ ∃ n, x = .advance n) →
      step s = .next { s with agenda := rest }) ∧
    (∀ a, x = .event .spdmRequest a → step s = andThen (exec .spdmRequest { s with agenda := rest, ev := a }) State.settle) := by
  have ht : s.nextTurn = (x, { s with agenda := rest }) := by
    unfold State.nextTurn
    rw [ha]
  have he : step s = if s.sec.recovery && !x.inRecovery then .next { s with agenda := rest }
      else andThen (({ s with agenda := rest } : State).runTurn x) State.settle := by
    show s.stepOnce = _
    unfold State.stepOnce
    rw [ht]
  refine ⟨fun hn => ?_, fun a hx => ?_⟩
  · have hi : x.inRecovery = false := by
      unfold Turn.inRecovery
      split
      · exact absurd (.inl ⟨_, rfl⟩) hn
      · exact absurd (.inr (.inl ⟨_, rfl⟩)) hn
      · exact absurd (.inr (.inr ⟨_, rfl⟩)) hn
      · rfl
    rw [he, hr, hi]
    rfl
  · subst hx
    rw [he, hr]
    rfl

/-- R412: the measurements in order, signed. -/
theorem spdmRequest_answers (s : State) :
    let image (n : Nat) : Nat := Tab.get s.sec.versions n 0
    ∃ t, exec .spdmRequest s = .next t ∧ t.out = s.out.concat (.spdm [Config.digest 0 [], Config.digest 1 [image 0], Config.digest 2 [image 1],
        Config.digest 3 [image 2], Config.digest 4 [image 3], Config.digest 5 [s.sec.fused], Config.digest 6 s.sec.keyMap,
        Config.digest 7 s.sec.partMap, Config.signature s.fresh]) ∧
      t.fresh = s.fresh + 1 ∧ t.mem = s.mem ∧ t.harts = s.harts ∧ t.sec = s.sec := by
  intro image
  refine ⟨_, rfl, ?_, rfl, rfl, rfl, rfl⟩
  rw [List.concat_eq_append]
  rfl

/-! ### Links -/

theorem State.prt_raiseSource (s : State) (p n : Nat) : n ∈ ((s.raiseSource p n).prt p).sources := by
  unfold State.raiseSource State.updPart State.prt
  rw [Tab.get_set_same]
  dsimp only
  split
  · rename_i h
    exact List.elem_iff.1 h
  · exact List.mem_append_right _ List.mem_cons_self

/-- R408: what the change of a link tells. -/
theorem State.linkChanged_spec (s : State) (l : Nat) :
    (s.linkChanged l).mem = s.mem ∧ (s.linkChanged l).harts = s.harts ∧ (s.linkChanged l).links = s.links ∧
      ((Tab.get s.links l {}).bnd = true → 2 ∈ ((s.linkChanged l).prt (Tab.get s.links l {}).part).sources) := by
  unfold State.linkChanged
  dsimp only
  split
  · exact ⟨rfl, rfl, rfl, fun _ => State.prt_raiseSource ..⟩
  · rename_i h
    exact ⟨rfl, rfl, rfl, fun k => absurd k h⟩

/-- A link after its partner has come up. -/
def Link.joins (k : Link) (v : Word) : Link :=
  { k with
    up := true, inc := if k.joined then k.inc + 1 else k.inc, peerid := v.setWidth 16, replicas := false, joined := true }

theorem execBoraLinkChange_changes {s : State} (hl : s.ev.p < 12) (hk : (Tab.get s.links s.ev.p {}).up ≠ s.ev.b) :
    execBoraLinkChange s =
      if s.ev.b then .next (State.linkChanged { s with links := Tab.set s.links s.ev.p ((Tab.get s.links s.ev.p {}).joins s.ev.v) } s.ev.p)
      else .next ((State.linkChanged { s with links := Tab.set s.links s.ev.p { Tab.get s.links s.ev.p {} with up := false } } s.ev.p).failRuns
        s.ev.p) := by
  unfold execBoraLinkChange
  dsimp only
  rw [if_neg]
  · rfl
  · rintro (h | h)
    · omega
    · exact hk h

/-- R413: a link comes up under a new incarnation when it rejoins, or goes down; its change is a source of its partition. -/
theorem boraLinkChange_steps (s : State) :
    let l := s.ev.p
    let k := Tab.get s.links l {}
    (12 ≤ l ∨ k.up = s.ev.b → exec .boraLinkChange s = .next s) ∧
    (l < 12 → k.up ≠ s.ev.b →
      ∃ t, exec .boraLinkChange s = .next t ∧ (Tab.get t.links l {}).up = s.ev.b ∧ t.mem = s.mem ∧ t.harts = s.harts ∧
        (s.ev.b = true → (Tab.get t.links l {}).peerid = s.ev.v.setWidth 16 ∧
          (Tab.get t.links l {}).inc = k.inc + (if k.joined then 1 else 0)) ∧
        (s.ev.b = false → (Tab.get t.links l {}).inc = k.inc) ∧ (k.bnd = true → 2 ∈ (t.prt k.part).sources)) := by
  intro l k
  refine ⟨fun h => ?_, fun hl hk => ?_⟩
  · show execBoraLinkChange s = _
    unfold execBoraLinkChange
    exact if_pos h
  · have he : exec .boraLinkChange s = _ := execBoraLinkChange_changes hl hk
    cases hb : s.ev.b
    · rw [hb, if_neg Bool.false_ne_true] at he
      let n : Link := { k with up := false }
      let u : State := { s with links := Tab.set s.links l n }
      have hn : Tab.get u.links l {} = n := Tab.get_set_same ..
      obtain ⟨h1, h2, h3, h4⟩ := u.linkChanged_spec l
      rw [hn] at h4
      refine ⟨_, he, ?_, h1, h2, fun h => (Bool.false_ne_true h).elim, fun _ => ?_, h4⟩
      · show (Tab.get (u.linkChanged l).links l {}).up = _
        rw [h3, hn]
      · show (Tab.get (u.linkChanged l).links l {}).inc = _
        rw [h3, hn]
    · rw [hb, if_pos rfl] at he
      let n : Link := k.joins s.ev.v
      let u : State := { s with links := Tab.set s.links l n }
      have hn : Tab.get u.links l {} = n := Tab.get_set_same ..
      obtain ⟨h1, h2, h3, h4⟩ := u.linkChanged_spec l
      rw [hn] at h4
      refine ⟨_, he, ?_, h1, h2, fun _ => ⟨?_, ?_⟩, fun h => (Bool.false_ne_true h.symm).elim, h4⟩
      · show (Tab.get (u.linkChanged l).links l {}).up = _
        rw [h3, hn]
        rfl
      · show (Tab.get (u.linkChanged l).links l {}).peerid = _
        rw [h3, hn]
        rfl
      · show (Tab.get (u.linkChanged l).links l {}).inc = _
        rw [h3, hn]
        show (if k.joined then k.inc + 1 else k.inc) = _
        split
        · rfl
        · exact (BitVec.add_zero _).symm

/-! ### Abort records -/

/-- An element of a table mapped by a function that keeps the default. -/
theorem Tab.get_map_default {α : Type} (t : Tab α) (g : Nat × α → α) (k : Nat) (d : α) (h : g (k, d) = d) :
    Tab.get (t.map (fun e => (e.1, g e))) k d = g (k, Tab.get t k d) := by
  induction t with
  | nil => exact h.symm
  | cons e t ih =>
    obtain ⟨j, a⟩ := e
    simp only [List.map_cons, Tab.get]
    split
    · subst_vars
      rfl
    · exact ih

theorem State.quad_abortAll (s : State) (f : Xfer → Bool) (q : Nat) : (s.abortAll f).quad q = (s.quad q).abortXfers f :=
  Tab.get_map_default s.quads (fun e => e.2.abortXfers f) q {} rfl

/-- What an abort does to a running transfer. -/
theorem Quad.abortXfers_running (a : Quad) (f : Xfer → Bool) {x : Xfer} (hx : x ∈ a.running) :
    (f x = true → x.stage = .running → { x with aborted := true } ∈ (a.abortXfers f).running) ∧
    (f x = false ∨ x.stage ≠ .running → x ∈ (a.abortXfers f).running) := by
  refine ⟨fun h k => ?_, fun h => ?_⟩
  · refine List.mem_append_left _ (List.mem_map.2 ⟨x, hx, ?_⟩)
    rw [if_pos (by simp [h, k])]
  · refine List.mem_append_left _ (List.mem_map.2 ⟨x, hx, ?_⟩)
    rw [if_neg]
    rcases h with h | h <;> simp [h]

theorem Quad.abortXfers_cq (a : Quad) (f : Xfer → Bool) {x : Xfer} (hx : x ∈ (a.abortXfers f).cq) : x ∈ a.cq ∧ f x = false := by
  have h := List.mem_filter.1 (show x ∈ a.cq.filter (fun x => !f x) from hx)
  exact ⟨h.1, by simpa using h.2⟩

/-- A transfer goes over a link of a collective. -/
def State.spansOn (s : State) (coll : BitVec 16) (x : Xfer) : Bool :=
  let of (src : Bool) : Bool := match x.link src with
    | none => false
    | some l => decide ((Tab.get s.links l {}).coll = coll)
  x.cpyb && (of true || of false)

theorem State.spansOn_iff (s : State) (coll : BitVec 16) (x : Xfer) :
    s.spansOn coll x = true ↔ x.cpyb = true ∧ ∃ src l, x.link src = some l ∧ (Tab.get s.links l {}).coll = coll := by
  have hof (src : Bool) : (match x.link src with
      | none => false
      | some l => decide ((Tab.get s.links l {}).coll = coll)) = true ↔ ∃ l, x.link src = some l ∧ (Tab.get s.links l {}).coll = coll := by
    cases x.link src <;> simp
  unfold State.spansOn
  dsimp only
  rw [Bool.and_eq_true, Bool.or_eq_true, hof, hof]
  refine and_congr_right fun _ => ⟨?_, ?_⟩
  · rintro (h | h)
    · exact ⟨true, h⟩
    · exact ⟨false, h⟩
  · rintro ⟨src, h⟩
    cases src
    · exact .inr h
    · exact .inl h

/-- R415: an abort record stops the transfers over links of its collective. -/
theorem collectiveAbort_steps (s : State) :
    let coll : BitVec 16 := s.ev.v.setWidth 16
    let spans (x : Xfer) : Prop := x.cpyb = true ∧ ∃ src l, x.link src = some l ∧ (Tab.get s.links l {}).coll = coll
    (coll = 0 → exec .collectiveAbort s = .next s) ∧
    (coll ≠ 0 → ∃ t, exec .collectiveAbort s = .next t ∧ t.mem = s.mem ∧ t.harts = s.harts ∧
      (∀ q x, x ∈ (s.quad q).running → spans x → x.stage = .running → { x with aborted := true } ∈ (t.quad q).running) ∧
      (∀ q x, x ∈ (s.quad q).running → (¬ spans x ∨ x.stage ≠ .running) → x ∈ (t.quad q).running) ∧
      (∀ q x, x ∈ (t.quad q).cq → x ∈ (s.quad q).cq ∧ ¬ spans x) ∧ (∀ y ∈ t.saved, ∀ x ∈ y.state.cq, ¬ spans x)) := by
  intro coll spans
  have hs (x : Xfer) : spans x ↔ s.spansOn coll x = true := (s.spansOn_iff coll x).symm
  have hn (x : Xfer) : ¬ spans x ↔ s.spansOn coll x = false := by rw [hs, Bool.not_eq_true]
  have he : exec .collectiveAbort s = if coll = (0#16) then .next s else .next (s.abortAll (s.spansOn coll)) := rfl
  refine ⟨fun h => he.trans (if_pos h), fun h => ⟨_, he.trans (if_neg h), rfl, rfl, fun q x hx hp hr => ?_, fun q x hx hp => ?_,
    fun q x hx => ?_, fun y hy x hx => ?_⟩⟩
  · rw [State.quad_abortAll]
    exact ((s.quad q).abortXfers_running _ hx).1 ((hs x).1 hp) hr
  · rw [State.quad_abortAll]
    exact ((s.quad q).abortXfers_running _ hx).2 (hp.imp_left (hn x).1)
  · rw [State.quad_abortAll] at hx
    obtain ⟨h1, h2⟩ := (s.quad q).abortXfers_cq _ hx
    exact ⟨h1, (hn x).2 h2⟩
  · obtain ⟨z, -, rfl⟩ := List.mem_map.1 (show y ∈ s.saved.map (fun x => { x with state := x.state.abortXfers (s.spansOn coll) }) from hy)
    exact (hn x).2 (Quad.abortXfers_cq _ _ hx).2

/-! ### Partners' accesses -/

/-- A partner's access that is requested. -/
def State.askedBy (s : State) : PeerWait :=
  let room := 64 - s.ev.v.toNat % 64
  { link := s.ev.p, va := s.ev.v, bytes := s.ev.bytes.map (fun b => b.take room), n := min s.ev.size room }

theorem execPeerRequest_asks {s : State} (h : s.ev.p < 12) : execPeerRequest s = .next (s.peerAccess s.askedBy) := by
  unfold execPeerRequest
  dsimp only
  rw [if_neg (by omega)]
  rfl

theorem State.peerReq_part {s : State} {l : Nat} {k : Link} {q : Req} (h : s.peerReq l k = some q) : q.part = k.part := by
  unfold State.peerReq at h
  split at h
  · cases h
  · rename_i e he
    cases h
    have := List.find?_some he
    simp only [Bool.and_eq_true, beq_iff_eq] at this
    exact this.1

/-- What a partner's access does at its address. -/
def State.peerGoes (s : State) (w : PeerWait) (q : Req) : EAcc → State
  | .fail c y => (s.tellEngine q.quad (Tab.get s.links w.link {}).part 0 c w.va y).peerFail w (w.failCause c)
  | .ok c =>
    if w.bytes.isNone && c.e.frozen && s.pageLocked (pageOf c.pa) then { s with peerWaits := s.peerWaits ++ [{ w with since := none }] }
    else s.peerPerform w c
  | .miss g =>
    if w.denied then s.peerFail w (w.failCause 0)
    else { s.engineWait (peerAgent w.link) q (.miss g) with
      peerWaits := (s.engineWait (peerAgent w.link) q (.miss g)).peerWaits ++ [{ w with since := some s.time }] }
  | e => { s.engineWait (peerAgent w.link) q e with
      peerWaits := (s.engineWait (peerAgent w.link) q e).peerWaits ++ [{ w with since := none }] }

theorem State.peerAccess_goes {s : State} {w : PeerWait} {q : Req} (hu : (Tab.get s.links w.link {}).up = true)
    (hb : (Tab.get s.links w.link {}).bnd = true) (hq : s.peerReq w.link (Tab.get s.links w.link {}) = some q) :
    s.peerAccess w = s.peerGoes w q (s.engineAccess (peerAgent w.link) q w.va (if w.bytes.isSome then .store else .load) 0) := by
  unfold State.peerAccess
  dsimp only
  rw [if_neg (by rw [hu, hb]; exact Bool.false_ne_true), hq]
  dsimp only
  generalize s.engineAccess _ q w.va _ 0 = e
  cases e <;> rfl

theorem State.peerAccess_down {s : State} {w : PeerWait}
    (h : (Tab.get s.links w.link {}).up = false ∨ (Tab.get s.links w.link {}).bnd = false) : s.peerAccess w = s.peerFail w 7 := by
  unfold State.peerAccess
  dsimp only
  rw [if_pos]
  rcases h with h | h
  · rw [h]
    rfl
  · rw [h, Bool.not_false, Bool.or_true]

/-- A partner's read performed at memory. -/
theorem State.peerPerform_reads {s : State} {w : PeerWait} {c : Acc} (hc : Accessed s c.s) (hw : w.bytes = none)
    (hb : s.badRange c.pa w.n = false) (hm : isMmio c.pa = false) :
    (s.peerPerform w c).out.getLast? = some (.peerRead w.link (c.mem.readBytes c.pa w.n) 0) ∧ (s.peerPerform w c).mem = s.mem ∧
      (c.e.frozen = true → (Tab.get (s.peerPerform w c).links w.link {}).replicas = true) := by
  let t := c.s.bypass (s.homeQuad c.pa) c.pa false (treatOf c.e.mt 0) c.e.replica
  let u : State := if c.e.frozen then
    { t with links := Tab.set t.links w.link { Tab.get t.links w.link {} with replicas := true } } else t
  have ht : Accessed c.s t := (State.bypass_cached ..).accessed
  have he : s.peerPerform w c = { u.emit (.peerRead w.link ((t.memUnder c.key).readBytes c.pa w.n) 0) with
      bisnps := u.bisnps.filter (fun b => b.who != peerAgent w.link) } := by
    unfold State.peerPerform State.readSpan
    rw [hw]
    simp only [hb, hm, Bool.false_and, Bool.false_eq_true, if_false]
    rfl
  have hu : u.mem = t.mem ∧ (c.e.frozen = true → (Tab.get u.links w.link {}).replicas = true) := by
    unfold u
    split
    · exact ⟨rfl, fun _ => congrArg Link.replicas (Tab.get_set_same ..)⟩
    · rename_i hf
      exact ⟨rfl, fun h => absurd h hf⟩
  clear_value u
  rw [he]
  refine ⟨?_, hu.1.trans (ht.mem.trans hc.mem), hu.2⟩
  show (u.out ++ [Out.peerRead w.link _ 0]).getLast? = _
  rw [List.getLast?_concat, ht.memUnder]

/-- A partner's write performed at memory. -/
theorem State.peerPerform_writes {s : State} {w : PeerWait} {c : Acc} {b : List Byte} (hc : Accessed s c.s) (hw : w.bytes = some b)
    (hm : isMmio c.pa = false) :
    (s.peerPerform w c).out.getLast? = some (.peerWrite w.link 0) ∧ (s.peerPerform w c).mem = s.mem.writeBytes c.pa b := by
  unfold State.peerPerform
  extract_lets l home t mine r u
  rw [hw]
  have ht : Accessed c.s t := (State.bypass_cached ..).accessed
  have hs : t.writeSpan .hartU c.key c.pa b = t.poke none c.key c.pa b := by
    unfold State.writeSpan
    rw [hm, if_neg Bool.false_ne_true]
  dsimp only
  rw [hs]
  refine ⟨List.getLast?_concat, ?_⟩
  show (t.poke none c.key c.pa b).mem = _
  rw [(t.poke_spec none c.key c.pa b).1, ht.mem, hc.mem]

/-- R414, R416: a partner's access is performed, waits or fails. -/
theorem peerRequest_steps (s : State) :
    let l := s.ev.p
    let k := Tab.get s.links l {}
    let agent := 65536 + l
    let room := 64 - s.ev.v.toNat % 64
    let w : PeerWait := { link := l, va := s.ev.v, bytes := s.ev.bytes.map (fun b => b.take room), n := min s.ev.size room }
    (l < 12 → (k.up = false ∨ k.bnd = false) → exec .peerRequest s =
      .next (s.emit (match s.ev.bytes with
        | none => .peerRead l [] 7
        | some _ => .peerWrite l 7))) ∧
    (∀ q, l < 12 → k.up = true → k.bnd = true → s.peerReq l k = some q →
      (∀ c y, s.ev.bytes = none → s.engineAccess agent q s.ev.v .load 0 = .fail c y → c ≠ 25 →
        exec .peerRequest s = .next ((s.tellEngine q.quad k.part 0 c s.ev.v y).emit (.peerRead l [] 13))) ∧
      (∀ b c y, s.ev.bytes = some b → s.engineAccess agent q s.ev.v .store 0 = .fail c y →
        exec .peerRequest s = .next ((s.tellEngine q.quad k.part 0 c s.ev.v y).emit (.peerWrite l (if c = 25 then 25 else 15)))) ∧
      (∀ g, s.engineAccess agent q s.ev.v (if s.ev.bytes.isSome then .store else .load) 0 = .miss g →
        ∃ t, exec .peerRequest s = .next t ∧ t.peerWaits = s.peerWaits.concat { w with since := some s.time } ∧ t.mem = s.mem ∧
          t.out = s.out.concat (.chinookMiss k.part g)) ∧
      (∀ c, s.ev.bytes = none → s.engineAccess agent q s.ev.v .load 0 = .ok c → c.e.frozen = true → s.pageLocked (pageOf c.pa) = true →
        exec .peerRequest s = .next { s with peerWaits := s.peerWaits.concat w }) ∧
      (∀ c, s.ev.bytes = none → s.engineAccess agent q s.ev.v .load 0 = .ok c → isMmio c.pa = false →
        (c.e.frozen = true → s.pageLocked (pageOf c.pa) = false) → s.badRange c.pa w.n = false →
        ∃ t, exec .peerRequest s = .next t ∧ t.out.getLast? = some (.peerRead l (c.mem.readBytes c.pa w.n) 0) ∧ t.mem = s.mem ∧
          (c.e.frozen = true → (Tab.get t.links l {}).replicas = true)) ∧
      (∀ c b, s.ev.bytes = some b → s.engineAccess agent q s.ev.v .store 0 = .ok c → isMmio c.pa = false →
        ∃ t, exec .peerRequest s = .next t ∧ t.out.getLast? = some (.peerWrite l 0) ∧ t.mem = s.mem.writeBytes c.pa (b.take room))) := by
  intro l k agent room w
  have hr (hl : l < 12) : exec .peerRequest s = .next (s.peerAccess w) := execPeerRequest_asks hl
  have hnone (h : s.ev.bytes = none) : w.bytes = none := by show s.ev.bytes.map _ = _; rw [h]; rfl
  have hsome {b : List Byte} (h : s.ev.bytes = some b) : w.bytes = some (b.take room) := by show s.ev.bytes.map _ = _; rw [h]; rfl
  refine ⟨fun hl h => ?_, fun q hl hu hb hq => ?_⟩
  · rw [hr hl, State.peerAccess_down h]
    unfold State.peerFail
    cases hx : s.ev.bytes with
    | none => rw [hnone hx]
    | some b => rw [hsome hx]
  · have hg := State.peerAccess_goes (w := w) hu hb hq
    have hload (h : s.ev.bytes = none) {e : EAcc} (he : s.engineAccess agent q s.ev.v .load 0 = e) :
        exec .peerRequest s = .next (s.peerGoes w q e) := by
      rw [hr hl, hg, hnone h, ← he]
      rfl
    have hstore {b : List Byte} (h : s.ev.bytes = some b) {e : EAcc} (he : s.engineAccess agent q s.ev.v .store 0 = e) :
        exec .peerRequest s = .next (s.peerGoes w q e) := by
      rw [hr hl, hg, hsome h, ← he]
      rfl
    refine ⟨fun c y hn he hc => ?_, fun b c y hs he => ?_, fun g he => ?_, fun c hn he hf hp => ?_, fun c hn he hm hf hbad => ?_,
      fun c b hs he hm => ?_⟩
    · rw [hload hn he]
      show Host.Outcome.next (State.peerFail _ w (w.failCause c)) = _
      unfold State.peerFail PeerWait.failCause
      rw [hnone hn, if_neg hc]
      rfl
    · rw [hstore hs he]
      show Host.Outcome.next (State.peerFail _ w (w.failCause c)) = _
      unfold State.peerFail PeerWait.failCause
      rw [hsome hs]
      rfl
    · have hw : w.bytes.isSome = s.ev.bytes.isSome := Option.isSome_map
      rw [hw, show s.engineAccess (peerAgent w.link) q w.va _ 0 = .miss g from he] at hg
      refine ⟨_, (hr hl).trans (congrArg Host.Outcome.next hg), (List.concat_eq_append).symm, rfl, ?_⟩
      rw [List.concat_eq_append, ← State.peerReq_part hq]
      rfl
    · rw [hload hn he]
      unfold State.peerGoes
      dsimp only
      rw [if_pos (by rw [hnone hn, hf, hp]; rfl), List.concat_eq_append]
    · have hc := State.engineAccess_accessed he
      have hp : exec .peerRequest s = .next (s.peerPerform w c) := by
        rw [hload hn he]
        unfold State.peerGoes
        dsimp only
        rw [if_neg]
        intro h
        simp only [Bool.and_eq_true] at h
        rw [hf h.1.2] at h
        exact Bool.false_ne_true h.2
      exact ⟨_, hp, State.peerPerform_reads hc (hnone hn) hbad hm⟩
    · have hc := State.engineAccess_accessed he
      have hp : exec .peerRequest s = .next (s.peerPerform w c) := by
        rw [hstore hs he]
        unfold State.peerGoes
        dsimp only
        rw [if_neg (by rw [hsome hs]; simp)]
      exact ⟨_, hp, State.peerPerform_writes hc (hsome hs) hm⟩

/-- Settles O52: each event of the port, of firmware and of the links by its own theorem. -/
theorem moduleAndPeers : Obligations.ModuleAndPeers := by
  refine ⟨ucieTraining_step, fun s => ?_, spdmRequest_answers, boraLinkChange_steps, peerRequest_steps, collectiveAbort_steps⟩
  intro n known
  have hn : imageNo s.ev.img = n := by
    show imageNo s.ev.img = match s.ev.img with
      | .quince => 0
      | .chinook => 1
      | .mistral => 2
      | .security => 3
    cases s.ev.img <;> rfl
  obtain ⟨h1, h2, h3⟩ := firmwareVerify_cases s n hn
  exact ⟨h1, h2, h3, recovery_turns s⟩

end Sys2Proof.Machine
end

section
/-!
Statements that a state refutes, and the state that does it. Each state is evaluated by the model; what the statement says of it differs.
-/
namespace Sys2Proof.Machine

/-! ### A write of pwreq moves the operating point (R389) -/

/-- A hart that runs a task in a quad at OP7, about to write 0 to pwreq (0x8D4): its quad's vote falls to OP0. -/
def pwreqWriter : State :=
  { State.reset with harts := [(0, { task := some {} })], quads := [(0, { opcur := 7 })], ev := { k := 0x8D4 } }

theorem pwreqWriter_lowers : ∃ t, exec .csrWrite pwreqWriter = .next t ∧ (t.quad 0).opcur = 0 := ⟨_, rfl, by decide⟩

/-- Refutes O48: a write of pwreq changes more than the hart's field, since the quad follows its votes at once (R389): the
writer's quad goes from OP7 to OP0. -/
theorem not_registerWrites : ¬ Obligations.RegisterWrites := by
  unfold Obligations.RegisterWrites
  rintro ⟨-, hcsr, -⟩
  obtain ⟨-, -, -, -, -, -, -, -, -, hpwreq, -⟩ := hcsr pwreqWriter
  obtain ⟨t, ht, hlow⟩ := pwreqWriter_lowers
  have hsame := Host.Outcome.next.inj (ht.symm.trans (hpwreq rfl))
  rw [hsame] at hlow
  exact absurd hlow (by decide)

/-! ### A way that is emptied may touch another way of its slice (R45, R47) -/

/-- Way 3 of quad 0 is to become queue memory and holds a dirty proxy line, which goes back to its home slice, that of quad 96 on the
next die. There way 0 alone takes lines, and its dirty line of the set is displaced to a neighbour; the directory entry that this
takes evicts region 0's, and the dirty copy of line 0 in core 384 goes back to the slice of quad 0, which holds the line in way 1. -/
def roleChanger : State :=
  let proxied := (2 ^ 30 + 2 ^ 29 + 2 ^ 20 + 2 ^ 19) / 64
  let displaced := (2 ^ 30 + 2 ^ 20) / 64
  { State.reset with
    time := 100
    ev := { w := 3 }
    regions := [(0, 1), (1, 2)]
    cores := [(384, { l1d := [(0, true)] })]
    quads := [
      (0, { ways := [(3, { next := some 1, st := 2 })]
            lines := [(0, ⟨.home, false, 1, 0, 0⟩), (proxied, ⟨.proxy, true, 3, 0, 0⟩)] }),
      (96, { ways := (span 1 15).map (fun w => (w, { st := 1 }))
             lines := [(displaced, ⟨.home, true, 0, 0, 0⟩)]
             filter := [(0, [0])]
             dir := (List.range 16).map (fun j => (512 * j, if j = 0 then { sharers := [0], incs := [(96, 0)] } else {})) })] }

theorem roleChanger_touches : ∃ t, exec .roleChangeDone roleChanger = .next t ∧ (Tab.get (t.quad 0).ways 1 {}).last = 100 :=
  ⟨_, rfl, by decide⟩

/-- Refutes O43: at the end of a way's change of role the other ways need not be as they were: writing back the lines of way 3 has
used a line in way 1, whose idle time starts again (R45). -/
theorem not_storagePower : ¬ Obligations.StoragePower := by
  unfold Obligations.StoragePower
  rintro ⟨-, -, -, -, hrole, -⟩
  obtain ⟨t, ht, -, -, hways, -⟩ := hrole roleChanger 1 rfl (by decide)
  obtain ⟨u, hu, hlast⟩ := roleChanger_touches
  obtain rfl := Host.Outcome.next.inj (ht.symm.trans hu)
  rw [show (t.quad 0).ways = _ from hways] at hlast
  exact absurd hlast (by decide)

/-! ### A format register that is marked valid with a width above 8 (R195, R196) -/

/-- A tile of one element of type 12, whose format is that of format register 0. -/
def narrowTile : TileEntry := { v := true, ty := 12, ngr := 1, rows := 1, cols := 1 }

/-- A hart whose format register 0 has V = 1 and W = 15, and whose x registers hold 256. No write leaves such a register (R196), but
the statement asks of a register no more than V = 1. -/
def wideStorer : State :=
  { State.reset with
    harts := [(0, { x := Vector.replicate 32 { val := 256 }, fmt := #v[0x800000000000000F#64, 0, 0, 0] })]
    quads := [(0, { part := some 0, tiles := [(0, narrowTile)], banks := [(0, { st := 2 })] })] }

theorem wideStorer_truncates : ∃ u, exec (.tst 12 0 0 1) wideStorer = .next u ∧ u.tileBits ⟨0, 0, narrowTile⟩ 0 8 = 0 :=
  ⟨_, rfl, by decide⟩

/-- Refutes O25: an element's container has 8 bits whatever W a format register holds, so TST of 256 under W = 15 stores 0, where the
statement wants 256 back. -/
theorem not_tilesUsed : ¬ Obligations.TilesUsed := by
  unfold Obligations.TilesUsed
  rintro ⟨-, -, hstore, -⟩
  obtain ⟨u, hu, hbits, -⟩ := hstore wideStorer 12 0 0 1 ⟨0, 0, narrowTile⟩ (by decide) (by decide) (by decide)
  obtain ⟨t, ht, hzero⟩ := wideStorer_truncates
  obtain rfl := Host.Outcome.next.inj (hu.symm.trans ht)
  exact absurd (hbits.symm.trans hzero) (by decide)

end Sys2Proof.Machine
end

section
/-!
SUPPORT. The registers of the MMIO window after reset, and the statement about reset.
-/
namespace Sys2Proof.Machine

/-- Two-bit fields that are all 0, gathered. -/
theorem gather2_zero {n : Nat} {f : Nat → Nat} (h : ∀ i, i < n → f i = 0) : gather2 n f = 0 := by
  unfold gather2
  have step : ∀ l : List Nat, (∀ i ∈ l, f i = 0) → l.foldl (fun acc i => acc + f i % 4 * 4 ^ i) 0 = 0 := by
    intro l hl
    induction l with
    | nil => rfl
    | cons i l ih =>
      rw [List.foldl_cons, hl i List.mem_cons_self]
      simpa using ih (fun j hj => hl j (List.mem_cons_of_mem _ hj))
  exact step _ (fun i hi => h i (List.mem_range.mp hi))

/-- Every way of a quad after reset is in the cache role. -/
theorem Quad.role_reset {w : Nat} (h : w < 16) : Quad.role {} w = 0 := by
  unfold Quad.role
  rw [if_neg (by show ¬ 16 ≤ w + 0; omega)]
  rfl

theorem Queue.word_reset (w : Nat) : Queue.word {} w = 0 := by
  unfold Queue.word
  split <;> rfl

theorem State.reset_quadRegs (q : Nat) :
    State.reset.regValue (.bankst q) = 0 ∧ State.reset.regValue (.ways q) = 0 ∧ State.reset.regValue (.phases q) = 0 ∧
    State.reset.regValue (.reserve q) = 0 := by
  refine ⟨gather2_zero fun _ _ => rfl, ?_, ?_, ?_⟩
  · show gather2 16 (fun w => Quad.role {} w) * 2 ^ 32 + gather2 16 (fun w => (Tab.get ({} : Quad).ways w {}).st) = 0
    rw [gather2_zero (fun w h => Quad.role_reset h),
      gather2_zero (f := fun w => (Tab.get ({} : Quad).ways w {}).st) (fun _ _ => rfl), Nat.zero_mul]
  · show Quad.spWays {} * 2 ^ 12 + ({} : Quad).swr * 2 ^ 5 + State.reset.dph * 4 + ({} : Quad).qph = 0
    decide
  · show ({} : Quad).rslot * 2 ^ 9 + ({} : Quad).rgran = 0
    decide

theorem State.reset_sweepRegs (d : Nat) : State.reset.regValue (.epoch d) = 0 ∧ State.reset.regValue (.sweep d) = 0 := by
  constructor
  · show (0#32).toNat * 2 ^ 32 + (0#32).toNat = 0
    decide
  · show bitNat false * 2 ^ 63 + 0 * 2 ^ 32 + (0#32).toNat = 0
    decide

theorem State.reset_tileReg (q k : Nat) (b : Bool) : State.reset.regValue (.tile q k b) = 0 := by
  show (if b then TileEntry.word1 {} else TileEntry.word0 {}) = 0
  cases b <;> decide

theorem Hart.reset_fmts : Hart.fmts {} = [0x8000000000107698, 0x800000000000F4B8, 0x8000000000203476, 0x8000000000201254] := rfl

/-- Settles O53: every table is empty after reset, so each value is the one its record starts with. -/
theorem resetState : Obligations.ResetState := by
  unfold Obligations.ResetState
  intro s
  refine ⟨rfl, rfl, rfl, fun h => ⟨Hart.reset_fmts, rfl, rfl, rfl, rfl, rfl, rfl, fun r => ?_⟩, fun p => ⟨rfl, rfl, rfl⟩,
    fun q => ?_, by decide, by decide, by decide, fun k w => Queue.word_reset w, State.reset_sweepRegs,
    fun p => ⟨rfl, rfl, rfl⟩, fun a => ⟨rfl, rfl⟩, State.reset_memCanonical⟩
  · show Hart.xv {} r = 0
    simp [Hart.xv, getReg]
  · obtain ⟨hbanks, hways, hphases, hreserve⟩ := State.reset_quadRegs q
    exact ⟨hbanks, hways, hphases, hreserve, rfl, rfl, rfl, State.reset_tileReg q⟩

end Sys2Proof.Machine
end

section
/-!
SUPPORT. What work at slices, groups and preloads leaves of harts, queues, yielded tasks and tiles, and what becomes of the harts of a
partition one by one.
-/
namespace Sys2Proof.Machine

/-! ### Work that leaves harts, queues and tiles -/

/-- A state that differs from another neither in its harts, queues and yielded tasks nor in the tiles of a quad. -/
structure Aside (s t : State) : Prop where
  harts : t.harts = s.harts
  queues : t.queues = s.queues
  yielded : t.yielded = s.yielded
  tiles : ∀ q, (t.quad q).tiles = (s.quad q).tiles

theorem Aside.refl (s : State) : Aside s s := ⟨rfl, rfl, rfl, fun _ => rfl⟩

theorem Aside.trans {s t u : State} (a : Aside s t) (b : Aside t u) : Aside s u :=
  ⟨b.harts.trans a.harts, b.queues.trans a.queues, b.yielded.trans a.yielded, fun q => (b.tiles q).trans (a.tiles q)⟩

theorem Aside.hart {s t : State} (a : Aside s t) (h : Nat) : t.hart h = s.hart h := by
  unfold State.hart
  rw [a.harts]

theorem Aside.foldl {α : Type} {f : State → α → State} (h : ∀ s x, Aside s (f s x)) (l : List α) (s : State) : Aside s (l.foldl f s) := by
  induction l generalizing s with
  | nil => exact .refl s
  | cons x l ih => exact (h s x).trans (ih _)

/-- An update of quads that keeps their tiles. -/
theorem Aside.updQuad (s : State) (q : Nat) (f : Quad → Quad) (h : (f (s.quad q)).tiles = (s.quad q).tiles) : Aside s (s.updQuad q f) := by
  refine ⟨rfl, rfl, rfl, fun k => ?_⟩
  by_cases hk : k = q
  · subst hk
    rw [State.quad_updQuad, h]
  · rw [State.quad_updQuad_other _ _ _ _ hk]

theorem Aside.updDie (s : State) (d : Nat) (f : Die → Die) : Aside s (s.updDie d f) := ⟨rfl, rfl, rfl, fun _ => rfl⟩
theorem Aside.updPart (s : State) (p : Nat) (f : Part → Part) : Aside s (s.updPart p f) := ⟨rfl, rfl, rfl, fun _ => rfl⟩
theorem Aside.emit (s : State) (o : Out) : Aside s (s.emit o) := ⟨rfl, rfl, rfl, fun _ => rfl⟩

theorem Cached.aside {s t : State} (h : Cached s t) : Aside s t where
  harts := by rw [h.rest]
  queues := by rw [h.rest]
  yielded := by rw [h.rest]
  tiles q := by rw [h.quad q]; rfl

theorem State.logError_aside (s : State) (q : Nat) (e : ErrRec) : Aside s (s.logError q e) := by
  unfold State.logError
  have ht : Aside s (s.updQuad q (fun a => if a.errs.length < 15 then { a with errs := a.errs ++ [e] } else { a with ovf := true })) := by
    refine .updQuad s q _ ?_
    split <;> rfl
  dsimp only
  split
  · exact ht
  · exact ht.trans (.updPart ..)

theorem State.regReadEffect_aside (s : State) (r : MReg) : Aside s (s.regReadEffect r) := by
  unfold State.regReadEffect
  split
  · exact .updQuad _ _ _ rfl
  · exact ⟨rfl, rfl, rfl, fun _ => rfl⟩
  · exact .refl s

theorem State.mmioRead_aside (s : State) (pa n : Nat) : Aside s (s.mmioRead pa n).2 := by
  unfold State.mmioRead
  split
  · exact .refl s
  · exact State.regReadEffect_aside ..

/-- A fold over a pair whose second half is the state. -/
theorem Aside.foldlSnd {α β : Type} {f : β × State → α → β × State} (h : ∀ p x, Aside p.2 (f p x).2) (l : List α) (p : β × State) :
    Aside p.2 (l.foldl f p).2 := by
  induction l generalizing p with
  | nil => exact .refl _
  | cons x l ih => exact (h p x).trans (ih _)

theorem State.readSpan_aside (s : State) (key pa n : Nat) : Aside s (s.readSpan key pa n).2 := by
  unfold State.readSpan
  split
  · exact (State.mmioRead_aside s _ _).trans
      (Aside.foldlSnd (f := fun (acc : List Byte × State) (p : Nat × Nat) =>
        let u := acc.2.mmioRead p.1 p.2
        (acc.1 ++ leBytes p.2 u.1, u.2)) (fun p x => State.mmioRead_aside p.2 x.1 x.2) _ (_, _))
  · exact .refl s

/-! ### Groups -/

theorem State.sendSnoop_aside (s : State) (who line : Nat) (inv : Bool) : Aside s (s.sendSnoop who line inv) := by
  unfold State.sendSnoop
  split
  · exact .refl s
  · exact ⟨rfl, rfl, rfl, fun _ => rfl⟩

theorem State.sourceWaits_aside {s t : State} {r : GReq} (h : s.sourceWaits r = some t) : Aside s t := by
  unfold State.sourceWaits at h
  dsimp only at h
  split at h
  · cases h
    exact .refl s
  · split at h
    · cases h
    · cases h
      exact Aside.foldl (fun u l => State.sendSnoop_aside u ..) _ s

theorem State.readSource_aside (s : State) (r : GReq) (users : List GReq) : Aside s (s.readSource r users).2.2 := by
  unfold State.readSource
  extract_lets t d
  have ht : Aside s t :=
    Aside.trans (t := { s with bisnps := s.bisnps.filter (fun b => b.who != r.who) }) ⟨rfl, rfl, rfl, fun _ => rfl⟩
      (State.reach_cached ..).aside
  have hd : Aside s d.2 := ht.trans (Aside.foldlSnd (f := fun (acc : List Byte × State) (p : MemPart) =>
    let u := acc.2.readSpan p.key p.pa p.n
    (acc.1 ++ u.1, u.2)) (fun p x => State.readSpan_aside p.2 ..) r.pages ([], t))
  split
  · exact hd
  · exact hd.trans (Aside.foldl (fun u x => State.logError_aside u ..) users _)

theorem State.releaseLoad_aside (s : State) (o : OpenLoad) (tmo : Bool) : Aside s (s.releaseLoad o tmo) := by
  unfold State.releaseLoad
  dsimp only
  split
  · exact ⟨rfl, rfl, rfl, fun _ => rfl⟩
  · split
    · exact State.sourceWaits_aside ‹_›
    · exact (State.readSource_aside s _ _).trans ⟨rfl, rfl, rfl, fun _ => rfl⟩

theorem State.tryRelease_aside (s : State) (o : OpenLoad) : Aside s (s.tryRelease o) := by
  unfold State.tryRelease
  split
  · exact State.releaseLoad_aside ..
  · split
    · exact State.releaseLoad_aside ..
    · exact .refl s

theorem State.leaveGroup_aside (s : State) (d g p h : Nat) (task : BitVec 32) : Aside s (s.leaveGroup d g p h task) := by
  unfold State.leaveGroup
  split
  · exact .refl s
  · extract_lets t hit unasked opens
    have ht : Aside s { t with opens := opens } := ⟨rfl, rfl, rfl, fun _ => rfl⟩
    exact ht.trans (Aside.foldl State.tryRelease_aside _ _)

theorem State.leaveGroups_aside (s : State) (h : Nat) (task : BitVec 32) : Aside s (s.leaveGroups h task) :=
  Aside.foldl (fun t _ => State.leaveGroup_aside t ..) _ s

theorem State.releaseAll_aside (s : State) (p : Nat) : Aside s (s.releaseAll p) := Aside.foldl (fun t _ => State.releaseLoad_aside t ..) _ s

/-! ### Banks, ways and preloads -/

@[simp] theorem Quad.wakeWay_tiles (a : Quad) (now w : Nat) : (a.wakeWay now w).tiles = a.tiles := by
  unfold Quad.wakeWay
  split <;> rfl

/-- A fold of changes to a quad each of which keeps a field of it. -/
theorem Quad.foldl_field {α β : Type} {f : Quad → α → Quad} {g : Quad → β} (h : ∀ a x, g (f a x) = g a) (l : List α) (a : Quad) :
    g (l.foldl f a) = g a := by
  induction l generalizing a with
  | nil => rfl
  | cons x l ih => exact (ih _).trans (h a x)

/-- Releasing banks changes the banks alone. -/
theorem Quad.releaseBanks_rest (a : Quad) (now : Nat) (bs : List Nat) : ∃ b, a.releaseBanks now bs = { a with banks := b } := by
  refine foldl_keeps (P := fun t => ∃ b, t = { a with banks := b }) ?_ bs ⟨a.banks, rfl⟩
  rintro t k ⟨b, rfl⟩
  dsimp only
  split
  · exact ⟨b, rfl⟩
  · split
    · exact ⟨_, rfl⟩
    · exact ⟨_, rfl⟩
    · exact ⟨b, rfl⟩

/-- Releasing ways changes the ways and what they hold alone. -/
theorem Quad.releaseWays_rest (a : Quad) : ∃ l w, a.releaseWays = { a with lines := l, ways := w } := by
  refine foldl_keeps (P := fun t => ∃ l w, t = { a with lines := l, ways := w }) ?_ (List.range 4) ⟨a.lines, a.ways, rfl⟩
  rintro t k ⟨l, w, rfl⟩
  dsimp only
  split
  · exact ⟨_, _, rfl⟩
  · exact ⟨l, w, rfl⟩

theorem State.discard_aside (s : State) (p : Preload) : Aside s (s.discard p) := by
  unfold State.discard
  dsimp only
  split
  · exact .updDie ..
  · refine (Aside.updDie s _ _).trans (.updQuad _ _ _ ?_)
    obtain ⟨b, hb⟩ := Quad.releaseBanks_rest (State.quad (s.updDie _ _) (quadOf p.hart)) s.time (runBanks _ _)
    rw [hb]

theorem State.claimReserve_aside (s : State) (q : Nat) : Aside s (s.claimReserve q) := by
  refine .updQuad s q _ (Quad.foldl_field (g := Quad.tiles) (fun a w => ?_) (List.range 16) (s.quad q))
  split
  · exact Quad.wakeWay_tiles ..
  · rfl

/-! ### A hart's instruction and task -/

/-- A hart that stands at the same instruction of the same task, with the same supervisor's registers. -/
structure Hart.SameSlot (a b : Hart) : Prop where
  pc : b.pc = a.pc
  task : b.task = a.task
  csr : b.csr = a.csr

theorem Hart.SameSlot.refl (a : Hart) : a.SameSlot a := ⟨rfl, rfl, rfl⟩
theorem Hart.SameSlot.trans {a b c : Hart} (h : a.SameSlot b) (k : b.SameSlot c) : a.SameSlot c :=
  ⟨k.pc.trans h.pc, k.task.trans h.task, k.csr.trans h.csr⟩

theorem Hart.SameSlot.foldl {α : Type} {f : Hart → α → Hart} (h : ∀ (a : Hart) x, a.SameSlot (f a x)) (l : List α) (a : Hart) :
    a.SameSlot (l.foldl f a) := by
  induction l generalizing a with
  | nil => exact .refl a
  | cons x l ih => exact (h a x).trans (ih _)

theorem Hart.presX_slot (a : Hart) (r : Reg) (p : Presence) : a.SameSlot (a.presX r p) := by
  unfold Hart.presX
  split <;> exact ⟨rfl, rfl, rfl⟩

theorem Hart.setPres_slot (a : Hart) (fl : RFile) (r : Nat) (p : Presence) : a.SameSlot (a.setPres fl r p) := by
  cases fl
  · exact Hart.presX_slot ..
  · exact ⟨rfl, rfl, rfl⟩
  · exact ⟨rfl, rfl, rfl⟩

theorem Hart.unclaim_slot (a : Hart) : a.SameSlot a.unclaim :=
  (Hart.SameSlot.foldl (fun b (_ : RFile × Nat × Presence) => Hart.setPres_slot b ..) a.claimed a).trans ⟨rfl, rfl, rfl⟩

theorem Hart.land_slot (a : Hart) (l : Late) : a.SameSlot (a.land l) := by
  unfold Hart.land
  split
  · split <;> exact ⟨rfl, rfl, rfl⟩
  · exact ⟨rfl, rfl, rfl⟩
  · exact .refl a

theorem Hart.unparkOn_slot (a : Hart) (fl : RFile) (r g : Nat) : a.SameSlot (a.unparkOn fl r g) := by
  rw [Hart.unparkOn_rest]
  exact ⟨rfl, rfl, rfl⟩

/-! ### Changes to one hart after another -/

/-- A change of a state that concerns one hart: its instruction and task stay, `P` holds of it afterwards, and no other hart changes. -/
structure OneHart (f : State → Nat → State) (P : Hart → Prop) : Prop where
  slot : ∀ (s : State) (h : Nat), (s.hart h).SameSlot ((f s h).hart h)
  holds : ∀ (s : State) (h : Nat), P ((f s h).hart h)
  other : ∀ (s : State) (h j : Nat), j ≠ h → (f s h).hart j = s.hart j

/-- Such a change for each hart of a list. -/
theorem OneHart.foldl {f : State → Nat → State} {P : Hart → Prop} (k : OneHart f P) (l : List Nat) (s : State) :
    (∀ h ∈ l, (s.hart h).SameSlot ((l.foldl f s).hart h) ∧ P ((l.foldl f s).hart h)) ∧ ∀ h, h ∉ l → (l.foldl f s).hart h = s.hart h := by
  induction l generalizing s with
  | nil => exact ⟨fun h hh => absurd hh List.not_mem_nil, fun _ _ => rfl⟩
  | cons x l ih =>
    obtain ⟨hin, hout⟩ := ih (f s x)
    simp only [List.foldl_cons]
    refine ⟨fun h hh => ?_, fun h hh => ?_⟩
    · by_cases hl : h ∈ l
      · refine ⟨Hart.SameSlot.trans ?_ (hin h hl).1, (hin h hl).2⟩
        by_cases hx : h = x
        · subst hx
          exact k.slot s h
        · rw [k.other s x h hx]
          exact .refl _
      · obtain rfl := (List.mem_cons.mp hh).resolve_right hl
        rw [hout h hl]
        exact ⟨k.slot s h, k.holds s h⟩
    · rw [hout h (fun hl => hh (List.mem_cons_of_mem _ hl)), k.other s x h (fun hx => hh (hx ▸ List.mem_cons_self))]

end Sys2Proof.Machine
end

section
/-!
SUPPORT. A partition that stops and one that resumes (R57, R143, R165, R189, R382): what becomes of its harts.
-/
namespace Sys2Proof.Machine

/-! ### Changes to one hart, put together -/

theorem OneHart.id : OneHart (fun s _ => s) (fun _ => True) := ⟨fun _ _ => .refl _, fun _ _ => trivial, fun _ _ _ _ => rfl⟩

/-- A change of the hart's own record. -/
theorem OneHart.updHart {f : Nat → Hart → Hart} {P : Hart → Prop} (hf : ∀ h (a : Hart), a.SameSlot (f h a)) (hp : ∀ h a, P (f h a)) :
    OneHart (fun s h => s.updHart h (f h)) P where
  slot s h := by
    rw [State.hart_updHart]
    exact hf h _
  holds s h := by
    rw [State.hart_updHart]
    exact hp h _
  other _ h _ n := State.hart_updHart_other _ h _ _ n

theorem OneHart.comp {f g : State → Nat → State} {P Q : Hart → Prop} (k : OneHart f P) (m : OneHart g Q) :
    OneHart (fun s h => g (f s h) h) Q where
  slot s h := (k.slot s h).trans (m.slot _ h)
  holds s h := m.holds _ h
  other s h j n := (m.other _ h j n).trans (k.other s h j n)

/-- What leaves every hart may follow. -/
theorem OneHart.aside {f g : State → Nat → State} {P : Hart → Prop} (k : OneHart f P) (e : ∀ s h, (g s h).harts = s.harts) :
    OneHart (fun s h => g (f s h) h) P := by
  have he : ∀ s h j, (g s h).hart j = s.hart j := fun s h j => congrArg (fun l => Tab.get l j ({} : Hart)) (e s h)
  refine ⟨fun s h => ?_, fun s h => ?_, fun s h j n => ?_⟩
  · rw [he]
    exact k.slot s h
  · rw [he]
    exact k.holds s h
  · rw [he]
    exact k.other s h j n

theorem State.cleanCore_harts (s : State) (c : Nat) : (s.cleanCore c).harts = s.harts := (State.cleanCore_cached s c).fields.1

/-! ### Leaving a park -/

theorem State.withdrawPop_oneHart : OneHart State.withdrawPop (fun _ => True) := by
  have h : ∀ (s : State) (h : Nat), (∃ f : Hart → Hart, (∀ a : Hart, a.SameSlot (f a)) ∧ (s.withdrawPop h).harts = (s.updHart h f).harts) ∨
      (s.withdrawPop h).harts = s.harts := by
    intro s h
    unfold State.withdrawPop
    dsimp only
    split
    · exact .inl ⟨fun a => { a with vq := a.vq.dropLast }, fun _ => ⟨rfl, rfl, rfl⟩, rfl⟩
    · split <;> exact .inr rfl
  refine ⟨fun s k => ?_, fun _ _ => trivial, fun s k j n => ?_⟩
  · unfold State.hart
    rcases h s k with ⟨f, hf, e⟩ | e
    · rw [e, show Tab.get (s.updHart k f).harts k {} = f (s.hart k) from State.hart_updHart ..]
      exact hf _
    · rw [e]
      exact .refl _
  · unfold State.hart
    rcases h s k with ⟨f, -, e⟩ | e
    · rw [e]
      exact State.hart_updHart_other s k j f n
    · rw [e]

theorem State.undoAlloc_oneHart : OneHart State.undoAlloc (fun _ => True) := by
  have hupd : OneHart (fun s h => s.updHart h (fun a => { a with park := none })) (fun _ => True) :=
    .updHart (fun _ _ => ⟨rfl, rfl, rfl⟩) (fun _ _ => trivial)
  refine ⟨fun s h => ?_, fun _ _ => trivial, fun s h j n => ?_⟩
  · unfold State.undoAlloc
    dsimp only
    split
    · exact .refl _
    · exact hupd.slot (s.updQuad _ _) h
  · unfold State.undoAlloc
    dsimp only
    split
    · rfl
    · exact hupd.other (s.updQuad _ _) h j n

theorem OneHart.ite {f g : State → Nat → State} {P : Hart → Prop} (c : State → Nat → Prop) [∀ s h, Decidable (c s h)] (k : OneHart f P)
    (m : OneHart g P) : OneHart (fun s h => if c s h then f s h else g s h) P := by
  refine ⟨fun s h => ?_, fun s h => ?_, fun s h j n => ?_⟩ <;> split
  · exact k.slot s h
  · exact m.slot s h
  · exact k.holds s h
  · exact m.holds s h
  · exact k.other s h j n
  · exact m.other s h j n

/-- What a parked instruction of hart `h` has sent goes. -/
def State.dropSent (t : State) (h : Nat) : State :=
  { t with
    greqs := t.greqs.filter (fun r => !(r.hart == h && !r.accepted))
    shoots := t.shoots.map (fun (x : Shootdown) => if x.hart = some h then { x with hart := none } else x)
    rwrites := t.rwrites.filter (fun w => w.wake || w.src != h)
    waiters := t.waiters.filter (fun w => w.hart != h)
    queues := t.queues.map (fun (q : Nat × Queue) => (q.1, { q.2 with waiters := q.2.waiters.filter (fun w => w.hart != h) })) }

theorem State.withdraw_oneHart : OneHart State.withdraw (fun _ => True) :=
  ((OneHart.ite (fun s h => (s.hart h).park = some .pop) State.withdrawPop_oneHart
    (OneHart.ite (fun s h => (s.hart h).park = some .talloc) State.undoAlloc_oneHart OneHart.id)).aside (g := State.dropSent)
      (fun _ _ => rfl)).comp
    (OneHart.updHart (f := fun _ a => { a.unclaim with park := none }) (fun _ a => (Hart.unclaim_slot a).trans ⟨rfl, rfl, rfl⟩)
      (fun _ _ => trivial))

theorem State.leavePark_oneHart : OneHart State.leavePark (fun _ => True) :=
  .ite (fun s h => ((s.hart h).park.isSome && (s.hart h).canLeave) = true) State.withdraw_oneHart .id

/-! ### Stopping -/

/-- A hart's late results land. -/
def Hart.landAll (a : Hart) : Hart := a.late.foldl (fun (x : Hart) (l : Late) => (Hart.land x l).unparkOn l.file l.reg.toNat 1) a

theorem Hart.landAll_slot (a : Hart) : a.SameSlot a.landAll :=
  .foldl (fun b l => (Hart.land_slot b l).trans (Hart.unparkOn_slot ..)) a.late a

/-- A hart without a reservation and without a late result that it is owed. -/
def Hart.Stopped (a : Hart) : Prop := a.resv = none ∧ a.late = []

theorem State.stopHart_oneHart : OneHart State.stopHart Hart.Stopped :=
  (State.leavePark_oneHart.comp
    (OneHart.updHart (f := fun _ b => Hart.acquired { b.landAll with late := [], resv := none })
      (fun _ a => (Hart.landAll_slot a).trans ⟨rfl, rfl, rfl⟩) (fun _ _ => ⟨rfl, rfl⟩))).aside (g := fun s h => s.cleanCore (coreOf h))
    (fun s h => State.cleanCore_harts s (coreOf h))

/-- The preloads of a partition that stops go. -/
theorem State.discardOf_aside (s : State) (p : Nat) (l : List Preload) :
    Aside s (l.foldl (fun v x => if (v.queue x.queue).part = p then v.discard x else v) s) :=
  .foldl (fun v x => by
    split
    · exact State.discard_aside v x
    · exact .refl v) l s

/-- What a partition that stops leaves of the harts is what stopping them one by one leaves. -/
theorem State.stopPart_spec (s : State) (p : Nat) (h : (s.prt p).stopped = false) :
    ((s.stopPart p).prt p).stopped = true ∧ ∀ k, (s.stopPart p).hart k = ((s.partHarts p).foldl State.stopHart s).hart k := by
  unfold State.stopPart
  rw [if_neg (by simp [h])]
  extract_lets t u v
  refine ⟨by rw [State.prt_updPart], fun k => ?_⟩
  have huv : Aside t v := (State.releaseAll_aside t p).trans (State.discardOf_aside u p _)
  have hclaim : Aside v ((v.quadsOf p).foldl State.claimReserve v) := .foldl State.claimReserve_aside _ v
  exact (huv.trans hclaim).hart k

theorem partitionStop_steps (s : State) :
    let p := s.ev.p
    ((s.prt p).stopped = true → exec .partitionStop s = .next s) ∧
    ((s.prt p).stopped = false →
      ∃ t, exec .partitionStop s = .next t ∧ (t.prt p).stopped = true ∧ t.mem = s.mem ∧ t.tmem = s.tmem ∧
        (∀ h ∈ s.partHarts p, (t.hart h).resv = none ∧ (t.hart h).late = [] ∧ (t.hart h).pc = (s.hart h).pc ∧
          (t.hart h).task = (s.hart h).task ∧ (t.hart h).csr = (s.hart h).csr) ∧
        (∀ h, h ∉ s.partHarts p → t.hart h = s.hart h)) := by
  intro p
  refine ⟨fun h => ?_, fun h => ?_⟩
  · show Host.Outcome.next (s.stopPart p) = _
    unfold State.stopPart
    rw [if_pos h]
  · obtain ⟨hstop, hhart⟩ := State.stopPart_spec s p h
    obtain ⟨hin, hout⟩ := State.stopHart_oneHart.foldl (s.partHarts p) s
    have hkept : Kept false false s (s.stopPart p) := (Kept.refl s).stopPart
    refine ⟨_, rfl, hstop, hkept.mem_eq, hkept.tmem_eq, fun k hk => ?_, fun k hk => ?_⟩
    · obtain ⟨hslot, hresv, hlate⟩ := hin k hk
      rw [hhart k]
      exact ⟨hresv, hlate, hslot.pc, hslot.task, hslot.csr⟩
    · rw [hhart k]
      exact hout k hk

/-! ### Resuming -/

theorem Hart.saved_slot (a : Hart) : a.SameSlot a.saved := by
  obtain ⟨hpc, htask, hcsr⟩ := Hart.SameSlot.foldl Hart.land_slot a.late a
  unfold Hart.saved
  constructor <;> dsimp only <;> assumption

theorem Hart.resume_slot (a : Hart) (now clk : Nat) : a.SameSlot (a.resume now clk) := by
  obtain ⟨hpc, htask, hcsr⟩ := Hart.saved_slot a
  unfold Hart.resume Hart.acquired
  constructor <;> dsimp only <;> assumption

/-- A hart whose saved commands run first, without a slide buffer and without a reservation. -/
def Hart.Resumed (a : Hart) : Prop := a.resuming = true ∧ a.slide = none ∧ a.resv = none

theorem Hart.resume_resumed (a : Hart) (now clk : Nat) : (a.resume now clk).Resumed := ⟨rfl, rfl, rfl⟩

/-- A hart of a partition resumes at a time, at its quad's clock. -/
def State.resumeHart (now : Nat) (clk : Nat → Nat) (t : State) (h : Nat) : State :=
  (t.updHart h (fun a => a.resume now (clk (quadOf h)))).cleanCore (coreOf h)

theorem State.resumeHart_oneHart (now : Nat) (clk : Nat → Nat) : OneHart (State.resumeHart now clk) Hart.Resumed :=
  (OneHart.updHart (f := fun h a => a.resume now (clk (quadOf h))) (fun _ a => Hart.resume_slot a _ _)
    (fun _ a => Hart.resume_resumed a _ _)).aside (g := fun s h => s.cleanCore (coreOf h)) (fun s h => State.cleanCore_harts s (coreOf h))

theorem partitionResume_steps (s : State) :
    let p := s.ev.p
    ((s.prt p).stopped = false ∨ (∃ x ∈ s.saved, x.part = p) → exec .partitionResume s = .next s) ∧
    ((s.prt p).stopped = true → (∀ x ∈ s.saved, x.part ≠ p) →
      ∃ t, exec .partitionResume s = .next t ∧ (t.prt p).stopped = false ∧ t.mem = s.mem ∧ t.tmem = s.tmem ∧
        (∀ h ∈ s.partHarts p, (t.hart h).resuming = true ∧ (t.hart h).slide = none ∧ (t.hart h).resv = none ∧
          (t.hart h).pc = (s.hart h).pc ∧ (t.hart h).task = (s.hart h).task ∧ (t.hart h).csr = (s.hart h).csr) ∧
        (∀ h, h ∉ s.partHarts p → t.hart h = s.hart h)) := by
  intro p
  have hexec : exec .partitionResume s = execPartitionResume s := rfl
  refine ⟨fun h => ?_, fun hstop hsaved => ?_⟩
  · rw [hexec]
    unfold execPartitionResume
    refine if_pos ?_
    rcases h with h | ⟨x, hx, hp⟩
    · rw [show (s.prt s.ev.p).stopped = false from h]
      rfl
    · rw [Bool.or_eq_true, List.any_eq_true]
      exact .inr ⟨x, hx, by simpa using hp⟩
  · have hany : s.saved.any (fun x => x.part == p) = false := by
      rw [List.any_eq_false]
      intro x hx
      simpa using hsaved x hx
    have hgo : exec .partitionResume s = .next (((s.partHarts p).foldl (State.resumeHart s.time s.clockOf) s).updPart p
        (fun a => { a with stopped := false })) := by
      rw [hexec]
      unfold execPartitionResume
      exact if_neg (by simp [show (s.prt s.ev.p).stopped = true from hstop, show s.saved.any (fun x => x.part == s.ev.p) = false from hany])
    have hkept := (Kept.refl (M := false) (T := false) s)
    obtain ⟨hin, hout⟩ := (State.resumeHart_oneHart s.time s.clockOf).foldl (s.partHarts p) s
    have hleads := execPartitionResume_leads hkept _ (hexec.symm.trans hgo)
    refine ⟨_, hgo, by rw [State.prt_updPart], hleads.mem_eq, hleads.tmem_eq, fun k hk => ?_, hout⟩
    obtain ⟨hslot, hres, hslide, hresv⟩ := hin k hk
    exact ⟨hres, hslide, hresv, hslot.pc, hslot.task, hslot.csr⟩

end Sys2Proof.Machine
end

section
/-!
SUPPORT. What idle states and phases leave of a quad (R52, R399), and a quad that passes to another partition (R38, R43, R57, R336).
-/
namespace Sys2Proof.Machine

/-! ### Tables and memory without some entries -/

theorem Tab.get_filter {α : Type} (t : Tab α) (p : Nat → Bool) (k : Nat) (d : α) :
    Tab.get (t.filter (fun e => p e.1)) k d = if p k then Tab.get t k d else d := by
  induction t with
  | nil => simp [Tab.get]
  | cons x t ih =>
    obtain ⟨j, a⟩ := x
    by_cases hj : p j
    · by_cases hk : j = k
      · subst hk
        simp [hj, Tab.get]
      · simp [hj, Tab.get, hk, ih]
    · by_cases hk : j = k
      · subst hk
        simp [hj, ih]
      · simp [hj, Tab.get, hk, ih]

theorem Memory.read_filter (m : Memory) (p : Nat → Bool) (a : Nat) :
    Memory.read (m.filter (fun c => p c.1)) a = if p a then m.read a else 0 := by
  have h : ∀ m : Memory, m.read a = Tab.get m a 0 := by
    intro m
    induction m with
    | nil => rfl
    | cons x t ih =>
      obtain ⟨j, b⟩ := x
      simp only [Memory.read, Tab.get, ih]
  rw [h, h, Tab.get_filter]

/-- Entries that a test picks changed. -/
theorem Tab.get_map_if {α : Type} (t : Tab α) (c : Nat × α → Prop) [DecidablePred c] (f : α → α) (k : Nat) (d : α) (hd : ¬ c (k, d)) :
    Tab.get (t.map (fun e => if c e then (e.1, f e.2) else e)) k d =
      if c (k, Tab.get t k d) then f (Tab.get t k d) else Tab.get t k d := by
  have hf : (fun e : Nat × α => if c e then (e.1, f e.2) else e) = fun e => (e.1, if c e then f e.2 else e.2) := by
    funext e
    split <;> rfl
  rw [hf]
  exact Tab.get_map_default t (fun e => if c e then f e.2 else e.2) k d (if_neg hd)

/-! ### Idle states -/

theorem Quad.wakeBank_rest (a : Quad) (now k : Nat) : ∃ b, a.wakeBank now k = { a with banks := b } := by
  unfold Quad.wakeBank
  split
  · exact ⟨_, rfl⟩
  · exact ⟨a.banks, rfl⟩

theorem Quad.wakeBanks_rest (a : Quad) (now : Nat) (l : List Nat) :
    ∃ b, l.foldl (fun t k => t.wakeBank now k) a = { a with banks := b } := by
  refine foldl_keeps (P := fun t => ∃ b, t = { a with banks := b }) ?_ l ⟨a.banks, rfl⟩
  rintro t k ⟨b, rfl⟩
  obtain ⟨c, hc⟩ := Quad.wakeBank_rest { a with banks := b } now k
  exact ⟨c, hc⟩

/-- A state that differs from another in banks, idle states and interfaces alone. -/
structure Idled (s t : State) : Prop where
  rest : t = { s with quads := t.quads, dies := t.dies }
  quad : ∀ k, ∃ b i, t.quad k = { s.quad k with banks := b, idle := i }

theorem Idled.refl (s : State) : Idled s s := ⟨rfl, fun k => ⟨(s.quad k).banks, (s.quad k).idle, rfl⟩⟩

theorem Idled.trans {s t u : State} (a : Idled s t) (b : Idled t u) : Idled s u := by
  refine ⟨b.rest.trans (by rw [a.rest]), fun k => ?_⟩
  obtain ⟨c, i, ha⟩ := a.quad k
  obtain ⟨d, j, hb⟩ := b.quad k
  exact ⟨d, j, by rw [hb, ha]⟩

/-- The quad's own part of leaving an idle state. -/
def Quad.raised (now n : Nat) (a : Quad) : Quad :=
  { (if n < 2 then (List.range 32).foldl (fun b k => b.wakeBank now k) a else a) with idle := n }

theorem Quad.raised_rest (a : Quad) (now n : Nat) : ∃ b, a.raised now n = { a with banks := b, idle := n } := by
  unfold Quad.raised
  split
  · obtain ⟨b, hb⟩ := Quad.wakeBanks_rest a now (List.range 32)
    exact ⟨b, by rw [hb]⟩
  · exact ⟨a.banks, rfl⟩

/-- No quad of a die stays in I3. -/
def State.endI3 (t : State) (die : Nat) : State :=
  State.updDie { t with quads := t.quads.map (fun e => if e.1 / 96 = die ∧ e.2.idle = 3 then (e.1, { e.2 with idle := 2 }) else e) } die
    (fun d => { d with gddrDown := [] })

theorem State.raiseIdle_eq (s : State) (q n : Nat) :
    s.raiseIdle q n =
      if (s.quad q).idle < 2 ∨ ¬ (span (96 * dieOfQuad q) 96).any (fun k => decide ((s.quad k).idle = 3)) then
        s.updQuad q (Quad.raised s.time n)
      else (s.updQuad q (Quad.raised s.time n)).endI3 (dieOfQuad q) := rfl

theorem State.endI3_quad (t : State) (die k : Nat) :
    (t.endI3 die).quad k = if k / 96 = die ∧ (t.quad k).idle = 3 then { t.quad k with idle := 2 } else t.quad k :=
  Tab.get_map_if t.quads (fun e => e.1 / 96 = die ∧ e.2.idle = 3) (fun a => { a with idle := 2 }) k {} (fun h => Nat.zero_ne_add_one 2 h.2)

theorem State.endI3_idled (t : State) (die : Nat) : Idled t (t.endI3 die) := by
  refine ⟨rfl, fun k => ?_⟩
  rw [State.endI3_quad]
  split
  · exact ⟨(t.quad k).banks, 2, rfl⟩
  · exact ⟨(t.quad k).banks, (t.quad k).idle, rfl⟩

theorem State.raised_idled (s : State) (q n : Nat) : Idled s (s.updQuad q (Quad.raised s.time n)) := by
  refine ⟨rfl, fun k => ?_⟩
  by_cases hk : k = q
  · subst hk
    obtain ⟨b, hb⟩ := Quad.raised_rest (s.quad k) s.time n
    exact ⟨b, n, by rw [State.quad_updQuad, hb]⟩
  · exact ⟨(s.quad k).banks, (s.quad k).idle, by rw [State.quad_updQuad_other _ _ _ _ hk]⟩

theorem State.raiseIdle_idled (s : State) (q n : Nat) : Idled s (s.raiseIdle q n) := by
  rw [State.raiseIdle_eq]
  split
  · exact State.raised_idled ..
  · exact (State.raised_idled ..).trans (State.endI3_idled ..)

theorem State.limitIdle_idled (s : State) (qs : List Nat) : Idled s (s.limitIdle qs) := by
  unfold State.limitIdle
  induction qs generalizing s with
  | nil => exact .refl s
  | cons q qs ih =>
    rw [List.foldl_cons]
    refine Idled.trans ?_ (ih _)
    split
    · exact State.raiseIdle_idled ..
    · exact .refl s

theorem Idled.harts {s t : State} (h : Idled s t) : t.harts = s.harts := by rw [h.rest]
theorem Idled.parts {s t : State} (h : Idled s t) : t.parts = s.parts := by rw [h.rest]
theorem Idled.mistral {s t : State} (h : Idled s t) : t.mistral = s.mistral := by rw [h.rest]

theorem State.setPhase_idled (s : State) (n : Nat) : Idled { s with dph := n } (s.setPhase n) := State.limitIdle_idled ..

/-! ### Phases -/

/-- A quad with the same partition, tiles, matrix state and FIFOs. -/
structure Quad.SameWork (a b : Quad) : Prop where
  part : b.part = a.part
  tiles : b.tiles = a.tiles
  m : b.m = a.m
  acc : b.acc = a.acc
  fifo : b.fifo = a.fifo

theorem Quad.SameWork.refl (a : Quad) : a.SameWork a := ⟨rfl, rfl, rfl, rfl, rfl⟩
theorem Quad.SameWork.trans {a b c : Quad} (h : a.SameWork b) (k : b.SameWork c) : a.SameWork c :=
  ⟨k.part.trans h.part, k.tiles.trans h.tiles, k.m.trans h.m, k.acc.trans h.acc, k.fifo.trans h.fifo⟩

theorem Idled.sameWork {s t : State} (h : Idled s t) (k : Nat) : (s.quad k).SameWork (t.quad k) := by
  obtain ⟨b, i, e⟩ := h.quad k
  rw [e]
  exact ⟨rfl, rfl, rfl, rfl, rfl⟩

theorem Quad.wakeWay_sameWork (a : Quad) (now w : Nat) : a.SameWork (a.wakeWay now w) := by
  unfold Quad.wakeWay
  split
  · exact ⟨rfl, rfl, rfl, rfl, rfl⟩
  · exact .refl a

theorem Quad.meet_sameWork (a : Quad) (now ph : Nat) : a.SameWork (a.meet now ph) := by
  unfold Quad.meet
  refine foldl_keeps (P := fun t => a.SameWork t) (fun t w h => ?_) _ ?_
  · split
    · exact h
    · exact h.trans (Quad.wakeWay_sameWork t now w)
  · split
    · obtain ⟨b, hb⟩ := Quad.wakeBanks_rest a now (List.range 32)
      rw [hb]
      exact ⟨rfl, rfl, rfl, rfl, rfl⟩
    · exact .refl a

/-- An update of one quad that keeps its work. -/
theorem State.updQuad_sameWork (s : State) (q : Nat) (f : Quad → Quad) (h : (s.quad q).SameWork (f (s.quad q))) (k : Nat) :
    (s.quad k).SameWork ((s.updQuad q f).quad k) := by
  by_cases hk : k = q
  · subst hk
    rw [State.quad_updQuad]
    exact h
  · rw [State.quad_updQuad_other _ _ _ _ hk]
    exact .refl _

/-- A quad that meets a phase holds it. -/
def Quad.atPhase (now n : Nat) (a : Quad) : Quad := { a.meet now n with qph := n }

theorem Quad.atPhase_sameWork (a : Quad) (now n : Nat) : a.SameWork (a.atPhase now n) := by
  obtain ⟨hpart, htiles, hm, hacc, hfifo⟩ := Quad.meet_sameWork a now n
  exact ⟨hpart, htiles, hm, hacc, hfifo⟩

theorem State.lowerPhase_spec (s : State) (q : Nat) :
    (s.lowerPhase q).harts = s.harts ∧ ∀ k, (s.quad k).SameWork ((s.lowerPhase q).quad k) := by
  unfold State.lowerPhase
  dsimp only
  split
  · have h := State.setPhase_idled (s.updQuad q (Quad.atPhase s.time (s.phaseOfQuad q))) (min s.dph (s.phaseOfQuad q))
    refine ⟨h.harts, fun k => ?_⟩
    have hwork := State.updQuad_sameWork s q (Quad.atPhase s.time (s.phaseOfQuad q)) (Quad.atPhase_sameWork ..) k
    exact hwork.trans (h.sameWork k)
  · exact ⟨rfl, fun k => .refl _⟩

theorem State.repoint_sameWork (s : State) (q k : Nat) : (s.quad k).SameWork ((s.repoint q).quad k) := by
  refine State.updQuad_sameWork s q _ ?_ k
  dsimp only
  split <;> exact ⟨rfl, rfl, rfl, rfl, rfl⟩

/-! ### A quad passes to another partition -/

theorem Quad.mapBanks_sameWork (a : Quad) (map : Tab Bank) (now : Nat) : a.SameWork (a.mapBanks map now) := by
  unfold Quad.mapBanks
  refine foldl_keeps (P := fun t => a.SameWork t) (fun t b h => ?_) _ ?_
  · split
    · exact h.trans ⟨rfl, rfl, rfl, rfl, rfl⟩
    · obtain ⟨c, hc⟩ := Quad.releaseBanks_rest t now [b]
      rw [hc]
      exact h.trans ⟨rfl, rfl, rfl, rfl, rfl⟩
  · obtain ⟨l, w, h⟩ := Quad.releaseWays_rest a
    rw [h]
    exact ⟨rfl, rfl, rfl, rfl, rfl⟩

theorem TileEntry.freed_v (e : TileEntry) : e.freed.v = false := by
  unfold TileEntry.freed
  split
  · rfl
  · exact Bool.eq_false_iff.mpr ‹_›

theorem TileEntry.freed_gen {e : TileEntry} (h : e.v = true) : e.freed.gen = e.gen + 1 := by
  unfold TileEntry.freed
  rw [if_pos h]

theorem State.emptyQuad_spec (u : State) (q : Nat) :
    (u.emptyQuad q).mem = u.mem ∧
    (u.emptyQuad q).tmem = u.tmem.filter (fun c => !tileByte q c.1) ∧
    (u.emptyQuad q).harts = u.harts.filter (fun e => quadOf e.1 != q) ∧
    (u.emptyQuad q).quad q = (u.quad q).cleared := by
  unfold State.emptyQuad
  exact ⟨rfl, rfl, rfl, State.quad_updQuad ..⟩

theorem Quad.cleared_spec (a : Quad) :
    a.cleared.tiles = a.tiles.map (fun e => (e.1, e.2.freed)) ∧ a.cleared.acc = [] ∧
    a.cleared.m = Vector.replicate 4 {} ∧ a.cleared.fifo = [] := ⟨rfl, rfl, rfl, rfl⟩

/-- What a partition had on a quad is gone, in the live state and, for the partition `p`, in what was saved. -/
def State.emptied (u : State) (q p : Nat) : State :=
  { u.emptyQuad q with saved := u.saved.filter (fun x => !(x.quad == q && decide (some x.part = some p))) ++ [] }

theorem State.emptied_spec (u : State) (q p : Nat) :
    (u.emptied q p).mem = u.mem ∧
    (u.emptied q p).tmem = u.tmem.filter (fun c => !tileByte q c.1) ∧
    (u.emptied q p).harts = u.harts.filter (fun e => quadOf e.1 != q) ∧
    (u.emptied q p).quad q = (u.quad q).cleared := by
  have h := State.emptyQuad_spec u q
  unfold State.emptied
  generalize u.emptyQuad q = v at h
  exact h

/-- A quad's cores have cleaned their L1 data caches. -/
def State.cleanQuad (s : State) (q : Nat) : State := (span (4 * q) 4).foldl State.cleanCore s

/-- A quad's cores have cleaned their L1 data caches, and what its partition had on it is gone. -/
def State.vacated (s : State) (q : Nat) : State := (s.cleanQuad q).emptied q s.ev.p

/-- A quad with its banks as those of a partition that left no map. -/
def Quad.passed (p now : Nat) (a : Quad) : Quad := { a.mapBanks [] now with part := some p }

theorem Quad.SameWork.givePart {a b : Quad} (h : a.SameWork b) (p : Option Nat) : { a with part := p }.SameWork { b with part := p } :=
  ⟨rfl, h.tiles, h.m, h.acc, h.fifo⟩

theorem Quad.passed_sameWork (a : Quad) (p now : Nat) : { a with part := some p }.SameWork (a.passed p now) :=
  (Quad.mapBanks_sameWork a [] now).givePart (some p)

/-- The quad's banks start their wait, and it is the partition's. -/
def State.handed (v : State) (q p now : Nat) : State :=
  (((v.updQuad q (Quad.passed p now)).lowerPhase q).repoint q).measured

theorem State.vacated_spec (s : State) (q : Nat) :
    (s.vacated q).mem = s.mem ∧
    (∀ a, (s.vacated q).tmem.read a = if tileByte q a then 0 else s.tmem.read a) ∧
    (∀ h, (s.vacated q).hart h = if quadOf h = q then {} else s.hart h) ∧
    ((s.vacated q).quad q).tiles = (s.quad q).tiles.map (fun e => (e.1, e.2.freed)) ∧
    ((s.vacated q).quad q).acc = [] ∧ ((s.vacated q).quad q).m = Vector.replicate 4 {} ∧ ((s.vacated q).quad q).fifo = [] := by
  have hu : Cached s (s.cleanQuad q) := Cached.foldl State.cleanCore_cached _ s
  obtain ⟨hharts, hmem, htmem, -, -⟩ := hu.fields
  obtain ⟨emem, etmem, eharts, equad⟩ := State.emptied_spec (s.cleanQuad q) q s.ev.p
  obtain ⟨ctiles, cacc, cm, cfifo⟩ := Quad.cleared_spec ((s.cleanQuad q).quad q)
  rw [hu.aside.tiles q] at ctiles
  unfold State.vacated
  rw [emem, etmem, equad]
  refine ⟨hmem, fun a => ?_, fun h => ?_, ctiles, cacc, cm, cfifo⟩
  · rw [htmem, Memory.read_filter _ (fun b => !tileByte q b)]
    cases tileByte q a <;> rfl
  · rw [State.hart, eharts, hharts, Tab.get_filter _ (fun k => quadOf k != q)]
    by_cases hq : quadOf h = q <;> simp [hq, State.hart]

theorem State.handed_spec (v : State) (q p now : Nat) :
    (v.handed q p now).mem = v.mem ∧ (v.handed q p now).tmem = v.tmem ∧ (v.handed q p now).harts = v.harts ∧
    ((v.handed q p now).quad q).part = some p ∧ ((v.handed q p now).quad q).tiles = (v.quad q).tiles ∧
    ((v.handed q p now).quad q).m = (v.quad q).m ∧ ((v.handed q p now).quad q).acc = (v.quad q).acc ∧
    ((v.handed q p now).quad q).fifo = (v.quad q).fifo := by
  have hkept : Kept false false v (v.handed q p now) := (Kept.refl v).updQuad.lowerPhase.repoint.measured
  obtain ⟨hharts, hwork⟩ := State.lowerPhase_spec (v.updQuad q (Quad.passed p now)) q
  have hall := (hwork q).trans (State.repoint_sameWork ((v.updQuad q (Quad.passed p now)).lowerPhase q) q q)
  rw [State.quad_updQuad] at hall
  obtain ⟨hpart, htiles, hm, hacc, hfifo⟩ := (Quad.passed_sameWork (v.quad q) p now).trans hall
  exact ⟨hkept.mem_eq, hkept.tmem_eq, hharts, hpart, htiles, hm, hacc, hfifo⟩

/-- A quad that holds no work and whose partition runs passes to a partition that left nothing on it. -/
theorem execQuadReassign_hands {s : State} (hq : s.ev.q < Config.quads) (hp : s.ev.p < 16) (hb : s.ev.b = false)
    (hother : (s.quad s.ev.q).part ≠ some s.ev.p) (hidle : s.quadIdle s.ev.q = true) (hruns : s.quadStopped s.ev.q = false)
    (hsaved : ∀ x ∈ s.saved, ¬ (x.quad = s.ev.q ∧ x.part = s.ev.p)) :
    exec .quadReassign s = .next ((s.vacated s.ev.q).handed s.ev.q s.ev.p s.time) := by
  have hback : s.saved.find? (fun x => x.quad == s.ev.q && decide (some x.part = some s.ev.p)) = none := by
    rw [List.find?_eq_none]
    intro x hx
    simpa using hsaved x hx
  show execQuadReassign s = _
  unfold execQuadReassign
  simp only [hb, Bool.false_eq_true, if_false, hback]
  rw [if_neg (by simp [hidle, hother]; omega), hruns]
  unfold State.vacated State.handed State.emptied State.cleanQuad Quad.passed
  cases (s.quad s.ev.q).part with
  | none => with_reducible rfl
  | some p =>
    simp only [Bool.false_eq_true, if_false]

theorem quadReassign_steps (s : State) :
    let q := s.ev.q
    (s.quadIdle q = false → s.quadStopped q = false → exec .quadReassign s = .next s) ∧
    (q < Config.quads → s.ev.p < 16 → s.ev.b = false → (s.quad q).part ≠ some s.ev.p → s.quadIdle q = true → s.quadStopped q = false →
      (∀ x ∈ s.saved, ¬ (x.quad = q ∧ x.part = s.ev.p)) →
      ∃ t, exec .quadReassign s = .next t ∧ (t.quad q).part = some s.ev.p ∧ (t.quad q).acc = [] ∧
        (∀ k, let e := Tab.get (s.quad q).tiles k {}
          let e' := Tab.get (t.quad q).tiles k {}
          e'.v = false ∧ (e.v = true → e'.gen = e.gen + 1)) ∧
        (t.quad q).m = Vector.replicate 4 {} ∧ (t.quad q).fifo = [] ∧
        (∀ a, q * 2 ^ 21 ≤ a → a < (q + 1) * 2 ^ 21 → t.tmem.read a = 0) ∧
        (∀ a, (a < q * 2 ^ 21 ∨ (q + 1) * 2 ^ 21 ≤ a) → t.tmem.read a = s.tmem.read a) ∧ t.mem = s.mem ∧
        (∀ h, t.hart h = if quadOf h = q then {} else s.hart h)) := by
  intro q
  refine ⟨fun hidle hruns => ?_, fun hq hp hb hother hidle hruns hsaved => ?_⟩
  · show execQuadReassign s = _
    unfold execQuadReassign
    dsimp only
    refine if_pos (.inr (.inr (.inr (.inr ?_))))
    rw [show s.quadIdle s.ev.q = false from hidle, show s.quadStopped s.ev.q = false from hruns]
    simp
  · obtain ⟨vmem, vtmem, vhart, vtiles, vacc, vm, vfifo⟩ := State.vacated_spec s q
    obtain ⟨tmem, ttmem, tharts, hpart, htiles, hm, hacc, hfifo⟩ := State.handed_spec (s.vacated q) q s.ev.p s.time
    refine ⟨_, execQuadReassign_hands hq hp hb hother hidle hruns hsaved, hpart, hacc.trans vacc, fun k => ?_, hm.trans vm,
      hfifo.trans vfifo, fun a hlo hhi => ?_, fun a hout => ?_, tmem.trans vmem, fun h => ?_⟩
    · have he : Tab.get (((s.vacated q).handed q s.ev.p s.time).quad q).tiles k {} = (Tab.get (s.quad q).tiles k {}).freed := by
        rw [htiles, vtiles]
        exact Tab.get_map_default (s.quad q).tiles (fun e => e.2.freed) k {} rfl
      intro e e'
      rw [show e' = e.freed from he]
      exact ⟨e.freed_v, e.freed_gen⟩
    · rw [ttmem, vtmem, if_pos (by simp [tileByte]; omega)]
    · rw [ttmem, vtmem, if_neg (by simp [tileByte]; omega)]
    · exact Eq.trans (congrArg (fun l => Tab.get l h ({} : Hart)) tharts) (vhart h)

end Sys2Proof.Machine
end

section
/-!
SUPPORT. Records, preloads and tiles of tasks that go, and the steps of a function's reset (R387).
-/
namespace Sys2Proof.Machine

/-! ### Freeing tiles -/

/-- What a freed tile leaves of a quad: the tiles are those before but for the one that is freed. -/
theorem Quad.freed_tiles (s : State) (q h : Nat) :
    ((s.freeTile q h).quad q).tiles =
      if (Tab.get (s.quad q).tiles h {}).v then Tab.set (s.quad q).tiles h (Tab.get (s.quad q).tiles h {}).freed else (s.quad q).tiles := by
  unfold State.freeTile
  rw [State.quad_updQuad]
  dsimp only
  cases (Tab.get (s.quad q).tiles h {}).v with
  | false => rfl
  | true =>
    simp only [Bool.not_true, Bool.false_eq_true, if_false, if_true]
    split
    · obtain ⟨l, w, e⟩ := Quad.releaseWays_rest { s.quad q with tiles := Tab.set (s.quad q).tiles h (Tab.get (s.quad q).tiles h {}).freed }
      rw [e]
    · obtain ⟨b, e⟩ := Quad.releaseBanks_rest { s.quad q with tiles := Tab.set (s.quad q).tiles h (Tab.get (s.quad q).tiles h {}).freed }
        s.time (runBanks (Tab.get (s.quad q).tiles h {}).fgr (Tab.get (s.quad q).tiles h {}).ngr)
      rw [e]

/-- Entry `h` of quad `q` is not valid. -/
def State.Invalid (s : State) (q h : Nat) : Prop := (Tab.get (s.quad q).tiles h {}).v = false

theorem State.Invalid.congr {s t : State} {q h : Nat} (k : s.Invalid q h) (e : (t.quad q).tiles = (s.quad q).tiles) : t.Invalid q h := by
  unfold State.Invalid
  rw [e]
  exact k

theorem State.freeTile_invalid (s : State) (q h : Nat) : (s.freeTile q h).Invalid q h := by
  unfold State.Invalid
  rw [Quad.freed_tiles]
  split
  · rw [Tab.get_set_same, TileEntry.freed_v]
  · exact Bool.eq_false_iff.mpr ‹_›

theorem State.Invalid.freeTile {s : State} {q h : Nat} (k : s.Invalid q h) (r j : Nat) : (s.freeTile r j).Invalid q h := by
  by_cases hq : q = r
  · subst hq
    by_cases hj : h = j
    · subst hj
      exact State.freeTile_invalid ..
    · unfold State.Invalid
      rw [Quad.freed_tiles]
      split
      · rw [Tab.get_set_other _ _ _ _ _ hj]
        exact k
      · exact k
  · exact k.congr (congrArg Quad.tiles (State.quad_updQuad_other _ _ _ _ hq))

/-- A fold of changes that keep `P` and one of which reaches it leaves it. -/
theorem foldl_reaches {α β : Type} {f : β → α → β} {P : β → Prop} (hkeep : ∀ b x, P b → P (f b x)) {l : List α} {x : α} (hx : x ∈ l)
    (hreach : ∀ b, P (f b x)) (b : β) : P (l.foldl f b) := by
  induction l generalizing b with
  | nil => exact absurd hx List.not_mem_nil
  | cons y l ih =>
    rcases List.mem_cons.mp hx with rfl | hl
    · exact foldl_keeps hkeep l (hreach b)
    · exact ih hl _

/-! ### Denied enqueues and records -/

/-- The parked enqueues of a queue are denied. -/
def State.denyQueue (t : State) (q : Nat) : State := (t.queue q).waiters.foldl (fun u w => u.denyWaiter q w) t

/-- A function is in its reset. -/
def State.resetBegun (s : State) (f : Nat) : State :=
  { s with funcs := Tab.set s.funcs f { Tab.get s.funcs f {} with resetting := true } }

theorem State.denyAll_eq (s : State) (f : Nat) (qs : List Nat) : s.denyAll f qs = qs.foldl State.denyQueue (s.resetBegun f) := rfl

theorem State.denyQueue_funcs (t : State) (q : Nat) : (t.denyQueue q).funcs = t.funcs :=
  foldl_keeps (P := fun u : State => u.funcs = t.funcs) (f := fun u w => u.denyWaiter q w) (fun _ _ hu => hu) _ rfl

theorem State.denyAll_funcs (s : State) (f : Nat) (qs : List Nat) : (s.denyAll f qs).funcs = (s.resetBegun f).funcs :=
  foldl_keeps (P := fun t : State => t.funcs = (s.resetBegun f).funcs) (fun t q ht => (State.denyQueue_funcs t q).trans ht) qs rfl

/-- Queues without a parked enqueue: nothing is denied. -/
theorem State.denyQueues_none (qs : List Nat) (t : State) (h : ∀ q ∈ qs, (t.queue q).waiters = []) : qs.foldl State.denyQueue t = t := by
  induction qs with
  | nil => rfl
  | cons q qs ih =>
    have hq : t.denyQueue q = t := by
      unfold State.denyQueue
      rw [h q List.mem_cons_self]
      rfl
    rw [List.foldl_cons, hq]
    exact ih (fun r hr => h r (List.mem_cons_of_mem _ hr))

theorem State.denyAll_harts (s : State) (f : Nat) (qs : List Nat) (h : ∀ q ∈ qs, (s.queue q).waiters = []) :
    (s.denyAll f qs).harts = s.harts := by
  rw [State.denyAll_eq, State.denyQueues_none qs (s.resetBegun f) h]
  rfl

/-- A queue without a ring: its record goes to the log. -/
theorem State.failRecord_log (s : State) (q : Nat) (rq : Req) (ws : List Word) (h : (s.queue q).lfr = 0) :
    s.failRecord q rq ws = (true, s.logRecord q ws) := if_pos (.inl h)

theorem State.discard_out (s : State) (p : Preload) : (s.discard p).out = s.out := by
  unfold State.discard
  dsimp only
  split <;> rfl

/-- The preloads of a queued task. -/
def State.preloadsOf (s : State) (q : Nat) (t : QTask) : List Preload :=
  (s.dies.flatMap (fun d => d.2.preload)).filter (fun p => p.queue == q && p.id == t.id)

/-- A queued task of a queue without a ring goes with its record in the log. -/
theorem State.removeQueued_log (s : State) (q h : Nat) (t : QTask) (hlfr : (s.queue q).lfr = 0) :
    s.removeQueued q h t =
      let u := s.logRecord q (recordWords q t.id t.desc.key 0 2 t.desc.pc 0)
      ((u.preloadsOf q t).foldl State.discard u).updQueue q (fun a => a.leave t 0) := by
  unfold State.removeQueued
  dsimp only
  cases s.recordReq q h with
  | none => rfl
  | some rq =>
    simp only [State.failRecord_log s q rq _ hlfr]
    rfl

theorem Queue.leave_ids (a : Queue) (t : QTask) (q : Nat) : ∀ y ∈ (a.leave t q).tasks, y.id ≠ t.id := by
  intro y hy
  have := (List.mem_filter.mp hy).2
  simpa using this

theorem Kept.discards {s₀ s : State} {M T : Bool} (l : List Preload) (k : Kept M T s₀ s) : Kept M T s₀ (l.foldl State.discard s) :=
  k.foldl fun _ k₁ => k₁.discard

theorem State.removeQueued_spec (s : State) (q h : Nat) (t : QTask) (hlfr : (s.queue q).lfr = 0) :
    (s.removeQueued q h t).mem = s.mem ∧ (s.removeQueued q h t).harts = s.harts ∧
    (∀ y ∈ ((s.removeQueued q h t).queue q).tasks, y.id ≠ t.id) ∧
    (s.removeQueued q h t).out = s.out.concat (.chinookLog (BitVec.ofNat 64 (t.id.toNat * 2 ^ 32 + 2)) t.desc.pc 0
      (BitVec.ofNat 64 (t.desc.key.toNat * 2 ^ 32 + q))) := by
  rw [State.removeQueued_log s q h t hlfr]
  dsimp only
  generalize hu : s.logRecord q (recordWords q t.id t.desc.key 0 2 t.desc.pc 0) = u
  have hdiscard : Aside u ((u.preloadsOf q t).foldl State.discard u) := Aside.foldl State.discard_aside _ u
  have hkept : Kept false false s u := hu ▸ (Kept.refl s).logRecord
  refine ⟨(hkept.discards (u.preloadsOf q t)).mem_eq, ?_, ?_, ?_⟩
  · exact hdiscard.harts.trans (hu ▸ rfl)
  · rw [State.queue_updQueue]
    exact Queue.leave_ids _ t 0
  · rw [List.concat_eq_append]
    have hout := foldl_keeps (P := fun v : State => v.out = u.out) (fun v p hv => (State.discard_out v p).trans hv) (u.preloadsOf q t) rfl
    exact hout.trans (hu ▸ rfl)

/-! ### The end of a reset -/

/-- A function's transfers are stopped, and the partners of its partition's collectives hear of it. -/
def State.unlinked (s : State) (f : Nat) (qs : List Nat) : State :=
  match (Tab.get (s.abortFunc qs).funcs f {}).part with
  | none => s.abortFunc qs
  | some p => (s.abortFunc qs).abortCollectives p

/-- A change of what is sent alone. -/
theorem State.abortCollectives_rest (s : State) (p : Nat) : ∃ o, s.abortCollectives p = { s with out := o } := by
  refine foldl_keeps (P := fun t : State => ∃ o, t = { s with out := o }) (fun t e ht => ?_) s.links ⟨s.out, rfl⟩
  obtain ⟨o, rfl⟩ := ht
  split
  · exact ⟨_, rfl⟩
  · exact ⟨o, rfl⟩

theorem State.unlinked_rest (s : State) (f : Nat) (qs : List Nat) : ∃ o, s.unlinked f qs = { s.abortFunc qs with out := o } := by
  unfold State.unlinked
  split
  · exact ⟨_, rfl⟩
  · exact State.abortCollectives_rest ..

/-- A tile is scrubbed: its bytes are as new, and it is freed. -/
def State.scrubTile (u : State) (q : Nat) (x : Nat × Nat × Nat) : State :=
  State.freeTile { u with
    tmem := scrubbed u.tmem x.2.1 x.2.2, tpast := u.tpast.flatMap (cutPast x.2.1 x.2.2) } q x.1

theorem State.scrubTile_invalid (u : State) (q : Nat) (x : Nat × Nat × Nat) : (u.scrubTile q x).Invalid q x.1 :=
  State.freeTile_invalid ..

theorem State.Invalid.scrubTile {u : State} {q h : Nat} (k : u.Invalid q h) (r : Nat) (x : Nat × Nat × Nat) : (u.scrubTile r x).Invalid q h :=
  State.Invalid.freeTile (s := { u with tmem := _, tpast := _ }) k r x.1

/-- The tiles of a quad that some queues' tasks allocated are scrubbed. -/
def State.scrubQuad (qs : List Nat) (t : State) (e : Nat × Quad) : State := (e.2.tilesOf e.1 qs).foldl (fun u x => u.scrubTile e.1 x) t

theorem State.scrubTiles_eq (s : State) (qs : List Nat) :
    s.scrubTiles qs = { s.quads.foldl (State.scrubQuad qs) s with
      saved := (s.quads.foldl (State.scrubQuad qs) s).saved.map (fun x => x.scrub qs) } := rfl

theorem State.scrubTiles_harts (s : State) (qs : List Nat) : (s.scrubTiles qs).harts = s.harts := by
  rw [State.scrubTiles_eq]
  refine foldl_keeps (P := fun t : State => t.harts = s.harts) (fun t e ht => ?_) s.quads rfl
  exact foldl_keeps (P := fun u : State => u.harts = s.harts) (f := fun u x => u.scrubTile e.1 x) (fun _ _ hu => hu) _ ht

theorem State.Invalid.scrubQuad {t : State} {q h : Nat} (k : t.Invalid q h) (qs : List Nat) (e : Nat × Quad) :
    (t.scrubQuad qs e).Invalid q h :=
  foldl_keeps (P := fun u : State => u.Invalid q h) (f := fun u x => u.scrubTile e.1 x) (fun _ x hu => hu.scrubTile e.1 x) _ k

theorem State.scrubQuad_invalid {q h : Nat} {a : Quad} {qs : List Nat} (hx : ∃ x ∈ a.tilesOf q qs, x.1 = h) (t : State) :
    (t.scrubQuad qs (q, a)).Invalid q h := by
  obtain ⟨x, hx, rfl⟩ := hx
  exact foldl_reaches (P := fun u : State => u.Invalid q x.1) (f := fun u x => u.scrubTile q x) (fun _ y hu => hu.scrubTile q y) hx
    (fun u => State.scrubTile_invalid u q x) t

theorem State.scrubTiles_invalid {s : State} {q h : Nat} {a : Quad} {qs : List Nat} (hq : (q, a) ∈ s.quads)
    (hx : ∃ x ∈ a.tilesOf q qs, x.1 = h) : (s.scrubTiles qs).Invalid q h :=
  foldl_reaches (P := fun t : State => t.Invalid q h) (f := State.scrubQuad qs) (fun _ e ht => ht.scrubQuad qs e) hq
    (State.scrubQuad_invalid hx) s

/-- A valid tile of a task from some queues is among those that a reset scrubs. -/
theorem Quad.mem_tilesOf {a : Quad} {q h : Nat} {qs : List Nat} (hv : (Tab.get a.tiles h {}).v = true)
    (hqueue : (Tab.get a.tiles h {}).queue ∈ qs) : ∃ x ∈ a.tilesOf q qs, x.1 = h := by
  have hmem : (h, Tab.get a.tiles h {}) ∈ a.tiles := by
    rcases Tab.get_mem a.tiles h {} with e | e
    · rw [e] at hv
      exact absurd hv (by decide)
    · exact e
  refine ⟨_, List.mem_map_of_mem (List.mem_filter.mpr ⟨hmem, ?_⟩), rfl⟩
  exact Bool.and_eq_true_iff.mpr ⟨hv, List.contains_iff_mem.mpr hqueue⟩

theorem Saved.scrub_freed (x : Saved) (qs : List Nat) : ∀ e ∈ (x.scrub qs).state.tiles, e.2.queue ∈ qs → e.2.v = false := by
  intro e he hqueue
  obtain ⟨y, -, rfl⟩ := List.mem_map.mp he
  by_cases hy : qs.contains y.2.queue
  · rw [if_pos hy]
    exact TileEntry.freed_v y.2
  · rw [if_neg hy] at hqueue
    exact absurd (List.contains_iff_mem.mpr hqueue) hy

theorem State.scrubTiles_saved (s : State) (qs : List Nat) :
    ∀ x ∈ (s.scrubTiles qs).saved, ∀ e ∈ x.state.tiles, e.2.queue ∈ qs → e.2.v = false := by
  intro x hx
  obtain ⟨y, -, rfl⟩ := List.mem_map.mp hx
  exact Saved.scrub_freed y qs

/-- Stopping the transfers of what a stopped partition left keeps its tasks. -/
theorem State.savedTask_abortFunc {s : State} {qs : List Nat} (h : s.savedTask qs = none) : (s.abortFunc qs).savedTask qs = none := by
  unfold State.savedTask at h ⊢
  rw [List.find?_eq_none] at h ⊢
  intro z hz
  obtain ⟨x, hx, e, he, rfl⟩ : ∃ x ∈ (s.abortFunc qs).saved, ∃ e ∈ x.tasks, (x, e) = z := by simpa using hz
  obtain ⟨y, hy, rfl⟩ := List.mem_map.mp hx
  refine h (y, e) ?_
  simp only [List.mem_flatMap, List.mem_map]
  exact ⟨y, hy, e, he, rfl⟩

/-- A function whose tasks have gone ends its reset. -/
theorem execVfReset_ends {s : State} (hf : 1 ≤ s.ev.p) (hf' : s.ev.p ≤ Config.functions)
    (hreset : (Tab.get s.funcs s.ev.p {}).resetting = true) (htasks : ∀ q ∈ s.funcQueues s.ev.p, (s.queue q).tasks = [])
    (hharts : s.funcHarts (s.funcQueues s.ev.p) = []) (hyielded : s.yielded = []) (hsaved : s.savedTask (s.funcQueues s.ev.p) = none)
    (hstuck : s.ev.stuck = []) :
    let v := (s.unlinked s.ev.p (s.funcQueues s.ev.p)).scrubTiles (s.funcQueues s.ev.p)
    exec .vfReset s = .next { v with funcs := Tab.set v.funcs s.ev.p { Tab.get v.funcs s.ev.p {} with resetting := false } } := by
  have hnone : (s.funcQueues s.ev.p).find? (fun q => !(s.queue q).tasks.isEmpty) = none := by
    rw [List.find?_eq_none]
    intro q hq
    simp [htasks q hq]
  have hharts' : (s.abortFunc (s.funcQueues s.ev.p)).funcHarts (s.funcQueues s.ev.p) = [] := hharts
  have hyielded' : (s.abortFunc (s.funcQueues s.ev.p)).yielded = [] := hyielded
  have hrange : ¬ (s.ev.p = 0 ∨ Config.functions < s.ev.p) := by omega
  show execVfReset s = _
  unfold execVfReset
  simp only [if_neg hrange, hreset, hnone, hharts', hyielded', List.find?_nil, State.savedTask_abortFunc hsaved, hstuck, List.foldl_nil,
    Bool.not_true, Bool.false_eq_true, if_false]
  rfl

theorem State.unlinked_scrub_spec (s : State) (f : Nat) (qs : List Nat) :
    ((s.unlinked f qs).scrubTiles qs).mem = s.mem ∧ ((s.unlinked f qs).scrubTiles qs).harts = s.harts ∧
    ∀ q h, (Tab.get (s.quad q).tiles h {}).v = true → (Tab.get (s.quad q).tiles h {}).queue ∈ qs →
      ((s.unlinked f qs).scrubTiles qs).Invalid q h := by
  obtain ⟨o, ho⟩ := State.unlinked_rest s f qs
  have hkept : Kept false true s (s.unlinked f qs) := by
    rw [ho]
    exact (Kept.refl s).same
  refine ⟨hkept.scrubTiles.mem_eq, (State.scrubTiles_harts ..).trans (by rw [ho]; rfl), fun q h hv hqueue => ?_⟩
  have hmem : (q, s.quad q) ∈ s.quads := by
    rcases Tab.get_mem s.quads q {} with e | e
    · rw [show s.quad q = {} from e] at hv
      exact absurd hv Bool.false_ne_true
    · exact e
  have hin : (q, (s.quad q).abortXfers (fun x => qs.contains x.queue)) ∈ (s.unlinked f qs).quads := by
    rw [ho]
    exact List.mem_map_of_mem (f := fun e : Nat × Quad => (e.1, e.2.abortXfers (fun x => qs.contains x.queue))) hmem
  exact State.scrubTiles_invalid hin (Quad.mem_tilesOf hv hqueue)

theorem vfReset_steps (s : State) :
    let f := s.ev.p
    let qs := s.funcQueues f
    let fn (t : State) : Func := Tab.get t.funcs f {}
    (f = 0 ∨ Config.functions < f → exec .vfReset s = .next s) ∧
    (1 ≤ f → f ≤ Config.functions → (fn s).resetting = false →
      ∃ t, exec .vfReset s = .next t ∧ (fn t).resetting = true ∧ t.mem = s.mem ∧ t.tmem = s.tmem ∧
        ((∀ q ∈ qs, (s.queue q).waiters = []) → t.harts = s.harts)) ∧
    (∀ q x rest, 1 ≤ f → f ≤ Config.functions → (fn s).resetting = true →
      qs.find? (fun q => !(s.queue q).tasks.isEmpty) = some q → (s.queue q).tasks = x :: rest → (s.queue q).lfr = 0 →
      ∃ t, exec .vfReset s = .next t ∧ t.mem = s.mem ∧ t.harts = s.harts ∧ (∀ y ∈ (t.queue q).tasks, y.id ≠ x.id) ∧
        t.out = s.out.concat (.chinookLog (BitVec.ofNat 64 (x.id.toNat * 2 ^ 32 + 2)) x.desc.pc 0
          (BitVec.ofNat 64 (x.desc.key.toNat * 2 ^ 32 + q)))) ∧
    (1 ≤ f → f ≤ Config.functions → (fn s).resetting = true → (∀ q ∈ qs, (s.queue q).tasks = []) → s.funcHarts qs = [] → s.yielded = [] →
      s.savedTask qs = none → s.ev.stuck = [] →
      ∃ t, exec .vfReset s = .next t ∧ (fn t).resetting = false ∧ t.mem = s.mem ∧ t.harts = s.harts ∧
        (∀ q h, let e := Tab.get (s.quad q).tiles h {}
          e.v = true → e.queue ∈ qs → (Tab.get (t.quad q).tiles h {}).v = false) ∧
        (∀ x ∈ t.saved, ∀ e ∈ x.state.tiles, e.2.queue ∈ qs → e.2.v = false)) := by
  intro f qs fn
  have hrange : 1 ≤ f → f ≤ Config.functions → ¬ (f = 0 ∨ Config.functions < f) := fun _ _ => by omega
  refine ⟨fun hf => if_pos hf, fun hf hf' hreset => ?_, fun q x rest hf hf' hreset hfind htasks hlfr => ?_,
    fun hf hf' hreset htasks hharts hyielded hsaved hstuck => ?_⟩
  · refine ⟨s.denyAll f qs, ?_, ?_, (Kept.refl s (M := false) (T := false)).denyAll.mem_eq,
      (Kept.refl s (M := false) (T := false)).denyAll.tmem_eq, State.denyAll_harts s f qs⟩
    · show execVfReset s = _
      unfold execVfReset
      dsimp only
      rw [if_neg (hrange hf hf'), if_pos (by rw [show (Tab.get s.funcs s.ev.p {}).resetting = false from hreset]; rfl)]
    · show (Tab.get (s.denyAll f qs).funcs f {}).resetting = true
      rw [State.denyAll_funcs, State.resetBegun, Tab.get_set_same]
  · obtain ⟨hmem, hharts, hids, hout⟩ := State.removeQueued_spec s q s.ev.h x hlfr
    refine ⟨s.removeQueued q s.ev.h x, ?_, hmem, hharts, hids, hout⟩
    show execVfReset s = _
    unfold execVfReset
    simp only [if_neg (show ¬ (s.ev.p = 0 ∨ Config.functions < s.ev.p) from hrange hf hf'), show (Tab.get s.funcs s.ev.p {}).resetting = true from hreset,
      show (s.funcQueues s.ev.p).find? (fun q => !(s.queue q).tasks.isEmpty) = some q from hfind, htasks, Bool.not_true, Bool.false_eq_true, if_false]
  · obtain ⟨hmem, hharts', hfreed⟩ := State.unlinked_scrub_spec s f qs
    refine ⟨_, execVfReset_ends hf hf' hreset htasks hharts hyielded hsaved hstuck, ?_, hmem, hharts', hfreed,
      State.scrubTiles_saved (s.unlinked f qs) qs⟩
    show (Tab.get (Tab.set _ f _) f ({} : Func)).resetting = false
    rw [Tab.get_set_same]

end Sys2Proof.Machine
end

section
/-!
SUPPORT. Retirement as failed of a task without started commands (R386).
-/
namespace Sys2Proof.Machine

/-! ### The transfers that name a tile -/

/-- A state with the same transfers of a quad's harts, and the same tiles of the quad. -/
structure SameTransfers (q : Nat) (s t : State) : Prop where
  greqs : t.greqs = s.greqs
  fills : t.fills = s.fills
  quad : (t.quad q).tiles = (s.quad q).tiles ∧ (t.quad q).mq = (s.quad q).mq ∧ (t.quad q).cq = (s.quad q).cq ∧
    (t.quad q).running = (s.quad q).running ∧ (t.quad q).drains = (s.quad q).drains

theorem SameTransfers.trans {q : Nat} {s t u : State} (a : SameTransfers q s t) (b : SameTransfers q t u) : SameTransfers q s u := by
  obtain ⟨atiles, amq, acq, arunning, adrains⟩ := a.quad
  obtain ⟨btiles, bmq, bcq, brunning, bdrains⟩ := b.quad
  exact ⟨b.greqs.trans a.greqs, b.fills.trans a.fills,
    btiles.trans atiles, bmq.trans amq, bcq.trans acq, brunning.trans arunning, bdrains.trans adrains⟩

theorem SameTransfers.tilesBusy {h : Nat} {s t : State} (a : SameTransfers (quadOf h) s t) (task : BitVec 32) :
    t.tilesBusy h task = s.tilesBusy h task := by
  obtain ⟨tiles, mq, cq, running, drains⟩ := a.quad
  unfold State.tilesBusy State.tileBusy
  simp only [tiles, mq, cq, running, drains, a.greqs, a.fills]

theorem SameTransfers.startedWork {h : Nat} {s t : State} (a : SameTransfers (quadOf h) s t) : t.startedWork h = s.startedWork h := by
  unfold State.startedWork
  rw [a.quad.2.1]

/-! ### Unstarted commands and preloads go -/

/-- A quad with other FIFO operations that wait. -/
def Quad.withHeld (l : List Held) (a : Quad) : Quad := { a with held := l }

/-- A hart without a matrix command loses its vector commands and the FIFO operations that it waits for alone. -/
theorem State.discardWork_none {s : State} {h : Nat} (hmq : ∀ c ∈ (s.quad (quadOf h)).mq, c.hart ≠ h) :
    ∃ l, s.discardWork h = (s.updHart h (fun a => { a with vq := [] })).updQuad (quadOf h) (Quad.withHeld l) := by
  have hnone : (s.quad (quadOf h)).mq.filter (fun c => c.hart == h && !c.popped) = [] := by
    rw [List.filter_eq_nil_iff]
    intro c hc
    simp [hmq c hc]
  have hrest : ((s.quad (quadOf h)).mq.filter (fun c => c.hart == h && !c.popped)).reverse.foldl Quad.withdrawM (s.quad (quadOf h)) =
      s.quad (quadOf h) := by
    rw [hnone]
    rfl
  unfold State.discardWork
  exact ⟨_, State.updQuad_eq (g := Quad.withHeld _) (congrArg (Quad.withHeld _) hrest)⟩

/-- What a discarded preload leaves of quads. -/
theorem State.discard_quad (s : State) (p : Preload) (k : Nat) : ∃ b, (s.discard p).quad k = { s.quad k with banks := b } := by
  unfold State.discard
  dsimp only
  split
  · exact ⟨(s.quad k).banks, rfl⟩
  · rename_i g n _
    by_cases hk : k = quadOf p.hart
    · subst hk
      obtain ⟨b, hb⟩ := Quad.releaseBanks_rest (s.quad (quadOf p.hart)) s.time (runBanks g n)
      exact ⟨b, (State.quad_updQuad ..).trans hb⟩
    · exact ⟨(s.quad k).banks, State.quad_updQuad_other _ _ _ _ hk⟩

theorem State.discard_transfers (s : State) (p : Preload) (q : Nat) : SameTransfers q s (s.discard p) := by
  obtain ⟨b, hb⟩ := State.discard_quad s p q
  refine ⟨?_, ?_, by rw [hb]; exact ⟨rfl, rfl, rfl, rfl, rfl⟩⟩
  all_goals
    unfold State.discard
    dsimp only
    split <;> rfl

theorem State.discardSlot_transfers (s : State) (h q : Nat) : SameTransfers q s (s.discardSlot h) := by
  unfold State.discardSlot
  split
  · exact ⟨rfl, rfl, rfl, rfl, rfl, rfl, rfl⟩
  · exact State.discard_transfers ..

theorem State.discardSlot_aside (s : State) (h : Nat) : Aside s (s.discardSlot h) := by
  unfold State.discardSlot
  split
  · exact .refl s
  · exact State.discard_aside ..

/-- The hart's unstarted commands and its preload are gone. -/
def State.unworked (s : State) (h : Nat) : State := (s.discardWork h).discardSlot h

theorem State.unworked_spec {s : State} {h : Nat} (hmq : ∀ c ∈ (s.quad (quadOf h)).mq, c.hart ≠ h) :
    SameTransfers (quadOf h) s (s.unworked h) ∧ Aside (s.updHart h (fun a => { a with vq := [] })) (s.unworked h) := by
  obtain ⟨l, hl⟩ := State.discardWork_none hmq
  have htransfers : SameTransfers (quadOf h) s (s.discardWork h) := by
    rw [hl]
    refine ⟨rfl, rfl, ?_⟩
    rw [State.quad_updQuad]
    exact ⟨rfl, rfl, rfl, rfl, rfl⟩
  have haside : Aside (s.updHart h (fun a => { a with vq := [] })) (s.discardWork h) := by
    rw [hl]
    exact .updQuad _ _ _ rfl
  exact ⟨htransfers.trans (State.discardSlot_transfers ..), haside.trans (State.discardSlot_aside ..)⟩

/-! ### The task leaves its tiles and groups -/

theorem State.logStoreErrors_aside (s : State) (h : Nat) (a : Hart) : Aside s (s.logStoreErrors h a) := by
  refine Aside.foldl (fun t d => ?_) _ s
  split
  · exact State.logError_aside ..
  · exact .refl t

/-- Freeing tiles of a quad: what stays. -/
theorem State.freeTiles_rest (q : Nat) (l : List Nat) (s : State) :
    (l.foldl (fun t k => t.freeTile q k) s).harts = s.harts ∧ (l.foldl (fun t k => t.freeTile q k) s).queues = s.queues ∧
    (l.foldl (fun t k => t.freeTile q k) s).yielded = s.yielded :=
  foldl_keeps (P := fun t : State => t.harts = s.harts ∧ t.queues = s.queues ∧ t.yielded = s.yielded)
    (f := fun t k => t.freeTile q k) (fun _ _ ht => ht) l ⟨rfl, rfl, rfl⟩

theorem State.leaveAll_spec (s : State) (h : Nat) (task : BitVec 32) :
    ((s.leaveAll h task).harts = s.harts ∧ (s.leaveAll h task).queues = s.queues ∧ (s.leaveAll h task).yielded = s.yielded) ∧
    ∀ x ∈ s.ownTiles h task, (s.leaveAll h task).Invalid (quadOf h) x := by
  obtain ⟨hharts, hqueues, hyielded⟩ := State.freeTiles_rest (quadOf h) (s.ownTiles h task) s
  have hleave := State.leaveGroups_aside ((s.ownTiles h task).foldl (fun t k => t.freeTile (quadOf h) k) s) h task
  refine ⟨⟨hleave.harts.trans hharts, hleave.queues.trans hqueues, hleave.yielded.trans hyielded⟩, fun x hx => ?_⟩
  refine State.Invalid.congr ?_ (hleave.tiles (quadOf h))
  exact foldl_reaches (P := fun t : State => t.Invalid (quadOf h) x) (f := fun t k => t.freeTile (quadOf h) k)
    (fun _ k ht => ht.freeTile (quadOf h) k) hx (fun t => State.freeTile_invalid t (quadOf h) x) s

/-- The fence of a task that retires is performed, and it leaves its tiles and groups. -/
def State.departed (t : State) (h : Nat) (task : BitVec 32) : State :=
  ((((t.cleanCore (coreOf h)).logStoreErrors h (t.hart h)).updHart h (fun a => { a with deferred := [] })).dropRequests h).leaveAll h task

theorem Kept.departed {s₀ t : State} {M T : Bool} {h : Nat} {task : BitVec 32} (k : Kept M T s₀ t) : Kept M T s₀ (t.departed h task) :=
  (Kept.dropRequests (k.cached (State.cleanCore_cached ..)).logStoreErrors.updHart).leaveAll

theorem State.departed_spec (t : State) (h : Nat) (task : BitVec 32) :
    (t.departed h task).hart h = { t.hart h with deferred := [] } ∧ (t.departed h task).queues = t.queues ∧
    (t.departed h task).yielded = t.yielded ∧ ∀ x ∈ t.ownTiles h task, (t.departed h task).Invalid (quadOf h) x := by
  have hclean : Aside t ((t.cleanCore (coreOf h)).logStoreErrors h (t.hart h)) :=
    (State.cleanCore_cached t (coreOf h)).aside.trans (State.logStoreErrors_aside ..)
  unfold State.departed
  generalize (t.cleanCore (coreOf h)).logStoreErrors h (t.hart h) = c at hclean
  obtain ⟨⟨hharts, hqueues, hyielded⟩, htiles⟩ :=
    State.leaveAll_spec ((c.updHart h (fun a => { a with deferred := [] })).dropRequests h) h task
  refine ⟨?_, hqueues.trans hclean.queues, hyielded.trans hclean.yielded, fun x hx => htiles x ?_⟩
  · rw [State.hart, hharts]
    rw [← hclean.hart h]
    exact State.hart_updHart c h (fun a => { a with deferred := [] })
  · show x ∈ c.ownTiles h task
    unfold State.ownTiles
    rw [hclean.tiles (quadOf h)]
    exact hx

/-! ### The slot frees -/

theorem State.freeSlot_none {s : State} {h : Nat} (hy : ∀ y ∈ s.yielded, y.slot ≠ h) :
    s.freeSlot h = (s.updHart h Hart.vacant).repoint (quadOf h) := by
  have hnone : (s.updHart h Hart.vacant).yielded.find? (fun y => y.slot == h) = none := by
    rw [List.find?_eq_none]
    intro y hm
    simpa using hy y hm
  unfold State.freeSlot State.resumeSlot
  rw [hnone]

theorem State.freeSlot_none_spec {s : State} {h : Nat} (hy : ∀ y ∈ s.yielded, y.slot ≠ h) :
    (s.freeSlot h).hart h = (s.hart h).vacant ∧ (s.freeSlot h).out = s.out ∧ ∀ x, s.Invalid (quadOf h) x → (s.freeSlot h).Invalid (quadOf h) x := by
  rw [State.freeSlot_none hy]
  refine ⟨State.hart_updHart .., rfl, fun x hx => ?_⟩
  exact State.Invalid.congr (s := s.updHart h Hart.vacant) hx (State.repoint_sameWork (s.updHart h Hart.vacant) (quadOf h) (quadOf h)).tiles

/-- A task without started commands, of a queue without a ring, goes with its record in the log. -/
theorem State.retireFailed_log {s : State} {h : Nat} {k : Task} (stat cause : Nat) (pc tval : Word) (htask : (s.hart h).task = some k)
    (hmq : ∀ c ∈ (s.quad (quadOf h)).mq, c.hart ≠ h) (hbusy : s.tilesBusy h k.id = false) (hlfr : (s.queue k.queue).lfr = 0) :
    s.retireFailed h stat cause pc tval =
      (((s.unworked h).departed h k.id).logRecord k.queue (recordWords k.queue k.id k.key cause stat pc tval)).freeSlot h := by
  obtain ⟨htransfers, haside⟩ := State.unworked_spec hmq
  obtain ⟨-, hqueues, -, -⟩ := State.departed_spec (s.unworked h) h k.id
  have hstarted : (s.unworked h).startedWork h = false := by
    rw [htransfers.startedWork]
    unfold State.startedWork
    rw [List.any_eq_false]
    intro c hc
    simpa using hmq c hc
  have hstill : ¬ ((s.unworked h).startedWork h || (s.unworked h).tilesBusy h k.id) = true := by
    rw [hstarted, htransfers.tilesBusy, hbusy]
    decide
  have hring : (((s.unworked h).departed h k.id).queue k.queue).lfr = 0 := by
    rw [State.queue, hqueues, haside.queues]
    exact hlfr
  have hlog := fun rq => State.failRecord_log _ _ rq (recordWords k.queue k.id k.key cause stat pc tval) hring
  unfold State.retireFailed
  rw [htask]
  refine (if_neg hstill).trans ?_
  dsimp only
  exact (congrArg (fun r : Bool × State => if r.1 then r.2.freeSlot h else r.2) (hlog _)).trans rfl

theorem retireCall_steps (s : State) (k : Task) :
    let h := s.ev.h
    let a := s.hart h
    a.task = some k →
    (a.park = none → exec .retireCall s = .next s) ∧
    (a.park = some .chinook → a.xv 17 ≠ 0 → exec .retireCall s = .next s) ∧
    (a.park = some .chinook → a.xv 17 = 0 → (∀ c ∈ (s.quad (quadOf h)).mq, c.hart ≠ h) → s.tilesBusy h k.id = false →
      (s.queue k.queue).lfr = 0 → (∀ y ∈ s.yielded, y.slot ≠ h) →
      ∃ t, exec .retireCall s = .next t ∧ t.hart h = { csr := a.csr, seq := a.seq } ∧ t.mem = s.mem ∧
        t.out.getLast? = some (.chinookLog (BitVec.ofNat 64 (k.id.toNat * 2 ^ 32 + (a.xv 10).toNat % 256 * 256 + 1)) a.csr.sepc
          a.csr.stval (BitVec.ofNat 64 (k.key.toNat * 2 ^ 32 + k.queue))) ∧
        (∀ x ∈ s.ownTiles h k.id, (Tab.get (t.quad (quadOf h)).tiles x {}).v = false)) := by
  intro h a htask
  refine ⟨fun hpark => ?_, fun hpark h17 => ?_, fun hpark h17 hmq hbusy hlfr hyielded => ?_⟩
  · show execRetireCall s = _
    unfold execRetireCall
    simp only [show (s.hart s.ev.h).park = none from hpark]
  · show execRetireCall s = _
    unfold execRetireCall
    simp only [show (s.hart s.ev.h).park = some .chinook from hpark]
    exact if_neg h17
  · obtain ⟨htransfers, haside⟩ := State.unworked_spec hmq
    obtain ⟨hhart, -, hyielded', htiles⟩ := State.departed_spec (s.unworked h) h k.id
    have hlog := State.retireFailed_log 1 ((a.xv 10).toNat % 256) a.csr.sepc a.csr.stval htask hmq hbusy hlfr
    have hkept : Kept false false s ((s.unworked h).departed h k.id) := (Kept.refl s).discardWork.discardSlot.departed
    generalize hd : (s.unworked h).departed h k.id = d at hhart hyielded' htiles hlog hkept
    generalize hr : d.logRecord k.queue (recordWords k.queue k.id k.key ((a.xv 10).toNat % 256) 1 a.csr.sepc a.csr.stval) = r at hlog
    have hnone : ∀ y ∈ r.yielded, y.slot ≠ h := by
      rw [show r.yielded = s.yielded from hr ▸ hyielded'.trans haside.yielded]
      exact hyielded
    have hkeptR : Kept false false s r := hr ▸ hkept.logRecord
    obtain ⟨fhart, fout, ftiles⟩ := State.freeSlot_none_spec hnone
    refine ⟨r.freeSlot h, ?_, ?_, hkeptR.freeSlot.mem_eq, ?_, fun x hx => ftiles x ?_⟩
    · rw [← hlog]
      show execRetireCall s = _
      unfold execRetireCall
      simp only [show (s.hart s.ev.h).park = some .chinook from hpark]
      exact if_pos h17
    · rw [fhart, show r.hart h = d.hart h from hr ▸ rfl, hhart, haside.hart, State.hart_updHart]
      rfl
    · rw [fout, ← hr]
      refine List.getLast?_concat.trans ?_
      simp only [recordWords, List.getD_cons_zero, List.getD_cons_succ, Nat.mod_mod]
    · refine State.Invalid.congr (s := d) (htiles x ?_) (hr ▸ rfl)
      unfold State.ownTiles
      rw [htransfers.quad.1]
      exact hx

/-- Settles O50: each step by itself, the harts of a stop and of a resumption one by one, and the tiles through what freeing one leaves. -/
theorem partitionsMove : Obligations.PartitionsMove :=
  ⟨fun s => ⟨(partitionStop_steps s).1, (partitionStop_steps s).2, (partitionResume_steps s).1, (partitionResume_steps s).2⟩,
    quadReassign_steps, vfReset_steps, retireCall_steps⟩

end Sys2Proof.Machine
end

section
/-!
SUPPORT. A quad's operating point, its current limiter, throttling, sensors and idle states (R390, R395 to R399), and the event log.
-/
namespace Sys2Proof.Machine
open Sys2Proof.Claims

/-! ### Two updates of one quad -/

theorem Tab.set_set {α : Type} (t : Tab α) (k : Nat) (a b : α) : Tab.set (Tab.set t k a) k b = Tab.set t k b := by
  induction t with
  | nil => simp [Tab.set]
  | cons x t ih =>
    obtain ⟨j, c⟩ := x
    simp only [Tab.set]
    split
    · simp [Tab.set]
    · split
      · simp [Tab.set]
      · simp only [Tab.set, ih]
        rw [if_neg ‹_›, if_neg ‹_›]

theorem State.updQuad_updQuad (s : State) (q : Nat) (f g : Quad → Quad) : (s.updQuad q f).updQuad q g = s.updQuad q (fun a => g (f a)) := by
  show { s with quads := Tab.set (s.updQuad q f).quads q (g ((s.updQuad q f).quad q)) } = s.updQuad q (fun a => g (f a))
  rw [State.quad_updQuad]
  unfold State.updQuad
  rw [Tab.set_set]

/-! ### Operating points (R389, R390) -/

/-- A quad of which point `n` is asked, with the point that its rail's voltage serves. -/
def Quad.runAt (now n rail : Nat) (a : Quad) : Quad :=
  let c := if (n ≤ a.opcur ∨ n ≤ rail) ∧ n ≠ a.opcur then a.setOp now n else a
  { c with raise := if n ≤ a.opcur ∨ n ≤ rail then none else some n }

theorem State.repoint_eq (s : State) (q : Nat) : s.repoint q = s.updQuad q (Quad.runAt s.time (s.pointOf q) (s.railPoint q)) := rfl

theorem State.repoint_quad (s : State) (q : Nat) : (s.repoint q).quad q = (s.quad q).runAt s.time (s.pointOf q) (s.railPoint q) := by
  rw [State.repoint_eq, State.quad_updQuad]

/-- A point that the quad runs at least at, or that the rail serves, is taken at once. -/
theorem Quad.runAt_taken (a : Quad) (now : Nat) {n rail : Nat} (h : n ≤ a.opcur ∨ n ≤ rail) :
    (a.runAt now n rail).opcur = n ∧ (a.runAt now n rail).raise = none := by
  unfold Quad.runAt
  by_cases hn : n = a.opcur
  · simp [hn]
  · simp [h, hn, Quad.setOp]

/-- Any other point waits for the rail. -/
theorem Quad.runAt_pending (a : Quad) (now : Nat) {n rail : Nat} (h : a.opcur < n) (hrail : rail < n) :
    a.runAt now n rail = { a with raise := some n } := by
  have hno : ¬ (n ≤ a.opcur ∨ n ≤ rail) := by omega
  unfold Quad.runAt
  rw [if_neg (fun k => hno k.1), if_neg hno]

theorem Quad.runAt_rest (a : Quad) (now n rail : Nat) :
    ∃ c k o r, a.runAt now n rail = { a with clock := c, clockAt := k, opcur := o, raise := r } := by
  unfold Quad.runAt
  dsimp only
  split
  · exact ⟨_, _, _, _, rfl⟩
  · exact ⟨a.clock, a.clockAt, a.opcur, _, rfl⟩

theorem railRaiseDone_steps (s : State) (n : Nat) :
    let q := s.ev.q
    (s.pointOf q ≤ (s.quad q).opcur → ∃ t, exec .railRaiseDone s = .next t ∧ (t.quad q).opcur = s.pointOf q ∧
      (t.quad q).raise = none ∧ t.mem = s.mem ∧ t.harts = s.harts) ∧
    ((s.quad q).raise = some n → s.pointOf q = n → (s.quad q).opcur < n → s.railPoint q < n →
      ∃ t, exec .railRaiseDone s = .next t ∧ (t.quad q).opcur = n ∧ (t.quad q).raise = none ∧ t.mem = s.mem ∧ t.harts = s.harts) := by
  intro q
  refine ⟨fun hlow => ?_, fun hraise hpoint hlow hrail => ?_⟩
  · obtain ⟨hop, hnone⟩ := Quad.runAt_taken (s.quad q) s.time (rail := s.railPoint q) (.inl hlow)
    rw [← State.repoint_quad] at hop hnone
    refine ⟨s.repoint q, ?_, hop, hnone, rfl, rfl⟩
    show execRailRaiseDone s = _
    unfold execRailRaiseDone
    dsimp only
    rw [show ((s.repoint s.ev.q).quad s.ev.q).raise = none from hnone]
    split
    · rfl
    · exact if_neg (by simp)
  · have hquad : (s.repoint q).quad q = { s.quad q with raise := some n } := by
      rw [State.repoint_quad, hpoint, Quad.runAt_pending _ _ hlow hrail]
    have hraise' : ((s.repoint q).quad q).raise = some n := by rw [hquad]
    refine ⟨(s.repoint q).updQuad q (fun b => { b.setOp s.time n with raise := none }), ?_, ?_, ?_, rfl, rfl⟩
    · show execRailRaiseDone s = _
      unfold execRailRaiseDone
      dsimp only
      rw [show (s.quad s.ev.q).raise = some n from hraise]
      exact if_pos hraise'
    · rw [State.quad_updQuad]
      rfl
    · rw [State.quad_updQuad]

/-! ### The current limiter (R395) -/

theorem limiter_steps (s : State) :
    let q := s.ev.q
    let a := s.quad q
    let level (n : Nat) : State := s.updQuad q (fun b => { b with clvl := n, droopAt := s.time })
    (a.droop = false → s.ev.b = true → exec .droopSignal s =
      .next (s.updQuad q (fun b => { b with droop := true, clvl := min 3 (a.clvl + 1), droopAt := s.time }))) ∧
    (a.droop = true → s.ev.b = false → exec .droopSignal s = .next (s.updQuad q (fun b => { b with droop := false, droopAt := s.time }))) ∧
    (a.droop = s.ev.b → exec .droopSignal s = .next s) ∧
    (a.droop = true → a.droopAt + 64 ≤ s.time → exec .clvlRise s = .next (level (min 3 (a.clvl + 1)))) ∧
    (a.droop = false ∨ s.time < a.droopAt + 64 → exec .clvlRise s = .next s) ∧
    (a.droop = false → a.droopAt + 4096 ≤ s.time → exec .clvlFall s = .next (level (a.clvl - 1))) ∧
    (a.droop = true ∨ s.time < a.droopAt + 4096 → exec .clvlFall s = .next s) := by
  intro q a level
  have hsignal : a.droop ≠ s.ev.b → exec .droopSignal s = .next (s.updQuad q (fun b => { b with
      droop := s.ev.b, clvl := if s.ev.b then min 3 (a.clvl + 1) else a.clvl, droopAt := s.time })) := by
    intro h
    refine (if_neg h).trans (congrArg Host.Outcome.next ?_)
    exact State.updQuad_updQuad s q _ _
  refine ⟨fun hd hb => ?_, fun hd hb => ?_, fun h => if_pos h, fun hd ht => if_pos ⟨hd, ht⟩, fun h => if_neg ?_,
    fun hd ht => if_pos ⟨Bool.eq_false_iff.mp hd, ht⟩, fun h => if_neg ?_⟩
  · rw [hsignal (by rw [hd, hb]; decide), hb]
    rfl
  · rw [hsignal (by rw [hd, hb]; decide), hb]
    exact congrArg Host.Outcome.next (State.updQuad_eq rfl)
  · rintro ⟨hd, ht⟩
    exact h.elim (fun h => Bool.false_ne_true (h.symm.trans hd)) (fun h => absurd ht (Nat.not_le.mpr h))
  · rintro ⟨hd, ht⟩
    exact h.elim hd (fun h => absurd ht (Nat.not_le.mpr h))

/-! ### The event log (R400) -/

theorem State.logEvent_rest (s : State) (w : Word) : ∃ e, s.logEvent w = { s with mistral := { s.mistral with events := e } } := by
  unfold State.logEvent
  split
  · exact ⟨_, rfl⟩
  · exact ⟨s.mistral.events, rfl⟩

theorem State.logEvent_keeps (s : State) (w : Word) :
    (∀ k, (s.logEvent w).quad k = s.quad k) ∧ (s.logEvent w).harts = s.harts ∧ (s.logEvent w).mistral.sensf = s.mistral.sensf := by
  obtain ⟨e, he⟩ := State.logEvent_rest s w
  rw [he]
  exact ⟨fun _ => rfl, rfl, rfl⟩

theorem eventLog_steps (s : State) :
    (s.mistral.events = [] → exec .evpopRead s = .next (s.emit (.reg 0))) ∧
    (∀ e rest, s.mistral.events = e :: rest →
      exec .evpopRead s = .next { s.emit (.reg e) with mistral := { s.mistral with events := rest } }) ∧
    (s.mistral.events.length < 16 →
      exec .evpushWrite s = .next { s with mistral := { s.mistral with events := s.mistral.events.concat (s.ev.v) } }) ∧
    (16 ≤ s.mistral.events.length → exec .evpushWrite s = .next s) := by
  have hpush : exec .evpushWrite s = .next (s.logEvent s.ev.v) := by
    show Host.Outcome.next (s.logEvent (BitVec.ofNat 64 s.ev.v.toNat)) = _
    rw [BitVec.ofNat_toNat, BitVec.setWidth_eq]
  have hpop : ∀ w, BitVec.ofNat 64 (s.regValue .evpop) = w →
      exec .evpopRead s = .next { s.emit (.reg w) with mistral := { s.mistral with events := s.mistral.events.tail } } := by
    rintro w rfl
    rfl
  refine ⟨fun h => ?_, fun e rest h => ?_, fun h => ?_, fun h => ?_⟩
  · have hvalue : s.regValue .evpop = 0 := by
      show (match s.mistral.events with
        | [] => 0
        | e :: _ => e.toNat) = 0
      rw [h]
    have hsame : { s.mistral with events := s.mistral.events.tail } = s.mistral := by
      rw [h, List.tail_nil, ← h]
    rw [hpop 0 (congrArg (BitVec.ofNat 64) hvalue), hsame]
    rfl
  · have hvalue : s.regValue .evpop = e.toNat := by
      show (match s.mistral.events with
        | [] => 0
        | e :: _ => e.toNat) = _
      rw [h]
    rw [hpop e (by rw [hvalue, BitVec.ofNat_toNat, BitVec.setWidth_eq]), h]
    rfl
  · rw [hpush, State.logEvent, if_pos h, List.concat_eq_append]
  · rw [hpush, State.logEvent, if_neg (by omega)]

/-! ### Throttling and failed sensors (R396, R398) -/

theorem State.tlvlWrite_quad (s : State) (q v : Nat) :
    (s.tlvlWrite q v).quad q = { s.quad q with tlvl := if (s.quad q).hot then 7 else v } ∧ (s.tlvlWrite q v).harts = s.harts ∧
    (s.tlvlWrite q v).mistral.sensf = s.mistral.sensf := by
  unfold State.tlvlWrite
  extract_lets n t
  by_cases h : n = (s.quad q).tlvl
  · rw [if_pos h]
    exact ⟨by rw [show (if (s.quad q).hot = true then 7 else v) = (s.quad q).tlvl from h], rfl, rfl⟩
  · rw [if_neg h]
    exact ⟨State.quad_updQuad s q (fun a => { a with tlvl := n }), rfl, rfl⟩

/-- A quad that two failed sensors hold. -/
def Quad.heldBy (a : Quad) : Quad := { a with hold := a.hold || decide (2 ≤ failedSensors a.sfail) }

theorem State.holdFailed_quad (s : State) (q : Nat) :
    (s.holdFailed q).quad q = (s.quad q).heldBy ∧ (s.holdFailed q).harts = s.harts ∧
    (s.holdFailed q).mistral.sensf = s.mistral.sensf := by
  unfold State.holdFailed Quad.heldBy
  dsimp only
  split
  · rename_i h
    obtain ⟨hquad, hharts, hsensf⟩ :=
      State.logEvent_keeps (s.updQuad q (fun b => { b with hold := true })) (s.eventWord 4 q (s.quad q).sfail.toNat)
    refine ⟨?_, hharts, hsensf⟩
    rw [hquad, State.quad_updQuad, decide_eq_true h.1, Bool.or_true]
  · rename_i h
    refine ⟨?_, rfl, rfl⟩
    have hold : ((s.quad q).hold || decide (2 ≤ failedSensors (s.quad q).sfail)) = (s.quad q).hold := by
      by_cases h2 : 2 ≤ failedSensors (s.quad q).sfail
      · have : (s.quad q).hold = true := by simpa [h2] using h
        rw [this, Bool.true_or]
      · rw [decide_eq_false h2, Bool.or_false]
    rw [hold]

/-- Two sensors that have failed are two. -/
theorem two_le_failedSensors {v : BitVec 6} {i j : Nat} (hij : i ≠ j) (hi : i < 6) (hj : j < 6) (hvi : v.getLsbD i = true)
    (hvj : v.getLsbD j = true) : 2 ≤ failedSensors v := by
  have hnodup : [i, j].Nodup := by simp [hij]
  have hsub : [i, j] ⊆ (List.range 6).filter (fun k => v.getLsbD k) := by
    intro k hk
    simp only [List.mem_cons, List.not_mem_nil, or_false] at hk
    rcases hk with rfl | rfl
    · exact List.mem_filter.mpr ⟨List.mem_range.mpr hi, hvi⟩
    · exact List.mem_filter.mpr ⟨List.mem_range.mpr hj, hvj⟩
  exact (hnodup.subperm hsub).length_le

/-- At most one bit stands in a power of two. -/
theorem failedSensors_single {n i : Nat} (h : n % 64 = 2 ^ i) : failedSensors (BitVec.ofNat 6 n) < 2 := by
  have hv : BitVec.ofNat 6 n = BitVec.ofNat 6 (2 ^ i) := by
    apply BitVec.eq_of_toNat_eq
    simp only [BitVec.toNat_ofNat]
    omega
  have hi : i < 6 := by
    by_contra hge
    have : 2 ^ 6 ≤ 2 ^ i := Nat.pow_le_pow_right (by decide) (by omega)
    omega
  rw [hv]
  revert i
  intro i _ _ hi
  interval_cases i <;> decide

/-- What a write of SFAIL makes of a quad before its point is computed again. -/
def Quad.sfailWritten (v : Nat) (a : Quad) : Quad :=
  Quad.heldBy { a with sfail := BitVec.ofNat 6 v, hold := a.hold && decide (v % 64 ≠ 0) }

theorem State.sfailWrite_spec (s : State) (q v : Nat) :
    (∃ c k o r, (s.sfailWrite q v).quad q =
      { (s.quad q).sfailWritten v with clock := c, clockAt := k, opcur := o, raise := r }) ∧
    (((s.quad q).sfailWritten v).hold = true → ((s.sfailWrite q v).quad q).opcur = 0) ∧ (s.sfailWrite q v).harts = s.harts := by
  unfold State.sfailWrite
  obtain ⟨hquad, hharts, -⟩ :=
    State.holdFailed_quad (s.updQuad q (fun a => { a with sfail := BitVec.ofNat 6 v, hold := a.hold && decide (v % 64 ≠ 0) })) q
  rw [State.quad_updQuad] at hquad
  generalize State.holdFailed _ q = t at hquad hharts
  have hpoint : (t.quad q).hold = true → t.pointOf q = 0 := fun h => if_pos (by rw [h]; rfl)
  rw [State.repoint_quad]
  refine ⟨?_, fun hhold => ?_, hharts⟩
  · obtain ⟨c, k, o, r, h⟩ := Quad.runAt_rest (t.quad q) t.time (t.pointOf q) (t.railPoint q)
    exact ⟨c, k, o, r, by rw [h, hquad]; rfl⟩
  · rw [hpoint (by rw [hquad]; exact hhold)]
    exact (Quad.runAt_taken _ _ (.inl (Nat.zero_le _))).1

theorem throttle_steps (s : State) (hq : s.ev.q < Config.quads) :
    let q := s.ev.q
    let v := s.ev.v.toNat
    let n := if (s.quad q).hot then 7 else v % 8
    (n = (s.quad q).tlvl → exec .tlvlWrite s = .next s) ∧
    (n ≠ (s.quad q).tlvl → ∃ t, exec .tlvlWrite s = .next t ∧ t.quad q = { s.quad q with tlvl := n } ∧ t.mistral.throt = true ∧
      t.harts = s.harts ∧ t.mem = s.mem) ∧
    (∃ t, exec .sfailWrite s = .next t ∧ (t.quad q).sfail = BitVec.ofNat 6 v ∧ (v % 64 = 0 → (t.quad q).hold = false) ∧
      (∀ i, v % 64 = 2 ^ i → (t.quad q).hold = (s.quad q).hold) ∧
      (∀ i j, i < j → j < 6 → v.testBit i = true → v.testBit j = true → (t.quad q).hold = true ∧ (t.quad q).opcur = 0) ∧ t.harts = s.harts ∧ t.mem = s.mem) := by
  intro q v n
  have htlvl : exec .tlvlWrite s = .next (s.tlvlWrite q (v % 8)) := if_pos hq
  have hword : BitVec.ofNat 6 (v % 64) = BitVec.ofNat 6 v := by
    apply BitVec.eq_of_toNat_eq
    simp
  refine ⟨fun h => ?_, fun h => ?_, s.sfailWrite q (v % 64), if_pos hq, ?_⟩
  · rw [htlvl, State.tlvlWrite]
    exact congrArg Host.Outcome.next (if_pos h)
  · refine ⟨s.tlvlWrite q (v % 8), htlvl, (State.tlvlWrite_quad s q (v % 8)).1, ?_, (State.tlvlWrite_quad s q (v % 8)).2.1,
      (Kept.refl s (M := false) (T := false)).tlvlWrite.mem_eq⟩
    rw [State.tlvlWrite]
    exact (congrArg (fun t : State => t.mistral.throt) (if_neg h)).trans rfl
  · obtain ⟨⟨c, k, o, r, hquad⟩, hop, hharts⟩ := State.sfailWrite_spec s q (v % 64)
    have hsfail : ((s.sfailWrite q (v % 64)).quad q).sfail = BitVec.ofNat 6 v := by
      rw [hquad]
      exact hword
    have hhold : ((s.sfailWrite q (v % 64)).quad q).hold =
        (((s.quad q).hold && decide (v % 64 ≠ 0)) || decide (2 ≤ failedSensors (BitVec.ofNat 6 v))) := by
      rw [hquad, ← hword, ← show decide (v % 64 % 64 ≠ 0) = decide (v % 64 ≠ 0) from by rw [Nat.mod_mod]]
      rfl
    have hbit : ∀ k, k < 6 → v.testBit k = true → (BitVec.ofNat 6 v).getLsbD k = true := fun k hk h => by
      rw [BitVec.getLsbD_ofNat, decide_eq_true hk, h]
      rfl
    refine ⟨hsfail, fun h => ?_, fun i h => ?_, fun i j hij hj hi' hj' => ?_, hharts,
      (Kept.refl s (M := false) (T := false)).sfailWrite.mem_eq⟩
    · rw [hhold, ← hword, h]
      simp [failedSensors]
    · rw [hhold, decide_eq_true (by rw [h]; positivity), decide_eq_false (Nat.not_le.mpr (failedSensors_single h)), Bool.and_true,
        Bool.or_false]
    · have htwo : 2 ≤ failedSensors (BitVec.ofNat 6 v) :=
        two_le_failedSensors (Nat.ne_of_lt hij) (by omega) hj (hbit i (by omega) hi') (hbit j hj hj')
      have htrue : ((s.sfailWrite q (v % 64)).quad q).hold = true := by
        rw [hhold, decide_eq_true htwo, Bool.or_true]
      refine ⟨htrue, hop ?_⟩
      rw [hquad] at htrue
      exact htrue

end Sys2Proof.Machine
end

section
/-!
SUPPORT. A sample of a quad's sensors (R397, R398): which it finds failed, and the holds that they bring.
-/
namespace Sys2Proof.Machine

/-! ### The sensors that have failed -/

/-- A bit raised where a test says so. -/
def raiseBit (m : BitVec 6) (i : Nat) (b : Bool) : BitVec 6 := if b then m ||| (1#6 <<< i) else m

theorem raiseBit_getLsbD (m : BitVec 6) (i : Nat) (b : Bool) {j : Nat} (hj : j < 6) :
    (raiseBit m i b).getLsbD j = (m.getLsbD j || (b && decide (j = i))) := by
  have hbit : (1#6 <<< i).getLsbD j = decide (j = i) := by
    rw [BitVec.getLsbD_shiftLeft, BitVec.getLsbD_one]
    by_cases h : j = i
    · simp [h, h ▸ hj]
    · by_cases hlt : j < i
      · simp [h, hlt]
      · simp [h, hlt]
        omega
  unfold raiseBit
  cases b
  · simp
  · rw [if_pos rfl, BitVec.getLsbD_or, hbit, Bool.true_and]

/-- Bits raised in order, each by a test of those before it. -/
def raiseBits (test : BitVec 6 → Nat → Bool) (m : BitVec 6) (n : Nat) : BitVec 6 :=
  (List.range n).foldl (fun m i => raiseBit m i (test m i)) m

theorem raiseBits_succ (test : BitVec 6 → Nat → Bool) (m : BitVec 6) (n : Nat) :
    raiseBits test m (n + 1) = raiseBit (raiseBits test m n) n (test (raiseBits test m n) n) := by
  unfold raiseBits
  rw [List.range_succ, List.foldl_append]
  rfl

theorem raiseBits_getLsbD_succ (test : BitVec 6 → Nat → Bool) (m : BitVec 6) (n : Nat) {j : Nat} (hj : j < 6) :
    (raiseBits test m (n + 1)).getLsbD j = ((raiseBits test m n).getLsbD j || (test (raiseBits test m n) n && decide (j = n))) := by
  rw [raiseBits_succ, raiseBit_getLsbD _ _ _ hj]

/-- A bit is decided at its own turn: before it stands as it did, after it stays. -/
theorem raiseBits_getLsbD (test : BitVec 6 → Nat → Bool) (m : BitVec 6) {j : Nat} (hj : j < 6) (n : Nat) :
    (raiseBits test m n).getLsbD j = (m.getLsbD j || (decide (j < n) && test (raiseBits test m j) j)) := by
  induction n with
  | zero => simp [raiseBits]
  | succ n ih =>
    rw [raiseBits_getLsbD_succ test m n hj, ih]
    by_cases h : j = n
    · subst h
      simp
    · by_cases hlt : j < n
      · simp [h, hlt, Nat.lt_succ_of_lt hlt]
      · have : ¬ j < n + 1 := by omega
        simp [h, hlt, this]

/-- The sensors known to have failed and those broken of themselves. -/
def State.ownFailed (s : State) (q : Nat) (codes : List Int) (known : BitVec 6) : BitVec 6 :=
  raiseBits (fun _ i => s.sensorBroken q codes i) known 6

/-- A sensor that has not failed yet differs from its neighbours. -/
def State.deviates (s : State) (q : Nat) (codes : List Int) (m : BitVec 6) (i : Nat) : Bool := !m.getLsbD i && s.sensorOff q codes m i

theorem State.judged_eq (s : State) (q : Nat) (codes : List Int) (known : BitVec 6) :
    s.judged q codes known = raiseBits (s.deviates q codes) (s.ownFailed q codes known) 6 := rfl

theorem State.ownFailed_getLsbD (s : State) (q : Nat) (codes : List Int) (known : BitVec 6) {i : Nat} (hi : i < 6) :
    (s.ownFailed q codes known).getLsbD i = (known.getLsbD i || s.sensorBroken q codes i) := by
  unfold State.ownFailed
  rw [raiseBits_getLsbD _ _ hi, decide_eq_true hi, Bool.true_and]

theorem State.judged_getLsbD (s : State) (q : Nat) (codes : List Int) (known : BitVec 6) {i : Nat} (hi : i < 6) :
    (s.judged q codes known).getLsbD i = (known.getLsbD i || s.sensorBroken q codes i ||
      s.deviates q codes (raiseBits (s.deviates q codes) (s.ownFailed q codes known) i) i) := by
  rw [State.judged_eq, raiseBits_getLsbD _ _ hi, decide_eq_true hi, Bool.true_and, State.ownFailed_getLsbD _ _ _ _ hi]

theorem State.judged_of_known {s : State} {q : Nat} {codes : List Int} {known : BitVec 6} {i : Nat} (hi : i < 6)
    (h : known.getLsbD i = true ∨ s.sensorBroken q codes i = true) : (s.judged q codes known).getLsbD i = true := by
  rw [State.judged_getLsbD s q codes known hi]
  rcases h with h | h <;> simp [h]

theorem State.of_judged {s : State} {q : Nat} {codes : List Int} {known : BitVec 6} {i : Nat} (hi : i < 6)
    (h : (s.judged q codes known).getLsbD i = true) :
    known.getLsbD i = true ∨ s.sensorBroken q codes i = true ∨ ∃ m, s.sensorOff q codes m i = true := by
  rw [State.judged_getLsbD s q codes known hi, Bool.or_eq_true, Bool.or_eq_true, State.deviates, Bool.and_eq_true] at h
  rcases h with (h | h) | h
  · exact .inl h
  · exact .inr (.inl h)
  · exact .inr (.inr ⟨_, h.2⟩)

theorem zero_getLsbD (i : Nat) : (0 : BitVec 6).getLsbD i = false := BitVec.getLsbD_zero

/-- The first sensor that may deviate is judged with none failed. -/
theorem State.judged_first {s : State} {q : Nat} {codes : List Int} {i : Nat} (hi : i < 6)
    (hbroken : ∀ j, j < 6 → s.sensorBroken q codes j = false) (hfirst : ∀ j, j < i → (s.judged q codes 0).getLsbD j = false) :
    (s.judged q codes 0).getLsbD i = s.sensorOff q codes 0 i := by
  have hnone : raiseBits (s.deviates q codes) (s.ownFailed q codes 0) i = 0 := by
    apply BitVec.eq_of_getLsbD_eq
    intro j hj
    have hown : (s.ownFailed q codes 0).getLsbD j = false := by
      rw [State.ownFailed_getLsbD _ _ _ _ hj, hbroken j hj, Bool.or_false]
      exact zero_getLsbD j
    rw [raiseBits_getLsbD _ _ hj, hown, zero_getLsbD, Bool.false_or]
    by_cases hji : j < i
    · have h := hfirst j hji
      rw [State.judged_getLsbD s q codes 0 hj, Bool.or_eq_false_iff] at h
      rw [h.2, Bool.and_false]
    · rw [decide_eq_false hji, Bool.false_and]
  rw [State.judged_getLsbD s q codes 0 hi, hnone, hbroken i hi, State.deviates, zero_getLsbD]
  rfl

/-! ### Holds -/

/-- What a quad's temperature makes of its hold and level. -/
def Quad.warmed (a : Quad) : Quad :=
  { a with
    hot := if 105 ≤ a.temp then true else if a.temp < 95 then false else a.hot
    tlvl := if 105 ≤ a.temp ∧ ¬ a.hot then 7 else a.tlvl }

theorem Quad.warmed_hot {a : Quad} (h : 105 ≤ a.temp ∧ ¬ a.hot = true) : a.warmed = { a with hot := true, tlvl := 7 } := by
  unfold Quad.warmed
  rw [if_pos h.1, if_pos h]

theorem Quad.warmed_cool {a : Quad} (h : a.hot = true ∧ a.temp < 95) : a.warmed = { a with hot := false } := by
  unfold Quad.warmed
  rw [if_neg (show ¬ 105 ≤ a.temp by omega), if_pos h.2, if_neg (show ¬ (105 ≤ a.temp ∧ ¬ a.hot = true) from fun k => k.2 h.1)]

theorem Quad.warmed_same {a : Quad} (h : ¬ (105 ≤ a.temp ∧ ¬ a.hot = true)) (h' : ¬ (a.hot = true ∧ a.temp < 95)) : a.warmed = a := by
  have hsame : (if 105 ≤ a.temp then true else if a.temp < 95 then false else a.hot) = a.hot := by
    cases hh : a.hot with
    | false =>
      rw [if_neg (fun k => h ⟨k, by rw [hh]; exact Bool.false_ne_true⟩)]
      exact ite_self false
    | true =>
      rw [if_neg (fun k => h' ⟨hh, k⟩)]
      exact ite_self true
  unfold Quad.warmed
  rw [if_neg h, hsame]

/-- The quad is held for its temperature. -/
def State.heated (t : State) (q : Nat) (w : Word) : State := ((t.updQuad q (fun b => { b with hot := true })).tlvlWrite q 7).logEvent w

theorem State.heated_spec (t : State) (q : Nat) (w : Word) :
    (t.heated q w).quad q = { t.quad q with hot := true, tlvl := 7 } ∧ (t.heated q w).harts = t.harts ∧
    (t.heated q w).mistral.sensf = t.mistral.sensf := by
  obtain ⟨lquad, lharts, lsensf⟩ := State.logEvent_keeps ((t.updQuad q (fun b => { b with hot := true })).tlvlWrite q 7) w
  obtain ⟨wquad, wharts, wsensf⟩ := State.tlvlWrite_quad (t.updQuad q (fun b => { b with hot := true })) q 7
  refine ⟨(lquad q).trans ?_, lharts.trans wharts, lsensf.trans wsensf⟩
  rw [wquad, State.quad_updQuad]
  rfl

theorem State.thermal_eq (s : State) (q : Nat) :
    ∃ t : State, s.thermal q = t.repoint q ∧ t.quad q = (s.quad q).heldBy.warmed ∧ t.harts = s.harts ∧ t.mistral.sensf = s.mistral.sensf := by
  obtain ⟨hquad, hharts, hsensf⟩ := State.holdFailed_quad s q
  unfold State.thermal
  generalize s.holdFailed q = t at hquad hharts hsensf
  dsimp only
  by_cases h1 : 105 ≤ (s.quad q).temp ∧ ¬ (s.quad q).hot = true
  · obtain ⟨gquad, gharts, gsensf⟩ := State.heated_spec t q (s.eventWord 7 q (s.quad q).temp)
    rw [if_pos h1, if_neg (fun h2 => h1.2 h2.1)]
    refine ⟨_, rfl, gquad.trans ?_, gharts.trans hharts, gsensf.trans hsensf⟩
    rw [hquad, Quad.warmed_hot (a := (s.quad q).heldBy) h1]
  · rw [if_neg h1]
    by_cases h2 : (s.quad q).hot = true ∧ (s.quad q).temp < 95
    · rw [if_pos h2]
      refine ⟨_, rfl, ?_, hharts, hsensf⟩
      rw [State.quad_updQuad, hquad, Quad.warmed_cool (a := (s.quad q).heldBy) h2]
    · rw [if_neg h2]
      refine ⟨t, rfl, ?_, hharts, hsensf⟩
      rw [hquad, Quad.warmed_same (a := (s.quad q).heldBy) h1 h2]

/-- What a sample's holds leave of a quad: its point alone is still to be taken. -/
theorem State.thermal_spec (s : State) (q : Nat) :
    (∃ c k o r, (s.thermal q).quad q = { (s.quad q).heldBy.warmed with clock := c, clockAt := k, opcur := o, raise := r }) ∧
    ((s.quad q).heldBy.hold = true ∨ (s.quad q).warmed.hot = true → ((s.thermal q).quad q).opcur = 0) ∧
    (s.thermal q).harts = s.harts ∧ (s.thermal q).mistral.sensf = s.mistral.sensf := by
  obtain ⟨t, ht, hquad, hharts, hsensf⟩ := State.thermal_eq s q
  rw [ht, State.repoint_quad]
  refine ⟨?_, fun h => ?_, hharts, hsensf⟩
  · obtain ⟨c, k, o, r, h⟩ := Quad.runAt_rest (t.quad q) t.time (t.pointOf q) (t.railPoint q)
    exact ⟨c, k, o, r, by rw [h, hquad]⟩
  · have hpoint : t.pointOf q = 0 := by
      refine if_pos ?_
      rw [hquad, Bool.or_eq_true]
      exact h
    rw [hpoint]
    exact (Quad.runAt_taken _ _ (.inl (Nat.zero_le _))).1

/-! ### The sample -/

/-- What a sample stores of a quad: the failed sensors, their readings, their runs and the temperature. -/
def Quad.sampled (failed : BitVec 6) (rs : List Int) (same : List (Nat × Int × Nat × Nat × Nat)) (a : Quad) : Quad :=
  { a with sfail := failed, readings := rs, same := same, temp := min ((maxOf rs).getD 0).toNat 255 }

theorem foldl_logEvent_keeps (f : State → Nat → Word) (l : List Nat) (s : State) :
    (∀ k, (l.foldl (fun u i => u.logEvent (f u i)) s).quad k = s.quad k) ∧ (l.foldl (fun u i => u.logEvent (f u i)) s).harts = s.harts ∧
    (l.foldl (fun u i => u.logEvent (f u i)) s).mistral.sensf = s.mistral.sensf :=
  foldl_keeps (P := fun t : State => (∀ k, t.quad k = s.quad k) ∧ t.harts = s.harts ∧ t.mistral.sensf = s.mistral.sensf)
    (f := fun u i => u.logEvent (f u i)) (fun u i ⟨hquad, hharts, hsensf⟩ => by
      obtain ⟨lquad, lharts, lsensf⟩ := State.logEvent_keeps u (f u i)
      exact ⟨fun k => (lquad k).trans (hquad k), lharts.trans hharts, lsensf.trans hsensf⟩) l ⟨fun _ => rfl, rfl, rfl⟩

/-- The sensors that a sample finds failed. -/
def State.failedNow (s : State) (q : Nat) : BitVec 6 := s.judged q s.ev.codes (s.quad q).sfail

/-- Those of them that had not failed before. -/
def State.newlyFailed (s : State) (q : Nat) : List Nat :=
  (List.range 6).filter (fun i => (s.failedNow q).getLsbD i && !(s.quad q).sfail.getLsbD i)

/-- The runs of the sensors' codes after a sample. -/
def State.runsNow (s : State) (q : Nat) : List (Nat × Int × Nat × Nat × Nat) :=
  (List.range 6).map (fun i =>
    (i, runOf (((s.quad q).same.find? (fun e => e.1 == i)).map (·.2)) (s.ev.codes.getD i 999) (modelPower (s.quad q).opcur)))

/-- A sample is stored, and its failures are logged. -/
def State.sampleLogged (s : State) (q : Nat) : State :=
  (s.newlyFailed q).foldl (fun u i => u.logEvent (u.eventWord 3 q i)) (s.updQuad q
    (Quad.sampled (s.failedNow q) ((List.range 6).map (s.reading q s.ev.codes (s.failedNow q))) (s.runsNow q)))

/-- A sample before its holds. -/
def State.sampleTaken (s : State) (q : Nat) : State :=
  if s.newlyFailed q = [] then s.sampleLogged q
  else { s.sampleLogged q with mistral := { (s.sampleLogged q).mistral with sensf := true } }

theorem execSensorSample_eq {s : State} (hq : s.ev.q < Config.quads) :
    exec .sensorSample s = .next ((s.sampleTaken s.ev.q).thermal s.ev.q) := if_neg (Nat.not_le.mpr hq)

theorem State.sampleTaken_spec (s : State) (q : Nat) :
    (s.sampleTaken q).quad q =
      (s.quad q).sampled (s.failedNow q) ((List.range 6).map (s.reading q s.ev.codes (s.failedNow q))) (s.runsNow q) ∧
    (s.sampleTaken q).harts = s.harts ∧ (s.newlyFailed q ≠ [] → (s.sampleTaken q).mistral.sensf = true) := by
  obtain ⟨lquad, lharts, -⟩ := foldl_logEvent_keeps (fun u i => u.eventWord 3 q i) (s.newlyFailed q) (s.updQuad q
    (Quad.sampled (s.failedNow q) ((List.range 6).map (s.reading q s.ev.codes (s.failedNow q))) (s.runsNow q)))
  have hquad := (lquad q).trans (State.quad_updQuad ..)
  unfold State.sampleTaken
  by_cases hnew : s.newlyFailed q = []
  · rw [if_pos hnew]
    exact ⟨hquad, lharts, fun h => absurd hnew h⟩
  · rw [if_neg hnew]
    exact ⟨hquad, lharts, fun _ => rfl⟩

theorem sensorSample_steps (s : State) (hq : s.ev.q < Config.quads) :
    let q := s.ev.q
    let a := s.quad q
    ∃ t, exec .sensorSample s = .next t ∧
      (∀ i, i < 6 → (a.sfail.getLsbD i = true ∨ s.sensorBroken q s.ev.codes i = true) → (t.quad q).sfail.getLsbD i = true) ∧
      (∀ i, i < 6 → (t.quad q).sfail.getLsbD i = true → a.sfail.getLsbD i = true ∨ s.sensorBroken q s.ev.codes i = true ∨
        ∃ m, s.sensorOff q s.ev.codes m i = true) ∧
      (∀ i, i < 6 → a.sfail = 0 → (∀ j, j < 6 → s.sensorBroken q s.ev.codes j = false) →
        (∀ j, j < i → (t.quad q).sfail.getLsbD j = false) → (t.quad q).sfail.getLsbD i = s.sensorOff q s.ev.codes 0 i) ∧
      (∀ i, i < 6 → (s.ev.codes.getD i 999 < -40 ∨ 150 < s.ev.codes.getD i 999) → (t.quad q).sfail.getLsbD i = true) ∧
      (∀ i, i < 6 → (t.quad q).sfail.getLsbD i = false → (t.quad q).readings[i]? = some (s.ev.codes.getD i 0)) ∧
      ((t.quad q).sfail ≠ a.sfail → t.mistral.sensf = true) ∧
      (∀ i j, i < 6 → j < 6 → i ≠ j → (t.quad q).sfail.getLsbD i = true → (t.quad q).sfail.getLsbD j = true →
        (t.quad q).hold = true ∧ (t.quad q).opcur = 0) ∧
      (105 ≤ (t.quad q).temp → (t.quad q).hot = true ∧ (t.quad q).opcur = 0 ∧ (a.hot = false → (t.quad q).tlvl = 7)) ∧
      ((t.quad q).temp < 95 → (t.quad q).hot = false) ∧ t.harts = s.harts ∧ t.mem = s.mem := by
  intro q a
  have hexec := execSensorSample_eq hq
  obtain ⟨hquad, hharts, hsensf⟩ := State.sampleTaken_spec s q
  generalize s.sampleTaken q = u at hexec hquad hharts hsensf
  obtain ⟨⟨c, k, o, r, hfinal⟩, hop, hharts', hsensf'⟩ := State.thermal_spec u q
  have hkept : Kept false false s (u.thermal q) := execSensorSample_leads (Kept.refl s) _ hexec
  rw [hquad] at hfinal hop
  have hsfail : ((u.thermal q).quad q).sfail = s.judged q s.ev.codes a.sfail := by
    rw [hfinal]
    rfl
  refine ⟨u.thermal q, hexec, ?_, ?_, ?_, ?_, ?_, ?_, ?_, ?_, ?_, hharts'.trans hharts, hkept.mem_eq⟩
  · rw [hsfail]
    exact fun i hi h => State.judged_of_known hi h
  · rw [hsfail]
    exact fun i hi h => State.of_judged hi h
  · rw [hsfail]
    intro i hi hnone hbroken hfirst
    rw [hnone] at hfirst ⊢
    exact State.judged_first hi hbroken hfirst
  · rw [hsfail]
    intro i hi h
    refine State.judged_of_known hi (.inr ?_)
    unfold State.sensorBroken
    simp only [Bool.or_eq_true, decide_eq_true_eq]
    exact .inl h
  · rw [hsfail, hfinal]
    intro i hi h
    show ((List.range 6).map (s.reading q s.ev.codes (s.judged q s.ev.codes a.sfail)))[i]? = _
    rw [List.getElem?_map, List.getElem?_range hi, Option.map_some, State.reading, h]
    rfl
  · rw [hsfail]
    intro hne
    refine hsensf'.trans (hsensf fun hnone => hne (BitVec.eq_of_getLsbD_eq fun i hi => ?_))
    cases hold : a.sfail.getLsbD i with
    | true => exact State.judged_of_known hi (.inl hold)
    | false =>
      refine Bool.eq_false_iff.mpr fun hnew => ?_
      have hmem : i ∈ s.newlyFailed q :=
        List.mem_filter.mpr ⟨List.mem_range.mpr hi, Bool.and_eq_true_iff.mpr ⟨hnew, by rw [show (s.quad q).sfail.getLsbD i = false from hold]; rfl⟩⟩
      rw [hnone] at hmem
      exact List.not_mem_nil hmem
  · rw [hsfail]
    intro i j hi hj hij hvi hvj
    have hhold : ((a.sampled (s.failedNow q) ((List.range 6).map (s.reading q s.ev.codes (s.failedNow q))) (s.runsNow q)).heldBy).hold =
        true :=
      Bool.or_eq_true_iff.mpr (.inr (decide_eq_true (two_le_failedSensors hij hi hj hvi hvj)))
    refine ⟨?_, hop (.inl hhold)⟩
    rw [hfinal]
    exact hhold
  · rw [hfinal]
    intro htemp
    refine ⟨if_pos htemp, ?_, fun hcold => if_pos ⟨htemp, ?_⟩⟩
    · rw [← hfinal]
      exact hop (.inr (if_pos htemp))
    · exact Bool.eq_false_iff.mp hcold
  · rw [hfinal]
    exact fun htemp => (if_neg (Nat.not_le.mpr (Nat.lt_trans htemp (by decide)))).trans (if_pos htemp)

end Sys2Proof.Machine
end

section
/-!
SUPPORT. A quad enters its idle state and wakes from it (R399).
-/
namespace Sys2Proof.Machine

/-! ### Entering an idle state -/

/-- An ON bank that holds granules goes to retention. -/
def Quad.retainBank (b : Quad) (k : Nat) : Quad :=
  if b.bankHeld k ∧ (Tab.get b.banks k {}).st = 2 then
    { b with banks := Tab.set b.banks k { Tab.get b.banks k {} with st := 1 } } else b

theorem Quad.retainBank_bankHeld (b : Quad) (k j : Nat) : (b.retainBank k).bankHeld j = b.bankHeld j := by
  unfold Quad.retainBank
  split <;> rfl

/-- Bank `k` is not ON while it holds granules. -/
def Quad.Retained (k : Nat) (b : Quad) : Prop := b.bankHeld k = true → (Tab.get b.banks k {}).st ≠ 2

theorem Quad.retainBank_retained (b : Quad) (k : Nat) : (b.retainBank k).Retained k := by
  intro hheld
  rw [Quad.retainBank_bankHeld] at hheld
  unfold Quad.retainBank
  split
  · rw [Tab.get_set_same]
    exact (by decide : (1 : Nat) ≠ 2)
  · rename_i h
    exact fun hst => h ⟨hheld, hst⟩

theorem Quad.Retained.retainBank {b : Quad} {k : Nat} (h : b.Retained k) (j : Nat) : (b.retainBank j).Retained k := by
  by_cases hj : k = j
  · subst hj
    exact Quad.retainBank_retained b k
  · intro hheld
    rw [Quad.retainBank_bankHeld] at hheld
    unfold Quad.retainBank
    split
    · rw [Tab.get_set_other _ _ _ _ _ hj]
      exact h hheld
    · exact h hheld

/-- A quad in idle state `n`. -/
def Quad.rested (n : Nat) (a : Quad) : Quad := { (if 2 ≤ n then (List.range 32).foldl Quad.retainBank a else a) with idle := n }

theorem Quad.rested_retained {a : Quad} {n b : Nat} (hn : 2 ≤ n) (hb : b < 32) (hheld : a.bankHeld b = true) :
    (Tab.get (a.rested n).banks b {}).st ≠ 2 := by
  have hretained : ((List.range 32).foldl Quad.retainBank a).Retained b :=
    foldl_reaches (P := Quad.Retained b) (fun _ k h => h.retainBank k) (List.mem_range.mpr hb) (fun u => Quad.retainBank_retained u b) a
  have hsame : ((List.range 32).foldl Quad.retainBank a).bankHeld b = a.bankHeld b :=
    Quad.foldl_field (g := fun u => u.bankHeld b) (fun u k => Quad.retainBank_bankHeld u k b) _ a
  unfold Quad.rested
  rw [if_pos hn]
  generalize (List.range 32).foldl Quad.retainBank a = u at hretained hsame
  exact hretained (hsame.trans hheld)

theorem execIdleEntry_enters {s : State} (hq : s.ev.q < Config.quads) (hfree : (s.freeSlots s.ev.q).length = 32)
    (hwanted : s.quadWanted s.ev.q = false) (hlow : (s.quad s.ev.q).idle < s.idleFor s.ev.q) :
    exec .idleEntry s = .next (if s.idleFor s.ev.q = 3 then
        (s.updQuad s.ev.q (Quad.rested (s.idleFor s.ev.q))).updDie (dieOfQuad s.ev.q)
          (fun d => { d with gddrDown := span (16 * dieOfQuad s.ev.q) 16 })
      else s.updQuad s.ev.q (Quad.rested (s.idleFor s.ev.q))) := by
  have hgo : ¬ (Config.quads ≤ s.ev.q ∨ (s.freeSlots s.ev.q).length ≠ 32 ∨ s.quadWanted s.ev.q = true ∨
      s.idleFor s.ev.q ≤ (s.quad s.ev.q).idle) := by
    rw [hwanted]
    simp only [hfree, ne_eq, not_true_eq_false, Bool.false_eq_true, false_or]
    omega
  refine (if_neg hgo).trans ?_
  by_cases h3 : s.idleFor s.ev.q = 3
  · rw [if_pos h3, if_pos h3]
    rfl
  · rw [if_neg h3, if_neg h3]
    rfl

/-! ### Waking -/

theorem Quad.wakeBank_bank (a : Quad) (now k b : Nat) :
    Tab.get (a.wakeBank now k).banks b {} =
      if k = b ∧ (Tab.get a.banks b {}).st = 1 then ⟨3, now + 32, true⟩ else Tab.get a.banks b {} := by
  unfold Quad.wakeBank
  by_cases hk : k = b
  · subst hk
    by_cases hst : (Tab.get a.banks k {}).st = 1
    · rw [if_pos hst, if_pos ⟨rfl, hst⟩, Tab.get_set_same]
    · rw [if_neg hst, if_neg (fun h => hst h.2)]
  · rw [if_neg (fun h : k = b ∧ _ => hk h.1)]
    split
    · exact Tab.get_set_other _ _ _ _ _ (Ne.symm hk)
    · rfl

theorem Quad.wakeBanks_bank (a : Quad) (now : Nat) (l : List Nat) {b : Nat} (hb : b ∈ l) (hst : (Tab.get a.banks b {}).st = 1) :
    Tab.get (l.foldl (fun t k => t.wakeBank now k) a).banks b {} = ⟨3, now + 32, true⟩ := by
  have hkeep : ∀ (l : List Nat) (u : Quad), (Tab.get u.banks b {}).st ≠ 1 →
      Tab.get (l.foldl (fun t k => t.wakeBank now k) u).banks b {} = Tab.get u.banks b {} := by
    intro l
    induction l with
    | nil => exact fun _ _ => rfl
    | cons k l ih =>
      intro u hu
      have hone : Tab.get (u.wakeBank now k).banks b {} = Tab.get u.banks b {} := by
        rw [Quad.wakeBank_bank, if_neg (fun h => hu h.2)]
      rw [List.foldl_cons, ih _ (by rw [hone]; exact hu), hone]
  induction l generalizing a with
  | nil => exact absurd hb List.not_mem_nil
  | cons k l ih =>
    rw [List.foldl_cons]
    by_cases hk : k = b
    · have hone : Tab.get (a.wakeBank now k).banks b {} = ⟨3, now + 32, true⟩ := by
        rw [Quad.wakeBank_bank, if_pos ⟨hk, hst⟩]
      rw [hkeep l _ (by rw [hone]; exact (by decide : (3 : Nat) ≠ 1)), hone]
    · have hone : Tab.get (a.wakeBank now k).banks b {} = Tab.get a.banks b {} := by
        rw [Quad.wakeBank_bank, if_neg (fun h => hk h.1)]
      exact ih (a.wakeBank now k) ((List.mem_cons.mp hb).resolve_left (Ne.symm hk)) (by rw [hone]; exact hst)

/-- A quad that wakes: its banks in retention begin to wake. -/
theorem Quad.raised_zero (a : Quad) (now : Nat) :
    (a.raised now 0).idle = 0 ∧
    ∀ b, b < 32 → (Tab.get a.banks b {}).st = 1 → Tab.get (a.raised now 0).banks b {} = ⟨3, now + 32, true⟩ := by
  have hbanks := fun b hb hst => Quad.wakeBanks_bank a now (List.range 32) (b := b) (List.mem_range.mpr hb) hst
  unfold Quad.raised
  rw [if_pos (by decide)]
  generalize (List.range 32).foldl (fun t k => t.wakeBank now k) a = u at hbanks
  exact ⟨rfl, hbanks⟩

/-- The die of a quad in I2 or deeper leaves I3 with it. -/
theorem State.raiseIdle_endI3 {s : State} {q k : Nat} (n : Nat) (hidle : 2 ≤ (s.quad q).idle) (hk : k / 96 = q / 96)
    (hk3 : (s.quad k).idle = 3) : s.raiseIdle q n = (s.updQuad q (Quad.raised s.time n)).endI3 (dieOfQuad q) := by
  rw [State.raiseIdle_eq, if_neg]
  rintro (h | h)
  · omega
  · refine h (List.any_eq_true.mpr ⟨k, List.mem_map.mpr ⟨k % 96, List.mem_range.mpr (Nat.mod_lt _ (by decide)), ?_⟩, decide_eq_true hk3⟩)
    show 96 * (q / 96) + k % 96 = k
    omega

theorem State.endI3_idle (t : State) (die k : Nat) (hk : k / 96 = die) :
    ((t.endI3 die).quad k).idle ≠ 3 ∧ ((t.endI3 die).die die).gddrDown = [] := by
  refine ⟨?_, ?_⟩
  · rw [State.endI3_quad]
    split
    · exact (by decide : (2 : Nat) ≠ 3)
    · rename_i h
      exact fun h3 => h ⟨hk, h3⟩
  · exact congrArg Die.gddrDown (Tab.get_set_same ..)

/-- Where a quad does not stand in I3, the end of I3 changes nothing of it. -/
theorem State.endI3_quad_same (t : State) (die : Nat) {q : Nat} (h : (t.quad q).idle ≠ 3) : (t.endI3 die).quad q = t.quad q := by
  rw [State.endI3_quad, if_neg (fun k => h k.2)]

theorem State.raiseIdle_quad (s : State) (q : Nat) : (s.raiseIdle q 0).quad q = (s.quad q).raised s.time 0 := by
  have hquad : (s.updQuad q (Quad.raised s.time 0)).quad q = (s.quad q).raised s.time 0 := State.quad_updQuad ..
  rw [State.raiseIdle_eq]
  split
  · exact hquad
  · rw [State.endI3_quad_same, hquad]
    rw [hquad, (Quad.raised_zero _ _).1]
    decide

theorem idle_steps (s : State) :
    let q := s.ev.q
    let n := s.idleFor q
    (q < Config.quads → (s.freeSlots q).length = 32 → s.quadWanted q = false → (s.quad q).idle < n →
      ∃ t, exec .idleEntry s = .next t ∧ (t.quad q).idle = n ∧
        (2 ≤ n → ∀ b, b < 32 → (s.quad q).bankHeld b = true → (Tab.get (t.quad q).banks b {}).st ≠ 2) ∧
        (n = 3 → (t.die (dieOfQuad q)).gddrDown = span (16 * dieOfQuad q) 16) ∧ t.harts = s.harts ∧ t.mem = s.mem ∧ t.tmem = s.tmem) ∧
    ((s.freeSlots q).length ≠ 32 ∨ s.quadWanted q = true ∨ n ≤ (s.quad q).idle → exec .idleEntry s = .next s) ∧
    ((s.quad q).idle ≠ 0 → s.quadWanted q = true →
      ∃ t, exec .idleWake s = .next t ∧ (t.quad q).idle = 0 ∧ t.harts = s.harts ∧ t.mem = s.mem ∧ t.tmem = s.tmem ∧
        (∀ b, b < 32 → (Tab.get (s.quad q).banks b {}).st = 1 → Tab.get (t.quad q).banks b {} = ⟨3, s.time + 32, true⟩) ∧
        (∀ k, 2 ≤ (s.quad q).idle → k / 96 = q / 96 → (s.quad k).idle = 3 → (t.die (q / 96)).gddrDown = [] ∧ (t.quad k).idle ≠ 3)) ∧
    ((s.quad q).idle = 0 ∨ s.quadWanted q = false → exec .idleWake s = .next s) := by
  intro q n
  refine ⟨fun hq hfree hwanted hlow => ?_, fun h => if_pos (.inr h), fun hidle hwanted => ?_, fun h => if_neg ?_⟩
  · have hquad : (s.updQuad q (Quad.rested n)).quad q = (s.quad q).rested n := State.quad_updQuad ..
    have hretained : 2 ≤ n → ∀ b, b < 32 → (s.quad q).bankHeld b = true →
        (Tab.get ((s.updQuad q (Quad.rested n)).quad q).banks b {}).st ≠ 2 := fun hn b hb hheld => by
      rw [hquad]
      exact Quad.rested_retained hn hb hheld
    refine ⟨_, execIdleEntry_enters hq hfree hwanted hlow, ?_⟩
    by_cases h3 : n = 3
    · rw [if_pos h3]
      exact ⟨congrArg Quad.idle hquad, hretained, fun _ => congrArg Die.gddrDown (Tab.get_set_same ..), rfl, rfl, rfl⟩
    · rw [if_neg h3]
      exact ⟨congrArg Quad.idle hquad, hretained, fun h => absurd h h3, rfl, rfl, rfl⟩
  · obtain ⟨hzero, hbanks⟩ := Quad.raised_zero (s.quad q) s.time
    have hidled := (State.raiseIdle_idled s q 0)
    refine ⟨s.raiseIdle q 0, if_pos ⟨hidle, hwanted⟩, ?_, hidled.harts, ?_, ?_, ?_, fun k h2 hk hk3 => ?_⟩
    · rw [State.raiseIdle_quad, hzero]
    · rw [hidled.rest]
    · rw [hidled.rest]
    · rw [State.raiseIdle_quad]
      exact hbanks
    · obtain ⟨hnot, hdown⟩ := State.endI3_idle (s.updQuad q (Quad.raised s.time 0)) (dieOfQuad q) k hk
      rw [State.raiseIdle_endI3 0 h2 hk hk3]
      exact ⟨hdown, hnot⟩
  · rintro ⟨hidle, hwanted⟩
    rcases h with h | h
    · exact hidle h
    · exact Bool.false_ne_true (h.symm.trans hwanted)

end Sys2Proof.Machine
end

section
/-!
SUPPORT. Mistral's budget (R392 to R394): the caps, the effective floors and the grants.
-/
namespace Sys2Proof.Machine

/-! ### Sums and tables -/

theorem foldl_add_eq_sum {α : Type} (f : α → Nat) (l : List α) (n : Nat) : l.foldl (fun m x => m + f x) n = n + (l.map f).sum := by
  induction l generalizing n with
  | nil => rfl
  | cons x l ih => rw [List.foldl_cons, ih, List.map_cons, List.sum_cons, Nat.add_assoc]

/-- The sum over a list without repetition of a value that stands at one place. -/
theorem sum_map_single {l : List Nat} (h : l.Nodup) (x a : Nat) : (l.map (fun k => if x = k then a else 0)).sum = if x ∈ l then a else 0 := by
  induction l with
  | nil => rfl
  | cons k l ih =>
    obtain ⟨hk, hl⟩ := List.nodup_cons.mp h
    rw [List.map_cons, List.sum_cons, ih hl]
    by_cases hx : x = k
    · subst hx
      rw [if_pos rfl, if_neg hk, if_pos List.mem_cons_self, Nat.add_zero]
    · simp [hx]

/-- An element of a table all of whose entries of a number agree. -/
theorem Tab.get_of_unique {α : Type} {t : Tab α} {k : Nat} {v : α} (d : α) (hv : ∀ x ∈ t, x.1 = k → x.2 = v) (hk : ∃ x ∈ t, x.1 = k) :
    Tab.get t k d = v := by
  induction t with
  | nil =>
    obtain ⟨x, hx, -⟩ := hk
    exact absurd hx List.not_mem_nil
  | cons x t ih =>
    obtain ⟨j, a⟩ := x
    simp only [Tab.get]
    split
    · exact hv (j, a) List.mem_cons_self ‹_›
    · rename_i hj
      refine ih (fun x hx => hv x (List.mem_cons_of_mem _ hx)) ?_
      obtain ⟨x, hx, hxk⟩ := hk
      rcases List.mem_cons.mp hx with rfl | hx
      · exact absurd hxk hj
      · exact ⟨x, hx, hxk⟩

/-- A table that lists the numbers below `n`. -/
theorem Tab.get_range_map {α : Type} (f : Nat → α) (n k : Nat) (d : α) (hk : k < n) :
    Tab.get ((List.range n).map (fun q => (q, f q))) k d = f k := by
  refine Tab.get_of_unique d (fun x hx hxk => ?_) ⟨(k, f k), List.mem_map.mpr ⟨k, List.mem_range.mpr hk, rfl⟩, rfl⟩
  obtain ⟨j, -, rfl⟩ := List.mem_map.mp hx
  exact congrArg f hxk

/-- What the elements at some places of a table add up to. -/
theorem Tab.sum_get_le (g : Tab Nat) {l : List Nat} (h : l.Nodup) :
    (l.map (fun k => Tab.get g k 0)).sum ≤ (g.map (fun e => if e.1 ∈ l then e.2 else 0)).sum := by
  induction g with
  | nil => simp [Tab.get]
  | cons x g ih =>
    have hstep : ∀ k ∈ l, Tab.get (x :: g) k 0 ≤ (if x.1 = k then x.2 else 0) + Tab.get g k 0 := by
      intro k _
      simp only [Tab.get]
      split <;> omega
    calc (l.map (fun k => Tab.get (x :: g) k 0)).sum
        ≤ (l.map (fun k => (if x.1 = k then x.2 else 0) + Tab.get g k 0)).sum := List.sum_le_sum hstep
      _ = (if x.1 ∈ l then x.2 else 0) + (l.map (fun k => Tab.get g k 0)).sum := by rw [List.sum_map_add, sum_map_single h]
      _ ≤ _ := by rw [List.map_cons, List.sum_cons]; exact Nat.add_le_add_left ih _

/-! ### Caps and effective floors (R393, R394) -/

/-- ECAP (R393, R400). -/
def Mistral.capNow (m : Mistral) : Nat := max (min m.hcap 1900) m.idlefl

/-- By how much the floors do not fit under ECAP. -/
def State.shortNow (s : State) : Nat := s.mistral.idlefl + s.parts.foldl (fun n p => n + p.2.floor) 0 - s.mistral.capNow

/-- The effective floors by partition. -/
def State.floorsNow (s : State) : List (Nat × Nat) := effFloors (s.parts.map (fun p => (p.1, p.2.fcls, p.2.floor))) 8 0 s.shortNow

theorem State.logEvent_if (s : State) (c : Prop) [Decidable c] (w : Word) :
    ∃ e, (if c then s.logEvent w else s) = { s with mistral := { s.mistral with events := e } } := by
  split
  · exact State.logEvent_rest s w
  · exact ⟨s.mistral.events, rfl⟩

/-- Step 1 changes Mistral's registers and the effective floors alone. -/
theorem State.setCaps_eq (s : State) : ∃ e, s.setCaps = { s with
    mistral := { s.mistral with
      ecap := s.mistral.capNow
      capclamp := s.mistral.capclamp || decide (min s.mistral.hcap 1900 < s.mistral.idlefl)
      fluredu := s.mistral.fluredu || decide (s.shortNow ≠ 0)
      events := e }
    parts := s.parts.map (fun p => (p.1, { p.2 with floore := Tab.get s.floorsNow p.1 0 })) } := by
  unfold State.setCaps
  extract_lets m hcap clamp ecap t t₁ sum short fl t₂ m' u
  obtain ⟨e, he⟩ : ∃ e, t₁ = { s with mistral := { m with ecap := ecap, capclamp := m.capclamp || clamp, events := e } } :=
    State.logEvent_if t _ _
  have ht₂ : t₂ = { t₁ with parts := t₁.parts.map (fun p => (p.1, { p.2 with floore := Tab.get fl p.1 0 })) } := rfl
  by_cases hs : short = 0
  · refine ⟨e, ?_⟩
    rw [if_pos hs, ht₂, he, show decide (s.shortNow ≠ 0) = false from decide_eq_false (not_not_intro hs), Bool.or_false]
    rfl
  · rw [if_neg hs]
    have hu : u = { t₂ with mistral := { t₂.mistral with fluredu := true } } := rfl
    obtain ⟨e', he'⟩ := State.logEvent_rest u (u.eventWord 6 0 0)
    refine ⟨e', ?_⟩
    rw [show decide (s.shortNow ≠ 0) = true from decide_eq_true hs, Bool.or_true]
    refine he'.trans ?_
    rw [hu, ht₂, he]
    rfl

/-- Without a shortfall no floor is reduced. -/
theorem reduction_zero {total floor : Nat} (h : floor ≤ total) : floor - reduction 0 total floor = floor := by
  unfold reduction
  split
  · omega
  · rw [Nat.mul_zero, Nat.zero_add, Nat.div_eq_of_lt (by omega), Nat.sub_zero]

theorem mem_effFloors_zero (ps : List (Nat × Nat × Nat)) (n k : Nat) (x : Nat × Nat) :
    x ∈ effFloors ps n k 0 ↔ ∃ p ∈ ps, k ≤ p.2.1 ∧ p.2.1 < k + n ∧ x = (p.1, p.2.2) := by
  induction n generalizing k with
  | zero =>
    constructor
    · exact fun h => absurd h List.not_mem_nil
    · rintro ⟨p, -, hlo, hhi, -⟩
      omega
  | succ n ih =>
    have hfloor : ∀ p ∈ ps.filter (fun p => decide (p.2.1 = k)),
        p.2.2 ≤ (ps.filter (fun p => decide (p.2.1 = k))).foldl (fun m p => m + p.2.2) 0 := fun p hp => by
      rw [foldl_add_eq_sum, Nat.zero_add]
      exact List.le_sum_of_mem (List.mem_map_of_mem (f := fun p : Nat × Nat × Nat => p.2.2) hp)
    unfold effFloors
    simp only [Nat.zero_sub, List.mem_append, ih, List.mem_map]
    constructor
    · rintro (⟨p, hp, rfl⟩ | ⟨p, hp, hlo, hhi, rfl⟩)
      · have hk : p.2.1 = k := of_decide_eq_true (List.mem_filter.mp hp).2
        exact ⟨p, (List.mem_filter.mp hp).1, by omega, by omega, by rw [reduction_zero (hfloor p hp)]⟩
      · exact ⟨p, hp, by omega, by omega, rfl⟩
    · rintro ⟨p, hp, hlo, hhi, rfl⟩
      by_cases hk : p.2.1 = k
      · have hmem : p ∈ ps.filter (fun p => decide (p.2.1 = k)) := List.mem_filter.mpr ⟨hp, decide_eq_true hk⟩
        exact .inl ⟨p, hmem, by rw [reduction_zero (hfloor p hmem)]⟩
      · exact .inr ⟨p, hp, by omega, by omega, rfl⟩

/-- Where all floors fit, the effective floor of a partition is its floor. -/
theorem State.floorsNow_get {s : State} (hnodup : (s.parts.map (·.1)).Nodup) (hcls : ∀ e ∈ s.parts, e.2.fcls < 8) (hshort : s.shortNow = 0)
    {e : Nat × Part} (he : e ∈ s.parts) : Tab.get s.floorsNow e.1 0 = e.2.floor := by
  unfold State.floorsNow
  rw [hshort]
  refine Tab.get_of_unique 0 (fun x hx hxe => ?_) ⟨(e.1, e.2.floor), ?_, rfl⟩
  · obtain ⟨p, hp, -, -, rfl⟩ := (mem_effFloors_zero _ 8 0 x).mp hx
    obtain ⟨f, hf, rfl⟩ := List.mem_map.mp hp
    rw [List.inj_on_of_nodup_map hnodup hf he hxe]
  · exact (mem_effFloors_zero _ 8 0 _).mpr ⟨(e.1, e.2.fcls, e.2.floor), List.mem_map.mpr ⟨e, he, rfl⟩, Nat.zero_le _,
      by have := hcls e he; omega, rfl⟩

/-! ### Grants (R392, R393) -/

theorem Grants.onDie_eq (g : Grants) (d : Nat) : g.onDie d = (g.map (fun e => if e.1 / 96 = d then e.2 else 0)).sum := by
  have hf : (fun (n : Nat) (e : Nat × Nat) => if e.1 / 96 = d then n + e.2 else n) = fun n e => n + if e.1 / 96 = d then e.2 else 0 := by
    funext n e
    split <;> rfl
  unfold Grants.onDie
  rw [hf, foldl_add_eq_sum, Nat.zero_add]

/-- A table's numbers rise strictly. -/
def Tab.Rising {α : Type} (t : Tab α) : Prop := t.Pairwise (fun x y => x.1 < y.1)

theorem Tab.Rising.set {α : Type} {t : Tab α} (h : t.Rising) (k : Nat) (a : α) : (Tab.set t k a).Rising := by
  unfold Tab.Rising at h ⊢
  induction t with
  | nil => exact List.pairwise_singleton ..
  | cons x t ih =>
    obtain ⟨j, b⟩ := x
    obtain ⟨hj, ht⟩ := List.pairwise_cons.mp h
    simp only [Tab.set]
    split
    · refine List.pairwise_cons.mpr ⟨fun y hy => ?_, h⟩
      rcases List.mem_cons.mp hy with rfl | hy
      · assumption
      · exact Nat.lt_trans ‹k < j› (hj y hy)
    · split
      · subst_vars
        exact List.pairwise_cons.mpr ⟨hj, ht⟩
      · refine List.pairwise_cons.mpr ⟨fun y hy => ?_, ih ht⟩
        rcases Tab.mem_set hy with hy | rfl
        · exact hj y hy
        · show j < k
          omega

theorem Tab.get_of_lt {α : Type} {t : Tab α} {k : Nat} (d : α) (h : ∀ x ∈ t, k < x.1) : Tab.get t k d = d := by
  induction t with
  | nil => rfl
  | cons x t ih =>
    have hx := h x List.mem_cons_self
    rw [Tab.get, if_neg (by omega)]
    exact ih (fun y hy => h y (List.mem_cons_of_mem _ hy))

/-- A grant raised raises what its die has been granted by as much. -/
theorem Grants.onDie_set {g : Grants} (h : g.Rising) (q m d : Nat) :
    Grants.onDie (Tab.set g q (Tab.get g q 0 + m)) d = g.onDie d + if q / 96 = d then m else 0 := by
  rw [Grants.onDie_eq, Grants.onDie_eq]
  unfold Tab.Rising at h
  induction g with
  | nil => simp [Tab.set, Tab.get]
  | cons x g ih =>
    obtain ⟨j, b⟩ := x
    obtain ⟨hj, hg⟩ := List.pairwise_cons.mp h
    simp only [Tab.set]
    split
    · rename_i hlt
      have hnone : Tab.get ((j, b) :: g) q 0 = 0 := Tab.get_of_lt 0 (fun y hy => by
        rcases List.mem_cons.mp hy with rfl | hy
        · exact hlt
        · exact Nat.lt_trans hlt (hj y hy))
      rw [hnone, List.map_cons, List.sum_cons, Nat.zero_add, Nat.add_comm]
    · split
      · subst_vars
        simp only [Tab.get, if_true, List.map_cons, List.sum_cons]
        split <;> omega
      · rename_i hne
        rw [Tab.get, if_neg (fun h => hne h.symm), List.map_cons, List.sum_cons, ih hg, List.map_cons, List.sum_cons, Nat.add_assoc]

/-- No die is granted more than 335 W. -/
structure Grants.Within (g : Grants) : Prop where
  rising : g.Rising
  die : ∀ d, g.onDie d ≤ 33500

theorem Grants.Within.nil : Grants.Within [] := ⟨List.Pairwise.nil, fun _ => Nat.zero_le _⟩

theorem Grants.Within.give {g : Grants} (h : g.Within) (q n : Nat) : (g.give q n).Within := by
  refine ⟨h.rising.set .., fun d => ?_⟩
  unfold Grants.give
  rw [Grants.onDie_set h.rising]
  have hd := h.die d
  by_cases hq : q / 96 = d
  · subst hq
    rw [if_pos rfl]
    omega
  · rw [if_neg hq]
    exact hd

theorem State.grants_within (s : State) (budget : Nat) : (s.grants budget).Within := by
  unfold State.grants
  refine foldl_keeps (P := Grants.Within) (fun g k hg => ?_) _ (foldl_keeps (P := Grants.Within) (fun g p hg => ?_) _ .nil)
  · exact foldl_keeps (P := Grants.Within) (fun g q hg => hg.give ..) _ hg
  · exact foldl_keeps (P := Grants.Within) (fun g q hg => hg.give ..) _ hg

theorem pointFor_power (g : Nat) : pointFor g = 0 ∨ modelPower (pointFor g) ≤ g := by
  unfold pointFor
  refine foldl_keeps (P := fun m => m = 0 ∨ modelPower m ≤ g) (fun m k hm => ?_) _ (.inl rfl)
  split
  · exact .inr ‹_›
  · exact hm

/-- The model power of the points that a die's quads are granted. -/
theorem Grants.Within.power {g : Grants} (h : g.Within) (d : Nat) :
    (span (96 * d) 96).foldl (fun n q => n + if pointFor (Tab.get g q 0) = 0 then 0 else modelPower (pointFor (Tab.get g q 0))) 0 ≤ 33500 := by
  have hnodup : (span (96 * d) 96).Nodup := List.nodup_range.map (fun _ _ h => Nat.add_left_cancel h)
  have hpoint : ∀ q ∈ span (96 * d) 96,
      (if pointFor (Tab.get g q 0) = 0 then 0 else modelPower (pointFor (Tab.get g q 0))) ≤ Tab.get g q 0 := by
    intro q _
    split
    · exact Nat.zero_le _
    · exact (pointFor_power _).resolve_left ‹_›
  have hdie : ∀ e ∈ g, (if e.1 ∈ span (96 * d) 96 then e.2 else 0) ≤ if e.1 / 96 = d then e.2 else 0 := by
    intro e _
    split
    · rename_i hmem
      obtain ⟨k, hk, he⟩ := List.mem_map.mp hmem
      have := List.mem_range.mp hk
      rw [if_pos (by omega)]
    · exact Nat.zero_le _
  calc _ = ((span (96 * d) 96).map (fun q => if pointFor (Tab.get g q 0) = 0 then 0 else modelPower (pointFor (Tab.get g q 0)))).sum := by
        rw [foldl_add_eq_sum, Nat.zero_add]
    _ ≤ ((span (96 * d) 96).map (fun q => Tab.get g q 0)).sum := List.sum_le_sum hpoint
    _ ≤ (g.map (fun e => if e.1 ∈ span (96 * d) 96 then e.2 else 0)).sum := Tab.sum_get_le g hnodup
    _ ≤ (g.map (fun e => if e.1 / 96 = d then e.2 else 0)).sum := List.sum_le_sum hdie
    _ = g.onDie d := (Grants.onDie_eq g d).symm
    _ ≤ 33500 := h.die d

end Sys2Proof.Machine
end

section
/-!
SUPPORT. Mistral's period (R52, R389 to R393): caps, points, energy and phases.
-/
namespace Sys2Proof.Machine
open Sys2Proof.Claims

/-! ### Energy (R389) -/

/-- A partition's energy after a period. -/
def State.charged (s : State) (p : Nat) (a : Part) : Part :=
  match s.quadsOf p with
  | [] => a
  | qs =>
    let e := a.energyPart + qs.foldl (fun n q => n + modelPower (s.quadVote q)) 0
    { a with energy := a.energy + BitVec.ofNat 64 (e / 10000), energyPart := e % 10000 }

/-- The charge of one partition. -/
def State.chargePart (s t : State) (p : Nat) : State :=
  match s.quadsOf p with
  | [] => t
  | qs => t.updPart p (fun a =>
    let e := a.energyPart + qs.foldl (fun n q => n + modelPower (s.quadVote q)) 0
    { a with energy := a.energy + BitVec.ofNat 64 (e / 10000), energyPart := e % 10000 })

theorem State.chargeEnergy_eq (s : State) : s.chargeEnergy = (List.range 16).foldl s.chargePart s := rfl

theorem State.prt_updPart_other (s : State) (p : Nat) (f : Part → Part) {j : Nat} (h : j ≠ p) : (s.updPart p f).prt j = s.prt j :=
  Tab.get_set_other _ _ _ _ _ h

theorem State.chargePart_prt (s t : State) (p j : Nat) :
    (s.chargePart t p).prt j = if j = p then s.charged p (t.prt j) else t.prt j := by
  unfold State.chargePart State.charged
  by_cases h : j = p
  · subst h
    rw [if_pos rfl]
    cases s.quadsOf j with
    | nil => rfl
    | cons q qs => exact State.prt_updPart ..
  · rw [if_neg h]
    cases s.quadsOf p with
    | nil => rfl
    | cons q qs => exact State.prt_updPart_other _ _ _ h

theorem State.chargeParts_prt (s : State) {l : List Nat} (h : l.Nodup) (t : State) (j : Nat) :
    (l.foldl s.chargePart t).prt j = if j ∈ l then s.charged j (t.prt j) else t.prt j := by
  induction l generalizing t with
  | nil => rfl
  | cons p l ih =>
    obtain ⟨hp, hl⟩ := List.nodup_cons.mp h
    rw [List.foldl_cons, ih hl, State.chargePart_prt]
    by_cases hj : j = p
    · subst hj
      rw [if_neg hp, if_pos rfl, if_pos List.mem_cons_self]
    · simp [hj]

theorem State.chargeEnergy_prt (s : State) (j : Nat) : s.chargeEnergy.prt j = if j < 16 then s.charged j (s.prt j) else s.prt j := by
  rw [State.chargeEnergy_eq, State.chargeParts_prt s List.nodup_range]
  simp only [List.mem_range]

theorem State.charged_floore (s : State) (p : Nat) (a : Part) : (s.charged p a).floore = a.floore := by
  unfold State.charged
  split <;> rfl

theorem State.chargeEnergy_rest (s : State) : ∃ p, s.chargeEnergy = { s with parts := p } := by
  rw [State.chargeEnergy_eq]
  refine foldl_keeps (P := fun t : State => ∃ p, t = { s with parts := p }) (fun t p ht => ?_) _ ⟨s.parts, rfl⟩
  obtain ⟨l, rfl⟩ := ht
  unfold State.chargePart
  split
  · exact ⟨l, rfl⟩
  · exact ⟨_, rfl⟩

/-! ### Points -/

theorem State.repoint_quad_other (s : State) (q : Nat) {k : Nat} (h : k ≠ q) : (s.repoint q).quad k = s.quad k :=
  State.quad_updQuad_other _ _ _ _ h

/-- A quad's point and cap. -/
def State.UnderCap (s : State) (q : Nat) : Prop := (s.quad q).opcur ≤ (s.quad q).opcap

theorem State.pointOf_le (s : State) (q : Nat) : s.pointOf q ≤ (s.quad q).opcap := by
  unfold State.pointOf
  dsimp only
  split
  · exact Nat.zero_le _
  · exact Nat.min_le_right ..

theorem State.repoint_opcap (s : State) (q k : Nat) : ((s.repoint q).quad k).opcap = (s.quad k).opcap := by
  by_cases h : k = q
  · subst h
    obtain ⟨c, j, o, r, e⟩ := Quad.runAt_rest (s.quad k) s.time (s.pointOf k) (s.railPoint k)
    rw [State.repoint_quad, e]
  · rw [State.repoint_quad_other _ _ h]

theorem State.repoint_underCap (s : State) (q : Nat) : (s.repoint q).UnderCap q := by
  have hcap := State.pointOf_le s q
  unfold State.UnderCap
  rw [State.repoint_opcap, State.repoint_quad]
  by_cases h : s.pointOf q ≤ (s.quad q).opcur ∨ s.pointOf q ≤ s.railPoint q
  · rw [(Quad.runAt_taken _ _ h).1]
    exact hcap
  · rw [Quad.runAt_pending _ _ (by omega) (by omega)]
    show (s.quad q).opcur ≤ (s.quad q).opcap
    omega

theorem State.UnderCap.repoint {s : State} {q : Nat} (h : s.UnderCap q) (k : Nat) : (s.repoint k).UnderCap q := by
  by_cases hk : q = k
  · subst hk
    exact State.repoint_underCap s q
  · unfold State.UnderCap
    rw [State.repoint_quad_other _ _ hk]
    exact h

/-- The points of some quads computed again. -/
def State.repoints (s : State) (l : List Nat) : State := l.foldl (fun u q => u.repoint q) s

theorem State.repoints_rest (s : State) (l : List Nat) : ∃ a, s.repoints l = { s with quads := a } :=
  foldl_keeps (P := fun t : State => ∃ a, t = { s with quads := a }) (f := fun u q => u.repoint q)
    (fun t q ht => by
      obtain ⟨a, rfl⟩ := ht
      exact ⟨_, rfl⟩) l ⟨s.quads, rfl⟩

theorem State.repoints_opcap (s : State) (l : List Nat) (k : Nat) : ((s.repoints l).quad k).opcap = (s.quad k).opcap :=
  foldl_keeps (P := fun t : State => (t.quad k).opcap = (s.quad k).opcap) (f := fun u q => u.repoint q)
    (fun t q ht => (State.repoint_opcap t q k).trans ht) l rfl

theorem State.repoints_underCap (s : State) {l : List Nat} {q : Nat} (hq : q ∈ l) : (s.repoints l).UnderCap q := by
  unfold State.repoints
  exact foldl_reaches (P := fun t : State => t.UnderCap q) (fun _ k h => State.UnderCap.repoint h k) hq
    (fun t => State.repoint_underCap t q) s

/-! ### Raised phases (R52) -/

theorem State.phaseOfQuad_congr {s t : State} (h : t.harts = s.harts) (q : Nat) : t.phaseOfQuad q = s.phaseOfQuad q := by
  unfold State.phaseOfQuad State.hart
  rw [h]

/-- The phases that the harts asked for are in force. -/
def State.phasesAsked (s : State) : State := { s with harts := s.harts.map (fun e => (e.1, { e.2 with bwphEff := e.2.bwph })) }

/-- Every quad in the phase of its harts. -/
def State.phasesSet (t : State) : State :=
  { t with quads := (List.range Config.quads).map (fun q => (q, { t.quad q with qph := t.phaseOfQuad q })) }

theorem State.raisePhases_idled (s : State) : ∃ n, Idled { s.phasesAsked.phasesSet with dph := n } s.raisePhases :=
  ⟨_, State.setPhase_idled ..⟩

theorem State.phasesSet_quad (t : State) {q : Nat} (hq : q < Config.quads) :
    t.phasesSet.quad q = { t.quad q with qph := t.phaseOfQuad q } := by
  rw [State.quad, State.phasesSet]
  dsimp only
  rw [Tab.get_range_map _ _ _ _ hq]

theorem State.raisePhases_spec (s : State) :
    s.raisePhases.parts = s.parts ∧ s.raisePhases.mistral = s.mistral ∧
    (∀ h, s.raisePhases.hart h = { s.hart h with bwphEff := (s.hart h).bwph }) ∧
    ∀ q, q < Config.quads → (s.raisePhases.quad q).opcur = (s.quad q).opcur ∧ (s.raisePhases.quad q).opcap = (s.quad q).opcap ∧
      (s.raisePhases.quad q).qph = s.raisePhases.phaseOfQuad q := by
  obtain ⟨n, hidled⟩ := State.raisePhases_idled s
  refine ⟨hidled.parts, hidled.mistral, fun h => ?_, fun q hq => ?_⟩
  · rw [State.hart, hidled.harts]
    exact Tab.get_map_default s.harts (fun e => { e.2 with bwphEff := e.2.bwph }) h {} rfl
  · obtain ⟨b, i, hquad⟩ := hidled.quad q
    have hset : State.quad { s.phasesAsked.phasesSet with dph := n } q = { s.quad q with qph := s.phasesAsked.phaseOfQuad q } :=
      State.phasesSet_quad s.phasesAsked hq
    rw [hset] at hquad
    have hphase : s.raisePhases.phaseOfQuad q = s.phasesAsked.phaseOfQuad q := State.phaseOfQuad_congr hidled.harts q
    rw [hphase, hquad]
    exact ⟨rfl, rfl, rfl⟩

/-! ### The period -/

/-- A period begins: its measured power is stored. -/
def State.periodBegun (s : State) : State := { s with mistral := { s.mistral with periodAt := s.time, pwr := s.ev.size % 65536 } }

/-- Every quad capped by its grant. -/
def State.capped (t : State) (g : Grants) : State :=
  { t with quads := (List.range Config.quads).map (fun q => (q, { t.quad q with opcap := pointFor (Tab.get g q 0) })) }

/-- The quads capped by the grants of what `w` watts leave of ECAP. -/
def State.granted (u : State) (w : Nat) : State := u.capped (u.grants (100 * (u.mistral.ecap - w)))

/-- The period after its caps. -/
def State.periodEnds (t : State) : State := State.raisePhases (t.chargeEnergy.repoints (t.quads.map (·.1)))

theorem State.capped_quads (t : State) (g : Grants) : (t.capped g).quads.map (·.1) = List.range Config.quads := by
  unfold State.capped
  rw [List.map_map]
  exact List.map_id _

theorem execMistralPeriod_eq (s : State) :
    exec .mistralPeriod s = if s.time < s.mistral.periodAt + 17000 then .next s
      else .next (s.periodBegun.setCaps.granted s.ev.w).periodEnds := rfl

theorem State.granted_periodEnds (u : State) (w : Nat) :
    (u.granted w).periodEnds = ((u.granted w).chargeEnergy.repoints (List.range Config.quads)).raisePhases := by
  unfold State.periodEnds
  rw [show (u.granted w).quads.map (·.1) = List.range Config.quads from State.capped_quads ..]

theorem State.capped_quad (t : State) (g : Grants) {q : Nat} (hq : q < Config.quads) :
    (t.capped g).quad q = { t.quad q with opcap := pointFor (Tab.get g q 0) } := by
  rw [State.quad, State.capped]
  dsimp only
  rw [Tab.get_range_map _ _ _ _ hq]

theorem State.mem_quadsOf {s : State} {p q : Nat} (h : (s.quad q).part = some p) : q ∈ s.quadsOf p := by
  have hmem : (q, s.quad q) ∈ s.quads := by
    rcases Tab.get_mem s.quads q {} with e | e
    · rw [show s.quad q = {} from e] at h
      cases h
    · exact e
  exact List.mem_map.mpr ⟨(q, s.quad q), List.mem_filter.mpr ⟨hmem, by rw [h]; exact beq_self_eq_true _⟩, rfl⟩

/-- A partition's quads once every quad has been capped. -/
theorem State.capped_quadsOf {t : State} (g : Grants) {p q : Nat} (hone : t.quadsOf p = [q]) (hq : q < Config.quads)
    (hpart : (t.quad q).part = some p) : (t.capped g).quadsOf p = [q] := by
  have hfilter : ∀ k ∈ List.range Config.quads, ((t.quad k).part == some p) = (k == q) := by
    intro k _
    by_cases hk : (t.quad k).part = some p
    · have hmem := State.mem_quadsOf hk
      rw [hone, List.mem_singleton] at hmem
      rw [hmem, hpart, beq_self_eq_true, beq_self_eq_true]
    · have hne : k ≠ q := fun h => hk (h ▸ hpart)
      rw [beq_eq_false_iff_ne.mpr hk, beq_eq_false_iff_ne.mpr hne]
  unfold State.quadsOf State.capped
  rw [List.filter_map, List.map_map]
  show ((List.range Config.quads).filter (fun k => (t.quad k).part == some p)).map id = [q]
  rw [List.map_id, List.filter_congr hfilter, List.filter_beq, List.count_eq_one_of_mem List.nodup_range (List.mem_range.mpr hq)]
  rfl

/-- What a period does before it charges energy. -/
theorem State.periodCapped_spec (s : State) : ∃ e, s.periodBegun.setCaps = { s with
    mistral := { s.mistral with
      periodAt := s.time
      pwr := s.ev.size % 65536
      ecap := s.mistral.capNow
      capclamp := s.mistral.capclamp || decide (min s.mistral.hcap 1900 < s.mistral.idlefl)
      fluredu := s.mistral.fluredu || decide (s.shortNow ≠ 0)
      events := e }
    parts := s.parts.map (fun p => (p.1, { p.2 with floore := Tab.get s.floorsNow p.1 0 })) } :=
  State.setCaps_eq s.periodBegun

theorem State.quadVote_congr {s t : State} (hharts : t.harts = s.harts) (hcores : t.cores = s.cores) (htime : t.time = s.time) (q : Nat) :
    t.quadVote q = s.quadVote q := by
  unfold State.quadVote State.coreVote State.hart State.core
  rw [hharts, hcores, htime]

/-- A field that a map of a table keeps in each entry is kept in what the table holds. -/
theorem Tab.get_map_field {α β : Type} (t : Tab α) (g : Nat × α → α) (f : α → β) (hf : ∀ e, f (g e) = f e.2) (k : Nat) (d : α) :
    f (Tab.get (t.map (fun e => (e.1, g e))) k d) = f (Tab.get t k d) := by
  rcases Tab.get_map t g k d with h | ⟨a, h, h'⟩
  · rw [← h]
  · rw [h, h', hf]

/-- What caps, energy, points and phases leave of a state whose quads have been capped. -/
theorem State.granted_spec (u : State) (w : Nat) :
    let t := (u.granted w).periodEnds
    t.mistral = u.mistral ∧
    (∀ p, (t.prt p).floore = (u.prt p).floore) ∧
    (∀ q, q < Config.quads → (t.quad q).opcur ≤ (t.quad q).opcap ∧ (t.quad q).qph = t.phaseOfQuad q) ∧
    (∀ d, d < 4 → (span (96 * d) 96).foldl (fun n q =>
      n + if (t.quad q).opcap = 0 then 0 else modelPower (t.quad q).opcap) 0 ≤ 33500) ∧
    (∀ h, t.hart h = { u.hart h with bwphEff := (u.hart h).bwph }) ∧
    (∀ p q, p < 16 → u.quadsOf p = [q] → q < Config.quads → (u.quad q).part = some p →
      let e := (u.prt p).energyPart + modelPower (u.quadVote q)
      (t.prt p).energy = (u.prt p).energy + BitVec.ofNat 64 (e / 10000) ∧ (t.prt p).energyPart = e % 10000) := by
  intro t
  obtain ⟨ps, hps⟩ := State.chargeEnergy_rest (u.granted w)
  obtain ⟨a, ha⟩ := State.repoints_rest (u.granted w).chargeEnergy (List.range Config.quads)
  obtain ⟨hparts, hmistral, hharts, hquads⟩ := State.raisePhases_spec ((u.granted w).chargeEnergy.repoints (List.range Config.quads))
  rw [← State.granted_periodEnds] at hparts hmistral hharts hquads
  have hprt : ∀ p, t.prt p = if p < 16 then (u.granted w).charged p (u.prt p) else u.prt p := by
    intro p
    have hsame : t.prt p = (u.granted w).chargeEnergy.prt p := by
      rw [State.prt, hparts, ha]
      rfl
    rw [hsame, State.chargeEnergy_prt]
    rfl
  have hcap : ∀ q, q < Config.quads → (t.quad q).opcap = pointFor (Tab.get (u.grants (100 * (u.mistral.ecap - w))) q 0) := by
    intro q hq
    rw [(hquads q hq).2.1, State.repoints_opcap, hps]
    exact congrArg Quad.opcap (State.capped_quad u _ hq)
  refine ⟨?_, fun p => ?_, fun q hq => ⟨?_, (hquads q hq).2.2⟩, fun d hd => ?_, fun h => ?_, fun p q hp hone hq hpart => ?_⟩
  · rw [hmistral, ha, hps]
    rfl
  · rw [hprt]
    split
    · exact State.charged_floore ..
    · rfl
  · obtain ⟨hcur, hcap', -⟩ := hquads q hq
    rw [hcur, hcap']
    exact State.repoints_underCap _ (List.mem_range.mpr hq)
  · have hpower := (State.grants_within u (100 * (u.mistral.ecap - w))).power d
    refine le_of_eq_of_le ?_ hpower
    refine List.foldl_ext _ _ _ fun n q hq => ?_
    obtain ⟨k, hk, rfl⟩ := List.mem_map.mp hq
    have hlt : 96 * d + k < Config.quads := by
      have := List.mem_range.mp hk
      show 96 * d + k < 384
      omega
    rw [hcap _ hlt]
  · rw [hharts, show State.hart _ h = u.hart h from congrArg (fun v : State => v.hart h) ha |>.trans (by rw [hps]; rfl)]
  · have hone' : (u.granted w).quadsOf p = [q] := State.capped_quadsOf _ hone hq hpart
    have hvote : (u.granted w).quadVote q = u.quadVote q := State.quadVote_congr rfl rfl rfl q
    have hsum : [q].foldl (fun n q => n + modelPower ((u.granted w).quadVote q)) 0 = modelPower (u.quadVote q) := by
      rw [List.foldl_cons, List.foldl_nil, Nat.zero_add, hvote]
    rw [hprt, if_pos hp, State.charged, hone', ← hsum]
    exact ⟨rfl, rfl⟩

theorem mistralPeriod_steps (s : State) :
    (s.time < s.mistral.periodAt + 17000 → exec .mistralPeriod s = .next s) ∧
    (s.mistral.periodAt + 17000 ≤ s.time →
      let sum := s.parts.foldl (fun n p => n + p.2.floor) 0
      ∃ t, exec .mistralPeriod s = .next t ∧ t.mem = s.mem ∧ t.tmem = s.tmem ∧ t.mistral.periodAt = s.time ∧
        t.mistral.ecap = max (min s.mistral.hcap 1900) s.mistral.idlefl ∧ t.mistral.pwr = s.ev.size % 65536 ∧
        (min s.mistral.hcap 1900 < s.mistral.idlefl → t.mistral.capclamp = true) ∧
        (t.mistral.ecap < s.mistral.idlefl + sum → t.mistral.fluredu = true) ∧
        ((s.parts.map (·.1)).Nodup → (∀ e ∈ s.parts, e.2.fcls < 8) → s.mistral.idlefl + sum ≤ t.mistral.ecap →
          ∀ e ∈ s.parts, (t.prt e.1).floore = e.2.floor) ∧
        (∀ q, q < Config.quads → (t.quad q).opcur ≤ (t.quad q).opcap ∧ (t.quad q).qph = t.phaseOfQuad q) ∧
        (∀ d, d < 4 → (span (96 * d) 96).foldl (fun n q =>
          n + if (t.quad q).opcap = 0 then 0 else modelPower (t.quad q).opcap) 0 ≤ 33500) ∧
        (∀ h, (t.hart h).bwphEff = (s.hart h).bwph ∧ SameRegs (s.hart h) (t.hart h)) ∧
        (∀ p q, p < 16 → s.quadsOf p = [q] → q < Config.quads → (s.quad q).part = some p →
          let e := (s.prt p).energyPart + modelPower (s.quadVote q)
          (t.prt p).energy = (s.prt p).energy + BitVec.ofNat 64 (e / 10000) ∧ (t.prt p).energyPart = e % 10000)) := by
  refine ⟨fun h => if_pos h, fun h => ?_⟩
  intro sum
  have hexec : exec .mistralPeriod s = .next (s.periodBegun.setCaps.granted s.ev.w).periodEnds :=
    (execMistralPeriod_eq s).trans (if_neg (Nat.not_lt.mpr h))
  have hkept : Kept false false s (s.periodBegun.setCaps.granted s.ev.w).periodEnds := execMistralPeriod_leads (Kept.refl s) _ hexec
  obtain ⟨hmistral, hfloore, hpoints, hpower, hharts, henergy⟩ := State.granted_spec s.periodBegun.setCaps s.ev.w
  obtain ⟨e, hcaps⟩ := State.periodCapped_spec s
  generalize (s.periodBegun.setCaps.granted s.ev.w).periodEnds = t at hexec hkept hmistral hfloore hpoints hpower hharts henergy
  rw [hcaps] at hmistral hfloore hharts henergy
  have hecap : t.mistral.ecap = s.mistral.capNow := by rw [hmistral]
  refine ⟨t, hexec, hkept.mem_eq, hkept.tmem_eq, by rw [hmistral], hecap, by rw [hmistral], fun hlow => ?_, fun hlow => ?_,
    fun hnodup hcls hfit e he => ?_, hpoints, hpower, fun h => ?_, fun p q hp hone hq hpart => ?_⟩
  · rw [hmistral]
    exact Bool.or_eq_true_iff.mpr (.inr (decide_eq_true hlow))
  · rw [hmistral]
    rw [hecap] at hlow
    exact Bool.or_eq_true_iff.mpr (.inr (decide_eq_true (Nat.sub_ne_zero_of_lt hlow)))
  · rw [hecap] at hfit
    rw [hfloore, ← State.floorsNow_get hnodup hcls (Nat.sub_eq_zero_of_le hfit) he]
    refine congrArg Part.floore (Tab.get_of_unique (v := { e.2 with floore := Tab.get s.floorsNow e.1 0 }) {} (fun x hx hxe => ?_)
      ⟨_, List.mem_map_of_mem he, rfl⟩)
    obtain ⟨f, hf, rfl⟩ := List.mem_map.mp hx
    rw [List.inj_on_of_nodup_map hnodup hf he hxe]
  · rw [hharts]
    exact ⟨rfl, rfl, rfl, rfl, rfl, rfl, rfl, rfl, rfl, rfl, rfl, rfl, rfl, rfl, rfl, rfl⟩
  · obtain ⟨henergy', hrest⟩ := henergy p q hp hone hq hpart
    have hsame : ∀ {β : Type} (f : Part → β), (∀ (a : Part) n, f { a with floore := n } = f a) →
        f (Tab.get (s.parts.map (fun x => (x.1, { x.2 with floore := Tab.get s.floorsNow x.1 0 }))) p {}) = f (s.prt p) :=
      fun f hf => Tab.get_map_field s.parts (fun x => { x.2 with floore := Tab.get s.floorsNow x.1 0 }) f (fun x => hf x.2 _) p {}
    intro k
    have hk : k = _ + modelPower (s.quadVote q) := congrArg (· + modelPower (s.quadVote q)) (hsame Part.energyPart (fun _ _ => rfl)).symm
    rw [hk, ← hsame Part.energy (fun _ _ => rfl)]
    exact ⟨henergy', hrest⟩

/-- Settles O44: Mistral's period through what its caps, grants, points, energy and phases each leave, the other steps by themselves. -/
theorem powerAndHeat : Obligations.PowerAndHeat :=
  ⟨mistralPeriod_steps, railRaiseDone_steps, limiter_steps, throttle_steps, sensorSample_steps, idle_steps, eventLog_steps⟩

end Sys2Proof.Machine
end

section
/-!
Statements about fences, caches and steps that a state refutes, and the state that does it.
-/
namespace Sys2Proof.Machine

/-! ### FENCE.S reports a matrix error (R285, R350) -/

/-- A hart that owes the report of a matrix value with an error. -/
def matrixDebtor : State := { State.reset with harts := [(0, { deferred := [.matrix] })] }

theorem matrixDebtor_traps : exec (.fenceSAcq 1) matrixDebtor =
    .next ((matrixDebtor.updMe (fun a => { a with deferred := [] })).updMe (fun a => a.trap 5 0 0)) := rfl

/-- Refutes O7: the statement asks that FENCE.S owes no store error and no abandoned push, and lets a matrix error be owed. FENCE.S
reports that too (R350): the hart enters its handler with cause 5, where the statement has it go on. -/
theorem not_fencesAndShootdowns : ¬ Obligations.FencesAndShootdowns := by
  unfold Obligations.FencesAndShootdowns
  rintro ⟨⟨-, -, -, hstrong, -⟩, -⟩
  obtain ⟨hacquire, -, -⟩ := hstrong matrixDebtor 1 rfl rfl
  have hsame := Host.Outcome.next.inj (matrixDebtor_traps.symm.trans hacquire)
  exact absurd (congrArg (fun t : State => t.me.mode) hsame) (by decide)

/-! ### A fill may write back a dirty copy of its own line (R72, R73, R75, R80) -/

/-- Line 0, whose home is quad 0, is dirty in core 4 and fills with an uncorrectable error. Way 0 of quad 0 alone takes lines, and holds
a dirty line of the set, which is displaced to quad 1. The directory entry that this takes evicts region 0's. -/
def badFill : State :=
  let displaced := (2 ^ 28 + 2 ^ 18) / 64
  { State.reset with
    ev := { b := true }
    cores := [(4, { l1d := [(0, true)] })]
    quads := [
      (0, { misses := [0]
            ways := (span 1 15).map (fun w => (w, { st := 1 }))
            lines := [(displaced, ⟨.home, true, 0, 0, 0⟩)]
            dir := (List.range 16).map (fun j =>
              (512 * j, if j = 0 then { owned := true, owner := some (.quad 1), sharers := [1], incs := [(1, 0)] } else {})) }),
      (1, { filter := [(0, [0])] })] }

theorem badFill_fails : ∃ t, exec .memoryFillReturn badFill = .next t ∧ t.poison = [] ∧ t.failed = [0] := ⟨_, rfl, by decide⟩

/-- Refutes O41: the error that the controller reports with a fill need not stand when the fill has ended. Making room for the
line has taken its dirty copy out of core 4, and writing that back has entered the line in the failed-line list (R80). -/
theorem not_cacheSteps : ¬ Obligations.CacheSteps := by
  unfold Obligations.CacheSteps
  rintro ⟨-, -, hfill, -⟩
  obtain ⟨t, ht, -, herror, -⟩ := hfill badFill (by decide) (by decide) (by decide)
  obtain ⟨u, hu, hclear, -⟩ := badFill_fails
  obtain rfl := Host.Outcome.next.inj (ht.symm.trans hu)
  obtain ⟨hstands, -⟩ := herror rfl
  exact absurd (hclear ▸ hstands rfl) (by decide)

/-! ### A refused vector encoding keeps veix (R310, R428) -/

/-- A hart at element 3, whose pc holds 0x8820205B, a vector encoding that names p0 where a predicate is needed. -/
def refusedVector : State :=
  State.updMe { State.reset.withFetchWord 32 0x8820205B with agenda := [] } (fun a => { a with veix := 3 })

theorem refusedVector_fetch : refusedVector.fetchRaw = .ok (4, 0x8820205B, refusedVector) := rfl

theorem refusedVector_refused : decode (wordBytes 4 0x8820205B) = .error .predicate := rfl

theorem refusedVector_keeps : ∃ t, step { refusedVector with agenda := [.issue 0] } = .next t ∧ t.me.veix = 3 := ⟨_, rfl, by decide⟩

/-- Refutes O56: the statement has the trap of a refused encoding clear veix, which R184 says of every encoding but a vector
instruction's: there the check that covers decode leaves veix as it is (R310, R428). -/
theorem not_stepRunsDecoded : ¬ Obligations.StepRunsDecoded := by
  unfold Obligations.StepRunsDecoded
  rintro ⟨hissue, -⟩
  obtain ⟨-, hrefused⟩ := hissue { refusedVector with agenda := [.issue 0] } refusedVector 0 4 0x8820205B [] rfl rfl (by decide) rfl
    refusedVector_fetch
  obtain ⟨t, ht, hkept⟩ := refusedVector_keeps
  have hsame := Host.Outcome.next.inj (ht.symm.trans (hrefused _ refusedVector_refused))
  rw [hsame] at hkept
  exact absurd hkept (by decide)

end Sys2Proof.Machine
end

section
/-!
SUPPORT. What an agent that rejoins loses, the error log's registers, and which context a port grants.
-/
namespace Sys2Proof.Machine

/-! ### A quad that rejoins (R82, R83) -/

/-- A core with its caches and its TLB empty. -/
def Core.emptied (a : Core) : Core := { a with l1d := [], l1i := [], rep := [], tlb := [] }

/-- A quad rejoined, whose directory, slice and TLB are empty. -/
def Quad.rejoined (a : Quad) : Quad :=
  { a with
    inc := a.inc + 1, lines := [], dir := [], filter := [], predictor := [], tlb := [], misses := [], input := []
    reserve := [] }

/-- Cores with their caches and TLBs empty. -/
def State.emptyCores (s : State) (l : List Nat) : State := l.foldl (fun t c => t.updCore c Core.emptied) s

/-- What a quad's rejoining does after its dirty lines have been lost. -/
def State.rejoin (s : State) (q : Nat) : State :=
  let u := s.emptyCores (span (4 * q) 4)
  (u.clearNames q ((u.quad q).inc + 1).toNat).updQuad q Quad.rejoined

theorem execAgentRejoin_quad {s : State} {q : Nat} (h : s.ev.rejoin = .quad q) :
    exec .agentRejoin s = .next (((s.dirtyLines q).foldl State.loseLine s).rejoin q) := by
  show execAgentRejoin s = _
  unfold execAgentRejoin
  rw [h]
  rfl

theorem execAgentRejoin_engine {s : State} {q : Nat} (h : s.ev.rejoin = .engine q) :
    exec .agentRejoin s = .next (s.updQuad q (fun a => { a with einc := a.einc + 1 })) := by
  show execAgentRejoin s = _
  unfold execAgentRejoin
  rw [h]

theorem execAgentRejoin_link {s : State} {l : Nat} (h : s.ev.rejoin = .link l) : exec .agentRejoin s = .next (s.resetLink l) := by
  show execAgentRejoin s = _
  unfold execAgentRejoin
  rw [h]

theorem State.emptyCores_rest (s : State) (l : List Nat) : s.emptyCores l = { s with cores := (s.emptyCores l).cores } := by
  induction l generalizing s with
  | nil => rfl
  | cons c l ih => exact ih (s.updCore c Core.emptied)

/-- A core that is emptied once stays empty. -/
theorem State.emptyCores_core (s : State) (l : List Nat) {c : Nat}
    (h : c ∈ l ∨ (s.core c).l1d = [] ∧ (s.core c).tlb = []) :
    ((s.emptyCores l).core c).l1d = [] ∧ ((s.emptyCores l).core c).tlb = [] := by
  induction l generalizing s with
  | nil => exact h.resolve_left List.not_mem_nil
  | cons k l ih =>
    refine ih (s.updCore k Core.emptied) ?_
    by_cases e : c = k
    · subst e
      rw [State.core_updCore]
      exact .inr ⟨rfl, rfl⟩
    · rw [State.core_updCore_other _ _ _ _ e]
      exact h.imp_left fun hc => (List.mem_cons.mp hc).resolve_left e

/-- Names cleared leave a quad all but its directory. -/
theorem State.quad_clearNames (s : State) (q inc k : Nat) :
    ∃ d, (s.clearNames q inc).quad k = { s.quad k with dir := d } :=
  ⟨_, Tab.get_map_default s.quads (fun e => { e.2 with dir := e.2.dir.map (fun d => (d.1, d.2.unname e.1 q inc)) }) k {} rfl⟩

theorem State.rejoin_core (s : State) (q : Nat) {c : Nat} (hlow : 4 * q ≤ c) (hhigh : c < 4 * q + 4) :
    ((s.rejoin q).core c).l1d = [] ∧ ((s.rejoin q).core c).tlb = [] :=
  State.emptyCores_core s _ (.inl (List.mem_map.mpr ⟨c - 4 * q, List.mem_range.mpr (by omega), by omega⟩))

theorem State.rejoin_quad (s : State) (q : Nat) : (s.rejoin q).quad q = (s.quad q).rejoined := by
  unfold State.rejoin
  extract_lets u
  obtain ⟨d, hd⟩ := State.quad_clearNames u q ((u.quad q).inc + 1).toNat q
  have hu : u.quad q = s.quad q := by
    unfold u
    rw [State.emptyCores_rest]
    rfl
  rw [State.quad_updQuad, hd, hu]
  rfl

theorem State.rejoin_loss (s : State) (q k : Nat) : ((s.rejoin q).quad k).loss = (s.quad k).loss := by
  by_cases e : k = q
  · subst e
    rw [State.rejoin_quad]
    rfl
  · unfold State.rejoin
    extract_lets u
    obtain ⟨d, hd⟩ := State.quad_clearNames u q ((u.quad q).inc + 1).toNat k
    rw [State.quad_updQuad_other _ _ _ _ e, hd]
    unfold u
    rw [State.emptyCores_rest]
    rfl

theorem State.rejoin_failed (s : State) (q : Nat) : (s.rejoin q).failed = s.failed := by
  show (s.emptyCores (span (4 * q) 4)).failed = s.failed
  rw [State.emptyCores_rest]

/-- A line is lost for which both lists have room. -/
theorem State.loseLine_listed {s : State} {l : Nat} (hnew : l ∉ s.failed) (hfail : s.failedAt (64 * l) < 1024)
    (hloss : (s.quad (s.homeQuad (64 * l))).loss.length < 64) :
    s.loseLine l = State.updQuad { s with failed := s.failed ++ [l] } (s.homeQuad (64 * l)) (fun a => { a with loss := a.loss ++ [l] }) := by
  have hline : s.failLine l = { s with failed := s.failed ++ [l] } := by
    unfold State.failLine
    rw [if_neg (fun h => hnew (List.contains_iff_mem.mp h)), if_pos hfail]
  unfold State.loseLine
  dsimp only
  rw [hline]
  exact if_pos hloss

/-- What a lost line enters, and the incarnations that it leaves. -/
theorem State.loseLine_spec {s : State} {l : Nat} (hnew : l ∉ s.failed) (hfail : s.failedAt (64 * l) < 1024)
    (hloss : (s.quad (s.homeQuad (64 * l))).loss.length < 64) :
    (s.loseLine l).failed = s.failed ++ [l] ∧ l ∈ ((s.loseLine l).quad (s.homeQuad (64 * l))).loss ∧
    ∀ q, ((s.loseLine l).quad q).inc = (s.quad q).inc := by
  rw [State.loseLine_listed hnew hfail hloss]
  refine ⟨rfl, ?_, fun q => ?_⟩
  · rw [State.quad_updQuad]
    exact List.mem_append_right _ List.mem_cons_self
  · by_cases e : q = s.homeQuad (64 * l)
    · subst e
      rw [State.quad_updQuad]
      rfl
    · rw [State.quad_updQuad_other _ _ _ _ e]
      rfl

theorem agentRejoin_quad_steps (s : State) (q : Nat) (h : s.ev.rejoin = .quad q) :
    (s.dirtyLines q = [] → ∃ t, exec .agentRejoin s = .next t ∧ (t.quad q).inc = (s.quad q).inc + 1 ∧ (t.quad q).lines = [] ∧
      (t.quad q).dir = [] ∧ (t.quad q).tlb = [] ∧ (∀ c, 4 * q ≤ c → c < 4 * q + 4 → (t.core c).l1d = [] ∧ (t.core c).tlb = []) ∧
      t.mem = s.mem ∧ t.failed = s.failed) ∧
    (∀ l, s.dirtyLines q = [l] → l ∉ s.failed → s.failedAt (64 * l) < 1024 → (s.quad (s.homeQuad (64 * l))).loss.length < 64 →
      ∃ t, exec .agentRejoin s = .next t ∧ t.failed = s.failed.concat l ∧ l ∈ (t.quad (s.homeQuad (64 * l))).loss ∧ t.mem = s.mem ∧
        (t.quad q).inc = (s.quad q).inc + 1 ∧ (t.quad q).lines = []) := by
  refine ⟨fun hclean => ?_, fun l hone hnew hfail hloss => ?_⟩
  · have hexec := execAgentRejoin_quad h
    rw [hclean, List.foldl_nil] at hexec
    refine ⟨_, hexec, ?_⟩
    rw [State.rejoin_quad]
    exact ⟨rfl, rfl, rfl, rfl, fun c => State.rejoin_core s q, (execAgentRejoin_leads (Kept.refl s) _ hexec).mem_eq (T := true), State.rejoin_failed ..⟩
  · have hexec := execAgentRejoin_quad h
    rw [hone, List.foldl_cons, List.foldl_nil] at hexec
    obtain ⟨hfailed, hlost, hinc⟩ := State.loseLine_spec hnew hfail hloss
    refine ⟨_, hexec, ?_, ?_, (execAgentRejoin_leads (Kept.refl s) _ hexec).mem_eq (T := true), ?_, ?_⟩
    · rw [State.rejoin_failed, hfailed, List.concat_eq_append]
    · rw [State.rejoin_loss]
      exact hlost
    · rw [State.rejoin_quad, ← hinc]
      rfl
    · rw [State.rejoin_quad]
      rfl

theorem agentRejoin_link_steps (s : State) (l : Nat) (h : s.ev.rejoin = .link l) :
    ∃ t, exec .agentRejoin s = .next t ∧ (Tab.get t.links l {}).inc = (Tab.get s.links l {}).inc + 1 ∧ t.mem = s.mem := by
  refine ⟨_, execAgentRejoin_link h, ?_, rfl⟩
  show (Tab.get (Tab.set s.links l _) l {}).inc = _
  rw [Tab.get_set_same]

/-! ### The error log and CECNT (R81) -/

theorem errlogRead_steps (s : State) (e : ErrRec) (rest : List ErrRec) (h : (s.quad s.ev.q).errs = e :: rest) :
    ∃ t, exec .errlogRead s = .next t ∧ t.out = s.out.concat (.reg (BitVec.ofNat 64 (e.task * 2 ^ 32 + e.hart))) ∧
      t.quad s.ev.q = { s.quad s.ev.q with errs := rest } ∧ t.mem = s.mem := by
  have hvalue : s.regValue (.err2 s.ev.q) = e.task * 2 ^ 32 + e.hart := by
    show (match (s.quad s.ev.q).errs with
      | [] => 0
      | e :: _ => e.task * 2 ^ 32 + e.hart) = _
    rw [h]
  refine ⟨_, rfl, ?_, ?_, rfl⟩
  · rw [List.concat_eq_append, ← hvalue]
    rfl
  · refine (State.quad_updQuad ..).trans ?_
    show { s.quad s.ev.q with errs := (s.quad s.ev.q).errs.tail } = _
    rw [h]
    rfl

theorem execCecntWrite_clears (s : State) : exec .cecntWrite s = .next (s.updQuad s.ev.q (fun a => { a with cecnt := 0 })) := rfl

/-! ### Contexts (R379) -/

/-- The context of a hart's requests: none while its partition is stopped. -/
def State.hartContext (s : State) (h : Nat) : Option Nat :=
  if (s.hart h).task.isNone || s.quadStopped (quadOf h) then none else some (s.partOf h * 3 + bandOf (s.hart h).taskCls)

theorem State.contextOf_eq (s : State) (who : Nat) : s.contextOf who =
    if who < 12288 then s.hartContext who
    else if engineAgent 0 ≤ who then (s.engineClass (who - engineAgent 0)).map (fun k => k.1 * 3 + bandOf k.2)
    else if queueAgent 0 ≤ who ∧ who < queueAgent 12288 then s.hartContext (who - queueAgent 0)
    else some 48 := rfl

theorem State.hartContext_running {s : State} {h : Nat} {k : Task} (htask : (s.hart h).task = some k)
    (hruns : s.quadStopped (quadOf h) = false) : s.hartContext h = some (s.partOf h * 3 + bandOf k.cls) := by
  unfold State.hartContext Hart.taskCls
  rw [htask, hruns]
  rfl

theorem State.contextOf_system (s : State) {who : Nat} (hlow : 12288 ≤ who) (hhigh : who < 2 ^ 31) : s.contextOf who = some 48 := by
  rw [State.contextOf_eq, if_neg (by omega), if_neg (by unfold engineAgent; omega), if_neg (by unfold queueAgent; omega)]

theorem State.contextOf_hart (s : State) {h : Nat} (hh : h < 12288) : s.contextOf h = s.hartContext h := by
  rw [State.contextOf_eq, if_pos hh]

theorem State.contextOf_queue (s : State) {h : Nat} (hh : h < 12288) : s.contextOf (queueAgent h) = s.hartContext h := by
  have hsub : queueAgent h - queueAgent 0 = h := by unfold queueAgent; omega
  rw [State.contextOf_eq, if_neg (by unfold queueAgent; omega), if_neg (by unfold engineAgent queueAgent; omega),
    if_pos (by unfold queueAgent; omega), hsub]

theorem State.contextOf_engine (s : State) (id : Nat) :
    s.contextOf (engineAgent id) = (s.engineClass id).map (fun k => k.1 * 3 + bandOf k.2) := by
  have hsub : engineAgent id - engineAgent 0 = id := by unfold engineAgent; omega
  rw [State.contextOf_eq, if_neg (by unfold engineAgent; omega), if_pos (by unfold engineAgent; omega), hsub]

theorem State.contextOf_cases (s : State) (who : Nat) :
    let pair (p c : Nat) : Nat := p * 3 + if 7 ≤ c then 0 else if 4 ≤ c then 1 else 2
    (12288 ≤ who → who < 2 ^ 31 → s.contextOf who = some 48) ∧
    (∀ k h, (who = h ∨ who = queueAgent h) → h < 12288 → (s.hart h).task = some k → s.quadStopped (quadOf h) = false →
      s.contextOf who = some (pair (s.partOf h) k.cls)) ∧
    (∀ id, who = engineAgent id → s.contextOf who = (s.engineClass id).map (fun k => pair k.1 k.2)) := by
  refine ⟨s.contextOf_system, fun k h hwho hh htask hruns => ?_, fun id hid => hid ▸ s.contextOf_engine id⟩
  have hcontext : s.contextOf who = s.hartContext h := by
    rcases hwho with rfl | rfl
    · exact s.contextOf_hart hh
    · exact s.contextOf_queue hh
  exact hcontext.trans (State.hartContext_running htask hruns)

/-! ### The port of a slice (R379, R380) -/

/-- Of the contexts that wait, the borrowers of the highest band that may still borrow. -/
def Quad.borrowers (a : Quad) (wait : List Nat) : List Nat :=
  let may := wait.filter (fun c => decide (-1024 < a.tokens c))
  match leastCost (fun c => c % 3) may with
  | none => []
  | some b => may.filter (fun c => decide (c % 3 = b % 3))

/-- The context that a port grants, of those that wait. -/
def Quad.portPick (a : Quad) (wait : List Nat) : Option Nat :=
  match nextAfter a.portLast (wait.filter (fun c => decide (0 < a.tokens c))) with
  | some c => some c
  | none => nextAfter a.portLast (a.borrowers wait)

/-- The state after the port of quad `q` has granted context `c`. -/
def State.portGranted (s : State) (q c : Nat) : State :=
  s.updQuad q (fun b => { b with buckets := Tab.set b.buckets c (b.tokens c - 1), portLast := c, portNext := s.clockOf q + 34 })

theorem execPortGrant_eq (s : State) : exec .portGrant s =
    if s.clockOf s.ev.q < (s.quad s.ev.q).portNext then .next s
    else match (s.quad s.ev.q).portPick (s.ev.stuck.filterMap s.contextOf).eraseDups with
      | none => .next s
      | some c => .next (s.portGranted s.ev.q c) := rfl

theorem Quad.portPick_holder {a : Quad} {wait : List Nat} {c : Nat} (h : wait.filter (fun d => decide (0 < a.tokens d)) = [c]) :
    a.portPick wait = some c := by
  unfold Quad.portPick
  rw [h]
  rfl

/-- A port that one context asks for grants it, in debt too while it may still borrow. -/
theorem Quad.portPick_one {a : Quad} {c : Nat} (h : -1024 < a.tokens c) : a.portPick [c] = some c := by
  by_cases hholds : 0 < a.tokens c
  · exact Quad.portPick_holder (by simp [hholds])
  · have hborrows : a.borrowers [c] = [c] := by
      simp [Quad.borrowers, h, leastCost]
    have hnone : [c].filter (fun d => decide (0 < a.tokens d)) = [] := by simp [hholds]
    unfold Quad.portPick
    rw [hnone, hborrows]
    rfl

theorem Quad.portPick_debtor {a : Quad} {c : Nat} (h : a.tokens c ≤ -1024) : a.portPick [c] = none := by
  have hnone : [c].filter (fun d => decide (0 < a.tokens d)) = [] := by simp; omega
  have hborrows : a.borrowers [c] = [] := by
    simp [Quad.borrowers, Int.not_lt.mpr h, leastCost]
  unfold Quad.portPick
  rw [hnone, hborrows]
  rfl

theorem State.portGranted_quad (s : State) (q c : Nat) :
    Tab.get ((s.portGranted q c).quad q).buckets c 64 = Tab.get (s.quad q).buckets c 64 - 1 ∧
    (∀ d, d ≠ c → Tab.get ((s.portGranted q c).quad q).buckets d 64 = Tab.get (s.quad q).buckets d 64) ∧
    ((s.portGranted q c).quad q).portLast = c ∧ ((s.portGranted q c).quad q).portNext = s.clockOf q + 34 := by
  unfold State.portGranted
  rw [State.quad_updQuad]
  exact ⟨Tab.get_set_same .., fun d hd => Tab.get_set_other _ _ _ _ _ hd, rfl, rfl⟩

theorem portGrant_one (s : State) (who c : Nat) (hwho : s.ev.stuck = [who]) (hc : s.contextOf who = some c) :
    let a := s.quad s.ev.q
    (s.clockOf s.ev.q < a.portNext → exec .portGrant s = .next s) ∧
    (a.portNext ≤ s.clockOf s.ev.q → -1024 < Tab.get a.buckets c 64 →
      ∃ t, exec .portGrant s = .next t ∧ Tab.get (t.quad s.ev.q).buckets c 64 = Tab.get a.buckets c 64 - 1 ∧
        (∀ d, d ≠ c → Tab.get (t.quad s.ev.q).buckets d 64 = Tab.get a.buckets d 64) ∧ (t.quad s.ev.q).portLast = c ∧
        (t.quad s.ev.q).portNext = s.clockOf s.ev.q + 34) ∧
    (Tab.get a.buckets c 64 ≤ -1024 → exec .portGrant s = .next s) := by
  have hwait : (s.ev.stuck.filterMap s.contextOf).eraseDups = [c] := by simp [hwho, hc, List.eraseDups_cons]
  have hexec := execPortGrant_eq s
  rw [hwait] at hexec
  refine ⟨fun hbusy => hexec.trans (if_pos hbusy), fun hfree hmay => ?_, fun hdebt => ?_⟩
  · rw [if_neg (Nat.not_lt.mpr hfree), Quad.portPick_one hmay] at hexec
    exact ⟨_, hexec, s.portGranted_quad s.ev.q c⟩
  · rw [Quad.portPick_debtor hdebt, ite_self] at hexec
    exact hexec

theorem portGrant_two (s : State) (v w c d : Nat) (hwho : s.ev.stuck = [v, w]) (hc : s.contextOf v = some c)
    (hd : s.contextOf w = some d) (hne : c ≠ d) (hfree : (s.quad s.ev.q).portNext ≤ s.clockOf s.ev.q)
    (hholds : 0 < Tab.get (s.quad s.ev.q).buckets c 64) (hlacks : Tab.get (s.quad s.ev.q).buckets d 64 ≤ 0) :
    ∃ t, exec .portGrant s = .next t ∧ (t.quad s.ev.q).portLast = c := by
  have hwait : (s.ev.stuck.filterMap s.contextOf).eraseDups = [c, d] := by
    simp [hwho, hc, hd, List.eraseDups_cons, hne.symm]
  have hholder : [c, d].filter (fun k => decide (0 < (s.quad s.ev.q).tokens k)) = [c] := by
    simp [Quad.tokens, hholds, Int.not_lt.mpr hlacks]
  have hexec := execPortGrant_eq s
  rw [hwait, if_neg (Nat.not_lt.mpr hfree), Quad.portPick_holder hholder] at hexec
  obtain ⟨-, -, hlast, -⟩ := s.portGranted_quad s.ev.q c
  exact ⟨_, hexec, hlast⟩

theorem Tab.get_accrued (t : Tab Int) (c : Nat) :
    Tab.get (t.map (fun e => (e.1, min (e.2 + 1) 64))) c 64 = min (Tab.get t c 64 + 1) 64 :=
  Tab.get_map_default t (fun e => min (e.2 + 1) 64) c 64 rfl

theorem portTokenAccrue_steps (s : State) :
    let a := s.quad s.ev.q
    (s.time < a.portAt + 64 → exec .portTokenAccrue s = .next s) ∧
    (a.portAt + 64 ≤ s.time → ∃ t, exec .portTokenAccrue s = .next t ∧ (t.quad s.ev.q).portAt = a.portAt + 64 ∧
      ∀ c, Tab.get a.buckets c 64 ≤ 64 → Tab.get (t.quad s.ev.q).buckets c 64 = min (Tab.get a.buckets c 64 + 1) 64) := by
  refine ⟨fun hearly => if_pos hearly, fun hdue => ⟨_, if_neg (Nat.not_lt.mpr hdue), ?_⟩⟩
  rw [State.quad_updQuad]
  exact ⟨rfl, fun c _ => Tab.get_accrued ..⟩

/-- Settles O42, a lemma for each step: what a rejoining quad loses, the log's registers, the context of each requester, and what a
port picks among one or two contexts. -/
theorem errorsAndPorts : Obligations.ErrorsAndPorts :=
  ⟨agentRejoin_quad_steps, fun _ _ => execAgentRejoin_engine, agentRejoin_link_steps, errlogRead_steps, execCecntWrite_clears,
    State.contextOf_cases, portGrant_one, portGrant_two, portTokenAccrue_steps⟩

end Sys2Proof.Machine
end

section
/-!
SUPPORT. What releasing a group load and leaving a group leave of the groups of the dies, and the statement's part about members (R84 to
R86, R297).
-/
namespace Sys2Proof.Machine

/-! ### Work that leaves the groups (R88, R91) -/

/-- A state with the hart at issue and the groups of another. -/
structure SameGroups (s t : State) : Prop where
  cur : t.cur = s.cur
  groups : ∀ d, (t.die d).groups = (s.die d).groups

theorem SameGroups.of_dies {s t : State} (hcur : t.cur = s.cur) (hdies : t.dies = s.dies) : SameGroups s t :=
  ⟨hcur, fun d => by rw [State.die, hdies]; rfl⟩

theorem SameGroups.refl (s : State) : SameGroups s s := .of_dies rfl rfl

theorem SameGroups.trans {s t u : State} (a : SameGroups s t) (b : SameGroups t u) : SameGroups s u :=
  ⟨b.cur.trans a.cur, fun d => (b.groups d).trans (a.groups d)⟩

theorem SameGroups.foldl {α : Type} {f : State → α → State} (h : ∀ s x, SameGroups s (f s x)) (l : List α) (s : State) :
    SameGroups s (l.foldl f s) := by
  induction l generalizing s with
  | nil => exact .refl s
  | cons x l ih => exact (h s x).trans (ih _)

/-- A fold over a pair whose second half is the state. -/
theorem SameGroups.foldlSnd {α β : Type} {f : β × State → α → β × State} (h : ∀ p x, SameGroups p.2 (f p x).2) (l : List α)
    (p : β × State) : SameGroups p.2 (l.foldl f p).2 := by
  induction l generalizing p with
  | nil => exact .refl _
  | cons x l ih => exact (h p x).trans (ih _)

theorem SameGroups.group {s t : State} (h : SameGroups s t) (d g : Nat) : t.group d g = s.group d g := by
  rw [State.group, h.groups d]
  rfl

theorem Cached.sameGroups {s t : State} (h : Cached s t) : SameGroups s t :=
  ⟨h.fields.2.2.2.1, fun d => by rw [h.die d]; rfl⟩

theorem State.logError_sameGroups (s : State) (q : Nat) (e : ErrRec) : SameGroups s (s.logError q e) := by
  unfold State.logError
  dsimp only
  split <;> exact .of_dies rfl rfl

theorem State.mmioRead_sameGroups (s : State) (pa n : Nat) : SameGroups s (s.mmioRead pa n).2 := by
  unfold State.mmioRead State.regReadEffect
  repeat' split
  all_goals exact .of_dies rfl rfl

theorem State.readSpan_sameGroups (s : State) (key pa n : Nat) : SameGroups s (s.readSpan key pa n).2 := by
  unfold State.readSpan
  split
  · exact (State.mmioRead_sameGroups s _ _).trans
      (SameGroups.foldlSnd (f := fun (acc : List Byte × State) (p : Nat × Nat) =>
        let u := acc.2.mmioRead p.1 p.2
        (acc.1 ++ leBytes p.2 u.1, u.2)) (fun p x => State.mmioRead_sameGroups p.2 x.1 x.2) _ (_, _))
  · exact .refl s

theorem State.sendSnoop_sameGroups (s : State) (who line : Nat) (inv : Bool) : SameGroups s (s.sendSnoop who line inv) := by
  unfold State.sendSnoop
  split <;> exact .of_dies rfl rfl

theorem State.sourceWaits_sameGroups {s t : State} {r : GReq} (h : s.sourceWaits r = some t) : SameGroups s t := by
  unfold State.sourceWaits at h
  dsimp only at h
  split at h
  · cases h
    exact .refl s
  · split at h
    · cases h
    · cases h
      exact SameGroups.foldl (fun u _ => State.sendSnoop_sameGroups u ..) _ s

theorem State.readSource_sameGroups (s : State) (r : GReq) (users : List GReq) : SameGroups s (s.readSource r users).2.2 := by
  unfold State.readSource
  extract_lets t d
  have ht : SameGroups s t :=
    SameGroups.trans (t := { s with bisnps := s.bisnps.filter (fun b => b.who != r.who) }) (.of_dies rfl rfl)
      (State.reach_cached ..).sameGroups
  have hd : SameGroups s d.2 := ht.trans (SameGroups.foldlSnd (f := fun (acc : List Byte × State) (p : MemPart) =>
    let u := acc.2.readSpan p.key p.pa p.n
    (acc.1 ++ u.1, u.2)) (fun p x => State.readSpan_sameGroups p.2 ..) r.pages ([], t))
  split
  · exact hd
  · exact hd.trans (SameGroups.foldl (fun u _ => State.logError_sameGroups u ..) users _)

theorem State.releaseLoad_sameGroups (s : State) (o : OpenLoad) (tmo : Bool) : SameGroups s (s.releaseLoad o tmo) := by
  unfold State.releaseLoad
  dsimp only
  split
  · exact .of_dies rfl rfl
  · split
    · exact State.sourceWaits_sameGroups ‹_›
    · exact (State.readSource_sameGroups s _ _).trans (.of_dies rfl rfl)

theorem State.tryRelease_sameGroups (s : State) (o : OpenLoad) : SameGroups s (s.tryRelease o) := by
  unfold State.tryRelease
  split
  · exact State.releaseLoad_sameGroups ..
  · split
    · exact State.releaseLoad_sameGroups ..
    · exact .refl s

/-! ### Groups changed -/

@[simp] theorem State.group_updGroup (s : State) (d g : Nat) (f : Group → Group) : (s.updGroup d g f).group d g = f (s.group d g) := by
  rw [State.group, State.updGroup, State.die_updDie, Tab.get_set_same]
  rfl

theorem Member.is_iff (m : Member) (p : Nat) (task : BitVec 32) (h : Nat) :
    m.is p task h = true ↔ m.part = p ∧ m.task = task ∧ m.hart = h := by
  simp [Member.is, and_assoc]

/-- Leaving a group takes the member out, and the releases that follow change no group. -/
theorem State.leaveGroup_sameGroups (s : State) (d g p h : Nat) (task : BitVec 32) :
    SameGroups (s.updGroup d g (fun a => { a with members := a.members.filter (fun x => !x.is p task h) }))
      (s.leaveGroup d g p h task) ∨ (s.group d g).member p task h = none ∧ s.leaveGroup d g p h task = s := by
  unfold State.leaveGroup
  split
  · exact .inr ⟨‹_›, rfl⟩
  · extract_lets t hit unasked opens
    exact .inl (SameGroups.trans (t := { t with opens := opens }) (.of_dies rfl rfl) (.foldl State.tryRelease_sameGroups _ _))

theorem State.leaveGroup_cur (s : State) (d g p h : Nat) (task : BitVec 32) : (s.leaveGroup d g p h task).cur = s.cur := by
  rcases s.leaveGroup_sameGroups d g p h task with k | ⟨-, k⟩
  · exact k.cur
  · rw [k]

/-- A task that has left a group is no member of it. -/
theorem State.leaveGroup_members (s : State) (d g p h : Nat) (task : BitVec 32) :
    ∀ m ∈ ((s.leaveGroup d g p h task).group d g).members, ¬ (m.part = p ∧ m.task = task ∧ m.hart = h) := by
  intro m hm
  rw [← Member.is_iff]
  rcases s.leaveGroup_sameGroups d g p h task with k | ⟨hnone, k⟩
  · rw [k.group, State.group_updGroup] at hm
    simpa using (List.mem_filter.1 hm).2
  · rw [k] at hm
    exact List.find?_eq_none.1 hnone m hm

/-! ### GJOIN and GLEAVE (R86, R297) -/

section

variable {s : State} {b c d : Reg} (hready : s.Ready (xs [b, c]) (xs [d]))
include hready

/-- The checks of GJOIN pass for an owned group of the hart's partition. -/
theorem joinChecks_pass (hnumber : (s.me.xv b).toNat ≤ 255) {g : Group} (hown : g.own = true) (hpart : g.part = s.partOf s.cur) :
    firstStop [s.me.ready (xs [b, c]) (xs [d]), trapIf (decide (255 < (s.me.xv b).toNat)) 29 (s.me.xv b),
      trapIf (!g.own || decide (g.part ≠ s.partOf s.cur)) 29 (s.me.xv b)] = none := by
  have hr : s.me.ready (xs [b, c]) (xs [d]) = none := hready
  simp [hr, Nat.not_lt.2 hnumber, hown, hpart]

/-- GJOIN of a group number above 255, or of a group that is not the partition's, traps with it. -/
theorem execGjoin_refused (hbad : 255 < (s.me.xv b).toNat ∨ (s.group (dieOf s.cur) (s.me.xv b).toNat).own = false ∨
      (s.group (dieOf s.cur) (s.me.xv b).toNat).part ≠ s.partOf s.cur) :
    execGjoin c b d s = .next (s.updMe (fun h => h.trap 29 (s.me.xv b) 0)) := by
  have hr : s.me.ready (xs [b, c]) (xs [d]) = none := hready
  refine State.guarded_stop (st := .trap 29 (s.me.xv b)) ?_
  by_cases hnumber : 255 < (s.me.xv b).toNat
  · simp [hr, hnumber]
  · rcases hbad.resolve_left hnumber with hown | hpart
    · simp [hr, hnumber, hown]
    · simp [hr, hnumber, hpart]

variable {g : Group} (hnumber : (s.me.xv b).toNat ≤ 255) (hg : s.group (dieOf s.cur) (s.me.xv b).toNat = g) (hown : g.own = true)
  (hpart : g.part = s.partOf s.cur)
include hnumber hg hown hpart

/-- GJOIN of a member changes nothing, and answers the number of members. -/
theorem execGjoin_member (hmember : (g.member (s.partOf s.cur) (BitVec.ofNat 32 s.me.taskId) s.cur).isSome) :
    execGjoin c b d s = .next (s.updMe (fun h => (h.setX d (BitVec.ofNat 64 g.members.length)).advance 4)) := by
  unfold execGjoin
  dsimp only
  rw [hg, State.guarded_pass (joinChecks_pass hready hnumber hown hpart), if_pos hmember]

/-- GJOIN of a full group changes nothing, and answers all ones. -/
theorem execGjoin_full (hnone : g.member (s.partOf s.cur) (BitVec.ofNat 32 s.me.taskId) s.cur = none) (hfull : 64 ≤ g.members.length) :
    execGjoin c b d s = .next (s.updMe (fun h => (h.setX d (BitVec.allOnes 64)).advance 4)) := by
  unfold execGjoin
  dsimp only
  rw [hg, State.guarded_pass (joinChecks_pass hready hnumber hown hpart), if_neg (by simp [hnone]), if_pos hfull]
  rfl

/-- A task that joins a group is its newest member; the first one's operand sets the timer. -/
theorem execGjoin_joins (hnone : g.member (s.partOf s.cur) (BitVec.ofNat 32 s.me.taskId) s.cur = none) (hroom : g.members.length < 64) :
    let x := (s.me.xv b).toNat
    ∃ t, execGjoin c b d s = .next t ∧
      (t.group (dieOf s.cur) x).members =
        g.members.concat ⟨s.partOf s.cur, BitVec.ofNat 32 s.me.taskId, s.cur, g.openseq + 1, g.openseq + 1⟩ ∧
      (g.members = [] → (t.group (dieOf s.cur) x).timer =
        (if (s.me.xv c).toNat % 65536 = 0 then 4096 else (s.me.xv c).toNat % 65536)) ∧
      (g.members ≠ [] → (t.group (dieOf s.cur) x).timer = g.timer) ∧ t.mem = s.mem ∧
      t.me = (s.me.setX d (BitVec.ofNat 64 (g.members.length + 1))).advance 4 ∧ (∀ h, h ≠ s.cur → t.hart h = s.hart h) := by
  intro x
  have hgroup (t : State) (f : Hart → Hart) : (t.updMe f).group (dieOf s.cur) x = t.group (dieOf s.cur) x := rfl
  unfold execGjoin
  dsimp only
  rw [hg, State.guarded_pass (joinChecks_pass hready hnumber hown hpart), if_neg (by simp [hnone]), if_neg (by omega)]
  refine ⟨_, rfl, ?_, fun hempty => ?_, fun hsome => ?_, rfl, State.me_updMe .., fun h hne => State.hart_updHart_other _ _ _ _ hne⟩
  · rw [hgroup, State.group_updGroup, hg, List.concat_eq_append]
  · rw [hgroup, State.group_updGroup]
    simp [hempty, fieldOf]
  · rw [hgroup, State.group_updGroup]
    exact if_neg (by simpa using hsome)

end

/-- GLEAVE takes the task out of the group, and the hart goes on. -/
theorem execGleave_leaves {s : State} {b : Reg} (hready : s.Ready (xs [b]) []) (hnumber : (s.me.xv b).toNat ≤ 255) :
    ∃ t, execGleave b s = .next t ∧ (∀ m ∈ (t.group (dieOf s.cur) (s.me.xv b).toNat).members,
        ¬ (m.part = s.partOf s.cur ∧ m.task = BitVec.ofNat 32 s.me.taskId ∧ m.hart = s.cur)) ∧
      t.me = s.me.advance 4 ∧ t.mem = s.mem := by
  have hr : s.me.ready (xs [b]) [] = none := hready
  have hcur := s.leaveGroup_cur (dieOf s.cur) (s.me.xv b).toNat (s.partOf s.cur) s.cur (BitVec.ofNat 32 s.me.taskId)
  refine ⟨_, State.guarded_pass (by simp [hr, Nat.not_lt.2 hnumber]), fun m hm => State.leaveGroup_members _ _ _ _ _ _ m hm, ?_,
    (Kept.refl (M := false) (T := false) s).leaveGroup.advance.mem_eq⟩
  rw [State.advance, State.me_updMe, State.me, hcur, (State.leaveGroup_aside ..).hart]
  rfl

/-- GLEAVE of a group number above 255 traps with it. -/
theorem execGleave_refused {s : State} {b : Reg} (hready : s.Ready (xs [b]) []) (hnumber : 255 < (s.me.xv b).toNat) :
    execGleave b s = .next (s.updMe (fun h => h.trap 29 (s.me.xv b) 0)) := by
  have hr : s.me.ready (xs [b]) [] = none := hready
  exact State.guarded_stop (st := .trap 29 (s.me.xv b)) (by simp [hr, hnumber])

end Sys2Proof.Machine
end

section
/-!
SUPPORT. What the issue of a load that parks does to its hart: its destinations are pending, and every value stays (R274, R298).
-/
namespace Sys2Proof.Machine

/-! ### Lists of registers -/

theorem regNo_toNat {r : Nat} (h : r < 32) : (regNo r).toNat = r := by
  rw [regNo, BitVec.toNat_ofNat]
  omega

theorem regNo_inj {r j : Nat} (hr : r < 32) (hj : j < 32) : regNo r = regNo j ↔ r = j := by
  rw [← BitVec.toNat_inj, regNo_toNat hr, regNo_toNat hj]

theorem regNo_eq_zero {r : Nat} (h : r < 32) : regNo r = 0 ↔ r = 0 := regNo_inj h (j := 0) (by decide)

theorem mem_xs_single (a : Reg) (fl : RFile) (j : Nat) : (fl, j) ∈ xs [a] ↔ (fl, j) = (.x, a.toNat) := by simp [xs]

theorem mem_vgroup (n g : Nat) (fl : RFile) (j : Nat) : (fl, j) ∈ vgroup n g ↔ fl = .v ∧ j ∈ span n g := by
  simp only [vgroup, span, List.mem_map, Prod.mk.injEq]
  constructor
  · rintro ⟨i, hi, rfl, rfl⟩
    exact ⟨rfl, i, hi, rfl⟩
  · rintro ⟨rfl, i, hi, rfl⟩
    exact ⟨i, hi, rfl, rfl⟩

/-- No register of two lists is pending exactly when none of either is. -/
theorem Hart.ownedAll_append (a : Hart) (l m : List (RFile × Nat)) :
    a.ownedAll (l ++ m) = none ↔ a.ownedAll l = none ∧ a.ownedAll m = none := by
  induction l with
  | nil => simp [Hart.ownedAll]
  | cons r l ih =>
    obtain ⟨fl, r⟩ := r
    rw [List.cons_append, Hart.ownedAll, Hart.ownedAll]
    split
    · simp
    · exact ih

/-! ### Values -/

/-- A hart that differs from another in the presence of x and v registers, in its park and in what it has claimed. -/
structure Hart.SameValues (a b : Hart) : Prop where
  pc : b.pc = a.pc
  mode : b.mode = a.mode
  csr : b.csr = a.csr
  f : b.f = a.f
  p : b.p = a.p
  xv : ∀ r, b.xv r = a.xv r
  vv : ∀ n, b.vv n = a.vv n

theorem Hart.SameValues.refl (a : Hart) : a.SameValues a := ⟨rfl, rfl, rfl, rfl, rfl, fun _ => rfl, fun _ => rfl⟩

theorem Hart.SameValues.trans {a b c : Hart} (h : a.SameValues b) (k : b.SameValues c) : a.SameValues c :=
  ⟨k.pc.trans h.pc, k.mode.trans h.mode, k.csr.trans h.csr, k.f.trans h.f, k.p.trans h.p, fun r => (k.xv r).trans (h.xv r),
    fun n => (k.vv n).trans (h.vv n)⟩

/-- A register file in which one register's field other than its value has changed. -/
theorem getReg_setReg_val {α β : Type} (val : α → β) (rs : Vector α 32) {r : Reg} {a : α} (h : val a = val (getReg rs r)) (j : Reg) :
    val (getReg (setReg rs r a) j) = val (getReg rs j) := by
  by_cases e : j = r
  · rw [e, getReg_setReg_same, h]
  · rw [getReg_setReg_other _ _ e]

theorem Hart.presX_sameValues (a : Hart) (r : Reg) (p : Presence) : a.SameValues (a.presX r p) := by
  unfold Hart.presX
  split
  · exact .refl a
  · refine ⟨rfl, rfl, rfl, rfl, rfl, fun q => ?_, fun _ => rfl⟩
    unfold Hart.xv
    split
    · rfl
    · exact getReg_setReg_val SReg.val a.x (r := r) (by rfl) q

theorem Hart.presV_sameValues (a : Hart) (n : Nat) (p : Presence) : a.SameValues (a.presV n p) :=
  ⟨rfl, rfl, rfl, rfl, rfl, fun _ => rfl, fun j => getReg_setReg_val VReg.val a.v (r := regNo n) (by rfl) (regNo j)⟩

theorem Hart.setPres_sameValues (a : Hart) {fl : RFile} (h : fl ≠ .f) (r : Nat) (p : Presence) : a.SameValues (a.setPres fl r p) := by
  cases fl
  case x => exact Hart.presX_sameValues ..
  case f => exact absurd rfl h
  case v => exact Hart.presV_sameValues ..

theorem Hart.parkFor_sameValues (a : Hart) (p : Park) (now clk : Nat) : a.SameValues (a.parkFor p now clk) := by
  unfold Hart.parkFor
  split
  · exact .refl a
  · exact ⟨rfl, rfl, rfl, rfl, rfl, fun _ => rfl, fun _ => rfl⟩

theorem Hart.claim_sameValues (a : Hart) {l : List (RFile × Nat)} (h : ∀ r ∈ l, r.1 ≠ .f) : a.SameValues (a.claim l) := by
  have hfold (b : Hart) : b.SameValues (l.foldl (fun b r => b.setPres r.1 r.2 .pending) b) := by
    induction l generalizing b with
    | nil => exact .refl b
    | cons r l ih =>
      exact (Hart.setPres_sameValues b (h r List.mem_cons_self) _ _).trans (ih (fun q hq => h q (List.mem_cons_of_mem _ hq)) _)
  unfold Hart.claim
  split
  · exact (hfold a).trans ⟨rfl, rfl, rfl, rfl, rfl, fun _ => rfl, fun _ => rfl⟩
  · exact .refl a

/-! ### Presence -/

/-- A field of a register once another, or itself, has been replaced. -/
theorem getReg_setReg_regNo {α β : Type} (field : α → β) (rs : Vector α 32) (a : α) {r j : Nat} (hr : r < 32) (hj : j < 32) :
    field (getReg (setReg rs (regNo r) a) (regNo j)) = if j = r then field a else field (getReg rs (regNo j)) := by
  split
  case isTrue e => rw [e, getReg_setReg_same]
  case isFalse e => rw [getReg_setReg_other _ _ (fun k => e ((regNo_inj hj hr).1 k))]

theorem Hart.presX_cond (a : Hart) {r j : Nat} (hr : r < 32) (hj : j < 32) (p : Presence) :
    ((a.presX (regNo r) p).cond .x j).1 = if j = r ∧ j ≠ 0 then p else (a.cond .x j).1 := by
  have hmod : j % 32 = j := Nat.mod_eq_of_lt hj
  by_cases hzero : j = 0
  · simp [Hart.cond, hzero]
  · by_cases hr0 : regNo r = 0
    · have hne : j ≠ r := fun e => hzero (e.trans ((regNo_eq_zero hr).1 hr0))
      rw [Hart.presX, if_pos hr0, if_neg (fun e => hne e.1)]
    · simp only [Hart.presX, if_neg hr0, Hart.cond, hmod, getReg_setReg_regNo SReg.pres _ _ hr hj, ne_eq, hzero,
        not_false_eq_true, and_true, if_false]

/-- The presence of a register once another, or itself, has been given one; x0 is always present. -/
theorem Hart.setPres_cond (a : Hart) (fl gl : RFile) {r j : Nat} (hr : r < 32) (hj : j < 32) (p : Presence) :
    ((a.setPres fl r p).cond gl j).1 = if (gl, j) = (fl, r) ∧ ¬ (gl = .x ∧ j = 0) then p else (a.cond gl j).1 := by
  cases fl
  case x =>
    cases gl
    case x => simpa [Hart.setPres] using a.presX_cond hr hj p
    all_goals simp [Hart.setPres, Hart.cond]
  case f =>
    cases gl
    case f =>
      simp only [Hart.setPres, reduceCtorEq, false_and, not_false_eq_true, and_true, Prod.mk.injEq, true_and]
      exact getReg_setReg_regNo SReg.pres a.f _ hr hj
    all_goals simp [Hart.setPres, Hart.cond]
  case v =>
    cases gl
    case v =>
      simp only [Hart.setPres, reduceCtorEq, false_and, not_false_eq_true, and_true, Prod.mk.injEq, true_and]
      exact getReg_setReg_regNo VReg.pres a.v _ hr hj
    all_goals simp [Hart.setPres, Hart.cond]

/-- The registers that a load claims at its issue are pending, the others are as they were. -/
theorem Hart.claim_cond (a : Hart) (hclaimed : a.claimed = []) {l : List (RFile × Nat)} (hl : ∀ r ∈ l, r.2 < 32) (fl : RFile) {j : Nat}
    (hj : j < 32) : ((a.claim l).cond fl j).1 = if (fl, j) ∈ l ∧ ¬ (fl = .x ∧ j = 0) then .pending else (a.cond fl j).1 := by
  have hfold (b : Hart) : ((l.foldl (fun b r => b.setPres r.1 r.2 .pending) b).cond fl j).1 =
      if (fl, j) ∈ l ∧ ¬ (fl = .x ∧ j = 0) then .pending else (b.cond fl j).1 := by
    induction l generalizing b with
    | nil => simp
    | cons r l ih =>
      rw [List.foldl_cons, ih (fun q hq => hl q (List.mem_cons_of_mem _ hq)),
        Hart.setPres_cond b r.1 fl (hl r List.mem_cons_self) hj]
      by_cases hzero : fl = .x ∧ j = 0
      · simp [hzero]
      · by_cases hmem : (fl, j) ∈ l <;> simp [hzero, hmem]
  rw [Hart.claim, if_pos hclaimed]
  exact hfold a

/-- A hart that parks is parked for that cause. -/
theorem Hart.parkFor_park (a : Hart) (p : Park) (now clk : Nat) : (a.parkFor p now clk).park = some p := by
  unfold Hart.parkFor
  split
  · assumption
  · rfl

theorem Hart.parkFor_cond (a : Hart) (p : Park) (now clk : Nat) (fl : RFile) (j : Nat) : (a.parkFor p now clk).cond fl j = a.cond fl j := by
  unfold Hart.parkFor
  split <;> rfl

end Sys2Proof.Machine
end

section
/-!
SUPPORT. GLD and GLDV at their issue, in their order of faults (R87, R89, R229, R298, R299).
-/
namespace Sys2Proof.Machine

/-! ### The control word (R229) -/

/-- Order 6 of R299: when a control word is not well formed, by the bits of its fields. -/
theorem ctlBad_iff (w : Word) (vec : Bool) : ctlBad w vec = true ↔
    let len := w.toNat / 2 ^ 40 % 2 ^ 17
    w.toNat / 2 ^ 57 ≠ 0 ∨ len = 0 ∨ len % 64 ≠ 0 ∨ (vec = false ∧ 65536 < len) ∨
    (vec = true ∧ (w.toNat / 2 ^ 16 % 2 ^ 16 ≠ 0 ∨ w.toNat / 2 ^ 7 % 2 ^ 9 ≠ 0 ∨ 128 * 2 ^ (w.toNat / 32 % 4) < len)) := by
  have hw := w.isLt
  have htop : w.toNat / 2 ^ 57 ≠ 0 ↔ w.toNat / 2 ^ 57 % 2 ^ 7 ≠ 0 := by omega
  have hmid : w.toNat / 2 ^ 7 % 2 ^ 9 ≠ 0 ↔ w.toNat / 2 ^ 8 % 2 ^ 8 ≠ 0 ∨ w.toNat / 2 ^ 7 % 2 ^ 1 ≠ 0 := by omega
  dsimp only
  rw [htop, hmid]
  cases vec <;>
    simp only [ctlBad, Bool.or_eq_true, decide_eq_true_eq, or_assoc, if_true, if_false, Bool.false_eq_true] <;>
    simp [ctlLen, ctlRow, ctlGen, ctlVreg, fieldOf]

/-- The register group that a control word names. -/
theorem ctlVreg_eq (w : Word) : ctlVreg w = (w.toNat % 32, 2 ^ (w.toNat / 32 % 4)) := by simp [ctlVreg, fieldOf]

/-- A length of 0 is not well formed. -/
theorem ctlLen_pos {w : Word} {vec : Bool} (h : ctlBad w vec = false) : ctlLen w ≠ 0 := by
  intro e
  simp [ctlBad, e] at h

/-! ### The source (R299 order 5) -/

/-- The translation of a source leaves all that an access leaves. -/
theorem State.sourcePages_accessed {s : State} {src : Word} {len n k : Nat} {r : List MemPart × State}
    (h : s.sourcePages src len n k = .ok r) : Accessed s r.2 := by
  induction n generalizing s k r with
  | zero => cases h; exact .refl s
  | succ n ih =>
    unfold State.sourcePages at h
    dsimp only at h
    split at h
    case h_4 ht =>
      split at h
      · cases h
      · generalize e : State.sourcePages _ src len n (k + 1) = x at h
        cases x with
        | error => cases h
        | ok => cases h; exact (State.translate_accessed ht).trans (ih e :)
    all_goals cases h

/-! ### The checks in their order (R299) -/

theorem firstStop_single (o : Option Stop) : firstStop [o] = o := by cases o <;> rfl

/-- The destinations of a group load: its status register, and the register group of GLDV (R94). -/
def loadDst (vec : Bool) (ctl : Word) (a : Reg) : List (RFile × Nat) :=
  xs [a] ++ (if vec then vgroup (ctlVreg ctl).1 (ctlVreg ctl).2 else [])

/-- The v registers that a group load writes. -/
def loadSpan (vec : Bool) (ctl : Word) : List Nat := if vec then span (ctlVreg ctl).1 (ctlVreg ctl).2 else []

/-- The pages of a group load's source. -/
def loadPages (src : Word) (len : Nat) : Nat := if len = 0 then 0 else (src.toNat % 4096 + len + 4095) / 4096

/-- The handle word that a control word makes with the quad of the hart at issue. -/
def State.loadTile (s : State) (ctl : Word) : Word := handleWord (quadOf s.cur) (ctlHandle ctl) (ctlGen ctl)

theorem State.loadTile_eq (s : State) (w : Word) :
    s.loadTile w = handleWord (quadOf s.cur) (w.toNat % 256) (w.toNat / 256 % 256) := by
  simp [State.loadTile, ctlHandle, ctlGen, fieldOf]

/-- Orders 2 to 4 of R299. -/
def State.loadChecks (s : State) (vec e : Bool) (c b a : Reg) : List (Option Stop) :=
  [if vec && (s.me.presentAll (xs [c])).isNone then s.me.groupStop (ctlVreg (s.me.xv c)).1 (ctlVreg (s.me.xv c)).2 else none,
    s.me.ready (xs [a, b, c]) [], s.me.ownedAll (loadDst vec (s.me.xv c) a), trapIf (!vec && !e && decide (a = 0)) 31 4,
    trapIf (decide ((s.me.xv b).toNat % 64 ≠ 0)) 4 (s.me.xv b)]

/-- Orders 6 and 7 of R299, and what the load waits for before its request is sent. -/
def State.sendChecks (s : State) (vec e : Bool) (k : BitVec 3) (c b : Reg) : List (Option Stop) :=
  let ctl := s.me.xv c
  [trapIf (ctlBad ctl vec) 29 (s.me.xv b),
    trapIf (!vec && (s.fillFits (s.partOf s.cur) s.me.fmts (s.loadTile ctl) (ctlRow ctl) (ctlLen ctl)).isNone) 27 (s.loadTile ctl),
    s.me.tokenFull (tokenOf e k),
    parkIf (s.me.vq.any (fun x => x.op.isStore || overlap (x.reads ++ x.writes) (loadSpan vec ctl)) ||
      !((s.quad (quadOf s.cur)).clearFor s.cur s.me.seq (loadSpan vec ctl) (loadSpan vec ctl))) .faultPoint]

/-- The request of a group load whose source has been translated, which has led to state `t`. -/
def State.loadReq (s t : State) (vec e : Bool) (k : BitVec 3) (c b a : Reg) (pages : List MemPart) : GReq :=
  let ctl := s.me.xv c
  let pa := (pages.map (·.pa)).headD 0
  let task := BitVec.ofNat 32 s.me.taskId
  { id := t.nextXfer, die := dieOf s.cur, group := ctlGroup ctl, slice := t.holdSlice (dieOf s.cur) pa
    seq := (((s.group (dieOf s.cur) (ctlGroup ctl)).member (s.partOf s.cur) task s.cur).map (·.next)).getD 0
    hart := s.cur, task := task, part := s.partOf s.cur, asid := (s.reqOf s.cur).asid
    root := (s.reqOf s.cur).root, mode := s.me.mode, pages := pages, pa := pa, src := s.me.xv b, len := ctlLen ctl, vector := vec
    row := ctlRow ctl, hw := s.loadTile ctl, reg := (ctlVreg ctl).1, gsize := (ctlVreg ctl).2, xd := a.toNat, token := tokenOf e k
    barrier := s.me.xv a, fmt := s.me.fmts, cls := s.me.taskCls }

variable {s t : State} {vec e : Bool} {k : BitVec 3} {c b a : Reg} {pages : List MemPart}

/-- The issue of a group load of a hart that has no request under way. -/
theorem State.groupLoad_eq (hfree : s.greqs.any (fun r => r.hart == s.cur && !r.accepted) = false) :
    s.groupLoad vec e k c b a = s.guarded (s.loadChecks vec e c b a)
      (match s.sourcePages (s.me.xv b) (ctlLen (s.me.xv c)) (loadPages (s.me.xv b) (ctlLen (s.me.xv c))) 0 with
        | .error st => s.stopFor (loadDst vec (s.me.xv c) a) st
        | .ok (pages, t) => s.guarded (s.sendChecks vec e k c b)
          (State.parksFor { t with nextXfer := t.nextXfer + 1, greqs := t.greqs ++ [s.loadReq t vec e k c b a pages] }
            (loadDst vec (s.me.xv c) a) .gld)) := by
  unfold State.groupLoad
  dsimp only
  rw [if_neg (by rw [hfree]; decide)]
  rfl

/-- A load whose source is translated comes to the checks of its control word, its tile and its waits. -/
theorem State.groupLoad_translated (hfree : s.greqs.any (fun r => r.hart == s.cur && !r.accepted) = false)
    (hchecks : firstStop (s.loadChecks vec e c b a) = none)
    (hpages : s.sourcePages (s.me.xv b) (ctlLen (s.me.xv c)) (loadPages (s.me.xv b) (ctlLen (s.me.xv c))) 0 = .ok (pages, t)) :
    s.groupLoad vec e k c b a = s.guarded (s.sendChecks vec e k c b)
      (State.parksFor { t with nextXfer := t.nextXfer + 1, greqs := t.greqs ++ [s.loadReq t vec e k c b a pages] }
        (loadDst vec (s.me.xv c) a) .gld) := by
  rw [State.groupLoad_eq hfree, State.guarded_pass hchecks, hpages]

/-- Registers that let the load issue leave the alignment of its source as the last of the first checks. -/
theorem State.loadChecks_alignment (hready : s.Ready (xs [a, b, c]) (xs [a]))
    (hgroup : vec = true → s.me.groupStop (ctlVreg (s.me.xv c)).1 (ctlVreg (s.me.xv c)).2 = none ∧
      s.me.ownedAll (vgroup (ctlVreg (s.me.xv c)).1 (ctlVreg (s.me.xv c)).2) = none)
    (hstatus : vec = false → e = true ∨ a ≠ 0) :
    firstStop (s.loadChecks vec e c b a) = trapIf (decide ((s.me.xv b).toNat % 64 ≠ 0)) 4 (s.me.xv b) := by
  obtain ⟨hmark, hpresent, howned⟩ := Hart.ready_split.1 (show s.me.ready (xs [a, b, c]) (xs [a]) = none from hready)
  have hsrc : s.me.ready (xs [a, b, c]) [] = none := Hart.ready_split.2 ⟨hmark, hpresent, rfl⟩
  unfold State.loadChecks loadDst
  cases vec with
  | false =>
    have hnamed : (!e && decide (a = 0)) = false := by
      rcases hstatus rfl with h | h <;> simp only [h, decide_false, Bool.not_true, Bool.false_and, Bool.and_false]
    simp only [Bool.false_and, Bool.not_false, Bool.true_and, Bool.false_eq_true, if_false, List.append_nil, hsrc, howned, hnamed,
      firstStop_none, firstStop_single, trapIf_false]
  | true =>
    obtain ⟨hfits, hvgroup⟩ := hgroup rfl
    have hdst := (Hart.ownedAll_append s.me _ _).2 ⟨howned, hvgroup⟩
    simp [hsrc, hdst, hfits, firstStop_single]

/-- A source that is not 64-byte aligned takes cause 4 with its address. -/
theorem State.groupLoad_misaligned (hfree : s.greqs.any (fun r => r.hart == s.cur && !r.accepted) = false)
    (hchecks : firstStop (s.loadChecks vec e c b a) = trapIf (decide ((s.me.xv b).toNat % 64 ≠ 0)) 4 (s.me.xv b))
    (hmis : (s.me.xv b).toNat % 64 ≠ 0) :
    s.groupLoad vec e k c b a = .next (s.updMe (fun h => h.trap 4 (s.me.xv b) 0)) := by
  rw [State.groupLoad_eq hfree]
  exact State.guarded_stop (hchecks.trans (by simp [hmis]) : _ = some (.trap 4 (s.me.xv b)))

/-- A control word that is not well formed takes cause 29 with the source's address. -/
theorem State.groupLoad_malformed (hfree : s.greqs.any (fun r => r.hart == s.cur && !r.accepted) = false)
    (hchecks : firstStop (s.loadChecks vec e c b a) = none)
    (hpages : s.sourcePages (s.me.xv b) (ctlLen (s.me.xv c)) (loadPages (s.me.xv b) (ctlLen (s.me.xv c))) 0 = .ok (pages, t))
    (hbad : ctlBad (s.me.xv c) vec = true) :
    s.groupLoad vec e k c b a = .next (s.updMe (fun h => h.trap 29 (s.me.xv b) 0)) := by
  rw [State.groupLoad_translated hfree hchecks hpages]
  exact State.guarded_stop (st := .trap 29 (s.me.xv b)) (by simp [State.sendChecks, hbad])

/-! ### The request is sent (R89) -/

/-- A load parks until its request is accepted, with its destinations claimed; what it has sent stays. -/
theorem State.parksFor_gld (v : State) {dst : List (RFile × Nat)} (h : dst ≠ []) :
    ∃ u now clk, v.parksFor dst .gld = .next u ∧ u.me = (v.me.claim dst).parkFor .gld now clk ∧ u.greqs = v.greqs ∧ u.mem = v.mem ∧
      u.tmem = v.tmem := by
  refine ⟨_, v.time, (v.updMe (fun a => a.claim dst)).clk, if_neg h, ?_, rfl, rfl, rfl⟩
  exact (State.me_updMe ..).trans (congrArg (fun x : Hart => x.parkFor .gld _ _) (State.me_updMe ..))

/-- A group within its alignment ends below 32. -/
theorem ctlVreg_lt {h : Hart} {ctl : Word} (hgroup : h.groupStop (ctlVreg ctl).1 (ctlVreg ctl).2 = none) {i : Nat}
    (hi : i < (ctlVreg ctl).2) : (ctlVreg ctl).1 + i < 32 := by
  have halign : (ctlVreg ctl).1 % (ctlVreg ctl).2 = 0 := by
    by_contra hne
    have hdiv : ¬ ((ctlVreg ctl).1 : Int) % ((ctlVreg ctl).2 : Nat) = 0 := by exact_mod_cast hne
    simp [Hart.groupStop, hdiv] at hgroup
  have hsize : fieldOf ctl.toNat 5 2 < 4 := Nat.mod_lt _ (by decide)
  have hfirst : (ctlVreg ctl).1 < 32 := Nat.mod_lt _ (by decide)
  rw [show (ctlVreg ctl).2 = 2 ^ fieldOf ctl.toNat 5 2 from rfl] at hi halign
  generalize fieldOf ctl.toNat 5 2 = m at hi halign hsize
  interval_cases m <;> omega

/-- The registers of GLDV's group are numbered below 32, for the group is aligned to its size (R176). -/
theorem loadDst_lt {h : Hart} (vec : Bool) (ctl : Word) (a : Reg)
    (hgroup : vec = true → h.groupStop (ctlVreg ctl).1 (ctlVreg ctl).2 = none) : ∀ r ∈ loadDst vec ctl a, r.2 < 32 := by
  rintro ⟨fl, j⟩ hr
  rcases List.mem_append.1 hr with hx | hv
  · rw [mem_xs_single] at hx
    cases hx
    exact a.isLt
  · cases vec with
    | false => cases hv
    | true =>
      rw [if_pos rfl, mem_vgroup] at hv
      obtain ⟨i, hi, rfl⟩ := List.mem_map.1 hv.2
      exact ctlVreg_lt (hgroup rfl) (List.mem_range.1 hi)

/-- The registers that a group load leaves pending from its issue on. -/
theorem mem_loadDst (vec : Bool) (ctl : Word) (a : Reg) (fl : RFile) (j : Nat) :
    (fl, j) ∈ loadDst vec ctl a ∧ ¬ (fl = .x ∧ j = 0) ↔
      ((fl, j) = (.x, a.toNat) ∧ a ≠ 0) ∨ (fl = .v ∧ j ∈ loadSpan vec ctl) := by
  have hzero : a.toNat = 0 ↔ a = 0 := by rw [← BitVec.toNat_inj]; rfl
  have hv : (fl, j) ∈ (if vec then vgroup (ctlVreg ctl).1 (ctlVreg ctl).2 else []) ↔ fl = .v ∧ j ∈ loadSpan vec ctl := by
    cases vec
    · simp [loadSpan]
    · exact mem_vgroup ..
  rw [loadDst, List.mem_append, mem_xs_single, hv]
  constructor
  · rintro ⟨h | h, hne⟩
    · refine .inl ⟨h, fun ha => hne ?_⟩
      cases h
      exact ⟨rfl, hzero.2 ha⟩
    · exact .inr h
  · rintro (⟨h, ha⟩ | h)
    · refine ⟨.inl h, fun hne => ha ?_⟩
      cases h
      exact hzero.1 hne.2
    · refine ⟨.inr h, fun hne => ?_⟩
      cases hne.1.symm.trans h.1

theorem State.sendChecks_pass (hctl : ctlBad (s.me.xv c) vec = false)
    (htile : vec = false →
      (s.fillFits (s.partOf s.cur) s.me.fmts (s.loadTile (s.me.xv c)) (ctlRow (s.me.xv c)) (ctlLen (s.me.xv c))).isSome)
    (htoken : s.me.tokenFull (tokenOf e k) = none)
    (hqueue : s.me.vq.any (fun x => x.op.isStore || overlap (x.reads ++ x.writes) (loadSpan vec (s.me.xv c))) = false)
    (hclear : (s.quad (quadOf s.cur)).clearFor s.cur s.me.seq (loadSpan vec (s.me.xv c)) (loadSpan vec (s.me.xv c)) = true) :
    firstStop (s.sendChecks vec e k c b) = none := by
  have hfits : (!vec && (s.fillFits (s.partOf s.cur) s.me.fmts (s.loadTile (s.me.xv c)) (ctlRow (s.me.xv c))
      (ctlLen (s.me.xv c))).isNone) = false := by
    cases vec
    · obtain ⟨x, hx⟩ := Option.isSome_iff_exists.1 (htile rfl)
      rw [hx]
      rfl
    · rfl
  rw [State.sendChecks, hctl, hfits, htoken, hqueue, hclear]
  rfl

/-- A group load whose checks pass sends its request and parks, its destinations pending. -/
theorem State.groupLoad_sends (hfree : s.greqs.any (fun r => r.hart == s.cur && !r.accepted) = false) (hclaimed : s.me.claimed = [])
    (hgroup : vec = true → s.me.groupStop (ctlVreg (s.me.xv c)).1 (ctlVreg (s.me.xv c)).2 = none)
    (hchecks : firstStop (s.loadChecks vec e c b a) = none)
    (hpages : s.sourcePages (s.me.xv b) (ctlLen (s.me.xv c)) (loadPages (s.me.xv b) (ctlLen (s.me.xv c))) 0 = .ok (pages, t))
    (hsend : firstStop (s.sendChecks vec e k c b) = none) :
    ∃ u, s.groupLoad vec e k c b a = .next u ∧ u.greqs = s.greqs.concat (s.loadReq t vec e k c b a pages) ∧
      u.me.park = some .gld ∧ s.me.SameValues u.me ∧
      (∀ fl j, j < 32 → (u.me.cond fl j).1 =
        if ((fl, j) = (.x, a.toNat) ∧ a ≠ 0) ∨ (fl = .v ∧ j ∈ loadSpan vec (s.me.xv c)) then .pending else (s.me.cond fl j).1) ∧
      u.mem = s.mem ∧ u.tmem = s.tmem := by
  have haccess : Accessed s t := State.sourcePages_accessed hpages
  let v : State := { t with nextXfer := t.nextXfer + 1, greqs := t.greqs ++ [s.loadReq t vec e k c b a pages] }
  obtain ⟨r, hme⟩ : ∃ r, v.me = { s.me with resv := r } := by
    obtain ⟨r, hr⟩ := haccess.hart s.cur
    refine ⟨r, ?_⟩
    show t.hart t.cur = _
    rw [show t.cur = s.cur by rw [haccess.rest], hr]
    rfl
  obtain ⟨u, now, clk, hnext, hu, hgreqs, hmem, htmem⟩ := State.parksFor_gld v (dst := loadDst vec (s.me.xv c) a) (by simp [loadDst, xs])
  refine ⟨u, ?_, ?_, ?_, ?_, fun fl j hj => ?_, hmem.trans haccess.mem, htmem.trans haccess.tmem⟩
  · rw [State.groupLoad_translated hfree hchecks hpages, State.guarded_pass hsend]
    exact hnext
  · rw [hgreqs, List.concat_eq_append]
    exact congrArg (· ++ _) (by rw [haccess.rest])
  · rw [hu, Hart.parkFor_park]
  · have hfiles : ∀ q ∈ loadDst vec (s.me.xv c) a, q.1 ≠ .f := by
      rintro ⟨fl, j⟩ hq rfl
      simpa using (mem_loadDst vec (s.me.xv c) a .f j).1 ⟨hq, by simp⟩
    have hresv : s.me.SameValues v.me := by rw [hme]; exact ⟨rfl, rfl, rfl, rfl, rfl, fun _ => rfl, fun _ => rfl⟩
    rw [hu]
    exact (hresv.trans (Hart.claim_sameValues _ hfiles)).trans (Hart.parkFor_sameValues ..)
  · rw [hu, Hart.parkFor_cond, hme, Hart.claim_cond { s.me with resv := r } hclaimed (loadDst_lt vec _ a hgroup) fl hj]
    exact if_congr (mem_loadDst vec (s.me.xv c) a fl j) rfl rfl

/-! ### The obligation -/

theorem exec_groupLoad (s : State) (vec e : Bool) (k : BitVec 3) (c b a : Reg) :
    exec (if vec then .gldv e k c b a else .gld e k c b a) s = s.groupLoad vec e k c b a := by
  cases vec <;> rfl

/-- Settles O26: GJOIN and GLEAVE case by case, a group load through its checks in their order and what its park leaves. -/
theorem groupsJoined : Obligations.GroupsJoined := by
  unfold Obligations.GroupsJoined
  refine ⟨⟨fun s c b d hready hnumber hown hpart => ?_, fun _ _ => execGleave_leaves, fun _ _ _ _ => execGjoin_refused,
    fun _ _ => execGleave_refused⟩, ?_, ?_, ?_, ctlBad_iff⟩
  · exact ⟨execGjoin_member hready hnumber rfl hown hpart, execGjoin_full hready hnumber rfl hown hpart,
      execGjoin_joins hready hnumber rfl hown hpart⟩
  · intro s vec e k c b a pages u ctl src len g hw wr hfree hclaimed hready hgroup hstatus halign hctl hpages htile htoken hqueue hclear
    have hg : ctlVreg ctl = g := ctlVreg_eq ctl
    have hhw : s.loadTile ctl = hw := s.loadTile_eq ctl
    have hwr : loadSpan vec ctl = wr := by rw [loadSpan, hg]
    have hlen : loadPages src len = (src.toNat % 4096 + len + 4095) / 4096 := if_neg (ctlLen_pos hctl)
    rw [← hg] at hgroup
    rw [← hhw] at htile
    rw [← hwr] at hqueue hclear
    rw [← hlen] at hpages
    have hchecks := State.loadChecks_alignment hready hgroup hstatus
    rw [halign] at hchecks
    obtain ⟨t, hnext, hgreqs, hpark, hsame, hcond, hmem, htmem⟩ := State.groupLoad_sends hfree hclaimed (fun h => (hgroup h).1) hchecks
      hpages (State.sendChecks_pass hctl htile htoken hqueue hclear)
    rw [exec_groupLoad, ← hwr]
    exact ⟨t, _, hnext, hgreqs, rfl, rfl, rfl, rfl, rfl, rfl, rfl, rfl, rfl, rfl, fun _ => hg, fun _ => ⟨hhw, rfl⟩, hpark, hsame.pc,
      hsame.xv, hsame.vv, hcond, hsame.f, hsame.p, hsame.csr, hsame.mode, hmem, htmem⟩
  · intro s e k c b a hfree hready hstatus hmis
    exact State.groupLoad_misaligned hfree (State.loadChecks_alignment hready (by simp) (fun _ => hstatus)) hmis
  · intro s vec e k c b a pages u ctl src len g word hfree hready hgroup hstatus
    have hg : ctlVreg ctl = g := ctlVreg_eq ctl
    rw [← hg] at hgroup
    have hchecks := State.loadChecks_alignment hready hgroup hstatus
    rw [show exec word s = _ from exec_groupLoad ..]
    refine ⟨fun _ hmis => State.groupLoad_misaligned hfree hchecks hmis, fun halign hctl hpages => ?_⟩
    rw [halign] at hchecks
    exact State.groupLoad_malformed hfree hchecks hpages hctl

end Sys2Proof.Machine
end

section
/-!
SUPPORT. A statement about group loads that a state refutes, and the state that does it.
-/
namespace Sys2Proof.Machine

/-! ### A fill that lands marks the other fills of its destination (R94) -/

/-- A tile of 64 bytes. -/
def lineTile : TileEntry := { v := true, ngr := 1, rows := 1, cols := 64 }

/-- A fill of that tile for load `n` of hart 0's task in group 0, the first line of memory being the source. -/
def tileFill (n : Nat) : GFill :=
  { req :=
      { id := n, die := 0, group := 0, seq := n, slice := 0, hart := 0, task := 0, part := 0, asid := 0, root := 0, mode := .u
        pages := [{ pa := 0, n := 64 }], pa := 0, src := 0, len := 64, vector := false, row := 0, hw := handleWord 0 0 0
        reg := 0, gsize := 1, xd := 0, token := some 0, barrier := 0, fmt := [], accepted := true }
    bytes := List.replicate 64 7, nreq := 1, tmo := false, str := false, err := false }

/-- Hart 0 has two loads into one tile under way, both filled and neither landed. -/
def twoFills : State :=
  { State.reset with
    harts := [(0, { task := some {}, sb := #v[2, 0, 0, 0, 0, 0, 0, 0] })]
    quads := [(0, { part := some 0, tiles := [(0, lineTile)], banks := [(0, { st := 2 })] })]
    fills := [tileFill 0, tileFill 1] }

/-- The first of them lands: what the second is to leave in the tile is undefined from then on. -/
theorem twoFills_marks : ∃ t, exec .groupFillLand twoFills = .next t ∧ t.fills.map (·.req.dirty) = [[(0, 64)]] := ⟨_, rfl, by decide⟩

/-- Refutes O45: when a fill has landed and is gone, the other fills need not be as they were. One whose tile the landing has
written is marked, for what it will leave there is undefined (R94). -/
theorem not_groupLoadsDeliver : ¬ Obligations.GroupLoadsDeliver := by
  unfold Obligations.GroupLoadsDeliver
  rintro ⟨-, -, hland⟩
  obtain ⟨htile, -⟩ := hland twoFills (tileFill 0) rfl rfl rfl rfl rfl (.inl rfl)
  obtain ⟨t, ht, -, -, hleft, -⟩ := htile ⟨0, 0, lineTile⟩ 0 rfl rfl (by decide) (by decide)
  obtain ⟨u, hu, hmarked⟩ := twoFills_marks
  obtain rfl := Host.Outcome.next.inj (ht.symm.trans hu)
  rw [show t.fills = _ from hleft] at hmarked
  exact absurd hmarked (by decide)

end Sys2Proof.Machine
end

section
/-!
PROOFS. FREEZE and THAW at their issue, in the order of their checks (R97, R98, R104, R295): obligation O23.
-/
namespace Sys2Proof.Machine

/-! ### The pages and their checks (R97) -/

/-- The translation of a range leaves all that an access leaves. -/
theorem State.rangeOf_accessed {s : State} {va n : Nat} {r : List (Nat × Nat) × State} (h : s.rangeOf va n = .ok r) :
    Accessed s r.2 := by
  induction n generalizing s va r with
  | zero => cases h; exact .refl s
  | succ n ih =>
    unfold State.rangeOf at h
    split at h
    case h_4 ht =>
      split at h
      · cases h
      · next e =>
        cases h
        exact (State.translate_accessed ht).trans (ih e :)
    all_goals cases h

/-- No page of a range fails a test. -/
theorem firstBad_eq_none {l : List (Nat × Nat)} {bad : Nat → Bool} (c : Nat) (h : ∀ x ∈ l, bad x.2 = false) :
    firstBad l bad c = none := by
  unfold firstBad
  rw [List.find?_eq_none.2 fun x hx => by simp [h x hx]]
  rfl

/-- The lowest page of a range that fails a test traps with its virtual address. -/
theorem firstBad_lowest {l m : List (Nat × Nat)} {x : Nat × Nat} {bad : Nat → Bool} (c : Nat) (h : ∀ y ∈ l, bad y.2 = false)
    (hx : bad x.2 = true) : firstBad (l ++ x :: m) bad c = some (.trap c (BitVec.ofNat 64 x.1)) := by
  unfold firstBad
  rw [List.find?_append, List.find?_eq_none.2 fun y hy => by simp [h y hy],
    List.find?_cons_of_pos (p := fun x : Nat × Nat => bad x.2) hx]
  rfl

/-! ### The issue, by its parts -/

/-- What FREEZE and THAW check of their operands, in order (R295). -/
def State.freezeOperands (s : State) (thaw : Bool) (c b a : Reg) : List (Option Stop) :=
  [s.me.ready (xs [a, b, c]) [], trapIf (decide ((s.me.xv b).toNat % 4096 ≠ 0)) 31 (s.me.xv b),
    trapIf (decide ((s.me.xv c).toNat % 4096 ≠ 0) || decide (2 ^ 30 < (s.me.xv c).toNat)) 31 (s.me.xv c),
    trapIf (decide ((s.me.xv a).toNat % 64 ≠ 0)) 31 (s.me.xv a), if thaw then none else s.me.releaseWait]

/-- The count of a page would leave its range (R97). -/
def State.countBad (s : State) (thaw : Bool) (l : List (Nat × Nat)) (p : Nat) : Bool :=
  if thaw then decide (s.count p < Tab.get (pageCounts l) p 0) else decide (255 < s.count p + Tab.get (pageCounts l) p 0)

/-- What they check of the pages of a range, and then of their token, in order (R97, R257). -/
def State.freezePages (s : State) (thaw : Bool) (l : List (Nat × Nat)) (tok : Option Nat) : List (Option Stop) :=
  [firstBad l (fun p => decide (2 ^ 39 / 4096 ≤ p) || decide (Tab.get s.bias p 0 = 1)) 7,
    parkIf (l.any (fun x => decide (2 ≤ Tab.get s.bias x.2 0) || s.pageLocked x.2)) .freeze,
    firstBad l (s.countBad thaw l) 26, s.me.tokenFull tok]

/-- The operation that they record. -/
def State.freezeOp (s : State) (thaw e : Bool) (k : BitVec 3) (c a : Reg) (l : List (Nat × Nat)) : FreezeOp :=
  { thaw := thaw, hart := s.cur, task := BitVec.ofNat 32 s.me.taskId, part := s.partOf s.cur
    asid := (s.reqOf s.cur).asid, root := (s.reqOf s.cur).root, mode := s.me.mode, pages := pageCounts l
    len := (s.me.xv c).toNat, token := tokenOf e k, barrier := s.me.xv a, id := s.nextXfer
    parks := !e && decide (a = 0) && !l.isEmpty, cls := s.me.taskCls }

/-- The state after the issue at a state whose caches and translations are those of `u`. -/
def State.freezeIssued (s u : State) (op : FreezeOp) : State :=
  { u with nextXfer := u.nextXfer + 1, freezes := u.freezes ++ [op] }.updMe
    (fun x => if op.parks then x.parkFor .freeze s.time s.clk else (x.startToken op.token).advance 4)

variable {s t : State} {thaw e : Bool} {k : BitVec 3} {c b a : Reg} {l : List (Nat × Nat)}

theorem exec_freezeOrThaw (s : State) (thaw e : Bool) (k : BitVec 3) (c b a : Reg) :
    exec (if thaw then .thaw e k c b a else .freeze e k c b a) s = s.freezeIssue thaw e k c b a := by
  cases thaw <;> rfl

/-- An operand that fails its check stops the issue. -/
theorem State.freezeIssue_stops {st : Stop} (hfree : s.freezes.any (fun o => o.hart == s.cur && o.parks) = false)
    (h : firstStop (s.freezeOperands thaw c b a) = some st) : s.freezeIssue thaw e k c b a = s.stop st := by
  unfold State.freezeIssue
  dsimp only
  rw [if_neg (by simp [hfree])]
  exact State.guarded_stop h

/-- With the operands checked and a range of pages translated, the pages are checked and the operation is recorded. -/
theorem State.freezeIssue_translated (hfree : s.freezes.any (fun o => o.hart == s.cur && o.parks) = false)
    (hops : firstStop (s.freezeOperands thaw c b a) = none)
    (hrange : s.rangeOf (s.me.xv b).toNat ((s.me.xv c).toNat / 4096) = .ok (l, t)) (hl : l ≠ []) :
    s.freezeIssue thaw e k c b a = s.guarded (s.freezePages thaw l (tokenOf e k))
      (.next (s.freezeIssued (if thaw then t else t.cleanCore (coreOf s.cur)) (s.freezeOp thaw e k c a l))) := by
  have hne : ¬ l.isEmpty = true := by simpa using hl
  unfold State.freezeIssue
  dsimp only
  rw [if_neg (by simp [hfree])]
  refine (State.guarded_pass hops).trans ?_
  rw [hrange]
  dsimp only
  rw [if_neg hne]
  rfl

/-! ### What the issue leaves -/

theorem Hart.startToken_rest (h : Hart) (tok : Option Nat) : h.startToken tok = { h with sb := (h.startToken tok).sb } := by
  cases tok <;> rfl

theorem Hart.startToken_sb (h : Hart) (k : BitVec 3) :
    (h.startToken (some k.toNat)).sb = h.sb.set k.toNat (h.sb[k.toNat]'(k.isLt) + 1) k.isLt := by
  have hk : k.toNat % 8 = k.toNat := Nat.mod_eq_of_lt k.isLt
  simp [Hart.startToken, hk]

/-- A hart that goes on, or that parks, keeps its registers. -/
theorem Hart.startToken_sameRegs (h : Hart) (tok : Option Nat) (n : Nat) : Claims.SameRegs h ((h.startToken tok).advance n) := by
  rw [Hart.startToken_rest]
  exact ⟨rfl, rfl, rfl, rfl, rfl, rfl, rfl, rfl, rfl, rfl, rfl, rfl, rfl, rfl, rfl⟩

theorem Hart.parkFor_sameRegs (h : Hart) (p : Park) (now clk : Nat) : Claims.SameRegs h (h.parkFor p now clk) := by
  simp [Claims.SameRegs]

/-- An issue that follows a translation records its operation last; memory and the freeze entries are as they were. -/
theorem State.freezeIssued_leaves (h : Accessed s t) (op : FreezeOp) :
    let u := s.freezeIssued t op
    u.freezes = s.freezes.concat op ∧ u.mem = s.mem ∧ u.freeze = s.freeze := by
  rw [List.concat_eq_append, h.rest]
  exact ⟨rfl, rfl, rfl⟩

/-- The hart that issues parks, or goes on by 4 with one more operation in its token; it may have lost its reservation. -/
theorem State.freezeIssued_me (h : Accessed s t) (op : FreezeOp) : ∃ r, (s.freezeIssued t op).me =
    if op.parks then { s.me with resv := r }.parkFor .freeze s.time s.clk
    else ({ s.me with resv := r }.startToken op.token).advance 4 := by
  obtain ⟨r, hr⟩ := h.hart s.cur
  have hcur : t.cur = s.cur := by rw [h.rest]
  refine ⟨r, (State.me_updMe ..).trans ?_⟩
  rw [show State.me { t with nextXfer := t.nextXfer + 1, freezes := t.freezes ++ [op] } = t.hart t.cur from rfl, hcur, hr]
  rfl

/-- An issue that records an operation that runs on goes on. -/
theorem State.freezeIssued_goes (h : Accessed s t) {op : FreezeOp} (hp : op.parks = false) :
    let u := s.freezeIssued t op
    Claims.SameRegs s.me u.me ∧ u.me.pc = s.me.pc + 4 ∧
      ∀ k : BitVec 3, op.token = some k.toNat → u.me.sb = s.me.sb.set k.toNat (s.me.sb[k.toNat]'(k.isLt) + 1) k.isLt := by
  obtain ⟨r, hr⟩ := State.freezeIssued_me h op
  rw [if_neg (by simp [hp])] at hr
  dsimp only
  rw [hr]
  refine ⟨Hart.startToken_sameRegs { s.me with resv := r } op.token 4, ?_, fun k hk => ?_⟩
  · rw [Hart.startToken_rest]
    rfl
  · rw [hk]
    exact Hart.startToken_sb { s.me with resv := r } k

/-- An issue that records an operation that it waits for parks. -/
theorem State.freezeIssued_parks (h : Accessed s t) {op : FreezeOp} (hp : op.parks = true) :
    let u := s.freezeIssued t op
    Claims.SameRegs s.me u.me ∧ u.me.pc = s.me.pc ∧ u.me.park = some .freeze := by
  obtain ⟨r, hr⟩ := State.freezeIssued_me h op
  rw [if_pos hp] at hr
  dsimp only
  rw [hr]
  exact ⟨Hart.parkFor_sameRegs { s.me with resv := r } .freeze _ _, Hart.parkFor_pc .., Hart.parkFor_park ..⟩

/-! ### The obligation -/

section
variable (hready : s.Ready (xs [a, b, c]) []) (hbase : (s.me.xv b).toNat % 4096 = 0)
include hready

/-- A base that is not page-aligned takes cause 31 with it. -/
theorem State.freezeIssue_base (hfree : s.freezes.any (fun o => o.hart == s.cur && o.parks) = false)
    (hbad : (s.me.xv b).toNat % 4096 ≠ 0) :
    s.freezeIssue thaw e k c b a = .next (s.updMe (fun h => h.trap 31 (s.me.xv b) 0)) :=
  State.freezeIssue_stops (st := .trap 31 (s.me.xv b)) hfree (by simp [State.freezeOperands, hready, hbad])

include hbase

/-- A length that is not page-aligned, or above 2^30, takes cause 31 with it. -/
theorem State.freezeIssue_length (hfree : s.freezes.any (fun o => o.hart == s.cur && o.parks) = false)
    (hbad : (s.me.xv c).toNat % 4096 ≠ 0 ∨ 2 ^ 30 < (s.me.xv c).toNat) :
    s.freezeIssue thaw e k c b a = .next (s.updMe (fun h => h.trap 31 (s.me.xv c) 0)) := by
  have hlen : (decide ((s.me.xv c).toNat % 4096 ≠ 0) || decide (2 ^ 30 < (s.me.xv c).toNat)) = true := by simpa using hbad
  exact State.freezeIssue_stops (st := .trap 31 (s.me.xv c)) hfree (by rw [State.freezeOperands, hlen]; simp [hready, hbase])

/-- The operands pass. -/
theorem State.freezeOperands_pass (haligned : (s.me.xv c).toNat % 4096 = 0) (hsmall : (s.me.xv c).toNat ≤ 2 ^ 30)
    (hbarrier : (s.me.xv a).toNat % 64 = 0) (hrelease : thaw = false → s.me.releaseWait = none) :
    firstStop (s.freezeOperands thaw c b a) = none := by
  have hlen : (decide ((s.me.xv c).toNat % 4096 ≠ 0) || decide (2 ^ 30 < (s.me.xv c).toNat)) = false := by
    simpa using ⟨haligned, hsmall⟩
  have hwait : (if thaw then none else s.me.releaseWait) = none := by
    cases thaw
    · exact hrelease rfl
    · rfl
  rw [State.freezeOperands, hlen, hwait]
  simp [hready, hbase, hbarrier]

end

/-- The first checks of the pages pass where each is ordinary memory in device bias that no operation locks. -/
theorem State.freezePages_counts (tok : Option Nat)
    (hpages : ∀ x ∈ l, x.2 < 2 ^ 39 / 4096 ∧ Tab.get s.bias x.2 0 = 0 ∧ s.pageLocked x.2 = false) :
    firstStop (s.freezePages thaw l tok) = firstStop [firstBad l (s.countBad thaw l) 26, s.me.tokenFull tok] := by
  have hmemory : ∀ x ∈ l, (decide (2 ^ 39 / 4096 ≤ x.2) || decide (Tab.get s.bias x.2 0 = 1)) = false := by
    intro x hx
    obtain ⟨hlt, hbias, -⟩ := hpages x hx
    rw [hbias, decide_eq_false (Nat.not_le.2 hlt)]
    rfl
  have hunlocked : l.any (fun x => decide (2 ≤ Tab.get s.bias x.2 0) || s.pageLocked x.2) = false := by
    refine List.any_eq_false.2 fun x hx => ?_
    obtain ⟨-, hbias, hlock⟩ := hpages x hx
    simp [hbias, hlock]
  rw [State.freezePages, firstBad_eq_none (bad := fun p => decide (2 ^ 39 / 4096 ≤ p) || decide (Tab.get s.bias p 0 = 1)) 7 hmemory,
    hunlocked]
  rfl

/-- A count in its range, as the statement has it. -/
theorem State.countBad_eq_false (s : State) (thaw : Bool) (l : List (Nat × Nat)) (p : Nat) : s.countBad thaw l p = false ↔
    if thaw then Tab.get (pageCounts l) p 0 ≤ s.count p else s.count p + Tab.get (pageCounts l) p 0 ≤ 255 := by
  cases thaw <;> simp [State.countBad]

/-- Settles O23: the checks in their order, then what the issue leaves where it goes on and where it parks. -/
theorem freezeIssues : Obligations.FreezeIssues := by
  unfold Obligations.FreezeIssues
  intro runs fits
  refine ⟨?records, ?count, ?base, ?length⟩
  case records =>
    rintro s thaw e k c b a l t ⟨hfree, hready, hbase, haligned, hsmall, hbarrier, hrelease, hrange, hpages⟩ hl hfits htoken
    have hops := State.freezeOperands_pass hready hbase haligned hsmall hbarrier hrelease
    have hcounts := firstBad_eq_none 26 fun x hx => (s.countBad_eq_false thaw l x.2).2 (hfits x hx)
    have hchecks : firstStop (s.freezePages thaw l (tokenOf e k)) = none := by
      rw [State.freezePages_counts _ hpages, hcounts, htoken]
      rfl
    have haccess : Accessed s (if thaw then t else t.cleanCore (coreOf s.cur)) := by
      have ht : Accessed s t := State.rangeOf_accessed hrange
      cases thaw
      · exact ht.trans (State.cleanCore_cached ..).accessed
      · exact ht
    obtain ⟨hfreezes, hmem, hfreeze⟩ := State.freezeIssued_leaves haccess (s.freezeOp thaw e k c a l)
    have hparks : (s.freezeOp thaw e k c a l).parks = (!e && decide (a = 0)) := by simp [State.freezeOp, hl]
    rw [exec_freezeOrThaw, State.freezeIssue_translated hfree hops hrange hl, State.guarded_pass hchecks]
    refine ⟨_, _, rfl, hfreezes, rfl, rfl, rfl, rfl, rfl, hmem, hfreeze, ?_⟩
    by_cases hwait : e = false ∧ a = 0
    · obtain ⟨rfl, rfl⟩ := hwait
      obtain ⟨hregs, hpc, hpark⟩ := State.freezeIssued_parks haccess (hparks.trans rfl)
      exact ⟨hregs, fun h => by simp at h, fun _ _ => ⟨hpc, hpark, hparks.trans rfl⟩⟩
    · have hruns : (!e && decide (a = 0)) = false := by simpa using hwait
      obtain ⟨hregs, hpc, hsb⟩ := State.freezeIssued_goes haccess (hparks.trans hruns)
      exact ⟨hregs, fun _ => ⟨hpc, hparks.trans hruns, fun he => hsb k (by rw [he]; rfl)⟩, fun he ha => absurd ⟨he, ha⟩ hwait⟩
  case count =>
    rintro s thaw e k c b a l m x t ⟨hfree, hready, hbase, haligned, hsmall, hbarrier, hrelease, hrange, hpages⟩ hfits hbad
    have hops := State.freezeOperands_pass hready hbase haligned hsmall hbarrier hrelease
    have hcount : firstBad (l ++ x :: m) (s.countBad thaw (l ++ x :: m)) 26 = some (.trap 26 (BitVec.ofNat 64 x.1)) :=
      firstBad_lowest 26 (fun y hy => (s.countBad_eq_false thaw _ y.2).2 (hfits y hy))
        (by simpa using mt (s.countBad_eq_false thaw _ x.2).1 hbad)
    rw [exec_freezeOrThaw, State.freezeIssue_translated hfree hops hrange (by simp)]
    exact State.guarded_stop (st := .trap 26 (BitVec.ofNat 64 x.1)) (by rw [State.freezePages_counts _ hpages, hcount]; rfl)
  case base =>
    intro s e k c b a hfree hready hbad
    exact ⟨State.freezeIssue_base hready hfree hbad, State.freezeIssue_base hready hfree hbad⟩
  case length =>
    intro s e k c b a hfree hready hbase hbad
    exact ⟨State.freezeIssue_length hready hbase hfree hbad, State.freezeIssue_length hready hbase hfree hbad⟩

end Sys2Proof.Machine
end

section
/-!
SUPPORT. What the parts of a FREEZE's or THAW's completion leave: the freeze entries one by one, the translations and tracked copies of
its pages, its token (R98, R104, R106).
-/
namespace Sys2Proof.Machine

/-! ### Freeze entries -/

/-- Entries changed one after the other leave everything but the entries. -/
theorem State.updFreezes_rest {α : Type} (pg : α → Nat) (f : α → FreezeEntry → FreezeEntry) (l : List α) (s : State) :
    l.foldl (fun t x => t.updFreeze (pg x) (f x)) s =
      { s with freeze := (l.foldl (fun t x => t.updFreeze (pg x) (f x)) s).freeze } := by
  induction l generalizing s with
  | nil => rfl
  | cons x l ih => exact (ih _).trans rfl

theorem State.updFreezes_other {α : Type} (pg : α → Nat) (f : α → FreezeEntry → FreezeEntry) (l : List α) (s : State) {p : Nat}
    (h : ∀ x ∈ l, pg x ≠ p) : Tab.get (l.foldl (fun t x => t.updFreeze (pg x) (f x)) s).freeze p {} = Tab.get s.freeze p {} := by
  induction l generalizing s with
  | nil => rfl
  | cons x l ih =>
    have hx : p ≠ pg x := (h x List.mem_cons_self).symm
    exact (ih _ fun y hy => h y (List.mem_cons_of_mem _ hy)).trans (Tab.get_set_other _ _ _ _ _ hx)

/-- Each entry of distinct pages is changed once. -/
theorem State.updFreezes_get {α : Type} (pg : α → Nat) (f : α → FreezeEntry → FreezeEntry) (l : List α) (s : State)
    (h : (l.map pg).Nodup) : ∀ x ∈ l, Tab.get (l.foldl (fun t x => t.updFreeze (pg x) (f x)) s).freeze (pg x) {} =
      f x (Tab.get s.freeze (pg x) {}) := by
  induction l generalizing s with
  | nil => exact nofun
  | cons y l ih =>
    rw [List.map_cons, List.nodup_cons] at h
    obtain ⟨hy, hl⟩ := h
    have fresh : ∀ x ∈ l, pg x ≠ pg y := fun x hx e => hy (e ▸ List.mem_map_of_mem hx)
    intro x hx
    rcases List.mem_cons.1 hx with rfl | hx
    · exact (State.updFreezes_other pg f l _ fresh).trans (Tab.get_set_same ..)
    · refine (ih _ hl x hx).trans ?_
      exact congrArg (f x) (Tab.get_set_other _ _ _ _ _ (fresh x hx))

/-! ### Translations -/

/-- No TLB translates to a page. -/
def State.Unmaps (t : State) (page : Nat) : Prop :=
  (∀ q, ∀ e ∈ (t.quad q).tlb, e.maps [page] = false) ∧ (∀ c, ∀ e ∈ (t.core c).tlb, e.maps [page] = false)

theorem State.Unmaps.same {t u : State} {p : Nat} (h : u.Unmaps p) (hquads : t.quads = u.quads) (hcores : t.cores = u.cores) :
    t.Unmaps p := by
  unfold State.Unmaps State.quad State.core
  rw [hquads, hcores]
  exact h

theorem TlbEntry.maps_mem {e : TlbEntry} {ps : List Nat} {p : Nat} (h : e.maps ps = false) (hp : p ∈ ps) : e.maps [p] = false := by
  have hm := List.any_eq_false.1 h p hp
  simpa [TlbEntry.maps] using hm

theorem State.shootPages_core (s : State) (ps : List Nat) (c : Nat) :
    (s.shootPages ps).core c = { s.core c with tlb := (s.core c).tlb.filter (fun e => !e.maps ps) } :=
  Tab.get_map_default s.cores (fun e => { e.2 with tlb := e.2.tlb.filter (fun e => !e.maps ps) }) c {} rfl

theorem State.shootPages_quad (s : State) (ps : List Nat) (q : Nat) :
    (s.shootPages ps).quad q = { s.quad q with tlb := (s.quad q).tlb.filter (fun e => !e.maps ps) } :=
  Tab.get_map_default s.quads (fun e => { e.2 with tlb := e.2.tlb.filter (fun e => !e.maps ps) }) q {} rfl

theorem State.shootPages_die (s : State) (ps : List Nat) (d : Nat) :
    (s.shootPages ps).die d = { s.die d with walks := (s.die d).walks.filter (fun w => !w.maps ps) } :=
  Tab.get_map_default s.dies (fun e => { e.2 with walks := e.2.walks.filter (fun w => !w.maps ps) }) d {} rfl

/-- A shootdown of pages leaves no translation of any of them. -/
theorem State.shootPages_unmaps (s : State) (ps : List Nat) : ∀ p ∈ ps, (s.shootPages ps).Unmaps p := by
  intro p hp
  refine ⟨fun q e he => ?_, fun c e he => ?_⟩
  · rw [State.shootPages_quad] at he
    exact TlbEntry.maps_mem (by simpa using (List.mem_filter.1 he).2) hp
  · rw [State.shootPages_core] at he
    exact TlbEntry.maps_mem (by simpa using (List.mem_filter.1 he).2) hp

/-! ### Tracked copies -/

theorem State.writeOut_within (s : State) (q line : Nat) : s.L1Within (s.writeOut q line) := by
  unfold State.writeOut
  split
  · exact .refl s
  · split
    · exact (State.L1Within.refl s).same (State.dropClean_cores ..)
    · split
      · exact ((State.L1Within.refl s).same (u := s.dropLine q line) rfl).trans (State.writeHome_within ..)
      · exact (State.L1Within.refl s).same (State.toMemory_cores ..)

/-- Lines of any cores dropped one after the other are all in their core no longer. -/
theorem State.dropL1Pairs_gone (s : State) (ls : List (Nat × Nat)) :
    ∀ x ∈ ls, ∀ l ∈ ((ls.foldl (fun u x => u.dropL1 x.1 x.2) s).core x.1).l1d, l.1 ≠ x.2 := by
  induction ls generalizing s with
  | nil => exact nofun
  | cons y ls ih =>
    intro x hx l hl
    rcases List.mem_cons.1 hx with rfl | hx
    · have w := (State.L1Within.refl (s.dropL1 x.1 x.2)).foldl ls fun t l => State.dropL1_within t l.1 l.2
      obtain ⟨m, hm, e⟩ := w.sub x.1 l hl
      exact e ▸ State.dropL1_gone s x.1 x.2 m hm
    · exact ih _ x hx l hl

/-- A collection changes what the caches hold, and the reservations of its lines. -/
theorem State.collectPages_cached (s : State) (ps : List Nat) :
    Cached (s.mapHarts (fun _ a => a.loseResv (fun r => ps.contains (r.line / 64)))) (s.collectPages ps) := by
  unfold State.collectPages
  extract_lets line near t far u
  have ht : Cached (s.mapHarts (fun _ a => a.loseResv (fun r => ps.contains (r.line / 64)))) t :=
    Cached.foldl (f := fun (t : State) (x : Nat × Nat) => t.dropL1 x.1 x.2) (fun t x => State.dropL1_cached t x.1 x.2) near _
  have hu : Cached t u := by
    refine Cached.foldl (fun u x => ?_) far t
    split
    · exact State.recallVictim_cached ..
    · exact State.writeOut_cached ..
    · exact .refl u
  refine (ht.trans hu).trans ⟨rfl, fun _ => rfl, fun q => ?_, fun _ => rfl, fun k e he => ?_⟩
  · have hq := Tab.get_map_default u.quads (fun e => { e.2 with
        filter := e.2.filter.filter (fun l => !line l.1), dir := e.2.dir.filter (fun d => !ps.contains (d.1 / 8)) }) q {} rfl
    exact hq.trans (congrArg (u.quad q).recache hq.symm)
  · obtain ⟨x, hx, rfl⟩ := List.mem_map.1 he
    exact k x hx

theorem State.collectPages_same (s : State) (ps : List Nat) : SameButResv s (s.collectPages ps) :=
  (State.mapHarts_resv _ _ fun _ a => Hart.loseResv_spec a _).trans (s.collectPages_cached ps).same

theorem State.collectPages_freeze (s : State) (ps : List Nat) : (s.collectPages ps).freeze = s.freeze := by
  rw [(s.collectPages_cached ps).rest]
  rfl

theorem State.collectPages_parts (s : State) (ps : List Nat) : (s.collectPages ps).parts = s.parts := by
  rw [(s.collectPages_cached ps).rest]
  rfl

theorem State.collectPages_part (s : State) (ps : List Nat) (q : Nat) : ((s.collectPages ps).quad q).part = (s.quad q).part := by
  rw [(s.collectPages_cached ps).quad q]
  rfl

/-- A collection adds no translation. -/
theorem State.collectPages_unmaps {s : State} {p : Nat} (ps : List Nat) (h : s.Unmaps p) : (s.collectPages ps).Unmaps p := by
  have same := (s.collectPages_cached ps).walkReads
  exact ⟨fun q e he => h.1 q e (same.quad q ▸ he), fun c e he => h.2 c e (same.core c ▸ he)⟩

/-- No L1 data cache holds a line of a collected page. -/
theorem State.collectPages_lines (s : State) (ps : List Nat) :
    ∀ p ∈ ps, ∀ c, ∀ l ∈ ((s.collectPages ps).core c).l1d, l.1 / 64 ≠ p := by
  intro p hp c l hl he
  unfold State.collectPages at hl
  extract_lets line near t far u at hl
  have hu : t.L1Within u := by
    refine (State.L1Within.refl t).foldl far fun u x => ?_
    split
    · exact State.writeHome_within.recallVictimBy ..
    · exact State.writeOut_within ..
    · exact .refl u
  have ht : s.L1Within t :=
    ((State.L1Within.refl s).same (u := s.mapHarts _) rfl).foldl near fun t x => State.dropL1_within t x.1 x.2
  obtain ⟨m, hm, hml⟩ := hu.sub c l hl
  obtain ⟨n, hn, hnm⟩ := ht.sub c m hm
  have hcore : (c, s.core c) ∈ s.cores := by
    refine (Tab.get_mem s.cores c {}).resolve_left fun h0 => ?_
    have hempty : s.core c = {} := h0
    rw [hempty] at hn
    cases hn
  have hnear : (c, n.1) ∈ near := by
    refine List.mem_flatMap.2 ⟨(c, s.core c), hcore, List.mem_map.2 ⟨n, List.mem_filter.2 ⟨hn, ?_⟩, rfl⟩⟩
    show ps.contains (n.1 / 64) = true
    rw [hnm, hml, he]
    exact List.contains_iff_mem.2 hp
  exact State.dropL1Pairs_gone _ near _ hnear m hm hnm.symm

/-! ### Completion (R106, R135, R164) -/

theorem State.updTaskOf_rest (s : State) (p h : Nat) (task : BitVec 32) (f : Hart → Hart) :
    s.updTaskOf p h task f = { s with
      harts := (s.updTaskOf p h task f).harts, yielded := (s.updTaskOf p h task f).yielded, saved := (s.updTaskOf p h task f).saved } := by
  unfold State.updTaskOf State.updTask
  split
  · split <;> rfl
  · rfl

/-- The record of a task bound in its partition is its hart's. -/
theorem State.updTaskOf_bound {s : State} {p h : Nat} {task : BitVec 32} {f : Hart → Hart} (hp : s.partOf h = p)
    (hr : (s.hart h).runs task = true) : s.updTaskOf p h task f = s.updHart h f := by
  unfold State.updTaskOf
  rw [if_pos hp, State.updTask_runs hr]

/-- The end of an operation is no part of what caches, tables and memories are. -/
theorem State.endFreeze_rest (s : State) (op : FreezeOp) (failed : Bool) : ∃ harts bisnps yielded saved, s.endFreeze op failed =
    { s with
      harts := harts, bisnps := bisnps, yielded := yielded, saved := saved
      freezes := s.freezes.filter (fun o => o.id != op.id) } := by
  unfold State.endFreeze
  extract_lets t u v
  have hu : u = { t with harts := u.harts, yielded := u.yielded, saved := u.saved } := State.updTaskOf_rest ..
  have hv : v = { t with harts := v.harts, yielded := v.yielded, saved := v.saved } := by
    unfold v
    split
    · rw [State.updTaskOf_rest, hu]
    · exact hu
  split
  · rw [hv]
    exact ⟨_, _, _, _, rfl⟩
  · rw [hv]
    exact ⟨_, _, _, _, rfl⟩

theorem Hart.endToken_runs (a : Hart) (tok : Option Nat) (fail : Bool) (task : BitVec 32) :
    (a.endToken tok fail).runs task = a.runs task := by
  cases tok <;> rfl

theorem Hart.endToken_sb (a : Hart) (k : Nat) (fail : Bool) :
    (a.endToken (some k) fail).sb.toList.getD (k % 8) 0 = a.sb.toList.getD (k % 8) 0 - 1 := by
  have hk : k % 8 < 8 := Nat.mod_lt _ (by decide)
  simp [Hart.endToken, List.getD_eq_getElem?_getD, hk]

/-- A bound task whose operation ends counts one operation less in its token. -/
theorem State.endFreeze_token (s : State) (op : FreezeOp) {k : Nat} (hk : op.token = some k) (hp : s.partOf op.hart = op.part)
    (hr : (s.hart op.hart).runs op.task = true) (hparks : op.parks = false) :
    ((s.endFreeze op false).hart op.hart).sb.toList.getD (k % 8) 0 = (s.hart op.hart).sb.toList.getD (k % 8) 0 - 1 := by
  unfold State.endFreeze
  extract_lets t u v
  have hu : u = t.updHart op.hart (fun a => a.endToken op.token false) := State.updTaskOf_bound (s := t) hp hr
  have hur : (u.hart op.hart).runs op.task = true := by
    rw [hu, State.hart_updHart, Hart.endToken_runs]
    exact hr
  have hup : u.partOf op.hart = op.part := by
    rw [hu]
    exact hp
  have husb : (u.hart op.hart).sb.toList.getD (k % 8) 0 = (s.hart op.hart).sb.toList.getD (k % 8) 0 - 1 := by
    rw [hu, State.hart_updHart, hk]
    exact Hart.endToken_sb (s.hart op.hart) k false
  have hv : (v.hart op.hart).sb = (u.hart op.hart).sb := by
    unfold v
    split
    · rw [State.updTaskOf_bound hup hur, State.hart_updHart]
      rfl
    · rfl
  rw [if_neg (by simp [hparks]), hv, husb]

/-- An operation is gone, and its token has counted one operation less; memory is as it was. -/
def FreezeGone (s t : State) (op : FreezeOp) : Prop :=
  (∀ o ∈ t.freezes, o.id ≠ op.id) ∧ t.mem = s.mem ∧ t.tmem = s.tmem ∧
  (∀ k, op.token = some k → s.partOf op.hart = op.part → (s.hart op.hart).runs op.task = true → op.parks = false →
    (t.hart op.hart).sb.toList.getD (k % 8) 0 = (s.hart op.hart).sb.toList.getD (k % 8) 0 - 1)

/-- Without a barrier, and with its partition running, an unlocked operation ends. -/
theorem State.unlockFreeze_ends {s : State} {op : FreezeOp} (hbar : op.barrier = 0) (hrun : (s.prt op.part).stopped = false) :
    s.unlockFreeze op = (s.updFreezeOp op.id (fun _ => { op with done := true, peers := [] })).endFreeze
      { op with done := true, peers := [] } false := by
  have hgo : ¬ ((s.prt op.part).stopped && !op.parks) = true := by simp [hrun]
  exact (if_neg hgo).trans (if_pos hbar)

/-- Its end leaves caches, links and the freeze entries. -/
theorem State.unlockFreeze_rest {s : State} {op : FreezeOp} (hbar : op.barrier = 0) (hrun : (s.prt op.part).stopped = false) :
    ∃ harts bisnps yielded saved freezes, s.unlockFreeze op =
      { s with harts := harts, bisnps := bisnps, yielded := yielded, saved := saved, freezes := freezes } := by
  obtain ⟨harts, bisnps, yielded, saved, h⟩ := State.endFreeze_rest
    (s.updFreezeOp op.id (fun _ => { op with done := true, peers := [] })) { op with done := true, peers := [] } false
  rw [State.unlockFreeze_ends hbar hrun, h]
  exact ⟨_, _, _, _, _, rfl⟩

/-- After work that has left memory, partitions and all of the harts but reservations, the operation that ends is gone. -/
theorem State.unlockFreeze_gone {s u : State} {op : FreezeOp} (same : SameButResv s u) (hpart : u.partOf op.hart = s.partOf op.hart)
    (hbar : op.barrier = 0) (hrun : (u.prt op.part).stopped = false) : FreezeGone s (u.unlockFreeze op) op := by
  obtain ⟨harts, bisnps, yielded, saved, h⟩ := State.endFreeze_rest
    (u.updFreezeOp op.id (fun _ => { op with done := true, peers := [] })) { op with done := true, peers := [] } false
  rw [State.unlockFreeze_ends hbar hrun]
  refine ⟨fun o ho => ?_, ?_, ?_, fun k hk hp hr hparks => ?_⟩
  · rw [h] at ho
    simpa using (List.mem_filter.1 ho).2
  · rw [h]
    exact same.mem
  · rw [h]
    exact same.tmem
  · obtain ⟨r, hr'⟩ := same.hart op.hart
    refine (State.endFreeze_token (u.updFreezeOp op.id _) { op with done := true, peers := [] } hk (hpart.trans hp) ?_ hparks).trans ?_
    · show (u.hart op.hart).runs op.task = true
      rw [hr']
      exact hr
    · show (u.hart op.hart).sb.toList.getD (k % 8) 0 - 1 = _
      rw [hr']

end Sys2Proof.Machine
end

section
/-!
SUPPORT. THAW stage by stage: the counts, the epochs and generations, the translations, the peers (R104, R105, R107).
-/
namespace Sys2Proof.Machine

/-! ### Counts, epochs and generations -/

/-- The pages of a THAW that it brings to 0. -/
def State.zeroPages (s : State) (op : FreezeOp) : List Nat := (op.pages.filter (fun p => s.count p.1 = p.2)).map (·.1)

/-- The counts of a THAW's pages lowered. -/
def State.lowered (s : State) (op : FreezeOp) : State :=
  op.pages.foldl (fun t p => t.updFreeze p.1 (fun f => { f with count := f.count - p.2 })) s

/-- TEPOCH of every die raised. -/
def State.epochsRaised (s : State) : State :=
  (List.range 4).foldl (fun t d => t.updDie d (fun a => { a with tepoch := a.tepoch + 1 })) s

/-- The generations of some pages raised. -/
def State.gensRaised (s : State) (z : List Nat) : State :=
  z.foldl (fun t p => t.updFreeze p (fun f => { f with gen := f.gen + 1 })) s

/-- A THAW that has lowered its counts, with the pages that it has brought to 0. -/
def FreezeOp.brings (op : FreezeOp) (z : List Nat) : FreezeOp := { op.to .epoch with zero := z }

/-- The state in which a THAW's translations are to go. -/
def State.thawRaised (s : State) (op : FreezeOp) : State :=
  (s.epochsRaised.gensRaised op.zero).updFreezeOp op.id (fun o => o.to .shoot)

/-- The state with a THAW's counts lowered. -/
def State.thawLowered (s : State) (op : FreezeOp) : State :=
  (s.lowered op).updFreezeOp op.id (fun _ => op.brings (s.zeroPages op))

/-- The state in which a THAW's translations have gone. -/
def State.thawed (s : State) (op : FreezeOp) : State :=
  ((s.thawLowered op).thawRaised (op.brings (s.zeroPages op))).shootPages (s.zeroPages op)

variable {s t u : State} {op : FreezeOp}

theorem State.lowered_rest (s : State) (op : FreezeOp) : s.lowered op = { s with freeze := (s.lowered op).freeze } :=
  State.updFreezes_rest (α := Nat × Nat) (·.1) (fun p f => { f with count := f.count - p.2 }) op.pages s

theorem State.lowered_entry (s : State) (h : (op.pages.map (·.1)).Nodup) : ∀ p ∈ op.pages, Tab.get (s.lowered op).freeze p.1 {} =
    ⟨s.count p.1 - p.2, (Tab.get s.freeze p.1 {}).gen⟩ :=
  State.updFreezes_get (α := Nat × Nat) (·.1) (fun p f => { f with count := f.count - p.2 }) op.pages s h

theorem State.gensRaised_rest (s : State) (z : List Nat) : s.gensRaised z = { s with freeze := (s.gensRaised z).freeze } :=
  State.updFreezes_rest id (fun _ f => { f with gen := f.gen + 1 }) z s

/-- The generation of each listed page is raised once, and no entry else changes. -/
theorem State.gensRaised_entry (s : State) {z : List Nat} (h : z.Nodup) (p : Nat) : Tab.get (s.gensRaised z).freeze p {} =
    ⟨s.count p, (Tab.get s.freeze p {}).gen + (if p ∈ z then 1 else 0)⟩ := by
  by_cases hp : p ∈ z
  · rw [if_pos hp]
    exact State.updFreezes_get id (fun _ f => { f with gen := f.gen + 1 }) z s (by rwa [List.map_id]) p hp
  · rw [if_neg hp, add_zero]
    exact State.updFreezes_other id (fun _ f => { f with gen := f.gen + 1 }) z s fun x hx e => hp (e ▸ hx)

/-- Dies changed one after the other leave everything but the dies. -/
theorem State.updDies_rest (f : Die → Die) (l : List Nat) (s : State) :
    l.foldl (fun t d => t.updDie d f) s = { s with dies := (l.foldl (fun t d => t.updDie d f) s).dies } := by
  induction l generalizing s with
  | nil => rfl
  | cons d l ih => exact (ih _).trans rfl

theorem State.updDies_other (f : Die → Die) (l : List Nat) (s : State) {d : Nat} (h : d ∉ l) :
    (l.foldl (fun t d => t.updDie d f) s).die d = s.die d := by
  induction l generalizing s with
  | nil => rfl
  | cons k l ih =>
    obtain ⟨hk, hl⟩ := not_or.1 (mt List.mem_cons.2 h)
    exact (ih _ hl).trans (State.die_updDie_other _ _ _ _ hk)

/-- Each of distinct dies is changed once. -/
theorem State.updDies_die (f : Die → Die) (l : List Nat) (s : State) (h : l.Nodup) {d : Nat} (hd : d ∈ l) :
    (l.foldl (fun t d => t.updDie d f) s).die d = f (s.die d) := by
  induction l generalizing s with
  | nil => cases hd
  | cons k l ih =>
    obtain ⟨hk, hl⟩ := List.nodup_cons.1 h
    rcases List.mem_cons.1 hd with rfl | hd
    · exact (State.updDies_other f l _ hk).trans (State.die_updDie ..)
    · have hne : d ≠ k := fun e => hk (e ▸ hd)
      exact (ih _ hl hd).trans (congrArg f (State.die_updDie_other _ _ _ _ hne))

theorem State.epochsRaised_rest (s : State) : s.epochsRaised = { s with dies := s.epochsRaised.dies } := State.updDies_rest ..

theorem State.epochsRaised_die (s : State) {d : Nat} (h : d < 4) :
    s.epochsRaised.die d = { s.die d with tepoch := (s.die d).tepoch + 1 } :=
  State.updDies_die _ _ s List.nodup_range (List.mem_range.2 h)

/-- A page of a THAW is among those it brings to 0 when its count is the THAW's. -/
theorem State.mem_zeroPages (s : State) (h : (op.pages.map (·.1)).Nodup) {p : Nat × Nat} (hp : p ∈ op.pages) :
    p.1 ∈ s.zeroPages op ↔ s.count p.1 = p.2 := by
  constructor
  · intro hz
    obtain ⟨x, hx, e⟩ := List.mem_map.1 hz
    obtain ⟨hxp, hc⟩ := List.mem_filter.1 hx
    rw [List.inj_on_of_nodup_map h hxp hp e] at hc
    exact of_decide_eq_true hc
  · exact fun hc => List.mem_map.2 ⟨p, List.mem_filter.2 ⟨hp, decide_eq_true hc⟩, rfl⟩

theorem State.zeroPages_nodup (s : State) (h : (op.pages.map (·.1)).Nodup) : (s.zeroPages op).Nodup :=
  h.sublist (List.filter_sublist.map _)

/-! ### What the stages have done -/

/-- The counts are lowered, the generations of the pages at 0 and the epochs raised, and the translations of those pages gone. -/
structure Thawed (s t : State) (op : FreezeOp) : Prop where
  counts : ∀ p ∈ op.pages, t.count p.1 = s.count p.1 - p.2
  gens : ∀ p ∈ op.pages, (Tab.get t.freeze p.1 {}).gen = (Tab.get s.freeze p.1 {}).gen + (if s.count p.1 = p.2 then 1 else 0)
  unmapped : ∀ p ∈ s.zeroPages op, t.Unmaps p
  epochs : ∀ d, d < 4 → (t.die d).tepoch = (s.die d).tepoch + (if s.zeroPages op = [] then 0 else 1)

/-- What has been done stays where entries, translations and epochs do. -/
theorem Thawed.same (h : Thawed s u op) (hfreeze : t.freeze = u.freeze) (hcores : t.cores = u.cores) (hquads : t.quads = u.quads)
    (hdies : t.dies = u.dies) : Thawed s t op where
  counts p hp := by
    unfold State.count
    rw [hfreeze]
    exact h.counts p hp
  gens p hp := by
    rw [hfreeze]
    exact h.gens p hp
  unmapped p hp := (h.unmapped p hp).same hquads hcores
  epochs d hd := by
    unfold State.die
    rw [hdies]
    exact h.epochs d hd

/-- A THAW that brings no page to 0 is done with the counts. -/
theorem State.lowered_thawed (h : (op.pages.map (·.1)).Nodup) (hz : s.zeroPages op = []) : Thawed s (s.lowered op) op where
  counts p hp := by rw [State.count, s.lowered_entry h p hp]
  gens p hp := by
    have hc : ¬ s.count p.1 = p.2 := fun e => by simpa [hz] using (s.mem_zeroPages h hp).2 e
    rw [s.lowered_entry h p hp, if_neg hc, add_zero]
  unmapped p hp := by
    rw [hz] at hp
    cases hp
  epochs d _ := by
    rw [if_pos hz, add_zero, State.lowered_rest]
    rfl

theorem State.thawLowered_rest (s : State) (op : FreezeOp) :
    s.thawLowered op = { s with freeze := (s.lowered op).freeze, freezes := (s.thawLowered op).freezes } := by
  unfold State.thawLowered
  rw [State.lowered_rest]
  rfl

theorem State.thawRaised_rest (s : State) (op : FreezeOp) : s.thawRaised op =
    { s with freeze := (s.epochsRaised.gensRaised op.zero).freeze, dies := s.epochsRaised.dies, freezes := (s.thawRaised op).freezes } := by
  unfold State.thawRaised
  rw [State.gensRaised_rest, State.epochsRaised_rest]
  rfl

/-- A THAW whose translations have gone has changed entries, epochs and translations. -/
theorem State.thawed_rest (s : State) (op : FreezeOp) : ∃ quads cores queues, s.thawed op = { s with
    freeze := (s.thawed op).freeze, dies := (s.thawed op).dies, freezes := (s.thawed op).freezes
    quads := quads, cores := cores, queues := queues } := by
  unfold State.thawed State.shootPages
  rw [State.thawRaised_rest, State.thawLowered_rest]
  exact ⟨_, _, _, rfl⟩

theorem State.thawed_quad (s : State) (op : FreezeOp) (q : Nat) : ∃ l, (s.thawed op).quad q = { s.quad q with tlb := l } := by
  have hquads : ((s.thawLowered op).thawRaised (op.brings (s.zeroPages op))).quads = s.quads := by
    rw [State.thawRaised_rest, State.thawLowered_rest]
  rw [State.thawed, State.shootPages_quad, State.quad, hquads]
  exact ⟨_, rfl⟩

/-- The freeze entries that a THAW leaves. -/
theorem State.thawed_entry (s : State) (h : (op.pages.map (·.1)).Nodup) {p : Nat × Nat} (hp : p ∈ op.pages) :
    Tab.get (s.thawed op).freeze p.1 {} =
      ⟨s.count p.1 - p.2, (Tab.get s.freeze p.1 {}).gen + (if s.count p.1 = p.2 then 1 else 0)⟩ := by
  have he : (s.thawed op).freeze = ((s.thawLowered op).epochsRaised.gensRaised (s.zeroPages op)).freeze := by
    rw [State.thawed, State.thawRaised_rest]
    rfl
  have hl : Tab.get (s.thawLowered op).epochsRaised.freeze p.1 {} = ⟨s.count p.1 - p.2, (Tab.get s.freeze p.1 {}).gen⟩ := by
    rw [State.epochsRaised_rest, State.thawLowered_rest]
    exact s.lowered_entry h p hp
  rw [he, State.gensRaised_entry _ (s.zeroPages_nodup h), State.count, hl]
  simp only [s.mem_zeroPages h hp]

/-- A THAW that brings pages to 0 is done when its translations have gone. -/
theorem State.thawed_thawed (h : (op.pages.map (·.1)).Nodup) (hz : s.zeroPages op ≠ []) : Thawed s (s.thawed op) op where
  counts p hp := by rw [State.count, s.thawed_entry h hp]
  gens p hp := by rw [s.thawed_entry h hp]
  unmapped := State.shootPages_unmaps _ _
  epochs d hd := by
    have hdies : ((s.thawLowered op).thawRaised (op.brings (s.zeroPages op))).dies = (s.thawLowered op).epochsRaised.dies := by
      rw [State.thawRaised_rest]
    have hlow : (s.thawLowered op).dies = s.dies := by rw [State.thawLowered_rest]
    rw [State.thawed, State.shootPages_die, State.die, hdies, if_neg hz]
    refine (congrArg Die.tepoch (State.epochsRaised_die _ hd)).trans ?_
    rw [State.die, hlow, State.die]

/-! ### From stage to stage -/

/-- The epoch rule reads nothing that the counts change, and the accesses that are waited for nothing that any stage changes. -/
theorem State.thawLowered_epochHolds (s : State) (op : FreezeOp) : (s.thawLowered op).epochHolds = s.epochHolds := by
  rw [State.thawLowered_rest]
  rfl

theorem State.thawRaised_storesWait (s : State) (op o : FreezeOp) (ps : List Nat) :
    ((s.thawLowered op).thawRaised o).storesWait ps = s.storesWait ps := by
  rw [State.thawRaised_rest, State.thawLowered_rest]
  rfl

theorem State.thawCounts_eq (s : State) (op : FreezeOp) : s.thawCounts op =
    if (s.zeroPages op).isEmpty then (s.lowered op).unlockFreeze (op.brings (s.zeroPages op))
    else (s.thawLowered op).thawEpoch (op.brings (s.zeroPages op)) := rfl

/-- The epoch rule holds a THAW after its counts. -/
theorem State.thawCounts_held (hz : s.zeroPages op ≠ []) (hh : s.epochHolds = true) : s.thawCounts op = s.thawLowered op := by
  have hh' : (s.thawLowered op).epochHolds = true := by rw [State.thawLowered_epochHolds, hh]
  rw [State.thawCounts_eq, if_neg (by simpa using hz), State.thawEpoch, if_pos hh']

/-- A THAW that the epoch rule lets go on, and whose pages no access still uses, ends or asks the peers. -/
theorem State.thawCounts_shoots (hz : s.zeroPages op ≠ []) (hh : s.epochHolds = false) (hw : s.storesWait (s.zeroPages op) = false) :
    let o := (op.brings (s.zeroPages op)).to .shoot
    s.thawCounts op = if s.replicaLinks.isEmpty then (s.thawed op).unlockFreeze o
      else (s.replicaLinks.foldl (fun t l => t.emit (.peerInvalidate l (s.zeroPages op))) (s.thawed op)).updFreezeOp op.id
        (fun _ => { o.to .peers with peers := s.replicaLinks, since := s.time }) := by
  have hh' : ¬ (s.thawLowered op).epochHolds = true := by
    rw [State.thawLowered_epochHolds, hh]
    exact Bool.false_ne_true
  have hw' : ¬ ((s.thawLowered op).thawRaised (op.brings (s.zeroPages op))).storesWait (s.zeroPages op) = true := by
    rw [State.thawRaised_storesWait, hw]
    exact Bool.false_ne_true
  obtain ⟨_, _, _, rest⟩ := s.thawed_rest op
  have hlinks : (s.thawed op).replicaLinks = s.replicaLinks := by rw [rest]; rfl
  have htime : (s.thawed op).time = s.time := by rw [rest]
  have hshoot : s.thawCounts op = ((s.thawLowered op).thawRaised (op.brings (s.zeroPages op))).thawShoot
      ((op.brings (s.zeroPages op)).to .shoot) := by
    rw [State.thawCounts_eq, if_neg (by simpa using hz), State.thawEpoch, if_neg hh']
    rfl
  dsimp only
  rw [hshoot, ← hlinks, ← htime]
  exact if_neg hw'

theorem State.updFreezeOp_mem {id : Nat} {f : FreezeOp → FreezeOp} {o : FreezeOp} (ho : o ∈ s.freezes) (hid : o.id = id) :
    f o ∈ (s.updFreezeOp id f).freezes := List.mem_map.2 ⟨o, ho, if_pos hid⟩

/-- A THAW under way is among the operations when its counts are lowered, and when its translations have gone. -/
theorem State.thawLowered_mem (h : op ∈ s.freezes) : op.brings (s.zeroPages op) ∈ (s.thawLowered op).freezes :=
  State.updFreezeOp_mem (o := op) (by rw [State.lowered_rest]; exact h) rfl

theorem State.thawed_mem (h : op ∈ s.freezes) : (op.brings (s.zeroPages op)).to .shoot ∈ (s.thawed op).freezes := by
  have hl := State.thawLowered_mem h
  have hr : op.brings (s.zeroPages op) ∈ ((s.thawLowered op).epochsRaised.gensRaised (s.zeroPages op)).freezes := by
    rw [State.gensRaised_rest, State.epochsRaised_rest]
    exact hl
  exact State.updFreezeOp_mem (f := fun o => o.to .shoot) hr rfl

/-- Messages sent one after the other. -/
theorem State.foldl_emit {α : Type} (f : α → Out) (l : List α) (s : State) :
    l.foldl (fun t x => t.emit (f x)) s = { s with out := s.out ++ l.map f } := by
  induction l generalizing s with
  | nil => simp
  | cons x l ih => exact (ih _).trans (by simp [State.emit])

end Sys2Proof.Machine
end

section
/-!
PROOFS. The background steps of FREEZE and THAW, and the stamp sweep (R98, R104 to R109): obligation O46.
-/
namespace Sys2Proof.Machine

variable {s : State} {op : FreezeOp}

/-- The `k`-th operation is to complete: it names no barrier, and its partition runs. -/
def State.RunsOn (s : State) (op : FreezeOp) (thaw : Bool) : Prop :=
  s.freezes[s.ev.k]? = some op ∧ op.thaw = thaw ∧ op.done = false ∧ op.barrier = 0 ∧ (s.prt op.part).stopped = false ∧
  (op.pages.map (·.1)).Nodup

/-! ### FREEZE_COMPLETE (R98) -/

/-- The pages of a FREEZE that were not frozen. -/
def State.freshPages (s : State) (op : FreezeOp) : List Nat := (op.pages.filter (fun p => s.count p.1 = 0)).map (·.1)

/-- The state in which the translations and tracked copies of a FREEZE's fresh pages have gone. -/
def State.collected (s : State) (op : FreezeOp) : State := (s.shootPages (s.freshPages op)).collectPages (s.freshPages op)

theorem State.collected_same (s : State) (op : FreezeOp) : SameButResv s (s.collected op) :=
  (SameButResv.of_eq rfl rfl rfl rfl rfl : SameButResv s (s.shootPages (s.freshPages op))).trans (State.collectPages_same ..)

theorem State.collected_freeze (s : State) (op : FreezeOp) : (s.collected op).freeze = s.freeze := State.collectPages_freeze ..

theorem State.collected_parts (s : State) (op : FreezeOp) : (s.collected op).parts = s.parts := State.collectPages_parts ..

theorem State.collected_part (s : State) (op : FreezeOp) (q : Nat) : ((s.collected op).quad q).part = (s.quad q).part := by
  rw [State.collected, State.collectPages_part, State.shootPages_quad]

/-- The counts of some pages raised. -/
def State.counted (s : State) (pages : List (Nat × Nat)) : State :=
  pages.foldl (fun t p => t.updFreeze p.1 (fun f => { f with count := f.count + p.2 })) s

theorem State.counted_rest (s : State) (pages : List (Nat × Nat)) : s.counted pages = { s with freeze := (s.counted pages).freeze } :=
  State.updFreezes_rest (α := Nat × Nat) (·.1) (fun p f => { f with count := f.count + p.2 }) pages s

theorem State.counted_same (s : State) (pages : List (Nat × Nat)) : SameButResv s (s.counted pages) := by
  rw [State.counted_rest]
  exact .of_eq rfl rfl rfl rfl rfl

theorem State.counted_quads (s : State) (pages : List (Nat × Nat)) : (s.counted pages).quads = s.quads := by rw [State.counted_rest]
theorem State.counted_cores (s : State) (pages : List (Nat × Nat)) : (s.counted pages).cores = s.cores := by rw [State.counted_rest]
theorem State.counted_parts (s : State) (pages : List (Nat × Nat)) : (s.counted pages).parts = s.parts := by rw [State.counted_rest]

theorem State.counted_count (s : State) {pages : List (Nat × Nat)} (h : (pages.map (·.1)).Nodup) :
    ∀ p ∈ pages, (s.counted pages).count p.1 = s.count p.1 + p.2 := fun p hp =>
  congrArg FreezeEntry.count
    (State.updFreezes_get (α := Nat × Nat) (·.1) (fun p f => { f with count := f.count + p.2 }) pages s h p hp)

theorem State.counted_other (s : State) {pages : List (Nat × Nat)} {p : Nat} (h : ∀ x ∈ pages, x.1 ≠ p) :
    Tab.get (s.counted pages).freeze p {} = Tab.get s.freeze p {} :=
  State.updFreezes_other (α := Nat × Nat) (·.1) (fun p f => { f with count := f.count + p.2 }) pages s h

theorem execFreezeComplete_raises (h : s.RunsOn op false) (hw : s.storesWait (s.freshPages op) = false) :
    exec .freezeComplete s = .next (((s.collected op).counted op.pages).unlockFreeze op) := by
  obtain ⟨hop, hthaw, hdone, -⟩ := h
  show execFreezeComplete s = _
  unfold execFreezeComplete
  rw [hop]
  dsimp only
  rw [if_neg (by simp [hthaw]), if_neg (by simp [hdone])]
  exact if_neg (ne_true_of_eq_false hw)

/-- A FREEZE that completes is gone, its counts raised, the translations and tracked copies of its fresh pages taken. -/
theorem execFreezeComplete_spec (h : s.RunsOn op false) (hw : s.storesWait (s.freshPages op) = false) :
    ∃ t, exec .freezeComplete s = .next t ∧ FreezeGone s t op ∧ (∀ p ∈ op.pages, t.count p.1 = s.count p.1 + p.2) ∧
      (∀ p, (∀ x ∈ op.pages, x.1 ≠ p) → Tab.get t.freeze p {} = Tab.get s.freeze p {}) ∧
      (∀ p ∈ s.freshPages op, t.Unmaps p ∧ (∀ c, ∀ l ∈ (t.core c).l1d, l.1 / 64 ≠ p)) := by
  have hnext := execFreezeComplete_raises h hw
  obtain ⟨-, -, -, hbar, hrun, hnodup⟩ := h
  let u := (s.collected op).counted op.pages
  have hpart : u.partOf op.hart = s.partOf op.hart := by
    unfold State.partOf State.partOfQuad
    rw [← s.collected_part op (quadOf op.hart), State.quad, State.counted_quads]
    rfl
  have hrun' : (u.prt op.part).stopped = false := by
    unfold State.prt
    rw [State.counted_parts, State.collected_parts]
    exact hrun
  obtain ⟨_, _, _, _, _, rest⟩ := State.unlockFreeze_rest hbar hrun'
  have hfreeze : (u.unlockFreeze op).freeze = u.freeze := by rw [rest]
  have hquads : (u.unlockFreeze op).quads = (s.collected op).quads := by rw [rest]; exact State.counted_quads ..
  have hcores : (u.unlockFreeze op).cores = (s.collected op).cores := by rw [rest]; exact State.counted_cores ..
  refine ⟨_, hnext, State.unlockFreeze_gone ((s.collected_same op).trans (State.counted_same ..)) hpart hbar hrun',
    fun p hp => ?_, fun p hp => ?_, fun p hp => ⟨?_, ?_⟩⟩
  · rw [State.count, hfreeze]
    refine (State.counted_count _ hnodup p hp).trans ?_
    rw [State.count, State.collected_freeze, State.count]
  · rw [hfreeze, State.counted_other _ hp, State.collected_freeze]
  · exact (State.collectPages_unmaps _ (s.shootPages_unmaps _ p hp)).same hquads hcores
  · unfold State.core
    rw [hcores]
    exact State.collectPages_lines _ _ p hp

/-! ### THAW_COMPLETE (R104) -/

theorem execThawComplete_counts (h : s.RunsOn op true) (hstage : op.stage = .counts) :
    exec .thawComplete s = .next (s.thawCounts op) := by
  obtain ⟨hop, hthaw, hdone, -⟩ := h
  show execThawComplete s = _
  unfold execThawComplete
  rw [hop]
  dsimp only
  rw [if_neg (by simp [hthaw]), if_neg (by simp [hdone]), hstage]

/-- A THAW that has nobody to ask is gone when its counts, epochs, generations and translations are done. -/
theorem execThawComplete_ends (h : s.RunsOn op true) (hstage : op.stage = .counts)
    (hgo : s.zeroPages op = [] ∨ (s.epochHolds = false ∧ s.storesWait (s.zeroPages op) = false ∧ s.replicaLinks = [])) :
    ∃ t, exec .thawComplete s = .next t ∧ FreezeGone s t op ∧ Thawed s t op := by
  have hnext := execThawComplete_counts h hstage
  obtain ⟨-, -, -, hbar, hrun, hnodup⟩ := h
  by_cases hz : s.zeroPages op = []
  · have rest := s.lowered_rest op
    have hrun' : ((s.lowered op).prt (op.brings (s.zeroPages op)).part).stopped = false := by rw [rest]; exact hrun
    obtain ⟨_, _, _, _, _, hend⟩ := State.unlockFreeze_rest (op := op.brings (s.zeroPages op)) hbar hrun'
    refine ⟨_, hnext, ?_⟩
    rw [State.thawCounts_eq, if_pos (by simp [hz])]
    refine ⟨State.unlockFreeze_gone (op := op.brings (s.zeroPages op)) ?_ ?_ hbar hrun',
      (State.lowered_thawed hnodup hz).same ?_ ?_ ?_ ?_⟩
    · rw [rest]
      exact .of_eq rfl rfl rfl rfl rfl
    · rw [rest]
      rfl
    all_goals rw [hend]
  · obtain ⟨hh, hw, hlinks⟩ := hgo.resolve_left hz
    obtain ⟨_, _, _, rest⟩ := s.thawed_rest op
    have hrun' : ((s.thawed op).prt ((op.brings (s.zeroPages op)).to .shoot).part).stopped = false := by rw [rest]; exact hrun
    obtain ⟨_, _, _, _, _, hend⟩ := State.unlockFreeze_rest (op := (op.brings (s.zeroPages op)).to .shoot) hbar hrun'
    refine ⟨_, hnext, ?_⟩
    rw [State.thawCounts_shoots hz hh hw, if_pos (by simp [hlinks])]
    refine ⟨State.unlockFreeze_gone (op := (op.brings (s.zeroPages op)).to .shoot) ?_ ?_ hbar hrun',
      (State.thawed_thawed hnodup hz).same ?_ ?_ ?_ ?_⟩
    · rw [rest]
      exact .of_eq rfl rfl rfl rfl rfl
    · obtain ⟨_, hq⟩ := s.thawed_quad op (quadOf op.hart)
      show ((s.thawed op).quad (quadOf op.hart)).part.getD 16 = _
      rw [hq]
      rfl
    all_goals rw [hend]

/-- A THAW whose pages have replicas at peers asks those last. -/
theorem execThawComplete_asks (h : s.RunsOn op true) (hstage : op.stage = .counts) (hz : s.zeroPages op ≠ [])
    (hh : s.epochHolds = false) (hw : s.storesWait (s.zeroPages op) = false) (hlinks : s.replicaLinks ≠ []) :
    ∃ t, exec .thawComplete s = .next t ∧ Thawed s t op ∧
      t.out = s.out ++ s.replicaLinks.map (fun l => .peerInvalidate l (s.zeroPages op)) ∧
      ∃ o ∈ t.freezes, o.id = op.id ∧ o.peers = s.replicaLinks ∧ o.since = s.time ∧ o.stage = .peers := by
  have hnext := execThawComplete_counts h hstage
  obtain ⟨hop, -, -, -, -, hnodup⟩ := h
  refine ⟨_, hnext, ?_⟩
  rw [State.thawCounts_shoots hz hh hw, if_neg (by simpa using hlinks), State.foldl_emit]
  refine ⟨(State.thawed_thawed hnodup hz).same rfl rfl rfl rfl, ?_, _,
    State.updFreezeOp_mem (State.thawed_mem (List.mem_of_getElem? hop)) rfl, rfl, rfl, rfl, rfl⟩
  obtain ⟨_, _, _, rest⟩ := s.thawed_rest op
  rw [rest]
  rfl

/-- A THAW that a running sweep holds has lowered its counts alone. -/
theorem execThawComplete_held (h : s.RunsOn op true) (hstage : op.stage = .counts) (hz : s.zeroPages op ≠ []) (hh : s.epochHolds = true) :
    ∃ t, exec .thawComplete s = .next t ∧ (∀ p ∈ op.pages, t.count p.1 = s.count p.1 - p.2) ∧ t.dies = s.dies ∧
      ∃ o ∈ t.freezes, o.id = op.id ∧ o.stage = .epoch := by
  have hnext := execThawComplete_counts h hstage
  obtain ⟨hop, -, -, -, -, hnodup⟩ := h
  refine ⟨_, hnext, ?_⟩
  rw [State.thawCounts_held hz hh]
  refine ⟨fun p hp => ?_, by rw [State.thawLowered_rest], _, State.thawLowered_mem (List.mem_of_getElem? hop), rfl, rfl⟩
  rw [State.thawLowered_rest]
  exact congrArg FreezeEntry.count (s.lowered_entry hnodup p hp)

/-! ### PEER_INVALIDATE_TIMEOUT (R105) -/

theorem Quad.shareTags_part (a : Quad) : a.shareTags.part = a.part := by
  unfold Quad.shareTags
  generalize 128 - a.tagsUsed = n
  induction n generalizing a with
  | zero => rfl
  | succ n ih =>
    unfold Quad.giveTags
    split
    · rfl
    · exact ih _

theorem State.resetLink_partOf (s : State) (l h : Nat) : (s.resetLink l).partOf h = s.partOf h :=
  congrArg (·.getD 16) (Tab.get_map_field s.quads
    (fun e => Quad.shareTags { e.2 with running := e.2.running.map (fun x => x.linkFails l) }) Quad.part (fun _ => Quad.shareTags_part _) (quadOf h) {})

theorem State.resetLink_link (s : State) (l : Nat) :
    Tab.get (s.resetLink l).links l {} = { Tab.get s.links l {} with inc := (Tab.get s.links l {}).inc + 1, replicas := false } :=
  Tab.get_set_same ..

/-- Before 2^20 cycles have passed a peer may still acknowledge. -/
theorem execPeerInvalidateTimeout_early (hop : s.freezes[s.ev.k]? = some op) (h : s.time < op.since + 2 ^ 20) :
    exec .peerInvalidateTimeout s = .next s := by
  show execPeerInvalidateTimeout s = _
  unfold execPeerInvalidateTimeout
  rw [hop]
  exact if_neg fun ⟨_, _, _, hlate⟩ => absurd hlate (Nat.not_le.2 h)

/-- After them its link is reset, which is told, and the THAW is gone. -/
theorem execPeerInvalidateTimeout_resets {l : Nat} (h : s.RunsOn op true) (hpeers : op.peers = [l]) (hlate : op.since + 2 ^ 20 ≤ s.time) :
    ∃ t, exec .peerInvalidateTimeout s = .next t ∧ FreezeGone s t op ∧ (Tab.get t.links l {}).inc = (Tab.get s.links l {}).inc + 1 ∧
      (Tab.get t.links l {}).replicas = false ∧ .linkReset l ∈ t.out ∧ t.freeze = s.freeze := by
  obtain ⟨hop, hthaw, hdone, hbar, hrun, -⟩ := h
  let u := (s.resetLink l).emit (.linkReset l)
  have hnext : exec .peerInvalidateTimeout s = .next (u.unlockFreeze op) := by
    show execPeerInvalidateTimeout s = _
    unfold execPeerInvalidateTimeout
    rw [hop]
    dsimp only
    rw [if_pos ⟨hthaw, by simp [hdone], by simp [hpeers], hlate⟩, hpeers]
    rfl
  have hrun' : (u.prt op.part).stopped = false := hrun
  obtain ⟨_, _, _, _, _, rest⟩ := State.unlockFreeze_rest hbar hrun'
  refine ⟨_, hnext, State.unlockFreeze_gone (.of_eq rfl rfl rfl rfl rfl) (s.resetLink_partOf l op.hart) hbar hrun', ?_⟩
  rw [rest]
  refine ⟨?_, ?_, List.mem_append_right _ (List.mem_singleton.2 rfl), rfl⟩
  · exact congrArg Link.inc (s.resetLink_link l)
  · exact congrArg Link.replicas (s.resetLink_link l)

/-! ### FRAME_LEAVES_PARTITION (R106) -/

/-- A frozen page that leaves its partition is thawed by an operation of its own. -/
theorem execFrameLeavesPartition_thaws (hc : s.count (pageOf s.ev.addr) ≠ 0) (hl : s.pageLocked (pageOf s.ev.addr) = false) :
    ∃ t op, exec .frameLeavesPartition s = .next t ∧ t.freezes = s.freezes.concat op ∧ op.thaw = true ∧
      op.pages = [(pageOf s.ev.addr, s.count (pageOf s.ev.addr))] ∧ op.barrier = 0 ∧ op.token = none ∧ t.freeze = s.freeze ∧
      t.mem = s.mem ∧ t.harts = s.harts := by
  exact ⟨_, _, if_neg (by simp [hc, hl]), List.concat_eq_append.symm, rfl, rfl, rfl, rfl, rfl, rfl, rfl⟩

/-! ### The stamp sweep (R107 to R109) -/

theorem State.startSweep_core (s : State) (d c : Nat) : (s.startSweep d).core c =
    if c / 384 = d then { s.core c with rep := [] } else s.core c := by
  have hmap : (fun e : Nat × Core => if e.1 / 384 = d then (e.1, { e.2 with rep := [] }) else e) =
      fun e => (e.1, if e.1 / 384 = d then { e.2 with rep := [] } else e.2) := by
    funext e
    split <;> rfl
  show Tab.get (s.cores.map (fun e : Nat × Core => if e.1 / 384 = d then (e.1, { e.2 with rep := [] }) else e)) c {} = _
  rw [hmap]
  exact Tab.get_map_default s.cores (fun e => if e.1 / 384 = d then { e.2 with rep := [] } else e.2) c {} (by simp)

/-- What a sweep's start leaves of a quad: no replica in a way that is ON, and RET ways waking. -/
def Quad.swept (a : Quad) (now : Nat) : Quad :=
  { a with
    lines := a.lines.filter (fun l => !(decide (l.2.kind = .replica) && decide ((Tab.get a.ways l.2.way {}).st = 0)))
    ways := a.ways.map (fun w => if w.2.st = 1 then (w.1, { w.2 with st := 2, last := now + 48 }) else w) }

theorem State.startSweep_quad (s : State) (d q : Nat) : (s.startSweep d).quad q =
    if q / 96 = d then (s.quad q).swept s.time else s.quad q := by
  have hmap : (fun e : Nat × Quad => if e.1 / 96 = d then (e.1, e.2.swept s.time) else e) =
      fun e => (e.1, if e.1 / 96 = d then e.2.swept s.time else e.2) := by
    funext e
    split <;> rfl
  show Tab.get (s.quads.map (fun e : Nat × Quad => if e.1 / 96 = d then (e.1, e.2.swept s.time) else e)) q {} = _
  rw [hmap]
  exact Tab.get_map_default s.quads (fun e => if e.1 / 96 = d then e.2.swept s.time else e.2) q {} (ite_self _)

theorem State.startSweep_die (s : State) (d : Nat) : (s.startSweep d).die d =
    { s.die d with swstart := (s.die d).tepoch, swbusy := true, swat := s.time, killw := 0 } := State.die_updDie ..

/-- A sweep's start drops the replicas of its die that lie in the L1 data caches and in ways that are ON. -/
theorem State.startSweep_replicas (s : State) (d : Nat) :
    (∀ c, c / 384 = d → ((s.startSweep d).core c).rep = []) ∧
    (∀ q, q / 96 = d → ∀ l ∈ ((s.startSweep d).quad q).lines,
      l.2.kind = .replica → (Tab.get (s.quad q).ways l.2.way {}).st ≠ 0) := by
  refine ⟨fun c hc => ?_, fun q hq l hl hk hon => ?_⟩
  · rw [State.startSweep_core, if_pos hc]
  · rw [State.startSweep_quad, if_pos hq] at hl
    have hkept := (List.mem_filter.1 hl).2
    simp [hk, hon] at hkept

/-- A sweep that neither runs nor is too early starts. -/
theorem exec_startsSweep {sw : Bool} (hp : s.ev.p < 4) (hidle : (s.die s.ev.p).swbusy = false)
    (hdue : sw = true ∨ 2048 ≤ ((s.die s.ev.p).tepoch - (s.die s.ev.p).swstart).toNat) :
    exec (if sw then .swgoWrite else .stampSweepStart) s = .next (s.startSweep s.ev.p) := by
  cases sw with
  | true => exact if_pos ⟨hp, by simp [hidle]⟩
  | false => exact if_pos ⟨hp, by simp [hidle], hdue.resolve_left Bool.false_ne_true⟩

/-- A running sweep is not started again. -/
theorem exec_sweepRuns {i : Instr} (hi : i = .swgoWrite ∨ i = .stampSweepStart) (h : (s.die s.ev.p).swbusy = true) :
    exec i s = .next s := by
  rcases hi with rfl | rfl
  · exact if_neg fun ⟨_, hidle⟩ => hidle h
  · exact if_neg fun ⟨_, hidle, _⟩ => hidle h

theorem State.quad_updDie (s : State) (d : Nat) (f : Die → Die) (q : Nat) : (s.updDie d f).quad q = s.quad q := rfl

/-- A way that has not woken in time is killed. -/
theorem execWayKill_kills (hbusy : (s.die (dieOfQuad s.ev.q)).swbusy = true) (hlate : (s.die (dieOfQuad s.ev.q)).swat + 4096 ≤ s.time)
    (hst : (Tab.get (s.quad s.ev.q).ways s.ev.w {}).st ≠ 0) (hkill : (Tab.get (s.quad s.ev.q).ways s.ev.w {}).kill = false) :
    ∃ t, exec .wayKill s = .next t ∧
      Tab.get (t.quad s.ev.q).ways s.ev.w {} = { Tab.get (s.quad s.ev.q).ways s.ev.w {} with kill := true } ∧
      (t.die (dieOfQuad s.ev.q)).killw = ((s.die (dieOfQuad s.ev.q)).killw + 1) % 65536 ∧
      (t.quad s.ev.q).lines = (s.quad s.ev.q).lines ∧ t.harts = s.harts ∧ t.mem = s.mem := by
  refine ⟨_, if_pos ⟨hbusy, hlate, hst, by simp [hkill]⟩, ?_, ?_, ?_, rfl, rfl⟩
  · rw [State.quad_updDie, State.quad_updQuad]
    exact Tab.get_set_same ..
  · rw [State.die_updDie]
    rfl
  · rw [State.quad_updDie, State.quad_updQuad]

theorem execWayKill_waits (h : (s.die (dieOfQuad s.ev.q)).swbusy = false ∨ s.time < (s.die (dieOfQuad s.ev.q)).swat + 4096 ∨
    (Tab.get (s.quad s.ev.q).ways s.ev.w {}).st = 0) : exec .wayKill s = .next s := by
  refine if_neg fun ⟨hbusy, hlate, hst, _⟩ => ?_
  rcases h with h | h | h
  · simp [h] at hbusy
  · omega
  · exact hst h

/-! ### The obligation -/

/-- Settles O46: each step by its own theorem. -/
theorem freezesComplete : Obligations.FreezesComplete := by
  unfold Obligations.FreezesComplete
  intro plain gone unmapped
  refine ⟨?freeze, ?thaw, ?peers, ?frame, ?start, fun s i => exec_sweepRuns,
    fun s => ⟨execWayKill_kills, execWayKill_waits⟩, ?finish⟩
  case freeze =>
    intro s op hplain fresh hw
    exact execFreezeComplete_spec hplain hw
  case thaw =>
    intro s op hplain hstage zero lowered raised
    refine ⟨fun hgo => ?_, fun hz hh hw hlinks => ?_, execThawComplete_held hplain hstage⟩
    · obtain ⟨t, hnext, hgone, hthawed⟩ := execThawComplete_ends hplain hstage hgo
      exact ⟨t, hnext, hgone, hthawed.counts, hthawed.gens, hthawed.unmapped, hthawed.epochs⟩
    · obtain ⟨t, hnext, hthawed, hout, hpeers⟩ := execThawComplete_asks hplain hstage hz hh hw hlinks
      exact ⟨t, hnext, hthawed.counts, ⟨hthawed.gens, hthawed.unmapped, hthawed.epochs⟩, hout, hpeers⟩
  case peers =>
    exact fun s op l hplain hpeers => ⟨execPeerInvalidateTimeout_early hplain.1, execPeerInvalidateTimeout_resets hplain hpeers⟩
  case frame => exact fun s => ⟨fun h => if_pos (.inl h), execFrameLeavesPartition_thaws⟩
  case start =>
    intro s sw hp d i hidle hdue
    have hdie := s.startSweep_die s.ev.p
    obtain ⟨hcores, hquads⟩ := s.startSweep_replicas s.ev.p
    exact ⟨_, exec_startsSweep hp hidle hdue, by rw [hdie], by rw [hdie], by rw [hdie], by rw [hdie],
      fun e he => State.die_updDie_other _ _ _ _ he, rfl, rfl, hcores, hquads⟩
  case finish =>
    intro s
    refine ⟨fun hbusy hswept => if_pos ⟨hbusy, hswept⟩, fun h => if_neg fun ⟨hbusy, hswept⟩ => ?_⟩
    rcases h with h | h
    · simp [h] at hbusy
    · simp [h] at hswept

end Sys2Proof.Machine
end

section
/-!
SUPPORT. What an access performed at memory leaves of the machine: another memory, and of the harts at most other slide buffers,
owed errors and reservations (R114, R167, R180, R266).
-/
namespace Sys2Proof.Machine

/-- `t` is `s` with memory `m`; its harts differ at most in slide buffers, errors owed and reservations. -/
structure Performed (s : State) (m : Memory) (t : State) : Prop where
  mem : t.mem = m
  tmem : t.tmem = s.tmem
  cur : t.cur = s.cur
  hart : ∀ h, ∃ w d r, t.hart h = { s.hart h with slide := w, deferred := d, resv := r }

variable {s t u : State} {m : Memory}

theorem Performed.refl (s : State) : Performed s s.mem s :=
  ⟨rfl, rfl, rfl, fun h => ⟨(s.hart h).slide, (s.hart h).deferred, (s.hart h).resv, rfl⟩⟩

/-- Work that keeps memory and changes reservations alone. -/
theorem Performed.same (h : Performed s m t) (k : SameButResv t u) : Performed s m u := by
  refine ⟨k.mem.trans h.mem, k.tmem.trans h.tmem, k.cur.trans h.cur, fun j => ?_⟩
  obtain ⟨w, d, r, hj⟩ := h.hart j
  obtain ⟨r', kj⟩ := k.hart j
  exact ⟨w, d, r', by rw [kj, hj]⟩

theorem Performed.cached (h : Performed s m t) (k : Cached t u) : Performed s m u := h.same k.same

/-- A write performed at memory. -/
theorem Performed.poke (h : Performed s m t) (who : Option Nat) (key pa : Nat) (bytes : List Byte) :
    Performed s (m.writeBytes pa bytes) (t.poke who key pa bytes) := by
  obtain ⟨pmem, ptmem, pcur, -, phart⟩ := t.poke_spec who key pa bytes
  refine ⟨by rw [pmem, h.mem], ptmem.trans h.tmem, pcur.trans h.cur, fun j => ?_⟩
  obtain ⟨w, d, r, hj⟩ := h.hart j
  obtain ⟨r', pj⟩ := phart j
  exact ⟨w, d, r', by rw [pj, hj]⟩

/-- A hart's slide buffer, errors owed or reservation changed. -/
theorem Performed.updHart (h : Performed s m t) {j : Nat} {f : Hart → Hart}
    (hf : ∀ a, ∃ w d r, f a = { a with slide := w, deferred := d, resv := r }) : Performed s m (t.updHart j f) := by
  refine ⟨h.mem, h.tmem, h.cur, fun k => ?_⟩
  by_cases hk : k = j
  · subst hk
    obtain ⟨w, d, r, hj⟩ := h.hart k
    obtain ⟨w', d', r', fj⟩ := hf (t.hart k)
    exact ⟨w', d', r', by rw [State.hart_updHart, fj, hj]⟩
  · rw [State.hart_updHart_other _ _ _ _ hk]
    exact h.hart k

/-- The hart at issue. -/
theorem Performed.me (h : Performed s m t) : ∃ w d r, t.me = { s.me with slide := w, deferred := d, resv := r } := by
  obtain ⟨w, d, r, hc⟩ := h.hart s.cur
  exact ⟨w, d, r, by rw [State.me, h.cur, hc]; rfl⟩

theorem Accessed.same (h : Accessed s t) : SameButResv s t :=
  ⟨h.mem, h.tmem, by rw [h.rest], by rw [h.rest], h.hart⟩

theorem State.logUse_same (s : State) (h unit cause pa : Nat) : SameButResv s (s.logUse h unit cause pa) := by
  unfold State.logUse State.logError
  dsimp only
  split <;> exact .of_eq rfl rfl rfl rfl rfl

theorem State.logRead_same (s : State) (pa n : Nat) : SameButResv s (s.logRead pa n) := by
  unfold State.logRead
  split
  · exact State.logUse_same ..
  · exact .refl s

theorem State.releasesIf_cached (s : State) (b : Bool) : Cached s (s.releasesIf b) := by
  unfold State.releasesIf
  split
  · exact State.cleanCore_cached ..
  · exact .refl s

/-- The store buffer's part of a store to memory. -/
theorem Performed.storeAt (h : Performed s m t) (j : Nat) (va : Word) (key : Nat) {pa : Nat} (n v : Nat) (hmem : isMmio pa = false) :
    Performed s (m.writeBytes pa (leBytes n v)) (t.storeAt j va key pa n v) := by
  have hslide (a : Hart) : ∃ w d r, a.storedAt va pa n = { a with slide := w, deferred := d, resv := r } := by
    obtain ⟨w, e⟩ := a.storedAt_spec va pa n
    exact ⟨w, a.deferred, a.resv, e⟩
  have hpoke := h.poke (some j) key pa (leBytes n v)
  unfold State.storeAt State.storeData
  simp only [hmem, Bool.false_eq_true, if_false]
  refine Performed.updHart ?_ hslide
  split
  · exact (hpoke.same (State.logUse_same ..)).updHart fun a => ⟨a.slide, _, a.resv, rfl⟩
  · exact hpoke

/-- A translated access that meets nothing more goes on. -/
theorem State.paths_clear {c : Acc} {n : Nat} {go : Res} (h : s.Clear c n) : s.paths c n go = go := by
  obtain ⟨hstore, hpath, hmiss⟩ := h
  have hstop : s.pathStop c n = none := by simp [State.pathStop, hstore, hpath, hmiss]
  rw [State.paths, hstop]

end Sys2Proof.Machine
end

section
/-!
PROOFS. AMO, LR and SC (R74, R124, R217, R266, R267): obligation O5.
-/
namespace Sys2Proof.Machine

variable {s t : State} {m : Memory}

/-! ### Numbers in memory -/

theorem leNat_lt (l : List Byte) : leNat l < 256 ^ l.length := by
  induction l with
  | nil => exact Nat.one_pos
  | cons b l ih =>
    have hb : b.toNat < 256 := b.isLt
    rw [leNat, List.length_cons, Nat.pow_succ]
    omega

theorem Memory.readN_lt (m : Memory) (a n : Nat) : m.readN a n < 2 ^ (8 * n) := by
  have h := leNat_lt (m.readBytes a n)
  rwa [Memory.readBytes_length, show 256 = 2 ^ 8 from rfl, ← Nat.pow_mul] at h

theorem Memory.read_writeBytes_leBytes (m : Memory) (a v : Nat) {n k : Nat} (h : k < n) :
    (m.writeBytes a (leBytes n v)).read (a + k) = BitVec.ofNat 8 (v / 256 ^ k) := by
  rw [Memory.read_writeBytes_inside _ _ _ _ (by rwa [leBytes_length])]
  induction n generalizing k v with
  | zero => omega
  | succ n ih =>
    cases k with
    | zero => simp [leBytes]
    | succ k =>
      have hd : v / 256 ^ (k + 1) = v / 256 / 256 ^ k := by rw [Nat.pow_succ', Nat.div_div_eq_div_mul]
      simpa [leBytes, hd] using ih (v / 256) (k := k) (by omega)

/-- A byte outside a number's bytes reads as before. -/
theorem Memory.read_writeBytes_leBytes_outside (m : Memory) (a v : Nat) {n z : Nat} (h : z < a ∨ a + n ≤ z) :
    (m.writeBytes a (leBytes n v)).read z = m.read z :=
  Memory.read_writeBytes_outside _ _ _ _ (by rwa [leBytes_length])

/-! ### The value of an AMO (R217) -/

theorem amoResult_lt (op : AmoOp) (w old b : Nat) : amoResult op w old b < 2 ^ w := by
  have hx : old % 2 ^ w < 2 ^ w := Nat.mod_lt _ (Nat.two_pow_pos w)
  have hy : b % 2 ^ w < 2 ^ w := Nat.mod_lt _ (Nat.two_pow_pos w)
  cases op
  case swap => exact hy
  case add => exact Nat.mod_lt _ (Nat.two_pow_pos w)
  case xor => exact Nat.xor_lt_two_pow hx hy
  case and => exact Nat.and_lt_two_pow _ hy
  case or => exact Nat.or_lt_two_pow hx hy
  case min =>
    unfold amoResult
    dsimp only
    split
    · exact hx
    · exact hy
  case max =>
    unfold amoResult
    dsimp only
    split
    · exact hy
    · exact hx
  case minu => exact Nat.lt_of_le_of_lt (Nat.min_le_left ..) hx
  case maxu => exact Nat.max_lt.2 ⟨hx, hy⟩

/-- Numbers of `w` bits with one signed value are one. -/
theorem toSigned_inj {w x y : Nat} (hx : x < 2 ^ w) (hy : y < 2 ^ w) (h : toSigned w x = toSigned w y) : x = y := by
  have e := congrArg BitVec.toNat (BitVec.eq_of_toInt_eq h)
  rwa [BitVec.toNat_ofNat, BitVec.toNat_ofNat, Nat.mod_eq_of_lt hx, Nat.mod_eq_of_lt hy] at e

theorem amoResult_min {w old : Nat} (b : Nat) (h : old < 2 ^ w) :
    (toSigned w (b % 2 ^ w) < toSigned w old ∧ amoResult .min w old b = b % 2 ^ w) ∨
    (¬ toSigned w (b % 2 ^ w) < toSigned w old ∧ amoResult .min w old b = old) := by
  unfold amoResult
  dsimp only
  rw [Nat.mod_eq_of_lt h]
  split
  · exact .inr ⟨by omega, rfl⟩
  · exact .inl ⟨by omega, rfl⟩

theorem amoResult_max {w old : Nat} (b : Nat) (h : old < 2 ^ w) :
    (toSigned w old < toSigned w (b % 2 ^ w) ∧ amoResult .max w old b = b % 2 ^ w) ∨
    (¬ toSigned w old < toSigned w (b % 2 ^ w) ∧ amoResult .max w old b = old) := by
  unfold amoResult
  dsimp only
  rw [Nat.mod_eq_of_lt h]
  split
  next hle =>
    rcases Int.lt_or_eq_of_le hle with hlt | heq
    · exact .inl ⟨hlt, rfl⟩
    · exact .inr ⟨by omega, (toSigned_inj h (Nat.mod_lt _ (Nat.two_pow_pos w)) heq).symm⟩
  · exact .inr ⟨by omega, rfl⟩

/-! ### A result owed to an x register (R170, R172) -/

/-- `b` is `a` gone on by 4, with `l` owed to an x register; of its other registers, CSRs and mode none has changed. -/
structure Hart.OwesX (a b : Hart) (l : Late) : Prop where
  pc : b.pc = a.pc + 4
  xv : ∀ q, q ≠ l.reg → b.xv q = a.xv q
  late : l.reg ≠ 0 → b.late = a.late.concat l
  f : b.f = a.f
  v : b.v = a.v
  p : b.p = a.p
  csr : b.csr = a.csr
  mode : b.mode = a.mode

theorem Hart.owe_owesX (a : Hart) {l : Late} (hx : l.file = .x) : a.OwesX ((a.owe l).advance 4) l := by
  unfold Hart.owe
  rw [hx]
  dsimp only
  split
  next h0 => exact ⟨rfl, fun _ _ => rfl, fun h => absurd h0 h, rfl, rfl, rfl, rfl, rfl⟩
  next h0 =>
    have h := Hart.presX_sameValues a l.reg .pending
    exact ⟨congrArg (· + 4) h.pc, fun q _ => h.xv q, fun _ => List.concat_eq_append.symm, h.f, Hart.presX_v .., h.p, h.csr, h.mode⟩

/-- Slide buffers, errors owed and reservations do not count. -/
theorem Hart.OwesX.aside {a b : Hart} {l : Late} (h : a.OwesX b l) (w w' : Option Slide) (d d' : List Deferred)
    (r r' : Option Reservation) :
    Hart.OwesX { a with slide := w, deferred := d, resv := r } { b with slide := w', deferred := d', resv := r' } l :=
  ⟨h.pc, h.xv, h.late, h.f, h.v, h.p, h.csr, h.mode⟩

theorem State.acquiresIf_me (s : State) (b : Bool) : ∃ w, (s.acquiresIf b).me = { s.me with slide := w } := by
  cases b
  · exact ⟨s.me.slide, rfl⟩
  · exact ⟨none, State.me_updMe ..⟩

theorem State.acquiresIf_mem (s : State) (b : Bool) : (s.acquiresIf b).mem = s.mem := by cases b <;> rfl
theorem State.acquiresIf_tmem (s : State) (b : Bool) : (s.acquiresIf b).tmem = s.tmem := by cases b <;> rfl

/-- The end of an atomic: its result is owed, and an acquire follows where it has one. -/
theorem Performed.owes (h : Performed s m t) {l : Late} {g : Hart → Hart} (hg : ∀ a : Hart, a.OwesX (g a) l) (aq : Bool) :
    let u := (t.updMe g).acquiresIf aq
    u.mem = m ∧ u.tmem = s.tmem ∧ s.me.OwesX u.me l ∧ u.me.resv = (g t.me).resv := by
  intro u
  obtain ⟨w, d, r, hme⟩ := h.me
  obtain ⟨w', hacq⟩ := (t.updMe g).acquiresIf_me aq
  rw [State.me_updMe] at hacq
  have howes := (hg t.me).aside s.me.slide w' s.me.deferred (g t.me).deferred s.me.resv (g t.me).resv
  refine ⟨(State.acquiresIf_mem ..).trans h.mem, (State.acquiresIf_tmem ..).trans h.tmem, ?_, by rw [hacq]⟩
  rw [hacq]
  rw [hme] at howes ⊢
  exact howes

/-! ### The access of an atomic -/

theorem State.reservedAccess_same {va : Word} {n : Nat} {acc : AccKind} {mis : Nat} {c : Acc}
    (h : s.reservedAccess va n acc mis = .ok c) : SameButResv s c.s := by
  unfold State.reservedAccess State.alignedReq at h
  split at h
  · cases h
  next hk =>
    split at h
    · cases h
    · split at hk
      · cases hk
      · cases h
        exact (State.access_same hk :)

/-- A release that waits for nothing. -/
theorem State.guarded_release {b : Bool} {go : Res} (h : b = true → s.me.releaseWait = none) :
    s.guarded [if b then s.me.releaseWait else none] go = go :=
  State.guarded_pass (by cases b <;> simp [h])

/-- What a translated atomic does before its result is owed leaves memory. -/
theorem Performed.atomic {c : Acc} (h : SameButResv s c.s) (rl : Bool) : Performed s s.mem (c.s.releasesIf rl) :=
  ((Performed.refl s).same h).cached (State.releasesIf_cached ..)

/-- A store access of a frozen page of memory takes cause 25 with its address (R100). -/
theorem State.alignedReq_frozen {h : Nat} {q : Req} {va : Word} {n mis dev : Nat} {e : TlbEntry} {pa : Nat} {u : State}
    (halign : va.toNat % n = 0) (hmt : e.mt ≠ .device) (hfrozen : e.frozen = true) (ht : s.translate q va .store = .ok e pa u) :
    s.alignedReq h q va n .store mis dev = .error (.trap 25 va) := by
  simp [State.alignedReq, State.access, halign, ht, hmt, hfrozen]

/-- A misaligned access takes its cause with its address before it is translated. -/
theorem State.alignedReq_misaligned {h : Nat} {q : Req} {va : Word} {n : Nat} {acc : AccKind} {mis dev : Nat} (h1 : va.toNat % n ≠ 0) :
    s.alignedReq h q va n acc mis dev = .error (.trap mis va) := if_pos h1

/-! ### AMO -/

section
variable {op : AmoOp} {dbl aq rl : Bool} {d a b : Reg} {c : Acc}

/-- An AMO whose access passes its checks. -/
theorem execAmo_performs (hready : s.Ready (xs [a, b]) (xs [d]))
    (hacc : s.alignedAccess s.cur (s.me.xv a) (amoSize dbl) .store 6 7 = .ok c)
    (hclear : s.Clear c (amoSize dbl)) (hrel : rl = true → s.me.releaseWait = none) :
    let n := amoSize dbl
    let old := c.mem.readN c.pa n
    ∃ t k, exec (.amo op dbl aq rl d a b) s = .next t ∧
      t.mem = s.mem.writeBytes c.pa (leBytes n (amoResult op (8 * n) old (s.me.xv b).toNat)) ∧ t.tmem = s.tmem ∧
      s.me.OwesX t.me ⟨.x, d, sextTo (8 * n) old, k, none⟩ := by
  intro n old
  have hread := (Performed.atomic (State.alignedAccess_same hacc) rl).same (State.logRead_same _ c.pa n)
  have hdone := (hread.poke (some s.cur) c.key c.pa (leBytes n (amoResult op (8 * n) old (s.me.xv b).toNat))).cached
    (State.atomicAt_cached _ (coreOf s.cur) c.e c.pa)
  let l : Late := ⟨.x, d, sextTo (8 * n) old, s.markOf c.pa n (s.me.xv a), none⟩
  have howes (h : Hart) : h.OwesX (((h.storedAt (s.me.xv a) c.pa n).owe l).advance 4) l := by
    obtain ⟨w, e⟩ := h.storedAt_spec (s.me.xv a) c.pa n
    rw [e]
    exact (Hart.owe_owesX { h with slide := w } rfl).aside h.slide _ _ _ _ _
  obtain ⟨hmem, htmem, hme, -⟩ := hdone.owes howes aq
  refine ⟨_, l.mark, ?_, hmem, htmem, hme⟩
  show execAmo op dbl aq rl d a b s = _
  unfold execAmo
  dsimp only
  rw [State.guarded_ready hready, hacc]
  dsimp only
  rw [State.paths_clear hclear, State.guarded_release hrel]

/-- An AMO whose access is refused. -/
theorem execAmo_stops {st : Stop} (hready : s.Ready (xs [a, b]) (xs [d]))
    (hacc : s.alignedReq s.cur (s.reqOf s.cur) (s.me.xv a) (amoSize dbl) .store 6 7 = .error st) :
    exec (.amo op dbl aq rl d a b) s = s.stop st := by
  show execAmo op dbl aq rl d a b s = _
  unfold execAmo State.alignedAccess
  dsimp only
  rw [State.guarded_ready hready, hacc]

/-! ### LR -/

theorem State.reserves_cached (s : State) (c : Acc) (load : Bool) : Cached s (s.reserves c load) := by
  unfold State.reserves
  split
  · exact State.atHome_cached ..
  · split
    · exact State.touch_cached ..
    · exact .refl s

/-- An LR whose access passes its checks. -/
theorem execLr_performs (hready : s.Ready (xs [a]) (xs [d])) (hacc : s.reservedAccess (s.me.xv a) (amoSize dbl) .load 4 = .ok c)
    (hclear : s.Clear c (amoSize dbl)) (hrel : rl = true → s.me.releaseWait = none) :
    let n := amoSize dbl
    ∃ t k, exec (.lr dbl aq rl d a) s = .next t ∧ t.me.resv = some ⟨lineOf c.pa, c.pa, n⟩ ∧ t.mem = s.mem ∧ t.tmem = s.tmem ∧
      s.me.OwesX t.me ⟨.x, d, sextTo (8 * n) (c.mem.readN c.pa n), k, none⟩ := by
  intro n
  have hdone := ((Performed.atomic (State.reservedAccess_same hacc) rl).same (State.logRead_same _ c.pa n)).cached
    (State.reserves_cached _ c true)
  let l : Late := ⟨.x, d, sextTo (8 * n) (c.mem.readN c.pa n), s.markOf c.pa n (s.me.xv a), none⟩
  have howes (h : Hart) :
      h.OwesX { ((h.sees c.pa n).owe l).advance 4 with resv := some ⟨lineOf c.pa, c.pa, n⟩ } l := by
    obtain ⟨w, e⟩ := h.sees_spec c.pa n
    rw [e]
    exact (Hart.owe_owesX { h with slide := w } rfl).aside h.slide _ _ _ _ _
  obtain ⟨hmem, htmem, hme, hresv⟩ := hdone.owes howes aq
  refine ⟨_, l.mark, ?_, hresv, hmem, htmem, hme⟩
  show execLr dbl aq rl d a s = _
  unfold execLr
  dsimp only
  rw [State.guarded_ready hready, hacc]
  dsimp only
  rw [State.paths_clear hclear, State.guarded_release hrel]

/-- An LR of a frozen page takes cause 25 with its address (R267). -/
theorem execLr_frozen (hready : s.Ready (xs [a]) (xs [d]))
    (hacc : s.alignedReq s.cur { s.reqOf s.cur with excl := true } (s.me.xv a) (amoSize dbl) .load 4 7 = .ok c)
    (hfrozen : c.e.frozen = true) :
    exec (.lr dbl aq rl d a) s = .next (s.updMe (fun h => h.trap 25 (s.me.xv a) 0)) := by
  have hres : s.reservedAccess (s.me.xv a) (amoSize dbl) .load 4 = .error (.trap 25 (s.me.xv a)) := by
    simp [State.reservedAccess, hacc, hfrozen]
  show execLr dbl aq rl d a s = _
  unfold execLr
  dsimp only
  rw [State.guarded_ready hready, hres]
  rfl

/-! ### SC -/

theorem Hart.reserved_iff (a : Hart) (pa n : Nat) : a.reserved pa n = true ↔ a.resv = some ⟨lineOf pa, pa, n⟩ := by
  unfold Hart.reserved
  split
  next h => simp [h]
  next r h =>
    rw [h, Option.some.injEq]
    obtain ⟨line, addr, size⟩ := r
    simp [and_assoc]

/-- An SC whose access passes its checks: it writes when its reservation is held. -/
theorem execSc_performs (hready : s.Ready (xs [a, b]) (xs [d])) (hacc : s.reservedAccess (s.me.xv a) (amoSize dbl) .store 6 = .ok c)
    (hdev : isMmio c.pa = false) (hclear : s.Clear c (amoSize dbl)) (hrel : rl = true → s.me.releaseWait = none) :
    let n := amoSize dbl
    let ok := s.me.reserved c.pa n
    ∃ t, exec (.sc dbl aq rl d a b) s = .next t ∧ t.me.resv = none ∧
      t.mem = (if ok then s.mem.writeBytes c.pa (leBytes n (s.me.xv b).toNat) else s.mem) ∧ t.tmem = s.tmem ∧
      s.me.OwesX t.me ⟨.x, d, if ok then 0 else 1, none, none⟩ := by
  intro n ok
  let r := c.s.releasesIf rl
  have hr : Performed s s.mem r := .atomic (State.reservedAccess_same hacc) rl
  have hdone : Performed s (if ok then s.mem.writeBytes c.pa (leBytes n (s.me.xv b).toNat) else s.mem)
      (if ok then (r.storeAt s.cur (s.me.xv a) c.key c.pa n (s.me.xv b).toNat).touch (coreOf s.cur) c.e c.pa true
        else r.reserves c false) := by
    split
    · exact (hr.storeAt s.cur (s.me.xv a) c.key n _ hdev).cached (State.touch_cached ..)
    · exact hr.cached (State.reserves_cached ..)
  let l : Late := ⟨.x, d, if ok then 0 else 1, none, none⟩
  have howes (h : Hart) : h.OwesX { (h.owe l).advance 4 with resv := none } l :=
    (Hart.owe_owesX h rfl).aside h.slide _ h.deferred _ h.resv none
  obtain ⟨hmem, htmem, hme, hresv⟩ := hdone.owes howes aq
  refine ⟨_, ?_, hresv, hmem, htmem, hme⟩
  show execSc dbl aq rl d a b s = _
  unfold execSc
  dsimp only
  rw [State.guarded_ready hready, hacc]
  dsimp only
  rw [State.paths_clear hclear, State.guarded_release hrel]

/-- An SC whose access is refused. -/
theorem execSc_stops {st : Stop} (hready : s.Ready (xs [a, b]) (xs [d]))
    (hacc : s.alignedReq s.cur { s.reqOf s.cur with excl := true } (s.me.xv a) (amoSize dbl) .store 6 7 = .error st) :
    exec (.sc dbl aq rl d a b) s = s.stop st := by
  show execSc dbl aq rl d a b s = _
  unfold execSc State.reservedAccess
  dsimp only
  rw [State.guarded_ready hready, hacc]

end

/-! ### The obligation -/

/-- Settles O5: the result of an AMO as a value, then what each of the three leaves once its access has passed, and its refusals. -/
theorem atomicsAndReservations : Obligations.AtomicsAndReservations := by
  unfold Obligations.AtomicsAndReservations
  refine ⟨⟨?amo, ?misaligned⟩, ?lr, ?sc, ?lrFrozen, ?frozen⟩
  case amo =>
    intro s op dbl aq rl d a b c va n hready hacc hclear hrel old y lt new
    obtain ⟨t, k, hnext, hmem, htmem, hme⟩ := execAmo_performs (op := op) (aq := aq) hready hacc hclear hrel
    have hold : old < 2 ^ (8 * n) := Memory.readN_lt ..
    have hresult := amoResult_lt op (8 * n) old (s.me.xv b).toNat
    refine ⟨t, amoResult op (8 * n) old (s.me.xv b).toNat, hnext, ?_, ?_, fun z hz => ?_, htmem, hme.pc, hme.xv,
      fun hd => ⟨k, hme.late hd⟩, hme.f, hme.v, hme.p, hme.csr, hme.mode⟩
    · cases op
      case min => exact amoResult_min _ hold
      case max => exact amoResult_max _ hold
      all_goals simp [new, y, amoResult, Nat.mod_eq_of_lt hold]
    · rw [hmem]
      refine (Memory.readN_writeN s.mem c.pa n _).trans ?_
      rw [show 256 = 2 ^ 8 from rfl, ← Nat.pow_mul]
      exact Nat.mod_eq_of_lt hresult
    · rw [hmem]
      exact Memory.read_writeBytes_leBytes_outside _ _ _ hz
  case misaligned =>
    intro s op dbl aq rl d a b hready hmis
    exact execAmo_stops hready (State.alignedReq_misaligned hmis)
  case lr =>
    intro s dbl aq rl d a c va n hready hacc hclear hrel
    obtain ⟨t, k, hnext, hresv, hmem, htmem, hme⟩ := execLr_performs (aq := aq) hready hacc hclear hrel
    exact ⟨t, hnext, hresv, hmem, htmem, hme.pc, hme.xv, fun hd => ⟨k, hme.late hd⟩, hme.f, hme.v, hme.csr, hme.mode⟩
  case sc =>
    intro s dbl aq rl d a b c va n hready hacc hdev hclear hrel ok
    obtain ⟨t, hnext, hresv, hmem, htmem, hme⟩ := execSc_performs (aq := aq) hready hacc hdev hclear hrel
    refine ⟨t, hnext, hresv, htmem, hme.pc, hme.xv, fun hok => ?_, fun hno => ?_, hme.f, hme.v, hme.csr, hme.mode⟩
    · have hheld : s.me.reserved c.pa (amoSize dbl) = true := (Hart.reserved_iff ..).2 hok
      rw [hheld] at hmem hme
      rw [if_pos rfl] at hmem
      rw [hmem]
      exact ⟨fun k hk => Memory.read_writeBytes_leBytes _ _ _ hk, fun z hz => Memory.read_writeBytes_leBytes_outside _ _ _ hz,
        hme.late⟩
    · have hlost : s.me.reserved c.pa (amoSize dbl) = false := Bool.eq_false_iff.2 fun h => hno ((Hart.reserved_iff ..).1 h)
      rw [hlost] at hmem hme
      exact ⟨hmem, hme.late⟩
  case lrFrozen => exact fun s dbl aq rl d a c => execLr_frozen
  case frozen =>
    intro s u op dbl aq rl d a b e pa va hready halign hmt hfrozen
    exact ⟨fun ht => execAmo_stops hready (State.alignedReq_frozen halign hmt hfrozen ht),
      fun ht => execSc_stops hready (State.alignedReq_frozen halign hmt hfrozen ht)⟩

end Sys2Proof.Machine
end

section
/-!
SUPPORT. The fields of an object's words (R125), and what an arrival and a flip make of a barrier's (R131).
-/
namespace Sys2Proof.Machine

/-! ### Fields of a word -/

/-- Above a replaced field a word is as it was. -/
theorem putField_div (w v : Nat) {lo n a : Nat} (h : lo + n ≤ a) : putField w lo n v / 2 ^ a = w / 2 ^ a := by
  obtain ⟨j, rfl⟩ := Nat.exists_eq_add_of_le h
  have hlow : w % 2 ^ lo + v % 2 ^ n * 2 ^ lo < 2 ^ (lo + n) := by
    have hw : w % 2 ^ lo < 2 ^ lo := Nat.mod_lt _ (Nat.two_pow_pos lo)
    have hv : v % 2 ^ n < 2 ^ n := Nat.mod_lt _ (Nat.two_pow_pos n)
    calc w % 2 ^ lo + v % 2 ^ n * 2 ^ lo < (v % 2 ^ n + 1) * 2 ^ lo := by rw [Nat.succ_mul]; omega
      _ ≤ 2 ^ n * 2 ^ lo := Nat.mul_le_mul_right _ hv
      _ = 2 ^ (lo + n) := by rw [Nat.pow_add, Nat.mul_comm]
  rw [Nat.pow_add 2 (lo + n) j, ← Nat.div_div_eq_div_mul, ← Nat.div_div_eq_div_mul, putField,
    Nat.add_mul_div_right _ _ (Nat.two_pow_pos _), Nat.div_eq_of_lt hlow, Nat.zero_add]

/-- Below a replaced field a word is as it was. -/
theorem putField_mod (w v : Nat) {lo n a : Nat} (h : a ≤ lo) : putField w lo n v % 2 ^ a = w % 2 ^ a := by
  obtain ⟨j, rfl⟩ := Nat.exists_eq_add_of_le h
  have hsum : putField w (a + j) n v = w % 2 ^ (a + j) + 2 ^ a * (v % 2 ^ n * 2 ^ j + w / 2 ^ (a + j + n) * 2 ^ (j + n)) := by
    rw [putField, Nat.add_assoc a j n, Nat.pow_add 2 a (j + n), Nat.pow_add 2 a j]
    ring
  rw [hsum, Nat.add_mul_mod_self_left, Nat.mod_mod_of_dvd _ (Nat.pow_dvd_pow 2 h)]

theorem putField_lt {w lo n : Nat} (v : Nat) {a : Nat} (hw : w < 2 ^ a) (h : lo + n ≤ a) : putField w lo n v < 2 ^ a := by
  rw [← Nat.div_eq_zero_iff_lt (Nat.two_pow_pos a), putField_div w v h, Nat.div_eq_of_lt hw]

@[simp] theorem fieldOf_putField_same (w lo n v : Nat) : fieldOf (putField w lo n v) lo n = v % 2 ^ n := by
  have hsum : putField w lo n v = w % 2 ^ lo + 2 ^ lo * (v % 2 ^ n + 2 ^ n * (w / 2 ^ (lo + n))) := by
    rw [putField, Nat.pow_add]
    ring
  rw [fieldOf, hsum, Nat.add_mul_div_left _ _ (Nat.two_pow_pos lo), Nat.div_eq_of_lt (Nat.mod_lt _ (Nat.two_pow_pos lo)), Nat.zero_add,
    Nat.add_mul_mod_self_left, Nat.mod_mod]

theorem fieldOf_putField_other (w v : Nat) {lo n a k : Nat} (h : a + k ≤ lo ∨ lo + n ≤ a) :
    fieldOf (putField w lo n v) a k = fieldOf w a k := by
  unfold fieldOf
  rcases h with h | h
  · rw [← Nat.mod_mul_right_div_self, ← Nat.mod_mul_right_div_self, ← Nat.pow_add, putField_mod w v h]
  · rw [putField_div w v h]

theorem fieldOf_two (w lo : Nat) : fieldOf w lo 2 = fieldOf w lo 1 + 2 * fieldOf w (lo + 1) 1 := by
  simp only [fieldOf, Nat.pow_succ, ← Nat.div_div_eq_div_mul]
  omega

theorem fieldOf_lt (w lo n : Nat) : fieldOf w lo n < 2 ^ n := Nat.mod_lt _ (Nat.two_pow_pos n)

/-! ### Arrivals and flips (R131, R292) -/

/-- A barrier with one arrival more, as ARRIVE counts it before the flip test. -/
def Obj.arrived (o : Obj) : Obj := { o with w0 := putField o.w0 0 16 (min (o.arr + 1) 65535) }

/-- The words of an object are those of a line. -/
def Obj.InLine (o : Obj) : Prop := o.w0 < 2 ^ 64 ∧ o.w1 < 2 ^ 64

/-- `r` has the fields of a barrier `o` that has flipped. -/
structure Obj.Flipped (o r : Obj) : Prop where
  ph : r.ph = 1 - o.ph
  arr : r.arr = 0
  curb : r.curb = 0
  exp : r.exp = o.exp
  expb : r.expb = o.expb
  lfail : r.lfail = fieldOf o.w0 59 1
  lovr : r.lovr = fieldOf o.w0 58 1
  cleared : fieldOf r.w0 58 2 = 0

theorem Obj.arrived_w0 (o : Obj) : o.arrived.w0 = putField o.w0 0 16 (min (o.arr + 1) 65535) := rfl
theorem Obj.withW0_w1 (o : Obj) (w : Nat) : ({ o with w0 := w } : Obj).w1 = o.w1 := rfl
@[simp] theorem Obj.arrived_w1 (o : Obj) : o.arrived.w1 = o.w1 := o.withW0_w1 _

@[simp] theorem Obj.arrived_arr (o : Obj) : o.arrived.arr = min (o.arr + 1) 65535 := by
  rw [Obj.arr, Obj.arrived_w0, fieldOf_putField_same]
  omega

/-- An arrival changes ARR alone. -/
theorem Obj.arrived_field (o : Obj) {lo : Nat} (n : Nat) (h : 16 ≤ lo) : fieldOf o.arrived.w0 lo n = fieldOf o.w0 lo n := by
  rw [Obj.arrived_w0, fieldOf_putField_other _ _ (.inr h)]

@[simp] theorem Obj.arrived_ph (o : Obj) : o.arrived.ph = o.ph := o.arrived_field 1 (by decide)
@[simp] theorem Obj.arrived_exp (o : Obj) : o.arrived.exp = o.exp := o.arrived_field 16 (by decide)
@[simp] theorem Obj.arrived_expb (o : Obj) : o.arrived.expb = o.expb := by rw [Obj.expb, Obj.arrived_w1, Obj.expb]
@[simp] theorem Obj.arrived_curb (o : Obj) : o.arrived.curb = o.curb := by rw [Obj.curb, Obj.arrived_w1, Obj.curb]

/-- The flip test of a barrier that has just counted an arrival. -/
theorem Obj.arrived_met (o : Obj) : (o.arrived.exp ≤ o.arrived.arr ∧ o.arrived.expb ≤ o.arrived.curb) ↔
    (o.exp ≤ min (o.arr + 1) 65535 ∧ o.expb ≤ o.curb) := by
  rw [Obj.arrived_arr, Obj.arrived_exp, Obj.arrived_expb, Obj.arrived_curb]

theorem Obj.InLine.arrived {o : Obj} (h : o.InLine) : o.arrived.InLine := by
  rw [Obj.InLine, Obj.arrived_w0, Obj.arrived_w1]
  exact ⟨putField_lt _ h.1 (by decide), h.2⟩

/-- The flip of a barrier that has just counted an arrival is the flip of the barrier. -/
theorem Obj.Flipped.of_arrived {o r : Obj} (h : o.arrived.Flipped r) : o.Flipped r where
  ph := o.arrived_ph ▸ h.ph
  arr := h.arr
  curb := h.curb
  exp := h.exp.trans o.arrived_exp
  expb := h.expb.trans o.arrived_expb
  lfail := h.lfail.trans (o.arrived_field 1 (by decide))
  lovr := h.lovr.trans (o.arrived_field 1 (by decide))
  cleared := h.cleared

theorem Obj.flip_short {o : Obj} (h : ¬ (o.exp ≤ o.arr ∧ o.expb ≤ o.curb)) : o.flip = (o, false) := if_neg h

/-- A barrier whose counts are met flips. -/
theorem Obj.flip_met {o : Obj} (h : o.exp ≤ o.arr ∧ o.expb ≤ o.curb) : o.flip.2 = true ∧ o.Flipped o.flip.1 := by
  unfold Obj.flip
  rw [if_pos h]
  have hph : o.ph < 2 ^ 1 := fieldOf_lt ..
  refine ⟨rfl, {
    ph := ?ph, arr := ?arr, curb := ?curb, exp := ?exp, expb := ?expb, lfail := ?lfail, lovr := ?lovr, cleared := ?cleared }⟩
  case cleared => simp (disch := omega) only [fieldOf_two, fieldOf_putField_same, fieldOf_putField_other, Nat.zero_mod]
  all_goals
    simp (disch := omega) only [Obj.ph, Obj.arr, Obj.curb, Obj.exp, Obj.expb, Obj.lfail, Obj.lovr, fieldOf_putField_same,
      fieldOf_putField_other, Nat.zero_mod]
  case ph => exact Nat.mod_eq_of_lt (by omega)
  case lfail => exact Nat.mod_eq_of_lt (fieldOf_lt ..)
  case lovr => exact Nat.mod_eq_of_lt (fieldOf_lt ..)

theorem Obj.InLine.flip {o : Obj} (h : o.InLine) : o.flip.1.InLine := by
  unfold Obj.flip
  split
  · refine ⟨?_, putField_lt _ h.2 (by decide)⟩
    iterate 6 refine putField_lt _ ?_ (by decide)
    exact h.1
  · exact h

theorem Acc.obj_inLine (c : Acc) : c.obj.InLine := ⟨c.mem.readN_lt c.pa 8, c.mem.readN_lt (c.pa + 8) 8⟩

/-- An object's words are read back as they are written. -/
theorem objIn_putObj {m : Memory} {pa : Nat} {o : Obj} (h : o.InLine) :
    let r := objIn (m.writeBytes pa (leBytes 8 o.w0 ++ leBytes 8 o.w1)) pa
    r.w0 = o.w0 ∧ r.w1 = o.w1 := by
  obtain ⟨h0, h1⟩ := objIn_written m pa o
  exact ⟨h0.trans (Nat.mod_eq_of_lt h.1), h1.trans (Nat.mod_eq_of_lt h.2)⟩

/-- The fields of a barrier are those of its words 0 and 1. -/
theorem Obj.Flipped.of_words {o q r : Obj} (h : o.Flipped q) (h0 : r.w0 = q.w0) (h1 : r.w1 = q.w1) : o.Flipped r := by
  have hw0 (lo n : Nat) : fieldOf r.w0 lo n = fieldOf q.w0 lo n := by rw [h0]
  have hw1 (lo n : Nat) : fieldOf r.w1 lo n = fieldOf q.w1 lo n := by rw [h1]
  exact {
    ph := (hw0 ..).trans h.ph
    arr := (hw0 ..).trans h.arr
    curb := (hw1 ..).trans h.curb
    exp := (hw0 ..).trans h.exp
    expb := (hw1 ..).trans h.expb
    lfail := (hw0 ..).trans h.lfail
    lovr := (hw0 ..).trans h.lovr
    cleared := (hw0 ..).trans h.cleared }

end Sys2Proof.Machine
end

section
/-!
PROOFS. ARRIVE, WAITPH and TESTPH (R131, R132, R292 to R294): obligation O22.
-/
namespace Sys2Proof.Machine

open Claims

variable {s t : State} {m : Memory} {c : Acc}

/-! ### At the object's line -/

/-- The step of an object operation at its line. -/
theorem State.atObject_performed {o : Reg} {src dst : List Reg} {rl fo : Bool} {kinds : List Nat}
    (h : Reaches s o src dst rl fo kinds c) :
    let v := s.atObject c (s.me.xv o)
    Performed s s.mem v ∧ v.waiters = s.waiters ∧ (c.s.lostLines = [] → v.lostLines = []) := by
  have hreached := State.atObject_reached h
  obtain ⟨-, -, hacc, -, -⟩ := h
  obtain ⟨u, w, hu, hv⟩ := s.atObject_spec c (s.me.xv o)
  obtain ⟨v, _, _, rfl, -, -, hwaiters, -, -, -, -, hlost⟩ := hreached
  refine ⟨?_, hwaiters, hlost⟩
  rw [hv]
  exact (((Performed.refl s).same (State.objAccess_accessed hacc).same).cached hu).updHart fun a => ⟨w, a.deferred, a.resv, rfl⟩

/-- A release of ranges that waits for nothing goes on, with caches that may be others. -/
theorem State.releasing_goes (sc : BitVec 3) (go : State → Res) (v : State) (h : s.me.releaseWait = none) :
    ∃ u, Cached v u ∧ s.releasing sc go v = go u := by
  unfold State.releasing
  split
  · exact ⟨v, .refl v, rfl⟩
  · exact ⟨_, State.cleanCore_cached .., State.guarded_pass (by rw [h]; rfl)⟩

/-- With no line lost, an acquire discards the slide buffer alone. -/
theorem State.acquireObj_whole (h : s.lostLines = []) (j : Nat) (o : Obj) (va : Word) :
    s.acquireObj j o va = s.updHart j Hart.acquired := by
  have hin : (s.updHart j Hart.acquired).lostIn j o = none := if_pos h
  unfold State.acquireObj
  dsimp only
  rw [hin]

/-! ### Going on -/

theorem Hart.aside_sameRegs (a : Hart) (w : Option Slide) (d : List Deferred) (r : Option Reservation) (n : Nat) :
    SameRegs a (Hart.advance { a with slide := w, deferred := d, resv := r } n) :=
  ⟨rfl, rfl, rfl, rfl, rfl, rfl, rfl, rfl, rfl, rfl, rfl, rfl, rfl, rfl, rfl⟩

theorem State.me_updHart_cur {j : Nat} {f : Hart → Hart} (h : t.cur = j) : (t.updHart j f).me = f t.me := by
  rw [← h]
  exact State.me_updMe ..

/-- The hart at issue goes on with its registers. -/
theorem Performed.advance (h : Performed s m t) : (t.advance 4).me.pc = s.me.pc + 4 ∧ SameRegs s.me (t.advance 4).me := by
  obtain ⟨w, d, r, hme⟩ := h.me
  rw [State.advance, State.me_updMe, hme]
  exact ⟨rfl, Hart.aside_sameRegs ..⟩

/-- So it does when an acquire follows. -/
theorem Performed.advance_acquired (h : Performed s m t) :
    let u := (t.advance 4).updHart s.cur Hart.acquired
    u.me.pc = s.me.pc + 4 ∧ SameRegs s.me u.me := by
  intro u
  rw [State.me_updHart_cur (show (t.advance 4).cur = s.cur from h.cur)]
  exact h.advance

/-! ### A barrier written (R131) -/

theorem State.poke_waiters (who : Option Nat) (key pa : Nat) (bytes : List Byte) : (s.poke who key pa bytes).waiters = s.waiters := by
  have hseal (v : State) (n : Nat) : (v.seal key pa n).waiters = v.waiters := by unfold State.seal; split <;> rfl
  have hheal (v : State) (l : List Nat) : (v.healLines l).waiters = v.waiters := by unfold State.healLines; split <;> rfl
  show (State.healLines _ _).waiters = _
  rw [hheal, hseal]

theorem State.waitersAt_congr (h : t.waiters = s.waiters) (line : Nat) (ph : Bool) : t.waitersAt line ph = s.waitersAt line ph := by
  rw [State.waitersAt, h, State.waitersAt]

theorem State.putBarrier_short {o : Obj} (h : ¬ (o.exp ≤ o.arr ∧ o.expb ≤ o.curb)) (who : Option Nat) (key pa : Nat) :
    s.putBarrier who key pa o = s.putObj who key pa o := by
  unfold State.putBarrier
  rw [Obj.flip_short h]
  rfl

theorem State.putBarrier_flips {o : Obj} (h : o.exp ≤ o.arr ∧ o.expb ≤ o.curb) (who : Option Nat) (key pa : Nat) :
    s.putBarrier who key pa o = (s.putObj who key pa o.flip.1).wakeFlip pa := if_pos (Obj.flip_met h).1

/-- The registrations that are left after a flip. -/
def State.unflipped (s : State) (pa : Nat) : State :=
  { s with waiters := s.waiters.filter (fun w => !(w.line == lineOf pa && w.phase.isSome)) }

theorem State.wakeFlip_nobody {pa : Nat} (h : s.waitersAt (lineOf pa) true = []) : s.wakeFlip pa = s.unflipped pa := by
  unfold State.wakeFlip
  rw [h]
  rfl

/-- The one hart that waits for a flip goes on. -/
theorem State.wakeFlip_one {pa : Nat} {w : Waiter} (h : s.waitersAt (lineOf pa) true = [w]) (hlost : s.lostLines = []) :
    s.wakeFlip pa = ((s.unflipped pa).updHart w.hart (fun a => a.advance 4)).updHart w.hart Hart.acquired := by
  unfold State.wakeFlip
  rw [h]
  exact State.acquireObj_whole (s := (s.unflipped pa).updHart w.hart (fun a => a.advance 4)) hlost w.hart (s.obj pa) w.va

theorem State.unflipped_waiters {pa : Nat} {w : Waiter} (h : w ∈ s.waitersAt (lineOf pa) true) : w ∉ (s.unflipped pa).waiters := by
  intro hleft
  have hat := (List.mem_filter.1 h).2
  have hnot := (List.mem_filter.1 hleft).2
  rw [beq_true] at hat
  rw [hat] at hnot
  cases hnot

/-- A barrier written at its line: its words, and no other byte. -/
theorem Performed.putObj (h : Performed s s.mem t) {o : Obj} (ho : o.InLine) (who : Option Nat) (key pa : Nat) :
    let v := t.putObj who key pa o
    ((objIn v.mem pa).w0 = o.w0 ∧ (objIn v.mem pa).w1 = o.w1) ∧ OnlyBytes s v pa 16 ∧ Performed s v.mem v := by
  have hp := h.poke who key pa (leBytes 8 o.w0 ++ leBytes 8 o.w1)
  have hmem : (t.putObj who key pa o).mem = _ := hp.mem
  refine ⟨?_, ⟨fun z hz => ?_, hp.tmem⟩, hp.mem ▸ hp⟩
  · rw [hmem]
    exact objIn_putObj ho
  · rw [hmem]
    exact Memory.read_writeBytes_outside _ _ _ _ (by simpa [leBytes_length] using hz)

/-! ### ARRIVE (R292) -/

section
variable {sc : BitVec 3} {b : Reg} (hreaches : Reaches s b [] [] true false [2] c) (hrelease : s.me.releaseWait = none)
include hreaches hrelease

/-- ARRIVE writes the barrier with the arrival counted, and goes on. -/
theorem execArrive_puts : ∃ v, Performed s s.mem v ∧ v.waiters = s.waiters ∧ (c.s.lostLines = [] → v.lostLines = []) ∧
    exec (.arrive sc b) s = .next ((v.putBarrier (some s.cur) c.key c.pa c.obj.arrived).advance 4) := by
  obtain ⟨hv, hwaiters, hlost⟩ := State.atObject_performed hreaches
  obtain ⟨u, hu, hgo⟩ := State.releasing_goes sc
    (fun t => .next ((t.putBarrier (some s.cur) c.key c.pa c.obj.arrived).advance 4)) (s.atObject c (s.me.xv b)) hrelease
  refine ⟨u, hv.cached hu, hu.accessed.waiters.trans hwaiters, fun h => hu.lost (hlost h), Eq.trans ?_ hgo⟩
  show execArrive sc b s = _
  unfold execArrive
  rw [State.onObject_reaches hreaches]
  rfl

/-- An arrival that does not meet the counts. -/
theorem execArrive_counts (hshort : ¬ (c.obj.exp ≤ min (c.obj.arr + 1) 65535 ∧ c.obj.expb ≤ c.obj.curb)) :
    ∃ t, exec (.arrive sc b) s = .next t ∧ (objIn t.mem c.pa).w0 = putField c.obj.w0 0 16 (min (c.obj.arr + 1) 65535) ∧
      (objIn t.mem c.pa).w1 = c.obj.w1 ∧ OnlyBytes s t c.pa 16 ∧ t.me.pc = s.me.pc + 4 ∧ SameRegs s.me t.me ∧
      t.waiters = s.waiters := by
  obtain ⟨v, hv, hwaiters, -, hnext⟩ := execArrive_puts (sc := sc) hreaches hrelease
  rw [State.putBarrier_short (mt c.obj.arrived_met.1 hshort)] at hnext
  obtain ⟨⟨h0, h1⟩, honly, hp⟩ := hv.putObj c.obj_inLine.arrived (some s.cur) c.key c.pa
  obtain ⟨hpc, hregs⟩ := hp.advance
  exact ⟨_, hnext, h0.trans c.obj.arrived_w0, h1.trans c.obj.arrived_w1, honly, hpc, hregs,
    (State.poke_waiters (some s.cur) ..).trans hwaiters⟩

/-- An arrival that meets the counts flips the barrier; what the flip wakes is still to come. -/
theorem execArrive_flips (hmet : c.obj.exp ≤ min (c.obj.arr + 1) 65535 ∧ c.obj.expb ≤ c.obj.curb) :
    ∃ p, exec (.arrive sc b) s = .next ((p.wakeFlip c.pa).advance 4) ∧ c.obj.Flipped (objIn p.mem c.pa) ∧ OnlyBytes s p c.pa 16 ∧
      Performed s p.mem p ∧ p.waiters = s.waiters ∧ (c.s.lostLines = [] → p.lostLines = []) := by
  obtain ⟨v, hv, hwaiters, hlost, hnext⟩ := execArrive_puts (sc := sc) hreaches hrelease
  have hmet' := c.obj.arrived_met.2 hmet
  rw [State.putBarrier_flips hmet'] at hnext
  obtain ⟨⟨h0, h1⟩, honly, hp⟩ := hv.putObj c.obj_inLine.arrived.flip (some s.cur) c.key c.pa
  refine ⟨_, hnext, ((Obj.flip_met hmet').2.of_words h0 h1).of_arrived, honly, hp, (State.poke_waiters ..).trans hwaiters, fun h => ?_⟩
  rw [State.lostLines_nil, State.putObj, State.poke_quads, ← State.lostLines_nil]
  exact hlost h

/-- A flip that no hart waits for. -/
theorem execArrive_flips_nobody (hmet : c.obj.exp ≤ min (c.obj.arr + 1) 65535 ∧ c.obj.expb ≤ c.obj.curb)
    (hnobody : s.waitersAt (lineOf c.pa) true = []) :
    ∃ t, exec (.arrive sc b) s = .next t ∧ c.obj.Flipped (objIn t.mem c.pa) ∧ OnlyBytes s t c.pa 16 ∧ t.me.pc = s.me.pc + 4 ∧
      SameRegs s.me t.me := by
  obtain ⟨p, hnext, hflipped, honly, hp, hwaiters, -⟩ := execArrive_flips (sc := sc) hreaches hrelease hmet
  rw [State.wakeFlip_nobody ((State.waitersAt_congr hwaiters ..).trans hnobody)] at hnext
  have hq : Performed s p.mem (p.unflipped c.pa) := hp.same (.of_eq rfl rfl rfl rfl rfl)
  obtain ⟨hpc, hregs⟩ := hq.advance
  exact ⟨_, hnext, hflipped, honly, hpc, hregs⟩

/-- A flip that one hart waits for. -/
theorem execArrive_flips_one {w : Waiter} (hmet : c.obj.exp ≤ min (c.obj.arr + 1) 65535 ∧ c.obj.expb ≤ c.obj.curb)
    (hone : s.waitersAt (lineOf c.pa) true = [w]) (hother : w.hart ≠ s.cur) (hlost : c.s.lostLines = []) :
    ∃ t, exec (.arrive sc b) s = .next t ∧ c.obj.Flipped (objIn t.mem c.pa) ∧ w ∉ t.waiters ∧
      (t.hart w.hart).pc = (s.hart w.hart).pc + 4 ∧ (t.hart w.hart).park = none ∧ t.me.pc = s.me.pc + 4 := by
  obtain ⟨p, hnext, hflipped, -, hp, hwaiters, hplost⟩ := execArrive_flips (sc := sc) hreaches hrelease hmet
  have hat : p.waitersAt (lineOf c.pa) true = [w] := (State.waitersAt_congr hwaiters ..).trans hone
  rw [State.wakeFlip_one hat (hplost hlost)] at hnext
  let q := ((p.unflipped c.pa).updHart w.hart (fun a => a.advance 4)).updHart w.hart Hart.acquired
  obtain ⟨x, d, r, hw⟩ := hp.hart w.hart
  have hwoken : (q.advance 4).hart w.hart = ((p.hart w.hart).advance 4).acquired := by
    rw [State.advance, State.updMe, State.hart_updHart_other _ _ _ _ (by rw [show q.cur = s.cur from hp.cur]; exact hother),
      State.hart_updHart, State.hart_updHart]
    rfl
  have hme : q.me = p.me := by
    show q.hart p.cur = p.hart p.cur
    rw [State.hart_updHart_other _ _ _ _ (by rw [hp.cur]; exact hother.symm),
      State.hart_updHart_other _ _ _ _ (by rw [hp.cur]; exact hother.symm)]
    rfl
  refine ⟨_, hnext, hflipped, State.unflipped_waiters (by rw [hat]; exact List.mem_singleton_self w), ?_, ?_, ?_⟩
  · rw [hwoken, hw]
    rfl
  · rw [hwoken]
    rfl
  · obtain ⟨x', d', r', hc⟩ := hp.me
    show (q.advance 4).me.pc = _
    rw [State.advance, State.me_updMe, hme, hc]
    rfl

end

/-! ### WAITPH (R293) -/

section
variable {sc : BitVec 3} {xp b d : Reg}

/-- A WAITPH with no request of its hart waiting, at its barrier. -/
theorem execWaitph_reaches (hfree : s.waiterOf s.cur = none) (hreaches : Reaches s b [xp] [] false true [2] c) :
    exec (.waitph sc xp b) s =
      (let v := s.atObject c (s.me.xv b)
       let p := (s.me.xv xp).toNat % 2
       if c.obj.ph ≠ p then .next ((v.advance 4).acquireObj s.cur c.obj (s.me.xv b))
       else .next ((v.addWaiter ⟨lineOf c.pa, s.cur, 0, some (p == 1), s.me.xv b⟩).updMe
         (fun a => a.parkFor .waitph s.time s.clk))) := by
  show execWaitph sc xp b s = _
  unfold execWaitph
  rw [if_neg (by simp [hfree]), State.onObject_reaches hreaches]

theorem execWaitph_goes (hfree : s.waiterOf s.cur = none) (hreaches : Reaches s b [xp] [] false true [2] c)
    (hph : c.obj.ph ≠ (s.me.xv xp).toNat % 2) (hlost : c.s.lostLines = []) :
    ∃ t, exec (.waitph sc xp b) s = .next t ∧ t.mem = s.mem ∧ t.me.pc = s.me.pc + 4 ∧ SameRegs s.me t.me := by
  obtain ⟨hv, -, hvlost⟩ := State.atObject_performed hreaches
  have hnext := execWaitph_reaches (sc := sc) hfree hreaches
  dsimp only at hnext
  generalize s.atObject c (s.me.xv b) = v at hv hvlost hnext
  rw [if_pos hph, State.acquireObj_whole] at hnext
  · exact ⟨_, hnext, hv.mem, hv.advance_acquired⟩
  · exact hvlost hlost

theorem execWaitph_parks (hfree : s.waiterOf s.cur = none) (hreaches : Reaches s b [xp] [] false true [2] c)
    (hph : c.obj.ph = (s.me.xv xp).toNat % 2) :
    ∃ t, exec (.waitph sc xp b) s = .next t ∧ t.mem = s.mem ∧ t.me.park = some .waitph ∧ t.me.pc = s.me.pc ∧
      ∃ w, t.waiters = s.waiters.concat w ∧ w.hart = s.cur ∧ w.line = lineOf c.pa ∧
        w.phase = some (decide ((s.me.xv xp).toNat % 2 = 1)) := by
  obtain ⟨hv, hwaiters, -⟩ := State.atObject_performed hreaches
  have hnext := execWaitph_reaches (sc := sc) hfree hreaches
  dsimp only at hnext
  generalize s.atObject c (s.me.xv b) = v at hv hwaiters hnext
  rw [if_neg (not_not.2 hph)] at hnext
  refine ⟨_, hnext, hv.mem, ?_, ?_, ⟨lineOf c.pa, s.cur, v.nextTicket, some _, s.me.xv b⟩, ?_, rfl, rfl,
    congrArg some (beq_eq_decide ..)⟩
  · rw [State.me_updMe]
    exact Hart.parkFor_park ..
  · obtain ⟨w, d, r, hme⟩ := hv.me
    rw [State.me_updMe, Hart.parkFor_pc]
    exact (congrArg Hart.pc hme :)
  · rw [List.concat_eq_append, ← hwaiters]
    rfl

/-! ### TESTPH (R294) -/

theorem execTestph_reaches (hreaches : Reaches s b [xp] [d] false true [2] c) :
    exec (.testph sc xp b d) s =
      (let v := s.atObject c (s.me.xv b)
       if c.obj.ph ≠ (s.me.xv xp).toNat % 2 then
         .next ((v.updMe (fun a => (a.setX d (BitVec.ofNat 64 (1 + c.obj.lfail * 2 + c.obj.lovr * 4))).advance 4)).acquireObj s.cur c.obj
           (s.me.xv b))
       else .next (v.updMe (fun a => (a.setX d 0).advance 4))) := by
  show execTestph sc xp b d s = _
  unfold execTestph
  rw [State.onObject_reaches hreaches]

/-- A hart that has written its destination and gone on. -/
theorem Performed.setX_advance (h : Performed s m t) (d : Reg) (v : Word) :
    let u := t.updMe (fun a => (a.setX d v).advance 4)
    u.me.pc = s.me.pc + 4 ∧ u.me.x = (s.me.setX d v).x ∧ u.me.f = s.me.f ∧ u.me.v = s.me.v := by
  intro u
  obtain ⟨w, e, r, hme⟩ := h.me
  rw [State.me_updMe t, hme]
  unfold Hart.setX
  split <;> exact ⟨rfl, rfl, rfl, rfl⟩

theorem execTestph_passed (hreaches : Reaches s b [xp] [d] false true [2] c) (hph : c.obj.ph ≠ (s.me.xv xp).toNat % 2)
    (hlost : c.s.lostLines = []) :
    ∃ t, exec (.testph sc xp b d) s = .next t ∧ t.mem = s.mem ∧ t.me.pc = s.me.pc + 4 ∧
      t.me.x = (s.me.setX d (BitVec.ofNat 64 (1 + 2 * c.obj.lfail + 4 * c.obj.lovr))).x ∧ t.me.f = s.me.f ∧ t.me.v = s.me.v := by
  obtain ⟨hv, -, hvlost⟩ := State.atObject_performed hreaches
  have hnext := execTestph_reaches (sc := sc) hreaches
  dsimp only at hnext
  generalize s.atObject c (s.me.xv b) = v at hv hvlost hnext
  rw [if_pos hph, State.acquireObj_whole, Nat.mul_comm _ 2, Nat.mul_comm _ 4] at hnext
  · refine ⟨_, hnext, hv.mem, ?_⟩
    rw [State.me_updHart_cur]
    · exact hv.setX_advance d _
    · exact hv.cur
  · exact hvlost hlost

theorem execTestph_pending (hreaches : Reaches s b [xp] [d] false true [2] c) (hph : c.obj.ph = (s.me.xv xp).toNat % 2) :
    ∃ t, exec (.testph sc xp b d) s = .next t ∧ t.mem = s.mem ∧ t.me.pc = s.me.pc + 4 ∧ t.me.x = (s.me.setX d 0).x ∧
      t.me.f = s.me.f ∧ t.me.v = s.me.v := by
  obtain ⟨hv, -, -⟩ := State.atObject_performed hreaches
  have hnext := execTestph_reaches (sc := sc) hreaches
  dsimp only at hnext
  generalize s.atObject c (s.me.xv b) = v at hv hnext
  rw [if_neg (not_not.2 hph)] at hnext
  exact ⟨_, hnext, hv.mem, hv.setX_advance d 0⟩

end

/-! ### The obligation -/

/-- Settles O22: the barrier's fields by what an arrival and a flip make of its words, the harts by what each instruction leaves. -/
theorem barriersFlip : Obligations.BarriersFlip := by
  unfold Obligations.BarriersFlip
  refine ⟨?arrive, ?waitph, ?testph⟩
  case arrive =>
    intro s sc b c hreaches hrelease o arr
    refine ⟨execArrive_counts hreaches hrelease, fun hexp hexpb hnobody => ?_, fun w hexp hexpb hone hother hlost => ?_⟩
    · obtain ⟨t, hnext, hflip, honly, hpc, hregs⟩ := execArrive_flips_nobody (sc := sc) hreaches hrelease ⟨hexp, hexpb⟩ hnobody
      exact ⟨t, hnext, hflip.ph, hflip.arr, hflip.curb, hflip.exp, hflip.expb, hflip.lfail, hflip.lovr, hflip.cleared, honly, hpc,
        hregs⟩
    · obtain ⟨t, hnext, hflip, hgone, hpc, hpark, hme⟩ :=
        execArrive_flips_one (sc := sc) hreaches hrelease ⟨hexp, hexpb⟩ hone hother hlost
      exact ⟨t, hnext, hflip.ph, hgone, hpc, hpark, hme⟩
  case waitph => exact fun s sc xp b c hfree hreaches => ⟨execWaitph_goes hfree hreaches, execWaitph_parks hfree hreaches⟩
  case testph => exact fun s sc xp b d c hreaches => ⟨execTestph_passed hreaches, execTestph_pending hreaches⟩

end Sys2Proof.Machine
end

section
/-!
SUPPORT. The record of a shape register: its doublewords in a number and in memory, and its access, which is checked as one (R302).
-/
namespace Sys2Proof.Machine

variable {s t : State} {m : Memory} {l : List (Acc × Nat)}

/-! ### Doublewords of a record -/

/-- Doubleword `k` of a record made of twelve doublewords. -/
theorem Shape.word_shapeOf {l : List Nat} (hlen : l.length = 12) (hl : ∀ d ∈ l, d < 2 ^ 64) {k : Nat} (hk : k < l.length) :
    Shape.word (shapeOf l) k = l[k] := by
  have hfits : Nat.ofDigits (2 ^ 64) l < 2 ^ (64 * 12) := by
    rw [Nat.pow_mul, ← hlen]
    exact Nat.ofDigits_lt_base_pow_length (by decide) hl
  have hshape : (shapeOf l).toNat = Nat.ofDigits (2 ^ 64) l := by
    have hfold : l.foldr (fun d n => d + 2 ^ 64 * n) 0 = Nat.ofDigits (2 ^ 64) l := (Nat.ofDigits_eq_foldr ..).symm
    rw [shapeOf, hfold]
    exact (BitVec.toNat_ofNat ..).trans (Nat.mod_eq_of_lt hfits)
  rw [Shape.word, hshape, Nat.pow_mul, Nat.ofDigits_div_pow_eq_ofDigits_drop k (by decide) l hl, List.drop_eq_getElem_cons hk,
    Nat.ofDigits_cons, Nat.add_mul_mod_self_left]
  exact Nat.mod_eq_of_lt (hl _ (List.getElem_mem hk))

theorem Shape.word_lt (r : Shape) (k : Nat) : Shape.word r k < 2 ^ 64 := Nat.mod_lt _ (by decide)

/-- A hart with another record in one of its shape registers. -/
def Hart.setShape (a : Hart) (h : BitVec 3) (r : Shape) : Hart := { a with shp := a.shp.set h.toNat r h.isLt }

theorem Hart.shape_setShape_same (a : Hart) (h : BitVec 3) (r : Shape) : (a.setShape h r).shape h = r :=
  Vector.getElem_set_self ..

theorem Hart.shape_setShape_other (a : Hart) {h g : BitVec 3} (hne : g ≠ h) (r : Shape) : (a.setShape h r).shape g = a.shape g :=
  Vector.getElem_set_ne h.isLt g.isLt fun e => hne (BitVec.eq_of_toNat_eq e.symm)

/-! ### Doublewords written -/

/-- Memory once doublewords have been written in order. -/
def Memory.writeDoubles (m : Memory) (l : List (Nat × Nat)) : Memory := l.foldl (fun m x => m.writeN x.1 8 x.2) m

/-- A byte outside all of them reads as before. -/
theorem Memory.read_writeDoubles_outside (m : Memory) {l : List (Nat × Nat)} {z : Nat} (h : ∀ x ∈ l, z < x.1 ∨ x.1 + 8 ≤ z) :
    (m.writeDoubles l).read z = m.read z := by
  induction l generalizing m with
  | nil => rfl
  | cons x l ih =>
    obtain ⟨hx, hl⟩ := List.forall_mem_cons.1 h
    exact (ih (m.writeN x.1 8 x.2) hl).trans (Memory.read_writeBytes_leBytes_outside _ _ _ hx)

/-- Of doublewords that do not overlap, each reads back as written. -/
theorem Memory.readN_writeDoubles (m : Memory) {l : List (Nat × Nat)} (hl : l.Pairwise (fun x y => x.1 + 8 ≤ y.1 ∨ y.1 + 8 ≤ x.1)) :
    ∀ x ∈ l, x.2 < 2 ^ 64 → (m.writeDoubles l).readN x.1 8 = x.2 := by
  induction l generalizing m with
  | nil => simp
  | cons y l ih =>
    obtain ⟨hy, hl⟩ := List.pairwise_cons.1 hl
    intro x hx hfits
    rcases List.mem_cons.1 hx with rfl | hx
    · have hkeeps : (m.writeDoubles (x :: l)).readN x.1 8 = (m.writeN x.1 8 x.2).readN x.1 8 :=
        Memory.readN_congr fun z hfirst hlast => by
          refine Memory.read_writeDoubles_outside (m.writeN x.1 8 x.2) (l := l) fun w hw => ?_
          have := hy w hw
          omega
      rw [hkeeps, Memory.readN_writeN]
      exact Nat.mod_eq_of_lt hfits
    · exact ih _ hl x hx hfits

/-! ### The access of a record -/

/-- The doublewords of a record are all accessed at one state, which differs from the first in reservations alone. -/
theorem State.recordAccess_state {va : Word} {acc : AccKind} (h : s.recordAccess va acc = .ok l) :
    ∃ u, SameButResv s u ∧ ∀ x ∈ l, x.1.s = u := by
  unfold State.recordAccess at h
  dsimp only at h
  split at h
  · cases h
  next c hc =>
    split at h
    · cases h
    next _ hfirst =>
      split at h
      · cases h
        exact ⟨c.s, State.access_same hc, fun x hx => congrArg Acc.s (doublesOf_acc hfirst x hx)⟩
      · split at h
        · cases h
        next d hd =>
          refine ⟨d.s, (State.access_same hc).trans (State.access_same hd), ?_⟩
          generalize hsecond : doublesOf acc _ d _ = r at h
          cases r with
          | error => cases h
          | ok m =>
            cases h
            intro x hx
            rcases List.mem_append.1 hx with hx | hx
            · obtain ⟨y, -, rfl⟩ := List.mem_map.1 hx
              rfl
            · exact congrArg Acc.s (doublesOf_acc hsecond x hx)

/-- A record's lines meet nothing more (R75, R114, R180). -/
theorem State.recordPaths_clear {u : State} {go : State → Res} (hl : l ≠ []) (hstate : ∀ x ∈ l, x.1.s = u)
    (hclear : ∀ x ∈ l, s.Clear { x.1 with pa := x.2 } 8) : s.recordPaths l go = go u := by
  have herror : l.findSome? (fun x => s.me.storeError (lineOf x.2)) = none := by
    refine List.findSome?_eq_none_iff.2 fun x hx => ?_
    obtain ⟨herror, -, -⟩ := hclear x hx
    exact herror
  have hlast : l.getLast? = some (l.getLast hl) := List.getLast?_eq_some_getLast hl
  unfold State.recordPaths
  rw [herror, hlast]
  refine (State.guarded_pass (firstStop_eq_none.2 fun st hst => ?_)).trans (congrArg go (hstate _ (List.getLast_mem hl)))
  rcases List.mem_append.1 hst with hst | hst
  all_goals
    obtain ⟨x, hx, rfl⟩ := List.mem_map.1 hst
    obtain ⟨-, hpath, hmiss⟩ := hclear x hx
  · exact hpath
  · exact hmiss

/-! ### What the access does -/

theorem Performed.touchAll (h : Performed s m t) (l : List (Acc × Nat)) (store : Bool) : Performed s m (t.touchAll l store) :=
  h.cached (.foldl (fun u (x : Acc × Nat) => u.touch_cached (coreOf t.cur) x.1.e x.2 store) l t)

/-- Doublewords read outside the MMIO window: each is what memory holds under its key. -/
theorem State.readDoubles_memory {l : List (Nat × Nat)} (s : State) (hl : ∀ x ∈ l, isMmio x.2 = false) :
    (s.readDoubles l).1 = l.map (fun x => (s.memUnder x.1).readN x.2 8) := by
  induction l generalizing s with
  | nil => rfl
  | cons x l ih =>
    obtain ⟨hx, hl⟩ := List.forall_mem_cons.1 hl
    have hfetch (u : State) : u.fetchData x.1 x.2 8 = ((u.memUnder x.1).readN x.2 8, u) := by simp [State.fetchData, hx]
    simp only [State.readDoubles, hfetch, ih _ hl]
    rfl

theorem Performed.readDoubles {l : List (Nat × Nat)} (h : Performed s m t) (hl : ∀ x ∈ l, isMmio x.2 = false) :
    Performed s m (t.readDoubles l).2 := by
  induction l generalizing t with
  | nil => exact h
  | cons x l ih =>
    obtain ⟨hx, hl⟩ := List.forall_mem_cons.1 hl
    have hfetch (u : State) : (u.fetchData x.1 x.2 8).2 = u := by simp [State.fetchData, hx]
    refine ih ?_ hl
    rw [hfetch]
    exact h.updHart fun a => by
      obtain ⟨w, e⟩ := a.sees_spec x.2 8
      exact ⟨w, a.deferred, a.resv, e⟩

end Sys2Proof.Machine
end

section
/-!
PROOFS. CPY and CPYB at their issue (R150, R257, R303, R304): the first half of obligation O24.
-/
namespace Sys2Proof.Machine

variable {s : State} {cpyb e : Bool} {k : BitVec 3} {c b : Reg} {push pop : Bool} {h : BitVec 3}

/-! ### The issue, by its parts -/

/-- A hart that issues a transfer marks the group that it is to fill as pending (R303). -/
def Hart.marksDst (a : Hart) (x : Xfer) : Hart :=
  if Shape.dk x.shape = 3 then a.pendV (vregGroup x.dst).1 (vregGroup x.dst).2 else a

/-- The state after the issue of a transfer: it is the last of its quad's copy queue, and its hart has gone on. -/
def State.copyIssued (s : State) (x : Xfer) : State :=
  ({ s with nextXfer := s.nextXfer + 1 }.updQuad (quadOf s.cur) (fun q => { q with cq := q.cq ++ [x] })).updMe
    (fun a => ((a.marksDst x).startToken x.token).advance 4)

/-- What CPY and CPYB check, in order. -/
def State.copyStops (s : State) (cpyb e : Bool) (k : BitVec 3) (c b : Reg) (h : BitVec 3) : List (Option Stop) :=
  let r := s.me.shape h
  let src := s.me.xv c
  let dst := s.me.xv b
  [s.me.ready (xs [b, c]) [],
    if (vregGroup src).1 + (vregGroup src).2 ≤ s.me.alloc then s.me.markedAny (vregNames r.sk src) else none] ++
  s.me.copyChecks r cpyb e dst src ++
  [s.me.presentAll (vregNames r.sk src), s.me.ownedAll (vregNames r.dk dst), s.me.tokenFull (tokenOf e k),
    parkIf (decide (32 ≤ (s.quad (quadOf s.cur)).cq.length)) .cqFull]

theorem exec_copy (s : State) (cpyb e : Bool) (k : BitVec 3) (c b : Reg) (push pop : Bool) (h : BitVec 3) :
    exec (if cpyb then .cpyb e k c b push pop h else .cpy e k c b push pop h) s = s.copy cpyb e k c b push pop h := by
  cases cpyb <;> rfl

/-- With its checks passed, the transfer of the record and the operands enters. -/
theorem State.copy_enters (hchecks : firstStop (s.copyStops cpyb e k c b h) = none) :
    ∃ x : Xfer, s.copy cpyb e k c b push pop h = .next (s.copyIssued x) ∧ x.hart = s.cur ∧ x.shape = s.me.shape h ∧
      x.dst = s.me.xv b ∧ x.src = s.me.xv c ∧ x.push = push ∧ x.pop = pop ∧ x.cpyb = cpyb ∧ x.token = tokenOf e k ∧
      x.fmt = s.me.fmts :=
  ⟨_, State.guarded_pass hchecks, rfl, rfl, rfl, rfl, rfl, rfl, rfl, rfl, rfl⟩

/-! ### The checks -/

/-- A check of the registers of a VREG operand passes when it does for that kind of operand. -/
theorem vregNames_pass {check : List (RFile × Nat) → Option Stop} (hnil : check [] = none) {kind : Nat} {w : Word}
    (hreg : kind = 3 → check (vgroup (vregGroup w).1 (vregGroup w).2) = none) : check (vregNames kind w) = none := by
  unfold vregNames
  split
  case isTrue hkind => exact hreg hkind
  case isFalse => exact hnil

theorem State.copyStops_pass (hready : s.Ready (xs [b, c]) [])
    (hchecks : ∀ st ∈ s.me.copyChecks (s.me.shape h) cpyb e (s.me.xv b) (s.me.xv c), st = none)
    (hsrc : Shape.sk (s.me.shape h) = 3 → s.me.markedAny (vgroup (vregGroup (s.me.xv c)).1 (vregGroup (s.me.xv c)).2) = none ∧
      s.me.presentAll (vgroup (vregGroup (s.me.xv c)).1 (vregGroup (s.me.xv c)).2) = none)
    (hdst : Shape.dk (s.me.shape h) = 3 → s.me.ownedAll (vgroup (vregGroup (s.me.xv b)).1 (vregGroup (s.me.xv b)).2) = none)
    (htoken : s.me.tokenFull (tokenOf e k) = none) (hroom : (s.quad (quadOf s.cur)).cq.length < 32) :
    firstStop (s.copyStops cpyb e k c b h) = none := by
  have hmarked := vregNames_pass (check := s.me.markedAny) rfl fun hkind => (hsrc hkind).1
  have hpresent := vregNames_pass (check := s.me.presentAll) rfl fun hkind => (hsrc hkind).2
  have howned := vregNames_pass (check := s.me.ownedAll) rfl hdst
  have hqueue : parkIf (decide (32 ≤ (s.quad (quadOf s.cur)).cq.length)) .cqFull = none := by simp [parkIf, hroom]
  rw [firstStop_eq_none, State.copyStops, hready, hmarked, hpresent, howned, htoken, hqueue]
  simpa [or_imp, forall_and] using hchecks

/-- A record that fails the first check of R150 traps before anything of its operands is looked at. -/
theorem State.copyStops_record (hready : s.Ready (xs [b, c]) []) (hsrc : Shape.sk (s.me.shape h) ≠ 3)
    (hbad : let r := s.me.shape h
      Shape.rsvOk r = false ∨ Shape.nlv r < 1 ∨ 6 < Shape.nlv r ∨ Shape.run r < 1 ∨ 65536 < Shape.run r) :
    firstStop (s.copyStops cpyb e k c b h) = some (.trap 31 1) := by
  have hmarked := vregNames_pass (check := s.me.markedAny) (w := s.me.xv c) rfl fun hkind => absurd hkind hsrc
  rw [State.copyStops, Hart.copyChecks, hready, hmarked]
  rcases hbad with hbad | hbad | hbad | hbad | hbad <;> simp [hbad]

/-! ### What the issue leaves -/

/-- A group made pending changes the v registers alone. -/
theorem Hart.pendV_rest (a : Hart) (n g : Nat) : a.pendV n g = { a with v := (a.pendV n g).v } := by
  unfold Hart.pendV
  induction List.range g generalizing a with
  | nil => rfl
  | cons j l ih => exact ih (a.presV (n + j) .pending)

theorem Hart.marksDst_rest (a : Hart) (x : Xfer) : a.marksDst x = { a with v := (a.marksDst x).v } := by
  unfold Hart.marksDst
  split
  · exact a.pendV_rest _ _
  · rfl

theorem State.copyIssued_me (s : State) (x : Xfer) :
    (s.copyIssued x).me = ((s.me.marksDst x).startToken x.token).advance 4 := State.me_updMe ..

/-- The queue, memory and tile storage once a transfer has been issued. -/
theorem State.copyIssued_leaves (s : State) (x : Xfer) :
    let t := s.copyIssued x
    (t.quad (quadOf s.cur)).cq = (s.quad (quadOf s.cur)).cq.concat x ∧ t.mem = s.mem ∧ t.tmem = s.tmem := by
  rw [List.concat_eq_append]
  exact ⟨congrArg Quad.cq (State.quad_updQuad { s with nextXfer := s.nextXfer + 1 } _ fun q => { q with cq := q.cq ++ [x] }), rfl, rfl⟩

/-- The hart that issued it. -/
theorem State.copyIssued_goes (s : State) (x : Xfer) :
    let a := (s.copyIssued x).me
    a.pc = s.me.pc + 4 ∧ a.x = s.me.x ∧ a.f = s.me.f ∧ a.v = (s.me.marksDst x).v := by
  rw [State.copyIssued_me, Hart.startToken_rest, Hart.marksDst_rest]
  exact ⟨rfl, rfl, rfl, rfl⟩

/-- Its token counts one more operation. -/
theorem State.copyIssued_sb (s : State) {x : Xfer} (hx : x.token = some k.toNat) :
    (s.copyIssued x).me.sb = s.me.sb.set k.toNat (s.me.sb[k.toNat]'(k.isLt) + 1) k.isLt := by
  rw [State.copyIssued_me, hx, Hart.marksDst_rest]
  exact Hart.startToken_sb { s.me with v := _ } k

end Sys2Proof.Machine
end

section
/-!
PROOFS. SHPLD and SHPST (R302): the second half of obligation O24, and the obligation.
-/
namespace Sys2Proof.Machine

open Claims

variable {s : State} {b : Reg} {h : BitVec 3} {l : List (Acc × Nat)}

/-! ### SHPLD -/

/-- What a hart reads of a record, each doubleword under its key. -/
def State.recordWords (s : State) (l : List (Acc × Nat)) : List Nat := l.map (fun x => (s.memUnder (x.1.e.keyAt x.2)).readN x.2 8)

/-- The shape register that holds them has each as its doubleword of that number. -/
theorem Shape.word_recordWords (u : State) (hlen : l.length = 12) {k : Nat} {x : Acc × Nat} (hx : l[k]? = some x) :
    Shape.word (shapeOf (u.recordWords l)) k = (u.memUnder (x.1.e.keyAt x.2)).readN x.2 8 := by
  obtain ⟨hk, rfl⟩ := List.getElem?_eq_some_iff.1 hx
  have hfits : ∀ d ∈ u.recordWords l, d < 2 ^ 64 := by
    intro d hd
    obtain ⟨x, -, rfl⟩ := List.mem_map.1 hd
    exact Memory.readN_lt _ x.2 8
  have hwords : (u.recordWords l).length = l.length := List.length_map ..
  rw [Shape.word_shapeOf (hwords.trans hlen) hfits (hwords ▸ hk)]
  exact List.getElem_map ..

/-- An aligned SHPLD whose lines meet nothing more and have no error. -/
theorem execShpld_loads (hready : s.Ready (xs [b]) []) (halign : (s.me.xv b).toNat % 8 = 0) (hl : l ≠ [])
    (hclear : ∀ x ∈ l, s.Clear { x.1 with pa := x.2 } 8) (hmem : ∀ x ∈ l, isMmio x.2 = false)
    (hacc : s.recordAccess (s.me.xv b) .load = .ok l) {u : State} (hsame : SameButResv s u) (hstate : ∀ x ∈ l, x.1.s = u)
    (hgood : ∀ x ∈ l, u.badLine (lineOf x.2) = false) :
    ∃ t, exec (.shpld b h) s = .next (t.updMe (fun a => (a.setShape h (shapeOf (u.recordWords l))).advance 4)) ∧
      Performed s s.mem t := by
  let words := l.map (fun x => (x.1.e.keyAt x.2, x.2))
  have hwords : ∀ x ∈ words, isMmio x.2 = false := List.forall_mem_map.2 hmem
  have hread : (u.readDoubles words).1 = u.recordWords l := (u.readDoubles_memory hwords).trans (List.map_map ..)
  have hfind : l.find? (fun x => !isMmio x.2 && u.badLine (lineOf x.2)) = none :=
    List.find?_eq_none.2 fun x hx => by simp [hgood x hx]
  refine ⟨(u.readDoubles words).2.touchAll l false, ?_, ((((Performed.refl s).same hsame).readDoubles hwords).touchAll l false)⟩
  show execShpld b h s = _
  unfold execShpld
  refine (State.guarded_pass (by rw [hready]; simp [halign])).trans ?_
  rw [hacc]
  refine (State.recordPaths_clear hl hstate hclear).trans ?_
  rw [hfind]
  dsimp only
  rw [hread]
  rfl

/-- A hart that has loaded a shape register and gone on. -/
theorem Performed.setShape_advance {m : Memory} {t : State} (hp : Performed s m t) (h : BitVec 3) (r : Shape) :
    let a := (t.updMe (fun a => (a.setShape h r).advance 4)).me
    a.shape h = r ∧ (∀ g, g ≠ h → a.shape g = s.me.shape g) ∧ a.pc = s.me.pc + 4 ∧ SameRegs s.me a := by
  obtain ⟨w, d, v, hme⟩ := hp.me
  rw [State.me_updMe, hme]
  exact ⟨Hart.shape_setShape_same s.me h r, fun g hne => Hart.shape_setShape_other s.me hne r, rfl, Hart.aside_sameRegs s.me w d v 4⟩

/-- The record is in the shape register, each doubleword as memory holds it. -/
theorem execShpld_moves (hready : s.Ready (xs [b]) []) (halign : (s.me.xv b).toNat % 8 = 0)
    (hclear : ∀ x ∈ l, s.Clear { x.1 with pa := x.2 } 8) (hmem : ∀ x ∈ l, isMmio x.2 = false)
    (hacc : s.recordAccess (s.me.xv b) .load = .ok l) (hlen : l.length = 12)
    (hgood : ∀ x ∈ l, ∀ y ∈ l, y.1.s.badLine (lineOf x.2) = false) :
    ∃ t, exec (.shpld b h) s = .next t ∧
      (∀ k, k < 12 → ∃ x, l[k]? = some x ∧ Shape.word (t.me.shape h) k = (x.1.s.memUnder (x.1.e.keyAt x.2)).readN x.2 8) ∧
      (∀ g, g ≠ h → t.me.shape g = s.me.shape g) ∧ t.mem = s.mem ∧ t.me.pc = s.me.pc + 4 ∧ SameRegs s.me t.me := by
  have hl : l ≠ [] := List.ne_nil_of_length_pos (by omega)
  obtain ⟨u, hsame, hstate⟩ := State.recordAccess_state hacc
  obtain ⟨t, hnext, hdone⟩ := execShpld_loads (h := h) hready halign hl hclear hmem hacc hsame hstate
    fun x hx => hstate x hx ▸ hgood x hx x hx
  obtain ⟨hshape, hothers, hpc, hregs⟩ := hdone.setShape_advance h (shapeOf (u.recordWords l))
  refine ⟨_, hnext, fun k hk => ?_, hothers, hdone.mem, hpc, hregs⟩
  have hx : l[k]? = some l[k] := List.getElem?_eq_getElem (hlen ▸ hk)
  refine ⟨_, hx, ?_⟩
  rw [hshape, hstate _ (List.getElem_mem _)]
  exact Shape.word_recordWords u hlen hx

/-! ### SHPST -/

/-- The doublewords that SHPST writes: those of its record, each at its address. -/
def Shape.writes (r : Shape) (l : List (Acc × Nat)) : List (Nat × Nat) := l.zipIdx.map (fun x => (x.1.2, Shape.word r x.2))

theorem Shape.mem_writes (r : Shape) {k : Nat} {x : Acc × Nat} (hx : l[k]? = some x) : (x.2, Shape.word r k) ∈ r.writes l :=
  List.mem_map.2 ⟨(x, k), List.mem_zipIdx_iff_getElem?.2 hx, rfl⟩

theorem Shape.writes_outside (r : Shape) {z : Nat} (hz : ∀ x ∈ l, z < x.2 ∨ x.2 + 8 ≤ z) : ∀ y ∈ r.writes l, z < y.1 ∨ y.1 + 8 ≤ z := by
  intro y hy
  obtain ⟨x, hx, rfl⟩ := List.mem_map.1 hy
  exact hz x.1 (List.fst_mem_of_mem_zipIdx hx)

theorem Shape.writes_pairwise (r : Shape) (hl : l.Pairwise (fun x y => x.2 + 8 ≤ y.2 ∨ y.2 + 8 ≤ x.2)) :
    (r.writes l).Pairwise (fun x y => x.1 + 8 ≤ y.1 ∨ y.1 + 8 ≤ x.1) := by
  rw [← List.zipIdx_map_fst 0 l, List.pairwise_map] at hl
  exact List.pairwise_map.2 hl

/-- Where its doublewords do not overlap, the record is in memory. -/
theorem Memory.readN_writes (m : Memory) (r : Shape) (hl : l.Pairwise (fun x y => x.2 + 8 ≤ y.2 ∨ y.2 + 8 ≤ x.2)) {k : Nat}
    {x : Acc × Nat} (hx : l[k]? = some x) : (m.writeDoubles (r.writes l)).readN x.2 8 = Shape.word r k :=
  m.readN_writeDoubles (r.writes_pairwise hl) (x.2, Shape.word r k) (r.mem_writes hx) (r.word_lt k)

/-- Doublewords stored in order. -/
theorem Performed.storeDoubles {m : Memory} {t : State} (hp : Performed s m t) (r : Shape) (va : Word) {l : List ((Acc × Nat) × Nat)}
    (hmem : ∀ x ∈ l, isMmio x.1.2 = false) :
    Performed s (m.writeDoubles (l.map (fun x => (x.1.2, Shape.word r x.2))))
      (l.foldl (fun u x =>
        u.storeAt s.cur (va + BitVec.ofNat 64 (8 * x.2)) (x.1.1.e.keyAt x.1.2) x.1.2 8 (Shape.word r x.2)) t) := by
  induction l generalizing m t with
  | nil => exact hp
  | cons x l ih =>
    obtain ⟨hx, hl⟩ := List.forall_mem_cons.1 hmem
    exact ih (hp.storeAt _ _ _ 8 _ hx) hl

/-- An aligned SHPST whose lines meet nothing more. -/
theorem execShpst_stores (hready : s.Ready (xs [b]) []) (halign : (s.me.xv b).toNat % 8 = 0) (hl : l ≠ [])
    (hclear : ∀ x ∈ l, s.Clear { x.1 with pa := x.2 } 8) (hmem : ∀ x ∈ l, isMmio x.2 = false)
    (hacc : s.recordAccess (s.me.xv b) .store = .ok l) :
    ∃ t, exec (.shpst b h) s = .next (t.advance 4) ∧ Performed s (s.mem.writeDoubles ((s.me.shape h).writes l)) t := by
  obtain ⟨u, hsame, hstate⟩ := State.recordAccess_state hacc
  have hstored := ((Performed.refl s).same hsame).storeDoubles (s.me.shape h) (s.me.xv b) (l := l.zipIdx)
    fun x hx => hmem x.1 (List.fst_mem_of_mem_zipIdx hx)
  refine ⟨_, ?_, hstored.touchAll l true⟩
  show execShpst b h s = _
  unfold execShpst
  refine (State.guarded_pass (by rw [hready]; simp [halign])).trans ?_
  rw [hacc]
  exact State.recordPaths_clear hl hstate hclear

/-- The record is in memory, each doubleword of the shape register at its address. -/
theorem execShpst_moves (hready : s.Ready (xs [b]) []) (halign : (s.me.xv b).toNat % 8 = 0)
    (hclear : ∀ x ∈ l, s.Clear { x.1 with pa := x.2 } 8) (hmem : ∀ x ∈ l, isMmio x.2 = false)
    (hacc : s.recordAccess (s.me.xv b) .store = .ok l) (hlen : l.length = 12)
    (hapart : l.Pairwise (fun x y => x.2 + 8 ≤ y.2 ∨ y.2 + 8 ≤ x.2)) :
    ∃ t, exec (.shpst b h) s = .next t ∧
      (∀ k, k < 12 → ∃ x, l[k]? = some x ∧ t.mem.readN x.2 8 = Shape.word (s.me.shape h) k) ∧
      (∀ z, (∀ x ∈ l, z < x.2 ∨ x.2 + 8 ≤ z) → t.mem.read z = s.mem.read z) ∧ t.me.pc = s.me.pc + 4 ∧ SameRegs s.me t.me := by
  have hl : l ≠ [] := List.ne_nil_of_length_pos (by omega)
  obtain ⟨t, hnext, hdone⟩ := execShpst_stores (h := h) hready halign hl hclear hmem hacc
  have hstored : (t.advance 4).mem = _ := hdone.mem
  refine ⟨_, hnext, fun k hk => ?_, fun z hz => ?_, hdone.advance⟩
  · have hx : l[k]? = some l[k] := List.getElem?_eq_getElem (hlen ▸ hk)
    rw [hstored]
    exact ⟨_, hx, Memory.readN_writes s.mem _ hapart hx⟩
  · rw [hstored]
    exact Memory.read_writeDoubles_outside s.mem (Shape.writes_outside _ hz)

/-! ### Misaligned addresses -/

theorem execShpld_misaligned (hready : s.Ready (xs [b]) []) (halign : (s.me.xv b).toNat % 8 ≠ 0) :
    exec (.shpld b h) s = .next (s.updMe (fun a => a.trap 4 (s.me.xv b) 0)) :=
  State.guarded_stop (st := .trap 4 (s.me.xv b)) (by rw [hready]; simp [halign])

theorem execShpst_misaligned (hready : s.Ready (xs [b]) []) (halign : (s.me.xv b).toNat % 8 ≠ 0) :
    exec (.shpst b h) s = .next (s.updMe (fun a => a.trap 6 (s.me.xv b) 0)) :=
  State.guarded_stop (st := .trap 6 (s.me.xv b)) (by rw [hready]; simp [halign])

/-! ### The obligation -/

/-- Settles O24: a transfer by the state its issue leaves, a record by what its twelve doublewords read or write. -/
theorem copiesIssue : Obligations.CopiesIssue := by
  unfold Obligations.CopiesIssue
  refine ⟨⟨?enters, ?record⟩, ⟨?moves, ?misaligned⟩⟩
  case enters =>
    intro s cpyb e k c b push pop h r dst src group hready hchecks hsrc hdst htoken hroom
    obtain ⟨x, hnext, hhart, hshape, hxdst, hxsrc, hpush, hpop, hcpyb, hxtoken, hfmt⟩ :=
      State.copy_enters (push := push) (pop := pop) (State.copyStops_pass hready hchecks hsrc hdst htoken hroom)
    obtain ⟨hqueue, hmem, htmem⟩ := s.copyIssued_leaves x
    obtain ⟨hpc, hx, hf, hv⟩ := s.copyIssued_goes x
    rw [Hart.marksDst, hshape, hxdst] at hv
    refine ⟨_, x, (exec_copy ..).trans hnext, hqueue, hhart, hshape, hxdst, hxsrc, hpush, hpop, hcpyb, hxtoken, hfmt, hmem, htmem, hpc,
      hx, hf, fun hkind => ?_, fun hkind => ?_, fun he => s.copyIssued_sb (hxtoken.trans (by rw [he]; rfl))⟩
    · rw [hv, if_neg hkind]
    · rw [hv, if_pos hkind]
      rfl
  case record =>
    intro s cpyb e k c b push pop h r hready hsrc hbad
    rw [exec_copy]
    exact State.guarded_stop (State.copyStops_record hready hsrc hbad)
  case moves =>
    intro s b h l va hready halign hlines
    have hclear : ∀ x ∈ l, s.Clear { x.1 with pa := x.2 } 8 := fun x hx => by
      obtain ⟨herror, hpath, hmiss, -⟩ := hlines x hx
      exact ⟨herror, hpath, hmiss⟩
    have hmem : ∀ x ∈ l, isMmio x.2 = false := fun x hx => by
      obtain ⟨-, -, -, hmem⟩ := hlines x hx
      exact hmem
    exact ⟨execShpld_moves hready halign hclear hmem, execShpst_moves hready halign hclear hmem⟩
  case misaligned => exact fun s b h hready halign => ⟨execShpld_misaligned hready halign, execShpst_misaligned hready halign⟩

end Sys2Proof.Machine
end

section
/-!
SUPPORT. The standard scalar instructions (R170, R217): integer results, jumps and branches.
-/
namespace Sys2Proof.Machine
open Sys2Proof.Claims

/-! ### Integer results (R217, R219) -/

/-- The low half of a shifted double word is the shifted low half. -/
theorem sext32_shiftLeft (u : Word) (n : Nat) : sext32 (u <<< n) = ((u.setWidth 32 : BitVec 32) <<< n).signExtend 64 := by
  unfold sext32
  congr 1
  rw [BitVec.setWidth_shiftLeft_of_le (by decide)]

/-- An operation with a register result writes the value of the standard. -/
theorem execScalarAlu_aluResult {s : State} {i : AluInstr} {src : List Reg} {d : Reg} {v : Word}
    (h : aluResult s.me i = some (src, d, v)) : execScalarAlu i s = s.fixedX src d v := by
  cases i with
  | rr op =>
    cases h
    cases op with
    | slt | min | max => simp [execScalarAlu, rrResult, BitVec.slt_iff_toInt_lt]
    | sltu | minu | maxu => simp [execScalarAlu, rrResult, BitVec.ult_iff_toNat_lt]
    | mulhu => exact congrArg (s.fixedX _ d) (BitVec.ofInt_natCast ..)
    | sllw => exact congrArg (s.fixedX _ d) (sext32_shiftLeft ..)
    | sh1add | sh2add | sh3add | sh1adduw | sh2adduw | sh3adduw =>
      simp only [execScalarAlu, rrResult, zext32, BitVec.shiftLeft_eq_mul_twoPow]
      rfl
    | _ => rfl
  | imm op =>
    cases h
    cases op with
    | slti => simp [execScalarAlu, immResult, BitVec.slt_iff_toInt_lt]
    | sltiu => simp [execScalarAlu, immResult, BitVec.ult_iff_toNat_lt]
    | _ => rfl
  | sh op | shw op =>
    cases h
    cases op <;> rfl
  | un | lui | auipc =>
    cases h
    rfl
  | _ => cases h

/-! ### Branches (R217) -/

/-- A branch is taken when its condition holds. -/
theorem branchTaken_iff (op : BrOp) (u v : Word) : branchTaken op u v = true ↔ match op with
    | .beq => u = v
    | .bne => u ≠ v
    | .blt => u.toInt < v.toInt
    | .bge => v.toInt ≤ u.toInt
    | .bltu => u.toNat < v.toNat
    | .bgeu => v.toNat ≤ u.toNat := by
  cases op <;> simp [branchTaken, BitVec.slt, BitVec.ult]

theorem State.updMe_congr {s : State} {f g : Hart → Hart} (h : f s.me = g s.me) : s.updMe f = s.updMe g := congrArg (s.setHart s.cur) h

/-! ### The obligation -/

/-- Settles O1: the model's value of each operation is the standard's, and a branch goes where its condition says. -/
theorem integerResultsAndControlFlow : Obligations.IntegerResultsAndControlFlow := by
  unfold Obligations.IntegerResultsAndControlFlow
  refine ⟨fun s i src d v hval hready => ?alu, fun s op x y off hready => ⟨fun htaken => ?taken, fun hnot => ?on⟩,
    fun s d off hready => State.guarded_ready hready, fun s d x i hready => State.guarded_ready hready⟩
  case alu => exact (execScalarAlu_aluResult hval).trans (State.guarded_ready hready)
  case taken =>
    have hcond := (branchTaken_iff op _ _).mpr htaken
    exact (State.guarded_ready hready).trans (congrArg _ (State.updMe_congr (if_pos hcond)))
  case on =>
    have hcond := mt (branchTaken_iff op _ _).mp hnot
    exact (State.guarded_ready hready).trans (congrArg _ (State.updMe_congr (if_neg hcond)))

end Sys2Proof.Machine
end

section
/-!
SUPPORT. Traps and returns (R181 to R185): the bits of sstatus, what an entry leaves, and the environment instructions; and what a standard
operation of fixed result cannot change.
-/
namespace Sys2Proof.Machine
open Sys2Proof.Claims

/-! ### Bits of sstatus (R184, R185, R217) -/

/-- An entry moves the mode into SPP and SIE into SPIE, and clears SIE. -/
theorem enterStatus_getLsbD (st : Word) (m : Mode) (k : Nat) : (enterStatus st m).getLsbD k =
    if k = 8 then decide (m = .s) else if k = 5 then st.getLsbD 1 else if k = 1 then false else st.getLsbD k := by
  unfold enterStatus
  simp only [withBit_get, Nat.reduceLT, bitOf]
  grind

/-- A return moves SPIE into SIE, sets SPIE and clears SPP. -/
theorem leaveStatus_getLsbD (st : Word) (k : Nat) : (leaveStatus st).getLsbD k =
    if k = 8 then false else if k = 5 then true else if k = 1 then st.getLsbD 5 else st.getLsbD k := by
  unfold leaveStatus
  simp only [withBit_get, Nat.reduceLT, bitOf]

/-! ### The environment instructions (R181, R185, R408) -/

theorem environmentForms (s : State) : exec .ebreak s = .next (s.updMe (fun a => a.trap 3 a.pc 0)) ∧
      exec .mret s = .next (s.updMe (fun a => a.trap 2 0x30200073 0)) ∧
      (s.me.mode = .u → exec .ecall s = .next (s.updMe (fun a => a.trap 8 0 0)) ∧
        exec .sret s = .next (s.updMe (fun a => a.trap 2 0x10200073 0)) ∧
        exec .wfi s = .next (s.updMe (fun a => a.trap 2 0x10500073 0))) := by
  refine ⟨rfl, rfl, fun hu => ⟨?_, ?_, ?_⟩⟩
  · simp only [exec, execEcall, hu]
    rfl
  · simp only [exec, execSret, hu]
    rfl
  · simp only [exec, execWfi, hu]
    rfl

/-- ECALL in S mode: a call of the list parks for Chinook, any other answers all ones. -/
theorem execEcall_supervisor {s : State} (hmode : s.me.mode = .s) (hready : s.Ready (xs [10, 11, 12, 13, 14, 15, 16, 17]) []) :
    exec .ecall s = if (s.me.xv 17).toNat < 4 then .next (s.updMe (fun a => a.parkFor .chinook s.time s.clk))
      else .next (s.updMe (fun a => (a.setX 10 (BitVec.allOnes 64)).advance 4)) := by
  simp only [exec, execEcall, hmode]
  rw [State.guarded_ready hready, callOf]
  by_cases hcall : (s.me.xv 17).toNat < 4
  · rw [if_pos hcall, if_pos hcall]
    rfl
  · rw [if_neg hcall, if_neg hcall]

theorem execSret_supervisor {s : State} (hmode : s.me.mode = .s) : exec .sret s = .next (s.updMe (fun a => a.sret)) := by
  simp only [exec, execSret, hmode]

theorem execWfi_supervisor {s : State} (hmode : s.me.mode = .s) :
    exec .wfi s = if s.sip s.cur = 0 then .next (s.updMe (fun a => a.parkFor .wfi s.time s.clk))
      else .next (s.updMe (fun a => a.advance 4)) := by
  simp only [exec, execWfi, hmode]
  rfl

/-! ### The obligation on traps and returns -/

/-- Settles O9: the environment instructions one by one, and what an entry leaves, with sstatus by its bits. -/
theorem trapsAndReturns : Obligations.TrapsAndReturns := by
  unfold Obligations.TrapsAndReturns
  refine ⟨⟨environmentForms, fun s hmode hready hcall => ?listed, fun s hmode hready hcall => ?unlisted, fun s hmode => ?sret,
    fun s hmode => ⟨fun hsip => ?goes, fun hsip => ?waits⟩⟩, fun a c v e he => ?trap, fun a c hc => ?interrupt⟩
  case listed => rw [execEcall_supervisor hmode hready, if_pos hcall]
  case unlisted => rw [execEcall_supervisor hmode hready, if_neg (Nat.not_lt.mpr hcall)]
  case sret =>
    refine ⟨leaveStatus s.me.csr.sstatus, leaveStatus_getLsbD _ 1, leaveStatus_getLsbD _ 5, leaveStatus_getLsbD _ 8,
      fun k h1 h5 h8 => ?_, ?_⟩
    · rw [leaveStatus_getLsbD, if_neg h8, if_neg h5, if_neg h1]
    · exact (execSret_supervisor hmode).trans (congrArg _ (State.updMe_congr rfl))
  case goes => rw [execWfi_supervisor hmode, if_neg hsip]
  case waits => rw [execWfi_supervisor hmode, if_pos hsip]
  case trap =>
    exact ⟨rfl, rfl, rfl, Nat.mod_eq_of_lt he, rfl, rfl, enterStatus_getLsbD _ _, rfl, rfl, rfl, rfl, rfl, rfl, rfl, rfl, rfl, rfl, rfl,
      rfl, rfl⟩
  case interrupt =>
    refine ⟨rfl, ?_, rfl, rfl, rfl, rfl, rfl, rfl, rfl⟩
    exact Nat.mod_eq_of_lt (by omega)

/-! ### What a fixed result leaves (R170, R181, R184) -/

/-- A hart after a standard operation of fixed result: it has gone on or waits, in its mode and with its CSRs, or it has trapped. -/
structure Hart.ScalarStep (a b : Hart) : Prop where
  vector : b.v = a.v ∧ b.p = a.p ∧ b.vl = a.vl ∧ b.vcfg = a.vcfg ∧ b.sb = a.sb
  csr : b.csr.stvec = a.csr.stvec ∧ b.csr.sscratch = a.csr.sscratch
  mode : (b.mode = a.mode ∧ b.csr = a.csr) ∨ (b.mode = .s ∧ b.csr.sepc = a.pc ∧ b.x = a.x ∧ b.f = a.f)

/-- An answer that leaves both memories and the other harts, and of the hart at issue what `Hart.ScalarStep` says. -/
structure State.ScalarStep (s t : State) : Prop where
  mem : t.mem = s.mem
  tmem : t.tmem = s.tmem
  others : ∀ h, h ≠ s.cur → t.hart h = s.hart h
  me : s.me.ScalarStep t.me

theorem Hart.ScalarStep.on {a b : Hart} (vector : b.v = a.v ∧ b.p = a.p ∧ b.vl = a.vl ∧ b.vcfg = a.vcfg ∧ b.sb = a.sb)
    (hmode : b.mode = a.mode) (hcsr : b.csr = a.csr) : a.ScalarStep b := ⟨vector, by simp [hcsr], .inl ⟨hmode, hcsr⟩⟩

theorem Hart.trap_scalarStep (a : Hart) (c : Nat) (v : Word) (e : Nat) : a.ScalarStep (a.trap c v e) :=
  ⟨⟨rfl, rfl, rfl, rfl, rfl⟩, ⟨rfl, rfl⟩, .inr ⟨rfl, rfl, rfl, rfl⟩⟩

theorem Hart.parkFor_scalarStep (a : Hart) (p : Park) (now clk : Nat) : a.ScalarStep (a.parkFor p now clk) := .on (by simp) (by simp) (by simp)

theorem State.updMe_scalarStep {s : State} {f : Hart → Hart} (h : s.me.ScalarStep (f s.me)) : s.ScalarStep (s.updMe f) where
  mem := rfl
  tmem := rfl
  others _ hne := State.hart_updHart_other _ _ _ _ hne
  me := by rwa [State.me_updMe]

theorem State.updMe_after {s u : State} {f : Hart → Hart} (hmem : u.mem = s.mem) (htmem : u.tmem = s.tmem) (hharts : u.harts = s.harts)
    (hcur : u.cur = s.cur) (h : s.me.ScalarStep (f s.me)) : s.ScalarStep (u.updMe f) := by
  have hhart : u.hart = s.hart := funext fun h => by rw [State.hart, hharts, State.hart]
  have hme : u.me = s.me := by rw [State.me, State.me, hcur, hhart]
  refine ⟨hmem, htmem, fun j hne => ?_, by rwa [State.me_updMe, hme]⟩
  exact (State.hart_updHart_other _ _ _ _ (hcur ▸ hne)).trans (congrFun hhart j)

theorem State.sendSnoop_harts (s : State) (who line : Nat) (inv : Bool) : (s.sendSnoop who line inv).mem = s.mem ∧
    (s.sendSnoop who line inv).tmem = s.tmem ∧ (s.sendSnoop who line inv).harts = s.harts ∧ (s.sendSnoop who line inv).cur = s.cur := by
  unfold State.sendSnoop
  split <;> exact ⟨rfl, rfl, rfl, rfl⟩

/-- The message of a park tells no hart and writes no memory. -/
theorem State.parkMsg_harts (s : State) (p : Park) : (s.parkMsg p).mem = s.mem ∧ (s.parkMsg p).tmem = s.tmem ∧
    (s.parkMsg p).harts = s.harts ∧ (s.parkMsg p).cur = s.cur := by
  unfold State.parkMsg
  split
  · split <;> exact ⟨rfl, rfl, rfl, rfl⟩
  · exact State.sendSnoop_harts ..
  · exact ⟨rfl, rfl, rfl, rfl⟩

theorem State.tell_harts (s : State) (h c : Nat) (v : Word) (w : Why) : (s.tell h c v w).mem = s.mem ∧ (s.tell h c v w).tmem = s.tmem ∧
    (s.tell h c v w).harts = s.harts ∧ (s.tell h c v w).cur = s.cur := by
  unfold State.tell
  split
  · exact ⟨rfl, rfl, rfl, rfl⟩
  · exact ⟨rfl, rfl, rfl, rfl⟩
  · unfold State.logUse State.logError
    dsimp only
    split <;> exact ⟨rfl, rfl, rfl, rfl⟩

/-- Every stop of an instruction is a scalar step: a park, or a trap at its own address. -/
theorem State.stop_scalarStep {s t : State} {st : Stop} (h : s.stop st = .next t) : s.ScalarStep t := by
  cases st with
  | park p =>
    cases h
    obtain ⟨hmem, htmem, hharts, hcur⟩ := s.parkMsg_harts p
    exact State.updMe_after hmem htmem hharts hcur (Hart.parkFor_scalarStep ..)
  | trap | trapAt =>
    cases h
    exact State.updMe_scalarStep (Hart.trap_scalarStep ..)
  | report c v e w =>
    cases h
    obtain ⟨hmem, htmem, hharts, hcur⟩ := s.tell_harts s.cur c v w
    exact State.updMe_after hmem htmem hharts hcur (Hart.trap_scalarStep ..)
  | owed d e =>
    cases h
    refine ⟨rfl, rfl, fun j hne => ?_, ?_⟩
    · exact (State.hart_updHart_other _ _ _ _ hne).trans (State.hart_updHart_other _ _ _ _ hne)
    · rw [State.me_updMe, State.me_updMe]
      exact ⟨⟨rfl, rfl, rfl, rfl, rfl⟩, ⟨rfl, rfl⟩, .inr ⟨rfl, rfl, rfl, rfl⟩⟩

theorem State.guarded_scalarStep {s t : State} {l : List (Option Stop)} {f : Hart → Hart} (hf : s.me.ScalarStep (f s.me))
    (h : s.guarded l (.next (s.updMe f)) = .next t) : s.ScalarStep t := by
  rcases State.guarded_cases h with ⟨st, -, hst⟩ | ⟨-, hgo⟩
  · exact State.stop_scalarStep hst.symm
  · cases hgo
    exact State.updMe_scalarStep hf

section
variable {s t : State}

theorem State.fixedX_scalarStep {src : List Reg} {d : Reg} {v : Word} (h : s.fixedX src d v = .next t) : s.ScalarStep t :=
  State.guarded_scalarStep (.on (by simp) (by simp) (by simp)) h

theorem State.fixedF_scalarStep {src : List (RFile × Nat)} {d : Reg} {r : Word × Flags} (h : s.fixedF src d r = .next t) :
    s.ScalarStep t := State.guarded_scalarStep (.on ⟨rfl, rfl, rfl, rfl, rfl⟩ rfl rfl) h

theorem State.fixedXF_scalarStep {src : List (RFile × Nat)} {d : Reg} {r : Word × Flags} (h : s.fixedXF src d r = .next t) :
    s.ScalarStep t := State.guarded_scalarStep (.on (by simp [Hart.orFFlags]) (by simp [Hart.orFFlags]) (by simp [Hart.orFFlags])) h

theorem State.jump_scalarStep {src : List Reg} {d : Reg} {v : Word} (h : s.jump src d v = .next t) : s.ScalarStep t :=
  State.guarded_scalarStep (.on (by simp) (by simp) (by simp)) h

theorem State.rounded_scalarStep {i : Instr} {rm : BitVec 3} {k : RMode → Res} (hk : ∀ m, k m = .next t → s.ScalarStep t)
    (h : s.rounded i rm k = .next t) : s.ScalarStep t := by
  unfold State.rounded at h
  split at h
  · cases h
    exact State.updMe_scalarStep (Hart.trap_scalarStep ..)
  · exact hk _ h

theorem execScalarAlu_scalarStep {i : AluInstr} (h : execScalarAlu i s = .next t) : s.ScalarStep t := by
  cases i with
  | rr | un | imm | sh | shw | lui | auipc => exact State.fixedX_scalarStep h
  | branch =>
    refine State.guarded_scalarStep ?_ h
    split <;> exact .on ⟨rfl, rfl, rfl, rfl, rfl⟩ rfl rfl
  | jal | jalr => exact State.jump_scalarStep h
  | farith | ffused | itof | fcvt => exact State.rounded_scalarStep (fun _ => State.fixedF_scalarStep) h
  | ftoi => exact State.rounded_scalarStep (fun _ => State.fixedXF_scalarStep) h
  | fpair | fmvf => exact State.fixedF_scalarStep h
  | fcmp | fmvx | fclass => exact State.fixedXF_scalarStep h

end

/-- Settles O59: a scalar step is a stop of its check, or the write of one register. -/
theorem scalarFrame : Obligations.ScalarFrame := by
  intro s t a h
  obtain ⟨hmem, htmem, hothers, ⟨hv, hp, hvl, hvcfg, hsb⟩, ⟨hstvec, hsscratch⟩, hmode⟩ := execScalarAlu_scalarStep h
  exact ⟨hmem, htmem, hothers, hv, hp, hvl, hvcfg, hsb, hstvec, hsscratch, hmode⟩

end Sys2Proof.Machine
end

section
/-!
SUPPORT. Every instruction and every step answers a next state (R181, R183; log 8): one lemma for each operation that several meanings
share, then the meanings by their last operation.
-/
namespace Sys2Proof.Machine
open Sys2Proof.Claims

/-- What a meaning answers is a next state. -/
def Answers (r : Res) : Prop := ∃ t, r = .next t

section
variable {s t : State} {go : Res}

theorem Answers.next : Answers (.next s) := ⟨s, rfl⟩

theorem Answers.ite {c : Prop} [Decidable c] {a b : Res} (ha : Answers a) (hb : Answers b) : Answers (if c then a else b) := by
  split <;> assumption

/-! ### Traps, parks and checks (R172, R175, R184) -/

theorem trap_answers {cause : Nat} {tval : Word} : Answers (s.trap cause tval) := .next
theorem trapAt_answers {cause : Nat} {tval : Word} {e : Nat} : Answers (s.trapAt cause tval e) := .next
theorem illegal_answers {i : Instr} : Answers (s.illegal i) := .next
theorem parks_answers {p : Park} : Answers (s.parks p) := .next
theorem stop_answers {st : Stop} : Answers (s.stop st) := State.stop_next s st

theorem Answers.guarded {l : List (Option Stop)} (h : Answers go) : Answers (s.guarded l go) := State.guarded_next h

theorem parksFor_answers {dst : List (RFile × Nat)} {p : Park} : Answers (s.parksFor dst p) := .ite .next .next

theorem stopFor_answers {dst : List (RFile × Nat)} {st : Stop} : Answers (s.stopFor dst st) := by
  unfold State.stopFor
  split
  · exact parksFor_answers
  · exact stop_answers

theorem Answers.reporting {d : Option Deferred} (h : Answers go) : Answers (s.reporting d go) := by
  unfold State.reporting
  split
  · exact stop_answers
  · exact h

theorem Answers.paths {c : Acc} {n : Nat} (h : Answers go) : Answers (s.paths c n go) := by
  unfold State.paths
  split
  · exact stop_answers
  · exact h

theorem Answers.rounded {i : Instr} {rm : BitVec 3} {k : RMode → Res} (h : ∀ m, Answers (k m)) : Answers (s.rounded i rm k) := by
  unfold State.rounded
  split
  · exact illegal_answers
  · exact h _

theorem Answers.vguard {r : VReq} (h : Answers go) : Answers (s.vguard r go) := by
  unfold State.vguard
  dsimp only
  split
  · exact stop_answers
  · split
    · exact stop_answers
    · exact h.guarded

theorem vgo_answers {r : VReq} : Answers (s.vgo r) := .vguard (.guarded .next)

theorem vpred_answers {i : Instr} {src dst : List (RFile × Nat)} {op : VOp} : Answers (s.vpred i src dst op) := vgo_answers

theorem writeStep_answers {n : Nat} : Answers (s.writeStep n) := by
  unfold State.writeStep
  split
  · exact .next
  · exact .ite .next .next

/-! ### Accesses of memory, tiles, records and objects -/

theorem owedRead_answers {c : Acc} {file : RFile} {d : Reg} {n : Nat} {va : Word} {v : Nat → Word} :
    Answers (s.owedRead c file d n va v) := .paths .next

theorem doneWrite_answers {c : Acc} {n : Nat} {va : Word} {v : Nat} : Answers (s.doneWrite c n va v) := .paths .next

theorem Answers.tileAccess {e : BitVec 4} {hw rc : Word} {k : TileRef → Nat → Nat → Res} (h : ∀ t i w, Answers (k t i w)) :
    Answers (s.tileAccess e hw rc k) := by
  unfold State.tileAccess
  dsimp only
  split
  · exact trap_answers
  · exact .ite trap_answers (.ite (h _ _ _) parks_answers)

theorem Answers.onObjectFor {hold : List (RFile × Nat)} {o : Reg} {src dst : List Reg} {release frozenOk : Bool} {kinds : List Nat}
    {k : Acc → Obj → Word → Res} (h : ∀ c o va, Answers (k c o va)) :
    Answers (s.onObjectFor hold o src dst release frozenOk kinds k) := by
  unfold State.onObjectFor
  refine .guarded (.reporting ?_)
  split
  · exact stopFor_answers
  · split
    · exact stopFor_answers
    · exact .ite (h _ _ _) trap_answers

theorem Answers.onObject {o : Reg} {src dst : List Reg} {release frozenOk : Bool} {kinds : List Nat} {k : Acc → Obj → Word → Res}
    (h : ∀ c o va, Answers (k c o va)) : Answers (s.onObject o src dst release frozenOk kinds k) := .onObjectFor h

theorem Answers.releasing {sc : BitVec 3} {k : State → Res} (h : ∀ v, Answers (k v)) : Answers (s.releasing sc k t) :=
  .ite (h _) (.guarded (h _))

theorem Answers.asHart {h : Nat} {f : State → Res} (hf : ∀ v, Answers (f v)) : Answers (s.asHart h f) := by
  obtain ⟨v, hv⟩ := hf { s with cur := h }
  unfold State.asHart
  rw [hv]
  exact .next

theorem acqStep_answers {b : Reg} : Answers (s.acqStep b) :=
  .onObject fun _ _ _ => .ite trap_answers (.ite .next (.ite .next .next))

theorem Answers.recordPaths {l : List (Acc × Nat)} {k : State → Res} (h : ∀ v, Answers (k v)) : Answers (s.recordPaths l k) := by
  unfold State.recordPaths
  split
  · exact stop_answers
  · split
    · exact .next
    · exact .guarded (h _)

theorem Answers.recordLine {dst : List (RFile × Nat)} {va : Word} {k : List Byte → State → Res} (h : ∀ l v, Answers (k l v)) :
    Answers (s.recordLine dst va k) := by
  unfold State.recordLine
  dsimp only
  split
  · exact stopFor_answers
  · split
    · exact stopFor_answers
    · exact h _ _

theorem Answers.readLine {va base : Word} {k : List Byte → State → Res} (h : ∀ l v, Answers (k l v)) :
    Answers (s.readLine va base k) := by
  unfold State.readLine
  split
  · exact trap_answers
  · exact stop_answers
  · exact .paths (.ite stop_answers (h _ _))

theorem Answers.enqueueSteps {a b : Reg} {dst : List Reg} {denied : Res} {k : TaskDesc → State → Res} (hd : Answers denied)
    (h : ∀ d v, Answers (k d v)) : Answers (s.enqueueSteps a b dst denied k) :=
  .guarded (.ite hd (.readLine fun _ _ => .ite trap_answers (h _ _)))

theorem fences_answers {release acquire strong : Bool} : Answers (s.fences release acquire strong) := .reporting (.guarded .next)

theorem waitTokens_answers {m : BitVec 8} : Answers (s.waitTokens m) := by
  unfold State.waitTokens
  split <;> exact .next

/-! ### Vector memory accesses, matrix commands and graphics -/

theorem loadGo_answers {d g w len cp : Nat} {ff : Bool} {buf : Tab Byte} {els : Els} : Answers (s.loadGo d g w len cp ff buf els) := by
  unfold State.loadGo
  dsimp only
  split
  · exact trapAt_answers
  · split
    · exact parksFor_answers
    · split
      · exact parksFor_answers
      · split
        · exact .next
        · split <;> split
          · exact .next
          · exact stop_answers
          · exact .next
          · exact stop_answers

theorem vload_answers {i : Instr} {bad : Bool} {fmts : List Nat} {w cp : Nat} {d : Reg} {idx : List (Nat × Nat)}
    {src : List (RFile × Nat)} {rec_ : Option Stop} {ff : Bool} {buf : Tab Byte} {els : Els} {after : Hart → Hart} :
    Answers (s.vload i bad fmts w cp d idx src rec_ ff buf els after) := by
  unfold State.vload
  refine .vguard ?_
  split
  · exact stopFor_answers
  · exact loadGo_answers

theorem storeGo_answers {r : VReq} {w cp : Nat} {amo : Bool} {els : Els} {op : List QEl → VOp} :
    Answers (s.storeGo r w cp amo els op) := by
  unfold State.storeGo
  dsimp only
  split
  · exact trapAt_answers
  · split
    · exact parksFor_answers
    · split
      · exact .next
      · exact stop_answers

theorem vstore_answers {i : Instr} {bad : Bool} {fmts : List Nat} {w bits p cp : Nat} {d : Reg} {idx : List (Nat × Nat)}
    {src : List (RFile × Nat)} {els : Els} : Answers (s.vstore i bad fmts w bits p cp d idx src els) :=
  .vguard (.guarded storeGo_answers)

theorem vamo_answers {i : Instr} {op : Nat} {v : Reg} {p w : Nat} {a d : Reg} : Answers (s.vamo i op v p w a d) := by
  unfold State.vamo
  refine .vguard ?_
  split
  · exact stopFor_answers
  · exact storeGo_answers

theorem mgo_answers {r : MReq} {enter : Quad → Quad} : Answers (s.mgo r enter) := .ite .next (.guarded (.reporting (.guarded .next)))

theorem Answers.graphic {i : Instr} {bad : Bool} {pre : List (Option Stop)} {src dst : List (RFile × Nat)} {rd wr : List Nat}
    (h : Answers go) : Answers (s.graphic i bad pre src dst rd wr go) := by
  unfold State.graphic
  refine .guarded (.vguard ?_)
  split
  · exact stopFor_answers
  · exact h

theorem drawn_answers {f : Hart → Hart} : Answers (s.drawn f) := .next

theorem sample_answers {i : Instr} {given : Bool} {p : Nat} {x d : Reg} : Answers (s.sample i given p x d) := by
  unfold State.sample
  dsimp only
  refine .graphic (.guarded ?_)
  split
  · split
    · exact drawn_answers
    · exact parksFor_answers
  · exact parksFor_answers
  · exact stop_answers

theorem commitBlend_answers {pa key : Nat} : Answers (s.commitBlend pa key) := .ite .next (.ite .next .next)

theorem blendGo_answers {r : List Byte} {x : Word} {v p : Nat} : Answers (s.blendGo r x v p) := by
  unfold State.blendGo
  dsimp only
  split
  · exact trapAt_answers
  · split
    · exact stop_answers
    · exact .guarded parks_answers
    · exact .next

/-! ### Scalar instructions -/

theorem execScalarAlu_answers {i : AluInstr} : Answers (execScalarAlu i s) := by
  unfold execScalarAlu
  dsimp only
  split
  case h_11 | h_12 | h_15 | h_16 | h_17 => exact .rounded fun _ => .guarded .next
  all_goals exact .guarded .next

theorem execSfenceVma_answers {b a : Reg} : Answers (execSfenceVma b a s) :=
  .ite illegal_answers (.guarded (.ite parks_answers (.ite .next parks_answers)))

theorem execEcall_answers : Answers (execEcall s) := by
  unfold execEcall
  split
  · exact trap_answers
  · refine .guarded ?_
    split
    · exact parks_answers
    · exact .next

theorem execSret_answers : Answers (execSret s) := by
  unfold execSret
  split
  · exact illegal_answers
  · exact .next

theorem execWfi_answers : Answers (execWfi s) := by
  unfold execWfi
  split
  · exact illegal_answers
  · exact .ite parks_answers .next

theorem execCsrAccess_answers {op : CsrOp} {imm : Bool} {csr : BitVec 12} {d a : Reg} : Answers (execCsrAccess op imm csr d a s) := by
  unfold execCsrAccess
  dsimp only
  split
  · exact illegal_answers
  · exact .ite illegal_answers (.guarded .next)

theorem execScalarLoad_answers {op : LoadOp} {d a : Reg} {imm : BitVec 12} : Answers (execScalarLoad op d a imm s) := by
  refine .guarded ?_
  split
  · exact stop_answers
  · exact owedRead_answers

theorem execScalarStore_answers {op : StoreOp} {a b : Reg} {imm : BitVec 12} : Answers (execScalarStore op a b imm s) := by
  refine .guarded ?_
  split
  · exact stop_answers
  · exact doneWrite_answers

theorem execAmo_answers {op : AmoOp} {dbl aq rl : Bool} {d a b : Reg} : Answers (execAmo op dbl aq rl d a b s) := by
  refine .guarded ?_
  split
  · exact stop_answers
  · exact .paths (.guarded .next)

theorem execLr_answers {dbl aq rl : Bool} {d a : Reg} : Answers (execLr dbl aq rl d a s) := by
  refine .guarded ?_
  split
  · exact stop_answers
  · exact .paths (.guarded .next)

theorem execSc_answers {dbl aq rl : Bool} {d a b : Reg} : Answers (execSc dbl aq rl d a b s) := by
  refine .guarded ?_
  split
  · exact stop_answers
  · exact .paths (.guarded .next)

theorem lds_answers {acq : Bool} {z : BitVec 2} {b d : Reg} : Answers (s.lds acq z b d) := by
  refine .guarded ?_
  split
  · exact stop_answers
  · exact owedRead_answers

theorem sts_answers {rel : Bool} {sc : BitVec 3} {v b : Reg} {z : BitVec 2} : Answers (s.sts rel sc v b z) := by
  refine .guarded (.reporting ?_)
  split
  · exact stop_answers
  · exact .guarded doneWrite_answers

/-! ### Instructions of tasks, tiles, objects, ranges and groups -/

theorem execTenqt_answers {u t : Bool} {b a d : Reg} : Answers (execTenqt u t b a d s) := by
  unfold execTenqt
  dsimp only
  refine .enqueueSteps .next fun _ _ => ?_
  split <;> exact .next

theorem execKlaunch_answers {t : Bool} {a d : Reg} : Answers (execKlaunch t a d s) := by
  refine .guarded (.readLine fun _ _ => .readLine fun _ _ => ?_)
  dsimp only
  refine .ite trap_answers (.ite .next ?_)
  split <;> exact .next

theorem execTicket_answers {t : Bool} {a d : Reg} : Answers (execTicket t a d s) := by
  refine .guarded ?_
  split
  · exact stop_answers
  · exact .paths .next

theorem execBind_answers {c b a : Reg} : Answers (execBind c b a s) := by
  refine .onObject fun _ _ _ => .ite trap_answers (.ite .next ?_)
  split
  · exact trap_answers
  · exact .next

theorem execUnbind_answers {b a : Reg} : Answers (execUnbind b a s) := by
  refine .onObject fun _ _ _ => ?_
  split <;> exact .next

theorem execTryacq_answers {sc : BitVec 3} {b d : Reg} : Answers (execTryacq sc b d s) :=
  .onObjectFor fun _ _ _ => .ite trap_answers (.ite .next .next)

theorem execRel_answers {sc : BitVec 3} {b : Reg} : Answers (execRel sc b s) :=
  .onObject fun _ _ _ => .ite trap_answers (.releasing fun _ => .next)

theorem execArrive_answers {sc : BitVec 3} {b : Reg} : Answers (execArrive sc b s) := .onObject fun _ _ _ => .releasing fun _ => .next

theorem execWaitph_answers {sc : BitVec 3} {c b : Reg} : Answers (execWaitph sc c b s) :=
  .ite .next (.onObject fun _ _ _ => .ite .next .next)

theorem execTestph_answers {sc : BitVec 3} {c b d : Reg} : Answers (execTestph sc c b d s) := .onObject fun _ _ _ => .ite .next .next

theorem execShpld_answers {b : Reg} {h : BitVec 3} : Answers (execShpld b h s) := by
  refine .guarded ?_
  split
  · exact stop_answers
  · refine .recordPaths fun _ => ?_
    split
    · exact stop_answers
    · exact .next

theorem execShpst_answers {b : Reg} {h : BitVec 3} : Answers (execShpst b h s) := by
  refine .guarded ?_
  split
  · exact stop_answers
  · exact .recordPaths fun _ => .next

theorem talloc_answers {i : Instr} {zero : Bool} {et : BitVec 4} {sp keep : Bool} {c b d : Reg} :
    Answers (s.talloc i zero et sp keep c b d) := by
  unfold State.talloc
  dsimp only
  split
  · exact parks_answers
  · refine .guarded ?_
    split
    · exact .next
    · refine .ite .next ?_
      split <;> exact .next

theorem execTfree_answers {b : Reg} : Answers (execTfree b s) := by
  refine .guarded ?_
  split
  · exact trap_answers
  · exact .guarded .next

theorem groupLoad_answers {vec e : Bool} {y : BitVec 3} {c b a : Reg} : Answers (s.groupLoad vec e y c b a) := by
  refine .ite .next (.guarded ?_)
  split
  · exact stopFor_answers
  · exact .guarded parksFor_answers

theorem freezeIssue_answers {thaw e : Bool} {y : BitVec 3} {c b a : Reg} : Answers (s.freezeIssue thaw e y c b a) := by
  refine .ite .next (.guarded ?_)
  split
  · exact stop_answers
  · exact .guarded .next

theorem execTexit_answers : Answers (execTexit s) := by
  refine .reporting (.guarded (.reporting ?_))
  split
  · exact .next
  · exact .guarded .next

theorem execTyield_answers : Answers (execTyield s) := by
  refine .guarded ?_
  split
  · exact .next
  · dsimp only
    split <;> exact .next

theorem execBlendc_answers {p : BitVec 3} {x d : Reg} : Answers (execBlendc p x d s) := by
  unfold execBlendc
  dsimp only
  split
  · exact commitBlend_answers
  · exact .graphic (.guarded (.recordLine fun _ _ => blendGo_answers))

theorem pgbias_answers {host : Bool} {i : Instr} {e : Bool} {y : BitVec 3} {a : Reg} : Answers (s.pgbias host i e y a) := by
  unfold State.pgbias
  dsimp only
  split
  · exact illegal_answers
  · refine .ite .next (.guarded ?_)
    split
    case h_4 => exact .guarded (.ite .next (.guarded .next))
    all_goals exact stop_answers

theorem execAcqRetry_answers : Answers (execAcqRetry s) := by
  unfold execAcqRetry
  split
  · split
    · exact .asHart fun _ => acqStep_answers
    · exact .next
  · exact .next

/-! ### Steps of other agents (log 8) -/

theorem execInterruptEntry_answers : Answers (execInterruptEntry s) := by
  unfold execInterruptEntry
  extract_lets
  repeat' split
  all_goals exact .next

theorem execLateResultLand_answers : Answers (execLateResultLand s) := by
  unfold execLateResultLand
  extract_lets
  repeat' split
  all_goals exact .next

theorem execRemoteWriteLand_answers : Answers (execRemoteWriteLand s) := by
  unfold execRemoteWriteLand
  dsimp only
  repeat' split
  all_goals exact .next

theorem execPresenceTimeout_answers : Answers (execPresenceTimeout s) := by
  unfold execPresenceTimeout
  extract_lets
  repeat' split
  all_goals exact .next

theorem execVectorQueueExecute_answers : Answers (execVectorQueueExecute s) := by
  unfold execVectorQueueExecute
  extract_lets
  repeat' split
  all_goals exact .next

theorem execMatrixQueueExecute_answers : Answers (execMatrixQueueExecute s) := by
  unfold execMatrixQueueExecute
  extract_lets
  split <;> exact .next

theorem execDrainComplete_answers : Answers (execDrainComplete s) := by
  unfold execDrainComplete
  extract_lets
  repeat' split
  all_goals exact .next

theorem execFifoHoldExpiry_answers : Answers (execFifoHoldExpiry s) := by
  unfold execFifoHoldExpiry
  extract_lets
  repeat' split
  all_goals exact .next

theorem execPageWalk_answers : Answers (execPageWalk s) := by
  unfold execPageWalk
  extract_lets
  repeat' split
  all_goals exact .next

theorem execChinookAnswer_answers : Answers (execChinookAnswer s) := by
  unfold execChinookAnswer
  split <;> exact .next

theorem execPartitionMissTimeout_answers : Answers (execPartitionMissTimeout s) := by
  unfold execPartitionMissTimeout
  repeat' split
  all_goals exact .next

theorem execShootdownAck_answers : Answers (execShootdownAck s) := by
  unfold execShootdownAck
  dsimp only
  repeat' split
  all_goals exact .next

theorem execChinookInvalidate_answers : Answers (execChinookInvalidate s) := by
  unfold execChinookInvalidate
  extract_lets
  repeat' split
  all_goals exact .next

theorem execHomeSliceRequest_answers : Answers (execHomeSliceRequest s) := by
  unfold execHomeSliceRequest
  extract_lets
  split <;> exact .next

theorem execVictimOffer_answers : Answers (execVictimOffer s) := by
  unfold execVictimOffer
  repeat' split
  all_goals exact .next

theorem execWriteBackArrival_answers : Answers (execWriteBackArrival s) := by
  unfold execWriteBackArrival
  split <;> exact .next

theorem execWbdWrite_answers : Answers (execWbdWrite s) := by
  unfold execWbdWrite
  split <;> exact .next

theorem execAgentRejoin_answers : Answers (execAgentRejoin s) := by
  unfold execAgentRejoin
  split <;> exact .next

theorem execRoleChangeDone_answers : Answers (execRoleChangeDone s) := by
  unfold execRoleChangeDone
  split <;> exact .next

theorem execGroupRequestArrive_answers : Answers (execGroupRequestArrive s) := by
  unfold execGroupRequestArrive
  dsimp only
  repeat' split
  all_goals exact .next

theorem execGroupHoldTimeout_answers : Answers (execGroupHoldTimeout s) := by
  unfold execGroupHoldTimeout
  repeat' split
  all_goals exact .next

theorem execGroupFillLand_answers : Answers (execGroupFillLand s) := by
  unfold execGroupFillLand
  split <;> exact .next

theorem execFreezeComplete_answers : Answers (execFreezeComplete s) := by
  unfold execFreezeComplete
  dsimp only
  repeat' split
  all_goals exact .next

theorem execThawComplete_answers : Answers (execThawComplete s) := by
  unfold execThawComplete
  dsimp only
  repeat' split
  all_goals exact .next

theorem execPeerInvalidateTimeout_answers : Answers (execPeerInvalidateTimeout s) := by
  unfold execPeerInvalidateTimeout
  repeat' split
  all_goals exact .next

theorem execCopyAdmit_answers : Answers (execCopyAdmit s) := by
  unfold execCopyAdmit
  extract_lets
  repeat' split
  all_goals exact .next

theorem execCopyRunEmit_answers : Answers (execCopyRunEmit s) := by
  unfold execCopyRunEmit
  dsimp only
  repeat' split
  all_goals exact .next

theorem execCopyLinePerformed_answers : Answers (execCopyLinePerformed s) := by
  unfold execCopyLinePerformed
  dsimp only
  repeat' split
  all_goals exact .next

theorem execCopyComplete_answers : Answers (execCopyComplete s) := by
  unfold execCopyComplete
  extract_lets
  repeat' split
  all_goals exact .next

theorem execSlidePrefetch_answers : Answers (execSlidePrefetch s) := by
  unfold execSlidePrefetch
  extract_lets
  split <;> exact .next

theorem execEnqueueRetry_answers : Answers (execEnqueueRetry s) := by
  unfold execEnqueueRetry
  repeat' split
  all_goals exact .next

theorem execFilterTokenAccrue_answers : Answers (execFilterTokenAccrue s) := by
  unfold execFilterTokenAccrue
  extract_lets
  repeat' split
  all_goals exact .next

theorem execTaskBind_answers : Answers (execTaskBind s) := by
  unfold execTaskBind
  extract_lets
  repeat' split
  all_goals exact .next

theorem execTaskPreload_answers : Answers (execTaskPreload s) := by
  unfold execTaskPreload
  dsimp only
  repeat' split
  all_goals exact .next

theorem execTaskAgeing_answers : Answers (execTaskAgeing s) := by
  unfold execTaskAgeing
  extract_lets
  repeat' split
  all_goals exact .next

theorem execUrgentEvict_answers : Answers (execUrgentEvict s) := by
  unfold execUrgentEvict
  dsimp only
  repeat' split
  all_goals exact .next

theorem execPortGrant_answers : Answers (execPortGrant s) := by
  unfold execPortGrant
  dsimp only
  repeat' split
  all_goals exact .next

theorem execPartitionResume_answers : Answers (execPartitionResume s) := by
  unfold execPartitionResume
  extract_lets
  split <;> exact .next

theorem execQuadReassign_answers : Answers (execQuadReassign s) := by
  unfold execQuadReassign
  extract_lets
  split <;> exact .next

theorem execRetireCall_answers : Answers (execRetireCall s) := by
  unfold execRetireCall
  extract_lets
  repeat' split
  all_goals exact .next

theorem execMistralPeriod_answers : Answers (execMistralPeriod s) := by
  unfold execMistralPeriod
  split <;> exact .next

theorem execRailRaiseDone_answers : Answers (execRailRaiseDone s) := by
  unfold execRailRaiseDone
  extract_lets
  repeat' split
  all_goals exact .next

theorem execSensorSample_answers : Answers (execSensorSample s) := by
  unfold execSensorSample
  extract_lets
  split <;> exact .next

theorem execHostMemRead_answers : Answers (execHostMemRead s) := by
  unfold execHostMemRead
  split <;> exact .next

theorem execHostMemWrite_answers : Answers (execHostMemWrite s) := by
  unfold execHostMemWrite
  split <;> exact .next

theorem execBisnpResponse_answers : Answers (execBisnpResponse s) := by
  unfold execBisnpResponse
  extract_lets
  repeat' split
  all_goals exact .next

theorem execBiasFlipComplete_answers : Answers (execBiasFlipComplete s) := by
  unfold execBiasFlipComplete
  repeat' split
  all_goals exact .next

theorem execHostSnoop_answers : Answers (execHostSnoop s) := by
  unfold execHostSnoop
  repeat' split
  all_goals exact .next

theorem execBlendcQueueLimit_answers : Answers (execBlendcQueueLimit s) := by
  unfold execBlendcQueueLimit
  extract_lets
  repeat' split
  all_goals exact .next

theorem execMemoryFillReturn_answers : Answers (execMemoryFillReturn s) := by
  unfold execMemoryFillReturn
  extract_lets
  repeat' split
  all_goals exact .next

theorem execVfReset_answers : Answers (execVfReset s) := by
  unfold execVfReset
  extract_lets
  repeat' split
  all_goals exact .next

end

/-! ### Every instruction -/

theorem exec_answers (i : Instr) (s : State) : Answers (exec i s) := by
  cases i with
  | scalarAlu => exact execScalarAlu_answers
  | integerDivide | take | pwhint => exact .guarded .next
  | fpDivideSqrt => exact .rounded fun _ => .guarded .next
  | scalarLoad => exact execScalarLoad_answers
  | scalarStore => exact execScalarStore_answers
  | amo => exact execAmo_answers
  | lr => exact execLr_answers
  | sc => exact execSc_answers
  | fence | fenceTso | fenceSAcq | fenceSRel | fenceSAr => exact fences_answers
  | sfenceVma => exact execSfenceVma_answers
  | csrAccess => exact execCsrAccess_answers
  | takingAdd | takingSub | takingSll | takingSlt | takingSltu | takingXor | takingSrl | takingSra | takingOr | takingAnd
  | takingAddw | takingSubw | takingSllw | takingSrlw | takingSraw | takingMul | takingMulh | takingMulhu | takingMulw | takingMin
  | takingMax | takingMinu | takingMaxu | bfx | bfxs => exact .guarded .next
  | bfi => exact .guarded (.guarded .next)
  | putx => exact .ite .next (.ite illegal_answers (.guarded parks_answers))
  | prempty | prtest => exact .ite illegal_answers (.guarded .next)
  | vidxrd | vidxwr => exact .guarded vgo_answers
  | vpush => exact .ite .next (.guarded (.vguard (.guarded parks_answers)))
  | tenq => exact .ite .next (.enqueueSteps trap_answers fun _ _ => .next)
  | tenqt => exact execTenqt_answers
  | klaunch => exact execKlaunch_answers
  | ticket => exact execTicket_answers
  | pgbiasHost | pgbiasDev => exact pgbias_answers
  | sbwait => exact .ite .next (.reporting (.guarded waitTokens_answers))
  | vcfg | vcfgi => exact .guarded .next
  | vmvx | vmvs => exact .guarded vgo_answers
  | ldsRlx | ldsAcq => exact lds_answers
  | stsRlx | stsRel => exact sts_answers
  | bind => exact execBind_answers
  | unbind => exact execUnbind_answers
  | acq => exact .ite .next acqStep_answers
  | tryacq => exact execTryacq_answers (sc := 0)
  | rel => exact execRel_answers
  | arrive => exact execArrive_answers
  | waitph => exact execWaitph_answers (sc := 0)
  | testph => exact execTestph_answers (sc := 0)
  | freeze | thaw => exact freezeIssue_answers
  | cpy | cpyb => exact .guarded .next
  | shpld => exact execShpld_answers
  | shpst => exact execShpst_answers
  | talloc | tallocZ => exact talloc_answers
  | tfree => exact execTfree_answers
  | tld | tst => exact .guarded (.tileAccess fun _ _ _ => .next)
  | gld | gldv => exact groupLoad_answers
  | gjoin => exact .guarded (.ite .next (.ite .next .next))
  | gleave => exact .guarded .next
  | vaddVv | vaddVs | vaddVi | vsubVv | vsubVs | vrsubVs | vrsubVi | vmulVv | vmulVs | vmulhVv | vmulhVs | vmulhnVv | vmulhnVs
  | vaddsVv | vaddsVs | vaddsVi | vsubsVv | vsubsVs | vminVv | vminVs | vmaxVv | vmaxVs | vandVv | vandVs | vandVi | vorVv | vorVs
  | vorVi | vxorVv | vxorVs | vxorVi | vsllVv | vsllVs | vsllVi | vsrlVv | vsrlVs | vsrlVi | vsraVv | vsraVs | vsraVi
  | vfaddVv | vfaddVs | vfsubVv | vfsubVs | vfmulVv | vfmulVs | vfminVv | vfminVs | vfmaxVv | vfmaxVs | vfdivVv | vfdivVs
  | vselVv | vselVs | vselVi | vqVsel | vcmpVv | vcmpVs | vcmpVi | vfcmpVv | vfcmpVs
  | vperm | vslupVs | vslupVi | vsldnVs | vsldnVi | vsl1up | vxchg | vqVadd | vqVsub | vqVmul | vqVfadd | vqVfmul | vqVand | vqVor
  | vqVxor | vqVsll | vqVsrl | vscale | vmac | vffma | vffms | vfnfma | vqVmac | vqVffma | vwmac | vwmul | vcvt | vcvtSr
  | vmv | vmvScalar | vtake | vcompress | vqVmv
  | vclz | vfabs | vpopc | vfneg | vfsqrt | vfclass | vrcp | vrsqrt | vexp2 | vlog2 | vsin | vcos
  | vredsum | vfredsum | vredmin | vredmax => exact vgo_answers
  | pand | por | pxor | pnot | pset | pfirst | pmskup | pcnt | vfifoPushVm | vfifoPushVc =>
    dsimp only [exec]
    exact vpred_answers
  | vedge => exact .graphic (.guarded (.recordLine fun _ _ => .ite trapAt_answers drawn_answers))
  | vrbox | vrtri => exact .graphic (.guarded (.recordLine fun _ _ => drawn_answers))
  | vtex | vtexl => exact sample_answers
  | blendc => exact execBlendc_answers
  | vld | vldff | vqVld | vldsr | vlds | vldx => exact vload_answers
  | vst | vqVst | vsts | vstx => exact vstore_answers
  | vamoAdd | vamoSwap | vamoMin | vamoMax => exact vamo_answers
  | mrow | msca | mcfg | mzero | mrd | mdrainSt | mdrainAdd | mdrainxSt | mdrainxAdd => exact mgo_answers
  | mldb =>
    dsimp only [exec, execMldb]
    exact mgo_answers
  | ecall => exact execEcall_answers
  | ebreak | mret => exact trap_answers
  | sret => exact execSret_answers
  | wfi => exact execWfi_answers
  | texit => exact execTexit_answers
  | tyield => exact execTyield_answers
  | vfence => exact .reporting (.guarded .next)
  | vfifoPopCv | vfifoPopMv => exact .ite .next (.vguard (.guarded .next))
  | acqRetry => exact execAcqRetry_answers
  | bwphWrite | wdlimWrite | fmtWrite | sbstatWrite | vhwWrite | csrWrite => exact writeStep_answers
  | fenceI | devicePhaseSettle | pwhintExpire | spdmRequest | directoryProbe | errlogRead | evpopRead | cecntWrite | evpushWrite
  | enqueueArrive | partitionStop => exact .next
  | vfReset => exact execVfReset_answers
  | pageFlush | bankWakeDone | bankRetWakeDone | bankPowerOff | bankRetention | wayRetire | stampSweepStart | wayKill | stampSweepEnd | swgoWrite | externalSourceRaise | clvlRise | clvlFall | hostirqWrite | ucieTraining | supervisorTimerInterrupt | wayWakeDone | wroleWrite | swrWrite | wayPinDone | gddrPowerDown | portTokenAccrue | claimCall | droopSignal | collectiveAbort | frameLeavesPartition | tlvlWrite | sfailWrite | idleWake | eqdescWrite | peerRequest | runBudgetExceeded => exact .ite .next .next
  | msixCall | swiCall | idleEntry | firmwareVerify | boraLinkChange => exact .ite .next (.ite .next .next)
  | mmioWrite => exact .ite .next (.ite .next (.ite .next .next))
  | interruptEntry => exact execInterruptEntry_answers
  | lateResultLand => exact execLateResultLand_answers
  | remoteWriteLand => exact execRemoteWriteLand_answers
  | presenceTimeout => exact execPresenceTimeout_answers
  | vectorQueueExecute => exact execVectorQueueExecute_answers
  | matrixQueueExecute => exact execMatrixQueueExecute_answers
  | drainComplete => exact execDrainComplete_answers
  | fifoHoldExpiry => exact execFifoHoldExpiry_answers
  | pageWalk => exact execPageWalk_answers
  | chinookAnswer => exact execChinookAnswer_answers
  | partitionMissTimeout => exact execPartitionMissTimeout_answers
  | shootdownAck => exact execShootdownAck_answers
  | chinookInvalidate => exact execChinookInvalidate_answers
  | homeSliceRequest => exact execHomeSliceRequest_answers
  | victimOffer => exact execVictimOffer_answers
  | writeBackArrival => exact execWriteBackArrival_answers
  | wbdWrite => exact execWbdWrite_answers
  | agentRejoin => exact execAgentRejoin_answers
  | roleChangeDone => exact execRoleChangeDone_answers
  | groupRequestArrive => exact execGroupRequestArrive_answers
  | groupHoldTimeout => exact execGroupHoldTimeout_answers
  | groupFillLand => exact execGroupFillLand_answers
  | freezeComplete => exact execFreezeComplete_answers
  | thawComplete => exact execThawComplete_answers
  | peerInvalidateTimeout => exact execPeerInvalidateTimeout_answers
  | copyAdmit => exact execCopyAdmit_answers
  | copyRunEmit => exact execCopyRunEmit_answers
  | copyLinePerformed => exact execCopyLinePerformed_answers
  | copyComplete => exact execCopyComplete_answers
  | slidePrefetch => exact execSlidePrefetch_answers
  | enqueueRetry => exact execEnqueueRetry_answers
  | filterTokenAccrue => exact execFilterTokenAccrue_answers
  | taskBind => exact execTaskBind_answers
  | taskPreload => exact execTaskPreload_answers
  | taskAgeing => exact execTaskAgeing_answers
  | urgentEvict => exact execUrgentEvict_answers
  | portGrant => exact execPortGrant_answers
  | partitionResume => exact execPartitionResume_answers
  | quadReassign => exact execQuadReassign_answers
  | retireCall => exact execRetireCall_answers
  | mistralPeriod => exact execMistralPeriod_answers
  | railRaiseDone => exact execRailRaiseDone_answers
  | sensorSample => exact execSensorSample_answers
  | hostMemRead => exact execHostMemRead_answers
  | hostMemWrite => exact execHostMemWrite_answers
  | bisnpResponse => exact execBisnpResponse_answers
  | biasFlipComplete => exact execBiasFlipComplete_answers
  | hostSnoop => exact execHostSnoop_answers
  | blendcQueueLimit => exact execBlendcQueueLimit_answers
  | memoryFillReturn => exact execMemoryFillReturn_answers

/-! ### Turns and steps (log 1) -/

theorem fetchStop_answers {s : State} {st : Stop} : Answers (s.fetchStop st) := by
  unfold State.fetchStop
  extract_lets
  split
  · exact parks_answers
  · exact parks_answers
  · exact parks_answers
  · exact stop_answers

theorem fetchExec_answers {s : State} : Answers s.fetchExec := by
  unfold State.fetchExec
  split
  · exact fetchStop_answers
  · extract_lets
    split
    · exact trapAt_answers
    · exact exec_answers _ _

theorem Answers.andThen {r : Res} {f : State → State} (h : Answers r) : Answers (andThen r f) := by
  obtain ⟨t, rfl⟩ := h
  exact .next

theorem issueTurn_answers {s : State} {h : Nat} : Answers (s.issueTurn h) := .ite fetchExec_answers.andThen .next

theorem eventTurn_answers {s : State} {i : Instr} {a : EvArg} : Answers (s.eventTurn i a) := .ite (exec_answers _ _) .next

theorem runTurn_answers {s : State} {t : Turn} : Answers (s.runTurn t) := by
  cases t with
  | issue => exact issueTurn_answers
  | event => exact eventTurn_answers
  | advance => exact .next

theorem stepOnce_answers (s : State) : Answers s.stepOnce := .ite .next runTurn_answers.andThen

/-! ### The obligation -/

/-- Settles O57: every operation that a meaning ends in answers a next state, and a step is a turn and what it ends with. -/
theorem nothingStops : Obligations.NothingStops := ⟨exec_answers, stepOnce_answers⟩

end Sys2Proof.Machine
end

section
/-!
SUPPORT. The issue of vector instructions (R177, R240, R306, R310): the length of an instruction from its word, the command that an issue
enters, and the checks that stop one.
-/
namespace Sys2Proof.Machine
open Sys2Proof.Claims

/-! ### The length of an instruction (R216) -/

/-- Fields above the low two bits leave them. -/
theorem word_mod_four {m : Nat} {l : List (Nat × Nat)} (h : ∀ x ∈ l, 2 ≤ x.2) : word m l % 4 = m % 4 := by
  induction l with
  | nil => rfl
  | cons x l ih =>
    obtain ⟨v, lo⟩ := x
    obtain ⟨k, rfl⟩ : ∃ k, lo = 2 + k := Nat.exists_eq_add_of_le (h (v, lo) (List.mem_cons_self ..))
    have ih := ih fun y hy => h y (List.mem_cons_of_mem _ hy)
    have hv : v * 2 ^ (2 + k) % 4 = 0 := by
      rw [pow_add, ← mul_assoc, mul_comm v]
      simp [mul_assoc]
    simp only [word]
    omega

theorem len_of_word {i : Instr} {m : Nat} {l : List (Nat × Nat)} (e : encode i = word m l) (hm : m % 4 = 3) (h : ∀ x ∈ l, 2 ≤ x.2) :
    Instr.len i = 4 := by
  have hw := word_mod_four (m := m) h
  unfold Instr.len
  rw [e, if_pos (hw.trans hm)]

theorem len_of_parcel {i : Instr} {m : Nat} {l : List (Nat × Nat)} (e : encode i = word m l) (hm : m % 4 = 2) (h : ∀ x ∈ l, 2 ≤ x.2) :
    Instr.len i = 2 := by
  have hw := word_mod_four (m := m) h
  unfold Instr.len
  rw [e, if_neg (by omega), if_neg (by intro h0; rw [h0] at hw; omega)]

/-! ### An issue enters its command (R177, R306) -/

/-- An instruction that is a queued vector command of a word of 32 bits. -/
theorem issues_word {s : State} {i : Instr} {r : VReq} {m : Nat} {l : List (Nat × Nat)} (hexec : exec i s = s.vgo r)
    (e : encode r.i = word m l) (hm : m % 4 = 3) (hl : ∀ x ∈ l, 2 ≤ x.2) (h : s.VIssues r) :
    exec i s = .next (s.updMe (fun a => (a.enqueue r).advance 4)) := by
  rw [hexec, State.vgo_issues h, len_of_word e hm hl]

/-- The same of a word of 16 bits (R240). -/
theorem issues_parcel {s : State} {i : Instr} {r : VReq} {m : Nat} {l : List (Nat × Nat)} (hexec : exec i s = s.vgo r)
    (e : encode r.i = word m l) (hm : m % 4 = 2) (hl : ∀ x ∈ l, 2 ≤ x.2) (h : s.VIssues r) :
    exec i s = .next (s.updMe (fun a => (a.enqueue r).advance 2)) := by
  rw [hexec, State.vgo_issues h, len_of_parcel e hm hl]

theorem Hart.qNotInt_eq (a : Hart) : a.qNotInt = decide (8 ≤ a.vcfg.et.toNat) := by
  have h : (!decide (a.vcfg.et.toNat < 8)) = decide (8 ≤ a.vcfg.et.toNat) := by
    rw [← decide_not]
    exact decide_eq_decide.mpr Nat.not_lt
  exact h

/-- Settles O27: every arithmetic form is a queued vector instruction whose word has 32 bits, and one that passes its checks enters its
command. -/
theorem vectorArithmeticIssues : Obligations.VectorArithmeticIssues := by
  unfold Obligations.VectorArithmeticIssues
  refine ⟨?int, ?flt, ?one, ?three, fun s b p e a d => ⟨?wmac, ?wmul⟩, ?cmp, ?sel, fun s p e v d => ?scale,
    fun s f p e v d => ⟨?cvt, ?cvtSr⟩⟩
  case int =>
    intro s i op et p d src x h
    unfold intForm at h
    split at h <;> cases h
    all_goals exact issues_word rfl rfl rfl (by simp)
  case flt =>
    intro s i op rnd et p d src x h
    unfold fltForm at h
    split at h <;> cases h
    all_goals exact issues_word rfl rfl rfl (by simp)
  case one =>
    intro s i op rnd et p d v h
    unfold oneForm at h
    split at h <;> cases h
    all_goals exact issues_word rfl rfl rfl (by simp)
  case three =>
    intro s i op rnd et p d a b h
    unfold threeForm at h
    split at h <;> cases h
    all_goals exact issues_word rfl rfl rfl (by simp)
  case cmp =>
    intro s i cc et p d src x h
    unfold cmpForm at h
    split at h <;> cases h
    all_goals exact issues_word rfl rfl rfl (by simp)
  case sel =>
    intro s i et p d src x h
    unfold selForm at h
    split at h <;> cases h
    all_goals exact issues_word rfl rfl rfl (by simp)
  all_goals exact issues_word rfl rfl rfl (by simp)

/-- The kinds of 16-bit integer forms: those that any type but an integer one keeps from issuing. -/
theorem vbin_qNotInt {s : State} {i : Instr} {d v : Reg} {op : VOp} (h : exec i s = s.vbin i s.me.qNotInt s.me.qet d (vreg v) v op) :
    exec i s = s.vgo (s.me.binReq i (decide (8 ≤ s.me.vcfg.et.toNat)) s.me.vcfg.et.toNat d (.reg v.toNat) v op) := by
  rw [h, Hart.qNotInt_eq]
  rfl

/-- A VFIFO pop enters the queue and parks (R139, R237). -/
theorem vfifoPop_issues {s : State} {i : Instr} {fromMatrix : Bool}
    (h : s.VIssues { i := i, vl := s.me.vl, g := s.me.gsz, op := .pop fromMatrix }) (hp : s.me.park ≠ some .pop) :
    s.vfifoPop i fromMatrix = .next (s.updMe (fun a => ({ a with
      vq := a.vq ++ [a.command { i := i, vl := s.me.vl, g := s.me.gsz, op := .pop fromMatrix }]
      seq := a.seq + 1 }).parkFor .pop s.time s.clk)) := by
  obtain ⟨hready, hroom⟩ := h
  have hroom : ¬ 8 ≤ s.me.vq.length := by omega
  simp only [State.vfifoPop, if_neg hp, State.vguard_pass hready]
  exact State.guarded_pass (by simp [firstStop, parkIf, hroom])

/-- Settles O28: the movements, reductions, predicate operations, pushes and 16-bit forms are queued vector instructions, and a pop parks
with its command entered. -/
theorem vectorMovesIssue : Obligations.VectorMovesIssue := by
  unfold Obligations.VectorMovesIssue
  refine ⟨?move, fun s p e v d => issues_word rfl rfl rfl (by simp), ?red, ?pred, ?short, fun s d v => ⟨?vqVmac, ?vqVffma, ?vqVmv⟩, ?pop⟩
  case move =>
    intro s i op et d src x rd apart h
    unfold moveForm at h
    split at h <;> cases h
    all_goals exact issues_word rfl rfl rfl (by simp)
  case red =>
    intro s i op rnd et p d v h
    unfold redForm at h
    split at h <;> cases h
    all_goals exact issues_word rfl rfl rfl (by simp)
  case pred =>
    intro s i op src dst h
    unfold predForm at h
    split at h <;> cases h
    all_goals exact fun hi => State.vgo_issues hi
  case short =>
    intro s i op bad d v h
    unfold shortBin at h
    split at h <;> cases h
    case h_9 | h_10 | h_11 => exact issues_parcel rfl rfl rfl (by simp)
    all_goals exact issues_parcel (vbin_qNotInt rfl) rfl rfl (by simp)
  case vqVmac =>
    refine issues_parcel ?_ rfl rfl (by simp)
    rw [← Hart.qNotInt_eq]
    rfl
  case vqVffma => exact issues_parcel rfl rfl rfl (by simp)
  case vqVmv => exact issues_parcel rfl rfl rfl (by simp)
  case pop =>
    intro s fromMatrix i r hi hp
    cases fromMatrix
    · exact (vfifoPop_issues hi hp).trans (by simp only [List.concat_eq_append]; rfl)
    · exact (vfifoPop_issues hi hp).trans (by simp only [List.concat_eq_append]; rfl)

/-! ### What stops an issue (R172, R176, R183, R310) -/

/-- A group out of the allocation, or not aligned to its size, traps. -/
theorem Hart.groupStop_nat (a : Hart) (n g : Nat) :
    a.groupStop n g = trapIf (decide ¬ (n % g = 0 ∧ n + g ≤ a.alloc)) 24 (BitVec.ofNat 64 n) := by
  have hneg : ¬ ((n : Int) < 0) := by omega
  have hmod : ((n : Int) % (g : Int) ≠ 0) ↔ n % g ≠ 0 := by exact_mod_cast Iff.rfl
  have hlim : ((n : Int) + (g : Int) > (a.alloc : Int)) ↔ ¬ n + g ≤ a.alloc := by omega
  unfold Hart.groupStop
  congr 1
  · simp only [hneg, hmod, hlim, decide_false, Bool.false_or, ← Bool.decide_or]
    exact decide_eq_decide.mpr (by tauto)

theorem State.vgo_stop {s : State} {r : VReq} {st : Stop} (h : s.me.vchecks r = some st) :
    s.vgo r = s.stop (st.atElem s.me.veix.toNat) := by
  simp only [State.vgo, State.vguard, h]

/-- The width is vcfg's, and where the operation rounds, frm names a mode (R201, R310). -/
theorem binReq_good_iff (a : Hart) (rounds : Bool) (et : Nat) :
    ((rounds && decide (4 ≤ a.frm.toNat)) || decide (etWidth a.fmts et ≠ a.vw)) = false ↔
      etWidth a.fmts et = etWidth a.fmts a.vcfg.et.toNat ∧ (rounds = true → a.frm.toNat < 4) := by
  rw [Bool.or_eq_false_iff, decide_eq_false_iff_not, not_not, Bool.and_eq_false_imp, and_comm]
  simp only [decide_eq_false_iff_not, Nat.not_le]
  rfl

/-- The checks of an operation of two register groups whose type is no nf format, in their order. -/
theorem Hart.vchecks_binReq (a : Hart) (i : Instr) (bad : Bool) {et : Nat} (d v : Reg) (op : VOp) (het : et < 12) :
    a.vchecks (a.binReq i bad et d (.reg v.toNat) v op) =
      firstStop [trapIf (bad || decide (etWidth a.fmts et ≠ a.vw)) 2 (wordOf i), none, a.groupStop d.toNat a.gsz,
        a.groupStop v.toNat a.gsz, none, a.markedAny (vgroup d.toNat a.gsz ++ vgroup v.toNat a.gsz)] := by
  have hfmt : a.fmtInvalid et = false := by simp [Hart.fmtInvalid, het]
  simp [Hart.vchecks, Hart.binReq, VSrc.groups, VSrc.names, hfmt, trapIf]

/-- An integer form is a queued operation of two sources, of one of the types 0 to 7. -/
theorem intForm_exec {s : State} {i : Instr} {op : IOp} {et p : Nat} {d x : Reg} {src : VSrc}
    (h : intForm s.me i = some (op, et, p, d, src, x)) : et < 12 ∧ exec i s = s.vbin i false et d src x (.int op et p d.toNat src) := by
  unfold intForm at h
  split at h <;> cases h
  all_goals exact ⟨by omega, rfl⟩

/-- And a floating form, of one of the types 8 to 11. -/
theorem fltForm_exec {s : State} {i : Instr} {op : FOp} {rnd : Bool} {et p : Nat} {d x : Reg} {src : VSrc}
    (h : fltForm s.me i = some (op, rnd, et, p, d, src, x)) :
    et < 12 ∧ exec i s = s.vbin i (rnd && decide (4 ≤ s.me.frm.toNat)) et d src x (.flt op et p d.toNat src) := by
  unfold fltForm at h
  split at h <;> cases h
  all_goals exact ⟨by omega, rfl⟩

section
variable {s : State} {i : Instr} {bad : Bool} {et : Nat} {d v : Reg} {op : VOp}

/-- The first failing check of R310 is the width or the mode. -/
theorem vbin_badWidth (het : et < 12) (h : (bad || decide (etWidth s.me.fmts et ≠ s.me.vw)) = true) :
    s.vbin i bad et d (.reg v.toNat) v op = .next (s.updMe (fun a => a.trap 2 (wordOf i) a.veix.toNat)) := by
  refine (State.vgo_stop (st := .trap 2 (wordOf i)) ?_).trans rfl
  rw [Hart.vchecks_binReq _ _ _ _ _ _ het, h]
  rfl

/-- Then the destination's group. -/
theorem vbin_badDst (het : et < 12) (h : (bad || decide (etWidth s.me.fmts et ≠ s.me.vw)) = false)
    (hd : ¬ (d.toNat % s.me.gsz = 0 ∧ d.toNat + s.me.gsz ≤ s.me.alloc)) :
    s.vbin i bad et d (.reg v.toNat) v op = .next (s.updMe (fun a => a.trap 24 (d.setWidth 64) a.veix.toNat)) := by
  refine (State.vgo_stop (st := .trap 24 (d.setWidth 64)) ?_).trans rfl
  rw [Hart.vchecks_binReq _ _ _ _ _ _ het, h, Hart.groupStop_nat, decide_eq_true hd, BitVec.ofNat_toNat]
  rfl

/-- Then the second source's. -/
theorem vbin_badSrc (het : et < 12) (h : (bad || decide (etWidth s.me.fmts et ≠ s.me.vw)) = false)
    (hd : d.toNat % s.me.gsz = 0 ∧ d.toNat + s.me.gsz ≤ s.me.alloc) (hv : ¬ (v.toNat % s.me.gsz = 0 ∧ v.toNat + s.me.gsz ≤ s.me.alloc)) :
    s.vbin i bad et d (.reg v.toNat) v op = .next (s.updMe (fun a => a.trap 24 (v.setWidth 64) a.veix.toNat)) := by
  refine (State.vgo_stop (st := .trap 24 (v.setWidth 64)) ?_).trans rfl
  rw [Hart.vchecks_binReq _ _ _ _ _ _ het, h, Hart.groupStop_nat, Hart.groupStop_nat, decide_eq_false (not_not.mpr hd),
    decide_eq_true hv, BitVec.ofNat_toNat _ v]
  rfl

theorem vchecks_pass (het : et < 12) (h : (bad || decide (etWidth s.me.fmts et ≠ s.me.vw)) = false)
    (hd : d.toNat % s.me.gsz = 0 ∧ d.toNat + s.me.gsz ≤ s.me.alloc) (hv : v.toNat % s.me.gsz = 0 ∧ v.toNat + s.me.gsz ≤ s.me.alloc)
    (hm : s.me.markedAny (vgroup d.toNat s.me.gsz ++ vgroup v.toNat s.me.gsz) = none) :
    s.me.vchecks (s.me.binReq i bad et d (.reg v.toNat) v op) = none := by
  rw [Hart.vchecks_binReq _ _ _ _ _ _ het, h, Hart.groupStop_nat, Hart.groupStop_nat, decide_eq_false (not_not.mpr hd),
    decide_eq_false (not_not.mpr hv), hm]
  rfl

end

/-- The checks passed and nothing owed, an instruction parks on an empty source. -/
theorem vgo_parksEmpty {s : State} {q : VReq} {r : Nat} (h : s.me.vchecks q = none) (hdue : s.me.due false false true = none)
    (hp : s.me.presentAll q.src = some (.park (.empty .v r false))) :
    s.vgo q = .next (s.updMe (fun a => a.parkFor (.empty .v r true) s.time s.clk)) := by
  simp only [State.vgo, State.vguard, h, hdue, hp]
  rfl

/-- And on a full queue. -/
theorem vgo_parksFull {s : State} {q : VReq} (h : s.VReady q) (hfull : 8 ≤ s.me.vq.length) :
    s.vgo q = .next (s.updMe (fun a => a.parkFor .vqFull s.time s.clk)) := by
  simp only [State.vgo, State.vguard_pass h, decide_eq_true hfull]
  rfl

/-- Settles O29: the checks of R310 in their order, each met by the first that fails. -/
theorem vectorIssueStops : Obligations.VectorIssueStops := by
  unfold Obligations.VectorIssueStops
  intro stops
  have key {s : State} {i : Instr} {rounds : Bool} {et : Nat} {d v : Reg} {op : VOp} (het : et < 12)
      (hexec : exec i s = s.vbin i (rounds && decide (4 ≤ s.me.frm.toNat)) et d (.reg v.toNat) v op) : stops s i rounds et d v := by
    refine ⟨fun h => ?_, fun h hd => ?_, fun h hd hv => ?_, fun h hd hv hm hdue => ⟨fun r hp => ?_, fun hp ho hfull => ?_⟩⟩ <;> rw [hexec]
    · exact vbin_badWidth het (Bool.not_eq_false _ ▸ mt (binReq_good_iff ..).mp h)
    · exact vbin_badDst het ((binReq_good_iff ..).mpr h) hd
    · exact vbin_badSrc het ((binReq_good_iff ..).mpr h) hd hv
    · exact vgo_parksEmpty (vchecks_pass het ((binReq_good_iff ..).mpr h) hd hv hm) hdue hp
    · exact vgo_parksFull ⟨vchecks_pass het ((binReq_good_iff ..).mpr h) hd hv hm, hdue, hp, ho⟩ hfull
  refine ⟨fun s i op et p d v h => ?int, fun s i op rnd et p d v h => ?flt⟩
  case int =>
    obtain ⟨het, hexec⟩ := intForm_exec h
    exact key het hexec
  case flt =>
    obtain ⟨het, hexec⟩ := fltForm_exec h
    exact key het hexec

end Sys2Proof.Machine
end

section
/-!
SUPPORT. Divides and square roots (R172, R201): a rounding mode that is not one of the device's.
-/
namespace Sys2Proof.Machine
open Sys2Proof.Claims

/-- The square root of 1 under a stochastic mode whose random bits are 2^32, one more than 32 bits hold: the root is exact, and still the
code above it is taken. -/
theorem sqrt_one_sr_above : (fdivsqrtResult true .s (.sr (2 ^ 32)) 0xFFFFFFFF3F800000 0).1 = 0xFFFFFFFF3F800001 := by decide +kernel

theorem fvalOf_one : fvalOf .s 0xFFFFFFFF3F800000 = .fin false ⟨2 ^ 23, 1, -23⟩ := by decide +kernel

theorem magnitude_one :
    (fmtOf .s).magnitude 0x3F800000 = ⟨2 ^ 23, 1, -23⟩ ∧ (fmtOf .s).magnitude (0x3F800000 + 1) = ⟨2 ^ 23 + 1, 1, -23⟩ := by
  decide +kernel

/-- A boxed F code holds the code's low 32 bits. -/
theorem boxed_s_toNat (c : Nat) : (boxed .s c).toNat % 2 ^ 32 = c % 2 ^ 32 := by
  simp only [boxed, BitVec.toNat_ofNat]
  omega

/-- Refutes O3: its last clause lets the mode be any `RMode`, also a stochastic one with random bits of 33 places, which no instruction
names; under `sr 2^32` the root of 1 is not 1 but the code above. -/
theorem not_divideOwesResult : ¬ Obligations.DivideOwesResult := by
  unfold Obligations.DivideOwesResult
  rintro ⟨-, -, -, -, -, -, -, -, hroot⟩
  obtain ⟨c, hc, hto⟩ := hroot .s (.sr (2 ^ 32)) 0xFFFFFFFF3F800000 0 _ fvalOf_one (by decide)
  have hlow : c % 2 ^ 32 = 0x3F800001 := by
    rw [← boxed_s_toNat, ← hc, sqrt_one_sr_above]
    rfl
  obtain ⟨hk, hk₁⟩ := magnitude_one
  have hone : ratOf ⟨2 ^ 23, 1, -23⟩ = 1 := by norm_num [ratOf]
  have hnext : (1 : ℚ) < ratOf ⟨2 ^ 23 + 1, 1, -23⟩ ^ 2 := by norm_num [ratOf]
  obtain ⟨-, hexact⟩ := hto 0x3F800000 (by decide) (by rw [hk, hone]; norm_num) (by rw [hk₁, hone]; exact hnext)
  have hcode : c = 0x3F800000 := hexact (by rw [hk, hone]; norm_num)
  omega

end Sys2Proof.Machine
end

section
/-!
SUPPORT. Interrupt entry, the presence limit and the timer (R184, R186, R188).
-/
namespace Sys2Proof.Machine
open Sys2Proof.Claims

/-! ### Interrupt entry (R184, R188) -/

/-- `b` is the hart `a` after its entry for interrupt `c`, to return to `pc`. -/
def InterruptEntered (a : Hart) (c : Nat) (pc : Word) (b : Hart) : Prop :=
  b.csr.sepc = pc ∧ b.csr.scause = BitVec.ofNat 64 (2 ^ 63 + c) ∧ b.csr.stval = 0 ∧ b.mode = .s ∧ b.park = none ∧
  b.pc = a.csr.stvec &&& 0xFFFFFFFFFFFFFFFC#64 ∧ b.csr.sstatus.getLsbD 8 = decide (a.mode = .s) ∧
  b.csr.sstatus.getLsbD 5 = a.csr.sstatus.getLsbD 1 ∧ b.csr.sstatus.getLsbD 1 = false ∧
  (∀ k, k ≠ 1 → k ≠ 5 → k ≠ 8 → b.csr.sstatus.getLsbD k = a.csr.sstatus.getLsbD k) ∧
  b.x = a.x ∧ b.f = a.f ∧ b.v = a.v ∧ b.p = a.p ∧ b.veix = a.veix ∧ b.csr.stvec = a.csr.stvec ∧ b.csr.sscratch = a.csr.sscratch ∧
  b.csr.sie = a.csr.sie

/-- The entry writes the CSRs of R184 and leaves the registers. -/
theorem Hart.interrupt_entered (a : Hart) (c : Nat) : InterruptEntered a c a.pc (a.interrupt c) := by
  refine ⟨rfl, rfl, rfl, rfl, rfl, rfl, ?_, ?_, ?_, fun k h₁ h₅ h₈ => ?_, rfl, rfl, rfl, rfl, rfl, rfl, rfl, rfl⟩
  · exact enterStatus_getLsbD _ _ 8
  · exact enterStatus_getLsbD _ _ 5
  · exact enterStatus_getLsbD _ _ 1
  · refine (enterStatus_getLsbD _ _ k).trans ?_
    rw [if_neg h₈, if_neg h₅, if_neg h₁]

/-- The same after a WFI, whose next instruction is the one to return to. -/
theorem Hart.interrupt_advance_entered (a : Hart) (c : Nat) : InterruptEntered a c (a.pc + 4) ((a.advance 4).interrupt c) :=
  (a.advance 4).interrupt_entered c

/-- With no register claimed by a load, a withdrawn instruction leaves only its park. -/
theorem Hart.unclaim_of_nil {a : Hart} (h : a.claimed = []) : a.unclaim = a := by
  cases a
  cases h
  rfl

theorem State.hart_withdraw {s : State} {h : Nat} (hpop : (s.hart h).park ≠ some .pop) (halloc : (s.hart h).park ≠ some .talloc)
    (hclaim : (s.hart h).claimed = []) : (s.withdraw h).hart h = { s.hart h with park := none } ∧ (s.withdraw h).mem = s.mem := by
  simp only [State.withdraw, if_neg hpop, if_neg halloc]
  refine ⟨(State.hart_updHart ..).trans ?_, rfl⟩
  exact congrArg (fun b : Hart => { b with park := none }) (Hart.unclaim_of_nil hclaim)

/-- The first enabled and pending interrupt is taken, where interrupts are open: external, software, timer. -/
theorem State.interruptOf_eq {s : State} {h : Nat} (hopen : (s.hart h).mode = .u ∨ (s.hart h).csr.sstatus.getLsbD 1 = true) :
    s.interruptOf h = [9, 1, 5].find? (fun c => (s.sip h).testBit c && (s.hart h).csr.sie.getLsbD c) := by
  refine if_pos ?_
  rcases hopen with h | h <;> simp [bitOf, h]

theorem State.interruptOf_closed {s : State} {h : Nat} (hm : (s.hart h).mode = .s) (hsie : (s.hart h).csr.sstatus.getLsbD 1 = false) :
    s.interruptOf h = none := by
  refine if_neg ?_
  rw [hm, bitOf, hsie]
  decide

theorem execInterruptEntry_none {s : State} (h : s.interruptOf s.ev.h = none) : exec .interruptEntry s = .next s := by
  show execInterruptEntry s = _
  simp only [execInterruptEntry, h]

section
variable {s : State} {c : Nat} (hc : s.interruptOf s.ev.h = some c) (htask : (s.hart s.ev.h).task.isSome = true)
  (hrun : s.quadStopped (quadOf s.ev.h) = false)
include hc htask hrun

/-- Out of a WFI the hart enters with the next instruction to return to. -/
theorem execInterruptEntry_wfi (hp : (s.hart s.ev.h).park = some .wfi) :
    exec .interruptEntry s = .next (s.updHart s.ev.h (fun b => (b.advance 4).interrupt c)) := by
  have hgo : ¬ ((s.hart s.ev.h).task.isNone || s.quadStopped (quadOf s.ev.h)) = true := by
    simp [hrun, Option.isSome_iff_ne_none.mp htask]
  show execInterruptEntry s = _
  simp only [execInterruptEntry, hc, if_neg hgo, if_pos hp]

/-- At a boundary whose event has not occurred, the instruction is withdrawn and the hart enters; elsewhere nothing happens. -/
theorem execInterruptEntry_park (hp : (s.hart s.ev.h).park ≠ some .wfi) :
    exec .interruptEntry s = if (s.hart s.ev.h).atBoundary && !s.parkOver s.ev.h then
      .next ((s.withdraw s.ev.h).updHart s.ev.h (fun b => b.interrupt c)) else .next s := by
  have hgo : ¬ ((s.hart s.ev.h).task.isNone || s.quadStopped (quadOf s.ev.h)) = true := by
    simp [hrun, Option.isSome_iff_ne_none.mp htask]
  show execInterruptEntry s = _
  simp only [execInterruptEntry, hc, if_neg hgo, if_neg hp]

/-- An entry at such a boundary leaves memory and all of R184 in its hart. -/
theorem interruptEntry_withdraws (hclaim : (s.hart s.ev.h).claimed = []) (hwfi : (s.hart s.ev.h).park ≠ some .wfi)
    (hpop : (s.hart s.ev.h).park ≠ some .pop) (halloc : (s.hart s.ev.h).park ≠ some .talloc)
    (hb : ((s.hart s.ev.h).atBoundary && !s.parkOver s.ev.h) = true) :
    ∃ t, exec .interruptEntry s = .next t ∧ InterruptEntered (s.hart s.ev.h) c (s.hart s.ev.h).pc (t.hart s.ev.h) ∧ t.mem = s.mem := by
  obtain ⟨hhart, hmem⟩ := State.hart_withdraw hpop halloc hclaim
  refine ⟨_, (execInterruptEntry_park hc htask hrun hwfi).trans (if_pos hb), ?_, hmem⟩
  rw [State.hart_updHart, hhart]
  exact Hart.interrupt_entered _ c

/-- What an interrupt entry does, by the park it meets. -/
theorem interruptEntry_takes (hclaim : (s.hart s.ev.h).claimed = []) :
    ((s.hart s.ev.h).park = none → ∃ t, exec .interruptEntry s = .next t ∧
      InterruptEntered (s.hart s.ev.h) c (s.hart s.ev.h).pc (t.hart s.ev.h) ∧ t.mem = s.mem) ∧
    (∀ m, (s.hart s.ev.h).park = some (.sbwait m) →
      ((s.hart s.ev.h).tokensBusy m = true → ∃ t, exec .interruptEntry s = .next t ∧
        InterruptEntered (s.hart s.ev.h) c (s.hart s.ev.h).pc (t.hart s.ev.h) ∧ t.mem = s.mem) ∧
      ((s.hart s.ev.h).tokensBusy m = false → exec .interruptEntry s = .next s)) ∧
    ((s.hart s.ev.h).park = some .wfi → ∃ t, exec .interruptEntry s = .next t ∧
      InterruptEntered (s.hart s.ev.h) c ((s.hart s.ev.h).pc + 4) (t.hart s.ev.h) ∧ t.mem = s.mem) ∧
    ((s.hart s.ev.h).park = some .faultPoint → exec .interruptEntry s = .next s) := by
  refine ⟨fun hp => ?_, fun m hp => ⟨fun hbusy => ?_, fun hdone => ?_⟩, fun hp => ?_, fun hp => ?_⟩
  · exact interruptEntry_withdraws hc htask hrun hclaim (by simp [hp]) (by simp [hp]) (by simp [hp])
      (by simp [Hart.atBoundary, State.parkOver, hp])
  · exact interruptEntry_withdraws hc htask hrun hclaim (by simp [hp]) (by simp [hp]) (by simp [hp])
      (by simp [Hart.atBoundary, State.parkOver, hp, Park.interruptible, hbusy])
  · exact (execInterruptEntry_park hc htask hrun (by simp [hp])).trans (if_neg (by simp [State.parkOver, hp, hdone]))
  · refine ⟨_, execInterruptEntry_wfi hc htask hrun hp, ?_, rfl⟩
    rw [State.hart_updHart]
    exact Hart.interrupt_advance_entered _ c
  · exact (execInterruptEntry_park hc htask hrun (by simp [hp])).trans (if_neg (by simp [Hart.atBoundary, hp, Park.interruptible]))

end

/-! ### The presence limit and the timer (R186, R188) -/

theorem execPresenceTimeout_early {s : State} (h : s.past (quadOf s.ev.h) (s.presenceLimit s.ev.h) (s.hart s.ev.h).sinceQ = false) :
    exec .presenceTimeout s = .next s := by
  show execPresenceTimeout s = _
  simp [execPresenceTimeout, h]

section
variable {s : State} {fl : RFile} {r : Nat} (hpast : s.past (quadOf s.ev.h) (s.presenceLimit s.ev.h) (s.hart s.ev.h).sinceQ = true)
include hpast

/-- A hart that waits too long for an empty register takes cause 32. -/
theorem execPresenceTimeout_empty {vec : Bool} (hp : (s.hart s.ev.h).park = some (.empty fl r vec))
    (he : ((s.hart s.ev.h).cond fl r).1 ≠ .present) :
    exec .presenceTimeout s = .next (s.setHart s.ev.h
      ((s.hart s.ev.h).trap 32 (presenceCode false s.ev.h fl r) (if vec then (s.hart s.ev.h).veix.toNat else 0))) := by
  show execPresenceTimeout s = _
  simp [execPresenceTimeout, hpast, hp, he]

/-- A hart whose write is held too long takes cause 32, and its writes are withdrawn. -/
theorem execPresenceTimeout_held {g : Nat} (hp : (s.hart s.ev.h).park = some (.held g fl r)) :
    exec .presenceTimeout s = .next ({ s with rwrites := s.rwrites.filter (fun w => w.wake || w.src != s.ev.h) }.setHart s.ev.h
      ((s.hart s.ev.h).trap 32 (presenceCode true g fl r) (if fl = RFile.v then (s.hart s.ev.h).veix.toNat else 0))) := by
  show execPresenceTimeout s = _
  simp [execPresenceTimeout, hpast, hp]

end

/-- The register code of R186, of a hart and a register that exist. -/
theorem presenceCode_eq {w : Bool} {h : Nat} {fl : RFile} {r : Nat} (hh : h < 12288) (hr : r < 32) :
    presenceCode w h fl r = BitVec.ofNat 64 (bitNat w * 2 ^ 63 + h * 2 ^ 32 + fl.no * 32 + r) := by
  unfold presenceCode
  rw [Nat.mod_eq_of_lt (show h < 2 ^ 14 by omega), Nat.mod_eq_of_lt hr]

/-- The timer's bit of sip. -/
theorem State.sip_timer (s : State) (h : Nat) : (s.sip h).testBit 5 = decide ((s.hart h).csr.stimecmp.toNat ≤ s.time) := by
  unfold State.sip
  dsimp only
  generalize (s.hart h).csr.ssip = a
  generalize decide ((s.hart h).csr.stimecmp.toNat ≤ s.time) = b
  generalize (!(s.prt (s.partOf h)).sources.isEmpty) = c
  cases a <;> cases b <;> cases c <;> rfl

/-- The timer ends a WFI once it is due. -/
theorem execSupervisorTimerInterrupt_wfi {s : State} (hp : (s.hart s.ev.h).park = some .wfi) :
    exec .supervisorTimerInterrupt s = if (s.hart s.ev.h).csr.stimecmp.toNat ≤ s.time then .next (s.updHart s.ev.h (fun a => a.advance 4))
      else .next s := by
  show execSupervisorTimerInterrupt s = _
  simp [execSupervisorTimerInterrupt, hp]

/-! ### The obligation -/

/-- Settles O39: the entry, by the order of the interrupts and the park it meets; the presence limit, by the two parks it ends; the
timer, by the bit of sip it sets. -/
theorem hartEvents : Obligations.HartEvents := by
  unfold Obligations.HartEvents
  refine ⟨fun s => ?entry, fun s fl r vec => ?limit, fun s h => execPresenceTimeout_early h, fun s hp => ⟨fun h => ?early, fun h => ?due⟩⟩
  case entry =>
    intro h a on entered takes htask hrun hclaim
    have takes_of {c : Nat} (hc : s.interruptOf h = some c) : takes c := interruptEntry_takes hc htask hrun hclaim
    refine ⟨fun hopen => ?_, fun hclosed => execInterruptEntry_none (State.interruptOf_closed hclosed.1 hclosed.2)⟩
    have hof := State.interruptOf_eq hopen
    refine ⟨fun h₉ => takes_of ?_, fun h₉ h₁ => takes_of ?_, fun h₉ h₁ h₅ => takes_of ?_⟩
    · exact hof.trans (List.find?_cons_of_pos h₉)
    · rw [hof, List.find?_cons_of_neg (Bool.eq_false_iff.mp h₉), List.find?_cons_of_pos h₁]
    · rw [hof, List.find?_cons_of_neg (Bool.eq_false_iff.mp h₉), List.find?_cons_of_neg (Bool.eq_false_iff.mp h₁), List.find?_cons_of_pos h₅]
  case limit =>
    intro h a file hpast hr hh
    have hfile : file = fl.no := by cases fl <;> rfl
    refine ⟨fun hp he => ?_, fun g hg hp => ⟨_, execPresenceTimeout_held hpast hp, ?_, rfl, rfl⟩⟩
    · rw [execPresenceTimeout_empty hpast hp he, presenceCode_eq hh hr, hfile]
      simp [bitNat, h, a]
    · refine (Tab.get_set_same ..).trans ?_
      rw [presenceCode_eq hg hr, hfile]
      simp [bitNat, h, a]
  case early => exact (execSupervisorTimerInterrupt_wfi hp).trans (if_neg (by omega))
  case due =>
    refine ⟨?_, (execSupervisorTimerInterrupt_wfi hp).trans (if_pos h)⟩
    rw [State.sip_timer, decide_eq_true h]

end Sys2Proof.Machine
end

section
/-!
SUPPORT. The issue of matrix instructions (R177, R337 to R348): marks on destinations, the checks in their order, and the entry into the
quad's queue.
-/
namespace Sys2Proof.Machine
open Sys2Proof.Claims

/-! ### Marks on destinations (R172, R309) -/

/-- `b` is `a` but for the presence of registers, whose values stay. -/
structure Hart.MarksOnly (a b : Hart) : Prop where
  rest : b = { a with x := b.x, f := b.f, v := b.v }
  x : ∀ r, (getReg b.x r).val = (getReg a.x r).val
  f : ∀ r, (getReg b.f r).val = (getReg a.f r).val
  v : ∀ r, (getReg b.v r).val = (getReg a.v r).val

theorem Hart.MarksOnly.refl (a : Hart) : a.MarksOnly a := ⟨rfl, fun _ => rfl, fun _ => rfl, fun _ => rfl⟩

theorem Hart.MarksOnly.trans {a b c : Hart} (h : a.MarksOnly b) (k : b.MarksOnly c) : a.MarksOnly c where
  rest := by rw [k.rest, h.rest]
  x r := (k.x r).trans (h.x r)
  f r := (k.f r).trans (h.f r)
  v r := (k.v r).trans (h.v r)

theorem Hart.MarksOnly.xv {a b : Hart} (h : a.MarksOnly b) (r : Reg) : b.xv r = a.xv r := by simp only [Hart.xv, h.x]

theorem Hart.markDst_marksOnly (a : Hart) (d : RFile × Nat) : a.MarksOnly (a.markDst d) := by
  obtain ⟨fl, n⟩ := d
  cases fl with
  | x =>
    show a.MarksOnly (a.presX (regNo n) .pending)
    unfold Hart.presX
    split
    · exact .refl a
    · exact ⟨rfl, getReg_setReg_val _ _ rfl, fun _ => rfl, fun _ => rfl⟩
  | f => exact ⟨rfl, fun _ => rfl, getReg_setReg_val _ _ rfl, fun _ => rfl⟩
  | v => exact ⟨rfl, fun _ => rfl, fun _ => rfl, getReg_setReg_val _ _ rfl⟩

theorem Hart.foldl_markDst_marksOnly (a : Hart) (l : List (RFile × Nat)) : a.MarksOnly (l.foldl Hart.markDst a) := by
  induction l generalizing a with
  | nil => exact .refl a
  | cons d l ih => exact (a.markDst_marksOnly d).trans (ih _)

/-- A vector register that is present, or that a mark of a destination makes so, is present after the marks of a list. -/
theorem Hart.foldl_markDst_present {a : Hart} {l : List (RFile × Nat)} {n : Nat}
    (h : (a.cond .v n).1 = .present ∨ (RFile.v, n) ∈ l) : ((l.foldl Hart.markDst a).cond .v n).1 = .present := by
  induction l generalizing a with
  | nil => simpa using h
  | cons d l ih =>
    refine ih ?_
    obtain ⟨fl, m⟩ := d
    rcases h with h | h
    · left
      cases fl with
      | x =>
        show ((a.presX (regNo m) .pending).cond .v n).1 = _
        unfold Hart.presX
        split <;> exact h
      | f => exact h
      | v =>
        by_cases e : regNo n = regNo m
        · show (getReg (setReg a.v (regNo m) _) (regNo n)).pres = _
          rw [e, getReg_setReg_same]
        · show (getReg (setReg a.v (regNo m) _) (regNo n)).pres = _
          rw [getReg_setReg_other _ _ e]
          exact h
    · rcases List.mem_cons.mp h with h | h
      · left
        cases h
        exact Hart.presentV_cond a n 1 0 (by omega)
      · exact .inr h

/-! ### The checks and the entry (R177, R339) -/

/-- The state after a matrix instruction has entered its quad's queue. -/
def State.mqEntered (s : State) (r : MReq) (enter : Quad → Quad) : State :=
  (s.updQuad (quadOf s.cur) (fun q => enter { q with mq := q.mq ++ [s.mcommand r] })).updMe (fun a => a.mentered r s.time s.clk)

theorem firstStop_append_of_none {l m : List (Option Stop)} (h : ∀ c ∈ l, c = none) : firstStop (l ++ m) = firstStop m := by
  induction l with
  | nil => rfl
  | cons c l ih =>
    obtain rfl := h c (List.mem_cons_self ..)
    exact ih fun d hd => h d (List.mem_cons_of_mem _ hd)

/-- What every matrix instruction asks passed, the checks on its row register and its tile decide. -/
theorem State.mgo_ready {s : State} {r : MReq} {enter : Quad → Quad} (h : MatrixReady s r.ets r.groups r.src r.dst r.vdst)
    (hv : r.vsrc = if r.vdst = [] then r.groups.flatMap (fun g => vgroup g.1 g.2) else []) :
    s.mgo r enter = s.guarded (r.rows ++ [r.tile]) (.next (s.mqEntered r enter)) := by
  obtain ⟨hpop, hfmt, hgroups, hmark, hpres, hdue, hvpres, howned, hroom, hroom'⟩ := h
  rw [← hv] at hmark hvpres
  have hany : r.ets.any s.me.fmtInvalid = false := by simpa using hfmt
  have hchecks : ∀ c ∈ [trapIf (r.ets.any s.me.fmtInvalid) 30 (wordOf r.i)] ++ r.groups.map (fun x => s.me.groupStop x.1 x.2) ++
      [s.me.markedAny (xs r.src ++ r.vsrc), s.me.presentAll (xs r.src)], c = none := by
    simp only [hany, trapIf_false, hmark, hpres, List.mem_append, List.mem_map, List.mem_cons, List.not_mem_nil, or_false]
    rintro c ((rfl | ⟨x, hx, rfl⟩) | rfl | rfl)
    · rfl
    · exact hgroups x hx
    · rfl
    · rfl
  have hfull : (decide (8 ≤ ((s.quad (quadOf s.cur)).mq.filter (fun c => c.hart == s.cur)).length) ||
      decide (32 ≤ (s.quad (quadOf s.cur)).mq.length)) = false := by simp [hroom, hroom']
  have hqueue : s.guarded [s.me.presentAll r.vsrc, s.me.ownedAll (xs r.dst ++ r.vdst),
      parkIf (decide (8 ≤ ((s.quad (quadOf s.cur)).mq.filter (fun c => c.hart == s.cur)).length) ||
        decide (32 ≤ (s.quad (quadOf s.cur)).mq.length)) .mqFull] (.next (s.mqEntered r enter)) = .next (s.mqEntered r enter) := by
    rw [hvpres, howned, hfull]
    rfl
  unfold State.mgo
  dsimp only
  rw [if_neg hpop, hdue]
  refine Eq.trans ?_ (congrArg (s.guarded (r.rows ++ [r.tile])) hqueue)
  simp only [State.guarded, List.append_assoc _ r.rows, firstStop_append_of_none hchecks]
  rfl

/-- With no check of its rows or its tile failed, the instruction enters. -/
theorem State.mgo_enters {s : State} {r : MReq} {enter : Quad → Quad} (h : MatrixReady s r.ets r.groups r.src r.dst r.vdst)
    (hv : r.vsrc = if r.vdst = [] then r.groups.flatMap (fun g => vgroup g.1 g.2) else [])
    (hrows : ∀ c ∈ r.rows, c = none) (htile : r.tile = none) : s.mgo r enter = .next (s.mqEntered r enter) := by
  rw [State.mgo_ready h hv]
  refine State.guarded_pass ?_
  rw [firstStop_append_of_none hrows, htile]
  rfl

/-- A trap of its rows is taken. -/
theorem State.mgo_rowTrap {s : State} {r : MReq} {enter : Quad → Quad} {cause : Nat} {v : Word} {l : List (Option Stop)}
    (h : MatrixReady s r.ets r.groups r.src r.dst r.vdst)
    (hv : r.vsrc = if r.vdst = [] then r.groups.flatMap (fun g => vgroup g.1 g.2) else [])
    (hrows : r.rows = some (.trap cause v) :: l) : s.mgo r enter = .next (s.updMe (fun a => a.trap cause v 0)) := by
  rw [State.mgo_ready h hv, hrows]
  rfl

/-- A park's times aside, a hart that parks has its cause. -/
theorem Hart.parkFor_eq (a : Hart) (p : Park) (now clk : Nat) :
    ∃ n m, a.parkFor p now clk = { a with park := some p, since := n, sinceQ := m } := by
  unfold Hart.parkFor
  split
  · next h => exact ⟨a.since, a.sinceQ, by rw [← h]⟩
  · exact ⟨now, clk, rfl⟩

/-- The hart with the destinations of a matrix instruction marked and its place in program order taken. -/
def Hart.mqMarked (a : Hart) (r : MReq) : Hart := (xs r.dst ++ r.vdst).foldl Hart.markDst { a with seq := a.seq + 1 }

theorem Hart.mqMarked_marksOnly (a : Hart) (r : MReq) : { a with seq := a.seq + 1 }.MarksOnly (a.mqMarked r) :=
  Hart.foldl_markDst_marksOnly _ _

/-- The hart's part of the entry: its destinations are marked, and it goes on by 4 or parks until its pop is made. -/
theorem Hart.mentered_spec (a : Hart) (r : MReq) (now clk : Nat) : ∃ pc park n m,
    a.mentered r now clk = { a.mqMarked r with pc := pc, park := park, since := n, sinceQ := m } ∧
    (r.pops = false → pc = a.pc + 4) ∧ (r.pops = true → pc = a.pc ∧ park = some .pop) := by
  have hpc : (a.mqMarked r).pc = a.pc := by rw [(a.mqMarked_marksOnly r).rest]
  cases hp : r.pops with
  | false =>
    refine ⟨(a.mqMarked r).pc + 4, none, (a.mqMarked r).since, (a.mqMarked r).sinceQ, ?_, fun _ => by rw [hpc], nofun⟩
    rw [Hart.mentered, hp]
    rfl
  | true =>
    obtain ⟨n, m, e⟩ := (a.mqMarked r).parkFor_eq .pop now clk
    refine ⟨(a.mqMarked r).pc, some .pop, n, m, ?_, nofun, fun _ => ⟨hpc, rfl⟩⟩
    rw [Hart.mentered, hp]
    exact e

theorem State.mqEntered_quad (s : State) (r : MReq) (enter : Quad → Quad) : (s.mqEntered r enter).quad (quadOf s.cur) =
    enter { s.quad (quadOf s.cur) with mq := (s.quad (quadOf s.cur)).mq ++ [s.mcommand r] } :=
  State.quad_updQuad s (quadOf s.cur) (fun q => enter { q with mq := q.mq ++ [s.mcommand r] })

/-- The registers after an entry are as its marks leave them. -/
theorem State.mqEntered_cond (s : State) (r : MReq) (enter : Quad → Quad) (fl : RFile) (n : Nat) :
    (s.mqEntered r enter).me.cond fl n = (s.me.mqMarked r).cond fl n := by
  have hme : (s.mqEntered r enter).me = s.me.mentered r s.time s.clk := State.me_updMe ..
  obtain ⟨pc, park, n, m, hb, -, -⟩ := s.me.mentered_spec r s.time s.clk
  rw [hme, hb]
  rfl

/-- The entry's effect. -/
theorem State.mqEntered_enters (s : State) (r : MReq) {enter : Quad → Quad} (hmq : ∀ q, (enter q).mq = q.mq)
    (hacc : ∀ q, (enter q).acc = q.acc) : MatrixEnters s (s.mqEntered r enter) r.pops r.op := by
  have hq := s.mqEntered_quad r enter
  have hme : (s.mqEntered r enter).me = s.me.mentered r s.time s.clk := State.me_updMe ..
  have hmark := s.me.mqMarked_marksOnly r
  obtain ⟨pc, park, n, m, hb, hon, hpop⟩ := s.me.mentered_spec r s.time s.clk
  rw [hb] at hme
  refine ⟨⟨s.mcommand r, ?_, rfl, rfl, rfl, rfl, rfl⟩, fun hp => ?_, fun hp => ?_, ?_, fun k => ⟨?_, ?_, ?_⟩, ?_, ?_, ?_, ?_, rfl, rfl⟩
  · rw [hq, hmq, List.concat_eq_append]
  · rw [hme]
    exact hon hp
  · rw [hme]
    exact hpop hp
  · rw [hq, hacc]
  · rw [hme]
    exact hmark.v k
  · rw [hme]
    exact hmark.f k
  · rw [hme]
    exact hmark.xv k
  all_goals rw [hme, hmark.rest]

/-- A matrix instruction that pushes nothing to its quad but its command. -/
theorem State.mgo_enters_id {s : State} {r : MReq} (h : MatrixReady s r.ets r.groups r.src r.dst r.vdst)
    (hv : r.vsrc = if r.vdst = [] then r.groups.flatMap (fun g => vgroup g.1 g.2) else [])
    (hrows : ∀ c ∈ r.rows, c = none) (htile : r.tile = none) :
    ∃ u, s.mgo r id = .next u ∧ MatrixEnters s u r.pops r.op :=
  ⟨_, State.mgo_enters h hv hrows htile, State.mqEntered_enters s r (fun _ => rfl) (fun _ => rfl)⟩

theorem trapIf_of {p : Prop} [Decidable p] {c : Nat} {v : Word} (h : p) : trapIf (decide p) c v = some (.trap c v) :=
  if_pos (decide_eq_true h)

theorem trapIf_of_not {p : Prop} [Decidable p] {c : Nat} {v : Word} (h : ¬ p) : trapIf (decide p) c v = none :=
  if_neg (by simpa using h)

/-! ### The checks of tiles and wake words (R39, R346) -/

theorem State.tileStop_of_fits {s : State} {hw : Word} {fits : TileEntry → Bool} (h : TileFits s hw (fun e => fits e = true)) :
    s.tileStop hw fits = none := by
  obtain ⟨t, ht, hfit⟩ := h
  simp only [State.tileStop, ht, hfit]
  rfl

theorem State.operandM_eq (s : State) (k : BitVec 2) (a : Reg) : s.operandM k a = matrixSrc s k a := by
  unfold State.operandM matrixSrc
  have hk : k = 0 ∨ k = 1 ∨ k = 2 ∨ k = 3 := by revert k; decide
  rcases hk with rfl | rfl | rfl | rfl <;> rfl

theorem State.wakeStop_none {s : State} {w : Word} (h : w.toNat < 2 ^ 21 ∧ w.toNat / 2 ^ 14 % 2 ^ 2 = 0 ∧ w.toNat / 2 ^ 16 % 2 ^ 5 ≠ 0 ∧
    w.toNat / 2 ^ 0 % 2 ^ 14 < 12288 ∧ s.partOf (w.toNat / 2 ^ 0 % 2 ^ 14) = s.partOf s.cur) : s.wakeStop w = none := by
  obtain ⟨h₁, h₂, h₃, h₄, h₅⟩ := h
  refine if_neg ?_
  dsimp only [fieldOf]
  simp only [Bool.or_eq_true, decide_eq_true_eq, not_or]
  exact ⟨⟨⟨⟨Nat.not_le.mpr h₁, fun h => of_decide_eq_true h h₂⟩, fun h => h₃ (of_decide_eq_true h)⟩, fun h => by have := of_decide_eq_true h; omega⟩,
    fun h => of_decide_eq_true h h₅⟩

/-! ### The instructions -/

section
variable {s : State}

theorem mrow_issues (a : Reg) (add : Bool) (m : BitVec 2) (e : BitVec 4) (k t : BitVec 2) (d : Reg) (r : Nat × Word)
    (h : MatrixReady s [e.toNat] (if k = 0 then [(a.toNat, 1)] else []) (if k = 2 then [d, a] else [d]) [] []) :
    (128 ≤ rowLo (s.me.xv d) → exec (.mrow a add m e k t d) s = .next (s.updMe (fun h => h.trap 31 (s.me.xv d) 0))) ∧
    (rowLo (s.me.xv d) < 128 → ((s.quad (quadOf s.cur)).m[m.toNat]'(m.isLt)).kind = some r →
      etWidth (List.replicate 4 r.2) r.1 = etWidth s.me.fmts e.toNat →
      (k = 2 → TileFits s (s.me.xv a) (fun i => rowHi (s.me.xv d) < i.rows ∧ matrixK (etWidth s.me.fmts e.toNat) ≤ i.cols ∧
        etWidth s.me.fmts i.ty = etWidth s.me.fmts e.toNat)) →
      ∃ u, exec (.mrow a add m e k t d) s = .next u ∧ MatrixEnters s u (t.getLsbD 0)
        (.row add (t.getLsbD 1) (t.getLsbD 0) m.toNat e.toNat (rowLo (s.me.xv d)) (rowHi (s.me.xv d)) (matrixSrc s k a) r)) := by
  have hv : (if k = 0 then vgroup a.toNat 1 else []) =
      if ([] : List (RFile × Nat)) = [] then (if k = 0 then [(a.toNat, 1)] else []).flatMap (fun g => vgroup g.1 g.2) else [] := by
    split <;> simp
  refine ⟨fun hlo => ?_, fun hlo hkind hw hfit => ?_⟩
  · show execMrow a add m e k t d s = _
    unfold execMrow
    exact State.mgo_rowTrap h hv (congrArg (· :: _) (trapIf_of hlo))
  · show ∃ u, execMrow a add m e k t d s = _ ∧ _
    have htile : (if k = 2 then s.tileStop (s.me.xv a) (fun t => decide (rowHi (s.me.xv d) < t.rows) &&
        decide (matrixK (etWidth s.me.fmts e.toNat) ≤ t.cols) && decide (etWidth s.me.fmts t.ty = etWidth s.me.fmts e.toNat))
        else none) = none := by
      split
      · next hk =>
        obtain ⟨t, ht, hfits⟩ := hfit hk
        exact State.tileStop_of_fits ⟨t, ht, by simpa [and_assoc] using hfits⟩
      · rfl
    unfold execMrow
    dsimp only
    simp only [hkind, State.operandM_eq]
    exact State.mgo_enters_id h hv
      (List.forall_mem_cons.mpr ⟨trapIf_of_not (Nat.not_le.mpr hlo), List.forall_mem_singleton.mpr (trapIf_of_not (not_not.mpr hw))⟩) htile

theorem msca_issues (a e : Reg) (t : BitVec 2) (d : Reg) (h : MatrixReady s [] [(a.toNat, 2)] [d, e] [] [])
    (hlo : rowLo (s.me.xv d) < 128) (hhi : rowHi (s.me.xv d) < 128) :
    ∃ u, exec (.msca a e t d) s = .next u ∧ MatrixEnters s u (t.getLsbD 0)
      (.sca (t.getLsbD 1) (t.getLsbD 0) (rowLo (s.me.xv d)) (rowHi (s.me.xv d)) (s.me.xv e).toInt a.toNat) := by
  have hrow : (decide (128 ≤ rowLo (s.me.xv d)) || decide (128 ≤ rowHi (s.me.xv d))) = false := by simp [hlo, hhi]
  exact State.mgo_enters_id h (by simp) (List.forall_mem_singleton.mpr (by rw [hrow]; rfl)) rfl

/-- A number summed from four bits has those bits. -/
theorem sumBits_testBit : ∀ (a b c d : Bool) (k : Fin 4),
    ([(a, 0), (b, 1), (c, 2), (d, 3)].foldl (fun n (x : Bool × Nat) => if x.1 then n + 2 ^ x.2 else n) 0).testBit k.val =
      [a, b, c, d][k] := by decide

/-- The stationary tiles that hold a type, as MCFG's bits name them (R348). -/
theorem loadedBits_testBit (v : Vector Stationary 4) (k : Fin 4) :
    (v.toList.zipIdx.foldl (fun n (x : Stationary × Nat) => if x.1.kind.isSome then n + 2 ^ x.2 else n) 0).testBit k.val =
      v[k].kind.isSome := by
  have hlist : v.toList = [v[0], v[1], v[2], v[3]] := by
    refine List.ext_getElem (by simp) fun i h _ => ?_
    have hi : i < 4 := by simpa using h
    interval_cases i <;> simp
  rw [hlist]
  refine (sumBits_testBit v[0].kind.isSome v[1].kind.isSome v[2].kind.isSome v[3].kind.isSome k).trans ?_
  fin_cases k <;> rfl

theorem mcfg_issues (a d : Reg) (h : MatrixReady s [] [] [a] [d] []) :
    ((s.me.xv a).toNat < 16 → ∃ u n, exec (.mcfg a d) s = .next u ∧ MatrixEnters s u false (.cfg d.toNat (s.me.xv a) n) ∧
      (∀ k : Fin 4, n.testBit k.val = ((s.quad (quadOf s.cur)).m[k]).kind.isSome) ∧ (d ≠ 0 → (u.me.cond .x d.toNat).1 = .pending)) ∧
    (16 ≤ (s.me.xv a).toNat → exec (.mcfg a d) s = .next (s.updMe (fun h => h.trap 31 (s.me.xv a) 0))) := by
  refine ⟨fun hv => ?_, fun hv => ?_⟩
  · refine ⟨_, _, State.mgo_enters h rfl (List.forall_mem_singleton.mpr (trapIf_of_not (Nat.not_le.mpr hv))) rfl,
      State.mqEntered_enters s _ (fun _ => rfl) (fun _ => rfl), loadedBits_testBit _, fun hd => ?_⟩
    rw [State.mqEntered_cond]
    exact (Hart.presX_cond _ d.isLt d.isLt _).trans (if_pos ⟨rfl, fun h => hd (BitVec.eq_of_toNat_eq h)⟩)
  · exact State.mgo_rowTrap (l := []) h rfl (congrArg (· :: []) (trapIf_of hv))

theorem mldb_issues (a : Reg) (e : BitVec 4) (k : BitVec 2) (c v : Bool) (d : Reg)
    (h : MatrixReady s [e.toNat] (if k = 0 then [(a.toNat, 8)] else []) (if k = 2 then [a] else []) [] [])
    (hfit : k = 2 → TileFits s (s.me.xv a) (fun i => matrixK (etWidth s.me.fmts e.toNat) * 256 ≤ i.rows * i.cols ∧
      etWidth s.me.fmts i.ty = etWidth s.me.fmts e.toNat)) :
    ∃ u, exec (.mldb a e k c v d) s = .next u ∧
      MatrixEnters s u (c || v) (.ldb c v (d.toNat % 4) (d.toNat / 4) e.toNat (matrixSrc s k a)) ∧
      ((u.quad (quadOf s.cur)).m[d.toNat % 4]'(Nat.mod_lt _ (by decide))).kind =
        some (e.toNat, if e.toNat < 12 then 0 else s.me.fmts.getD (e.toNat - 12) 0) ∧
      (∀ j : Fin 4, ((u.quad (quadOf s.cur)).m[j]).bits = ((s.quad (quadOf s.cur)).m[j]).bits) := by
  have hv : (if k = 0 then vgroup a.toNat 8 else []) =
      if ([] : List (RFile × Nat)) = [] then (if k = 0 then [(a.toNat, 8)] else []).flatMap (fun g => vgroup g.1 g.2) else [] := by
    split <;> simp
  have htile : (if k = 2 then s.tileStop (s.me.xv a) (fun t => decide (matrixK (etWidth s.me.fmts e.toNat) * 256 ≤ t.rows * t.cols) &&
      decide (etWidth s.me.fmts t.ty = etWidth s.me.fmts e.toNat)) else none) = none := by
    split
    · next hk =>
      obtain ⟨t, ht, hfits⟩ := hfit hk
      exact State.tileStop_of_fits ⟨t, ht, by simpa using hfits⟩
    · rfl
  show ∃ u, execMldb a e k c v d s = _ ∧ _
  unfold execMldb
  dsimp only
  simp only [State.operandM_eq]
  refine ⟨_, State.mgo_enters h hv (fun _ hc => nomatch hc) htile, State.mqEntered_enters s _ (fun _ => rfl) (fun _ => rfl), ?_, fun j => ?_⟩
  all_goals simp only [State.mqEntered_quad]
  · exact congrArg Stationary.kind (Vector.getElem_set_self ..)
  · simp only [Fin.getElem_fin, Vector.getElem_set]
    split
    · next hj => simp only [hj]
    · rfl

theorem mzero_issues (a : Reg) (h : MatrixReady s [] [] [a] [] []) :
    (rowLo (s.me.xv a) + rowHi (s.me.xv a) ≤ 128 →
      ∃ u, exec (.mzero a) s = .next u ∧ MatrixEnters s u false (.zero (rowLo (s.me.xv a)) (rowHi (s.me.xv a)))) ∧
    (128 < rowLo (s.me.xv a) + rowHi (s.me.xv a) → exec (.mzero a) s = .next (s.updMe (fun h => h.trap 31 (s.me.xv a) 0))) :=
  ⟨fun hr => State.mgo_enters_id h rfl (List.forall_mem_singleton.mpr (trapIf_of_not (Nat.not_lt.mpr hr))) rfl,
    fun hr => State.mgo_rowTrap (l := []) h rfl (congrArg (· :: []) (trapIf_of hr))⟩

theorem mrd_issues (a : Reg) (e : BitVec 4) (push : Bool) (d : Reg)
    (h : MatrixReady s [] [(d.toNat, if e = 10 then 8 else 4)] [a] [] (vgroup d.toNat (if e = 10 then 8 else 4)))
    (hlo : rowLo (s.me.xv a) < 128) :
    ∃ u, exec (.mrd a e push d) s = .next u ∧ MatrixEnters s u false (.rd push e.toNat d.toNat (rowLo (s.me.xv a))) ∧
      (∀ n ∈ vgroup d.toNat (if e = 10 then 8 else 4), (u.me.cond .v n.2).1 = .present) := by
  have hv : [] = if vgroup d.toNat (if e = 10 then 8 else 4) = [] then
      [(d.toNat, if e = 10 then 8 else 4)].flatMap (fun g => vgroup g.1 g.2) else [] := by
    simp [vgroup]
  refine ⟨_, State.mgo_enters h hv (List.forall_mem_singleton.mpr (trapIf_of_not (Nat.not_le.mpr hlo))) rfl,
    State.mqEntered_enters s _ (fun _ => rfl) (fun _ => rfl), fun n hn => ?_⟩
  rw [State.mqEntered_cond]
  obtain ⟨fl, n⟩ := n
  obtain ⟨rfl, -⟩ := (mem_vgroup _ _ fl n).mp hn
  exact Hart.foldl_markDst_present (.inr hn)

/-- The drains, whatever their form (R345, R346). -/
theorem mdrain_issues (i : Instr) (ext add push : Bool) (et : Nat) (a b d : Reg)
    (h : MatrixReady s (if ext then [et] else []) [] (if b = 0 then [d, a] else [d, a, b, b + 1]) [] []) :
    ((rowHi (s.me.xv d) = 0 ∨ 128 < rowLo (s.me.xv d) + rowHi (s.me.xv d)) →
      s.mdrain i ext add push et a b d = .next (s.updMe (fun h => h.trap 31 (s.me.xv d) 0))) ∧
    (0 < rowHi (s.me.xv d) → rowLo (s.me.xv d) + rowHi (s.me.xv d) ≤ 128 → (b ≠ 0 → s.wakeStop (s.me.xv b) = none) →
      TileFits s (s.me.xv a) (fun i => rowTile (s.me.xv d) + rowHi (s.me.xv d) ≤ i.rows ∧ 256 ≤ i.cols ∧
        if ext then etWidth s.me.fmts i.ty = etWidth s.me.fmts et else i.ty = 10) →
      ∃ u, s.mdrain i ext add push et a b d = .next u ∧ MatrixEnters s u false
        (.drain ext add push et (rowLo (s.me.xv d)) (rowHi (s.me.xv d)) (rowTile (s.me.xv d)) (s.me.xv a)
          (if b = 0 then none else some (s.me.xv b, s.me.xv (b + 1))))) := by
  refine ⟨fun hbad => ?_, fun hpos hlim hwake hfit => ?_⟩
  · have hrow : (decide (rowHi (s.me.xv d) = 0) || decide (128 < rowLo (s.me.xv d) + rowHi (s.me.xv d))) = true := by simpa using hbad
    exact State.mgo_rowTrap h rfl (congrArg (· :: _) (if_pos hrow))
  · have hrow : (decide (rowHi (s.me.xv d) = 0) || decide (128 < rowLo (s.me.xv d) + rowHi (s.me.xv d))) = false := by
      simp only [Bool.or_eq_false_iff, decide_eq_false_iff_not]
      omega
    have hrows : ∀ c ∈ [rowStop (decide (rowHi (s.me.xv d) = 0) || decide (128 < rowLo (s.me.xv d) + rowHi (s.me.xv d))) (s.me.xv d),
        if b = 0 then none else s.wakeStop (s.me.xv b)], c = none := by
      refine List.forall_mem_cons.mpr ⟨by rw [hrow]; rfl, List.forall_mem_singleton.mpr ?_⟩
      split
      · rfl
      · next hb => exact hwake hb
    have htile : s.tileStop (s.me.xv a) (fun t => decide (rowTile (s.me.xv d) + rowHi (s.me.xv d) ≤ t.rows) && decide (256 ≤ t.cols) &&
        (if ext then decide (etWidth s.me.fmts t.ty = etWidth s.me.fmts et) else decide (t.ty = 10))) = none := by
      obtain ⟨t, ht, hrow, hcol, hty⟩ := hfit
      refine State.tileStop_of_fits ⟨t, ht, ?_⟩
      cases ext
      · simpa [hrow, hcol] using hty
      · simpa [hrow, hcol] using hty
    exact State.mgo_enters_id h rfl hrows htile

end

/-! ### The obligation -/

/-- Settles O35: each instruction's request, its checks passed, enters the quad's queue; a row out of range is the first check after what
every matrix instruction asks. -/
theorem matrixIssues : Obligations.MatrixIssues := by
  unfold Obligations.MatrixIssues
  refine ⟨fun s a add m e k t d r h => mrow_issues a add m e k t d r h, fun s a e t d h hlo hhi => msca_issues a e t d h hlo hhi,
    fun s a d h => mcfg_issues a d h, fun s a e k c v d h hfit => mldb_issues a e k c v d h hfit, fun s a h => mzero_issues a h,
    fun s a e push d h hlo => mrd_issues a e push d h hlo, fun s i ext add push et a b d hi het h => ?drain⟩
  case drain =>
    have hexec : exec i s = s.mdrain i ext add push et a b d := by
      simp only [List.mem_cons, Prod.mk.injEq, List.not_mem_nil, or_false] at hi
      rcases hi with ⟨rfl, rfl, rfl, -, rfl⟩ | ⟨rfl, rfl, rfl, -, rfl⟩ | ⟨rfl, rfl, rfl, rfl, -⟩ | ⟨rfl, rfl, rfl, rfl, -⟩
      · rfl
      · rfl
      · show s.mdrain _ true false false (BitVec.ofNat 4 et).toNat a b d = _
        rw [BitVec.toNat_ofNat, Nat.mod_eq_of_lt het]
      · show s.mdrain _ true true false (BitVec.ofNat 4 et).toNat a b d = _
        rw [BitVec.toNat_ofNat, Nat.mod_eq_of_lt het]
    obtain ⟨hbad, hgood⟩ := mdrain_issues i ext add push et a b d h
    refine ⟨fun hrow => hexec.trans (hbad hrow), fun hpos hlim hwake hfit => ?_⟩
    rw [hexec]
    exact hgood hpos hlim (fun hb => State.wakeStop_none (hwake hb)) hfit

end Sys2Proof.Machine
end

section
/-!
SUPPORT. Exact numbers as rationals (R190 to R204): the arithmetic of `Exact`, the magnitudes of a format in their order, and the one
rounding, which takes a number to the code below or above it.
-/
namespace Sys2Proof.Machine
open Sys2Proof.Claims

/-! ### Exact arithmetic -/

theorem pow2_of_nonneg {k : Int} (h : 0 ≤ k) : (pow2 k : ℚ) = 2 ^ k := by
  obtain ⟨n, rfl⟩ := Int.eq_ofNat_of_zero_le h
  simp [pow2]

theorem pow2_pos (k : Int) : 0 < pow2 k := Nat.two_pow_pos _

theorem pow2_div_pow2_neg (k : Int) : (pow2 k : ℚ) / pow2 (-k) = 2 ^ k := by
  rcases le_total 0 k with h | h
  · have hneg : pow2 (-k) = 1 := by simp [pow2, h]
    rw [hneg, pow2_of_nonneg h, Nat.cast_one, div_one]
  · have hpos : pow2 k = 1 := by simp [pow2, h]
    rw [hpos, pow2_of_nonneg (Int.neg_nonneg_of_nonpos h), zpow_neg, Nat.cast_one, one_div, inv_inv]

theorem ratOf_add {a b : Exact} (ha : 0 < a.den) (hb : 0 < b.den) : ratOf (a.add b) = ratOf a + ratOf b := by
  have hA : (a.den : ℚ) ≠ 0 := by exact_mod_cast ha.ne'
  have hB : (b.den : ℚ) ≠ 0 := by exact_mod_cast hb.ne'
  have split {e : Int} (h : min a.exp b.exp ≤ e) : (pow2 (e - min a.exp b.exp) : ℚ) * 2 ^ min a.exp b.exp = 2 ^ e := by
    rw [pow2_of_nonneg (Int.sub_nonneg.mpr h), ← zpow_add₀ two_ne_zero, Int.sub_add_cancel]
  have h₁ := split (min_le_left a.exp b.exp)
  have h₂ := split (min_le_right a.exp b.exp)
  simp only [ratOf, Exact.add]
  rw [← h₁, ← h₂]
  push_cast
  field_simp

theorem ratOf_mul (a b : Exact) : ratOf (a.mul b) = ratOf a * ratOf b := by
  simp only [ratOf, Exact.mul, zpow_add₀ (two_ne_zero : (2 : ℚ) ≠ 0)]
  push_cast
  ring

theorem ratOf_neg (a : Exact) : ratOf a.neg = -ratOf a := by
  simp only [ratOf, Exact.neg]
  push_cast
  ring

theorem ratOf_div {a b : Exact} (h : b.num ≠ 0) : ratOf (a.div b) = ratOf a / ratOf b := by
  have hnum : (b.num : ℚ) ≠ 0 := by exact_mod_cast h
  have habs : (b.num.natAbs : ℚ) = b.num * (if b.num < 0 then -1 else 1) := by
    rw [Nat.cast_natAbs]
    split
    · next hn => rw [abs_of_neg hn]; push_cast; ring
    · next hn => rw [abs_of_nonneg (not_lt.mp hn)]; ring
  simp only [ratOf, Exact.div, zpow_sub₀ (two_ne_zero : (2 : ℚ) ≠ 0)]
  push_cast
  rw [habs]
  split <;> field_simp

theorem ratOf_scale (a : Exact) (k : Int) : ratOf (a.scale k) = ratOf a * 2 ^ k := by
  simp only [ratOf, Exact.scale, zpow_add₀ (two_ne_zero : (2 : ℚ) ≠ 0)]
  ring

theorem ratOf_eq_zero_iff {a : Exact} (h : 0 < a.den) : ratOf a = 0 ↔ a.num = 0 := by
  have hden : (a.den : ℚ) ≠ 0 := by exact_mod_cast h.ne'
  have hexp : (2 : ℚ) ^ a.exp ≠ 0 := zpow_ne_zero _ two_ne_zero
  simp [ratOf, hden, hexp]

theorem ratOf_neg_iff {a : Exact} (h : 0 < a.den) : ratOf a < 0 ↔ a.num < 0 := by
  have hden : (0 : ℚ) < a.den := by exact_mod_cast h
  have hexp : (0 : ℚ) < 2 ^ a.exp := zpow_pos two_pos _
  have e : ratOf a = a.num * (2 ^ a.exp / a.den) := by simp only [ratOf]; ring
  rw [← not_le, e, mul_nonneg_iff_of_pos_right (div_pos hexp hden), not_le]
  exact_mod_cast Iff.rfl

theorem ratOf_nonneg {a : Exact} (h : 0 ≤ a.num) : 0 ≤ ratOf a := by
  have hnum : (0 : ℚ) ≤ a.num := by exact_mod_cast h
  exact mul_nonneg (div_nonneg hnum (Nat.cast_nonneg _)) (zpow_nonneg (by norm_num) _)

theorem abs_ratOf (a : Exact) : |ratOf a| = a.num.natAbs / a.den * 2 ^ a.exp := by
  simp only [ratOf]
  rw [abs_mul, abs_div, abs_of_pos (zpow_pos (two_pos : (0 : ℚ) < 2) a.exp), Nat.abs_cast, Nat.cast_natAbs, Int.cast_abs]

/-- A magnitude over a power of 2, as a fraction of natural numbers. -/
theorem abs_ratOf_over (a : Exact) (t : Int) :
    |ratOf a| = ((a.num.natAbs * pow2 (a.exp - t) : Nat) : ℚ) / ((a.den * pow2 (-(a.exp - t)) : Nat) : ℚ) * 2 ^ t := by
  have h : (2 : ℚ) ^ a.exp = 2 ^ (a.exp - t) * 2 ^ t := by rw [← zpow_add₀ two_ne_zero, Int.sub_add_cancel]
  rw [abs_ratOf, h, ← pow2_div_pow2_neg (a.exp - t)]
  push_cast
  rw [mul_div_mul_comm]
  ring

/-- A number of nonzero size lies between powers of 2 whose exponents its terms' lengths give. -/
theorem log2_bounds {n : Nat} (h : n ≠ 0) : (2 : ℚ) ^ (Nat.log2 n : Int) ≤ n ∧ (n : ℚ) < 2 ^ ((Nat.log2 n : Int) + 1) := by
  have hlo : 2 ^ Nat.log2 n ≤ n := Nat.log2_self_le h
  have hhi : n < 2 ^ (Nat.log2 n + 1) := Nat.lt_log2_self
  constructor
  · exact_mod_cast hlo
  · exact_mod_cast hhi

/-- `Exact.log2` is the exponent of the magnitude. -/
theorem Exact.log2_spec {a : Exact} (hden : 0 < a.den) (hnum : a.num ≠ 0) :
    (2 : ℚ) ^ a.log2 ≤ |ratOf a| ∧ |ratOf a| < 2 ^ (a.log2 + 1) := by
  have hn : a.num.natAbs ≠ 0 := Int.natAbs_ne_zero.mpr hnum
  obtain ⟨hnlo, hnhi⟩ := log2_bounds hn
  obtain ⟨hdlo, hdhi⟩ := log2_bounds hden.ne'
  have hD : (0 : ℚ) < a.den := by exact_mod_cast hden
  have hexp : (0 : ℚ) < 2 ^ a.exp := zpow_pos two_pos _
  let p : Int := Nat.log2 a.num.natAbs
  let q : Int := Nat.log2 a.den
  have hbelow : a.num.natAbs * pow2 (-(p - q)) < a.den * pow2 (p - q) ↔ (a.num.natAbs : ℚ) / a.den < 2 ^ (p - q) := by
    have h₁ : (0 : ℚ) < pow2 (-(p - q)) := by exact_mod_cast pow2_pos _
    rw [← pow2_div_pow2_neg, div_lt_div_iff₀ hD h₁, mul_comm (pow2 (p - q) : ℚ)]
    exact_mod_cast Iff.rfl
  have two {e : Int} : (2 : ℚ) ^ (e + 1) = 2 * 2 ^ e := by rw [zpow_add_one₀ two_ne_zero, mul_comm]
  have hpq : (2 : ℚ) ^ (p - q) * 2 ^ q = 2 ^ p := by rw [← zpow_add₀ two_ne_zero, Int.sub_add_cancel]
  have hq : (0 : ℚ) < 2 ^ q := zpow_pos two_pos _
  have hpq₀ : (0 : ℚ) < 2 ^ (p - q) := zpow_pos two_pos _
  rw [two] at hnhi hdhi
  rw [abs_ratOf]
  by_cases hb : a.num.natAbs * pow2 (-(p - q)) < a.den * pow2 (p - q)
  · have hlog : a.log2 = p - q - 1 + a.exp := congrArg (· + a.exp) (if_pos (decide_eq_true hb))
    have hhalf : (2 : ℚ) ^ (p - q) = 2 * 2 ^ (p - q - 1) := by rw [← two, Int.sub_add_cancel]
    rw [hlog, show p - q - 1 + a.exp + 1 = p - q + a.exp by ring, zpow_add₀ two_ne_zero, zpow_add₀ two_ne_zero,
      mul_le_mul_iff_of_pos_right hexp, mul_lt_mul_iff_of_pos_right hexp, le_div_iff₀ hD]
    refine ⟨?_, hbelow.mp hb⟩
    rw [hhalf] at hpq hpq₀
    nlinarith
  · have hlog : a.log2 = p - q + a.exp := congrArg (· + a.exp) (if_neg (by simpa using hb))
    rw [hlog, show p - q + a.exp + 1 = p - q + 1 + a.exp by ring, zpow_add₀ two_ne_zero, zpow_add₀ two_ne_zero,
      mul_le_mul_iff_of_pos_right hexp, mul_lt_mul_iff_of_pos_right hexp, div_lt_iff₀ hD, two]
    refine ⟨not_lt.mp (mt hbelow.mpr hb), ?_⟩
    nlinarith

/-! ### The magnitudes of a format (R197, R204) -/

/-- A significand `n` at exponent `e`: its code counted from the least exponent names it, also where `n` has just reached the next
exponent's. -/
theorem ratOf_magnitude (f : Fmt) {j n : Nat} (hj : j = 0 ∨ 2 ^ f.m ≤ n) (hn : n ≤ 2 ^ (f.m + 1)) :
    ratOf (f.magnitude (j * 2 ^ f.m + n)) = n * 2 ^ (f.emin + j - f.m) := by
  have hM : 0 < 2 ^ f.m := Nat.two_pow_pos _
  have hcode {e m : Nat} (hm : m < 2 ^ f.m) : (e * 2 ^ f.m + m) / 2 ^ f.m = e ∧ (e * 2 ^ f.m + m) % 2 ^ f.m = m := by
    rw [Nat.add_comm, Nat.add_mul_div_right _ _ hM, Nat.add_mul_mod_self_right, Nat.div_eq_of_lt hm, Nat.mod_eq_of_lt hm, Nat.zero_add]
    exact ⟨rfl, rfl⟩
  have hnormal {e m : Nat} (he : e ≠ 0) (hm : m < 2 ^ f.m) :
      ratOf (f.magnitude (e * 2 ^ f.m + m)) = (2 ^ f.m + m : Nat) * 2 ^ ((e : Int) - f.bias - f.m) := by
    obtain ⟨h₁, h₂⟩ := hcode (e := e) hm
    simp only [Fmt.magnitude, h₁, h₂, if_neg he, ratOf]
    push_cast
    ring
  rcases Nat.lt_or_ge n (2 ^ f.m) with hsub | hge
  · obtain rfl : j = 0 := hj.resolve_right (by omega)
    obtain ⟨h₁, h₂⟩ := hcode (e := 0) hsub
    simp only [Fmt.magnitude, h₁, h₂, if_pos, ratOf]
    simp
  · rcases Nat.lt_or_ge n (2 ^ (f.m + 1)) with hlt | htop
    · have hm : n - 2 ^ f.m < 2 ^ f.m := by rw [Nat.pow_succ] at hlt; omega
      have e : j * 2 ^ f.m + n = (j + 1) * 2 ^ f.m + (n - 2 ^ f.m) := by rw [Nat.add_one_mul]; omega
      rw [e, hnormal (Nat.succ_ne_zero j) hm, Nat.add_sub_cancel' hge]
      congr 2
      simp only [Fmt.emin]
      push_cast
      ring
    · obtain rfl : n = 2 ^ (f.m + 1) := Nat.le_antisymm hn htop
      have e : j * 2 ^ f.m + 2 ^ (f.m + 1) = (j + 2) * 2 ^ f.m + 0 := by rw [Nat.pow_succ]; ring
      have hexp : (j + 2 : Nat) - (f.bias : Int) - f.m = f.emin + j - f.m + 1 := by
        simp only [Fmt.emin]
        push_cast
        ring
      rw [e, hnormal (by omega) hM, hexp, zpow_add_one₀ two_ne_zero]
      push_cast
      ring

/-- Every code is a significand at an exponent. -/
theorem Fmt.code_split (f : Fmt) (c : Nat) : ∃ j n, c = j * 2 ^ f.m + n ∧ (j = 0 ∨ 2 ^ f.m ≤ n) ∧ n < 2 ^ (f.m + 1) := by
  have hM : 0 < 2 ^ f.m := Nat.two_pow_pos _
  have hmod := Nat.mod_lt c hM
  have hdiv := Nat.div_add_mod c (2 ^ f.m)
  have h2 : 2 ^ (f.m + 1) = 2 * 2 ^ f.m := by rw [Nat.pow_succ, Nat.mul_comm]
  cases he : c / 2 ^ f.m with
  | zero =>
    rw [he] at hdiv
    exact ⟨0, c, by omega, .inl rfl, by omega⟩
  | succ j =>
    rw [he, Nat.mul_succ] at hdiv
    exact ⟨j, 2 ^ f.m + c % 2 ^ f.m, by rw [Nat.mul_comm]; omega, .inr (by omega), by omega⟩

theorem ratOf_magnitude_lt_succ (f : Fmt) (c : Nat) : ratOf (f.magnitude c) < ratOf (f.magnitude (c + 1)) := by
  obtain ⟨j, n, rfl, hj, hn⟩ := f.code_split c
  rw [Nat.add_assoc, ratOf_magnitude f hj hn.le, ratOf_magnitude f (hj.imp_right fun h => h.trans (Nat.le_succ n)) hn]
  have hexp : (0 : ℚ) < 2 ^ (f.emin + j - f.m) := zpow_pos two_pos _
  exact mul_lt_mul_of_pos_right (by push_cast; linarith) hexp

/-- Magnitudes are ordered as their codes. -/
theorem ratOf_magnitude_strictMono (f : Fmt) : StrictMono fun c => ratOf (f.magnitude c) := strictMono_nat_of_lt_succ (ratOf_magnitude_lt_succ f)

/-- A number lies between one code and the next only. -/
theorem magnitude_code_unique {f : Fmt} {v : ℚ} {k c : Nat} (hk : ratOf (f.magnitude k) ≤ v) (hk' : v < ratOf (f.magnitude (k + 1)))
    (hc : ratOf (f.magnitude c) ≤ v) (hc' : v < ratOf (f.magnitude (c + 1))) : k = c := by
  have h₁ : k < c + 1 := (ratOf_magnitude_strictMono f).lt_iff_lt.mp (hk.trans_lt hc')
  have h₂ : c < k + 1 := (ratOf_magnitude_strictMono f).lt_iff_lt.mp (hc.trans_lt hk')
  omega

/-! ### The one rounding (R201, R204) -/

/-- When a magnitude `v` between the codes `k` and `k + 1` goes up, in a mode and with a sign; a stochastic mode may do either. -/
def RoundsUpAt (f : Fmt) (mode : RMode) (neg : Bool) (k : Nat) (v : ℚ) (up : Bool) : Prop :=
  match mode with
  | .rne => up = true ↔ ratOf (f.magnitude k) + ratOf (f.magnitude (k + 1)) < 2 * v ∨
      (ratOf (f.magnitude k) + ratOf (f.magnitude (k + 1)) = 2 * v ∧ (k % 2 = 1 ∨ (f.m = 0 ∧ 0 < k)))
  | .rtz => up = false
  | .rdn => up = true ↔ neg = true ∧ ratOf (f.magnitude k) < v
  | .rup => up = true ↔ neg = false ∧ ratOf (f.magnitude k) < v
  | .rmm => up = true ↔ ratOf (f.magnitude k) + ratOf (f.magnitude (k + 1)) ≤ 2 * v
  | .sr _ => True

/-- The position of a fraction between two integers, in units. -/
theorem div_between {a d : Nat} (hd : 0 < d) (u : ℚ) :
    ((a : ℚ) / d * u) = ((a / d : Nat) + ((a % d : Nat) : ℚ) / d) * u := by
  have hD : (d : ℚ) ≠ 0 := by exact_mod_cast hd.ne'
  have h : (a : ℚ) = d * (a / d : Nat) + (a % d : Nat) := by exact_mod_cast (Nat.div_add_mod a d).symm
  rw [← mul_div_cancel_left₀ ((a / d : Nat) : ℚ) hD, ← add_div, ← h]

/-- A remainder against its divisor, as a magnitude against the middle and the ends of its interval. -/
theorem roundsUp_at {f : Fmt} {mode : RMode} {neg : Bool} {j n r d : Nat} {v : ℚ} (hj : j = 0 ∨ 2 ^ f.m ≤ n) (hn : n < 2 ^ (f.m + 1))
    (hd : 0 < d) (hv : v = (n + (r : ℚ) / d) * 2 ^ (f.emin + j - f.m)) :
    RoundsUpAt f mode neg (j * 2 ^ f.m + n) v (roundsUp mode neg n r d) := by
  have hlo : ratOf (f.magnitude (j * 2 ^ f.m + n)) = n * 2 ^ (f.emin + j - f.m) := ratOf_magnitude f hj hn.le
  have hhi : ratOf (f.magnitude (j * 2 ^ f.m + n + 1)) = (n + 1 : Nat) * 2 ^ (f.emin + j - f.m) :=
    ratOf_magnitude f (hj.imp_right fun h => h.trans (Nat.le_succ n)) hn
  have hu : (0 : ℚ) < 2 ^ (f.emin + j - f.m) := zpow_pos two_pos _
  have hD : (0 : ℚ) < d := by exact_mod_cast hd
  have hmid : ratOf (f.magnitude (j * 2 ^ f.m + n)) + ratOf (f.magnitude (j * 2 ^ f.m + n + 1)) =
      2 * v + (1 - 2 * ((r : ℚ) / d)) * 2 ^ (f.emin + j - f.m) := by
    rw [hlo, hhi, hv]
    push_cast
    ring
  have hpos : ratOf (f.magnitude (j * 2 ^ f.m + n)) < v ↔ 0 < r := by
    rw [hlo, hv, mul_lt_mul_iff_of_pos_right hu, lt_add_iff_pos_right, div_pos_iff_of_pos_right hD]
    exact_mod_cast Iff.rfl
  have hless : ratOf (f.magnitude (j * 2 ^ f.m + n)) + ratOf (f.magnitude (j * 2 ^ f.m + n + 1)) < 2 * v ↔ d < 2 * r := by
    rw [hmid, add_lt_iff_neg_left, ← not_le, mul_nonneg_iff_of_pos_right hu, sub_nonneg, ← mul_div_assoc, div_le_one hD, not_le]
    exact_mod_cast Iff.rfl
  have hsame : ratOf (f.magnitude (j * 2 ^ f.m + n)) + ratOf (f.magnitude (j * 2 ^ f.m + n + 1)) = 2 * v ↔ d = 2 * r := by
    rw [hmid, add_eq_left, mul_eq_zero_iff_right hu.ne', sub_eq_zero, ← mul_div_assoc, eq_div_iff hD.ne', one_mul]
    exact_mod_cast Iff.rfl
  have hodd : n % 2 = 1 ↔ (j * 2 ^ f.m + n) % 2 = 1 ∨ (f.m = 0 ∧ 0 < j * 2 ^ f.m + n) := by
    rcases Nat.eq_zero_or_pos f.m with hm | hm
    · rw [hm] at hj hn ⊢
      simp only [pow_zero, Nat.zero_add, pow_one, Nat.mul_one, true_and] at hj hn ⊢
      omega
    · obtain ⟨m, hm⟩ := Nat.exists_eq_succ_of_ne_zero hm.ne'
      have e : j * 2 ^ f.m = 2 * (j * 2 ^ m) := by rw [hm, Nat.pow_succ]; ring
      omega
  cases mode with
  | rne =>
    simp only [RoundsUpAt, hless, hsame, ← hodd, roundsUp, Bool.or_eq_true, Bool.and_eq_true, decide_eq_true_eq]
    omega
  | rtz => rfl
  | rdn => simp only [RoundsUpAt, hpos, roundsUp, Bool.and_eq_true, decide_eq_true_eq, gt_iff_lt, and_comm]
  | rup => simp only [RoundsUpAt, hpos, roundsUp, Bool.and_eq_true, decide_eq_true_eq, gt_iff_lt, and_comm, Bool.not_eq_true']
  | rmm => simp only [RoundsUpAt, le_iff_lt_or_eq, hless, hsame, roundsUp, decide_eq_true_eq]
  | sr h => trivial

/-- The one rounding takes a number to the code below it, or to the one above where its mode goes up. -/
theorem roundMag_rounds (f : Fmt) (mode : RMode) (neg : Bool) {x : Exact} (hden : 0 < x.den) (hnum : x.num ≠ 0) :
    ∃ k up, ratOf (f.magnitude k) ≤ |ratOf x| ∧ |ratOf x| < ratOf (f.magnitude (k + 1)) ∧
      (roundMag f.m f.emin mode neg x).1 = (if up then k + 1 else k) ∧ RoundsUpAt f mode neg k |ratOf x| up ∧
      ((roundMag f.m f.emin mode neg x).2 = true ↔ ratOf (f.magnitude k) < |ratOf x|) := by
  obtain ⟨hlog, hlog'⟩ := Exact.log2_spec hden hnum
  let e := max x.log2 f.emin
  let s := x.exp - (e - f.m)
  let a := x.num.natAbs * pow2 s
  let d := x.den * pow2 (-s)
  have hd : 0 < d := Nat.mul_pos hden (pow2_pos _)
  have hj : f.emin + (e - f.emin).toNat - f.m = e - f.m := by
    have := le_max_right x.log2 f.emin
    omega
  have hover : |ratOf x| = (a : ℚ) / d * 2 ^ (e - f.m) := abs_ratOf_over x (e - f.m)
  have hv : |ratOf x| = ((a / d : Nat) + ((a % d : Nat) : ℚ) / d) * 2 ^ (f.emin + (e - f.emin).toNat - f.m) := by
    rw [hj, ← div_between hd]
    exact hover
  have hD : (0 : ℚ) < d := by exact_mod_cast hd
  have hu : (0 : ℚ) < 2 ^ (f.emin + (e - f.emin).toNat - f.m) := zpow_pos two_pos _
  have hr : a % d < d := Nat.mod_lt _ hd
  have hfrac : ((a % d : Nat) : ℚ) / d < 1 := (div_lt_one hD).mpr (by exact_mod_cast hr)
  have hfrac₀ : 0 ≤ ((a % d : Nat) : ℚ) / d := div_nonneg (Nat.cast_nonneg _) hD.le
  have hscale {i : Int} (k : Nat) : (2 : ℚ) ^ (i + k) = (2 ^ k : Nat) * 2 ^ i := by
    rw [zpow_add₀ two_ne_zero, mul_comm]
    norm_cast
  have hu' : (0 : ℚ) < 2 ^ (e - f.m) := zpow_pos two_pos _
  have hlo : (e - f.emin).toNat = 0 ∨ 2 ^ f.m ≤ a / d := by
    rcases le_total x.log2 f.emin with h | h
    · left
      simp [e, h]
    · right
      have he : (e - f.m) + (f.m : Nat) = x.log2 := by
        rw [Int.sub_add_cancel]
        exact max_eq_left h
      rw [← he, hscale, hover, mul_le_mul_iff_of_pos_right hu', le_div_iff₀ hD] at hlog
      exact (Nat.le_div_iff_mul_le hd).mpr (by exact_mod_cast hlog)
  have hhi : a / d < 2 ^ (f.m + 1) := by
    have he : x.log2 + 1 ≤ (e - f.m) + (f.m + 1 : Nat) := by
      have := le_max_left x.log2 f.emin
      push_cast
      omega
    have hlt := hlog'.trans_le (zpow_le_zpow_right₀ (by norm_num : (1 : ℚ) ≤ 2) he)
    rw [hscale, hover, mul_lt_mul_iff_of_pos_right hu', div_lt_iff₀ hD] at hlt
    exact (Nat.div_lt_iff_lt_mul hd).mpr (by exact_mod_cast hlt)
  refine ⟨(e - f.emin).toNat * 2 ^ f.m + a / d, roundsUp mode neg (a / d) (a % d) d, ?_, ?_, ?_, roundsUp_at hlo hhi hd hv, ?_⟩
  · rw [ratOf_magnitude f hlo hhi.le, hv]
    exact mul_le_mul_of_nonneg_right (by linarith) hu.le
  · rw [Nat.add_assoc, ratOf_magnitude f (hlo.imp_right fun h => h.trans (Nat.le_succ _)) hhi, hv]
    exact mul_lt_mul_of_pos_right (by push_cast; linarith) hu
  · show (e - f.emin).toNat * 2 ^ f.m + (if _ then a / d + 1 else a / d) = _
    split <;> rfl
  · rw [ratOf_magnitude f hlo hhi.le, hv, mul_lt_mul_iff_of_pos_right hu, lt_add_iff_pos_right, div_pos_iff_of_pos_right hD]
    exact decide_eq_true_iff.trans (by exact_mod_cast Iff.rfl)

/-- The magnitude that rounding names, where the number lies between `k` and `k + 1`. -/
theorem roundMag_between {f : Fmt} {mode : RMode} {neg : Bool} {x : Exact} (hden : 0 < x.den) (hnum : x.num ≠ 0) {k : Nat}
    (hlo : ratOf (f.magnitude k) ≤ |ratOf x|) (hhi : |ratOf x| < ratOf (f.magnitude (k + 1))) :
    ∃ up, (roundMag f.m f.emin mode neg x).1 = (if up then k + 1 else k) ∧ RoundsUpAt f mode neg k |ratOf x| up := by
  obtain ⟨c, up, hc, hc', hcode, hup, -⟩ := roundMag_rounds f mode neg hden hnum
  obtain rfl := magnitude_code_unique hlo hhi hc hc'
  exact ⟨up, hcode, hup⟩

/-- A number of nonzero size rounds as the mode says, where the format can hold its sign. -/
theorem roundFin_between {f : Fmt} {mode : RMode} {neg : Bool} {x : Exact} (hden : 0 < x.den) (hnum : x.num ≠ 0) {k : Nat}
    (hk : k < f.maxCode) (hlo : ratOf (f.magnitude k) ≤ |ratOf x|) (hhi : |ratOf x| < ratOf (f.magnitude (k + 1))) :
    ∃ up, (roundFin f mode false neg x).1 = f.signed neg (if up then k + 1 else k) ∧ RoundsUpAt f mode neg k |ratOf x| up := by
  obtain ⟨up, hcode, hup⟩ := roundMag_between (mode := mode) (neg := neg) hden hnum hlo hhi
  refine ⟨up, ?_, hup⟩
  have hmax : ¬ (roundMag f.m f.emin mode neg x).1 > f.maxCode := by
    have hle : (if up then k + 1 else k) ≤ k + 1 := by split <;> omega
    rw [hcode]
    omega
  simp only [roundFin, if_neg hmax, Bool.false_and, Bool.false_eq_true, if_false]
  rw [hcode]

theorem realOf_eq_zero_iff {n : Bool} {x : Exact} (hden : 0 < x.den) : realOf n x = 0 ↔ x.num = 0 := by
  cases n
  · exact ratOf_eq_zero_iff hden
  · exact neg_eq_zero.trans (ratOf_eq_zero_iff hden)

theorem abs_realOf (n : Bool) (x : Exact) : |realOf n x| = |ratOf x| := by
  cases n
  · rfl
  · exact abs_neg _

/-- The sign of a value whose magnitude is not zero. -/
theorem realOf_neg_iff {n : Bool} {x : Exact} (hden : 0 < x.den) (hnum : 0 ≤ x.num) (h0 : x.num ≠ 0) : realOf n x < 0 ↔ n = true := by
  have hpos : 0 < ratOf x := lt_of_le_of_ne (ratOf_nonneg hnum) (Ne.symm (mt (ratOf_eq_zero_iff hden).mp h0))
  cases n
  · simpa [realOf] using hpos.le
  · simpa [realOf] using hpos

theorem realOf_pos_iff {n : Bool} {x : Exact} (hden : 0 < x.den) (hnum : 0 ≤ x.num) (h0 : x.num ≠ 0) : 0 < realOf n x ↔ n = false := by
  have hne : realOf n x ≠ 0 := mt (realOf_eq_zero_iff hden).mp h0
  rw [← Bool.not_eq_true, ← realOf_neg_iff hden hnum h0, not_lt, lt_iff_le_and_ne]
  exact and_iff_left hne.symm

/-- The one rounding of a finite value, as IEEE 754 has it. -/
theorem roundVal_roundsTo (f : Fmt) (mode : RMode) (n : Bool) {x : Exact} (hden : 0 < x.den) (hnum : 0 ≤ x.num) :
    RoundsTo f mode n (realOf n x) (roundVal f mode false (.fin n x)).1 := by
  refine ⟨fun h0 => ?zero, fun hneg hs => ?unsigned, fun h0 hs k hk => ?between⟩
  case zero =>
    rw [realOf_eq_zero_iff hden] at h0
    simp [roundVal, h0]
  case unsigned =>
    have h0 : x.num ≠ 0 := fun h => hneg.ne ((realOf_eq_zero_iff hden).mpr h)
    have hn := (realOf_neg_iff hden hnum h0).mp hneg
    simp [roundVal, h0, hn, hs]
  case between =>
    rw [Ne, realOf_eq_zero_iff hden] at h0
    have hsign := realOf_neg_iff (n := n) hden hnum h0
    have hcan : (n && !f.s) = false := by
      rcases hs with hpos | hs
      · have hn : ¬ n = true := fun h => not_lt_of_gt hpos (hsign.mpr h)
        simp [hn]
      · simp [hs]
    have hcode : (roundVal f mode false (.fin n x)).1 = (roundFin f mode false n x).1 := by
      simp only [roundVal, if_neg h0, hcan, Bool.false_eq_true, if_false]
    have hdec : decide (realOf n x < 0) = n := by
      rw [Bool.eq_iff_iff, decide_eq_true_iff]
      exact hsign
    rw [hcode, hdec, abs_realOf]
    intro lo hi upper hlo hhi
    obtain ⟨up, hfin, hup⟩ := roundFin_between (mode := mode) (neg := n) hden h0 hk hlo hhi
    rw [hfin]
    have goal (h : upper ↔ up = true) : (upper → f.signed n (if up then k + 1 else k) = f.signed n (k + 1)) ∧
        (¬ upper → f.signed n (if up then k + 1 else k) = f.signed n k) :=
      ⟨fun hu => by rw [if_pos (h.mp hu)], fun hu => by rw [if_neg (mt h.mpr hu)]⟩
    cases mode with
    | rne => exact goal hup.symm
    | rtz => exact goal (by simp [upper, show up = false from hup])
    | rdn => exact goal ((and_congr_left' hsign).trans hup.symm)
    | rup => exact goal ((and_congr_left' (realOf_pos_iff hden hnum h0)).trans hup.symm)
    | rmm => exact goal hup.symm
    | sr h =>
      refine ⟨fun hu => hfin.symm.trans hu, fun hu => ?_⟩
      cases up
      · rfl
      · exact absurd hfin hu

end Sys2Proof.Machine
end

section
/-!
SUPPORT. Floating operations on values (R193, R203, R319): what sums, products, quotients, conversions and compares of finite values are as
rational numbers, and the standard's F and D operations from them.
-/
namespace Sys2Proof.Machine
open Sys2Proof.Claims

/-! ### Values -/

/-- A finite value whose terms are of the form that decoding gives: a magnitude over a nonzero denominator. -/
def Exact.Magnitude (x : Exact) : Prop := 0 < x.den ∧ 0 ≤ x.num

theorem Fmt.magnitude_magnitude (f : Fmt) (k : Nat) : (f.magnitude k).Magnitude := by
  unfold Fmt.magnitude
  dsimp only
  split
  · exact ⟨Nat.one_pos, Int.natCast_nonneg _⟩
  · exact ⟨Nat.one_pos, by positivity⟩

/-- The sign and the magnitude code of a code. -/
def Fmt.negOf (f : Fmt) (c : Nat) : Bool := f.s && decide (c % 2 ^ f.w / 2 ^ (f.w - 1) % 2 = 1)
def Fmt.magOf (f : Fmt) (c : Nat) : Nat := if f.s then c % 2 ^ f.w % 2 ^ (f.w - 1) else c % 2 ^ f.w

/-- A code that decodes to a finite value names its magnitude by the code without the sign. -/
theorem decodeF_fin {f : Fmt} {c : Nat} {n : Bool} {x : Exact} (h : decodeF f c = .fin n x) : n = f.negOf c ∧ x = f.magnitude (f.magOf c) := by
  change (if f.pol = 0 ∧ f.magOf c / 2 ^ f.m = f.emax then
    (if f.magOf c % 2 ^ f.m = 0 then FVal.inf (f.negOf c) else .nan (decide (f.magOf c % 2 ^ f.m < 2 ^ (f.m - 1))))
    else if f.pol = 1 ∧ f.magOf c / 2 ^ f.m = f.emax ∧ f.magOf c % 2 ^ f.m = f.mmax then .nan false
    else .fin (f.negOf c) (f.magnitude (f.magOf c))) = .fin n x at h
  generalize f.negOf c = neg at h ⊢
  generalize f.magnitude (f.magOf c) = mag at h ⊢
  split at h
  · split at h <;> cases h
  · split at h <;> cases h
    exact ⟨rfl, rfl⟩

theorem decodeF_magnitude {f : Fmt} {c : Nat} {n : Bool} {x : Exact} (h : decodeF f c = .fin n x) : x.Magnitude :=
  (decodeF_fin h).2 ▸ f.magnitude_magnitude _

theorem ratOf_signedOf (n : Bool) (x : Exact) : ratOf (signedOf n x) = realOf n x := by
  cases n
  · rfl
  · exact ratOf_neg x

theorem signedOf_den (n : Bool) (x : Exact) : (signedOf n x).den = x.den := by cases n <;> rfl

theorem realOf_not (n : Bool) (x : Exact) : realOf (!n) x = -realOf n x := by cases n <;> simp [realOf]

theorem realOf_mul (m n : Bool) (x y : Exact) : realOf (m != n) (x.mul y) = realOf m x * realOf n y := by
  cases m <;> cases n <;> simp [realOf, ratOf_mul]

theorem realOf_div (m n : Bool) {x y : Exact} (h : y.num ≠ 0) : realOf (m != n) (x.div y) = realOf m x / realOf n y := by
  cases m <;> cases n <;> simp [realOf, ratOf_div h, neg_div, div_neg]

theorem Exact.Magnitude.mul {x y : Exact} (hx : x.Magnitude) (hy : y.Magnitude) : (x.mul y).Magnitude :=
  ⟨Nat.mul_pos hx.1 hy.1, Int.mul_nonneg hx.2 hy.2⟩

theorem Exact.Magnitude.div {x y : Exact} (hx : x.Magnitude) (hy : y.Magnitude) (h : y.num ≠ 0) : (x.div y).Magnitude := by
  refine ⟨Nat.mul_pos hx.1 (Int.natAbs_pos.mpr h), ?_⟩
  simp only [Exact.div, if_neg (not_lt.mpr hy.2), mul_one]
  exact Int.mul_nonneg hx.2 (Int.natCast_nonneg _)

/-- A signed exact number as a value. -/
theorem finOf_value (z : Bool) {x : Exact} (h : 0 < x.den) :
    ∃ n y, finOf z x = .fin n y ∧ y.Magnitude ∧ realOf n y = ratOf x ∧ (ratOf x = 0 → n = z) := by
  refine ⟨_, _, rfl, ⟨h, Int.natCast_nonneg _⟩, ?_, fun h0 => if_pos ((ratOf_eq_zero_iff h).mp h0)⟩
  have habs : ratOf ⟨x.num.natAbs, x.den, x.exp⟩ = |ratOf x| := by
    rw [abs_ratOf]
    simp [ratOf]
  split
  · next h0 =>
    have hx := (ratOf_eq_zero_iff h).mpr h0
    rw [hx, abs_zero] at habs
    cases z <;> simp only [realOf, habs, hx, if_true, Bool.false_eq_true, if_false, neg_zero]
  · next h0 =>
    by_cases hn : x.num < 0
    · rw [decide_eq_true hn, realOf, if_pos rfl, habs, abs_of_neg ((ratOf_neg_iff h).mpr hn), neg_neg]
    · rw [decide_eq_false hn, realOf, if_neg Bool.false_ne_true, habs, abs_of_nonneg (not_lt.mp (mt (ratOf_neg_iff h).mp hn))]

/-- The sum of finite values: its number, and the sign of a zero. -/
theorem addV_value (mode : RMode) (m n : Bool) {x y : Exact} (hx : x.Magnitude) (hy : y.Magnitude) :
    ∃ k z, (addV mode (.fin m x) (.fin n y)).1 = .fin k z ∧ z.Magnitude ∧ realOf k z = realOf m x + realOf n y ∧
      (realOf m x + realOf n y = 0 → k = if m = n then m else decide (mode = .rdn)) := by
  by_cases h0 : x.num = 0 ∧ y.num = 0
  · have hvx : realOf m x = 0 := (realOf_eq_zero_iff hx.1).mpr h0.1
    have hvy : realOf n y = 0 := (realOf_eq_zero_iff hy.1).mpr h0.2
    have hz : ratOf ⟨0, 1, 0⟩ = 0 := by simp [ratOf]
    refine ⟨if m = n then m else zeroSumNeg mode, ⟨0, 1, 0⟩, by simp only [addV, if_pos h0], ⟨Nat.one_pos, le_refl 0⟩, ?_, fun _ => rfl⟩
    rw [hvx, hvy, realOf, hz]
    simp
  · have hsum : ratOf ((signedOf m x).add (signedOf n y)) = realOf m x + realOf n y := by
      rw [ratOf_add (by rw [signedOf_den]; exact hx.1) (by rw [signedOf_den]; exact hy.1), ratOf_signedOf, ratOf_signedOf]
    have hden : 0 < ((signedOf m x).add (signedOf n y)).den := by
      show 0 < (signedOf m x).den * (signedOf n y).den
      rw [signedOf_den, signedOf_den]
      exact Nat.mul_pos hx.1 hy.1
    obtain ⟨k, z, hfin, hz, hval, hsign⟩ := finOf_value (zeroSumNeg mode) hden
    refine ⟨k, z, by simp only [addV, if_neg h0, hfin], hz, hval.trans hsum, fun hzero => ?_⟩
    have hmn : m ≠ n := by
      rintro rfl
      have hx0 := ratOf_nonneg hx.2
      have hy0 := ratOf_nonneg hy.2
      have hboth : ratOf x = 0 ∧ ratOf y = 0 := by
        cases m <;> simp only [realOf, if_true, Bool.false_eq_true, if_false] at hzero <;> constructor <;> linarith
      exact h0 ⟨(ratOf_eq_zero_iff hx.1).mp hboth.1, (ratOf_eq_zero_iff hy.1).mp hboth.2⟩
    rw [if_neg hmn]
    exact hsign (hsum.trans hzero)

theorem ratOf_sub_signed (m n : Bool) {x y : Exact} (hx : x.Magnitude) (hy : y.Magnitude) :
    ratOf ((signedOf m x).add (signedOf n y).neg) = realOf m x - realOf n y ∧ 0 < ((signedOf m x).add (signedOf n y).neg).den := by
  have hm : 0 < (signedOf m x).den := by rw [signedOf_den]; exact hx.1
  have hn : 0 < (signedOf n y).neg.den := by
    show 0 < (signedOf n y).den
    rw [signedOf_den]
    exact hy.1
  refine ⟨?_, Nat.mul_pos hm hn⟩
  rw [ratOf_add hm hn, ratOf_neg, ratOf_signedOf, ratOf_signedOf, sub_eq_add_neg]

/-- Compares of finite values compare their numbers. -/
theorem eqV_value (m n : Bool) {x y : Exact} (hx : x.Magnitude) (hy : y.Magnitude) :
    eqV (.fin m x) (.fin n y) = true ↔ realOf m x = realOf n y := by
  obtain ⟨hval, hden⟩ := ratOf_sub_signed m n hx hy
  refine Iff.trans ?_ sub_eq_zero
  rw [← hval, ratOf_eq_zero_iff hden]
  exact decide_eq_true_iff

theorem ltV_value (m n : Bool) {x y : Exact} (hx : x.Magnitude) (hy : y.Magnitude) :
    ltV (.fin m x) (.fin n y) = true ↔ realOf m x < realOf n y := by
  obtain ⟨hval, hden⟩ := ratOf_sub_signed m n hx hy
  refine Iff.trans ?_ sub_neg
  rw [← hval, ratOf_neg_iff hden]
  exact decide_eq_true_iff

/-! ### Integers (R203) -/

theorem intV_value (i : Int) : ∃ n x, intV i = .fin n x ∧ x.Magnitude ∧ realOf n x = i ∧ (i = 0 → n = false) := by
  refine ⟨_, _, rfl, ⟨Nat.one_pos, Int.natCast_nonneg _⟩, ?_, fun h => by simp [h]⟩
  have hval : ratOf ⟨i.natAbs, 1, 0⟩ = |(i : ℚ)| := by simp [ratOf]
  by_cases h : i < 0
  · rw [decide_eq_true h, realOf, if_pos rfl, hval, abs_of_neg (by exact_mod_cast h), neg_neg]
  · rw [decide_eq_false h, realOf, if_neg Bool.false_ne_true, hval, abs_of_nonneg (by exact_mod_cast not_lt.mp h)]

/-- The integer that a mode takes for a finite value, of unlimited range. -/
def roundInt (mode : RMode) (n : Bool) (x : Exact) : Int :=
  let num := x.num.natAbs * pow2 x.exp
  let den := x.den * pow2 (-x.exp)
  let q' : Int := if roundsUp mode n (num / den) (num % den) den then (num / den : Nat) + 1 else (num / den : Nat)
  if n then -q' else q'

/-- A conversion to an integer holds the rounded number within its range. -/
theorem toIntV_fin {lo hi : Int} (h : lo ≤ hi) (mode : RMode) (n : Bool) (x : Exact) :
    (toIntV mode lo hi (.fin n x)).1 = max lo (min hi (roundInt mode n x)) := by
  have clamp (i : Int) : (if i < lo then (lo, fNV) else if i > hi then (hi, fNV) else
      (i, flagIf (decide (x.num.natAbs * pow2 x.exp % (x.den * pow2 (-x.exp)) > 0)) fNX)).1 = max lo (min hi i) := by
    split
    · simp only; omega
    · split
      · simp only; omega
      · simp only; omega
  exact clamp (roundInt mode n x)

/-- The number of a finite value is rounded to an integer as its mode says. -/
theorem roundInt_rounds (mode : RMode) (n : Bool) {x : Exact} (hx : x.Magnitude) : IntRounds mode n (realOf n x) (roundInt mode n x) := by
  let num := x.num.natAbs * pow2 x.exp
  let den := x.den * pow2 (-x.exp)
  have hden : 0 < den := Nat.mul_pos hx.1 (pow2_pos _)
  have hD : (0 : ℚ) < den := by exact_mod_cast hden
  have hr : num % den < den := Nat.mod_lt _ hden
  have hfrac₀ : 0 ≤ ((num % den : Nat) : ℚ) / den := div_nonneg (Nat.cast_nonneg _) hD.le
  have hfrac : ((num % den : Nat) : ℚ) / den < 1 := (div_lt_one hD).mpr (by exact_mod_cast hr)
  have hv : |realOf n x| = (num / den : Nat) + ((num % den : Nat) : ℚ) / den := by
    have h := abs_ratOf_over x 0
    rw [Int.sub_zero, zpow_zero, div_between hden, mul_one] at h
    rw [abs_realOf]
    exact h
  have hfloor : ⌊|realOf n x|⌋ = (num / den : Nat) := by
    rw [Int.floor_eq_iff, hv, Int.cast_natCast]
    constructor <;> linarith
  have hpos : ((⌊|realOf n x|⌋ : Int) : ℚ) < |realOf n x| ↔ 0 < num % den := by
    rw [hfloor, hv, Int.cast_natCast, lt_add_iff_pos_right, div_pos_iff_of_pos_right hD]
    exact_mod_cast Iff.rfl
  have hless : 2 * ((⌊|realOf n x|⌋ : Int) : ℚ) + 1 < 2 * |realOf n x| ↔ den < 2 * (num % den) := by
    have e : 2 * |realOf n x| = 2 * ((⌊|realOf n x|⌋ : Int) : ℚ) + 2 * ((num % den : Nat) : ℚ) / den := by
      rw [hfloor, Int.cast_natCast, hv]
      ring
    rw [e, add_lt_add_iff_left, one_lt_div hD]
    exact_mod_cast Iff.rfl
  have hsame : 2 * ((⌊|realOf n x|⌋ : Int) : ℚ) + 1 = 2 * |realOf n x| ↔ den = 2 * (num % den) := by
    have e : 2 * |realOf n x| = 2 * ((⌊|realOf n x|⌋ : Int) : ℚ) + 2 * ((num % den : Nat) : ℚ) / den := by
      rw [hfloor, Int.cast_natCast, hv]
      ring
    rw [e, add_right_inj, eq_div_iff hD.ne', one_mul]
    exact_mod_cast Iff.rfl
  have hnum : 0 < num % den → x.num ≠ 0 := by
    intro h h0
    simp [num, h0] at h
  have hint : roundInt mode n x = if n then -(if roundsUp mode n (num / den) (num % den) den then ⌊|realOf n x|⌋ + 1 else ⌊|realOf n x|⌋)
      else (if roundsUp mode n (num / den) (num % den) den then ⌊|realOf n x|⌋ + 1 else ⌊|realOf n x|⌋) := by
    rw [hfloor]
    rfl
  unfold IntRounds
  intro q of up
  have goal (h : up ↔ roundsUp mode n (num / den) (num % den) den = true) :
      (up → roundInt mode n x = of (q + 1)) ∧ (¬ up → roundInt mode n x = of q) := by
    refine ⟨fun hu => ?_, fun hu => ?_⟩
    · rw [hint, if_pos (h.mp hu)]
    · rw [hint, if_neg (mt h.mpr hu)]
  have hodd : q % 2 = 1 ↔ num / den % 2 = 1 := by
    show ⌊|realOf n x|⌋ % 2 = 1 ↔ _
    rw [hfloor]
    omega
  cases mode with
  | rne =>
    refine goal ((or_congr hless (and_congr hsame hodd)).trans ?_)
    simp only [roundsUp, Bool.or_eq_true, Bool.and_eq_true, decide_eq_true_eq]
    omega
  | rtz => exact goal (by simp [up, roundsUp])
  | rdn =>
    refine goal ((and_congr_right' hpos).trans ?_)
    simp only [roundsUp, Bool.and_eq_true, decide_eq_true_eq]
    exact and_comm.trans (and_congr_right fun h => realOf_neg_iff hx.1 hx.2 (hnum h))
  | rup =>
    refine goal ((and_congr_right' hpos).trans ?_)
    simp only [roundsUp, Bool.and_eq_true, decide_eq_true_eq, Bool.not_eq_true']
    exact and_comm.trans (and_congr_right fun h => realOf_pos_iff hx.1 hx.2 (hnum h))
  | rmm =>
    refine goal (le_iff_lt_or_eq.trans ((or_congr hless hsame).trans ?_))
    simp only [roundsUp, decide_eq_true_eq]
    omega
  | sr h =>
    refine ⟨fun hu => hu, fun hu => ?_⟩
    cases hup : roundsUp (.sr h) n (num / den) (num % den) den with
    | false => rw [hint, hup, if_neg Bool.false_ne_true]
    | true =>
      rw [hup, if_pos rfl] at hint
      exact absurd hint hu

/-! ### The standard's operations (R193, R217) -/

/-- The sign of a zero only speaks of a zero. -/
theorem roundsTo_sign {f : Fmt} {m : RMode} {z z' : Bool} {v : ℚ} {c : Nat} (h : RoundsTo f m z v c) (hz : v = 0 → z = z') :
    RoundsTo f m z' v c :=
  ⟨fun h0 => hz h0 ▸ h.1 h0, h.2⟩

theorem fmtOf_signed (f : FFmt) : (fmtOf f).s = true := by cases f <;> rfl

theorem roundScalar_fst {f : Fmt} (hs : f.s = true) (mode : RMode) (r : FVal × Flags) :
    (roundScalar f mode r).1 = (roundVal f mode false r.1).1 := by
  obtain ⟨v, g⟩ := r
  cases v with
  | nan | inf => rfl
  | fin n x =>
    by_cases h : x.num = 0
    · simp only [roundScalar, roundVal, if_pos h]
    · simp [roundScalar, roundVal, if_neg h, hs]

/-- A value of a known number rounds to it. -/
theorem roundScalar_roundsTo {f : FFmt} {mode : RMode} {r : FVal × Flags} {n : Bool} {x : Exact} (hr : r.1 = .fin n x) (hx : x.Magnitude) :
    RoundsTo (fmtOf f) mode n (realOf n x) (roundScalar (fmtOf f) mode r).1 := by
  rw [roundScalar_fst (fmtOf_signed f), hr]
  exact roundVal_roundsTo _ _ _ hx.1 hx.2

/-- A sum of two finite values, rounded. -/
theorem roundScalar_addV (f : FFmt) (mode : RMode) (m n : Bool) {x y : Exact} (hx : x.Magnitude) (hy : y.Magnitude) (g : Flags) :
    RoundsTo (fmtOf f) mode (if m = n then m else decide (mode = .rdn)) (realOf m x + realOf n y)
      (roundScalar (fmtOf f) mode ((addV mode (.fin m x) (.fin n y)).1, g)).1 := by
  obtain ⟨k, z, hz, hmag, hval, hsign⟩ := addV_value mode m n hx hy
  have h := roundScalar_roundsTo (f := f) (mode := mode) (r := ((addV mode (.fin m x) (.fin n y)).1, g)) hz hmag
  rw [hval] at h
  exact roundsTo_sign h hsign

/-- A fused product and sum, rounded. -/
theorem roundScalar_fmaV (f : FFmt) (mode : RMode) (a b c : Bool) {x y z : Exact} (hx : x.Magnitude) (hy : y.Magnitude) (hz : z.Magnitude) :
    RoundsTo (fmtOf f) mode (if (a != b) = c then a != b else decide (mode = .rdn)) (realOf a x * realOf b y + realOf c z)
      (roundScalar (fmtOf f) mode (fmaV mode (.fin a x) (.fin b y) (.fin c z))).1 := by
  rw [← realOf_mul]
  exact roundScalar_addV f mode (a != b) c (hx.mul hy) hz _

theorem rounded_some {s : State} {i : Instr} {rm : BitVec 3} {m : RMode} {k : RMode → Res} (h : s.me.rmode rm = some m) :
    s.rounded i rm k = k m := by
  simp only [State.rounded, h]

/-- R170, R217: an operation with an f result writes its value and its flags. -/
theorem execScalarAlu_fpResult {s : State} {i : AluInstr} {m : RMode} {src : List (RFile × Nat)} {d : Reg} {v : Word} {g : Flags}
    (hm : s.me.rmode (rmOf i) = some m) (h : fpResult s.me m i = some (src, d, v, g)) : execScalarAlu i s = s.fixedF src d (v, g) := by
  cases i with
  | farith | ffused | itof | fcvt =>
    cases h
    exact rounded_some hm
  | fpair =>
    simp only [fpResult, Option.some.injEq, Prod.mk.injEq] at h
    obtain ⟨rfl, rfl, e⟩ := h
    exact congrArg (s.fixedF _ _) e
  | fmvf =>
    cases h
    rfl
  | _ => cases h

/-- And one with an x result. -/
theorem execScalarAlu_fpToX {s : State} {i : AluInstr} {m : RMode} {src : List (RFile × Nat)} {d : Reg} {v : Word} {g : Flags}
    (hm : s.me.rmode (rmOf i) = some m) (h : fpToX s.me m i = some (src, d, v, g)) : execScalarAlu i s = s.fixedXF src d (v, g) := by
  cases i with
  | ftoi =>
    cases h
    exact rounded_some hm
  | fcmp =>
    simp only [fpToX, Option.some.injEq, Prod.mk.injEq] at h
    obtain ⟨rfl, rfl, e⟩ := h
    exact congrArg (s.fixedXF _ _) e
  | fclass =>
    cases h
    rfl
  | fmvx f =>
    cases f <;> cases h <;> rfl
  | _ => cases h

theorem rounded_none {s : State} {i : Instr} {rm : BitVec 3} {k : RMode → Res} (h : s.me.rmode rm = none) :
    s.rounded i rm k = .next (s.updMe (fun a => a.trap 2 (wordOf i) 0)) := by
  simp only [State.rounded, h]
  rfl

/-- The low 32 bits of an integer, sign-extended. -/
theorem sext32_ofInt (i : Int) : sext32 (BitVec.ofInt 64 i) = (BitVec.ofInt 32 i).signExtend 64 := by
  have h : (BitVec.ofInt 64 i).setWidth 32 = BitVec.ofInt 32 i := by
    refine BitVec.eq_of_toNat_eq ?_
    simp only [BitVec.toNat_setWidth, BitVec.toNat_ofInt]
    omega
  rw [sext32, h]

theorem fcmpResult_value {op : FCmp} {f : FFmt} {a b : Word} {n k : Bool} {x y : Exact} (ha : fvalOf f a = .fin n x)
    (hb : fvalOf f b = .fin k y) : ∃ r, fcmpResult op f a b = (if r then 1 else 0, 0) ∧ (r = true ↔ match op with
      | .eq => realOf n x = realOf k y
      | .lt => realOf n x < realOf k y
      | .le => realOf n x ≤ realOf k y) := by
  have heq := eqV_value n k (decodeF_magnitude ha) (decodeF_magnitude hb)
  have hlt := ltV_value n k (decodeF_magnitude ha) (decodeF_magnitude hb)
  cases op with
  | eq => exact ⟨_, by simp only [fcmpResult, ha, hb]; rfl, heq⟩
  | lt => exact ⟨_, by simp only [fcmpResult, ha, hb]; rfl, hlt⟩
  | le =>
    refine ⟨_, by simp only [fcmpResult, ha, hb]; rfl, ?_⟩
    show (ltV (.fin n x) (.fin k y) || eqV (.fin n x) (.fin k y)) = true ↔ realOf n x ≤ realOf k y
    rw [Bool.or_eq_true, heq, hlt]
    exact le_iff_lt_or_eq.symm

theorem farithResult_roundsTo (op : FArith) {f : FFmt} (m : RMode) {a b : Word} {n k : Bool} {x y : Exact} (ha : fvalOf f a = .fin n x)
    (hb : fvalOf f b = .fin k y) : ∃ c, (farithResult op f m a b).1 = boxed f c ∧
      (match op with
        | .add => RoundsTo (fmtOf f) m (if n = k then n else decide (m = .rdn)) (realOf n x + realOf k y) c
        | .sub => RoundsTo (fmtOf f) m (if n = !k then n else decide (m = .rdn)) (realOf n x - realOf k y) c
        | .mul => RoundsTo (fmtOf f) m (n != k) (realOf n x * realOf k y) c) := by
  have hx := decodeF_magnitude ha
  have hy := decodeF_magnitude hb
  refine ⟨_, rfl, ?_⟩
  rw [ha, hb]
  cases op with
  | add => exact roundScalar_addV f m n k hx hy _
  | sub =>
    rw [sub_eq_add_neg, ← realOf_not]
    exact roundScalar_addV f m n (!k) hx hy _
  | mul =>
    rw [← realOf_mul]
    exact roundScalar_roundsTo rfl (hx.mul hy)

theorem ffusedResult_roundsTo (op : FFused) {f : FFmt} (m : RMode) {a b c : Word} {n k l : Bool} {x y z : Exact}
    (ha : fvalOf f a = .fin n x) (hb : fvalOf f b = .fin k y) (hc : fvalOf f c = .fin l z) :
    ∃ r, (ffusedResult op f m a b c).1 = boxed f r ∧
      (match op with
        | .madd => RoundsTo (fmtOf f) m (if (n != k) = l then n != k else decide (m = .rdn)) (realOf n x * realOf k y + realOf l z) r
        | .msub => RoundsTo (fmtOf f) m (if (n != k) = !l then n != k else decide (m = .rdn)) (realOf n x * realOf k y - realOf l z) r
        | .nmsub => RoundsTo (fmtOf f) m (if (n == k) = l then n == k else decide (m = .rdn)) (-(realOf n x * realOf k y) + realOf l z) r
        | .nmadd => RoundsTo (fmtOf f) m (if (n == k) = !l then n == k else decide (m = .rdn)) (-(realOf n x * realOf k y) - realOf l z) r) := by
  have hx := decodeF_magnitude ha
  have hy := decodeF_magnitude hb
  have hz := decodeF_magnitude hc
  have hnot : ((!n) != k) = (n == k) := by cases n <;> cases k <;> rfl
  refine ⟨_, rfl, ?_⟩
  rw [ha, hb, hc]
  cases op with
  | madd => exact roundScalar_fmaV f m n k l hx hy hz
  | msub =>
    rw [sub_eq_add_neg, ← realOf_not]
    exact roundScalar_fmaV f m n k (!l) hx hy hz
  | nmsub =>
    rw [← neg_mul, ← realOf_not, ← hnot]
    exact roundScalar_fmaV f m (!n) k l hx hy hz
  | nmadd =>
    have h := roundScalar_fmaV f m (!n) k (!l) hx hy hz
    rw [realOf_not, realOf_not, hnot, neg_mul, ← sub_eq_add_neg] at h
    exact h

/-- A value converted from an integer, or from the other format. -/
theorem itofResult_roundsTo (f : FFmt) (t : FInt) (m : RMode) (a : Word) : ∃ c, (itofResult f t m a).1 = boxed f c ∧
    RoundsTo (fmtOf f) m false ((match t with
      | .w => (a.setWidth 32).toInt
      | .wu => (a.setWidth 32).toNat
      | .l => a.toInt
      | .lu => a.toNat : Int) : ℚ) c := by
  refine ⟨_, rfl, ?_⟩
  obtain ⟨n, x, hv, hx, hval, hsign⟩ := intV_value (match t with
      | .w => (a.setWidth 32).toInt
      | .wu => (a.setWidth 32).toNat
      | .l => a.toInt
      | .lu => a.toNat)
  rw [← hval]
  refine roundsTo_sign (roundScalar_roundsTo hv hx) fun h0 => hsign ?_
  rw [hval] at h0
  exact_mod_cast h0

theorem fintRange_le (t : FInt) : (fintRange t).1 ≤ (fintRange t).2 := by cases t <;> decide

theorem ftoiResult_rounds (t : FInt) {f : FFmt} (m : RMode) {a : Word} {n : Bool} {x : Exact} (ha : fvalOf f a = .fin n x) :
    ∃ i, IntRounds m n (realOf n x) i ∧ (ftoiResult t f m a).1 = (match t with
      | .l => BitVec.ofInt 64 (max (fintRange t).1 (min (fintRange t).2 i))
      | .lu => BitVec.ofInt 64 (max (fintRange t).1 (min (fintRange t).2 i))
      | _ => (BitVec.ofInt 32 (max (fintRange t).1 (min (fintRange t).2 i))).signExtend 64) := by
  refine ⟨_, roundInt_rounds m n (decodeF_magnitude ha), ?_⟩
  simp only [ftoiResult, ha, toIntV_fin (fintRange_le t)]
  cases t with
  | w | wu => exact sext32_ofInt _
  | l | lu => rfl

/-! ### The obligation -/

/-- Settles O2: the operations write their values, which are the rounded values of rational numbers; a conversion to an integer rounds the
number, a compare compares the numbers. -/
theorem floatingResult : Obligations.FloatingResult := by
  unfold Obligations.FloatingResult
  refine ⟨fun s i m src d v g hm h hready => ?toF, fun s i m src d v g hm h hready => ?toX, fun s i rm hm hi => ?trap,
    fun s sqrt f rm d a b hm => rounded_none hm, fun op f m a b n k x y ha hb => farithResult_roundsTo op m ha hb,
    fun op f m a b c n k l x y z ha hb hc => ffusedResult_roundsTo op m ha hb hc, fun f t m a => itofResult_roundsTo f t m a,
    fun m a n x => ⟨fun ha => ⟨_, rfl, roundScalar_roundsTo ha (decodeF_magnitude ha)⟩,
      fun ha => ⟨_, rfl, roundScalar_roundsTo ha (decodeF_magnitude ha)⟩⟩,
    fun t f m a n x ha => ftoiResult_rounds t m ha, fun op f a b n k x y ha hb => ?compare⟩
  case toF => exact (execScalarAlu_fpResult hm h).trans (State.guarded_ready hready)
  case toX => exact (execScalarAlu_fpToX hm h).trans (State.guarded_ready hready)
  case trap =>
    rcases hi with ⟨op, f, d, x, y, rfl⟩ | ⟨op, f, d, x, y, z, rfl⟩ | ⟨u, f, d, x, rfl⟩ | ⟨f, u, d, x, rfl⟩ | ⟨f, d, x, rfl⟩
    all_goals exact rounded_none hm
  case compare =>
    obtain ⟨r, hr, hiff⟩ := fcmpResult_value (op := op) ha hb
    exact ⟨fun h => by rw [hr, if_pos (hiff.mpr h)], fun h => by rw [hr, if_neg (mt hiff.mp h)]⟩

end Sys2Proof.Machine
end

section
/-!
SUPPORT. The oldest command of a vector queue (R177): the step that executes it, and what writing elements of a register group does to a
hart (R191).
-/
namespace Sys2Proof.Machine
open Sys2Proof.Claims

/-! ### Elements of a register group (R191) -/

/-- Element `e` of width `w`, 1,024 = q × w, is bits `(e % q) × w` on of register `n + e / q`. -/
theorem elem_place {w q : Nat} (hq : 1024 = q * w) (e : Nat) : e * w / 1024 = e / q ∧ e * w % 1024 = e % q * w := by
  have hw : 0 < w := Nat.pos_of_ne_zero (by rintro rfl; omega)
  rw [hq]
  exact ⟨Nat.mul_div_mul_right _ _ hw, Nat.mul_mod_mul_right _ _ _⟩

theorem elem_testBit (a : Hart) (n w e j : Nat) :
    (a.elem n w e).testBit j = (decide (j < w) && (a.vv (n + e * w / 1024)).getLsbD (e * w % 1024 + j)) := by
  rw [Hart.elem, Nat.testBit_mod_two_pow, Nat.testBit_div_two_pow, BitVec.testBit_toNat, Nat.add_comm j]

theorem elem_lt (a : Hart) (n w e : Nat) : a.elem n w e < 2 ^ w := Nat.mod_lt _ (Nat.two_pow_pos _)

theorem elem_mod (a : Hart) (n w e : Nat) : a.elem n w e % 2 ^ w = a.elem n w e := Nat.mod_eq_of_lt (elem_lt a n w e)

theorem el_toNat (a : Hart) (n w e : Nat) : (el a n w e).toNat = a.elem n w e := by
  rw [el, BitVec.toNat_ofNat, elem_mod]

theorem putBits_getLsbD {v : BitVec 1024} {off w c i : Nat} (hi : i < 1024) :
    (putBits v off w c).getLsbD i = if off ≤ i ∧ i < off + w then c.testBit (i - off) else v.getLsbD i := by
  have hlow : v.toNat % 2 ^ off < 2 ^ off := Nat.mod_lt _ (Nat.two_pow_pos _)
  have hmid : c % 2 ^ w < 2 ^ w := Nat.mod_lt _ (Nat.two_pow_pos _)
  have hsum : v.toNat % 2 ^ off + c % 2 ^ w * 2 ^ off + v.toNat / 2 ^ (off + w) * 2 ^ (off + w) =
      2 ^ off * (2 ^ w * (v.toNat / 2 ^ (off + w)) + c % 2 ^ w) + v.toNat % 2 ^ off := by
    rw [Nat.pow_add]
    ring
  rw [putBits, BitVec.getLsbD_ofNat, decide_eq_true hi, Bool.true_and, hsum, Nat.testBit_two_pow_mul_add _ hlow,
    Nat.testBit_two_pow_mul_add _ hmid]
  split
  · next h => rw [if_neg (by omega), Nat.testBit_mod_two_pow, decide_eq_true h, Bool.true_and, BitVec.testBit_toNat]
  · next h =>
    split
    · next h' => rw [if_pos (by omega), Nat.testBit_mod_two_pow, decide_eq_true h', Bool.true_and]
    · next h' =>
      rw [if_neg (by omega), Nat.testBit_div_two_pow, BitVec.testBit_toNat]
      congr 1
      omega

theorem vv_setV (a : Hart) {n m : Nat} (v : BitVec 1024) (hn : n < 32) (hm : m < 32) :
    (a.setV n v).vv m = if m = n then v else a.vv m := by
  show (getReg (setReg a.v (regNo n) { getReg a.v (regNo n) with val := v }) (regNo m)).val = _
  split
  · next h => rw [h, getReg_setReg_same]
  · next h =>
    rw [getReg_setReg_other _ _ (mt (regNo_inj hm hn).mp h)]
    rfl

/-- An element of a group lies within its registers. -/
theorem elem_reg_lt {w q g e : Nat} (hq : 1024 = q * w) (he : (e + 1) * w ≤ 1024 * g) : e / q < g := by
  have hw : 0 < w := Nat.pos_of_ne_zero (by rintro rfl; omega)
  have hlt : e * w < 1024 * g := by
    rw [Nat.add_one_mul] at he
    omega
  rw [← (elem_place hq e).1]
  omega

/-- What the elements of a group are after a write of one of them. -/
theorem elem_setElem (a : Hart) {d w q g e k : Nat} (c : Nat) (hq : 1024 = q * w) (hd : d + g ≤ 32) (he : (e + 1) * w ≤ 1024 * g)
    (hk : (k + 1) * w ≤ 1024 * g) : (a.setElem d w e c).elem d w k = if k = e then c % 2 ^ w else a.elem d w k := by
  have he' := elem_reg_lt hq he
  have hk' := elem_reg_lt hq hk
  have hq0 : 0 < q := Nat.pos_of_ne_zero (by rintro rfl; omega)
  have hmod (i : Nat) : i % q * w + w ≤ 1024 := by
    have h := Nat.mul_le_mul_right w (Nat.mod_lt i hq0)
    rw [← hq, Nat.succ_mul] at h
    exact h
  have hvv : (a.setElem d w e c).vv (d + k / q) =
      if k / q = e / q then putBits (a.vv (d + e / q)) (e % q * w) w c else a.vv (d + k / q) := by
    show (a.setV (d + e * w / 1024) (putBits (a.vv (d + e * w / 1024)) (e * w % 1024) w c)).vv (d + k / q) = _
    rw [(elem_place hq e).1, (elem_place hq e).2, vv_setV _ _ (by omega) (by omega)]
    simp only [Nat.add_left_cancel_iff]
  apply Nat.eq_of_testBit_eq
  intro j
  rw [elem_testBit, (elem_place hq k).1, (elem_place hq k).2, hvv]
  by_cases hj : j < w
  · have hki : k % q * w + j < 1024 := by have := hmod k; omega
    rw [decide_eq_true hj, Bool.true_and]
    by_cases hreg : k / q = e / q
    · rw [if_pos hreg, putBits_getLsbD hki]
      by_cases hke : k = e
      · rw [if_pos hke, hke, if_pos (by omega), Nat.add_sub_cancel_left, Nat.testBit_mod_two_pow, decide_eq_true hj, Bool.true_and]
      · have hoff : k % q ≠ e % q := fun h => hke (by rw [← Nat.div_add_mod k q, ← Nat.div_add_mod e q, hreg, h])
        rw [if_neg hke, if_neg, elem_testBit, (elem_place hq k).1, (elem_place hq k).2, decide_eq_true hj, Bool.true_and, hreg]
        rcases Nat.lt_or_gt_of_ne hoff with h | h
        · have := Nat.mul_le_mul_right w h
          rw [Nat.succ_mul] at this
          omega
        · have := Nat.mul_le_mul_right w h
          rw [Nat.succ_mul] at this
          omega
    · rw [if_neg hreg, if_neg (by rintro rfl; exact hreg rfl), elem_testBit, (elem_place hq k).1, (elem_place hq k).2,
        decide_eq_true hj, Bool.true_and]
  · rw [decide_eq_false hj, Bool.false_and]
    split
    · rw [Nat.testBit_mod_two_pow, decide_eq_false hj, Bool.false_and]
    · rw [elem_testBit, decide_eq_false hj, Bool.false_and]

/-! ### What a write of elements leaves unchanged -/

/-- A hart whose `g` v registers from `d` took other values: nothing else differs but vflags, the dirty bits and the high-water mark. -/
def Hart.WroteGroup (a b : Hart) (d g : Nat) : Prop :=
  b = { a with v := b.v, vflags := b.vflags, dirty := b.dirty, hwb := b.hwb } ∧
  (∀ r : Reg, (r.toNat < d ∨ d + g ≤ r.toNat) → getReg b.v r = getReg a.v r) ∧
  (∀ r : Reg, (getReg b.v r).pres = (getReg a.v r).pres ∧ (getReg b.v r).mark = (getReg a.v r).mark)

theorem Hart.WroteGroup.refl (a : Hart) (d g : Nat) : a.WroteGroup a d g := ⟨rfl, fun _ _ => rfl, fun _ => ⟨rfl, rfl⟩⟩

theorem Hart.WroteGroup.trans {a b c : Hart} {d g : Nat} (hab : a.WroteGroup b d g) (hbc : b.WroteGroup c d g) : a.WroteGroup c d g := by
  obtain ⟨hb, hbout, hbpm⟩ := hab
  obtain ⟨hc, hcout, hcpm⟩ := hbc
  refine ⟨?_, fun r hr => (hcout r hr).trans (hbout r hr), fun r => ⟨(hcpm r).1.trans (hbpm r).1, (hcpm r).2.trans (hbpm r).2⟩⟩
  rw [hb] at hc
  exact hc

theorem Hart.WroteGroup.orVFlags {a b : Hart} {d g : Nat} (h : a.WroteGroup b d g) (f : Flags) : a.WroteGroup (b.orVFlags f) d g :=
  h.trans ⟨rfl, fun _ _ => rfl, fun _ => ⟨rfl, rfl⟩⟩

theorem wroteGroup_setV (a : Hart) {d g r : Nat} (v : BitVec 1024) (n : Nat) (hd : d + g ≤ 32) (hr : d ≤ r) (hr' : r < d + g) :
    a.WroteGroup ((a.setV r v).wrote r n) d g := by
  have hto : (regNo r).toNat = r := regNo_toNat (by omega)
  refine ⟨rfl, fun j hj => getReg_setReg_other _ _ ?_, fun j => ⟨?_, ?_⟩⟩
  · rintro rfl
    omega
  · exact getReg_setReg_val VReg.pres a.v (r := regNo r) (by rfl) j
  · exact getReg_setReg_val VReg.mark a.v (r := regNo r) (by rfl) j

theorem wroteGroup_setElem (a : Hart) {d w q g e : Nat} (c : Nat) (hq : 1024 = q * w) (hd : d + g ≤ 32) (he : (e + 1) * w ≤ 1024 * g) :
    a.WroteGroup (a.setElem d w e c) d g := by
  have he' := elem_reg_lt hq he
  rw [← (elem_place hq e).1] at he'
  exact wroteGroup_setV a _ _ hd (by omega) (by omega)

/-! ### Writes of several elements -/

section
variable {d w q g : Nat} (hq : 1024 = q * w) (hd : d + g ≤ 32)
include hq hd

theorem wroteGroup_setElems {l : List (Nat × Nat)} (hl : ∀ x ∈ l, (x.1 + 1) * w ≤ 1024 * g) (a : Hart) :
    a.WroteGroup (a.setElems d w l) d g := by
  induction l generalizing a with
  | nil => exact .refl a d g
  | cons x l ih =>
    obtain ⟨hx, hl⟩ := List.forall_mem_cons.mp hl
    exact (wroteGroup_setElem a x.2 hq hd hx).trans (ih hl _)

theorem elem_setElems_of_notMem {l : List (Nat × Nat)} (hl : ∀ x ∈ l, (x.1 + 1) * w ≤ 1024 * g) {k : Nat} (hk : (k + 1) * w ≤ 1024 * g)
    (hmem : ∀ x ∈ l, x.1 ≠ k) (a : Hart) : (a.setElems d w l).elem d w k = a.elem d w k := by
  induction l generalizing a with
  | nil => rfl
  | cons x l ih =>
    obtain ⟨hx, hl⟩ := List.forall_mem_cons.mp hl
    obtain ⟨hxk, hmem⟩ := List.forall_mem_cons.mp hmem
    rw [Hart.setElems, ih hl hmem, elem_setElem a x.2 hq hd hx hk, if_neg hxk.symm]

theorem elem_setElems_of_mem {l : List (Nat × Nat)} (hl : ∀ x ∈ l, (x.1 + 1) * w ≤ 1024 * g) (hnodup : (l.map Prod.fst).Nodup)
    {x : Nat × Nat} (hx : x ∈ l) (a : Hart) : (a.setElems d w l).elem d w x.1 = x.2 % 2 ^ w := by
  induction l generalizing a with
  | nil => cases hx
  | cons y l ih =>
    obtain ⟨hy, hl'⟩ := List.forall_mem_cons.mp hl
    rw [List.map_cons, List.nodup_cons] at hnodup
    rcases List.mem_cons.mp hx with rfl | hx
    · have hmem : ∀ z ∈ l, z.1 ≠ x.1 := fun z hz h => hnodup.1 (h ▸ List.mem_map_of_mem hz)
      rw [Hart.setElems, elem_setElems_of_notMem hq hd hl' hy hmem, elem_setElem a x.2 hq hd hy hy, if_pos rfl]
    · exact ih hl' hnodup.2 hx _

/-- Elements written in order from a list without repetition. -/
theorem elements_setElems {l : List (Nat × Nat)} (hl : ∀ x ∈ l, (x.1 + 1) * w ≤ 1024 * g) (hnodup : (l.map Prod.fst).Nodup) (a : Hart)
    {act : Nat → Prop} {val : Nat → BitVec w} (hact : ∀ e, act e ↔ ∃ c, (e, c) ∈ l) (hval : ∀ e c, (e, c) ∈ l → BitVec.ofNat w c = val e) :
    Elements a (a.setElems d w l) d g w act val := by
  obtain ⟨-, hout, hpm⟩ := wroteGroup_setElems hq hd hl a
  refine ⟨fun e _ he => ?_, fun e hb he => ?_, hout, hpm⟩
  · obtain ⟨c, hc⟩ := (hact e).mp he
    rw [elem_setElems_of_mem hq hd hl hnodup hc, ← hval e c hc]
    exact BitVec.eq_of_toNat_eq (by rw [BitVec.toNat_ofNat, BitVec.toNat_ofNat, Nat.mod_mod])
  · exact elem_setElems_of_notMem hq hd hl hb (fun x hx h => he ((hact e).mpr ⟨x.2, h ▸ hx⟩)) a

theorem wroteGroup_mapElems {es : List Nat} (hes : ∀ e ∈ es, (e + 1) * w ≤ 1024 * g) (a : Hart) (f : Nat → Nat × Flags) :
    a.WroteGroup (a.mapElems d w es f) d g := by
  refine (wroteGroup_setElems hq hd ?_ a).orVFlags _
  simp only [List.map_map, List.forall_mem_map]
  exact hes

/-- Elements written with computed codes. -/
theorem elements_mapElems {es : List Nat} (hes : ∀ e ∈ es, (e + 1) * w ≤ 1024 * g) (hnodup : es.Nodup) (a : Hart) (f : Nat → Nat × Flags)
    {act : Nat → Prop} {val : Nat → BitVec w} (hact : ∀ e, act e ↔ e ∈ es) (hval : ∀ e ∈ es, BitVec.ofNat w (f e).1 = val e) :
    Elements a (a.mapElems d w es f) d g w act val := by
  have hlist : (es.map fun e => (e, f e)).map (fun r => (r.1, r.2.1)) = es.map fun e => (e, (f e).1) := by
    rw [List.map_map]
    rfl
  show Elements a (a.setElems d w _) d g w act val
  rw [hlist]
  refine elements_setElems hq hd ?_ ?_ a (fun e => (hact e).trans ?_) fun e c hc => ?_
  · simpa only [List.forall_mem_map] using hes
  · rw [List.map_map]
    exact (List.map_id es).symm ▸ hnodup
  · exact ⟨fun h => ⟨_, List.mem_map_of_mem h⟩, fun ⟨c, hc⟩ => by obtain ⟨e', he', h⟩ := List.mem_map.mp hc; cases h; exact he'⟩
  · obtain ⟨e', he', h⟩ := List.mem_map.mp hc
    cases h
    exact hval e he'

end

theorem setElems_vflags (a : Hart) (d w : Nat) (l : List (Nat × Nat)) : (a.setElems d w l).vflags = a.vflags := by
  induction l generalizing a with
  | nil => rfl
  | cons x l ih => exact ih _

theorem mapElems_vflags (a : Hart) (d w : Nat) (es : List Nat) (f : Nat → Nat × Flags) :
    (a.mapElems d w es f).vflags = a.vflags ||| es.foldl (fun fl e => fl ||| (f e).2) 0 := by
  show (a.setElems d w _).vflags ||| _ = _
  rw [setElems_vflags, List.foldl_map]

/-- Without flags of its elements a write of elements raises none. -/
theorem foldl_flags_zero (es : List Nat) : es.foldl (fun (fl : Flags) _ => fl ||| 0) 0 = 0 := by
  induction es with
  | nil => rfl
  | cons e es ih => exact ih

/-! ### The widths of element types (R190 to R192) -/

theorem etWidth_int {fmt : List Word} {et : Nat} (h : et < 8) : etWidth fmt et = 8 * 2 ^ (et % 4) := if_pos h

theorem etWidth_dvd (fmt : List Word) (et : Nat) : ∃ q, 1024 = q * (2 * etWidth fmt et) := by
  have hint : ∀ k < 4, ∃ q, 1024 = q * (2 * (8 * 2 ^ k)) := by
    intro k hk
    interval_cases k
    exacts [⟨64, rfl⟩, ⟨32, rfl⟩, ⟨16, rfl⟩, ⟨8, rfl⟩]
  unfold etWidth
  split
  · exact hint _ (Nat.mod_lt _ (by decide))
  · split
    · exact ⟨32, rfl⟩
    · split
      · exact ⟨16, rfl⟩
      · split
        · exact ⟨8, rfl⟩
        · split
          · exact ⟨128, rfl⟩
          · exact ⟨64, rfl⟩

theorem etWidth_divides (fmt : List Word) (et : Nat) : ∃ q, 1024 = q * etWidth fmt et := by
  obtain ⟨q, hq⟩ := etWidth_dvd fmt et
  exact ⟨q * 2, by rw [hq]; ring⟩

/-- An element fits into a register. -/
theorem etWidth_fits (fmt : List Word) (et : Nat) : (0 + 1) * etWidth fmt et ≤ 1024 * 1 := by
  obtain ⟨q, hq⟩ := etWidth_divides fmt et
  have hq0 : 0 < q := Nat.pos_of_ne_zero (by rintro rfl; omega)
  have := Nat.mul_le_mul_right (etWidth fmt et) hq0
  omega

theorem etWidth_pos (fmt : List Word) (et : Nat) : 0 < etWidth fmt et := by
  obtain ⟨q, hq⟩ := etWidth_divides fmt et
  exact Nat.pos_of_ne_zero fun h => by rw [h] at hq; omega

/-! ### The step (R177) -/

/-- An operation on its hart's own registers: no store, atomic or FIFO operation. -/
def VOp.OnRegisters : VOp → Prop
  | .push _ | .pop _ | .store .. | .amo .. => False
  | _ => True

/-- The hart without its oldest command. -/
def Hart.popped (a : Hart) (l : List VCmd) : Hart := { a with vq := l }

theorem State.runVq_onRegisters {s : State} {h : Nat} {c : VCmd} (hop : c.op.OnRegisters) :
    s.runVq h c = (s.popVq h).updHart h (fun a => c.run a) := by
  unfold State.runVq
  cases hc : c.op with
  | push b => rw [hc] at hop; exact hop.elim
  | pop b => rw [hc] at hop; exact hop.elim
  | store d w bits el => rw [hc] at hop; exact hop.elim
  | amo op d w el => rw [hc] at hop; exact hop.elim
  | _ => rfl

section
variable {s : State} {c : VCmd} {l : List VCmd} (hc : Clears s c l)
include hc

theorem exec_runVq : exec .vectorQueueExecute s = .next (s.runVq s.ev.h c) := by
  obtain ⟨hvq, hclear, hhalt⟩ := hc
  show execVectorQueueExecute s = _
  unfold execVectorQueueExecute
  dsimp only
  rw [hvq]
  dsimp only
  rw [hclear, hhalt]
  rfl

theorem exec_onRegisters (hop : c.op.OnRegisters) :
    exec .vectorQueueExecute s = .next (s.setHart s.ev.h (c.run ((s.hart s.ev.h).popped l))) := by
  rw [exec_runVq hc, State.runVq_onRegisters hop]
  have htail : (s.hart s.ev.h).vq.tail = l := by rw [hc.1]; rfl
  have hhart : (s.popVq s.ev.h).hart s.ev.h = (s.hart s.ev.h).popped l := by
    rw [State.popVq, State.hart_updHart, htail]
    rfl
  show Host.Outcome.next { s with harts := Tab.set (Tab.set s.harts s.ev.h _) s.ev.h (c.run ((s.popVq s.ev.h).hart s.ev.h)) } = _
  rw [Tab.set_set, hhart]
  rfl

/-- A command that wrote a group of registers only. -/
theorem exec_wroteGroup (hop : c.op.OnRegisters) {b : Hart} {d g : Nat} (hrun : c.run ((s.hart s.ev.h).popped l) = b)
    (hb : ((s.hart s.ev.h).popped l).WroteGroup b d g) :
    ∃ t, exec .vectorQueueExecute s = .next t ∧ OnlyVectors s t l ∧ t.hart s.ev.h = b := by
  have hhart : (s.setHart s.ev.h b).hart s.ev.h = b := Tab.get_set_same ..
  refine ⟨_, exec_onRegisters hc hop, ?_, by rw [hrun, hhart]⟩
  rw [hrun]
  exact ⟨by rw [hhart], by rw [hhart]; exact hb.1⟩

/-- A command that computes elements of a group. -/
theorem exec_mapElems (hop : c.op.OnRegisters) {d w g : Nat} {es : List Nat} {f : Nat → Nat × Flags}
    (hrun : c.run ((s.hart s.ev.h).popped l) = ((s.hart s.ev.h).popped l).mapElems d w es f) (hw : ∃ q, 1024 = q * w)
    (hvl : c.vl * w ≤ 1024 * g) (hd : d + g ≤ 32) (hes : ∀ e ∈ es, e < c.vl) (hnodup : es.Nodup) {act : Nat → Prop}
    {val : Nat → BitVec w} (hact : ∀ e, act e ↔ e ∈ es) (hval : ∀ e ∈ es, BitVec.ofNat w (f e).1 = val e) :
    ∃ t, exec .vectorQueueExecute s = .next t ∧ OnlyVectors s t l ∧ Elements (s.hart s.ev.h) (t.hart s.ev.h) d g w act val ∧
      (t.hart s.ev.h).vflags = (s.hart s.ev.h).vflags ||| es.foldl (fun fl e => fl ||| (f e).2) 0 := by
  obtain ⟨q, hq⟩ := hw
  have hes' : ∀ e ∈ es, (e + 1) * w ≤ 1024 * g := fun e he => (Nat.mul_le_mul_right w (hes e he)).trans hvl
  obtain ⟨t, hexec, honly, hhart⟩ := exec_wroteGroup hc hop hrun (wroteGroup_mapElems hq hd hes' _ f)
  refine ⟨t, hexec, honly, ?_, ?_⟩
  · rw [hhart]
    exact elements_mapElems hq hd hes' hnodup _ f hact hval
  · rw [hhart]
    exact mapElems_vflags ..

end

/-! ### The elements of a command (R307) -/

theorem mem_actives {c : VCmd} {a : Hart} {p e : Nat} : e ∈ c.actives a p ↔ c.eix ≤ e ∧ e < c.vl ∧ a.pbit p e = true := by
  simp only [VCmd.actives, List.mem_filter, List.mem_range, Bool.and_eq_true, decide_eq_true_eq]
  tauto

theorem mem_wholes {c : VCmd} {a : Hart} {p e : Nat} : e ∈ c.wholes a p ↔ e < c.vl ∧ a.pbit p e = true := by
  simp only [VCmd.wholes, List.mem_filter, List.mem_range]

theorem nodup_actives (c : VCmd) (a : Hart) (p : Nat) : (c.actives a p).Nodup := List.nodup_range.filter _

theorem nodup_wholes (c : VCmd) (a : Hart) (p : Nat) : (c.wholes a p).Nodup := List.nodup_range.filter _

end Sys2Proof.Machine
end

section
/-!
SUPPORT. Integer commands of a vector queue (R307, R311, R312, R314, R315, R317): what the model computes of codes, as the operations of
bit vectors and of integers.
-/
namespace Sys2Proof.Machine
open Sys2Proof.Claims

/-! ### Codes and integers (R190, R215) -/

theorem intOf_eq_asInt (sg : Bool) (w c : Nat) : intOf sg w c = asInt sg (BitVec.ofNat w c) := by
  cases sg
  · simp [intOf, asInt]
  · rfl

theorem intOf_toNat (sg : Bool) {w : Nat} (v : BitVec w) : intOf sg w v.toNat = asInt sg v := by
  rw [intOf_eq_asInt, BitVec.ofNat_toNat, BitVec.setWidth_eq]

theorem ofInt_asInt (sg : Bool) {w : Nat} (v : BitVec w) : BitVec.ofInt w (asInt sg v) = v := by
  cases sg
  · exact (BitVec.ofInt_natCast w v.toNat).trans (by rw [BitVec.ofNat_toNat, BitVec.setWidth_eq])
  · exact BitVec.ofInt_toInt

theorem ofNat_toNat_self {w : Nat} (v : BitVec w) : BitVec.ofNat w v.toNat = v := by rw [BitVec.ofNat_toNat, BitVec.setWidth_eq]

theorem ofInt_sub {w : Nat} (i j : Int) : BitVec.ofInt w (i - j) = BitVec.ofInt w i - BitVec.ofInt w j := by
  rw [Int.sub_eq_add_neg, BitVec.ofInt_add, BitVec.ofInt_neg, BitVec.sub_eq_add_neg]

theorem ofNat_codeOf (w : Nat) (i : Int) : BitVec.ofNat w (codeOf w i) = BitVec.ofInt w i := ofNat_toNat_self _

theorem intRange_eq (sg : Bool) (w : Nat) :
    intRange sg w = if sg then (-(2 ^ (w - 1)), 2 ^ (w - 1) - 1) else (0, 2 ^ w - 1) := by
  cases sg <;> simp [intRange, Nat.cast_sub (Nat.one_le_two_pow)]

theorem intRange_le (sg : Bool) (w : Nat) : (intRange sg w).1 ≤ (intRange sg w).2 := by
  have h₁ : (0 : Int) < 2 ^ (w - 1) := by positivity
  have h₂ : (0 : Int) < 2 ^ w := by positivity
  rw [intRange_eq]
  cases sg
  · show (0 : Int) ≤ 2 ^ w - 1
    omega
  · show -(2 ^ (w - 1) : Int) ≤ 2 ^ (w - 1) - 1
    omega

theorem clamp_eq (sg : Bool) (w : Nat) (i : Int) : clamp sg w i = max (intRange sg w).1 (min (intRange sg w).2 i) := by
  rw [intRange_eq]
  cases sg <;> rfl

/-- A saturated integer is the clamped one, and SAT tells that it differs. -/
theorem satInt_eq (sg : Bool) (w : Nat) (i : Int) : satInt sg w i = (clamp sg w i, if clamp sg w i ≠ i then fSAT else 0) := by
  have h := intRange_le sg w
  rw [clamp_eq]
  simp only [satInt]
  split
  · rw [if_pos (by omega), max_eq_left (by omega)]
  · split
    · rw [if_pos (by omega), min_eq_left (by omega), max_eq_right h]
    · rw [if_neg (by omega), min_eq_right (by omega), max_eq_right (by omega)]

/-! ### The operations of two sources (R308, R311) -/

/-- The code of a second source (R308). -/
def VSrc.bits (a : Hart) (w : Nat) : VSrc → Nat → BitVec w
  | .reg n, e => el a n w e
  | .scalar v, _ => v.setWidth w
  | .imm i, _ => BitVec.ofInt w i

theorem VSrc.code_eq (src : VSrc) (a : Hart) (w e : Nat) : src.code a w e = (src.bits a w e).toNat := by
  cases src with
  | reg n => exact (el_toNat a n w e).symm
  | scalar v => exact (BitVec.toNat_setWidth ..).symm
  | imm i => rfl

theorem VSrc.ofInt_int (src : VSrc) (a : Hart) (sg : Bool) (w e : Nat) : BitVec.ofInt w (src.int a sg w e) = src.bits a w e := by
  cases src with
  | imm i => rfl
  | reg n =>
    show BitVec.ofInt w (intOf sg w ((VSrc.reg n).code a w e)) = _
    rw [VSrc.code_eq, intOf_toNat, ofInt_asInt]
  | scalar v =>
    show BitVec.ofInt w (intOf sg w ((VSrc.scalar v).code a w e)) = _
    rw [VSrc.code_eq, intOf_toNat, ofInt_asInt]

/-- The result column of R311. -/
theorem intElem_code (op : IOp) (sg : Bool) {w : Nat} (a b : BitVec w) {bi : Int} (hb : BitVec.ofInt w bi = b) :
    BitVec.ofNat w (intElem op sg w a.toNat b.toNat bi).1 = intResult op sg a b bi := by
  have ha : BitVec.ofInt w (asInt sg a) = a := ofInt_asInt sg a
  cases op with
  | add =>
    simp only [intElem, intResult, intOf_toNat, ofNat_codeOf]
    rw [BitVec.ofInt_add, ha, hb]
  | sub =>
    simp only [intElem, intResult, intOf_toNat, ofNat_codeOf]
    rw [ofInt_sub, ha, hb]
  | rsub =>
    simp only [intElem, intResult, intOf_toNat, ofNat_codeOf]
    rw [ofInt_sub, ha, hb]
  | mul =>
    simp only [intElem, intResult, intOf_toNat, ofNat_codeOf]
    rw [BitVec.ofInt_mul, ha, hb]
  | mulh => simp only [intElem, intResult, intOf_toNat, ofNat_codeOf]
  | mulhn => simp only [intElem, intResult, intOf_toNat, ofNat_codeOf]
  | adds => simp only [intElem, intResult, intOf_toNat, ofNat_codeOf, satInt_eq]
  | subs => simp only [intElem, intResult, intOf_toNat, ofNat_codeOf, satInt_eq]
  | min =>
    simp only [intElem, intResult, intOf_toNat]
    split
    · exact ofNat_toNat_self a
    · rw [ofNat_codeOf, hb]
  | max =>
    simp only [intElem, intResult, intOf_toNat]
    split
    · exact ofNat_toNat_self a
    · rw [ofNat_codeOf, hb]
  | and => exact (congrArg _ (BitVec.toNat_and a b).symm).trans (ofNat_toNat_self _)
  | or => exact (congrArg _ (BitVec.toNat_or a b).symm).trans (ofNat_toNat_self _)
  | xor => exact (congrArg _ (BitVec.toNat_xor a b).symm).trans (ofNat_toNat_self _)
  | sll =>
    refine BitVec.eq_of_toNat_eq ?_
    simp [intElem, intResult, BitVec.toNat_shiftLeft, Nat.shiftLeft_eq]
  | srl =>
    refine (congrArg _ ?_).trans (ofNat_toNat_self _)
    simp [intElem, intResult, BitVec.toNat_ushiftRight, Nat.shiftRight_eq_div_pow]
  | sra =>
    simp only [intElem, intResult, ofNat_codeOf, intOf_toNat]
    refine BitVec.eq_of_toInt_eq ?_
    rw [← BitVec.ofInt_toInt (x := a.sshiftRight (b.toNat % w)), BitVec.toInt_sshiftRight, Int.shiftRight_eq_div_pow]
    rfl

theorem flags_or_zero (g : Flags) : g ||| 0 = g := BitVec.or_zero

/-- A flag that some of the elements raise, the others raising none. -/
theorem foldl_flag (es : List Nat) (fl : Nat → Flags) {g : Flags} {on : Nat → Prop} (hfl : ∀ e ∈ es, (on e → fl e = g) ∧ (¬ on e → fl e = 0)) :
    ((∃ e ∈ es, on e) → es.foldl (fun f e => f ||| fl e) 0 = g) ∧ ((∀ e ∈ es, ¬ on e) → es.foldl (fun f e => f ||| fl e) 0 = 0) := by
  have gen : ∀ init : Flags, ((∃ e ∈ es, on e) → es.foldl (fun f e => f ||| fl e) init = init ||| g) ∧
      ((∀ e ∈ es, ¬ on e) → es.foldl (fun f e => f ||| fl e) init = init) := by
    induction es with
    | nil => exact fun init => ⟨fun ⟨e, he, _⟩ => absurd he List.not_mem_nil, fun _ => rfl⟩
    | cons e es ih =>
      intro init
      obtain ⟨he, hfl⟩ := List.forall_mem_cons.mp hfl
      obtain ⟨hsome, hnone⟩ := ih hfl (init ||| fl e)
      by_cases hon : on e
      · refine ⟨fun _ => ?_, fun h => absurd hon (h e List.mem_cons_self)⟩
        rw [he.1 hon] at hsome hnone
        by_cases hmore : ∃ e ∈ es, on e
        · rw [List.foldl_cons, he.1 hon, hsome hmore, BitVec.or_assoc, BitVec.or_self]
        · rw [List.foldl_cons, he.1 hon, hnone (fun e' he' ho => hmore ⟨e', he', ho⟩)]
      · rw [he.2 hon, flags_or_zero] at hsome hnone
        rw [List.foldl_cons, he.2 hon, flags_or_zero]
        refine ⟨fun ⟨e', he', ho⟩ => hsome ?_, fun h => hnone fun e' he' => h e' (List.mem_cons_of_mem _ he')⟩
        rcases List.mem_cons.mp he' with rfl | he'
        · exact absurd ho hon
        · exact ⟨e', he', ho⟩
  obtain ⟨hsome, hnone⟩ := gen 0
  exact ⟨fun h => (hsome h).trans (BitVec.zero_or), hnone⟩

end Sys2Proof.Machine
end

section
/-!
SUPPORT. Executed integer operations and movements of a vector queue (R307, R311, R316, R324, R326, R328 to R331, R333).
-/
namespace Sys2Proof.Machine
open Sys2Proof.Claims

/-- An active element of an element-wise operation (R307). -/
def VCmd.Active (c : VCmd) (a : Hart) (p e : Nat) : Prop := c.eix ≤ e ∧ e < c.vl ∧ a.pbit p e = true

/-- The value of a second source (R308). -/
def VSrc.number (a : Hart) (sg : Bool) (w : Nat) : VSrc → Nat → Int
  | .reg n, e => asInt sg ((VSrc.reg n).bits a w e)
  | .scalar v, e => asInt sg ((VSrc.scalar v).bits a w e)
  | .imm i, _ => i

theorem VSrc.int_eq (src : VSrc) (a : Hart) (sg : Bool) (w e : Nat) : src.int a sg w e = src.number a sg w e := by
  cases src with
  | reg n => exact intOf_eq_asInt ..
  | scalar v => exact (congrArg (intOf sg w) (BitVec.toNat_setWidth ..).symm).trans (intOf_toNat ..)
  | imm i => rfl

/-- The exact result of VADDS and VSUBS. -/
def saturatedSum (op : IOp) (x y : Int) : Int := if op = .adds then x + y else x - y

theorem intElem_flags (op : IOp) (sg : Bool) {w : Nat} (a : BitVec w) (b : Nat) (bi : Int) :
    ((op = .adds ∨ op = .subs) ∧ clamp sg w (saturatedSum op (asInt sg a) bi) ≠ saturatedSum op (asInt sg a) bi →
      (intElem op sg w a.toNat b bi).2 = fSAT) ∧
    (¬ ((op = .adds ∨ op = .subs) ∧ clamp sg w (saturatedSum op (asInt sg a) bi) ≠ saturatedSum op (asInt sg a) bi) →
      (intElem op sg w a.toNat b bi).2 = 0) := by
  cases op with
  | adds =>
    simp only [intElem, intOf_toNat, satInt_eq, saturatedSum, if_true]
    exact ⟨fun h => if_pos h.2, fun h => if_neg fun hne => h ⟨.inl trivial, hne⟩⟩
  | subs =>
    simp only [intElem, intOf_toNat, satInt_eq, saturatedSum]
    exact ⟨fun h => if_pos h.2, fun h => if_neg fun hne => h ⟨.inr trivial, hne⟩⟩
  | _ => exact ⟨fun h => by simp at h, fun _ => rfl⟩

/-! ### Members and codes of a movement -/

theorem mem_actives_zero {c : VCmd} {a : Hart} {e : Nat} : e ∈ c.actives a 0 ↔ c.eix ≤ e ∧ e < c.vl :=
  mem_actives.trans ⟨fun ⟨h₁, h₂, _⟩ => ⟨h₁, h₂⟩, fun ⟨h₁, h₂⟩ => ⟨h₁, h₂, rfl⟩⟩

theorem mem_wholes_filter {c : VCmd} {a : Hart} {p e : Nat} {on : Nat → Prop} [DecidablePred on] :
    e ∈ (c.wholes a p).filter (fun e => decide (on e)) ↔ (e < c.vl ∧ a.pbit p e = true) ∧ on e := by
  rw [List.mem_filter, mem_wholes, decide_eq_true_eq]

theorem ofNat_toNat_mod {w : Nat} (v : Word) : BitVec.ofNat w (v.toNat % 2 ^ w) = v.setWidth w :=
  BitVec.eq_of_toNat_eq (by rw [BitVec.toNat_ofNat, Nat.mod_mod, BitVec.toNat_setWidth])

section
variable {s : State} {c : VCmd} {l : List VCmd} (hc : Clears s c l)
include hc

/-- An integer operation of two sources, executed (R307, R311). -/
theorem exec_int {op : IOp} {et p d : Nat} {src : VSrc} (hop : c.op = .int op et p d src) (het : et < 8)
    (hvl : c.vl * (8 * 2 ^ (et % 4)) ≤ 1024 * c.g) (hd : d + c.g ≤ 32) {w : Nat} (hw : w = 8 * 2 ^ (et % 4)) {sg : Bool}
    (hsg : sg = decide (et < 4)) {a : Hart} (ha : a = s.hart s.ev.h) {clamped : Prop}
    (hclamped : clamped ↔ (op = .adds ∨ op = .subs) ∧ ∃ e, c.Active a p e ∧
      clamp sg w (saturatedSum op (asInt sg (el a d w e)) (src.number a sg w e)) ≠
        saturatedSum op (asInt sg (el a d w e)) (src.number a sg w e)) :
    ∃ t, exec .vectorQueueExecute s = .next t ∧ OnlyVectors s t l ∧
      Elements a (t.hart s.ev.h) d c.g w (c.Active a p)
        (fun e => intResult op sg (el a d w e) (src.bits a w e) (src.number a sg w e)) ∧
      (clamped → (t.hart s.ev.h).vflags = a.vflags ||| 32#7) ∧ (¬ clamped → (t.hart s.ev.h).vflags = a.vflags) := by
  subst ha hsg
  rw [← etWidth_int (fmt := c.fmt) het] at hw hvl
  subst hw
  let a := s.hart s.ev.h
  let w := etWidth c.fmt et
  let f (e : Nat) := intElem op (decide (et < 4)) w (a.elem d w e) (src.code a w e) (src.int a (decide (et < 4)) w e)
  have hrun : c.run (a.popped l) = (a.popped l).mapElems d w (c.actives a p) f := by
    simp only [VCmd.run, hop]
    cases src <;> rfl
  have hcode (e : Nat) : BitVec.ofNat w (f e).1 =
      intResult op (decide (et < 4)) (el a d w e) (src.bits a w e) (src.number a (decide (et < 4)) w e) := by
    show BitVec.ofNat w (intElem op (decide (et < 4)) w (a.elem d w e) (src.code a w e) (src.int a (decide (et < 4)) w e)).1 = _
    rw [← el_toNat, VSrc.code_eq, intElem_code _ _ _ _ (src.ofInt_int ..), VSrc.int_eq]
  obtain ⟨t, hexec, honly, helems, hflags⟩ := exec_mapElems hc (by rw [hop]; trivial) hrun (etWidth_divides c.fmt et) hvl hd
    (fun e he => (mem_actives.mp he).2.1) (nodup_actives c a p) (fun e => mem_actives.symm) (fun e _ => hcode e)
  have hfl := foldl_flag (c.actives a p) (fun e => (f e).2) (on := fun e => (op = .adds ∨ op = .subs) ∧
      clamp (decide (et < 4)) w (saturatedSum op (asInt (decide (et < 4)) (el a d w e)) (src.number a (decide (et < 4)) w e)) ≠
        saturatedSum op (asInt (decide (et < 4)) (el a d w e)) (src.number a (decide (et < 4)) w e)) (g := fSAT) fun e _ => by
    have h := intElem_flags op (decide (et < 4)) (el a d w e) (src.code a w e) (src.number a (decide (et < 4)) w e)
    rw [el_toNat, ← VSrc.int_eq] at h
    rw [← VSrc.int_eq]
    exact h
  refine ⟨t, hexec, honly, helems, fun h => ?_, fun h => ?_⟩
  · obtain ⟨hop', e, he, hne⟩ := hclamped.mp h
    rw [hflags, hfl.1 ⟨e, mem_actives.mpr he, hop', hne⟩]
    rfl
  · rw [hflags, hfl.2 fun e he hon => h (hclamped.mpr ⟨hon.1, e, mem_actives.mp he, hon.2⟩)]
    exact flags_or_zero _

/-- A movement of elements: it raises no flag. -/
theorem exec_moves (hop : c.op.OnRegisters) {et d : Nat} {es : List Nat} {code : Nat → Nat}
    (hrun : c.run ((s.hart s.ev.h).popped l) = ((s.hart s.ev.h).popped l).mapElems d (etWidth c.fmt et) es (fun e => (code e, 0)))
    (hes : ∀ e ∈ es, e < c.vl) (hnodup : es.Nodup) {act : Nat → Prop} {val : Nat → BitVec (etWidth c.fmt et)}
    (hact : ∀ e, act e ↔ e ∈ es) (hval : ∀ e, BitVec.ofNat (etWidth c.fmt et) (code e) = val e)
    (hvl : c.vl * etWidth c.fmt et ≤ 1024 * c.g) (hd : d + c.g ≤ 32) :
    ∃ t, exec .vectorQueueExecute s = .next t ∧ OnlyVectors s t l ∧ (t.hart s.ev.h).vflags = (s.hart s.ev.h).vflags ∧
      Elements (s.hart s.ev.h) (t.hart s.ev.h) d c.g (etWidth c.fmt et) act val := by
  obtain ⟨t, hexec, honly, helems, hflags⟩ :=
    exec_mapElems hc hop hrun (etWidth_divides c.fmt et) hvl hd hes hnodup hact (fun e _ => hval e)
  refine ⟨t, hexec, honly, ?_, helems⟩
  rw [hflags, foldl_flags_zero]
  exact flags_or_zero _

/-- A movement into the active elements (R307). -/
theorem exec_movesActive (hop : c.op.OnRegisters) {et p d : Nat} {code : Nat → Nat}
    (hrun : c.run ((s.hart s.ev.h).popped l) = ((s.hart s.ev.h).popped l).mapElems d (etWidth c.fmt et) (c.actives (s.hart s.ev.h) p)
      (fun e => (code e, 0))) {val : Nat → BitVec (etWidth c.fmt et)} (hval : ∀ e, BitVec.ofNat (etWidth c.fmt et) (code e) = val e)
    (hvl : c.vl * etWidth c.fmt et ≤ 1024 * c.g) (hd : d + c.g ≤ 32) :
    ∃ t, exec .vectorQueueExecute s = .next t ∧ OnlyVectors s t l ∧ (t.hart s.ev.h).vflags = (s.hart s.ev.h).vflags ∧
      Elements (s.hart s.ev.h) (t.hart s.ev.h) d c.g (etWidth c.fmt et) (c.Active (s.hart s.ev.h) p) val :=
  exec_moves hc hop hrun (fun _ he => (mem_actives.mp he).2.1) (nodup_actives c _ p) (fun _ => mem_actives.symm) hval hvl hd

/-- A movement into the elements that the predicate names and a test passes, whatever veix. -/
theorem exec_movesWhole (hop : c.op.OnRegisters) {et p d : Nat} {code : Nat → Nat} {on : Nat → Prop} [DecidablePred on]
    (hrun : c.run ((s.hart s.ev.h).popped l) = ((s.hart s.ev.h).popped l).mapElems d (etWidth c.fmt et)
      ((c.wholes (s.hart s.ev.h) p).filter (fun e => decide (on e))) (fun e => (code e, 0))) {val : Nat → BitVec (etWidth c.fmt et)}
    (hval : ∀ e, BitVec.ofNat (etWidth c.fmt et) (code e) = val e) (hvl : c.vl * etWidth c.fmt et ≤ 1024 * c.g) (hd : d + c.g ≤ 32) :
    ∃ t, exec .vectorQueueExecute s = .next t ∧ OnlyVectors s t l ∧ (t.hart s.ev.h).vflags = (s.hart s.ev.h).vflags ∧
      Elements (s.hart s.ev.h) (t.hart s.ev.h) d c.g (etWidth c.fmt et)
        (fun e => (e < c.vl ∧ (s.hart s.ev.h).pbit p e = true) ∧ on e) val :=
  exec_moves hc hop hrun (fun _ he => (mem_wholes_filter.mp he).1.1) ((nodup_wholes c _ p).filter _) (fun _ => mem_wholes_filter.symm)
    hval hvl hd

/-- A movement into every element that the predicate names, whatever veix. -/
theorem exec_movesAll (hop : c.op.OnRegisters) {et p d : Nat} {code : Nat → Nat}
    (hrun : c.run ((s.hart s.ev.h).popped l) = ((s.hart s.ev.h).popped l).mapElems d (etWidth c.fmt et) (c.wholes (s.hart s.ev.h) p)
      (fun e => (code e, 0))) {val : Nat → BitVec (etWidth c.fmt et)} (hval : ∀ e, BitVec.ofNat (etWidth c.fmt et) (code e) = val e)
    (hvl : c.vl * etWidth c.fmt et ≤ 1024 * c.g) (hd : d + c.g ≤ 32) :
    ∃ t, exec .vectorQueueExecute s = .next t ∧ OnlyVectors s t l ∧ (t.hart s.ev.h).vflags = (s.hart s.ev.h).vflags ∧
      Elements (s.hart s.ev.h) (t.hart s.ev.h) d c.g (etWidth c.fmt et) (fun e => e < c.vl ∧ (s.hart s.ev.h).pbit p e = true) val :=
  exec_moves hc hop hrun (fun _ he => (mem_wholes.mp he).1) (nodup_wholes c _ p) (fun _ => mem_wholes.symm) hval hvl hd

/-- Elements packed (R330): the picked ones, in order, into the lowest places. -/
theorem exec_compress {et p d n : Nat} (hop : c.op = .compress et p d n) (hvl : c.vl * etWidth c.fmt et ≤ 1024 * c.g)
    (hd : d + c.g ≤ 32) {a : Hart} (ha : a = s.hart s.ev.h) :
    ∃ t, exec .vectorQueueExecute s = .next t ∧ OnlyVectors s t l ∧ (t.hart s.ev.h).vflags = a.vflags ∧
      Elements a (t.hart s.ev.h) d c.g (etWidth c.fmt et) (fun j => j < (c.wholes a p).length)
        (fun j => el a n (etWidth c.fmt et) ((c.wholes a p).getD j 0)) := by
  subst ha
  let a := s.hart s.ev.h
  let picked := c.wholes a p
  let es := picked.zipIdx.map fun x => (x.2, a.elem n (etWidth c.fmt et) x.1)
  obtain ⟨q, hq⟩ := etWidth_divides c.fmt et
  have hlen : picked.length ≤ c.vl := (List.length_filter_le ..).trans List.length_range.le
  have hfst : es.map Prod.fst = List.range picked.length := by
    rw [List.map_map]
    exact List.zipIdx_map_snd 0 picked ▸ List.range_eq_range'.symm
  have hes : ∀ x ∈ es, (x.1 + 1) * etWidth c.fmt et ≤ 1024 * c.g := fun x hx => by
    have hx' : x.1 ∈ es.map Prod.fst := List.mem_map_of_mem hx
    rw [hfst, List.mem_range] at hx'
    exact (Nat.mul_le_mul_right _ (by omega : x.1 + 1 ≤ c.vl)).trans hvl
  have hmem (j k : Nat) : (j, k) ∈ es ↔ ∃ e, picked[j]? = some e ∧ a.elem n (etWidth c.fmt et) e = k := by
    simp only [es, List.mem_map, Prod.mk.injEq, Prod.exists, List.mem_zipIdx_iff_getElem?]
    exact ⟨fun ⟨e, i, he, hi, hk⟩ => ⟨e, hi ▸ he, hk⟩, fun ⟨e, he, hk⟩ => ⟨e, j, he, rfl, hk⟩⟩
  have hrun : c.run (a.popped l) = (a.popped l).setElems d (etWidth c.fmt et) es := by
    simp only [VCmd.run, hop]
    rfl
  obtain ⟨t, hexec, honly, hhart⟩ := exec_wroteGroup hc (by rw [hop]; trivial) hrun (wroteGroup_setElems hq hd hes _)
  refine ⟨t, hexec, honly, ?_, ?_⟩
  · rw [hhart]
    exact setElems_vflags ..
  · rw [hhart]
    refine elements_setElems hq hd hes (hfst ▸ List.nodup_range) (a.popped l) (fun j => ?_) fun j k hjk => ?_
    · refine ⟨fun hj => ⟨_, (hmem j _).mpr ⟨picked[j], List.getElem?_eq_getElem hj, rfl⟩⟩, fun ⟨k, hk⟩ => ?_⟩
      obtain ⟨e, he, -⟩ := (hmem j k).mp hk
      exact (List.getElem?_eq_some_iff.mp he).1
    · obtain ⟨e, he, rfl⟩ := (hmem j k).mp hjk
      show _ = BitVec.ofNat _ (a.elem n _ (picked.getD j 0))
      rw [List.getD_eq_getElem?_getD, he]
      rfl

end

end Sys2Proof.Machine
end

section
/-!
SUPPORT. Executed predicate operations, compares, reductions and single moves of a vector queue (R237, R314, R315, R317, R327), and the
integer operations of one and three registers (R311, R312).
-/
namespace Sys2Proof.Machine
open Sys2Proof.Claims

/-! ### Predicates (R315) -/

theorem bitsUpTo_getLsbD (n : Nat) (f : Nat → Bool) {e : Nat} (he : e < 2048) :
    (bitsUpTo n f).getLsbD e = (decide (e < n) && f e) := by
  have gen : ∀ n, (List.range n).foldl (fun acc e => if f e then acc + 2 ^ e else acc) 0 < 2 ^ n ∧
      ∀ e, ((List.range n).foldl (fun acc e => if f e then acc + 2 ^ e else acc) 0).testBit e = (decide (e < n) && f e) := by
    intro n
    induction n with
    | zero => exact ⟨Nat.one_pos, fun e => by simp⟩
    | succ n ih =>
      obtain ⟨hlt, hbit⟩ := ih
      rw [List.range_succ, List.foldl_append, List.foldl_cons, List.foldl_nil, Nat.pow_succ]
      cases hf : f n with
      | false =>
        rw [if_neg Bool.false_ne_true]
        refine ⟨by omega, fun e => ?_⟩
        rw [hbit]
        rcases Nat.lt_trichotomy e n with h | rfl | h
        · rw [decide_eq_true h, decide_eq_true (by omega)]
        · rw [hf, Bool.and_false, Bool.and_false]
        · rw [decide_eq_false (by omega), decide_eq_false (by omega)]
      | true =>
        rw [if_pos rfl]
        refine ⟨by omega, fun e => ?_⟩
        rw [Nat.add_comm, ← Nat.mul_one (2 ^ n), Nat.testBit_two_pow_mul_add _ hlt]
        rcases Nat.lt_trichotomy e n with h | rfl | h
        · rw [if_pos h, hbit, decide_eq_true h, decide_eq_true (by omega)]
        · rw [if_neg (Nat.lt_irrefl _), Nat.sub_self, hf, decide_eq_true (Nat.lt_succ_self _)]
          rfl
        · rw [if_neg (by omega), decide_eq_false (by omega), Bool.false_and, Nat.testBit_lt_two_pow]
          exact Nat.one_lt_two_pow (by omega)
  rw [bitsUpTo, BitVec.getLsbD_ofNat, decide_eq_true he, Bool.true_and, (gen n).2]

theorem bitsUpTo_iff (n : Nat) (f : Nat → Bool) {e : Nat} (he : e < 2048) :
    (bitsUpTo n f).getLsbD e = true ↔ e < n ∧ f e = true := by
  rw [bitsUpTo_getLsbD n f he, Bool.and_eq_true, decide_eq_true_eq]

/-- The lowest set bit below vl, or vl. -/
theorem first_spec (c : VCmd) (a : Hart) (p : Nat) :
    (c.first a p < c.vl ∧ a.pbit p (c.first a p) = true ∧ ∀ e, e < c.first a p → a.pbit p e = false) ∨
      (c.first a p = c.vl ∧ ∀ e, e < c.vl → a.pbit p e = false) := by
  unfold VCmd.first
  cases hfind : (List.range c.vl).find? (fun e => a.pbit p e) with
  | none =>
    refine .inr ⟨rfl, fun e he => ?_⟩
    simpa using List.find?_eq_none.mp hfind e (List.mem_range.mpr he)
  | some f =>
    obtain ⟨hbit, hmem, hbefore⟩ := List.find?_range_eq_some.mp hfind
    exact .inl ⟨List.mem_range.mp hmem, hbit, fun e he => by simpa using hbefore e he⟩

theorem lt_first_iff {c : VCmd} {a : Hart} {p e : Nat} (he : e < c.vl) : e < c.first a p ↔ ∀ k, k ≤ e → a.pbit p k = false := by
  rcases first_spec c a p with ⟨-, hbit, hbefore⟩ | ⟨hf, hnone⟩
  · refine ⟨fun h k hk => hbefore k (hk.trans_lt h), fun h => ?_⟩
    by_contra hle
    rw [h _ (not_lt.mp hle)] at hbit
    cases hbit
  · exact ⟨fun _ k hk => hnone k (hk.trans_lt he), fun _ => hf ▸ he⟩

/-- Bit `e` of a predicate operation (R315). -/
def PredBit (a : Hart) (op : PrOp) (pa pb e : Nat) : Prop :=
  match op with
  | .and => a.pbit pa e = true ∧ a.pbit pb e = true
  | .or => a.pbit pa e = true ∨ a.pbit pb e = true
  | .xor => a.pbit pa e ≠ a.pbit pb e
  | .not => a.pbit pa e = false
  | .mskup => ∀ k, k ≤ e → a.pbit pa k = false

theorem predBits_iff (c : VCmd) (op : PrOp) (a : Hart) (pa pb : Nat) {e : Nat} (he : e < 2048) :
    (c.predBits op a pa pb).getLsbD e = true ↔ e < c.vl ∧ PredBit a op pa pb e := by
  rw [VCmd.predBits, bitsUpTo_iff _ _ he]
  refine and_congr_right fun hvl => ?_
  cases op with
  | and => exact Bool.and_eq_true_iff
  | or => exact Bool.or_eq_true_iff
  | xor => exact bne_iff_ne
  | not => exact iff_of_eq (Bool.not_eq_true' _)
  | mskup => exact decide_eq_true_iff.trans (lt_first_iff hvl)

theorem orVFlags_zero (a : Hart) : a.orVFlags 0 = a := by
  show { a with vflags := a.vflags ||| 0 } = a
  rw [flags_or_zero]

/-! ### Integer compares and reductions (R314, R317) -/

/-- The relation that a compare's code names (R314). -/
def Compares (cc : Nat) (x y : Int) : Prop :=
  match cc with
  | 0 => x = y
  | 1 => x ≠ y
  | 2 => x < y
  | 3 => x ≤ y
  | 4 => ¬ x < y
  | _ => ¬ x ≤ y

theorem cmpInt_iff {cc : Nat} (hcc : cc < 6) (x y : Int) : cmpInt cc x y = true ↔ Compares cc x y := by
  interval_cases cc <;> simp [cmpInt, Compares]

theorem ofInt_foldl_add (sg : Bool) (w : Nat) (x : Nat → Nat) (es : List Nat) (i : Int) :
    BitVec.ofInt w (es.foldl (fun acc e => acc + intOf sg w (x e)) i) =
      (es.map fun e => BitVec.ofNat w (x e)).foldl (· + ·) (BitVec.ofInt w i) := by
  induction es generalizing i with
  | nil => rfl
  | cons e es ih => rw [List.foldl_cons, ih, BitVec.ofInt_add, intOf_eq_asInt, ofInt_asInt]; rfl

/-- A search for the least by a key finds one of the codes, none of which has a lesser key. -/
theorem foldl_least (key : Nat → Int) (x : Nat → Nat) (es : List Nat) (d : Nat) :
    let r := es.foldl (fun acc e => if key (x e) < key acc then x e else acc) d
    (r = d ∨ ∃ e ∈ es, r = x e) ∧ key r ≤ key d ∧ ∀ e ∈ es, key r ≤ key (x e) := by
  induction es generalizing d with
  | nil => exact ⟨.inl rfl, le_refl _, fun e he => absurd he List.not_mem_nil⟩
  | cons e es ih =>
    intro r
    obtain ⟨hwhich, hd, hes⟩ := ih (if key (x e) < key d then x e else d)
    have hstep : key (if key (x e) < key d then x e else d) ≤ key d ∧ key (if key (x e) < key d then x e else d) ≤ key (x e) := by
      split <;> constructor <;> omega
    refine ⟨?_, hd.trans hstep.1, List.forall_mem_cons.mpr ⟨hd.trans hstep.2, hes⟩⟩
    rcases hwhich with h | ⟨e', he', h⟩
    · replace h : r = if key (x e) < key d then x e else d := h
      by_cases hlt : key (x e) < key d
      · rw [if_pos hlt] at h
        exact .inr ⟨e, List.mem_cons_self, h⟩
      · rw [if_neg hlt] at h
        exact .inl h
    · exact .inr ⟨e', List.mem_cons_of_mem _ he', h⟩

/-! ### Counts of bits (R311) -/

theorem leadZeros_spec {w a : Nat} (ha : a < 2 ^ w) : leadZeros w a ≤ w ∧ (∀ k, w - leadZeros w a ≤ k → a.testBit k = false) ∧
    (leadZeros w a < w → a.testBit (w - 1 - leadZeros w a) = true) := by
  unfold leadZeros
  split
  · next h =>
    subst h
    exact ⟨le_refl _, fun k _ => Nat.zero_testBit k, fun h => absurd h (Nat.lt_irrefl _)⟩
  · next h =>
    have hlog : Nat.log2 a < w := (Nat.log2_lt h).mpr ha
    refine ⟨by omega, fun k hk => Nat.testBit_lt_two_pow (Nat.lt_log2_self.trans_le (Nat.pow_le_pow_right (by decide) (by omega))), fun _ => ?_⟩
    rw [show w - 1 - (w - 1 - Nat.log2 a) = Nat.log2 a by omega]
    exact Nat.testBit_log2 h

theorem popCount_eq (n v : Nat) : popCount n v = (List.range n).countP fun k => v.testBit k := by
  rw [popCount, List.countP_eq_length_filter]
  congr 2
  funext k
  rw [Nat.testBit_eq_decide_div_mod_eq]
  exact (Bool.beq_eq_decide_eq _ _)

end Sys2Proof.Machine
end

section
/-!
SUPPORT. The steps that execute predicate operations, reductions, moves, copies and FIFO pushes (R177, R237, R315, R317, R327).
-/
namespace Sys2Proof.Machine
open Sys2Proof.Claims

/-! ### A group copied (R327) -/

theorem wroteGroup_copy (a : Hart) (n : Nat) {d g : Nat} (hd : d + g ≤ 32) {j : Nat} (hj : j ≤ g) :
    let b := (List.range j).foldl (fun t k => (t.setV (d + k) (a.vv (n + k))).wrote (d + k) 128) a
    a.WroteGroup b d g ∧ b.vflags = a.vflags ∧ ∀ k, k < j → b.vv (d + k) = a.vv (n + k) := by
  induction j with
  | zero => exact ⟨.refl a d g, rfl, fun k hk => absurd hk (Nat.not_lt_zero k)⟩
  | succ j ih =>
    obtain ⟨hwrote, hflags, hvv⟩ := ih (by omega)
    intro b
    have hb : b = ((((List.range j).foldl (fun t k => (t.setV (d + k) (a.vv (n + k))).wrote (d + k) 128) a).setV (d + j)
        (a.vv (n + j))).wrote (d + j) 128) := by
      show (List.range (j + 1)).foldl _ a = _
      rw [List.range_succ, List.foldl_append]
      rfl
    rw [hb]
    refine ⟨hwrote.trans (wroteGroup_setV _ _ _ hd (by omega) (by omega)), hflags, fun k hk => ?_⟩
    refine (vv_setV _ _ (by omega) (by omega)).trans ?_
    split
    · next h => rw [Nat.add_left_cancel h]
    · next h => exact hvv k (by omega)

/-! ### Reductions (R317) -/

theorem run_red {c : VCmd} {op : RedOp} {et p d n : Nat} (hop : c.op = .red op et p d n) (a : Hart) : c.run a =
    if c.wholes a p = [] then a
    else (a.setElem d (etWidth c.fmt et) 0 (c.reduce op et a p d n).1).orVFlags (c.reduce op et a p d n).2 := by
  simp only [VCmd.run, hop]

/-- The codes of a reduction's active elements. -/
def VCmd.summands (c : VCmd) (a : Hart) (p n w : Nat) : List (BitVec w) := (c.wholes a p).map fun e => el a n w e

theorem reduce_sum (c : VCmd) (et : Nat) (a : Hart) (p d n : Nat) {w : Nat} (hw : w = etWidth c.fmt et) :
    BitVec.ofNat w (c.reduce .sum et a p d n).1 = (c.summands a p n w).foldl (· + ·) (el a d w 0) := by
  subst hw
  show BitVec.ofNat _ (codeOf _ _) = _
  rw [ofNat_codeOf, ofInt_foldl_add, intOf_eq_asInt, ofInt_asInt]
  rfl

theorem reduce_flags {op : RedOp} (hop : op ≠ .fsum) (c : VCmd) (et : Nat) (a : Hart) (p d n : Nat) : (c.reduce op et a p d n).2 = 0 := by
  cases op with
  | fsum => exact absurd rfl hop
  | _ => rfl

theorem reduce_nil {op : RedOp} (hop : op ≠ .fsum) {c : VCmd} {a : Hart} {p : Nat} (h : c.wholes a p = []) (et d n : Nat) :
    BitVec.ofNat (etWidth c.fmt et) (c.reduce op et a p d n).1 = el a d (etWidth c.fmt et) 0 := by
  cases op with
  | sum => rw [reduce_sum c et a p d n rfl, VCmd.summands, h]; rfl
  | fsum => exact absurd rfl hop
  | min => simp only [VCmd.reduce, h]; rfl
  | max => simp only [VCmd.reduce, h]; rfl

/-- The codes that VREDMIN and VREDMAX choose from. -/
def VCmd.Among (c : VCmd) (a : Hart) (p d n w : Nat) (v : BitVec w) : Prop :=
  v = el a d w 0 ∨ ∃ e, e < c.vl ∧ a.pbit p e = true ∧ v = el a n w e

theorem reduce_among {c : VCmd} {et : Nat} {a : Hart} {p d n r : Nat}
    (h : r = a.elem d (etWidth c.fmt et) 0 ∨ ∃ e ∈ c.wholes a p, r = a.elem n (etWidth c.fmt et) e) :
    c.Among a p d n (etWidth c.fmt et) (BitVec.ofNat _ r) := by
  rcases h with rfl | ⟨e, he, rfl⟩
  · exact .inl rfl
  · exact .inr ⟨e, (mem_wholes.mp he).1, (mem_wholes.mp he).2, rfl⟩

/-- VREDMIN and VREDMAX choose a code of the least or the greatest value. -/
theorem reduce_minmax {op : RedOp} (hop : op = .min ∨ op = .max) (c : VCmd) (et : Nat) (a : Hart) (p d n : Nat) {w : Nat}
    (hw : w = etWidth c.fmt et) :
    let v := BitVec.ofNat w (c.reduce op et a p d n).1
    c.Among a p d n w v ∧ ∀ u, c.Among a p d n w u →
      if op = .min then asInt (decide (et < 4)) v ≤ asInt (decide (et < 4)) u else asInt (decide (et < 4)) u ≤ asInt (decide (et < 4)) v := by
  subst hw
  intro v
  let w := etWidth c.fmt et
  have key (x : Nat) : asInt (decide (et < 4)) (BitVec.ofNat w x) = intOf (etSigned et) w x := (intOf_eq_asInt ..).symm
  rcases hop with rfl | rfl
  · obtain ⟨hwhich, hd, hes⟩ := foldl_least (intOf (etSigned et) w) (fun e => a.elem n w e) (c.wholes a p) (a.elem d w 0)
    refine ⟨reduce_among hwhich, fun u hu => ?_⟩
    rw [if_pos rfl]
    rcases hu with rfl | ⟨e, he, hp, rfl⟩
    · exact (key _).trans_le (hd.trans_eq (key _).symm)
    · exact (key _).trans_le ((hes e (mem_wholes.mpr ⟨he, hp⟩)).trans_eq (key _).symm)
  · obtain ⟨hwhich, hd, hes⟩ := foldl_least (fun x => -intOf (etSigned et) w x) (fun e => a.elem n w e) (c.wholes a p) (a.elem d w 0)
    simp only [neg_lt_neg_iff, neg_le_neg_iff] at hwhich hd hes
    refine ⟨reduce_among hwhich, fun u hu => ?_⟩
    rw [if_neg (by decide)]
    rcases hu with rfl | ⟨e, he, hp, rfl⟩
    · exact (key _).trans_le (hd.trans_eq (key _).symm)
    · exact (key _).trans_le ((hes e (mem_wholes.mpr ⟨he, hp⟩)).trans_eq (key _).symm)

/-! ### Codes of integer operations (R311, R312) -/

theorem mac_code {w : Nat} (sg : Bool) (d a b : Nat) :
    BitVec.ofNat w (codeOf w (d + intOf sg w a * intOf sg w b)) = BitVec.ofNat w d + BitVec.ofNat w a * BitVec.ofNat w b := by
  rw [ofNat_codeOf, BitVec.ofInt_add, BitVec.ofInt_mul, intOf_eq_asInt, intOf_eq_asInt, ofInt_asInt, ofInt_asInt, BitVec.ofInt_natCast]

theorem wmac_code {w : Nat} (sg : Bool) (d a b : Nat) : BitVec.ofNat (2 * w) (codeOf (2 * w) (d + intOf sg w a * intOf sg w b)) =
    BitVec.ofInt (2 * w) (asInt sg (BitVec.ofNat w a) * asInt sg (BitVec.ofNat w b)) + BitVec.ofNat (2 * w) d := by
  rw [ofNat_codeOf, BitVec.ofInt_add, intOf_eq_asInt, intOf_eq_asInt, BitVec.ofInt_natCast, BitVec.add_comm]

theorem wmul_code {w : Nat} (sg : Bool) (a b : Nat) : BitVec.ofNat (2 * w) (codeOf (2 * w) (intOf sg w a * intOf sg w b)) =
    BitVec.ofInt (2 * w) (asInt sg (BitVec.ofNat w a) * asInt sg (BitVec.ofNat w b)) + 0 := by
  rw [ofNat_codeOf, intOf_eq_asInt, intOf_eq_asInt]
  exact (BitVec.add_zero _).symm

theorem clz_code (c : VCmd) {et w : Nat} (hw : w = etWidth c.fmt et) (a : Hart) (n e : Nat) :
    let z := BitVec.ofNat w (c.oneElem .clz et (a.elem n w e)).1
    z.toNat ≤ w ∧ (∀ k, w - z.toNat ≤ k → k < w → (el a n w e).getLsbD k = false) ∧
      (z.toNat < w → (el a n w e).getLsbD (w - 1 - z.toNat) = true) := by
  intro z
  obtain ⟨hle, hzero, hone⟩ := leadZeros_spec (el a n w e).isLt
  have hz : z.toNat = leadZeros w (el a n w e).toNat := by
    show (BitVec.ofNat w (leadZeros (etWidth c.fmt et) (a.elem n w e))).toNat = _
    rw [← hw, el_toNat] at *
    rw [BitVec.toNat_ofNat, Nat.mod_eq_of_lt (hle.trans_lt Nat.lt_two_pow_self)]
  rw [hz]
  exact ⟨hle, fun k hk _ => hzero k hk, hone⟩

theorem popc_code (c : VCmd) {et w : Nat} (hw : w = etWidth c.fmt et) (a : Hart) (n e : Nat) :
    BitVec.ofNat w (c.oneElem .popc et (a.elem n w e)).1 = BitVec.ofNat w ((List.range w).countP fun k => (el a n w e).getLsbD k) := by
  show BitVec.ofNat w (popCount (etWidth c.fmt et) (a.elem n w e)) = _
  rw [← hw, ← el_toNat, popCount_eq]
  rfl

theorem run_mvx {c : VCmd} {et xd n i : Nat} (hop : c.op = .mvx et xd n i) {w : Nat} (hw : w = etWidth c.fmt et) (a : Hart) :
    c.run a = a.land ⟨.x, regNo xd, if et < 4 then (el a n w i).signExtend 64 else (el a n w i).setWidth 64, none, none⟩ := by
  subst hw
  simp only [VCmd.run, hop]
  congr 2
  split
  · rfl
  · exact BitVec.eq_of_toNat_eq (by rw [BitVec.toNat_ofNat, BitVec.toNat_setWidth, el_toNat])

/-! ### The steps -/

section
variable {s : State} {c : VCmd} {l : List VCmd} (hc : Clears s c l)
include hc

/-- One element of a group written. -/
theorem exec_setElem (hop : c.op.OnRegisters) {d w g k v : Nat} {fl : Flags}
    (hrun : c.run ((s.hart s.ev.h).popped l) = (((s.hart s.ev.h).popped l).setElem d w k v).orVFlags fl) (hw : ∃ q, 1024 = q * w)
    (hk : (k + 1) * w ≤ 1024 * g) (hd : d + g ≤ 32) :
    ∃ t, exec .vectorQueueExecute s = .next t ∧ OnlyVectors s t l ∧ (t.hart s.ev.h).vflags = (s.hart s.ev.h).vflags ||| fl ∧
      Elements (s.hart s.ev.h) (t.hart s.ev.h) d g w (fun e => e = k) (fun _ => BitVec.ofNat w v) := by
  obtain ⟨q, hq⟩ := hw
  obtain ⟨t, hexec, honly, hhart⟩ := exec_wroteGroup hc hop hrun ((wroteGroup_setElem _ v hq hd hk).orVFlags fl)
  refine ⟨t, hexec, honly, by rw [hhart]; rfl, ?_⟩
  rw [hhart]
  refine elements_setElems hq hd (l := [(k, v)]) (by simpa using hk) (List.nodup_singleton _) ((s.hart s.ev.h).popped l) (fun e => ?_)
    fun e u h => ?_
  · simp
  · rw [List.mem_singleton, Prod.mk.injEq] at h
    rw [h.2]

/-- An integer reduction of a list without an active element leaves its destination, which its fold gives. -/
theorem exec_reduce {op : RedOp} {et p d n : Nat} (hop : c.op = .red op et p d n) (hint : op ≠ .fsum) (hd : d < 32) {w : Nat}
    (hw : w = etWidth c.fmt et) {a : Hart} (ha : a = s.hart s.ev.h) :
    ∃ t, exec .vectorQueueExecute s = .next t ∧ OnlyVectors s t l ∧ (t.hart s.ev.h).vflags = a.vflags ∧
      Elements a (t.hart s.ev.h) d 1 w (fun e => e = 0) (fun _ => BitVec.ofNat w (c.reduce op et a p d n).1) := by
  subst hw ha
  have hreg : c.op.OnRegisters := by rw [hop]; trivial
  have hrun := run_red hop ((s.hart s.ev.h).popped l)
  have hpopped : c.reduce op et ((s.hart s.ev.h).popped l) p d n = c.reduce op et (s.hart s.ev.h) p d n := by cases op <;> rfl
  by_cases hnil : c.wholes (s.hart s.ev.h) p = []
  · rw [if_pos (show c.wholes ((s.hart s.ev.h).popped l) p = [] from hnil)] at hrun
    obtain ⟨t, hexec, honly, hhart⟩ := exec_wroteGroup hc hreg hrun (.refl _ d 1)
    refine ⟨t, hexec, honly, by rw [hhart]; rfl, ?_⟩
    rw [hhart]
    refine ⟨fun e _ he => ?_, fun e _ _ => rfl, fun r _ => rfl, fun r => ⟨rfl, rfl⟩⟩
    rw [reduce_nil hint hnil, he]
    rfl
  · rw [if_neg (show c.wholes ((s.hart s.ev.h).popped l) p ≠ [] from hnil), hpopped, reduce_flags hint] at hrun
    obtain ⟨t, hexec, honly, hflags, helems⟩ := exec_setElem hc hreg hrun (etWidth_divides c.fmt et) (etWidth_fits c.fmt et) (by omega)
    exact ⟨t, hexec, honly, hflags.trans (flags_or_zero _), helems⟩

/-- A command that computes elements of a group, whatever flags it raises. -/
theorem exec_computes (hop : c.op.OnRegisters) {d w g p : Nat} {f : Nat → Nat × Flags}
    (hrun : c.run ((s.hart s.ev.h).popped l) = ((s.hart s.ev.h).popped l).mapElems d w (c.actives (s.hart s.ev.h) p) f)
    (hw : ∃ q, 1024 = q * w) (hvl : c.vl * w ≤ 1024 * g) (hd : d + g ≤ 32) :
    ∃ t, exec .vectorQueueExecute s = .next t ∧ OnlyVectors s t l ∧
      Elements (s.hart s.ev.h) (t.hart s.ev.h) d g w (c.Active (s.hart s.ev.h) p) (fun e => BitVec.ofNat w (f e).1) := by
  obtain ⟨t, hexec, honly, helems, -⟩ := exec_mapElems hc hop hrun hw hvl hd (fun e he => (mem_actives.mp he).2.1)
    (nodup_actives c _ p) (act := c.Active (s.hart s.ev.h) p) (fun e => mem_actives.symm) (fun e _ => rfl)
  exact ⟨t, hexec, honly, helems⟩

/-- An operation of one source (R311, R319). -/
theorem exec_one {op : EOp} {et p d n : Nat} (hop : c.op = .one op et p d n) {w : Nat} (hw : w = etWidth c.fmt et)
    (hvl : c.vl * w ≤ 1024 * c.g) (hd : d + c.g ≤ 32) {a : Hart} (ha : a = s.hart s.ev.h) :
    ∃ t, exec .vectorQueueExecute s = .next t ∧ OnlyVectors s t l ∧ Elements a (t.hart s.ev.h) d c.g w (c.Active a p)
      (fun e => BitVec.ofNat w (c.oneElem op et (a.elem n w e)).1) := by
  subst hw ha
  exact exec_computes hc (by rw [hop]; trivial) (by simp only [VCmd.run, hop]; rfl) (etWidth_divides c.fmt et) hvl hd

/-- VMAC adds a product to its accumulator (R311). -/
theorem exec_mac {et p d x y : Nat} (hop : c.op = .three .mac et p d x y) {w : Nat} (hw : w = etWidth c.fmt et)
    (hvl : c.vl * w ≤ 1024 * c.g) (hd : d + c.g ≤ 32) {a : Hart} (ha : a = s.hart s.ev.h) :
    ∃ t, exec .vectorQueueExecute s = .next t ∧ OnlyVectors s t l ∧ Elements a (t.hart s.ev.h) d c.g w (c.Active a p)
      (fun e => el a d w e + el a x w e * el a y w e) := by
  subst hw ha
  have hrun : c.run ((s.hart s.ev.h).popped l) = ((s.hart s.ev.h).popped l).mapElems d (etWidth c.fmt et) (c.actives (s.hart s.ev.h) p)
      (fun e => c.threeElem .mac et ((s.hart s.ev.h).elem d (etWidth c.fmt et) e) ((s.hart s.ev.h).elem x (etWidth c.fmt et) e)
        ((s.hart s.ev.h).elem y (etWidth c.fmt et) e)) := by
    simp only [VCmd.run, hop]
    rfl
  obtain ⟨t, hexec, honly, helems, -⟩ := exec_mapElems hc (by rw [hop]; trivial) hrun (etWidth_divides c.fmt et) hvl hd
    (fun e he => (mem_actives.mp he).2.1) (nodup_actives c _ p) (fun e => mem_actives.symm) (fun e _ => mac_code ..)
  exact ⟨t, hexec, honly, helems⟩

/-- VWMAC and VWMUL write elements of twice the width (R312). -/
theorem exec_wide {op : TOp} {et p d x y : Nat} (hop : c.op = .three op et p d x y) (hwide : op = .wmac ∨ op = .wmul) {w : Nat}
    (hw : w = etWidth c.fmt et) (hvl : c.vl * w ≤ 1024 * c.g) (hd : d + 2 * c.g ≤ 32) {a : Hart} (ha : a = s.hart s.ev.h) :
    ∃ t, exec .vectorQueueExecute s = .next t ∧ OnlyVectors s t l ∧ Elements a (t.hart s.ev.h) d (2 * c.g) (2 * w) (c.Active a p)
      (fun e => BitVec.ofInt (2 * w) (asInt (decide (et < 4)) (el a x w e) * asInt (decide (et < 4)) (el a y w e)) +
        if op = .wmac then el a d (2 * w) e else 0) := by
  subst hw ha
  let a := s.hart s.ev.h
  let w := etWidth c.fmt et
  have hrun : c.run (a.popped l) = (a.popped l).mapElems d (2 * w) (c.actives a p)
      (fun e => c.threeElem op et (a.elem d (2 * w) e) (a.elem x w e) (a.elem y w e)) := by
    simp only [VCmd.run, hop]
    rcases hwide with rfl | rfl <;> rfl
  have hcode (e : Nat) : BitVec.ofNat (2 * w) (c.threeElem op et (a.elem d (2 * w) e) (a.elem x w e) (a.elem y w e)).1 =
      BitVec.ofInt (2 * w) (asInt (decide (et < 4)) (el a x w e) * asInt (decide (et < 4)) (el a y w e)) +
        if op = .wmac then el a d (2 * w) e else 0 := by
    rcases hwide with rfl | rfl
    · exact wmac_code ..
    · exact wmul_code ..
  have hvl' : c.vl * (2 * w) ≤ 1024 * (2 * c.g) := by
    rw [Nat.mul_left_comm, Nat.mul_left_comm 1024]
    exact Nat.mul_le_mul_left 2 hvl
  obtain ⟨t, hexec, honly, helems, -⟩ := exec_mapElems hc (by rw [hop]; trivial) hrun (etWidth_dvd c.fmt et) hvl' hd
    (fun e he => (mem_actives.mp he).2.1) (nodup_actives c a p) (fun e => mem_actives.symm) (fun e _ => hcode e)
  exact ⟨t, hexec, honly, helems⟩

/-- A predicate operation (R315). -/
theorem exec_pred {op : PrOp} {pd pa pb : Nat} (hop : c.op = .pred op pd pa pb) {a : Hart} (ha : a = s.hart s.ev.h) :
    ∃ v, exec .vectorQueueExecute s = .next (s.setHart s.ev.h ((a.popped l).setP pd v)) ∧
      ∀ e, e < 2048 → (v.getLsbD e = true ↔ e < c.vl ∧ PredBit a op pa pb e) := by
  subst ha
  refine ⟨_, (exec_onRegisters hc (by rw [hop]; trivial)).trans (by simp only [VCmd.run, hop]; rfl), fun e he => ?_⟩
  exact predBits_iff c op ((s.hart s.ev.h).popped l) pa pb he

/-- An integer compare (R314). -/
theorem exec_cmpInt {cc et p d n : Nat} (hop : c.op = .cmp cc et p d (.reg n)) (het : et < 8) {w : Nat} (hw : w = etWidth c.fmt et)
    {a : Hart} (ha : a = s.hart s.ev.h) :
    ∃ v, exec .vectorQueueExecute s = .next (s.setHart s.ev.h ((a.popped l).setP p v)) ∧ ∀ e, e < 2048 →
      (v.getLsbD e = true ↔ e < c.vl ∧ ((e < c.eix ∧ a.pbit p e = true) ∨ (c.eix ≤ e ∧
        cmpInt cc (asInt (decide (et < 4)) (el a d w e)) (asInt (decide (et < 4)) (el a n w e)) = true))) := by
  subst hw ha
  let a := s.hart s.ev.h
  let holds (e : Nat) : Bool :=
    cmpInt cc (asInt (decide (et < 4)) (el a d (etWidth c.fmt et) e)) (asInt (decide (et < 4)) (el a n (etWidth c.fmt et) e))
  refine ⟨bitsUpTo c.vl (fun e => if e < c.eix then a.pbit p e else holds e), ?_, fun e he => ?_⟩
  · rw [exec_onRegisters hc (by rw [hop]; trivial)]
    simp only [VCmd.run, hop, etInt, decide_eq_true het, if_true, foldl_flags_zero, orVFlags_zero, VSrc.int, VSrc.code, intOf_eq_asInt]
    rfl
  · rw [bitsUpTo_iff _ _ he]
    refine and_congr_right fun _ => ?_
    by_cases hlt : e < c.eix
    · simp [hlt, Nat.not_le.mpr hlt, a]
    · simp [hlt, Nat.not_lt.mp hlt, holds, a]

/-- A VFIFO push (R237). -/
theorem exec_push {toCopy : Bool} (hop : c.op = .push toCopy) {n : Nat} (hn : n = if toCopy then Fifo.vc.no else Fifo.vm.no)
    (hroom : Tab.get (s.quad (quadOf s.ev.h)).fifo n 0 < 16) (hheld : (s.quad (quadOf s.ev.h)).held = []) :
    ∃ t, exec .vectorQueueExecute s = .next t ∧ t.hart s.ev.h = (s.hart s.ev.h).popped l ∧
      t.quad (quadOf s.ev.h) = { s.quad (quadOf s.ev.h) with
        fifo := Tab.set (s.quad (quadOf s.ev.h)).fifo n (Tab.get (s.quad (quadOf s.ev.h)).fifo n 0 + 1) } := by
  let q := quadOf s.ev.h
  let f : Fifo := if toCopy then .vc else .vm
  have hno : f.no = n := by rw [hn]; cases toCopy <;> rfl
  have hfifo : c.op.fifoOp s.ev.h = some (.vpush f s.ev.h) := by rw [hop]; rfl
  have htry : (s.quad q).fifoTry (.vpush f s.ev.h) (s.clockOf q) =
      (true, { s.quad q with fifo := Tab.set (s.quad q).fifo n (Tab.get (s.quad q).fifo n 0 + 1) }) := by
    simp only [Quad.fifoTry, HeldOp.fifo, HeldOp.isPush, show (s.quad q).held = [] from hheld, List.find?_nil, if_true, hno,
      decide_eq_true (show Tab.get (s.quad q).fifo n 0 < 16 from hroom), Bool.and_self, List.filter_nil]
  have hrunVq : s.runVq s.ev.h c = (s.updQuad q (fun _ => ((s.quad q).fifoTry (.vpush f s.ev.h) (s.clockOf q)).2)).popVq s.ev.h := by
    unfold State.runVq
    rw [hfifo]
    dsimp only
    rw [show quadOf s.ev.h = q from rfl, htry]
    rfl
  refine ⟨_, exec_runVq hc, ?_, ?_⟩
  · rw [hrunVq, State.popVq, State.hart_updHart]
    show { s.hart s.ev.h with vq := (s.hart s.ev.h).vq.tail } = _
    rw [hc.1]
    rfl
  · rw [hrunVq, htry]
    exact Tab.get_set_same ..

end

end Sys2Proof.Machine
end

section
/-!
SUPPORT. Floating codes (R193, R194, R204): the four IEEE formats, a code as a sign and a magnitude, a code read and rounded back, and the
flush of bf16.
-/
namespace Sys2Proof.Machine
open Sys2Proof.Claims

/-! ### The IEEE formats (R193) -/

/-- A format of the IEEE layout: a sign, an exponent and a significand that fill its width. -/
structure Fmt.Ieee (f : Fmt) : Prop where
  signed : f.s = true
  pol : f.pol = 0
  width : f.w = f.e + f.m + 1
  trailing : 1 ≤ f.m ∧ f.m ≤ 52
  exponent : 2 ≤ f.e

theorem fmtF16_ieee : fmtF16.Ieee := ⟨rfl, rfl, rfl, by decide, by decide⟩
theorem fmtBf16_ieee : fmtBf16.Ieee := ⟨rfl, rfl, rfl, by decide, by decide⟩
theorem fmtF32_ieee : fmtF32.Ieee := ⟨rfl, rfl, rfl, by decide, by decide⟩
theorem fmtF64_ieee : fmtF64.Ieee := ⟨rfl, rfl, rfl, by decide, by decide⟩

theorem etFmt_ieee (fmt : List Word) {et : Nat} (h : 8 ≤ et) (h' : et < 12) : (etFmt fmt et).Ieee ∧ etWidth fmt et = (etFmt fmt et).w := by
  interval_cases et
  exacts [⟨fmtF16_ieee, rfl⟩, ⟨fmtBf16_ieee, rfl⟩, ⟨fmtF32_ieee, rfl⟩, ⟨fmtF64_ieee, rfl⟩]

section
variable {f : Fmt} (hf : f.Ieee)
include hf

theorem Fmt.Ieee.infCode_eq : f.infCode = f.maxCode + 1 := by
  have hM : 0 < 2 ^ f.m := Nat.two_pow_pos _
  have hE : 2 ^ 2 ≤ 2 ^ f.e := Nat.pow_le_pow_right (by decide) hf.exponent
  obtain ⟨E, hE'⟩ : ∃ E, f.emax = E + 1 := ⟨f.emax - 1, by unfold Fmt.emax; omega⟩
  rw [Fmt.maxCode, if_pos hf.pol, Fmt.infCode, Fmt.mmax, hE', Nat.add_one_mul, Nat.add_sub_cancel]
  omega

/-- The magnitudes below the one of infinity are finite; all lie below the sign. -/
theorem Fmt.Ieee.half_eq : 2 ^ (f.w - 1) = (f.emax + 1) * 2 ^ f.m := by
  have hE : 1 ≤ 2 ^ f.e := Nat.one_le_two_pow
  rw [hf.width, Nat.add_sub_cancel, Nat.pow_add, Fmt.emax, Nat.sub_add_cancel hE]

theorem Fmt.Ieee.infCode_lt : f.infCode < 2 ^ (f.w - 1) := by
  rw [hf.half_eq, Fmt.infCode]
  exact Nat.mul_lt_mul_of_pos_right (Nat.lt_succ_self _) (Nat.two_pow_pos _)

end

/-! ### A code as a sign and a magnitude -/

/-- The value of a magnitude code with a sign, as decoding has it. -/
def Fmt.value (f : Fmt) (neg : Bool) (mag : Nat) : FVal :=
  if f.pol = 0 ∧ mag / 2 ^ f.m = f.emax then
    (if mag % 2 ^ f.m = 0 then .inf neg else .nan (decide (mag % 2 ^ f.m < 2 ^ (f.m - 1))))
  else if f.pol = 1 ∧ mag / 2 ^ f.m = f.emax ∧ mag % 2 ^ f.m = f.mmax then .nan false
  else .fin neg (f.magnitude mag)

theorem decodeF_eq_value (f : Fmt) (c : Nat) : decodeF f c = f.value (f.negOf c) (f.magOf c) := rfl

/-- The value of an IEEE magnitude: finite below the code of infinity, infinite there, a NaN above. -/
theorem Fmt.Ieee.value_eq {f : Fmt} (hf : f.Ieee) (neg : Bool) {mag : Nat} (hmag : mag < 2 ^ (f.w - 1)) :
    f.value neg mag = if mag < f.infCode then .fin neg (f.magnitude mag)
      else if mag = f.infCode then .inf neg else .nan (decide (mag % 2 ^ f.m < 2 ^ (f.m - 1))) := by
  have hM : 0 < 2 ^ f.m := Nat.two_pow_pos _
  rw [hf.half_eq] at hmag
  have hpol : ¬ f.pol = 1 := by rw [hf.pol]; decide
  have hdiv := Nat.div_add_mod mag (2 ^ f.m)
  have hle : mag / 2 ^ f.m < f.emax + 1 := (Nat.div_lt_iff_lt_mul hM).mpr hmag
  have hiff : mag / 2 ^ f.m = f.emax ↔ ¬ mag < f.infCode := by
    rw [Fmt.infCode, ← Nat.div_lt_iff_lt_mul hM]
    omega
  by_cases h : mag < f.infCode
  · rw [if_pos h, Fmt.value, if_neg (fun h' => hiff.mp h'.2 h), if_neg (fun h' => hpol h'.1)]
  · have he := hiff.mpr h
    have hz : mag % 2 ^ f.m = 0 ↔ mag = f.infCode := by
      rw [he, Nat.mul_comm] at hdiv
      rw [Fmt.infCode]
      omega
    rw [if_neg h, Fmt.value, if_pos ⟨hf.pol, he⟩]
    simp only [hz]

section
variable {f : Fmt} (hf : f.Ieee) {code : Nat}
include hf

theorem Fmt.Ieee.magOf_eq (hcode : code < 2 ^ f.w) : f.magOf code = code % 2 ^ (f.w - 1) := by
  rw [Fmt.magOf, if_pos hf.signed, Nat.mod_eq_of_lt hcode]

theorem Fmt.Ieee.magOf_lt (hcode : code < 2 ^ f.w) : f.magOf code < 2 ^ (f.w - 1) := by
  rw [hf.magOf_eq hcode]
  exact Nat.mod_lt _ (Nat.two_pow_pos _)

/-- A code is its magnitude with its sign. -/
theorem Fmt.Ieee.signed_magOf (hcode : code < 2 ^ f.w) : f.signed (f.negOf code) (f.magOf code) = code := by
  have hw : 2 ^ f.w = 2 * 2 ^ (f.w - 1) := by rw [hf.width, Nat.add_sub_cancel, Nat.pow_succ, Nat.mul_comm]
  have hdiv := Nat.div_add_mod code (2 ^ (f.w - 1))
  have hlt : code / 2 ^ (f.w - 1) < 2 := (Nat.div_lt_iff_lt_mul (Nat.two_pow_pos _)).mpr (hw ▸ hcode)
  rw [hf.magOf_eq hcode, Fmt.signed, Fmt.negOf, hf.signed, Nat.mod_eq_of_lt hcode, Bool.true_and, Bool.and_true]
  generalize code / 2 ^ (f.w - 1) = q at hdiv hlt ⊢
  split
  · next h =>
    have h1 : q % 2 = 1 := of_decide_eq_true h
    obtain rfl : q = 1 := by omega
    rw [Nat.mul_one] at hdiv
    omega
  · next h =>
    have h1 : ¬ q % 2 = 1 := fun h' => h (decide_eq_true h')
    obtain rfl : q = 0 := by omega
    rw [Nat.mul_zero] at hdiv
    omega

end

/-! ### The flush of bf16 (R194) -/

/-- A subnormal bf16 code as a zero of its sign, under BFZ. -/
def Fmt.flush (f : Fmt) (bfz : Bool) (v : Nat) : Nat :=
  if bfz = true ∧ f = fmtBf16 ∧ 0 < v % 2 ^ 15 ∧ v % 2 ^ 15 < 2 ^ 7 then v / 2 ^ 15 * 2 ^ 15 else v

theorem signed_bf16_mod {neg : Bool} {v : Nat} (hv : v < 2 ^ 15) : fmtBf16.signed neg v % 2 ^ 15 = v := by
  cases neg
  · exact Nat.mod_eq_of_lt hv
  · show (v + 2 ^ 15) % 2 ^ 15 = v
    omega

/-- The flush of a signed bf16 magnitude. -/
theorem flush_bf16_signed (bfz neg : Bool) {v : Nat} (hv : v < 2 ^ 15) :
    fmtBf16.flush bfz (fmtBf16.signed neg v) = fmtBf16.signed neg (if bfz = true ∧ v < 2 ^ 7 then 0 else v) := by
  have hdiv : fmtBf16.signed neg v / 2 ^ 15 * 2 ^ 15 = fmtBf16.signed neg 0 := by
    cases neg
    · show v / 2 ^ 15 * 2 ^ 15 = 0
      omega
    · show (v + 2 ^ 15) / 2 ^ 15 * 2 ^ 15 = 0 + 2 ^ 15
      omega
  rw [Fmt.flush, signed_bf16_mod hv, hdiv]
  by_cases hz : v = 0
  · subst hz
    rw [if_neg (fun h => absurd h.2.2.1 (Nat.lt_irrefl 0)), ite_self]
  · by_cases h : bfz = true ∧ v < 2 ^ 7
    · rw [if_pos h, if_pos ⟨h.1, rfl, by omega, h.2⟩]
    · rw [if_neg h, if_neg fun h' => h ⟨h'.1, h'.2.2.2⟩]

/-- Rounding under BFZ is rounding, then the flush. -/
theorem roundVal_flush (f : Fmt) (mode : RMode) (bfz : Bool) (v : FVal) : (roundVal f mode bfz v).1 = f.flush bfz (roundVal f mode false v).1 := by
  by_cases hb : bfz = true ∧ f = fmtBf16
  case neg =>
    have hflag : (bfz && decide (f = fmtBf16)) = false := by
      rw [Bool.and_eq_false_iff, decide_eq_false_iff_not]
      cases bfz
      · exact .inl rfl
      · exact .inr fun h => hb ⟨rfl, h⟩
    have hsame (n : Bool) (x : Exact) : roundFin f mode bfz n x = roundFin f mode false n x := by
      simp only [roundFin, hflag, Bool.false_and, Bool.false_eq_true, if_false]
    have hflush (c : Nat) : f.flush bfz c = c := if_neg fun h => hb ⟨h.1, h.2.1⟩
    rw [hflush]
    cases v with
    | nan | inf => rfl
    | fin n x => simp only [roundVal, hsame]
  case pos =>
    obtain ⟨rfl, rfl⟩ := hb
    cases v with
    | nan s => exact (by decide : fmtBf16.flush true fmtBf16.nanCode = fmtBf16.nanCode).symm
    | inf n =>
      have hinf (b : Bool) : (roundVal fmtBf16 mode b (.inf n)).1 = fmtBf16.signed n fmtBf16.infCode := by cases n <;> rfl
      rw [hinf, hinf, flush_bf16_signed true n (by decide), if_neg (by decide)]
    | fin n x =>
      by_cases h0 : x.num = 0
      · simp only [roundVal, if_pos h0]
        cases n <;> rfl
      have hval (b : Bool) : roundVal fmtBf16 mode b (.fin n x) = roundFin fmtBf16 mode b n x := by
        simp only [roundVal, if_neg h0, show fmtBf16.s = true from rfl, Bool.not_true, Bool.and_false, Bool.false_eq_true, if_false]
      rw [hval, hval]
      generalize hr : roundMag fmtBf16.m fmtBf16.emin mode n x = r
      by_cases hmax : r.1 > fmtBf16.maxCode
      · have hover (b : Bool) : (roundFin fmtBf16 mode b n x).1 =
            fmtBf16.signed n (if overflowsToInf mode n then fmtBf16.infCode else fmtBf16.maxCode) := by
          simp only [roundFin, hr, if_pos hmax, overflowCode, show fmtBf16.pol = 0 from rfl, true_and]
        rw [hover, hover]
        cases overflowsToInf mode n <;> cases n <;> decide
      · have hmax' : r.1 < 2 ^ 15 := Nat.lt_of_le_of_lt (not_lt.mp hmax) (by decide)
        have hplain : (roundFin fmtBf16 mode false n x).1 = fmtBf16.signed n r.1 := by
          simp only [roundFin, hr, if_neg hmax, Bool.false_and, Bool.false_eq_true, if_false]
        rw [hplain, flush_bf16_signed true n hmax']
        have hcond : (true && decide (fmtBf16 = fmtBf16) && decide (r.1 < 2 ^ fmtBf16.m) && decide (r.1 > 0)) =
            decide (r.1 < 2 ^ 7 ∧ 0 < r.1) := by
          rw [decide_eq_true rfl, Bool.true_and, Bool.true_and, Bool.decide_and]
          rfl
        unfold roundFin
        rw [hr]
        dsimp only
        rw [if_neg hmax, hcond]
        simp only [true_and]
        by_cases hsub : r.1 < 2 ^ 7 ∧ 0 < r.1
        · rw [if_pos hsub.1, if_pos (decide_eq_true hsub)]
        · rw [if_neg (fun h => hsub (of_decide_eq_true h))]
          have hzero : (if r.1 < 2 ^ 7 then 0 else r.1) = r.1 := by
            split <;> omega
          rw [hzero]

/-! ### A number of the format is rounded to itself -/

/-- A mode that leaves the numbers of a format as they are: every one but a stochastic one. -/
def RMode.Standard : RMode → Prop
  | .sr _ => False
  | _ => True

theorem VCmd.mode_standard (c : VCmd) : c.mode.Standard := by
  unfold VCmd.mode modeOf
  split <;> trivial

theorem not_roundsUpAt_exact {f : Fmt} {mode : RMode} (hmode : mode.Standard) {neg : Bool} {k : Nat} {up : Bool}
    (h : RoundsUpAt f mode neg k (ratOf (f.magnitude k)) up) : up = false := by
  have hlt := ratOf_magnitude_lt_succ f k
  rw [← Bool.not_eq_true]
  cases mode with
  | rne =>
    intro hup
    rcases h.mp hup with h' | ⟨h', -⟩ <;> linarith
  | rtz =>
    intro hup
    have hdown : up = false := h
    rw [hup] at hdown
    cases hdown
  | rdn => exact fun hup => absurd (h.mp hup).2 (lt_irrefl _)
  | rup => exact fun hup => absurd (h.mp hup).2 (lt_irrefl _)
  | rmm =>
    intro hup
    have h' := h.mp hup
    linarith
  | sr r => exact hmode.elim

theorem ratOf_magnitude_zero (f : Fmt) : ratOf (f.magnitude 0) = 0 := by
  have h := ratOf_magnitude f (j := 0) (n := 0) (.inl rfl) (Nat.zero_le _)
  simpa using h

/-- A number of a format is rounded to its own code. -/
theorem roundVal_exact {f : Fmt} (hs : f.s = true) {mode : RMode} (hmode : mode.Standard) (n : Bool) {x : Exact} (hx : x.Magnitude) {k : Nat}
    (hk : k ≤ f.maxCode) (hval : ratOf x = ratOf (f.magnitude k)) : (roundVal f mode false (.fin n x)).1 = f.signed n k := by
  by_cases h0 : x.num = 0
  · have hk0 : k = 0 := by
      by_contra hne
      have hlt := ratOf_magnitude_strictMono f (Nat.pos_of_ne_zero hne)
      rw [(ratOf_eq_zero_iff hx.1).mpr h0] at hval
      exact (hval.trans_gt hlt).ne (ratOf_magnitude_zero f)
    simp only [roundVal, if_pos h0, hk0]
  · obtain ⟨up, hcode, hup⟩ := roundMag_between (f := f) (mode := mode) (neg := n) hx.1 h0 (k := k)
      (by rw [abs_of_nonneg (ratOf_nonneg hx.2), hval]) (by rw [abs_of_nonneg (ratOf_nonneg hx.2), hval]; exact ratOf_magnitude_lt_succ f k)
    rw [abs_of_nonneg (ratOf_nonneg hx.2), hval] at hup
    rw [not_roundsUpAt_exact hmode hup, if_neg Bool.false_ne_true] at hcode
    simp only [roundVal, if_neg h0, hs, Bool.not_true, Bool.and_false, Bool.false_eq_true, if_false, roundFin, hcode, if_neg (not_lt.mpr hk),
      Bool.false_and]

/-! ### A code read and rounded back -/

/-- The value of a sign and a magnitude under BFZ. -/
def Fmt.valueBfz (f : Fmt) (bfz neg : Bool) (mag : Nat) : FVal :=
  match f.value neg mag with
  | .fin n x => if bfz && decide (f = fmtBf16) && decide (mag < 2 ^ 7) then .fin n ⟨0, 1, 0⟩ else .fin n x
  | v => v

theorem decodeBfz_eq (bfz : Bool) (f : Fmt) (code : Nat) : decodeBfz bfz f code = f.valueBfz bfz (f.negOf code) (f.magOf code) := by
  unfold decodeBfz Fmt.valueBfz
  rw [decodeF_eq_value]
  cases f.value (f.negOf code) (f.magOf code) with
  | nan | inf => rfl
  | fin n x =>
    dsimp only
    by_cases hb : f = fmtBf16
    · have hmag : f.magOf code = code % 2 ^ 15 := by
        rw [hb]
        show code % 2 ^ 16 % 2 ^ 15 = code % 2 ^ 15
        omega
      rw [hmag]
    · rw [decide_eq_false hb, Bool.and_false]
      rfl

/-- A value that is no NaN, rounded back into its format, has its own code, flushed. -/
theorem Fmt.Ieee.roundVal_valueBfz {f : Fmt} (hf : f.Ieee) {mode : RMode} (hmode : mode.Standard) (bfz neg : Bool) {mag : Nat}
    (hmag : mag < 2 ^ (f.w - 1)) (hnan : (f.valueBfz bfz neg mag).isNan = false) :
    (roundVal f mode bfz (f.valueBfz bfz neg mag)).1 = f.flush bfz (f.signed neg mag) := by
  have hplain (hlt : mag < f.infCode) : (roundVal f mode bfz (.fin neg (f.magnitude mag))).1 = f.flush bfz (f.signed neg mag) := by
    rw [roundVal_flush, roundVal_exact hf.signed hmode neg (f.magnitude_magnitude mag) (by rw [hf.infCode_eq] at hlt; omega) rfl]
  unfold Fmt.valueBfz at hnan ⊢
  rw [hf.value_eq neg hmag] at hnan ⊢
  by_cases hlt : mag < f.infCode
  · rw [if_pos hlt]
    dsimp only
    split
    · next hz =>
      rw [Bool.and_eq_true, Bool.and_eq_true, decide_eq_true_iff, decide_eq_true_iff] at hz
      obtain ⟨⟨rfl, rfl⟩, hsub⟩ := hz
      rw [flush_bf16_signed true neg hmag, if_pos ⟨rfl, hsub⟩]
      rfl
    · exact hplain hlt
  · rw [if_neg hlt] at hnan ⊢
    by_cases hinf : mag = f.infCode
    · rw [if_pos hinf, roundVal_flush, hinf]
      simp only [roundVal, hf.signed, hf.pol, Bool.not_true, Bool.and_false, Bool.false_eq_true, if_false, if_true]
    · rw [if_neg hinf] at hnan
      cases hnan

theorem Fmt.value_cases (f : Fmt) (mag : Nat) :
    (∃ s, ∀ n, f.value n mag = .nan s) ∨ (∀ n, f.value n mag = .inf n) ∨ ∀ n, f.value n mag = .fin n (f.magnitude mag) := by
  unfold Fmt.value
  split
  · split
    · exact .inr (.inl fun n => rfl)
    · exact .inl ⟨_, fun n => rfl⟩
  · split
    · exact .inl ⟨false, fun n => rfl⟩
    · exact .inr (.inr fun n => rfl)

/-- A magnitude's value is a NaN, infinite or finite whatever its sign, which the value has. -/
theorem Fmt.valueBfz_cases (f : Fmt) (bfz : Bool) (mag : Nat) :
    (∃ s, ∀ n, f.valueBfz bfz n mag = .nan s) ∨ (∀ n, f.valueBfz bfz n mag = .inf n) ∨
      ∃ x : Exact, x.Magnitude ∧ ∀ n, f.valueBfz bfz n mag = .fin n x := by
  unfold Fmt.valueBfz
  rcases f.value_cases mag with ⟨s, h⟩ | h | h
  · exact .inl ⟨s, fun n => by rw [h]⟩
  · exact .inr (.inl fun n => by rw [h])
  · refine .inr (.inr ⟨if bfz && decide (f = fmtBf16) && decide (mag < 2 ^ 7) then ⟨0, 1, 0⟩ else f.magnitude mag, ?_, fun n => ?_⟩)
    · split
      · exact ⟨Nat.one_pos, le_refl 0⟩
      · exact f.magnitude_magnitude mag
    · rw [h]
      dsimp only
      split <;> rfl

theorem Fmt.valueBfz_negate (f : Fmt) (bfz neg : Bool) (mag : Nat) : (f.valueBfz bfz neg mag).negate = f.valueBfz bfz (!neg) mag := by
  rcases f.valueBfz_cases bfz mag with ⟨s, h⟩ | h | ⟨x, -, h⟩ <;> rw [h, h] <;> rfl

theorem Fmt.valueBfz_isNeg (f : Fmt) (bfz neg : Bool) {mag : Nat} (hnan : (f.valueBfz bfz neg mag).isNan = false) :
    (f.valueBfz bfz neg mag).isNeg = neg := by
  rcases f.valueBfz_cases bfz mag with ⟨s, h⟩ | h | ⟨x, -, h⟩
  · rw [h] at hnan
    cases hnan
  · rw [h]
    rfl
  · rw [h]
    rfl

theorem decodeBfz_magnitude {bfz : Bool} {f : Fmt} {code : Nat} {n : Bool} {x : Exact} (h : decodeBfz bfz f code = .fin n x) :
    x.Magnitude := by
  rw [decodeBfz_eq] at h
  rcases f.valueBfz_cases bfz (f.magOf code) with ⟨s, h'⟩ | h' | ⟨y, hy, h'⟩
  · rw [h'] at h
    cases h
  · rw [h'] at h
    cases h
  · rw [h'] at h
    cases h
    exact hy

end Sys2Proof.Machine
end

section
/-!
SUPPORT. Floating commands of a vector queue (R193, R314, R319, R322): values in their order, and what the model computes of the codes of
two sources, of one, and of a scale.
-/
namespace Sys2Proof.Machine
open Sys2Proof.Claims

/-! ### Values in their order (R314) -/

/-- A value whose finite numbers are magnitudes, as those that decoding gives. -/
def FVal.Decoded (x : FVal) : Prop := ∀ n u, x = .fin n u → u.Magnitude

theorem decodeBfz_decoded (bfz : Bool) (f : Fmt) (code : Nat) : (decodeBfz bfz f code).Decoded := fun _ _ h => decodeBfz_magnitude h

section
variable {x y : FVal} (hx : x.Decoded) (hy : y.Decoded) (hnx : x.isNan = false) (hny : y.isNan = false)
include hx hy hnx hny

theorem ltV_iff : ltV x y = true ↔ numOf x < numOf y := by
  cases x with
  | nan s => cases hnx
  | inf m =>
    cases y with
    | nan s => cases hny
    | inf n => cases m <;> cases n <;> simp [ltV, numOf]
    | fin n v => cases m <;> simp [ltV, numOf]
  | fin m u =>
    cases y with
    | nan s => cases hny
    | inf n =>
      cases n
      · simpa [ltV, numOf] using WithBot.coe_lt_coe.mpr (WithTop.coe_lt_top (realOf m u))
      · simp [ltV, numOf]
    | fin n v =>
      rw [ltV_value m n (hx m u rfl) (hy n v rfl)]
      simp [numOf]

theorem eqV_iff : eqV x y = true ↔ numOf x = numOf y := by
  cases x with
  | nan s => cases hnx
  | inf m =>
    cases y with
    | nan s => cases hny
    | inf n => cases m <;> cases n <;> simp [eqV, numOf]
    | fin n v => cases m <;> simp [eqV, numOf]
  | fin m u =>
    cases y with
    | nan s => cases hny
    | inf n => cases n <;> simp [eqV, numOf]
    | fin n v =>
      rw [eqV_value m n (hx m u rfl) (hy n v rfl)]
      simp [numOf]

theorem leV_iff : (ltV x y || eqV x y) = true ↔ numOf x ≤ numOf y := by
  rw [Bool.or_eq_true, ltV_iff hx hy hnx hny, eqV_iff hx hy hnx hny, le_iff_lt_or_eq]

end

/-- The relation that a floating compare's code names (R314). -/
def FloatCompares (cc : Nat) (x y : FVal) : Prop :=
  let nan : Prop := x.isNan = true ∨ y.isNan = true
  match cc with
  | 0 => ¬ nan ∧ numOf x = numOf y
  | 1 => nan ∨ numOf x ≠ numOf y
  | 2 => ¬ nan ∧ numOf x < numOf y
  | 3 => ¬ nan ∧ numOf x ≤ numOf y
  | 4 => nan ∨ ¬ numOf x < numOf y
  | _ => nan ∨ ¬ numOf x ≤ numOf y

theorem cmpFlt_iff {cc : Nat} (hcc : cc < 6) {x y : FVal} (hx : x.Decoded) (hy : y.Decoded) :
    (cmpFlt cc x y).1 = true ↔ FloatCompares cc x y := by
  by_cases hnan : x.isNan = true ∨ y.isNan = true
  · have h : (x.isNan || y.isNan) = true := (Bool.or_eq_true ..).mpr hnan
    interval_cases cc <;> simp [cmpFlt, FloatCompares, h, hnan]
  · obtain ⟨hnx, hny⟩ := not_or.mp hnan
    rw [Bool.not_eq_true] at hnx hny
    have hlt := ltV_iff hx hy hnx hny
    have heq := eqV_iff hx hy hnx hny
    have hle := leV_iff hx hy hnx hny
    interval_cases cc
    · simp [cmpFlt, FloatCompares, hnx, hny, heq]
    · simp [cmpFlt, FloatCompares, hnx, hny, ← heq]
    · simp [cmpFlt, FloatCompares, hnx, hny, hlt]
    · simpa [cmpFlt, FloatCompares, hnx, hny] using hle
    · simp [cmpFlt, FloatCompares, hnx, hny, ← hlt]
    · have hnot := not_congr hle
      simpa [cmpFlt, FloatCompares, hnx, hny] using hnot

/-! ### Rounding (R193, R204) -/

/-- `code` is a number rounded, then flushed (R194, R204). -/
def Fmt.Rounds (f : Fmt) (bfz : Bool) (m : RMode) (z : Bool) (v : ℚ) (code : Nat) : Prop := ∃ r, RoundsTo f m z v r ∧ code = f.flush bfz r

theorem roundVal_rounds (f : Fmt) (mode : RMode) (bfz n : Bool) {x : Exact} (hx : x.Magnitude) :
    f.Rounds bfz mode n (realOf n x) (roundVal f mode bfz (.fin n x)).1 :=
  ⟨_, roundVal_roundsTo f mode n hx.1 hx.2, roundVal_flush f mode bfz _⟩

theorem finish_rounds (f : Fmt) (mode : RMode) (bfz : Bool) {r : FVal × Flags} {n : Bool} {x : Exact} (hr : r.1 = .fin n x)
    (hx : x.Magnitude) : f.Rounds bfz mode n (realOf n x) (finish f mode bfz r).1 := by
  show f.Rounds bfz mode n (realOf n x) (roundVal f mode bfz r.1).1
  rw [hr]
  exact roundVal_rounds f mode bfz n hx

theorem FVal.eq_nan_of_isNan {x : FVal} (h : x.isNan = true) : ∃ s, x = .nan s := by
  cases x with
  | nan s => exact ⟨s, rfl⟩
  | inf n => cases h
  | fin n u => cases h

theorem finish_nan (f : Fmt) (mode : RMode) (bfz : Bool) {r : FVal × Flags} (hr : r.1.isNan = true) : (finish f mode bfz r).1 = f.nanCode := by
  obtain ⟨s, hs⟩ := FVal.eq_nan_of_isNan hr
  show (roundVal f mode bfz r.1).1 = _
  rw [hs]
  rfl

section
variable {x y : FVal} (h : x.isNan = true ∨ y.isNan = true)
include h

theorem addV_nan (mode : RMode) : (addV mode x y).1.isNan = true := by
  rcases h with h | h <;> obtain ⟨s, rfl⟩ := FVal.eq_nan_of_isNan h
  · rfl
  · cases x <;> rfl

theorem mulV_nan : (mulV x y).1.isNan = true := by
  rcases h with h | h <;> obtain ⟨s, rfl⟩ := FVal.eq_nan_of_isNan h
  · rfl
  · cases x <;> rfl

theorem divV_nan : (divV x y).1.isNan = true := by
  rcases h with h | h <;> obtain ⟨s, rfl⟩ := FVal.eq_nan_of_isNan h
  · rfl
  · cases x <;> rfl

end

theorem negate_isNan (x : FVal) : x.negate.isNan = x.isNan := by cases x <;> rfl

/-! ### Operations of two sources (R319) -/

section
variable (c : VCmd) (et : Nat) {a b : Nat}

theorem val_decoded (code : Nat) : (c.val et code).Decoded := decodeBfz_decoded _ _ _

section
variable {n k : Bool} {u q : Exact} (hx : c.val et a = .fin n u) (hy : c.val et b = .fin k q)
include hx hy

theorem fltElem_add : (etFmt c.fmt et).Rounds c.bfz c.mode (if n = k then n else decide (c.mode = .rdn)) (realOf n u + realOf k q)
    (c.fltElem .add et a b).1 := by
  obtain ⟨i, z, hz, hmag, hval, hsign⟩ := addV_value c.mode n k (val_decoded c et a n u hx) (val_decoded c et b k q hy)
  rw [← hx, ← hy] at hz
  obtain ⟨r, hr, hcode⟩ := finish_rounds (etFmt c.fmt et) c.mode c.bfz hz hmag
  rw [hval] at hr
  exact ⟨r, roundsTo_sign hr hsign, hcode⟩

theorem fltElem_sub : (etFmt c.fmt et).Rounds c.bfz c.mode (if n = !k then n else decide (c.mode = .rdn)) (realOf n u - realOf k q)
    (c.fltElem .sub et a b).1 := by
  obtain ⟨i, z, hz, hmag, hval, hsign⟩ := addV_value c.mode n (!k) (val_decoded c et a n u hx) (val_decoded c et b k q hy)
  rw [show FVal.fin (!k) q = (c.val et b).negate by rw [hy]; rfl, ← hx] at hz
  rw [realOf_not, ← sub_eq_add_neg] at hval hsign
  obtain ⟨r, hr, hcode⟩ := finish_rounds (etFmt c.fmt et) c.mode c.bfz hz hmag
  rw [hval] at hr
  exact ⟨r, roundsTo_sign hr hsign, hcode⟩

theorem fltElem_mul : (etFmt c.fmt et).Rounds c.bfz c.mode (n != k) (realOf n u * realOf k q) (c.fltElem .mul et a b).1 := by
  have hz : (mulV (c.val et a) (c.val et b)).1 = .fin (n != k) (u.mul q) := by rw [hx, hy]; rfl
  rw [← realOf_mul]
  exact finish_rounds _ _ _ hz ((val_decoded c et a n u hx).mul (val_decoded c et b k q hy))

theorem fltElem_div (hq : q.num ≠ 0) :
    (etFmt c.fmt et).Rounds c.bfz c.mode (n != k) (realOf n u / realOf k q) (c.fltElem .div et a b).1 := by
  have hz : (divV (c.val et a) (c.val et b)).1 = .fin (n != k) (u.div q) := by
    rw [hx, hy]
    simp only [divV, if_neg hq]
  rw [← realOf_div n k hq]
  exact finish_rounds _ _ _ hz ((val_decoded c et a n u hx).div (val_decoded c et b k q hy) hq)

theorem fltElem_div_zero (hf : (etFmt c.fmt et).Ieee) (hq : q.num = 0) : (c.fltElem .div et a b).1 =
    if u.num = 0 then (etFmt c.fmt et).nanCode else (etFmt c.fmt et).signed (n != k) (etFmt c.fmt et).infCode := by
  show (roundVal _ _ _ (divV (c.val et a) (c.val et b)).1).1 = _
  rw [hx, hy]
  by_cases hu : u.num = 0
  · simp only [divV, if_pos hq, if_pos hu, roundVal]
  · simp only [divV, if_pos hq, if_neg hu, roundVal, hf.signed, hf.pol, Bool.not_true, Bool.and_false, Bool.false_eq_true, if_false, if_true]

end

theorem fltElem_nan {op : FOp} (hop : op = .add ∨ op = .sub ∨ op = .mul ∨ op = .div)
    (h : (c.val et a).isNan = true ∨ (c.val et b).isNan = true) : (c.fltElem op et a b).1 = (etFmt c.fmt et).nanCode := by
  rcases hop with rfl | rfl | rfl | rfl
  · exact finish_nan _ _ _ (addV_nan h _)
  · exact finish_nan _ _ _ (addV_nan (by rw [negate_isNan]; exact h) _)
  · exact finish_nan _ _ _ (mulV_nan h)
  · exact finish_nan _ _ _ (divV_nan h)

/-- A code that is no NaN, read and rounded back. -/
theorem roundVal_val (hf : (etFmt c.fmt et).Ieee) {code : Nat} (hcode : code < 2 ^ (etFmt c.fmt et).w)
    (hnan : (c.val et code).isNan = false) {mode : RMode} (hmode : mode.Standard) :
    (roundVal (etFmt c.fmt et) mode c.bfz (c.val et code)).1 = (etFmt c.fmt et).flush c.bfz code := by
  unfold VCmd.val at hnan ⊢
  rw [decodeBfz_eq] at hnan ⊢
  rw [hf.roundVal_valueBfz hmode _ _ (hf.magOf_lt hcode) hnan, hf.signed_magOf hcode]

theorem fltElem_minmax_fst {op : FOp} (hop : op = .min ∨ op = .max) : (c.fltElem op et a b).1 =
    (minmaxTakesB (decide (op = .max)) (c.val et a) (c.val et b)).elim (etFmt c.fmt et).nanCode
      (fun t => (roundVal (etFmt c.fmt et) .rne c.bfz (if t then c.val et b else c.val et a)).1) := by
  have hfst (o : Option Bool) (k : Nat) (g : Flags) (r : Bool → Nat) :
      (match o with
        | none => (k, g)
        | some t => (r t, g)).1 = o.elim k r := by cases o <;> rfl
  rcases hop with rfl | rfl <;> exact hfst ..

/-- VFMIN and VFMAX: a number before a NaN, the lesser or greater number, the zeros by their signs. -/
theorem fltElem_minmax (hf : (etFmt c.fmt et).Ieee) (ha : a < 2 ^ (etFmt c.fmt et).w) (hb : b < 2 ^ (etFmt c.fmt et).w) {op : FOp}
    (hop : op = .min ∨ op = .max) :
    let x := c.val et a
    let y := c.val et b
    let v := (c.fltElem op et a b).1
    let flush (v : Nat) : Nat := (etFmt c.fmt et).flush c.bfz v
    (x.isNan = true → v = if y.isNan then (etFmt c.fmt et).nanCode else flush b) ∧
    (x.isNan = false → y.isNan = true → v = flush a) ∧
    (x.isNan = false → y.isNan = false →
      (numOf x < numOf y → v = flush (if op = .min then a else b)) ∧
      (numOf y < numOf x → v = flush (if op = .min then b else a)) ∧
      (numOf x = numOf y → x.isNeg ≠ y.isNeg → v = if (op = .min) = (x.isNeg = true) then flush a else flush b)) := by
  intro x y v flush
  have hv : v = _ := fltElem_minmax_fst c et hop
  have hra (h : x.isNan = false) : (roundVal (etFmt c.fmt et) .rne c.bfz x).1 = flush a := roundVal_val c et hf ha h trivial
  have hrb (h : y.isNan = false) : (roundVal (etFmt c.fmt et) .rne c.bfz y).1 = flush b := roundVal_val c et hf hb h trivial
  refine ⟨fun hnx => ?_, fun hnx hny => ?_, fun hnx hny => ?_⟩
  · cases hny : y.isNan with
    | true =>
      rw [hv, if_pos rfl]
      simp only [minmaxTakesB, show (c.val et a).isNan = true from hnx, show (c.val et b).isNan = true from hny, Option.elim]
    | false =>
      rw [hv, if_neg Bool.false_ne_true, ← hrb hny]
      simp only [minmaxTakesB, show (c.val et a).isNan = true from hnx, show (c.val et b).isNan = false from hny, Option.elim, if_true]
      rfl
  · rw [hv, ← hra hnx]
    simp only [minmaxTakesB, show (c.val et a).isNan = false from hnx, show (c.val et b).isNan = true from hny, Option.elim,
      Bool.false_eq_true, if_false]
    rfl
  · have htake : v = if (if op = .max then ltV x y || (eqV x y && x.isNeg && !y.isNeg) else ltV y x || (eqV x y && y.isNeg && !x.isNeg))
        then flush b else flush a := by
      rw [hv, ← hra hnx, ← hrb hny]
      simp only [minmaxTakesB, show (c.val et a).isNan = false from hnx, show (c.val et b).isNan = false from hny, Option.elim,
        decide_eq_true_eq]
      split <;> exact apply_ite (fun v => (roundVal (etFmt c.fmt et) .rne c.bfz v).1) ..
    have hx : x.Decoded := val_decoded c et a
    have hy : y.Decoded := val_decoded c et b
    have no {p : Prop} {b : Bool} (hb : b = true ↔ p) (hp : ¬ p) : b = false := (Bool.not_eq_true b).mp (mt hb.mp hp)
    have hlt := ltV_iff hx hy hnx hny
    have hgt := ltV_iff hy hx hny hnx
    have heq := eqV_iff hx hy hnx hny
    refine ⟨fun h => ?_, fun h => ?_, fun h hs => ?_⟩
    · rw [htake, hlt.mpr h, no hgt h.not_gt, no heq h.ne]
      rcases hop with rfl | rfl <;> rfl
    · rw [htake, no hlt h.not_gt, hgt.mpr h, no heq h.ne']
      rcases hop with rfl | rfl <;> rfl
    · rw [htake, no hlt h.not_lt, no hgt h.not_gt, heq.mpr h]
      cases hxs : x.isNeg with
      | true =>
        obtain hys : y.isNeg = false := by rw [hxs] at hs; exact (Bool.not_eq_true _).mp (Ne.symm hs)
        rw [hys]
        rcases hop with rfl | rfl <;> simp
      | false =>
        obtain hys : y.isNeg = true := by rw [hxs] at hs; exact (Bool.not_eq_false _).mp (Ne.symm hs)
        rw [hys]
        rcases hop with rfl | rfl <;> simp

end

end Sys2Proof.Machine
end

section
/-!
SUPPORT. Floating operations of one source (R319), the scale (R322), and the square root, whose 160 bits round as the root itself (R193).
-/
namespace Sys2Proof.Machine
open Sys2Proof.Claims

/-! ### Signs and classes (R319) -/

section
variable (c : VCmd) (et : Nat) {a : Nat}

theorem oneElem_sign_nan {op : EOp} (hop : op = .fabs ∨ op = .fneg ∨ op = .fsqrt) (hnan : (c.val et a).isNan = true) :
    (c.oneElem op et a).1 = (etFmt c.fmt et).nanCode := by
  obtain ⟨s, hs⟩ := FVal.eq_nan_of_isNan hnan
  rcases hop with rfl | rfl | rfl
  · simp only [VCmd.oneElem, hs]
  · simp only [VCmd.oneElem, hs]
  · exact finish_nan _ _ _ (by rw [hs]; rfl)

section
variable (hf : (etFmt c.fmt et).Ieee) (ha : a < 2 ^ (etFmt c.fmt et).w) (hnan : (c.val et a).isNan = false)
include hf ha hnan

/-- A magnitude with either sign, rounded back. -/
theorem roundVal_resigned (neg : Bool) :
    (roundVal (etFmt c.fmt et) .rne c.bfz ((etFmt c.fmt et).valueBfz c.bfz neg ((etFmt c.fmt et).magOf a))).1 =
      (etFmt c.fmt et).flush c.bfz ((etFmt c.fmt et).signed neg (a % 2 ^ ((etFmt c.fmt et).w - 1))) := by
  rw [VCmd.val, decodeBfz_eq] at hnan
  rw [← hf.magOf_eq ha]
  refine hf.roundVal_valueBfz (show RMode.rne.Standard from trivial) c.bfz neg (hf.magOf_lt ha) ?_
  rcases (etFmt c.fmt et).valueBfz_cases c.bfz ((etFmt c.fmt et).magOf a) with ⟨s, h⟩ | h | ⟨x, -, h⟩
  · rw [h] at hnan
    cases hnan
  · rw [h]
    rfl
  · rw [h]
    rfl

omit hf ha in
theorem val_isNeg : (c.val et a).isNeg = (etFmt c.fmt et).negOf a := by
  rw [VCmd.val, decodeBfz_eq] at hnan ⊢
  exact Fmt.valueBfz_isNeg _ _ _ hnan

theorem oneElem_fabs (hw : etWidth c.fmt et = (etFmt c.fmt et).w) :
    (c.oneElem .fabs et a).1 = (etFmt c.fmt et).flush c.bfz (a % 2 ^ (etWidth c.fmt et - 1)) := by
  have hcode : (c.oneElem .fabs et a).1 =
      (roundVal (etFmt c.fmt et) .rne c.bfz (if (c.val et a).isNeg then (c.val et a).negate else c.val et a)).1 := by
    show (match c.val et a with
      | .nan _ => (etFmt c.fmt et).nanCode
      | v => (roundVal (etFmt c.fmt et) .rne c.bfz (if v.isNeg then v.negate else v)).1) = _
    cases h : c.val et a with
    | nan s => rw [h] at hnan; cases hnan
    | inf n => rfl
    | fin n u => rfl
  have hval : (if (c.val et a).isNeg then (c.val et a).negate else c.val et a) =
      (etFmt c.fmt et).valueBfz c.bfz false ((etFmt c.fmt et).magOf a) := by
    rw [val_isNeg c et hnan, VCmd.val, decodeBfz_eq, Fmt.valueBfz_negate]
    cases (etFmt c.fmt et).negOf a <;> rfl
  rw [hcode, hval, hw]
  exact roundVal_resigned c et hf ha hnan false

theorem oneElem_fneg (hw : etWidth c.fmt et = (etFmt c.fmt et).w) : (c.oneElem .fneg et a).1 = (etFmt c.fmt et).flush c.bfz
    (if (c.val et a).isNeg then a % 2 ^ (etWidth c.fmt et - 1) else a + 2 ^ (etWidth c.fmt et - 1)) := by
  have hcode : (c.oneElem .fneg et a).1 = (roundVal (etFmt c.fmt et) .rne c.bfz (c.val et a).negate).1 := by
    show (match c.val et a with
      | .nan _ => (etFmt c.fmt et).nanCode
      | v => (roundVal (etFmt c.fmt et) .rne c.bfz v.negate).1) = _
    cases h : c.val et a with
    | nan s => rw [h] at hnan; cases hnan
    | inf n => rfl
    | fin n u => rfl
  have hsigned := hf.signed_magOf ha
  rw [hf.magOf_eq ha] at hsigned
  rw [hw, hcode, val_isNeg c et hnan, VCmd.val, decodeBfz_eq, Fmt.valueBfz_negate, roundVal_resigned c et hf ha hnan]
  cases hneg : (etFmt c.fmt et).negOf a with
  | true => rfl
  | false =>
    rw [hneg] at hsigned
    have hmag : a % 2 ^ ((etFmt c.fmt et).w - 1) = a := hsigned
    rw [hmag, Fmt.signed, hf.signed]
    rfl

end

end

/-- The class that a bit of VFCLASS names (R319). -/
def ClassIs (f : Fmt) (x : FVal) (k : Nat) : Prop :=
  match k with
  | 0 => x = .inf true
  | 1 => ∃ u, x = .fin true u ∧ (2 : ℚ) ^ f.emin ≤ ratOf u
  | 2 => ∃ u, x = .fin true u ∧ 0 < ratOf u ∧ ratOf u < (2 : ℚ) ^ f.emin
  | 3 => ∃ u, x = .fin true u ∧ ratOf u = 0
  | 4 => ∃ u, x = .fin false u ∧ ratOf u = 0
  | 5 => ∃ u, x = .fin false u ∧ 0 < ratOf u ∧ ratOf u < (2 : ℚ) ^ f.emin
  | 6 => ∃ u, x = .fin false u ∧ (2 : ℚ) ^ f.emin ≤ ratOf u
  | 7 => x = .inf false
  | 8 => x = .nan true
  | _ => x = .nan false

theorem classMask_classIs (f : Fmt) {x : FVal} (hx : x.Decoded) : ∃ k, k < 10 ∧ classMask f x = 2 ^ k ∧ ClassIs f x k := by
  cases x with
  | nan s =>
    cases s
    · exact ⟨9, by decide, rfl, rfl⟩
    · exact ⟨8, by decide, rfl, rfl⟩
  | inf n =>
    cases n
    · exact ⟨7, by decide, rfl, rfl⟩
    · exact ⟨0, by decide, rfl, rfl⟩
  | fin n u =>
    obtain ⟨hden, hnum⟩ := hx n u rfl
    have hnonneg := ratOf_nonneg hnum
    by_cases h0 : u.num = 0
    · have hzero := (ratOf_eq_zero_iff hden).mpr h0
      cases n
      · exact ⟨4, by decide, by simp [classMask, h0], u, rfl, hzero⟩
      · exact ⟨3, by decide, by simp [classMask, h0], u, rfl, hzero⟩
    · obtain ⟨hlo, hhi⟩ := Exact.log2_spec hden h0
      rw [abs_of_nonneg hnonneg] at hlo hhi
      have hpos : 0 < ratOf u := lt_of_le_of_ne hnonneg (Ne.symm (mt (ratOf_eq_zero_iff hden).mp h0))
      by_cases hsub : u.log2 < f.emin
      · have hlt : ratOf u < 2 ^ f.emin := hhi.trans_le (zpow_le_zpow_right₀ (by norm_num) hsub)
        cases n
        · exact ⟨5, by decide, by simp [classMask, h0, hsub], u, rfl, hpos, hlt⟩
        · exact ⟨2, by decide, by simp [classMask, h0, hsub], u, rfl, hpos, hlt⟩
      · have hle : (2 : ℚ) ^ f.emin ≤ ratOf u := (zpow_le_zpow_right₀ (by norm_num) (not_lt.mp hsub)).trans hlo
        cases n
        · exact ⟨6, by decide, by simp [classMask, h0, hsub], u, rfl, hle⟩
        · exact ⟨1, by decide, by simp [classMask, h0, hsub], u, rfl, hle⟩

/-! ### The scale (R322) -/

theorem scaleElem_nan (c : VCmd) (et : Nat) {a k : Nat} (h : k = 255 ∨ (c.val et a).isNan = true) :
    (c.scaleElem et a k).1 = (etFmt c.fmt et).nanCode := by
  unfold VCmd.scaleElem
  by_cases hk : k = 255
  · simp only [if_pos hk]
  · simp only [if_neg hk]
    obtain ⟨s, hs⟩ := FVal.eq_nan_of_isNan (h.resolve_left hk)
    rw [hs]
    rfl

theorem scaleElem_rounds (c : VCmd) (et : Nat) {a k : Nat} (hk : k ≠ 255) {n : Bool} {u : Exact} (h : c.val et a = .fin n u) :
    (etFmt c.fmt et).Rounds c.bfz c.mode n (realOf n u * (2 : ℚ) ^ ((k : Int) - 127)) (c.scaleElem et a k).1 := by
  have hval : realOf n (u.scale ((k : Int) - 127)) = realOf n u * (2 : ℚ) ^ ((k : Int) - 127) := by
    cases n <;> simp [realOf, ratOf_scale]
  unfold VCmd.scaleElem
  simp only [if_neg hk, h, ← hval]
  exact roundVal_rounds _ _ _ n (val_decoded c et a n u h)

/-! ### The square root (R193) -/

theorem isqrtGo_spec {n k r : Nat} (hlo : r * r ≤ n) (hhi : n < (r + 2 ^ k) * (r + 2 ^ k)) :
    isqrtGo n k r * isqrtGo n k r ≤ n ∧ n < (isqrtGo n k r + 1) * (isqrtGo n k r + 1) := by
  induction k generalizing r with
  | zero => exact ⟨hlo, hhi⟩
  | succ k ih =>
    rw [isqrtGo]
    split
    · next h =>
      refine ih h ?_
      rw [Nat.add_assoc, ← Nat.two_mul, Nat.mul_comm 2, ← Nat.pow_succ]
      exact hhi
    · next h => exact ih hlo (Nat.lt_of_not_le h)

theorem isqrt_spec (n : Nat) : isqrt n * isqrt n ≤ n ∧ n < (isqrt n + 1) * (isqrt n + 1) := by
  refine isqrtGo_spec (Nat.zero_le _) ?_
  rw [Nat.zero_add, ← Nat.pow_add]
  exact Nat.lt_log2_self.trans_le (Nat.pow_le_pow_right (by decide) (by omega))

/-- The root of a positive number is found to its whole part in units of `2^-k`, with a half when it is not exact. -/
theorem sqrt_value {a : Exact} (hden : 0 < a.den) (hnum : 0 < a.num) :
    ∃ r : Nat, let k := 160 - a.log2 / 2
      (r : ℚ) ^ 2 ≤ ratOf a * (2 : ℚ) ^ (2 * k) ∧ ratOf a * (2 : ℚ) ^ (2 * k) < ((r : ℚ) + 1) ^ 2 ∧ a.sqrt.Magnitude ∧
      ((r : ℚ) ^ 2 = ratOf a * (2 : ℚ) ^ (2 * k) → ratOf a.sqrt = r * (2 : ℚ) ^ (-k)) ∧
      ((r : ℚ) ^ 2 ≠ ratOf a * (2 : ℚ) ^ (2 * k) → ratOf a.sqrt = (r + 1 / 2) * (2 : ℚ) ^ (-k)) := by
  let k := 160 - a.log2 / 2
  let s := a.exp + 2 * k
  let N := a.num.natAbs * pow2 s
  let D := a.den * pow2 (-s)
  have hD : 0 < D := Nat.mul_pos hden (pow2_pos _)
  have hD' : (0 : ℚ) < D := by exact_mod_cast hD
  have hratio : ratOf a * (2 : ℚ) ^ (2 * k) = (N : ℚ) / D := by
    have h := abs_ratOf_over a (-(2 * k))
    rw [abs_of_nonneg (ratOf_nonneg hnum.le), sub_neg_eq_add] at h
    rw [h, mul_assoc, ← zpow_add₀ two_ne_zero, neg_add_cancel, zpow_zero, mul_one]
  obtain ⟨hlo, hhi⟩ := isqrt_spec (N / D)
  let r := isqrt (N / D)
  have hexact : ((r : ℚ) ^ 2 = ratOf a * (2 : ℚ) ^ (2 * k)) ↔ (r * r = N / D ∧ N % D = 0) := by
    rw [hratio, eq_div_iff hD'.ne']
    constructor
    · intro h
      have h' : N = D * (r * r) := by
        have : (r * r * D : ℕ) = N := by exact_mod_cast (by rw [← h]; push_cast; ring : ((r * r * D : ℕ) : ℚ) = N)
        rw [← this, Nat.mul_comm]
      rw [h', Nat.mul_div_cancel_left _ hD, Nat.mul_mod_right]
      exact ⟨rfl, rfl⟩
    · rintro ⟨h, h'⟩
      have hN : N = r * r * D := by
        have := Nat.div_add_mod N D
        rw [h', ← h, Nat.add_zero, Nat.mul_comm] at this
        exact this.symm
      rw [hN]
      push_cast
      ring
  have hsqrt : a.sqrt = ⟨2 * r + (if decide (r * r = N / D ∧ N % D = 0) then 0 else 1), 1, -k - 1⟩ := rfl
  have hhalf : (2 : ℚ) ^ (-k - 1) = 2 ^ (-k) / 2 := by rw [zpow_sub_one₀ two_ne_zero, div_eq_mul_inv]
  refine ⟨r, ?_, ?_, ?_, fun h => ?_, fun h => ?_⟩
  · rw [hratio, le_div_iff₀ hD']
    have := (Nat.mul_le_mul_right D hlo).trans (Nat.div_mul_le_self N D)
    rw [pow_two]
    exact_mod_cast this
  · rw [hratio, div_lt_iff₀ hD', pow_two]
    have : N < (r + 1) * (r + 1) * D := (Nat.div_lt_iff_lt_mul hD).mp hhi
    exact_mod_cast this
  · rw [hsqrt]
    refine ⟨Nat.one_pos, ?_⟩
    show (0 : Int) ≤ 2 * (r : Int) + (if decide (r * r = N / D ∧ N % D = 0) then 0 else 1)
    split <;> omega
  · rw [hsqrt, if_pos (decide_eq_true (hexact.mp h))]
    simp only [ratOf, hhalf]
    push_cast
    ring
  · rw [hsqrt, if_neg (fun h' => h (hexact.mpr (of_decide_eq_true h')))]
    simp only [ratOf, hhalf]
    push_cast
    ring

/-- Between two neighbouring numbers of a format whose squares hold `a`, the 160-bit root lies as the root itself does. -/
theorem sqrt_between {f : Fmt} (hm : f.m ≤ 160) {a : Exact} (hden : 0 < a.den) (hnum : 0 < a.num) {κ : Nat}
    (hlo : ratOf (f.magnitude κ) ^ 2 ≤ ratOf a) (hhi : ratOf a < ratOf (f.magnitude (κ + 1)) ^ 2) :
    a.sqrt.Magnitude ∧ a.sqrt.num ≠ 0 ∧ ratOf (f.magnitude κ) ≤ ratOf a.sqrt ∧ ratOf a.sqrt < ratOf (f.magnitude (κ + 1)) ∧
      (ratOf (f.magnitude κ) ^ 2 = ratOf a → ratOf a.sqrt = ratOf (f.magnitude κ)) := by
  obtain ⟨r, hr, hr', hmag, hexact, hinexact⟩ := sqrt_value hden hnum
  have hpos : 0 < ratOf a := lt_of_le_of_ne (ratOf_nonneg hnum.le) (Ne.symm (mt (ratOf_eq_zero_iff hden).mp hnum.ne'))
  obtain ⟨j, n, rfl, hj, hn⟩ := f.code_split κ
  rw [Nat.add_assoc, ratOf_magnitude f (hj.imp_right fun h => h.trans (Nat.le_succ n)) hn] at hhi
  rw [Nat.add_assoc, ratOf_magnitude f (hj.imp_right fun h => h.trans (Nat.le_succ n)) hn]
  rw [ratOf_magnitude f hj hn.le] at hlo ⊢
  generalize hk : 160 - a.log2 / 2 = k at hr hr' hexact hinexact
  generalize he : f.emin + j - f.m = e at hlo hhi ⊢
  have hfine : 0 ≤ e + k := by
    have hU : (0 : ℚ) < 2 ^ e := zpow_pos two_pos _
    have htop : ((n + 1 : ℕ) : ℚ) * 2 ^ e ≤ 2 ^ ((f.m : Int) + 1 + e) := by
      rw [zpow_add₀ two_ne_zero]
      refine mul_le_mul_of_nonneg_right ?_ hU.le
      exact_mod_cast hn
    have hsq : (((n + 1 : ℕ) : ℚ) * 2 ^ e) ^ 2 ≤ 2 ^ (((f.m : Int) + 1 + e) * 2) := by
      rw [zpow_mul]
      exact pow_le_pow_left₀ (by positivity) htop 2
    have hlog := (Exact.log2_spec hden hnum.ne').1.trans_lt (by rw [abs_of_pos hpos]; exact hhi.trans_le hsq)
    have hlt := (zpow_lt_zpow_iff_right₀ (by norm_num : (1 : ℚ) < 2)).mp hlog
    omega
  obtain ⟨t, ht⟩ := Int.eq_ofNat_of_zero_le hfine
  have hU : (0 : ℚ) < 2 ^ (-k) := zpow_pos two_pos _
  have hunit (i : Nat) : (i : ℚ) * 2 ^ e = (i * 2 ^ t : Nat) * 2 ^ (-k) := by
    have h : (2 : ℚ) ^ e = 2 ^ t * 2 ^ (-k) := by
      rw [← zpow_natCast, ← zpow_add₀ two_ne_zero]
      congr 1
      omega
    rw [h]
    push_cast
    ring
  have hsquare : (2 : ℚ) ^ (2 * k) * (2 ^ (-k)) ^ 2 = 1 := by
    rw [← zpow_natCast, ← zpow_mul, ← zpow_add₀ two_ne_zero, show 2 * k + -k * ((2 : ℕ) : ℤ) = 0 by push_cast; ring, zpow_zero]
  rw [hunit] at hlo hhi ⊢
  rw [hunit]
  generalize n * 2 ^ t = P at hlo ⊢
  generalize (n + 1) * 2 ^ t = Q at hhi ⊢
  generalize hA : ratOf a * 2 ^ (2 * k) = A at hr hr' hexact hinexact
  have hv : ratOf a = A * (2 ^ (-k)) ^ 2 := by rw [← hA, mul_assoc, hsquare, mul_one]
  have hU2 : (0 : ℚ) < (2 ^ (-k)) ^ 2 := pow_pos hU 2
  have hA0 : 0 < A := by
    rw [hv] at hpos
    exact (mul_pos_iff_of_pos_right hU2).mp hpos
  rw [hv, mul_pow, mul_le_mul_iff_of_pos_right hU2] at hlo
  rw [hv, mul_pow, mul_lt_mul_iff_of_pos_right hU2] at hhi
  have hP : P ≤ r := by
    have h : (P : ℚ) < r + 1 := lt_of_pow_lt_pow_left₀ 2 (by positivity) (hlo.trans_lt hr')
    exact Nat.lt_succ_iff.mp (by exact_mod_cast h)
  have hQ : r + 1 ≤ Q := by
    have h : (r : ℚ) < Q := lt_of_pow_lt_pow_left₀ 2 (by positivity) (hr.trans_lt hhi)
    exact_mod_cast h
  have hPq : (P : ℚ) ≤ r := by exact_mod_cast hP
  have hQq : (r : ℚ) + 1 ≤ Q := by exact_mod_cast hQ
  have hnum0 (h : 0 < ratOf a.sqrt) : a.sqrt.num ≠ 0 := mt (ratOf_eq_zero_iff hmag.1).mpr h.ne'
  refine ⟨hmag, ?_⟩
  by_cases hx : (r : ℚ) ^ 2 = A
  · have hr0 : (0 : ℚ) < r := lt_of_pow_lt_pow_left₀ 2 (by positivity) (by rw [hx]; simpa using hA0)
    rw [hexact hx] at hnum0 ⊢
    refine ⟨hnum0 (mul_pos hr0 hU), mul_le_mul_of_nonneg_right hPq hU.le, mul_lt_mul_of_pos_right (by linarith) hU, fun h => ?_⟩
    rw [hv, mul_pow, ← hx] at h
    rw [(pow_left_inj₀ (by positivity) (by positivity) two_ne_zero).mp (mul_right_cancel₀ hU2.ne' h)]
  · rw [hinexact hx] at hnum0 ⊢
    refine ⟨hnum0 (mul_pos (by positivity) hU), mul_le_mul_of_nonneg_right (by linarith) hU.le,
      mul_lt_mul_of_pos_right (by linarith) hU, fun h => absurd ?_ hx⟩
    rw [hv, mul_pow] at h
    have hPA : (P : ℚ) ^ 2 = A := mul_right_cancel₀ hU2.ne' h
    have hle : (r : ℚ) ≤ P := (pow_le_pow_iff_left₀ (by positivity) (by positivity) two_ne_zero).mp (hr.trans_eq hPA.symm)
    rw [le_antisymm hle hPq, hPA]

/-- The root of a positive number, rounded in a mode that is not stochastic, is a root of the format (R193). -/
theorem roundVal_sqrt {f : Fmt} (hf : f.Ieee) {mode : RMode} (hmode : mode.Standard) {a : Exact} (hden : 0 < a.den) (hnum : 0 < a.num) :
    RootTo f (ratOf a) (roundVal f mode false (.fin false a.sqrt)).1 := by
  intro κ hκ hlo hhi
  obtain ⟨hmag, hne, hle, hlt, hexact⟩ := sqrt_between (by have := hf.trailing.2; omega) hden hnum hlo hhi
  have hcode : (roundVal f mode false (.fin false a.sqrt)).1 = (roundFin f mode false false a.sqrt).1 := by
    simp only [roundVal, if_neg hne, Bool.false_and, Bool.false_eq_true, if_false]
  have habs : |ratOf a.sqrt| = ratOf a.sqrt := abs_of_nonneg (ratOf_nonneg hmag.2)
  refine ⟨?_, fun h => roundVal_exact hf.signed hmode false hmag hκ.le (hexact h)⟩
  obtain ⟨up, hfin, -⟩ := roundFin_between (mode := mode) (neg := false) hmag.1 hne hκ (by rw [habs]; exact hle) (by rw [habs]; exact hlt)
  rw [hcode, hfin]
  cases up
  · exact .inl rfl
  · exact .inr rfl

end Sys2Proof.Machine
end

section
/-!
SUPPORT. The square root of a vector element (R319), and the special functions (R334, R335): what a number that f32 holds gives.
-/
namespace Sys2Proof.Machine
open Sys2Proof.Claims

/-! ### The root of an element -/

/-- Under BFZ a bf16 value other than zero is a normal one. -/
theorem bf16_normal {code : Nat} {n : Bool} {u : Exact} (h : decodeBfz true fmtBf16 code = .fin n u) (h0 : u.num ≠ 0) :
    ratOf (fmtBf16.magnitude (2 ^ 7)) ≤ ratOf u := by
  rw [decodeBfz_eq, Fmt.valueBfz] at h
  rcases fmtBf16.value_cases (fmtBf16.magOf code) with ⟨s, hv⟩ | hv | hv
  · rw [hv] at h
    cases h
  · rw [hv] at h
    cases h
  · rw [hv] at h
    dsimp only at h
    split at h
    · cases h
      exact absurd rfl h0
    · next hsub =>
      cases h
      have hle : 2 ^ 7 ≤ fmtBf16.magOf code := by
        by_contra hlt
        exact hsub (by rw [decide_eq_true rfl, decide_eq_true (not_le.mp hlt)]; rfl)
      exact (ratOf_magnitude_strictMono fmtBf16).monotone hle

/-- The root of a normal bf16 number is not flushed. -/
theorem rootTo_flush {f : Fmt} {bfz : Bool} {v : ℚ} {code : Nat} (h : RootTo f v code)
    (hnormal : bfz = true → f = fmtBf16 → ratOf (fmtBf16.magnitude (2 ^ 7)) ≤ v) : RootTo f v (f.flush bfz code) := by
  intro κ hκ hlo hhi
  have hsame : f.flush bfz code = code := by
    by_cases hb : bfz = true ∧ f = fmtBf16
    · obtain ⟨rfl, rfl⟩ := hb
      have hlow := hnormal rfl rfl
      have hmin : ratOf (fmtBf16.magnitude (2 ^ 7)) = 2 ^ (-126 : Int) := by
        have h := ratOf_magnitude fmtBf16 (j := 0) (n := 2 ^ 7) (.inl rfl) (by decide)
        rw [Nat.zero_mul, Nat.zero_add] at h
        rw [h]
        norm_num [fmtBf16, Fmt.emin]
      have hκ' : 2 ^ 7 ≤ κ := by
        by_contra hlt
        have hle : ratOf (fmtBf16.magnitude (κ + 1)) ≤ ratOf (fmtBf16.magnitude (2 ^ 7)) :=
          (ratOf_magnitude_strictMono fmtBf16).monotone (by omega)
        have hnonneg : 0 ≤ ratOf (fmtBf16.magnitude (κ + 1)) := ratOf_nonneg (fmtBf16.magnitude_magnitude _).2
        have hsq := pow_le_pow_left₀ hnonneg hle 2
        rw [hmin] at hsq hlow
        have hsmall : ((2 : ℚ) ^ (-126 : Int)) ^ 2 < 2 ^ (-126 : Int) := by norm_num
        linarith
      have hmax : fmtBf16.maxCode < 2 ^ 15 := by decide
      refine if_neg fun hc => ?_
      rcases (h κ hκ hlo hhi).1 with rfl | rfl
      · rw [Nat.mod_eq_of_lt (by omega)] at hc
        omega
      · rw [Nat.mod_eq_of_lt (by omega)] at hc
        omega
    · exact if_neg fun hc => hb ⟨hc.1, hc.2.1⟩
  rw [hsame]
  exact h κ hκ hlo hhi

theorem oneElem_fsqrt (c : VCmd) (et : Nat) (hf : (etFmt c.fmt et).Ieee) {a : Nat} {n : Bool} {u : Exact} (h : c.val et a = .fin n u) :
    (u.num = 0 → (c.oneElem .fsqrt et a).1 = (etFmt c.fmt et).signed n 0) ∧
    (u.num ≠ 0 → if n then (c.oneElem .fsqrt et a).1 = (etFmt c.fmt et).nanCode
      else RootTo (etFmt c.fmt et) (ratOf u) (c.oneElem .fsqrt et a).1) := by
  have hcode : (c.oneElem .fsqrt et a).1 = (roundVal (etFmt c.fmt et) c.mode c.bfz (sqrtV (.fin n u)).1).1 := by
    rw [← h]
    rfl
  obtain ⟨hden, hnum⟩ := val_decoded c et a n u h
  rw [hcode]
  refine ⟨fun h0 => by simp only [sqrtV, if_pos h0, roundVal], fun h0 => ?_⟩
  cases n with
  | true => simp only [sqrtV, if_neg h0, if_true, roundVal]
  | false =>
    simp only [sqrtV, if_neg h0, Bool.false_eq_true, if_false]
    rw [roundVal_flush]
    refine rootTo_flush (roundVal_sqrt hf c.mode_standard hden (lt_of_le_of_ne hnum (Ne.symm h0))) fun hb hbf => ?_
    rw [VCmd.val, hb, hbf] at h
    exact bf16_normal h h0

/-! ### The codes of powers of 2 and of small integers -/

theorem Fmt.Ieee.decodeF_signed {f : Fmt} (hf : f.Ieee) (n : Bool) {κ : Nat} (hκ : κ ≤ f.maxCode) :
    decodeF f (f.signed n κ) = .fin n (f.magnitude κ) := by
  have hinf : κ < f.infCode := by rw [hf.infCode_eq]; omega
  have hhalf := hinf.trans hf.infCode_lt
  have hw : 2 ^ f.w = 2 * 2 ^ (f.w - 1) := by rw [hf.width, Nat.add_sub_cancel, Nat.pow_succ, Nat.mul_comm]
  have hsigned : f.signed n κ = if n then κ + 2 ^ (f.w - 1) else κ := by
    rw [Fmt.signed, hf.signed, Bool.and_true]
  have hlt : f.signed n κ < 2 ^ f.w := by
    rw [hsigned, hw]
    split <;> omega
  have hmag : f.magOf (f.signed n κ) = κ := by
    rw [hf.magOf_eq hlt, hsigned]
    split
    · rw [Nat.add_mod_right, Nat.mod_eq_of_lt hhalf]
    · exact Nat.mod_eq_of_lt hhalf
  have hneg : f.negOf (f.signed n κ) = n := by
    rw [Fmt.negOf, hf.signed, Nat.mod_eq_of_lt hlt, hsigned, Bool.true_and]
    cases n
    · rw [if_neg Bool.false_ne_true, Nat.div_eq_of_lt hhalf]
      rfl
    · rw [if_pos rfl, Nat.add_div_right _ (Nat.two_pow_pos _), Nat.div_eq_of_lt hhalf]
      rfl
  rw [decodeF_eq_value, hmag, hneg, hf.value_eq n hhalf, if_pos hinf]

/-- A number that the format holds is rounded to a code that decodes to it. -/
theorem decodeF_roundVal_exact {f : Fmt} (hf : f.Ieee) {mode : RMode} (hmode : mode.Standard) (n : Bool) {x : Exact} (hx : x.Magnitude) {κ : Nat}
    (hκ : κ ≤ f.maxCode) (hval : ratOf x = ratOf (f.magnitude κ)) :
    ∃ q, decodeF f (roundVal f mode false (.fin n x)).1 = .fin n q ∧ ratOf q = ratOf x := by
  rw [roundVal_exact hf.signed hmode n hx hκ hval, hf.decodeF_signed n hκ]
  exact ⟨_, rfl, hval.symm⟩

theorem f32_two_pow {k : Int} (hlo : -149 ≤ k) (hhi : k ≤ 127) : ∃ κ, κ ≤ fmtF32.maxCode ∧ ratOf (fmtF32.magnitude κ) = 2 ^ k := by
  have hmax : fmtF32.maxCode = 254 * 2 ^ 23 + (2 ^ 23 - 1) := rfl
  rcases lt_or_ge k (-126) with h | h
  · obtain ⟨i, hi⟩ := Int.eq_ofNat_of_zero_le (by omega : 0 ≤ k + 149)
    have hi' : i ≤ 23 := by omega
    refine ⟨0 * 2 ^ fmtF32.m + 2 ^ i, ?_, ?_⟩
    · have : 2 ^ i ≤ 2 ^ 23 := Nat.pow_le_pow_right (by decide) hi'
      rw [Nat.zero_mul, Nat.zero_add, hmax]
      omega
    · rw [ratOf_magnitude fmtF32 (.inl rfl) (Nat.pow_le_pow_right (by decide) (by show i ≤ 24; omega))]
      push_cast
      rw [← zpow_natCast, ← zpow_add₀ two_ne_zero]
      congr 1
      simp only [Fmt.emin, fmtF32]
      omega
  · obtain ⟨j, hj⟩ := Int.eq_ofNat_of_zero_le (by omega : 0 ≤ k + 126)
    refine ⟨j * 2 ^ fmtF32.m + 2 ^ fmtF32.m, ?_, ?_⟩
    · rw [hmax]
      show j * 2 ^ 23 + 2 ^ 23 ≤ _
      omega
    · rw [ratOf_magnitude fmtF32 (.inr (le_refl _)) (Nat.pow_le_pow_right (by decide) (Nat.le_succ _))]
      push_cast
      rw [← zpow_natCast, ← zpow_add₀ two_ne_zero]
      congr 1
      simp only [Fmt.emin, fmtF32]
      omega

theorem f32_natCast {N : Nat} (h : N < 2 ^ 24) : ∃ κ, κ ≤ fmtF32.maxCode ∧ ratOf (fmtF32.magnitude κ) = N := by
  have hmax : fmtF32.maxCode = 254 * 2 ^ 23 + (2 ^ 23 - 1) := rfl
  by_cases h0 : N = 0
  · exact ⟨0, Nat.zero_le _, by rw [ratOf_magnitude_zero, h0, Nat.cast_zero]⟩
  let t := Nat.log2 N
  have ht : t < 24 := (Nat.log2_lt h0).mpr h
  have hlo : 2 ^ t ≤ N := Nat.log2_self_le h0
  have hhi : N < 2 ^ (t + 1) := Nat.lt_log2_self
  have hsplit : 2 ^ t * 2 ^ (23 - t) = 2 ^ 23 := by rw [← Nat.pow_add, Nat.add_sub_cancel' (by omega)]
  have hn : 2 ^ fmtF32.m ≤ N * 2 ^ (23 - t) := by
    show 2 ^ 23 ≤ _
    rw [← hsplit]
    exact Nat.mul_le_mul_right _ hlo
  have hn' : N * 2 ^ (23 - t) < 2 ^ (fmtF32.m + 1) := by
    have : 2 ^ (t + 1) * 2 ^ (23 - t) = 2 ^ 24 := by rw [Nat.pow_succ, Nat.mul_right_comm, hsplit, ← Nat.pow_succ]
    show _ < 2 ^ 24
    rw [← this]
    exact Nat.mul_lt_mul_of_pos_right hhi (Nat.two_pow_pos _)
  refine ⟨(t + 126) * 2 ^ fmtF32.m + N * 2 ^ (23 - t), ?_, ?_⟩
  · have hn'' : N * 2 ^ (23 - t) < 2 ^ 24 := hn'
    show (t + 126) * 2 ^ 23 + _ ≤ _
    omega
  · rw [ratOf_magnitude fmtF32 (.inr hn) hn'.le]
    push_cast
    rw [mul_assoc, ← zpow_natCast, ← zpow_add₀ two_ne_zero]
    have he : ((23 - t : ℕ) : ℤ) + (fmtF32.emin + ((t : ℤ) + 126) - (fmtF32.m : ℤ)) = 0 := by
      simp only [Fmt.emin, fmtF32]
      omega
    rw [he, zpow_zero, mul_one]

/-! ### Floors and logarithms of exact numbers -/

theorem floor_of_int {a : Exact} (hden : 0 < a.den) {k : Int} (h : ratOf a = k) : a.floor = k := by
  have hD : 0 < a.den * pow2 (-a.exp) := Nat.mul_pos hden (pow2_pos _)
  have hq : (a.num * pow2 a.exp : ℚ) = k * (a.den * pow2 (-a.exp) : ℕ) := by
    have hA : (a.den : ℚ) ≠ 0 := by exact_mod_cast hden.ne'
    have hp : (pow2 (-a.exp) : ℚ) ≠ 0 := by exact_mod_cast (pow2_pos _).ne'
    rw [← h, ratOf, ← pow2_div_pow2_neg]
    push_cast
    field_simp
  have hz : a.num * pow2 a.exp = k * ((a.den * pow2 (-a.exp) : ℕ) : Int) := by exact_mod_cast hq
  rw [Exact.floor, hz]
  exact Int.mul_ediv_cancel _ (by exact_mod_cast hD.ne')

theorem log2_of_two_pow {a : Exact} (hden : 0 < a.den) {k : Int} (h : ratOf a = 2 ^ k) : a.log2 = k := by
  have hnum : a.num ≠ 0 := by
    intro h0
    rw [(ratOf_eq_zero_iff hden).mpr h0] at h
    exact (zpow_ne_zero k two_ne_zero) h.symm
  obtain ⟨hlo, hhi⟩ := Exact.log2_spec hden hnum
  have hk : |ratOf a| = 2 ^ k := by rw [h, abs_of_pos (zpow_pos two_pos _)]
  rw [hk] at hlo hhi
  have h₁ := (zpow_le_zpow_iff_right₀ (by norm_num : (1 : ℚ) < 2)).mp hlo
  have h₂ := (zpow_lt_zpow_iff_right₀ (by norm_num : (1 : ℚ) < 2)).mp hhi
  omega

theorem ratOf_ofInt (i : Int) : ratOf (Exact.ofInt i) = i := by simp [ratOf, Exact.ofInt]

end Sys2Proof.Machine
end

section
/-!
SUPPORT. The special functions on f32 (R334, R335).
-/
namespace Sys2Proof.Machine
open Sys2Proof.Claims

/-- The special function that a one-source operation computes. -/
def EOp.special : EOp → Option SpecFn
  | .rcp => some .rcp
  | .rsqrt => some .rsqrt
  | .exp2 => some .exp2
  | .log2 => some .log2
  | .sin => some .sin
  | .cos => some .cos
  | _ => none

theorem oneElem_special (c : VCmd) (et : Nat) (a : Nat) {op : EOp} {fn : SpecFn} (h : op.special = some fn) :
    c.oneElem op et a = specialF32 fn a := by
  cases op <;> cases h <;> rfl

section
variable {a : Nat} {n : Bool} {u : Exact} (hx : decodeF fmtF32 a = .fin n u)
include hx

theorem specialF32_rcp (h0 : u.num ≠ 0) : RoundsTo fmtF32 .rne n (1 / realOf n u) (specialF32 .rcp a).1 := by
  obtain ⟨hden, hnum⟩ := decodeF_magnitude hx
  have hone : (Exact.ofInt 1).Magnitude := ⟨Nat.one_pos, by decide⟩
  have hval : realOf n ((Exact.ofInt 1).div u) = 1 / realOf n u := by
    have h := realOf_div false n (x := Exact.ofInt 1) h0
    rw [show (false != n) = n by cases n <;> rfl] at h
    rw [h, realOf, if_neg Bool.false_ne_true, ratOf_ofInt, Int.cast_one]
  have hmag := hone.div ⟨hden, hnum⟩ h0
  simp only [specialF32, hx, if_neg h0]
  rw [← hval]
  exact roundVal_roundsTo fmtF32 .rne n hmag.1 hmag.2

theorem specialF32_rsqrt (h0 : u.num ≠ 0) (hn : n = false) : RootTo fmtF32 (1 / ratOf u) (specialF32 .rsqrt a).1 := by
  obtain ⟨hden, hnum⟩ := decodeF_magnitude hx
  have hval : ratOf ((Exact.ofInt 1).div u) = 1 / ratOf u := by rw [ratOf_div h0, ratOf_ofInt, Int.cast_one]
  have hdiv : 0 < ((Exact.ofInt 1).div u).den ∧ 0 < ((Exact.ofInt 1).div u).num := by
    refine ⟨Nat.mul_pos Nat.one_pos (Int.natAbs_pos.mpr h0), ?_⟩
    simp only [Exact.div, Exact.ofInt, if_neg (not_lt.mpr hnum), one_mul, mul_one]
    exact_mod_cast hden
  simp only [specialF32, hx, if_neg h0, hn, Bool.false_eq_true, if_false]
  rw [← hval]
  exact roundVal_sqrt fmtF32_ieee (mode := .rne) trivial hdiv.1 hdiv.2

theorem specialF32_beyond (h : 2 ^ 24 ≤ ratOf u) : (specialF32 .sin a).1 = 0x7FFFFFFF ∧ (specialF32 .cos a).1 = 0x7FFFFFFF := by
  obtain ⟨hden, hnum⟩ := decodeF_magnitude hx
  have h0 : u.num ≠ 0 := by
    intro h0
    rw [(ratOf_eq_zero_iff hden).mpr h0] at h
    norm_num at h
  obtain ⟨-, hhi⟩ := Exact.log2_spec hden h0
  rw [abs_of_nonneg (ratOf_nonneg hnum)] at hhi
  have hlog : u.log2 ≥ 24 := by
    have hlt : (2 : ℚ) ^ (24 : Int) < 2 ^ (u.log2 + 1) := lt_of_le_of_lt (by exact_mod_cast h) hhi
    have := (zpow_lt_zpow_iff_right₀ (by norm_num : (1 : ℚ) < 2)).mp hlt
    omega
  have hbeyond : beyondRange (.fin n u) = true := by
    simp only [beyondRange, decide_eq_true h0, decide_eq_true hlog, Bool.and_self]
  simp only [specialF32, hx, if_neg h0, hbeyond, if_true, and_self]

/-- An integer exponent gives its power of 2 (R335). -/
theorem specialF32_exp2 (h0 : u.num ≠ 0) {k : Int} (hk : realOf n u = k) (hlo : -149 ≤ k) (hhi : k ≤ 127) :
    ∃ q, decodeF fmtF32 (specialF32 .exp2 a).1 = .fin false q ∧ ratOf q = 2 ^ k := by
  obtain ⟨hden, hnum⟩ := decodeF_magnitude hx
  have hsden : 0 < (signedOf n u).den := by rw [signedOf_den]; exact hden
  have hfloor : (signedOf n u).floor = k := floor_of_int hsden (by rw [ratOf_signedOf, hk])
  have hfrac : ((signedOf n u).add (Exact.ofInt (-k))).num = 0 := by
    refine (ratOf_eq_zero_iff (Nat.mul_pos hsden Nat.one_pos)).mp ?_
    rw [ratOf_add hsden Nat.one_pos, ratOf_signedOf, hk, ratOf_ofInt, Int.cast_neg, add_neg_cancel]
  have hexp : exp2V n u = .fin false ⟨1, 1, k⟩ := by
    simp only [exp2V, hfloor, hfrac, if_true]
    rw [if_neg (by omega), if_neg (by omega)]
  have hval : ratOf ⟨1, 1, k⟩ = 2 ^ k := by simp [ratOf]
  obtain ⟨κ, hκ, hκval⟩ := f32_two_pow hlo hhi
  obtain ⟨q, hq, hqval⟩ := decodeF_roundVal_exact fmtF32_ieee (mode := .rne) trivial false (x := ⟨1, 1, k⟩) ⟨Nat.one_pos, Int.one_nonneg⟩ hκ
    (hval.trans hκval.symm)
  refine ⟨q, ?_, hqval.trans hval⟩
  simp only [specialF32, hx, if_neg h0, hexp]
  exact hq

/-- Numbers of f32 other than zero lie between 2^-149 and 2^128. -/
theorem f32_exponent_bounds {k : Int} (hk : ratOf u = 2 ^ k) : -149 ≤ k ∧ k < 128 := by
  obtain ⟨-, rfl⟩ := decodeF_fin hx
  have hlt : fmtF32.magOf a < fmtF32.infCode := by
    by_contra h
    have hmag : fmtF32.magOf a < 2 ^ (fmtF32.w - 1) := Nat.mod_lt _ (Nat.two_pow_pos 31)
    rw [decodeF_eq_value, fmtF32_ieee.value_eq _ hmag, if_neg h] at hx
    split at hx <;> cases hx
  have hinf : ratOf (fmtF32.magnitude fmtF32.infCode) = 2 ^ (128 : Int) := by
    have h := ratOf_magnitude fmtF32 (j := 254) (n := 2 ^ 23) (.inr (le_refl _)) (by decide)
    rw [show fmtF32.infCode = 254 * 2 ^ fmtF32.m + 2 ^ 23 from rfl, h]
    norm_num [Fmt.emin, fmtF32]
  have hone : ratOf (fmtF32.magnitude 1) = 2 ^ (-149 : Int) := by
    have h := ratOf_magnitude fmtF32 (j := 0) (n := 1) (.inl rfl) (by decide)
    rw [Nat.zero_mul, Nat.zero_add] at h
    rw [h]
    norm_num [Fmt.emin, fmtF32]
  have hpos : 1 ≤ fmtF32.magOf a := by
    by_contra h
    have hz : fmtF32.magOf a = 0 := by omega
    rw [hz, ratOf_magnitude_zero] at hk
    exact zpow_ne_zero k two_ne_zero hk.symm
  have h₁ := (ratOf_magnitude_strictMono fmtF32).monotone hpos
  have h₂ := ratOf_magnitude_strictMono fmtF32 hlt
  dsimp only at h₁ h₂
  rw [hk] at h₁ h₂
  rw [hone] at h₁
  rw [hinf] at h₂
  exact ⟨(zpow_le_zpow_iff_right₀ (by norm_num)).mp h₁, (zpow_lt_zpow_iff_right₀ (by norm_num)).mp h₂⟩

/-- A power of 2 gives its exponent (R335). -/
theorem specialF32_log2 (hn : n = false) {k : Int} (hk : ratOf u = 2 ^ k) :
    ∃ m q, decodeF fmtF32 (specialF32 .log2 a).1 = .fin m q ∧ realOf m q = k := by
  obtain ⟨hden, -⟩ := decodeF_magnitude hx
  obtain ⟨hlo, hhi⟩ := f32_exponent_bounds hx hk
  have h0 : u.num ≠ 0 := by
    intro h0
    rw [(ratOf_eq_zero_iff hden).mpr h0] at hk
    exact zpow_ne_zero k two_ne_zero hk.symm
  have hlog : u.log2 = k := log2_of_two_pow hden hk
  have hone : (u.scale (-k)).eqv ⟨1, 1, 0⟩ = true := by
    refine decide_eq_true ((ratOf_eq_zero_iff (Nat.mul_pos hden Nat.one_pos)).mp ?_)
    rw [ratOf_add (a := u.scale (-k)) (b := Exact.neg ⟨1, 1, 0⟩) hden Nat.one_pos, ratOf_neg, ratOf_scale, hk, ← zpow_add₀ two_ne_zero, add_neg_cancel]
    norm_num [ratOf]
  have hlogV : log2V u = finOf false (Exact.ofInt k) := by simp only [log2V, hlog, hone, if_true]
  obtain ⟨m, y, hy, hmag, hval, -⟩ := finOf_value false (x := Exact.ofInt k) Nat.one_pos
  rw [ratOf_ofInt] at hval
  have habs : ratOf y = (k.natAbs : ℕ) := by
    rw [← abs_of_nonneg (ratOf_nonneg hmag.2), ← abs_realOf m, hval, Nat.cast_natAbs, Int.cast_abs]
  obtain ⟨κ, hκ, hκval⟩ := f32_natCast (N := k.natAbs) (by omega)
  obtain ⟨q, hq, hqval⟩ := decodeF_roundVal_exact fmtF32_ieee (mode := .rne) trivial m hmag hκ (habs.trans hκval.symm)
  refine ⟨m, q, ?_, ?_⟩
  · simp only [specialF32, hx, if_neg h0, hn, Bool.false_eq_true, if_false, hlogV, hy]
    exact hq
  · rw [← hval, realOf, realOf, hqval]

/-- The code of a zero is its sign. -/
theorem f32_zero_code (ha : a < 2 ^ 32) (h0 : u.num = 0) : a = fmtF32.signed n 0 := by
  obtain ⟨rfl, rfl⟩ := decodeF_fin hx
  have hz : fmtF32.magOf a = 0 := by
    by_contra hne
    have hlt := ratOf_magnitude_strictMono fmtF32 (Nat.pos_of_ne_zero hne)
    exact hlt.ne ((ratOf_magnitude_zero fmtF32).trans ((ratOf_eq_zero_iff (fmtF32.magnitude_magnitude _).1).mpr h0).symm)
  have hsigned := fmtF32_ieee.signed_magOf ha
  rw [hz] at hsigned
  exact hsigned.symm

end

end Sys2Proof.Machine
end

section
/-!
SUPPORT. The cases of the special functions (R335), the fixed tree of VFREDSUM (R318), and conversions (R203, R320, R321).
-/
namespace Sys2Proof.Machine
open Sys2Proof.Claims

/-! ### The special functions, case by case (R335) -/

section
variable (c : VCmd) {op : EOp} {a : Nat}

theorem oneElem_special_nan (hop : op = .rcp ∨ op = .rsqrt ∨ op = .exp2 ∨ op = .log2 ∨ op = .sin ∨ op = .cos)
    (hnan : (decodeF fmtF32 a).isNan = true) : (c.oneElem op 10 a).1 = 0x7FC00000 := by
  obtain ⟨s, hs⟩ := FVal.eq_nan_of_isNan hnan
  obtain ⟨fn, hfn⟩ : ∃ fn, op.special = some fn := by
    rcases hop with rfl | rfl | rfl | rfl | rfl | rfl <;> exact ⟨_, rfl⟩
  rw [oneElem_special c 10 a hfn]
  simp only [specialF32, hs]

theorem oneElem_special_inf {s : Bool} (hx : decodeF fmtF32 a = .inf s) :
    let v := (c.oneElem op 10 a).1
    (op = .rcp → v = fmtF32.signed s 0) ∧
    (op = .rsqrt ∨ op = .log2 → s = true → v = 0x7FC00000) ∧
    (op = .rsqrt → s = false → v = 0) ∧ (op = .log2 ∨ op = .exp2 → s = false → v = 0x7F800000) ∧
    (op = .exp2 → s = true → v = 0) ∧ (op = .sin ∨ op = .cos → v = 0x7FFFFFFF) := by
  refine ⟨?_, ?_, ?_, ?_, ?_, ?_⟩
  · rintro rfl
    simp only [VCmd.oneElem, specialF32, hx]
  · rintro (rfl | rfl) rfl <;> simp only [VCmd.oneElem, specialF32, hx, if_true]
  · rintro rfl rfl
    simp only [VCmd.oneElem, specialF32, hx, Bool.false_eq_true, if_false]
  · rintro (rfl | rfl) rfl <;> simp only [VCmd.oneElem, specialF32, hx, Bool.false_eq_true, if_false]
  · rintro rfl rfl
    simp only [VCmd.oneElem, specialF32, hx, if_true]
  · rintro (rfl | rfl) <;> simp only [VCmd.oneElem, specialF32, hx]

theorem oneElem_special_zero {s : Bool} {u : Exact} (ha : a < 2 ^ 32) (hx : decodeF fmtF32 a = .fin s u) (h0 : u.num = 0) :
    let v := (c.oneElem op 10 a).1
    (op = .rcp ∨ op = .rsqrt → v = fmtF32.signed s 0x7F800000) ∧ (op = .exp2 ∨ op = .cos → v = 0x3F800000) ∧
    (op = .log2 → v = 0xFF800000) ∧ (op = .sin → v = fmtF32.signed s 0) := by
  refine ⟨?_, ?_, ?_, ?_⟩
  · rintro (rfl | rfl) <;> simp only [VCmd.oneElem, specialF32, hx, if_pos h0]
  · rintro (rfl | rfl) <;> simp only [VCmd.oneElem, specialF32, hx, if_pos h0]
  · rintro rfl
    simp only [VCmd.oneElem, specialF32, hx, if_pos h0]
  · rintro rfl
    rw [← f32_zero_code hx ha h0]
    simp only [VCmd.oneElem, specialF32, hx, if_pos h0]

theorem oneElem_special_finite {s : Bool} {u : Exact} (hx : decodeF fmtF32 a = .fin s u) (h0 : u.num ≠ 0) :
    let v := (c.oneElem op 10 a).1
    (op = .rcp → RoundsTo fmtF32 .rne s (1 / realOf s u) v) ∧
    (op = .rsqrt ∨ op = .log2 → s = true → v = 0x7FC00000) ∧
    (op = .rsqrt → s = false → RootTo fmtF32 (1 / ratOf u) v) ∧
    (op = .sin ∨ op = .cos → 2 ^ 24 ≤ ratOf u → v = 0x7FFFFFFF) ∧
    (op = .exp2 → ∀ k : Int, realOf s u = k → -149 ≤ k → k ≤ 127 → ∃ q, decodeF fmtF32 v = .fin false q ∧ ratOf q = (2 : ℚ) ^ k) ∧
    (op = .log2 → s = false → ∀ k : Int, ratOf u = (2 : ℚ) ^ k → ∃ n q, decodeF fmtF32 v = .fin n q ∧ realOf n q = k) := by
  refine ⟨?_, ?_, ?_, ?_, ?_, ?_⟩
  · rintro rfl
    exact specialF32_rcp hx h0
  · rintro (rfl | rfl) rfl <;> simp only [VCmd.oneElem, specialF32, hx, if_neg h0, if_true]
  · rintro rfl hs
    exact specialF32_rsqrt hx h0 hs
  · rintro (rfl | rfl) hbig
    · exact (specialF32_beyond hx hbig).1
    · exact (specialF32_beyond hx hbig).2
  · rintro rfl k hk hlo hhi
    exact specialF32_exp2 hx h0 hk hlo hhi
  · rintro rfl hs k hk
    exact specialF32_log2 hx hs hk

end

/-! ### The fixed tree (R318) -/

theorem fixedTree_succ (add : Nat → Nat → Nat) (leaf : Nat → Option Nat) (n i : Nat) :
    fixedTree add leaf (n + 1) i = fixedTree add (fixedTree add leaf 1) n i := by
  induction n generalizing i with
  | zero => rfl
  | succ n ih =>
    rw [fixedTree, ih, ih]
    rfl

/-- The codes of two leaves, added as the tree adds them. -/
theorem joinLeaves_fst (add : Nat → Nat → Nat × Flags) (leaf : Nat → Option Nat) (i : Nat) :
    (joinLeaves add (leaf (2 * i)) (leaf (2 * i + 1))).1 = fixedTree (fun x y => (add x y).1) leaf 1 i := by
  simp only [fixedTree]
  cases leaf (2 * i) <;> cases leaf (2 * i + 1) <;> rfl

theorem pairSums_fst (add : Nat → Nat → Nat × Flags) (leaf : Nat → Option Nat) (i m : Nat) :
    (pairSums add ((List.range' (2 * i) (2 * m)).map leaf)).1 = (List.range' i m).map (fixedTree (fun x y => (add x y).1) leaf 1) := by
  induction m generalizing i with
  | zero => rfl
  | succ m ih =>
    have h := ih (i + 1)
    rw [Nat.mul_succ, List.range'_succ, List.range'_succ, List.range'_succ, List.map_cons, List.map_cons, List.map_cons, pairSums,
      ← joinLeaves_fst]
    exact congrArg _ h

/-- The model's sum of neighbouring pairs, level by level, is the fixed tree. -/
theorem treeSum_fst (add : Nat → Nat → Nat × Flags) (leaf : Nat → Option Nat) (n i : Nat) :
    (treeSum add n ((List.range' (i * 2 ^ n) (2 ^ n)).map leaf)).1 = fixedTree (fun x y => (add x y).1) leaf n i := by
  induction n generalizing leaf with
  | zero =>
    rw [Nat.pow_zero, Nat.mul_one]
    rfl
  | succ n ih =>
    rw [fixedTree_succ, ← ih, Nat.pow_succ, Nat.mul_comm (2 ^ n), Nat.mul_left_comm, treeSum]
    dsimp only
    rw [pairSums_fst]

/-- A tree with an active leaf has a sum. -/
theorem fixedTree_isSome {add : Nat → Nat → Nat} {leaf : Nat → Option Nat} {n i e : Nat} (hlo : i * 2 ^ n ≤ e) (hhi : e < (i + 1) * 2 ^ n)
    (h : (leaf e).isSome = true) : ∃ t, fixedTree add leaf n i = some t := by
  induction n generalizing i with
  | zero =>
    obtain rfl : e = i := by
      rw [Nat.pow_zero, Nat.mul_one] at hlo hhi
      omega
    exact Option.isSome_iff_exists.mp h
  | succ n ih =>
    have hsplit (k : Nat) : k * 2 ^ (n + 1) = 2 * k * 2 ^ n := by rw [Nat.pow_succ]; ring
    rw [hsplit] at hlo hhi
    rw [fixedTree]
    rcases Nat.lt_or_ge e ((2 * i + 1) * 2 ^ n) with hleft | hright
    · obtain ⟨t, ht⟩ := ih hlo hleft
      rw [ht]
      cases fixedTree add leaf n (2 * i + 1) with
      | none => exact ⟨t, rfl⟩
      | some y => exact ⟨add t y, rfl⟩
    · obtain ⟨t, ht⟩ := ih hright (by rw [show 2 * i + 1 + 1 = 2 * (i + 1) by ring]; exact hhi)
      rw [ht]
      cases fixedTree add leaf n (2 * i) with
      | none => exact ⟨t, rfl⟩
      | some x => exact ⟨add x t, rfl⟩

/-- VFREDSUM: element 0 and the tree's sum, where an element is active. -/
theorem reduce_fsum (c : VCmd) {et : Nat} (a : Hart) (p d n : Nat) {j : Nat} (hj : 2 ^ j * etWidth c.fmt et = 1024 * c.g) (hvl : c.vl ≤ 2 ^ j)
    (hactive : ∃ e, e < c.vl ∧ a.pbit p e = true) :
    let add (x y : Nat) : Nat := (c.fltElem .add et x y).1
    let leaf (e : Nat) : Option Nat := if e < c.vl ∧ a.pbit p e = true then some (a.elem n (etWidth c.fmt et) e) else none
    ∃ t, fixedTree add leaf j 0 = some t ∧ (c.reduce .fsum et a p d n).1 = add (a.elem d (etWidth c.fmt et) 0) t := by
  intro add leaf
  obtain ⟨e, he, hp⟩ := hactive
  obtain ⟨t, ht⟩ : ∃ t, fixedTree add leaf j 0 = some t := by
    refine fixedTree_isSome (e := e) (by omega) (by omega) ?_
    simp only [leaf, if_pos (And.intro he hp), Option.isSome_some]
  have hn : 1024 * c.g / etWidth c.fmt et = 2 ^ j := by rw [← hj, Nat.mul_div_cancel _ (etWidth_pos c.fmt et)]
  have hleaf : (fun e => if decide (e < c.vl) && a.pbit p e then some (a.elem n (etWidth c.fmt et) e) else none) = leaf := by
    funext e
    simp only [leaf, Bool.and_eq_true, decide_eq_true_eq]
  have htree := treeSum_fst (fun x y => c.fltElem .add et x y) leaf j 0
  rw [Nat.zero_mul, ← List.range_eq_range', ht] at htree
  refine ⟨t, ht, ?_⟩
  simp only [VCmd.reduce, hn, Nat.log2_two_pow, hleaf, htree]
  rfl

/-! ### Conversions (R203, R320, R321) -/

/-- An integer beyond every range is held at the range's end. -/
theorem clamp_beyond {w : Nat} (hw : w ≤ 64) (sg : Bool) : clamp sg w (2 ^ 64) = (intRange sg w).2 ∧ clamp sg w (-(2 ^ 64)) = (intRange sg w).1 := by
  have hle := intRange_le sg w
  have hpow {k : Nat} (hk : k ≤ 64) : (2 : Int) ^ k ≤ 2 ^ 64 := pow_le_pow_right₀ (by norm_num) hk
  have h₁ := hpow hw
  have h₂ := hpow (by omega : w - 1 ≤ 64)
  have hend : -(2 ^ 64 : Int) ≤ (intRange sg w).1 ∧ (intRange sg w).2 ≤ 2 ^ 64 := by
    rw [intRange_eq]
    cases sg
    · constructor
      · show -(2 ^ 64 : Int) ≤ 0
        omega
      · show (2 : Int) ^ w - 1 ≤ 2 ^ 64
        omega
    · constructor
      · show -(2 ^ 64 : Int) ≤ -(2 ^ (w - 1))
        omega
      · show (2 : Int) ^ (w - 1) - 1 ≤ 2 ^ 64
        omega
  rw [clamp_eq, clamp_eq]
  omega

section
variable (c : VCmd) {et ets : Nat} (mode : RMode) {a : Nat}

/-- The code of an integer held within the destination's range. -/
def VCmd.held (c : VCmd) (et : Nat) (i : Int) : Nat :=
  (BitVec.ofInt (etWidth c.fmt et) (clamp (decide (et < 4)) (etWidth c.fmt et) i)).toNat

theorem cvtElem_int_int (hs : ets < 8) (hd : et < 8) : (c.cvtElem et ets mode a).1 =
    c.held et (asInt (decide (ets < 4)) (BitVec.ofNat (etWidth c.fmt ets) a)) := by
  rw [← intOf_eq_asInt]
  simp only [VCmd.cvtElem, etInt, decide_eq_true hs, decide_eq_true hd, if_true, satInt_eq]
  rfl

theorem cvtElem_int_float (hs : ets < 8) (hd : 8 ≤ et) : (etFmt c.fmt et).Rounds c.bfz mode false
    (asInt (decide (ets < 4)) (BitVec.ofNat (etWidth c.fmt ets) a) : Int) (c.cvtElem et ets mode a).1 := by
  obtain ⟨n, x, hx, hmag, hval, hsign⟩ := intV_value (asInt (decide (ets < 4)) (BitVec.ofNat (etWidth c.fmt ets) a))
  have hcode : (c.cvtElem et ets mode a).1 = (roundVal (etFmt c.fmt et) mode c.bfz (.fin n x)).1 := by
    rw [← hx, ← intOf_eq_asInt]
    simp only [VCmd.cvtElem, etInt, decide_eq_true hs, decide_eq_false (not_lt.mpr hd), if_true, Bool.false_eq_true, if_false]
    rfl
  obtain ⟨r, hr, hflush⟩ := roundVal_rounds (etFmt c.fmt et) mode c.bfz n hmag
  rw [hval] at hr
  exact ⟨r, roundsTo_sign hr fun h => hsign (by exact_mod_cast h), hcode.trans hflush⟩

theorem cvtElem_float_int (hs : 8 ≤ ets) (hd : et < 8) :
    (∀ s u, c.val ets a = .fin s u → ∃ j, IntRounds mode s (realOf s u) j ∧ (c.cvtElem et ets mode a).1 = c.held et j) ∧
    (∀ s, c.val ets a = .inf s → (c.cvtElem et ets mode a).1 = c.held et (if s then -(2 ^ 64) else 2 ^ 64)) ∧
    ((c.val ets a).isNan = true → (c.cvtElem et ets mode a).1 = c.held et (2 ^ 64)) := by
  have hcode : (c.cvtElem et ets mode a).1 = codeOf (etWidth c.fmt et)
      (toIntV mode (intRange (etSigned et) (etWidth c.fmt et)).1 (intRange (etSigned et) (etWidth c.fmt et)).2 (c.val ets a)).1 := by
    simp only [VCmd.cvtElem, etInt, decide_eq_false (not_lt.mpr hs), decide_eq_true hd, if_true, Bool.false_eq_true, if_false]
  have hw : etWidth c.fmt et ≤ 64 := by
    have hpow : 2 ^ (et % 4) ≤ 2 ^ 3 := Nat.pow_le_pow_right (by decide) (by omega)
    rw [etWidth_int hd]
    omega
  obtain ⟨htop, hbottom⟩ := clamp_beyond hw (etSigned et)
  refine ⟨fun s u hx => ⟨roundInt mode s u, ?_, ?_⟩, fun s hx => ?_, fun hnan => ?_⟩
  · exact roundInt_rounds mode s (val_decoded c ets a s u hx)
  · rw [hcode, hx, toIntV_fin (intRange_le _ _), ← clamp_eq]
    rfl
  · rw [hcode, hx]
    cases s
    · exact congrArg (codeOf _) htop.symm
    · exact congrArg (codeOf _) hbottom.symm
  · obtain ⟨s, hs'⟩ := FVal.eq_nan_of_isNan hnan
    rw [hcode, hs']
    exact congrArg (codeOf _) htop.symm

theorem cvtElem_float_float (hs : 8 ≤ ets) (hd : 8 ≤ et) :
    (∀ s u, c.val ets a = .fin s u → (etFmt c.fmt et).Rounds c.bfz mode s (realOf s u) (c.cvtElem et ets mode a).1) ∧
    ((c.val ets a).isNan = true → (c.cvtElem et ets mode a).1 = (etFmt c.fmt et).nanCode) := by
  have hcode : (c.cvtElem et ets mode a).1 = (roundVal (etFmt c.fmt et) mode c.bfz (c.val ets a)).1 := by
    simp only [VCmd.cvtElem, etInt, decide_eq_false (not_lt.mpr hs), decide_eq_false (not_lt.mpr hd), Bool.false_eq_true, if_false]
  rw [hcode]
  refine ⟨fun s u hx => ?_, fun hnan => ?_⟩
  · rw [hx]
    exact roundVal_rounds _ mode c.bfz s (val_decoded c ets a s u hx)
  · obtain ⟨s, hs'⟩ := FVal.eq_nan_of_isNan hnan
    rw [hs']
    rfl

end

end Sys2Proof.Machine
end

section
/-!
SUPPORT. The steps that execute floating commands and conversions (R314, R318 to R322).
-/
namespace Sys2Proof.Machine
open Sys2Proof.Claims

theorem elem_lt_format (c : VCmd) {et : Nat} (h : 8 ≤ et) (h' : et < 12) (a : Hart) (n e : Nat) :
    a.elem n (etWidth c.fmt et) e < 2 ^ (etFmt c.fmt et).w := by
  rw [← (etFmt_ieee c.fmt h h').2]
  exact elem_lt a n _ e

/-- What an operation of two sources computes of finite numbers (R193, R319). -/
theorem fltElem_finite (c : VCmd) (et : Nat) (hf : (etFmt c.fmt et).Ieee) {op : FOp} {a b : Nat} {n k : Bool} {u q : Exact}
    (hx : c.val et a = .fin n u) (hy : c.val et b = .fin k q) :
    let f := etFmt c.fmt et
    let v := (c.fltElem op et a b).1
    let zero (i j : Bool) : Bool := if i = j then i else decide (c.mode = .rdn)
    match op with
    | .add => f.Rounds c.bfz c.mode (zero n k) (realOf n u + realOf k q) v
    | .sub => f.Rounds c.bfz c.mode (zero n !k) (realOf n u - realOf k q) v
    | .mul => f.Rounds c.bfz c.mode (n != k) (realOf n u * realOf k q) v
    | .div => (q.num ≠ 0 → f.Rounds c.bfz c.mode (n != k) (realOf n u / realOf k q) v) ∧
      (q.num = 0 → v = if u.num = 0 then f.nanCode else f.signed (n != k) f.infCode)
    | _ => True := by
  cases op with
  | add => exact fltElem_add c et hx hy
  | sub => exact fltElem_sub c et hx hy
  | mul => exact fltElem_mul c et hx hy
  | div => exact ⟨fltElem_div c et hx hy, fltElem_div_zero c et hx hy hf⟩
  | min => trivial
  | max => trivial

/-- What an operation of one source computes (R319). -/
theorem oneElem_results (c : VCmd) (et : Nat) (hf : (etFmt c.fmt et).Ieee) (hw : etWidth c.fmt et = (etFmt c.fmt et).w) {op : EOp} {a : Nat}
    (ha : a < 2 ^ (etFmt c.fmt et).w) :
    let f := etFmt c.fmt et
    let w := etWidth c.fmt et
    let x := c.val et a
    let v := (c.oneElem op et a).1
    (op = .fabs ∨ op = .fneg ∨ op = .fsqrt → x.isNan = true → v = f.nanCode) ∧
    (op = .fabs → x.isNan = false → v = f.flush c.bfz (a % 2 ^ (w - 1))) ∧
    (op = .fneg → x.isNan = false → v = f.flush c.bfz (if x.isNeg then a % 2 ^ (w - 1) else a + 2 ^ (w - 1))) ∧
    (op = .fsqrt → ∀ s u, x = .fin s u →
      (u.num = 0 → v = f.signed s 0) ∧ (u.num ≠ 0 → if s then v = f.nanCode else RootTo f (ratOf u) v)) ∧
    (op = .fclass → ∃ k, k < 10 ∧ v = 2 ^ k ∧ ClassIs f x k) := by
  refine ⟨oneElem_sign_nan c et, ?_, ?_, ?_, ?_⟩
  · rintro rfl hnan
    exact oneElem_fabs c et hf ha hnan hw
  · rintro rfl hnan
    exact oneElem_fneg c et hf ha hnan hw
  · rintro rfl s u hx
    exact oneElem_fsqrt c et hf hx
  · rintro rfl
    exact classMask_classIs _ (val_decoded c et a)

section
variable {s : State} {c : VCmd} {l : List VCmd} (hc : Clears s c l)
include hc

/-- A floating operation of two sources (R319). -/
theorem exec_flt {op : FOp} {et p d : Nat} {src : VSrc} (hop : c.op = .flt op et p d src)
    (hvl : c.vl * etWidth c.fmt et ≤ 1024 * c.g) (hd : d + c.g ≤ 32) {a : Hart} (ha : a = s.hart s.ev.h) :
    ∃ t, exec .vectorQueueExecute s = .next t ∧ OnlyVectors s t l ∧ Elements a (t.hart s.ev.h) d c.g (etWidth c.fmt et) (c.Active a p)
      (fun e => BitVec.ofNat _ (c.fltElem op et (a.elem d (etWidth c.fmt et) e) (src.code a (etWidth c.fmt et) e)).1) := by
  subst ha
  refine exec_computes hc (by rw [hop]; trivial) (f := fun e => c.fltElem op et ((s.hart s.ev.h).elem d (etWidth c.fmt et) e)
    (src.code (s.hart s.ev.h) (etWidth c.fmt et) e)) ?_ (etWidth_divides c.fmt et) hvl hd
  simp only [VCmd.run, hop]
  cases src <;> rfl

/-- A scale (R322). -/
theorem exec_scale {et p d n : Nat} (hop : c.op = .scale et p d n) (hvl : c.vl * etWidth c.fmt et ≤ 1024 * c.g) (hd : d + c.g ≤ 32)
    {a : Hart} (ha : a = s.hart s.ev.h) :
    ∃ t, exec .vectorQueueExecute s = .next t ∧ OnlyVectors s t l ∧ Elements a (t.hart s.ev.h) d c.g (etWidth c.fmt et) (c.Active a p)
      (fun e => BitVec.ofNat _ (c.scaleElem et (a.elem d (etWidth c.fmt et) e) (a.elem n 8 (e / 32))).1) := by
  subst ha
  exact exec_computes hc (by rw [hop]; trivial) (by simp only [VCmd.run, hop]; rfl) (etWidth_divides c.fmt et) hvl hd

/-- The mode of a conversion of element `e`. -/
def VCmd.cvtMode (c : VCmd) (sr : Bool) (seed : Word) (base e : Nat) : RMode := if sr then .sr (srBits seed base e) else c.mode

/-- A conversion (R320, R321). -/
theorem exec_cvt {et ets p d n base g : Nat} {sr : Bool} {seed : Word} (hop : c.op = .cvt et ets p d n sr seed base)
    (hvl : c.vl * etWidth c.fmt et ≤ 1024 * g) (hd : d + g ≤ 32) {a : Hart} (ha : a = s.hart s.ev.h) :
    ∃ t, exec .vectorQueueExecute s = .next t ∧ OnlyVectors s t l ∧ Elements a (t.hart s.ev.h) d g (etWidth c.fmt et) (c.Active a p)
      (fun e => BitVec.ofNat _ (c.cvtElem et ets (c.cvtMode sr seed base e) (a.elem n (etWidth c.fmt ets) e)).1) := by
  subst ha
  exact exec_computes hc (by rw [hop]; trivial) (by simp only [VCmd.run, hop]; rfl) (etWidth_divides c.fmt et) hvl hd

/-- A floating compare (R314). -/
theorem exec_cmpFlt {cc et p d n : Nat} (hop : c.op = .cmp cc et p d (.reg n)) (het : 8 ≤ et) (hcc : cc < 6) {a : Hart}
    (ha : a = s.hart s.ev.h) :
    ∃ v g, exec .vectorQueueExecute s = .next (s.setHart s.ev.h (((a.popped l).setP p v).orVFlags g)) ∧ ∀ e, e < 2048 →
      (v.getLsbD e = true ↔ e < c.vl ∧ ((e < c.eix ∧ a.pbit p e = true) ∨ (c.eix ≤ e ∧
        FloatCompares cc (c.val et (a.elem d (etWidth c.fmt et) e)) (c.val et (a.elem n (etWidth c.fmt et) e))))) := by
  subst ha
  let a := s.hart s.ev.h
  let holds (e : Nat) : Bool := (cmpFlt cc (c.val et (a.elem d (etWidth c.fmt et) e)) (c.val et (a.elem n (etWidth c.fmt et) e))).1
  obtain ⟨g, hrun⟩ : ∃ g, c.run (a.popped l) =
      ((a.popped l).setP p (bitsUpTo c.vl (fun e => if e < c.eix then a.pbit p e else holds e))).orVFlags g := by
    simp only [VCmd.run, hop, etInt, decide_eq_false (not_lt.mpr het), Bool.false_eq_true, if_false, VSrc.code]
    exact ⟨_, rfl⟩
  refine ⟨bitsUpTo c.vl (fun e => if e < c.eix then a.pbit p e else holds e), g, ?_, fun e he => ?_⟩
  · rw [exec_onRegisters hc (by rw [hop]; trivial), hrun]
  · rw [bitsUpTo_iff _ _ he, ← cmpFlt_iff hcc (val_decoded c et _) (val_decoded c et _)]
    refine and_congr_right fun _ => ?_
    by_cases hlt : e < c.eix
    · simp [hlt, Nat.not_le.mpr hlt, a]
    · simp [hlt, Nat.not_lt.mp hlt, holds, a]

/-- VFREDSUM with an active element (R318). -/
theorem exec_fsum {et p d n : Nat} (hop : c.op = .red .fsum et p d n) (hd : d < 32) {a : Hart} (ha : a = s.hart s.ev.h)
    (hactive : ∃ e, e < c.vl ∧ a.pbit p e = true) :
    ∃ t, exec .vectorQueueExecute s = .next t ∧ OnlyVectors s t l ∧ Elements a (t.hart s.ev.h) d 1 (etWidth c.fmt et) (fun e => e = 0)
      (fun _ => BitVec.ofNat _ (c.reduce .fsum et a p d n).1) := by
  subst ha
  obtain ⟨e, he, hp⟩ := hactive
  have hne : c.wholes (s.hart s.ev.h) p ≠ [] := List.ne_nil_of_mem (mem_wholes.mpr ⟨he, hp⟩)
  have hrun := run_red hop ((s.hart s.ev.h).popped l)
  rw [if_neg (show c.wholes ((s.hart s.ev.h).popped l) p ≠ [] from hne)] at hrun
  obtain ⟨t, hexec, honly, -, helems⟩ := exec_setElem hc (by rw [hop]; trivial) hrun (etWidth_divides c.fmt et) (etWidth_fits c.fmt et)
    (by omega)
  exact ⟨t, hexec, honly, helems⟩

/-- VFREDSUM without one. -/
theorem exec_fsum_empty {et p d n : Nat} (hop : c.op = .red .fsum et p d n)
    (hnone : ∀ e, e < c.vl → (s.hart s.ev.h).pbit p e = false) :
    exec .vectorQueueExecute s = .next (s.setHart s.ev.h ((s.hart s.ev.h).popped l)) := by
  have hnil : c.wholes ((s.hart s.ev.h).popped l) p = [] := by
    refine List.eq_nil_iff_forall_not_mem.mpr fun e he => ?_
    obtain ⟨hvl, hp⟩ := mem_wholes.mp he
    exact Bool.false_ne_true ((hnone e hvl).symm.trans hp)
  rw [exec_onRegisters hc (by rw [hop]; trivial), run_red hop, if_pos hnil]

end

end Sys2Proof.Machine
end

section
/-!
O30. What executed vector commands write: each clause from the step that executes its operation and from the codes that the operation
computes.
-/
namespace Sys2Proof.Machine
open Sys2Proof.Claims

/-- Settles O30: a command on its hart's own registers is one write of the elements that it computes, whose codes are the results of R311 to
R335; of the roundings each is the one of `roundVal`, flushed under BFZ. -/
theorem vectorResults : Obligations.VectorResults := by
  unfold Obligations.VectorResults
  refine ⟨?_, ?_, ?_, ?_, ?_, ?_⟩
  · intro s c l op et p d src hc hop het w sg a act code bi sum clamped hvl hd
    cases src with
    | reg n => exact exec_int hc hop het hvl hd rfl rfl rfl Iff.rfl
    | scalar v => exact exec_int hc hop het hvl hd rfl rfl rfl Iff.rfl
    | imm i => exact exec_int hc hop het hvl hd rfl rfl rfl Iff.rfl
  · intro writes s c l hc a act whole
    have own {o : VOp} (hop : c.op = o) (ho : o.OnRegisters) : c.op.OnRegisters := hop ▸ ho
    refine ⟨?_, ?_, ?_, ?_, ?_, ?_, ?_, ?_, ?_, ?_⟩
    · intro et p d n hop
      exact exec_movesActive hc (own hop trivial) (by simp only [VCmd.run, hop]; rfl) (fun e => rfl)
    · intro et p d v hop
      exact exec_movesActive hc (own hop trivial) (by simp only [VCmd.run, hop]; rfl) (fun e => ofNat_toNat_mod v)
    · intro et p d n hop
      exact exec_moves hc (own hop trivial) (by simp only [VCmd.run, hop]; rfl) (fun e he => (mem_actives.mp he).2.1)
        (nodup_actives c a 0) (fun e => mem_actives_zero.symm) (fun e => apply_ite ..)
    · intro et p d k hop
      exact exec_movesWhole hc (own hop trivial) (on := fun e => k ≤ e) (by simp only [VCmd.run, hop]; rfl) (fun e => rfl)
    · intro et p d k hop
      exact exec_movesAll hc (own hop trivial) (by simp only [VCmd.run, hop]; rfl) (fun e => apply_ite ..)
    · intro et p d v hop
      exact exec_movesAll hc (own hop trivial) (by simp only [VCmd.run, hop]; rfl)
        (fun e => by rw [apply_ite (BitVec.ofNat _), ofNat_toNat_mod]; rfl)
    · intro et p d k hop
      exact exec_movesWhole hc (own hop trivial) (on := fun e => e ^^^ k < c.vl) (by simp only [VCmd.run, hop]; rfl) (fun e => rfl)
    · intro et p d n hop
      exact exec_movesAll hc (own hop trivial) (by simp only [VCmd.run, hop]; rfl) (fun e => apply_ite ..)
    · intro et p d n hop
      exact exec_movesAll hc (own hop trivial) (by simp only [VCmd.run, hop]; rfl) (fun e => rfl)
    · intro et p d n hop picked hvl hd
      exact exec_compress hc hop hvl hd rfl
  · intro s c l hc _ h a popped first
    have own {o : VOp} (hop : c.op = o) (ho : o.OnRegisters) : c.op.OnRegisters := hop ▸ ho
    refine ⟨?_, ?_, ?_, ?_, ?_, ?_, ?_, ?_⟩
    · intro op pd pa pb hop
      obtain ⟨v, hexec, hv⟩ := exec_pred hc hop rfl
      refine ⟨_, v, hexec, rfl, fun e he => ?_⟩
      cases op <;> exact hv e he
    · intro pd x hop
      refine ⟨_, _, exec_onRegisters hc (own hop trivial), by simp only [VCmd.run, hop]; rfl, fun e he => ?_⟩
      rw [bitsUpTo_iff _ _ he, decide_eq_true_eq]
    · intro xd pa hop
      exact ⟨c.first a pa, first_spec c a pa, (exec_onRegisters hc (own hop trivial)).trans (by simp only [VCmd.run, hop]; rfl)⟩
    · intro xd pa hop
      rw [List.countP_eq_length_filter, exec_onRegisters hc (own hop trivial)]
      simp only [VCmd.run, hop]
      rfl
    · intro cc et p d n hop het hcc x y holds
      obtain ⟨v, hexec, hv⟩ := exec_cmpInt hc hop het (etWidth_int het).symm rfl
      refine ⟨_, v, hexec, rfl, fun e he => (hv e he).trans ?_⟩
      rw [cmpInt_iff hcc]
      exact Iff.rfl
    · intro et p d n hop het hd w els
      obtain ⟨t, hexec, honly, hflags, helems⟩ := exec_reduce hc hop (by decide) hd (etWidth_int het).symm rfl
      refine ⟨t, hexec, honly, hflags, ?_⟩
      rw [reduce_sum _ _ _ _ _ _ (etWidth_int het).symm] at helems
      exact helems
    · intro et xd n i hop het v
      rw [exec_onRegisters hc (own hop trivial), run_mvx hop (etWidth_int het).symm]
      rfl
    · intro toCopy hop q n hroom hheld
      exact exec_push hc hop rfl hroom hheld
  · intro s c l hc a act gives
    have own {o : VOp} (hop : c.op = o) (ho : o.OnRegisters) : c.op.OnRegisters := hop ▸ ho
    refine ⟨?_, ?_, ?_, ?_, ?_, ?_, ?_⟩
    · intro et p d x y hop het w hvl hd
      obtain ⟨t, hexec, honly, helems⟩ := exec_mac hc hop (etWidth_int het).symm hvl hd rfl
      exact ⟨t, _, hexec, honly, helems, fun e _ => rfl⟩
    · intro op et p d x y hop hwide het w product hvl hd
      obtain ⟨t, hexec, honly, helems⟩ := exec_wide hc hop hwide (etWidth_int het).symm hvl hd rfl
      exact ⟨t, _, hexec, honly, helems, fun e _ => rfl⟩
    · intro et p d n hop het w hvl hd
      obtain ⟨t, hexec, honly, helems⟩ := exec_one hc hop (etWidth_int het).symm hvl hd rfl
      exact ⟨t, _, hexec, honly, helems, fun e _ => clz_code c (etWidth_int het).symm a n e⟩
    · intro et p d n hop het w hvl hd
      obtain ⟨t, hexec, honly, helems⟩ := exec_one hc hop (etWidth_int het).symm hvl hd rfl
      exact ⟨t, _, hexec, honly, helems, fun e _ => popc_code c (etWidth_int het).symm a n e⟩
    · intro op et p d n hop hminmax het hd w of among
      obtain ⟨t, hexec, honly, -, helems⟩ := exec_reduce hc hop (by rintro rfl; simp at hminmax) hd (etWidth_int het).symm rfl
      exact ⟨t, _, hexec, honly, helems, fun e _ => reduce_minmax hminmax c et a p d n (etWidth_int het).symm⟩
    · intro et d v i g hop hi hd
      obtain ⟨t, hexec, honly, -, helems⟩ := exec_setElem hc (own hop trivial)
        (by simp only [VCmd.run, hop]; exact (orVFlags_zero _).symm) (etWidth_divides c.fmt et) hi hd
      exact ⟨t, _, hexec, honly, helems, fun e _ => ofNat_toNat_mod v⟩
    · intro d n g hop hd
      obtain ⟨hwrote, hflags, hvv⟩ := wroteGroup_copy (a.popped l) n hd (le_refl g)
      obtain ⟨t, hexec, honly, hhart⟩ := exec_wroteGroup hc (own hop trivial) (by simp only [VCmd.run, hop]; rfl) hwrote
      obtain ⟨-, hout, hpm⟩ := hwrote
      refine ⟨t, hexec, honly, ?_⟩
      rw [hhart]
      exact ⟨hflags, hvv, hout, hpm⟩
  · intro s c l et p d hc h8 a w f act flush rounds gives
    refine ⟨?_, ?_, ?_, ?_, ?_, ?_, ?_⟩
    · intro op src hop h12 himm hvl hd code
      obtain ⟨hf, hw⟩ := etFmt_ieee c.fmt h8 h12
      obtain ⟨t, hexec, honly, helems⟩ := exec_flt hc hop hvl hd rfl
      refine ⟨t, _, hexec, honly, helems, fun e _ => ?_⟩
      have hb : code e < 2 ^ f.w := by
        cases src with
        | reg m => exact elem_lt_format c h8 h12 a m e
        | scalar v => exact hw ▸ Nat.mod_lt _ (Nat.two_pow_pos w)
        | imm i => exact absurd rfl (himm i)
      have hcode : src.code a w e = code e := by
        cases src with
        | reg m => rfl
        | scalar v => rfl
        | imm i => exact absurd rfl (himm i)
      rw [hcode]
      exact ⟨fun n u k q hx hy => fltElem_finite c et hf hx hy, fltElem_nan c et,
        fltElem_minmax c et hf (elem_lt_format c h8 h12 a d e) hb⟩
    · intro op n hop h12 hvl hd
      obtain ⟨hf, hw⟩ := etFmt_ieee c.fmt h8 h12
      obtain ⟨t, hexec, honly, helems⟩ := exec_one hc hop rfl hvl hd rfl
      exact ⟨t, _, hexec, honly, helems, fun e _ => oneElem_results c et hf hw (elem_lt_format c h8 h12 a n e)⟩
    · intro op n hop het hvl hd
      obtain ⟨t, hexec, honly, helems⟩ := exec_one hc hop rfl hvl hd rfl
      exact ⟨t, _, hexec, honly, helems, fun e _ => ⟨oneElem_special_nan c, fun _ hx => oneElem_special_inf c hx,
        fun _ _ hx h0 => oneElem_special_zero c (elem_lt a n 32 e) hx h0, fun _ _ hx h0 => oneElem_special_finite c hx h0⟩⟩
    · intro cc n hop h12 hcc _ x y nan holds
      obtain ⟨v, g, hexec, hv⟩ := exec_cmpFlt hc hop h8 hcc rfl
      exact ⟨_, v, g, hexec, rfl, hv⟩
    · intro n hop h12 hvl hd
      obtain ⟨t, hexec, honly, helems⟩ := exec_scale hc hop hvl hd rfl
      exact ⟨t, _, hexec, honly, helems, fun e _ => ⟨scaleElem_nan c et, fun hk s u hx => scaleElem_rounds c et hk hx⟩⟩
    · intro n j hop h12 hd hj hvl hactive add leaf
      obtain ⟨t, hexec, honly, helems⟩ := exec_fsum hc hop hd rfl hactive
      exact ⟨t, _, hexec, honly, helems, fun e _ => reduce_fsum c a p d n hj hvl hactive⟩
    · intro n hop hnone
      exact exec_fsum_empty hc hop hnone
  · intro s c l et from_ p d n sr seed base hc hop a wd ws f act mode flush rounds held g hvl hd
    obtain ⟨t, hexec, honly, helems⟩ := exec_cvt hc hop hvl hd rfl
    exact ⟨t, _, hexec, honly, helems, fun e _ => ⟨cvtElem_int_int c _, cvtElem_int_float c _, cvtElem_float_int c _,
      cvtElem_float_float c _⟩⟩
end Sys2Proof.Machine
end
